-- ==== Sys2Proof/Word.lean ====
section
/-! DEFINITION. The word and byte types of the model and their plainest readings. -/

namespace Sys2Proof

/-- A 64-bit word: the width of a register, a scalar register and a host word. -/
abbrev Word := BitVec 64

/-- One byte. -/
abbrev Byte := BitVec 8

/-- A string of bytes in ascending address order. -/
abbrev Bytes := List (BitVec 8)

end Sys2Proof
end

