-- ==== Sys2Proof/Syntax.lean ====
section
/-! DEFINITION. The commands of the AN3100: one constructor per row of spec/opcode_table.json, and the operand types they carry. -/

namespace Sys2Proof

/-- Core number 0-127: cluster × 16 + position in the chain (Table 07-1). -/
abbrev CoreIx := Fin 128
/-- One of the two PCI Express ports. -/
abbrev PortIx := Fin 2
/-- Function of a port: 0 the PF, 1-127 a VF (R367). -/
abbrev FnIx := Fin 128
abbrev RingIx := Fin 4096
abbrev StreamIx := Fin 512
abbrev LinkIx := Fin 36
abbrev ChanIx := Fin 4096

/-- Format R of Table 07-2: `rsv` holds bits [63:28]. -/
structure RFmt where
  d : BitVec 5
  a : BitVec 5
  b : BitVec 5
  c : BitVec 5
  rsv : BitVec 36
deriving DecidableEq, Repr

/-- Format I of Table 07-2: `rsv` holds bits [31:23]. -/
structure IFmt where
  d : BitVec 5
  a : BitVec 5
  b : BitVec 5
  rsv : BitVec 9
  imm : BitVec 32
deriving DecidableEq, Repr

/-- Format B of Table 07-2: `d` and `rsv` ([31:18]) are reserved. -/
structure BFmt where
  d : BitVec 5
  a : BitVec 5
  rsv : BitVec 14
  off : BitVec 32
deriving DecidableEq, Repr

/-- Format X of Table 07-2. -/
structure XFmt where
  d : BitVec 5
  a : BitVec 5
  b : BitVec 5
  c : BitVec 5
  sub : BitVec 4
  imm : BitVec 32
deriving DecidableEq, Repr

/-- Format M of Table 07-2. -/
structure MFmt where
  tile : BitVec 6
  h : BitVec 5
  s : BitVec 5
  k : BitVec 5
  rsvLo : BitVec 3
  rowsM1 : BitVec 5
  colsM1 : BitVec 6
  kM1 : BitVec 6
  fpair : BitVec 4
  begins : Bool
  transpose : Bool
  tc : BitVec 5
  rsvHi : BitVec 4
deriving DecidableEq, Repr

/-- Why a host read or atomic failed (R383). -/
inductive HostErr where
  | unsupportedRequest
  | completerAbort
  | poisoned
  | timeout
deriving DecidableEq, Repr

/-- What a host read of the device brings: the bytes that came, and the failure that cut it short. -/
structure HostAns where
  data : Bytes
  err : Option HostErr
deriving DecidableEq, Repr

/-- What a translation of the host says of its pages: they may be read, they may be written, and the page of the host
that the first one translates to (R378, R380). -/
structure XlatAns where
  read : Bool
  write : Bool
  base : Nat
deriving DecidableEq, Repr

/-- A port whose link has trained: the rate by its place in Table 12-1 from the lowest, the lanes, and flit mode. -/
structure Trained where
  port : PortIx
  rate : Fin 6
  lanes : Nat
  flit : Bool
deriving DecidableEq, Repr

/-- A doorbell write: the function that makes it, the page and slot it addresses in that function's
BAR2, and its size in bytes (R370, R398). -/
structure DoorAddr where
  port : PortIx
  fn : FnIx
  page : Fin 64
  slot : Fin 64
  size : Nat
deriving DecidableEq, Repr

/-- A directory entry: of a table (kind 0, with a version) or of a graph (1 vertex, 2 neighbour, 3 prefix). -/
structure EntryRef where
  kind : Fin 4
  id : BitVec 16
  version : Bool
  index : Nat
deriving DecidableEq, Repr

/-- A recoverable function (Table 14-6) with the unit concerned: ring, cluster, Sifter, hub, tier,
link or port number. -/
structure FnUnit where
  fn : Fin 8
  unit : Nat
deriving DecidableEq, Repr

/-- Where an uncorrectable SRAM error was found (Table 14-1). -/
inductive SramPlace where
  /-- A word of a core's structures: a machine check. -/
  | coreWord (c : CoreIx) (addr : Nat)
  /-- A word of a core's accumulator or wide buffer, in a tile A0 to A63 or a slot W0 to W15. -/
  | coreTile (c : CoreIx) (n : Fin 64)
  | coreSlot (c : CoreIx) (n : Fin 16)
  /-- An entry of its side memory, or a word of its registers and context banks. -/
  | coreSide (c : CoreIx) (n : Fin 8192)
  | coreReg (c : CoreIx) (n : Nat)
  /-- State of a function: rung 2 of it. -/
  | function (u : FnUnit)
  /-- A Sifter's queue, coalescer, store or sort area: the unit it holds is poisoned. -/
  | sifterStore (s : Fin 10) (addr : Nat)
deriving DecidableEq, Repr

/-- What a port reports and nothing writes: its capabilities (Table 12-1), those it does not have (Table 12-2), and
the words of its VPD. -/
inductive CfgCap where
  | linkSpeeds
  | linkWidth
  | maxPayload
  | tagBits
  | totalVFs
  | pasidBits
  | pasidExecute
  | pasidPrivileged
  | msixEntries
  | interruptPin
  | msi
  | tphRequester
  | stTable
  | atomicRequester
  | atomicCompleter
  | timeoutRanges
  | flr
  | noSoftReset
  | pmeSupport
  | aspmSupport
  | resizableBar
  | aer
  | ats
  | pri
  | doe
  | relaxedOrdering
  | idOrdering
  | maxReadRequest
  /-- The rate, width and mode that the link has trained to. -/
  | trainedRate
  | trainedWidth
  | flitMode
  /-- L0p, L1 PM substates, LTR, OBFF, PTM, IDE, ECRC, Multicast, ACS and peer-to-peer, by their place in Table 12-2. -/
  | absent (row : Fin 10)
  | vpdCode
  | vpdSerial
  | vpdRevision
  | vpdTier2
deriving DecidableEq, Repr

/-- Fields of a function's configuration space that the device's behaviour depends on (Table 12-1). -/
inductive CfgField where
  | tagBits
  | tphRequesterEnable
  | pasidEnable
  | completionTimeout
  | cap (c : CfgCap)
  | busMasterEnable
  | relaxedOrderingEnable
  | idoRequestEnable
  | atomicOpRequesterEnable
  | atsEnable
  | priEnable
  | outstandingPageRequestAllocation
  | msixEnable
  | vectorMask (v : Nat)
  | vfEnable
  | numVFs
  | powerState
  | mps
  | mrrs
  | bar4Log2
  | other (off : Nat)
deriving DecidableEq, Repr

/-- A configuration request: a read, or a write of one field. -/
inductive CfgReq where
  | read (f : CfgField)
  | write (f : CfgField) (v : Nat)
deriving DecidableEq, Repr

/-- How a host answers a page request (R380, R383). -/
inductive PageAns where
  | success
  | invalidRequest
  | responseFailure
deriving DecidableEq, Repr

/-- The bus a management command comes on, and whether its packet error check passed (R498). -/
structure MgXfer where
  i3c : Bool
  pecOk : Bool
deriving DecidableEq, Repr

/-- Who opened a firmware session: a PF or the management interface (R468). -/
inductive FwOwner where
  | pf (p : PortIx)
  | mgmt
deriving DecidableEq, Repr

/-- Where a firmware command comes from. A PF's mailbox runs it to its end: the one its `MBOX_CMD` was given before, or
one given with this command. A transfer of the management interface begins it only, or runs it to its end (R487, R498). -/
inductive Requester where
  | pf (p : PortIx)
  | mgmt (x : MgXfer) (ends : Bool)
deriving DecidableEq, Repr

def Requester.owner : Requester → FwOwner
  | .pf p => .pf p
  | .mgmt _ _ => .mgmt

/-- An SPDM responder: the DOE mailbox of a PF or the management interface (R466). -/
inductive Responder where
  | doe (p : PortIx)
  | mgmt
deriving DecidableEq, Repr

/-- An SPDM request: its responder, whether its packet error check passed (R498), the attribute or hash type among its
parameters, and its bytes that no other operand gives. -/
structure SpdmReq where
  who : Responder
  pecOk : Bool := true
  attr : Byte := 0
  rest : Bytes := []
deriving DecidableEq, Repr

/-- A place of a function's registers: an offset of BAR0, or of its doorbell pages in BAR2 (R370). -/
structure BarAt where
  doors : Bool
  off : Nat
deriving DecidableEq, Repr

/-- A read of such a place: the function whose BAR it is, and the bytes asked (R12). -/
structure BarRead extends BarAt where
  fn : FnIx
  size : Nat
deriving DecidableEq, Repr

/-- The result of a start-up stage for the units it brings up: the units that failed, by number. -/
abbrev Failed := List Nat

/-- The commands: every row of the operations table, with its operands. -/
inductive Instr where
  -- core instructions (chapter 07): the core that issues, and the instruction's fields
  | nop (c : CoreIx) (f : RFmt)
  | add (c : CoreIx) (f : RFmt)
  | sub (c : CoreIx) (f : RFmt)
  | mul (c : CoreIx) (f : RFmt)
  | mulhu (c : CoreIx) (f : RFmt)
  | and (c : CoreIx) (f : RFmt)
  | or (c : CoreIx) (f : RFmt)
  | xor (c : CoreIx) (f : RFmt)
  | shl (c : CoreIx) (f : RFmt)
  | shr (c : CoreIx) (f : RFmt)
  | sar (c : CoreIx) (f : RFmt)
  | slt (c : CoreIx) (f : RFmt)
  | sltu (c : CoreIx) (f : RFmt)
  | seq (c : CoreIx) (f : RFmt)
  | min (c : CoreIx) (f : RFmt)
  | max (c : CoreIx) (f : RFmt)
  | addi (c : CoreIx) (f : IFmt)
  | andi (c : CoreIx) (f : IFmt)
  | ori (c : CoreIx) (f : IFmt)
  | shli (c : CoreIx) (f : IFmt)
  | shri (c : CoreIx) (f : IFmt)
  | li (c : CoreIx) (f : IFmt)
  | lih (c : CoreIx) (f : IFmt)
  | sfadd (c : CoreIx) (f : RFmt)
  | sfsub (c : CoreIx) (f : RFmt)
  | sfmul (c : CoreIx) (f : RFmt)
  | sfdiv (c : CoreIx) (f : RFmt)
  | sfsqrt (c : CoreIx) (f : RFmt)
  | sf2i (c : CoreIx) (f : RFmt)
  | si2f (c : CoreIx) (f : RFmt)
  | ld (c : CoreIx) (f : IFmt)
  | ld32 (c : CoreIx) (f : IFmt)
  | st (c : CoreIx) (f : IFmt)
  | st32 (c : CoreIx) (f : IFmt)
  | sysr (c : CoreIx) (f : IFmt)
  | pcnt (c : CoreIx) (f : RFmt)
  | jmp (c : CoreIx) (f : BFmt)
  | jr (c : CoreIx) (f : RFmt)
  | beqz (c : CoreIx) (f : BFmt)
  | bnez (c : CoreIx) (f : BFmt)
  | bltz (c : CoreIx) (f : BFmt)
  | bgez (c : CoreIx) (f : BFmt)
  | loop (c : CoreIx) (f : BFmt)
  | wait (c : CoreIx) (f : XFmt)
  | ewait (c : CoreIx) (f : XFmt)
  | waitTimeout (c : CoreIx)
  | signal (c : CoreIx) (f : XFmt)
  | endItem (c : CoreIx) (f : XFmt)
  | macc (c : CoreIx) (f : MFmt)
  | tsload (c : CoreIx) (f : XFmt)
  | tsstore (c : CoreIx) (f : XFmt)
  | glz (c : CoreIx) (f : XFmt)
  | chain (c : CoreIx) (f : XFmt)
  | chainru (c : CoreIx) (f : XFmt)
  | vperm (c : CoreIx) (f : XFmt)
  | vshuf (c : CoreIx) (f : XFmt)
  | vpack (c : CoreIx) (f : XFmt)
  | vunpack (c : CoreIx) (f : XFmt)
  | tld (c : CoreIx) (f : XFmt)
  | tst (c : CoreIx) (f : XFmt)
  | pld (c : CoreIx) (f : XFmt)
  | pst (c : CoreIx) (f : XFmt)
  | red (c : CoreIx) (f : XFmt)
  | rowop (c : CoreIx) (f : XFmt)
  | sift (c : CoreIx) (f : XFmt)
  | nureq (c : CoreIx) (f : XFmt)
  | xfer (c : CoreIx) (f : XFmt)
  | hld (c : CoreIx) (f : XFmt)
  | hst (c : CoreIx) (f : XFmt)
  | pass (c : CoreIx) (f : XFmt)
  /-- `n` Crumbs of the oldest pass under way to core `c` arrive. -/
  | chainPassArrival (c : CoreIx) (n : Nat)
  | pairst (c : CoreIx) (f : XFmt)
  | statld (c : CoreIx) (f : XFmt)
  | statst (c : CoreIx) (f : XFmt)
  | sconsume (c : CoreIx) (f : XFmt)
  -- Sifter and NU work: the core and the number of its outstanding request
  | gather (c : CoreIx) (req : Nat)
  | sum (c : CoreIx) (req : Nat)
  | wsum (c : CoreIx) (req : Nat)
  | mean (c : CoreIx) (req : Nat)
  | rowRead (c : CoreIx) (req : Nat)
  | update (c : CoreIx) (req : Nat)
  | apply (c : CoreIx) (req : Nat)
  | applyWindowTimeout (p : PortIx) (table : BitVec 16)
  | rowWrite (c : CoreIx) (req : Nat)
  | expand (c : CoreIx) (req : Nat)
  | aggregate (c : CoreIx) (req : Nat)
  | walk (c : CoreIx) (req : Nat)
  | vertexRead (c : CoreIx) (req : Nat)
  | vertexWrite (c : CoreIx) (req : Nat)
  -- dispatch and streams
  | itemStart
  /-- A failed check in a core: the engine, and the poisoned local-store word when poison was consumed. -/
  | machineCheck (c : CoreIx) (engine : BitVec 8) (poisonAt : Option Nat)
  | groupRerun (inst : Nat) (group : BitVec 8)
  | irqTicksExpiry (r : RingIx)
  | streamGrant (cl : Fin 8)
  /-- Crumb `i` of the generation arrives; `host` is its data when the source is host memory. -/
  | streamCrumbDelivered (st : StreamIx) (i : Nat) (host : Bytes)
  | generationStart (st : StreamIx)
  -- rings
  | sqTail (a : DoorAddr) (v : BitVec 32)
  | cqHead (a : DoorAddr) (v : BitVec 32)
  | ringEnable (p : PortIx) (fn : FnIx) (r : RingIx)
  | ringDisable (p : PortIx) (fn : FnIx) (r : RingIx)
  /-- The host's answer to the read of the next entry (64 bytes, or 128 with an extension). -/
  | descriptorRead (ans : HostAns)
  | descriptorAccept (r : RingIx)
  | watchdog (r : RingIx)
  -- descriptors: the ring and the position of the accepted entry
  | descNop (r : RingIx) (pos : Nat)
  | descFence (r : RingIx) (pos : Nat)
  | flush (r : RingIx) (pos : Nat)
  | hostAtomic (r : RingIx) (pos : Nat)
  | syncSet (r : RingIx) (pos : Nat)
  | ticks (r : RingIx) (pos : Nat)
  | programLoad (r : RingIx) (pos : Nat)
  | launch (r : RingIx) (pos : Nat)
  | trainStep (r : RingIx) (pos : Nat)
  | serviceBind (r : RingIx) (pos : Nat)
  | serviceRequest (r : RingIx) (pos : Nat)
  | serviceUnbind (r : RingIx) (pos : Nat)
  | itemResume (r : RingIx) (pos : Nat)
  | itemAbort (r : RingIx) (pos : Nat)
  | streamArm (r : RingIx) (pos : Nat)
  | tableSetup (r : RingIx) (pos : Nat) (ans : HostAns)
  | tableSwitch (r : RingIx) (pos : Nat)
  | tableRetire (r : RingIx) (pos : Nat)
  | tableFree (r : RingIx) (pos : Nat)
  | migrate (r : RingIx) (pos : Nat)
  | poolGrant (r : RingIx) (pos : Nat)
  | poolReclaim (r : RingIx) (pos : Nat)
  | graphSetup (r : RingIx) (pos : Nat) (ans : HostAns)
  | graphDrain (r : RingIx) (pos : Nat)
  | sweep (r : RingIx) (pos : Nat)
  | graphFree (r : RingIx) (pos : Nat)
  | channelSetup (r : RingIx) (pos : Nat) (ans : HostAns)
  | channelArm (r : RingIx) (pos : Nat)
  | fabricFence (r : RingIx) (pos : Nat)
  | sweepTimeout (g : Fin 4096)
  -- links: flits with their 256 bytes, and the oldest packet of its class held for the named link
  | dataFlit (l : LinkIx) (b : Bytes)
  | idleFlit (l : LinkIx) (b : Bytes)
  | trainFlit (l : LinkIx) (b : Bytes)
  | detect (l : LinkIx)
  | linkPhaseTimeout (l : LinkIx)
  | linkReinit (l : LinkIx)
  | ident (l : LinkIx)
  | credit (l : LinkIx)
  | packetTransit (l : LinkIx)
  | prepare (l : LinkIx)
  | answer (l : LinkIx)
  | commit (l : LinkIx)
  | mapChange (l : LinkIx)
  | mapAck (l : LinkIx)
  | sweepEnd (l : LinkIx)
  | mgAck (l : LinkIx)
  | siftReq (l : LinkIx)
  | nuReq (l : LinkIx)
  | updateNode (l : LinkIx)
  | updateEnd (l : LinkIx)
  | forward (l : LinkIx)
  | blockCopy (l : LinkIx)
  | result (l : LinkIx)
  | status (l : LinkIx)
  | grant (l : LinkIx)
  | channelSend (ch : ChanIx)
  | record (l : LinkIx)
  | knead (l : LinkIx)
  | block (l : LinkIx)
  | chanAck (l : LinkIx)
  | abort (l : LinkIx)
  | channelTimeout (ch : ChanIx)
  | fence (l : LinkIx)
  | fenceAck (l : LinkIx)
  | fabricTimeout (r : RingIx) (pos : Nat)
  -- tiers, memory protection and recovery
  | epochVisit (e : EntryRef)
  | epochEnd
  | moveComplete (e : EntryRef)
  | chunkRelease (e : EntryRef)
  /-- The patrol reads the unit at a device address; `good` when it is correct or corrected. -/
  | patrol (addr : Nat) (good : Bool)
  /-- A Crumb check fails; `fails` re-fetches fail after it (2 is all of them). -/
  | crumbCheckFail (addr : Nat) (fails : Fin 3)
  /-- A flash page fails to decode; `fails` re-reads fail after it (8 is all of them). -/
  | flashReadFail (addr : Nat) (fails : Fin 9)
  | flashWriteComplete (hub : Fin 2)
  /-- The run of a streaming-store tracker ends: of a core's LSU (0-127) or a port's BAR4 path (128, 129). -/
  | streamStoreRunExpire (src : Fin 130) (line : Nat)
  | residue (u : FnUnit) (engine : BitVec 64) (operation : BitVec 64)
  | sramUncorrected (p : SramPlace) (syndrome : BitVec 64)
  | reinitComplete (u : FnUnit) (ok : Bool)
  | proceed (p : PortIx) (token : BitVec 16)
  | escalate (p : PortIx) (token : BitVec 16)
  | abandon (p : PortIx) (token : BitVec 16)
  | answerTimeout (token : BitVec 16)
  /-- The readings of all sensors in 1/16 °C, in the order of Table 14-8. -/
  | sensorSample (readings : List (BitVec 16))
  | supplyFault (millivolts : Nat)
  -- host ports
  | bar4Read (p : PortIx) (off : Nat) (len : Nat)
  | bar4Write (p : PortIx) (off : Nat) (data : Bytes)
  | configRequest (p : PortIx) (fn : FnIx) (q : CfgReq)
  | atsInvalidation (p : PortIx) (fn : FnIx) (pasid : Option (BitVec 20)) (page : Nat) (pages : Nat)
  /-- A translation returns: whether the page is present with the access needed, and its size in pages. -/
  | translationCompletion (p : PortIx) (fn : FnIx) (pasid : Option (BitVec 20)) (page : Nat) (pages : Nat) (ans : XlatAns)
  | pageRequestResponse (p : PortIx) (fn : FnIx) (group : Nat) (ans : PageAns)
  | faultTimeout (p : PortIx) (acc : Nat)
  | hostReadCompletion (p : PortIx) (acc : Nat) (ans : HostAns)
  | dlDown (p : PortIx)
  | hotReset (p : PortIx)
  | perstAssert (p : PortIx)
  | perstDeassert (p : PortIx)
  | flrPf (p : PortIx)
  | flrVf (p : PortIx) (vf : FnIx)
  | busMasterEnableClear (p : PortIx) (fn : FnIx)
  | d3hot (p : PortIx) (fn : FnIx)
  | linkRetrain (p : PortIx)
  | msixUnmask (p : PortIx) (fn : FnIx) (vector : Nat)
  -- set-up registers
  | setupLockRequest (p : PortIx)
  | serviceEn (p : PortIx)
  | testEn (p : PortIx) (v : Bool)
  | priReset (p : PortIx)
  | bar4Wbuf (p : PortIx)
  | tierHEnable (p : PortIx)
  | alertEn (p : PortIx) (pin : Fin 4)
  | tmarkEn (p : PortIx) (pin : Fin 4) (timer : BitVec 10) (log2 : BitVec 6)
  | timeMark (p : PortIx)
  | trigEn (p : PortIx) (pin : Fin 4)
  | traceTrigger (p : PortIx)
  | modEn (p : PortIx) (timer : BitVec 10) (modTicks : BitVec 16)
  | errModInterval (p : PortIx)
  | vfAssign (p : PortIx) (vf : FnIx) (word : Fin 5) (v : Word)
  | resetRequest (p : PortIx)
  | withdraw (p : PortIx)
  | resetDeadline
  | deviceReset
  | logPop (p : PortIx) (window : Fin 23)
  | splitRead (p : PortIx) (a : BarRead)
  | streamWindowRead (p : PortIx) (st : StreamIx)
  | registerWrite (p : PortIx) (fn : FnIx) (a : BarAt) (size : Nat) (v : Word)
  -- firmware and management
  | fwOpen (who : Requester)
  | fwWrite (who : Requester) (off : Nat) (len : Nat) (data : Bytes)
  | fwClose (who : Requester)
  | fwAbort (who : Requester)
  | fwCommit (who : Requester)
  | mgmtIdent (x : MgXfer)
  | bootState (x : MgXfer)
  | mgmtTicks (x : MgXfer)
  | temps (x : MgXfer) (group : Nat)
  | power (x : MgXfer)
  | haltState (x : MgXfer)
  | logRecent (x : MgXfer) (index : Nat)
  | alertStatus (x : MgXfer)
  | cables (x : MgXfer) (lc : Nat)
  | resetReq (x : MgXfer) (graceMs : Nat)
  | resetWithdraw (x : MgXfer)
  | powerCycle (x : MgXfer) (offSeconds : Nat)
  | powerStatus (x : MgXfer)
  | getVersion (r : SpdmReq)
  | getCapabilities (r : SpdmReq)
  | negotiateAlgorithms (r : SpdmReq)
  | getDigests (r : SpdmReq)
  | getCertificate (r : SpdmReq) (slot : Nat) (off : Nat) (len : Nat)
  | challenge (r : SpdmReq) (slot : Nat) (nonce : Bytes)
  | getMeasurements (r : SpdmReq) (slot : Nat) (index : Nat) (nonce : Bytes)
  | spdmUnsupported (r : SpdmReq) (code : Byte)
  -- power and start-up
  | powerOn
  | railFault (order : Nat)
  | powerGood
  | pwrEnLow
  | vinLoss
  | cprsntChange (lc : Fin 9) (present : Bool) (lengthCm : Nat) (part : Bytes)
  | verify
  | clocks (failed : Failed)
  | bridges (failed : Failed)
  | memories (failed : Failed)
  | flash (failed : Failed)
  | links (failed : Failed)
  | release
  | stageTimeout (units : Failed)
  | flitTransmit (l : LinkIx)
  | identInterval (l : LinkIx)
  | dlUp (t : Trained)
  | powerCycleOffTime
  | standbySupplyUp (millivolts : Nat)
  | pllLockLoss (u : FnUnit) (lockStatus : BitVec 64)
  | bridgeCrcFail (hub : Fin 2) (transfer : BitVec 64)
  /-- A tier 1 access fails a check: link (retried), inline and correctable, or inline and not. -/
  | inlineEccError (addr : Nat) (kind : Fin 3) (syndrome : BitVec 64)
  | alertResponseAddress
  | dynamicAddressAssignment (addr : BitVec 7)
deriving DecidableEq, Repr

end Sys2Proof
end

