-- ==== Sys2Proof/Decode.lean ====
section
/-! DEFINITION. Commands from table words: no row of the operations table carries bits, so no word spells one. -/

namespace Sys2Proof

/-- The command that a word spells by the table's bits: none (the table gives no row any). -/
def decodeTableWord (_nbits _w : Nat) : Option Instr := none

end Sys2Proof
end

