-- ==== Sys2Proof/Config.lean ====
section
/-! DEFINITION. What the spec leaves open: constants with no body, so that no proof can see a value of them. Each is named in the assumption log. -/

namespace Sys2Proof.Config

/-- A value the spec leaves open, one for each value of the model's own counter `freeCtr`
(DESIGN CHOICE, log entry 2). -/
opaque free : Nat → BitVec 64

/-- The home slice of a line address: "a fixed hash of address bits [47:7]" (R320), not given. -/
opaque homeSlice : Nat → Fin 8

/-- The set of a line inside its home slice (R320 gives 8,192 sets and no index function). -/
opaque cacheSet : Nat → Fin 8192

/-- The largest number of devices in a pod of the fabric (R355), which no register or message gives a device of another pod. -/
opaque largestPod : Nat

/-- The nonces of ECDSA signatures and SPDM answers (R466 fixes none). -/
opaque nonce : Nat → Nat

/-- DER bytes of the alias certificate that the spec does not fix (R464): 0 the issuer's name, 1 the subject's name, 2 the
extensions. -/
opaque certName : Nat → List (BitVec 8)

/-- The bytes of the fuse state that measurement 2 covers (Table 15-7): svn count, revoked keys, key index.
The spec gives no layout. -/
opaque fuseBytes : Nat → Nat → Nat → List (BitVec 8)

/-- The bytes of the configuration that measurement 10 covers, from its register values; no layout is given. -/
opaque lockBytes : List Nat → List (BitVec 8)

/-- The content of the ROM, whose digest is measurement 1 (R465). -/
opaque romDigest : BitVec 256

end Sys2Proof.Config
end

