-- ==== Sys2Proof/Machine/Float.lean ====
section
/-! DEFINITION. The number formats of Table 02-1, exact values, rounding (R31-R36, R45) and the FP32 and FP64 operations. -/

namespace Sys2Proof.Machine

/-- The parts of a floating format (Table 02-1): exponent bits, fraction bits, bias, and whether it
has infinities (E4M3 has none). -/
structure Fmt where
  eb : Nat
  fb : Nat
  bias : Nat
  hasInf : Bool
deriving DecidableEq, Repr

def e4m3 : Fmt := ⟨4, 3, 7, false⟩
def e5m2 : Fmt := ⟨5, 2, 15, true⟩
def fp16 : Fmt := ⟨5, 10, 15, true⟩
def bf16 : Fmt := ⟨8, 7, 127, true⟩
def fp32 : Fmt := ⟨8, 23, 127, true⟩
def fp64 : Fmt := ⟨11, 52, 1023, true⟩

/-- A floating value: NaN, a signed infinity, or sign and magnitude `m * 2^e`. -/
inductive FV where
  | nan
  | inf (neg : Bool)
  | fin (neg : Bool) (m : Nat) (e : Int)
deriving DecidableEq, Repr

/-- Signed zero. -/
def FV.zero (neg : Bool) : FV := .fin neg 0 0

def FV.isNan : FV → Bool
  | .nan => true
  | _ => false

def FV.isFinite : FV → Bool
  | .fin _ _ _ => true
  | _ => false

/-- Infinite or NaN: the "non-finite" of R93. -/
def FV.nonFinite (v : FV) : Bool := !v.isFinite

/-- The value that the bits `w` encode in format `f`; every NaN reads alike (R32). -/
def Fmt.dec (f : Fmt) (w : Nat) : FV :=
  let fr := w % 2 ^ f.fb
  let ex := (w / 2 ^ f.fb) % 2 ^ f.eb
  let s := (w / 2 ^ (f.fb + f.eb)) % 2 == 1
  let top := 2 ^ f.eb - 1
  if ex = 0 then .fin s fr (1 - (f.bias : Int) - f.fb)
  else if ex = top ∧ f.hasInf then (if fr = 0 then .inf s else .nan)
  else if ex = top ∧ fr = 2 ^ f.fb - 1 then .nan
  else .fin s (2 ^ f.fb + fr) ((ex : Int) - f.bias - f.fb)

/-- The canonical NaN of the format (Table 02-1). -/
def Fmt.nanBits (f : Fmt) : Nat :=
  if f.hasInf then (2 ^ f.eb - 1) * 2 ^ f.fb + 2 ^ (f.fb - 1) else 2 ^ (f.eb + f.fb) - 1

/-- `m * 2^k` for an integer `k`, dropping bits below the point. -/
def shiftInt (m : Nat) (k : Int) : Nat :=
  if 0 ≤ k then m <<< k.toNat else m >>> (-k).toNat

/-- The bits of a value the format represents exactly. -/
def Fmt.enc (f : Fmt) : FV → Nat
  | .nan => f.nanBits
  | .inf s => (if s then 2 ^ (f.eb + f.fb) else 0) + (if f.hasInf then (2 ^ f.eb - 1) * 2 ^ f.fb else 2 ^ (f.eb + f.fb) - 1)
  | .fin s m e =>
    let sg := if s then 2 ^ (f.eb + f.fb) else 0
    if m = 0 then sg else
    let ex : Int := e + Nat.log2 m
    if ex < 1 - (f.bias : Int) then sg + shiftInt m (e - (1 - (f.bias : Int) - f.fb))
    else sg + (ex + f.bias).toNat * 2 ^ f.fb + (shiftInt m ((f.fb : Int) - Nat.log2 m) - 2 ^ f.fb)

/-- Largest finite magnitude of the format as (m, e). -/
def Fmt.maxFin (f : Fmt) : Nat × Int :=
  if f.hasInf then (2 ^ (f.fb + 1) - 1, (2 ^ f.eb - 2 : Nat) - (f.bias : Int) - f.fb)
  else (2 ^ (f.fb + 1) - 2, (2 ^ f.eb - 1 : Nat) - (f.bias : Int) - f.fb)

/-- `m1 * 2^e1 < m2 * 2^e2`. -/
def magLt (m1 : Nat) (e1 : Int) (m2 : Nat) (e2 : Int) : Bool :=
  let e := min e1 e2
  decide (m1 <<< (e1 - e).toNat < m2 <<< (e2 - e).toNat)

/-- How a rounding rounds: to nearest even, or stochastically with the draw x0 (R45). -/
inductive Rnd where
  | rne
  | sr (x0 : Nat)
deriving DecidableEq, Repr

/-- What a magnitude beyond the largest finite value becomes (R35, R36, R45). -/
inductive Ovf where
  | saturate
  | toInf
deriving DecidableEq, Repr

/-- Rounds the magnitude `m * 2^e` (plus a positive part below one unit of `m` when `sticky`) into
the format. The caller of a sticky magnitude gives `m` at least two bits beyond the format. -/
def Fmt.round (f : Fmt) (r : Rnd) (o : Ovf) (neg : Bool) (m : Nat) (e : Int) (sticky : Bool) : FV :=
  if m = 0 then .zero neg else
  let emin : Int := 1 - (f.bias : Int) - f.fb
  let lsb : Int := max (e + Nat.log2 m - f.fb) emin
  let q : Nat :=
    if lsb ≤ e then m <<< (e - lsb).toNat
    else
      let d := (lsb - e).toNat
      let a := m >>> d
      let rest := m - (a <<< d)
      match r with
      | .rne =>
        let twice := rest <<< 1
        let one := 1 <<< d
        if one < twice ∨ (twice = one ∧ (sticky ∨ a % 2 = 1)) then a + 1 else a
      | .sr x0 => if x0 < (rest <<< 32) >>> d then a + 1 else a
  let qe : Int := if lsb ≤ e then lsb else lsb
  let mx := f.maxFin
  if magLt mx.1 mx.2 q qe then
    (match o with
     | .saturate => .fin neg mx.1 mx.2
     | .toInf => if f.hasInf then .inf neg else .fin neg mx.1 mx.2)
  else .fin neg q qe

/-- Rounds a value into the format. NaN stays NaN and an infinity stays one. -/
def Fmt.roundV (f : Fmt) (r : Rnd) (o : Ovf) : FV → FV
  | .nan => .nan
  | .inf s => .inf s
  | .fin s m e => f.round r o s m e false

/-- Exact sum, with R33's rule for zeros. NaN from ∞ − ∞. -/
def FV.add : FV → FV → FV
  | .nan, _ => .nan
  | _, .nan => .nan
  | .inf a, .inf b => if a = b then .inf a else .nan
  | .inf a, .fin _ _ _ => .inf a
  | .fin _ _ _, .inf b => .inf b
  | .fin s1 m1 e1, .fin s2 m2 e2 =>
    let e := min e1 e2
    let a : Int := (if s1 then -1 else 1) * (m1 <<< (e1 - e).toNat : Nat)
    let b : Int := (if s2 then -1 else 1) * (m2 <<< (e2 - e).toNat : Nat)
    let t := a + b
    if t = 0 then .zero (s1 && s2) else .fin (decide (t < 0)) t.natAbs e

/-- Exact product. NaN from 0 × ∞. -/
def FV.mul : FV → FV → FV
  | .nan, _ => .nan
  | _, .nan => .nan
  | .inf a, .inf b => .inf (a != b)
  | .inf a, .fin s m _ => if m = 0 then .nan else .inf (a != s)
  | .fin s m _, .inf a => if m = 0 then .nan else .inf (a != s)
  | .fin s1 m1 e1, .fin s2 m2 e2 => .fin (s1 != s2) (m1 * m2) (e1 + e2)

def FV.neg : FV → FV
  | .nan => .nan
  | .inf s => .inf (!s)
  | .fin s m e => .fin (!s) m e

def FV.abs : FV → FV
  | .nan => .nan
  | .inf _ => .inf false
  | .fin _ m e => .fin false m e

/-- Sign bit of a value that is not NaN. -/
def FV.sign : FV → Bool
  | .nan => false
  | .inf s => s
  | .fin s _ _ => s

/-- The value as an integer number of units `2^e`, for comparisons at a common exponent. -/
def FV.scaled (e : Int) : FV → Int
  | .fin s m e1 => (if s then -1 else 1) * (m <<< (e1 - e).toNat : Nat)
  | _ => 0

/-- a < b as numbers; false when either is NaN; −0 equals +0. -/
def FV.lt : FV → FV → Bool
  | .nan, _ => false
  | _, .nan => false
  | .inf a, .inf b => a && !b
  | .inf a, .fin _ _ _ => a
  | .fin _ _ _, .inf b => !b
  | .fin s1 m1 e1, .fin s2 m2 e2 =>
    let e := min e1 e2
    decide (FV.scaled e (.fin s1 m1 e1) < FV.scaled e (.fin s2 m2 e2))

/-- a = b as numbers; NaN equals nothing. -/
def FV.eq (a b : FV) : Bool := !a.isNan && !b.isNan && !FV.lt a b && !FV.lt b a

/-- Whether the value is a number equal to zero. -/
def FV.isZero : FV → Bool
  | .fin _ m _ => decide (m = 0)
  | _ => false

/-- Integer square root by bits: the largest `r` with `r * r ≤ n`, `fuel` bits of it. -/
def isqrtFuel (n : Nat) : Nat → Nat → Nat
  | 0, acc => acc
  | k + 1, acc =>
    let c := acc + (1 <<< k)
    isqrtFuel n k (if c * c ≤ n then c else acc)

def isqrt (n : Nat) : Nat := isqrtFuel n (Nat.log2 n / 2 + 1) 0

/-- Correctly rounded quotient in the format (IEEE division). -/
def Fmt.divV (f : Fmt) : FV → FV → FV
  | .nan, _ => .nan
  | _, .nan => .nan
  | .inf _, .inf _ => .nan
  | .inf a, .fin s _ _ => .inf (a != s)
  | .fin s _ _, .inf a => .zero (a != s)
  | .fin s1 m1 e1, .fin s2 m2 e2 =>
    if m2 = 0 then (if m1 = 0 then .nan else .inf (s1 != s2))
    else if m1 = 0 then .zero (s1 != s2)
    else
      let k := Nat.log2 m2 + f.fb + 8
      let n := m1 <<< k
      f.round .rne .toInf (s1 != s2) (n / m2) (e1 - e2 - k) (n % m2 != 0)

/-- Correctly rounded square root; the root of −0 is −0 and of a negative number NaN. -/
def Fmt.sqrtV (f : Fmt) : FV → FV
  | .nan => .nan
  | .inf s => if s then .nan else .inf false
  | .fin s m e =>
    if m = 0 then .zero s
    else if s then .nan
    else
      let odd := e % 2 != 0
      let m' := if odd then m <<< 1 else m
      let e' := if odd then e - 1 else e
      let k := f.fb + 4
      let n := m' <<< (2 * k)
      let r := isqrt n
      f.round .rne .toInf false r (e' / 2 - k) (r * r != n)

/-- Correctly rounded 1/√a; 1/√±0 is ±∞. -/
def Fmt.rsqrtV (f : Fmt) : FV → FV
  | .nan => .nan
  | .inf s => if s then .nan else .zero false
  | .fin s m e =>
    if m = 0 then .inf s
    else if s then .nan
    else
      let odd := e % 2 != 0
      let m' := if odd then m <<< 1 else m
      let e' := if odd then e - 1 else e
      let k := Nat.log2 m' + f.fb + 6
      let n := (1 <<< (2 * k)) / m'
      let r := isqrt n
      f.round .rne .toInf false r (-(e' / 2) - k) (r * r * m' != 1 <<< (2 * k))

/-- Rounds to an integer, nearest even (R36). -/
def FV.toInt : FV → Int
  | .fin s m e =>
    let a : Nat :=
      if 0 ≤ e then m <<< e.toNat
      else
        let d := (-e).toNat
        let q := m >>> d
        let rest := m - (q <<< d)
        if (1 <<< d) < rest <<< 1 ∨ ((1 <<< d) = rest <<< 1 ∧ q % 2 = 1) then q + 1 else q
    if s then -(a : Int) else a
  | _ => 0

/-- Clamps an integer to the two's-complement range of `w` bits. -/
def clampInt (w : Nat) (i : Int) : Int :=
  max (-(2 ^ (w - 1) : Nat)) (min ((2 ^ (w - 1) : Nat) - 1) i)

/-- R36: rounds to nearest even and saturates; NaN becomes 0. -/
def FV.toIntSat (w : Nat) : FV → Int
  | .nan => 0
  | .inf s => if s then -(2 ^ (w - 1) : Nat) else (2 ^ (w - 1) : Nat) - 1
  | v => clampInt w v.toInt

/-- An integer as an exact value. -/
def FV.ofInt (i : Int) : FV := .fin (decide (i < 0)) i.natAbs 0

/-- The bits of an integer in `w`-bit two's complement. -/
def intBits (w : Nat) (i : Int) : Nat := (i % (2 ^ w : Nat)).toNat

/-- The integer that `w` bits of two's complement hold. -/
def bitsInt (w : Nat) (n : Nat) : Int :=
  let m := n % 2 ^ w
  if m < 2 ^ (w - 1) then m else (m : Int) - (2 ^ w : Nat)

/-- Counts invalid-operation events (R32): the result is NaN though no operand is. -/
abbrev Ar := StateM Nat

/-- Passes a result on, counting one event when it is NaN and no operand is. -/
def Ar.note (ops : List FV) (r : FV) : Ar FV := fun n =>
  (r, if r.isNan && ops.all (fun v => !v.isNan) then n + 1 else n)

/-- An FP32 operation's value rounded to nearest even; overflow gives ±∞. -/
def rne32 (v : FV) : FV := fp32.roundV .rne .toInf v

def add32 (a b : FV) : Ar FV := Ar.note [a, b] (rne32 (a.add b))
def sub32 (a b : FV) : Ar FV := Ar.note [a, b] (rne32 (a.add b.neg))
def mul32 (a b : FV) : Ar FV := Ar.note [a, b] (rne32 (a.mul b))
def div32 (a b : FV) : Ar FV := Ar.note [a, b] (fp32.divV a b)
def sqrt32 (a : FV) : Ar FV := Ar.note [a] (fp32.sqrtV a)
def rsqrt32 (a : FV) : Ar FV := Ar.note [a] (fp32.rsqrtV a)

/-- R35: conversion to a narrower floating format. An infinity becomes NaN in E4M3 and counts. -/
def narrowTo (f : Fmt) (r : Rnd) (ieee : Bool) (v : FV) : Ar FV :=
  match v with
  | .inf s => if f.hasInf then pure (.inf s) else Ar.note [v] .nan
  | v => pure (f.roundV r (if ieee then .toInf else .saturate) v)

/-- R36: conversion to an integer format of `w` bits; NaN counts one invalid event. -/
def narrowInt (w : Nat) (v : FV) : Ar Int := fun n =>
  (v.toIntSat w, if v.isNan then n + 1 else n)

/-- R178, R191: the order of MIN and MAX, −0 below +0. -/
def FV.ltZ (a b : FV) : Bool :=
  FV.lt a b || (a.isZero && b.isZero && a.sign && !b.sign)

def FV.minZ (a b : FV) : FV := if a.isNan || b.isNan then .nan else if FV.ltZ b a then b else a
def FV.maxZ (a b : FV) : FV := if a.isNan || b.isNan then .nan else if FV.ltZ a b then b else a

end Sys2Proof.Machine
end

