-- ==== Sys2Proof/Machine/Operands.lean ====
section
/-! DEFINITION. Operand forms: bytes and fields of blocks and words (R7), sparse memory, instruction words (Table 07-2), and the CRCs. -/

namespace Sys2Proof.Machine

/-- Field [lo + w - 1 : lo] of a number. -/
def fld (n lo w : Nat) : Nat := (n >>> lo) % 2 ^ w

/-- One bit of a number. -/
def bitAt (n i : Nat) : Bool := (n >>> i) % 2 == 1

/-- The little-endian number that a byte string holds (R7). -/
def leNat : Bytes → Nat
  | [] => 0
  | b :: r => b.toNat + 256 * leNat r

/-- `n` little-endian bytes of a number (R7). -/
def natLe : Nat → Nat → Bytes
  | 0, _ => []
  | k + 1, n => BitVec.ofNat 8 n :: natLe k (n / 256)

/-- Bytes `off` to `off + len - 1` of a block, zero beyond its end. -/
def slice (b : Bytes) (off len : Nat) : Bytes :=
  ((b.drop off).take len) ++ List.replicate (len - ((b.drop off).take len).length) 0#8

/-- The little-endian number at bytes `off` to `off + len - 1`. -/
def fieldAt (b : Bytes) (off len : Nat) : Nat := leNat (slice b off len)

/-- Bits [lo + w - 1 : lo] of the `len`-byte number at byte `off`. -/
def bfld (b : Bytes) (off len lo w : Nat) : Nat := fld (fieldAt b off len) lo w

/-- Whether every byte of a range of a block is zero. -/
def zeroRange (b : Bytes) (off len : Nat) : Bool := (slice b off len).all (· == 0#8)

/-- Big-endian number of a byte string (R459, R463). -/
def beNat (b : Bytes) : Nat := b.foldl (fun a x => a * 256 + x.toNat) 0

/-- `n` big-endian bytes of a number. -/
def natBe (n v : Nat) : Bytes := (natLe n v).reverse

/-- Sign of a 32-bit field. -/
def sext32 (w : BitVec 32) : Word := w.signExtend 64

/-- ⌈n / d⌉. -/
def ceilDiv (n d : Nat) : Nat := (n + d - 1) / d

/-- ⌈log2 n⌉, with 0 for n ≤ 1. -/
def clog2 (n : Nat) : Nat := if n ≤ 1 then 0 else Nat.log2 (n - 1) + 1

/-- Round up to a multiple of `m`. -/
def roundUp (n m : Nat) : Nat := ceilDiv n m * m

/-- Pads a byte string with zeros to a multiple of `m`. -/
def padTo (m : Nat) (b : Bytes) : Bytes := b ++ List.replicate (roundUp b.length m - b.length) 0#8

/-- The integers from `a` to `a + n - 1`. -/
def rangeFrom (a n : Nat) : List Nat := (List.range n).map (a + ·)

/-! Memory: bytes by address, a byte not listed reading as zero (DESIGN CHOICE, log entry 1). -/

/-- Sparse byte memory in canonical form. -/
abbrev Memory := Tab (BitVec 8)

def Memory.wf (m : Memory) : Bool := Tab.wf 0#8 m

/-- The byte at an address. -/
def Memory.read (m : Memory) (a : Nat) : Byte := Tab.get 0#8 m a

def Memory.write (m : Memory) (a : Nat) (b : Byte) : Memory := Tab.put 0#8 m a b

/-- `n` bytes from an address. -/
def Memory.readBytes (m : Memory) (a : Nat) : Nat → Bytes
  | 0 => []
  | n + 1 => m.read a :: Memory.readBytes m (a + 1) n

/-- Writes bytes in ascending address order. -/
def Memory.writeBytes (m : Memory) (a : Nat) : Bytes → Memory
  | [] => m
  | b :: r => Memory.writeBytes (m.write a b) (a + 1) r

/-- Little-endian number of `n` bytes at an address. -/
def Memory.readNat (m : Memory) (a n : Nat) : Nat := leNat (m.readBytes a n)

/-- Zeroes every byte below `hi` and at or above `lo` (a range that loses its contents). -/
def Memory.clearRange (m : Memory) (lo hi : Nat) : Memory :=
  m.filter fun e => decide (e.1 < lo) || decide (hi ≤ e.1)

/-! Instruction words (R207, Table 07-2). -/

end Sys2Proof.Machine

namespace Sys2Proof

def RFmt.word (op : Nat) (f : RFmt) : Word :=
  f.rsv ++ f.c ++ f.b ++ f.a ++ f.d ++ BitVec.ofNat 8 op

def IFmt.word (op : Nat) (f : IFmt) : Word :=
  f.imm ++ f.rsv ++ f.b ++ f.a ++ f.d ++ BitVec.ofNat 8 op

def BFmt.word (op : Nat) (f : BFmt) : Word :=
  f.off ++ f.rsv ++ f.a ++ f.d ++ BitVec.ofNat 8 op

def XFmt.word (op : Nat) (f : XFmt) : Word :=
  f.imm ++ f.sub ++ f.c ++ f.b ++ f.a ++ f.d ++ BitVec.ofNat 8 op

def MFmt.word (op : Nat) (f : MFmt) : Word :=
  f.rsvHi ++ f.tc ++ BitVec.ofBool f.transpose ++ BitVec.ofBool f.begins ++ f.fpair ++ f.kM1 ++ f.colsM1
    ++ f.rowsM1 ++ f.rsvLo ++ f.k ++ f.s ++ f.h ++ f.tile ++ BitVec.ofNat 8 op

/-- The unused fields of a format R instruction are zero (R207); the flags say which registers it uses. -/
def RFmt.ok (f : RFmt) (d a b c : Bool) : Bool :=
  f.rsv == 0 && (d || f.d == 0) && (a || f.a == 0) && (b || f.b == 0) && (c || f.c == 0)

def IFmt.ok (f : IFmt) (d a b : Bool) : Bool :=
  f.rsv == 0 && (d || f.d == 0) && (a || f.a == 0) && (b || f.b == 0)

def BFmt.ok (f : BFmt) (a : Bool) : Bool := f.d == 0 && f.rsv == 0 && (a || f.a == 0)

/-- The unused register fields and `sub` of a format X instruction are zero. -/
def XFmt.ok (f : XFmt) (d a b c sub : Bool) : Bool :=
  (d || f.d == 0) && (a || f.a == 0) && (b || f.b == 0) && (c || f.c == 0) && (sub || f.sub == 0)

/-- Target of a format B branch: the signed offset in instructions from this instruction. -/
def BFmt.target (f : BFmt) (pc : Nat) : Word := BitVec.ofNat 64 pc + 8 * Machine.sext32 f.off

end Sys2Proof

namespace Sys2Proof.Machine

/-! Checks. -/

/-- One step of a reflected CRC-32 over a byte's bits (polynomial 0x04C1_1DB7, R333). -/
def crc32Bits : Nat → Nat → Nat
  | 0, c => c
  | k + 1, c => crc32Bits k (if c % 2 = 1 then (c / 2) ^^^ 0xEDB88320 else c / 2)

/-- CRC-32, reflected, initial value and final XOR 0xFFFF_FFFF (R333). -/
def crc32 (b : Bytes) : Nat :=
  (b.foldl (fun c x => crc32Bits 8 (c ^^^ x.toNat)) 0xFFFFFFFF) ^^^ 0xFFFFFFFF

/-- One byte's bits of a CRC-16, high bit first. -/
def crc16Bits : Nat → Nat → Nat
  | 0, c => c
  | k + 1, c => crc16Bits k (if c ≥ 0x8000 then ((2 * c) % 65536) ^^^ 0x8BB7 else 2 * c)

/-- The Crumb check of R425: CRC-16 0x8BB7 over the 32 bytes, then the Crumb's address bits [47:5] as 6 bytes. -/
def crumbCheck (crumb : Bytes) (addr : Nat) : Nat :=
  (crumb ++ natLe 6 (fld addr 5 43)).foldl (fun c x => crc16Bits 8 (c ^^^ (x.toNat * 256))) 0

end Sys2Proof.Machine
end

