-- ==== Sys2Proof/Machine/Canon.lean ====
section
/-! DEFINITION. The generator of R43-R46, the canonical sum (R37-R41), carry stacks (R47-R49) and their records (R54, R354). -/

namespace Sys2Proof.Machine

/-- One Philox4x32 round (R43) over the counter words. -/
def philoxRound (k0 k1 : Nat) : Nat × Nat × Nat × Nat → Nat × Nat × Nat × Nat
  | (c0, c1, c2, c3) =>
    let p0 := 0xD2511F53 * c0
    let p1 := 0xCD9E8D57 * c2
    ((p1 >>> 32) ^^^ c1 ^^^ k0, p1 % 2 ^ 32, (p0 >>> 32) ^^^ c3 ^^^ k1, p0 % 2 ^ 32)

def philoxRounds : Nat → Nat → Nat → Nat × Nat × Nat × Nat → Nat × Nat × Nat × Nat
  | 0, _, _, c => c
  | n + 1, k0, k1, c =>
    philoxRounds n ((k0 + 0x9E3779B9) % 2 ^ 32) ((k1 + 0xBB67AE85) % 2 ^ 32) (philoxRound k0 k1 c)

/-- Philox4x32-10 of a 64-bit seed and four counter words (R43). -/
def philox (seed : Nat) (c0 c1 c2 c3 : Nat) : Nat × Nat × Nat × Nat :=
  philoxRounds 10 (seed % 2 ^ 32) (fld seed 32 32) (c0 % 2 ^ 32, c1 % 2 ^ 32, c2 % 2 ^ 32, c3 % 2 ^ 32)

/-- Word x0 of domain 0 for a reduction node (Table 02-5). -/
def drawNode (seed tensor l j u v : Nat) : Nat :=
  (philox seed tensor u ((l % 64) <<< 22 ||| v % 2 ^ 22) j).1

/-- Word x0 of domain 1 for a narrowing conversion (Table 02-5). -/
def drawNarrow (seed tensor u v : Nat) : Nat :=
  (philox seed tensor u (1 <<< 28 ||| v % 2 ^ 22) 0).1

/-- Word x0 of domain 3 for a dropout mask (R179). -/
def drawDropout (seed tensor u v : Nat) : Nat :=
  (philox seed tensor u (3 <<< 28 ||| v % 2 ^ 22) 0).1

/-- `word(c)` of domain 2 for sampling or a walk step (R118): `key` is ctr[0], `walk` bit 27, `step`
the hop or step field. -/
def drawSample (seed key vertex step : Nat) (walk : Bool) (c : Nat) : Nat :=
  let w := philox seed key (vertex % 2 ^ 32)
    (2 <<< 28 ||| (if walk then 1 <<< 27 else 0) ||| (step % 2 ^ 16) <<< 8 ||| fld vertex 32 8) (c / 4)
  match c % 4 with
  | 0 => w.1
  | 1 => w.2.1
  | 2 => w.2.2.1
  | _ => w.2.2.2

/-- What a reduction fixes besides its terms: the spill level s, the stochastic selection, seed and tensor id. -/
structure SumCfg where
  s : Nat
  sr : Bool
  seed : Nat
  tensor : Nat
deriving DecidableEq, Repr

/-- R42: a spill field holds 9 to 12, or 0 for 9. -/
def spillOf (n : Nat) : Option Nat := if n = 0 then some 9 else if 9 ≤ n ∧ n ≤ 12 then some n else none

/-- The elements of one node, as FP64 bits (an FP32 node widened exactly). -/
abbrev NodeArr := List (BitVec 64)

def toBits64 (v : FV) : BitVec 64 := BitVec.ofNat 64 (fp64.enc v)
def ofBits64 (b : BitVec 64) : FV := fp64.dec b.toNat

/-- An element of a node that covers only absent terms of that element: the absent mark, which no
value is (R54). A node is absent as a whole when all its elements are. -/
def absentElem : BitVec 64 := BitVec.allOnes 64

/-- The node arithmetic of Table 02-4 on one element; an absent operand passes the other unchanged (R81). -/
def nodeAdd (c : SumCfg) (l j : Nat) (uv : Nat × Nat) (a b : BitVec 64) : Ar (BitVec 64) :=
  if a = absentElem then pure b
  else if b = absentElem then pure a
  else do
  let x := ofBits64 a
  let y := ofBits64 b
  let t := x.add y
  let r :=
    if l < c.s then
      (if 7 ≤ l ∧ c.sr then fp32.roundV (.sr (drawNode c.seed c.tensor l j uv.1 uv.2)) .toInf t
       else rne32 t)
    else fp64.roundV .rne .toInf t
  let r ← Ar.note [x, y] r
  pure (toBits64 r)

/-- Combines two nodes of one element each, in step with their coordinates. -/
def nodeAddAll (c : SumCfg) (l j : Nat) : List (Nat × Nat) → NodeArr → NodeArr → Ar NodeArr
  | uv :: us, a :: as, b :: bs => do
    let r ← nodeAdd c l j uv a b
    let rs ← nodeAddAll c l j us as bs
    pure (r :: rs)
  | _, _, _ => pure []

/-- R38, R81: a node of level l, position j, from its two children; an absent child passes the other unchanged. -/
def combine (c : SumCfg) (uvs : List (Nat × Nat)) (l j : Nat) : Option NodeArr → Option NodeArr → Ar (Option NodeArr)
  | none, y => pure y
  | x, none => pure x
  | some x, some y => do
    let r ← nodeAddAll c l j uvs x y
    pure (some r)

/-- A carry stack (R47): the count of indices absorbed, and one pending node (perhaps absent) for
each set bit of it, in ascending level. -/
structure Stack where
  t : Nat
  pend : List (Nat × Option NodeArr)
deriving DecidableEq, Repr

/-- The stack of a begin at a base index: every pending node it implies is absent (R52). -/
def Stack.atBase (t : Nat) : Stack :=
  ⟨t, ((List.range 48).filter (bitAt t)).map fun l => (l, none)⟩

/-- The carry loop of R48. -/
def addLoop (c : SumCfg) (uvs : List (Nat × Nat)) (t0 : Nat) :
    List (Nat × Option NodeArr) → Nat → Option NodeArr → Ar (List (Nat × Option NodeArr))
  | [], l, v => pure [(l, v)]
  | (l', p) :: r, l, v =>
    if l' = l then do
      let v' ← combine c uvs (l + 1) (t0 >>> (l + 1)) p v
      addLoop c uvs t0 r (l + 1) v'
    else pure ((l, v) :: (l', p) :: r)

/-- R48: adds the root of a complete aligned subtree of level l that starts at index t. -/
def Stack.add (c : SumCfg) (uvs : List (Nat × Nat)) (st : Stack) (v : Option NodeArr) (l : Nat) : Ar Stack := do
  let p ← addLoop c uvs st.t st.pend l v
  pure ⟨st.t + 2 ^ l, p⟩

/-- R49: folds the pending nodes upward, lowest first. -/
def finishLoop (c : SumCfg) (uvs : List (Nat × Nat)) (t : Nat) :
    List (Nat × Option NodeArr) → Option NodeArr → Ar (Option NodeArr)
  | [], acc => pure acc
  | (l, p) :: r, acc => do
    let a ← combine c uvs (l + 1) (t >>> (l + 1)) p acc
    finishLoop c uvs t r a

def Stack.finish (c : SumCfg) (uvs : List (Nat × Nat)) (st : Stack) : Ar (Option NodeArr) :=
  finishLoop c uvs st.t st.pend none

/-- The hand-off of R41: FP32, nearest even; an absent root is +0 (R505). -/
def handOff (n : Nat) : Option NodeArr → List FV
  | none => List.replicate n (FV.zero false)
  | some a => a.map fun b => if b = absentElem then FV.zero false else rne32 (ofBits64 b)

/-- Absorbs level-0 terms one after another. -/
def Stack.addTerms (c : SumCfg) (uvs : List (Nat × Nat)) : Stack → List (Option NodeArr) → Ar Stack
  | st, [] => pure st
  | st, x :: r => do
    let st' ← st.add c uvs x 0
    Stack.addTerms c uvs st' r

/-- The canonical sum of R38 over one element's FP32 terms, handed off as FP32. -/
def canonSum (c : SumCfg) (u v : Nat) (terms : List (Option FV)) : Ar FV := do
  let st ← Stack.addTerms c [(u, v)] ⟨0, []⟩ (terms.map fun x => x.map fun y => [toBits64 y])
  let r ← st.finish c [(u, v)]
  pure ((handOff 1 r).headD (FV.zero false))

/-- A node of a sparse tree: the index it starts at, its level and its elements. -/
structure TreeItem where
  start : Nat
  level : Nat
  arr : NodeArr
deriving DecidableEq, Repr

/-- The nodes given for one place: one, but for the default row, which stands for every absent row of a rank; several
are added in their order, a choice where the spec gives none (DESIGN CHOICE, log entry 61). -/
def samePlace (c : SumCfg) (uvs : List (Nat × Nat)) (l j : Nat) (it : TreeItem) (r : List TreeItem) : Ar (Option NodeArr) :=
  r.foldlM (fun a x => combine c uvs l j a (some x.arr)) (some it.arr)

/-- R81, R90: the node (l, j) of the tree over the given nodes, absent where none lies below it. -/
def treeNode (c : SumCfg) (uvs : List (Nat × Nat)) : Nat → Nat → List TreeItem → Ar (Option NodeArr)
  | _, _, [] => pure none
  | 0, j, it :: r => samePlace c uvs 0 j it r
  | l + 1, j, its =>
    match its.filter (fun it => it.level == l + 1) with
    | it :: r => samePlace c uvs (l + 1) j it r
    | [] => do
      let mid := (2 * j + 1) <<< l
      let a ← treeNode c uvs l (2 * j) (its.filter fun it => decide (it.start < mid))
      let b ← treeNode c uvs l (2 * j + 1) (its.filter fun it => decide (mid ≤ it.start))
      combine c uvs (l + 1) j a b

/-! Records (Table 02-7). -/

/-- The header of a carry stack record, with the level of R354. -/
structure RecHdr where
  t : Nat
  spill : Nat
  arith : Nat
  sr : Bool
  sat : Bool
  shift : Nat
  seed : Nat
  tensor : Nat
  uBase : Nat
  vBase : Nat
  uCount : Nat
  vCount : Nat
  level : Nat
deriving DecidableEq, Repr

def RecHdr.elems (h : RecHdr) : Nat := (h.uCount + 1) * (h.vCount + 1)

def RecHdr.cfg (h : RecHdr) : SumCfg := ⟨h.spill, h.sr, h.seed, h.tensor⟩

/-- Coordinates of the record's elements in u-major order. -/
def RecHdr.coords (h : RecHdr) : List (Nat × Nat) :=
  (List.range h.elems).map fun e => (h.uBase + e / (h.vCount + 1), h.vBase + e % (h.vCount + 1))

def RecHdr.bytes (h : RecHdr) : Bytes :=
  natLe 8 (h.t % 2 ^ 40 ||| h.spill <<< 40 ||| h.arith <<< 44 ||| (if h.sr then 1 <<< 46 else 0)
    ||| (if h.sat then 1 <<< 47 else 0) ||| h.shift <<< 48)
  ++ natLe 8 h.seed ++ natLe 8 (h.tensor % 2 ^ 32 ||| (h.uBase % 2 ^ 32) <<< 32)
  ++ natLe 8 (h.vBase % 2 ^ 22 ||| h.uCount <<< 22 ||| h.vCount <<< 38 ||| h.level <<< 54)

/-- Reads a header; `none` for a reserved or out-of-range value (R55). The level field is read for a
node record only. -/
def RecHdr.parse (node : Bool) (b : Bytes) : Option RecHdr :=
  let w0 := fieldAt b 0 8
  let w3 := fieldAt b 24 8
  let h : RecHdr :=
    { t := fld w0 0 40, spill := fld w0 40 4, arith := fld w0 44 2, sr := bitAt w0 46, sat := bitAt w0 47,
      shift := fld w0 48 3, seed := fieldAt b 8 8, tensor := fieldAt b 16 4, uBase := fieldAt b 20 4,
      vBase := fld w3 0 22, uCount := fld w3 22 16, vCount := fld w3 38 16,
      level := if node then fld w3 54 6 else 0 }
  if fld w0 51 13 ≠ 0 ∨ (if node then fld w3 60 4 ≠ 0 else fld w3 54 10 ≠ 0) ∨ h.spill < 9 ∨ 12 < h.spill
      ∨ h.arith = 3 ∨ 65536 < h.elems then none
  else some h

/-- Bytes of an element in an array of level l: FP32 below level s, FP64 from level s. -/
def elemWidth (s l : Nat) : Nat := if l < s then 4 else 8

/-- The mark that makes an array absent (R54). -/
def absentMark (s l : Nat) : Nat := 2 ^ (8 * elemWidth s l) - 1

/-- What the first element holds where it alone of its array is absent: a NaN that is no value either, since the
absent mark there would make the whole array absent (DESIGN CHOICE, log entry 60). -/
def firstMark (s l : Nat) : Nat := absentMark s l - 1

/-- Bytes of one level array, padded to a Crumb; what is absent holds the mark (R54). -/
def arrBytes (s l n : Nat) (a : Option NodeArr) : Bytes :=
  let one (b : BitVec 64) :=
    if b = absentElem then absentMark s l else if l < s then fp32.enc (ofBits64 b) else b.toNat
  let els := match a with
    | none => List.replicate n (absentMark s l)
    | some a =>
      if a.all (· == absentElem) || a.headD 0 != absentElem then a.map one else firstMark s l :: a.tail.map one
  padTo 32 (els.flatMap (natLe (elemWidth s l)))

/-- Bytes that one level array takes. -/
def arrLen (s l n : Nat) : Nat := roundUp (elemWidth s l * n) 32

/-- Reads one level array; fails when its first element holds the absent mark and another does not (R54).
Another element that holds the mark, and a first one that holds its own, is absent by itself (DESIGN CHOICE, log entry
60). -/
def arrParse (s l n : Nat) (b : Bytes) : Option (Option NodeArr) :=
  let els := (List.range n).map fun e => fieldAt b (elemWidth s l * e) (elemWidth s l)
  let mark := absentMark s l
  let one (x : Nat) :=
    if x = mark then absentElem else if l < s then toBits64 (fp32.dec x) else BitVec.ofNat 64 (fp64.enc (fp64.dec x))
  if els.headD 0 = mark then (if els.all (· == mark) then some none else none)
  else if els.headD 0 = firstMark s l then some (some (absentElem :: els.tail.map one))
  else some (some (els.map one))

/-- Reads the arrays of the set levels of t, in ascending level. -/
def stackParse (s n : Nat) : List Nat → Bytes → Option (List (Nat × Option NodeArr))
  | [], _ => some []
  | l :: ls, b => do
    let a ← arrParse s l n b
    let r ← stackParse s n ls (b.drop (arrLen s l n))
    some ((l, a) :: r)

/-- The levels set in t. -/
def levelsOf (t : Nat) : List Nat := (List.range 48).filter (bitAt t)

/-- Bytes of a record of header `h`: its length with header. -/
def RecHdr.length (h : RecHdr) : Nat :=
  if h.arith = 0 then 32 + ((levelsOf h.t).map fun l => arrLen h.spill l h.elems).sum
  else 32 + roundUp (8 * h.elems) 32

/-- The record of a floating-point stack. -/
def recordBytes (h : RecHdr) (st : Stack) : Bytes :=
  { h with t := st.t }.bytes ++ st.pend.flatMap fun p => arrBytes h.spill p.1 h.elems p.2

/-- The record of an integer prefix (one INT64 array). -/
def intRecordBytes (h : RecHdr) (vals : List Int) : Bytes :=
  h.bytes ++ padTo 32 (vals.flatMap fun v => natLe 8 (intBits 64 v))

/-- A parsed record: header, and the stack or the integer prefixes. -/
structure Rec where
  hdr : RecHdr
  stack : Stack
  ints : List Int
deriving DecidableEq, Repr

def Rec.parse (b : Bytes) : Option Rec := do
  let h ← RecHdr.parse false b
  if h.arith = 0 then
    let p ← stackParse h.spill h.elems (levelsOf h.t) (b.drop 32)
    some ⟨h, ⟨h.t, p⟩, []⟩
  else
    some ⟨h, ⟨h.t, []⟩, (List.range h.elems).map fun e => bitsInt 64 (fieldAt b (32 + 8 * e) 8)⟩

/-- A node record (R354): its header, and its one array. -/
def nodeRecordParse (b : Bytes) : Option (RecHdr × Option NodeArr) := do
  let h ← RecHdr.parse true b
  let a ← arrParse h.spill h.level h.elems (b.drop 32)
  some (h, a)

/-- Header fields that R55 compares. -/
def RecHdr.matches (h k : RecHdr) : Bool :=
  h.spill == k.spill && h.arith == k.arith && h.sr == k.sr && h.shift == k.shift && h.seed == k.seed
    && h.tensor == k.tensor && h.uBase == k.uBase && h.vBase == k.vBase && h.uCount == k.uCount
    && h.vCount == k.vCount

end Sys2Proof.Machine
end

