-- ==== Sys2Proof/Machine/State.lean ====
section
/-! DEFINITION. The state of the block: every register, buffer, counter, mode and pin the spec gives the AN3100, the queue of waiting commands, and what the block has sent out. -/

namespace Sys2Proof.Machine

/-- A stop in a fault. No command of this model takes one: every command the spec lists has an effect
the spec gives, and errors are log entries, statuses and exceptions of the block itself. Safe: there is no constructor. -/
inductive Fault where
deriving DecidableEq, Repr

/-- A stop without a meaning. -/
inductive Refusal where
  /-- Raised by an arm of Dispatch.lean whose command has no meaning yet; safe, since the machine stops. -/
  | notModelled (mnemonic : String)
deriving DecidableEq, Repr

/-! ### Cores (chapters 02, 05, 06, 07) -/

/-- Classes of work, highest first (R22). -/
inductive Cls where
  | express
  | normal
  | background
deriving DecidableEq, Repr

/-- Arithmetic of a tree set (R149): floating point, integer, integer wide. -/
inductive Arith where
  | fp
  | int
  | wide
deriving DecidableEq, Repr

/-- The tag of a tree set (R149), with its control block's q and wslot. -/
structure TreeTag where
  arith : Arith
  /-- Operand pair code of R211; none after a TSLOAD until the first add. -/
  fpair : Option Nat
  transpose : Bool
  u0 : Nat
  v0 : Nat
  s : Nat
  sr : Bool
  seed : Nat
  tensor : Nat
  q : Nat
  wslot : Nat
  /-- The integer scale tag s' (R57). -/
  shift : Nat
deriving DecidableEq, Repr

/-- A live tree set: what its run of accumulator tiles and wide-buffer slots holds (R50-R53), for
the elements that have a defined value (R148): element (a, b), a < rows and b < cols, at cols × a + b. -/
structure TreeSet where
  tile : Nat
  tag : TreeTag
  rows : Nat
  cols : Nat
  /-- First index of the window of R51. -/
  winBase : Nat
  /-- The carry stack; its nodes are the level slots of Table 02-6. An integer set has only its t. -/
  stack : Stack
  /-- Exact INT32 prefixes of an integer set (R56), in tile `tile`. -/
  ints : List Int
  /-- INT64 values of an integer wide set (R61), in slot `wslot`. -/
  wides : List Int
  /-- Sticky saturation flag (R56). -/
  sat : Bool
  /-- The group can still be repeated (R57): begun by an accumulate and not drained. -/
  group : Bool
  /-- Drained: a saturation of a later add raises `INT_SAT` at once (R57). -/
  drained : Bool := false
  /-- An accumulate of fewer than 64 terms ended the sum (R148). -/
  closed : Bool
  /-- Loaded from a record with `sat` set, by an item of a group: adds compute nothing (R60). -/
  passThru : Bool
  /-- A word of its tile or slot holds the poison syndrome (R427). -/
  poisoned : Bool := false
deriving DecidableEq, Repr

/-- What an accumulate captured at issue (R218), for the repeat log of R214. -/
structure MaccCap where
  tile : Nat
  held : Nat
  heldStride : Nat
  streamed : Nat
  streamedStride : Nat
  base : Nat
  rows : Nat
  cols : Nat
  kCount : Nat
  fpair : Nat
  transpose : Bool
deriving DecidableEq, Repr

/-- The repeat log of one partition (R214): the tree set it serves and its accumulates. -/
structure RepLog where
  tile : Nat
  entries : List MaccCap
  /-- More than 64 accumulates, or taken over by a TSLOAD: no repeat. -/
  spent : Bool
deriving DecidableEq, Repr

/-- An item of an instance. -/
structure ItemId where
  inst : Nat
  idx : Nat
deriving DecidableEq, Repr

/-- What a core waits for when it issues nothing (R220, R221, R224). -/
inductive Stall where
  | word (addr : Nat)
  | chain (count : Nat)
  | stream (st : Nat) (count : Nat)
  | engines (mask : Nat)
  | hostRead
  | ending (prog : Nat)
deriving DecidableEq, Repr

/-- A fault record (Table 07-11). -/
structure FaultRec where
  code : Nat
  engine : Nat
  core : Nat
  pc : Nat
  insn : Word
  item : ItemId
deriving DecidableEq, Repr

/-- The run of an item on a core: its identity, its arguments and what its completion will carry. -/
structure Run where
  item : ItemId
  cls : Cls
  port : Nat
  ring : Nat
  fn : Nat
  args : List Word
  /-- Pre-shift of integer begins (R284). -/
  preShift : Nat
  inGroup : Bool
  chainLast : Bool
  /-- Effect operations made in this run, in order: status + 256 × count of what each received (R283). -/
  effects : List Nat
  /-- The first effect operations of an earlier run, not to be carried out again (R283). -/
  suppress : List Nat
  evInvalid : Nat
  evPermute : Nat
  evNanRow : Nat
  evSat : Nat
  sat : Bool
  hostFault : Bool
  applyCount : Nat
  lookupCount : Nat
  /-- The chain_last item read a record with `sat` set (R284). -/
  rerun : Bool
  stall : Option Stall
  /-- Counter value when the stall began (R222). -/
  stallAt : Nat
  /-- The wait limit as it stood then (R478). -/
  stallLimit : Nat := 0
  /-- The exception that ends the run once its operations have completed (R231). -/
  fault : Option FaultRec
  /-- The run ends `RETRY` (R233). -/
  retry : Bool
  /-- That counts as no machine check of the item (R434). -/
  uncounted : Bool := false
deriving DecidableEq, Repr

/-- Registers that a pre-emption saves and restores (R228). -/
structure Regs where
  s : Tab Word := []
  p : Tab (BitVec 256) := []
  /-- Word e of tile register n under 256 n + e (R171). -/
  t : Tab (BitVec 32) := []
  pc : Nat := 0
deriving DecidableEq, Repr

/-- The second context bank: a pre-empted item's run and registers. -/
structure Saved where
  run : Run
  regs : Regs
  /-- Counter value at the pre-emption: the time that no wait counts (R222). -/
  since : Nat
deriving DecidableEq, Repr

/-- What a request of a Sifter or NU fetches from outside the device, or must read only once (R124). -/
inductive Key where
  /-- Bytes of a tier H region, by port, host address and length (R319). -/
  | host (port addr len : Nat)
  /-- A vertex record read for a hop or step. -/
  | vrec (hop v : Nat)
  /-- A plane value. -/
  | plane (v p : Nat)
  /-- A neighbour-array entry of a device. -/
  | ent (dev idx : Nat)
  /-- A prefix value of a device. -/
  | pfx (dev idx : Nat)
  /-- What a device answered to the Sifter work of the request for rows homed there. -/
  | sift (dev : Nat)
  /-- A device's answer to the vertex writes of the request. -/
  | vwrite (dev : Nat)
  /-- The homes of a request's entries (R76). -/
  | homes
  /-- A row's record as its Sifter read it, by its place among the request's distinct rows (R84, R94). -/
  | row (i : Nat)
  /-- The request's operations on rows here have been carried out. -/
  | done
  /-- The record that a slice of a list received from the device of the slice before (R357). -/
  | knead (list slice : Nat)
  /-- A slice's record has gone to the device of the next. -/
  | kneadSent (list slice : Nat)
deriving DecidableEq, Repr

/-- A value that has come: its bytes, whether poison tainted them, and the count of the answer. -/
structure Part where
  key : Key
  bytes : Bytes
  bad : Bool
  count : Nat
deriving DecidableEq, Repr

/-- A request to another device that is not answered: its tag and the values it asks for. -/
structure Ask where
  dev : Nat
  tag : Nat
  keys : List Key
  /-- Bytes of the answer for each value; 0 when the whole answer is one value. -/
  size : Nat
deriving DecidableEq, Repr

/-- How far the work of a request has come. -/
structure Prog where
  parts : List Part := []
  asks : List Ask := []
  /-- First failing status that an answer or a host access brought; 0 when none. -/
  err : Nat := 0
deriving DecidableEq, Repr

/-- Kinds of outstanding LSU requests with a response word or data to come (R215, R221). -/
inductive ReqKind where
  | sift
  | nu
  | xfer
  | pairst
  | pass
deriving DecidableEq, Repr

/-- An outstanding request of a core's LSU. -/
structure LsuReq where
  id : Nat
  kind : ReqKind
  /-- The request block as it stood at issue (R219). -/
  block : Bytes
  resp : Nat
  cls : Cls
  port : Nat
  ring : Nat
  item : ItemId
  /-- Table version taken at issue (R97, R417). -/
  version : Bool
  /-- Split threshold and spread in force at issue (R130, R131). -/
  split : Nat
  spread : Nat := 0
  /-- Table 07-6 status and count of the first failure seen, 0 when none. -/
  status : Nat
  count : Nat
  /-- The local part has been served. -/
  served : Bool
  /-- Crumbs an XFER has moved (R384). -/
  moved : Nat
  prog : Prog
  /-- The index of this request among the run's effect operations, if it is one (R283). -/
  effect : Option Nat
deriving DecidableEq, Repr

/-- A chain pass under way to a core (R157, R223). -/
structure Pass where
  dst : Nat
  crumbs : List Bytes
  flag : Option (Nat × Word)
deriving DecidableEq, Repr

/-- One core: registers, memories, engines' state and the item it runs. -/
structure Core where
  regs : Regs := {}
  /-- Local store, byte offsets 0 to 0x2F_FFFF. -/
  ls : Memory := []
  /-- Local-store words (by byte offset / 8) that hold the poison syndrome (R427). -/
  lsPoison : List Nat := []
  /-- Row-statistics side memory, 8,192 entries (R195). -/
  side : Tab Word := []
  /-- Side-memory entries that hold the poison syndrome (R427). -/
  sidePoison : List Nat := []
  /-- The live tree sets: the contents of the accumulator and wide buffers. -/
  trees : List TreeSet := []
  logLower : Option RepLog := none
  logExpress : Option RepLog := none
  run : Option Run := none
  saved : Option Saved := none
  /-- The item is held in host-assisted mode with this fault (R234). -/
  held : Option FaultRec := none
  chainCount : BitVec 32 := 0
  passes : List Pass := []
  /-- Code tags by partition: port × 2,048 + program + 1, or none (R276). -/
  tagLower : Option Nat := none
  tagExpress : Option Nat := none
  /-- Bytes of the loaded image in each partition. -/
  imgLower : Nat := 0
  imgExpress : Nat := 0
  lsu : List LsuReq := []
  nextReq : Nat := 0
  /-- Counter values of the machine checks that count toward a climb (Table 14-6). -/
  checks : List Nat := []
deriving DecidableEq, Repr

/-! ### Work (chapter 09) -/

structure SyncObj where
  count : BitVec 32 := 0
  aborted : Bool := false
  underflow : Bool := false
deriving DecidableEq, Repr

/-- An item record (Table 09-2). -/
structure ItemRec where
  entry : Nat
  cls : Nat
  atomic : Bool
  flow : Nat
  group : Nat
  chainLast : Bool
  pin : Option Nat
  dep : Option (Bool × Nat)
  done : Option (Bool × Nat)
  doneN : Nat
  args : List Word
  arm : Nat
deriving DecidableEq, Repr

/-- Where an item of an instance stands. -/
inductive ItemSt where
  | waiting
  | ready
  | inService (core : Nat)
  /-- Ended with a status of Table 09-4 and a program status. -/
  | ended (status : Nat) (prog : Nat)
deriving DecidableEq, Repr

structure Item where
  rcd : ItemRec
  cls : Cls
  st : ItemSt
  preShift : Nat
  checked : Nat
  suppress : List Nat
  fault : Option FaultRec
  evs : List Nat
  sat : Bool
  hostFault : Bool
  counts : Nat × Nat
  /-- The run of the item's chain-last stage ended RERUN (R284). -/
  rerun : Bool
  /-- Decrements held while its group is open: (object, n, aborted) (R285). -/
  heldDecs : List (Nat × Nat × Bool)
  /-- Initial count of its dependence object at creation (R284). -/
  depInit : Nat
  /-- The core of a failed run, which a retry avoids (R283). -/
  avoid : Option Nat
  /-- The item holds its atomic flow (R273). -/
  holdsFlow : Bool
  /-- Its dependence has been met; an item that gave way to another of its flow needs no second time (R256, R272). -/
  met : Bool := false
deriving DecidableEq, Repr

/-- An instance of a program, a sweep or a service (R267, R286). -/
structure Inst where
  num : Nat
  port : Nat
  fn : Nat
  ring : Nat
  pos : Nat
  opcode : Nat
  program : Nat
  base : Nat
  syncCount : Nat
  word : Word
  items : List Item
  /-- Result 2 of the completion (R406). -/
  result2 : Word
  report : Nat
  acceptedAt : Nat
  budget : Nat
  service : Option (Nat × Nat)
  /-- Versions of tables recorded for a service instance (R416). -/
  versions : List (Nat × Bool)
  armStatus : List (Nat × Nat)
  /-- The instance has changed a count of its ring (R408). -/
  counted : Bool
  /-- Version records whose new version a TRAIN_STEP waits for: (ready object, record address) (R262). -/
  train : List (Nat × Nat)
  orphaned : Bool
deriving DecidableEq, Repr

/-- A program record (Table 09-1) with its checked item table. -/
structure Program where
  code : Nat
  crumbs : Nat
  syncTmpl : Nat
  syncCount : Nat
  items : List ItemRec
deriving DecidableEq, Repr

/-- A bound service (R414). -/
structure Service where
  program : Nat
  area : Nat
  slots : Nat
  tables : List Nat
  used : List Nat
  unbinding : Bool
deriving DecidableEq, Repr

/-- Who armed a stream's generation (R295, R296). -/
inductive ArmSrc where
  | ring (r : Nat) (pos : Nat)
  | item (inst : Nat) (idx : Nat)
deriving DecidableEq, Repr

/-- One generation of a stream (R290). -/
structure Gen where
  src : ArmSrc
  list : Nat
  buf : Nat
  bufLog : Nat
  drain : Nat
  base : Nat
  started : Bool
  delivered : Nat
  requested : Nat
  consumed : Nat
  /-- Crumbs written beyond the unbroken prefix. -/
  arrived : List Nat
  /-- Source of each requested Crumb not yet arrived: (index, host, address). -/
  asked : List (Nat × Bool × Nat)
  /-- Command list entry being read, and Crumbs of it already requested. -/
  entry : Nat
  within : Nat
  ended : Option Nat
  /-- The ring, function, PASID and item that armed it, which its host reads carry (R369, R384). -/
  ring : Nat := 0
  fn : Nat := 0
  pasid : Option (BitVec 20) := none
  item : ItemId := ⟨0, 0⟩
deriving DecidableEq, Repr

structure Stream where
  gens : List Gen := []
  /-- An arm that found a queued generation and waits (R295). -/
  waiting : List Gen := []
  status : Nat := 0
deriving DecidableEq, Repr

/-! ### Tables and graphs (chapters 03, 04, 10) -/

/-- A live table: its descriptor (Table 03-2), the active version and the retired state of the other. -/
structure Table where
  id : Nat
  len : Nat
  opt : Nat
  mom32 : Bool
  frozen : Bool
  shared : Bool
  port : Nat
  eps : Nat
  rows : Nat
  scope : Nat
  narrowest : Nat
  versioned : Bool
  active : Bool
  dir0 : Nat
  dir1 : Nat
  def0 : Nat
  def1 : Nat
  beta1 : Nat
  beta1c : Nat
  beta2 : Nat
  beta2c : Nat
deriving DecidableEq, Repr

/-- One contribution of an update window (R87). -/
structure Contrib where
  row : Option Nat
  idx : Nat
  term : NodeArr
  weighted : Bool
  poisoned : Bool
  /-- The Sifter whose store holds it (R89). -/
  sf : Nat
deriving DecidableEq, Repr

/-- What every member of a window shares (R88). -/
structure WinPar where
  s : Nat
  sr : Bool
  seed : Nat
  depth : Nat
  rankLevel : Nat
deriving DecidableEq, Repr

/-- An APPLY that waits for end markers (R90). -/
structure ApplyWait where
  core : Nat
  req : Nat
  ranks : Nat
  since : Nat
  limit : Nat
deriving DecidableEq, Repr

/-- An update window of one port on one table: contributions here, those bound elsewhere, and
what other ranks have sent (R87-R90). -/
structure Window where
  port : Nat
  table : Nat
  version : Bool
  par : Option WinPar
  contribs : List Contrib
  /-- Contributions for rows homed on another device: (device, contribution). -/
  fwd : List (Nat × Contrib)
  /-- Nodes received from other ranks: (row, node). -/
  nodes : List (Option Nat × TreeItem)
  /-- The device that each of them came from, in the same order. -/
  srcs : List Nat := []
  /-- Nodes that came in and were passed on to another home: rank and device (R83, R102). -/
  away : List (Nat × Nat) := []
  /-- Ranks whose end marker has arrived. -/
  ranks : List Nat
  /-- The device that each of their markers came from, in the same order. -/
  froms : List Nat := []
  /-- Sifters that serve the window in sorted mode (R85). -/
  sorted : List Nat
  spoiled : Bool
  overflow : Bool
  wait : Option ApplyWait
  /-- Markers of ranks that arrived too late are discarded with their window. -/
  closed : Bool
deriving DecidableEq, Repr

/-- An operation of queued work on one row that has reached its Sifter and is not carried out (R86, R94). -/
structure RowOp where
  who : Nat × Nat
  port : Nat
  sf : Nat
  table : Nat
  version : Bool
  /-- The row, or the default row. -/
  row : Option Nat
  write : Bool
  /-- A row of tier H: its bytes come from the host, a block at a time. -/
  remote : Bool
  /-- List positions of the request that name the row, and whether its Sifter serves it in sorted mode (R85). -/
  positions : Nat
  sorted : Bool
deriving DecidableEq, Repr

/-- A live graph (Table 04-1). -/
structure Graph where
  id : Nat
  form : Nat
  scope : Nat
  shared : Bool
  port : Nat
  planes : Nat
  vertices : Nat
  vdir : Nat
  ndir : Nat
  pdir : Nat
  nsplit : Nat
  nsize : Nat
deriving DecidableEq, Repr

/-- A sweep under way (R135-R138). -/
structure Sweep where
  graph : Nat
  inst : Nat
  kind : Nat
  maxIter : Nat
  startPlane : Nat
  s : Nat
  a : Nat
  b : Nat
  tol : Nat
  iter : Nat
  /-- Values of this device for the iteration are written. -/
  computed : Bool
  /-- The end marker of the iteration has been sent. -/
  marked : Bool := false
  delta : Word
  prog : Prog
  since : Nat
  limit : Nat
deriving DecidableEq, Repr

/-- A table switch under way at its coordinator (R99). -/
structure Switch where
  ring : Nat
  pos : Nat
  table : Nat
  version : Bool
  waiting : List Nat
  refused : Bool
deriving DecidableEq, Repr

/-- A chunk of a pool (R305, R306): unit, byte offset, log2 Crumbs, port, in use. -/
structure Chunk where
  unit : Nat
  off : Nat
  log2 : Nat
  port : Nat
  used : Bool
deriving DecidableEq, Repr

/-- A block move in progress (R307): the entry and its address, word 0 before and after, and how far it is. -/
structure Move where
  entry : EntryRef
  addr : Nat
  oldWord : Nat
  newWord : Nat
  port : Nat
  /-- Ring and position of the `MIGRATE` that asked for it, if one did. -/
  src : Option (Nat × Nat)
  prog : Prog
  /-- The records are written; tier 2 targets wait for their page switches. -/
  copied : Bool
  /-- Offsets and lengths in the target that hold poison. -/
  bad : List (Nat × Nat)
  /-- Copies of this move that have failed (Table 14-6). -/
  fails : Nat := 0
deriving DecidableEq, Repr

/-- The old chunk of a move (R308): where it is, its port, and the requests that may have read the old entry. -/
structure OldChunk where
  entry : EntryRef
  unit : Nat
  off : Nat
  log2 : Nat
  port : Nat
  holders : List (Nat × Nat)
deriving DecidableEq, Repr

/-- A shard move to another device (R102, R143). -/
structure ShardMove where
  shard : Nat
  scope : Nat
  newHome : Nat
  src : Option (Nat × Nat)
  /-- The map entry has `moving` set (R102). -/
  started : Bool
  /-- The copies are on their way. -/
  sent : Bool := false
  /-- Tags of `BLOCK_COPY` messages not yet answered. -/
  copies : List Nat
  /-- Devices that have not acknowledged the map change. -/
  acks : List Nat
  transferred : Bool
  failed : Bool
  prog : Prog
deriving DecidableEq, Repr

/-- A segment that a shard move has brought and whose lists are yet to be copied (R143). -/
structure Staged where
  dev : Nat
  kind : Nat
  graph : Nat
  index : Nat
  data : Bytes
deriving DecidableEq, Repr

/-- A map change that is applied and not acknowledged: its packet's source, its `mtag`-bearing info word,
and the requests issued under the old entry that are not answered (R359). -/
structure MapWait where
  dev : Nat
  info : Nat
  tags : List Nat
  /-- NU requests of this device that may hold records of the old home's lists. -/
  whos : List (Nat × Nat)
deriving DecidableEq, Repr

/-! ### Rings (chapter 13) -/

inductive RingSt where
  | idle
  | active
  | draining
  | stopped
  | orphaned
deriving DecidableEq, Repr

/-- An accepted descriptor that has not completed. -/
structure Live where
  pos : Nat
  entry : Bytes
  ext : Option Bytes
  acceptedAt : Nat
  /-- The opcode's own effect has been carried out; only its end is awaited. -/
  begun : Bool
  /-- Reservations until the instance is created: first sync object and their count, item-store entries, slot (R267, R416). -/
  base : Nat
  syncs : Nat
  items : Nat
  slot : Nat
  /-- FENCE reads not yet answered (R388). -/
  reads : Nat
  /-- The read of the entry failed (R403). -/
  failed : Bool := false
  /-- Work that began before a `GRAPH_DRAIN` was taken up and has not completed (R141). -/
  waitsFor : List (Nat × Nat) := []
  /-- The instance number taken at acceptance, of a descriptor that creates an instance (R269). -/
  num : Option Nat := none
  /-- Its ring became ORPHANED after it was accepted (R391). -/
  orphaned : Bool := false
  /-- Its place in the order of acceptance of all rings (R412). -/
  order : Nat := 0
  /-- The active versions of a service's tables at the acceptance of its request (R97, R416). -/
  versions : List (Nat × Bool) := []
deriving DecidableEq, Repr

/-- A ring: the words +0 to +32 of its set-up window (Table 16-18), its state and its positions. -/
structure Ring where
  w0 : Word := 0
  w1 : Word := 0
  w2 : Word := 0
  w3 : Word := 0x200000
  w4 : Word := 0
  st : RingSt := .idle
  refusal : Nat := 0
  sqTail : BitVec 32 := 0
  sqHead : BitVec 32 := 0
  cqHead : BitVec 32 := 0
  cqTail : BitVec 32 := 0
  /-- The descriptor read and not accepted: position, entry, extension, counter value at the read. -/
  head : Option Live := none
  watched : Bool := false
  /-- The next entry has an extension that `sqTail` does not cover yet (R401). -/
  halfSeen : Bool := false
  live : List Live := []
  pending : Nat := 0
  pendingSince : Nat := 0
  oor : Nat := 0
  missing : Nat := 0
  badVertex : Nat := 0
  late : Nat := 0
  /-- Re-reads of a descriptor whose read returned bad data (Table 14-6). -/
  rereads : Nat := 0
  /-- How often the ring has been set up again after it was ORPHANED: what its earlier descriptors left running
  answers to none of its own (R393). -/
  epoch : Nat := 0
deriving DecidableEq, Repr

/-! ### Links (chapter 11) -/

structure Packet where
  kind : Nat
  cls : Nat
  src : Nat
  dst : Nat
  hops : Nat
  last : Bool
  info : Word
  body : Bytes
deriving DecidableEq, Repr

inductive LinkSt where
  | down
  | training
  | active
  | reinit
  | held
  | lost
deriving DecidableEq, Repr

/-- One Fjarell link: its state and phase (Tables 11-2, 16-9), the two flit directions (R328), and credits (R336). -/
structure Link where
  st : LinkSt := .training
  phase : Nat := 0
  /-- Counter value when the phase began. -/
  since : Nat := 0
  retried : Bool := false
  peerId : Nat := 0
  peerLink : Nat := 0
  peerValid : Bool := false
  resends : Nat := 0
  discards : Nat := 0
  /-- The next DATA seq to send and the next one expected. -/
  txSeq : BitVec 12 := 0
  rxSeq : BitVec 12 := 0
  /-- Flits sent and not acknowledged: (seq, payload), and how many have been resent since. -/
  replay : List (BitVec 12 × Bytes) := []
  resendFrom : Nat := 0
  resendCount : Nat := 0
  resending : Bool := false
  /-- Software answered the rung of this resend (R437). -/
  answered : Bool := false
  nakSend : Bool := false
  goodFlits : Nat := 0
  sinceIdle : Nat := 0
  lastAckAt : Nat := 0
  /-- Bytes packed for the next DATA flits, and how many at their end only fill. -/
  txBytes : Bytes := []
  txFill : Nat := 0
  txq : List Packet := []
  rxBytes : Bytes := []
  rxq : List Packet := []
  /-- Packets of messages that lost a packet are dropped until their last (class, source). -/
  spoilt : List (Nat × Nat) := []
  credits : List Nat := [0, 0, 0, 0, 0]
  owed : List Nat := [1024, 8192, 12288, 12288, 12288]
  /-- The initial credits have been sent and received. -/
  credSent : Bool := false
  credGot : Bool := false
  /-- Local filter settings: pre, main, post of each lane. -/
  taps : List Int := [0, 0, 0, 0, 0, 0]
  localConverged : Bool := false
  peerConverged : Bool := false
deriving DecidableEq, Repr

/-- A channel record (Table 11-8). -/
structure ChanRec where
  send : Bool
  bc : Bool
  add : Bool
  peer : Nat
  peerChan : Nat
  next : Option Nat
  fold : Bool
  foldLevel : Nat
  port : Nat
  buf : Nat
  bufSize : Nat
  len : Nat
  contrib : Nat
  ncontrib : Nat
  go : Nat
  done : Nat
  base : Nat
  out : Nat
deriving DecidableEq, Repr

structure Channel where
  rcd : Option ChanRec := none
  /-- Ring, position and counter value of the arm, with its timeout in ticks. -/
  arm : Option (Nat × Nat × Nat × Nat) := none
  grant : Option Nat := none
  granted : Bool := false
  /-- Bytes received so far, and whether the message is whole. -/
  got : Bytes := []
  whole : Bool := false
  sentMsg : Bool := false
  waiting : List (Nat × Nat) := []
deriving DecidableEq, Repr

/-- A fabric fence under way (R347). -/
structure FenceWait where
  ring : Nat
  pos : Nat
  id : Nat
  waiting : List Nat
  since : Nat
  limit : Nat
deriving DecidableEq, Repr

/-- A fence of another device: the classes it has arrived in, and the requests that came before it and
are not answered. -/
structure FenceIn where
  dev : Nat
  id : Nat
  classes : List Nat
  tags : List Nat
deriving DecidableEq, Repr

/-- A request of another device that is being served here, or is held (R96, R102, R142). -/
structure Remote where
  dev : Nat
  tag : Nat
  port : Nat
  /-- The kind of its body: 1 `SIFT_REQ`, 2 `NU_REQ`. -/
  kind : Nat
  /-- It came as a `FORWARD`, and is not forwarded again (R103, R359). -/
  fwd : Bool
  body : Bytes
  /-- Served: the answer below waits only for page writes. -/
  served : Bool
  status : Nat
  count : Nat
  results : List Bytes
  prog : Prog
deriving DecidableEq, Repr

/-- Space granted for the record of a slice (R357): the grant number, the work and the list it is of, the slice, and the
device of the slice before. -/
structure Knead where
  num : Nat
  who : Nat × Nat
  list : Nat
  slice : Nat
  dev : Nat
deriving DecidableEq, Repr

/-! ### Host ports (chapter 12) -/

inductive Phase where
  | startup
  | service
  | test
  | recovery
deriving DecidableEq, Repr

/-- Configuration-space state of a function that the device's behaviour depends on. -/
structure FnCfg where
  bme : Bool := false
  ro : Bool := true
  ido : Bool := false
  atomicEn : Bool := false
  ats : Bool := false
  pri : Bool := false
  pageAlloc : Nat := 0
  msix : Bool := false
  /-- MSI-X vectors whose mask bit is clear; the others are masked (R409). -/
  unmasked : List Nat := []
  pendingVec : List Nat := []
  d3 : Bool := false
  mps : Nat := 128
  mrrs : Nat := 512
  /-- Width of the tags in use: 8, 10 or 14 bits (Table 12-1). -/
  tagBits : Nat := 8
  /-- TPH Requester Enable, PASID Enable, and the Completion Timeout Value, 0 for the default of 50 ms (Table 12-1). -/
  tph : Bool := false
  pasidEn : Bool := false
  cplTimeout : Nat := 0
  /-- A Response Failure arrived and PRI has not been reset (R383). -/
  priFailed : Bool := false
  other : Tab Nat := []
deriving DecidableEq, Repr

/-- What a host access is for. -/
inductive AccWhy where
  /-- A counter block, report or MSI-X message. -/
  | posted
  /-- A completion record of a ring: its descriptor's `irq`, the acceptance of its instance, whose time it reports, with
  the budget not exceeded when it was made (0: none), and the service and slot that its release frees (R406, R409, R416, R421). -/
  | record (ring : Nat) (irq : Bool) (since : Option (Nat × Nat)) (slot : Option (Nat × Nat))
  /-- The read of a ring's next entry (R402). -/
  | entry (ring : Nat)
  /-- The read of the structure that a set-up descriptor names (R403). -/
  | setup (ring : Nat) (pos : Nat)
  | hld (core : Nat) (d : Nat)
  | hst (core : Nat)
  | xfer (core : Nat) (req : Nat)
  | fence (ring : Nat) (pos : Nat)
  | atomic (ring : Nat) (pos : Nat)
  /-- A Crumb of the generation of a stream that a source armed. -/
  | stream (st : Nat) (src : ArmSrc) (crumb : Nat)
  /-- Bytes of a tier H block, for a piece of work (Job.lean). -/
  | tierH (core : Nat) (req : Nat)
deriving DecidableEq, Repr

/-- A request to an SPDM responder (R466). -/
inductive SpdmCmd where
  | getVersion (r : SpdmReq)
  | getCapabilities (r : SpdmReq)
  | negotiateAlgorithms (r : SpdmReq)
  | getDigests (r : SpdmReq)
  | getCertificate (r : SpdmReq) (slot off len : Nat)
  | challenge (r : SpdmReq) (slot : Nat) (nonce : Bytes)
  | getMeasurements (r : SpdmReq) (slot index : Nat) (nonce : Bytes)
  | unsupported (r : SpdmReq) (code : Byte)
deriving DecidableEq, Repr

/-- Traffic of a host that waits while the port, a hub or a Sifter restarts (R433, R434, R456): a BAR4 read or write at a
device address, the answer to a read of the device, or another access, as its command gives it. -/
inductive PortIn where
  | read (port addr len : Nat)
  | write (port addr : Nat) (data : Bytes)
  | answer (port acc : Nat) (ans : HostAns)
  | cmd (port : Nat) (i : Instr)
  | doe (port : Nat) (c : SpdmCmd)
deriving DecidableEq, Repr

/-- The request a host access makes (Table 12-6). -/
inductive AccKind where
  | read
  | write (data : Bytes) (ro : Bool)
  | msix (vector : Nat)
  | atomic (cas wide : Bool) (operand compare : Word)
  /-- The zero-length read of a FENCE (R388). -/
  | fenceRead
deriving DecidableEq, Repr

inductive AccSt where
  /-- Waits behind earlier writes of its function, or has just been made. -/
  | queued
  /-- Held: Bus Master Enable clear or D3hot (R366). -/
  | held
  | xlate
  | pageReq
  /-- Sent; a read or an atomic waits for its completion. -/
  | sent
deriving DecidableEq, Repr

/-- A host access of the device that is not finished (R376-R384). -/
structure HostAcc where
  id : Nat
  port : Nat
  fn : Nat
  pasid : Option (BitVec 20)
  addr : Nat
  len : Nat
  kind : AccKind
  why : AccWhy
  st : AccSt
  /-- Counter value when it was held, or when its page request was sent. -/
  since : Nat
  item : ItemId
deriving DecidableEq, Repr

/-- A cached translation (R378). -/
structure Atc where
  fn : Nat
  pasid : Option (BitVec 20)
  page : Nat
  pages : Nat
  /-- The page of the host that the first one translates to, and whether it may be written (R378, R380). -/
  base : Nat := page
  write : Bool := true
deriving DecidableEq, Repr

structure Port where
  phase : Phase := .startup
  before : Phase := .startup
  released : Bool := false
  /-- PERST# is asserted (R495: the board holds it through power-up). -/
  perst : Bool := true
  linkUp : Bool := false
  enumerated : Bool := false
  vfEnable : Bool := false
  numVFs : Nat := 0
  bar4Log2 : Nat := 34
  fns : Tab FnCfg := []
  atc : List Atc := []
  /-- Invalidations not yet answered: function, page, and the reads that used one of its translations (R379). -/
  invals : List (Nat × Nat × List Nat) := []
  /-- Page requests sent and not answered: group, and (function, PASID, page) (R380). -/
  pageOut : List (Nat × Nat × Option (BitVec 20) × Nat) := []
  /-- What the link trained to (R364): the rate by its place in Table 12-1 from the lowest, the lanes, and flit mode. -/
  rate : Nat := 0
  lanes : Nat := 0
  flit : Bool := false
  /-- Translations asked ahead of a transfer from the host: (function, PASID, page) (R381). -/
  ahead : List (Nat × Option (BitVec 20) × Nat) := []
  /-- Error event moderation (R480). -/
  modPending : Bool := false
  /-- Counter value at which the running moderation interval ends. -/
  modEnd : Nat := 0
  /-- Latched upper half of a split read (R472): (offset, upper half). -/
  latch : Option (Nat × BitVec 32) := none
  /-- Lower half held by a split write of each function (R472): (offset, lower half). -/
  heldHalf : Tab (Option (Nat × BitVec 32)) := []
  /-- The samples of the stream windows (R483): the four words of each stream read. -/
  samples : Tab (List Word) := []
  /-- Pending device reset request: (deadline). -/
  resetReq : Option Nat := none
  /-- The link has stayed down since the other port's reset request (R441). -/
  downSince : Option Nat := none
  /-- The command that the mailbox runs, as `MBOX_CMD` gives it (R487). -/
  mboxBusy : Option Nat := none
  mboxDone : Bool := false
  mboxStatus : Nat := 0
  mboxCount : BitVec 32 := 0
  mboxData : Memory := []
  conflict : Bool := false
  conflictFeature : Nat := 0
  conflictCount : BitVec 32 := 0
  traceTriggered : Nat := 0
deriving DecidableEq, Repr

/-! ### Memory protection, logs and recovery (chapters 10, 14) -/

/-- A log entry (Table 14-4). -/
structure LogEntry where
  code : Nat
  cls : Nat
  rung : Nat
  answer : Nat
  unit : Nat
  ticks : Nat
  info0 : Word
  info1 : Word
deriving DecidableEq, Repr

/-- An error log with its two views (R431, R484). -/
structure Log where
  view0 : List LogEntry := []
  view1 : List LogEntry := []
  overflow0 : BitVec 32 := 0
  overflow1 : BitVec 32 := 0
  counts : Tab (BitVec 32) := []
  poisonReads : BitVec 32 := 0
  /-- Counter value + 1 of the last CORRECTED entry written, by code. -/
  corrected : Tab Nat := []
  /-- Tick count of the device reset the kept entries survived (R443). -/
  resetMark : Option Nat := none
  /-- The latest entries written to a view, newest first, at most 16 (`LOG_RECENT`). -/
  recent : List LogEntry := []
deriving DecidableEq, Repr

/-- A recoverable unit of a function (R433-R435). -/
structure Unit' where
  reinit : Bool := false
  lost : Bool := false
  climbs : List Nat := []
  rung2 : List Nat := []
  /-- Code of the event that last restarted it, which `FUNCTION_LOST` names (Table 14-5). -/
  code : Nat := 0
deriving DecidableEq, Repr

/-- An event held in host-assisted mode (R437, R485). -/
structure HeldEvent where
  unit : FnUnit
  rung : Nat
  code : Nat
  token : Nat
  since : Nat
  /-- Log, ports, `unit` field and information of its entry, which an answer's entry repeats. -/
  log : Nat
  ports : List Nat
  field : Nat
  info0 : Word
  info1 : Word
  /-- Port whose `ESCALATE` at rung 2 has asked for a device reset. -/
  escalated : Option Nat := none
deriving DecidableEq, Repr

/-- A line of the die cache (R320-R322): a device line, or a host line with its data. -/
structure CacheLine where
  /-- 0 device line, 1 + p host line of port p. -/
  space : Nat
  /-- Line address / 128. -/
  line : Nat
  express : Bool
  dirty : Bool
  /-- Data of a host line; a device line's data is in `dmem`. -/
  data : Bytes
deriving DecidableEq, Repr

/-- A streaming-store tracker (R323): source, next line, lines seen. -/
structure Tracker where
  src : Nat
  next : Nat
  run : Nat
deriving DecidableEq, Repr

/-- A tier 2 page write in progress (R316): the hub, the page's device address / 4,096, its new
contents, whether the write brought all of them, and the core and request that wait for the switch. -/
structure FlashWrite where
  hub : Nat
  page : Nat
  data : Bytes
  whole : Bool
  core : Option (Nat × Nat)
deriving DecidableEq, Repr

/-! ### Start-up, firmware, power (chapters 15, 17) -/

inductive Stage where
  | off
  | wake
  | verify
  | clocks
  | bridges
  | memories
  | flash
  | links
  | release
  | done
deriving DecidableEq, Repr

structure Fuses where
  rootHash : List (BitVec 256) := [0, 0, 0, 0]
  revoked : BitVec 4 := 0
  /-- Anti-rollback counter, thermometer coded (R462). -/
  svn : BitVec 128 := 0
  uds : BitVec 256 := 0
  serial : Word := 0
  /-- 0 AN3100-8T, 1 AN3100-16T. -/
  code : Byte := 0
  moduleRev : Byte := 0
deriving DecidableEq, Repr

/-- The slot state of the boot flash (R458) and the invalid marks of R468. -/
structure SlotState where
  active : Bool := false
  pending : Bool := false
  pendingFlag : Bool := false
  trials : Nat := 0
  seq : Nat := 0
  invalid0 : Bool := false
  invalid1 : Bool := false
deriving DecidableEq, Repr

structure Boot where
  /-- The stage under way; a stage's command ends it. -/
  stage : Stage := .wake
  /-- 0 READY, 1 DEGRADED, 2 RECOVERY (R453). -/
  outcome : Nat := 0
  /-- First failed stage, 1-8 for A-H; 0 for none. -/
  failStage : Nat := 0
  trial : Bool := false
  svn : Nat := 0
  /-- The place in `Config.free` of the time stage A takes, which the spec bounds only (R451; DESIGN CHOICE, log entry 2). -/
  wake : Nat := 0
  /-- Counter value at the start of the stage, and durations of stages A-H. -/
  since : Nat := 0
  stageTicks : List Nat := [0, 0, 0, 0, 0, 0, 0, 0]
  /-- Hubs whose tier 2 is lost (R453). -/
  tier2Lost : List Nat := []
  /-- The firmware update session (R468). -/
  session : Option FwOwner := none
  /-- Jinal's copy of the slot state that the flash holds (R458). -/
  slots : SlotState := {}
  /-- Measurements 1 to 11 (Table 15-7), index 10 zero before a lock. -/
  meas : List (BitVec 256) := List.replicate 11 0
  /-- Alias secret key of this boot (R463); 0 before stage B. -/
  aliasKey : Nat := 0
  /-- The alias certificate that the ROM signed in stage B, before it erased the DeviceID key and locked `uds` (R463, R464). -/
  aliasCert : Bytes := []
  udsLocked : Bool := false
  /-- Jinal's SRAM, of which the header and the component table under check are modelled, and the boot image SRAM (R450, R460). -/
  sram : Memory := []
  image : Memory := []
deriving DecidableEq, Repr

structure PowerCtl where
  vin : Nat := 54000
  pwrEn : Bool := true
  pwrgd : Bool := true
  railsUp : Nat := 7
  railFault : Option Nat := none
  standby : Bool := true
  /-- The rails are being raised (R493). -/
  raising : Bool := false
  /-- Power is off for a power cycle until its off time, in seconds, has passed. -/
  cycling : Bool := false
  offSeconds : Nat := 0
  /-- A rail failure stopped the sequence until PWR_EN is next raised (R493). -/
  needRaise : Bool := false
deriving DecidableEq, Repr

structure Mgmt where
  addr : Option (BitVec 7) := none
  /-- Latched causes of ALERT# (R500): halt, thermal warning, reset request, power, cable. -/
  causes : BitVec 5 := 0
  resetDeadline : Option Nat := none
  halted : Bool := false
  haltThermal : Bool := false
  haltSupply : Bool := false
  haltSensor : Nat := 0
  haltReading : BitVec 16 := 0
  readings : List (BitVec 16) := List.replicate 60 0
  /-- Sensors at or above their warning threshold at the last sample. -/
  warned : List Nat := []
  /-- Cable of each link connector: length in cm and part code; none when CPRSNT# is high (R497). -/
  cables : Tab (Option (Nat × Bytes)) := []
  strap : BitVec 2 := 3
  /-- The firmware command of the management interface that runs: its word and its data (R498). -/
  running : Option (Nat × Bytes) := none
deriving DecidableEq, Repr

/-- The state of an SPDM responder (R467): how far its exchange has come, and the messages that its signatures cover: of
the negotiation, of the certificates, and of the measurements since the last signature. -/
structure Spdm where
  step : Nat := 0
  vca : Bytes := []
  certs : Bytes := []
  meas : Bytes := []
deriving DecidableEq, Repr

/-! ### What the block sends out -/

/-- One thing the block sends out of itself, in the order it is released. -/
inductive Output where
  /-- A posted write: port, function, address, PASID, bytes, Relaxed Ordering and ID-Based Ordering (R376). -/
  | hostWrite (port fn addr : Nat) (pasid : Option (BitVec 20)) (data : Bytes) (ro ido translated : Bool)
  /-- A read request, answered by HOST_READ_COMPLETION with the same number; length 0 for a FENCE (R388). -/
  | hostRead (port fn acc addr len : Nat) (pasid : Option (BitVec 20)) (ido translated : Bool)
  | hostAtomic (port fn acc addr : Nat) (pasid : Option (BitVec 20)) (cas wide : Bool) (operand compare : Word) (ido translated : Bool)
  | translationRequest (port fn acc page : Nat) (pasid : Option (BitVec 20)) (ido : Bool)
  /-- A page request, in a group of its own (R380). -/
  | pageRequest (port fn group page : Nat) (pasid : Option (BitVec 20)) (ido : Bool)
  | invalidationDone (port fn page : Nat)
  /-- An MSI-X message, a posted write (Table 12-6). -/
  | msix (port fn vector : Nat) (ro ido : Bool)
  /-- Data that answers a register, doorbell or BAR4 read. -/
  | readData (port : Nat) (data : Bytes) (poisoned : Bool)
  /-- Answer to a configuration request; none is Configuration Request Retry Status. -/
  | cfg (port fn : Nat) (v : Option Nat)
  | flit (link : Nat) (bytes : Bytes)
  | mgmt (status : Nat) (data : Bytes)
  /-- The module's own address, in answer to the Alert Response Address (R500). -/
  | ownAddress (addr : BitVec 7)
  | spdm (r : Responder) (msg : Bytes)
  | alert (asserted : Bool)
  | inBandInterrupt
  | pinPulse (port pin : Nat)
  /-- The link of a port goes down, seen by its host as DL_Down. -/
  | linkDown (port : Nat)
deriving DecidableEq, Repr

/-! ### The state -/

structure State where
  /-- Commands that wait, first in, first out. -/
  pending : List Instr
  /-- What has been sent out, oldest first. -/
  out : List Output
  /-- The model's own counter of open values (DESIGN CHOICE, log entry 2). -/
  freeCtr : Nat
  /-- The free-running counter of R18, in 10 ns ticks. -/
  ticks : Nat
  fuses : Fuses
  bootFlash : Memory
  boot : Boot
  power : PowerCtl
  mgmt : Mgmt
  cores : Tab Core
  syncs : Tab SyncObj
  programs : Tab (Option Program)
  services : Tab (Option Service)
  insts : List Inst
  instCount : Nat
  /-- Descriptors accepted so far, of all rings (R412). -/
  acceptCount : Nat
  /-- Ready items in the order in which they became ready. -/
  readyQ : List ItemId
  /-- (port, flow) of atomic items in service. -/
  flows : List (Nat × Nat)
  streams : Tab Stream
  /-- Last stream with drain 0 granted in each cluster (R293). -/
  rrStream : Tab Nat
  /-- The core that last ran an item of an atomic flow, plus one, by 65,536 × port + flow (R275). -/
  flowLast : Tab Nat
  tables : Tab (Option Table)
  windows : List Window
  graphs : Tab (Option Graph)
  sweeps : List Sweep
  /-- Sweep end markers that have arrived: (graph, device, iteration, value). -/
  sweepMarks : List (Nat × Nat × Nat × Word)
  switches : List Switch
  chunks : List Chunk
  moves : List Move
  /-- Old chunks awaiting release (R308). -/
  oldChunks : List OldChunk
  shardMoves : List ShardMove
  staged : List Staged
  mapWaits : List MapWait
  /-- Ranges of device areas that hold lists: graph, first entry, entries (R143). -/
  areas : List (Nat × Nat × Nat)
  /-- Entries visited in this epoch (R310), and bytes moved into tier 2 of each hub in it (R317). -/
  visited : List EntryRef
  flashMoved : Tab Nat
  /-- Shard counts and their window (R310): reads + 2^32 × updates. -/
  shardCounts : Tab Word
  shardWindow : Tab Word
  epochStart : Nat
  /-- Device memory of tiers 0, 1 and 2, by device address. -/
  dmem : Memory
  /-- First addresses of the poisoned units: a Crumb of tier 0, a word of tier 1, a page of tier 2 (R427). -/
  poison : List Nat
  cache : List CacheLine
  trackers : List Tracker
  /-- Pages of the flash page cache of each hub, most recent last (R315). -/
  pageCache : List (Nat × Nat)
  flashWrites : List FlashWrite
  hubWritten : Tab Nat
  tierRefused : Tab Nat
  rings : Tab Ring
  /-- Last ring read in each class (R402). -/
  ringTurn : Tab Nat
  /-- Set-up registers written since reset, by `regKey`; none reads as the reset value. -/
  regs : Tab (Option Word)
  locked : Bool
  lockBy : Nat
  lockRefused : Bool
  lockCause : Nat
  lockCount : BitVec 32
  /-- The latest request for the lock that was handled: tick, port, and cause and register of its refusal, zeros when it set the lock (R475). -/
  lockLast : Option (Nat × Nat × Nat × Nat)
  ports : Tab Port
  accs : List HostAcc
  nextAcc : Nat
  /-- Completion records just released, whose ring has not been told: ring, `irq`, service and slot (R409, R416). -/
  released : List (Nat × Bool × Option (Nat × Nat))
  /-- Traffic of the hosts that waits for a restarting unit, oldest first (R433, R434). -/
  portIn : List PortIn
  links : Tab Link
  channels : Tab Channel
  fences : List FenceWait
  nextFence : Nat
  /-- Fences of other devices that are not answered. -/
  fencesIn : List FenceIn
  nextTag : Nat
  /-- RESULT bodies received in the space reserved for a response: (device, tag, bytes) (R358). -/
  responses : List (Nat × Nat × Bytes)
  /-- Next `mtag` and outstanding MG messages by destination (R358, R362). -/
  mtags : Tab Nat
  mgOut : List (Nat × Nat)
  mgWait : List Packet
  /-- Requests of other devices under service. -/
  remotes : List Remote
  /-- RQ requests that are not answered, whose response space is reserved (R358): device and tag. -/
  rqOut : List (Nat × Nat)
  /-- MG messages in the device store, up to four of each source (R358): the link they came on, and the packet. -/
  mgIn : List (Nat × Packet)
  /-- The channel whose BC message to a device is on its way, by device, and the BC packets that wait behind such messages:
  channel (4,096 for a fence) and packet (R334). -/
  bcNow : Tab (Option Nat)
  bcQ : List (Nat × Packet)
  kneads : List Knead
  /-- Grants that other devices' slices have sent and no record has used: device, number and bytes (R357). -/
  kneadGrants : List (Nat × Nat × Nat)
  /-- Requests that have reached the Sifters or NUs and are not finished, in order of arrival: a core and
  its request, or 128 + device and its tag. -/
  queue : List (Nat × Nat)
  /-- Operations on rows that wait at the Sifters, in order of arrival (R86, R94). -/
  rowLine : List RowOp
  /-- Invalid-operation event counters of the Sifters (R32). -/
  sifterInvalid : Tab (BitVec 32)
  logs : Tab Log
  units : Tab Unit'
  heldEvents : List HeldEvent
  nextToken : Nat
  /-- How far the exchange of each SPDM responder has come: version, capabilities, algorithms (R467). -/
  spdm : Tab Spdm
deriving DecidableEq, Repr

/-- The machine right after power good (R450): the counter at zero, stage A of start-up to run, every
function in hardware mode and every control at its reset value (R4, R488). Values the spec does not
give (fuses, boot flash, memory contents) are named in log entries 1 and 3, both DESIGN CHOICE. -/
def State.reset : State where
  pending := []
  out := []
  freeCtr := 1
  ticks := 0
  fuses := {}
  bootFlash := []
  boot := {}
  power := {}
  mgmt := {}
  cores := []
  syncs := []
  programs := []
  services := []
  insts := []
  instCount := 0
  acceptCount := 0
  readyQ := []
  flows := []
  streams := []
  rrStream := []
  flowLast := []
  tables := []
  windows := []
  graphs := []
  sweeps := []
  sweepMarks := []
  switches := []
  chunks := []
  moves := []
  oldChunks := []
  shardMoves := []
  staged := []
  mapWaits := []
  areas := []
  visited := []
  flashMoved := []
  shardCounts := []
  shardWindow := []
  epochStart := 0
  dmem := []
  poison := []
  cache := []
  trackers := []
  pageCache := []
  flashWrites := []
  hubWritten := []
  tierRefused := []
  rings := []
  ringTurn := []
  regs := []
  locked := false
  lockBy := 0
  lockRefused := false
  lockCause := 0
  lockCount := 0
  lockLast := none
  ports := []
  accs := []
  nextAcc := 0
  released := []
  portIn := []
  links := []
  channels := []
  fences := []
  nextFence := 0
  fencesIn := []
  nextTag := 0
  responses := []
  mtags := []
  mgOut := []
  mgWait := []
  remotes := []
  rqOut := []
  mgIn := []
  bcNow := []
  bcQ := []
  kneads := []
  kneadGrants := []
  queue := []
  rowLine := []
  sifterInvalid := []
  logs := []
  units := []
  heldEvents := []
  nextToken := 0
  spdm := []

end Sys2Proof.Machine
end

