-- ==== Sys2Proof/Machine/Ops.lean ====
section
/-! DEFINITION. Named operations over the state: its parts by number, free values, the set-up registers and their reset values, and the claim table. -/

namespace Sys2Proof.Machine

/-- What a command answers. -/
abbrev Out := Host.Outcome State Fault Refusal

/-! ### Parts of the state by number -/

def State.core (s : State) (c : Nat) : Core := Tab.get {} s.cores c
def State.setCore (s : State) (c : Nat) (k : Core) : State := { s with cores := Tab.put {} s.cores c k }
def State.modCore (s : State) (c : Nat) (f : Core → Core) : State := s.setCore c (f (s.core c))

def State.sync (s : State) (o : Nat) : SyncObj := Tab.get {} s.syncs o
def State.setSync (s : State) (o : Nat) (x : SyncObj) : State := { s with syncs := Tab.put {} s.syncs o x }

def State.ring (s : State) (r : Nat) : Ring := Tab.get {} s.rings r
def State.setRing (s : State) (r : Nat) (x : Ring) : State := { s with rings := Tab.put {} s.rings r x }
def State.modRing (s : State) (r : Nat) (f : Ring → Ring) : State := s.setRing r (f (s.ring r))

def State.port (s : State) (p : Nat) : Port := Tab.get {} s.ports p
def State.setPort (s : State) (p : Nat) (x : Port) : State := { s with ports := Tab.put {} s.ports p x }
def State.modPort (s : State) (p : Nat) (f : Port → Port) : State := s.setPort p (f (s.port p))

def Port.fnc (p : Port) (f : Nat) : FnCfg := Tab.get {} p.fns f
def Port.setFnc (p : Port) (f : Nat) (x : FnCfg) : Port := { p with fns := Tab.put {} p.fns f x }
def State.fnc (s : State) (p f : Nat) : FnCfg := (s.port p).fnc f
def State.modFnc (s : State) (p f : Nat) (g : FnCfg → FnCfg) : State :=
  s.modPort p fun x => x.setFnc f (g (x.fnc f))

def State.link (s : State) (l : Nat) : Link := Tab.get {} s.links l
def State.setLink (s : State) (l : Nat) (x : Link) : State := { s with links := Tab.put {} s.links l x }
def State.modLink (s : State) (l : Nat) (f : Link → Link) : State := s.setLink l (f (s.link l))

def State.chan (s : State) (c : Nat) : Channel := Tab.get {} s.channels c
def State.setChan (s : State) (c : Nat) (x : Channel) : State := { s with channels := Tab.put {} s.channels c x }
def State.modChan (s : State) (c : Nat) (f : Channel → Channel) : State := s.setChan c (f (s.chan c))

def State.strm (s : State) (n : Nat) : Stream := Tab.get {} s.streams n
def State.setStrm (s : State) (n : Nat) (x : Stream) : State := { s with streams := Tab.put {} s.streams n x }
def State.modStrm (s : State) (n : Nat) (f : Stream → Stream) : State := s.setStrm n (f (s.strm n))

def State.log (s : State) (k : Nat) : Log := Tab.get {} s.logs k
def State.setLog (s : State) (k : Nat) (x : Log) : State := { s with logs := Tab.put {} s.logs k x }

/-- Key of a recoverable unit. -/
def unitKey (u : FnUnit) : Nat := 8192 * u.fn.val + u.unit % 8192

def State.unitSt (s : State) (u : FnUnit) : Unit' := Tab.get {} s.units (unitKey u)
def State.setUnitSt (s : State) (u : FnUnit) (x : Unit') : State := { s with units := Tab.put {} s.units (unitKey u) x }
def State.unitLost (s : State) (fn : Fin 8) (n : Nat) : Bool := (s.unitSt ⟨fn, n⟩).lost

/-- An event of the unit waits for software's answer (R437). -/
def State.heldUnit (s : State) (u : FnUnit) : Bool := s.heldEvents.any fun e => unitKey e.unit == unitKey u
/-- A unit's clock is stopped for a restart: its own, or that of the other function on its hub's core PLL, which Sifters 8
and 9 and the hubs share (R456, Table 15-3). -/
def State.stopped (s : State) (fn : Fin 8) (n : Nat) : Bool :=
  (s.unitSt ⟨fn, n⟩).reinit || (fn == 3 && (s.unitSt ⟨2, n + 8⟩).reinit) || (fn == 2 && decide (8 ≤ n) && (s.unitSt ⟨3, n - 8⟩).reinit)
/-- A unit takes work: it is not restarting (R433) and not held (R437). -/
def State.fnUp (s : State) (fn : Fin 8) (n : Nat) : Bool := !s.stopped fn n && !s.heldUnit ⟨fn, n⟩

def State.tableOf (s : State) (id : Nat) : Option Table := Tab.get none s.tables id
def State.setTable (s : State) (id : Nat) (x : Option Table) : State := { s with tables := Tab.put none s.tables id x }
def State.graphOf (s : State) (id : Nat) : Option Graph := Tab.get none s.graphs id
def State.setGraph (s : State) (id : Nat) (x : Option Graph) : State := { s with graphs := Tab.put none s.graphs id x }

/-- Program `n` of port `p`: each port has its own table (R265). -/
def State.prog (s : State) (p n : Nat) : Option Program := Tab.get none s.programs (2048 * p + n)
def State.setProg (s : State) (p n : Nat) (x : Option Program) : State :=
  { s with programs := Tab.put none s.programs (2048 * p + n) x }
def State.svc (s : State) (p n : Nat) : Option Service := Tab.get none s.services (16 * p + n)
def State.setSvc (s : State) (p n : Nat) (x : Option Service) : State :=
  { s with services := Tab.put none s.services (16 * p + n) x }

/-- Applies an update to every element of a list that a test selects. -/
def updWhere {α : Type} (t : α → Bool) (f : α → α) (l : List α) : List α :=
  l.map fun x => if t x then f x else x

def State.instOf (s : State) (n : Nat) : Option Inst := s.insts.find? fun i => i.num == n
def State.modInst (s : State) (n : Nat) (f : Inst → Inst) : State :=
  { s with insts := updWhere (fun i => i.num == n) f s.insts }
def State.itemOf (s : State) (id : ItemId) : Option Item := (s.instOf id.inst).bind fun i => i.items[id.idx]?
def State.modItem (s : State) (id : ItemId) (f : Item → Item) : State :=
  s.modInst id.inst fun i => { i with items := i.items.modify id.idx f }

/-- `ITEM_ID` (R269). -/
def ItemId.word (i : ItemId) : Word := BitVec.ofNat 64 ((i.inst % 2 ^ 32) * 2 ^ 16 + i.idx)

/-- Sends something out. -/
def State.emit (s : State) (o : Output) : State := { s with out := s.out ++ [o] }

/-- The next free value (DESIGN CHOICE, log entry 2). -/
def State.free (s : State) : Word × State := (Config.free s.freeCtr, { s with freeCtr := s.freeCtr + 1 })

/-- `n` free values. -/
def State.frees (s : State) : Nat → List Word × State
  | 0 => ([], s)
  | n + 1 =>
    let r := s.free
    let q := r.2.frees n
    (r.1 :: q.1, q.2)

/-- Runs an update over a list of arguments, first to last. -/
def State.forEach {α : Type} (s : State) (l : List α) (f : State → α → State) : State := l.foldl f s

/-! ### Whether the block runs -/

/-- The device is awake: power is good and start-up has begun (R449, R450). -/
def State.awake (s : State) : Bool := s.boot.stage != .off && s.power.pwrgd

/-- Reference ticks in a millisecond. -/
def ticksPerMs : Nat := 100000

/-- The ticks that stage A of this start takes: at most its limit of 5 ms (R451). -/
def State.wakeTicks (s : State) : Nat := (Config.free s.boot.wake).toNat % (5 * ticksPerMs + 1)

/-- Jinal runs: stage A of start-up has ended (R451, R499). -/
def State.jinalUp (s : State) : Bool := s.awake && (s.boot.stage != .wake || decide (s.boot.since + s.wakeTicks ≤ s.ticks))

/-- Engines, ports and links run: start-up has been completed outside RECOVERY and no halt stands. -/
def State.running (s : State) : Bool :=
  s.awake && s.boot.stage == .done && !s.mgmt.halted && s.boot.outcome != 2

/-! ### Set-up registers (chapter 16) -/

/-- Key of a register: device scope, or the scope of port `p`. -/
def regKey (p : Option Nat) (off : Nat) : Nat :=
  match p with
  | none => off
  | some p => 0x4000000 * (1 + p) + off

/-- Base address of unit u: 0-7 stacks, 8-9 tier 1, 10-11 tier 2, 12-13 tier H of the ports (Table 10-1). -/
def unitBase (u : Nat) : Nat :=
  if u < 8 then u * 0x1000000000
  else if u < 10 then 0x10000000000 + (u - 8) * 0x10000000000
  else if u < 12 then 0x100000000000 + (u - 10) * 0x80000000000
  else 0x400000000000 + (u - 12) * 0x200000000000

/-- Extent of unit u of tiers 0, 1 and 2 under an ordering code (Tables 00-1, 10-1), in decimal bytes (R6). -/
def unitExtent (code : Nat) (u : Nat) : Nat :=
  if u < 8 then 48000000000
  else if u < 10 then 768000000000
  else if code = 0 then 4000000000000 else 8000000000000

/-- 128 KiB, the granule of regions and ranges. -/
def granule : Nat := 131072

/-- End of the reserved areas of unit u at their default sizes (R477, Table 10-3). -/
def defaultStart (u : Nat) : Nat :=
  if u < 8 then 0x80000000 else if u < 10 then 2 ^ 33 + 2 ^ 31 + 2 ^ 32 else 0

/-- Midpoint of the rest of the window of unit u, rounded down to 128 KiB (R477). -/
def defaultMid (code u : Nat) : Nat :=
  (defaultStart u + (unitExtent code u - defaultStart u) / 2) / granule * granule

/-- Reset value of `DEV_RANGE[p][u]`, base or size (R477). -/
def devRangeReset (code p u : Nat) (size : Bool) : Nat :=
  if u ≥ 12 then 0
  else if p = 0 then (if size then defaultMid code u - defaultStart u else unitBase u + defaultStart u)
  else if size then (unitExtent code u - defaultMid code u) / granule * granule
  else unitBase u + defaultMid code u

/-- All ones in a word. -/
def ones64 : Nat := 2 ^ 64 - 1

/-- A claim bitmap whose lower half belongs to port 0: its word `k` of `n`. -/
def halfMap (k n : Nat) : Nat := if k < n / 2 then 0 else ones64

/-- Reset values of the claim table (R477, Table 16-6), by offset from 0x01_0000. -/
def claimReset (code o : Nat) : Nat :=
  let k (b : Nat) := (o - b) / 8
  if o < 0x200 then halfMap (k 0) 64
  else if o < 0x210 then halfMap (k 0x200) 2
  else if o < 0x220 then halfMap (k 0x210) 2
  else if o < 0x230 then halfMap (k 0x220) 2
  else if 0x400 ≤ o ∧ o < 0xC00 then halfMap (k 0x400) 256
  else if 0xC00 ≤ o ∧ o < 0xE00 then halfMap (k 0xC00) 64
  else if 0xE00 ≤ o ∧ o < 0x1000 then halfMap (k 0xE00) 64
  else if 0x1000 ≤ o ∧ o < 0x1080 then halfMap (k 0x1000) 16
  else if 0x1080 ≤ o ∧ o < 0x1480 then halfMap (k 0x1080) 128
  else if o = 0x1800 then 131072
  else if 0x1840 ≤ o ∧ o < 0x1890 then 32 ||| 32 <<< 8 ||| 32 <<< 16
  else if 0x2000 ≤ o ∧ o < 0x4000 then halfMap (k 0x2000) 1024
  else if 0x4000 ≤ o ∧ o < 0x4200 then
    devRangeReset code ((o - 0x4000) / 256) ((o - 0x4000) % 256 / 16) ((o - 0x4000) % 16 == 8)
  else 0

/-- Default climb thresholds (Table 16-14). -/
def climbThreshold (f : Nat) : Nat :=
  match f with
  | 1 => 2
  | 2 => 8
  | 3 => 16
  | 4 => 4
  | 5 => 8
  | _ => 0

/-- Reset values of device-scope registers. -/
def devReset (code off : Nat) : Nat :=
  if 0x10000 ≤ off ∧ off < 0x20000 then claimReset code (off - 0x10000)
  else if off = 0x1010 then 1000 ||| 100 <<< 16 ||| 1000 <<< 32 ||| 100 <<< 48
  else if off = 0x1018 then 24 ||| 24 <<< 8 ||| 60 <<< 16
  else if off = 0x1020 then
    8 ||| 10 <<< 6 ||| 2 <<< 12 ||| 10 <<< 18 ||| 4 <<< 24 ||| 8 <<< 30 ||| 6 <<< 36 ||| 4 <<< 42 ||| 2 <<< 48
  else if off = 0x1028 then 23 ||| 31 <<< 8
  else if off = 0x1030 then 95 ||| 95 <<< 8 ||| 85 <<< 16 ||| 85 <<< 24 ||| 70 <<< 32
  else if 0x1040 ≤ off ∧ off < 0x1078 then 24 ||| climbThreshold ((off - 0x1040) / 8) <<< 8
  else if 0x20100 ≤ off ∧ off < 0x20140 then 2 ^ 30
  else if 0x20140 ≤ off ∧ off < 0x20150 then 2 ^ 31
  else if 0x20150 ≤ off ∧ off < 0x20160 then 2 ^ 32
  else if off = 0x30000 then 1 <<< 24
  else if 0x38000 ≤ off ∧ off < 0x38900 ∧ (off - 0x38000) % 64 = 8 then 1
  else 0

/-- Reset values of port-scope registers. -/
def portReset (off : Nat) : Nat :=
  if off = 0x2000 then 1 <<< 5 ||| 100 <<< 32
  else if off = 0x2020 then 11 ||| 1 <<< 8
  else if off = 0x2038 then 100 <<< 16
  else if off = 0x3010 then 1000
  else 0

/-- Reset value of the register under a key. -/
def regReset (code key : Nat) : Nat :=
  if key < 0x4000000 then devReset code key else portReset (key % 0x4000000)

/-- The value of a stored register. -/
def State.reg (s : State) (key : Nat) : Nat :=
  match Tab.get none s.regs key with
  | some v => v.toNat
  | none => regReset s.fuses.code.toNat key

def State.setReg (s : State) (key v : Nat) : State :=
  { s with regs := Tab.put none s.regs key (some (BitVec.ofNat 64 v)) }

def State.dreg (s : State) (off : Nat) : Nat := s.reg off
def State.preg (s : State) (p off : Nat) : Nat := s.reg (regKey (some p) off)

/-- Staging buffers that a port claims, less those its enabled features hold (Table 14-7). -/
def State.stagingFree (s : State) (p : Nat) : Nat :=
  let mine := ((List.range 128).map fun k =>
    let w := s.dreg (0x11080 + 8 * k)
    let ones := ((List.range 64).filter fun i => bitAt w i).length
    if p = 0 then 64 - ones else ones).sum
  mine - (if bitAt (s.preg p 0x2018) 55 then 64 else 0) - (if bitAt (s.preg p 0x2000) 6 then 32 else 0)

/-! ### The claim table (R373, Table 16-6) -/

/-- The port that claims resource i of the bitmap at an offset of the claim table. -/
def State.claim (s : State) (base i : Nat) : Nat := fld (s.dreg (0x10000 + base + 8 * (i / 64))) (i % 64) 1

def State.ringPort (s : State) (r : Nat) : Nat := s.claim 0 r
def Cls.num : Cls → Nat
  | .express => 0
  | .normal => 1
  | .background => 2
def Cls.ofNum (n : Nat) : Cls := if n = 0 then .express else if n = 1 then .normal else .background
def State.corePort (s : State) (k : Cls) (c : Nat) : Nat := s.claim (0x200 + 0x10 * k.num) c

/-- A stream's core and whether it delivers into the express partition (R287). -/
def streamCore (n : Nat) : Nat := n / 4
def streamExpress (n : Nat) : Bool := n % 4 == 3

/-- The port that owns a stream (R287). -/
def State.streamPort (s : State) (n : Nat) : Nat := s.corePort (if streamExpress n then .express else .normal) (streamCore n)
def State.syncPort (s : State) (o : Nat) : Nat := s.claim 0x400 o
def State.graphPort (s : State) (g : Nat) : Nat := s.claim 0xC00 g
def State.chanPort (s : State) (c : Nat) : Nat := s.claim 0xE00 c
def State.timerPort (s : State) (t : Nat) : Nat := s.claim 0x1000 t
def State.tablePort (s : State) (t : Nat) : Nat := s.claim 0x2000 t
/-- Item-store entries of a port (`ITEM_SPLIT`). -/
def State.itemShare (s : State) (p : Nat) : Nat :=
  let n := fld (s.dreg 0x11800) 0 19
  if p = 0 then n else 262144 - n
/-- Port p's share, in 64ths, of a Sifter store: field 0 coalescer, 8 stores, 16 sort area. -/
def State.sifterShare (s : State) (sf p lo : Nat) : Nat :=
  let n := fld (s.dreg (0x11840 + 8 * sf)) lo 7
  if p = 0 then n else 64 - n
/-- Device memory range i of port p: base and size. -/
def State.devRange (s : State) (p i : Nat) : Nat × Nat :=
  (s.dreg (0x14000 + 256 * p + 16 * i), s.dreg (0x14008 + 256 * p + 16 * i))

/-- Host-assisted mode of a function (Table 16-5). The device function, number 7, has no such bit. -/
def State.assisted (s : State) (f : Nat) : Bool := f < 7 && bitAt (s.dreg 0x1008) f

/-! ### Fabric identity (Table 16-8) -/

def State.devId (s : State) : Nat := fld (s.dreg 0x30000) 0 12
def State.podId (s : State) : Nat := fld (s.dreg 0x30000) 12 12
def State.podSize (s : State) : Nat := fld (s.dreg 0x30000) 24 6
def State.podTable (s : State) : List Nat :=
  (List.range s.podSize).map fun i => fld (s.dreg (0x30100 + 8 * i)) 0 12
/-- Position of an id in the pod table. -/
def State.podIndexOf (s : State) (d : Nat) : Option Nat := s.podTable.findIdx? (· == d)
def State.podIndex (s : State) : Nat := (s.podIndexOf s.devId).getD 0
/-- A 16-bit entry of the route table or of a shard map at an offset. -/
def State.entry16 (s : State) (base d : Nat) : Nat := fld (s.dreg (base + 8 * (d / 4))) (16 * (d % 4)) 16
def State.setEntry16 (s : State) (base d v : Nat) : State :=
  let k := base + 8 * (d / 4)
  let w := s.dreg k
  let lo := 16 * (d % 4)
  s.setReg k (w - fld w lo 16 * 2 ^ lo + v % 65536 * 2 ^ lo)

/-! ### Assignment of resources to virtual functions (R368, Table 16-17) -/

def State.vfWord (s : State) (p v w : Nat) : Nat := s.preg p (0x40000 + 64 * (v - 1) + 8 * w)

/-- The function of its port that a ring belongs to: 0 for the PF. -/
def State.ringFn (s : State) (r : Nat) : Nat :=
  match (List.range 128).find? (fun v => decide (0 < v) && bitAt (s.vfWord (s.ringPort r) v 0) (r / 64)) with
  | some v => v
  | none => 0

/-- Kinds of resource a VF is assigned. -/
inductive ResKind where
  | sync
  | table
  | graph
  | chan
deriving DecidableEq, Repr

/-- Word index and width of a VF's range of a kind. -/
def ResKind.slot : ResKind → Nat × Nat
  | .sync => (1, 14)
  | .table => (2, 16)
  | .graph => (3, 12)
  | .chan => (4, 12)

def State.vfRange (s : State) (p v : Nat) (k : ResKind) : Nat × Nat :=
  let w := s.vfWord p v k.slot.1
  match k with
  | .sync => (fld w 0 14, fld w 16 14)
  | .table => (fld w 0 16, fld w 32 16)
  | .graph => (fld w 0 12, fld w 16 12)
  | .chan => (fld w 0 12, fld w 16 12)

def State.resPort (s : State) (k : ResKind) (i : Nat) : Nat :=
  match k with
  | .sync => s.syncPort i
  | .table => s.tablePort i
  | .graph => s.graphPort i
  | .chan => s.chanPort i

/-- A resource claimed by the port and, for a VF, assigned to it (R368). -/
def State.owns (s : State) (p fn : Nat) (k : ResKind) (i : Nat) : Bool :=
  s.resPort k i == p &&
    (fn == 0 || decide ((s.vfRange p fn k).1 ≤ i ∧ i < (s.vfRange p fn k).1 + (s.vfRange p fn k).2))

/-- Any access by a PF other than the one that takes it discards its latch (R472). -/
def State.dropLatch (s : State) (p : Nat) : State := s.modPort p fun x => { x with latch := none }

/-- The lower half of a register that a function's split write holds (R472). -/
def State.setHalf (s : State) (p fn : Nat) (x : Option (Nat × BitVec 32)) : State :=
  s.modPort p fun y => { y with heldHalf := Tab.put none y.heldHalf fn x }

/-- A write of a whole register by a function discards the half it holds, and a PF's access its latch (R472). -/
def State.wholeWrite (s : State) (p fn : Nat) : State := (if fn = 0 then s.dropLatch p else s).setHalf p fn none

/-! ### Expert times -/

def State.waitLimit (s : State) : Nat := fld (s.dreg 0x1010) 0 16 * 1000
def State.windowLimit (s : State) : Nat := fld (s.dreg 0x1010) 16 16 * ticksPerMs
def State.sweepLimit (s : State) : Nat := fld (s.dreg 0x1010) 32 16 * ticksPerMs
def State.channelLimit (s : State) : Nat := fld (s.dreg 0x1010) 48 16 * ticksPerMs
def State.faultLimit (s : State) (p : Nat) : Nat := fld (s.preg p 0x2000) 32 16 * ticksPerMs
/-- Climb window of a function. The device function has none of its own. -/
def State.climbWindow (s : State) (f : Nat) : Nat := 2 ^ fld (s.dreg (0x1040 + 8 * f)) 0 5
def State.climbCount (s : State) (f : Nat) : Nat := fld (s.dreg (0x1040 + 8 * f)) 8 8

end Sys2Proof.Machine
end

