-- ==== Sys2Proof/Machine/Host.lean ====
section
/-! DEFINITION. Host accesses of the device (chapter 12): what holds them, their translation, the order of writes, and MSI-X messages. -/

namespace Sys2Proof.Machine

/-- A posted request: nothing comes back for it. -/
def AccKind.posted : AccKind → Bool
  | .read => false
  | .write _ _ => true
  | .msix _ => true
  | .atomic _ _ _ _ => false
  | .fenceRead => false

/-- The queue of a port's host writes is full: they hold all the staging buffers it has (R361, R366). -/
def State.writesFull (s : State) (p : Nat) : Bool :=
  let held := (s.accs.filter fun a => a.port == p && a.kind.posted).length
  held != 0 && decide (s.stagingFree p ≤ held)

/-- An access of a Sifter to tier H. -/
def AccWhy.isTierH : AccWhy → Bool
  | .tierH _ _ => true
  | _ => false

/-- An earlier write of the same function that has not been released holds a write or a FENCE read
back (R386, R388), and one to a port's tier H a read of it (R94). -/
def accBlocked (before : List HostAcc) (a : HostAcc) : Bool :=
  before.any fun b => b.kind.posted && b.port == a.port &&
    (((a.kind.posted || a.kind == .fenceRead) && b.fn == a.fn) || (a.kind == .read && a.why.isTierH && b.why.isTierH))

/-- The request needs the right to write. -/
def AccKind.writes : AccKind → Bool
  | .read => false
  | .write _ _ => true
  | .msix _ => true
  | .atomic _ _ _ _ => true
  | .fenceRead => false

/-- A translation covers a page of a function and PASID. -/
def Atc.covers (t : Atc) (fn : Nat) (pasid : Option (BitVec 20)) (pg : Nat) : Bool :=
  t.fn == fn && t.pasid == pasid && decide (t.page ≤ pg ∧ pg < t.page + t.pages)

/-- First 4 KiB page of an access that the translation cache does not hold with the right it needs (R378, R380). -/
def missingPage (atc : List Atc) (a : HostAcc) : Option Nat :=
  (rangeFrom (a.addr / 4096) ((a.addr + max a.len 1 - 1) / 4096 - a.addr / 4096 + 1)).find? fun pg =>
    !atc.any fun t => t.covers a.fn a.pasid pg && (t.write || !a.kind.writes)

/-- The address of a page's translation; the address itself where none is held. -/
def translate (atc : List Atc) (a : HostAcc) : Nat :=
  match atc.find? fun t => t.covers a.fn a.pasid (a.addr / 4096) with
  | some t => 4096 * (t.base + (a.addr / 4096 - t.page)) + a.addr % 4096
  | none => a.addr

/-- Relaxed Ordering of a write: as Table 12-6 in SERVICE, set in every other phase (R387), and clear
where the function does not enable it (R376). -/
def State.roBit (s : State) (a : HostAcc) (ro : Bool) : Bool :=
  (s.fnc a.port a.fn).ro && (ro || (s.port a.port).phase != .service)

/-- Ticks from the acceptance of an instance to now, as a completion record gives them (R406). -/
def State.took (s : State) (t : Nat) : Nat := min (s.ticks - t) (2 ^ 32 - 1)

/-- A completion record released now exceeds the budget that it kept when it was made (R421). -/
def State.lateNow (s : State) : AccWhy → Bool
  | .record _ _ (some t) _ => t.2 != 0 && decide (t.2 < s.took t.1)
  | _ => false

/-- The bytes of a write at its release: a completion record of an instance reports there how long it took, and
`late` (R406, R421). -/
def State.written (s : State) (a : HostAcc) (d : Bytes) : Bytes :=
  match a.why with
  | .record _ _ (some t) _ =>
    d.take 3 ++ ((d.drop 3).take 1).map (fun b => if s.lateNow a.why then b ||| 1 else b) ++ (d.drop 4).take 16 ++
      natLe 4 (s.took t.1) ++ d.drop 24
  | _ => d

/-- What an access sends: of a function that translates, the address is the translated one (R378). -/
def State.accOut (s : State) (a : HostAcc) : Output :=
  let f := s.fnc a.port a.fn
  let addr := if f.ats then translate (s.port a.port).atc a else a.addr
  match a.kind with
  | .read => .hostRead a.port a.fn a.id addr a.len a.pasid f.ido f.ats
  | .write d ro => .hostWrite a.port a.fn addr a.pasid (s.written a d) (s.roBit a ro) f.ido f.ats
  | .msix v => .msix a.port a.fn v (s.roBit a false) f.ido
  | .atomic cas wide op cmp => .hostAtomic a.port a.fn a.id addr a.pasid cas wide op cmp f.ido f.ats
  | .fenceRead => .hostRead a.port a.fn a.id addr 0 a.pasid false f.ats

/-- The tags of a function are all in use: the reads of its port that wait for completions (Table 12-10). Tags of 14
bits are for flit mode (Table 12-1). -/
def State.tagsFull (s : State) (before : List HostAcc) (a : HostAcc) : Bool :=
  let n := (s.fnc a.port a.fn).tagBits
  let most := if n = 8 then 256 else if n = 10 ∨ !(s.port a.port).flit then 768 else 4096
  let sent (l : List HostAcc) : List HostAcc := l.filter fun b => b.port == a.port && b.st == .sent
  let old := sent s.accs
  !a.kind.posted && decide (most ≤ old.length + ((sent before).filter fun b => !old.contains b).length)

/-- Two accesses belong to one transfer, whose accesses go out in address order (R296, R381). -/
def AccWhy.sameTransfer (x y : AccWhy) : Bool :=
  match x, y with
  | .xfer _ _, _ => x == y
  | .stream n g _, .stream m h _ => n == m && g == h
  | _, _ => false

/-- The first access of a transfer, among earlier ones, that has not been sent: the transfer stops at it. -/
def heldBy (before : List HostAcc) (a : HostAcc) : Option HostAcc :=
  before.find? fun b => b.st != .sent && b.why.sameTransfer a.why

/-- Pages ahead of the one at which a transfer stands for which translations are asked (R381). -/
def pagesAhead : Nat := 16

/-- A transfer does not ask for a translation so far ahead of the access it stands at. -/
def tooFar (before : List HostAcc) (a : HostAcc) (pg : Nat) : Bool :=
  match heldBy before a with
  | some b => decide (b.addr / 4096 + pagesAhead < pg)
  | none => false

/-- A completion record that has been released is told to its ring (R409). -/
def State.noteReleased (s : State) (a : HostAcc) : State :=
  match a.why with
  | .record r irq _ slot =>
    let s := if s.lateNow a.why then s.modRing r fun g => { g with late := g.late + 1 } else s
    { s with released := s.released ++ [(r, irq, slot)] }
  | _ => s

/-- Moves one access on as far as it can go: held by R366 or while its port or hub restarts (R434), translated by
R378, sent in order by R386, and a transfer's in address order (R381). -/
def State.advance (s : State) (before : List HostAcc) (a : HostAcc) : State × Option HostAcc :=
  let f := s.fnc a.port a.fn
  if a.st = .sent ∨ a.st = .pageReq then (s, some a)
  else if !f.bme || f.d3 || !s.fnUp 6 a.port || !s.fnUp 3 a.port then
    (s, some { a with st := .held, since := if a.st = .held then a.since else s.ticks })
  else
    let miss := match a.kind with
      | .msix _ => none
      | _ => if f.ats then missingPage (s.port a.port).atc a else none
    match miss with
    | some pg =>
      if a.st = .xlate then (s, some a)
      else if tooFar before a pg then (s, some { a with st := .queued })
      else (s.emit (.translationRequest a.port a.fn a.id pg a.pasid f.ido), some { a with st := .xlate })
    | none =>
      if accBlocked before a || (heldBy before a).isSome || s.tagsFull before a then (s, some { a with st := .queued })
      else if a.kind.posted then ((s.emit (s.accOut a)).noteReleased a, none)
      else (s.emit (s.accOut a), some { a with st := .sent, since := s.ticks })

def State.pumpFrom (s : State) (kept : List HostAcc) : List HostAcc → State × List HostAcc
  | [] => (s, kept)
  | a :: r =>
    match s.advance kept a with
    | (s', none) => s'.pumpFrom kept r
    | (s', some a') => s'.pumpFrom (kept ++ [a']) r

/-- Moves every access on, oldest first. -/
def State.pump (s : State) : State :=
  let r := s.pumpFrom [] s.accs
  { r.1 with accs := r.2 }

/-- Starts a host access. While the port's link is down nothing is issued: a write is dropped, and the
callers of reads answer for themselves (R391). -/
def State.hostStart (s : State) (p fn : Nat) (pasid : Option (BitVec 20)) (addr len : Nat) (kind : AccKind)
    (why : AccWhy) (item : ItemId) : State :=
  if !(s.port p).linkUp then s
  else
    let a : HostAcc := { id := s.nextAcc, port := p, fn := fn, pasid := pasid, addr := addr, len := len,
                         kind := kind, why := why, st := .queued, since := s.ticks, item := item }
    { s with accs := s.accs ++ [a], nextAcc := s.nextAcc + 1 }.pump

/-- Work of a ring reaches its host no more: the port's link is down, or the ring is ORPHANED (R391). -/
def State.hostGone (s : State) (r : Nat) : Bool :=
  !(s.port (s.ringPort r)).linkUp || (s.ring r).st == .orphaned

/-- The item named where no item is concerned. -/
def noItem : ItemId := ⟨0, 0⟩

/-- A posted write of the device's own: completion records, counter blocks and reports carry RO = 0 (Table 12-6). -/
def State.hostPost (s : State) (p fn : Nat) (pasid : Option (BitVec 20)) (addr : Nat) (data : Bytes) : State :=
  s.hostStart p fn pasid addr data.length (.write data false) .posted noItem

/-- Usable MSI-X entries of a function (R367). -/
def State.msixUsable (s : State) (p fn : Nat) : Nat :=
  if fn = 0 then (if (s.port p).vfEnable then 2048 - 16 * (s.port p).numVFs else 2048) else 16

/-- Signals an MSI-X entry: a masked or unusable one, or one of a function whose MSI-X is off, sets its
pending bit (R409). -/
def State.msixSend (s : State) (p fn vec : Nat) : State :=
  let f := s.fnc p fn
  if !f.msix || !f.unmasked.contains vec || decide (s.msixUsable p fn ≤ vec) then
    s.modFnc p fn fun x => { x with pendingVec := if x.pendingVec.contains vec then x.pendingVec else x.pendingVec ++ [vec] }
  else s.hostStart p fn none 0 0 (.msix vec) .posted noItem

/-- Drops every access that a test selects, without an answer. -/
def State.dropAccs (s : State) (t : HostAcc → Bool) : State :=
  { s with accs := s.accs.filter fun a => !t a }

def State.accOf (s : State) (id : Nat) : Option HostAcc := s.accs.find? fun a => a.id == id

def State.dropAcc (s : State) (id : Nat) : State := s.dropAccs fun a => a.id == id

/-- The page a page request of an access asks for: the first page it has no translation of (R380). -/
def State.pageOf (s : State) (a : HostAcc) : Nat × Option (BitVec 20) × Nat :=
  (a.fn, a.pasid, (missingPage (s.port a.port).atc a).getD (a.addr / 4096))

/-- The accesses that wait for a page and are the first of their transfer: its faults are answered in ascending
address order (R381). -/
def pageWaiters (p : Nat) : List HostAcc → List HostAcc → List HostAcc
  | _, [] => []
  | before, a :: r =>
    let l := pageWaiters p (before ++ [a]) r
    if a.port == p && a.st == .pageReq && (heldBy before a).isNone then a :: l else l

/-- Sends the page requests of a port that wait and find an allocation free (R380); the fault timeout of the
accesses that wait for a page runs from its request (R383). -/
def State.issuePages (s : State) (p : Nat) : State :=
  (pageWaiters p [] s.accs).foldl (fun s a =>
    let k := s.pageOf a
    let x := s.port p
    let f := x.fnc k.1
    if x.pageOut.any (fun y => y.2 == k) || decide (min (x.fnc 0).pageAlloc 512 ≤ x.pageOut.length) || !f.bme || f.d3 then s
    else
      let g := ((List.range 512).find? fun g => !x.pageOut.any fun y => y.1 == g).getD 0
      let s := (s.modPort p fun x => { x with pageOut := x.pageOut ++ [(g, k)] }).emit (.pageRequest p k.1 g k.2.2 k.2.1 f.ido)
      { s with accs := s.accs.map fun b => if b.port = p ∧ b.st = .pageReq ∧ s.pageOf b = k then { b with since := s.ticks } else b }) s

/-- Asks ahead for the translations of the pages that a transfer from the host reaches next, at most 16, and that
are neither held nor asked for (R381). -/
def State.askAhead (s : State) (p fn : Nat) (pasid : Option (BitVec 20)) (addr last : Nat) : State :=
  let f := s.fnc p fn
  if !f.ats || !f.bme || f.d3 || !s.fnUp 6 p then s
  else
    (rangeFrom (addr / 4096 + 1) (min pagesAhead (last / 4096 - addr / 4096))).foldl (fun s pg =>
      let x := s.port p
      let known := x.atc.any fun t => t.covers fn pasid pg
      if known || x.ahead.contains (fn, pasid, pg) then s
      else (s.modPort p fun x => { x with ahead := x.ahead ++ [(fn, pasid, pg)] }).emit (.translationRequest p fn s.nextAcc pg pasid f.ido)) s

/-- The pages of a range asked for ahead that a translation answers. -/
def Port.aheadHit (x : Port) (fn : Nat) (pasid : Option (BitVec 20)) (page pages : Nat) : List (Nat × Option (BitVec 20) × Nat) :=
  x.ahead.filter fun k => k.1 == fn && k.2.1 == pasid && decide (page ≤ k.2.2 ∧ k.2.2 < page + pages)

/-- Reads of a function and PASID under way that used a translation of a range of pages (R379). -/
def State.pageReads (s : State) (p fn : Nat) (pasid : Option (BitVec 20)) (page pages : Nat) : List Nat :=
  (s.accs.filter fun a => a.port == p && a.fn == fn && a.pasid == pasid && a.st == .sent &&
    decide (a.addr / 4096 < page + pages ∧ page ≤ (a.addr + max a.len 1 - 1) / 4096)).map (·.id)

/-- Answers the invalidations of both ports whose reads have all completed (R379). -/
def State.settleInvals (s : State) : State :=
  [0, 1].foldl (fun s p => (s.port p).invals.foldl (fun s v =>
    if s.accs.any fun a => v.2.2.contains a.id then s
    else (s.modPort p fun x => { x with invals := x.invals.erase v }).emit (.invalidationDone p v.1 v.2.1)) s) s

end Sys2Proof.Machine
end

