-- ==== Sys2Proof/Machine/Flags.lean ====
section
/-! DEFINITION. Flags and their event counters (R10, R447), the error logs (R431), the error event vector (R432, R480) and the alert (R500). -/

namespace Sys2Proof.Machine

/-! Error codes of Table 14-5. -/
def eSramCorrected := 0x01
def eSramUncorrected := 0x02
def eResidue := 0x03
def eCrumbCheck := 0x04
def eHbmEcc := 0x05
def eLpddrLink := 0x06
def eLpddrInline := 0x07
def eFlashRead := 0x08
def eFlashProgram := 0x09
def eBridge := 0x0A
def eLinkFlit := 0x0B
def eLinkReinit := 0x0C
def eLinkDown := 0x0D
def eLinkDiscard := 0x0E
def eChannelAbort := 0x0F
def ePcieUncorrectable := 0x11
def eHostFault := 0x12
def eAccess := 0x13
def eLockViolation := 0x14
def eClaim := 0x15
def eSyncUnderflow := 0x16
def eStream := 0x17
def eCoreFault := 0x18
def eWatchdog := 0x19
def eOrphan := 0x1A
def ePoisonConsumed := 0x1B
def ePoisonedRow := 0x1C
def eThermalWarn := 0x1D
def eThermalHalt := 0x1E
def eSupply := 0x1F
def eClock := 0x20
def eFunctionLost := 0x21
def eResetRequest := 0x22
def eMove := 0x23

/-! Classes of Table 14-4. -/
def cCorrected := 0
def cRecovered := 1
def cReinit := 2
def cPoisoned := 3
def cLost := 4
def cReport := 5
def cHalt := 6

/-! Logs by number: the device log, the port logs, clusters, Sifters, hubs, links (Table 14-3). -/
def lgDevice := 0
def lgPort (p : Nat) := 1 + p
def lgCluster (c : Nat) := 3 + c
def lgSifter (n : Nat) := 11 + n
def lgHub (h : Nat) := 21 + h
def lgLinks := 23

/-- Appends to one view of a log: a full view counts an overflow instead (R431). -/
def viewAppend (v : List LogEntry) (o : BitVec 32) (e : LogEntry) : List LogEntry × BitVec 32 :=
  if v.length < 64 then (v ++ [e], o) else (v, o + 1)

/-- A log takes an event: its code count rises; the entry is appended to each view the log has, a
CORRECTED one at most once per 2^20 ticks for each code (R431, R484). -/
def Log.take (g : Log) (portLog : Bool) (e : LogEntry) : Log :=
  let g := { g with counts := Tab.put 0 g.counts e.code (Tab.get 0 g.counts e.code + 1) }
  let lastAt := Tab.get 0 g.corrected e.code
  if e.cls = cCorrected ∧ lastAt ≠ 0 ∧ e.ticks < lastAt - 1 + 2 ^ 20 then g
  else
    let g := if e.cls = cCorrected then { g with corrected := Tab.put 0 g.corrected e.code (e.ticks + 1) } else g
    let a := viewAppend g.view0 g.overflow0 e
    let b := if portLog then (g.view1, g.overflow1) else viewAppend g.view1 g.overflow1 e
    { g with view0 := a.1, overflow0 := a.2, view1 := b.1, overflow1 := b.2,
             recent := if g.view0.length < 64 ∨ g.view1.length < 64 then (e :: g.recent).take 16 else g.recent }

/-- Raises the error event vector of a port, moderated by R480. -/
def State.raiseErr (s : State) (p : Nat) : State :=
  let m := s.preg p 0x2038
  let vec := fld (s.preg p 0x2000) 8 11
  if bitAt m 0 then
    if s.ticks < (s.port p).modEnd then s.modPort p fun x => { x with modPending := true }
    else (s.modPort p fun x => { x with modEnd := s.ticks + fld m 16 16 * 100 }).msixSend p 0 vec
  else s.msixSend p 0 vec

/-- The ports whose vector an event of a log raises: both for the device log, its own for a port log,
and otherwise the ports whose work the event concerns (R432). -/
def logPorts (k : Nat) (ports : List Nat) : List Nat :=
  if k = 0 then [0, 1] else if k = 1 then [0] else if k = 2 then [1] else ports

/-- An event of the device reaches a log (R431) and raises the error event vectors (R432). -/
def State.logEvent (s : State) (k : Nat) (ports : List Nat) (code cls rung answer unit : Nat) (info0 info1 : Word) : State :=
  let e : LogEntry := { code := code, cls := cls, rung := rung, answer := answer, unit := unit,
                        ticks := s.ticks, info0 := info0, info1 := info1 }
  let s := s.setLog k ((s.log k).take (k == 1 || k == 2) e)
  if cls = cCorrected then s else (logPorts k ports).foldl State.raiseErr s

/-- In host-assisted mode a rung that is reached is logged with `answer` 1 and held for software (R437). -/
def State.holdEvent (s : State) (u : FnUnit) (k : Nat) (ports : List Nat) (code rung unit : Nat) (info0 info1 : Word) : State :=
  let s := s.logEvent k ports code (if rung = 1 then cRecovered else cReinit) rung 1 unit info0 info1
  { s with heldEvents := s.heldEvents ++ [{ unit := u, rung := rung, code := code, token := s.nextToken, since := s.ticks, log := k,
                                            ports := ports, field := unit, info0 := info0, info1 := info1 }],
           nextToken := (s.nextToken + 1) % 65536 }

/-- A report: class REPORT, no rung. -/
def State.report (s : State) (k : Nat) (ports : List Nat) (code unit : Nat) (info0 info1 : Nat) : State :=
  s.logEvent k ports code cReport 0 0 unit (BitVec.ofNat 64 info0) (BitVec.ofNat 64 info1)

/-- An `ACCESS` entry of a port's log: an address and a cause (R12, R299, R370, R398, R399). -/
def State.accessLog (s : State) (p unit addr cause : Nat) : State := s.report (lgPort p) [] eAccess unit addr cause

/-- An `ACCESS` entry whose `unit` names a ring, not a function: its cause is 16 more (PRESUMED, log entry 9). -/
def State.ringAccess (s : State) (p ring addr cause : Nat) : State := s.accessLog p ring addr (cause + 16)

/-! Causes that the model gives `ACCESS` entries; the spec gives no code for them (PRESUMED, log entry 9). -/
def accSize := 1
def accRange := 2
def accUnowned := 3
def accDoorbell := 4
def accIgnored := 5

/-- Counts a poison read in a log: it writes no entry (R427). -/
def State.poisonRead (s : State) (k : Nat) : State :=
  s.setLog k { s.log k with poisonReads := (s.log k).poisonReads + 1 }

/-- Latches causes of ALERT# and sends the I3C in-band interrupt (R500): 1 halt, 2 thermal warning,
4 reset request, 8 power controller fault, 16 cable. -/
def State.alert (s : State) (causes : BitVec 5) : State :=
  { s with mgmt := { s.mgmt with causes := s.mgmt.causes ||| causes } }.emit (.alert true) |>.emit .inBandInterrupt

/-- ALERT# is asserted while a cause is latched or the device is halted (R500). -/
def State.alertPin (s : State) : Bool := s.mgmt.causes != 0 || s.mgmt.halted

/-- Sets `conflict` of `PORT_CLAIM` with its event counter (R479), and logs the refusal (R446). -/
def State.claimConflict (s : State) (p feature resource : Nat) : State :=
  (s.modPort p fun x => { x with conflict := true, conflictFeature := feature, conflictCount := x.conflictCount + 1 }).report
    lgDevice [] eClaim 7 resource p

end Sys2Proof.Machine
end

