-- ==== Sys2Proof/Machine/DevMem.lean ====
section
/-! DEFINITION. Device memory (chapter 10): the address map, kinds of storage, poison, the die cache and its streaming-store detectors. -/

namespace Sys2Proof.Machine

/-! ### The address map (R298) -/

/-- Extent of unit u now: tier H of a port has its registered size (R319). -/
def State.extent (s : State) (u : Nat) : Nat :=
  if u < 12 then unitExtent s.fuses.code.toNat u
  else
    let c := s.preg (u - 12) 0x2018
    if bitAt c 55 then fld c 0 34 * 4096 else 0

/-- The unit whose window starts at or below an address and comes nearest, with the offset in it. -/
def windowOf (a : Nat) : Option (Nat × Nat) :=
  match ((List.range 14).reverse).find? (fun u => decide (unitBase u ≤ a)) with
  | some u =>
    let lim := if u < 8 then 0x1000000000 else if u < 10 then 0x10000000000 else if u < 12 then 0x80000000000
               else 0x200000000000
    if a - unitBase u < lim ∧ a < 2 ^ 48 then some (u, a - unitBase u) else none
  | none => none

/-- The unit and offset of a served address. -/
def State.locate (s : State) (a : Nat) : Option (Nat × Nat) :=
  match windowOf a with
  | some (u, o) => if o < s.extent u then some (u, o) else none
  | none => none

/-- Tier of a unit. -/
def unitTier (u : Nat) : Nat := if u < 8 then 0 else if u < 10 then 1 else if u < 12 then 2 else 3

/-- The Sifter that serves a unit (Table 10-1). -/
def unitSifter (u : Nat) : Nat := if u < 8 then u else 8 + u % 2

/-- Unit number of a tier and its unit field (R73). -/
def tierUnit (tier unit : Nat) : Option Nat :=
  if tier = 0 then (if unit < 8 then some unit else none)
  else if unit < 2 then some (6 + 2 * tier + unit) else none

/-! ### Kinds of storage (R300) -/

inductive Kind where
  | reserved
  | sifter
  | general
deriving DecidableEq, Repr

/-- Reserved areas of a unit as ranges of offsets (Table 10-3). -/
def State.reservedAreas (s : State) (u : Nat) : List (Nat × Nat) :=
  let sort (n : Nat) := s.dreg (0x20100 + 8 * n)
  if u = 0 then [(0, 2 ^ 30), (2 ^ 30, sort 0)]
  else if u < 8 then [(2 ^ 30, sort u)]
  else if u < 10 then
    [(0, 2 ^ 33), (2 ^ 33, s.dreg (0x20140 + 8 * (u - 8))), (2 ^ 33 + s.dreg (0x20140 + 8 * (u - 8)), s.dreg (0x20150 + 8 * (u - 8)))]
  else []

/-- The Sifter region of a unit: offset and size; tier H is one in its whole extent (R300). -/
def State.sifterRegion (s : State) (u : Nat) : Nat × Nat :=
  if u < 12 then (s.dreg (0x20000 + 16 * u), s.dreg (0x20008 + 16 * u)) else (0, s.extent u)

/-- Whether [o, o + n) lies inside [r.1, r.1 + r.2). -/
def inRange (r : Nat × Nat) (o n : Nat) : Bool := decide (r.1 ≤ o ∧ o + n ≤ r.1 + r.2)
/-- Whether [o, o + n) and [r.1, r.1 + r.2) share a byte; an empty range shares none. -/
def meets (r : Nat × Nat) (o n : Nat) : Bool := decide (0 < r.2 ∧ 0 < n ∧ o < r.1 + r.2 ∧ r.1 < o + n)

/-- The one kind of storage a range lies wholly in, with its unit and offset (R299, R300). -/
def State.kindOf (s : State) (a n : Nat) : Option (Kind × Nat × Nat) :=
  match s.locate a with
  | none => none
  | some (u, o) =>
    if s.extent u < o + n then none
    else if inRange (s.sifterRegion u) o n then some (.sifter, u, o)
    else if meets (s.sifterRegion u) o n then none
    else
      match (s.reservedAreas u).find? (fun r => meets r o n) with
      | some r => if inRange r o n then some (.reserved, u, o) else none
      | none => some (.general, u, o)

/-- A range of general memory that port p claims: inside the union of its ranges, taken Crumb by Crumb (R375, R475). -/
def State.claimedRange (s : State) (p a n : Nat) : Bool :=
  let covers (lo hi : Nat) : Bool := (List.range 16).any fun i =>
    let r := s.devRange p i
    decide (r.1 ≤ lo ∧ hi ≤ r.1 + r.2)
  covers a (a + n) ||
    ((List.range (n / granule + 2)).all fun k =>
      let lo := max a ((a / granule + k) * granule)
      let hi := min (a + n) ((a / granule + k + 1) * granule)
      decide (hi ≤ lo) || covers lo hi)

/-- General memory of port p. -/
def State.generalOk (s : State) (p a n : Nat) : Bool :=
  match s.kindOf a n with
  | some (.general, _, _) => s.claimedRange p a n
  | _ => false

/-- Part of a Sifter region is in the other port's pool (R306, R375). -/
def State.otherPool (s : State) (p u o n : Nat) : Bool :=
  s.chunks.any fun x => x.unit == u && x.port != p && meets (x.off, 32 * 2 ^ x.log2) o n

/-- Device storage that an XFER, a stream or a BAR4 access of port p may reach: its kind and unit (R299-R301, R375). -/
def State.reach (s : State) (p a n : Nat) : Option (Kind × Nat) :=
  match s.kindOf a n with
  | some (.general, u, _) => if s.claimedRange p a n then some (.general, u) else none
  | some (.sifter, u, o) => if u < 12 && !s.otherPool p u o n then some (.sifter, u) else none
  | _ => none

/-- Part of a range is claimed by the other port (R26, R375). -/
def State.otherClaim (s : State) (p a n : Nat) : Bool := (List.range 16).any fun i => meets (s.devRange (1 - p) i) a n

/-- The function that answers for a unit of memory is LOST: its reads are poison, its writes dropped (R435). -/
def State.unitGone (s : State) (u : Nat) : Bool :=
  if u < 8 then s.unitLost 2 u
  else s.unitLost 3 (u % 2) || s.unitLost 2 (8 + u % 2) || (10 ≤ u && u < 12 && s.boot.tier2Lost.contains (u % 2))

/-! ### Poison (R427) -/

/-- The unit of marking at an address: its first address and its size. -/
def markUnit (a : Nat) : Nat × Nat :=
  match windowOf a with
  | some (u, _) =>
    let n := if u < 8 then 32 else if u < 10 then 8 else 4096
    (a / n * n, n)
  | none => (a / 32 * 32, 32)

/-- Whether a range holds poison. -/
def State.poisoned (s : State) (a n : Nat) : Bool := s.poison.any fun x => decide (x < a + n ∧ a < x + (markUnit x).2)

/-- Marks the unit that holds an address. -/
def State.poisonAt (s : State) (a : Nat) : State :=
  let x := (markUnit a).1
  if s.poison.contains x then s else { s with poison := s.poison ++ [x] }

/-- Clears the marks of units that a write covers whole. -/
def clearPoison (l : List Nat) (a n : Nat) : List Nat :=
  l.filter fun x => !decide (a ≤ x ∧ x + (markUnit x).2 ≤ a + n)

/-- The log of the memory at an address: the Sifter log of a stack, the log of a hub (R427). -/
def memLog (u : Nat) : Nat := if u < 8 then lgSifter u else lgHub (u % 2)

/-- The 4 KiB pages that a byte range touches. -/
def flashPages (a n : Nat) : List Nat := rangeFrom (a / 4096) ((a + max n 1 - 1) / 4096 - a / 4096 + 1)

/-- The contents of a page of tier 2 after every write that has reached its hub. -/
def State.flashPage (s : State) (pg : Nat) : Bytes :=
  match s.flashWrites.reverse.find? (fun w => w.page == pg) with
  | some w => w.data
  | none => s.dmem.readBytes (4096 * pg) 4096

/-- What a read sees: a page of tier 2 with a write under way reads as that write leaves it (R316, R324). -/
def State.dbytes (s : State) (a n : Nat) : Bytes :=
  if s.flashWrites.isEmpty then s.dmem.readBytes a n
  else
    match windowOf a with
    | some (u, _) => if unitTier u = 2 then slice ((flashPages a n).flatMap s.flashPage) (a % 4096) n else s.dmem.readBytes a n
    | none => s.dmem.readBytes a n

/-- Reads device memory: the bytes, and whether they are poisoned. -/
def State.dread (s : State) (a n : Nat) : Bytes × Bool :=
  (s.dbytes a n,
    s.poisoned a n || (match windowOf a with
      | some (u, _) => s.unitGone u
      | none => false))

/-- The ports whose work a location is: those that claim its general memory, or whose pool may hold its Sifter region
(R306, R375). -/
def State.memPorts (s : State) (a : Nat) : List Nat :=
  [0, 1].filter fun p => match s.kindOf a 1 with
    | some (.general, _, _) => s.claimedRange p a 1
    | some (.sifter, u, o) => !s.otherPool p u o 1
    | _ => false

/-- Counts the poison read of a read that meets a marked unit (R427); a read of a LOST unit is logged (R435). -/
def State.notePoison (s : State) (a n : Nat) : State :=
  match windowOf a with
  | some (u, _) =>
    if s.unitGone u then s.report (memLog u) (s.memPorts a) eFunctionLost (u % 16) a 0
    else if s.poisoned a n then s.poisonRead (memLog u)
    else s
  | none => s

/-- Writes device memory; a LOST unit drops the write and logs it (R435). Writes of tier 2 count in the
hub's written bytes by the whole pages they touch (R316, R317). -/
def State.dwrite (s : State) (a : Nat) (d : Bytes) : State :=
  match windowOf a with
  | none => s
  | some (u, _) =>
    if s.unitGone u then s.report (memLog u) (s.memPorts a) eFunctionLost (u % 16) a 0
    else
      let s := { s with dmem := s.dmem.writeBytes a d, poison := clearPoison s.poison a d.length }
      if unitTier u = 2 then { s with hubWritten := Tab.put 0 s.hubWritten (u % 2) (Tab.get 0 s.hubWritten (u % 2) + 4096 * (flashPages a d.length).length) }
      else s

/-- Replaces the bytes of a page that a write at address a covers. -/
def patchPage (old : Bytes) (pg a : Nat) (d : Bytes) : Bytes :=
  (List.range 4096).map fun i =>
    let x := 4096 * pg + i
    if a ≤ x ∧ x < a + d.length then d.getD (x - a) 0 else old.getD i 0

/-- A write to tier 2, page by page, each reported once its page has switched (FLASH_WRITE_COMPLETE). -/
def State.flashPut (s : State) (a : Nat) (d : Bytes) (who : Option (Nat × Nat)) : State :=
  match windowOf a with
  | none => s
  | some (u, _) =>
    if s.unitGone u then s.report (memLog u) (s.memPorts a) eFunctionLost (u % 16) a 0
    else
      (flashPages a d.length).foldl (fun s pg =>
        { s with flashWrites := s.flashWrites ++ [⟨u % 2, pg, patchPage (s.flashPage pg) pg a d, decide (a ≤ 4096 * pg ∧ 4096 * pg + 4096 ≤ a + d.length), who⟩] }) s

/-! ### The die cache (R320-R324) -/

/-- Set of a line: its home slice and the set inside it. -/
def lineSet (space line : Nat) : Nat × Nat := ((Config.homeSlice (space * 2 ^ 41 + line)).val, (Config.cacheSet (space * 2 ^ 41 + line)).val)

def sameLine (space line : Nat) (x : CacheLine) : Bool := x.space == space && x.line == line

def State.cached (s : State) (space line : Nat) : Option CacheLine := s.cache.find? (sameLine space line)

/-- A hit makes the line the most recently used; it never changes way. -/
def State.touch (s : State) (space line : Nat) : State :=
  match s.cached space line with
  | some x => { s with cache := (s.cache.filter fun y => !sameLine space line y) ++ [x] }
  | none => s

/-- Allocates a line among the ways of its class, 4 for express and 12 otherwise, replacing the least
recently used of them (R321). The data of device lines is in `dmem`, so a write-back changes nothing else. -/
def State.allocate (s : State) (x : CacheLine) : State :=
  let rest := s.cache.filter fun y => !sameLine x.space x.line y
  let same := rest.filter fun y => y.express == x.express && decide (lineSet y.space y.line = lineSet x.space x.line)
  let ways := if x.express then 4 else 12
  let rest := if ways ≤ same.length then
      match same.head? with
      | some v => rest.filter fun y => !sameLine v.space v.line y
      | none => rest
    else rest
  { s with cache := rest ++ [x] }

def State.invalidate (s : State) (space line : Nat) : State :=
  { s with cache := s.cache.filter fun y => !sameLine space line y }

/-- Line addresses that a byte range touches. -/
def linesOf (a n : Nat) : List Nat := rangeFrom (a / 128) ((a + max n 1 - 1) / 128 - a / 128 + 1)

/-- Pages that the page cache of a hub holds (Table 10-3). -/
def State.pageWays (s : State) (hub : Nat) : Nat := s.dreg (0x20140 + 8 * hub) / 4096

/-- A tier 2 read takes its pages through the hub's page cache, least recently used first out (R315). -/
def State.pageRead (s : State) (a n : Nat) : State :=
  match windowOf a with
  | some (u, _) =>
    if unitTier u = 2 then
      (flashPages a n).foldl (fun s pg =>
        let rest := s.pageCache.filter fun x => x != (u % 2, pg)
        let mine := rest.filter fun x => x.1 == u % 2
        let rest := if s.pageWays (u % 2) ≤ mine.length then
            match mine.head? with
            | some v => rest.erase v
            | none => rest
          else rest
        { s with pageCache := if s.pageWays (u % 2) = 0 then rest else rest ++ [(u % 2, pg)] }) s
    else s
  | none => s

/-- A general-memory read through the cache: allocates the lines it misses, those of tier 2 from the pages of its
hub (R315). -/
def State.cacheRead (s : State) (express : Bool) (a n : Nat) : State :=
  (linesOf a n).foldl (fun s l =>
    match s.cached 0 l with
    | some _ => s.touch 0 l
    | none => (s.allocate ⟨0, l, express, false, []⟩).pageRead (128 * l) 128) s

/-- The detector of a source sees a write to a line (R323): whether the line bypasses the cache, and
the trackers after it. A write to a line that a run has passed does not continue it and ends it; one elsewhere is of
another run (DEDUCED, log entry 72). -/
def trackWrite (t : List Tracker) (src line : Nat) (whole : Bool) : Bool × List Tracker :=
  let t := t.filter fun x => !(x.src == src && decide (x.next - x.run ≤ line ∧ line < x.next))
  match t.find? (fun x => x.src == src && x.next == line) with
  | some x =>
    let rest := t.filter fun y => !(y.src == src && y.next == line)
    if whole then (decide (8 ≤ x.run), rest ++ [⟨src, line + 1, x.run + 1⟩]) else (false, rest)
  | none =>
    if whole then
      let mine := t.filter fun y => y.src == src
      let t := if 4 ≤ mine.length then
          match mine.head? with
          | some v => t.filter fun y => !(y == v)
          | none => t
        else t
      (false, t ++ [⟨src, line + 1, 1⟩])
    else (false, t)

/-- One line of a general-memory write through the cache by a source with a detector. -/
def State.lineWrite (s : State) (src : Option Nat) (express : Bool) (line : Nat) (whole : Bool) : State :=
  let r := match src with
    | some k => trackWrite s.trackers k line whole
    | none => (false, s.trackers)
  let s := { s with trackers := r.2 }
  if r.1 then s.invalidate 0 line
  else
    match s.cached 0 line with
    | some x => (s.touch 0 line).allocate { x with dirty := true }
    | none => s.allocate ⟨0, line, express, true, []⟩

/-- The lines of a general-memory write of n bytes pass their home slices in ascending order (R320, R321, R372). -/
def State.linesWrite (s : State) (src : Option Nat) (express : Bool) (a n : Nat) : State :=
  (linesOf a n).foldl (fun s l => s.lineWrite src express l (decide (a ≤ 128 * l ∧ 128 * l + 128 ≤ a + n))) s

/-- A general-memory write: through the cache, and in tier 2 by the pages it touches (R316, R321). -/
def State.generalWrite (s : State) (src : Option Nat) (express : Bool) (a : Nat) (d : Bytes) : State :=
  let s := s.linesWrite src express a d.length
  match windowOf a with
  | some (u, _) => if unitTier u = 2 then s.flashPut a d none else s.dwrite a d
  | none => s

/-- A read by device address of general memory or a Sifter region, the latter around the cache (R301). -/
def State.memRead (s : State) (express : Bool) (k : Kind) (a n : Nat) : (Bytes × Bool) × State :=
  let r := s.dread a n
  let s := s.notePoison a n
  (r, if k = .general then s.cacheRead express a n else s.pageRead a n)

def State.memWrite (s : State) (src : Option Nat) (express : Bool) (k : Kind) (a : Nat) (d : Bytes) : State :=
  if k = .general then s.generalWrite src express a d else s.dwrite a d

/-- Host line keyed by port and host address (R322). -/
def hostSpace (p : Nat) : Nat := 1 + p

/-- Drops every host line of a port (R322, R385). -/
def State.dropHostLines (s : State) (p : Nat) : State :=
  { s with cache := s.cache.filter fun y => y.space != hostSpace p }

/-- Bytes of a host range when every line of it is cached. -/
def State.hostCached (s : State) (p a n : Nat) : Option Bytes :=
  if (linesOf a n).all (fun l => (s.cached (hostSpace p) l).isSome) then
    some ((List.range n).map fun i =>
      match s.cached (hostSpace p) ((a + i) / 128) with
      | some x => (x.data.drop ((a + i) % 128)).headD 0#8
      | none => 0#8)
  else none

/-- A hit makes host lines the most recently used. -/
def State.hostTouch (s : State) (p a n : Nat) : State := (linesOf a n).foldl (fun s l => s.touch (hostSpace p) l) s

/-- Host data read from the host: every whole line of it may be kept, clean, in the ways of its class (R322). -/
def State.hostFill (s : State) (p : Nat) (express : Bool) (a : Nat) (d : Bytes) : State :=
  (linesOf a d.length).foldl (fun s l =>
    if a ≤ 128 * l ∧ 128 * l + 128 ≤ a + d.length then
      s.allocate ⟨hostSpace p, l, express, false, slice d (128 * l - a) 128⟩
    else s) s

/-- A host write invalidates any cached copy of the lines it touches (R322). -/
def State.hostInvalidate (s : State) (p a n : Nat) : State :=
  (linesOf a n).foldl (fun s l => s.invalidate (hostSpace p) l) s

end Sys2Proof.Machine
end

