-- ==== Sys2Proof/Machine/Work.lean ====
section
/-! DEFINITION. Work (chapter 09): sync objects, readiness, the end of items, groups and instances, and completion records (chapter 13). -/

namespace Sys2Proof.Machine

/-! ### Completion records (R405-R409) -/

/-- What a completion record carries besides the descriptor's own header (Table 13-5). -/
structure Done where
  status : Nat
  late : Bool := false
  sat : Bool := false
  hostFault : Bool := false
  report : Bool := false
  r0 : Word := 0
  r1 : Word := 0
  r2 : Word := 0
  /-- The counter block changed (R408). -/
  counts : Bool := false
  /-- The report of the instance, and where it goes (R407). -/
  rep : Option (Nat × Bytes) := none
  /-- Acceptance of the instance and its budget not yet exceeded, and the service and slot it used (R406, R416, R421). -/
  since : Option (Nat × Nat) := none
  slot : Option (Nat × Nat) := none
deriving DecidableEq, Repr

/-- The parameters of a ring (Table 13-1) from its window. -/
def Ring.sqLog2 (g : Ring) : Nat := fld g.w0.toNat 0 5
def Ring.sqBase (g : Ring) : Nat := fld g.w0.toNat 12 52 * 4096
def Ring.cqLog2 (g : Ring) : Nat := fld g.w1.toNat 0 5
def Ring.cqBase (g : Ring) : Nat := fld g.w1.toNat 12 52 * 4096
def Ring.ctrAddr (g : Ring) : Nat := fld g.w2.toNat 5 59 * 32
def Ring.pasid (g : Ring) : Option (BitVec 20) :=
  if bitAt g.w3.toNat 20 then some (BitVec.ofNat 20 g.w3.toNat) else none
def Ring.cls (g : Ring) : Cls := Cls.ofNum (fld g.w3.toNat 21 2)
def Ring.vector (g : Ring) : Nat := fld g.w3.toNat 24 11
def Ring.irqCount (g : Ring) : Nat := fld g.w3.toNat 35 13
def Ring.timer (g : Ring) : Nat := fld g.w3.toNat 48 10
def Ring.irqTicks (g : Ring) : Nat := fld g.w4.toNat 0 16
def Ring.watchTicks (g : Ring) : Nat := fld g.w4.toNat 16 25

/-- The counter block (Table 13-7). -/
def Ring.counterBlock (g : Ring) : Bytes := natLe 8 g.oor ++ natLe 8 g.missing ++ natLe 8 g.badVertex ++ natLe 8 g.late

/-- Posts the counter block of a ring that has one (R408). -/
def State.postCounters (s : State) (r : Nat) : State :=
  let g := s.ring r
  if g.ctrAddr = 0 then s else s.hostPost (s.ringPort r) (s.ringFn r) g.pasid g.ctrAddr g.counterBlock

/-- The interrupt of a ring: its vector, and no completion pending (R409). -/
def State.ringIrq (s : State) (r : Nat) : State :=
  (s.modRing r fun g => { g with pending := 0 }).msixSend (s.ringPort r) (s.ringFn r) (s.ring r).vector

/-- One released record counts toward the moderation of its ring (R409). -/
def State.ringPend (s : State) (r : Nat) (now : Bool) : State :=
  let s := s.modRing r fun g =>
    { g with pending := g.pending + 1, pendingSince := if g.pending = 0 then s.ticks else g.pendingSince }
  let g := s.ring r
  if g.irqCount ≠ 0 ∧ (g.irqCount ≤ g.pending ∨ now) then s.ringIrq r else s

/-- The 32 bytes of a completion record (Table 13-5). -/
def recordOf (g : Ring) (e : Live) (d : Done) : Bytes :=
  let phase := 1 - (g.cqTail.toNat / 2 ^ g.cqLog2) % 2
  let bit (b : Bool) (n : Nat) : Nat := if b then 2 ^ n else 0
  natLe 4 (phase + d.status * 2 ^ 8 + fieldAt e.entry 0 1 * 2 ^ 16 + bit d.late 24 + bit d.sat 25 + bit d.hostFault 26 + bit d.report 27)
    ++ natLe 2 (fieldAt e.entry 2 2) ++ natLe 2 (e.pos % 2 ^ g.sqLog2)
    ++ natLe 8 d.r0.toNat ++ natLe 8 d.r1.toNat ++ natLe 8 d.r2.toNat

/-- The slot of a service request is free (R416). -/
def State.freeSlot (s : State) (p : Nat) : Option (Nat × Nat) → State
  | some (sv, slot) => match s.svc p sv with
    | some v => s.setSvc p sv (some { v with used := v.used.filter (· != slot) })
    | none => s
  | none => s

/-- A completion record of a ring that has not been released. -/
def State.recordHeld (s : State) (r : Nat) : Bool := s.accs.any fun a => match a.why with
  | .record q _ _ _ => q == r
  | _ => false

/-- A DRAINING ring with nothing outstanding and its records written becomes IDLE, and its counter block is written
once more (R397, R408). -/
def State.ringDrained (s : State) (r : Nat) : State :=
  let g := s.ring r
  if g.st = .draining ∧ g.live = [] ∧ s.recordHeld r = false then (s.postCounters r).modRing r fun g => { g with st := .idle } else s

/-- A completion record has been released: it is pending, its service slot is free, and its ring may have drained
(R409, R416, R397). -/
def State.recordOut (s : State) (x : Nat × Bool × Option (Nat × Nat)) : State :=
  ((s.freeSlot (s.ringPort x.1) x.2.2).ringPend x.1 x.2.1).ringDrained x.1

/-- Every completion record just released is told to its ring. -/
def State.tellReleased (s : State) : State := s.released.foldl State.recordOut { s with released := [] }

/-- Completes the descriptor at a position of a ring: counter block, report, record and interrupt in that order
(R405, R407, R408, R409). The records of an ORPHANED ring are dropped (R391). -/
def State.complete (s : State) (r pos : Nat) (d : Done) : State :=
  let g := s.ring r
  let p := s.ringPort r
  match g.live.find? (fun e => e.pos == pos) with
  | none => s.freeSlot p d.slot
  | some e =>
    let s := s.modRing r fun g => { g with live := g.live.filter fun e => e.pos != pos }
    if g.st = .orphaned then s.freeSlot p d.slot
    else
      let s := if d.counts then s.postCounters r else s
      let s := match d.rep with
        | some x => s.hostPost p (s.ringFn r) g.pasid x.1 x.2
        | none => s
      let s := s.hostStart p (s.ringFn r) g.pasid (g.cqBase + 32 * (g.cqTail.toNat % 2 ^ g.cqLog2)) 32
        (.write (recordOf g e d) false) (.record r (bitAt (fieldAt e.entry 0 2) 10) d.since d.slot) noItem
      (s.modRing r fun g => { g with cqTail := g.cqTail + 1 }).tellReleased

/-- An entry has been read: it, and its extension, wait at the head of the ring. -/
def Ring.take (g : Ring) (now n : Nat) (entry : Bytes) (ext : Option Bytes) (failed : Bool) : Ring :=
  { g with
    head := some { pos := g.epoch * 2 ^ 32 + g.sqHead.toNat, entry := entry, ext := ext, acceptedAt := now, begun := false, base := 0, syncs := 0,
                   items := 0, slot := 0, reads := 0, failed := failed }
    sqHead := g.sqHead + BitVec.ofNat 32 n
    rereads := 0, watched := false, halfSeen := false }

/-- The read of a ring's next entry failed: it waits at the head to complete `HOST_FAULT` (R403). -/
def State.entryFailed (s : State) (r : Nat) : State := s.modRing r fun g => g.take s.ticks 1 (List.replicate 64 0#8) none true

/-- Completes with a status and nothing else. -/
def State.completeWith (s : State) (r pos status : Nat) : State := s.complete r pos { status := status }

/-! Completion statuses (Table 13-9). -/
def stOk := 0x00
def stBadDescriptor := 0x01
def stClaimConflict := 0x02
def stSuperseded := 0x03
def stAborted := 0x04
def stFaulted := 0x05
def stSaturated := 0x06
def stHostFault := 0x07
def stPortLost := 0x08
def stTableInvalid := 0x09
def stTableReadonly := 0x0A
def stGraphInvalid := 0x0B
def stTierFull := 0x0C
def stGraphFull := 0x0D
def stRankMissing := 0x0E
def stFabricTimeout := 0x0F

/-! Item statuses (Table 09-4), with 5 for a run that ended `RERUN` and 6 for `RETRY`, which are never reported. -/
def itOk := 0
def itFaulted := 1
def itAborted := 2
def itOrphaned := 3
def itSaturated := 4
def itRerun := 5

/-- The completion status of an instance whose reported item ended so. -/
def itemToStatus (n : Nat) : Nat :=
  if n = itOk then stOk else if n = itFaulted then stFaulted else if n = itSaturated then stSaturated else stAborted

/-! ### Sync objects (R270) -/

/-- A decrement by n, with the `aborted` flag or without. -/
def State.decrement (s : State) (o n : Nat) (ab : Bool) : State :=
  let x := s.sync o
  let s' := s.setSync o { count := BitVec.ofNat 32 (x.count.toNat - n), aborted := x.aborted || ab,
                          underflow := x.underflow || decide (x.count.toNat < n) }
  if x.count.toNat < n then s'.report (lgPort (s.syncPort o)) [] eSyncUnderflow 0 o n else s'

/-- A set: the count, both flags clear (R271). -/
def State.syncSetTo (s : State) (o n : Nat) : State := s.setSync o { count := BitVec.ofNat 32 n }

/-! ### Items -/

/-- The object a reference of an instance names (R268). -/
def Inst.objOf (i : Inst) (x : Bool × Nat) : Nat := if x.1 then (i.base + x.2) % 16384 else x.2

/-- Objects that items of a group of an instance depend on. -/
def Inst.groupDeps (i : Inst) (g : Nat) : List Nat :=
  i.items.filterMap fun x => if x.rcd.group = g then x.rcd.dep.map i.objOf else none

/-- A decrement made by an item: held while its group is open, unless the object is a dependence of an
item of the group (R285). -/
def State.itemDecrement (s : State) (id : ItemId) (o n : Nat) (ab : Bool) : State :=
  match s.instOf id.inst, s.itemOf id with
  | some i, some x =>
    if x.rcd.group ≠ 0 ∧ !(i.groupDeps x.rcd.group).contains o then
      s.modItem id fun x => { x with heldDecs := x.heldDecs ++ [(o, n, ab)] }
    else s.decrement o n ab
  | _, _ => s.decrement o n ab

/-- An item ends: its status is recorded, its flow is free, and its `done` object is decremented, with
`aborted` on any end other than `OK` and `SATURATED` (R281). -/
def State.endItem (s : State) (id : ItemId) (status prog : Nat) : State :=
  match s.instOf id.inst, s.itemOf id with
  | some i, some x =>
    let s := s.modItem id fun x => { x with st := .ended status prog, holdsFlow := false }
    let s := { s with readyQ := s.readyQ.filter (· != id),
                      flows := if x.holdsFlow then s.flows.erase (i.port, x.rcd.flow) else s.flows }
    match x.rcd.done with
    | some d => s.itemDecrement id (i.objOf d) x.rcd.doneN (status != itOk && status != itSaturated)
    | none => s
  | _, _ => s

/-- Cores of a cluster take items: the cluster is not LOST (R436), not restarting (R434) and not held (R437). -/
def State.clusterUp (s : State) (c : Nat) : Bool := !(s.unitSt ⟨1, c / 16⟩).lost && s.fnUp 1 (c / 16)

/-- A core on which an item of a port and class may run, LOST clusters apart. -/
def State.mayRun (s : State) (p : Nat) (k : Cls) (pin : Option Nat) (c : Nat) : Bool :=
  !(s.unitSt ⟨1, c / 16⟩).lost && s.corePort k c == p &&
    (match pin with
     | some q => q == c
     | none => true)

def State.hasCore (s : State) (p : Nat) (k : Cls) (pin : Option Nat) : Bool := (List.range 128).any (s.mayRun p k pin)

/-- The item belongs to no atomic flow, holds its own, or no item of its flow is in service (R272). -/
def State.flowFree (s : State) (i : Inst) (x : Item) : Bool :=
  !x.rcd.atomic || x.holdsFlow || !s.flows.contains (i.port, x.rcd.flow)

/-- The dependence of a waiting item is met, or has been: an item that was ready stays so when its object is set
again (R256, R272). -/
def State.depMet (s : State) (i : Inst) (x : Item) : Bool :=
  x.st == .waiting &&
    (x.met || match x.rcd.dep with
      | some d => (s.sync (i.objOf d)).count == 0
      | none => true)

/-- The dependence carries `aborted` (R282). -/
def State.depAborted (s : State) (i : Inst) (x : Item) : Bool :=
  match x.rcd.dep with
  | some d => (s.sync (i.objOf d)).aborted
  | none => false

/-- The status with which an item whose dependence is met ends without being run, whether or not its flow is
free: its instance is orphaned, the dependence carries `aborted`, or no core is left for it (R282, R391, R436). -/
def State.endsUnrun (s : State) (i : Inst) (x : Item) : Option Nat :=
  if i.orphaned then some itOrphaned
  else if s.depAborted i x || !s.hasCore i.port x.cls x.rcd.pin then some itAborted
  else none

/-- The first waiting item that becomes ready or ends unrun, in instance and then item order (R272, R274). -/
def State.firstMet (s : State) : Option ItemId :=
  s.insts.findSome? fun i =>
    (i.items.findIdx? fun x => s.depMet i x && (s.flowFree i x || (s.endsUnrun i x).isSome)).map fun k => ⟨i.num, k⟩

/-- The status and program status of an ended item. -/
def ItemSt.over : ItemSt → Option (Nat × Nat)
  | .ended a b => some (a, b)
  | .waiting => none
  | .ready => none
  | .inService _ => none

/-- The item has ended and does not ask for a re-run. -/
def ItemSt.final (t : ItemSt) : Bool :=
  match t.over with
  | some (a, _) => a != itRerun
  | none => false

/-- The item has ended other than `OK`. -/
def ItemSt.bad (t : ItemSt) : Bool :=
  match t.over with
  | some (a, _) => a != itOk
  | none => false

/-- A group of an instance has ended without a re-run: every item of it ended, none asks for one. -/
def Inst.groupEnded (i : Inst) (g : Nat) : Bool :=
  i.items.all fun x => x.rcd.group != g || x.st.final

/-- An ended group that still holds decrements (R285). -/
def State.heldGroup (s : State) : Option (Nat × Nat) :=
  s.insts.findSome? fun i => (i.items.find? fun x =>
    x.rcd.group != 0 && !x.heldDecs.isEmpty && i.groupEnded x.rcd.group).map fun x => (i.num, x.rcd.group)

/-- Applies the held decrements of a group in item index order (R285). -/
def State.closeGroup (s : State) (n g : Nat) : State :=
  match s.instOf n with
  | none => s
  | some i =>
    let decs := (i.items.filter fun x => x.rcd.group == g).flatMap (·.heldDecs)
    let s := s.modInst n fun i => { i with items := updWhere (fun x => x.rcd.group == g) (fun x => { x with heldDecs := [] }) i.items }
    decs.foldl (fun s d => s.decrement d.1 d.2.1 d.2.2) s

/-- All items of an instance have ended and no group is open (R286); a training step whose items all
ended OK waits until each `ready` object it names is signalled (R262). -/
def State.instEnded (s : State) (i : Inst) : Bool :=
  i.opcode != 0x22 &&
  (i.items.all fun x => x.st.final) && (i.items.all fun x => x.heldDecs.isEmpty) &&
  ((i.items.any fun x => x.st.bad) || i.train.all fun t => (s.sync t.1).count == 0)

/-- Fault record (Table 07-11). -/
def FaultRec.bytes (f : FaultRec) : Bytes :=
  natLe 8 (f.code + f.engine * 2 ^ 8 + f.core * 2 ^ 16) ++ natLe 8 f.pc ++ natLe 8 f.insn.toNat ++ natLe 8 f.item.word.toNat

/-- Saturates at 2^n - 1. -/
def satNat (n v : Nat) : Nat := min v (2 ^ n - 1)

/-- Index of the reported item: the lowest that did not end `OK` (R286). -/
def Inst.reported (i : Inst) : Option Nat :=
  i.items.findIdx? fun x => x.st.bad

/-- The report of Table 13-6. -/
def Inst.reportBytes (i : Inst) : Bytes :=
  let f := ((i.reported.bind fun k => i.items[k]?).bind (·.fault)).map FaultRec.bytes
  let ev (n : Nat) := natLe 4 (satNat 32 ((i.items.map fun x => x.evs.getD n 0).sum))
  f.getD (List.replicate 32 0#8) ++ ev 0 ++ ev 1 ++ ev 2 ++ ev 3
    ++ natLe 8 (if i.opcode = 0x0A then (i.items.map fun x => x.counts.1).sum else 0)
    ++ natLe 8 ((i.items.map fun x => x.counts.2).sum)

/-- The completion of an ended instance (R406, R421). -/
def Inst.done (i : Inst) (now : Nat) : Done :=
  let rep := i.reported
  let st := rep.bind fun k => i.items[k]?
  let sp := (st.bind fun x => x.st.over).getD (itOk, ((i.items.head?.bind fun x => x.st.over).map (·.2)).getD 0)
  let took := satNat 32 (now - i.acceptedAt)
  let late := i.budget != 0 && decide (i.budget < took)
  let arm := (i.armStatus.map (·.2)).headD 0
  { status := itemToStatus sp.1
    late := late
    sat := i.items.any (·.sat)
    hostFault := i.items.any (·.hostFault)
    report := i.report != 0
    r0 := BitVec.ofNat 64 (sp.2 % 2 ^ 16 + (rep.getD 0) * 2 ^ 16 + arm * 2 ^ 32)
    r1 := BitVec.ofNat 64 (i.num % 2 ^ 32 + took * 2 ^ 32)
    r2 := i.result2
    counts := i.counted || late
    rep := if i.report = 0 then none else some (i.report, i.reportBytes)
    since := some (i.acceptedAt, if late then 0 else i.budget)
    slot := i.service }

/-- Inserts a new instance in the order of the instance numbers, which wrap at 32 bits (R269, R274). -/
def insInst (i : Inst) : List Inst → List Inst
  | [] => [i]
  | j :: r => if (j.num + 2 ^ 32 - i.num) % 2 ^ 32 < 2 ^ 31 then i :: j :: r else j :: insInst i r

/-- Inserts an arm status in item index order (R286). -/
def insArm (x : Nat × Nat) : List (Nat × Nat) → List (Nat × Nat)
  | [] => [x]
  | y :: r => if x.1 < y.1 then x :: y :: r else y :: insArm x r

/-- An instance ends: counters, report and completion record, and its reservations are free (R286, R407, R408). -/
def State.finishInst (s : State) (i : Inst) : State :=
  let d := i.done s.ticks
  let s := { s with insts := s.insts.filter fun j => j.num != i.num }
  let s := if d.late then s.modRing i.ring fun g => { g with late := g.late + 1 } else s
  s.complete i.ring i.pos d

/-- One change that follows by itself: an item becomes ready or ends unrun (R272, R282, R436), a group's
held decrements apply (R285), or an instance ends (R286). -/
def State.settleOne (s : State) : Option State :=
  match s.firstMet with
  | some id =>
    match s.instOf id.inst, s.itemOf id with
    | some i, some x =>
      match s.endsUnrun i x with
      | some st => some (s.endItem id st 0)
      | none => some { s.modItem id (fun x => { x with st := .ready, met := true }) with readyQ := s.readyQ ++ [id] }
    | _, _ => none
  | none =>
    match s.heldGroup with
    | some (n, g) => some (s.closeGroup n g)
    | none => (s.insts.find? s.instEnded).map s.finishInst

def State.settleLoop : Nat → State → State
  | 0, s => s
  | n + 1, s =>
    match s.settleOne with
    | some s' => s'.settleLoop n
    | none => s

/-- A bound on the changes that can follow one another. -/
def State.settleFuel (s : State) : Nat := (s.insts.map fun i => 3 * i.items.length + 2).sum

/-- Everything that follows by itself from the present sync objects and item states. -/
def State.settle (s : State) : State := s.settleLoop s.settleFuel

/-! ### Choosing a core (R274, R275, R278, R279) -/

/-- The core is idle: no run, no held item, its cluster up. -/
def State.idleCore (s : State) (c : Nat) : Bool := (s.core c).run.isNone && (s.core c).held.isNone && s.clusterUp c

/-- The code tag that an item of a port and program needs (R276). -/
def codeTag (p prog : Nat) : Nat := 2048 * p + prog + 1

def Core.tag (k : Core) (express : Bool) : Option Nat := if express then k.tagExpress else k.tagLower

/-- An express or normal item is ready that may run on the core (R274). -/
def State.wantedAbove (s : State) (c : Nat) : Bool :=
  s.readyQ.any fun id => match s.instOf id.inst, s.itemOf id with
    | some i, some x => x.cls != .background && s.mayRun i.port x.cls x.rcd.pin c
    | _, _ => false

/-- Key of a flow in `flowLast`. -/
def flowKey (p flow : Nat) : Nat := 65536 * p + flow

/-- The idle core an item starts on, by the preferences of R275; a background item leaves a core to the ready
items above it (R274), and a retry avoids the core of its failed run whenever another is idle (R283). -/
def State.chooseIdle (s : State) (i : Inst) (x : Item) : Option Nat :=
  let all := (List.range 128).filter fun c =>
    s.mayRun i.port x.cls x.rcd.pin c && s.idleCore c && (x.cls == .express || (s.core c).saved.isNone)
      && (x.cls != .background || !s.wantedAbove c)
  let others := all.filter fun c => x.avoid != some c
  let ok := if others.isEmpty then all else others
  let byFlow := if x.rcd.atomic then ok.find? fun c => Tab.get 0 s.flowLast (flowKey i.port x.rcd.flow) == c + 1 else none
  let byTag := ok.find? fun c => (s.core c).tag (x.cls == .express) == some (codeTag i.port i.program)
  byFlow.orElse fun _ => byTag.orElse fun _ => ok.head?

/-- The core an express item pre-empts when no idle core can take it (R278). -/
def State.chooseVictim (s : State) (i : Inst) (x : Item) : Option Nat :=
  let ok := (List.range 128).filter fun c =>
    s.mayRun i.port .express x.rcd.pin c && s.clusterUp c && (s.core c).held.isNone && (s.core c).saved.isNone
  let running (k : Cls) (c : Nat) : Bool := match (s.core c).run with
    | some r => r.cls == k
    | none => false
  if x.cls = .express then (ok.find? (running .background)).orElse fun _ => ok.find? (running .normal) else none

/-- An HLD of the running item is outstanding: the core's pre-emption waits (R382). -/
def State.hostHeld (s : State) (c : Nat) : Bool := match (s.core c).run with
  | some r => s.accs.any fun a => match a.why with
    | .hld k _ => k == c && a.item == r.item
    | _ => false
  | none => false

/-- Where a ready item would start now, if it can: every earlier item of its group has started (R280). -/
def State.startCore (s : State) (id : ItemId) : Option Nat :=
  match s.instOf id.inst, s.itemOf id with
  | some i, some x =>
    if !s.flowFree i x then none
    else if x.rcd.group ≠ 0 && ((i.items.take id.idx).any fun y => y.rcd.group == x.rcd.group && (y.st == .waiting || y.st == .ready)) then none
    else (s.chooseIdle i x).orElse fun _ => (s.chooseVictim i x).filter fun c => !s.hostHeld c
  | _, _ => none

/-- Ready items of a class, in the order in which they became ready. -/
def State.readyOf (s : State) (k : Cls) : List ItemId :=
  s.readyQ.filter fun id => match s.itemOf id with
    | some x => x.cls == k
    | none => false

/-- The next start: classes in order (R274). -/
def State.nextStart (s : State) : Option (ItemId × Nat) :=
  let first (l : List ItemId) : Option (ItemId × Nat) := l.findSome? fun id => (s.startCore id).map fun c => (id, c)
  (first (s.readyOf .express)).orElse fun _ => (first (s.readyOf .normal)).orElse fun _ => first (s.readyOf .background)

/-- A core whose express item has ended gets its pre-empted item back, unless a ready express item
chooses it (R279). -/
def State.restore (s : State) (c : Nat) : State :=
  let k := s.core c
  match k.saved with
  | some v =>
    if k.run.isNone && k.held.isNone && (s.clusterUp c || v.run.retry) && !((s.readyOf .express).any fun id => s.startCore id == some c) then
      s.setCore c { k with run := some { v.run with stallAt := v.run.stallAt + (s.ticks - v.since) }, regs := v.regs, saved := none }
    else s
  | none => s

/-- Every core whose pre-empted item no ready express item keeps waiting goes on with it (R279). -/
def State.restoreAll (s : State) : State := (List.range 128).foldl State.restore s

end Sys2Proof.Machine
end

