-- ==== Sys2Proof/Machine/LocalStore.lean ====
section
/-! DEFINITION. A core's local store: partitions (Table 07-8), reads and writes, poison, and code tags (R276). -/

namespace Sys2Proof.Machine

/-- First byte of a partition. -/
def partBase (express : Bool) : Nat := if express then 0x240000 else 0
/-- First byte after a partition. -/
def partEnd (express : Bool) : Nat := if express then 0x300000 else 0x240000
/-- A range of local store wholly inside a partition (R227). -/
def inPart (express : Bool) (a n : Nat) : Bool := decide (partBase express ≤ a ∧ a + n ≤ partEnd express)

def Core.lsBytes (k : Core) (a n : Nat) : Bytes := k.ls.readBytes a n
def Core.lsNat (k : Core) (a n : Nat) : Nat := k.ls.readNat a n

/-- 64-bit words that a range touches. -/
def wordsOf (a n : Nat) : List Nat := rangeFrom (a / 8) ((a + max n 1 - 1) / 8 - a / 8 + 1)

/-- A range holds a word with the poison syndrome. -/
def Core.lsBad (k : Core) (a n : Nat) : Bool := k.lsPoison.any fun w => (wordsOf a n).contains w

/-- A write of bytes; words it covers whole lose the poison syndrome. -/
def Core.lsPut (k : Core) (a : Nat) (d : Bytes) : Core :=
  { k with ls := k.ls.writeBytes a d
           lsPoison := k.lsPoison.filter fun w => !decide (a ≤ 8 * w ∧ 8 * w + 8 ≤ a + d.length) }

/-- A write into a loaded image clears its code tag (R276). -/
def Core.clearTags (k : Core) (a n : Nat) : Core :=
  let k := if meets (0, k.imgLower) a n then { k with tagLower := none } else k
  if meets (partBase true, k.imgExpress) a n then { k with tagExpress := none } else k

/-- A write by an engine, a pass or a stream. -/
def Core.engPut (k : Core) (a : Nat) (d : Bytes) : Core := (k.lsPut a d).clearTags a d.length

/-- A write of a poisoned result: the words it touches take the poison syndrome (R428). -/
def Core.poisonPut (k : Core) (a : Nat) (d : Bytes) (bad : Bool) : Core :=
  let k := k.engPut a d
  if bad then { k with lsPoison := k.lsPoison ++ (wordsOf a d.length).filter fun w => !k.lsPoison.contains w } else k

def State.lsWrite (s : State) (c a : Nat) (d : Bytes) : State := s.modCore c fun k => k.engPut a d

/-- Scalar register n; S0 reads as zero (R205). -/
def Core.sreg (k : Core) (n : Nat) : Word := if n = 0 then 0 else Tab.get 0 k.regs.s n
/-- Writes scalar register n; a write of S0 is discarded (R205). -/
def Core.setS (k : Core) (n : Nat) (v : Word) : Core :=
  if n = 0 then k else { k with regs := { k.regs with s := Tab.put 0 k.regs.s n v } }
def Core.preg (k : Core) (n : Nat) : BitVec 256 := Tab.get 0 k.regs.p n
def Core.setP (k : Core) (n : Nat) (v : BitVec 256) : Core := { k with regs := { k.regs with p := Tab.put 0 k.regs.p n v } }
/-- 32-bit element e of tile register n (R171). -/
def Core.telem (k : Core) (n e : Nat) : BitVec 32 := Tab.get 0 k.regs.t (256 * n + e)
def Core.setT (k : Core) (n e : Nat) (v : BitVec 32) : Core :=
  { k with regs := { k.regs with t := Tab.put 0 k.regs.t (256 * n + e) v } }
def Core.setPc (k : Core) (a : Nat) : Core := { k with regs := { k.regs with pc := a } }

/-- Copies the image of a program from device memory to the partition base and sets the tag (R276). -/
def State.loadCode (s : State) (c p n : Nat) (express : Bool) : State :=
  match s.prog p n with
  | none => s
  | some g =>
    let len := 32 * g.crumbs
    let r := s.memRead express .general g.code len
    let tag := some (codeTag p n)
    r.2.modCore c fun k =>
      let k := k.poisonPut (partBase express) r.1.1 r.1.2
      if express then { k with tagExpress := tag, imgExpress := len } else { k with tagLower := tag, imgLower := len }

end Sys2Proof.Machine
end

