-- ==== Sys2Proof/Machine/Streams.lean ====
section
/-! DEFINITION. Streams (R287-R296): arms, command lists, arbitration, delivery and the end of generations. -/

namespace Sys2Proof.Machine

/-- A stream arm record (Table 09-5). -/
structure ArmRec where
  list : Nat
  buf : Nat
  stream : Nat
  bufLog : Nat
  drain : Nat
deriving DecidableEq, Repr

/-- Reads an arm record; none where a reserved bit is set or a field is out of range. -/
def ArmRec.parse (b : Bytes) : Option ArmRec :=
  let r : ArmRec := { list := fieldAt b 0 8, buf := bfld b 8 4 0 22, stream := bfld b 12 4 0 9, bufLog := bfld b 12 4 9 5, drain := bfld b 16 4 0 16 }
  if bfld b 8 4 22 10 ≠ 0 ∨ bfld b 12 4 14 18 ≠ 0 ∨ bfld b 16 4 16 16 ≠ 0 ∨ !zeroRange b 20 12 ∨ r.list % 64 ≠ 0
      ∨ 16 < r.bufLog ∨ r.buf % (32 * 2 ^ r.bufLog) ≠ 0 then none
  else some r

def ArmRec.bytes (r : ArmRec) : Nat := 32 * 2 ^ r.bufLog

/-- An arm is allowed: the port owns the stream, express streams are for express work, and the buffer
lies in the stream's partition (R287). -/
def State.armOk (s : State) (p : Nat) (express : Bool) (r : ArmRec) : Bool :=
  s.streamPort r.stream == p && (!streamExpress r.stream || express) && inPart (streamExpress r.stream) r.buf r.bytes

/-- A generation ends with a status (R296): a ring arm completes, an item's arm goes to its instance. -/
def State.genReport (s : State) (src : ArmSrc) (st : Nat) : State :=
  match src with
  | .ring r pos => s.completeWith r pos st
  | .item i k => if st = stOk then s else s.modInst i fun x => { x with armStatus := insArm (k, st) x.armStatus }

/-- The ring, function, PASID and item of an arm (R369, R384). -/
def State.armHost (s : State) (src : ArmSrc) : Nat × Nat × Option (BitVec 20) × ItemId :=
  match src with
  | .ring r _ => (r, s.ringFn r, (s.ring r).pasid, noItem)
  | .item i k => match s.instOf i with
    | some x => (x.ring, x.fn, (s.ring x.ring).pasid, ⟨i, k⟩)
    | none => (0, 0, none, noItem)

def ArmRec.gen (r : ArmRec) (src : ArmSrc) (base : Nat) (h : Nat × Nat × Option (BitVec 20) × ItemId) : Gen :=
  { ring := h.1, fn := h.2.1, pasid := h.2.2.1, item := h.2.2.2
    src := src, list := r.list, buf := r.buf, bufLog := r.bufLog, drain := r.drain, base := base, started := false,
    delivered := 0, requested := 0, consumed := 0, arrived := [], asked := [], entry := 0, within := 0,
    ended := none }

/-- A generation that delivers. -/
def Gen.delivering (g : Gen) : Bool := g.started && g.ended.isNone
def Stream.delivering (t : Stream) : Option Gen := t.gens.find? Gen.delivering
/-- The current generation (R291): the oldest whose Crumbs have not all been consumed. -/
def Stream.current (t : Stream) : Option Gen := t.gens.find? (·.started)
/-- The generation that requests: the newest that delivers, the older ones having requested their last Crumb (R295). -/
def Stream.requester (t : Stream) : Option Gen := (t.gens.filter Gen.delivering).getLast?
/-- The delivering generation that a source armed. -/
def Stream.genOf (t : Stream) (x : ArmSrc) : Option Gen := t.gens.find? fun g => g.delivering && g.src == x
def Stream.queued (t : Stream) : Option Gen := t.gens.find? fun g => !g.started
def ArmSrc.isRing : ArmSrc → Bool
  | .ring _ _ => true
  | .item _ _ => false

/-- The unit of a stream reads the entry of its command list that a generation has come to (R320). -/
def State.readEntry (s : State) (n : Nat) (g : Gen) : State :=
  let a := g.list + 64 * g.entry
  if s.generalOk (s.streamPort n) a 64 then s.cacheRead (streamExpress n) a 64 else s

/-- An arm that has been checked reaches its stream (R295). -/
def State.armStream (s : State) (n : Nat) (g : Gen) : State :=
  let t := s.strm n
  if t.delivering.isNone && t.queued.isNone then (s.setStrm n { t with gens := t.gens ++ [{ g with started := true }] }).readEntry n g
  else
    match t.queued with
    | none => s.setStrm n { t with gens := t.gens ++ [g] }
    | some q =>
      if q.src.isRing && g.src.isRing then
        (s.setStrm n { t with gens := t.gens.map fun x => if x.started then x else g, status := stSuperseded }).genReport q.src stSuperseded
      else s.setStrm n { t with waiting := t.waiting ++ [g] }

/-- Arms a stream from 32 bytes, or answers `BAD_DESCRIPTOR` to its source; `ABORTED` where the stream's cluster is
LOST (R436). -/
def State.armBytes (s : State) (p : Nat) (express : Bool) (b : Bytes) (src : ArmSrc) (base : Nat) : State :=
  match ArmRec.parse b with
  | some r =>
    if !s.armOk p express r then s.genReport src stBadDescriptor
    else if s.unitLost 1 (r.stream / 64) then s.genReport src stAborted
    else s.armStream r.stream (r.gen src base (s.armHost src))
  | none => s.genReport src stBadDescriptor

/-- A command list entry (Table 09-6). -/
inductive ListEnt where
  | transfer (host : Bool) (run src : Nat) (n1 s1 n2 s2 n3 s3 : Nat)
  | mark (rel : Bool) (obj : Nat)
  | stop
  | bad
deriving DecidableEq, Repr

def ListEnt.parse (b : Bytes) : ListEnt :=
  let w := fieldAt b 0 8
  let kind := fld w 0 2
  if kind = 0 then
    if fld w 19 45 ≠ 0 ∨ !zeroRange b 40 24 ∨ fieldAt b 8 8 % 32 ≠ 0 then .bad
    else .transfer (bitAt w 2) (fld w 3 16 + 1) (fieldAt b 8 8) (bfld b 16 8 0 16 + 1) (bfld b 16 8 16 48)
      (bfld b 24 8 0 16 + 1) (bfld b 24 8 16 48) (bfld b 32 8 0 16 + 1) (bfld b 32 8 16 48)
  else if kind = 1 then
    if fld w 2 62 ≠ 0 ∨ bfld b 8 8 15 49 ≠ 0 ∨ !zeroRange b 16 48 then .bad
    else .mark (bitAt (fieldAt b 8 2) 14) (bfld b 8 2 0 14)
  else if kind = 2 then (if fld w 2 62 ≠ 0 ∨ !zeroRange b 8 56 then .bad else .stop)
  else .bad

/-- Address of Crumb w of a `TRANSFER` (R289). -/
def transferAddr (run src n1 s1 n2 s2 s3 w : Nat) : Nat :=
  let q := w / run
  (src + 32 * (w % run + q % n1 * s1 + q / n1 % n2 * s2 + q / (n1 * n2) * s3)) % 2 ^ 64

/-- The entry a generation is at. A list outside the port's general memory reads as a bad entry (R299). -/
def State.entryOf (s : State) (p : Nat) (g : Gen) : ListEnt :=
  let a := g.list + 64 * g.entry
  if s.generalOk p a 64 then ListEnt.parse (s.dread a 64).1 else .bad

/-- The first address of a stream `TRANSFER` that names device storage the stream may not read (R299, R300, R375). -/
def State.transferBad (s : State) (p : Nat) (host : Bool) (run src n1 s1 n2 s2 n3 s3 : Nat) : Option Nat :=
  if host then none
  else
    ((List.range (n1 * n2 * n3)).map fun q => transferAddr run src n1 s1 n2 s2 s3 (q * run)).find? fun a =>
      (s.reach p a (32 * run)).isNone

/-- Updates the delivering generation of a stream that a source armed. -/
def State.modGen (s : State) (n : Nat) (x : ArmSrc) (f : Gen → Gen) : State :=
  s.modStrm n fun t => { t with gens := updWhere (fun g => g.delivering && g.src == x) f t.gens }

/-- A generation comes to the next entry of its list. -/
def State.nextEntry (s : State) (n : Nat) (x : ArmSrc) : State :=
  let s := s.modGen n x fun g => { g with entry := g.entry + 1, within := 0 }
  match (s.strm n).genOf x with
  | some g => s.readEntry n g
  | none => s

/-- Drops generations that are no longer current: an `OK` one once consumed (R291), any other when no
item runs, or is kept pre-empted, in the stream's partition (R292). -/
def State.dropGens (s : State) (n : Nat) : State :=
  let here (r : Run) : Bool := (r.cls == .express) == streamExpress n
  let k := s.core (streamCore n)
  let busy := k.run.any here || k.saved.any fun v => here v.run
  let keep (g : Gen) : Bool := match g.ended with
    | none => true
    | some st => if st = stOk then decide (g.consumed < g.delivered) else busy
  s.modStrm n fun t => { t with gens := t.gens.filter keep }

/-- The delivering generation of a stream that a source armed ends with a status (R296). -/
def State.endGen (s : State) (n : Nat) (x : ArmSrc) (st : Nat) : State :=
  match (s.strm n).genOf x with
  | none => s
  | some _ =>
    let s := s.modGen n x fun g => { g with ended := some st, asked := [] }
    let s := s.modStrm n fun t => { t with status := st }
    let s := s.dropAccs fun a => match a.why with
      | .stream m y _ => m == n && y == x
      | _ => false
    ((s.dropGens n).genReport x st).settle

/-- The ring that a generation's host reads belong to is gone (R391, R296). -/
def State.genGone (s : State) (g : Gen) : Bool := s.hostGone g.ring

/-- Reads on through the list of a generation: past marks whose object is at zero, to a bad entry, a STOP or a
`TRANSFER` (R294). A mark names an object that its port has claimed (R26). -/
def State.seekFrom (s : State) (n : Nat) (x : ArmSrc) : Nat → State
  | 0 => s
  | k + 1 =>
    match (s.strm n).genOf x with
    | none => s
    | some g =>
      let p := s.streamPort n
      match s.entryOf p g with
      | .bad =>
        let a := g.list + 64 * g.entry
        (if s.generalOk p a 64 then s else s.ringAccess p g.ring a accRange).endGen n x stBadDescriptor
      | .stop => if g.delivered = g.requested then s.endGen n x stOk else s
      | .transfer host run src n1 s1 n2 s2 n3 s3 =>
        match if g.within = 0 then s.transferBad p host run src n1 s1 n2 s2 n3 s3 else none with
        | some a => (s.ringAccess p g.ring a accRange).endGen n x stBadDescriptor
        | none =>
          if host && s.genGone g then s.endGen n x stPortLost
          else if g.within = run * n1 * n2 * n3 then (s.nextEntry n x).seekFrom n x k
          else s
      | .mark rel obj =>
        let id := if rel then (g.base + obj) % 16384 else obj
        if rel && x.isRing || s.syncPort id != p then s.endGen n x stBadDescriptor
        else
          let o := s.sync id
          if o.count ≠ 0 then s
          else if o.aborted then s.endGen n x stAborted
          else (s.nextEntry n x).seekFrom n x k

/-- The longest list the model reads through in one step. -/
def seekFuel : Nat := 65536

/-- Every delivering generation of a stream reads on, the oldest first. -/
def State.seek (s : State) (n : Nat) : State :=
  ((s.strm n).gens.filter Gen.delivering).foldl (fun s g => s.seekFrom n g.src seekFuel) s

/-- The stream waits at a page that the host has not made present (R296, R381). -/
def State.pageStopped (s : State) (n : Nat) (x : ArmSrc) : Bool :=
  s.accs.any fun a => a.st == .pageReq && (match a.why with
    | .stream m y _ => m == n && y == x
    | _ => false)

/-- Crumbs of the next request of an eligible stream, with its time to empty (R293). -/
def State.eligible (s : State) (n : Nat) : Option (Nat × Nat × Gen) :=
  match (s.strm n).requester with
  | none => none
  | some g =>
    match s.entryOf (s.streamPort n) g with
    | .transfer _ run _ _ _ _ _ _ _ =>
      let want := min 8 (run - g.within % run)
      let held := g.requested - g.consumed
      if s.pageStopped n g.src || decide (2 ^ g.bufLog < held + want) then none else some (want, held, g)
    | _ => none

/-- The stream granted in a cluster: smallest time to empty, lower number on a tie; streams without a
declared rate only when no other is eligible, in turn (R293). -/
def State.grantee (s : State) (cl : Nat) : Option Nat :=
  let all := rangeFrom (64 * cl) 64
  let timed := all.filterMap fun n => match s.eligible n with
    | some (_, held, g) => if g.drain ≠ 0 then some (held * 1024 / g.drain, n) else none
    | none => none
  match timed.foldl (fun b x => match b with
      | none => some x
      | some y => if x.1 < y.1 then some x else some y) (none : Option (Nat × Nat)) with
  | some x => some x.2
  | none =>
    let free := all.filter fun n => (s.eligible n).isSome
    let lastN := Tab.get 0 s.rrStream cl
    (free.find? fun n => decide (lastN < n)).orElse fun _ => free.head?

/-- Requests the next Crumbs of a stream. -/
def State.requestCrumbs (s : State) (n : Nat) : State :=
  match s.eligible n with
  | none => s
  | some (want, _, g) =>
    match s.entryOf (s.streamPort n) g with
    | .transfer host run src n1 s1 n2 s2 _ s3 =>
      let ask := (List.range want).map fun j => (g.requested + j, host, transferAddr run src n1 s1 n2 s2 s3 (g.within + j))
      let s := s.modGen n g.src fun g => { g with requested := g.requested + want, within := g.within + want, asked := g.asked ++ ask }
      if host then
        ask.foldl (fun s a => s.hostStart (s.streamPort n) g.fn g.pasid a.2.2 32 .read (.stream n g.src a.1) g.item) s
      else s
    | _ => s

/-- Delivered grows over the unbroken prefix of arrived Crumbs (R290). -/
def prefixLen : Nat → List Nat → Nat → Nat
  | 0, _, d => d
  | k + 1, l, d => if l.contains d then prefixLen k l (d + 1) else d

/-- Crumb i of a delivering generation of a stream reaches local store. -/
def State.deliver (s : State) (n : Nat) (x : ArmSrc) (i : Nat) (d : Bytes) (bad : Bool) : State :=
  match (s.strm n).genOf x with
  | none => s
  | some g =>
    let s := s.modCore (streamCore n) fun k => k.poisonPut (g.buf + 32 * (i % 2 ^ g.bufLog)) d bad
    let arr := i :: g.arrived
    let dl := prefixLen arr.length arr g.delivered
    let s := s.modGen n x fun g =>
      { g with asked := g.asked.filter (fun a => a.1 != i), arrived := arr.filter (fun x => decide (dl ≤ x)), delivered := dl }
    s.seek n

/-! ### The commands -/

/-- A stream without a declared rate takes the turn of its unit (R293). -/
def State.takeTurn (s : State) (cl n : Nat) : State :=
  match s.eligible n with
  | some (_, _, g) => if g.drain = 0 then { s with rrStream := Tab.put 0 s.rrStream cl n } else s
  | none => s

/-- The stream unit of a cluster works: the device runs, and the cluster is neither restarting nor held nor LOST
(R433, R437, R449). -/
def State.streamsUp (s : State) (cl : Nat) : Bool := s.running && s.fnUp 1 cl && !s.unitLost 1 cl

/-- STREAM_GRANT (R293): the stream unit of a cluster grants one request. -/
def streamGrant (cl : Fin 8) (s : State) : State :=
  if !s.streamsUp cl.val then s
  else
  let s := (rangeFrom (64 * cl.val) 64).foldl State.seek s
  match s.grantee cl.val with
  | none => s
  | some n => ((s.takeTurn cl.val n).requestCrumbs n).seek n

/-- The oldest delivering generation of a stream that has asked for Crumb i, and where the Crumb comes from. -/
def Stream.asker (t : Stream) (i : Nat) : Option (Gen × Bool × Nat) :=
  t.gens.findSome? fun g =>
    if g.delivering then (g.asked.find? fun a => a.1 == i).map fun a => (g, a.2) else none

/-- STREAM_CRUMB_DELIVERED (R290): one requested Crumb arrives, from device memory or, with the bytes
given, from the host. -/
def streamCrumbDelivered (st : StreamIx) (i : Nat) (host : Bytes) (s : State) : State :=
  if !s.streamsUp (st.val / 64) then s
  else
  match (s.strm st.val).asker i with
  | none => s
  | some (g, fromHost, a) =>
    if fromHost then
      match s.accs.find? (fun x => x.why == .stream st.val g.src i && x.st == .sent) with
      | none => s
      | some acc => (s.dropAcc acc.id).settleInvals.deliver st.val g.src i (slice host 0 32) false
    else
      let k := match s.kindOf a 32 with
        | some (k, _, _) => k
        | none => .general
      let r := s.memRead (streamExpress st.val) k a 32
      r.2.deliver st.val g.src i r.1.1 r.1.2

/-- GENERATION_START (R295): a queued generation starts once the delivering one has requested its last
Crumb and, where the buffers overlap, once its Crumbs have all been consumed. -/
def generationStart (st : StreamIx) (s : State) : State :=
  if !s.streamsUp (st.val / 64) then s
  else
  let s := s.seek st.val
  let t := s.strm st.val
  match t.queued with
  | none => s
  | some q =>
    let blocks (g : Gen) : Bool :=
      g.started &&
        ((g.ended.isNone && s.entryOf (s.streamPort st.val) g != .stop) ||
         (meets (g.buf, 32 * 2 ^ g.bufLog) q.buf (32 * 2 ^ q.bufLog) && g.ended.getD stOk == stOk &&
            decide (g.consumed < g.requested)))
    if t.gens.any blocks then s
    else
      -- the delivering generation, its last Crumb requested, goes on beside the new one until it ends
      let gens := t.gens.map fun g => if g.started then g else { g with started := true }
      let s := s.readEntry st.val q
      match t.waiting with
      | [] => s.setStrm st.val { t with gens := gens }
      | w :: r => s.setStrm st.val { t with gens := gens ++ [w], waiting := r }

def execStreamGrant (cl : Fin 8) (s : State) : Out := .next (streamGrant cl s)
def execStreamCrumbDelivered (st : StreamIx) (i : Nat) (host : Bytes) (s : State) : Out := .next (streamCrumbDelivered st i host s)
def execGenerationStart (st : StreamIx) (s : State) : Out := .next (generationStart st s)

end Sys2Proof.Machine
end

