-- ==== Sys2Proof/Machine/Issue.lean ====
section
/-! DEFINITION. The issue stage of a core (chapter 07): stalls, the end of a run, exceptions, and what every instruction goes through before its own effect. -/

namespace Sys2Proof.Machine

/-! Exception codes (Table 07-10). -/
def xIllegalOp := 0x01
def xMisaligned := 0x02
def xLsPartition := 0x03
def xTilePartition := 0x04
def xSidePartition := 0x05
def xOperandFormat := 0x06
def xAccOrder := 0x07
def xTreeDepth := 0x08
def xTreeLost := 0x09
def xChainMismatch := 0x0A
def xGlazeConfig := 0x0B
def xChainConfig := 0x0C
def xRuConfig := 0x0D
def xRowConfig := 0x0E
def xIntSat := 0x0F
def xSyncClaim := 0x10
def xWaitTimeout := 0x11
def xMachineCheck := 0x20

/-! Engine numbers of a fault record (Table 07-11). -/
def enIssue := 0
def enMe := 1
def enGlaze := 2
def enVe := 3
def enRu := 4
def enRwe := 5
def enLsu := 6

def State.modRun (s : State) (c : Nat) (f : Run → Run) : State :=
  s.modCore c fun k => { k with run := k.run.map f }

def Run.express (r : Run) : Bool := r.cls == .express

/-- Operations of the running item on a core that have not completed (R221, R224). -/
def State.outstanding (s : State) (c : Nat) (id : ItemId) : Bool :=
  ((s.core c).lsu.any fun q => q.item == id) ||
    s.accs.any fun a => match a.why with
      | .hld k _ => k == c && a.item == id
      | .hst k => k == c && a.item == id
      | _ => false

/-- Operations that the LSU of a core has outstanding (Table 07-7). -/
def State.lsuCount (s : State) (c : Nat) : Nat :=
  (s.core c).lsu.length + (s.accs.filter fun a => match a.why with
    | .hld k _ => k == c
    | .hst k => k == c
    | _ => false).length

/-- A stream is of core c and of the port of the item that runs there (R26, R291). -/
def State.ownStream (s : State) (c : Nat) (r : Run) (st : Nat) : Bool :=
  streamCore st == c && s.streamPort st == r.port

/-- The delivered count of the current generation of a stream of core c (R290, R291). -/
def State.deliveredNow (s : State) (c : Nat) (r : Run) (st : Nat) : Option Nat :=
  if s.ownStream c r st then (s.strm st).current.map (·.delivered) else none

/-- The condition a stalled core waits for holds. -/
def State.stallMet (s : State) (c : Nat) (r : Run) : Stall → Bool
  | .word a => bitAt ((s.core c).lsNat a 8) 0
  | .chain n => decide ((s.core c).chainCount - BitVec.ofNat 32 n < 0x80000000#32)
  | .stream st n => match s.deliveredNow c r st with
    | some d => decide (n ≤ d)
    | none => n == 0 && s.ownStream c r st
  | .engines m => !(bitAt m 5 && s.outstanding c r.item)
  | .hostRead => !s.accs.any fun a => match a.why with
    | .hld k _ => k == c && a.item == r.item
    | _ => false
  | .ending _ => false

/-- Item statuses at the end of a run (Table 09-4). -/
def Run.endStatus (r : Run) (orphaned : Bool) : Nat :=
  if orphaned then itOrphaned
  else if r.fault.isSome then itFaulted
  else if r.chainLast && r.rerun then (if r.inGroup && r.preShift < 7 then itRerun else itSaturated)
  else itOk

/-- Frees the flow of a run that ended `RERUN`. -/
def State.endRerunFlow (s : State) (flow : Option (Nat × Nat)) : State :=
  match flow with
  | some f => { s with flows := s.flows.erase f }
  | none => s

/-- The run of a core ends, with nothing of it outstanding: the item ends, or is set back for a retry
(R283) or a re-run (R284). -/
def State.finishOne (s : State) (c prog : Nat) : State :=
  match (s.core c).run with
  | none => s
  | some r =>
    let orphaned := match s.instOf r.item.inst with
      | some i => i.orphaned
      | none => false
    let flow := match s.itemOf r.item with
      | some x => if x.rcd.atomic then some (r.port, x.rcd.flow) else none
      | none => none
    let s := s.modCore c fun k => { k with run := none, held := none }
    let s := match flow with
      | some f => { s with flowLast := Tab.put 0 s.flowLast (flowKey f.1 f.2) (c + 1) }
      | none => s
    let s := s.modItem r.item fun x =>
      { x with fault := r.fault, evs := [r.evInvalid, r.evPermute, r.evNanRow, r.evSat], sat := r.sat,
               hostFault := r.hostFault, counts := (x.counts.1 + r.applyCount, x.counts.2 + r.lookupCount) }
    let s :=
      if r.retry && !orphaned && r.fault.isNone then
        let k := (s.itemOf r.item).bind fun x => x.rcd.pin
        if s.hasCore r.port r.cls k then
          { s.modItem r.item (fun x =>
              { x with st := .ready, suppress := if x.suppress.length < r.effects.length then r.effects else x.suppress, avoid := some c, checked := x.checked + if r.uncounted then 0 else 1 })
            with readyQ := s.readyQ ++ [r.item] }
        else s.endItem r.item itAborted 0
      else if r.endStatus orphaned = itRerun then
        (s.modItem r.item fun x => { x with st := .ended itRerun 0, rerun := true, holdsFlow := false }).endRerunFlow flow
      else s.endItem r.item (r.endStatus orphaned) prog
    let s := (rangeFrom (4 * c) 4).foldl State.dropGens s
    (s.settle).restore c

/-- The program status of a run that waits at its END with nothing outstanding (R224). -/
def State.atEnd (s : State) (c : Nat) : Option Nat :=
  match (s.core c).run with
  | some r => match r.stall with
    | some (.ending prog) => if s.outstanding c r.item || (s.core c).held.isSome then none else some prog
    | _ => none
  | none => none

/-- The run of a core ends; a restored item that was at its END when it was pre-empted ends as well. -/
def State.finishRun (s : State) (c prog : Nat) : State :=
  let s := s.finishOne c prog
  match s.atEnd c with
  | some p => s.finishOne c p
  | none => s

/-- Ends the run of a core that is at its end once every operation it issued has completed (R224). -/
def State.tryEnd (s : State) (c : Nat) : State :=
  match s.atEnd c with
  | some prog => s.finishRun c prog
  | none => s

/-- The fault record of an exception of core c (Table 07-11). -/
def State.faultRec (s : State) (c : Nat) (r : Run) (code engine : Nat) (insn : Word) : FaultRec :=
  { code := code, engine := engine, core := c, pc := (s.core c).regs.pc, insn := insn, item := r.item }

/-- A fault record goes to the log of its cluster (R234, Table 14-5). -/
def State.logFault (s : State) (port : Nat) (f : FaultRec) (answer : Nat) : State :=
  s.logEvent (lgCluster (f.core / 16)) [port] eCoreFault cReport 0 answer f.core
    (BitVec.ofNat 64 (f.code + f.engine * 2 ^ 8 + f.core * 2 ^ 16)) (BitVec.ofNat 64 f.pc)

/-- Takes an exception (R231, R234): the fault record goes to the cluster's log; the run ends when its
operations have completed, or, in host-assisted mode, the item is held. -/
def State.raise (s : State) (c code engine : Nat) (insn : Word) : State :=
  match (s.core c).run with
  | none => s
  | some r =>
    let f := s.faultRec c r code engine insn
    if s.assisted 1 then (s.modCore c fun k => { k with held := some f }).logFault r.port f 1
    else ((s.logFault r.port f 0).modRun c fun r => { r with fault := some f, stall := some (.ending 0) }).tryEnd c

/-- A machine check of hardware mode that is to be retried (R233): as an exception of R231, but the run ends
`RETRY`. -/
def State.raiseRetry (s : State) (c code engine : Nat) (insn : Word) : State :=
  match (s.core c).run with
  | none => s
  | some r =>
    ((s.logFault r.port (s.faultRec c r code engine insn) 0).modRun c fun r => { r with retry := true, stall := some (.ending 0) }).tryEnd c

/-- The `chain_last` item of a group has read a record with `sat` set (R284): in hardware mode its run
ends, to be re-run or to end `SATURATED`; in host-assisted mode it raises `INT_SAT`. -/
def State.satRead (s : State) (c engine : Nat) (insn : Word) : State :=
  if s.assisted 1 then s.raise c xIntSat engine insn
  else (s.modRun c fun r => { r with rerun := true, stall := some (.ending 0) }).tryEnd c

/-- The item that runs has had a machine check, or its run already drains to a retry for one (R283). -/
def State.checkedBefore (s : State) (r : Run) : Bool :=
  (match s.itemOf r.item with
    | some x => decide (0 < x.checked)
    | none => false) || (r.retry && !r.uncounted)

/-- A core that consumes poison (R429): the first time the run ends `RETRY`, which counts toward no climb;
the second time the item ends `FAULTED`. -/
def State.consumePoison (s : State) (c engine : Nat) (insn : Word) (addr : Nat) : State :=
  match (s.core c).run with
  | none => s
  | some r =>
    let again := s.checkedBefore r
    let s' := s.logEvent (lgCluster (c / 16)) [r.port] ePoisonConsumed cPoisoned (if again then 0 else 1)
      (if s.assisted 1 then 1 else 0) c r.item.word (BitVec.ofNat 64 addr)
    if s.assisted 1 || again then s'.raise c xMachineCheck engine insn
    else s'.raiseRetry c xMachineCheck engine insn

/-- An exception: its code, its engine, and for consumed poison the address of the word. -/
structure Exn where
  code : Nat
  engine : Nat
  addr : Nat := 0
deriving DecidableEq, Repr

def State.take (s : State) (c : Nat) (e : Exn) (insn : Word) : State :=
  if e.code = xMachineCheck then s.consumePoison c e.engine insn e.addr else s.raise c e.code e.engine insn

/-- A core with a met stall goes on behind the instruction that waited; one without a stall goes on. -/
def State.unstall (s : State) (c : Nat) (r : Run) : Option State :=
  match r.stall with
  | none => some s
  | some t =>
    if s.stallMet c r t then
      some (s.modCore c fun k => { k with run := k.run.map (fun r => { r with stall := none }),
                                          regs := { k.regs with pc := k.regs.pc + 8 } })
    else none

/-- What an instruction does: its state after, or an exception with its engine (R230). -/
abbrev Eff := Except Exn State

/-- A precise exception. -/
def precise (code : Nat) : Eff := .error ⟨code, enIssue, 0⟩
/-- A deferred exception of an engine. -/
def deferred (code engine : Nat) : Eff := .error ⟨code, engine, 0⟩

/-- The core is able to issue: the device runs, its cluster is up, an item runs on it and is not held. -/
def State.issuing (s : State) (c : Nat) : Option Run :=
  if s.running && s.clusterUp c && (s.core c).held.isNone then (s.core c).run else none

/-- The instruction word at the program counter of a core (R204). -/
def Core.fetched (k : Core) : Word := BitVec.ofNat 64 (k.lsNat k.regs.pc 8)

/-- The core and the instruction word of a command that is an instruction of a core (R207, Table 07-3). -/
def coreWord : Instr → Option (CoreIx × Word)
  | .nop c f => some (c, f.word 0x00)
  | .add c f => some (c, f.word 0x01)
  | .sub c f => some (c, f.word 0x02)
  | .mul c f => some (c, f.word 0x03)
  | .mulhu c f => some (c, f.word 0x04)
  | .and c f => some (c, f.word 0x05)
  | .or c f => some (c, f.word 0x06)
  | .xor c f => some (c, f.word 0x07)
  | .shl c f => some (c, f.word 0x08)
  | .shr c f => some (c, f.word 0x09)
  | .sar c f => some (c, f.word 0x0A)
  | .slt c f => some (c, f.word 0x0B)
  | .sltu c f => some (c, f.word 0x0C)
  | .seq c f => some (c, f.word 0x0D)
  | .min c f => some (c, f.word 0x0E)
  | .max c f => some (c, f.word 0x0F)
  | .addi c f => some (c, f.word 0x10)
  | .andi c f => some (c, f.word 0x11)
  | .ori c f => some (c, f.word 0x12)
  | .shli c f => some (c, f.word 0x13)
  | .shri c f => some (c, f.word 0x14)
  | .li c f => some (c, f.word 0x15)
  | .lih c f => some (c, f.word 0x16)
  | .sfadd c f => some (c, f.word 0x18)
  | .sfsub c f => some (c, f.word 0x19)
  | .sfmul c f => some (c, f.word 0x1A)
  | .sfdiv c f => some (c, f.word 0x1B)
  | .sfsqrt c f => some (c, f.word 0x1C)
  | .sf2i c f => some (c, f.word 0x1D)
  | .si2f c f => some (c, f.word 0x1E)
  | .ld c f => some (c, f.word 0x20)
  | .ld32 c f => some (c, f.word 0x21)
  | .st c f => some (c, f.word 0x22)
  | .st32 c f => some (c, f.word 0x23)
  | .sysr c f => some (c, f.word 0x24)
  | .pcnt c f => some (c, f.word 0x25)
  | .jmp c f => some (c, f.word 0x28)
  | .jr c f => some (c, f.word 0x29)
  | .beqz c f => some (c, f.word 0x2A)
  | .bnez c f => some (c, f.word 0x2B)
  | .bltz c f => some (c, f.word 0x2C)
  | .bgez c f => some (c, f.word 0x2D)
  | .loop c f => some (c, f.word 0x2E)
  | .wait c f => some (c, f.word 0x30)
  | .ewait c f => some (c, f.word 0x31)
  | .signal c f => some (c, f.word 0x32)
  | .endItem c f => some (c, f.word 0x33)
  | .macc c f => some (c, f.word 0x40)
  | .tsload c f => some (c, f.word 0x41)
  | .tsstore c f => some (c, f.word 0x42)
  | .glz c f => some (c, f.word 0x48)
  | .chain c f => some (c, f.word 0x50)
  | .chainru c f => some (c, f.word 0x51)
  | .vperm c f => some (c, f.word 0x52)
  | .vshuf c f => some (c, f.word 0x53)
  | .vpack c f => some (c, f.word 0x54)
  | .vunpack c f => some (c, f.word 0x55)
  | .tld c f => some (c, f.word 0x56)
  | .tst c f => some (c, f.word 0x57)
  | .pld c f => some (c, f.word 0x58)
  | .pst c f => some (c, f.word 0x59)
  | .red c f => some (c, f.word 0x5C)
  | .rowop c f => some (c, f.word 0x5E)
  | .sift c f => some (c, f.word 0x60)
  | .nureq c f => some (c, f.word 0x61)
  | .xfer c f => some (c, f.word 0x62)
  | .hld c f => some (c, f.word 0x63)
  | .hst c f => some (c, f.word 0x64)
  | .pass c f => some (c, f.word 0x65)
  | .pairst c f => some (c, f.word 0x66)
  | .statld c f => some (c, f.word 0x67)
  | .statst c f => some (c, f.word 0x68)
  | .sconsume c f => some (c, f.word 0x69)
  | _ => none

/-- The opcodes of Table 07-3, as ranges; any other is reserved (R208). -/
def opcodes : List (Nat × Nat) :=
  [(0x00, 0x16), (0x18, 0x1E), (0x20, 0x25), (0x28, 0x2E), (0x30, 0x33), (0x40, 0x42), (0x48, 0x48), (0x50, 0x59),
   (0x5C, 0x5C), (0x5E, 0x5E), (0x60, 0x69)]
def opcodeListed (n : Nat) : Bool := opcodes.any fun r => decide (r.1 ≤ n ∧ n ≤ r.2)

/-- The word a core fetches has an opcode of Table 07-3 in bits [7:0] (R207). -/
def Core.opcodeOk (k : Core) : Bool := opcodeListed (k.fetched.toNat % 256)

/-- One instruction of a core: a core that runs no item, is held, or still waits issues nothing; the
fetch must lie in the partition (R204); a fetched word with a reserved opcode, whatever the command, raises
`ILLEGAL_OP` (R207). The fetched word says which instruction is carried out: a command whose word it is not does
nothing (R208, DEDUCED, log entry 8). A reserved field raises `ILLEGAL_OP` (R207). -/
def State.issue (s : State) (c : Nat) (w : Word) (fieldsOk : Bool) (body : State → Run → Eff) : State :=
  match s.issuing c with
  | none => s
  | some r =>
    let s₀ := s
    match s.unstall c r with
    | none => s
    | some s =>
      if !inPart r.express (s.core c).regs.pc 8 then s.raise c xLsPartition enIssue w
      else if !(s.core c).opcodeOk then s.raise c xIllegalOp enIssue (s.core c).fetched
      else if (s.core c).fetched != w then s₀
      else if !fieldsOk then s.raise c xIllegalOp enIssue w
      else
        match body s { r with stall := none } with
        | .ok s' => s'
        | .error e => s.take c e w

/-- The next instruction follows. -/
def State.adv (s : State) (c : Nat) : State := s.modCore c fun k => k.setPc (k.regs.pc + 8)

/-- Counts n invalid-operation events of the running item, saturating (R32, R206). -/
def State.evInvalid (s : State) (c n : Nat) : State := s.modRun c fun r => { r with evInvalid := satNat 32 (r.evInvalid + n) }
def State.evPermute (s : State) (c n : Nat) : State := s.modRun c fun r => { r with evPermute := satNat 32 (r.evPermute + n) }
def State.evNanRow (s : State) (c n : Nat) : State := s.modRun c fun r => { r with evNanRow := satNat 32 (r.evNanRow + n) }

/-- The core stops issuing until a condition holds (R220, R221). -/
def State.stallFor (s : State) (c : Nat) (t : Stall) : State := s.modRun c fun r => { r with stall := some t, stallAt := s.ticks, stallLimit := s.waitLimit }

/-- An engine reads a range of local store: a word with the poison syndrome is a machine check of it (R230, R428). -/
def engRead (k : Core) (a n engine : Nat) : Except Exn Unit :=
  match (wordsOf a n).find? fun w => k.lsPoison.contains w with
  | some w => .error ⟨xMachineCheck, engine, 8 * w⟩
  | none => .ok ()

/-- An engine reads a tree set: a word of it with the poison syndrome is a machine check of the engine (R230, R428). -/
def TreeSet.readable (t : TreeSet) (engine : Nat) : Except Exn Unit :=
  if t.poisoned then .error ⟨xMachineCheck, engine, 0⟩ else .ok ()

/-- An engine reads n entries of side memory from entry i on. -/
def sideRead (k : Core) (i n engine : Nat) : Except Exn Unit :=
  if k.sidePoison.any fun x => decide (i ≤ x ∧ x < i + n) then .error ⟨xMachineCheck, engine, 0⟩ else .ok ()

/-- Writes an entry of side memory; it loses the poison syndrome. -/
def Core.setSide (k : Core) (i : Nat) (w : Word) : Core :=
  { k with side := Tab.put 0 k.side i w, sidePoison := k.sidePoison.filter (· != i) }

end Sys2Proof.Machine
end

