-- ==== Sys2Proof/Machine/Scalar.lean ====
section
/-! DEFINITION. Scalar instructions (Table 07-3, opcodes 0x00 to 0x25): arithmetic, single floats, local-store words and core state words. -/

namespace Sys2Proof.Machine

/-- Writes Sd and goes on. -/
def State.putS (s : State) (c : Nat) (d : BitVec 5) (v : Word) : State :=
  (s.modCore c fun k => k.setS d.toNat v).adv c

/-- Sd = g Sa Sb. -/
def opRR (op : Nat) (g : Word → Word → Word) (c : CoreIx) (f : RFmt) (s : State) : State :=
  s.issue c.val (f.word op) (f.ok true true true false) fun s _ =>
    let k := s.core c.val
    .ok (s.putS c.val f.d (g (k.sreg f.a.toNat) (k.sreg f.b.toNat)))

/-- Sd = g Sa imm, the immediate as it stands in the word. -/
def opRI (op : Nat) (g : Word → BitVec 32 → Word) (c : CoreIx) (f : IFmt) (s : State) : State :=
  s.issue c.val (f.word op) (f.ok true true false) fun s _ =>
    .ok (s.putS c.val f.d (g ((s.core c.val).sreg f.a.toNat) f.imm))

/-- 1 or 0. -/
def boolWord (b : Bool) : Word := if b then 1 else 0

/-- FP32 in [31:0] of a register. -/
def wordFp (w : Word) : FV := fp32.dec (w.toNat % 2 ^ 32)
def fpWord (v : FV) : Word := BitVec.ofNat 64 (fp32.enc v)

/-- Sd = FP32 result of g, zero above; invalid operations are counted (R32). -/
def opSF (op : Nat) (useB : Bool) (g : FV → FV → Ar FV) (c : CoreIx) (f : RFmt) (s : State) : State :=
  s.issue c.val (f.word op) (f.ok true true useB false) fun s _ =>
    let k := s.core c.val
    let r := (g (wordFp (k.sreg f.a.toNat)) (wordFp (k.sreg f.b.toNat))).run 0
    .ok ((s.evInvalid c.val r.2).putS c.val f.d (fpWord r.1))

def nop (c : CoreIx) (f : RFmt) (s : State) : State :=
  s.issue c.val (f.word 0x00) (f.ok false false false false) fun s _ => .ok (s.adv c.val)

/-- Upper 64 bits of the unsigned product. -/
def mulHigh (a b : Word) : Word := BitVec.ofNat 64 (a.toNat * b.toNat / 2 ^ 64)
def shiftLeft (a b : Word) : Word := a <<< (b.toNat % 64)
def shiftRight (a b : Word) : Word := a >>> (b.toNat % 64)
def shiftArith (a b : Word) : Word := a.sshiftRight (b.toNat % 64)
def minSigned (a b : Word) : Word := if b.slt a then b else a
def maxSigned (a b : Word) : Word := if a.slt b then b else a

/-- LI: Sd = imm, sign-extended. -/
def li (c : CoreIx) (f : IFmt) (s : State) : State :=
  s.issue c.val (f.word 0x15) (f.ok true false false) fun s _ => .ok (s.putS c.val f.d (sext32 f.imm))

/-- LIH: Sd[63:32] = imm; Sd[31:0] unchanged. -/
def lih (c : CoreIx) (f : IFmt) (s : State) : State :=
  s.issue c.val (f.word 0x16) (f.ok true false false) fun s _ =>
    .ok (s.putS c.val f.d (f.imm ++ ((s.core c.val).sreg f.d.toNat).setWidth 32))

/-- SF2I: R36, the INT32 result sign-extended. -/
def sf2i (c : CoreIx) (f : RFmt) (s : State) : State :=
  s.issue c.val (f.word 0x1D) (f.ok true true false false) fun s _ =>
    let r := (narrowInt 32 (wordFp ((s.core c.val).sreg f.a.toNat))).run 0
    .ok ((s.evInvalid c.val r.2).putS c.val f.d (BitVec.ofInt 64 r.1))

/-- SI2F: INT32 to FP32, nearest even. -/
def si2f (c : CoreIx) (f : RFmt) (s : State) : State :=
  s.issue c.val (f.word 0x1E) (f.ok true true false false) fun s _ =>
    .ok (s.putS c.val f.d (fpWord (rne32 (FV.ofInt (bitsInt 32 (((s.core c.val).sreg f.a.toNat).toNat % 2 ^ 32))))))

/-- Address Sa + imm of a local-store access of n bytes: aligned, then inside the partition (R227, R230). -/
def lsAddr (k : Core) (r : Run) (a : BitVec 5) (imm : BitVec 32) (n align : Nat) : Except Exn Nat :=
  let x := (k.sreg a.toNat + sext32 imm).toNat
  if x % align ≠ 0 then .error ⟨xMisaligned, enIssue, 0⟩
  else if !inPart r.express x n then .error ⟨xLsPartition, enIssue, 0⟩
  else .ok x

/-- LD and LD32: the word at Sa + imm, zero-extended. -/
def load (op n : Nat) (c : CoreIx) (f : IFmt) (s : State) : State :=
  s.issue c.val (f.word op) (f.ok true true false) fun s r => do
    let k := s.core c.val
    let x ← lsAddr k r f.a f.imm n n
    engRead k x n enIssue
    pure (s.putS c.val f.d (BitVec.ofNat 64 (k.lsNat x n)))

/-- ST and ST32: the word at Sa + imm = Sb. -/
def store (op n : Nat) (c : CoreIx) (f : IFmt) (s : State) : State :=
  s.issue c.val (f.word op) (f.ok false true true) fun s r => do
    let k := s.core c.val
    let x ← lsAddr k r f.a f.imm n n
    pure ((s.modCore c.val fun k => k.lsPut x (natLe n (k.sreg f.b.toNat).toNat)).adv c.val)

/-- The core state words (Table 07-1). -/
def State.coreWord (s : State) (c n : Nat) (r : Run) : Option Word :=
  match n with
  | 0 => some (BitVec.ofNat 64 c)
  | 1 => some (BitVec.ofNat 64 s.devId)
  | 2 => some r.item.word
  | 3 => some (BitVec.ofNat 64 (r.cls.num + 256 * r.port))
  | 4 => some (r.args.getD 0 0)
  | 5 => some (r.args.getD 1 0)
  | 6 => some (r.args.getD 2 0)
  | 7 => some (r.args.getD 3 0)
  | 8 => some (BitVec.ofNat 64 s.ticks)
  | 9 => some ((s.core c).chainCount.setWidth 64)
  | 10 => some (BitVec.ofNat 64 r.evInvalid)
  | 11 => some (BitVec.ofNat 64 r.evPermute)
  | 12 => some (BitVec.ofNat 64 r.evNanRow)
  | 13 => some (BitVec.ofNat 64 r.evSat)
  | 14 => some (BitVec.ofNat 64 (partBase r.express))
  | 15 => some (BitVec.ofNat 64 (partEnd r.express - 1))
  | _ => none

/-- SYSR: core state word imm (R206). -/
def sysr (c : CoreIx) (f : IFmt) (s : State) : State :=
  s.issue c.val (f.word 0x24) (f.ok true false false) fun s r =>
    match s.coreWord c.val f.imm.toNat r with
    | some v => .ok (s.putS c.val f.d v)
    | none => precise xIllegalOp

/-- Number of set bits. -/
def popCount (w : BitVec 256) : Nat := ((List.range 256).filter fun i => w.getLsbD i).length

/-- PCNT: set bits of Pa; a names P0-P7. -/
def pcnt (c : CoreIx) (f : RFmt) (s : State) : State :=
  s.issue c.val (f.word 0x25) (f.ok true true false false && decide (f.a.toNat < 8)) fun s _ =>
    .ok (s.putS c.val f.d (BitVec.ofNat 64 (popCount ((s.core c.val).preg f.a.toNat))))

def execNop (c : CoreIx) (f : RFmt) (s : State) : Out := .next (nop c f s)
def execAdd (c : CoreIx) (f : RFmt) (s : State) : Out := .next (opRR 0x01 (· + ·) c f s)
def execSub (c : CoreIx) (f : RFmt) (s : State) : Out := .next (opRR 0x02 (· - ·) c f s)
def execMul (c : CoreIx) (f : RFmt) (s : State) : Out := .next (opRR 0x03 (· * ·) c f s)
def execMulhu (c : CoreIx) (f : RFmt) (s : State) : Out := .next (opRR 0x04 mulHigh c f s)
def execAnd (c : CoreIx) (f : RFmt) (s : State) : Out := .next (opRR 0x05 (· &&& ·) c f s)
def execOr (c : CoreIx) (f : RFmt) (s : State) : Out := .next (opRR 0x06 (· ||| ·) c f s)
def execXor (c : CoreIx) (f : RFmt) (s : State) : Out := .next (opRR 0x07 (· ^^^ ·) c f s)
def execShl (c : CoreIx) (f : RFmt) (s : State) : Out := .next (opRR 0x08 shiftLeft c f s)
def execShr (c : CoreIx) (f : RFmt) (s : State) : Out := .next (opRR 0x09 shiftRight c f s)
def execSar (c : CoreIx) (f : RFmt) (s : State) : Out := .next (opRR 0x0A shiftArith c f s)
def execSlt (c : CoreIx) (f : RFmt) (s : State) : Out := .next (opRR 0x0B (fun a b => boolWord (a.slt b)) c f s)
def execSltu (c : CoreIx) (f : RFmt) (s : State) : Out := .next (opRR 0x0C (fun a b => boolWord (a.ult b)) c f s)
def execSeq (c : CoreIx) (f : RFmt) (s : State) : Out := .next (opRR 0x0D (fun a b => boolWord (a == b)) c f s)
def execMin (c : CoreIx) (f : RFmt) (s : State) : Out := .next (opRR 0x0E minSigned c f s)
def execMax (c : CoreIx) (f : RFmt) (s : State) : Out := .next (opRR 0x0F maxSigned c f s)
def execAddi (c : CoreIx) (f : IFmt) (s : State) : Out := .next (opRI 0x10 (fun a i => a + sext32 i) c f s)
def execAndi (c : CoreIx) (f : IFmt) (s : State) : Out := .next (opRI 0x11 (fun a i => a &&& i.setWidth 64) c f s)
def execOri (c : CoreIx) (f : IFmt) (s : State) : Out := .next (opRI 0x12 (fun a i => a ||| i.setWidth 64) c f s)
def execShli (c : CoreIx) (f : IFmt) (s : State) : Out := .next (opRI 0x13 (fun a i => a <<< (i.toNat % 64)) c f s)
def execShri (c : CoreIx) (f : IFmt) (s : State) : Out := .next (opRI 0x14 (fun a i => a >>> (i.toNat % 64)) c f s)
def execLi (c : CoreIx) (f : IFmt) (s : State) : Out := .next (li c f s)
def execLih (c : CoreIx) (f : IFmt) (s : State) : Out := .next (lih c f s)
def execSfadd (c : CoreIx) (f : RFmt) (s : State) : Out := .next (opSF 0x18 true add32 c f s)
def execSfsub (c : CoreIx) (f : RFmt) (s : State) : Out := .next (opSF 0x19 true sub32 c f s)
def execSfmul (c : CoreIx) (f : RFmt) (s : State) : Out := .next (opSF 0x1A true mul32 c f s)
def execSfdiv (c : CoreIx) (f : RFmt) (s : State) : Out := .next (opSF 0x1B true div32 c f s)
def execSfsqrt (c : CoreIx) (f : RFmt) (s : State) : Out := .next (opSF 0x1C false (fun a _ => sqrt32 a) c f s)
def execSf2i (c : CoreIx) (f : RFmt) (s : State) : Out := .next (sf2i c f s)
def execSi2f (c : CoreIx) (f : RFmt) (s : State) : Out := .next (si2f c f s)
def execLd (c : CoreIx) (f : IFmt) (s : State) : Out := .next (load 0x20 8 c f s)
def execLd32 (c : CoreIx) (f : IFmt) (s : State) : Out := .next (load 0x21 4 c f s)
def execSt (c : CoreIx) (f : IFmt) (s : State) : Out := .next (store 0x22 8 c f s)
def execSt32 (c : CoreIx) (f : IFmt) (s : State) : Out := .next (store 0x23 4 c f s)
def execSysr (c : CoreIx) (f : IFmt) (s : State) : Out := .next (sysr c f s)
def execPcnt (c : CoreIx) (f : RFmt) (s : State) : Out := .next (pcnt c f s)

end Sys2Proof.Machine
end

