-- ==== Sys2Proof/Machine/Control.lean ====
section
/-! DEFINITION. Control flow, waiting, SIGNAL and END (Table 07-3, opcodes 0x28 to 0x33). -/

namespace Sys2Proof.Machine

/-- Takes a branch: the target is a multiple of 8 in the partition (R204, R230). -/
def State.jumpTo (s : State) (c : Nat) (r : Run) (target : Word) : Eff :=
  if target.toNat % 8 ≠ 0 then precise xMisaligned
  else if !inPart r.express target.toNat 8 then precise xLsPartition
  else .ok (s.modCore c fun k => k.setPc target.toNat)

/-- Branches when a condition on Sa holds. -/
def branchIf (op : Nat) (useA : Bool) (t : Word → Bool) (c : CoreIx) (f : BFmt) (s : State) : State :=
  s.issue c.val (f.word op) (f.ok useA) fun s r =>
    let k := s.core c.val
    if t (k.sreg f.a.toNat) then s.jumpTo c.val r (f.target k.regs.pc) else .ok (s.adv c.val)

def jr (c : CoreIx) (f : RFmt) (s : State) : State :=
  s.issue c.val (f.word 0x29) (f.ok false true false false) fun s r => s.jumpTo c.val r ((s.core c.val).sreg f.a.toNat)

/-- LOOP: Sa = Sa - 1; branch if Sa ≠ 0. -/
def loopInsn (c : CoreIx) (f : BFmt) (s : State) : State :=
  s.issue c.val (f.word 0x2E) (f.ok true) fun s r =>
    let k := s.core c.val
    let s' := s.modCore c.val fun k => k.setS f.a.toNat (k.sreg f.a.toNat - 1)
    if (s'.core c.val).sreg f.a.toNat != 0 then s'.jumpTo c.val r (f.target k.regs.pc) else .ok (s'.adv c.val)

/-- WAIT (R220): issue stops at this instruction until its condition holds. -/
def waitInsn (c : CoreIx) (f : XFmt) (s : State) : State :=
  let kind := f.imm.toNat
  s.issue c.val (f.word 0x30) (f.ok false true (kind == 2) false false && decide (kind < 3)) fun s r => do
    let k := s.core c.val
    let a := (k.sreg f.a.toNat).toNat
    let t : Stall ←
      if kind = 0 then
        (if a % 8 ≠ 0 then .error ⟨xMisaligned, enIssue, 0⟩
         else if !inPart r.express a 8 then .error ⟨xLsPartition, enIssue, 0⟩
         else do
          engRead k a 8 enIssue
          pure (Stall.word a))
      else if kind = 1 then pure (Stall.chain (a % 2 ^ 32))
      else pure (Stall.stream (a % 2 ^ 16) (k.sreg f.b.toNat).toNat)
    if s.stallMet c.val r t then pure (s.adv c.val) else pure (s.stallFor c.val t)

/-- EWAIT (R221): imm[5:0] names the engines. -/
def ewaitInsn (c : CoreIx) (f : XFmt) (s : State) : State :=
  s.issue c.val (f.word 0x31) (f.ok false false false false false && decide (f.imm.toNat < 64)) fun s r =>
    let t := Stall.engines f.imm.toNat
    if s.stallMet c.val r t then .ok (s.adv c.val) else .ok (s.stallFor c.val t)

/-- A wait that has a limit (R222): not the hold of HLD, nor that of END. -/
def Stall.limited : Stall → Bool
  | .word _ => true
  | .chain _ => true
  | .stream _ _ => true
  | .engines _ => true
  | .hostRead => false
  | .ending _ => false

/-- WAIT_TIMEOUT (R222): a WAIT or EWAIT of the running item has not been satisfied within the limit. -/
def waitTimeout (c : CoreIx) (s : State) : State :=
  match s.issuing c.val with
  | none => s
  | some r =>
    match r.stall with
    | none => s
    | some t =>
      if t.limited && !s.stallMet c.val r t && decide (r.stallAt + r.stallLimit ≤ s.ticks) then
        s.raise c.val xWaitTimeout enIssue (s.core c.val).fetched
      else s

/-- Records an effect operation of the running item (R283): whether it is suppressed, with the status
its first run received. -/
def State.effectOp (s : State) (c : Nat) (status : Nat) : Option Nat × State :=
  match (s.core c).run with
  | none => (none, s)
  | some r =>
    match r.suppress[r.effects.length]? with
    | some st => (some st, s.modRun c fun r => { r with effects := r.effects ++ [st] })
    | none => (none, s.modRun c fun r => { r with effects := r.effects ++ [status] })

/-- SIGNAL (R225): decrements sync object Sa[13:0] by imm[7:0]. -/
def signalInsn (c : CoreIx) (f : XFmt) (s : State) : State :=
  s.issue c.val (f.word 0x32) (f.ok false true false false false && decide (0 < f.imm.toNat ∧ f.imm.toNat < 256)) fun s r =>
    let o := ((s.core c.val).sreg f.a.toNat).toNat % 16384
    if s.syncPort o ≠ r.port then precise xSyncClaim
    else
      let e := s.effectOp c.val 0
      let s := e.2.adv c.val
      .ok (if e.1.isSome then s else (s.itemDecrement r.item o f.imm.toNat false).settle)

/-- END (R224): the item ends with program status imm[15:0] once its operations have completed. -/
def endInsn (c : CoreIx) (f : XFmt) (s : State) : State :=
  s.issue c.val (f.word 0x33) (f.ok false false false false false && decide (f.imm.toNat < 65536)) fun s _ =>
    .ok ((s.stallFor c.val (.ending f.imm.toNat)).tryEnd c.val)

def execJmp (c : CoreIx) (f : BFmt) (s : State) : Out := .next (branchIf 0x28 false (fun _ => true) c f s)
def execJr (c : CoreIx) (f : RFmt) (s : State) : Out := .next (jr c f s)
def execBeqz (c : CoreIx) (f : BFmt) (s : State) : Out := .next (branchIf 0x2A true (fun a => a == 0) c f s)
def execBnez (c : CoreIx) (f : BFmt) (s : State) : Out := .next (branchIf 0x2B true (fun a => a != 0) c f s)
def execBltz (c : CoreIx) (f : BFmt) (s : State) : Out := .next (branchIf 0x2C true (fun a => a.slt 0) c f s)
def execBgez (c : CoreIx) (f : BFmt) (s : State) : Out := .next (branchIf 0x2D true (fun a => !a.slt 0) c f s)
def execLoop (c : CoreIx) (f : BFmt) (s : State) : Out := .next (loopInsn c f s)
def execWait (c : CoreIx) (f : XFmt) (s : State) : Out := .next (waitInsn c f s)
def execEwait (c : CoreIx) (f : XFmt) (s : State) : Out := .next (ewaitInsn c f s)
def execWaitTimeout (c : CoreIx) (s : State) : Out := .next (waitTimeout c s)
def execSignal (c : CoreIx) (f : XFmt) (s : State) : Out := .next (signalInsn c f s)
def execEndItem (c : CoreIx) (f : XFmt) (s : State) : Out := .next (endInsn c f s)

end Sys2Proof.Machine
end

