-- ==== Sys2Proof/Machine/Elem.lean ====
section
/-! DEFINITION. Element formats by code (Table 06-2), packed rows of elements (R30, R147, R168), and narrowing. -/

namespace Sys2Proof.Machine

/-- An element format: floating, or two's complement of a width. -/
inductive Elem where
  | fl (f : Fmt)
  | int (w : Nat)
deriving DecidableEq, Repr

/-- Format codes of Table 06-2; codes 0 to 6 are those of Table 05-4 too. -/
def elemOf (n : Nat) : Option Elem :=
  match n with
  | 0 => some (.fl fp32)
  | 1 => some (.fl bf16)
  | 2 => some (.fl fp16)
  | 3 => some (.fl e4m3)
  | 4 => some (.fl e5m2)
  | 5 => some (.int 8)
  | 6 => some (.int 4)
  | 7 => some (.int 32)
  | _ => none

def Elem.bits : Elem → Nat
  | .fl f => 1 + f.eb + f.fb
  | .int w => w

def Elem.isInt : Elem → Bool
  | .fl _ => false
  | .int _ => true

/-- Bytes of `n` packed elements. -/
def Elem.rowBytes (e : Elem) (n : Nat) : Nat := ceilDiv (n * e.bits) 8

/-- The `n` first elements of a packed row, as raw bits. -/
def Elem.unpack (e : Elem) (n : Nat) (b : Bytes) : List Nat :=
  if e.bits = 4 then (List.range n).map fun i => fld ((b.getD (i / 2) 0).toNat) (4 * (i % 2)) 4
  else (List.range n).map fun i => fieldAt b (i * (e.bits / 8)) (e.bits / 8)

/-- Nibbles in pairs, low first; the last high nibble of an odd count is zero (R30, R168). -/
def packNibbles : List Nat → Bytes
  | [] => []
  | [a] => [BitVec.ofNat 8 (a % 16)]
  | a :: b :: r => BitVec.ofNat 8 (a % 16 + 16 * (b % 16)) :: packNibbles r

/-- Packs raw elements in ascending address order. -/
def Elem.pack (e : Elem) (l : List Nat) : Bytes :=
  if e.bits = 4 then packNibbles l else l.flatMap (natLe (e.bits / 8))

/-- The exact value of a raw element. -/
def Elem.fv (e : Elem) (raw : Nat) : FV :=
  match e with
  | .fl f => f.dec raw
  | .int w => .ofInt (bitsInt w raw)

/-- An element widened exactly to FP32 or INT32 bits (R34). -/
def Elem.widen (e : Elem) (raw : Nat) : Nat :=
  match e with
  | .fl f => fp32.enc (f.dec raw)
  | .int w => intBits 32 (bitsInt w raw)

/-- Narrows an FP32 value to raw bits (R35, R36, R45, R167). FP32 is unchanged. -/
def Elem.narrow (e : Elem) (r : Rnd) (ieee : Bool) (v : FV) : Ar Nat :=
  match e with
  | .fl f => if f = fp32 then pure (fp32.enc v) else do
      let x ← narrowTo f r ieee v
      pure (f.enc x)
  | .int w => do
      let i ← narrowInt w v
      pure (intBits w i)

/-- Narrows 32 bits read as FP32 for a floating format and as INT32 for an integer one (R180). -/
def Elem.narrow32 (e : Elem) (r : Rnd) (ieee : Bool) (a : Nat) : Ar Nat :=
  match e with
  | .fl f => if f = fp32 then pure a else do
      let x ← narrowTo f r ieee (fp32.dec a)
      pure (f.enc x)
  | .int w => pure (intBits w (clampInt w (bitsInt 32 a)))

/-- Puts a row of raw elements into the block format of results that have a row stride: rows and their
offsets, `stride` in Crumbs. -/
def rowsAt (base stride : Nat) (rows : List Bytes) : List (Nat × Bytes) :=
  rows.zipIdx.map fun (b, r) => (base + 32 * r * stride, b)

/-- Extent of `n` rows of `len` bytes at a stride in Crumbs. -/
def rowsExtent (n stride len : Nat) : Nat := (n - 1) * 32 * stride + len

/-- A stride smaller than the row it separates, where there are two rows or more. -/
def strideBad (n stride len : Nat) : Bool := decide (2 ≤ n ∧ 32 * stride < len)

end Sys2Proof.Machine
end

