-- ==== Sys2Proof/Machine/Matrix.lean ====
section
/-! DEFINITION. The matrix engine: MACC, TSLOAD and TSSTORE over tree sets (chapter 02, R50-R62; chapter 05; R211-R214). -/

namespace Sys2Proof.Machine

/-- Operand formats of a pair code (R211): held and streamed. -/
def pairOf (n : Nat) : Option (Elem × Elem) :=
  match n with
  | 0 => some (.fl bf16, .fl bf16)
  | 1 => some (.fl fp16, .fl fp16)
  | 2 => some (.fl e4m3, .fl e4m3)
  | 3 => some (.fl e4m3, .fl e5m2)
  | 4 => some (.fl e5m2, .fl e4m3)
  | 5 => some (.fl e5m2, .fl e5m2)
  | 6 => some (.int 8, .int 8)
  | 7 => some (.int 4, .int 4)
  | _ => none

/-! ### Tree sets -/

/-- First tile and first tile beyond the partition of an item (Table 07-8). -/
def tileRange (express : Bool) : Nat × Nat := if express then (48, 64) else (0, 48)

/-- Accumulator tiles a tree set takes (R50). -/
def TreeTag.tiles (g : TreeTag) : Nat := if g.arith = .fp then max 1 (min g.q g.s - 6) else 1
/-- Wide-buffer slots a tree set takes (R50). -/
def TreeTag.slots (g : TreeTag) : Nat :=
  match g.arith with
  | .fp => g.q - g.s
  | .int => 0
  | .wide => 1

def TreeSet.cfg (t : TreeSet) : SumCfg := ⟨t.tag.s, t.tag.sr, t.tag.seed, t.tag.tensor⟩

/-- Plain-product coordinates of tile element (a, b) (R149). -/
def TreeTag.coord (g : TreeTag) (a b : Nat) : Nat × Nat :=
  if g.transpose then (g.u0 + b, g.v0 + a) else (g.u0 + a, g.v0 + b)

/-- Row-major positions of a grid. -/
def grid (rows cols : Nat) : List (Nat × Nat) := (List.range (rows * cols)).map fun e => (e / cols, e % cols)

def TreeSet.coords (t : TreeSet) : List (Nat × Nat) := (grid t.rows t.cols).map fun p => t.tag.coord p.1 p.2

/-- Takes the first rows and columns of an array that is `w` wide. -/
def cropArr {α : Type} [Inhabited α] (w rows cols : Nat) (l : List α) : List α :=
  (grid rows cols).map fun p => l.getD (w * p.1 + p.2) default

/-- The set with only the elements that an accumulate of a smaller shape leaves defined (R148). -/
def TreeSet.shrink (t : TreeSet) (rows cols : Nat) : TreeSet :=
  let r := min t.rows rows
  let c := min t.cols cols
  if r = t.rows ∧ c = t.cols then t
  else
    { t with rows := r, cols := c, ints := cropArr t.cols r c t.ints, wides := cropArr t.cols r c t.wides,
             stack := { t.stack with pend := t.stack.pend.map fun p => (p.1, p.2.map (cropArr t.cols r c)) } }

/-- Whether two runs of numbers share a member; an empty run shares none. -/
def runsMeet (a n b m : Nat) : Bool := decide (0 < n ∧ 0 < m ∧ a < b + m ∧ b < a + n)

/-- Two tree sets share a tile or a slot (R53). -/
def TreeSet.shares (t : TreeSet) (tile : Nat) (g : TreeTag) : Bool :=
  runsMeet t.tile t.tag.tiles tile g.tiles || runsMeet t.tag.wslot t.tag.slots g.wslot g.slots

def Core.tree (k : Core) (n : Nat) : Option TreeSet := k.trees.find? fun t => t.tile == n

/-- A begin: the set takes its tiles and slots, and every set that shares one with it is lost (R53). -/
def Core.beginTree (k : Core) (t : TreeSet) : Core :=
  { k with trees := t :: k.trees.filter fun x => !x.shares t.tile t.tag }

def Core.putTree (k : Core) (t : TreeSet) : Core := { k with trees := updWhere (fun x => x.tile == t.tile) (fun _ => t) k.trees }

/-- The tree control block (Table 07-4): none when R212 refuses it. -/
def parseTcb (b : Bytes) (shift : Nat) : Option TreeTag :=
  match spillOf (bfld b 21 1 0 4) with
  | none => none
  | some s =>
    let q := bfld b 20 1 0 6
    let ar := bfld b 22 1 0 2
    let ok := bfld b 16 4 22 10 = 0 ∧ bfld b 20 1 6 2 = 0 ∧ bfld b 21 1 5 3 = 0 ∧ bfld b 22 1 2 6 = 0
      ∧ bfld b 23 1 4 4 = 0 ∧ zeroRange b 24 8 ∧ 6 ≤ q ∧ q ≤ s + 16 ∧ ar ≠ 3
    if ok then
      some { arith := if ar = 0 then .fp else if ar = 1 then .int else .wide, fpair := none, transpose := false,
             u0 := fieldAt b 12 4, v0 := bfld b 16 4 0 22, s := s, sr := bitAt (fieldAt b 21 1) 4, seed := fieldAt b 0 8,
             tensor := fieldAt b 8 4, q := q, wslot := bfld b 23 1 0 4, shift := if ar = 0 then 0 else shift }
    else none

/-- The tiles and slots of a begin lie in the item's partition (R51, R61, R212). -/
def TreeTag.fits (g : TreeTag) (express : Bool) (tile : Nat) : Bool :=
  decide ((tileRange express).1 ≤ tile ∧ tile + g.tiles ≤ (tileRange express).2) &&
    (if express then decide (g.q ≤ g.s) && g.arith != .wide else decide (g.wslot + g.slots ≤ 16 ∨ g.slots = 0))

/-- An empty set begun at an index, with nothing absorbed below it (R52). -/
def TreeSet.fresh (tile : Nat) (g : TreeTag) (base rows cols : Nat) : TreeSet :=
  { tile := tile, tag := g, rows := rows, cols := cols, winBase := base / 2 ^ g.q * 2 ^ g.q,
    stack := if g.arith = .fp then Stack.atBase base else ⟨base, []⟩,
    ints := if g.arith = .fp then [] else List.replicate (rows * cols) 0,
    wides := if g.arith = .wide then List.replicate (rows * cols) 0 else [],
    sat := false, group := true, closed := false, passThru := false }

/-! ### Leaf blocks -/

/-- The first `n` vectors of `kc` elements of a panel (R147), each vector at its stride. -/
def panel (k : Core) (e : Elem) (addr stride n kc : Nat) : List (List Nat) :=
  (List.range n).map fun i => e.unpack kc (k.lsBytes (addr + 32 * i * stride) (e.rowBytes kc))

/-- A machine check when a panel row holds poison (R428). -/
def panelRead (k : Core) (e : Elem) (addr stride n kc : Nat) : Except Exn Unit :=
  (List.range n).forM fun i => engRead k (addr + 32 * i * stride) (e.rowBytes kc) enMe

/-- The exact products of index i, in FP32 by R40, as a level-0 node. -/
def termFp (h v : List (List FV)) (i : Nat) : Ar NodeArr :=
  h.foldlM (fun acc row => v.foldlM (fun acc col => do
    let p ← mul32 (row.getD i .nan) (col.getD i .nan)
    pure (acc ++ [toBits64 p])) acc) []

/-- The leaf block of a floating-point accumulate: its terms in ascending index, for the set's elements. -/
def blockFp (t : TreeSet) (h v : List (List FV)) (kc : Nat) : Ar TreeSet := do
  let ts ← (List.range kc).mapM (termFp h v)
  let st ← Stack.addTerms t.cfg t.coords t.stack (ts.map fun x => some (cropArr v.length t.rows t.cols x))
  pure { t with stack := st }

/-- A product reduced by the pre-shift: p / 2^s', nearest even (R57). -/
def shiftProd (s : Nat) (p : Int) : Int := (FV.fin (decide (p < 0)) p.natAbs (-(s : Int))).toInt

/-- The sum of the products of the indices [lo, hi) of a block, for every element of the set. -/
def sumInts (t : TreeSet) (h v : List (List Int)) (lo hi : Nat) : List Int :=
  (grid t.rows t.cols).map fun p =>
    ((rangeFrom lo (hi - lo)).map fun i => shiftProd t.tag.shift ((h.getD p.1 []).getD i 0 * (v.getD p.2 []).getD i 0)).sum

/-- Clamps prefixes, and says whether one was out of range. -/
def clampAll (w : Nat) (l : List Int) : List Int × Bool := (l.map (clampInt w), l.any fun x => clampInt w x != x)

/-- The check of R56 at the present index, and the move to the wide slot of R61. -/
def TreeSet.checkPrefix (t : TreeSet) : TreeSet :=
  let c := clampAll 32 t.ints
  if t.tag.arith = .wide ∧ t.stack.t % 2 ^ t.tag.s = 0 then
    let w := clampAll 64 (t.wides.zipWith (· + ·) c.1)
    { t with ints := c.1.map fun _ => 0, wides := w.1, sat := t.sat || c.2 || w.2 }
  else { t with ints := c.1, sat := t.sat || c.2 }

/-- Adds the indices [lo, hi) of a block and checks the prefix at a multiple of 64 or at the end of the sum (R56). -/
def TreeSet.addInts (t : TreeSet) (h v : List (List Int)) (lo hi : Nat) (ends : Bool) : TreeSet :=
  let t := { t with ints := t.ints.zipWith (· + ·) (sumInts t h v lo hi), stack := ⟨t.stack.t + (hi - lo), []⟩ }
  if t.stack.t % 64 = 0 ∨ ends then t.checkPrefix else t

/-- The leaf block of an integer accumulate, cut at canonical multiples of 64. -/
def blockInt (t : TreeSet) (h v : List (List Int)) (kc : Nat) : TreeSet :=
  let first := min kc (64 - t.stack.t % 64)
  let t := t.addInts h v 0 first (decide (kc < 64))
  if first < kc then t.addInts h v first kc (decide (kc < 64)) else t

/-- Adds what an accumulate captured, reading its operands where it named them (R58). -/
def capBlock (k : Core) (e : Elem × Elem) (t : TreeSet) (m : MaccCap) : TreeSet :=
  let t := t.shrink m.rows m.cols
  let h := (panel k e.1 m.held m.heldStride m.rows m.kCount).map fun r => r.map (bitsInt e.1.bits)
  let v := (panel k e.2 m.streamed m.streamedStride m.cols m.kCount).map fun r => r.map (bitsInt e.2.bits)
  blockInt t h v m.kCount

/-- The passes of R57: each clears the tile, raises the pre-shift and replays the log, until one does
not saturate or the pre-shift is 7. -/
def repeatLoop (k : Core) (e : Elem × Elem) (caps : List MaccCap) : Nat → TreeSet → TreeSet
  | 0, t => t
  | n + 1, t =>
    if t.tag.shift < 7 then
      let base := (caps.head?.map (·.base)).getD 0
      let z := { TreeSet.fresh t.tile { t.tag with shift := t.tag.shift + 1 } base t.rows t.cols with
                 winBase := t.winBase, closed := t.closed }
      let t' := caps.foldl (capBlock k e) z
      if t'.sat then repeatLoop k e caps n t' else t'
    else t

/-- The repeat log of a partition (R214). -/
def Core.repLog (k : Core) (express : Bool) : Option RepLog := if express then k.logExpress else k.logLower
def Core.setRepLog (k : Core) (express : Bool) (l : Option RepLog) : Core :=
  if express then { k with logExpress := l } else { k with logLower := l }

/-- The log after an accumulate: a begin takes it over, an add of the set it serves joins it. -/
def RepLog.note (l : Option RepLog) (m : MaccCap) (begins : Bool) : Option RepLog :=
  if begins then some ⟨m.tile, [m], false⟩
  else l.map fun g =>
    if g.tile = m.tile ∧ !g.spent then (if g.entries.length < 64 then { g with entries := g.entries ++ [m] } else { g with spent := true })
    else g

/-- `INT_SAT` (R59, R232, R234): in hardware mode the item goes on and carries the flag; in
host-assisted mode it is held at the instruction. -/
def State.intSat (s : State) (c : Nat) (w : Word) : State :=
  if s.assisted 1 then s.raise c xIntSat enMe w
  else (s.modRun c fun r => { r with evSat := satNat 32 (r.evSat + 1), sat := true }).adv c

/-! ### The instructions -/

/-- The checks of a panel: Crumb-aligned, and a stride of at least one row or column of 64 terms (R147). -/
def panelOk (e : Elem) (addr stride : Nat) : Bool := addr % 32 == 0 && decide (e.rowBytes 64 ≤ 32 * stride)

/-- Tile n lies in the partition of the item (R51, R227). -/
def tileOk (express : Bool) (n : Nat) : Bool := decide ((tileRange express).1 ≤ n ∧ n < (tileRange express).2)

/-- The checks of a begin, the precise ones before the deferred ones of its control block, the tiles and slots that
its q, arith and wslot name among them (R230), and the set it begins (R51, R52, R212). -/
def macBegin (k : Core) (r : Run) (m : MaccCap) (tc : Nat) : Except Exn TreeSet := do
  if tc % 32 ≠ 0 then throw ⟨xMisaligned, enIssue, 0⟩
  if !inPart r.express tc 32 then throw ⟨xLsPartition, enIssue, 0⟩
  if !tileOk r.express m.tile then throw ⟨xTilePartition, enIssue, 0⟩
  if m.base % 64 ≠ 0 then throw ⟨xAccOrder, enIssue, 0⟩
  engRead k tc 32 enMe
  match parseTcb (k.lsBytes tc 32) r.preShift with
  | none => throw ⟨xOperandFormat, enMe, 0⟩
  | some g =>
    let g := { g with fpair := some m.fpair, transpose := m.transpose }
    let t := TreeSet.fresh m.tile g m.base m.rows m.cols
    if t.winBase + 2 ^ g.q < m.base + m.kCount then throw ⟨xTreeDepth, enIssue, 0⟩
    if !g.fits r.express m.tile then throw ⟨xTilePartition, enMe, 0⟩
    pure t

/-- Precise checks of an add (R51-R53). -/
def macAdd (k : Core) (r : Run) (m : MaccCap) : Except Exn TreeSet := do
  if !tileOk r.express m.tile then throw ⟨xTilePartition, enIssue, 0⟩
  match k.tree m.tile with
  | none => throw ⟨xTreeLost, enIssue, 0⟩
  | some t =>
    t.readable enMe
    if t.closed || t.stack.t != m.base then throw ⟨xAccOrder, enIssue, 0⟩
    if t.winBase + 2 ^ t.tag.q < t.stack.t + m.kCount then throw ⟨xTreeDepth, enIssue, 0⟩
    -- a set begun by TSLOAD takes the formats of its first add (R149)
    pure (if t.tag.fpair.isNone then { t with tag := { t.tag with fpair := some m.fpair } } else t)

/-- What an integer set becomes by an accumulate, and whether the core takes `INT_SAT` (R57, R60, R214): after a drain
at each saturation, and before it at the first that no repeat mends. -/
def macInt (k : Core) (r : Run) (e : Elem × Elem) (t : TreeSet) (m : MaccCap) (log : Option RepLog) (assisted : Bool) :
    Except Exn (TreeSet × Bool) := do
  let t' := capBlock k e t m
  if t.drained && !r.inGroup then pure (t', (capBlock k e { t with sat := false } m).sat)
  else if t.sat || !t'.sat || r.inGroup then pure (t', false)
  else
    match log with
    | some g =>
      if g.tile = m.tile ∧ !g.spent ∧ t.group ∧ !assisted then
        g.entries.forM fun x => do
          panelRead k e.1 x.held x.heldStride x.rows x.kCount
          panelRead k e.2 x.streamed x.streamedStride x.cols x.kCount
        let t'' := repeatLoop k e g.entries 7 t'
        pure (t'', t''.sat)
      else pure (t', true)
    | none => pure (t', true)

/-- MACC (R211): one leaf block into the tree set at An. -/
def macc (c : CoreIx) (f : MFmt) (s : State) : State :=
  s.issue c.val (f.word 0x40) (f.rsvLo == 0 && f.rsvHi == 0 && (f.begins || f.tc == 0)) fun s r => do
    let k := s.core c.val
    let h := (k.sreg f.h.toNat).toNat
    let v := (k.sreg f.s.toNat).toNat
    let m : MaccCap :=
      { tile := f.tile.toNat, held := fld h 0 22, heldStride := fld h 22 16, streamed := fld v 0 22,
        streamedStride := fld v 22 16, base := fld (k.sreg f.k.toNat).toNat 0 40, rows := f.rowsM1.toNat + 1,
        cols := f.colsM1.toNat + 1, kCount := f.kM1.toNat + 1, fpair := f.fpair.toNat, transpose := f.transpose }
    let width (e : Option Elem) := (e.map fun e => e.rowBytes m.kCount).getD 1
    let e? := pairOf m.fpair
    if !inPart r.express m.held (rowsExtent m.rows m.heldStride (width (e?.map (·.1)))) ||
        !inPart r.express m.streamed (rowsExtent m.cols m.streamedStride (width (e?.map (·.2)))) then
      throw ⟨xLsPartition, enIssue, 0⟩
    let t ← if f.begins then macBegin k r m (k.sreg f.tc.toNat).toNat else macAdd k r m
    match e? with
    | none => deferred xOperandFormat enMe
    | some e =>
      if (t.tag.arith != .fp) != e.1.isInt || t.tag.fpair != some m.fpair || !panelOk e.1 m.held m.heldStride ||
          !panelOk e.2 m.streamed m.streamedStride then throw ⟨xOperandFormat, enMe, 0⟩
      let place (k : Core) (t : TreeSet) := if f.begins then k.beginTree t else k.putTree t
      let t := { t with closed := decide (m.kCount < 64) }
      if t.passThru then
        pure ((s.setCore c.val (place k { t with stack := ⟨t.stack.t + m.kCount, t.stack.pend⟩ })).adv c.val)
      else do
        panelRead k e.1 m.held m.heldStride m.rows m.kCount
        panelRead k e.2 m.streamed m.streamedStride m.cols m.kCount
        if t.tag.arith = .fp then
          let h := (panel k e.1 m.held m.heldStride m.rows m.kCount).map fun x => x.map e.1.fv
          let v := (panel k e.2 m.streamed m.streamedStride m.cols m.kCount).map fun x => x.map e.2.fv
          let q := (blockFp (t.shrink m.rows m.cols) h v m.kCount).run 0
          pure (((s.setCore c.val (place k q.1)).evInvalid c.val q.2).adv c.val)
        else do
          let log := RepLog.note (k.repLog r.express) m f.begins
          let q ← macInt k r e t m log (s.assisted 1)
          let s := s.setCore c.val ((place k q.1).setRepLog r.express log)
          pure (if q.2 then s.intSat c.val (f.word 0x40) else s.adv c.val)

/-- Position in a record of tile element (a, b): u-major order of the plain product (R213). -/
def recIndex (transpose : Bool) (a b : Nat) : Nat := if transpose then 32 * b + a else 64 * a + b

/-- A record's array in tile order. -/
def fromRec {α : Type} [Inhabited α] (transpose : Bool) (l : List α) : List α :=
  (grid 32 64).map fun p => l.getD (recIndex transpose p.1 p.2) default

/-- The tree set that a record begins (R55, R61, R213): none for a mismatch. Pending nodes of levels q and
above, for which Table 02-6 names no slot, are kept like the others (DESIGN CHOICE, log entry 59). -/
def loadSet (n : Nat) (g : TreeTag) (x : Rec) : Option TreeSet :=
  let shape := (x.hdr.uCount, x.hdr.vCount)
  let tr := shape == (63, 31)
  let ar := match g.arith with
    | .fp => 0
    | .int => 1
    | .wide => 2
  let want : RecHdr := { x.hdr with spill := g.s, arith := ar, sr := g.sr, shift := g.shift, seed := g.seed,
                                    tensor := g.tensor, uBase := g.u0, vBase := g.v0 }
  if (shape == (31, 63) || tr) && x.hdr.matches want then
    let t := TreeSet.fresh n { g with transpose := tr } x.hdr.t 32 64
    let t := { t with group := false, stack := ⟨x.hdr.t, x.stack.pend.map fun p => (p.1, p.2.map (fromRec tr))⟩ }
    match g.arith with
    | .fp => some t
    | .int =>
      let q := clampAll 32 (fromRec tr x.ints)
      some { t with ints := q.1, sat := q.2 || x.hdr.sat }
    | .wide =>
      let q := clampAll 64 (fromRec tr x.ints)
      some { t with wides := q.1, sat := q.2 || x.hdr.sat }
  else none

/-- TSLOAD (R213): begins the tree set at An from the record at Sa under the control block at Sb. -/
def tsload (c : CoreIx) (f : XFmt) (s : State) : State :=
  s.issue c.val (f.word 0x41) (f.ok false true true false false && decide (f.imm.toNat < 64)) fun s r => do
    let k := s.core c.val
    let a := (k.sreg f.a.toNat).toNat
    let b := (k.sreg f.b.toNat).toNat
    if a % 32 ≠ 0 ∨ b % 32 ≠ 0 then throw ⟨xMisaligned, enIssue, 0⟩
    if !inPart r.express a 32 || !inPart r.express b 32 then throw ⟨xLsPartition, enIssue, 0⟩
    if !tileOk r.express f.imm.toNat then throw ⟨xTilePartition, enIssue, 0⟩
    engRead k b 32 enMe
    match parseTcb (k.lsBytes b 32) r.preShift with
    | none => deferred xOperandFormat enMe
    | some g =>
      if !g.fits r.express f.imm.toNat then throw ⟨xTilePartition, enMe, 0⟩
      engRead k a 32 enMe
      match RecHdr.parse false (k.lsBytes a 32) with
      | none => deferred xChainMismatch enMe
      | some h =>
        if !inPart r.express a h.length then throw ⟨xLsPartition, enMe, 0⟩
        engRead k a h.length enMe
        match (Rec.parse (k.lsBytes a h.length)).bind (loadSet f.imm.toNat g) with
        | none => deferred xChainMismatch enMe
        | some t =>
          let int := g.arith != .fp
          let pass := int && h.sat && r.inGroup
          let k := k.beginTree { t with passThru := pass }
          let k := if int then k.setRepLog r.express (some ⟨f.imm.toNat, [], true⟩) else k
          if int && h.sat && r.chainLast then
            pure ((if s.assisted 1 then s.setCore c.val k else s).satRead c.val enMe (f.word 0x41))
          else
            let s := s.setCore c.val k
            pure (if t.sat && !h.sat && !r.inGroup then s.intSat c.val (f.word 0x41) else s.adv c.val)

/-- The header of the record of a set (R213). -/
def TreeSet.header (t : TreeSet) : RecHdr :=
  { t := t.stack.t, spill := t.tag.s, arith := match t.tag.arith with
      | .fp => 0
      | .int => 1
      | .wide => 2
    sr := t.tag.sr, sat := t.sat, shift := t.tag.shift, seed := t.tag.seed, tensor := t.tag.tensor,
    uBase := t.tag.u0, vBase := t.tag.v0, uCount := if t.tag.transpose then 63 else 31,
    vCount := if t.tag.transpose then 31 else 63, level := 0 }

/-- A record's array from the defined elements; the others keep no defined value (R148) and are free. -/
def toRec {α : Type} [Inhabited α] (t : TreeSet) (l : List α) (open' : List α) : List α :=
  (grid (if t.tag.transpose then 64 else 32) (if t.tag.transpose then 32 else 64)).map fun p =>
    let q := if t.tag.transpose then (p.2, p.1) else p
    if q.1 < t.rows ∧ q.2 < t.cols then l.getD (t.cols * q.1 + q.2) default
    else open'.getD (recIndex false q.1 q.2 % (open'.length + 1)) default

/-- The record bytes of a set (R54, R213), with free values for the elements that have none. -/
def State.treeRecord (s : State) (t : TreeSet) : Bytes × State :=
  let n := if t.rows = 32 ∧ t.cols = 64 then 0 else 2048
  if t.tag.arith = .fp then
    let q := t.stack.pend.foldl (fun (acc : List (Nat × Option NodeArr) × State) p =>
      match p.2 with
      | none => (acc.1 ++ [(p.1, none)], acc.2)
      | some a =>
        let w := acc.2.frees n
        (acc.1 ++ [(p.1, some (toRec t a w.1))], w.2)) ([], s)
    (recordBytes t.header ⟨t.stack.t, q.1⟩, q.2)
  else
    let w := s.frees n
    let vals := t.ints.zipWith (· + ·) (if t.tag.arith = .wide then t.wides else t.ints.map fun _ => 0)
    (intRecordBytes t.header (toRec t vals (w.1.map fun x => x.toInt)), w.2)

/-- TSSTORE (R213): writes the record of the tree set at An to Sa. -/
def tsstore (c : CoreIx) (f : XFmt) (s : State) : State :=
  s.issue c.val (f.word 0x42) (f.ok false true false false false && decide (f.imm.toNat < 64)) fun s r => do
    let k := s.core c.val
    let a := (k.sreg f.a.toNat).toNat
    if a % 32 ≠ 0 then throw ⟨xMisaligned, enIssue, 0⟩
    if !tileOk r.express f.imm.toNat then throw ⟨xTilePartition, enIssue, 0⟩
    match k.tree f.imm.toNat with
    | none => throw ⟨xTreeLost, enIssue, 0⟩
    | some t =>
      if !inPart r.express a t.header.length then throw ⟨xLsPartition, enIssue, 0⟩
      t.readable enMe
      let q := s.treeRecord t
      pure ((q.2.modCore c.val fun k => k.engPut a q.1).adv c.val)

/-! ### What a drain or a read of a tile sees (R49, R62, R505) -/

/-- The root of each defined element of a floating-point set, as FP32. -/
def TreeSet.rootsFp (t : TreeSet) : Ar (List FV) := do
  let r ← t.stack.finish t.cfg t.coords
  pure (handOff (t.rows * t.cols) r)

/-- The root of each defined element of an integer set. A prefix between two checks of R56, as of a set
loaded at an index that is no multiple of 64, is delivered clamped and changes no flag; the sum of the
wide slot and the tile is delivered exact, beyond the INT64 range as well (DESIGN CHOICE, log entry 59). -/
def TreeSet.rootsInt (t : TreeSet) : List Int :=
  let i := t.ints.map (clampInt 32)
  if t.tag.arith = .wide then i.zipWith (· + ·) t.wides else i

/-- Each defined element as FP32: an integer root times 2^shift, rounded once (R165, R173). -/
def TreeSet.values (t : TreeSet) : Ar (List FV) :=
  if t.tag.arith = .fp then t.rootsFp
  else pure (t.rootsInt.map fun i => rne32 (.fin (decide (i < 0)) i.natAbs t.tag.shift))

def execMacc (c : CoreIx) (f : MFmt) (s : State) : Out := .next (macc c f s)
def execTsload (c : CoreIx) (f : XFmt) (s : State) : Out := .next (tsload c f s)
def execTsstore (c : CoreIx) (f : XFmt) (s : State) : Out := .next (tsstore c f s)

end Sys2Proof.Machine
end

