-- ==== Sys2Proof/Machine/Transcend.lean ====
section
/-! DEFINITION. The smooth functions of R166 and R178 (exp, ln, tanh, sigmoid, GELU, SiLU), by fixed-point series of 700 fraction bits and one rounding to FP32 (DEDUCED, log entry 5). -/

namespace Sys2Proof.Machine

/-- Fraction bits of the fixed-point numbers of this file. -/
def fxBits : Nat := 700

/-- One, in fixed point. -/
def fxOne : Nat := 1 <<< fxBits

def fxMul (a b : Nat) : Nat := (a * b) >>> fxBits
def fxDiv (a b : Nat) : Nat := (a <<< fxBits) / b

/-- Σ z^(2n+1)/(2n+1) for 0 ≤ z < 1: the series of artanh. -/
def fxArtanhSum (z2 : Nat) : Nat → Nat → Nat → Nat → Nat
  | 0, _, _, acc => acc
  | f + 1, pow, k, acc => fxArtanhSum z2 f (fxMul pow z2) (k + 2) (acc + pow / k)

def fxArtanh (z : Nat) : Nat := fxArtanhSum (fxMul z z) 400 z 1 0

/-- ln 2 = 2 artanh(1/3). -/
def fxLn2 : Nat := 2 * fxArtanh (fxOne / 3)

/-- Σ r^n/n!: the series of e^r for 0 ≤ r < 1. -/
def fxExpSum (r : Nat) : Nat → Nat → Nat → Nat → Nat
  | 0, _, _, acc => acc
  | f + 1, term, n, acc => fxExpSum r f (fxMul term r / n) (n + 1) (acc + term)

/-- e^r for 0 ≤ r < 1. -/
def fxExp01 (r : Nat) : Nat := fxExpSum r 180 fxOne 1 0

/-- e^x of a fixed-point x ≥ 0, as (mantissa in fixed point within [1, e), power of two). -/
def fxExpPos (x : Nat) : Nat × Int := (fxExp01 (x % fxLn2), (x / fxLn2 : Nat))

/-- e^(−x) of a fixed-point x ≥ 0, as a fixed-point mantissa times a power of two. -/
def fxExpNeg (x : Nat) : Nat × Int :=
  let k := x / fxLn2 + 1
  (fxExp01 (k * fxLn2 - x), -(k : Int))

/-- |v| in fixed point (bits below the fraction are dropped; FP32 needs 149 of the 700). -/
def FV.toFx : FV → Nat
  | .fin _ m e => shiftInt m (e + fxBits)
  | _ => 0

/-- |v| ≥ n for a small natural n. -/
def FV.absGe (v : FV) (n : Nat) : Bool := !FV.lt v.abs (.fin false n 0)

/-- Rounds a positive fixed-point value times 2^k into FP32, as inexact. -/
def fxRound (neg : Bool) (m : Nat) (k : Int) : FV :=
  fp32.round .rne .toInf neg m (k - fxBits) true

/-- e^a, correctly rounded. -/
def expV (a : FV) : FV :=
  match a with
  | .nan => .nan
  | .inf s => if s then .zero false else .inf false
  | .fin s m _ =>
    if m = 0 then .fin false 1 0
    else if a.absGe 128 then (if s then .zero false else .inf false)
    else
      let r := if s then fxExpNeg a.toFx else fxExpPos a.toFx
      fxRound false r.1 r.2

/-- ln a, correctly rounded; ln ±0 is −∞ and of a negative number NaN. -/
def lnV (a : FV) : FV :=
  match a with
  | .nan => .nan
  | .inf s => if s then .nan else .inf false
  | .fin s m e =>
    if m = 0 then .inf true
    else if s then .nan
    else
      let k := Nat.log2 m
      let y0 := shiftInt m ((fxBits : Int) - k)
      let big := fxOne + fxOne / 2 < y0
      let y := if big then y0 / 2 else y0
      let ex : Int := e + k + (if big then 1 else 0)
      let zneg := decide (y < fxOne)
      let z := if zneg then fxDiv (fxOne - y) (y + fxOne) else fxDiv (y - fxOne) (y + fxOne)
      let l : Int := ex * fxLn2 + (if zneg then -1 else 1) * (2 * fxArtanh z : Nat)
      if ex = 0 ∧ y = fxOne then .zero false
      else fxRound (decide (l < 0)) l.natAbs 0

/-- A positive fixed-point value times 2^k, brought to fixed point. -/
def fxScale (p : Nat × Int) : Nat := shiftInt p.1 p.2

/-- 1/(1 + e^(−x)), correctly rounded. -/
def sigmoidV (a : FV) : FV :=
  match a with
  | .nan => .nan
  | .inf s => if s then .zero false else .fin false 1 0
  | .fin s m _ =>
    if m = 0 then .fin false 1 (-1)
    else if a.absGe 128 then (if s then .zero false else .fin false 1 0)
    else
      let en := fxScale (fxExpNeg a.toFx)
      if s then fxRound false (fxDiv en (fxOne + en)) 0 else fxRound false (fxDiv fxOne (fxOne + en)) 0

/-- tanh x, correctly rounded. -/
def tanhV (a : FV) : FV :=
  match a with
  | .nan => .nan
  | .inf s => .fin s 1 0
  | .fin s m e =>
    if m = 0 then .zero s
    else if a.absGe 32 then .fin s 1 0
    else if !a.absGe 1 && decide (e + Nat.log2 m < -100) then .fin s m e
    else
      let en := fxScale (fxExpNeg (2 * a.toFx))
      fxRound s (fxDiv (fxOne - en) (fxOne + en)) 0

/-- x/(1 + e^(−x)), correctly rounded. -/
def siluV (a : FV) : FV :=
  match a with
  | .nan => .nan
  | .inf s => if s then .zero true else .inf false
  | .fin s m e =>
    if m = 0 then .zero s
    else if s && a.absGe 128 then .zero true
    else if a.absGe 128 then a
    else
      let en := fxScale (fxExpNeg a.toFx)
      let g := if s then fxDiv en (fxOne + en) else fxDiv fxOne (fxOne + en)
      fp32.round .rne .toInf s (m * g) (e - fxBits) true

/-- 16 arctan(1/5) − 4 arctan(1/239), Machin's π. -/
def fxArctanSum (n2 : Nat) : Nat → Nat → Nat → Bool → Int → Int
  | 0, _, _, _, acc => acc
  | f + 1, pow, k, sub, acc =>
    fxArctanSum n2 f (pow / n2) (k + 2) (!sub) (acc + (if sub then -1 else 1) * (pow / k : Nat))

def fxPi : Nat :=
  (16 * fxArctanSum 25 160 (fxOne / 5) 1 false 0
    - 4 * fxArctanSum (239 * 239) 160 (fxOne / 239) 1 false 0).toNat

/-- Σ 2^n z^(2n+1)/(2n+1)!!: erf z = (2/√π) e^(−z²) times it. -/
def fxErfSum (z2 : Nat) : Nat → Nat → Nat → Nat → Nat
  | 0, _, _, acc => acc
  | f + 1, term, k, acc => fxErfSum z2 f (2 * fxMul term z2 / (k + 2)) (k + 2) (acc + term)

/-- erf z of a fixed-point z ≥ 0. -/
def fxErf (z : Nat) : Nat :=
  let z2 := fxMul z z
  let sq := isqrt (fxPi <<< fxBits)
  2 * fxDiv (fxMul (fxScale (fxExpNeg z2)) (fxErfSum z2 1600 z 1 0)) sq

/-- x × ½(1 + erf(x/√2)), correctly rounded. -/
def geluV (a : FV) : FV :=
  match a with
  | .nan => .nan
  | .inf s => if s then .zero true else .inf false
  | .fin s m e =>
    if m = 0 then .zero s
    else if s && a.absGe 16 then .zero true
    else if a.absGe 16 then a
    else
      let ef := fxErf (fxDiv a.toFx (isqrt (2 <<< (2 * fxBits))))
      let g := if s then (fxOne - ef) / 2 else (fxOne + ef) / 2
      fp32.round .rne .toInf s (m * g) (e - fxBits) true

end Sys2Proof.Machine
end

