-- ==== Sys2Proof/Machine/Glaze.lean ====
section
/-! DEFINITION. Glaze: the drain of a tile (chapter 05, R162-R170). -/

namespace Sys2Proof.Machine

/-- The Glaze control block (Table 05-4). -/
structure GlazeCfg where
  act : Nat
  fmt : Nat
  sr : Bool
  ieee : Bool
  scaleMode : Nat
  biasMode : Nat
  keep : Nat
  dest : Nat
  rows : Nat
  cols : Nat
  outAddr : Nat
  keepAddr : Nat
  vecAddr : Nat
  pairAddr : Nat
  tscale : FV
  alpha : FV
  lo : FV
  hi : FV
  seed : Nat
  tensor : Nat
  outStride : Nat
  pairStride : Nat
  keepStride : Nat
  reserved : Bool
deriving DecidableEq, Repr

def GlazeCfg.parse (b : Bytes) : GlazeCfg :=
  let w := fieldAt b 0 8
  { act := fld w 0 4, fmt := fld w 4 3, sr := bitAt w 7, ieee := bitAt w 8, scaleMode := fld w 9 2, biasMode := fld w 11 2,
    keep := fld w 13 2, dest := fld w 15 2, rows := fld w 17 5 + 1, cols := fld w 22 6 + 1,
    outAddr := bfld b 8 8 0 22, keepAddr := bfld b 8 8 32 22, vecAddr := bfld b 16 8 0 22, pairAddr := bfld b 16 8 32 22,
    tscale := fp32.dec (fieldAt b 24 4), alpha := fp32.dec (fieldAt b 28 4), lo := fp32.dec (fieldAt b 32 4),
    hi := fp32.dec (fieldAt b 36 4), seed := fieldAt b 40 8, tensor := fieldAt b 48 4, outStride := fieldAt b 52 2,
    pairStride := fieldAt b 54 2, keepStride := fieldAt b 56 2,
    reserved := fld w 28 36 ≠ 0 || bfld b 8 8 22 10 ≠ 0 || bfld b 8 8 54 10 ≠ 0 || bfld b 16 8 22 10 ≠ 0
      || bfld b 16 8 54 10 ≠ 0 || !zeroRange b 58 6 }

/-- The output format; the code is below 7 where R163 holds. -/
def GlazeCfg.elem (g : GlazeCfg) : Elem := (elemOf g.fmt).getD (.fl fp32)

/-- Rows and elements per row of the output's first layout. -/
def GlazeCfg.outShape (g : GlazeCfg) : Nat × Nat := if g.dest = 1 then (g.cols, g.rows) else (g.rows, g.cols)

/-- The checks of R163 on the block alone. -/
def GlazeCfg.bad (g : GlazeCfg) : Bool :=
  let e := g.elem
  let low := g.act == 3 && (g.lo.isNan || g.hi.isNan || FV.lt g.hi g.lo)
  g.reserved || decide (8 ≤ g.act) || g.fmt == 7 || g.biasMode == 3 || g.keep == 3 || g.dest == 3
    || (g.keep == 1 && !(decide (1 ≤ g.act ∧ g.act ≤ 3)))
    || (g.sr && (g.fmt == 0 || e.isInt)) || (g.ieee && (g.fmt == 3 || e.isInt)) || low
    || strideBad g.outShape.1 g.outStride (e.rowBytes g.outShape.2)
    || (g.dest == 2 && strideBad g.cols g.pairStride (e.rowBytes g.rows))
    || (g.keep == 2 && strideBad g.outShape.1 g.keepStride (2 * g.outShape.2))
    || g.outAddr % 32 ≠ 0 || g.keepAddr % 32 ≠ 0 || g.vecAddr % 32 ≠ 0 || g.pairAddr % 32 ≠ 0

/-- Parameter vectors that the modes use: offset and bytes (R162). -/
def GlazeCfg.vecs (g : GlazeCfg) : List (Nat × Nat) :=
  (if 2 ≤ g.scaleMode then [(0, 4 * g.cols)] else []) ++ (if g.scaleMode = 3 then [(256, 4 * g.rows)] else [])
    ++ (if g.biasMode = 1 then [(384, 4 * g.cols)] else if g.biasMode = 2 then [(384, 4 * g.rows)] else [])

/-- Local-store ranges that the drain writes. -/
def GlazeCfg.writes (g : GlazeCfg) : List (Nat × Nat) :=
  [(g.outAddr, rowsExtent g.outShape.1 g.outStride (g.elem.rowBytes g.outShape.2))]
    ++ (if g.dest = 2 then [(g.pairAddr, rowsExtent g.cols g.pairStride (g.elem.rowBytes g.rows))] else [])
    ++ (if g.keep = 1 then [(g.keepAddr, 256)]
        else if g.keep = 2 then [(g.keepAddr, rowsExtent g.outShape.1 g.keepStride (2 * g.outShape.2))] else [])

/-- The activations of Table 05-5 and their mask bits. -/
def GlazeCfg.activate (g : GlazeCfg) (x : FV) : Ar (FV × Bool) :=
  let pos := FV.lt (.zero false) x
  match g.act with
  | 1 => pure (if x.isNan then .nan else if pos then x else .zero false, pos)
  | 2 => if pos then pure (x, true) else do
      let y ← mul32 g.alpha x
      pure (y, false)
  | 3 => pure (if x.isNan then .nan else if FV.lt x g.lo then g.lo else if FV.lt g.hi x then g.hi else x,
      FV.lt g.lo x && FV.lt x g.hi)
  | 4 => pure (geluV x, false)
  | 5 => pure (siluV x, false)
  | 6 => pure (sigmoidV x, false)
  | 7 => pure (tanhV x, false)
  | _ => pure (x, false)

/-- One drained element: narrowed bits, mask bit, and the pre-activation in BF16. -/
structure GlazeOut where
  bits : Nat
  mask : Bool
  pre : Nat
deriving DecidableEq, Repr, Inhabited

/-- R165 on the root of tile element (a, b). -/
def GlazeCfg.element (g : GlazeCfg) (k : Core) (t : TreeTag) (a b : Nat) (root : FV) : Ar GlazeOut := do
  let vec (off i : Nat) := fp32.dec (k.lsNat (g.vecAddr + off + 4 * i) 4)
  let x ← match g.scaleMode with
    | 1 => mul32 root g.tscale
    | 2 => mul32 root (vec 0 b)
    | 3 => do
      let y ← mul32 root (vec 256 a)
      mul32 y (vec 0 b)
    | _ => pure root
  let x ← match g.biasMode with
    | 1 => add32 x (vec 384 b)
    | 2 => add32 x (vec 384 a)
    | _ => pure x
  let y ← g.activate x
  let uv := t.coord a b
  let rnd := if g.sr then Rnd.sr (drawNarrow g.seed g.tensor uv.1 uv.2) else .rne
  let bits ← g.elem.narrow rnd g.ieee y.1
  let pre ← if g.keep = 2 then Elem.narrow (.fl bf16) .rne g.ieee x else pure 0
  pure ⟨bits, y.2, pre⟩

/-- An element that has no defined value (R148): what Glaze writes for it is a free value. -/
def GlazeCfg.openOut (g : GlazeCfg) (w : Word) : GlazeOut :=
  ⟨fld w.toNat 0 g.elem.bits, bitAt w.toNat 48, fld w.toNat 32 16⟩

/-- The named elements in row-major order: from the roots where they are defined. -/
def GlazeCfg.outputs (g : GlazeCfg) (k : Core) (t : TreeSet) (vals : List FV) (open' : List Word) : Ar (List GlazeOut) :=
  (grid g.rows g.cols).mapM fun p =>
    if p.1 < t.rows ∧ p.2 < t.cols then g.element k t.tag p.1 p.2 (vals.getD (t.cols * p.1 + p.2) .nan)
    else pure (g.openOut (open'.getD (g.cols * p.1 + p.2) 0))

/-- The rows of a grid of raw values, or its columns when transposed. -/
def gridRows {α : Type} [Inhabited α] (rows cols : Nat) (transposed : Bool) (l : List α) : List (List α) :=
  if transposed then (List.range cols).map fun b => (List.range rows).map fun a => l.getD (cols * a + b) default
  else (List.range rows).map fun a => (List.range cols).map fun b => l.getD (cols * a + b) default

/-- The mask bits of R169: row a is a 64-bit word; bits outside the named elements are zero. -/
def GlazeCfg.maskBytes (g : GlazeCfg) (l : List GlazeOut) : Bytes :=
  (List.range 32).flatMap fun a =>
    natLe 8 (if a < g.rows then ((List.range g.cols).map fun b => if (l.getD (g.cols * a + b) default).mask then 2 ^ b else 0).sum else 0)

/-- Everything the drain writes, as (address, bytes) (R168, R169). -/
def GlazeCfg.stores (g : GlazeCfg) (l : List GlazeOut) : List (Nat × Bytes) :=
  let raw (tr : Bool) := (gridRows g.rows g.cols tr l).map fun r => g.elem.pack (r.map (·.bits))
  rowsAt g.outAddr g.outStride (raw (g.dest == 1))
    ++ (if g.dest = 2 then rowsAt g.pairAddr g.pairStride (raw true) else [])
    ++ (if g.keep = 1 then [(g.keepAddr, g.maskBytes l)]
        else if g.keep = 2 then
          rowsAt g.keepAddr g.keepStride ((gridRows g.rows g.cols (g.dest == 1) l).map fun r => Elem.pack (.fl bf16) (r.map (·.pre)))
        else [])

/-- Writes a list of ranges of local store, in order. -/
def Core.puts (k : Core) (l : List (Nat × Bytes)) : Core := l.foldl (fun k x => k.engPut x.1 x.2) k

/-- Reads of an engine over several ranges: partition (deferred), then poison. -/
def engRanges (k : Core) (express : Bool) (engine : Nat) (l : List (Nat × Nat)) : Except Exn Unit :=
  l.forM fun x =>
    if !inPart express x.1 x.2 then throw ⟨xLsPartition, engine, 0⟩ else engRead k x.1 x.2 engine

/-- Writes of an engine: their ranges lie in the partition. -/
def engSpans (express : Bool) (engine : Nat) (l : List (Nat × Nat)) : Except Exn Unit :=
  l.forM fun x => if !inPart express x.1 x.2 then throw ⟨xLsPartition, engine, 0⟩ else pure ()

/-- Where an outstanding request of the LSU still writes local store: the destination of a transfer, and
for a Sifter or NU request, whose length can depend on what it reads, everything from its output on. -/
def LsuReq.target (q : LsuReq) : Nat × Nat :=
  let from' (a : Nat) := (a, 0x300000 - a)
  match q.kind with
  | .xfer => if bfld q.block 0 8 0 1 = 0 then (bfld q.block 16 4 0 22, 32 * (bfld q.block 0 8 4 17 + 1)) else (0, 0)
  | .sift => if bfld q.block 0 1 0 4 < 4 ∨ bfld q.block 0 1 0 4 = 7 then from' (bfld q.block 32 8 32 22) else (0, 0)
  | .nu => from' (bfld q.block 24 8 32 22)
  | .pairst => (0, 0)
  | .pass => (0, 0)

/-- A request issued earlier has yet to write into a range, or its response word lies there (R164). -/
def Core.awaits (k : Core) (a n : Nat) : Bool := k.lsu.any fun q => meets q.target a n || meets (q.resp, 8) a n

/-- GLZ: drains An, n in imm[5:0], with the control block at Sa. It does not start before every write that
was issued earlier to its block or to a vector it reads has been made (R164): until then it holds issue
(DESIGN CHOICE, log entry 16). Invalid events count in the elements that the block names (DESIGN CHOICE, log entry 16). -/
def glz (c : CoreIx) (f : XFmt) (s : State) : State :=
  s.issue c.val (f.word 0x48) (f.ok false true false false false && decide (f.imm.toNat < 64)) fun s r => do
    let k := s.core c.val
    let a := (k.sreg f.a.toNat).toNat
    if a % 32 ≠ 0 then throw ⟨xMisaligned, enIssue, 0⟩
    if !inPart r.express a 64 then throw ⟨xLsPartition, enIssue, 0⟩
    if !tileOk r.express f.imm.toNat then throw ⟨xTilePartition, enIssue, 0⟩
    match k.tree f.imm.toNat with
    | none => throw ⟨xTreeLost, enIssue, 0⟩
    | some t =>
      let g := GlazeCfg.parse (k.lsBytes a 64)
      if k.awaits a 64 || (!g.bad && g.vecs.any fun v => k.awaits (g.vecAddr + v.1) v.2) then return s
      engRead k a 64 enGlaze
      t.readable enGlaze
      if g.bad then throw ⟨xGlazeConfig, enGlaze, 0⟩
      engSpans r.express enGlaze g.writes
      engRanges k r.express enGlaze (g.vecs.map fun v => (g.vecAddr + v.1, v.2))
      let undef := decide (t.rows < g.rows ∨ t.cols < g.cols)
      let fr := s.frees (if undef then g.rows * g.cols + 1 else 0)
      let q := (do
        let t := t.shrink g.rows g.cols
        let vals ← t.values
        g.outputs k t vals (fr.1.drop 1) : Ar _).run 0
      -- elements without a defined value may count invalid events (R148)
      let n := q.2 + (if undef then (fr.1.headD 0).toNat else 0)
      let s := fr.2.modCore c.val fun k => (k.puts (g.stores q.1)).putTree { t with group := false, drained := true }
      pure ((s.evInvalid c.val n).adv c.val)

def execGlz (c : CoreIx) (f : XFmt) (s : State) : Out := .next (glz c f s)

end Sys2Proof.Machine
end

