-- ==== Sys2Proof/Machine/Vector.lean ====
section
/-! DEFINITION. The vector engine: chains (R173-R184), moves between tile registers (R185-R187), and loads and stores of tile registers and predicates. -/

namespace Sys2Proof.Machine

/-- A stage entry (Table 06-3). -/
structure StageEnt where
  op : Nat
  bsrc : Nat
  breg : Nat
  imm : Nat
  rsv : Nat
deriving DecidableEq, Repr

def StageEnt.parse (b : Bytes) : StageEnt :=
  let w := fieldAt b 0 8
  ⟨fld w 0 6, fld w 6 3, fld w 9 5, fld w 32 32, fld w 14 18⟩

/-- The chain descriptor (Table 06-2). -/
structure ChainDesc where
  src : Nat
  inFmt : Nat
  yFmt : Nat
  outFmt : Nat
  sr : Bool
  ieee : Bool
  outMode : Nat
  toTile : Bool
  cin : Nat
  cout : Nat
  cinP : Nat
  coutP : Nat
  ruTap : Bool
  countReg : Nat
  accTile : Nat
  tFirst : Nat
  tDst : Nat
  cols : Nat
  rows : Nat
  xStride : Nat
  yStride : Nat
  seed : Nat
  tensor : Nat
  outStride : Nat
  uBase : Nat
  vBase : Nat
  xAddr : Nat
  yAddr : Nat
  outAddr : Nat
  vecAddr : Nat
  maskIn : Nat
  maskOut : Nat
  stages : List StageEnt
  reserved : Bool
deriving DecidableEq, Repr

def ChainDesc.parse (b : Bytes) : ChainDesc :=
  let w := fieldAt b 0 8
  let n := fld w 10 3 + 1
  let addr (o : Nat) := bfld b o 4 0 22
  { src := fld w 0 2, inFmt := fld w 2 4, yFmt := fld w 6 4, outFmt := fld w 13 4, sr := bitAt w 17, ieee := bitAt w 18,
    outMode := fld w 19 2, toTile := bitAt w 21, cin := fld w 22 2, cout := fld w 24 2, cinP := fld w 26 3, coutP := fld w 29 3,
    ruTap := bitAt w 32, countReg := fld w 33 5, accTile := fld w 38 6, tFirst := fld w 44 5, tDst := fld w 49 5,
    cols := fieldAt b 8 2 + 1, rows := fieldAt b 10 2 + 1, xStride := fieldAt b 12 2, yStride := fieldAt b 14 2,
    seed := fieldAt b 16 8, tensor := fieldAt b 24 4, outStride := fieldAt b 28 2, uBase := fieldAt b 32 4,
    vBase := bfld b 32 8 32 22, xAddr := addr 40, yAddr := addr 44, outAddr := addr 48, vecAddr := addr 52,
    maskIn := addr 56, maskOut := addr 60,
    stages := (List.range n).map fun i => StageEnt.parse (slice b (64 + 8 * i) 8),
    reserved := fld w 54 10 ≠ 0 || fieldAt b 30 2 ≠ 0 || bfld b 32 8 54 10 ≠ 0
      || [40, 44, 48, 52, 56, 60].any (fun o => bfld b o 4 22 10 ≠ 0) || !zeroRange b (64 + 8 * n) (64 - 8 * n) }

def ChainDesc.elems (d : ChainDesc) : Nat := d.rows * d.cols
def ChainDesc.uses (d : ChainDesc) (b : Nat) : Bool := d.stages.any fun e => e.bsrc == b
def ChainDesc.inElem (d : ChainDesc) : Elem := (elemOf d.inFmt).getD (.fl fp32)
def ChainDesc.yElem (d : ChainDesc) : Elem := (elemOf d.yFmt).getD (.fl fp32)
def ChainDesc.outElem (d : ChainDesc) : Elem := (elemOf d.outFmt).getD (.fl fp32)

/-- Operations with one operand (R178). -/
def stageUnary (op : Nat) : Bool := op == 0 || decide (0x08 ≤ op ∧ op ≤ 0x13) || [0x18, 0x1A, 0x1C, 0x1D].contains op
def stageKnown (op : Nat) : Bool := decide (op ≤ 0x1D) || decide (0x20 ≤ op ∧ op ≤ 0x2E)

/-- A reserved operation or operand code, or an operand where none or one is required (R178). -/
def StageEnt.bad (e : StageEnt) : Bool :=
  e.rsv ≠ 0 || e.bsrc == 7 || !stageKnown e.op || (stageUnary e.op != (e.bsrc == 0))

/-- Bytes of a bitmap row (R176). -/
def bitmapRow (cols : Nat) : Nat := 8 * ceilDiv cols 64

/-- Bytes of the column vector, rounded up to the Crumb where the row vector begins. -/
def ChainDesc.rowVec (d : ChainDesc) : Nat := d.vecAddr + roundUp (4 * d.cols) 32

/-- The checks of R175 and R177, with what names a register beyond the last one taken as a reserved value.
Every address of the descriptor is aligned, whether or not its mode uses it. -/
def ChainDesc.bad (d : ChainDesc) : Bool :=
  let n := d.elems
  let e := d.outElem
  d.reserved || d.src == 3 || d.cin == 3 || d.cout == 3 || decide (8 ≤ d.inFmt ∨ 8 ≤ d.yFmt ∨ 8 ≤ d.outFmt)
    || d.stages.any StageEnt.bad || decide (2 ^ 20 < n)
    || (d.src == 1 && (decide (8192 < 256 * d.tFirst + n) || d.uses 1))
    || (d.src == 2 && decide (32 < d.rows ∨ 64 < d.cols))
    || (d.uses 1 && d.yFmt == 6) || ((d.cin == 1 || d.cout == 1) && decide (256 < n))
    || (d.sr && (d.outFmt == 0 || e.isInt)) || (d.ieee && (d.outFmt == 3 || e.isInt))
    || (d.toTile && ((d.outFmt != 0 && d.outFmt != 7) || d.outMode == 1 || d.outMode == 3 || decide (8192 < 256 * d.tDst + n)))
    || (d.src == 0 && d.outMode != 2 && strideBad d.rows d.xStride (d.inElem.rowBytes d.cols))
    || (d.uses 1 && strideBad d.rows d.yStride (d.yElem.rowBytes d.cols))
    || (!d.toTile && (d.outMode == 0 || d.outMode == 2) && strideBad d.rows d.outStride (e.rowBytes d.cols))
    || [d.xAddr, d.yAddr, d.outAddr, d.vecAddr].any (fun a => a % 32 != 0)
    || d.maskIn % 8 ≠ 0 || d.maskOut % 8 ≠ 0

/-! ### Stages -/

def bin32 (g : FV → FV → Ar FV) (a b : Nat) : Ar Nat := do
  let r ← g (fp32.dec a) (fp32.dec b)
  pure (fp32.enc r)

def un32 (g : FV → Ar FV) (a : Nat) : Ar Nat := do
  let r ← g (fp32.dec a)
  pure (fp32.enc r)

/-- A function whose invalid result counts one event. -/
def noted (g : FV → FV) (a : FV) : Ar FV := Ar.note [a] (g a)

def reluV (a : FV) : FV := if a.isNan then .nan else if FV.lt (.zero false) a then a else .zero false

/-- One stage on a value and its condition bit (Table 06-4). Values are 32 bits without a kind. -/
def stageOp (op a b imm x0 : Nat) (cb : Bool) : Ar (Nat × Bool) :=
  let keep (x : Ar Nat) : Ar (Nat × Bool) := do
    let r ← x
    pure (r, cb)
  let fa := fp32.dec a
  let fb := fp32.dec b
  let ia := bitsInt 32 a
  let ib := bitsInt 32 b
  let int (i : Int) : Ar (Nat × Bool) := pure (intBits 32 i, cb)
  match op with
  | 0x00 => pure (a, cb)
  | 0x01 => keep (bin32 add32 a b)
  | 0x02 => keep (bin32 sub32 a b)
  | 0x03 => keep (bin32 sub32 b a)
  | 0x04 => keep (bin32 mul32 a b)
  | 0x05 => keep (bin32 div32 a b)
  | 0x06 => pure (fp32.enc (FV.minZ fa fb), cb)
  | 0x07 => pure (fp32.enc (FV.maxZ fa fb), cb)
  | 0x08 => pure (fp32.enc fa.abs, cb)
  | 0x09 => pure (fp32.enc fa.neg, cb)
  | 0x0A => keep (un32 sqrt32 a)
  | 0x0B => keep (un32 rsqrt32 a)
  | 0x0C => keep (un32 (fun x => div32 (.fin false 1 0) x) a)
  | 0x0D => keep (un32 (noted expV) a)
  | 0x0E => keep (un32 (noted lnV) a)
  | 0x0F => pure (fp32.enc (tanhV fa), cb)
  | 0x10 => pure (fp32.enc (sigmoidV fa), cb)
  | 0x11 => pure (fp32.enc (geluV fa), cb)
  | 0x12 => pure (fp32.enc (siluV fa), cb)
  | 0x13 => pure (fp32.enc (reluV fa), cb)
  | 0x14 => pure (a, FV.lt fa fb)
  | 0x15 => pure (a, FV.lt fa fb || FV.eq fa fb)
  | 0x16 => pure (a, FV.eq fa fb)
  | 0x17 => pure (a, !FV.eq fa fb)
  | 0x18 => pure (a, fa.isNan)
  | 0x19 => pure (if cb then a else b, cb)
  | 0x1A => pure (if cb then a else 0, cb)
  | 0x1B =>
    if imm ≤ x0 then do
      let r ← bin32 mul32 a b
      pure (r, true)
    else pure (0, false)
  | 0x1C => keep (do
      let i ← narrowInt 32 fa
      pure (intBits 32 i))
  | 0x1D => pure (fp32.enc (rne32 (.ofInt ia)), cb)
  | 0x20 => int (ia + ib)
  | 0x21 => int (ia - ib)
  | 0x22 => int (ia * ib)
  | 0x23 => int (clampInt 32 (ia + ib))
  | 0x24 => int (min ia ib)
  | 0x25 => int (max ia ib)
  | 0x26 => pure (a &&& b, cb)
  | 0x27 => pure (a ||| b, cb)
  | 0x28 => pure (a ^^^ b, cb)
  | 0x29 => pure ((a <<< (b % 32)) % 2 ^ 32, cb)
  | 0x2A => pure (a >>> (b % 32), cb)
  | 0x2B => int (ia.fdiv (2 ^ (b % 32) : Nat))
  | 0x2C => pure (a, decide (ia < ib))
  | 0x2D => pure (a, decide (ia ≤ ib))
  | _ => pure (a, decide (ia = ib))

/-- What the stages of a chain read beside the element: scalar registers and the vectors. -/
structure ChainEnv where
  sreg : List Nat
  y : List Nat
  colVec : List Nat
  rowVec : List Nat
  /-- Coordinates of grid position (r, c). -/
  transpose : Bool
  u0 : Nat
  v0 : Nat
deriving DecidableEq, Repr

def ChainEnv.coord (v : ChainEnv) (r c : Nat) : Nat × Nat := if v.transpose then (v.u0 + c, v.v0 + r) else (v.u0 + r, v.v0 + c)

/-- Runs the stages on the element at grid position e. -/
def ChainDesc.runStages (d : ChainDesc) (v : ChainEnv) (e x : Nat) (cb : Bool) : Ar (Nat × Bool) :=
  let r := e / d.cols
  let c := e % d.cols
  let uv := v.coord r c
  d.stages.foldlM (fun (acc : Nat × Bool) g =>
    let b := match g.bsrc with
      | 1 => v.y.getD e 0
      | 2 => x
      | 3 => g.imm
      | 4 => v.sreg.getD g.breg 0
      | 5 => v.colVec.getD c 0
      | 6 => v.rowVec.getD r 0
      | _ => 0
    stageOp g.op acc.1 b g.imm (if g.op = 0x1B then drawDropout d.seed d.tensor uv.1 uv.2 else 0) acc.2) (x, cb)

/-- Every grid position's result and condition bit: in expand mode a position with bit 0 takes no
element and is zero (R182). -/
def ChainDesc.runGrid (d : ChainDesc) (v : ChainEnv) : List (Nat × Bool) → List Nat → Ar (List (Nat × Bool))
  | [], _ => pure []
  | (e, cb) :: es, xs =>
    if d.outMode = 2 ∧ !cb then do
      let rest ← d.runGrid v es xs
      pure ((0, false) :: rest)
    else do
      let r ← d.runStages v e (xs.headD 0) cb
      let rest ← d.runGrid v es (xs.drop 1)
      pure (r :: rest)

/-- The output bits of a result (R180). -/
def ChainDesc.narrow (d : ChainDesc) (v : ChainEnv) (e a : Nat) : Ar Nat :=
  let uv := v.coord (e / d.cols) (e % d.cols)
  d.outElem.narrow32 (if d.sr then .sr (drawNarrow d.seed d.tensor uv.1 uv.2) else .rne) d.ieee a

/-! ### Sources and destinations -/

/-- Widened elements of a row-major grid in local store. -/
def gridFrom (k : Core) (e : Elem) (addr stride rows cols : Nat) : List Nat :=
  (List.range rows).flatMap fun r => (e.unpack cols (k.lsBytes (addr + 32 * r * stride) (e.rowBytes cols))).map e.widen

/-- Rows of a grid in local store, as ranges. -/
def gridRanges (e : Elem) (addr stride rows cols : Nat) : List (Nat × Nat) :=
  (List.range rows).map fun r => (addr + 32 * r * stride, e.rowBytes cols)

/-- The named elements of an accumulator tile as 32 bits (R173), with free values for elements that have no
defined value (R148). `asInt` is an integer chain. -/
def tileSource (set : TreeSet) (rows cols : Nat) (asInt : Bool) (open' : List Word) : Ar (List Nat) := do
  let t := set.shrink rows cols
  let vals ← t.values
  let ints := t.rootsInt
  pure ((grid rows cols).zipIdx.map fun (p, i) =>
    let j := t.cols * p.1 + p.2
    if p.1 < t.rows ∧ p.2 < t.cols then
      (if asInt && t.tag.arith != .fp then intBits 32 (clampInt 32 (ints.getD j 0 * (2 ^ t.tag.shift : Nat)))
       else fp32.enc (vals.getD j .nan))
    else fld (open'.getD i 0).toNat 0 32)

/-- The bitmap bits of a grid (R176). -/
def bitmapBits (k : Core) (addr rows cols : Nat) : List Bool :=
  (List.range rows).flatMap fun r =>
    let w := k.lsNat (addr + r * bitmapRow cols) (bitmapRow cols)
    (List.range cols).map fun c => bitAt w c

/-- A number with the given low bits, and the bits above them from a free word. -/
def bitsOver (bits : List Bool) (open' : Nat) : Nat :=
  (bits.zipIdx.map fun (b, i) => if b then 2 ^ i else 0).sum + open' / 2 ^ bits.length * 2 ^ bits.length

/-- Bitmap rows of condition bits; bits beyond the last column are free values. -/
def bitmapRows (addr rows cols : Nat) (cbs : List Bool) (open' : List Word) : List (Nat × Bytes) :=
  (List.range rows).map fun r =>
    let pad := (open'.getD r 0).toNat * 2 ^ (64 * (ceilDiv cols 64 - 1))
    (addr + r * bitmapRow cols, natLe (bitmapRow cols) (bitsOver ((cbs.drop (r * cols)).take cols) pad))

/-- What a chain does: local-store writes, tile elements, predicate and count, and what the RU sees. -/
structure ChainRes where
  stores : List (Nat × Bytes)
  tiles : List Nat
  pred : Option (BitVec 256)
  count : Option Nat
  results : List (Nat × Bool)
  env : ChainEnv
  events : Nat
  state : State

/-- The tile that a descriptor names: in the partition (deferred), and live (precise, R53). -/
def tileFor (k : Core) (express : Bool) (engine n : Nat) : Except Exn TreeSet :=
  if !tileOk express n then .error ⟨xTilePartition, engine, 0⟩
  else match k.tree n with
    | some t => do
      t.readable engine
      pure t
    | none => .error ⟨xTreeLost, enIssue, 0⟩

/-- Condition-in of every element of a chain (R178). -/
def ChainDesc.cins (d : ChainDesc) (k : Core) : List Bool :=
  if d.cin = 1 then (List.range d.elems).map (k.preg d.cinP).getLsbD
  else if d.cin = 2 then bitmapBits k d.maskIn d.rows d.cols
  else List.replicate d.elems true

/-- Elements that the input holds: in expand mode one for each condition that is true (R181). -/
def ChainDesc.taken (d : ChainDesc) (k : Core) : Nat := if d.outMode = 2 then ((d.cins k).filter id).length else d.elems

/-- The ranges of local store that a chain reads, in the order in which they are checked. -/
def ChainDesc.reads (d : ChainDesc) (k : Core) : List (Nat × Nat) :=
  (if d.cin = 2 then [(d.maskIn, d.rows * bitmapRow d.cols)] else []) ++
    (if d.src = 0 then
      (if d.outMode = 2 then [(d.xAddr, d.inElem.rowBytes (d.taken k))] else gridRanges d.inElem d.xAddr d.xStride d.rows d.cols)
     else []) ++
    (if d.uses 1 then gridRanges d.yElem d.yAddr d.yStride d.rows d.cols else []) ++
    (if d.uses 5 then [(d.vecAddr, 4 * d.cols)] else []) ++
    (if d.uses 6 then [(d.rowVec, 4 * d.rows)] else [])

/-- What a chain does on a core, over the tree set that it takes, if any (R173-R182). With an accumulator source `in_fmt` says
whether the chain is FP32 or INT32, and expand mode hands out a tile register's or accumulator's elements in row-major order
(DESIGN CHOICE, log entry 17). -/
def chainCalc (s : State) (c : Nat) (d : ChainDesc) (t : Option TreeSet) : ChainRes :=
  let k := s.core c
  let n := d.elems
  let fr := s.frees (if d.src = 2 then n else 0)
  let src : List Nat × Nat := match t with
    | some t => (tileSource t d.rows d.cols d.inElem.isInt fr.1).run 0
    | none =>
      (if d.src = 1 then (List.range n).map fun e => (k.telem (d.tFirst + e / 256) (e % 256)).toNat
       else if d.outMode = 2 then (d.inElem.unpack (d.taken k) (k.lsBytes d.xAddr (d.inElem.rowBytes (d.taken k)))).map d.inElem.widen
       else gridFrom k d.inElem d.xAddr d.xStride d.rows d.cols, 0)
  let env : ChainEnv :=
    { sreg := (List.range 32).map fun i => fld (k.sreg i).toNat 0 32
      y := if d.uses 1 then gridFrom k d.yElem d.yAddr d.yStride d.rows d.cols else []
      colVec := if d.uses 5 then (List.range d.cols).map fun i => k.lsNat (d.vecAddr + 4 * i) 4 else []
      rowVec := if d.uses 6 then (List.range d.rows).map fun i => k.lsNat (d.rowVec + 4 * i) 4 else []
      transpose := match t with
        | some t => t.tag.transpose
        | none => false
      u0 := match t with
        | some t => t.tag.u0
        | none => d.uBase
      v0 := match t with
        | some t => t.tag.v0
        | none => d.vBase }
  let q := (d.runGrid env ((List.range n).zip (d.cins k)) src.1).run src.2
  let sel := (q.1.zipIdx).filter fun (x, _) => d.outMode != 1 || x.2
  let raw := (if d.outMode = 3 then pure [] else sel.mapM fun (x, e) => d.narrow env e x.1 : Ar (List Nat)).run q.2
  let cbs := q.1.map (·.2)
  let e := d.outElem
  let out := if d.outMode = 3 ∨ d.toTile then []
    else if d.outMode = 1 then [(d.outAddr, e.pack raw.1)]
    else rowsAt d.outAddr d.outStride ((gridRows d.rows d.cols false raw.1).map e.pack)
  let fm := fr.2.frees (if d.cout = 2 ∧ d.cols % 64 ≠ 0 then d.rows else if d.cout = 1 then 4 else 0)
  { stores := out ++ (if d.cout = 2 then bitmapRows d.maskOut d.rows d.cols cbs fm.1 else []),
    tiles := if d.toTile then raw.1 else [],
    pred := if d.cout = 1 then some (BitVec.ofNat 256 (bitsOver cbs (leNat (fm.1.flatMap fun w => natLe 8 w.toNat)))) else none
    count := if d.outMode = 1 then some sel.length else if d.outMode = 2 then some (d.taken k) else none
    results := q.1, env := env, events := raw.2, state := fm.2 }

/-- Runs a chain on a core: the checks of its descriptor, its tile, its reads and its writes. -/
def chainRun (s : State) (c : Nat) (r : Run) (d : ChainDesc) : Except Exn ChainRes := do
  let k := s.core c
  if d.bad then throw ⟨xChainConfig, enVe, 0⟩
  let t ← if d.src = 2 then do
      let t ← tileFor k r.express enVe d.accTile
      pure (some t)
    else pure none
  engRanges k r.express enVe (d.reads k)
  let x := chainCalc s c d t
  engSpans r.express enVe (x.stores.map fun x => (x.1, x.2.length))
  pure x

/-- The writes of a chain. -/
def ChainRes.apply (x : ChainRes) (c : Nat) (d : ChainDesc) : State :=
  (x.state.modCore c fun k =>
    let k := k.puts x.stores
    let k := x.tiles.zipIdx.foldl (fun k (v, e) => k.setT (d.tDst + e / 256) (e % 256) (BitVec.ofNat 32 v)) k
    let k := match x.pred with
      | some p => k.setP d.coutP p
      | none => k
    match x.count with
    | some n => k.setS d.countReg (BitVec.ofNat 64 n)
    | none => k).evInvalid c x.events

/-- A descriptor named by a register: Crumb-aligned and in the partition (precise), read as it stands. -/
def descAt (k : Core) (r : Run) (reg : BitVec 5) (len engine : Nat) : Except Exn Bytes := do
  let a := (k.sreg reg.toNat).toNat
  if a % 32 ≠ 0 then throw ⟨xMisaligned, enIssue, 0⟩
  if !inPart r.express a len then throw ⟨xLsPartition, enIssue, 0⟩
  engRead k a len engine
  pure (k.lsBytes a len)

/-- CHAIN: the chain descriptor at Sa. With `ru_tap` set it names no RU descriptor, a bad value. -/
def chainInsn (c : CoreIx) (f : XFmt) (s : State) : State :=
  s.issue c.val (f.word 0x50) (f.ok false true false false false && f.imm == 0) fun s r => do
    let b ← descAt (s.core c.val) r f.a 128 enVe
    let d := ChainDesc.parse b
    if d.ruTap then throw ⟨xChainConfig, enVe, 0⟩
    let x ← chainRun s c.val r d
    pure ((x.apply c.val d).adv c.val)

/-! ### Tile registers -/

def Core.tile (k : Core) (n : Nat) : List (BitVec 32) := (List.range 256).map (k.telem n)
def Core.putTile (k : Core) (n : Nat) (l : List (BitVec 32)) : Core := l.zipIdx.foldl (fun k (v, e) => k.setT n e v) k

/-- VPERM (R185): the result, and how many index words have a non-zero bit in [30:9]. -/
def permTile (a b i : List (BitVec 32)) : List (BitVec 32) × Nat :=
  let bad (w : Nat) := decide (fld w 9 22 ≠ 0)
  (i.map fun w =>
    let w := w.toNat
    if bitAt w 31 ∨ bad w then 0 else if bitAt w 8 then b.getD (w % 256) 0 else a.getD (w % 256) 0,
   (i.filter fun w => bad w.toNat).length)

def vperm (c : CoreIx) (f : XFmt) (s : State) : State :=
  s.issue c.val (f.word 0x52) (f.ok true true true true false && f.imm == 0) fun s _ =>
    let k := s.core c.val
    let q := permTile (k.tile f.a.toNat) (k.tile f.b.toNat) (k.tile f.c.toNat)
    .ok (((s.modCore c.val fun k => k.putTile f.d.toNat q.1).evPermute c.val q.2).adv c.val)

/-- The source element of Td(r, col) for a pattern (Table 06-5): whether Tb, its row and its column. -/
def shufSrc (pat n r col : Nat) : Option (Bool × Nat × Nat) :=
  match pat with
  | 0 => some (false, col, r)
  | 1 => some (col % 2 == 1, r, col / 2)
  | 2 => some (col % 2 == 1, r, 8 + col / 2)
  | 3 => some (if col < 8 then (false, r, 2 * col) else (true, r, 2 * col - 16))
  | 4 => some (if col < 8 then (false, r, 2 * col + 1) else (true, r, 2 * col - 15))
  | 5 => some (false, (r + 16 - n) % 16, col)
  | 6 => some (false, r, (col + 16 - n) % 16)
  | 7 => some (false, n, col)
  | 8 => some (false, r, n)
  | 9 => some (false, r, 15 - col)
  | _ => none

/-- VSHUF (R186): pattern in sub, k in imm[3:0]. -/
def vshuf (c : CoreIx) (f : XFmt) (s : State) : State :=
  s.issue c.val (f.word 0x53) (f.ok true true true false true && decide (f.imm.toNat < 16)) fun s _ =>
    if 10 ≤ f.sub.toNat then deferred xChainConfig enVe
    else
      let k := s.core c.val
      let a := k.tile f.a.toNat
      let b := k.tile f.b.toNat
      let q := (List.range 256).map fun e =>
        match shufSrc f.sub.toNat f.imm.toNat (e / 16) (e % 16) with
        | some (useB, r, col) => (if useB then b else a).getD (16 * r + col) 0
        | none => 0
      .ok ((s.modCore c.val fun k => k.putTile f.d.toNat q).adv c.val)

/-- The 16-bit format of VPACK and VUNPACK. -/
def packElem (n : Nat) : Elem := if n % 2 = 0 then .fl bf16 else .fl fp16

/-- VPACK (R187): packed element (r, col) from Ta or Tb, narrowed. -/
def vpack (c : CoreIx) (f : XFmt) (s : State) : State :=
  s.issue c.val (f.word 0x54) (f.ok true true true true true && decide (f.sub.toNat < 4) && decide (f.imm.toNat < 2 ^ 22)) fun s _ =>
    let k := s.core c.val
    let a := k.tile f.a.toNat
    let b := k.tile f.b.toNat
    -- S(c + 1) of c = 31 names no register: a free value
    let fr := s.frees (if f.c.toNat = 31 then 1 else 0)
    let w := if f.c.toNat = 31 then (fr.1.headD 0).toNat else (k.sreg (f.c.toNat + 1)).toNat
    let half (r col : Nat) : Ar Nat :=
      let x := if col < 16 then a.getD (16 * r + col) 0 else b.getD (16 * r + col - 16) 0
      let rnd := if bitAt f.sub.toNat 1 then Rnd.sr (drawNarrow (k.sreg f.c.toNat).toNat (fld w 0 32) (fld w 32 32 + r) (f.imm.toNat + col)) else .rne
      (packElem f.sub.toNat).narrow rnd false (fp32.dec x.toNat)
    let q := ((List.range 256).mapM fun e => do
      let lo ← half (e / 16) (2 * (e % 16))
      let hi ← half (e / 16) (2 * (e % 16) + 1)
      pure (BitVec.ofNat 32 (lo + 65536 * hi)) : Ar (List (BitVec 32))).run 0
    .ok (((fr.2.modCore c.val fun k => k.putTile f.d.toNat q.1).evInvalid c.val q.2).adv c.val)

/-- VUNPACK (R187): columns 0-15 of the packed Ta to Td, columns 16-31 to Te. Naming one register for
both leaves free values in it. -/
def vunpack (c : CoreIx) (f : XFmt) (s : State) : State :=
  s.issue c.val (f.word 0x55) (f.ok true true true false true && decide (f.sub.toNat < 2) && f.imm == 0) fun s _ =>
    let k := s.core c.val
    let a := k.tile f.a.toNat
    let half (r col : Nat) : BitVec 32 :=
      BitVec.ofNat 32 ((packElem f.sub.toNat).widen (fld (a.getD (16 * r + col / 2) 0).toNat (16 * (col % 2)) 16))
    let lo := (List.range 256).map fun e => half (e / 16) (e % 16)
    let hi := (List.range 256).map fun e => half (e / 16) (16 + e % 16)
    if f.d = f.b then
      let fr := s.frees 256
      .ok ((fr.2.modCore c.val fun k => k.putTile f.d.toNat (fr.1.map fun w => w.setWidth 32)).adv c.val)
    else .ok ((s.modCore c.val fun k => (k.putTile f.d.toNat lo).putTile f.b.toNat hi).adv c.val)

/-- The address Sa + imm of a tile or predicate access: Crumb-aligned, with its extent in the partition. -/
def vecAddr (k : Core) (r : Run) (f : XFmt) (ext : Nat) : Except Exn Nat :=
  let a := (k.sreg f.a.toNat + sext32 f.imm).toNat
  if a % 32 ≠ 0 then .error ⟨xMisaligned, enIssue, 0⟩
  else if !inPart r.express a ext then .error ⟨xLsPartition, enIssue, 0⟩
  else .ok a

def tileExtent (stride : Nat) : Nat := 15 * 32 * stride + 64

/-- TLD: row r of tile register d from Sa + imm + 32 × r × Sb[15:0]. -/
def tldInsn (c : CoreIx) (f : XFmt) (s : State) : State :=
  s.issue c.val (f.word 0x56) (f.ok true true true false false) fun s r => do
    let k := s.core c.val
    let st := fld (k.sreg f.b.toNat).toNat 0 16
    let a ← vecAddr k r f (tileExtent st)
    (List.range 16).forM fun i => engRead k (a + 32 * i * st) 64 enVe
    let l := (List.range 256).map fun e => BitVec.ofNat 32 (k.lsNat (a + 32 * (e / 16) * st + 4 * (e % 16)) 4)
    pure ((s.modCore c.val fun k => k.putTile f.d.toNat l).adv c.val)

/-- TST: the same rows to local store, in ascending row order. -/
def tstInsn (c : CoreIx) (f : XFmt) (s : State) : State :=
  s.issue c.val (f.word 0x57) (f.ok true true true false false) fun s r => do
    let k := s.core c.val
    let st := fld (k.sreg f.b.toNat).toNat 0 16
    let a ← vecAddr k r f (tileExtent st)
    let rows := (List.range 16).map fun i => (a + 32 * i * st, (List.range 16).flatMap fun j => natLe 4 (k.telem f.d.toNat (16 * i + j)).toNat)
    pure ((s.modCore c.val fun k => k.puts rows).adv c.val)

/-- PLD and PST: predicate d from or to 32 bytes at Sa + imm; d names P0-P7. -/
def pldInsn (c : CoreIx) (f : XFmt) (s : State) : State :=
  s.issue c.val (f.word 0x58) (f.ok true true false false false && decide (f.d.toNat < 8)) fun s r => do
    let k := s.core c.val
    let a ← vecAddr k r f 32
    engRead k a 32 enVe
    pure ((s.modCore c.val fun k => k.setP f.d.toNat (BitVec.ofNat 256 (k.lsNat a 32))).adv c.val)

def pstInsn (c : CoreIx) (f : XFmt) (s : State) : State :=
  s.issue c.val (f.word 0x59) (f.ok true true false false false && decide (f.d.toNat < 8)) fun s r => do
    let k := s.core c.val
    let a ← vecAddr k r f 32
    pure ((s.modCore c.val fun k => k.engPut a (natLe 32 (k.preg f.d.toNat).toNat)).adv c.val)

def execChain (c : CoreIx) (f : XFmt) (s : State) : Out := .next (chainInsn c f s)
def execVperm (c : CoreIx) (f : XFmt) (s : State) : Out := .next (vperm c f s)
def execVshuf (c : CoreIx) (f : XFmt) (s : State) : Out := .next (vshuf c f s)
def execVpack (c : CoreIx) (f : XFmt) (s : State) : Out := .next (vpack c f s)
def execVunpack (c : CoreIx) (f : XFmt) (s : State) : Out := .next (vunpack c f s)
def execTld (c : CoreIx) (f : XFmt) (s : State) : Out := .next (tldInsn c f s)
def execTst (c : CoreIx) (f : XFmt) (s : State) : Out := .next (tstInsn c f s)
def execPld (c : CoreIx) (f : XFmt) (s : State) : Out := .next (pldInsn c f s)
def execPst (c : CoreIx) (f : XFmt) (s : State) : Out := .next (pstInsn c f s)

end Sys2Proof.Machine
end

