-- ==== Sys2Proof/Machine/Reduce.lean ====
section
/-! DEFINITION. The reduction unit: RED and CHAINRU (R188-R194). -/

namespace Sys2Proof.Machine

/-- The RU descriptor (Table 06-6). -/
structure RuDesc where
  op : Nat
  src : Nat
  inFmt : Nat
  axis : Bool
  spill : Nat
  sr : Bool
  smallest : Bool
  k : Nat
  carryIn : Bool
  carryOut : Bool
  listIn : Bool
  ids : Bool
  tFirst : Nat
  accTile : Nat
  cols : Nat
  rows : Nat
  xStride : Nat
  seed : Nat
  tensor : Nat
  indexBase : Nat
  uBase : Nat
  vBase : Nat
  xAddr : Nat
  idsAddr : Nat
  outAddr : Nat
  carryAddr : Nat
  listAddr : Nat
  reserved : Bool
deriving DecidableEq, Repr

def RuDesc.parse (b : Bytes) : RuDesc :=
  let w := fieldAt b 0 8
  let addr (o : Nat) := bfld b o 4 0 22
  { op := fld w 0 2, src := fld w 2 2, inFmt := fld w 4 4, axis := bitAt w 8, spill := fld w 9 4, sr := bitAt w 13,
    smallest := bitAt w 14, k := fld w 15 10 + 1, carryIn := bitAt w 25, carryOut := bitAt w 26, listIn := bitAt w 27,
    ids := bitAt w 28, tFirst := fld w 29 5, accTile := fld w 34 6, cols := fieldAt b 8 2 + 1, rows := fieldAt b 10 2 + 1,
    xStride := fieldAt b 12 2, seed := fieldAt b 16 8, tensor := fieldAt b 24 4, indexBase := fieldAt b 28 4,
    uBase := fieldAt b 32 4, vBase := bfld b 32 8 32 22, xAddr := addr 40, idsAddr := addr 44, outAddr := addr 48,
    carryAddr := addr 52, listAddr := addr 56,
    reserved := fld w 40 24 ≠ 0 || fieldAt b 14 2 ≠ 0 || bfld b 32 8 54 10 ≠ 0
      || [40, 44, 48, 52, 56].any (fun o => bfld b o 4 22 10 ≠ 0) || !zeroRange b 60 4 }

def RuDesc.inElem (d : RuDesc) : Elem := (elemOf d.inFmt).getD (.fl fp32)

/-- The checks of R188. `tap` says that the operation is the RU side of CHAINRU, which takes source 3 and no other
(DEDUCED, log entry 17). -/
def RuDesc.bad (d : RuDesc) (tap : Bool) : Bool :=
  d.reserved || decide (8 ≤ d.inFmt) || (spillOf d.spill).isNone || ((d.src == 3) != tap)
    || (d.op == 3 && d.axis) || (d.op != 3 && d.k != 1) || (d.op != 0 && (d.carryIn || d.carryOut))
    || (!tap && (decide (2 ^ 20 < d.rows * d.cols)
        || (d.src == 1 && decide (8192 < 256 * d.tFirst + d.rows * d.cols))
        || (d.src == 2 && decide (32 < d.rows ∨ 64 < d.cols))))
    || [d.xAddr, d.idsAddr, d.outAddr, d.carryAddr, d.listAddr].any (fun a => a % 32 != 0)

/-- The stream that the RU takes: its shape, each element's 32 bits (none for an absent term), whether
they are INT32, and the coordinates of position (r, c). -/
structure RuIn where
  rows : Nat
  cols : Nat
  vals : List (Option Nat)
  isInt : Bool
  env : ChainEnv

def RuIn.at (x : RuIn) (r c : Nat) : Option Nat := (x.vals.getD (x.cols * r + c) none)

/-- Results and their terms: one per row, or one per column (axis 1). -/
def RuIn.lines (x : RuIn) (axis : Bool) : List (List (Option Nat)) :=
  if axis then (List.range x.cols).map fun c => (List.range x.rows).map fun r => x.at r c
  else (List.range x.rows).map fun r => (List.range x.cols).map fun c => x.at r c

/-- Coordinates of result i (R189). -/
def RuIn.coord (x : RuIn) (axis : Bool) (i : Nat) : Nat × Nat := if axis then x.env.coord 0 i else x.env.coord i 0

/-- What a reduction leaves: its writes, invalid events, and the state after its free values. -/
structure RuRes where
  stores : List (Nat × Bytes)
  events : Nat
  state : State
  /-- The integer carry record that it read has `sat` set (R60, R284). -/
  sat : Bool

/-! ### SUM -/

/-- The record header of a SUM (R190): the elements are the results. An integer sum's record holds
INT64 prefixes, so its arithmetic is integer wide. -/
def RuDesc.header (d : RuDesc) (x : RuIn) (t : Nat) : RecHdr :=
  let n := (x.lines d.axis).length
  let a := x.coord d.axis 0
  let b := x.coord d.axis (n - 1)
  { t := t, spill := (spillOf d.spill).getD 9, arith := if x.isInt then 2 else 0, sr := d.sr, sat := false, shift := 0,
    seed := d.seed, tensor := d.tensor, uBase := a.1, vBase := a.2, uCount := b.1 - a.1, vCount := b.2 - a.2, level := 0 }

/-- The pending nodes of every result's stack, merged level by level; a node that is absent for some
results only is absent in their elements (DESIGN CHOICE, log entry 60). -/
def mergeStacks (sts : List Stack) : List (Nat × Option NodeArr) :=
  (sts.headD ⟨0, []⟩).pend.zipIdx.map fun ((l, _), k) =>
    let col := sts.map fun st => ((st.pend[k]?).map (·.2)).getD none
    if col.all Option.isNone then (l, none)
    else (l, some (col.map fun a => (a.map (·.headD absentElem)).getD absentElem))

/-- The carry record that a reduction continues, checked by R55. -/
def carryRec (k : Core) (express : Bool) (engine a : Nat) (want : RecHdr) : Except Exn Rec := do
  engRanges k express engine [(a, 32)]
  match RecHdr.parse false (k.lsBytes a 32) with
  | none => throw ⟨xChainMismatch, engine, 0⟩
  | some h =>
    if !h.matches want then throw ⟨xChainMismatch, engine, 0⟩
    engRanges k express engine [(a, h.length)]
    match Rec.parse (k.lsBytes a h.length) with
    | none => throw ⟨xChainMismatch, engine, 0⟩
    | some x => pure x

/-- One result's stack from a record, or an empty one. -/
def stackOf (x : Option Rec) (i : Nat) : Stack :=
  match x with
  | none => ⟨0, []⟩
  | some x => ⟨x.hdr.t, x.stack.pend.map fun p => (p.1, p.2.map fun a => [a.getD i 0])⟩

/-- SUM (R189, R190), on from a carry record where there is one. -/
def ruSum (s : State) (r : Run) (d : RuDesc) (x : RuIn) (rec? : Option Rec) : RuRes :=
  let lines := x.lines d.axis
  let t0 := (rec?.map (·.hdr.t)).getD 0
  let sat := (rec?.map (·.hdr.sat)).getD false
  let len := (lines.headD []).length
  let h := { d.header x (t0 + len) with sat := sat }
  if x.isInt then
    let sums := lines.zipIdx.map fun (l, i) =>
      ((rec?.map fun y => y.ints.getD i 0).getD 0)
        -- a record with `sat` set is passed on without computing (R60)
        + (if sat && r.inGroup then 0 else (l.map fun v => (v.map (bitsInt 32)).getD 0).sum)
    let out := if d.carryOut then [(d.carryAddr, intRecordBytes h sums)]
      else [(d.outAddr, sums.flatMap fun v => natLe 8 (intBits 64 v))]
    ⟨out, 0, s, sat⟩
  else
    let cfg := h.cfg
    let q := (lines.zipIdx.mapM fun (l, i) =>
      Stack.addTerms cfg [x.coord d.axis i] (stackOf rec? i) (l.map fun v => v.map fun w => [toBits64 (fp32.dec w)]) :
        Ar (List Stack)).run 0
    if d.carryOut then
      ⟨[(d.carryAddr, recordBytes h ⟨h.t, mergeStacks q.1⟩)], q.2, s, false⟩
    else
      let f := (q.1.zipIdx.mapM fun (st, i) => do
        let root ← st.finish cfg [x.coord d.axis i]
        pure ((handOff 1 root).headD (.zero false)) : Ar (List FV)).run q.2
      ⟨[(d.outAddr, f.1.flatMap fun v => natLe 4 (fp32.enc v))], f.2, s, false⟩

/-! ### MAX, MIN and TOPK -/

/-- The extreme of a line (R191); none when every term is absent. -/
def extreme (isInt max : Bool) (l : List (Option Nat)) : Option Nat :=
  match l.filterMap id with
  | [] => none
  | a :: r =>
    some (if isInt then intBits 32 (r.foldl (fun m w => if max then Max.max m (bitsInt 32 w) else Min.min m (bitsInt 32 w)) (bitsInt 32 a))
      else fp32.enc (r.foldl (fun m w => if max then FV.maxZ m (fp32.dec w) else FV.minZ m (fp32.dec w)) (fp32.dec a)))

/-- MAX and MIN: one value per line; the extreme of no element is a free value. -/
def ruExtreme (s : State) (d : RuDesc) (x : RuIn) : RuRes :=
  let q := (x.lines d.axis).foldl (fun (acc : Bytes × State) l =>
    match extreme x.isInt (d.op == 1) l with
    | some v => (acc.1 ++ natLe 4 v, acc.2)
    | none =>
      let fr := acc.2.free
      (acc.1 ++ natLe 4 fr.1.toNat, fr.2)) ([], s)
  ⟨[(d.outAddr, q.1)], 0, q.2, false⟩

/-- The order of R192 on (bits, id). -/
def ranksBefore (isInt smallest : Bool) (a b : Nat × Nat) : Bool :=
  let x := fp32.dec a.1
  let y := fp32.dec b.1
  let before := if isInt then
      (if smallest then decide (bitsInt 32 a.1 < bitsInt 32 b.1) else decide (bitsInt 32 b.1 < bitsInt 32 a.1))
    else if x.isNan then false else if y.isNan then true else if smallest then FV.lt x y else FV.lt y x
  let same := if isInt then a.1 == b.1 else (x.isNan && y.isNan) || FV.eq x y
  before || (same && decide (a.2 < b.2))

/-- Inserts a candidate behind those it does not precede, keeping the k first. -/
def insertRank (isInt smallest : Bool) (a : Nat × Nat) : List (Nat × Nat) → List (Nat × Nat)
  | [] => [a]
  | b :: r => if ranksBefore isInt smallest a b then a :: b :: r else b :: insertRank isInt smallest a r

def topOf (isInt smallest : Bool) (k : Nat) (l : List (Nat × Nat)) : List (Nat × Nat) :=
  l.foldl (fun acc a => (insertRank isInt smallest a acc).take k) []

/-- Bytes of a list record (R193). -/
def listLen (k : Nat) : Nat := 32 + roundUp (4 * k) 32 + roundUp (8 * k) 32

/-- A ranked value as it is written: a NaN in its canonical form (R32). -/
def rankBits (isInt : Bool) (v : Nat) : Nat := if isInt then v else fp32.enc (fp32.dec v)

def listBytes (isInt smallest : Bool) (k : Nat) (l : List (Nat × Nat)) : Bytes :=
  let none' := if isInt then 0x80000000 else fp32.nanBits
  natLe 4 l.length ++ natLe 4 k ++ natLe 24 (if smallest then 1 else 0)
    ++ padTo 32 ((List.range k).flatMap fun i => natLe 4 ((l.map fun e => rankBits isInt e.1).getD i none'))
    ++ padTo 32 ((List.range k).flatMap fun i => natLe 8 ((l.map (·.2)).getD i (2 ^ 64 - 1)))

/-- The entries of an input list record; none when its k or `smallest` differs (R193), when its count is above k or when
another header bit is set (DEDUCED, log entry 17). -/
def listEntries (smallest : Bool) (k : Nat) (b : Bytes) : Option (List (Nat × Nat)) :=
  if fieldAt b 4 4 ≠ k ∨ k < fieldAt b 0 4 ∨ fieldAt b 8 24 ≠ (if smallest then 1 else 0) then none
  else some ((List.range (fieldAt b 0 4)).map fun i => (fieldAt b (32 + 4 * i) 4, fieldAt b (32 + roundUp (4 * k) 32 + 8 * i) 8))

/-- Where row i of a TOPK has its index words, each row at the next Crumb (DESIGN CHOICE, log entry 17), and where its
list record. -/
def RuDesc.idsAt (d : RuDesc) (x : RuIn) (i : Nat) : Nat := d.idsAddr + i * roundUp (8 * x.cols) 32
def RuDesc.listAt (d : RuDesc) (i : Nat) : Nat := d.listAddr + i * listLen d.k

/-- TOPK (R192, R193): one list record per row. -/
def ruTopk (k : Core) (s : State) (d : RuDesc) (x : RuIn) : RuRes :=
  let out := (List.range x.rows).map fun row =>
    let cands := (List.range x.cols).filterMap fun col =>
      (x.at row col).map fun v => (v, if d.ids then k.lsNat (d.idsAt x row + 8 * col) 8 else d.indexBase + col)
    let more := if d.listIn then (listEntries d.smallest d.k (k.lsBytes (d.listAt row) (listLen d.k))).getD [] else []
    listBytes x.isInt d.smallest d.k (topOf x.isInt d.smallest d.k (cands ++ more))
  ⟨[(d.outAddr, out.flatMap id)], 0, s, false⟩

/-- What a reduction reads beside its stream: the carry record of a SUM, and each row's index words and input list of
a TOPK. -/
def ruReads (k : Core) (r : Run) (d : RuDesc) (x : RuIn) : Except Exn (Option Rec) := do
  if d.op = 0 ∧ d.carryIn then
    let y ← carryRec k r.express enRu d.carryAddr (d.header x 0)
    pure (some y)
  else if d.op = 3 then do
    (List.range x.rows).forM fun row => do
      if d.ids then engRanges k r.express enRu [(d.idsAt x row, 8 * x.cols)]
      if d.listIn then
        engRanges k r.express enRu [(d.listAt row, listLen d.k)]
        if (listEntries d.smallest d.k (k.lsBytes (d.listAt row) (listLen d.k))).isNone then throw ⟨xRuConfig, enRu, 0⟩
    pure none
  else pure none

/-- The result of a reduction of a stream. -/
def ruCalc (k : Core) (s : State) (r : Run) (d : RuDesc) (x : RuIn) (rec? : Option Rec) : RuRes :=
  if d.op = 0 then ruSum s r d x rec? else if d.op = 3 then ruTopk k s d x else ruExtreme s d x

/-- The reduction of a stream; every write lies in the partition. -/
def ruRun (s : State) (c : Nat) (r : Run) (d : RuDesc) (x : RuIn) : Except Exn RuRes := do
  let rec? ← ruReads (s.core c) r d x
  let q := ruCalc (s.core c) s r d x rec?
  engSpans r.express enRu (q.stores.map fun y => (y.1, y.2.length))
  pure q

def RuRes.apply (q : RuRes) (c : Nat) : State := (q.state.modCore c fun k => k.puts q.stores).evInvalid c q.events

/-- The stream of RED: local store, tile registers or the accumulator tile given; with its invalid events. Its results'
coordinates are the descriptor's for every source (R189). -/
def ruStream (s : State) (c : Nat) (d : RuDesc) (t : Option TreeSet) : RuIn × Nat × State :=
  let k := s.core c
  let env : ChainEnv := { sreg := [], y := [], colVec := [], rowVec := [], transpose := false, u0 := d.uBase, v0 := d.vBase }
  let n := d.rows * d.cols
  match t with
  | some t =>
    let fr := s.frees n
    let q := (tileSource t d.rows d.cols d.inElem.isInt fr.1).run 0
    (⟨d.rows, d.cols, q.1.map some, d.inElem.isInt && t.tag.arith != .fp, env⟩, q.2, fr.2)
  | none =>
    let l := if d.src = 1 then (List.range n).map fun e => (k.telem (d.tFirst + e / 256) (e % 256)).toNat
      else gridFrom k d.inElem d.xAddr d.xStride d.rows d.cols
    (⟨d.rows, d.cols, l.map some, d.inElem.isInt, env⟩, 0, s)

/-- Checks the source of RED: its tile is live, its rows lie in the partition. -/
def ruSource (k : Core) (r : Run) (d : RuDesc) : Except Exn (Option TreeSet) := do
  if d.src = 2 then
    let t ← tileFor k r.express enRu d.accTile
    pure (some t)
  else
    engRanges k r.express enRu (if d.src = 1 then [] else gridRanges d.inElem d.xAddr d.xStride d.rows d.cols)
    pure none

/-- RED: the RU descriptor at Sa. -/
def redInsn (c : CoreIx) (f : XFmt) (s : State) : State :=
  s.issue c.val (f.word 0x5C) (f.ok false true false false false && f.imm == 0) fun s r => do
    let b ← descAt (s.core c.val) r f.a 64 enRu
    let d := RuDesc.parse b
    if d.bad false then throw ⟨xRuConfig, enRu, 0⟩
    let t ← ruSource (s.core c.val) r d
    let src := ruStream s c.val d t
    let q ← ruRun src.2.2 c.val r d src.1
    let done := (q.apply c.val).evInvalid c.val src.2.1
    pure (if q.sat && r.chainLast then (if s.assisted 1 then done else s).satRead c.val enRu (f.word 0x5C) else done.adv c.val)

/-- CHAINRU: chain descriptor at Sa, RU descriptor at Sb; the RU takes every result of the chain, in
the kind of the chain's output, absent where compress mode drops it (R188), with the coordinates of its
own descriptor (R189). -/
def chainruInsn (c : CoreIx) (f : XFmt) (s : State) : State :=
  s.issue c.val (f.word 0x51) (f.ok false true true false false && f.imm == 0) fun s r => do
    let b ← descAt (s.core c.val) r f.a 128 enVe
    let rb ← descAt (s.core c.val) r f.b 64 enRu
    let d := ChainDesc.parse b
    let x ← chainRun s c.val r d
    let g := RuDesc.parse rb
    if g.bad true then throw ⟨xRuConfig, enRu, 0⟩
    let src : RuIn :=
      { rows := d.rows, cols := d.cols, isInt := d.outElem.isInt,
        env := { x.env with transpose := false, u0 := g.uBase, v0 := g.vBase }
        vals := x.results.map fun (v, cb) => if d.outMode = 1 ∧ !cb then none else some v }
    let q ← ruRun x.state c.val r g src
    let done := { x with state := q.apply c.val }.apply c.val d
    pure (if q.sat && r.chainLast then (if s.assisted 1 then done else s).satRead c.val enRu (f.word 0x51) else done.adv c.val)

def execRed (c : CoreIx) (f : XFmt) (s : State) : Out := .next (redInsn c f s)
def execChainru (c : CoreIx) (f : XFmt) (s : State) : Out := .next (chainruInsn c f s)

end Sys2Proof.Machine
end

