-- ==== Sys2Proof/Machine/RowEngine.lean ====
section
/-! DEFINITION. The row engine: ROWOP (R195-R203), and the side-memory transfers STATLD and STATST. -/

namespace Sys2Proof.Machine

/-- The row descriptor (Table 06-11). -/
structure RowDesc where
  op : Nat
  kind : Nat
  inFmt : Nat
  outFmt : Nat
  spill : Nat
  mask : Nat
  first : Bool
  last : Bool
  statLs : Bool
  len : Nat
  rows : Nat
  xStride : Nat
  outStride : Nat
  dyStride : Nat
  statIdx : Nat
  causalOff : Int
  tensor : Nat
  scale : FV
  eps : FV
  segBase : Nat
  xAddr : Nat
  outAddr : Nat
  dyAddr : Nat
  auxAddr : Nat
  maskAddr : Nat
  statAddr : Nat
  reserved : Bool
deriving DecidableEq, Repr

def RowDesc.parse (b : Bytes) : RowDesc :=
  let w := fieldAt b 0 8
  let addr (o : Nat) := bfld b o 4 0 22
  { op := fld w 0 4, kind := fld w 4 2, inFmt := fld w 6 4, outFmt := fld w 10 4, spill := fld w 14 4, mask := fld w 18 2,
    first := bitAt w 20, last := bitAt w 21, statLs := bitAt w 22, len := fieldAt b 8 2 + 1, rows := fieldAt b 10 2 + 1,
    xStride := fieldAt b 12 2, outStride := fieldAt b 14 2, dyStride := fieldAt b 16 2, statIdx := bfld b 16 8 16 13,
    causalOff := bitsInt 32 (fieldAt b 20 4), tensor := fieldAt b 24 4, scale := fp32.dec (fieldAt b 28 4),
    eps := fp32.dec (fieldAt b 32 4), segBase := fieldAt b 36 4, xAddr := addr 40, outAddr := addr 44, dyAddr := addr 48,
    auxAddr := addr 52, maskAddr := addr 56, statAddr := addr 60,
    reserved := fld w 23 41 ≠ 0 || bfld b 16 8 29 3 ≠ 0 || [40, 44, 48, 52, 56, 60].any fun o => bfld b o 4 22 10 ≠ 0 }

/-- The normalisation that the operation performs: 0 softmax, 1 layer norm, 2 RMS norm. -/
def RowDesc.norm (d : RowDesc) : Nat :=
  match d.op with
  | 0 => 0
  | 1 => 1
  | 2 => 2
  | 6 => 0
  | _ => d.kind

def RowDesc.writesRows (d : RowDesc) : Bool := d.op != 3 && d.op != 4
def RowDesc.backward (d : RowDesc) : Bool := d.op == 6 || d.op == 7
/-- A statistic pass whose sum runs across segments: every one but the first pass of softmax. -/
def RowDesc.sums (d : RowDesc) : Bool := d.op == 4 || (d.op == 3 && d.kind != 0)
/-- The operation reads γ, and β after it for layer norm forward. -/
def RowDesc.usesGamma (d : RowDesc) : Bool := d.norm != 0 && d.writesRows
def RowDesc.usesBeta (d : RowDesc) : Bool := d.usesGamma && d.norm == 1 && !d.backward
def RowDesc.bitmap (d : RowDesc) : Bool := d.norm == 0 && d.mask % 2 == 1
def RowDesc.inElem (d : RowDesc) : Elem := (elemOf d.inFmt).getD (.fl fp32)
def RowDesc.outElem (d : RowDesc) : Elem := (elemOf d.outFmt).getD (.fl fp32)

/-- The checks of R197 and R200; every address of the descriptor is aligned, whether or not its operation uses it, the
statistics' to 8 bytes. Operations 0 to 2 and 6 ignore `kind` 0 to 2 (DESIGN CHOICE, log entry 17, both). -/
def RowDesc.bad (d : RowDesc) : Bool :=
  d.reserved || decide (8 ≤ d.op) || d.kind == 3 || decide (3 ≤ d.inFmt ∨ 3 ≤ d.outFmt) || decide (2048 < d.rows)
    || (spillOf d.spill).isNone || (d.op == 7 && d.kind == 0) || (d.op == 4 && d.kind == 2)
    || strideBad d.rows d.xStride (d.inElem.rowBytes d.len)
    || (d.writesRows && strideBad d.rows d.outStride (d.outElem.rowBytes d.len))
    || (d.backward && strideBad d.rows d.dyStride (2 * d.len))
    || [d.xAddr, d.outAddr, d.dyAddr, d.auxAddr].any (fun a => a % 32 != 0) || d.maskAddr % 8 ≠ 0 || d.statAddr % 8 ≠ 0

def RowDesc.sumCfg (d : RowDesc) : SumCfg := ⟨(spillOf d.spill).getD 9, false, 0, d.tensor⟩

/-- A pair of statistics. -/
abbrev Stats := FV × FV

def statOf (w : Word) : Stats := (fp32.dec (fld w.toNat 0 32), fp32.dec (fld w.toNat 32 32))
def statWord (x : Stats) : Word := BitVec.ofNat 64 (fp32.enc x.1 + fp32.enc x.2 * 2 ^ 32)

/-- First side-memory entry and first beyond, of an item's partition (R195). -/
def sideRange (express : Bool) : Nat × Nat := if express then (6144, 8192) else (0, 6144)
def inSide (express : Bool) (i n : Nat) : Bool := decide ((sideRange express).1 ≤ i ∧ i + n ≤ (sideRange express).2)

/-! ### One row -/

/-- A row as the operation sees it: its elements, whether each is masked, the gradients, γ and β. -/
structure RowIn where
  xs : List FV
  masked : List Bool
  dy : List FV
  gamma : List FV
  beta : List FV

/-- Scaled unmasked elements (R198): none where masked. -/
def RowIn.scaled (x : RowIn) (scale : FV) : Ar (List (Option FV)) :=
  (x.xs.zip x.masked).mapM fun (v, m) => if m then pure none else do
    let z ← mul32 v scale
    pure (some z)

/-- The greatest unmasked element; NaN wins; −∞ for none. -/
def maxOf (zs : List (Option FV)) : FV := (zs.filterMap id).foldl FV.maxZ (.inf true)

/-- e = exp(t) for one element and the row's maximum (R198). -/
def expTerm (m z : FV) : Ar FV := do
  let t ← if FV.eq z m then pure (FV.zero false) else sub32 z m
  noted expV t

def expTerms (m : FV) (zs : List (Option FV)) : Ar (List (Option FV)) :=
  zs.mapM fun z => match z with
    | none => pure none
    | some z => do
      let e ← expTerm m z
      pure (some e)

/-- The statistics of a whole softmax row. -/
def softStats (cfg : SumCfg) (zs : List (Option FV)) : Ar Stats :=
  if zs.all Option.isNone then pure (.inf true, .zero false)
  else if (maxOf zs).isNan then pure (.nan, .nan)
  else do
    let es ← expTerms (maxOf zs) zs
    let den ← canonSum cfg 0 0 es
    pure (maxOf zs, den)

/-- The pair that marks an EMPTY row. -/
def emptyStats (t : Stats) : Bool := t.1 == .inf true && t.2.isZero

/-- Softmax outputs from the statistics: EMPTY and NaN rows as R198 decides them. -/
def softOut (t : Stats) (zs : List (Option FV)) : Ar (List FV) :=
  if emptyStats t then pure (zs.map fun _ => .zero false)
  else if t.1.isNan then pure (zs.map fun _ => .nan)
  else do
    let es ← expTerms t.1 zs
    es.mapM fun e => match e with
      | none => pure (.zero false)
      | some e => div32 e t.2

/-- n as FP32. -/
def natFp (n : Nat) : FV := rne32 (.fin false n 0)

def sumAll (cfg : SumCfg) (l : List FV) : Ar FV := canonSum cfg 0 0 (l.map some)

def rstdOf (s2 : FV) (n : Nat) (eps : FV) : Ar FV := do
  let var ← div32 s2 (natFp n)
  let y ← add32 var eps
  rsqrt32 y

/-- Terms of the second sum: squares of the differences from the mean, or of the elements. -/
def squares (norm : Nat) (mean : FV) (xs : List FV) : Ar (List FV) :=
  xs.mapM fun x => do
    let d ← if norm = 1 then sub32 x mean else pure x
    mul32 d d

/-- The statistics of a whole normalised row (R199). -/
def normStats (cfg : SumCfg) (norm : Nat) (eps : FV) (xs : List FV) : Ar Stats := do
  let mean ← if norm = 1 then do
      let s1 ← sumAll cfg xs
      div32 s1 (natFp xs.length)
    else pure (FV.zero false)
  let sq ← squares norm mean xs
  let s2 ← sumAll cfg sq
  let r ← rstdOf s2 xs.length eps
  pure (mean, r)

/-- x̂ of one element (R199, R203). -/
def xhat (norm : Nat) (t : Stats) (x : FV) : Ar FV := do
  let d ← if norm = 1 then sub32 x t.1 else pure x
  mul32 d t.2

def normOut (norm : Nat) (t : Stats) (x : RowIn) : Ar (List FV) :=
  x.xs.zipIdx.mapM fun (v, i) => do
    let h ← xhat norm t v
    let y ← mul32 h (x.gamma.getD i .nan)
    if norm = 1 then add32 y (x.beta.getD i .nan) else pure y

/-- SOFTMAX_BWD (R202). -/
def softBwd (cfg : SumCfg) (t : Stats) (zs : List (Option FV)) (dy : List FV) : Ar (List FV) :=
  if emptyStats t then pure (zs.map fun _ => .zero false)
  else if t.1.isNan then pure (zs.map fun _ => .nan)
  else do
    let ys ← softOut t zs
    let terms ← (zs.zip (ys.zip dy)).mapM fun (z, y, g) => match z with
      | none => pure none
      | some _ => do
        let p ← mul32 y g
        pure (some p)
    let dot ← canonSum cfg 0 0 terms
    (zs.zip (ys.zip dy)).mapM fun (z, y, g) => match z with
      | none => pure (.zero false)
      | some _ => do
        let e ← sub32 g dot
        mul32 y e

/-- NORM_BWD (R203). -/
def normBwd (cfg : SumCfg) (norm : Nat) (t : Stats) (x : RowIn) : Ar (List FV) := do
  let n := natFp x.xs.length
  let hs ← x.xs.mapM (xhat norm t)
  let gs ← (x.dy.zip x.gamma).mapM fun (a, b) => mul32 a b
  let a ← if norm = 1 then do
      let s ← sumAll cfg gs
      div32 s n
    else pure (FV.zero false)
  let ps ← (gs.zip hs).mapM fun (g, h) => mul32 g h
  let s ← sumAll cfg ps
  let b ← div32 s n
  (gs.zip hs).mapM fun (g, h) => do
    let l ← if norm = 1 then sub32 g a else pure g
    let p ← mul32 h b
    let e ← sub32 l p
    mul32 t.2 e

/-! ### The operation -/

/-- Masked positions of row r (R198). -/
def RowDesc.maskRow (d : RowDesc) (k : Core) (r : Nat) : List Bool :=
  let bits := if d.bitmap then bitmapBits k (d.maskAddr + r * bitmapRow d.len) 1 d.len else []
  (List.range d.len).map fun i =>
    d.norm == 0 && ((d.bitmap && !bits.getD i true) || (d.mask / 2 == 1 && decide ((r : Int) + d.causalOff < (d.segBase + i : Nat))))

def RowDesc.rowIn (d : RowDesc) (k : Core) (r : Nat) : RowIn :=
  let elems (e : Elem) (a : Nat) := (e.unpack d.len (k.lsBytes a (e.rowBytes d.len))).map e.fv
  { xs := elems d.inElem (d.xAddr + 32 * r * d.xStride), masked := d.maskRow k r,
    dy := if d.backward then elems (.fl bf16) (d.dyAddr + 32 * r * d.dyStride) else [],
    gamma := if d.usesGamma then elems (.fl fp32) d.auxAddr else [],
    beta := if d.usesBeta then elems (.fl fp32) (d.auxAddr + roundUp (4 * d.len) 32) else [] }

/-- The statistic of row r as it stands. -/
def RowDesc.stat (d : RowDesc) (k : Core) (r : Nat) : Word :=
  if d.statLs then BitVec.ofNat 64 (k.lsNat (d.statAddr + 8 * r) 8) else Tab.get 0 k.side (d.statIdx + r)

def Core.setStat (k : Core) (d : RowDesc) (r : Nat) (w : Word) : Core :=
  if d.statLs then k.engPut (d.statAddr + 8 * r) (natLe 8 w.toNat) else k.setSide (d.statIdx + r) w

/-- What one row of an operation that writes rows gives: outputs, the statistic it writes, and a NaN-row event. -/
def RowDesc.doRow (d : RowDesc) (t : Stats) (x : RowIn) : Ar (List FV × Option Stats × Bool) := do
  let cfg := d.sumCfg
  if d.norm = 0 then
    let zs ← x.scaled d.scale
    match d.op with
    | 0 => do
      let t ← softStats cfg zs
      let y ← softOut t zs
      pure (y, some t, t.1.isNan)
    | 6 => do
      let y ← softBwd cfg t zs x.dy
      pure (y, none, false)
    | _ => do
      let y ← softOut t zs
      pure (y, none, t.1.isNan && d.first)
  else
    match d.op with
    | 7 => do
      let y ← normBwd cfg d.norm t x
      pure (y, none, false)
    | 5 => do
      let y ← normOut d.norm t x
      pure (y, none, false)
    | _ => do
      let t ← normStats cfg d.norm d.eps x.xs
      let y ← normOut d.norm t x
      pure (y, some t, false)

/-- The terms that one row adds in a statistic pass that sums (Table 06-12). -/
def RowDesc.segTerms (d : RowDesc) (t : Stats) (x : RowIn) : Ar (List (Option FV)) :=
  if d.norm = 0 then do
    let zs ← x.scaled d.scale
    expTerms t.1 zs
  else if d.op = 3 ∧ d.norm = 1 then pure (x.xs.map some)
  else do
    let sq ← squares d.norm t.1 x.xs
    pure (sq.map some)

/-- The first pass of softmax: the maximum and the count of unmasked positions (Table 06-12). -/
def RowDesc.segMax (d : RowDesc) (t : Stats) (x : RowIn) : Ar Stats := do
  let zs ← x.scaled d.scale
  let n := natFp (zs.filterMap id).length
  if d.first then pure (maxOf zs, n)
  else do
    let c ← add32 t.2 n
    pure (FV.maxZ t.1 (maxOf zs), c)

/-- The statistic that the last segment of a summing pass writes, from the sum and its count t. -/
def RowDesc.segStat (d : RowDesc) (t : Stats) (sum : FV) (n : Nat) : Ar Stats :=
  if d.norm = 0 then pure (t.1, if t.1.isNan then .nan else if t.2.isZero then .zero false else sum)
  else if d.op = 3 ∧ d.norm = 1 then do
    let m ← div32 sum (natFp n)
    pure (m, t.2)
  else do
    let r ← rstdOf sum n d.eps
    pure (if d.norm = 1 then t.1 else .zero false, r)

/-- The carry record header of a summing pass (R200); its element coordinates begin at 0 (DESIGN CHOICE, log entry 17). -/
def RowDesc.header (d : RowDesc) (t : Nat) : RecHdr :=
  { t := t, spill := (spillOf d.spill).getD 9, arith := 0, sr := false, sat := false, shift := 0, seed := 0,
    tensor := d.tensor, uBase := 0, vBase := 0, uCount := d.rows - 1, vCount := 0, level := 0 }

/-- Local-store ranges that the operation reads and writes, by R197. -/
def RowDesc.reads (d : RowDesc) : List (Nat × Nat) :=
  gridRanges d.inElem d.xAddr d.xStride d.rows d.len
    ++ (if d.backward then gridRanges (.fl bf16) d.dyAddr d.dyStride d.rows d.len else [])
    ++ (if d.usesGamma then [(d.auxAddr, 4 * d.len)] else [])
    ++ (if d.usesBeta then [(d.auxAddr + roundUp (4 * d.len) 32, 4 * d.len)] else [])
    ++ (if d.bitmap then [(d.maskAddr, d.rows * bitmapRow d.len)] else [])

/-- Whether the operation reads the statistic before writing it. -/
def RowDesc.readsStat (d : RowDesc) : Bool :=
  d.op == 5 || d.backward || d.op == 4 || (d.op == 3 && d.kind == 0 && !d.first)

/-- The record from which a summing pass goes on, checked. -/
def rowRec (k : Core) (r : Run) (d : RowDesc) : Except Exn (Option Rec) := do
  if d.first then pure none
  else
    let y ← carryRec k r.express enRwe d.auxAddr (d.header 0)
    if y.hdr.t ≠ d.segBase then throw ⟨xChainMismatch, enRwe, 0⟩
    pure (some y)

/-- A summing pass: its sums go on from the record, and end in the statistics at the last segment or in a record,
whose bytes it names. -/
def rowSum (s : State) (c : Nat) (d : RowDesc) (rec? : Option Rec) : State × Nat :=
  let k := s.core c
  let t := (rec?.map (·.hdr.t)).getD 0 + d.len
  let st (i : Nat) : Stats := statOf (d.stat k i)
  let q := ((List.range d.rows).mapM fun i => do
    let l ← d.segTerms (st i) (d.rowIn k i)
    Stack.addTerms d.sumCfg [(i, 0)] (stackOf rec? i) (l.map fun v => v.map fun w => [toBits64 w]) : Ar (List Stack)).run 0
  if d.last then
    let f := (q.1.zipIdx.mapM fun (x, i) => do
      let root ← x.finish d.sumCfg [(i, 0)]
      d.segStat (st i) ((handOff 1 root).headD (.zero false)) t : Ar (List Stats)).run q.2
    -- a pass that writes only one of the two statistics leaves the bits of the other
    let word (i : Nat) (x : Stats) : Word :=
      let old := (d.stat k i).toNat
      let new := (statWord x).toNat
      if d.op = 4 then BitVec.ofNat 64 (fld old 0 32 + fld new 32 32 * 2 ^ 32)
      else if d.norm = 1 then BitVec.ofNat 64 (fld new 0 32 + fld old 32 32 * 2 ^ 32)
      else BitVec.ofNat 64 new
    let s := s.modCore c fun k => f.1.zipIdx.foldl (fun k (x, i) => k.setStat d i (word i x)) k
    (s.evInvalid c f.2, 0)
  else
    let b := recordBytes (d.header t) ⟨t, mergeStacks q.1⟩
    ((s.modCore c fun k => k.engPut d.auxAddr b).evInvalid c q.2, b.length)

/-- The first statistic pass of softmax. -/
def rowMax (s : State) (c : Nat) (d : RowDesc) : State :=
  let k := s.core c
  let q := ((List.range d.rows).mapM fun i => d.segMax (statOf (d.stat k i)) (d.rowIn k i) : Ar (List Stats)).run 0
  (s.modCore c fun k => q.1.zipIdx.foldl (fun k (x, i) => k.setStat d i (statWord x)) k).evInvalid c q.2

/-- An operation that writes rows, row by row from the local store as it stands at its start. -/
def rowRows (s : State) (c : Nat) (d : RowDesc) : State :=
  let k := s.core c
  let q := ((List.range d.rows).mapM fun i => do
    let y ← d.doRow (statOf (d.stat k i)) (d.rowIn k i)
    let raw ← y.1.mapM (d.outElem.narrow .rne false)
    pure (d.outElem.pack raw, y.2) : Ar (List (Bytes × Option Stats × Bool))).run 0
  let s := s.modCore c fun k => q.1.zipIdx.foldl (fun k (x, i) =>
    let k := k.engPut (d.outAddr + 32 * i * d.outStride) x.1
    match x.2.1 with
    | some t => k.setStat d i (statWord t)
    | none => k) k
  (s.evInvalid c q.2).evNanRow c (q.1.filter fun x => x.2.2).length

/-- ROWOP: the row descriptor at Sa. -/
def rowopInsn (c : CoreIx) (f : XFmt) (s : State) : State :=
  s.issue c.val (f.word 0x5E) (f.ok false true false false false && f.imm == 0) fun s r => do
    let k := s.core c.val
    let b ← descAt k r f.a 64 enRwe
    let d := RowDesc.parse b
    if d.bad then throw ⟨xRowConfig, enRwe, 0⟩
    engSpans r.express enRwe (if d.writesRows then (gridRanges d.outElem d.outAddr d.outStride d.rows d.len) else [])
    if d.statLs then engSpans r.express enRwe [(d.statAddr, 8 * d.rows)]
    else if !inSide r.express d.statIdx d.rows then throw ⟨xSidePartition, enRwe, 0⟩
    engRanges k r.express enRwe d.reads
    if d.readsStat then (if d.statLs then engRead k d.statAddr (8 * d.rows) enRwe else sideRead k d.statIdx d.rows enRwe)
    if d.sums then do
      let rec? ← rowRec k r d
      let q := rowSum s c.val d rec?
      engSpans r.express enRwe (if q.2 = 0 then [] else [(d.auxAddr, q.2)])
      pure (q.1.adv c.val)
    else if d.op = 3 then pure ((rowMax s c.val d).adv c.val)
    else pure ((rowRows s c.val d).adv c.val)

/-! ### Side memory to and from local store -/

/-- The ranges of STATLD and STATST: first entry Sb[12:0], count Sb[26:13]; no entry of count 0. -/
def sideArgs (k : Core) (r : Run) (f : XFmt) : Except Exn (Nat × Nat × Nat) :=
  let w := (k.sreg f.b.toNat).toNat
  let a := (k.sreg f.a.toNat).toNat
  let n := fld w 13 14
  if n ≠ 0 ∧ !inPart r.express a (8 * n) then .error ⟨xLsPartition, enIssue, 0⟩
  else if n ≠ 0 ∧ !inSide r.express (fld w 0 13) n then .error ⟨xSidePartition, enIssue, 0⟩
  else .ok (a, fld w 0 13, n)

/-- STATLD: side-memory entries from local store; not issued while the LSU has 64 operations outstanding (R226). -/
def statldInsn (c : CoreIx) (f : XFmt) (s : State) : State :=
  s.issue c.val (f.word 0x67) (f.ok false true true false false && f.imm == 0) fun s r => do
    if 64 ≤ s.lsuCount c.val then return s
    let k := s.core c.val
    let x ← sideArgs k r f
    if x.2.2 ≠ 0 then engRead k x.1 (8 * x.2.2) enLsu
    pure ((s.modCore c.val fun k => (List.range x.2.2).foldl (fun k i =>
      k.setSide (x.2.1 + i) (BitVec.ofNat 64 (k.lsNat (x.1 + 8 * i) 8))) k).adv c.val)

/-- STATST: side-memory entries to local store. -/
def statstInsn (c : CoreIx) (f : XFmt) (s : State) : State :=
  s.issue c.val (f.word 0x68) (f.ok false true true false false && f.imm == 0) fun s r => do
    if 64 ≤ s.lsuCount c.val then return s
    let k := s.core c.val
    let x ← sideArgs k r f
    sideRead k x.2.1 x.2.2 enLsu
    pure ((s.modCore c.val fun k => k.engPut x.1 ((List.range x.2.2).flatMap fun i => natLe 8 (Tab.get 0 k.side (x.2.1 + i)).toNat)).adv c.val)

def execRowop (c : CoreIx) (f : XFmt) (s : State) : Out := .next (rowopInsn c f s)
def execStatld (c : CoreIx) (f : XFmt) (s : State) : Out := .next (statldInsn c f s)
def execStatst (c : CoreIx) (f : XFmt) (s : State) : Out := .next (statstInsn c f s)

end Sys2Proof.Machine
end

