-- ==== Sys2Proof/Machine/Lsu.lean ====
section
/-! DEFINITION. The load/store unit: requests and response words (R215-R217), XFER, PAIRST, HLD, HST, PASS, chain arrival and SCONSUME. -/

namespace Sys2Proof.Machine

/-! Response status codes (Table 07-6). -/
def rsOk := 0x00
def rsBadDescriptor := 0x01
def rsTableInvalid := 0x02
def rsTableReadonly := 0x03
def rsChainMismatch := 0x04
def rsSortOverflow := 0x05
def rsRankMissing := 0x06
def rsGraphInvalid := 0x07
def rsGraphReadonly := 0x08
def rsNuOverflow := 0x09
def rsNuAborted := 0x0A
def rsHostFault := 0x0B
def rsPortLost := 0x0C

/-! ### Requests -/

def State.reqOf (s : State) (c id : Nat) : Option LsuReq := (s.core c).lsu.find? fun q => q.id == id
def State.modReq (s : State) (c id : Nat) (f : LsuReq → LsuReq) : State :=
  s.modCore c fun k => { k with lsu := updWhere (fun q => q.id == id) f k.lsu }

def Run.setEffect (r : Run) (q : LsuReq) (v : Nat) : Run :=
  match q.effect with
  | some j => if r.item = q.item then { r with effects := r.effects.set j v } else r
  | none => r

/-- Applies an update to the run of an item on a core, running or pre-empted. -/
def Core.modRunOf (k : Core) (id : ItemId) (f : Run → Run) : Core :=
  { k with run := k.run.map fun r => if r.item = id then f r else r
           saved := k.saved.map fun v => if v.run.item = id then { v with run := f v.run } else v }

/-- The response word (Table 07-5). -/
def respWord (status count : Nat) : Nat := 1 + status * 256 + count * 65536

/-- A request completes: its response word is written once, and an item that only waited for it ends. -/
def State.respond (s : State) (c : Nat) (q : LsuReq) (status count : Nat) : State :=
  (s.modCore c fun k =>
    let k := { k with lsu := k.lsu.filter fun x => x.id != q.id }
    let k := k.engPut q.resp (natLe 8 (respWord status count))
    k.modRunOf q.item fun r => r.setEffect q (status + 256 * count)).tryEnd c

/-- A host access of a request. -/
def AccWhy.isReq (w : AccWhy) (c id : Nat) : Bool :=
  match w with
  | .xfer k i => k == c && i == id
  | .tierH k i => k == c && i == id
  | _ => false

/-- A request whose effect is carried out waits for its page writes, host accesses and other devices. -/
def State.reqWaits (s : State) (c : Nat) (q : LsuReq) : Bool :=
  !q.served || !q.prog.asks.isEmpty || (s.flashWrites.any fun w => w.core == some (c, q.id))
    || s.accs.any fun a => a.why.isReq c q.id

/-- Completes a request that waits for nothing more. -/
def State.settleReq (s : State) (c id : Nat) : State :=
  match s.reqOf c id with
  | some q => if s.reqWaits c q then s else s.respond c q q.status q.count
  | none => s

/-- Completes every request that waits for nothing more, and ends the items that only waited. -/
def State.settleReqs (s : State) : State :=
  (s.cores.map (·.1)).foldl (fun s c =>
    (((s.core c).lsu.map (·.id)).foldl (fun s id => s.settleReq c id) s).tryEnd c) s

/-- A transfer or pair store names memory of a hub that restarts or is held (R433, R437), or a transfer writes to the
host while its port's write queue is full (R361): it waits. -/
def State.lsuHeld (s : State) (p : Nat) (kind : ReqKind) (block : Bytes) : Bool :=
  let at8 (o : Nat) : Bool := match windowOf (fieldAt block o 8) with
    | some (u, _) => decide (8 ≤ u ∧ u < 12) && !s.fnUp 3 (u % 2)
    | none => false
  match kind with
  | .xfer => if bfld block 0 8 0 2 < 2 then at8 8 else bfld block 0 8 0 2 == 3 && s.writesFull p
  | .pairst => at8 0
  | .sift => false
  | .nu => false
  | .pass => false

/-- Issues SIFT, NUREQ, XFER or PAIRST: block at Sa, response word at Sb, written as zero (R215, R230).
An instruction that finds 64 operations outstanding does not issue. -/
def lsuIssue (op len : Nat) (kind : ReqKind) (c : CoreIx) (f : XFmt) (s : State) (body : State → Run → LsuReq → Eff) : State :=
  s.issue c.val (f.word op) (f.ok false true true false false && f.imm == 0) fun s r => do
    if 64 ≤ s.lsuCount c.val then pure s
    else
      let k := s.core c.val
      let b := (k.sreg f.a.toNat).toNat
      let w := (k.sreg f.b.toNat).toNat
      if b % 32 ≠ 0 ∨ w % 8 ≠ 0 then throw ⟨xMisaligned, enIssue, 0⟩
      if !inPart r.express b len || !inPart r.express w 8 then throw ⟨xLsPartition, enIssue, 0⟩
      engRead k b len enLsu
      if s.lsuHeld r.port kind (k.lsBytes b len) then return s
      let q : LsuReq :=
        { id := k.nextReq, kind := kind, block := k.lsBytes b len, resp := w, cls := r.cls, port := r.port, ring := r.ring,
          item := r.item, version := false, split := 0, status := 0, count := 0, served := false, moved := 0, prog := {},
          effect := none }
      let s := (s.modCore c.val fun k =>
        { k.engPut w (natLe 8 0) with lsu := k.lsu ++ [q], nextReq := k.nextReq + 1 }).adv c.val
      body s r q

/-- Makes a request an effect operation (R283): either its state with the request marked, or, for one
that an earlier run carried out, the state after the repeated response. -/
def State.asEffect (s : State) (c : Nat) (r : Run) (q : LsuReq) : State × Option LsuReq :=
  match s.effectOp c 0 with
  | (some v, s) => (s.respond c q (v % 256) (v / 256), none)
  | (none, s) =>
    let q := { q with effect := some r.effects.length }
    (s.modReq c q.id fun _ => q, some q)

/-! ### XFER (R209) -/

structure XferDesc where
  dir : Nat
  crumbs : Nat
  addr : Nat
  ls : Nat
  bad : Bool
deriving DecidableEq, Repr

def XferDesc.parse (b : Bytes) : XferDesc :=
  let w := fieldAt b 0 8
  let a := fieldAt b 8 8
  let l := fieldAt b 16 4
  { dir := fld w 0 2, crumbs := fld w 4 17 + 1, addr := a, ls := fld l 0 22,
    bad := fld w 2 2 ≠ 0 || fld w 21 43 ≠ 0 || fld l 22 10 ≠ 0 || !zeroRange b 20 44 || a % 32 ≠ 0 || fld l 0 22 % 32 ≠ 0 }

/-- Copies device Crumbs to local store, poison with them (R428). -/
def State.fillLs (s : State) (c la a n : Nat) : State :=
  (List.range n).foldl (fun s i =>
    let d := s.dread (a + 32 * i) 32
    s.modCore c fun k => k.poisonPut (la + 32 * i) d.1 d.2) s

/-- A read of device memory by an LSU: through the die cache or, in a Sifter region, around it. -/
def State.devToLs (s : State) (c : Nat) (express : Bool) (k : Kind) (la a n : Nat) : State :=
  ((s.memRead express k a (32 * n)).2).fillLs c la a n

/-- Length of the next host request from address a: at most lim bytes, within one 4 KiB block. -/
def hostChunk (a left lim : Nat) : Nat := min left (min lim (4096 - a % 4096))

def State.maxRead (s : State) (p fn : Nat) : Nat := min (s.fnc p fn).mrrs 4096

/-- The function and PASID of a ring's host accesses (R369). -/
def State.ringHost (s : State) (r : Nat) : Nat × Option (BitVec 20) := (s.ringFn r, (s.ring r).pasid)

/-- Goes on with a transfer from the host: Crumbs that whole cached lines hold are taken from them,
the rest are read in ascending order, one request at a time, and the translations of up to 16 pages are asked
ahead (R322, R381). -/
def State.xferIn (s : State) (c id : Nat) : Nat → State
  | 0 => s
  | fuel + 1 =>
    match s.reqOf c id with
    | none => s
    | some q =>
      let d := XferDesc.parse q.block
      let left := 32 * (d.crumbs - q.moved)
      if left = 0 then s.respond c q rsOk d.crumbs
      else
        let h := s.ringHost q.ring
        let a := d.addr + 32 * q.moved
        let n := hostChunk a left (s.maxRead q.port h.1)
        if s.hostGone q.ring then s.respond c q rsPortLost q.moved
        else
          match s.hostCached q.port a n with
          | some b =>
            let s := (s.hostTouch q.port a n).lsWrite c (d.ls + 32 * q.moved) b
            (s.modReq c id fun q => { q with moved := q.moved + n / 32 }).xferIn c id fuel
          | none => (s.hostStart q.port h.1 h.2 a n .read (.xfer c id) q.item).askAhead q.port h.1 h.2 a (a + left - 1)

/-- The writes of a transfer to the host: up to MPS each, Relaxed Ordering set (Table 12-6). -/
def State.xferOutFrom (s : State) (c : Nat) (q : LsuReq) (a : Nat) (d : Bytes) : Nat → State
  | 0 => s
  | fuel + 1 =>
    if d.isEmpty then s
    else
      let h := s.ringHost q.ring
      let n := hostChunk a d.length (s.fnc q.port h.1).mps
      let s := (s.hostInvalidate q.port a n).hostStart q.port h.1 h.2 a n (.write (d.take n) true) (.xfer c q.id) q.item
      s.xferOutFrom c q (a + n) (d.drop n) fuel

/-- Carries an XFER out, its block checked. -/
def State.xferRun (s : State) (c : Nat) (q : LsuReq) (d : XferDesc) (express : Bool) : State :=
  let n := 32 * d.crumbs
  if d.dir < 2 then
    match s.reach q.port d.addr n with
    | none => (s.ringAccess q.port q.ring d.addr accRange).respond c q rsBadDescriptor 0
    | some (k, u) =>
      if d.dir = 0 then (s.devToLs c express k d.ls d.addr d.crumbs).respond c q rsOk d.crumbs
      else if unitTier u = 2 then
        if d.addr % 4096 ≠ 0 ∨ n % 4096 ≠ 0 then s.respond c q rsBadDescriptor 0
        else
          let s := (if k = .general then s.linesWrite (some c) express d.addr n else s).flashPut d.addr ((s.core c).lsBytes d.ls n) (some (c, q.id))
          (s.modReq c q.id fun q => { q with served := true, count := d.crumbs }).settleReq c q.id
      else (s.memWrite (some c) express k d.addr ((s.core c).lsBytes d.ls n)).respond c q rsOk d.crumbs
  else if d.dir = 2 then s.xferIn c q.id (d.crumbs + 1)
  else if s.hostGone q.ring then s.respond c q rsPortLost 0
  else
    let s := s.xferOutFrom c q d.addr ((s.core c).lsBytes d.ls n) (d.crumbs + 1)
    (s.modReq c q.id fun q => { q with served := true, count := d.crumbs }).settleReq c q.id

def xferInsn (c : CoreIx) (f : XFmt) (s : State) : State :=
  lsuIssue 0x62 64 .xfer c f s fun s r q => do
    let d := XferDesc.parse q.block
    if d.bad then pure (s.respond c.val q rsBadDescriptor 0)
    else
      if !inPart r.express d.ls (32 * d.crumbs) then throw ⟨xLsPartition, enLsu, 0⟩
      if d.dir % 2 = 0 then pure (s.xferRun c.val q d r.express)
      else
        engRead (s.core c.val) d.ls (32 * d.crumbs) enLsu
        match s.asEffect c.val r q with
        | (s, some q) => pure (s.xferRun c.val q d r.express)
        | (s, none) => pure s

/-! ### PAIRST (R153, R154, R210) -/

/-- A weight pair's header and shape. -/
structure PairHdr where
  elem : Elem
  k : Nat
  n : Nat
  colOff : Nat
  gen : Nat
deriving DecidableEq, Repr

/-- Row sizes in Crumbs of the two copies (R153). -/
def PairHdr.rc (h : PairHdr) : Nat := ceilDiv (h.n * h.elem.bits) 256
def PairHdr.cc (h : PairHdr) : Nat := ceilDiv (h.k * h.elem.bits) 256

def PairHdr.parse (b : Bytes) : Option PairHdr :=
  let f := fieldAt b 0 2
  match elemOf f with
  | none => none
  | some e =>
    let h : PairHdr := ⟨e, fieldAt b 2 4 + 1, fieldAt b 6 4 + 1, fieldAt b 10 8, fieldAt b 18 4⟩
    if f = 0 ∨ 6 < f ∨ !zeroRange b 22 10 ∨ h.colOff < 1 + h.k * h.rc then none else some h

/-- Writes the n elements of a packed row at a device address: whole bytes, and for an odd INT4 end
only the element's half of the last byte. -/
def State.putElems (s : State) (src : Nat) (express : Bool) (e : Elem) (a first : Nat) (raw : List Nat) : State :=
  let lo := first * e.bits / 8
  let len := ceilDiv ((first + raw.length) * e.bits) 8 - lo
  let old := (s.dread (a + lo) len).1
  let head := if e.bits = 4 ∧ first % 2 = 1 then [fld (old.headD 0).toNat 0 4] else []
  let tail := if e.bits = 4 ∧ (first + raw.length) % 2 = 1 then [fld (old.getLastD 0).toNat 4 4] else []
  s.memWrite (some src) express .general (a + lo) (e.pack (head ++ raw ++ tail))

/-- The pair store: both copies from the same values, then the generation count. -/
def State.pairStore (s : State) (c : Nat) (express : Bool) (a : Nat) (h : PairHdr) (k0 : Nat) (rows : List (List Nat)) : State :=
  let s := rows.zipIdx.foldl (fun s (r, i) => s.putElems c express h.elem (a + 32 * (1 + (k0 + i) * h.rc)) 0 r) s
  let s := (List.range h.n).foldl (fun s j =>
    s.putElems c express h.elem (a + 32 * (h.colOff + j * h.cc)) k0 (rows.map fun r => r.getD j 0)) s
  s.memWrite (some c) express .general (a + 18) (natLe 4 (h.gen + 1))

/-- General memory of tiers 0 and 1 that the port claims; tier 2 is not written this way (R316). -/
def State.pairRange (s : State) (p a n : Nat) : Bool :=
  match s.reach p a n with
  | some (.general, u) => unitTier u != 2
  | _ => false

/-- PAIRST (R153, R210). Bits of the block that hold no field (bytes 8-11 [31:22], 14-15, 24-31), of which R210 says nothing, give
`BAD_DESCRIPTOR` when set (DESIGN CHOICE, log entry 19). -/
def pairstInsn (c : CoreIx) (f : XFmt) (s : State) : State :=
  lsuIssue 0x66 32 .pairst c f s fun s r q => do
    let b := q.block
    let a := fieldAt b 0 8
    let ls := bfld b 8 4 0 22
    let stride := fieldAt b 12 2
    let k0 := fieldAt b 16 4
    let n := fieldAt b 20 4
    let bad := s.respond c.val q rsBadDescriptor 0
    if bfld b 8 4 22 10 ≠ 0 ∨ fieldAt b 14 2 ≠ 0 ∨ !zeroRange b 24 8 ∨ n = 0 ∨ a % 32 ≠ 0 ∨ ls % 32 ≠ 0 then pure bad
    else if !s.pairRange r.port a 32 then pure ((s.ringAccess r.port r.ring a accRange).respond c.val q rsBadDescriptor 0)
    else
      match PairHdr.parse (s.dread a 32).1 with
      | none => pure bad
      | some h =>
        if h.k < k0 + n ∨ stride < h.rc then pure bad
        else if !s.pairRange r.port a (32 * (1 + h.k * h.rc)) || !s.pairRange r.port (a + 32 * h.colOff) (32 * h.n * h.cc) then
          pure ((s.ringAccess r.port r.ring a accRange).respond c.val q rsBadDescriptor 0)
        else
          let len := h.elem.rowBytes h.n
          if !inPart r.express ls (rowsExtent n stride len) then throw ⟨xLsPartition, enLsu, 0⟩
          (List.range n).forM fun i => engRead (s.core c.val) (ls + 32 * i * stride) len enLsu
          match s.asEffect c.val r q with
          | (s, none) => pure s
          | (s, some q) =>
            let rows := (List.range n).map fun i => h.elem.unpack h.n ((s.core c.val).lsBytes (ls + 32 * i * stride) len)
            let s := (s.memRead r.express .general a 32).2
            pure ((s.pairStore c.val r.express a h k0 rows).respond c.val q rsOk 0)

/-! ### HLD and HST -/

/-- HLD: Sd = the host word at Sa. Issue holds until the data returns. -/
def hldInsn (c : CoreIx) (f : XFmt) (s : State) : State :=
  s.issue c.val (f.word 0x63) (f.ok true true false false false && f.imm == 0) fun s r =>
    if 64 ≤ s.lsuCount c.val then .ok s
    else
      let a := ((s.core c.val).sreg f.a.toNat).toNat
      let h := s.ringHost r.ring
      if s.hostGone r.ring then
        .ok (((s.modCore c.val fun k => k.setS f.d.toNat (BitVec.allOnes 64)).modRun c.val fun r => { r with hostFault := true }).adv c.val)
      else
        match s.hostCached r.port a 8 with
        | some b => .ok (((s.hostTouch r.port a 8).modCore c.val fun k => k.setS f.d.toNat (BitVec.ofNat 64 (leNat b))).adv c.val)
        | none => .ok ((s.stallFor c.val .hostRead).hostStart r.port h.1 h.2 a 8 .read (.hld c.val f.d.toNat) r.item)

/-- HST: the host word at Sa = Sb; a posted write with Relaxed Ordering clear. It waits while its port's write queue is full (R361). -/
def hstInsn (c : CoreIx) (f : XFmt) (s : State) : State :=
  s.issue c.val (f.word 0x64) (f.ok false true true false false && f.imm == 0) fun s r =>
    if 64 ≤ s.lsuCount c.val || s.writesFull r.port then .ok s
    else
      let k := s.core c.val
      let a := (k.sreg f.a.toNat).toNat
      let h := s.ringHost r.ring
      match s.effectOp c.val 0 with
      | (some _, s) => .ok (s.adv c.val)
      | (none, s) =>
        if s.hostGone r.ring then .ok (s.adv c.val)
        else .ok (((s.adv c.val).hostInvalidate r.port a 8).hostStart r.port h.1 h.2 a 8
          (.write (natLe 8 (k.sreg f.b.toNat).toNat) false) (.hst c.val) r.item)

/-! ### Chain passes (R157, R158, R160, R223) -/

/-- PASS: the block, at issue, on its way to every core of the range but the source (R157, R223) that the
item's port claims for its class (R26). -/
def passInsn (c : CoreIx) (f : XFmt) (s : State) : State :=
  s.issue c.val (f.word 0x65) (f.ok false true true true false && f.imm == 0) fun s r => do
    if 64 ≤ s.lsuCount c.val then return s
    let k := s.core c.val
    let a := (k.sreg f.a.toNat).toNat
    let b := (k.sreg f.b.toNat).toNat
    let src := fld a 0 22
    let dst := fld a 22 22
    let n := fld a 44 15 + 1
    let lo := fld b 0 4
    let hi := fld b 4 4
    let flagAt := fld b 32 22
    if hi < lo then throw ⟨xIllegalOp, enIssue, 0⟩
    if src % 32 ≠ 0 ∨ dst % 32 ≠ 0 ∨ (bitAt b 8 ∧ flagAt % 8 ≠ 0) then throw ⟨xMisaligned, enIssue, 0⟩
    if !inPart r.express src (32 * n) || !inPart r.express dst (32 * n) || (bitAt b 8 && !inPart r.express flagAt 8) then
      throw ⟨xLsPartition, enIssue, 0⟩
    engRead k src (32 * n) enLsu
    let p : Pass := { dst := dst, crumbs := (List.range n).map fun i => k.lsBytes (src + 32 * i) 32,
                      flag := if bitAt b 8 then some (flagAt, k.sreg f.c.toNat) else none }
    let dests := (rangeFrom (c.val / 16 * 16 + lo) (hi - lo + 1)).filter fun i => i != c.val && s.corePort r.cls i == r.port
    pure ((dests.foldl (fun s i => s.modCore i fun k => { k with passes := k.passes ++ [p] }) s).adv c.val)

/-- Crumbs arrive at a core, passes under way taking turns Crumb by Crumb (R158); each advances the
arrival counter, and a pass's flag follows its last Crumb. -/
def Core.arrive (k : Core) : Nat → Core
  | 0 => k
  | n + 1 =>
    match k.passes with
    | [] => k
    | p :: rest =>
      match p.crumbs with
      | [] => k
      | b :: more =>
        let k := k.engPut p.dst b
        let k := { k with chainCount := k.chainCount + 1 }
        if more.isEmpty then
          let k := match p.flag with
            | some (a, v) => k.engPut a (natLe 8 v.toNat)
            | none => k
          ({ k with passes := rest } : Core).arrive n
        else ({ k with passes := rest ++ [{ p with dst := p.dst + 32, crumbs := more }] } : Core).arrive n

def chainPassArrival (c : CoreIx) (n : Nat) (s : State) : State :=
  if s.running && s.clusterUp c.val then s.modCore c.val fun k => k.arrive n else s

/-! ### SCONSUME (R290, R291) -/

/-- Consumption of the oldest generation that has Crumbs to consume, clamped to its delivered count. -/
def consumeGen (n : Nat) : List Gen → List Gen
  | [] => []
  | g :: r => if g.started then { g with consumed := min (g.consumed + n) g.delivered } :: r else g :: consumeGen n r

/-- Cause codes of a `STREAM` entry: over-consumption, and a stream of another core (PRESUMED, log entry 9). -/
def strOver := 1
def strOther := 2

def sconsumeInsn (c : CoreIx) (f : XFmt) (s : State) : State :=
  s.issue c.val (f.word 0x69) (f.ok false true true false false && f.imm == 0) fun s r =>
    if 64 ≤ s.lsuCount c.val then .ok s else
    let k := s.core c.val
    let st := (k.sreg f.a.toNat).toNat % 65536
    let n := (k.sreg f.b.toNat).toNat
    let s := s.adv c.val
    if st / 4 ≠ c.val ∨ s.streamPort st ≠ r.port then .ok (s.report (lgCluster (c.val / 16)) [r.port] eStream c.val st strOther)
    else
      let beyond := match (s.strm st).current with
        | some g => decide (g.delivered < g.consumed + n)
        | none => decide (0 < n)
      let s := if beyond then s.report (lgCluster (c.val / 16)) [r.port] eStream c.val st strOver else s
      .ok ((s.modStrm st fun t => { t with gens := consumeGen n t.gens }).dropGens st)

def execXfer (c : CoreIx) (f : XFmt) (s : State) : Out := .next (xferInsn c f s)
def execPairst (c : CoreIx) (f : XFmt) (s : State) : Out := .next (pairstInsn c f s)
def execHld (c : CoreIx) (f : XFmt) (s : State) : Out := .next (hldInsn c f s)
def execHst (c : CoreIx) (f : XFmt) (s : State) : Out := .next (hstInsn c f s)
def execPass (c : CoreIx) (f : XFmt) (s : State) : Out := .next (passInsn c f s)
def execChainPassArrival (c : CoreIx) (n : Nat) (s : State) : Out := .next (chainPassArrival c n s)
def execSconsume (c : CoreIx) (f : XFmt) (s : State) : Out := .next (sconsumeInsn c f s)

end Sys2Proof.Machine
end

