-- ==== Sys2Proof/Machine/Net.lean ====
section
/-! DEFINITION. Packets and messages between devices (chapter 11): wire layout, routes, classes, the MG outbox, requests and their answers. -/

namespace Sys2Proof.Machine

/-! Traffic classes (R335). -/
def clMg := 0
def clRq := 1
def clRs := 2
def clRd := 3
def clBc := 4
def clLk := 5

/-- Length of a packet in 8-byte units: header, body and trailer (R333). -/
def Packet.units (p : Packet) : Nat := 3 + ceilDiv p.body.length 8

def Packet.headBytes (p : Packet) (hops : Nat) : Bytes :=
  natLe 8 (p.kind + p.cls * 2 ^ 4 + (p.units - 1) * 2 ^ 7 + p.src * 2 ^ 16 + p.dst * 2 ^ 28 + hops * 2 ^ 40 + (if p.last then 2 ^ 42 else 0))
    ++ natLe 8 p.info.toNat

/-- The packet on the wire (Table 11-3). -/
def Packet.bytes (p : Packet) : Bytes :=
  let b := padTo 8 p.body
  p.headBytes p.hops ++ b ++ natLe 4 (crc32 (p.headBytes 0 ++ b)) ++ List.replicate 4 0#8

/-- Length in units that the header at the front of a byte string gives, when one can stand there. -/
def headUnits (b : Bytes) : Option Nat :=
  let n := bfld b 0 8 7 9 + 1
  if b.length < 8 ∨ n < 3 ∨ 259 < n then none else some n

/-- Why a packet is discarded (Table 14-5 `LINK_DISCARD`), in the order the table names the causes. -/
def dcCrc := 1
def dcReserved := 2
def dcHops := 3
def dcRoute := 4

/-- Kinds that Table 11-4 names for a class. -/
def kindOk (cls kind : Nat) : Bool :=
  match cls with
  | 0 => decide (1 ≤ kind ∧ kind ≤ 7) || kind == 15
  | 1 => decide (1 ≤ kind ∧ kind ≤ 6) || kind == 15
  | 2 => decide (1 ≤ kind ∧ kind ≤ 4) || kind == 14 || kind == 15
  | 3 => decide (1 ≤ kind ∧ kind ≤ 3) || kind == 15
  | 4 => kind == 1 || kind == 3 || kind == 15
  | 5 => kind == 1 || kind == 2
  | _ => false

/-- Bits of `info` that a kind uses (Table 11-10). -/
def infoMask (cls kind : Nat) : Nat :=
  if cls = clLk then 0
  else if kind = 15 ∨ (cls = clRs ∧ kind = 14) then 2 ^ 32 - 1
  else if cls = clMg then
    let m := (2 ^ 16 - 1) <<< 48
    if kind ≤ 3 then m ||| (2 ^ 48 - 1)
    else if kind ≤ 5 then m ||| (2 ^ 26 - 1)
    else if kind = 6 then m ||| (2 ^ 28 - 1)
    else 2 ^ 16 - 1
  else if cls = clRq ∨ (cls = clRs ∧ kind ≤ 2) then 2 ^ 33 - 1
  else if cls = clRd ∧ kind = 2 then 2 ^ 12 - 1
  else 2 ^ 24 - 1

/-- Reads a whole packet of n units: the packet, and why it is discarded, if it is (R334). -/
def Packet.parse (b : Bytes) (n : Nat) : Packet × Nat :=
  let w := fieldAt b 0 8
  let p : Packet := { kind := fld w 0 4, cls := fld w 4 3, src := fld w 16 12, dst := fld w 28 12, hops := fld w 40 2,
                      last := bitAt w 42, info := BitVec.ofNat 64 (fieldAt b 8 8), body := slice b 16 (8 * n - 24) }
  let crc := fieldAt b (8 * n - 8) 4
  (p,
    if crc ≠ crc32 (natLe 8 (w - fld w 40 2 * 2 ^ 40) ++ slice b 8 (8 * n - 16)) then dcCrc
    else if fld w 43 21 ≠ 0 ∨ p.hops = 3 ∨ !kindOk p.cls p.kind ∨ p.info.toNat &&& infoMask p.cls p.kind ≠ p.info.toNat
        ∨ fieldAt b (8 * n - 4) 4 ≠ 0 ∨ (p.cls = clLk ∧ p.dst ≠ 0) then dcReserved
    else 0)

/-! ### Routes (R340-R342) -/

def LinkSt.gone : LinkSt → Bool
  | .down => true
  | .lost => true
  | .training => false
  | .active => false
  | .reinit => false
  | .held => false

/-- The link that traffic for a device takes. -/
def State.routeOf (s : State) (d : Nat) : Option Nat :=
  if s.podTable.contains d then
    let there (l : Nat) : Bool := (s.link l).peerValid && (s.link l).peerId == d
    -- a link that re-initialises or is held keeps its traffic waiting (R332, R439)
    ((List.range 36).find? fun l => there l && (s.link l).st == .active).orElse fun _ =>
      (List.range 36).find? fun l => there l && ((s.link l).st == .reinit || (s.link l).st == .held)
  else
    let e := s.entry16 0x31000 d
    let usable (l : Nat) : Bool := decide (l < 36) && !(s.link l).st.gone
    if !bitAt e 13 then none
    else if usable (fld e 0 6) then some (fld e 0 6)
    else if bitAt e 12 && usable (fld e 6 6) then some (fld e 6 6)
    else none

/-- A discarded packet is counted and logged (R334, R342). -/
def State.discard (s : State) (l cause : Nat) : State :=
  (s.modLink l fun k => { k with discards := k.discards + 1 }).report lgLinks [0, 1] eLinkDiscard l l cause

/-- The link number that a `LINK_DISCARD` entry names when no link carries the traffic. -/
def noLink := 63

/-- Releases a packet toward its destination; one with no route is discarded. -/
def State.release (s : State) (p : Packet) : State :=
  match s.routeOf p.dst with
  | some l => s.modLink l fun k => { k with txq := k.txq ++ [p] }
  | none => s.report lgLinks [0, 1] eLinkDiscard noLink noLink dcRoute

/-- Cuts a message body into packet bodies of at most 2,048 bytes. -/
def chunksOf : Nat → Bytes → List Bytes
  | 0, _ => []
  | n + 1, b => if b.length ≤ 2048 then [b] else b.take 2048 :: chunksOf n (b.drop 2048)

/-- The packets of a message of one kind (R334). -/
def messagePackets (src dst cls kind : Nat) (info : Word) (body : Bytes) : List Packet :=
  let bs := chunksOf (body.length / 2048 + 1) (padTo 8 body)
  bs.zipIdx.map fun (b, i) =>
    { kind := kind, cls := cls, src := src, dst := dst, hops := 0, last := i + 1 == bs.length, info := info, body := b }

/-- Releases the BC packets that wait and find no message of another channel under way to their device: the packets of one
message go one after another (R334). -/
def State.bcPump (s : State) : Nat → State
  | 0 => s
  | n + 1 =>
    match s.bcQ.find? fun x => (Tab.get none s.bcNow x.2.dst).all (· == x.1) with
    | some x => ({ s with bcQ := s.bcQ.erase x, bcNow := Tab.put none s.bcNow x.2.dst (if x.2.last then none else some x.1) }.release x.2).bcPump n
    | none => s

/-- Sends BC packets of a local channel. -/
def State.bcSend (s : State) (ch : Nat) (ps : List Packet) : State :=
  { s with bcQ := s.bcQ ++ ps.map fun p => (ch, p) }.bcPump (s.bcQ.length + ps.length)

/-- Sends a message: of class BC behind a message of another channel that is under way to the same device. -/
def State.sendMsg (s : State) (dst cls kind : Nat) (info : Nat) (body : Bytes) : State :=
  let ps := messagePackets s.devId dst cls kind (BitVec.ofNat 64 info) body
  if cls = clBc then s.bcSend (if kind = 15 then 4096 else fld info 12 12) ps else ps.foldl State.release s

/-! ### MG messages (R358, R362) -/

def State.mgFree (s : State) (d : Nat) : Bool := decide ((s.mgOut.filter fun x => x.1 == d).length < 4)

/-- Sends an MG message of kinds 1 to 6 with the next `mtag`, or keeps it while 4 are outstanding. -/
def State.sendMg (s : State) (dst kind info : Nat) (body : Bytes) : State :=
  let t := Tab.get 0 s.mtags dst
  let s' := { s with mtags := Tab.put 0 s.mtags dst ((t + 1) % 65536) }
  let p : Packet := { kind := kind, cls := clMg, src := s.devId, dst := dst, hops := 0, last := true,
                      info := BitVec.ofNat 64 (info + t * 2 ^ 48), body := padTo 8 body }
  if s.mgFree dst && !s.mgWait.any (fun x => x.dst == dst) then { s' with mgOut := s'.mgOut ++ [(dst, t)] }.release p
  else { s' with mgWait := s'.mgWait ++ [p] }

/-- An acknowledged MG message frees its entry, and the oldest one kept for that device goes. -/
def State.mgAcked (s : State) (d t : Nat) : State :=
  let s := { s with mgOut := s.mgOut.erase (d, t) }
  if s.mgFree d then
    match s.mgWait.find? (fun x => x.dst == d) with
    | some p => { s with mgWait := s.mgWait.erase p, mgOut := s.mgOut ++ [(d, fld p.info.toNat 48 16)] }.release p
    | none => s
  else s

/-- `MG_ACK` for a message (R358): it needs no entry of its own. -/
def State.ackMg (s : State) (p : Packet) : State := s.sendMsg p.src clMg 7 (fld p.info.toNat 48 16) []

/-! ### Requests and answers (R363) -/

/-- The `info` word of a tagged kind. -/
def tagInfo (tag port : Nat) : Nat := tag % 2 ^ 32 + port * 2 ^ 32

/-- Sends an RQ message under a new tag, the space for its answer reserved (R358). -/
def State.sendRq (s : State) (dst kind port : Nat) (body : Bytes) : Nat × State :=
  let t := s.nextTag
  (t, { s with nextTag := (t + 1) % 2 ^ 32, rqOut := s.rqOut ++ [(dst, t)] }.sendMsg dst clRq kind (tagInfo t port) body)

/-- The body of a `STATUS` packet. -/
def statusBody (status count : Nat) : Bytes := natLe 8 (status + count * 2 ^ 16)

/-- Answers an RQ message: its `RESULT` packets and one `STATUS` packet. -/
def State.sendAnswer (s : State) (dst tag port : Nat) (results : Bytes) (status count : Nat) : State :=
  let info := BitVec.ofNat 64 (tagInfo tag port)
  let res := if results.isEmpty then [] else (messagePackets s.devId dst clRs 1 info results).map fun p => { p with last := false }
  (res ++ messagePackets s.devId dst clRs 2 info (statusBody status count)).foldl State.release s

/-! ### Messages that have arrived -/

/-- A message as the destination takes it: its first packet and its whole body. -/
structure Msg where
  head : Packet
  body : Bytes
  /-- Buffer space that taking it frees, in 8-byte units. -/
  units : Nat
deriving DecidableEq, Repr

/-- A packet of an RQ or RD message that another follows: its buffer space is freed as it comes in, so that a message longer than
the class buffer arrives (R336, R356, R360); the last one keeps its space until the message is taken. -/
def Packet.drains (p : Packet) : Bool := !p.last && (p.cls == clRq || p.cls == clRd)

/-- The buffer space that packets hold. -/
def heldUnits (l : List Packet) : Nat := ((l.filter fun p => !p.drains).map Packet.units).sum

/-- Packets up to the first that ends a message, if one does. -/
def upToLast : List Packet → Option (List Packet)
  | [] => none
  | p :: r => if p.last then some [p] else (upToLast r).map (p :: ·)

/-- Removes the first n packets that a test selects. -/
def dropFirst (t : Packet → Bool) : Nat → List Packet → List Packet
  | 0, l => l
  | _ + 1, [] => []
  | n + 1, p :: r => if t p then dropFirst t n r else p :: dropFirst t (n + 1) r

/-- The oldest message of a class for this device that is whole, and the queue without it. Packets of
an answer (class RS) are taken one by one (R363). -/
def oldestMsg (self cls : Nat) (q : List Packet) : Option (Msg × List Packet) :=
  let mine (p : Packet) : Bool := p.cls == cls && p.dst == self
  let srcs := (q.filter mine).map (·.src)
  srcs.findSome? fun src =>
    let sel (p : Packet) : Bool := mine p && p.src == src
    let ps := if cls = clRs then some ((q.filter sel).take 1) else upToLast (q.filter sel)
    match ps with
    | some (p :: r) =>
      some (⟨p, (p :: r).flatMap (·.body), heldUnits (p :: r)⟩, dropFirst sel (p :: r).length q)
    | _ => none

/-- Takes the oldest message of a class from the input of a link when it is of the kind wanted; its buffer space is
owed back as credits (R336). -/
def State.takeInput (s : State) (l cls kind : Nat) : Option (Msg × State) :=
  match oldestMsg s.devId cls (s.link l).rxq with
  | some (m, q) =>
    if m.head.kind = kind then
      some (m, s.modLink l fun k => { k with rxq := q, owed := k.owed.modify cls (· + m.units) })
    else none
  | none => none

/-- Takes the oldest message of a class that came on a link when it is of the kind wanted: an MG message from the device
store, whose entry its acknowledgement frees (R358), and a fence of that class after them (R347). Nothing comes to the
die while the hub of the link restarts or is held (R434, R439). -/
def State.takeMsg (s : State) (l cls kind : Nat) : Option (Msg × State) :=
  if !s.fnUp 3 (l / 18) then none
  else if cls = clMg ∧ kind ≠ 7 then
    match s.mgIn.find? fun x => x.1 == l with
    | some x => if x.2.kind = kind then some (⟨x.2, x.2.body, x.2.units⟩, { s with mgIn := s.mgIn.erase x }) else none
    | none => s.takeInput l cls kind
  else s.takeInput l cls kind

/-- The other devices of a scope: the pod table, or every device with a valid route (R347). -/
def State.others (s : State) (fabric : Bool) : List Nat :=
  if fabric then (List.range 4096).filter fun d => d != s.devId && (s.podTable.contains d || bitAt (s.entry16 0x31000 d) 13)
  else s.podTable.filter (· != s.devId)

/-- The other devices of a home scope: none for DEVICE, the pod, the fabric (R76). -/
def State.scopeOthers (s : State) (scope : Nat) : List Nat :=
  if scope = 0 then [] else s.others (scope == 2)

/-- The entry of a shard in the map of a scope: 1 the pod map, 2 the fabric map. -/
def State.homeEntry (s : State) (scope shard : Nat) : Nat := s.entry16 (if scope = 1 then 0x34000 else 0x36000) shard

/-- The home device of a shard under a scope (R76). -/
def State.homeOf (s : State) (scope shard : Nat) : Nat := if scope = 0 then s.devId else fld (s.homeEntry scope shard) 0 12

/-- The shard is moving away from this device (R102). -/
def State.shardMoving (s : State) (scope shard : Nat) : Bool := scope != 0 && bitAt (s.homeEntry scope shard) 12

/-- The mixing steps of R75. -/
def shardMix (x : Nat) : Nat :=
  let x := x % 2 ^ 64
  let x := ((x ^^^ (x >>> 30)) * 0xBF58476D1CE4E5B9) % 2 ^ 64
  let x := ((x ^^^ (x >>> 27)) * 0x94D049BB133111EB) % 2 ^ 64
  (x ^^^ (x >>> 31)) >>> 52

/-- The shard of row block b of table t (R75). -/
def shardOf (t b : Nat) : Nat := shardMix ((t <<< 36) ||| b)

/-- The shard of vertex block b of graph g (R108). -/
def vshardOf (g b : Nat) : Nat := shardMix ((1 <<< 63) ||| (g <<< 36) ||| b)

end Sys2Proof.Machine
end

