-- ==== Sys2Proof/Machine/Job.lean ====
section
/-! DEFINITION. Work of the Sifters and NUs on a request: what it reads on this device, what it must fetch from a host or another device first, and how it ends. -/

namespace Sys2Proof.Machine

/-- A request under work: who it is of, its port, and what has come for it. -/
structure Job where
  who : Nat × Nat
  port : Nat
  parts : List Part
  /-- Tier H bytes it needs and has not: (port, host address, length). -/
  hostAsks : List (Nat × Nat × Nat)
  /-- Values of other devices it needs and has not. -/
  asks : List Key
  /-- Poison has tainted a value it read (R428). -/
  tainted : Bool
  s : State
deriving DecidableEq, Repr

/-- Work that stops where a value is missing; what it has asked for until then stays asked. -/
abbrev JM (α : Type) := OptionT (StateM Job) α

def JM.st : JM State := do
  let j ← get
  pure j.s

def JM.upd (f : State → State) : JM Unit := modify fun j => { j with s := f j.s }

/-- Stops: something is missing. -/
def JM.stop {α : Type} : JM α := OptionT.mk (pure none)

/-- The part under a key, if it has come. -/
def JM.part (k : Key) : JM (Option Part) := do
  let j ← get
  pure (j.parts.find? fun p => p.key == k)

def JM.keep (p : Part) : JM Unit := modify fun j => { j with parts := j.parts ++ [p] }

/-- Keeps a part in place of the one under its key. -/
def JM.put (p : Part) : JM Unit := modify fun j => { j with parts := j.parts.filter (fun x => x.key != p.key) ++ [p] }

def JM.ask (k : Key) : JM Unit := modify fun j => if j.asks.contains k then j else { j with asks := j.asks ++ [k] }

/-- Runs each step of a list; when one of them stops the others still run, so that all that is missing
is asked for together. -/
def JM.all {α β : Type} (l : List α) (f : α → JM β) : JM (List β) := do
  let rs ← l.mapM fun x => OptionT.mk (do
    let r ← (f x).run
    pure (some r))
  match rs.mapM id with
  | some v => pure v
  | none => JM.stop

/-- Runs work that is done whole or not at all: where it stops, only what it asked for stays. -/
def JM.whole {α : Type} (x : JM α) : JM α := OptionT.mk do
  let j ← get
  let r ← x.run
  if r.isNone then modify fun j' => { j with hostAsks := j'.hostAsks, asks := j'.asks }
  pure r

/-! ### Reads of device memory by Sifters and NUs -/

/-- Bytes of a host range from the parts, each of them present. -/
def hostParts (parts : List Part) (p a n : Nat) : Option Bytes :=
  (List.range n).mapM fun i =>
    parts.findSome? fun x => match x.key with
      | .host q b len => if q = p ∧ b ≤ a + i ∧ a + i < b + len then some (x.bytes.getD (a + i - b) 0) else none
      | _ => none

/-- Host requests for a range: each inside one 4 KiB block and no longer than the port reads at once. -/
def hostPieces (lim : Nat) : Nat → Nat → Nat → List (Nat × Nat)
  | 0, _, _ => []
  | k + 1, a, n => if n = 0 then [] else
      let c := hostChunk a n lim
      (a, c) :: hostPieces lim k (a + c) (n - c)

/-- Host address of an offset in the tier H region of port p (R319). -/
def State.tierHBase (s : State) (p : Nat) : Nat := s.preg p 0x2010
def State.tierHPasid (s : State) (p : Nat) : Option (BitVec 20) :=
  let c := s.preg p 0x2018
  if bitAt c 54 then some (BitVec.ofNat 20 (fld c 34 20)) else none

/-- The Sifter and the hub of a unit take work: neither restarts nor is held (R433, R437). -/
def State.unitUp (s : State) (u : Nat) : Bool := s.fnUp 2 (unitSifter u) && (u < 8 || s.fnUp 3 (u % 2))

/-- Tier H of a port cannot be reached: its link is down, or its rings are ORPHANED (R319, R391). -/
def State.tierHGone (s : State) (p : Nat) : Bool :=
  !(s.port p).linkUp ||
    ((s.port p).phase == .recovery && s.rings.any fun r => r.2.st == .orphaned && s.ringPort r.1 == p && s.ringFn r.1 == 0)

/-- Checks that bytes can be read or written now, and asks for those of tier H that have not come, or cannot be
reached any more. -/
def JM.ready (a n : Nat) : JM Unit := do
  let j ← get
  match j.s.locate a with
  | some (u, o) =>
    let base := j.s.tierHBase (u - 12) + o
    if !j.s.unitUp u then JM.stop
    else if 12 ≤ u ∧ (j.s.tierHGone (u - 12) ∨ (hostParts j.parts (u - 12) base n).isNone) then
      let new := (hostPieces (j.s.maxRead (u - 12) 0) (n + 1) base n).map fun x => (u - 12, x.1, x.2)
      set { j with hostAsks := j.hostAsks ++ new.filter fun x => !j.hostAsks.contains x }
      JM.stop
    else pure ()
  | none => pure ()

/-- Bytes of any tier, with poison. A tier 2 page reads as its writes will leave it: an operation waits
for the earlier ones on its row (R86, R94). Tier H comes from the host (R319). -/
def JM.mem (a n : Nat) : JM (Bytes × Bool) := do
  let j ← get
  let s := j.s
  match s.locate a with
  | some (u, o) =>
    if !s.unitUp u then JM.stop
    else if 12 ≤ u then
      match hostParts j.parts (u - 12) (s.tierHBase (u - 12) + o) n with
      | some b => pure (b, false)
      | none => do
        JM.ready a n
        JM.stop
    else
      JM.upd fun s => (s.notePoison a n).pageRead a n
      pure (s.dread a n)
  | none => pure (List.replicate n 0#8, true)

/-- The item of a piece of work: a core's request has one. -/
def State.whoItem (s : State) (who : Nat × Nat) : ItemId :=
  if who.1 < 128 then (match s.reqOf who.1 who.2 with
    | some q => q.item
    | none => noItem)
  else noItem

/-- Writes bytes of any tier: tier 2 by whole pages, for which the request waits (R316); tier H by
posted writes to the host. -/
def State.sifterWrite (s : State) (who : Nat × Nat) (a : Nat) (d : Bytes) : State :=
  match s.locate a with
  | some (u, o) =>
    if 12 ≤ u then
      (hostPieces (s.fnc (u - 12) 0).mps (d.length + 1) (s.tierHBase (u - 12) + o) d.length).foldl (fun s x =>
        s.hostStart (u - 12) 0 (s.tierHPasid (u - 12)) x.1 x.2
          (.write (slice d (x.1 - (s.tierHBase (u - 12) + o)) x.2) true) (.tierH who.1 who.2) (s.whoItem who)) s
    else if unitTier u = 2 then s.flashPut a d (some who)
    else s.dwrite a d
  | none => s

/-- Writes bytes of any tier in the course of work; of tier H, the work reads what it wrote. -/
def JM.write (a : Nat) (d : Bytes) : JM Unit := modify fun j =>
  let s := j.s.sifterWrite j.who a d
  match j.s.locate a with
  | some (u, o) =>
    { j with s := s
             parts := if 12 ≤ u then ⟨.host (u - 12) (j.s.tierHBase (u - 12) + o) d.length, d, false, 0⟩ :: j.parts else j.parts }
  | none => { j with s := s }

/-! ### Directory entries (Table 03-5) -/

structure DirEnt where
  word0 : Nat
  reads : Nat
  updates : Nat
deriving DecidableEq, Repr

def DirEnt.tier (e : DirEnt) : Nat := fld e.word0 0 2
def DirEnt.width (e : DirEnt) : Nat := fld e.word0 2 2
def DirEnt.present (e : DirEnt) : Bool := bitAt e.word0 4
def DirEnt.moving (e : DirEnt) : Bool := bitAt e.word0 5
def DirEnt.pinned (e : DirEnt) : Bool := bitAt e.word0 6
def DirEnt.unitField (e : DirEnt) : Nat := fld e.word0 52 4
def DirEnt.off (e : DirEnt) : Nat := 32 * fld e.word0 8 44
def DirEnt.unit (e : DirEnt) : Option Nat := tierUnit e.tier e.unitField
/-- Device address of the first record. -/
def DirEnt.addr (e : DirEnt) : Nat := unitBase (e.unit.getD 0) + e.off

def DirEnt.parse (b : Bytes) : DirEnt := ⟨fieldAt b 0 8, fieldAt b 8 4, fieldAt b 12 4⟩
def DirEnt.bytes (e : DirEnt) : Bytes := natLe 8 e.word0 ++ natLe 4 e.reads ++ natLe 4 e.updates

/-- An entry of a directory. -/
def State.dirEnt (s : State) (dir i : Nat) : DirEnt := DirEnt.parse (s.dread (dir + 16 * i) 16).1

/-- Writes a directory entry, through the die cache (R320). -/
def State.putDir (s : State) (dir i : Nat) (e : DirEnt) : State := s.generalWrite none false (dir + 16 * i) e.bytes

/-- The bytes of the block an entry of port p's directory names lie in a Sifter region, and in no chunk of the other port's
pool (R26, R299). -/
def State.placeOk (s : State) (p : Nat) (e : DirEnt) (len : Nat) : Bool := match e.unit with
  | some u => decide (e.off + len ≤ s.extent u) && inRange (s.sifterRegion u) e.off len && !s.otherPool p u e.off len
  | none => false

/-- An entry of port p's directory names its block: present, well formed, and its bytes where a block may lie (R74). -/
def State.entOk (s : State) (p : Nat) (e : DirEnt) (len : Nat) : Bool :=
  e.present && fld e.word0 7 1 == 0 && fld e.word0 56 8 == 0 && e.width != 3 && (e.tier != 0 || e.width == 0) && s.placeOk p e len

/-- An entry of a directory is read, through the die cache, and a poisoned one counts (R315, R320, R427). -/
def State.seeDir (s : State) (express : Bool) (dir i : Nat) : State :=
  (s.notePoison (dir + 16 * i) 16).cacheRead express (dir + 16 * i) 16

/-- Work of a port reads an entry of a directory of an owner; one that names storage where no block may lie is recorded in
the port's error log (R299). -/
def State.readDir (s : State) (port owner : Nat) (express : Bool) (dir i len : Nat) : State :=
  let e := s.dirEnt dir i
  let s := s.seeDir express dir i
  if e.present && !s.placeOk owner e len then s.accessLog port 0 e.addr accRange else s

/-- The class of a piece of work is express: known of the requests of this device's cores. -/
def State.whoExpress (s : State) (who : Nat × Nat) : Bool :=
  decide (who.1 < 128) && (s.reqOf who.1 who.2).any fun q => q.cls == .express

def JM.readDir (owner dir i len : Nat) : JM Unit := modify fun j =>
  { j with s := j.s.readDir j.port owner (j.s.whoExpress j.who) dir i len }

/-- Counts reads or updates of an entry and of its shard (R506). -/
def State.countBlock (s : State) (dir i rd up : Nat) : State :=
  let e := s.dirEnt dir i
  s.putDir dir i { e with reads := satNat 32 (e.reads + rd), updates := satNat 32 (e.updates + up) }

def State.countShard (s : State) (sh rd up : Nat) : State :=
  let w := (Tab.get 0 s.shardCounts sh).toNat
  let v := BitVec.ofNat 64 (satNat 32 (fld w 0 32 + rd) + 2 ^ 32 * satNat 32 (fld w 32 32 + up))
  { s with shardCounts := Tab.put 0 s.shardCounts sh v }

/-- A Sifter counts n invalid-operation events (R32). -/
def State.sifterInv (s : State) (sf n : Nat) : State :=
  { s with sifterInvalid := Tab.put 0 s.sifterInvalid sf (Tab.get 0 s.sifterInvalid sf + BitVec.ofNat 32 n) }

/-- Runs arithmetic that a Sifter performs. -/
def JM.ar {α : Type} (sf : Nat) (x : Ar α) : JM α := do
  let r := x.run 0
  JM.upd fun s => if r.2 = 0 then s else s.sifterInv sf r.2
  pure r.1

/-! ### Requests by owner -/

/-- Applies an update to the first element that a test selects. -/
def modFirst {α : Type} (t : α → Bool) (f : α → α) : List α → List α
  | [] => []
  | x :: r => if t x then f x :: r else x :: modFirst t f r

/-- Owners of the pairs that name work: a core below 128, another device from 128 on, a sweep from 8,192
on, a block move from 16,384 on, a shard move from 2^30 on. -/
def whoRemote (dev tag : Nat) : Nat × Nat := (128 + dev, tag)
def whoSweep (g : Nat) : Nat × Nat := (8192 + g, 0)

def State.remoteOf (s : State) (dev tag : Nat) : Option Remote := s.remotes.find? fun r => r.dev == dev && r.tag == tag
def State.modRemote (s : State) (dev tag : Nat) (f : Remote → Remote) : State :=
  { s with remotes := updWhere (fun r => r.dev == dev && r.tag == tag) f s.remotes }

def State.sweepOf (s : State) (g : Nat) : Option Sweep := s.sweeps.find? fun w => w.graph == g
def State.modSweep (s : State) (g : Nat) (f : Sweep → Sweep) : State :=
  { s with sweeps := updWhere (fun w => w.graph == g) f s.sweeps }

def whoMove (e : EntryRef) : Nat × Nat := (16384 + e.kind.val + (if e.version then 4 else 0) + 8 * e.id.toNat, e.index)
def State.modMove (s : State) (who : Nat × Nat) (f : Move → Move) : State :=
  { s with moves := updWhere (fun m => whoMove m.entry == who) f s.moves }

def whoShard (scope shard : Nat) : Nat × Nat := (2 ^ 30 + scope, shard)
def ShardMove.who (m : ShardMove) : Nat × Nat := whoShard m.scope m.shard
def State.modShard (s : State) (who : Nat × Nat) (f : ShardMove → ShardMove) : State :=
  { s with shardMoves := modFirst (fun m => m.who == who) f s.shardMoves }

/-- The progress of a piece of work. -/
def State.progOf (s : State) (who : Nat × Nat) : Option Prog :=
  if who.1 < 128 then (s.reqOf who.1 who.2).map (·.prog)
  else if who.1 < 8192 then (s.remoteOf (who.1 - 128) who.2).map (·.prog)
  else if who.1 < 16384 then (s.sweepOf (who.1 - 8192)).map (·.prog)
  else if who.1 < 2 ^ 30 then (s.moves.find? fun m => whoMove m.entry == who).map (·.prog)
  else (s.shardMoves.find? fun m => m.who == who).map (·.prog)

def State.modProg (s : State) (who : Nat × Nat) (f : Prog → Prog) : State :=
  if who.1 < 128 then s.modReq who.1 who.2 fun q => { q with prog := f q.prog }
  else if who.1 < 8192 then s.modRemote (who.1 - 128) who.2 fun r => { r with prog := f r.prog }
  else if who.1 < 16384 then s.modSweep (who.1 - 8192) fun w => { w with prog := f w.prog }
  else if who.1 < 2 ^ 30 then s.modMove who fun m => { m with prog := f m.prog }
  else s.modShard who fun m => { m with prog := f m.prog }

/-- Work that waits for a host access or for another device. -/
def State.progWaits (s : State) (who : Nat × Nat) : Bool :=
  (match s.progOf who with
   | some p => !p.asks.isEmpty
   | none => false) || s.accs.any fun a => a.why == .tierH who.1 who.2

/-- The operations on rows of a piece of work are over. -/
def State.leaveRows (s : State) (who : Nat × Nat) : State := { s with rowLine := s.rowLine.filter fun x => x.who != who }

/-- The work has come to its end: it leaves the queue of the Sifters and NUs, and no slice of it waits. -/
def State.dequeue (s : State) (who : Nat × Nat) : State :=
  { s.leaveRows who with queue := s.queue.filter (· != who), kneads := s.kneads.filter fun k => k.who != who }

/-- Ends a request of this device with a status and count: at once, or once its page writes are done. -/
def State.endReq (s : State) (c : Nat) (q : LsuReq) (status count : Nat) : State :=
  ((s.dequeue (c, q.id)).modReq c q.id fun q => { q with served := true, status := status, count := count }).settleReq c q.id

/-- Answers a request of another device that waits for nothing more. -/
def State.settleRemote (s : State) (r : Remote) : State :=
  let who := whoRemote r.dev r.tag
  if r.served && !(s.flashWrites.any fun w => w.core == some who) && !s.progWaits who then
    { s with remotes := s.remotes.filter fun x => x != r }.sendAnswer r.dev r.tag r.port r.results.flatten r.status r.count
  else s

def State.settleRemotes (s : State) : State := s.remotes.foldl State.settleRemote s

/-- Ends a request of another device. -/
def State.endRemote (s : State) (dev tag status count : Nat) (results : List Bytes) : State :=
  let s := (s.dequeue (whoRemote dev tag)).modRemote dev tag fun r =>
    { r with served := true, status := status, count := count, results := results }
  match s.remoteOf dev tag with
  | some r => s.settleRemote r
  | none => s

/-- Starts the host reads that a stopped piece of work needs; work that cannot reach them fails with
`PORT_LOST` (R391). -/
def State.startHostAsks (s : State) (who : Nat × Nat) (l : List (Nat × Nat × Nat)) (item : ItemId) : State :=
  l.foldl (fun s x =>
    if !s.tierHGone x.1 then
      s.hostStart x.1 0 (s.tierHPasid x.1) x.2.1 x.2.2 .read (.tierH who.1 who.2) item
    else s.modProg who fun p => { p with err := if p.err = 0 then rsPortLost else p.err }) s

/-- A piece of work as it takes up its request. -/
def Job.start (s : State) (who : Nat × Nat) (port : Nat) : Job :=
  { who := who, port := port, parts := ((s.progOf who).getD {}).parts, hostAsks := [], asks := [], tainted := false, s := s }

/-- One message that work sends to another device: its kind and body, the values its answer brings, and
their size. -/
structure Send where
  dev : Nat
  kind : Nat
  body : Bytes
  keys : List Key
  size : Nat
deriving DecidableEq, Repr

/-- Runs work until it is done or something is missing; then the requests to other devices that
`mk` makes of the missing values go out, and the host reads. -/
def State.runJob {α : Type} (s : State) (who : Nat × Nat) (port : Nat) (item : ItemId)
    (body : JM α) (mk : State → List Key → List Send) (done : State → α → State) : State :=
  match s.progOf who with
  | none => s
  | some pg =>
    let r := body.run (Job.start s who port)
    let j := r.2
    match r.1 with
    | some a => done (j.s.modProg who fun p => { p with parts := j.parts }) a
    | none =>
      let s := j.s.modProg who fun p => { p with parts := j.parts }
      let out := pg.asks.flatMap (·.keys)
      let s := (mk s (j.asks.filter fun k => !out.contains k)).foldl (fun s x =>
        let q := s.sendRq x.dev x.kind port x.body
        q.2.modProg who fun p => { p with asks := p.asks ++ [⟨x.dev, q.1, x.keys, x.size⟩] }) s
      s.startHostAsks who (j.hostAsks.filter fun x =>
        !s.accs.any fun a => a.why == .tierH who.1 who.2 && a.kind == .read && a.addr == x.2.1 && a.len == x.2.2) item

/-- Runs a piece of work, and again where it could not reach a host it asked for (R104, R391): that ends it. -/
def State.runEnds (s : State) (who : Nat × Nat) (run : State → State) : State :=
  let t := run s
  match t.progOf who with
  | some p => if p.err = 0 then t else run t
  | none => t

end Sys2Proof.Machine
end

