-- ==== Sys2Proof/Machine/Rows.lean ====
section
/-! DEFINITION. Tables and their rows: descriptors, row records (R68-R72), directories and homes (R73-R76), the capacity of the Sifters (R84, R85), and the request block (R77). -/

namespace Sys2Proof.Machine

/-! ### Row records -/

/-- Bytes of the data part at a stored width: 0 FP16, 1 FP8, 2 INT4 (Table 03-3). -/
def Table.dataLen (t : Table) (w : Nat) : Nat :=
  roundUp (if w = 0 then 2 * t.len else if w = 1 then t.len else 2 + ceilDiv t.len 2) 32

/-- Bytes of one Adam moment (Table 03-4). -/
def Table.momentLen (t : Table) : Nat := roundUp (t.len * (if t.mom32 then 4 else 2)) 32

def Table.stateLen (t : Table) : Nat := if t.opt = 2 then 32 else if t.opt = 3 then 2 * t.momentLen else 0

def Table.recLen (t : Table) (w : Nat) : Nat := t.dataLen w + t.stateLen

def Table.dir (t : Table) (v : Bool) : Nat := if v then t.dir1 else t.dir0
def Table.dflt (t : Table) (v : Bool) : Nat := if v then t.def1 else t.def0

/-- The elements of a row's data part, exactly. -/
def decodeRow (t : Table) (w : Nat) (b : Bytes) : List FV :=
  if w = 0 then ((Elem.fl fp16).unpack t.len b).map fp16.dec
  else if w = 1 then ((Elem.fl e4m3).unpack t.len b).map e4m3.dec
  else
    let sc := fp16.dec (fieldAt b 0 2)
    ((Elem.int 4).unpack t.len (b.drop 2)).map fun q => rne32 ((FV.ofInt (bitsInt 4 q)).mul sc)

/-- Exact FP16 magnitude in units of 2^-24, for a finite value. -/
def fp16Units (v : FV) : Nat :=
  match v with
  | .fin _ m e => if -24 ≤ e then m <<< (e + 24).toNat else m >>> (-24 - e).toNat
  | .nan => 0
  | .inf _ => 0

/-- Permitted scales of R71, ascending: exponent 1 to 27, seven fraction bits; in units of 2^-24. -/
def scaleUnits (c : Nat) : Nat := (128 + c % 128) * 2 ^ (c / 128 + 2)

/-- Round half to even of a / b. -/
def divRne (a b : Nat) : Nat :=
  let q := a / b
  let r := 2 * (a % b)
  if r < b then q else if b < r then q + 1 else q + q % 2

/-- R71: the scale code and the elements, or none for a row that cannot be narrowed. -/
def narrowInt4 (x : List FV) : Option (Nat × List Int) :=
  if x.any FV.nonFinite then none
  else
    let m := (x.map fp16Units).foldl max 0
    match (rangeFrom 128 (27 * 128)).find? (fun c => decide (m ≤ 7 * scaleUnits c)) with
    | none => none
    | some c => some (c, x.map fun v =>
        let q := divRne (fp16Units v) (scaleUnits c)
        if v.sign then - (q : Int) else q)

/-- The data part of FP16 values at a width, or none for INT4 values that cannot be narrowed. -/
def encodeRow (w : Nat) (x : List FV) : Ar (Option Bytes) := do
  if w = 0 then pure (some (padTo 32 (x.flatMap fun v => natLe 2 (fp16.enc v))))
  else if w = 1 then do
    let r ← x.mapM fun v => narrowTo e4m3 .rne false v
    pure (some (padTo 32 (r.flatMap fun v => natLe 1 (e4m3.enc v))))
  else
    match narrowInt4 x with
    | none => pure none
    | some (c, q) => pure (some (padTo 32 (natLe 2 (c * 8) ++ packNibbles (q.map (intBits 4)))))

/-! ### Where a row is -/

/-- Why a row reads as the default row: in range, out of range, missing (R82). -/
inductive RowKind where
  | here
  | out
  | missing
deriving DecidableEq, Repr

/-- A row's place on this device. -/
structure RowLoc where
  addr : Nat
  unit : Nat
  width : Nat
  kind : RowKind
  /-- Row index; meaningless for the default row. -/
  row : Nat
  moving : Bool
deriving DecidableEq, Repr

def RowLoc.dflt (l : RowLoc) : Bool := l.kind != .here
def RowLoc.sifter (l : RowLoc) : Nat := unitSifter l.unit

/-- The missing-index value of an index width (R82). -/
def missingIdx (idx64 : Bool) : Nat := if idx64 then 2 ^ 64 - 1 else 2 ^ 32 - 1

/-- Out of range by the table's row count, or missing. -/
def Table.outside (t : Table) (idx64 : Bool) (i : Nat) : RowKind :=
  if i = missingIdx idx64 then .missing else if t.rows ≤ i then .out else .here

/-- The index under which a request passes on a row that its home takes as absent: out of range of every table. -/
def absentRow : Nat := 2 ^ 64 - 2

/-- The home device of a row; the default row's is that of row block 0 (R76). -/
def State.rowHome (s : State) (t : Table) (idx64 : Bool) (i : Nat) : Nat :=
  s.homeOf t.scope (shardOf t.id (if t.outside idx64 i = .here then i / 16 else 0))

/-- The default row of a version. -/
def State.dfltLoc (s : State) (t : Table) (v : Bool) (k : RowKind) : RowLoc :=
  { addr := t.dflt v, unit := ((s.locate (t.dflt v)).map (·.1)).getD 0, width := 0, kind := k, row := 0, moving := false }

/-- A row entry of R74 that names its block under the table's limits. -/
def State.rowEntOk (s : State) (t : Table) (e : DirEnt) : Bool :=
  s.entOk t.port e (16 * t.recLen e.width) && decide (e.width ≤ t.narrowest)

/-- The place of row i of a version on this device. -/
def State.rowLoc (s : State) (t : Table) (v : Bool) (idx64 : Bool) (i : Nat) : RowLoc :=
  match t.outside idx64 i with
  | .here =>
    let e := s.dirEnt (t.dir v) (i / 16)
    if s.rowEntOk t e then
      { addr := e.addr + (i % 16) * t.recLen e.width, unit := e.unit.getD 0, width := e.width, kind := .here, row := i,
        moving := e.moving }
    else s.dfltLoc t v .out
  | k => s.dfltLoc t v k

/-- The device that reads a row of a lookup, or takes a contribution to it, and the index it goes by there: a row of
this device that R74 takes as absent is the default row, whose home is that of block 0 (R76, R82, R83). -/
def State.readHome (s : State) (t : Table) (v : Bool) (idx64 : Bool) (i : Nat) : Nat × Nat :=
  let h := s.rowHome t idx64 i
  let d := s.rowHome t idx64 absentRow
  if h = s.devId ∧ d ≠ s.devId ∧ (s.rowLoc t v idx64 i).kind = .out then (d, absentRow) else (h, i)

/-- The directory entries of the rows of a request on this device are read, each block's once (R299, R320). -/
def State.readRowDirs (s : State) (p : Nat) (express : Bool) (t : Table) (v idx64 : Bool) (rows : List Nat) : State :=
  let here := rows.filter fun i => t.outside idx64 i = .here && s.rowHome t idx64 i == s.devId
  ((here.map (· / 16)).eraseDups).foldl (fun s b => s.readDir p t.port express (t.dir v) b (16 * t.recLen (s.dirEnt (t.dir v) b).width)) s

/-- The shard that a row's accesses count against. -/
def RowLoc.shard (l : RowLoc) (t : Table) : Nat := shardOf t.id (if l.dflt then 0 else l.row / 16)

/-- Counts one fetch or one write of a row (R506). -/
def State.countRow (s : State) (t : Table) (v : Bool) (l : RowLoc) (rd up : Nat) : State :=
  let s := s.countShard (l.shard t) rd up
  if l.dflt then s else s.countBlock (t.dir v) (l.row / 16) rd up

/-! ### Capacity (R84, R85, R507) -/

/-- Bytes that a contribution takes of a store (R507). -/
def contribBytes (len : Nat) (weighted : Bool) : Nat := roundUp (2 * len) 32 + if weighted then 32 else 0

/-- Number of the forward store of a Sifter among the stores of a window; only Sifters 8 and 9 have one. -/
def fwdStore (sf : Nat) : Nat := 16 + sf

/-- The contributions of a window in a store. -/
def Window.inStore (w : Window) (k : Nat) : List Contrib :=
  if k < 16 then w.contribs.filter fun c => c.sf == k else (w.fwd.map (·.2)).filter fun c => fwdStore c.sf == k

def Window.bytesIn (s : State) (w : Window) (k : Nat) (extra : Nat) : Nat :=
  ((w.inStore k).map fun c => extra + contribBytes (((s.tableOf w.table).map (·.len)).getD 0) c.weighted).sum

/-- Bytes of a store that port p's windows use: those not in sorted mode. -/
def State.storeUsed (s : State) (p k : Nat) : Nat :=
  (s.windows.map fun w => if w.port = p ∧ !w.sorted.contains k then w.bytesIn s k 0 else 0).sum

/-- Lookups of port p that a Sifter is serving, by row, in sorted mode or not. -/
def State.lookupRows (s : State) (p sf : Nat) (sorted : Bool) : List RowOp :=
  s.rowLine.filter fun x => x.port == p && x.sf == sf && !x.write && x.sorted == sorted

/-- Bytes of the sort area of a Sifter that port p's windows and lookups use: a record for each lookup position. -/
def State.sortUsed (s : State) (p sf : Nat) : Nat :=
  (s.windows.map fun w => if w.port = p then
    (([sf, fwdStore sf].filter w.sorted.contains).map fun k => w.bytesIn s k 32).sum else 0).sum
    + 32 * ((s.lookupRows p sf true).map (·.positions)).sum

/-- Row entries that port p's open windows, with their forward stores, and its lookups take in a Sifter (R507). -/
def State.rowsUsed (s : State) (p sf : Nat) : Nat :=
  (s.windows.map fun w => if w.port = p then
    (([sf, fwdStore sf].filter fun k => !w.sorted.contains k).map fun k => ((w.inStore k).map (·.row)).eraseDups.length).sum else 0).sum
    + (s.lookupRows p sf false).length

/-- A port's share of a Sifter store, in 64ths of its size; fields 0 row entries, 8 stores, 16 sort area. -/
def State.shareOf (s : State) (p sf lo total : Nat) : Nat := total * s.sifterShare sf p lo / 64

/-- Size of the sort area of a Sifter (Table 10-3). -/
def State.sortArea (s : State) (sf : Nat) : Nat := if sf < 8 then s.dreg (0x20100 + 8 * sf) else s.dreg (0x20150 + 8 * (sf - 8))

def State.rowEntries (s : State) (p sf : Nat) : Nat := s.shareOf p sf 0 131072
def State.storeBytes (s : State) (p k : Nat) : Nat := if k < 16 then s.shareOf p k 8 (2 ^ 24) else s.shareOf p (k - 16) 8 (2 ^ 25)
def State.sortRoom (s : State) (p sf : Nat) : Nat := s.shareOf p sf 16 (s.sortArea sf) - s.sortUsed p sf

/-- A lookup whose distinct rows exceed the entries left in a Sifter is served there in sorted mode (R85). -/
def State.sortedIn (s : State) (p : Nat) (locs : List RowLoc) (sf : Nat) : Bool :=
  decide (s.rowEntries p sf - s.rowsUsed p sf < ((locs.filter fun l => l.sifter == sf).map (·.addr)).eraseDups.length)

/-- A lookup that a Sifter must serve in sorted mode, and whose positions do not fit its sort area (R85). -/
def State.sortOverflow (s : State) (p : Nat) (locs : List RowLoc) : Bool :=
  (List.range 10).any fun sf => s.sortedIn p locs sf && decide (s.sortRoom p sf < 32 * (locs.filter fun l => l.sifter == sf).length)

/-! ### The order of operations on a row (R86, R94) -/

/-- Two operations on one row of which one writes it, or on two rows of one block of tier H, keep their order. -/
def RowOp.meets (a b : RowOp) : Bool :=
  (a.write || b.write) && a.table == b.table && a.version == b.version &&
    (a.row == b.row || (a.remote && b.remote && a.row.map (· / 16) == b.row.map (· / 16)))

/-- The operations that a piece of work brings on the rows at some places. -/
def State.rowOps (s : State) (who : Nat × Nat) (p : Nat) (t : Table) (v write : Bool) (locs : List RowLoc) : List RowOp :=
  ((locs.map (·.addr)).eraseDups).filterMap fun a => (locs.find? fun l => l.addr == a).map fun l =>
    { who := who, port := p, sf := l.sifter, table := t.id, version := v, row := if l.dflt then none else some l.row, write := write,
      remote := !l.dflt && decide (12 ≤ l.unit), positions := locs.countP fun x => x.addr == a,
      sorted := !write && s.sortedIn p locs l.sifter }

/-- Operations on rows reach the Sifters, behind those that are there. -/
def JM.arrive (p : Nat) (t : Table) (v write : Bool) (locs : List RowLoc) : JM Unit := modify fun j =>
  if j.s.rowLine.any fun x => x.who == j.who then j
  else { j with s := { j.s with rowLine := j.s.rowLine ++ j.s.rowOps j.who p t v write locs } }

/-- An operation of a piece of work waits behind an earlier one on its row, whatever their classes (R86). -/
def State.rowsWait (s : State) (who : Nat × Nat) : Bool :=
  let mine := s.rowLine.filter fun x => x.who == who
  (s.rowLine.takeWhile fun x => x.who != who).any fun x => mine.any x.meets

def JM.rowsWait : JM Bool := do
  let j ← get
  pure (j.s.rowsWait j.who)

/-- The operations of the work on rows here have been carried out; `part` tells what it keeps of them. -/
def JM.rowsDone (bytes : Bytes) (count : Nat) : JM Unit := do
  JM.put ⟨.done, bytes, false, count⟩
  modify fun j => { j with s := j.s.leaveRows j.who }

/-! ### The request block (Tables 03-6, 03-7) -/

structure SiftBlk where
  op : Nat
  table : Nat
  idx64 : Bool
  wtFmt : Nat
  outFmt : Nat
  spill : Nat
  sr : Bool
  count : Nat
  seed : Nat
  tensor : Nat
  uBase : Nat
  idxAddr : Nat
  offAddr : Nat
  /-- First local-store field of the op-specific part: weights, or source rows. -/
  wtAddr : Nat
  /-- Second: results, or gradients. -/
  outAddr : Nat
  gradBase : Nat
  depth : Nat
  rankLevel : Nat
  eta : Nat
  c1 : Nat
  c2 : Nat
  ranks : Nat
  keep : Bool
deriving DecidableEq, Repr

def SiftBlk.parse (b : Bytes) : SiftBlk :=
  let w := fieldAt b 0 8
  let a := fieldAt b 24 8
  let x := fieldAt b 32 8
  let g := fieldAt b 40 8
  { op := fld w 0 4, table := fld w 4 16, idx64 := bitAt w 20, wtFmt := fld w 21 2, outFmt := fld w 23 2, spill := fld w 25 4,
    sr := bitAt w 29, count := fld w 32 24 + 1, seed := fieldAt b 8 8, tensor := fieldAt b 16 4, uBase := fieldAt b 20 4,
    idxAddr := fld a 0 22, offAddr := fld a 32 22, wtAddr := fld x 0 22, outAddr := fld x 32 22, gradBase := fld g 0 40,
    depth := fld g 40 6, rankLevel := fld g 46 6, eta := fieldAt b 32 4, c1 := fieldAt b 36 4, c2 := fieldAt b 40 4,
    ranks := bfld b 44 4 0 13, keep := bitAt x 32 }

/-- Ops with bags: `SUM`, `WSUM`, `MEAN`, `UPDATE`. -/
def SiftBlk.bags (k : SiftBlk) : Bool := decide (1 ≤ k.op ∧ k.op ≤ 4)
/-- Lookups. -/
def SiftBlk.lookup (k : SiftBlk) : Bool := decide (k.op < 4) || k.op == 7
/-- Ops that only the table's owner may make. -/
def SiftBlk.writes (k : SiftBlk) : Bool := decide (4 ≤ k.op ∧ k.op ≤ 6)
def SiftBlk.pools (k : SiftBlk) : Bool := decide (1 ≤ k.op ∧ k.op ≤ 3)

/-- Non-zero reserved bits (R77). -/
def siftReserved (b : Bytes) (op : Nat) : Bool :=
  let w := fieldAt b 0 8
  let a := fieldAt b 24 8
  let x := fieldAt b 32 8
  fld w 30 2 ≠ 0 || fld w 56 8 ≠ 0 || fld a 22 10 ≠ 0 || fld a 54 10 ≠ 0 ||
    (match op with
     | 4 => fld x 22 10 ≠ 0 || fld x 54 10 ≠ 0 || bfld b 40 8 52 12 ≠ 0 || !zeroRange b 48 16
     | 5 => bfld b 44 4 13 19 ≠ 0 || !zeroRange b 48 16
     | 6 => fld x 22 10 ≠ 0 || fld x 33 31 ≠ 0 || !zeroRange b 40 24
     | _ => fld x 22 10 ≠ 0 || fld x 54 10 ≠ 0 || !zeroRange b 40 24)

/-- The checks of R77 that need neither the table nor the lists. -/
def siftBad (b : Bytes) : Bool :=
  let k := SiftBlk.parse b
  decide (7 < k.op) || siftReserved b k.op || (spillOf k.spill).isNone || k.outFmt == 3 ||
    k.idxAddr % 32 != 0 || (if k.bags then k.offAddr % 32 != 0 else k.offAddr != 0) ||
    (k.op == 2 && k.wtFmt == 0) || (k.op != 2 && k.op != 4 && k.wtFmt != 0) ||
    (k.op != 5 && k.wtAddr % 32 != 0) || ((k.lookup || k.op == 4) && k.outAddr % 32 != 0) ||
    (k.op == 4 && decide (k.depth < k.rankLevel)) || (k.op == 5 && (k.ranks == 0 || decide (4096 < k.ranks)))

/-- R26, R104: whether port p may use the table so: a response status, 0 for yes. -/
def State.tableAccess (s : State) (p id : Nat) (write : Bool) : Nat :=
  match s.tableOf id with
  | none => rsTableInvalid
  | some t => if t.port = p then rsOk else if t.shared then (if write then rsTableReadonly else rsOk) else rsTableInvalid

/-- Size in bytes of a weight format; 0 for none. -/
def wtSize (f : Nat) : Nat := if f = 0 then 0 else if f = 1 then 4 else 2

def wtVal (f raw : Nat) : FV := if f = 1 then fp32.dec raw else if f = 2 then bf16.dec raw else fp16.dec raw

def SiftBlk.idxSize (k : SiftBlk) : Nat := if k.idx64 then 8 else 4

/-- Bytes of a result element in `out_fmt`. -/
def outSize (f : Nat) : Nat := if f = 0 then 4 else 2

/-- Result elements in `out_fmt` (R78). -/
def outBytes (f : Nat) (x : List FV) : Ar Bytes := do
  if f = 0 then pure (x.flatMap fun v => natLe 4 (fp32.enc v))
  else
    let e := if f = 1 then bf16 else fp16
    let r ← x.mapM fun v => narrowTo e .rne false v
    pure (r.flatMap fun v => natLe 2 (e.enc v))

/-- Distance between results of a lookup. -/
def SiftBlk.outStride (k : SiftBlk) (t : Table) : Nat :=
  roundUp (t.len * outSize k.outFmt) 32 + if k.op = 7 then t.stateLen else 0

/-- One entry of a request: a position of a bag, or of a list without bags (R363). -/
structure Ent where
  row : Nat
  /-- Bag index, or list position. -/
  bag : Nat
  pos : Nat
  len : Nat
  wt : Nat
  /-- `ROW_WRITE`: its source row. -/
  src : Bytes
  /-- The source row is poisoned (R428). -/
  bad : Bool
deriving DecidableEq, Repr

end Sys2Proof.Machine
end

