-- ==== Sys2Proof/Machine/Sifter.lean ====
section
/-! DEFINITION. Sifter requests (R77-R96): SIFT, the lookups with partial pools, row writes, and requests of other devices. -/

namespace Sys2Proof.Machine

/-! ### Lists in local store -/

/-- Bag offsets, or one position for each entry of an op without bags. -/
def Core.siftOffsets (k : Core) (b : SiftBlk) : List Nat :=
  if b.bags then (List.range (b.count + 1)).map fun i => k.lsNat (b.offAddr + 4 * i) 4 else List.range (b.count + 1)

/-- Offsets that rise from 0 (R77). -/
def offsetsOk : List Nat → Bool
  | [] => true
  | [_] => true
  | a :: b :: r => decide (a ≤ b) && offsetsOk (b :: r)

/-- The bag and position in it of each list position. -/
def bagPositions (off : List Nat) : List (Nat × Nat × Nat) :=
  (off.zip (off.drop 1)).zipIdx.flatMap fun ((a, b), i) => (List.range (b - a)).map fun j => (i, j, b - a)

/-- The entries of a request of this device, in list order. -/
def Core.siftEntries (k : Core) (b : SiftBlk) (len : Nat) : List Ent :=
  let off := k.siftOffsets b
  let poss := bagPositions off
  let ssz := roundUp (4 * len) 32
  poss.zipIdx.map fun ((g, p, n), i) =>
    { row := k.lsNat (b.idxAddr + b.idxSize * i) b.idxSize, bag := g, pos := if b.bags then p else 0, len := if b.bags then n else 0,
      wt := if b.op = 2 ∨ b.op = 4 then k.lsNat (b.wtAddr + wtSize b.wtFmt * i) (wtSize b.wtFmt) else 0,
      src := if b.op = 6 then k.lsBytes (b.wtAddr + ssz * i) (4 * len) else []
      bad := false }

/-- Local-store ranges that a request reads, with its block checked (R227, R428). -/
def siftReads (k : Core) (b : SiftBlk) (len : Nat) : List (Nat × Nat) :=
  let n := (k.siftOffsets b).getLastD 0
  (if b.bags then [(b.offAddr, 4 * (b.count + 1))] else []) ++ (if b.op = 5 then [] else [(b.idxAddr, n * b.idxSize)])
    ++ (if wtSize b.wtFmt = 0 then [] else [(b.wtAddr, n * wtSize b.wtFmt)])
    ++ (if b.op = 4 then (List.range b.count).map fun i => (b.outAddr + i * roundUp (2 * len) 32, 2 * len) else [])
    ++ (if b.op = 6 then (List.range n).map fun i => (b.wtAddr + i * roundUp (4 * len) 32, 4 * len) else [])

/-- The version a request uses: the one a service instance recorded, or the active one (R97, R417). -/
def State.versionFor (s : State) (id : ItemId) (t : Table) : Bool :=
  match (s.instOf id.inst).bind fun i => i.versions.find? fun v => v.1 == t.id with
  | some v => v.2
  | none => t.active

/-- SIFT (R77, R215): the checks of the block and its lists are made at issue; the Sifters take the
request up with the command of its op. -/
def siftInsn (c : CoreIx) (f : XFmt) (s : State) : State :=
  lsuIssue 0x60 64 .sift c f s fun s r q => do
    let fail (st : Nat) : Eff := pure (s.respond c.val q st 0)
    if siftBad q.block then fail rsBadDescriptor
    else
      let b := SiftBlk.parse q.block
      match s.tableOf b.table, s.tableAccess r.port b.table b.writes with
      | some t, 0 =>
        if (b.op = 4 ∨ b.op = 5) ∧ t.opt = 0 then fail rsBadDescriptor
        else
          let k := s.core c.val
          if b.bags then
            if !inPart r.express b.offAddr (4 * (b.count + 1)) then throw ⟨xLsPartition, enLsu, 0⟩
            engRead k b.offAddr (4 * (b.count + 1)) enLsu
          let off := k.siftOffsets b
          let n := off.getLastD 0
          if b.op ≠ 5 ∧ (off.headD 0 ≠ 0 ∨ !offsetsOk off ∨ (b.op = 4 ∧ 0 < n ∧ 2 ^ b.depth ≤ b.gradBase + n - 1)) then
            fail rsBadDescriptor
          else
            let rd := if b.op = 5 then [] else siftReads k b t.len
            if !(rd.all fun x => x.2 == 0 || inPart r.express x.1 x.2) then throw ⟨xLsPartition, enLsu, 0⟩
            if b.lookup && !inPart r.express b.outAddr (b.count * b.outStride t) then throw ⟨xLsPartition, enLsu, 0⟩
            rd.forM fun x => if x.2 = 0 then pure () else engRead k x.1 x.2 enLsu
            -- updates and row writes go to the active version (R98), whatever a service recorded for its lookups
            let q := { q with version := if b.lookup then s.versionFor q.item t else t.active }
            let s := s.modReq c.val q.id fun _ => q
            if b.writes then
              match s.asEffect c.val r q with
              | (s, _) => pure s
            else pure s
      | _, st => fail (if st = 0 then rsTableInvalid else st)

/-! ### Serving rows -/

/-- What a request asks of the Sifters: the block, the table, the version, the entries that stay on this device and
those of each other device, under its id, with 8,192 added where this device passes them on to a new home (R103). -/
structure SiftWork where
  blk : SiftBlk
  t : Table
  version : Bool
  mine : List Ent
  theirs : List (Nat × List Ent)
deriving DecidableEq, Repr

/-- Groups entries by the devices in a list. -/
def groupBy (devs : List Nat) (l : List (Ent × Nat)) : List (Nat × List Ent) :=
  devs.eraseDups.map fun d => (d, (l.filter fun x => x.2 == d).map (·.1))

/-- Whereto an entry goes: a device, with 4,096 added for a row that its home takes as absent. A request that was
passed on is served where it is. -/
def State.entryHome (s : State) (b : SiftBlk) (t : Table) (v fwd : Bool) (e : Ent) : Nat :=
  if fwd then s.devId
  else if b.lookup then
    let h := s.readHome t v b.idx64 e.row
    h.1 + if h.2 = e.row then 0 else 4096
  else s.rowHome t b.idx64 e.row

/-- Slices of a list, each of n but the last. -/
def cutEvery {α : Type} (n : Nat) (l : List α) : List (List α) := (List.range (ceilDiv l.length n)).map fun i => (l.drop (i * n)).take n

/-- Entries as they travel: grouped by where they go, absent rows under an index that is out of range; a group of more than
2^19, which one message might not hold (R334), in parts with 16,384 added for each. -/
def groupEnts (homes : List Nat) (ents : List Ent) : List (Nat × List Ent) :=
  let z := (ents.zip homes).map fun (x : Ent × Nat) => (if bitAt x.2 12 then { x.1 with row := absentRow } else x.1, fld x.2 0 12 + 8192 * fld x.2 13 1)
  (groupBy (z.map (·.2)) z).flatMap fun x => (cutEvery (2 ^ 19) x.2).zipIdx.map fun (l, k) => (x.1 + 16384 * k, l)

/-- The homes kept for a request. -/
def homesOf (p : Part) (n : Nat) : List Nat := (List.range n).map fun i => fieldAt p.bytes (2 * i) 2

/-- The homes of a request's entries, fixed when it is first served, and the rows that have reached the Sifters here.
What waits here at the transfer point of its shard is passed on, in the order of its rows (R102, R103). None where a
Sifter cannot take a lookup (R85). -/
def JM.place (port : Nat) (b : SiftBlk) (t : Table) (v : Bool) (ents : List Ent) (fwd : Bool) : JM (Option SiftWork) := do
  let j ← get
  let s := j.s
  let now := ents.map (s.entryHome b t v fwd)
  let known ← JM.part .homes
  let old := (known.map fun p => homesOf p ents.length).getD now
  let mine := (groupEnts old ents).filter fun x => x.1 % 16384 == s.devId
  let locs := (mine.flatMap (·.2)).map fun e => s.rowLoc t v b.idx64 e.row
  if known.isNone && b.lookup && s.sortOverflow port locs then pure none
  else
    if known.isNone then JM.upd fun s => s.readRowDirs port (s.whoExpress j.who) t v b.idx64 (ents.map (·.row))
    if known.isNone then JM.arrive port t v b.writes (if b.writes then locs.filter fun l => l.kind != .out else locs)
    let fixed := (← JM.part .done).isSome || (← JM.rowsWait)
    let homes := if fixed then old else (old.zip now).map fun x => if x.1 = s.devId ∧ x.2 ≠ s.devId then 8192 + x.2 else x.1
    if known.isNone ∨ homes ≠ old then JM.put ⟨.homes, homes.flatMap (natLe 2), false, 0⟩
    let g := groupEnts homes ents
    pure (some { blk := b, t := t, version := v, mine := (g.filter fun x => x.1 % 16384 == s.devId).flatMap (·.2), theirs := g.filter fun x => x.1 % 16384 != s.devId })

/-- A row as a Sifter read it. -/
structure RowVal where
  vals : List FV
  state : Bytes
  bad : Bool
deriving DecidableEq, Repr

/-- What a request's entry found at its Sifter: the place among the request's distinct rows, and the row. -/
structure RowRead where
  slot : Nat
  sifter : Nat
  kind : RowKind
  val : RowVal
deriving DecidableEq, Repr

def rowVal (t : Table) (w : Nat) (r : Bytes × Bool) : RowVal := ⟨decodeRow t w r.1, r.1.drop (t.dataLen w), r.2⟩

/-- Reads one row's record. -/
def JM.readRow (t : Table) (l : RowLoc) : JM RowVal := do
  let r ← JM.mem l.addr (t.recLen l.width)
  pure (rowVal t l.width r)

def RowKind.code : RowKind → Nat
  | .here => 0
  | .out => 1
  | .missing => 2
def RowKind.ofCode (n : Nat) : RowKind := if n = 0 then .here else if n = 1 then .out else .missing

/-- Reads each distinct row of a lookup once (R84), counts the fetches (R506) and keeps what it read: every row as some
single operation left it (R94). -/
def JM.fetchRows (w : SiftWork) : JM Unit := do
  let s ← JM.st
  let locs := w.mine.map fun e => s.rowLoc w.t w.version w.blk.idx64 e.row
  let addrs := (locs.map (·.addr)).eraseDups
  let firsts := addrs.filterMap fun a => locs.find? fun l => l.addr == a
  let _ ← JM.all firsts fun l => JM.ready l.addr (w.t.recLen l.width)
  JM.whole (firsts.zipIdx.forM fun (l, i) => do
    let r ← JM.mem l.addr (w.t.recLen l.width)
    JM.upd fun s => s.countRow w.t w.version l 1 0
    JM.keep ⟨.row i, r.1, r.2, l.width + 4 * l.unit⟩)
  JM.rowsDone (locs.flatMap fun l => natLe 4 (addrs.idxOf l.addr) ++ natLe 1 l.kind.code) 0

/-- The entries of a lookup here with what their Sifters read. -/
def readEnts (w : SiftWork) (parts : List Part) : List (Ent × RowRead) :=
  let line := ((parts.find? fun p => p.key == .done).map (·.bytes)).getD []
  w.mine.zipIdx.map fun (e, i) =>
    let k := fieldAt line (5 * i) 4
    let kind := RowKind.ofCode (fieldAt line (5 * i + 4) 1)
    match parts.find? fun p => p.key == .row k with
    | some p => (e, ⟨k, unitSifter (p.count / 4), kind, rowVal w.t (p.count % 4) (p.bytes, p.bad)⟩)
    | none => (e, ⟨k, 0, kind, ⟨[], [], true⟩⟩)

/-! ### Partial pools (R80, R81) -/

/-- Present positions that node (l, j) covers in a bag of n. -/
def covered (n l j : Nat) : List Nat := rangeFrom (j <<< l) (min ((j + 1) <<< l) n - j <<< l)

/-- The nodes of R80 at and below (l, j): largest subtrees all of whose present positions are held. -/
def partialNodes (c : SumCfg) (uvs : List (Nat × Nat)) (n : Nat) (held : List TreeItem) : Nat → Nat → Ar (List TreeItem)
  | l, j =>
    let ps := covered n l j
    let have' := held.filter fun it => ps.contains it.start
    if have'.isEmpty then pure []
    else if have'.length = ps.length then do
      match ← treeNode c uvs l j have' with
      | some a => pure [⟨j <<< l, l, a⟩]
      | none => pure []
    else
      match l with
      | 0 => pure []
      | l + 1 => do
        let a ← partialNodes c uvs n held l (2 * j)
        let b ← partialNodes c uvs n held l (2 * j + 1)
        pure (a ++ b)

/-- A partial record on the wire (R80, R363): header, then the values, padded to 8 bytes. -/
def nodeBytes (s : Nat) (first : Nat) (it : TreeItem) : Bytes :=
  padTo 8 (natLe 8 (first + it.level * 2 ^ 40) ++ natLe 8 (it.start >>> it.level) ++ List.replicate 16 0#8
    ++ it.arr.flatMap fun b => if it.level < s then natLe 4 (fp32.enc (ofBits64 b)) else natLe 8 b.toNat)

/-- Reads partial records of L elements, each with its first header field. -/
def nodesParse (s len : Nat) : Nat → Bytes → List (Nat × TreeItem)
  | 0, _ => []
  | k + 1, b =>
    if b.length < 40 then []
    else
      let l := bfld b 0 8 40 6
      let w := if l < s then 4 else 8
      let arr := (List.range len).map fun e =>
        let x := fieldAt b (32 + w * e) w
        if l < s then toBits64 (fp32.dec x) else BitVec.ofNat 64 x
      (bfld b 0 8 0 40, ⟨bfld b 8 8 0 48 <<< l, l, arr⟩) :: nodesParse s len k (b.drop (roundUp (32 + w * len) 8))

/-- A body is a sequence of whole partial records, with zero in what R80 does not name (R363). -/
def nodesWhole (s len : Nat) : Nat → Bytes → Bool
  | 0, b => b.isEmpty
  | k + 1, b =>
    let m := 32 + (if bfld b 0 8 40 6 < s then 4 else 8) * len
    let n := roundUp m 8
    b.isEmpty || (decide (n ≤ b.length) && bfld b 0 8 46 18 == 0 && bfld b 8 8 48 16 == 0 && zeroRange b 16 16 && zeroRange b m (n - m) &&
      nodesWhole s len k (b.drop n))

def SiftBlk.sumCfg (b : SiftBlk) : SumCfg := ⟨(spillOf b.spill).getD 9, b.sr, b.seed, b.tensor⟩

/-- The term of R79 at one position. -/
def pooledTerm (b : SiftBlk) (e : Ent) (r : RowVal) : Ar NodeArr := do
  let x ← if b.op = 2 then r.vals.mapM fun v => mul32 (wtVal b.wtFmt e.wt) v else pure r.vals
  pure (x.map toBits64)

/-- The partial pools of one bag from the rows held here, one Sifter after another, with the bag's taint. -/
def JM.poolBag (b : SiftBlk) (len g : Nat) (ents : List (Ent × RowRead)) : JM (List (TreeItem × Bool)) := do
  let mine := ents.filter fun x => x.1.bag == g
  let uvs := (List.range len).map fun e => (b.uBase + g, e)
  let n := ((mine.head?).map fun x => x.1.len).getD 0
  let rs ← ((mine.map fun x => x.2.sifter).eraseDups).mapM fun sf => do
    let held := mine.filter fun x => x.2.sifter == sf
    let its ← held.mapM fun x => do
      let a ← JM.ar sf (pooledTerm b x.1 x.2.val)
      pure (TreeItem.mk x.1.pos 0 a)
    let ns ← JM.ar sf (partialNodes b.sumCfg uvs n its (clog2 n) 0)
    pure (ns.map fun it => (it, held.any fun x => (covered n it.level (it.start >>> it.level)).contains x.1.pos && x.2.val.bad))
  pure rs.flatten

/-- What the lookup of a request's rows on this device delivers. -/
structure Served where
  work : SiftWork
  ents : List (Ent × RowRead)
  pools : List (Nat × List (TreeItem × Bool))
deriving DecidableEq, Repr

/-- Asks the other devices for their parts of a request; whether every answer has come. -/
def JM.theirs (w : SiftWork) : JM Bool := do
  let got ← w.theirs.mapM fun x => do
    match ← JM.part (.sift x.1) with
    | some _ => pure true
    | none => do
      JM.ask (.sift x.1)
      pure false
  pure (got.all id)

/-- Serves a lookup: its rows here as soon as no earlier operation on them waits, then what the other devices return.
None where a Sifter cannot take it (R85). -/
def JM.lookup (port : Nat) (b : SiftBlk) (t : Table) (v : Bool) (ents : List Ent) (fwd : Bool) : JM (Option Served) := do
  match ← JM.place port b t v ents fwd with
  | none => pure none
  | some w =>
    let whole ← JM.theirs w
    if (← JM.part .done).isNone then
      if ← JM.rowsWait then JM.stop
      JM.fetchRows w
    if !whole then JM.stop
    let es := readEnts w (← get).parts
    let pools ← if b.pools then
        ((es.map fun x => x.1.bag).eraseDups).mapM fun g => do
          let p ← JM.poolBag b t.len g es
          pure (g, p)
      else pure []
    pure (some ⟨w, es, pools⟩)

/-- Default-row lookups among a request's rows here, out of range and missing. -/
def Served.defaults (v : Served) : Nat × Nat :=
  ((v.ents.filter fun x => x.2.kind == .out).length, (v.ents.filter fun x => x.2.kind == .missing).length)

/-! ### Requests sent to other devices (R363) -/

/-- The request block with its local-store addresses zero. -/
def blankBlock (b : Bytes) (op : Nat) : Bytes :=
  slice b 0 24 ++ List.replicate 8 0#8 ++ (if op = 6 then natLe 8 (bfld b 32 8 32 1 * 2 ^ 32) else List.replicate 8 0#8) ++ slice b 40 24

def Ent.bytes (e : Ent) (op : Nat) : Bytes :=
  natLe 8 e.row ++ natLe 4 e.bag ++ natLe 4 e.pos ++ natLe 4 e.len ++ natLe 4 e.wt ++ (if op = 6 then padTo 8 e.src else [])

/-- The body of a `SIFT_REQ`. -/
def siftBody (version : Bool) (block : Bytes) (op : Nat) (ents : List Ent) : Bytes :=
  natLe 8 ((if version then 1 else 0) + ents.length * 2 ^ 8) ++ blankBlock block op ++ ents.flatMap fun e => e.bytes op

def entsParse (op len : Nat) : Nat → Bytes → List Ent
  | 0, _ => []
  | k + 1, b =>
    let n := if op = 6 then roundUp (4 * len) 8 else 0
    { row := fieldAt b 0 8, bag := fieldAt b 8 4, pos := fieldAt b 12 4, len := fieldAt b 16 4, wt := fieldAt b 20 4,
      src := if op = 6 then slice b 24 (4 * len) else [], bad := false } :: entsParse op len k (b.drop (24 + n))

/-- The messages for the other devices that a request's entries name. -/
def siftMk (version : Bool) (block : Bytes) (op kind : Nat) (theirs : List (Nat × List Ent)) (ks : List Key) :
    List Send :=
  ks.filterMap fun k => match k with
    | .sift d => (theirs.find? fun x => x.1 == d).map fun x =>
        let b := siftBody version block op x.2
        if kind = 5 ∨ bitAt d 13 then ⟨d % 4096, 5, natLe 8 1 ++ b, [k], 0⟩ else ⟨d, kind, b, [k], 0⟩
    | _ => none

/-- The entries for other devices, by the homes fixed for the request. -/
def State.theirsOf (s : State) (who : Nat × Nat) (l : List Ent) : List (Nat × List Ent) :=
  match ((s.progOf who).map (·.parts)).bind fun ps => ps.find? fun p => p.key == .homes with
  | some p => (groupEnts (homesOf p l.length) l).filter fun x => x.1 % 16384 != s.devId
  | none => []

/-! ### Delivery of a lookup to its core -/

/-- Results of `GATHER` and `ROW_READ` that another device returned: list position and bytes. -/
def resultsParse : Nat → Bytes → List (Nat × Bytes)
  | 0, _ => []
  | k + 1, b =>
    if b.length < 16 then []
    else
      let n := fieldAt b 8 4
      (fieldAt b 0 8, slice b 16 n) :: resultsParse k (b.drop (16 + roundUp n 8))

/-- The nodes of one bag that this device's Sifters and the answers of other devices bring. -/
def Served.items (v : Served) (parts : List Part) (g : Nat) : List TreeItem :=
  let b := v.work.blk
  let ans := v.work.theirs.flatMap fun x => ((parts.find? fun p => p.key == .sift x.1).map (·.bytes)).getD []
                                             |> fun bs => nodesParse b.sumCfg.s v.work.t.len bs.length bs
  (((v.pools.find? fun p => p.1 == g).map (·.2)).getD []).map (·.1) ++ (ans.filter fun x => x.1 == g).map (·.2)

/-- The root of a bag that was summed in slices, with the invalid events of the sum: none where it has no result. -/
structure Root where
  bag : Nat
  sum : Option (Option NodeArr × Nat)
deriving DecidableEq, Repr

/-- One result of a lookup, and whether poison taints it. The optimiser state of a `ROW_READ` starts at the Crumb after
the elements, whose results are Crumb-aligned (DESIGN CHOICE, log entry 62). A position whose device returned nothing for
it, or a bag with a position that no returned node covers, is tainted (R428). -/
def JM.lookupResult (v : Served) (remote : List (List (Nat × Bytes))) (parts : List Part) (roots : List Root) (lens : Nat → Nat) (g : Nat) :
    JM (Bytes × Bool × Nat) := do
  let b := v.work.blk
  let t := v.work.t
  let dsize := t.len * outSize b.outFmt
  if b.pools then
    let n := lens g
    let loc := ((v.pools.find? fun p => p.1 == g).map (·.2)).getD []
    let its := v.items parts g
    let held := (v.work.mine ++ v.work.theirs.flatMap (·.2)).countP fun e => e.bag == g
    let uvs := (List.range t.len).map fun e => (b.uBase + g, e)
    let form : Ar Bytes := do
      let root ← match (roots.find? fun r => r.bag == g).bind (·.sum) with
        | some r => do
          modify fun k => k + r.2
          pure r.1
        | none => treeNode b.sumCfg uvs (clog2 n) 0 its
      let h := handOff t.len root
      let h ← if b.op = 3 ∧ n ≠ 0 then h.mapM fun x => div32 x (FV.ofInt n) else pure h
      outBytes b.outFmt h
    let r := form.run 0
    let whole := (its.map fun it => (covered n it.level (it.start >>> it.level)).length).sum == held
    pure (padTo 32 r.1, loc.any (·.2) || !whole, r.2)
  else
    match v.ents.find? fun x => x.1.bag == g with
    | some x =>
      let r := x.2.val
      let d := (outBytes b.outFmt r.vals).run 0
      pure (padTo 32 d.1 ++ (if b.op = 7 then r.state else []), r.bad, d.2)
    | none =>
      match remote.flatten.find? fun x => x.1 == g with
      | some x => pure (padTo 32 (x.2.take dsize) ++ (if b.op = 7 then slice x.2 dsize t.stateLen else []), false, 0)
      | none => pure (List.replicate (b.outStride t) 0#8, true, 0)

/-- Counts of a request's ring, for its instance (R82, R408). -/
def State.countRing (s : State) (ring : Nat) (item : ItemId) (out missing bad : Nat) : State :=
  if out + missing + bad = 0 then s
  else
    (s.modRing ring fun g => { g with oor := (g.oor + out) % 2 ^ 64, missing := (g.missing + missing) % 2 ^ 64,
                                      badVertex := (g.badVertex + bad) % 2 ^ 64 }).modInst item.inst fun i => { i with counted := true }

def State.modItemRun (s : State) (c : Nat) (item : ItemId) (f : Run → Run) : State := s.modCore c fun k => k.modRunOf item f

/-- Delivers a finished lookup of core c (R78, R82); bags summed in slices have their roots given, one that has none no
result. -/
def JM.deliverLookup (c : Nat) (q : LsuReq) (v : Served) (roots : List Root) (lens : Nat → Nat) : JM Nat := do
  let j ← get
  let b := v.work.blk
  let ans := v.work.theirs.map fun x => ((j.parts.find? fun p => p.key == .sift x.1).map fun p => (p.bytes, p.count)).getD ([], 0)
  let remote := ans.map fun x => resultsParse x.1.length x.1
  ((List.range b.count).filter fun g => !roots.any fun r => r.bag == g && r.sum.isNone).forM fun g => do
    let r ← JM.lookupResult v remote j.parts roots lens g
    JM.upd fun s =>
      (s.modCore c fun k => k.poisonPut (b.outAddr + g * b.outStride v.work.t) r.1 r.2.1).modItemRun c q.item fun x =>
        { x with evInvalid := satNat 32 (x.evInvalid + r.2.2) }
  let d := v.defaults
  let all := d.1 + d.2 + (ans.map (·.2)).sum
  let miss := d.2 + ((v.work.theirs.flatMap (·.2)).filter fun e => e.row == missingIdx b.idx64).length
  JM.upd fun s => s.countRing q.ring q.item (all - miss) miss 0
  pure all

/-! ### Row writes (R83, R95, R96) -/

/-- A row may not be written now: its block is moving (R96), or its shard is (R102). -/
def State.rowHeld (s : State) (t : Table) (l : RowLoc) : Bool := l.moving || s.shardMoving t.scope (l.shard t)

/-- An INT4 row that cannot be narrowed takes FP8 for its whole block (R92): every record of the block
is rewritten at FP8 and the entry changes its width. Poisoned records stay poisoned. -/
def JM.blockToFp8 (t : Table) (v : Bool) (l : RowLoc) : JM Unit := do
  let j ← get
  let e := j.s.dirEnt (t.dir v) (l.row / 16)
  let recs ← JM.all (List.range 16) fun i => JM.mem (e.addr + i * t.recLen 2) (t.recLen 2)
  recs.zipIdx.forM fun (r, i) => do
    let d ← JM.ar l.sifter (encodeRow 1 (decodeRow t 2 r.1))
    let a := e.addr + i * t.recLen 1
    JM.write a (d.getD [] ++ r.1.drop (t.dataLen 2))
    JM.upd fun s => if r.2 then (rangeFrom (a / 32) (t.recLen 1 / 32)).foldl (fun s c => s.poisonAt (32 * c)) s else s
  JM.upd fun s => s.putDir (t.dir v) (l.row / 16)
    { s.dirEnt (t.dir v) (l.row / 16) with word0 := e.word0 - fld e.word0 2 2 * 4 + 4 }

/-- Stores FP16 values as a row, with new optimiser state or the state as it stands (R92, R95). -/
def JM.storeRow (t : Table) (v : Bool) (idx64 : Bool) (l : RowLoc) (x : List FV) (state : Option Bytes) : JM Unit := do
  let d ← JM.ar l.sifter (encodeRow l.width x)
  match d with
  | some b => JM.write l.addr (b ++ state.getD [])
  | none => do
    JM.blockToFp8 t v l
    let l' := (← JM.st).rowLoc t v idx64 l.row
    let d ← JM.ar l.sifter (encodeRow 1 x)
    JM.write l'.addr (d.getD [] ++ state.getD [])

/-- One `ROW_WRITE` of a row. -/
def JM.writeOne (w : SiftWork) (e : Ent) : JM Unit := do
  let l := (← JM.st).rowLoc w.t w.version w.blk.idx64 e.row
  if l.kind = .out then pure ()
  else
    let x ← JM.ar l.sifter (((Elem.fl fp32).unpack w.t.len e.src).mapM fun n => narrowTo fp16 .rne false (fp32.dec n))
    JM.storeRow w.t w.version w.blk.idx64 l x (if w.blk.keep then none else some (List.replicate w.t.stateLen 0#8))
    JM.upd fun s =>
      let s := s.countRow w.t w.version l 0 1
      if e.bad then
        let l' := s.rowLoc w.t w.version w.blk.idx64 e.row
        (rangeFrom (l'.addr / 32) (w.t.recLen l'.width / 32)).foldl (fun s c => s.poisonAt (32 * c)) s
      else s

/-- Serves a `ROW_WRITE`: its rows here when none is held and no earlier operation on one waits, in list order and as
a whole, so that a stop leaves no row written. Answers the skipped rows, those of other devices among them. A
`ROW_WRITE` takes no coalescer entry (R507 names lookups and windows) and so never needs the sort area (DESIGN CHOICE,
log entry 63). -/
def JM.rowWrites (port : Nat) (b : SiftBlk) (t : Table) (v : Bool) (ents : List Ent) (fwd : Bool) : JM Nat := do
  match ← JM.place port b t v ents fwd with
  | none => pure 0
  | some w =>
    let whole ← JM.theirs w
    if (← JM.part .done).isNone then
      let s ← JM.st
      let locs := w.mine.map fun e => s.rowLoc t v b.idx64 e.row
      if locs.any (fun l => l.kind != .out && s.rowHeld t l) || (← JM.rowsWait) then JM.stop
      let _ ← JM.all locs fun l => JM.ready l.addr (t.recLen l.width)
      JM.whole (w.mine.forM (JM.writeOne w))
      JM.rowsDone [] (locs.countP fun l => l.kind == .out)
    if !whole then JM.stop
    let ps := (← get).parts
    pure ((ps.filter fun p => p.key == .done || w.theirs.any fun x => p.key == .sift x.1).map (·.count)).sum

/-! ### Running a request of this device -/

/-- Bag lengths of a request of this device. -/
def Core.bagLen (k : Core) (b : SiftBlk) (g : Nat) : Nat :=
  let off := k.siftOffsets b
  off.getD (g + 1) 0 - off.getD g 0

/-- Serves a lookup or a row write of core c as far as it can go. -/
def State.runSift (s : State) (c : Nat) (q : LsuReq) : State :=
  let b := SiftBlk.parse q.block
  let who := (c, q.id)
  if q.prog.err ≠ 0 then (if s.progWaits who then s else s.endReq c q q.prog.err 0)
  else
    match s.tableOf b.table with
    | none => s.endReq c q rsTableInvalid 0
    | some t =>
      let ents := (s.core c).siftEntries b t.len
      let mk : State → List Key → List Send := fun s => siftMk q.version q.block b.op 1 (s.theirsOf who ents)
      if b.lookup then
        let body : JM (Option Nat) := do
          match ← JM.lookup q.port b t q.version ents false with
          | none => pure none
          | some v =>
            let n ← JM.deliverLookup c q v [] (fun g => (s.core c).bagLen b g)
            pure (some n)
        s.runJob who q.port q.item body mk fun s r =>
          match r with
          | some n => (s.modItemRun c q.item fun x => { x with lookupCount := x.lookupCount + n }).endReq c q rsOk n
          | none => s.endReq c q rsSortOverflow 0
      else
        s.runJob who q.port q.item (JM.rowWrites q.port b t q.version ents false) mk fun s n =>
          (s.countRing q.ring q.item n 0 0).endReq c q rsOk 0

/-! ### Serving a request of another device -/

/-- Inserts into a list that rises by a key. -/
def insBy {α : Type} (key : α → Nat) (x : α) : List α → List α
  | [] => [x]
  | y :: r => if key x < key y then x :: y :: r else y :: insBy key x r

/-- Sorts by a key, keeping the order of equal keys. -/
def sortBy {α : Type} (key : α → Nat) (l : List α) : List α := l.foldl (fun acc x => insBy key x acc) []

/-- The results for another device, in ascending bag and start, or list position (R363): what poison
taints is not sent (R428), and what a forward brought is passed on. -/
def Served.results (v : Served) (relayed : List Bytes) : Bytes :=
  let b := v.work.blk
  if b.pools then
    let own := v.pools.flatMap fun p => (p.2.filter fun x => !x.2).map fun x => (p.1, x.1)
    let rel := relayed.flatMap fun x => nodesParse b.sumCfg.s v.work.t.len x.length x
    (sortBy (fun x => x.1 * 2 ^ 40 + x.2.start) (own ++ rel)).flatMap fun x => nodeBytes b.sumCfg.s x.1 x.2
  else
    let own := v.ents.filterMap fun x =>
      let r := x.2.val
      if r.bad then none else some (x.1.bag, ((outBytes b.outFmt r.vals).run 0).1 ++ (if b.op = 7 then r.state else []))
    let rel := relayed.flatMap fun x => resultsParse x.length x
    (sortBy (·.1) (own ++ rel)).flatMap fun x => padTo 8 (natLe 8 x.1 ++ natLe 8 x.2.length ++ x.2)

/-- The length of a `SIFT_REQ` body of n entries (Table 11-11). -/
def siftBodyLen (op len n : Nat) : Nat := 72 + n * (24 + if op = 6 then roundUp (4 * len) 8 else 0)

/-- Serves a `SIFT_REQ` of another device as far as it can go (R102, R363). A request that names version 1 of a table
that has version 0 only reads the directory and default row at address 0 that its descriptor holds for version 1
(DESIGN CHOICE, log entry 64). The answer to a `ROW_WRITE` counts its skipped rows, which R83 counts at the ring of the
request (DEDUCED, log entry 63). -/
def State.runRemoteSift (s : State) (r : Remote) : State :=
  let who := whoRemote r.dev r.tag
  let block := slice r.body 8 64
  let version := bitAt (fieldAt r.body 0 8) 0
  let n := bfld r.body 0 8 8 32
  let b := SiftBlk.parse block
  let fail (st : Nat) : State := s.endRemote r.dev r.tag st 0 []
  if r.prog.err ≠ 0 then (if s.progWaits who then s else fail r.prog.err)
  else if siftBad block ∨ b.op = 4 ∨ b.op = 5 ∨ bfld r.body 0 8 1 7 ≠ 0 ∨ bfld r.body 0 8 40 24 ≠ 0 ∨ r.body.length < 72 + 24 * n then
    fail rsBadDescriptor
  else
    match s.tableOf b.table, s.tableAccess r.port b.table b.writes with
    | some t, 0 =>
      let ents := entsParse b.op t.len n (r.body.drop 72)
      -- what the layout does not name is zero (R363)
      if r.body.length ≠ siftBodyLen b.op t.len n ∨ siftBody version block b.op ents ≠ r.body then fail rsBadDescriptor
      else
        let mk : State → List Key → List Send := fun s => siftMk version block b.op 5 (s.theirsOf who ents)
        let body : JM (Nat × Nat × List Bytes) := do
          if b.lookup then
            match ← JM.lookup r.port b t version ents r.fwd with
            | none => pure (rsSortOverflow, 0, [])
            | some v =>
              let ps := (← get).parts
              let rel := v.work.theirs.filterMap fun x => ps.find? fun p => p.key == .sift x.1
              let d := v.defaults
              pure (rsOk, d.1 + d.2 + (rel.map (·.count)).sum, [v.results (rel.map (·.bytes))])
          else
            let n ← JM.rowWrites r.port b t version ents r.fwd
            pure (rsOk, n, [])
        s.runJob who r.port noItem body mk fun s x => s.endRemote r.dev r.tag x.1 x.2.1 x.2.2
    | _, st => fail (if st = 0 then rsTableInvalid else st)

end Sys2Proof.Machine
end

