-- ==== Sys2Proof/Machine/Windows.lean ====
section
/-! DEFINITION. Update windows (R87-R93): UPDATE, APPLY and its optimisers, the records and end markers of other ranks, and the commands of Sifter work. -/

namespace Sys2Proof.Machine

/-! ### Windows -/

def Window.of (w : Window) (p table : Nat) (v : Bool) : Bool := w.port == p && w.table == table && w.version == v

/-- The window that takes contributions of this device. -/
def Window.takes (p table : Nat) (v : Bool) (w : Window) : Bool := w.of p table v && w.wait.isNone && !w.closed

/-- The window that takes the marker of rank d: the oldest that has not got it. -/
def Window.takesFrom (p table : Nat) (v : Bool) (d : Nat) (w : Window) : Bool := w.of p table v && !w.ranks.contains d

/-- The window that takes the records of rank d that a device sends: the oldest that has not its marker from that device. -/
def Window.takesNodes (p table : Nat) (v : Bool) (d dev : Nat) (w : Window) : Bool :=
  w.of p table v && !(w.ranks.zip w.froms).contains (d, dev)

def Window.new (p table : Nat) (v : Bool) : Window :=
  { port := p, table := table, version := v, par := none, contribs := [], fwd := [], nodes := [], ranks := [], sorted := [],
    spoiled := false, overflow := false, wait := none, closed := false }

/-- Updates the first window a test selects, opening one where none is. -/
def State.withWindow (s : State) (p table : Nat) (v : Bool) (t : Window → Bool) (f : Window → Window) : State :=
  if s.windows.any t then { s with windows := modFirst t f s.windows }
  else { s with windows := s.windows ++ [f (Window.new p table v)] }

/-- The store or sort area of a Sifter that a window has outgrown: sorted mode, or overflow (R85). -/
def State.windowCapacity (s : State) (p table : Nat) (v : Bool) : State :=
  let ks := (List.range 10) ++ [fwdStore 8, fwdStore 9]
  let t := Window.takes p table v
  let s := ks.foldl (fun s k =>
    if s.storeBytes p k < s.storeUsed p k ∨ s.rowEntries p (k % 16) < s.rowsUsed p (k % 16) then
      { s with windows := modFirst t (fun w => if w.sorted.contains k ∨ (w.inStore k).isEmpty then w else { w with sorted := w.sorted ++ [k] }) s.windows }
    else s) s
  (List.range 10).foldl (fun s sf =>
    if s.shareOf p sf 16 (s.sortArea sf) < s.sortUsed p sf then
      { s with windows := modFirst t (fun w => if w.sorted.contains sf ∨ w.sorted.contains (fwdStore sf) then { w with overflow := true } else w) s.windows }
    else s) s

/-- The Sifter whose forward store takes contributions for a device (R89). -/
def State.forwardSifter (s : State) (d : Nat) : Nat :=
  match s.routeOf d with
  | some l => if l < 18 then 8 else 9
  | none => 8

/-- The window parameters that an `UPDATE` carries. -/
def SiftBlk.winPar (b : SiftBlk) : WinPar := ⟨(spillOf b.spill).getD 9, b.sr, b.seed, b.depth, b.rankLevel⟩

/-- The term that contribution i of an `UPDATE` brings: its bag's BF16 gradient, times its weight (R87). -/
def Core.gradTerm (k : Core) (b : SiftBlk) (len : Nat) (e : Ent) : Ar NodeArr := do
  let raw := (Elem.fl bf16).unpack len (k.lsBytes (b.outAddr + e.bag * roundUp (2 * len) 32) (2 * len))
  let x := raw.map bf16.dec
  let x ← if b.wtFmt = 0 then pure x else x.mapM fun v => mul32 v (wtVal b.wtFmt e.wt)
  pure (x.map toBits64)

/-- Deposits one contribution; answers whether it was discarded. One to a row that this device takes as absent goes to
the default row, at its home (R76, R83). -/
def State.deposit (s : State) (c : Nat) (q : LsuReq) (b : SiftBlk) (t : Table) (e : Ent) (i : Nat) : Bool × State :=
  let k := s.core c
  let h := s.readHome t q.version b.idx64 e.row
  let home := h.1
  let here := home == s.devId
  let l := s.rowLoc t q.version b.idx64 e.row
  let sf := if here then l.sifter else s.forwardSifter home
  let dflt := if here then l.dflt else t.outside b.idx64 h.2 != .here
  let r := (k.gradTerm b t.len e).run 0
  let x : Contrib := { row := if dflt then none else some e.row, idx := b.gradBase + i, term := r.1, weighted := b.wtFmt != 0,
                       poisoned := k.lsBad (b.outAddr + e.bag * roundUp (2 * t.len) 32) (2 * t.len), sf := sf }
  let tk := Window.takes q.port t.id q.version
  let same (y : Contrib) : Bool := y.row == x.row && y.idx == x.idx
  let dup := s.windows.any fun w => tk w && (if here then w.contribs.any same else w.fwd.any fun y => y.1 == home && same y.2)
  let s := if r.2 = 0 then s else s.sifterInv sf r.2
  (dup, s.withWindow q.port t.id q.version tk fun w =>
    let w := { w with par := some b.winPar }
    if dup then { w with spoiled := true }
    else if here then { w with contribs := w.contribs ++ [x] } else { w with fwd := w.fwd ++ [(home, x)] })

/-- `UPDATE` (R87, R88): its contributions join the open window, in list order; those to a shard that is moving wait
until it has moved (R102). -/
def State.runUpdate (s : State) (c : Nat) (q : LsuReq) : State :=
  let b := SiftBlk.parse q.block
  match s.tableOf b.table with
  | none => s.endReq c q rsTableInvalid 0
  | some t =>
    let tk := Window.takes q.port t.id q.version
    let differs (w : Window) : Bool := tk w && (match w.par with
      | some p => p != b.winPar
      | none => false)
    let ents := (s.core c).siftEntries b t.len
    if s.windows.any differs then s.endReq c q rsChainMismatch 0
    else if ents.any fun e => s.shardMoving t.scope ((s.rowLoc t q.version b.idx64 e.row).shard t) then s
    else
      let r := ents.zipIdx.foldl (fun (a : Bool × State) x =>
        let d := a.2.deposit c q b t x.1 x.2
        (a.1 || d.1, d.2)) (false, s.readRowDirs q.port (q.cls == .express) t q.version b.idx64 (ents.map (·.row)))
      (r.2.windowCapacity q.port t.id q.version).endReq c q (if r.1 then rsChainMismatch else rsOk) 0

/-! ### Combining and the optimisers (R88-R92) -/

/-- Tensor id and u of a row's combining tree (R88). -/
def combineTensor (table : Nat) (row : Option Nat) : Nat × Nat :=
  match row with
  | none => (table * 2 ^ 16 + 0xFE, 0)
  | some r => (table * 2 ^ 16 + fld r 32 8 * 2 ^ 8 + 0xFF, r % 2 ^ 32)

/-- Tensor id and u of a stored quantity: f is 0 for w, 1 for m, 2 for v (R92). -/
def storeTensor (table : Nat) (row : Option Nat) (f : Nat) : Nat × Nat :=
  match row with
  | none => (table * 2 ^ 16 + 0x80 + f, 0)
  | some r => (table * 2 ^ 16 + fld r 32 8 * 2 ^ 8 + f, r % 2 ^ 32)

def WinPar.cfg (p : WinPar) (tensor : Nat) : SumCfg := ⟨p.s, p.sr, p.seed, tensor⟩

/-- The contributions of one row as leaves of its tree. -/
def contribItems (l : List Contrib) : List TreeItem := l.map fun c => ⟨c.idx, 0, c.term⟩

/-- A row's gradient: the root of its combining tree of `depth` levels, handed off as FP32 (R90). -/
def rowGradient (p : WinPar) (table len : Nat) (row : Option Nat) (items : List TreeItem) : Ar (List FV) := do
  let x := combineTensor table row
  let uvs := (List.range len).map fun e => (x.2, e)
  let root ← treeNode (p.cfg x.1) uvs p.depth 0 items
  pure (handOff len root)

/-- What the optimiser computes for one row (R91): new w, m, v and accumulator. -/
structure OptOut where
  w : List FV
  m : List FV
  v : List FV
  a : Option FV
deriving DecidableEq, Repr

/-- One element of Adam: new m, v and w. -/
def adamElem (t : Table) (eta c1 c2 w g m v : FV) : Ar (FV × FV × FV) := do
  let f (n : Nat) := fp32.dec n
  let m' ← add32 (← mul32 (f t.beta1) m) (← mul32 (f t.beta1c) g)
  let v' ← add32 (← mul32 (f t.beta2) v) (← mul32 (f t.beta2c) (← mul32 g g))
  let den ← add32 (← sqrt32 (← mul32 v' c2)) (f t.eps)
  let w' ← sub32 w (← mul32 eta (← div32 (← mul32 m' c1) den))
  pure (m', v', w')

/-- Adam moments as stored (Table 03-4). -/
def momentVals (t : Table) (b : Bytes) : List FV :=
  if t.mom32 then ((Elem.fl fp32).unpack t.len b).map fp32.dec else ((Elem.fl bf16).unpack t.len b).map bf16.dec

/-- The optimisers of R91. Each operation rounds once, which its "each line rounds once" is read to mean (DESIGN CHOICE, log
entry 70). -/
def optimise (t : Table) (eta c1 c2 : FV) (w g : List FV) (state : Bytes) : Ar OptOut := do
  if t.opt = 1 then
    let w' ← (w.zip g).mapM fun x => do sub32 x.1 (← mul32 eta x.2)
    pure ⟨w', [], [], none⟩
  else if t.opt = 2 then
    let sq ← g.mapM fun x => mul32 x x
    let tot ← canonSum ⟨64, false, 0, 0⟩ 0 0 (sq.map some)
    let a ← add32 (fp32.dec (fieldAt state 0 4)) (← div32 tot (FV.ofInt t.len))
    let den ← add32 (← sqrt32 a) (fp32.dec t.eps)
    let w' ← (w.zip g).mapM fun x => do sub32 x.1 (← div32 (← mul32 eta x.2) den)
    pure ⟨w', [], [], some a⟩
  else
    let m := momentVals t state
    let v := momentVals t (state.drop t.momentLen)
    let r ← ((w.zip g).zip (m.zip v)).mapM fun x => adamElem t eta c1 c2 x.1.1 x.1.2 x.2.1 x.2.2
    pure ⟨r.map fun x => x.2.2, r.map fun x => x.1, r.map fun x => x.2.1, none⟩

/-- The rounding of one stored quantity (R92). -/
def storeRnd (sr : Bool) (seed table : Nat) (row : Option Nat) (f e : Nat) : Rnd :=
  if sr then
    let x := storeTensor table row f
    .sr (drawNarrow seed x.1 x.2 e)
  else .rne

def storeVals (f : Fmt) (sr : Bool) (seed table : Nat) (row : Option Nat) (sel : Nat) (x : List FV) : Ar (List FV) :=
  x.zipIdx.mapM fun (v, e) => narrowTo f (storeRnd sr seed table row sel e) false v

/-- The new FP16 values and state part of a row (R92, Table 03-4). -/
def storedForm (t : Table) (sr : Bool) (seed : Nat) (row : Option Nat) (o : OptOut) : Ar (List FV × Bytes) := do
  let w ← storeVals fp16 sr seed t.id row 0 o.w
  if t.opt = 2 then pure (w, padTo 32 (natLe 4 (fp32.enc (o.a.getD (.zero false)))))
  else if t.opt = 3 then
    if t.mom32 then
      pure (w, padTo 32 (o.m.flatMap fun v => natLe 4 (fp32.enc v)) ++ padTo 32 (o.v.flatMap fun v => natLe 4 (fp32.enc v)))
    else
      let m ← storeVals bf16 sr seed t.id row 1 o.m
      let v ← storeVals bf16 sr seed t.id row 2 o.v
      pure (w, padTo 32 (m.flatMap fun x => natLe 2 (bf16.enc x)) ++ padTo 32 (v.flatMap fun x => natLe 2 (bf16.enc x)))
  else pure (w, [])

/-! ### APPLY (R90) -/

/-- What one row of a closing window brings. -/
structure RowWork where
  row : Option Nat
  loc : RowLoc
  items : List TreeItem
  bad : Bool
deriving DecidableEq, Repr

/-- The touched rows of a window in the order of R90: the default row first, then by index. A row whose
block this device takes as absent is the default row (R74). -/
def State.touched (s : State) (t : Table) (w : Window) : List RowWork :=
  let place (r : Option Nat) : RowLoc := match r with
    | some i => s.rowLoc t w.version true i
    | none => s.dfltLoc t w.version .out
  let real (r : Option Nat) : Option Nat := if (place r).dflt then none else r
  let cs := w.contribs.map fun c => (real c.row, TreeItem.mk c.idx 0 c.term, c.poisoned)
  let ns := w.nodes.map fun n => (real n.1, n.2, false)
  let all := cs ++ ns
  let keys := sortBy (fun r => match r with
    | none => 0
    | some i => i + 1) ((all.map (·.1)).eraseDups)
  keys.map fun r =>
    let mine := all.filter fun x => x.1 == r
    ⟨r, place r, mine.map fun x => x.2.1, mine.any fun x => x.2.2⟩

/-- A row that an `APPLY` leaves as it stands is logged in a Sifter's log with its table (R430). -/
def State.logPoisonedRow (s : State) (port sf table : Nat) (row : Option Nat) : State :=
  s.logEvent (lgSifter sf) [port] ePoisonedRow cPoisoned 0 0 (sf % 8) (BitVec.ofNat 64 table)
    (match row with
     | some i => BitVec.ofNat 64 i
     | none => BitVec.allOnes 64)

/-- `APPLY` on one row, indivisibly (R91-R93, R430): 1 when the row written holds a NaN or an infinity. -/
def JM.applyRow (t : Table) (w : Window) (p : WinPar) (b : SiftBlk) (x : RowWork) : JM Nat := do
  let s ← JM.st
  let l := match x.row with
    | some i => s.rowLoc t w.version true i
    | none => x.loc
  if x.row.isNone && t.frozen then pure 0
  else
    let r ← JM.readRow t l
    if r.bad || x.bad then
      JM.upd fun s => s.logPoisonedRow w.port l.sifter t.id x.row
      pure 0
    else
      let f (n : Nat) := fp32.dec n
      let res ← JM.ar l.sifter (do
        let g ← rowGradient p t.id t.len x.row x.items
        let o ← optimise t (f b.eta) (f b.c1) (f b.c2) r.vals g r.state
        let st ← storedForm t b.sr b.seed x.row o
        pure (o, st))
      JM.storeRow t w.version true l res.2.1 (some res.2.2)
      JM.upd fun s => s.countRow t w.version l 0 1
      let o := res.1
      pure (if (o.w ++ o.m ++ o.v ++ o.a.toList).any FV.nonFinite then 1 else 0)

/-- The rows of a closing window, as one operation on each: they wait for earlier operations on them (R94), for blocks and
shards that move (R96, R102) and for bytes of tier H, and none is written before all can be. -/
def JM.applyRows (t : Table) (w : Window) (b : SiftBlk) : JM Nat := do
  let s ← JM.st
  let rows := s.touched t w
  JM.arrive w.port t w.version true (rows.map (·.loc))
  if rows.any (fun x => s.rowHeld t x.loc) || (← JM.rowsWait) then JM.stop
  let _ ← JM.all rows fun x => JM.ready x.loc.addr (t.recLen x.loc.width)
  match w.par with
  | none => pure 0
  | some p => JM.whole do
    let ns ← rows.mapM fun x => JM.applyRow t w p b x
    pure ns.sum

/-- Rank of this device among the data-parallel ranks (R355). The largest P of the fabric is open (DESIGN CHOICE, log entry 69). -/
def State.ownRank (s : State) (scope : Nat) : Nat :=
  if scope = 2 then s.podId * 2 ^ clog2 (max s.podSize Config.largestPod) + s.podIndex else s.podIndex

/-- Row index that a partial record carries for the default row (DESIGN CHOICE, log entry 31). -/
def dfltRecord : Nat := 2 ^ 40 - 1

/-- The partial records of a forward store for one home device: rank-level nodes in ascending row order (R89). A row with a
poisoned contribution has none (R428). -/
def fwdRecords (p : WinPar) (t : Table) (d : Nat) (l : List Contrib) : Ar (List (Nat × TreeItem)) := do
  let keys := sortBy (fun r => r.getD dfltRecord) ((l.map (·.row)).eraseDups)
  let rs : List (Option (Nat × TreeItem)) ← keys.mapM fun r => do
    let x := combineTensor t.id r
    let uvs := (List.range t.len).map fun e => (x.2, e)
    let mine := l.filter fun c => c.row == r && c.idx >>> p.rankLevel == d
    if mine.any (·.poisoned) then pure none
    else
      match ← treeNode (p.cfg x.1) uvs p.rankLevel d (contribItems mine) with
      | some a => pure (some (r.getD dfltRecord, ⟨d <<< p.rankLevel, p.rankLevel, a⟩))
      | none => pure none
  pure (rs.filterMap id)

/-- The rank of a window's contributions: its position d, or the device's rank when it has none. -/
def State.windowRank (s : State) (w : Window) (scope : Nat) : Nat :=
  match w.par, w.contribs.head?.orElse (fun _ => (w.fwd.head?).map (·.2)) with
  | some p, some c => c.idx >>> p.rankLevel
  | _, _ => s.ownRank scope

/-- A row whose contributions for another device hold poison is logged here, in the log of the forward store's Sifter: no
record of it is sent, and no message tells its home (R428, R430; DESIGN CHOICE, log entry 75). -/
def State.logPoisonedFwd (s : State) (w : Window) (dev : Nat) (l : List Contrib) : State :=
  (((l.filter (·.poisoned)).map (·.row)).eraseDups).foldl (fun s r => s.logPoisonedRow w.port (s.forwardSifter dev) w.table r) s

/-- The first 16 bytes of an `UPDATE_NODE` body for records of rank d (Table 11-11). -/
def WinPar.head (p : WinPar) (table : Nat) (v : Bool) (d : Nat) : Bytes :=
  natLe 8 (table + (if v then 2 ^ 16 else 0) + p.s * 2 ^ 17 + (if p.sr then 2 ^ 21 else 0) + p.depth * 2 ^ 22 + p.rankLevel * 2 ^ 28 + d % 2 ^ 12 * 2 ^ 34)
    ++ natLe 8 p.seed

/-- The bodies of the `UPDATE_NODE` messages for some records: at most 2^24 bytes each (R334). -/
def nodeBodies (head : Bytes) (s : Nat) : List (Nat × TreeItem) → List Bytes
  | [] => []
  | x :: r =>
    let b := nodeBytes s x.1 x.2
    match nodeBodies head s r with
    | [] => [head ++ b]
    | y :: t => if y.length + b.length ≤ 2 ^ 24 then (head ++ b ++ y.drop 16) :: t else (head ++ b) :: y :: t

/-- Sends a closed window's records and end markers to the other devices of the scope (R89). -/
def State.sendWindow (s : State) (t : Table) (w : Window) : State :=
  let d := s.windowRank w t.scope
  let ver := if w.version then 2 ^ 16 else 0
  (s.scopeOthers t.scope).foldl (fun s dev =>
    let mine := (w.fwd.filter fun x => x.1 == dev).map (·.2)
    let r : List (Nat × TreeItem) × Nat := match w.par with
      | some p => (fwdRecords p t d mine).run 0
      | none => ([], 0)
    let s := (if r.2 = 0 then s else s.sifterInv (s.forwardSifter dev) r.2).logPoisonedFwd w dev mine
    let s := match w.par with
      | some p => (nodeBodies (p.head t.id w.version d) p.s r.1).foldl (fun (s : State) b => (s.sendRq dev 3 w.port b).2) s
      | none => s
    (s.sendRq dev 4 w.port (natLe 8 (t.id + ver + d % 2 ^ 12 * 2 ^ 17 + (if w.spoiled then 2 ^ 29 else 0) + r.1.length * 2 ^ 32))).2) s

/-- The window an `APPLY` request waits on. -/
def Window.waitsFor (c id : Nat) (w : Window) : Bool :=
  match w.wait with
  | some a => a.core == c && a.req == id && !w.closed
  | none => false

/-- The parameters of a window that an `APPLY` must carry too (R88). -/
def WinPar.agrees (p : WinPar) (b : SiftBlk) : Bool := p.s == (spillOf b.spill).getD 9 && p.sr == b.sr && p.seed == b.seed

/-- Goes on with an `APPLY` whose window is closed: when every rank's marker is in, its rows reach the Sifters and are
processed. While it waits for markers it holds no queue entry (R359). A window whose parameters came from another rank
and differ from the block's ends it `CHAIN_MISMATCH` (R88). -/
def State.runApply (s : State) (c : Nat) (q : LsuReq) : State :=
  let b := SiftBlk.parse q.block
  match s.windows.find? (Window.waitsFor c q.id), s.tableOf b.table with
  | some w, some t =>
    if w.ranks.length + 1 < b.ranks then s.dequeue (c, q.id)
    else
      let s := if s.queue.contains (c, q.id) then s else { s with queue := s.queue ++ [(c, q.id)] }
      let drop (s : State) : State := { s with windows := s.windows.erase w }
      if q.prog.err ≠ 0 then (if s.progWaits (c, q.id) then s else (drop s).endReq c q q.prog.err 0)
      else if w.spoiled || !w.par.all fun p => p.agrees b then (drop s).endReq c q rsChainMismatch 0
      else if w.overflow then (drop s).endReq c q rsSortOverflow 0
      else
        s.runJob (c, q.id) q.port q.item (JM.applyRows t w b) (fun _ _ => []) fun s n =>
          ((drop s).modItemRun c q.item fun r => { r with applyCount := r.applyCount + n }).endReq c q rsOk n
  | _, _ => s

/-- `APPLY` closes its window and tells the other ranks (R87, R89, R90). -/
def State.startApply (s : State) (c : Nat) (q : LsuReq) : State :=
  let b := SiftBlk.parse q.block
  match s.tableOf b.table with
  | none => s.endReq c q rsTableInvalid 0
  | some t =>
    let tk := Window.takes q.port t.id q.version
    let differs (w : Window) : Bool := tk w && !w.par.all fun p => p.agrees b
    if s.windows.any differs then s.endReq c q rsChainMismatch 0
    else
      let s := s.withWindow q.port t.id q.version tk fun w => { w with wait := some ⟨c, q.id, b.ranks, s.ticks, s.windowLimit⟩ }
      let s := match s.windows.find? (Window.waitsFor c q.id) with
        | some w => s.sendWindow t w
        | none => s
      s.runApply c q

/-! ### Commands of Sifter work -/

/-- Takes up Sifter work of core c, or goes on with it. -/
def State.serveSift (s : State) (c id : Nat) : State :=
  match s.reqOf c id with
  | some q =>
    let op := fieldAt q.block 0 1 % 16
    if op = 4 then s.runUpdate c q
    else if op = 5 then (if s.windows.any (Window.waitsFor c id) then s.runApply c q else s.startApply c q)
    else s.runSift c q
  | none => s

/-- A command of the Sifter work `op` for request id of core c: the request reaches the Sifters. -/
def siftOp (op : Nat) (c : CoreIx) (id : Nat) (s : State) : State :=
  match s.reqOf c.val id with
  | some q =>
    if s.running && q.kind == .sift && fieldAt q.block 0 1 % 16 == op && !q.served && !s.queue.contains (c.val, id) &&
        !s.windows.any (Window.waitsFor c.val id) then
      { s with queue := s.queue ++ [(c.val, id)] }.runEnds (c.val, id) fun s => s.serveSift c.val id
    else s
  | none => s

/-- APPLY_WINDOW_TIMEOUT (R90): a rank's marker is missing at the timeout; no row changes. -/
def applyWindowTimeout (p : PortIx) (table : BitVec 16) (s : State) : State :=
  let due (w : Window) : Bool := w.port == p.val && w.table == table.toNat && !w.closed &&
    (match w.wait with
     | some a => decide (w.ranks.length + 1 < a.ranks ∧ a.since + a.limit ≤ s.ticks)
     | none => false)
  match s.windows.find? due with
  | some w =>
    match w.wait with
    | some a =>
      match s.reqOf a.core a.req with
      | some q => { s with windows := modFirst due (fun w => { w with closed := true, contribs := [], fwd := [], nodes := [], srcs := [] }) s.windows }.endReq
          a.core q rsRankMissing 0
      | none => s
    | none => s
  | none => s

/-! ### Records and markers of other ranks -/

/-- A late window of R90 goes once every rank's marker is in. -/
def dropLate (l : List Window) : List Window :=
  l.filter fun w => !(w.closed && (match w.wait with
    | some a => decide (a.ranks ≤ w.ranks.length + 1)
    | none => true))

/-- The device that takes a record for a row, and the row there: a row that R74 takes as absent here is the default row, at
its home (R76, R83), and a row that has moved is at its new home (R103). -/
def State.nodeHome (s : State) (t : Table) (v : Bool) (r : Option Nat) : Nat × Option Nat :=
  match r with
  | some i =>
    let h := s.readHome t v true i
    (h.1, if h.2 = i ∧ t.outside true i = .here then some i else none)
  | none => (s.rowHome t true absentRow, none)

/-- Records that have come to a device that is not, or no longer, the home of their rows go on to it, as records of the same
rank; one that comes after the home's window was processed joins the next (DESIGN CHOICE, log entry 75). -/
def State.passNodes (s : State) (t : Table) (v : Bool) (port : Nat) (p : WinPar) (d : Nat) (l : List (Option Nat × TreeItem)) : State :=
  (((l.map fun n => (s.nodeHome t v n.1).1).eraseDups).filter (· != s.devId)).foldl (fun s' dev =>
    let mine := l.filterMap fun n =>
      let h := s.nodeHome t v n.1
      if h.1 = dev then some (h.2.getD dfltRecord, n.2) else none
    (nodeBodies (p.head t.id v d) p.s mine).foldl (fun (s : State) b => (s.sendRq dev 3 port b).2) s') s

/-- UPDATE_NODE (R89): partial records of a rank join the window; they must carry its parameters (R88). Records for rows
of a shard that is moving wait (R102); a body that is no sequence of whole records is refused (R363). -/
def updateNode (l : LinkIx) (s0 : State) : State :=
  match s0.takeMsg l.val clRq 3 with
  | none => s0
  | some (m, s) =>
    let w0 := fieldAt m.body 0 8
    let table := fld w0 0 16
    let ver := bitAt w0 16
    let d := fld w0 34 12
    let par : WinPar := ⟨fld w0 17 4, bitAt w0 21, fieldAt m.body 8 8, fld w0 22 6, fld w0 28 6⟩
    let port := fld m.head.info.toNat 32 1
    let tag := fld m.head.info.toNat 0 32
    let dev := m.head.src
    let answer (s : State) (st : Nat) : State := s.sendAnswer dev tag port [] st 0
    if fld w0 46 18 ≠ 0 ∨ par.s < 9 ∨ 12 < par.s ∨ par.depth < par.rankLevel then answer s rsBadDescriptor
    else
      match s.tableOf table, s.tableAccess port table true with
      | some t, 0 =>
        let tf := Window.takesNodes port table ver d dev
        let differs := match s.windows.find? tf with
          | some w => w.par.isSome && w.par != some par
          | none => false
        if !nodesWhole par.s t.len m.body.length (m.body.drop 16) then answer s rsBadDescriptor
        else if differs then answer s rsChainMismatch
        else
          let ns := (nodesParse par.s t.len m.body.length (m.body.drop 16)).map fun x => (if x.1 = dfltRecord then none else some x.1, x.2)
          if ns.any fun n => s.shardMoving t.scope (shardOf table (match n.1 with
              | some i => i / 16
              | none => 0)) then s0
          else
            let here := ns.filter fun n => (s.nodeHome t ver n.1).1 == s.devId
            let gone := ns.filter fun n => (s.nodeHome t ver n.1).1 != s.devId
            let s := s.withWindow port table ver tf fun w =>
              if w.closed then w
              else { w with par := some par, nodes := w.nodes ++ here, srcs := w.srcs ++ here.map fun _ => dev,
                            away := w.away ++ gone.map fun _ => (d, dev) }
            answer (s.passNodes t ver port par d gone) rsOk
      | _, st => answer s (if st = 0 then rsTableInvalid else st)

/-- A window holds, or has passed on, every record that a device sent for its rank d. -/
def Window.wholeFrom (w : Window) (d dev n : Nat) : Bool :=
  w.closed || ((w.nodes.zip w.srcs).countP fun x => (match w.par with
    | some p => x.1.2.start >>> p.rankLevel == d && x.2 == dev
    | none => false)) + w.away.countP (· == (d, dev)) == n

/-- UPDATE_END (R90): a rank's end marker; one that tells of records that did not arrive is not taken. -/
def updateEnd (l : LinkIx) (s : State) : State :=
  match s.takeMsg l.val clRq 4 with
  | none => s
  | some (m, s) =>
    let w0 := fieldAt m.body 0 8
    let table := fld w0 0 16
    let ver := bitAt w0 16
    let d := fld w0 17 12
    let port := fld m.head.info.toNat 32 1
    let answer (s : State) (st : Nat) : State := s.sendAnswer m.head.src (fld m.head.info.toNat 0 32) port [] st 0
    if fld w0 30 2 ≠ 0 ∨ m.body.length ≠ 8 then answer s rsBadDescriptor
    else
      match s.tableAccess port table true with
      | 0 =>
        let tf := Window.takesFrom port table ver d
        let s := s.withWindow port table ver tf fun w =>
          if w.wholeFrom d m.head.src (fld w0 32 32) then
            { w with ranks := w.ranks ++ [d], froms := w.froms ++ [m.head.src], spoiled := w.spoiled || bitAt w0 29 }
          else w
        let s := answer { s with windows := dropLate s.windows } rsOk
        match s.windows.find? fun w => w.of port table ver && w.wait.isSome && !w.closed with
        | some w => match w.wait with
          | some a => s.runEnds (a.core, a.req) fun s => match s.reqOf a.core a.req with
            | some q => s.runApply a.core q
            | none => s
          | none => s
        | none => s
      | st => answer s st

def execSift (c : CoreIx) (f : XFmt) (s : State) : Out := .next (siftInsn c f s)
def execGather (c : CoreIx) (req : Nat) (s : State) : Out := .next (siftOp 0 c req s)
def execSum (c : CoreIx) (req : Nat) (s : State) : Out := .next (siftOp 1 c req s)
def execWsum (c : CoreIx) (req : Nat) (s : State) : Out := .next (siftOp 2 c req s)
def execMean (c : CoreIx) (req : Nat) (s : State) : Out := .next (siftOp 3 c req s)
def execUpdate (c : CoreIx) (req : Nat) (s : State) : Out := .next (siftOp 4 c req s)
def execApply (c : CoreIx) (req : Nat) (s : State) : Out := .next (siftOp 5 c req s)
def execApplyWindowTimeout (p : PortIx) (table : BitVec 16) (s : State) : Out := .next (applyWindowTimeout p table s)
def execRowWrite (c : CoreIx) (req : Nat) (s : State) : Out := .next (siftOp 6 c req s)
def execRowRead (c : CoreIx) (req : Nat) (s : State) : Out := .next (siftOp 7 c req s)
def execUpdateNode (l : LinkIx) (s : State) : Out := .next (updateNode l s)
def execUpdateEnd (l : LinkIx) (s : State) : Out := .next (updateEnd l s)

end Sys2Proof.Machine
end

