-- ==== Sys2Proof/Machine/Nu.lean ====
section
/-! DEFINITION. Neighbourhood Unit requests (R105-R129, R140, R144): NUREQ, sampling, expansion, aggregation, walks, vertex reads and writes, and requests of other devices. -/

namespace Sys2Proof.Machine

/-! ### Graphs -/

/-- The missing vertex id of a form (R110). -/
def Graph.missing (g : Graph) : Nat := if g.form = 0 then 2 ^ 40 - 1 else 2 ^ 32 - 1
/-- Bytes of a neighbour entry (Table 04-3). -/
def Graph.entSize (g : Graph) : Nat := if g.form = 0 then 8 else 4
/-- Bytes of a vertex block (R107). -/
def Graph.blockLen (g : Graph) : Nat := 256 + 128 * g.planes

def State.vHome (s : State) (g : Graph) (v : Nat) : Nat := s.homeOf g.scope (vshardOf g.id (v / 16))

/-- The directory entry of a vertex's block on this device, when it names a block (R74, R107). -/
def State.vBlock (s : State) (g : Graph) (v : Nat) : Option DirEnt :=
  let e := s.dirEnt g.vdir (v / 16)
  if s.entOk g.port e g.blockLen && e.width == 0 then some e else none

/-- Address of value i of an array whose segments of 4 KiB a directory describes. -/
def State.segAddr (s : State) (p dir size i : Nat) : Option Nat :=
  let per := 4096 / size
  let e := s.dirEnt dir (i / per)
  if s.entOk p e 4096 && e.width == 0 then some (e.addr + i % per * size) else none

/-- R104, R117: whether port p may use the graph so. -/
def State.graphAccess (s : State) (p id : Nat) (write : Bool) : Nat :=
  match s.graphOf id with
  | none => rsGraphInvalid
  | some g => if g.port = p then rsOk else if g.shared then (if write then rsGraphReadonly else rsOk) else rsGraphInvalid

/-- A vertex record (Table 04-2). -/
structure VRec where
  off : Nat
  degree : Nat
  pfx : Bool
  wsorted : Bool
deriving DecidableEq, Repr

def VRec.parse (b : Bytes) : VRec := ⟨bfld b 0 8 0 48, fieldAt b 8 4, bfld b 8 8 33 1 == 1, bfld b 8 8 34 1 == 1⟩

/-- The two checks of R110 that need the home's own arrays. -/
def Graph.arraysOk (g : Graph) (r : VRec) : Bool := decide (r.off + r.degree ≤ g.nsize) && (!r.pfx || g.pdir != 0)

/-- The checks of R110 on a record that came from a device. Those of the arrays are made by the device whose they are:
`src` is its id, with 4,096 for each unit of what its answer tells (log entry 65). -/
def State.recOk (s : State) (g : Graph) (v src : Nat) (b : Bytes) : Bool :=
  bfld b 8 8 32 1 == 1 && bfld b 0 8 48 12 == vshardOf g.id (v / 16) && bfld b 0 8 60 4 == 0 && bfld b 8 8 35 29 == 0 &&
    (if src = s.devId then g.arraysOk (VRec.parse b) else src / 4096 != 2)

/-- What the count of an answer tells of the one record or plane value it brings: 0 it is as it should be, 1 the vertex's block is
not present, 2 the record fails R110; and in [14:2] the device whose arrays the record is of, plus one (DESIGN CHOICE, log entry 65). -/
def tellCount (tell src : Nat) : Nat := tell + 4 * (src % 4096 + 1)

/-- Where a value came from, by the count of the answer of device d. -/
def toldBy (d count : Nat) : Nat := if count = 0 then d else (count / 4 - 1) % 4096 + 4096 * (count % 4)

/-! ### Values of vertices and lists -/

def JM.taint (b : Bool) : JM Unit := modify fun j => { j with tainted := j.tainted || b }

/-- A value that is read once for a request: from what has come, from this device, or by asking its home. -/
def JM.value (k : Key) (here : Bool) (rd : JM (Bytes × Bool)) : JM Bytes := do
  match ← JM.part k with
  | some p => do
    JM.taint p.bad
    pure p.bytes
  | none =>
    if here then do
      let r ← rd
      JM.keep ⟨k, r.1, r.2, (← JM.st).devId⟩
      JM.taint r.2
      pure r.1
    else do
      JM.ask k
      JM.stop

/-- The record of a vertex as it came for a hop, with where it came from; empty where the vertex has none (R74). -/
def State.recOf (s : State) (parts : List Part) (hop v : Nat) : Bytes × Nat :=
  match parts.find? fun p => p.key == .vrec hop v with
  | some p => (if p.count / 4096 = 1 then [] else p.bytes, p.count)
  | none => ([], s.devId)

/-- The record of a vertex for a hop (R124), with where it came from: the device whose arrays it is of (R140). -/
def JM.vrec (g : Graph) (hop v : Nat) : JM (Bytes × Nat) := do
  let s ← JM.st
  if g.vertices ≤ v ∨ v = g.missing then pure ([], s.devId)
  else
    let _ ← JM.value (.vrec hop v) (s.vHome g v == s.devId) (do
      JM.readDir g.port g.vdir (v / 16) g.blockLen
      match s.vBlock g v with
      | none => pure ([], false)
      | some e => do
        let r ← JM.mem (e.addr + 16 * (v % 16)) 16
        JM.upd fun s => (s.countShard (vshardOf g.id (v / 16)) 1 0).countBlock g.vdir (v / 16) 1 0
        pure r)
    pure (s.recOf (← get).parts hop v)

/-- The record of a vertex that has degree, and its device: none where R110 gives it degree 0. -/
def JM.vertex (g : Graph) (hop v : Nat) : JM (Option (VRec × Nat)) := do
  let b ← JM.vrec g hop v
  let s ← JM.st
  pure (if b.1.isEmpty || !s.recOk g v b.2 b.1 then none else some (VRec.parse b.1, b.2 % 4096))

/-- A plane value: none for a vertex whose block is not present. Planes 2 and 3 stand for a second reading of 0 and 1. -/
def JM.planeVal (g : Graph) (v p : Nat) : JM (Option Word) := do
  let s ← JM.st
  let b ← JM.value (.plane v p) (s.vHome g v == s.devId) (do
    JM.readDir g.port g.vdir (v / 16) g.blockLen
    match s.vBlock g v with
    | none => pure ([], false)
    | some e => JM.mem (e.addr + 256 + 128 * (p % 2) + 8 * (v % 16)) 8)
  let told := ((← JM.part (.plane v p)).map (·.count)).getD 0
  pure (if b.isEmpty || told / 4096 == 1 then none else some (BitVec.ofNat 64 (leNat b)))

/-- Entries of the neighbour array of a device; one whose segment is absent reads as a hole. Each entry Crumb counts in its
directory entry when the request first reads it (R144). -/
def JM.entries (g : Graph) (home : Nat) (idxs : List Nat) (count : Bool) : JM (List Nat) := do
  let crumb (i : Nat) : Nat := i * g.entSize / 32
  let me := (← JM.st).devId
  let bs ← JM.all idxs fun i => JM.value (.ent home i) (home == me) (do
    JM.readDir g.port g.ndir (i * g.entSize / 4096) 4096
    match (← JM.st).segAddr g.port g.ndir g.entSize i with
    | none => pure (List.replicate g.entSize 0xFF#8, false)
    | some a => do
      let r ← JM.mem a g.entSize
      let ps := (← get).parts
      let seen := ps.any fun p => match p.key with
        | .ent d k => d == home && crumb k == crumb i
        | _ => false
      if count && !seen then JM.upd fun s => s.countBlock g.ndir (crumb i / 128) 1 0
      pure r)
  pure (bs.map leNat)

/-- Prefix values of a list. One whose segment is absent reads as +0 (DESIGN CHOICE, log entry 66). -/
def JM.prefixes (g : Graph) (home : Nat) (r : VRec) : JM (List FV) := do
  let s ← JM.st
  let bs ← JM.all (rangeFrom r.off r.degree) fun i => JM.value (.pfx home i) (home == s.devId) (do
    JM.readDir g.port g.pdir (i / 1024) 4096
    match s.segAddr g.port g.pdir 4 i with
    | none => pure (List.replicate 4 0#8, false)
    | some a => JM.mem a 4)
  pure (bs.map fun b => fp32.dec (leNat b))

def Graph.entId (g : Graph) (e : Nat) : Nat := if g.form = 0 then fld e 0 40 else e
def Graph.entType (g : Graph) (e : Nat) : Nat := if g.form = 0 then fld e 40 8 else 0
/-- Weight bits, FP16: 1.0 for COMPACT4. -/
def Graph.entWeight (g : Graph) (e : Nat) : Nat := if g.form = 0 then fld e 48 16 else 0x3C00

/-! ### Sampling (R120-R123) -/

/-- UNIFORM: positions chosen so far, for j from d - k on. -/
def uniformLoop (word : Nat → Nat) : Nat → Nat → Nat → List Nat → List Nat
  | 0, _, _, ch => ch
  | n + 1, j, c, ch =>
    let r := (word c * (j + 1)) >>> 32
    uniformLoop word n (j + 1) (c + 1) (ch ++ [if ch.contains r then j else r])

def sampleUniform (word : Nat → Nat) (d k : Nat) : List Nat :=
  if d ≤ k then List.range d else sortBy id (uniformLoop word k (d - k) 0 [])

/-- `pick_weighted` of R121. -/
def pickWeighted (x d : Nat) (p : Option (List FV)) : Option Nat :=
  match p with
  | none => some ((x * d) >>> 32)
  | some l =>
    let total := l.getD (d - 1) (FV.zero false)
    if !FV.lt (FV.zero false) total || total == .inf false then none
    else
      let t := fp64.roundV .rne .toInf ((FV.fin false x (-32)).mul total)
      some (((List.range d).find? fun i => FV.lt t (l.getD i .nan)).getD (d - 1))

def sampleWeighted (word : Nat → Nat) (d k : Nat) (p : Option (List FV)) : List Nat :=
  if d = 0 then [] else sortBy id ((List.range k).filterMap fun c => pickWeighted (word c) d p)

/-- Weight order of R122: every NaN below every number, −0 equal to +0. -/
def weightAbove (a b : FV) : Bool := !a.isNan && (b.isNan || FV.lt b a)

/-- Puts a position in its place in a list ordered by R122. -/
def insTopk (l : List (FV × Nat)) (x : FV × Nat) : List (FV × Nat) :=
  (l.takeWhile fun y => !weightAbove x.1 y.1) ++ x :: l.dropWhile fun y => !weightAbove x.1 y.1

/-- TOPK: the k positions of greatest weight, ties to the lower position; each slice of T positions keeps its own best
k, and these are merged in slice order (R122, R133). -/
def sampleTopk (T k : Nat) (w : List FV) : List Nat :=
  let best := (cutEvery T w.zipIdx).map fun l => (l.foldl insTopk []).take k
  sortBy id (((best.foldl (fun acc l => (l.foldl insTopk acc).take k) []).map (·.2)))

/-- Sampling modes of a hop spec. -/
def mdFull := 0
def mdUniform := 1
def mdWeighted := 2
def mdTopk := 3

/-- How the lists of a piece of work are cut (R130, R131): the split threshold, whether a slice finds a target core here,
and the devices that the slices of a list take in turn. -/
structure Slicing where
  split : Nat
  here : Bool
  devs : List Nat
deriving DecidableEq, Repr

/-- A list of n is cut. -/
def Slicing.cuts (z : Slicing) (n : Nat) : Bool := decide (z.split < n)
/-- The device that slice i of vertex v's list runs on. -/
def Slicing.dev (z : Slicing) (v i : Nat) : Nat := z.devs.getD ((v + i) % z.devs.length) 0

/-- The slices of a request of core c (R131): the cores of its cluster or of the device that its port holds for its class
outside LOST clusters (R436), or the devices of the pod. -/
def State.slicing (s : State) (c : Nat) (q : LsuReq) (g : Graph) : Slicing :=
  let cores := if q.spread = 0 then rangeFrom (c / 16 * 16) 16 else List.range 128
  { split := q.split, here := cores.any fun k => s.corePort q.cls k == q.port && !s.unitLost 1 (k / 16),
    devs := if q.spread = 2 ∧ g.scope ≠ 0 ∧ s.podTable ≠ [] then s.podTable else [s.devId] }

/-- A slice of vertex v's list of n cannot complete (R134): its device has left the fabric, or it finds no core. -/
def State.sliceLost (s : State) (z : Slicing) (v n : Nat) : Bool :=
  z.cuts n && (List.range (min z.devs.length (ceilDiv n z.split))).any fun i =>
    let d := z.dev v i
    if d = s.devId then !z.here else (s.routeOf d).isNone

/-- A hop spec reads the whole of a list of degree d, so that the Kneader may cut it (R130). -/
def readsWhole (g : Graph) (mode k : Nat) (r : VRec) : Bool :=
  mode == mdFull || (mode == mdTopk && decide (k < r.degree) && !r.wsorted && g.form == 0)

/-- The positions a hop spec selects from the list of vertex v, whose arrays are those of a device. -/
def JM.sample (g : Graph) (T seed key hop v : Nat) (r : VRec) (home mode k : Nat) : JM (List Nat) := do
  let word := drawSample seed key v hop false
  if mode = mdFull then pure (List.range r.degree)
  else if mode = mdUniform then pure (sampleUniform word r.degree k)
  else if mode = mdWeighted then
    if r.pfx then
      let p ← JM.prefixes g home r
      pure (sampleWeighted word r.degree k (some p))
    else pure (sampleWeighted word r.degree k none)
  else if readsWhole g mode k r then
    let es ← JM.entries g home (rangeFrom r.off r.degree) true
    pure (sampleTopk T k (es.map fun e => fp16.dec (g.entWeight e)))
  else pure (List.range (min k r.degree))

/-! ### The request block (Tables 04-4, 04-5) -/

structure NuBlk where
  op : Nat
  graph : Nat
  count : Nat
  hops : Nat
  seed : Nat
  key : Nat
  tensor : Nat
  inAddr : Nat
  outAddr : Nat
  outCrumbs : Nat
  /-- (k, mode) of each hop. -/
  spec : List (Nat × Nat)
  x : Nat
deriving DecidableEq, Repr

def NuBlk.parse (b : Bytes) : NuBlk :=
  let w := fieldAt b 0 8
  let a := fieldAt b 24 8
  { op := fld w 0 4, graph := fld w 4 12, count := fld w 16 24 + 1, hops := fld w 40 2 + 1, seed := fieldAt b 8 8,
    key := fieldAt b 16 4, tensor := fieldAt b 20 4, inAddr := fld a 0 22, outAddr := fld a 32 22, outCrumbs := bfld b 32 8 0 17,
    spec := (List.range 4).map fun i => (bfld b (40 + 4 * i) 4 0 16, bfld b (40 + 4 * i) 4 16 2), x := fieldAt b 56 8 }

def opExpand := 0
def opAggregate := 1
def opWalk := 2
def opVertexRead := 3
def opVertexWrite := 4

/-- Hop specs that an op uses. -/
def NuBlk.specs (k : NuBlk) : Nat := if k.op = opExpand then k.hops else if k.op ≤ opWalk then 1 else 0

/-- The pooling parameters of an `AGGREGATE`. -/
def NuBlk.table (k : NuBlk) : Nat := fld k.x 0 16
def NuBlk.pool (k : NuBlk) : Nat := fld k.x 16 2
def NuBlk.outFmt (k : NuBlk) : Nat := fld k.x 18 2
def NuBlk.spill (k : NuBlk) : Nat := fld k.x 20 4
def NuBlk.sr (k : NuBlk) : Bool := bitAt k.x 24

/-- The checks of R114. -/
def nuBad (b : Bytes) : Bool :=
  let k := NuBlk.parse b
  let w := fieldAt b 0 8
  let a := fieldAt b 24 8
  let outs := k.op == opExpand || k.op == opWalk
  decide (opVertexWrite < k.op) || fld w 42 22 ≠ 0 || fld a 22 10 ≠ 0 || fld a 54 10 ≠ 0 || bfld b 32 8 17 47 ≠ 0 ||
    (k.op != opExpand && k.hops != 1) || (decide (opVertexRead ≤ k.op) && (k.seed != 0 || k.key != 0)) ||
    (k.op != opAggregate && k.tensor != 0) || (!outs && k.outCrumbs != 0) || (k.op == opVertexWrite && k.outAddr != 0) ||
    k.inAddr % 32 != 0 || k.outAddr % 32 != 0 ||
    ((List.range 4).any fun i =>
      let x := fieldAt b (40 + 4 * i) 4
      if i < k.specs then fld x 18 14 ≠ 0 || ((fld x 16 2 == mdFull) != (fld x 0 16 == 0)) ||
        (k.op == opWalk && fld x 16 2 != mdUniform && fld x 16 2 != mdWeighted)
      else x ≠ 0) ||
    (if k.op = opAggregate then fld k.x 25 39 ≠ 0 || k.pool == 3 || k.outFmt == 3 || (spillOf k.spill).isNone
     else if k.op = opWalk then decide (2 ^ 32 ≤ k.x) else k.x ≠ 0)

/-- Bytes of an input entry. -/
def NuBlk.inSize (k : NuBlk) : Nat := if k.op = opVertexWrite then 32 else 8

/-- Bytes of the output area. -/
def NuBlk.outBytes (k : NuBlk) (t : Option Table) : Nat :=
  if k.op = opExpand ∨ k.op = opWalk then 32 * k.outCrumbs
  else if k.op = opAggregate then k.count * roundUp (((t.map (·.len)).getD 0) * outSize k.outFmt) 32
  else if k.op = opVertexRead then 32 * k.count else 0

/-- NUREQ (R114, R215): the checks are made at issue, those of the input list's entries among them; the NUs take the
request up with the command of its op. -/
def nureqInsn (c : CoreIx) (f : XFmt) (s : State) : State :=
  lsuIssue 0x61 64 .nu c f s fun s r q => do
    let fail (st : Nat) : Eff := pure (s.respond c.val q st 0)
    if nuBad q.block then fail rsBadDescriptor
    else
      let b := NuBlk.parse q.block
      let acc := s.graphAccess r.port b.graph (b.op == opVertexWrite)
      let tacc := if b.op = opAggregate then s.tableAccess r.port b.table false else 0
      if acc ≠ 0 then fail acc
      else if tacc ≠ 0 then fail tacc
      else
        let t := if b.op = opAggregate then s.tableOf b.table else none
        if !inPart r.express b.inAddr (b.inSize * b.count) then throw ⟨xLsPartition, enLsu, 0⟩
        if 0 < b.outBytes t && !inPart r.express b.outAddr (b.outBytes t) then throw ⟨xLsPartition, enLsu, 0⟩
        engRead (s.core c.val) b.inAddr (b.inSize * b.count) enLsu
        if (List.range b.count).any fun i =>
            fieldAt ((s.core c.val).lsBytes (b.inAddr + b.inSize * i) b.inSize) 5 3 ≠ 0
              || (b.op == opVertexWrite && !zeroRange ((s.core c.val).lsBytes (b.inAddr + 32 * i) 32) 24 8) then fail rsBadDescriptor
        else
          let k := s.preg r.port 0x2020
          let q := { q with version := ((t.map fun t => s.versionFor q.item t).getD false), split := 2 ^ fld k 0 5, spread := fld k 8 2 }
          let s := s.modReq c.val q.id fun _ => q
          if b.op = opVertexWrite then
            match s.asEffect c.val r q with
            | (s, _) => pure s
          else pure s

/-- The input ids of a request. -/
def Core.nuIds (k : Core) (b : NuBlk) : List Nat :=
  (List.range b.count).map fun i => fld (k.lsNat (b.inAddr + b.inSize * i) 8) 0 40

/-! ### Messages to other devices -/

/-- The head of an `NU_REQ` body (R363). -/
def nuHead (g : Graph) (sub n : Nat) : Bytes :=
  natLe 8 (sub + n * 2 ^ 4) ++ natLe 8 (g.id + g.form * 2 ^ 12 + g.scope * 2 ^ 14 + g.planes * 2 ^ 16) ++ natLe 8 g.vertices

/-- Where a value lives and how it is asked for: device, sub-op, entry and size of its answer. -/
def State.askOf (s : State) (g : Graph) (k : Key) : Option (Nat × Nat × Bytes × Nat) :=
  match k with
  | .vrec _ v => some (s.vHome g v, 0, natLe 8 v, 16)
  | .ent d i => some (d, 1, natLe 8 i, g.entSize)
  | .pfx d i => some (d, 3, natLe 8 i, 4)
  | .plane v p => some (s.vHome g v, 4, natLe 8 (v + p % 2 * 2 ^ 40), 8)
  | _ => none

/-- The `NU_REQ` messages that missing values need: one for each record and plane value, whose answer's count tells of it, and
one for each device of entries and of prefix values, of at most 2^24 bytes (R334); kind 5 sends each as a `FORWARD`, as
do writes that go on to the new home of a moved shard, whose key has 8,192 added. -/
def nuMk (g : Graph) (kind : Nat) (writes : List (Nat × List Bytes)) (s : State) (ks : List Key) : List Send :=
  let all := ks.filterMap fun k => (s.askOf g k).map fun a => (k, a)
  let groups := (all.map fun x => (x.2.1, x.2.2.1)).eraseDups
  let send (d : Nat) (b : Bytes) (keys : List Key) (size : Nat) : Send :=
    if kind = 5 ∨ bitAt d 13 then ⟨d % 4096, 5, natLe 8 2 ++ b, keys, size⟩ else ⟨d, kind, b, keys, size⟩
  (groups.flatMap fun (d, sub) =>
    let mine := all.filter fun x => x.2.1 == d && x.2.2.1 == sub
    (cutEvery (if sub = 0 ∨ sub = 4 then 1 else 2 ^ 20) mine).map fun mine =>
      send d (nuHead g sub mine.length ++ mine.flatMap fun x => x.2.2.2.1) (mine.map (·.1)) (((mine.head?).map fun x => x.2.2.2.2).getD 0)) ++
  ks.filterMap fun k => match k with
    | .vwrite d => (writes.find? fun w => w.1 == d).map fun w => send d (nuHead g 5 w.2.length ++ w.2.flatten) [k] 0
    | _ => none

/-! ### The operations -/

/-- Counts of R82 and R110 for the vertices met: each occurrence outside, each distinct bad record. -/
def JM.countMet (g : Graph) (ring : Nat) (item : ItemId) (occ : List (Nat × Nat)) : JM Unit := do
  let s ← JM.st
  let j ← get
  let raw (x : Nat × Nat) : Bytes := (s.recOf j.parts x.1 x.2).1
  let src (x : Nat × Nat) : Nat := (s.recOf j.parts x.1 x.2).2
  let miss := (occ.filter fun x => x.2 == g.missing).length
  let out := (occ.filter fun x => x.2 != g.missing && (raw x).isEmpty).length
  let bad := (occ.eraseDups.filter fun x => !(raw x).isEmpty && !s.recOk g x.2 (src x) (raw x)).length
  JM.upd fun s => s.countRing ring item out miss bad

/-- One entry of a section: neighbour, type, weight, parent and position (Table 04-6). -/
structure XEnt where
  id : Nat
  type : Nat
  weight : Nat
  parent : Nat
  pos : Nat
deriving DecidableEq, Repr

def XEnt.bytes (e : XEnt) : Bytes := natLe 8 (e.id + e.type * 2 ^ 40 + e.weight * 2 ^ 48) ++ natLe 4 e.parent ++ natLe 4 e.pos

/-- The sampled lists of a frontier, concatenated in its order (R124, R125), and the vertices whose lists could not be
read, which contribute nothing (R134). The slices of a list write their entries straight to their places (R133). -/
def JM.hop (z : Slicing) (g : Graph) (b : NuBlk) (hop : Nat) (spec : Nat × Nat) (frontier : List (Nat × Nat)) : JM (List XEnt × List Nat) := do
  let vs := (frontier.map (·.2)).eraseDups
  let recs ← JM.all vs fun v => do
    let r ← JM.vertex g hop v
    pure (v, r)
  let s ← JM.st
  let lost := (recs.filter fun (v, r) => match r with
    | some r => readsWhole g spec.2 spec.1 r.1 && s.sliceLost z v r.1.degree
    | none => false).map (·.1)
  let lists ← JM.all recs fun (v, r) => do
    match r with
    | none => pure (v, [])
    | some r =>
      if lost.contains v then pure (v, [])
      else
        let ps ← JM.sample g z.split b.seed b.key (hop - 1) v r.1 r.2 spec.2 spec.1
        let es ← JM.entries g r.2 (ps.map (r.1.off + ·)) true
        pure (v, ps.zip es)
  pure (frontier.flatMap (fun (i, v) => (((lists.find? fun l => l.1 == v).map (·.2)).getD []).map fun (p, e) =>
    ⟨g.entId e, g.entType e, g.entWeight e, i, p⟩), lost)

/-- What an expansion found: its sections, the vertices looked up by hop, and whether a list was lost. -/
structure Expansion where
  sections : List (List XEnt)
  met : List (Nat × Nat)
  lost : Bool
deriving DecidableEq, Repr

/-- The sections of an expansion (R125). A hole is no vertex that the next hop looks up, so it counts as no occurrence of
the missing value (DESIGN CHOICE, log entry 66). -/
def JM.expandHops (z : Slicing) (g : Graph) (b : NuBlk) : List (Nat × Nat) → Nat → List (Nat × Nat) → JM Expansion
  | [], _, _ => pure ⟨[], [], false⟩
  | sp :: r, hop, frontier => do
    let sec ← JM.hop z g b hop sp frontier
    let next := (sec.1.zipIdx.map fun (e, i) => (i, e.id)).filter fun x => x.2 != g.missing
    let q ← JM.expandHops z g b r (hop + 1) next
    pure ⟨sec.1 :: q.sections, (frontier.map fun x => (hop, x.2)) ++ q.met, !sec.2.isEmpty || q.lost⟩

/-- A section on its Crumbs (R115). -/
def sectionBytes (hop : Nat) (l : List XEnt) : Bytes :=
  natLe 4 hop ++ natLe 4 l.length ++ List.replicate 24 0#8 ++ padTo 32 (l.flatMap XEnt.bytes)

/-- Writes an output that must fit `out_crumbs` (R116): its status and count. -/
def JM.putOut (c : Nat) (b : NuBlk) (d : Bytes) : JM (Nat × Nat) := do
  let bad := (← get).tainted
  let n := d.length / 32
  if b.outCrumbs < n then
    JM.upd fun s => if b.outCrumbs = 0 then s else s.lsWrite c b.outAddr (List.replicate 32 0#8)
    pure (rsNuOverflow, n)
  else
    JM.upd fun s => s.modCore c fun k => k.poisonPut b.outAddr d bad
    pure (rsOk, n)

/-- `EXPAND`. Where a list was lost, the others are written as usual (R134). -/
def JM.expand (c : Nat) (q : LsuReq) (g : Graph) (b : NuBlk) : JM (Nat × Nat) := do
  let s ← JM.st
  let ids := (s.core c).nuIds b
  let r ← JM.expandHops (s.slicing c q g) g b (b.spec.take b.hops) 1 (ids.zipIdx.map fun (v, i) => (i, v))
  JM.countMet g q.ring q.item r.met
  let out ← JM.putOut c b ((r.sections.zipIdx).flatMap fun (l, i) => sectionBytes (i + 1) l)
  pure (if r.lost ∧ out.1 = rsOk then (rsNuAborted, out.2) else out)

/-! ### Slices (R130-R134, R357) -/

/-- Grants space for the record of a slice, when the NU creates the slice item (R357). -/
def State.openKnead (s : State) (who : Nat × Nat) (list slice dev bytes : Nat) : State :=
  if s.kneads.any fun k => k.who == who && k.list == list && k.slice == slice then s
  else
    match (List.range 4096).find? fun n => !s.kneads.any fun k => k.num == n with
    | some n => { s with kneads := s.kneads ++ [Knead.mk n who list slice dev] }.sendMsg dev clRs 3 n (natLe 8 bytes)
    | none => s

/-- The stack with which a slice starts (R132): that of the slice before on this device, or the record that its device
sent, which R55 checks; none where it does not match. The record of the last slice may reach past the list's end. -/
def JM.received (h : RecHdr) (list slice dev : Nat) (last : Bool) (cur : Option Stack) : JM (Option Stack) := do
  match cur with
  | some st => pure (some st)
  | none =>
    match ← JM.part (.knead list slice) with
    | some p => pure (((Rec.parse p.bytes).filter fun r => h.matches r.hdr && r.hdr.arith == 0 && (r.stack.t == h.t || (last && decide (h.t ≤ r.stack.t)))).map (·.stack))
    | none => do
      let j ← get
      JM.upd fun s => s.openKnead j.who list slice dev h.length
      JM.stop

/-- Passes a slice's record on to the device of the next, under a grant of that device (R357): grants name no list, so
the oldest that is large enough is used (DESIGN CHOICE, log entry 67). -/
def JM.passOn (list slice dev : Nat) (b : Bytes) : JM Unit := do
  if (← JM.part (.kneadSent list slice)).isNone then
    let s ← JM.st
    match s.kneadGrants.find? fun x => x.1 == dev && decide (b.length ≤ x.2.2) with
    | some x =>
      JM.upd fun s => { s with kneadGrants := s.kneadGrants.erase x }.sendMsg dev clRd 2 x.2.1 b
      JM.keep ⟨.kneadSent list slice, [], false, 0⟩
    | none => JM.stop

/-- The subtrees of slice [a, b) added to a stack in ascending order (R48). -/
def addSlice (h : RecHdr) (its : List TreeItem) (a b : Nat) (st : Stack) : Ar Stack :=
  (sortBy (·.start) (its.filter fun it => decide (a ≤ it.start ∧ it.start < b))).foldlM
    (fun st it => st.add h.cfg h.coords (some it.arr) it.level) st

/-- The slices of one list from slice i on, k of them left: what this device's slices make of the subtrees they hold, the
record passing to and from the devices of the others. The record of the last slice comes back as a `KNEAD` too (DESIGN
CHOICE, log entry 67). Answers the stack at the list's end and the invalid events; none where a record did not match. -/
def JM.slices (z : Slicing) (h : RecHdr) (list v n : Nat) (its : List TreeItem) : Nat → Nat → Option Stack → Nat → JM (Option (Stack × Nat))
  | 0, i, cur, ev => do
    let st ← JM.received { h with t := n } list i (z.dev v (i - 1)) true cur
    pure (st.map fun st => (st, ev))
  | k + 1, i, cur, ev => do
    let s ← JM.st
    let d := z.dev v i
    if d = s.devId then
      match ← JM.received { h with t := i * z.split } list i (z.dev v (i - 1)) false (if i = 0 then some ⟨0, []⟩ else cur) with
      | none => pure none
      | some st =>
        let r := (addSlice h its (i * z.split) ((i + 1) * z.split) st).run 0
        JM.slices z h list v n its k (i + 1) (some r.1) (ev + r.2)
    else
      match cur with
      | some st => do
        JM.passOn list i d (recordBytes h st)
        JM.slices z h list v n its k (i + 1) none ev
      | none => JM.slices z h list v n its k (i + 1) none ev

/-- Work whose invalid-operation events count once it has run to its end, since it runs anew where it stops. -/
def JM.countOnce {α : Type} (x : JM α) : JM α := OptionT.mk do
  let j ← get
  let r ← x.run
  if r.isNone then modify fun j' => { j' with s := { j'.s with sifterInvalid := j.s.sifterInvalid } }
  pure r

/-! ### Aggregation -/

/-- The Sifter block of the pooling of an `AGGREGATE` (R127), as a 64-byte request block. -/
def NuBlk.poolBlock (b : NuBlk) : Bytes :=
  natLe 8 ((b.pool + 1) + b.table * 2 ^ 4 + 2 ^ 20 + (if b.pool = 1 then 3 * 2 ^ 21 else 0) + b.outFmt * 2 ^ 23 + b.spill * 2 ^ 25
      + (if b.sr then 2 ^ 29 else 0) + (b.count - 1) * 2 ^ 32)
    ++ natLe 8 b.seed ++ natLe 4 b.tensor ++ natLe 4 0 ++ List.replicate 8 0#8 ++ natLe 8 (b.outAddr * 2 ^ 32) ++ List.replicate 24 0#8

/-- What an `AGGREGATE` pools: the entries that this device looks up, the length of each target's bag, and the targets
whose list was lost. -/
structure Bags where
  ents : List Ent
  lens : List Nat
  lost : List Nat
deriving DecidableEq, Repr

/-- A bag is pooled in slices (R130). -/
def Slicing.cutsBag (z : Slicing) (b : NuBlk) (n : Nat) : Bool :=
  z.cuts n && ((b.spec.headD (0, 0)).2 == mdFull || (b.spec.headD (0, 0)).2 == mdTopk)

/-- The bags that an `AGGREGATE` pools, one for each target: the ids and weights of its sampled list. Slices of other
devices look up their own positions. -/
def JM.aggBags (z : Slicing) (c : Nat) (g : Graph) (b : NuBlk) : JM Bags := do
  let s ← JM.st
  let ids := (s.core c).nuIds b
  let es ← JM.hop z g b 1 (b.spec.headD (0, 0)) (ids.zipIdx.map fun (v, i) => (i, v))
  let bags : List (Nat × Nat × List XEnt) := ids.zipIdx.map fun (v, i) => (v, i, es.1.filter fun e => e.parent == i)
  let lost := (bags.filter fun (v, _, l) => es.2.contains v || (z.cutsBag b l.length && s.sliceLost z v l.length)).map (·.2.1)
  let all := bags.flatMap fun (v, i, l) =>
    (l.zipIdx.filter fun x => !lost.contains i && (!z.cutsBag b l.length || z.dev v (x.2 / z.split) == s.devId)).map fun ((e, p) : XEnt × Nat) =>
      { row := if e.id = g.missing then missingIdx true else e.id, bag := i, pos := p, len := l.length, wt := e.weight,
        src := [], bad := false }
  pure ⟨all, bags.map fun x => x.2.2.length, lost⟩

/-- The header of the record of a target's list (Table 02-7). -/
def SiftBlk.sliceHdr (k : SiftBlk) (len g : Nat) : RecHdr :=
  { t := 0, spill := k.sumCfg.s, arith := 0, sr := k.sr, sat := false, shift := 0, seed := k.seed, tensor := k.tensor, uBase := k.uBase + g,
    vBase := 0, uCount := 0, vCount := len - 1, level := 0 }

/-- `AGGREGATE` (R127, R132). A list whose slice could not complete has no result (R134), nor one whose record did not
match (R55); the others are written. -/
def JM.aggregate (c : Nat) (q : LsuReq) (g : Graph) (t : Table) (b : NuBlk) : JM (Nat × Nat) := do
  let s ← JM.st
  let z := s.slicing c q g
  let ids := (s.core c).nuIds b
  let bags ← JM.aggBags z c g b
  let k := SiftBlk.parse b.poolBlock
  let r ← JM.countOnce (do
    match ← JM.lookup q.port k t q.version bags.ents false with
    | none => pure none
    | some v =>
      let ps := (← get).parts
      let cut := (ids.zipIdx.zip bags.lens).filter fun x => z.cutsBag b x.2 && !bags.lost.contains x.1.2
      let roots ← JM.all cut fun ((id, i), n) => do
        let h := k.sliceHdr t.len i
        let r ← JM.slices z h i id n (v.items ps i) (ceilDiv n z.split) 0 none 0
        pure (⟨i, r.map fun x => let y := (x.1.finish h.cfg h.coords).run x.2; (y.1, y.2)⟩ : Root)
      pure (some (v, roots)))
  match r with
  | none => pure (rsSortOverflow, 0)
  | some (v, roots) =>
    JM.countMet g q.ring q.item (ids.map fun v => (1, v))
    let _ ← JM.deliverLookup c q v (roots ++ bags.lost.map fun i => ⟨i, none⟩) fun i => bags.lens.getD i 0
    pure (if roots.any fun x => x.sum.isNone then rsChainMismatch else if bags.lost.isEmpty then rsOk else rsNuAborted, 0)

/-- Steps s to length of one walk (R128): the ids out, and the vertices looked up. -/
def JM.walkSteps (g : Graph) (b : NuBlk) (start w : Nat) : Nat → Nat → Nat → JM (List Nat × List (Nat × Nat))
  | 0, _, _ => pure ([], [])
  | n + 1, st, v => do
    let word := drawSample b.seed ((b.key + w) % 2 ^ 32) v st true
    let go (v : Nat) (seen : List (Nat × Nat)) : JM (List Nat × List (Nat × Nat)) := do
      let r ← JM.walkSteps g b start w n (st + 1) v
      pure (v :: r.1, seen ++ r.2)
    let fill := List.replicate (n + 1) g.missing
    if word 0 < b.x then go start []
    else
      match ← JM.vertex g st v with
      | none => pure (fill, [(st, v)])
      | some (r, home) => do
        if r.degree = 0 then pure (fill, [(st, v)])
        else
          let i ← if (b.spec.headD (0, 0)).2 = mdUniform then pure (some ((word 1 * r.degree) >>> 32))
            else if r.pfx then do
              let p ← JM.prefixes g home r
              pure (pickWeighted (word 1) r.degree (some p))
            else pure (pickWeighted (word 1) r.degree none)
          match i with
          | none => pure (fill, [(st, v)])
          | some i => do
            let e ← JM.entries g home [r.off + i] true
            let u := g.entId (e.headD g.missing)
            if u = g.missing then pure (fill, [(st, v)]) else go u [(st, v)]

def JM.walk (c : Nat) (q : LsuReq) (g : Graph) (b : NuBlk) : JM (Nat × Nat) := do
  let ids := ((← JM.st).core c).nuIds b
  let k := (b.spec.headD (0, 0)).1
  let ws ← JM.all ids.zipIdx fun (v, w) => do
    let r ← JM.walkSteps g b v w k 1 v
    pure (v :: r.1, r.2)
  JM.countMet g q.ring q.item (ws.flatMap (·.2))
  JM.putOut c b (ws.flatMap fun x => padTo 32 (x.1.flatMap (natLe 8)))

/-- The parts of a vertex of another device whose planes have changed around its record: the later planes stay, as the first. -/
def againFar (v : Nat) (l : List Part) : List Part :=
  (l.filter fun x => match x.key with
    | .plane u p => u != v || decide (2 ≤ p)
    | .vrec h u => h != 0 || u != v
    | _ => true).map fun x => match x.key with
    | .plane u p => if u = v then { x with key := .plane u (p % 2) } else x
    | _ => x

/-- Reads the planes of a vertex of another device on both sides of its record: where they are the same, they are as they
stand when the record is read, and where not, all are asked for again (R139; log entry 65). -/
def JM.farPlanes (g : Graph) (v : Nat) : JM Unit := do
  let both (p : Nat) : JM (Option Word) := JM.planeVal g v p
  let a ← JM.all (List.range g.planes) both
  let _ ← JM.vrec g 0 v
  let b ← JM.all (List.range g.planes) fun p => both (p + 2)
  if a ≠ b then
    modify fun j => { j with parts := againFar v j.parts }
    JM.ask (.vrec 0 v)
    JM.stop

/-- `VERTEX_READ`: each record with its planes as they stand when it is read (R139). A record that fails R110 is output as
it is stored. -/
def JM.vertexRead (c : Nat) (q : LsuReq) (g : Graph) (b : NuBlk) : JM (Nat × Nat) := do
  let s ← JM.st
  let ids := (s.core c).nuIds b
  let real (v : Nat) : Bool := decide (v < g.vertices) && v != g.missing
  let near (v : Nat) : Bool := s.vHome g v == s.devId
  let _ ← JM.all ids.eraseDups fun v =>
    if !real v then pure ()
    else if near v then do
      let _ ← JM.all (List.range (g.planes + 1)) fun p => if p = 0 then do
          let _ ← JM.vrec g 0 v
          pure ()
        else do
          let _ ← JM.planeVal g v (p - 1)
          pure ()
      pure ()
    else JM.farPlanes g v
  let rs ← ids.mapM fun v => do
    let r ← JM.vrec g 0 v
    let ps ← if r.1.isEmpty then pure [] else (List.range g.planes).mapM fun p => do
      let w ← JM.planeVal g v p
      pure (natLe 8 (w.getD 0).toNat)
    pure (slice (r.1 ++ ps.flatten) 0 32)
  JM.countMet g q.ring q.item (ids.map fun v => (0, v))
  let bad := (← get).tainted
  JM.upd fun s => s.modCore c fun k => k.poisonPut b.outAddr rs.flatten bad
  pure (rsOk, 0)

/-- An iteration of a sweep of the graph is under way on this device (R142). -/
def State.sweeping (s : State) (g : Nat) : Bool := match s.sweepOf g with
  | some w => !w.computed
  | none => false

/-- `VERTEX_WRITE` of a vertex of this device (R140), in one operation or not at all: 1 where the record is bad, 2^24
where the vertex is out of range. -/
def JM.writeVertex (g : Graph) (v : Nat) (rcd : Bytes) : JM Nat := do
  let j ← get
  if v = g.missing then pure 0
  else
    match j.s.vBlock g v with
    | none => pure (2 ^ 24)
    | some e =>
      if g.vertices ≤ v then pure (2 ^ 24)
      else if j.s.recOk g v j.s.devId rcd then do
        JM.write (e.addr + 16 * (v % 16)) rcd
        JM.upd fun s => (s.countShard (vshardOf g.id (v / 16)) 0 1).countBlock g.vdir (v / 16) 0 1
        pure 0
      else pure 1

/-- A vertex of this device may not be written now (R96, R142, R143). -/
def State.vertexHeld (s : State) (g : Graph) (v : Nat) : Bool :=
  s.sweeping g.id || s.shardMoving g.scope (vshardOf g.id (v / 16)) || (match s.vBlock g v with
    | some e => e.moving
    | none => false)

def recId (r : Bytes) : Nat := bfld r 0 8 0 40

/-- Where each record of a write goes, from the part that fixed it. -/
def writeHomes (p : Option Part) (now : List Nat) : List Nat := match p with
  | some p => homesOf p now.length
  | none => now

/-- The homes of the records of a write as the map now has them; what is no vertex stays here. -/
def State.writeTo (s : State) (g : Graph) (recs : List Bytes) (fwd : Bool) : List Nat :=
  recs.map fun r => if fwd ∨ g.vertices ≤ recId r ∨ recId r = g.missing then s.devId else s.vHome g (recId r)

/-- The writes of a request (R140): each record of this device as soon as its vertex is not held, in list order, and
those of each other device at it. A held write whose shard has moved goes on to the new home (R143). Answers the count of
bad records, with that of vertices out of range from bit 24 on. -/
def JM.writeVertices (g : Graph) (recs : List Bytes) (fwd : Bool) : JM Nat := do
  let s ← JM.st
  let now := s.writeTo g recs fwd
  let ps := (← get).parts
  let known := ps.find? fun p => p.key == .homes
  let isDone (ps : List Part) (i : Nat) : Bool := ps.any fun p => p.key == .row i
  let homes := ((writeHomes known now).zip now).zipIdx.map fun (x, i) =>
    if x.1 = s.devId ∧ x.2 ≠ s.devId ∧ !isDone ps i then 8192 + x.2 else x.1
  if known.isNone ∨ homes ≠ writeHomes known now then JM.put ⟨.homes, homes.flatMap (natLe 2), false, 0⟩
  (recs.zip homes).zipIdx.forM fun ((r, h), i) => do
    if h = s.devId ∧ !isDone ps i ∧ !(← JM.st).vertexHeld g (recId r) then
      let n ← JM.writeVertex g (recId r) (slice r 8 16)
      JM.keep ⟨.row i, [], false, n⟩
  let devs := (homes.filter (· != s.devId)).eraseDups
  let got ← devs.mapM fun d => do
    match ← JM.part (.vwrite d) with
    | some p => pure (some p.count)
    | none => do
      JM.ask (.vwrite d)
      pure none
  let ps := (← get).parts
  if got.any Option.isNone || (homes.zipIdx.any fun (h, i) => h == s.devId && !isDone ps i) then JM.stop
  else pure ((got.filterMap id).sum + (ps.map fun p => match p.key with
    | .row _ => p.count
    | _ => 0).sum)

/-- Writes grouped by where they go, for their messages. -/
def State.writesOf (s : State) (who : Nat × Nat) (g : Graph) (recs : List Bytes) (fwd : Bool) : List (Nat × List Bytes) :=
  let known := (((s.progOf who).map (·.parts)).getD []).find? fun p => p.key == .homes
  let z := recs.zip (writeHomes known (s.writeTo g recs fwd))
  ((z.map (·.2)).eraseDups).map fun d => (d, (z.filter fun x => x.2 == d).map (·.1))

/-- `VERTEX_WRITE` (R140). The answer of another device counts its bad records in the low 24 bits of its count and its
vertices out of range above (DESIGN CHOICE, log entry 65). -/
def JM.vertexWrite (c : Nat) (q : LsuReq) (g : Graph) (b : NuBlk) : JM (Nat × Nat) := do
  let s ← JM.st
  let recs := (List.range b.count).map fun i => (s.core c).lsBytes (b.inAddr + 32 * i) 32
  let n ← JM.writeVertices g recs false
  let miss := (recs.filter fun r => recId r == g.missing).length
  JM.upd fun s => s.countRing q.ring q.item (n / 2 ^ 24) miss (n % 2 ^ 24)
  pure (rsOk, 0)

/-! ### Running requests -/

/-- Goes on with an NU request of core c as far as it can go. -/
def State.runNu (s : State) (c : Nat) (q : LsuReq) : State :=
  let b := NuBlk.parse q.block
  let who := (c, q.id)
  let finish (s : State) (r : Nat × Nat) : State := s.endReq c q r.1 r.2
  if q.prog.err ≠ 0 then (if s.progWaits who then s else finish s (q.prog.err, 0))
  else
    match s.graphOf b.graph with
    | none => finish s (rsGraphInvalid, 0)
    | some g =>
      let recs := (List.range b.count).map fun i => (s.core c).lsBytes (b.inAddr + 32 * i) 32
      let run (m : JM (Nat × Nat)) (mk : State → List Key → List Send) : State :=
        s.runJob who q.port q.item m mk finish
      if b.op = opExpand then run (JM.expand c q g b) (nuMk g 2 [])
      else if b.op = opAggregate then
        match s.tableOf b.table with
        | none => finish s (rsTableInvalid, 0)
        | some t =>
          let ents (s : State) : List Ent :=
            (((JM.aggBags (s.slicing c q g) c g b).run (Job.start s who q.port)).1.map (·.ents)).getD []
          run (JM.aggregate c q g t b) fun s ks => nuMk g 2 [] s ks ++ siftMk q.version b.poolBlock (b.pool + 1) 1 (s.theirsOf who (ents s)) ks
      else if b.op = opWalk then run (JM.walk c q g b) (nuMk g 2 [])
      else if b.op = opVertexRead then run (JM.vertexRead c q g b) (nuMk g 2 [])
      else run (JM.vertexWrite c q g b) fun s ks => nuMk g 2 (s.writesOf who g recs false) s ks

/-- Goes on with an NU request of core c. -/
def State.serveNu (s : State) (c id : Nat) : State :=
  match s.reqOf c id with
  | some q => s.runNu c q
  | none => s

/-- A command of NU work `op` for request id of core c: the request reaches the NUs. -/
def nuOp (op : Nat) (c : CoreIx) (id : Nat) (s : State) : State :=
  match s.reqOf c.val id with
  | some q =>
    if s.running && q.kind == .nu && fieldAt q.block 0 1 % 16 == op && !q.served && !s.queue.contains (c.val, id) then
      { s with queue := s.queue ++ [(c.val, id)] }.runEnds (c.val, id) fun s => s.serveNu c.val id
    else s
  | none => s

/-! ### Requests of other devices (R363) -/

/-- What the answer tells of a record that it brings. -/
def State.tellRecord (s : State) (g : Graph) (v : Nat) (b : Bytes × Nat) : Nat :=
  tellCount (if b.1.isEmpty then 1 else if s.recOk g v b.2 b.1 then 0 else 2) b.2

/-- The values that an `NU_REQ` asks for, in entry order, whether poison taints them, and its count. -/
def JM.remoteNu (g : Graph) (sub : Nat) (body : Bytes) (n : Nat) (fwd : Bool) : JM (Bytes × Bool × Nat) := do
  let s ← JM.st
  let e (i : Nat) : Nat := fieldAt body (24 + 8 * i) 8
  let r ← match sub with
    | 0 => do
      let l ← JM.all (List.range n) fun i => do
        let b ← JM.vrec g i (fld (e i) 0 40)
        pure (padTo 16 (slice b.1 0 16), s.tellRecord g (fld (e i) 0 40) b)
      pure (l.flatMap (·.1), if n = 1 then (l.map (·.2)).sum else 0)
    | 1 => do
      let l ← JM.entries g s.devId ((List.range n).map fun i => fld (e i) 0 48) true
      pure (padTo 8 (l.flatMap (natLe g.entSize)), 0)
    | 2 => do
      let l ← JM.entries g s.devId ((List.range n).flatMap fun i =>
        rangeFrom (bfld body (24 + 16 * i) 8 0 48) (fieldAt body (32 + 16 * i) 4)) true
      pure (padTo 8 (l.flatMap (natLe g.entSize)), 0)
    | 3 => do
      let m ← JM.all (List.range n) fun i => do
        let p ← JM.prefixes g s.devId ⟨fld (e i) 0 48, 1, true, false⟩
        pure (p.flatMap fun v => natLe 4 (fp32.enc v))
      pure (m.flatten, 0)
    | 4 => do
      let l ← JM.all (List.range n) fun i => do
        let w ← JM.planeVal g (fld (e i) 0 40) (fld (e i) 40 1)
        pure (natLe 8 (w.getD 0).toNat, if w.isNone then tellCount 1 s.devId else 0)
      pure (l.flatMap (·.1), if n = 1 then (l.map (·.2)).sum else 0)
    | _ => pure ([], 0)
  let k ← if sub = 5 then JM.writeVertices g ((List.range n).map fun i => slice body (24 + 32 * i) 32) fwd else pure r.2
  pure (r.1, (← get).tainted, k)

/-- Bytes of an entry of each sub-op. -/
def nuEntLen (sub : Nat) : Nat := if sub = 2 then 16 else if sub = 5 then 32 else 8

/-- The entries of a sub-op leave zero every bit that Table 11-11 does not name (R363). -/
def nuEntsOk (sub n : Nat) (body : Bytes) : Bool :=
  (List.range n).all fun i =>
    let o := 24 + nuEntLen sub * i
    match sub with
    | 0 => bfld body o 8 40 24 == 0
    | 4 => bfld body o 8 41 23 == 0
    | 2 => bfld body o 8 48 16 == 0 && fieldAt body (o + 12) 4 == 0
    | 5 => bfld body o 8 40 24 == 0 && zeroRange body (o + 24) 8
    | _ => bfld body o 8 48 16 == 0

/-- Serves an `NU_REQ` of another device as far as it can go. -/
def State.runRemoteNu (s : State) (r : Remote) : State :=
  let who := whoRemote r.dev r.tag
  let w := fieldAt r.body 0 8
  let w1 := fieldAt r.body 8 8
  let sub := fld w 0 4
  let n := fld w 4 32
  let fail (st : Nat) : State := s.endRemote r.dev r.tag st 0 []
  if r.prog.err ≠ 0 then (if s.progWaits who then s else fail r.prog.err)
  else if 5 < sub ∨ fld w 36 28 ≠ 0 ∨ fld w1 18 46 ≠ 0 ∨ bfld r.body 16 8 40 24 ≠ 0 ∨ r.body.length ≠ 24 + n * nuEntLen sub ∨ !nuEntsOk sub n r.body then fail rsBadDescriptor
  else
    match s.graphOf (fld w1 0 12), s.graphAccess r.port (fld w1 0 12) (sub == 5) with
    | some g, 0 =>
      -- what was forwarded here is served here, whatever this device's shard map still says (R103)
      let g' : Graph := if r.fwd then { g with scope := 0 } else g
      if g.form ≠ fld w1 12 2 ∨ g.scope ≠ fld w1 14 2 ∨ g.planes ≠ fld w1 16 2 ∨ g.vertices ≠ bfld r.body 16 8 0 40 then fail rsGraphInvalid
      else
        let recs := (List.range n).map fun i => slice r.body (24 + 32 * i) 32
        s.runJob who r.port noItem (JM.remoteNu g' sub r.body n r.fwd)
          (fun s ks => nuMk g' 5 (s.writesOf who g' recs r.fwd) s ks)
          fun s x => s.endRemote r.dev r.tag rsOk x.2.2 (if x.2.1 then [] else [x.1])
    | _, st => fail (if st = 0 then rsGraphInvalid else st)

/-- Goes on with one piece of queued work. -/
def State.resumeOne (s : State) (who : Nat × Nat) : State :=
  s.runEnds who fun s =>
    if who.1 < 128 then
      match s.reqOf who.1 who.2 with
      | some q => if q.kind = .nu then s.runNu who.1 q else if q.kind = .sift then s.serveSift who.1 who.2 else s
      | none => s.dequeue who
    else
      match s.remoteOf (who.1 - 128) who.2 with
      | some r => if r.kind = 1 then s.runRemoteSift r else s.runRemoteNu r
      | none => s.dequeue who

/-- The class in which queued work is served (R86): 0 express, 1 normal, 2 background. Requests of other devices carry no
class and are served as normal work, as are vertex writes, which apply in arrival order (R142; DESIGN CHOICE, log entry 68). -/
def State.rankOf (s : State) (who : Nat × Nat) : Nat :=
  if who.1 < 128 then ((s.reqOf who.1 who.2).map fun q =>
    if q.kind = .nu ∧ fieldAt q.block 0 1 % 16 = opVertexWrite then 1 else q.cls.num).getD 1 else 1

/-- Goes on with all queued work (R86, R94): express before normal before background, the oldest first, and anew while
work ends that others wait for. -/
def State.resumePasses (s : State) : Nat → State
  | 0 => s
  | n + 1 =>
    let order := [0, 1, 2].flatMap fun k => s.queue.filter fun w => s.rankOf w == k
    let t := order.foldl State.resumeOne s
    if t.queue.length < s.queue.length ∨ t.rowLine.length < s.rowLine.length then t.resumePasses n else t

def State.resumeAll (s : State) : State := s.resumePasses (s.queue.length + s.rowLine.length + 1)

def execNureq (c : CoreIx) (f : XFmt) (s : State) : Out := .next (nureqInsn c f s)
def execExpand (c : CoreIx) (req : Nat) (s : State) : Out := .next (nuOp opExpand c req s)
def execAggregate (c : CoreIx) (req : Nat) (s : State) : Out := .next (nuOp opAggregate c req s)
def execWalk (c : CoreIx) (req : Nat) (s : State) : Out := .next (nuOp opWalk c req s)
def execVertexRead (c : CoreIx) (req : Nat) (s : State) : Out := .next (nuOp opVertexRead c req s)
def execVertexWrite (c : CoreIx) (req : Nat) (s : State) : Out := .next (nuOp opVertexWrite c req s)

end Sys2Proof.Machine
end

