-- ==== Sys2Proof/Machine/Desc.lean ====
section
/-! DEFINITION. Descriptors under execution (chapter 13): taking one up, its reserved bits, and the objects it may name. -/

namespace Sys2Proof.Machine

/-- Bits of an entry that lie in none of the ranges (first bit, bits) named. -/
def unnamed (b : Bytes) (named : List (Nat × Nat)) : Bool :=
  let m := (named.map fun x => (2 ^ x.2 - 1) * 2 ^ x.1).foldl (· ||| ·) (2 ^ 64 - 1)
  leNat b &&& m != leNat b

/-- The accepted descriptor of an opcode at a position of a ring, not begun. -/
def State.descOf (s : State) (r pos op : Nat) : Option Live :=
  if s.running then (s.ring r).live.find? fun e => e.pos == pos && !e.begun && fieldAt e.entry 0 1 == op else none

/-- The accepted descriptor of an opcode at a position of a ring, begun or not. -/
def State.descAny (s : State) (r pos op : Nat) : Option Live :=
  if s.running then (s.ring r).live.find? fun e => e.pos == pos && fieldAt e.entry 0 1 == op else none

/-- A descriptor of the same opcode that was accepted earlier names the same object and has not begun: this one waits
for it (R412). -/
def State.earlierNames (s : State) (op : Nat) (x : Live) (obj : Live → Nat) : Bool :=
  s.rings.any fun g => g.2.live.any fun e =>
    fieldAt e.entry 0 1 == op && !e.begun && !e.failed && decide (e.order < x.order) && obj e == obj x

/-- The descriptor at a position has begun: only its end is awaited. -/
def State.begin (s : State) (r pos : Nat) : State :=
  s.modRing r fun g => { g with live := updWhere (fun e => e.pos == pos) (fun e => { e with begun := true }) g.live }

/-- R411: whether a descriptor of a ring may act on a table; 0, or the status it completes with. -/
def State.descTable (s : State) (r id : Nat) : Nat :=
  match s.tableOf id with
  | none => stTableInvalid
  | some t =>
    if t.port ≠ s.ringPort r then (if t.shared then stTableReadonly else stTableInvalid)
    else if s.owns (s.ringPort r) (s.ringFn r) .table id then 0 else stBadDescriptor

/-- R411 for graphs. -/
def State.descGraph (s : State) (r id : Nat) : Nat :=
  match s.graphOf id with
  | none => stGraphInvalid
  | some g =>
    if g.port ≠ s.ringPort r then stGraphInvalid
    else if s.owns (s.ringPort r) (s.ringFn r) .graph id then 0 else stBadDescriptor

/-- The n bytes of a host structure, when they came without a failure. -/
def hostWhole (a : HostAns) (n : Nat) : Option Bytes :=
  if a.err.isNone && decide (n ≤ a.data.length) then some (a.data.take n) else none

/-- A structure of the host that a descriptor names could not be read (R403, R384). -/
def State.descFault (s : State) (r pos addr : Nat) : State :=
  (s.report (lgPort (s.ringPort r)) [] eHostFault r addr 0).completeWith r pos stHostFault

/-- The access of a descriptor's set-up read, once it has been sent. -/
def State.setupSent (s : State) (r pos : Nat) : Option HostAcc := s.accs.find? fun a => a.why == .setup r pos && a.st == .sent

/-- A descriptor reads the 64 bytes of the host that it names (R403): the request goes out as the ring's function and
PASID, held and translated as any other (R366, R369, R378); the answer is taken once it has been sent. -/
def State.setupRead (s : State) (r pos addr : Nat) (ans : HostAns) (k : State → Bytes → State) : State :=
  let s := if s.accs.any fun a => a.why == .setup r pos then s
    else (s.begin r pos).hostStart (s.ringPort r) (s.ringFn r) (s.ring r).pasid addr 64 .read (.setup r pos) noItem
  match s.setupSent r pos with
  | some a =>
    let s := (s.dropAcc a.id).settleInvals
    match hostWhole ans 64 with
    | some b => k s b
    | none => s.descFault r pos addr
  | none => if s.accs.any fun a => a.why == .setup r pos then s else s.completeWith r pos stHostFault

end Sys2Proof.Machine
end

