-- ==== Sys2Proof/Machine/Tiers.lean ====
section
/-! DEFINITION. Moving blocks between tiers (R305-R314): chunk pools, moves, epochs and hardware mode. -/

namespace Sys2Proof.Machine

/-! ### Chunk pools (R305, R306) -/

/-- Log2 Crumbs of the chunk for n bytes, when one of 2^5 to 2^12 Crumbs is large enough. -/
def chunkLog (n : Nat) : Option Nat := (rangeFrom 5 8).find? fun c => decide (n ≤ 32 * 2 ^ c)

/-- Free Crumbs in the pool of port p in a unit. -/
def State.freeCrumbs (s : State) (p u : Nat) : Nat :=
  (s.chunks.map fun x => if x.unit = u ∧ x.port = p ∧ !x.used then 2 ^ x.log2 else 0).sum

/-- The smallest free chunk of at least 2^c Crumbs; the lowest of equals. -/
def State.bestChunk (s : State) (p u c : Nat) : Option Chunk :=
  s.chunks.foldl (fun b x =>
    if x.unit = u ∧ x.port = p ∧ !x.used ∧ c ≤ x.log2 then
      match b with
      | none => some x
      | some y => if x.log2 < y.log2 ∨ (x.log2 = y.log2 ∧ x.off < y.off) then some x else b
    else b) none

/-- Takes a chunk from a pool, splitting the chunk found into halves (R306): its offset. -/
def State.allocChunk (s : State) (p u c : Nat) : Option (Nat × State) :=
  match s.bestChunk p u c with
  | none => none
  | some x =>
    let rest := s.chunks.filter (· != x)
    let halves := (rangeFrom c (x.log2 - c)).map fun k => { x with off := x.off + 32 * 2 ^ k, log2 := k }
    some (x.off, { s with chunks := rest ++ [{ x with log2 := c, used := true }] ++ halves })

/-- Merges a free chunk with its free other half, and goes on with the whole. -/
def mergeChunk (l : List Chunk) (x : Chunk) : Nat → List Chunk
  | 0 => l ++ [x]
  | n + 1 =>
    let b : Chunk := { x with off := Nat.xor x.off (32 * 2 ^ x.log2) }
    if x.log2 < 12 ∧ l.contains b then mergeChunk (l.filter (· != b)) { x with off := min x.off b.off, log2 := x.log2 + 1 } n
    else l ++ [x]

/-- Returns a chunk to the pool of port p. -/
def State.freeChunk (s : State) (p u off c : Nat) : State :=
  let rest := s.chunks.filter fun x => !(x.unit == u && x.off == off && x.used)
  { s with chunks := mergeChunk rest ⟨u, off, c, p, false⟩ 8 }

/-- POOL_GRANT and POOL_RECLAIM (R306). -/
def poolDesc (grant : Bool) (r : RingIx) (pos : Nat) (s : State) : State :=
  match s.descOf r.val pos (if grant then 0x1D else 0x1E) with
  | none => s
  | some e =>
    let a := fieldAt e.entry 8 8
    let n := fieldAt e.entry 16 8
    let p := s.ringPort r.val
    let fin (s : State) (st : Nat) : State := s.completeWith r.val pos st
    match s.kindOf a n with
    | some (.sifter, u, o) =>
      if a % granule ≠ 0 ∨ n % granule ≠ 0 ∨ n = 0 ∨ unnamed e.entry [(64, 64), (128, 64)] then fin s stBadDescriptor
      else
        let met := s.chunks.filter fun x => x.unit == u && meets (x.off, 32 * 2 ^ x.log2) o n
        if grant then
          if met.isEmpty then
            fin { s with chunks := s.chunks ++ (List.range (n / granule)).map fun i => ⟨u, o + i * granule, 12, p, false⟩ } stOk
          else fin s stClaimConflict
        else if (met.all fun x => x.port == p && !x.used) && (met.map fun x => 32 * 2 ^ x.log2).sum == n then
          fin { s with chunks := s.chunks.filter fun x => !met.contains x } stOk
        else fin s stClaimConflict
    | _ => fin s stBadDescriptor

/-! ### Entries -/

/-- The directory of an entry: its address, its number of entries and the owning port. -/
def State.entryDir (s : State) (e : EntryRef) : Option (Nat × Nat × Nat) :=
  if e.kind.val = 0 then
    match s.tableOf e.id.toNat with
    | some t => if e.version && !t.versioned then none else some (t.dir e.version, ceilDiv t.rows 16, t.port)
    | none => none
  else if e.version then none
  else
    match s.graphOf e.id.toNat with
    | some g =>
      if e.kind.val = 1 then some (g.vdir, ceilDiv g.vertices 16, g.port)
      else if e.kind.val = 2 then some (g.ndir, ceilDiv g.nsize (if g.form = 0 then 512 else 1024), g.port)
      else if g.pdir = 0 then none else some (g.pdir, ceilDiv g.nsize 1024, g.port)
    | none => none

/-- Bytes of an entry's block or segment at a width. -/
def State.entryLen (s : State) (e : EntryRef) (w : Nat) : Nat :=
  if e.kind.val = 0 then ((s.tableOf e.id.toNat).map fun t => 16 * t.recLen w).getD 0
  else if e.kind.val = 1 then ((s.graphOf e.id.toNat).map (·.blockLen)).getD 0
  else 4096

/-- Log2 Crumbs of its chunk: an INT4 block takes the chunk of FP8 (R305). -/
def State.entryChunk (s : State) (e : EntryRef) (w : Nat) : Option Nat := chunkLog (s.entryLen e (min w 1))

/-- The scope and shard of a row or vertex block. -/
def State.entryShard (s : State) (e : EntryRef) : Option (Nat × Nat) :=
  if e.kind.val = 0 then (s.tableOf e.id.toNat).map fun t => (t.scope, shardOf t.id e.index)
  else if e.kind.val = 1 then (s.graphOf e.id.toNat).map fun g => (g.scope, vshardOf g.id e.index)
  else none

/-- An entry that exists, is present and names its block (R74). -/
def State.liveEntry (s : State) (e : EntryRef) : Option (Nat × DirEnt × Nat) :=
  match s.entryDir e with
  | some (dir, n, p) =>
    let d := s.dirEnt dir e.index
    let ok : Bool := match e.kind.val, s.tableOf e.id.toNat with
      | 0, some t => s.rowEntOk t d
      | _, _ => s.entOk p d (s.entryLen e 0)
    if e.index < n ∧ ok then some (dir, d, p) else none
  | none => none

/-- Word 0 of an entry with a new place; `pinned` is kept and `moving` is clear (R307). -/
def DirEnt.placed (d : DirEnt) (tier w unit off : Nat) : Nat :=
  tier + 4 * w + 16 + (if d.pinned then 64 else 0) + off / 32 * 256 + unit * 2 ^ 52

def DirEnt.withMoving (d : DirEnt) (v : Bool) : DirEnt :=
  { d with word0 := d.word0 - (if d.moving then 32 else 0) + if v then 32 else 0 }

/-- The unit field of a unit number (R73). -/
def unitFieldOf (u : Nat) : Nat := if u < 8 then u else u % 2

/-- Every row of a block can be narrowed to INT4 (R72); for a block whose bytes are at hand. -/
def State.canInt4 (s : State) (t : Table) (d : DirEnt) : Bool :=
  (List.range 16).all fun i =>
    (narrowInt4 (decodeRow t d.width (s.dread (d.addr + i * t.recLen d.width) (t.dataLen d.width)).1)).isSome

/-! ### Moves (R307-R309) -/

/-- Starts a move: a chunk of the target unit, `moving` set, and the host reads of a tier H source; none
when the pool has no chunk. -/
def State.startMove (s : State) (e : EntryRef) (src : Option (Nat × Nat)) (tier u w : Nat) : Option State :=
  match s.liveEntry e, s.entryChunk e w with
  | some (dir, d, p), some c =>
    match s.allocChunk p u c with
    | none => none
    | some (off, s) =>
      let s := s.putDir dir e.index (d.withMoving true)
      let m : Move := { entry := e, addr := dir + 16 * e.index, oldWord := d.word0, newWord := d.placed tier w (unitFieldOf u) off,
                        port := p, src := src, prog := {}, copied := false, bad := [] }
      let s := { s with moves := s.moves ++ [m] }
      some (s.runJob (whoMove e) p noItem (JM.ready d.addr (s.entryLen e d.width)) (fun _ _ => []) fun s _ => s)
  | _, _ => none

def Move.old (m : Move) : DirEnt := ⟨m.oldWord, 0, 0⟩
def Move.new (m : Move) : DirEnt := ⟨m.newWord, 0, 0⟩

/-- The ranges of a block that hold poison, by offset. -/
def State.badIn (s : State) (a n : Nat) : List (Nat × Nat) :=
  (s.poison.filter fun x => decide (x < a + n ∧ a < x + (markUnit x).2)).map fun x =>
    (max x a - a, min (x + (markUnit x).2) (a + n) - max x a)

/-- Copies the records, widening exactly or narrowing by R35 or R71: the poisoned ranges of the copy, or
none for a block that the width cannot hold. -/
def JM.copyBlock (m : Move) : JM (Option (List (Nat × Nat))) := do
  let s ← JM.st
  let o := m.old
  let d := m.new
  let len := s.entryLen m.entry o.width
  let sf := unitSifter ((d.unit).getD 0)
  let r ← JM.mem o.addr len
  -- the data of a LOST unit is poison throughout (R428, R435)
  let bad := if o.tier = 3 then [] else if s.unitGone ((o.unit).getD 0) then [(0, len)] else s.badIn o.addr len
  let res ← match m.entry.kind.val, s.tableOf m.entry.id.toNat with
    | 0, some t =>
      if o.width = d.width then pure (some (r.1, bad))
      else do
        let lo := t.recLen o.width
        let ln := t.recLen d.width
        let rows ← (List.range 16).mapM fun i => JM.ar sf (encodeRow d.width (decodeRow t o.width (slice r.1 (i * lo) (t.dataLen o.width))))
        match rows.mapM id with
        | none => pure none
        | some rows =>
          let b := rows.zipIdx.flatMap fun (x, i) => x ++ slice r.1 (i * lo + t.dataLen o.width) t.stateLen
          let hit (a n : Nat) : Bool := bad.any fun x => decide (x.1 < a + n ∧ a < x.1 + x.2)
          let nb := (List.range 16).flatMap fun i =>
            (if hit (i * lo) (t.dataLen o.width) then [(i * ln, t.dataLen d.width)] else []) ++
            (if hit (i * lo + t.dataLen o.width) t.stateLen then [(i * ln + t.dataLen d.width, t.stateLen)] else [])
          pure (some (b, nb))
    | _, _ => pure (some (r.1, bad))
  match res with
  | none => pure none
  | some x =>
    if d.tier = 3 ∧ !x.2.isEmpty then pure none
    else do
      let who := (← get).who
      JM.upd fun s => s.sifterWrite who d.addr x.1
      pure (some x.2)

/-- Ends what a `MIGRATE` waits for. -/
def State.endSrc (s : State) (src : Option (Nat × Nat)) (status : Nat) : State :=
  match src with
  | some (r, pos) => s.completeWith r pos status
  | none => s

/-- Marks poisoned ranges of a copy. -/
def State.markBad (s : State) (a : Nat) (l : List (Nat × Nat)) : State :=
  l.foldl (fun s x => (List.range x.2).foldl (fun s i => s.poisonAt (a + x.1 + i)) s) s

/-- The directory entry changes in one write, the old chunk awaits its release, and held operations run
(R96, R307, R308). -/
def State.finishMove (s : State) (m : Move) : State :=
  match s.entryDir m.entry with
  | none => { s with moves := s.moves.erase m }
  | some (dir, _, p) =>
    let s := s.markBad m.new.addr m.bad
    let d := s.dirEnt dir m.entry.index
    let s := s.putDir dir m.entry.index { d with word0 := m.newWord }
    let old : List OldChunk := match s.entryChunk m.entry m.old.width with
      | some c => [{ entry := m.entry, unit := (m.old.unit).getD 0, off := m.old.off, log2 := c, port := p, holders := s.queue }]
      | none => []
    { s with moves := s.moves.filter (fun x => x.entry != m.entry), oldChunks := s.oldChunks ++ old }.endSrc m.src stOk |>.resumeAll

/-- A move that cannot be made: its chunk goes back and `moving` is cleared; logged as `MOVE`. -/
def State.abandonMove (s : State) (m : Move) (status : Nat) : State :=
  let s := { s with moves := s.moves.filter fun x => x.entry != m.entry }
  let s := match s.entryChunk m.entry m.new.width with
    | some c => s.freeChunk m.port ((m.new.unit).getD 0) m.new.off c
    | none => s
  let s := match s.entryDir m.entry with
    | some (dir, _, _) => s.putDir dir m.entry.index ((s.dirEnt dir m.entry.index).withMoving false)
    | none => s
  ((s.report (lgSifter (unitSifter ((m.old.unit).getD 0))) [m.port] eMove ((m.old.unit).getD 0 % 8) m.entry.index status).endSrc m.src status).resumeAll

/-- Moves whose page writes are done end. -/
def State.settleMoves (s : State) : State :=
  s.moves.foldl (fun s m =>
    if m.copied && !(s.flashWrites.any fun w => w.core == some (whoMove m.entry)) && !s.progWaits (whoMove m.entry) then
      s.finishMove m
    else s) s

/-- CHUNK_RELEASE (R308): once every request that read the old entry has completed. -/
def chunkRelease (e : EntryRef) (s : State) : State :=
  match s.oldChunks.find? (fun o => o.entry == e) with
  | some o =>
    if s.running && !(o.holders.any s.queue.contains) then { s with oldChunks := s.oldChunks.erase o }.freeChunk o.port o.unit o.off o.log2
    else s
  | none => s

/-! ### Epochs and hardware mode (R310-R312) -/

def State.epochTicks (s : State) : Nat := 2 ^ fld (s.dreg 0x1018) 0 5

/-- A threshold of `TIER_THRESH` by its first bit. -/
def State.thresh (s : State) (lo : Nat) : Nat := 2 ^ fld (s.dreg 0x1020) lo 6

/-- Table 10-4: the tier a block goes to. -/
def State.tierFor (s : State) (tier h updates : Nat) : Nat :=
  if tier = 0 then (if h < s.thresh 0 then 1 else 0)
  else if tier = 1 then (if s.thresh 6 ≤ h then 0 else if h < s.thresh 12 then 2 else 1)
  else if tier = 2 then (if s.thresh 18 ≤ h then 0 else if s.thresh 24 ≤ h ∨ updates ≠ 0 then 1 else 2)
  else tier

/-- Table 10-5: the width in tiers 1 and 2. -/
def State.widthFor (s : State) (w h : Nat) : Nat :=
  if s.thresh 30 ≤ h then 0
  else if s.thresh 36 ≤ h then (if w = 0 then 0 else 1)
  else if s.thresh 42 ≤ h then 1
  else if s.thresh 48 ≤ h then (if w = 2 then 2 else 1)
  else 2

/-- The unit of most free Crumbs among n from the first, the lowest on a tie (R312). -/
def State.bestUnit (s : State) (p first n : Nat) : Nat :=
  (rangeFrom first n).foldl (fun b u => if s.freeCrumbs p b < s.freeCrumbs p u then u else b) first

/-- The unit a block takes in a tier (R312). -/
def State.targetUnit (s : State) (p tier : Nat) (d : DirEnt) : Nat :=
  if tier = 0 then s.bestUnit p 0 8
  else if d.tier = 0 then s.bestUnit p (6 + 2 * tier) 2
  else 6 + 2 * tier + d.unitField

/-- The tier and width that a visit in hardware mode gives a block (R310, R311). -/
def State.placeFor (s : State) (e : EntryRef) (d : DirEnt) : Nat × Nat :=
  let h := satNat 32 (d.reads + d.updates)
  let tier := s.tierFor d.tier h d.updates
  match e.kind.val, s.tableOf e.id.toNat with
  | 0, some t =>
    if tier = 0 then (0, 0)
    else
      let w := min (s.widthFor d.width h) t.narrowest
      (tier, if w = 2 ∧ !s.canInt4 t d then 1 else w)
  | _, _ => (tier, 0)

/-- Bytes that the write budget of a hub allows in one epoch (R317). -/
def State.flashBudget (s : State) : Nat := fld (s.dreg 0x1018) 16 16 * 1000000 * s.epochTicks / 100000000

/-- The block's shard is moving (R309). -/
def State.entryHeld (s : State) (e : EntryRef) : Bool :=
  match s.entryShard e with
  | some (sc, sh) => s.shardMoving sc sh
  | none => false

/-- The records of a block are read, to see whether INT4 can hold them, where Table 10-5 asks for it (R72, R315). -/
def State.seeBlock (s : State) (e : EntryRef) (d : DirEnt) : State :=
  let h := satNat 32 (d.reads + d.updates)
  match e.kind.val, s.tableOf e.id.toNat with
  | 0, some t => if s.tierFor d.tier h d.updates ≠ 0 ∧ min (s.widthFor d.width h) t.narrowest = 2 then s.pageRead d.addr (s.entryLen e d.width) else s
  | _, _ => s

/-- The decisions of a visit (R310-R312, R317, R430); a move into tier 2 is charged by the pages it writes. -/
def State.visitMove (s : State) (e : EntryRef) (d : DirEnt) (p : Nat) : State :=
  if s.assisted 4 || d.pinned || d.tier == 3 || d.moving || s.entryHeld e || s.poisoned d.addr (s.entryLen e d.width) then s
  else
    let x := s.placeFor e d
    let s := s.seeBlock e d
    if x = (d.tier, d.width) then s
    else
      let u := s.targetUnit p x.1 d
      let n := roundUp (s.entryLen e x.2) 4096
      let hub := u % 2
      if x.1 = 2 ∧ s.flashBudget < Tab.get 0 s.flashMoved hub + n then s
      else
        match s.startMove e none x.1 u x.2 with
        | some s => if x.1 = 2 then { s with flashMoved := Tab.put 0 s.flashMoved hub (Tab.get 0 s.flashMoved hub + n) } else s
        | none => { s with tierRefused := Tab.put 0 s.tierRefused x.1 (Tab.get 0 s.tierRefused x.1 + 1) }

/-- The entry lies in an active directory. -/
def State.activeEntry (s : State) (e : EntryRef) : Bool :=
  e.kind.val != 0 || (match s.tableOf e.id.toNat with
    | some t => t.active == e.version
    | none => false)

/-- The epoch machinery runs: it is not LOST, restarting or held (R434, R437). -/
def State.tiersRun (s : State) : Bool := s.fnUp 4 0 && !s.unitLost 4 0

/-- EPOCH_VISIT (R310): decisions, then the counts are halved; once in an epoch. -/
def epochVisit (e : EntryRef) (s : State) : State :=
  match s.entryDir e with
  | none => s
  | some (dir, n, p) =>
    if !s.running || !s.tiersRun || !s.activeEntry e || !decide (e.index < n) || !(s.dirEnt dir e.index).present || s.visited.contains e then s
    else
      let s := s.seeDir false dir e.index
      let s := match s.liveEntry e with
        | some (_, d, _) => s.visitMove e d p
        | none => s
      let d := s.dirEnt dir e.index
      { s.putDir dir e.index { d with reads := d.reads / 2, updates := d.updates / 2 } with visited := s.visited ++ [e] }

/-- Every entry of a directory that a kind, id and version name. -/
def entriesOf (kind : Fin 4) (id : Nat) (v : Bool) (n : Nat) : List EntryRef :=
  (List.range n).map fun i => ⟨kind, BitVec.ofNat 16 id, v, i⟩

/-- Every entry of the device's directories; of tables, only the active ones or all. -/
def State.allEntries (s : State) (active : Bool) : List EntryRef :=
  let cnt (e : EntryRef) : Nat := ((s.entryDir e).map fun x => x.2.1).getD 0
  let one (kind : Fin 4) (id : Nat) (v : Bool) : List EntryRef := entriesOf kind id v (cnt ⟨kind, BitVec.ofNat 16 id, v, 0⟩)
  (s.tables.flatMap fun x => match x.2 with
    | some t => if active then one 0 t.id t.active else one 0 t.id false ++ one 0 t.id true
    | none => []) ++
  s.graphs.flatMap fun x => match x.2 with
    | some g => one 1 g.id false ++ one 2 g.id false ++ one 3 g.id false
    | none => []

def State.presentEntry (s : State) (e : EntryRef) : Bool :=
  match s.entryDir e with
  | some (dir, _, _) => (s.dirEnt dir e.index).present
  | none => false

/-- Every visit of the epoch has been made. -/
def State.allVisited (s : State) : Bool := ((s.allEntries true).filter s.presentEntry).all s.visited.contains

/-! ### Shard moves (R102, R143, R309) -/

/-- The row and vertex blocks of a shard on this device. The default row's record, for which `BLOCK_COPY` has no kind, is not among
them: the new home of the shard of row block 0 uses the record that its own descriptor names (DESIGN CHOICE, log entry 22). -/
def State.shardBlocks (s : State) (scope sh : Nat) : List EntryRef :=
  (s.allEntries false).filter fun e => s.entryShard e == some (scope, sh) && (s.liveEntry e).isSome

/-- A window holds contributions or nodes for rows of the shard (R102). Contributions in the forward stores of other devices, of which
no message tells this one, do not bar the move: their records go on from here to the new home (DESIGN CHOICE, log entry 22). -/
def State.shardInWindow (s : State) (scope sh : Nat) : Bool :=
  s.windows.any fun w => match s.tableOf w.table with
    | some t => t.scope == scope && (w.contribs.map (·.row) ++ w.fwd.map (·.2.row) ++ w.nodes.map (·.1)).any fun r => shardOf t.id ((r.getD 0) / 16) == sh
    | none => false

/-- A sweep of a graph of the scope is not between iterations: a move begins when this device has computed an iteration and
before it sends its marker, for which no other device can have begun the next (R143). -/
def State.scopeSweeping (s : State) (scope : Nat) : Bool :=
  s.sweeps.any fun w => (!w.computed || w.marked) && s.sweepOf w.graph == some w && (match s.graphOf w.graph with
    | some g => g.scope == scope
    | none => false)

/-- The segments that hold the lists, and prefix values, of the records of vertex block k that pass R110: (kind, index). -/
def State.listSegments (s : State) (g : Graph) (k : Nat) (b : Bytes) : List (Nat × Nat) :=
  ((List.range 16).flatMap fun i =>
    let off := bfld b (16 * i) 8 0 48
    let deg := fieldAt b (16 * i + 8) 4
    let per := if g.form = 0 then 512 else 1024
    if s.recOk g (16 * k + i) s.devId (slice b (16 * i) 16) ∧ deg ≠ 0 then
      (rangeFrom (off / per) ((off + deg - 1) / per - off / per + 1)).map (fun k => (2, k)) ++
        (if bfld b (16 * i + 8) 8 33 1 = 0 then [] else (rangeFrom (off / 1024) ((off + deg - 1) / 1024 - off / 1024 + 1)).map fun k => (3, k))
    else []).eraseDups

/-- One `BLOCK_COPY` body (Table 11-11). -/
def copyBody (e : EntryRef) (d : DirEnt) (b : Bytes) : Bytes :=
  natLe 8 (e.kind.val + d.tier * 8 + d.width * 32) ++ natLe 8 (e.id.toNat + if e.version then 65536 else 0) ++ natLe 8 e.index
    ++ natLe 8 b.length ++ b

/-- Every copy of a shard move: owning port and body, segments before the blocks that need them. -/
def JM.shardCopies (l : List EntryRef) : JM (List (Nat × Bytes)) := do
  let one (e : EntryRef) : JM (List (Nat × Bytes) × Bytes) := do
    let s ← JM.st
    match s.liveEntry e with
    | some (dir, d, p) => do
      JM.upd fun s => s.seeDir false dir e.index
      let r ← JM.mem d.addr (s.entryLen e d.width)
      JM.taint r.2
      pure ([(p, copyBody e d r.1)], r.1)
    | none => pure ([], [])
  let rs ← JM.all l fun e => do
    let x ← one e
    let s ← JM.st
    match e.kind.val, s.graphOf e.id.toNat with
    | 1, some g => do
      let segs ← JM.all (s.listSegments g e.index x.2) fun k => do
        let sg : EntryRef := ⟨if k.1 = 2 then 2 else 3, e.id, false, k.2⟩
        -- a segment that is not present reads as holes, and its prefix values as +0 (log entry 66)
        if (s.liveEntry sg).isSome then one sg
        else pure ([(g.port, copyBody sg ⟨0, 0, 0⟩ (List.replicate 4096 (if k.1 = 2 then 0xFF#8 else 0)))], [])
      pure (segs.flatMap (·.1) ++ x.1)
    | _, _ => pure x.1
  pure rs.flatten

/-- The copies, and whether poison taints one of them. -/
def JM.shardWhole (l : List EntryRef) : JM (List (Nat × Bytes) × Bool) := do
  let x ← JM.shardCopies l
  pure (x, (← get).tainted)

/-- A shard move that is not made: the shard stays; counted in hardware mode, `GRAPH_FULL` for a `MIGRATE`. -/
def State.failShard (s : State) (m : ShardMove) : State :=
  let s := if m.started then s.setEntry16 (if m.scope = 1 then 0x34000 else 0x36000) m.shard (s.homeOf m.scope m.shard) else s
  let s := { s with shardMoves := s.shardMoves.filter fun x => x.who != m.who || x.src != m.src }
  let s := s.report lgDevice [] eMove 4 m.shard m.newHome
  (s.endSrc m.src stGraphFull).resumeAll

/-- The storage of a shard that has left is freed (R102): its blocks, and the lists of its vertices in
the device area. -/
def State.freeShard (s : State) (scope sh : Nat) : State :=
  (s.shardBlocks scope sh).foldl (fun s e =>
    match s.liveEntry e with
    | none => s
    | some (dir, d, p) =>
      let s := s.seeDir false dir e.index
      let recs := (s.dread d.addr (s.entryLen e d.width)).1
      let s := if e.kind.val = 1 then s.pageRead d.addr 256 else s
      let offs := if e.kind.val = 1 then (List.range 16).map fun i => bfld recs (16 * i) 8 0 48 else []
      let s := { s with areas := s.areas.filter fun x => !(x.1 == e.id.toNat && offs.contains x.2.1) }
      let s := s.putDir dir e.index ⟨0, 0, 0⟩
      match s.entryChunk e d.width, d.unit with
      | some c, some u => s.freeChunk p u d.off c
      | _, _ => s) s

/-- The last acknowledgement has come: the old home frees the storage. -/
def State.endShard (s : State) (m : ShardMove) : State :=
  if m.transferred && m.acks.isEmpty then
    let s := s.freeShard m.scope m.shard
    { s with shardMoves := s.shardMoves.filter fun x => x.who != m.who }.endSrc m.src stOk
  else s

/-- The transfer point (R102): the new home stands in the entry, every device of the scope is told, and
held operations are forwarded. -/
def State.transferShard (s : State) (m : ShardMove) : State :=
  let others := s.scopeOthers m.scope
  let s := s.setEntry16 (if m.scope = 1 then 0x34000 else 0x36000) m.shard m.newHome
  let s := s.modShard m.who fun m => { m with transferred := true, acks := others }
  let s := others.foldl (fun s d =>
    s.sendMg d 4 (m.shard + m.scope * 2 ^ 12 + m.newHome * 2 ^ 14) (natLe 8 (s.homeEntry m.scope m.shard))) s
  s.resumeAll

/-- A shard move begins: `moving` is set in the map entry (R102). -/
def State.beginShard (s : State) (m : ShardMove) : State :=
  (s.setEntry16 (if m.scope = 1 then 0x34000 else 0x36000) m.shard (s.homeOf m.scope m.shard + 4096)).modShard m.who fun m => { m with started := true }

/-- The blocks of the shard have come together: the copies go to the new home. -/
def State.sendShard (s : State) (m : ShardMove) (l : List (Nat × Bytes)) : State :=
  let s := s.modShard m.who fun m => { m with sent := true }
  let s := l.foldl (fun s x =>
    let q := s.sendRq m.newHome 6 x.1 x.2
    q.2.modShard m.who fun m => { m with copies := m.copies ++ [q.1] }) s
  if l.isEmpty then s.transferShard m else s

/-- A shard move may begin: no window or sweep uses the shard, and no block of it moves (R102, R143, R309). -/
def State.shardFree (s : State) (m : ShardMove) : Bool :=
  !(s.shardInWindow m.scope m.shard || s.scopeSweeping m.scope || s.moves.any (fun x => (s.shardBlocks m.scope m.shard).contains x.entry)
    || s.shardMoves.any fun x => x.who == m.who && x.started)

/-- Starts the shard moves that can start now, and goes on with the copies of those that have: a write to the shard that comes
after `moving` is set is held (R102). -/
def State.runShards (s : State) : State :=
  s.shardMoves.foldl (fun s m =>
    match s.shardMoves.find? fun x => x.who == m.who && x.src == m.src with
    | none => s
    | some m =>
      if m.sent || m.transferred then s
      else if m.prog.err ≠ 0 then (if s.progWaits m.who then s else s.failShard m)
      else if !m.started && !s.shardFree m then s
      else
        let s := if m.started then s else s.beginShard m
        s.runJob m.who 0 noItem (JM.shardWhole (s.shardBlocks m.scope m.shard)) (fun _ _ => []) fun s x =>
          -- a message whose body holds poison is not sent (R428)
          if x.2 then s.failShard { m with started := true } else s.sendShard m x.1) s

/-- A copy is answered (R102). -/
def State.copyAnswered (s : State) (dev tag status : Nat) : State :=
  match s.shardMoves.find? (fun m => m.newHome == dev && m.copies.contains tag) with
  | none => s
  | some m =>
    let m := { m with copies := m.copies.erase tag, failed := m.failed || status != 0 }
    let s := s.modShard m.who fun _ => m
    if !m.copies.isEmpty then s else if m.failed then s.failShard m else s.transferShard m

/-- Shards that hardware mode moves at the end of an epoch: those at or above the threshold, to a device
of the scope that a free value names (DESIGN CHOICE, log entry 40). -/
def State.pickShards (s : State) (scope : Nat) : State :=
  (s.shardWindow.map (·.1)).foldl (fun s sh =>
    let w := (Tab.get 0 s.shardWindow sh).toNat
    let others := s.scopeOthers scope
    let ents := s.shardBlocks scope sh
    let bad := ents.any fun e => match s.liveEntry e with
      | some (_, d, _) => s.poisoned d.addr (s.entryLen e d.width)
      | none => false
    if 2 ^ fld (s.dreg 0x1028) 0 6 ≤ fld w 0 32 + fld w 32 32 && s.homeOf scope sh == s.devId && !others.isEmpty && !bad
        && !s.shardMoves.any (fun m => m.who == whoShard scope sh) then
      let f := s.free
      { f.2 with shardMoves := f.2.shardMoves ++
        [{ shard := sh, scope := scope, newHome := others.getD (f.1.toNat % others.length) 0, src := none, started := false,
           copies := [], acks := [], transferred := false, failed := false, prog := {} }] }
    else s) s

/-- Halves both counts of a shard. -/
def halveCounts (w : Word) : Word := BitVec.ofNat 64 (fld w.toNat 0 32 / 2 + 2 ^ 32 * (fld w.toNat 32 32 / 2))

/-- EPOCH_END (R310): the window takes the counts, they are halved, and in hardware mode shard moves are chosen. -/
def epochEnd (s : State) : State :=
  if !s.running || !s.tiersRun || !decide (s.epochStart + s.epochTicks ≤ s.ticks) || !s.allVisited then s
  else
    let s := { s with shardWindow := s.shardCounts,
                      shardCounts := s.shardCounts.foldl (fun (t : Tab Word) (x : Nat × Word) => Tab.put 0 t x.1 (halveCounts x.2)) [],
                      visited := [], flashMoved := [], epochStart := s.ticks }
    (if s.assisted 4 then s else (s.pickShards 1).pickShards 2).runShards

/-! ### MIGRATE (R313) -/

/-- A `MIGRATE` of a block or segment, its entry found. -/
def State.migrateBlock (s : State) (r pos : Nat) (e : EntryRef) (tier w unit : Nat) : State :=
  let fin (s : State) (st : Nat) : State := s.completeWith r pos st
  match s.liveEntry e, tierUnit tier unit with
  | some (dir, d, _), some u =>
    let s := s.seeDir false dir e.index
    let tbl := if e.kind.val = 0 then s.tableOf e.id.toNat else none
    if w = 3 ∨ (tier = 0 ∧ w ≠ 0) ∨ (e.kind.val ≠ 0 ∧ w ≠ 0) ∨ (12 ≤ u ∧ s.extent u = 0) then fin s stBadDescriptor
    else if (match tbl with
      | some t => decide (t.narrowest < w) || (w == 2 && d.tier != 3 && !s.canInt4 t d)
      | none => false) then fin s stBadDescriptor
    else if tier = 3 ∧ s.poisoned d.addr (s.entryLen e d.width) then fin s stBadDescriptor
    else if d.moving || s.entryHeld e then s
    else
      match (s.begin r pos).startMove e (some (r, pos)) tier u w with
      | some s => s
      | none => fin s stTierFull
  | _, _ => fin s stBadDescriptor

def migrate (r : RingIx) (pos : Nat) (s : State) : State :=
  match s.descOf r.val pos 0x1C with
  | none => s
  | some x =>
    let w := fieldAt x.entry 8 8
    let id := fieldAt x.entry 16 2
    let index := bfld x.entry 24 8 0 48
    let kind := fld w 0 3
    let fin (s : State) (st : Nat) : State := s.completeWith r.val pos st
    if unnamed x.entry [(64, 25), (128, 16), (192, 48)] ∨ 4 < kind then fin s stBadDescriptor
    else if kind = 4 then
      let sc := fld w 23 2
      let dev := fld w 11 12
      if sc = 0 ∨ sc = 3 ∨ 4096 ≤ index then fin s stBadDescriptor
      else if s.shardMoves.any fun m => m.who == whoShard sc index then s
      else if s.homeOf sc index ≠ s.devId || !(s.scopeOthers sc).contains dev then fin s stBadDescriptor
      else
        let s : State := s.begin r.val pos
        State.runShards { s with shardMoves := s.shardMoves ++
          [{ shard := index, scope := sc, newHome := dev, src := some (r.val, pos), started := false, copies := [], acks := [],
             transferred := false, failed := false, prog := {} }] }
    else
      let st := if kind = 0 then s.descTable r.val id else s.descGraph r.val id
      let v := if kind = 0 then ((s.tableOf id).map (·.active)).getD false else false
      if st ≠ 0 then fin s st
      else s.migrateBlock r.val pos ⟨⟨kind % 4, Nat.mod_lt _ (by decide)⟩, BitVec.ofNat 16 id, v, index⟩ (fld w 3 2) (fld w 5 2) (fld w 7 4)

def execEpochVisit (e : EntryRef) (s : State) : Out := .next (epochVisit e s)
def execEpochEnd (s : State) : Out := .next (epochEnd s)
def execChunkRelease (e : EntryRef) (s : State) : Out := .next (chunkRelease e s)
def execMigrate (r : RingIx) (pos : Nat) (s : State) : Out := .next (migrate r pos s)
def execPoolGrant (r : RingIx) (pos : Nat) (s : State) : Out := .next (poolDesc true r pos s)
def execPoolReclaim (r : RingIx) (pos : Nat) (s : State) : Out := .next (poolDesc false r pos s)

end Sys2Proof.Machine
end

