-- ==== Sys2Proof/Machine/Sweeps.lean ====
section
/-! DEFINITION. Whole-graph sweeps (R135-R139, R142): iterations, end markers and their completion. -/

namespace Sys2Proof.Machine

/-- A free value (DESIGN CHOICE, log entry 2) drawn by work in progress. -/
def JM.free : JM Word := do
  let j ← get
  let r := j.s.free
  set { j with s := r.2 }
  pure r.1

/-- Plane read by the iteration under way. -/
def Sweep.readPlane (w : Sweep) : Nat := (w.startPlane + w.iter) % 2

/-- The value of x at a neighbour: none for an absent term. -/
def JM.neighbour (g : Graph) (p u : Nat) : JM (Option Word) :=
  if g.vertices ≤ u ∨ u = g.missing then pure none else JM.planeVal g u p

/-- The label with the most positions, the smallest on a tie (R136). -/
def topLabel (keep : Nat) (l : List Nat) : Nat :=
  (l.eraseDups.foldl (fun (b : Nat × Nat) x =>
    let n := l.count x
    if b.1 < n ∨ (b.1 = n ∧ x < b.2) then (n, x) else b) (0, keep)).2

/-- The canonical sum of a list that is cut into slices of T, each of which adds its terms to the record (R130, R132). -/
def sliceSum (T : Nat) (c : SumCfg) (terms : List (Option FV)) : Ar FV := do
  let st ← (cutEvery T terms).foldlM (fun (st : Stack) l => Stack.addTerms c [(0, 0)] st (l.map fun x => x.map fun y => [toBits64 y])) ⟨0, []⟩
  let r ← st.finish c [(0, 0)]
  pure ((handOff 1 r).headD (FV.zero false))

/-- y of one vertex with record r and present value x (R136), with the invalid-operation events of its sum and the
occurrences of out-of-range neighbours. The slices of a sweep all run on its own device (DESIGN CHOICE, log entry 67). -/
def JM.sweepValue (g : Graph) (w : Sweep) (r : VRec) (x : Nat) : JM (Nat × Nat × Nat) := do
  let s ← JM.st
  let es ← JM.entries g s.devId (rangeFrom r.off r.degree) false
  let ns ← JM.all es fun e => JM.neighbour g w.readPlane (g.entId e)
  let out := (es.zip ns).countP fun x => g.entId x.1 != g.missing && x.2.isNone
  let f (n : Nat) := fp32.dec n
  if w.kind = 0 then
    let form : Ar FV := do
      let terms ← (es.zip ns).mapM fun (e, n) => do
        match n with
        | some v => do
          let t ← mul32 (fp16.dec (g.entWeight e)) (f (v.toNat % 2 ^ 32))
          pure (some t)
        | none => pure none
      let sum ← sliceSum (2 ^ fld (s.preg g.port 0x2020) 0 5) ⟨w.s, false, 0, 0⟩ terms
      add32 (f w.a) (← mul32 (f w.b) sum)
    let y := form.run 0
    pure (fp32.enc y.1, y.2, out)
  else
    -- a neighbour outside the graph has no x: its value is free
    let vals ← (es.zip ns).filterMapM fun (e, n) => do
      if g.entId e = g.missing then pure none
      else
        match n with
        | some v => pure (some v.toNat)
        | none => do
          let v ← JM.free
          pure (some v.toNat)
    pure (if w.kind = 1 then topLabel x vals else satNat 64 vals.sum, 0, out)

/-- Vertex blocks of this device: the present ones homed here. -/
def State.ownBlocks (s : State) (g : Graph) : List Nat :=
  (List.range (ceilDiv g.vertices 16)).filter fun b => s.vHome g (16 * b) == s.devId && (s.vBlock g (16 * b)).isSome

def Graph.blockVertices (g : Graph) (b : Nat) : List Nat := (rangeFrom (16 * b) 16).filter (· < g.vertices)

/-- What an iteration found at one vertex: x, y, its delta, whether poison taints y, its invalid events, a bad record, and the
out-of-range neighbours. -/
structure SweepY where
  y : Nat
  x : Nat
  delta : FV
  tainted : Bool
  inv : Nat
  bad : Bool
  out : Nat
deriving DecidableEq, Repr

/-- |y − x| in FP32 (R136), with the events of the subtraction (R32). -/
def sweepDelta (kind y x : Nat) : FV × Nat :=
  if kind = 0 then
    let r := (sub32 (fp32.dec (y % 2 ^ 32)) (fp32.dec (x % 2 ^ 32))).run 0
    (r.1.abs, r.2)
  else (.zero false, 0)

/-- One vertex of an iteration. -/
def JM.sweepVertex (g : Graph) (w : Sweep) (v : Nat) : JM SweepY := do
  modify fun j => { j with tainted := false }
  let s ← JM.st
  match s.vBlock g v with
  | none => pure ⟨0, 0, .zero false, false, 0, false, 0⟩
  | some e => do
    let x := (← JM.planeVal g v w.readPlane).getD 0
    let r ← JM.mem (e.addr + 16 * (v % 16)) 16
    JM.taint r.2
    let ok := s.recOk g v s.devId r.1
    let y ← if ok then JM.sweepValue g w (VRec.parse r.1) x.toNat else pure (x.toNat, 0, 0)
    let d := sweepDelta w.kind y.1 x.toNat
    pure ⟨y.1, x.toNat, d.1, (← get).tainted, y.2.1 + d.2, !ok, y.2.2⟩

/-- The counts that an iteration leaves: bad records and out-of-range neighbours at the ring of its descriptor (R110), and the invalid-operation events
of each sum at a background item of the sweep, those of vertex v at item v modulo their number (R32; DESIGN CHOICE, log
entry 68). -/
def State.sweepCounts (s : State) (w : Sweep) (ys : List (Nat × SweepY)) : State :=
  match s.instOf w.inst with
  | none => s
  | some i =>
    let s := s.countRing i.ring ⟨i.num, 0⟩ (ys.map fun y => y.2.out).sum 0 (ys.countP fun y => y.2.bad)
    s.modInst i.num fun i => { i with items := i.items.zipIdx.map fun (it, k) =>
      let n := ((ys.filter fun y => y.1 % i.items.length == k).map fun y => y.2.inv).sum
      if n = 0 then it else { it with evs := satNat 32 (it.evs.getD 0 0 + n) :: it.evs.drop 1 } }

/-- The larger delta, NaN ranking highest (R137). -/
def maxDelta (a b : FV) : FV := if a.isNan || b.isNan then .nan else if FV.lt a b then b else a

/-- The iteration under way, over the vertices that are here when it begins (R143): every y of this device is written, and its delta or change count formed. -/
def JM.iteration (g : Graph) (w : Sweep) : JM Word := do
  let s ← JM.st
  let blocks := match ← JM.part .homes with
    | some p => (List.range (p.bytes.length / 8)).map fun i => fieldAt p.bytes (8 * i) 8
    | none => s.ownBlocks g
  JM.put ⟨.homes, blocks.flatMap (natLe 8), false, 0⟩
  let vs := blocks.flatMap g.blockVertices
  let ys ← JM.all vs fun v => JM.sweepVertex g w v
  (vs.zip ys).forM fun (v, y) => JM.upd fun s =>
    match s.vBlock g v with
    | some e =>
      let a := e.addr + 256 + 128 * (1 - w.readPlane) + 8 * (v % 16)
      let s := s.sifterWrite (whoSweep g.id) a (natLe 8 y.y)
      if y.tainted then s.poisonAt a else s
    | none => s
  JM.upd fun s => s.sweepCounts w (vs.zip ys)
  pure (if w.kind = 0 then BitVec.ofNat 64 (fp32.enc ((ys.map (·.delta)).foldl maxDelta (.zero false)))
    else if w.kind = 1 then BitVec.ofNat 64 (ys.countP fun y => y.y != y.x) else 0)

/-- A sweep ends: its instance completes with the results of Table 13-8. -/
def State.finishSweep (s : State) (w : Sweep) (status iters plane : Nat) (delta : Word) : State :=
  let s := { s with sweeps := s.sweeps.erase w }
  match s.instOf w.inst with
  | none => s
  | some i =>
    { s with insts := s.insts.filter fun j => j.num != i.num }.complete i.ring i.pos
      { status := status, r0 := BitVec.ofNat 64 (iters + plane * 2 ^ 16), r1 := delta, r2 := BitVec.ofNat 64 i.num, counts := i.counted }

/-- The markers of the iteration that other devices have sent. -/
def State.marksOf (s : State) (w : Sweep) : List (Nat × Word) :=
  (s.sweepMarks.filter fun m => m.1 == w.graph && m.2.2.1 == w.iter).map fun m => (m.2.1, m.2.2.2)

/-- The iteration's markers are used up, one of each device. -/
def State.dropMarks (s : State) (w : Sweep) (devs : List Nat) : State :=
  { s with sweepMarks := devs.foldl (fun l d => l.eraseP fun m => m.1 == w.graph && m.2.1 == d && m.2.2.1 == w.iter) s.sweepMarks }

/-- The global largest delta or change count (R137). -/
def globalDelta (kind : Nat) (l : List Word) : Word :=
  if kind = 0 then BitVec.ofNat 64 (fp32.enc ((l.map fun x => fp32.dec (x.toNat % 2 ^ 32)).foldl maxDelta (.zero false)))
  else BitVec.ofNat 64 (l.map BitVec.toNat).sum

/-- A shard move of a graph's scope is under way: no iteration starts, and the marker of one that is computed waits (R143). -/
def State.graphMoving (s : State) (g : Graph) : Bool := s.shardMoves.any fun m => m.scope == g.scope && m.started && !m.transferred

/-- Cores on which a sweep of a port runs: those it claims for the background class, in clusters that are
not LOST (R136, R436). -/
def State.sweepCores (s : State) (p : Nat) : List Nat :=
  (List.range 128).filter fun c => s.corePort .background c == p && !(s.unitSt ⟨1, c / 16⟩).lost

/-- Goes on with the first sweep of a graph: an iteration, the shard moves that wait for its end (R143), its markers, the
decision to stop (R137). With no core left for its items it ends `ABORTED` (R436). The timeout of R138
starts when this device has written its own values of the iteration (DESIGN CHOICE, log entry 66). -/
def State.sweepStep (s : State) (g : Graph) (w : Sweep) : Option State :=
  let others := s.scopeOthers g.scope
  if (s.sweepCores g.port).isEmpty then some (s.finishSweep w stAborted w.iter w.readPlane w.delta)
  else if !w.computed && s.graphMoving g then none
  else if !w.computed then
    let s' := s.runJob (whoSweep g.id) g.port noItem (JM.iteration g w) (nuMk g 2 []) fun s d =>
      (s.modSweep g.id fun w => { w with computed := true, delta := d, prog := {}, since := s.ticks, limit := s.sweepLimit }).resumeAll.runShards
    match s'.sweepOf g.id with
    | some w' => if w'.computed then some s' else none
    | none => none
  else if !w.marked then
    if s.graphMoving g then none
    else some ((others.foldl (fun s dev => s.sendMg dev 6 (g.id + w.iter * 2 ^ 12) (natLe 8 w.delta.toNat)) s).modSweep g.id fun w => { w with marked := true })
  else
    let ms := s.marksOf w
    if others.all fun d => ms.any fun m => m.1 == d then
      let d := globalDelta w.kind (w.delta :: (ms.map (·.2)))
      let ends := decide (w.maxIter ≤ w.iter + 1) || (w.kind == 0 && !FV.lt (fp32.dec w.tol) (fp32.dec (d.toNat % 2 ^ 32)) && !(fp32.dec (d.toNat % 2 ^ 32)).isNan && !(fp32.dec w.tol).isNan)
        || (w.kind == 1 && d == 0)
      let s := s.dropMarks w others
      if ends then some (s.finishSweep w stOk (w.iter + 1) (1 - w.readPlane) d)
      else some (s.modSweep g.id fun w => { w with iter := w.iter + 1, computed := false, marked := false, delta := 0, prog := {} })
    else none

/-- The sweep that has stopped for something missing keeps the requests it has made. -/
def State.sweepAsks (s : State) (g : Graph) (w : Sweep) : State :=
  if w.computed || s.graphMoving g then s
  else s.runJob (whoSweep g.id) g.port noItem (JM.iteration g w) (nuMk g 2 []) fun s _ => s

def State.sweepLoop (s : State) (g : Nat) : Nat → State
  | 0 => s
  | n + 1 =>
    match s.graphOf g, s.sweepOf g with
    | some gr, some w =>
      match s.sweepStep gr w with
      | some s' => s'.sweepLoop g n
      | none => s.sweepAsks gr w
    | _, _ => s

/-- Goes on with the sweeps of a graph as far as they can go. -/
def State.runSweeps (s : State) (g : Nat) : State := s.sweepLoop g (s.sweeps.map fun w => 3 * w.maxIter + 2).sum

/-- SWEEP_END (R137): a marker arrives and is acknowledged. One that comes after its sweep has ended counts for the next
sweep of the graph that reaches its iteration (DESIGN CHOICE, log entry 66). -/
def sweepEnd (l : LinkIx) (s : State) : State :=
  match s.takeMsg l.val clMg 6 with
  | none => s
  | some (m, s) =>
    let i := m.head.info.toNat
    let s := { s with sweepMarks := s.sweepMarks ++ [(fld i 0 12, m.head.src, fld i 12 16, BitVec.ofNat 64 (fieldAt m.body 0 8))] }
    (s.ackMg m.head).runSweeps (fld i 0 12)

/-- SWEEP_TIMEOUT (R138): a marker is missing; the plane that was read is the latest complete one. -/
def sweepTimeout (g : Fin 4096) (s : State) : State :=
  match s.graphOf g.val, s.sweepOf g.val with
  | some gr, some w =>
    if w.computed && decide (w.since + w.limit ≤ s.ticks) && !((s.scopeOthers gr.scope).all fun d => (s.marksOf w).any fun m => m.1 == d) then
      (s.finishSweep w stRankMissing w.iter w.readPlane w.delta).runSweeps g.val
    else s
  | _, _ => s

def execSweepEnd (l : LinkIx) (s : State) : Out := .next (sweepEnd l s)
def execSweepTimeout (g : Fin 4096) (s : State) : Out := .next (sweepTimeout g s)

end Sys2Proof.Machine
end

