-- ==== Sys2Proof/Machine/Fabric.lean ====
section
/-! DEFINITION. Messages of other devices (R99, R102, R347, R357-R363), fences, transit, and everything that follows by itself once something has come. -/

namespace Sys2Proof.Machine

/-! ### Shard map changes (R102, R359) -/

/-- Tags of requests of this device to another that are not answered. -/
def State.openTags (s : State) (dev : Nat) : List Nat := (s.rqOut.filter fun x => x.1 == dev).map (·.2)

/-- NU requests of this device that have not ended. -/
def State.nuOpen (s : State) : List (Nat × Nat) :=
  s.queue.filter fun w => w.1 < 128 && (match s.reqOf w.1 w.2 with
    | some q => q.kind == .nu && fieldAt q.block 0 1 % 16 != opVertexWrite
    | none => false)

/-- Acknowledges the map changes whose old requests have been answered: those sent, and the NU requests that may still
read a list of the old home (R359). -/
def State.settleMaps (s : State) : State :=
  s.mapWaits.foldl (fun s w =>
    if w.tags.any (s.openTags w.dev).contains || w.whos.any s.queue.contains then s
    else ({ s with mapWaits := s.mapWaits.erase w }).sendMg w.dev 5 w.info []) s

/-! ### Fences (R347) -/

/-- Answers the fences that have arrived in all five classes and whose earlier requests are answered. -/
def State.settleFences (s : State) : State :=
  s.fencesIn.foldl (fun s f =>
    if f.classes.length = 5 ∧ !f.tags.any (fun t => s.remotes.any fun r => r.dev == f.dev && r.tag == t) then
      ({ s with fencesIn := s.fencesIn.erase f }).sendMsg f.dev clRs 14 f.id []
    else s) s

/-- Everything that can go on once a value, an answer or a page switch has come. -/
def State.progress (s : State) : State :=
  let s := ((s.resumeAll.runShards).settleMoves.settleReqs).settleRemotes
  let s := (s.sweeps.map (·.graph)).eraseDups.foldl State.runSweeps s
  (s.settleMaps).settleFences

/-- A FENCE arrives: the oldest message of the first class in which it is a FENCE. -/
def fence (l : LinkIx) (s : State) : State :=
  if !s.running then s
  else
    match [clMg, clRq, clRs, clRd, clBc].findSome? (fun c => (s.takeMsg l.val c 15).map fun x => (c, x)) with
    | none => s
    | some (c, m, s) =>
      let d := m.head.src
      let id := fld m.head.info.toNat 0 32
      let old : FenceIn := (s.fencesIn.find? fun f => f.dev == d && f.id == id).getD ⟨d, id, [], []⟩
      let tags := if c = clRq then (s.remotes.filter fun r => r.dev == d).map (·.tag) else old.tags
      let rest := s.fencesIn.filter fun f => !(f.dev == d && f.id == id)
      ({ s with fencesIn := rest ++ [{ old with classes := old.classes ++ [c], tags := tags }] }).settleFences

/-- FENCE_ACK: a destination has let everything earlier take effect. -/
def fenceAck (l : LinkIx) (s : State) : State :=
  if !s.running then s
  else
    match s.takeMsg l.val clRs 14 with
    | none => s
    | some (m, s) =>
      let id := fld m.head.info.toNat 0 32
      match s.fences.find? (fun f => f.id == id) with
      | none => s
      | some f =>
        let w := f.waiting.filter (· != m.head.src)
        if w.isEmpty then { s with fences := s.fences.filter fun x => x.id != id }.completeWith f.ring f.pos stOk
        else { s with fences := updWhere (fun x => x.id == id) (fun x => { x with waiting := w }) s.fences }

/-- FABRIC_TIMEOUT: an answer has not come within the channel timeout. -/
def fabricTimeout (r : RingIx) (pos : Nat) (s : State) : State :=
  match s.fences.find? (fun f => f.ring == r.val && f.pos == pos) with
  | some f =>
    if s.running && decide (f.since + f.limit ≤ s.ticks) then
      { s with fences := s.fences.filter fun x => x != f }.completeWith r.val pos stFabricTimeout
    else s
  | none => s

/-- FABRIC_FENCE (R347): a FENCE in each of the five classes to each device named, and so to one that no route reaches
and whose answer cannot come. -/
def fabricFence (r : RingIx) (pos : Nat) (s : State) : State :=
  match s.descOf r.val pos 0x2A with
  | none => s
  | some e =>
    let w := fieldAt e.entry 8 4
    let target := fld w 0 2
    let dev := fld w 16 12
    if unnamed e.entry [(64, 2), (80, 12)] ∨ target = 3 then
      s.completeWith r.val pos stBadDescriptor
    else
      let ds := if target = 0 then [dev] else s.others (target == 2)
      if ds.isEmpty then s.completeWith r.val pos stOk
      else
        let id := s.nextFence
        let s := s.begin r.val pos
        let s := { s with nextFence := (id + 1) % 2 ^ 32,
                          fences := s.fences ++ [⟨r.val, pos, id, ds, s.ticks, s.channelLimit⟩] }
        ds.foldl (fun s d => [clMg, clRq, clRs, clRd, clBc].foldl (fun s c => s.sendMsg d c 15 id []) s) s

/-! ### Requests of other devices -/

/-- Takes up a request of another device. -/
def State.newRemote (s : State) (h : Packet) (kind : Nat) (fwd : Bool) (body : Bytes) : State :=
  let i := h.info.toNat
  let r : Remote := { dev := h.src, tag := fld i 0 32, port := fld i 32 1, kind := kind, fwd := fwd, body := body,
                      served := false, status := 0, count := 0, results := [], prog := {} }
  { s with remotes := s.remotes ++ [r], queue := s.queue ++ [whoRemote r.dev r.tag] }

def siftReq (l : LinkIx) (s : State) : State :=
  if !s.running then s
  else
    match s.takeMsg l.val clRq 1 with
    | some (m, s) => ((s.newRemote m.head 1 false m.body).resumeOne (whoRemote m.head.src (fld m.head.info.toNat 0 32))).progress
    | none => s

def nuReq (l : LinkIx) (s : State) : State :=
  if !s.running then s
  else
    match s.takeMsg l.val clRq 2 with
    | some (m, s) => ((s.newRemote m.head 2 false m.body).resumeOne (whoRemote m.head.src (fld m.head.info.toNat 0 32))).progress
    | none => s

/-- FORWARD (R102, R103): an operation that an old home passes on; it is served here. -/
def forward (l : LinkIx) (s : State) : State :=
  if !s.running then s
  else
    match s.takeMsg l.val clRq 5 with
    | none => s
    | some (m, s) =>
      let k := fld (fieldAt m.body 0 8) 0 4
      let i := m.head.info.toNat
      if fieldAt m.body 0 8 ≠ k ∨ k = 0 ∨ 2 < k ∨ m.body.length < 8 then
        s.sendAnswer m.head.src (fld i 0 32) (fld i 32 1) [] rsBadDescriptor 0
      else ((s.newRemote m.head k true (m.body.drop 8)).resumeOne (whoRemote m.head.src (fld i 0 32))).progress

/-! ### Answers -/

/-- RESULT: bytes for a request, in the space reserved for them (R358). -/
def result (l : LinkIx) (s : State) : State :=
  if !s.running then s
  else
    match s.takeMsg l.val clRs 1 with
    | none => s
    | some (m, s) =>
      let d := m.head.src
      let tag := fld m.head.info.toNat 0 32
      let old := ((s.responses.find? fun x => x.1 == d && x.2.1 == tag).map (·.2.2)).getD []
      { s with responses := (s.responses.filter fun x => !(x.1 == d && x.2.1 == tag)) ++ [(d, tag, old ++ m.body)] }

/-- The work that has asked a device under a tag. -/
def State.askOwner (s : State) (dev tag : Nat) : Option (Nat × Nat) :=
  let has (p : Prog) : Bool := p.asks.any fun a => a.dev == dev && a.tag == tag
  let c := s.cores.findSome? fun c => (c.2.lsu.find? fun q => has q.prog).map fun q => (c.1, q.id)
  let r := (s.remotes.find? fun r => has r.prog).map fun r => whoRemote r.dev r.tag
  let w := (s.sweeps.find? fun w => has w.prog).map fun w => whoSweep w.graph
  c.orElse fun _ => r.orElse fun _ => w

/-- The values that an answer brings, each with where it came from; bytes that poison kept from coming are bad. -/
def partsOf (a : Ask) (b : Bytes) (count : Nat) : List Part :=
  if a.size = 0 then (a.keys.take 1).map fun k => ⟨k, b, false, count⟩
  else a.keys.zipIdx.map fun (k, i) => ⟨k, padTo a.size (slice b (i * a.size) a.size), decide (b.length < (i + 1) * a.size), toldBy a.dev count⟩

/-- STATUS: the last packet of an answer; its work goes on. -/
def status (l : LinkIx) (s : State) : State :=
  if !s.running then s
  else
    match s.takeMsg l.val clRs 2 with
    | none => s
    | some (m, s) =>
      let d := m.head.src
      let tag := fld m.head.info.toNat 0 32
      let w := fieldAt m.body 0 8
      let st := fld w 0 8
      let b := ((s.responses.find? fun x => x.1 == d && x.2.1 == tag).map (·.2.2)).getD []
      let s := { s with responses := s.responses.filter (fun x => !(x.1 == d && x.2.1 == tag)), rqOut := s.rqOut.erase (d, tag) }
      let s := match s.askOwner d tag with
        | some who => s.modProg who fun (p : Prog) =>
            let mine := p.asks.filter fun (a : Ask) => a.dev == d && a.tag == tag
            { p with asks := p.asks.filter (fun (a : Ask) => !(a.dev == d && a.tag == tag)),
                     parts := if st = 0 then p.parts ++ mine.flatMap (fun (a : Ask) => partsOf a b (fld w 16 48)) else p.parts,
                     err := if p.err = 0 then st else p.err }
        | none => s.copyAnswered d tag st
      s.progress

/-! ### Versioned table switches (R97-R99) -/

/-- A `TABLE_RETIRE` of a table is outstanding. -/
def State.retiring (s : State) (id : Nat) : Bool :=
  s.rings.any fun r => r.2.live.any fun e => e.begun && fieldAt e.entry 0 1 == 0x1A && fieldAt e.entry 8 2 == id

/-- R99: this device finds the new version of a table valid, for a switch of port p. -/
def State.switchOk (s : State) (id scope p : Nat) : Bool :=
  match s.tableOf id with
  | some t => t.port == p && t.versioned && t.scope == scope && !s.retiring id
  | none => false

def State.flip (s : State) (id : Nat) (v : Bool) : State :=
  match s.tableOf id with
  | some t => s.setTable id (some { t with active := v })
  | none => s

/-- The info word of a switch message. The sequence number, which the coordinator chooses, holds the switch's port, for
which the message has no field, and the descriptor's position (DESIGN CHOICE, log entry 43). -/
def Switch.info (w : Switch) (p : Nat) : Nat := w.table + (if w.version then 2 ^ 16 else 0) + (2 * w.pos + p) % 2 ^ 31 * 2 ^ 17

/-- Starts the oldest switch of a table: the test of its own device, and `PREPARE` to the rest of the pod. -/
def State.startSwitch (s : State) (id : Nat) : State :=
  match s.switches.find? (fun w => w.table == id), s.tableOf id with
  | some w, some t =>
    let rest := s.switches.filter fun x => x != w
    if !s.switchOk id t.scope (s.ringPort w.ring) then { s with switches := rest }.completeWith w.ring w.pos stBadDescriptor
    else
      let w := { w with version := !t.active }
      let others := s.scopeOthers t.scope
      if others.isEmpty then ({ s with switches := rest }.flip id w.version).completeWith w.ring w.pos stOk
      else
        let s := { s with switches := { w with waiting := others } :: rest }
        others.foldl (fun s d => s.sendMg d 1 (w.info (s.ringPort w.ring)) []) s
  | some w, none => { s with switches := s.switches.filter fun x => x != w }.completeWith w.ring w.pos stTableInvalid
  | none, _ => s

/-- Starts switches of a table one after another until one waits for other devices. -/
def State.startSwitches (s : State) (id : Nat) : Nat → State
  | 0 => s
  | n + 1 =>
    match s.switches.find? (fun w => w.table == id) with
    | some w => if w.waiting.isEmpty then (s.startSwitch id).startSwitches id n else s
    | none => s

/-- PREPARE: answered by the test of R99. -/
def prepare (l : LinkIx) (s : State) : State :=
  if !s.running then s
  else
    match s.takeMsg l.val clMg 1 with
    | none => s
    | some (m, s) =>
      let i := fld m.head.info.toNat 0 48
      let ok := s.switchOk (fld i 0 16) 1 (fld i 17 1)
      (s.ackMg m.head).sendMg m.head.src 2 i (natLe 8 (if ok then 1 else 0))

/-- ANSWER: after all of them the coordinator flips and commits, or refuses the switch. -/
def answer (l : LinkIx) (s : State) : State :=
  if !s.running then s
  else
    match s.takeMsg l.val clMg 2 with
    | none => s
    | some (m, s) =>
      let s := s.ackMg m.head
      let i := fld m.head.info.toNat 0 48
      match s.switches.find? (fun w => w.info (s.ringPort w.ring) == i && w.waiting.contains m.head.src) with
      | none => s
      | some w =>
        let w' := { w with waiting := w.waiting.filter (· != m.head.src), refused := w.refused || !bitAt (fieldAt m.body 0 8) 0 }
        if !w'.waiting.isEmpty then { s with switches := updWhere (· == w) (fun _ => w') s.switches }
        else
          let s := { s with switches := s.switches.filter fun x => x != w }
          let s := if w'.refused then s.completeWith w.ring w.pos stBadDescriptor
            else
              let s := s.flip w.table w.version
              let s := (s.scopeOthers 1).foldl (fun s d => s.sendMg d 3 (w.info (s.ringPort w.ring)) []) s
              s.completeWith w.ring w.pos stOk
          s.startSwitches w.table (s.switches.length + 1)

/-- COMMIT: the device flips on receipt. -/
def commit (l : LinkIx) (s : State) : State :=
  if !s.running then s
  else
    match s.takeMsg l.val clMg 3 with
    | none => s
    | some (m, s) =>
      let i := m.head.info.toNat
      (s.ackMg m.head).flip (fld i 0 16) (bitAt i 16)

/-! ### Shard moves at the other end -/

/-- MAP_CHANGE: the entry changes at once; the acknowledgement waits for requests issued under the old one (R359). -/
def mapChange (l : LinkIx) (s : State) : State :=
  if !s.running then s
  else
    match s.takeMsg l.val clMg 4 with
    | none => s
    | some (m, s) =>
      let i := fld m.head.info.toNat 0 26
      let base := if fld i 12 2 = 1 then 0x34000 else 0x36000
      let s := (s.ackMg m.head).setEntry16 base (fld i 0 12) (fld (fieldAt m.body 0 8) 0 16)
      let s := { s with staged := s.staged.filter (fun x => x.dev != m.head.src),
                        mapWaits := s.mapWaits ++ [(⟨m.head.src, i, s.openTags m.head.src, s.nuOpen⟩ : MapWait)] }
      s.progress

/-- MAP_ACK: after all of them the old home frees the storage. -/
def mapAck (l : LinkIx) (s : State) : State :=
  if !s.running then s
  else
    match s.takeMsg l.val clMg 5 with
    | none => s
    | some (m, s) =>
      let s := s.ackMg m.head
      let i := m.head.info.toNat
      match s.shardMoves.find? (fun x => x.shard == fld i 0 12 && x.scope == fld i 12 2 && x.transferred) with
      | none => s
      | some x =>
        let x' := { x with acks := x.acks.filter (· != m.head.src) }
        ((s.modShard x.who fun _ => x').endShard x').progress

/-- The first free range of n entries in the device area of a graph (R143). -/
def State.areaFor (s : State) (g : Graph) (n : Nat) : Option Nat :=
  let used := (s.areas.filter fun x => x.1 == g.id).map (·.2)
  (g.nsplit :: used.map (fun x => x.1 + x.2)).find? fun a =>
    decide (a + n ≤ g.nsize) && !used.any fun x => meets x a n

/-- Writes neighbour entries or prefix values into segments of this device; none where one is absent. -/
def State.putList (s : State) (who : Nat × Nat) (owner dir size first : Nat) (b : Bytes) : Option State :=
  (List.range (b.length / size)).foldl (fun (s : Option State) i => s.bind fun s =>
    (s.segAddr owner dir size (first + i)).map fun a => s.sifterWrite who a (slice b (i * size) size)) (some s)

/-- Bytes of n entries of a list from the segments that a shard move has brought. -/
def State.stagedList (s : State) (dev kind graph size first n : Nat) : Option Bytes :=
  ((List.range n).mapM fun i =>
    let a := (first + i) * size
    (s.staged.find? fun x => x.dev == dev && x.kind == kind && x.graph == graph && x.index == a / 4096).map fun x =>
      slice x.data (a % 4096) size).map List.flatten

/-- A record's first word with another `nbr_off`. -/
def moveOff (b : Bytes) (i a : Nat) : Bytes :=
  b.take (16 * i) ++ natLe 8 (fieldAt b (16 * i) 8 / 2 ^ 48 * 2 ^ 48 + a) ++ b.drop (16 * i + 8)

/-- Copies the lists of a vertex block to the device area and rewrites `nbr_off` (R143). The old home sends the lists of the
records that pass R110: one whose list has not come keeps failing it here, and one of degree 0 has no list to copy
(DESIGN CHOICE, log entry 22). -/
def State.adoptLists (s : State) (who : Nat × Nat) (dev : Nat) (g : Graph) : List Nat → Bytes → Option (Bytes × State)
  | [], b => some (b, s)
  | i :: r, b =>
    let off := bfld b (16 * i) 8 0 48
    let deg := fieldAt b (16 * i + 8) 4
    let flags := fieldAt b (16 * i + 8) 8
    if !bitAt flags 32 then s.adoptLists who dev g r b
    else if deg = 0 then s.adoptLists who dev g r (if off ≤ g.nsize then b else moveOff b i (min g.nsplit g.nsize))
    else
      match s.stagedList dev 2 g.id g.entSize off deg, (if bitAt flags 33 then s.stagedList dev 3 g.id 4 off deg else some []) with
      | some l, some p => do
        let a ← s.areaFor g deg
        let s ← s.putList who g.port g.ndir g.entSize a l
        let s ← s.putList who g.port g.pdir 4 a p
        { s with areas := s.areas ++ [(g.id, a, deg)] }.adoptLists who dev g r (moveOff b i a)
      | _, _ => s.adoptLists who dev g r (if g.nsize < off + deg then b else moveOff b i (2 ^ 48 - 1))

/-- Units from the one of most free Crumbs down, the lowest first on a tie. -/
def State.byFree (s : State) (p first n : Nat) : List Nat := sortBy (fun u => 2 ^ 64 - s.freeCrumbs p u) (rangeFrom first n)

/-- The chunk a copied block takes: in its own tier where the pool has one there, else in tier 1 (R309). -/
def State.copyChunk (s : State) (p tier c : Nat) : Option (Nat × Nat × Nat × State) :=
  let tryTier (k : Nat) : Option (Nat × Nat × Nat × State) :=
    (if k = 0 then s.byFree p 0 8 else s.byFree p (6 + 2 * k) 2).findSome? fun u =>
      (s.allocChunk p u c).map fun x => (k, u, x.1, x.2)
  (tryTier tier).orElse fun _ => tryTier 1

/-- A block of this entry may be stored at a width: rows no narrower than their table's `narrowest` (R72), the rest at 0. -/
def State.widthOk (s : State) (e : EntryRef) (w : Nat) : Bool :=
  if e.kind.val = 0 then (match s.tableOf e.id.toNat with
    | some t => decide (w ≤ t.narrowest)
    | none => false)
  else w == 0

/-- Stores a copied block: 0, or the status that refuses it. -/
def State.storeCopy (s : State) (who : Nat × Nat) (dev : Nat) (e : EntryRef) (tier w : Nat) (b : Bytes) : Nat × State :=
  match s.entryDir e with
  | none => (if e.kind.val = 0 then rsTableInvalid else rsGraphInvalid, s)
  | some (dir, n, p) =>
    if n ≤ e.index ∨ b.length ≠ s.entryLen e w ∨ w = 3 ∨ !s.widthOk e w then (rsBadDescriptor, s)
    else
      let lists : Option (Bytes × State) := match e.kind.val, s.graphOf e.id.toNat with
        | 1, some g => s.adoptLists who dev g (List.range 16) b
        | _, _ => some (b, s)
      match lists, s.entryChunk e w with
      | some (b, s'), some c =>
        match s'.copyChunk p tier c with
        | none => (rsNuOverflow, s)
        | some (k, u, off, s') =>
          let old := s'.dirEnt dir e.index
          let s' := match old.unit, s'.entryChunk e old.width with
            | some ou, some oc => if old.present then s'.freeChunk p ou old.off oc else s'
            | _, _ => s'
          let s' := s'.sifterWrite who (unitBase u + off) b
          (rsOk, s'.putDir dir e.index ⟨(⟨0, 0, 0⟩ : DirEnt).placed k w (unitFieldOf u) off, 0, 0⟩)
      | _, _ => (rsNuOverflow, s)

/-- A sweep of a graph is where a device's blocks of it may come: the iteration here is computed, and the sender, whose next marker
waits for its move, has sent none for it; so both are in one iteration, and each vertex is computed once in it (R143). -/
def State.sweepTakes (s : State) (g dev : Nat) : Bool := match s.sweepOf g with
  | some w => w.computed && !(s.marksOf w).any fun m => m.1 == dev
  | none => true

/-- BLOCK_COPY at the new home (R102, R143, R309). A vertex block waits until the iteration under way is computed. A device in hardware mode accepts shards only while its
load of the last epoch is below the threshold (Table 16-13). -/
def blockCopy (l : LinkIx) (s : State) : State :=
  if !s.running then s
  else
    match s.takeMsg l.val clRq 6 with
    | none => s
    | some (m, t) =>
      if bfld m.body 0 8 0 3 ≠ 0 ∧ !s.sweepTakes (bfld m.body 8 8 0 12) m.head.src then s
      else
      let s := t
      let w := fieldAt m.body 0 8
      let x := fieldAt m.body 8 8
      let kind := fld w 0 3
      let index := bfld m.body 16 8 0 48
      let n := fieldAt m.body 24 4
      let b := slice m.body 32 n
      let i := m.head.info.toNat
      let who := whoRemote m.head.src (fld i 0 32)
      let load := (s.shardWindow.map fun v => fld v.2.toNat 0 32 + fld v.2.toNat 32 32).sum
      let s := s.newRemote m.head 6 false []
      let r : Nat × State :=
        if 3 < kind ∨ fld w 7 57 ≠ 0 ∨ fld x 17 47 ≠ 0 ∨ bfld m.body 16 8 48 16 ≠ 0 ∨ bfld m.body 24 8 32 32 ≠ 0 ∨ m.body.length ≠ 32 + roundUp n 8
            ∨ !zeroRange m.body (32 + n) (roundUp n 8 - n) then (rsBadDescriptor, s)
        else if !s.assisted 4 ∧ 2 ^ fld (s.dreg 0x1028) 8 6 ≤ load then (rsNuOverflow, s)
        else if 2 ≤ kind then
          let old := s.staged.filter fun y => !(y.dev == m.head.src && y.kind == kind && y.graph == fld x 0 16 && y.index == index)
          (rsOk, { s with staged := old ++ [⟨m.head.src, kind, fld x 0 16, index, b⟩] })
        else s.storeCopy who m.head.src ⟨⟨kind % 4, Nat.mod_lt _ (by decide)⟩, BitVec.ofNat 16 (fld x 0 16), bitAt x 16, index⟩ (fld w 3 2) (fld w 5 2) b
      (r.2.endRemote m.head.src (fld i 0 32) r.1 0 []).progress

/-- MG_ACK (R358). -/
def mgAck (l : LinkIx) (s : State) : State :=
  if !s.running then s
  else
    match s.takeMsg l.val clMg 7 with
    | some (m, s) => s.mgAcked m.head.src (fld m.head.info.toNat 0 16)
    | none => s

/-! ### Transit (R342) -/

/-- PACKET_TRANSIT: the oldest packet held for another device goes on. -/
def packetTransit (l : LinkIx) (s : State) : State :=
  if !s.running then s
  else
    match (s.link l.val).rxq.find? (fun p => p.cls != clLk && p.dst != s.devId) with
    | none => s
    | some p =>
      let s := s.modLink l.val fun k => { k with rxq := k.rxq.erase p, owed := k.owed.modify p.cls (· + p.units) }
      if p.hops = 2 then s.discard l.val dcHops
      else
        match s.routeOf p.dst with
        | some o => s.modLink o fun k => { k with txq := k.txq ++ [{ p with hops := p.hops + 1 }] }
        | none => s.discard l.val dcRoute

def execFence (l : LinkIx) (s : State) : Out := .next (fence l s)
def execFenceAck (l : LinkIx) (s : State) : Out := .next (fenceAck l s)
def execFabricTimeout (r : RingIx) (pos : Nat) (s : State) : Out := .next (fabricTimeout r pos s)
def execFabricFence (r : RingIx) (pos : Nat) (s : State) : Out := .next (fabricFence r pos s)
def execSiftReq (l : LinkIx) (s : State) : Out := .next (siftReq l s)
def execNuReq (l : LinkIx) (s : State) : Out := .next (nuReq l s)
def execForward (l : LinkIx) (s : State) : Out := .next (forward l s)
def execResult (l : LinkIx) (s : State) : Out := .next (result l s)
def execStatus (l : LinkIx) (s : State) : Out := .next (status l s)
def execPrepare (l : LinkIx) (s : State) : Out := .next (prepare l s)
def execAnswer (l : LinkIx) (s : State) : Out := .next (answer l s)
def execCommit (l : LinkIx) (s : State) : Out := .next (commit l s)
def execMapChange (l : LinkIx) (s : State) : Out := .next (mapChange l s)
def execMapAck (l : LinkIx) (s : State) : Out := .next (mapAck l s)
def execBlockCopy (l : LinkIx) (s : State) : Out := .next (blockCopy l s)
def execMgAck (l : LinkIx) (s : State) : Out := .next (mgAck l s)
def execPacketTransit (l : LinkIx) (s : State) : Out := .next (packetTransit l s)

end Sys2Proof.Machine
end

