-- ==== Sys2Proof/Machine/Channels.lean ====
section
/-! DEFINITION. Channels between devices (R348-R354): set-up, arms, grants, messages, add mode, aborts; and the records of Kneader slices (R357). -/

namespace Sys2Proof.Machine

/-! ### Set-up (R348) -/

def ChanRec.parse (b : Bytes) : ChanRec :=
  let w := fieldAt b 0 8
  { send := !bitAt w 12, bc := bitAt w 13, add := bitAt w 14, peer := fld w 15 12, peerChan := fld w 27 12,
    next := if bitAt w 51 then some (fld w 39 12) else none, fold := bitAt w 52, foldLevel := fld w 53 6, port := fld w 59 1,
    buf := fieldAt b 8 8, bufSize := bfld b 16 4 0 25, len := bfld b 20 4 0 25, contrib := fieldAt b 24 8,
    ncontrib := bfld b 32 4 0 16, go := bfld b 36 4 0 14, done := bfld b 36 4 14 14, base := bfld b 40 8 0 40, out := fieldAt b 48 8 }

/-- Non-zero reserved bits of a channel record. -/
def chanReserved (b : Bytes) : Bool :=
  fld (fieldAt b 0 8) 60 4 ≠ 0 || bfld b 16 4 25 7 ≠ 0 || bfld b 20 4 25 7 ≠ 0 || bfld b 32 4 16 16 ≠ 0 || bfld b 36 4 28 4 ≠ 0 ||
    bfld b 40 8 40 24 ≠ 0 || !zeroRange b 56 8

/-- R348: the record names nothing that its port may not use. -/
def State.chanOk (s : State) (p fn : Nat) (b : Bytes) : Bool :=
  let c := ChanRec.parse b
  !chanReserved b && c.port == p && s.owns p fn .chan (fld (fieldAt b 0 8) 0 12) && s.owns p fn .sync c.go && s.owns p fn .sync c.done &&
    (match c.next with
     | some n => s.owns p fn .chan n
     | none => true) &&
    !(c.add && c.bc) && (!(c.bc && c.send) || decide (c.len ≤ 2 ^ 24)) && c.buf % 32 == 0 && decide (c.bufSize ≤ 2 ^ 24) && s.generalOk p c.buf (max c.bufSize (if c.bc && c.send then c.len else 0)) &&
    (!c.add || c.ncontrib != 0)

def channelSetup (r : RingIx) (pos : Nat) (ans : HostAns) (s : State) : State :=
  match s.descAny r.val pos 0x28 with
  | none => s
  | some e =>
    let fin (s : State) (st : Nat) : State := s.completeWith r.val pos st
    if unnamed e.entry [(64, 64)] then fin s stBadDescriptor
    else
      s.setupRead r.val pos (fieldAt e.entry 8 8) ans fun s b =>
        let ch := fld (fieldAt b 0 8) 0 12
        if !s.chanOk (s.ringPort r.val) (s.ringFn r.val) b then fin s stBadDescriptor
        else if (s.chan ch).arm.isSome then fin s stClaimConflict
        else fin (s.setChan ch { rcd := some (ChanRec.parse b) }) stOk

/-! ### Grants and arms (R349) -/

/-- The `info` word of a channel message from local channel ch. -/
def ChanRec.info (c : ChanRec) (ch : Nat) : Nat := c.peerChan + ch * 2 ^ 12

/-- An armed receive channel sends its grant: with `next`, once that channel holds one. -/
def State.tryGrant (s : State) (ch : Nat) : State :=
  let k := s.chan ch
  match k.rcd with
  | some c =>
    let down := match c.next with
      | some n => (s.chan n).grant.isSome
      | none => true
    if k.arm.isSome && !c.send && !k.granted && down then
      (s.modChan ch fun k => { k with granted := true }).sendMsg c.peer clRs 3 (c.info ch) (natLe 8 c.bufSize)
    else s
  | none => s

def State.armChan (s : State) (ch r pos : Nat) : State :=
  (s.modChan ch fun k => { k with arm := some (r, pos, s.ticks, s.channelLimit), granted := false, got := [], whole := false, sentMsg := false }).tryGrant ch

/-- The message of a channel is finished, or has ended aborted: the descriptor of its arm, where it has one, completes, and the
next arm that waits starts (R412). -/
def State.endArm (s : State) (ch status : Nat) : State :=
  let k := s.chan ch
  let s := s.modChan ch fun k => { k with arm := none, granted := false, got := [], whole := false, sentMsg := false }
  match k.arm with
  | none => s
  | some (r, pos, _, _) =>
    let s := s.completeWith r pos status
    match k.waiting with
    | [] => s
    | w :: rest => (s.modChan ch fun k => { k with waiting := rest }).armChan ch w.1 w.2

def channelArm (r : RingIx) (pos : Nat) (s : State) : State :=
  match s.descOf r.val pos 0x29 with
  | none => s
  | some e =>
    let ch := bfld e.entry 8 4 0 12
    if unnamed e.entry [(64, 12)] || !s.owns (s.ringPort r.val) (s.ringFn r.val) .chan ch || (s.chan ch).rcd.isNone then
      s.completeWith r.val pos stBadDescriptor
    else if s.earlierNames 0x29 e fun e => bfld e.entry 8 4 0 12 then s
    else
      let s := s.begin r.val pos
      if (s.chan ch).arm.isSome then s.modChan ch fun k => { k with waiting := k.waiting ++ [(r.val, pos)] }
      else s.armChan ch r.val pos

/-! ### Aborts (R353) -/

/-- Causes of an abort (Table 11-11). -/
def abTimeout := 1
def abReceived := 2
def abGo := 3
def abCheck := 4
def abTooLong := 5

/-- A channel has a message to abort: it is armed, or it is a `next` that carries one (R353). -/
def Channel.busy (k : Channel) : Bool := k.arm.isSome || k.sentMsg

def State.sendAbort (s : State) (ch : Nat) (c : ChanRec) (cause : Nat) : State :=
  s.sendMsg c.peer (if c.bc then clBc else clRd) 3 (c.info ch) (natLe 8 cause)

/-- Receive channels that hand their message to a channel and have not done so. -/
def State.feeders (s : State) (ch : Nat) : List Nat :=
  if (s.chan ch).sentMsg then []
  else (s.channels.map (·.1)).filter fun i => ((s.chan i).rcd.bind (·.next)) == some ch && (s.chan i).busy

/-- A channel with a message ends aborted: logged, `done` decremented with the flag, and `ABORT` sent to its peer and on `next`,
whose channel ends aborted too where it has one (R353). The abort goes on to the receive channels that feed it, and past a channel
that has none to those of its chain that have (R440); the grant it kept is void. -/
def State.abortChan (s : State) (ch cause : Nat) (down : Bool) : Nat → State
  | 0 => s
  | n + 1 =>
    match (s.chan ch).rcd with
    | some c =>
      let up := s.feeders ch
      let mine := (s.chan ch).busy
      let s := s.modChan ch fun k => { k with grant := none }
      let s := if mine then
          (((((s.report lgLinks [c.port] eChannelAbort (64 + ch) ch cause).sendAbort ch c cause).endArm ch stAborted)).decrement c.done 1 true)
        else s
      let s := match (if down then c.next else none) with
        | some k => (match (s.chan k).rcd with
          | some d => if mine && !(s.chan k).busy then s.sendAbort k d abReceived else s.abortChan k abReceived true n
          | none => s)
        | none => s
      (up.foldl (fun s i => s.abortChan i abReceived false n) s).settle
    | none => s

def State.chanAbort (s : State) (ch cause : Nat) : State := s.abortChan ch cause true 64

/-! ### Messages (R350-R352) -/

/-- Sends a message on a channel: its grant is used up. -/
def State.sendChan (s : State) (ch : Nat) (c : ChanRec) (b : Bytes) : State :=
  (s.modChan ch fun k => { k with grant := none, sentMsg := true }).sendMsg c.peer (if c.bc then clBc else clRd) 1 (c.info ch) b

/-- Bytes of a record from its header: a carry stack record (R54), or a node record (R354), which its level field tells
(a node record of level 0 reads as a carry stack record: DESIGN CHOICE, log entry 69). -/
def recordLen (b : Bytes) : Option Nat :=
  ((RecHdr.parse false b).map RecHdr.length).orElse fun _ => (RecHdr.parse true b).map fun h => 32 + arrLen h.spill h.level h.elems

/-- One node record at an address of general memory: its header, its array and its length. -/
def State.nodeAt (s : State) (p a : Nat) : Option (RecHdr × Option NodeArr × Nat) := do
  let h ← RecHdr.parse true (s.dread a 32).1
  let n := 32 + arrLen h.spill h.level h.elems
  if h.arith ≠ 0 ∨ a % 32 ≠ 0 ∨ !s.generalOk p a n ∨ (s.dread a n).2 then none
  else
    let r ← nodeRecordParse (s.dread a n).1
    some (r.1, r.2, n)

/-- Adds a node to a stack of a header; none when R55 or the place of the node forbids it. -/
def addNode (h : RecHdr) (st : Stack) (k : RecHdr) (v : Option NodeArr) : Option (Ar Stack) :=
  if h.matches k ∧ k.t = st.t ∧ k.t % 2 ^ k.level = 0 ∧ st.t + 2 ^ k.level < 2 ^ 40 then some (st.add h.cfg h.coords v k.level) else none

/-- Adds n contributions one after another (R351), or tells the state in which a check failed; one that fails for poison counts
(R427). -/
def State.addContribs (s : State) (ch p : Nat) (h : RecHdr) : Nat → Nat → Stack → Except State (Stack × State)
  | 0, _, st => .ok (st, s)
  | n + 1, a, st =>
    match s.nodeAt p a with
    | none => .error (s.notePoison a ((recordLen (s.dbytes a 32)).getD 32))
    | some x =>
      match addNode h st x.1 x.2.1 with
      | none => .error s
      | some y =>
        let r := y.run 0
        let s := (s.memRead false .general a x.2.2).2
        let s := if r.2 = 0 then s else s.sifterInv (8 + ch % 2) r.2
        s.addContribs ch p h n (a + x.2.2) r.1

/-- The lowest index that a present pending node of a stack covers: its t where none is. -/
def Stack.low (st : Stack) : Nat :=
  (st.pend.filterMap fun x => if x.2.isSome then some (st.t / 2 ^ (x.1 + 1) * 2 ^ (x.1 + 1)) else none).foldl min st.t

/-- The first index of the node that a fold of level l makes, when what the stack holds from index `low` on lies in it: a node that
has passed absent slots, as at the end of an odd-numbered pod, holds nothing below (R48, R351, R356). -/
def foldStart (low : Nat) (st : Stack) (l : Nat) : Option Nat :=
  let start := (st.t - 1) / 2 ^ l * 2 ^ l
  if start ≤ low then some start else none

/-- What add mode does with its finished stack (R351): sends it on, or finishes or folds it to `out`;
none when a check fails. -/
def State.addResult (s : State) (ch : Nat) (c : ChanRec) (h : RecHdr) (low : Nat) (st : Stack) : Option State :=
  if 2 ^ 24 < (recordBytes h st).length ∧ (c.send ∨ c.next.isSome) then none  -- no message holds it (R334)
  else if c.send then some (s.sendChan ch c (recordBytes h st))
  else
    match c.next with
    | some n => match (s.chan n).rcd with
      | some d => some (s.sendChan n d (recordBytes h st))
      | none => none
    | none =>
      let r := (st.finish h.cfg h.coords).run 0
      let s := if r.2 = 0 then s else s.sifterInv (8 + ch % 2) r.2
      let put (b : Bytes) : Option State := if s.generalOk c.port c.out b.length then some (s.generalWrite none false c.out b) else none
      if c.fold then
        match foldStart low st c.foldLevel with
        | some t0 => put ({ h with t := t0, level := c.foldLevel }.bytes ++ arrBytes h.spill c.foldLevel h.elems r.1)
        | none => none
      else put ((handOff h.elems r.1).flatMap fun v => natLe 4 (fp32.enc v))

/-- A channel's message is finished at this end: `done` and the arm (R350). -/
def State.chanDone (s : State) (ch : Nat) (c : ChanRec) : State := ((s.endArm ch stOk).decrement c.done 1 false).settle

/-- Add mode once `go` is at 0 (R351). -/
def State.addMode (s : State) (ch : Nat) (c : ChanRec) : State :=
  let start : Option (RecHdr × Stack) :=
    if c.send then (s.nodeAt c.port c.contrib).map fun x => ({ x.1 with t := c.base, level := 0 }, Stack.atBase c.base)
    else (Rec.parse (s.chan ch).got).map fun r => (r.hdr, r.stack)
  match start with
  | none => (if c.send then s.notePoison c.contrib 32 else s).chanAbort ch abCheck
  | some x =>
    match s.addContribs ch c.port x.1 c.ncontrib c.contrib x.2 with
    | .error s => s.chanAbort ch abCheck
    | .ok y =>
      match y.2.addResult ch c x.1 x.2.low y.1 with
      | none => y.2.chanAbort ch abCheck
      | some s => if c.send then s else s.chanDone ch c

/-- The message of a send channel without `add`: the record at `buf`, or `len` bytes. -/
def State.plainMsg (s : State) (c : ChanRec) : Option Bytes :=
  let n := if c.bc then some c.len else recordLen (s.dread c.buf 32).1
  n.bind fun n => if decide (n ≤ 2 ^ 24) && s.generalOk c.port c.buf n && !(s.dread c.buf n).2 then some (s.dread c.buf n).1 else none

/-- CHANNEL_SEND: the channel does what its `go` object lets it do. -/
def channelSend (ch : ChanIx) (s : State) : State :=
  let k := s.chan ch.val
  match k.rcd with
  | none => s
  | some c =>
    let g := s.sync c.go
    if !s.running || k.arm.isNone || k.sentMsg then s
    else if g.aborted then s.chanAbort ch.val abGo
    else if g.count ≠ 0 then s
    else if c.send then
      if k.grant.isNone then s
      else if c.add then s.addMode ch.val c
      else
        match s.plainMsg c with
        | some b => ((s.memRead false .general c.buf b.length).2).sendChan ch.val c b
        | none => (s.notePoison c.buf (if c.bc then c.len else (recordLen (s.dbytes c.buf 32)).getD 32)).chanAbort ch.val abCheck
    else if c.add && k.whole then s.addMode ch.val c
    else s

/-- A message, or the next packet of one, reaches a receive channel that has granted it: `buf` takes the message once it is
whole, when it is acknowledged and carried on or finished. Of a BC message each packet goes on to `next` as it comes (R352). -/
def State.chanReceive (s : State) (m : Msg) (bc : Bool) : State :=
  let ch := fld m.head.info.toNat 0 12
  let from' := fld m.head.info.toNat 12 12
  let k := s.chan ch
  match k.rcd with
  | none => s
  | some c =>
    let b := k.got ++ m.body
    if c.send || c.bc != bc || c.peer != m.head.src || c.peerChan != from' || k.arm.isNone || !k.granted || k.whole then s
    else if c.bufSize < b.length then s.chanAbort ch abTooLong
    else if c.add && !((Rec.parse m.body).any fun r => r.hdr.arith == 0) then s.chanAbort ch abCheck
    else
      let last := !bc || m.head.last
      let s := match if bc then c.next.bind fun n => (s.chan n).rcd.map fun d => (n, d) else none with
        | some (n, d) => (s.modChan n fun k => if last then { k with grant := none, sentMsg := true } else k).bcSend n
            [{ m.head with src := s.devId, dst := d.peer, hops := 0, info := BitVec.ofNat 64 (d.info n) }]
        | none => s
      let s := s.modChan ch fun k => { k with got := b, whole := last }
      if !last then s
      else
        let s := s.generalWrite none false c.buf b
        let s := s.sendMsg c.peer clRs 4 (c.info ch) []
        if c.add then
          (if (s.sync c.go).aborted then s.chanAbort ch abGo else if (s.sync c.go).count = 0 then s.addMode ch c else s)
        else
          let s := match if bc then none else c.next.bind fun n => (s.chan n).rcd.map fun d => (n, d) with
            | some (n, d) => s.sendChan n d b
            | none => s
          s.chanDone ch c

/-- Takes the next packet of a BC message on a link. -/
def State.takeBlock (s : State) (l : Nat) : Option (Msg × State) :=
  if !s.fnUp 3 (l / 18) then none
  else
  match (s.link l).rxq.find? fun p => p.cls == clBc && p.dst == s.devId with
  | some p =>
    if p.kind = 1 then
      some (⟨p, p.body, p.units⟩, s.modLink l fun k => { k with rxq := k.rxq.erase p, owed := k.owed.modify clBc (· + p.units) })
    else none
  | none => none

def record (l : LinkIx) (s : State) : State :=
  if !s.running then s
  else
    match s.takeMsg l.val clRd 1 with
    | some (m, s) => s.chanReceive m false
    | none => s

/-- BLOCK: the next packet of a broadcast message. -/
def block (l : LinkIx) (s : State) : State :=
  if !s.running then s
  else
    match s.takeBlock l.val with
    | some (m, s) => s.chanReceive m true
    | none => s

/-- GRANT: one is kept by the send channel it names; receive channels that wait for it may grant in turn. One that no
send channel awaits is of a slice of the sender's (R357, R362). -/
def grant (l : LinkIx) (s : State) : State :=
  if !s.running then s
  else
    match s.takeMsg l.val clRs 3 with
    | none => s
    | some (m, s) =>
      let ch := fld m.head.info.toNat 0 12
      let from' := fld m.head.info.toNat 12 12
      let n := bfld m.body 0 8 0 25
      if (s.chan ch).rcd.any fun c => c.send && c.peer == m.head.src && c.peerChan == from' then
        let s := s.modChan ch fun k => { k with grant := some n }
        (s.channels.map (·.1)).foldl (fun s i =>
          if ((s.chan i).rcd.bind (·.next)) = some ch then s.tryGrant i else s) s
      else if from' = 0 ∧ s.podTable.contains m.head.src then
        { s with kneadGrants := s.kneadGrants ++ [(m.head.src, ch, n)] }.progress
      else s

/-- CHAN_ACK: the sender's end of the message is finished. -/
def chanAck (l : LinkIx) (s : State) : State :=
  if !s.running then s
  else
    match s.takeMsg l.val clRs 4 with
    | none => s
    | some (m, s) =>
      let ch := fld m.head.info.toNat 0 12
      let k := s.chan ch
      match k.rcd with
      | some c =>
        if c.send && c.peer == m.head.src && c.peerChan == fld m.head.info.toNat 12 12 && k.sentMsg then s.chanDone ch c else s
      | none => s

/-- ABORT from the peer of a channel. -/
def abort (l : LinkIx) (s : State) : State :=
  if !s.running then s
  else
    match (s.takeMsg l.val clRd 3).orElse fun _ => s.takeMsg l.val clBc 3 with
    | none => s
    | some (m, s) =>
      let ch := fld m.head.info.toNat 0 12
      match (s.chan ch).rcd with
      | some c => if c.peer == m.head.src && c.peerChan == fld m.head.info.toNat 12 12 then s.chanAbort ch abReceived else s
      | none => s

/-- CHANNEL_TIMEOUT: the message has not gone or arrived in time. -/
def channelTimeout (ch : ChanIx) (s : State) : State :=
  let k := s.chan ch.val
  match k.arm with
  | some (_, _, since, lim) =>
    if s.running && decide (since + lim ≤ s.ticks) && !k.sentMsg && !k.whole then s.chanAbort ch.val abTimeout else s
  | none => s

/-- KNEAD (R132, R357): the record of the slice before reaches the slice that granted it space, whose work goes on and
checks it. -/
def knead (l : LinkIx) (s : State) : State :=
  if !s.running then s
  else
    match s.takeMsg l.val clRd 2 with
    | none => s
    | some (m, s) =>
      match s.kneads.find? fun k => k.num == fld m.head.info.toNat 0 12 && k.dev == m.head.src with
      | some k =>
        State.progress ({ s with kneads := s.kneads.erase k }.modProg k.who fun p =>
          { p with parts := p.parts ++ [Part.mk (.knead k.list k.slice) m.body false k.dev] })
      | none => s

def execChannelSetup (r : RingIx) (pos : Nat) (ans : HostAns) (s : State) : Out := .next (channelSetup r pos ans s)
def execChannelArm (r : RingIx) (pos : Nat) (s : State) : Out := .next (channelArm r pos s)
def execChannelSend (ch : ChanIx) (s : State) : Out := .next (channelSend ch s)
def execRecord (l : LinkIx) (s : State) : Out := .next (record l s)
def execBlock (l : LinkIx) (s : State) : Out := .next (block l s)
def execGrant (l : LinkIx) (s : State) : Out := .next (grant l s)
def execChanAck (l : LinkIx) (s : State) : Out := .next (chanAck l s)
def execAbort (l : LinkIx) (s : State) : Out := .next (abort l s)
def execChannelTimeout (ch : ChanIx) (s : State) : Out := .next (channelTimeout ch s)
def execKnead (l : LinkIx) (s : State) : Out := .next (knead l s)

end Sys2Proof.Machine
end

