-- ==== Sys2Proof/Machine/Fec.lean ====
section
/-! DEFINITION. The Reed-Solomon code of the flits (R327): RS(128,120) over GF(2^8), two interleaved codewords in 256 bytes. -/

namespace Sys2Proof.Machine

/-- Product in GF(2^8) with field polynomial x^8 + x^4 + x^3 + x^2 + 1, by the bits of the second factor. -/
def gfMulBits : Nat → Nat → Nat → Nat → Nat
  | 0, _, _, acc => acc
  | k + 1, a, b, acc =>
    gfMulBits k (if a ≥ 128 then (2 * a) ^^^ 0x11D else 2 * a) (b / 2) (if b % 2 = 1 then acc ^^^ a else acc)

def gfMul (a b : Nat) : Nat := gfMulBits 8 a b 0

def gfPow (a : Nat) : Nat → Nat
  | 0 => 1
  | n + 1 => gfMul a (gfPow a n)

def gfInv (a : Nat) : Nat := gfPow a 254

/-- α^n, with α = 0x02. -/
def alpha (n : Nat) : Nat := gfPow 2 (n % 255)

/-- Value at x of the polynomial whose coefficients are listed highest power first. -/
def gfEval (x : Nat) (c : List Nat) : Nat := c.foldl (fun acc k => gfMul acc x ^^^ k) 0

/-- Coefficients of the generator below x^8, highest power first. -/
def rsGen : List Nat :=
  let step (g : List Nat) (r : Nat) : List Nat :=
    List.zipWith (· ^^^ ·) (g ++ [0]) (0 :: g.map fun k => gfMul k r)
  (((List.range 8).map alpha).foldl step [1]).drop 1

/-- The 8 parity symbols of 120 data symbols: the remainder of data(x) x^8 by the generator. -/
def rsParity (d : List Nat) : List Nat :=
  d.foldl (fun r k =>
    let f := k ^^^ r.headD 0
    List.zipWith (fun a g => a ^^^ gfMul f g) (r.drop 1 ++ [0]) rsGen) (List.replicate 8 0)

def rsSyndromes (c : List Nat) : List Nat := (List.range 8).map fun j => gfEval (alpha j) c

/-- Adds d x^m p to a polynomial given lowest power first. -/
def polyAddShift (c : List Nat) (d m : Nat) (p : List Nat) : List Nat :=
  (List.range (max c.length (m + p.length))).map fun i =>
    c.getD i 0 ^^^ (if i < m then 0 else gfMul d (p.getD (i - m) 0))

/-- Berlekamp-Massey over the syndromes: the error locator, lowest power first, and its length. -/
def bmLoop (syn : List Nat) : Nat → Nat → List Nat → List Nat → Nat → Nat → Nat → List Nat × Nat
  | 0, _, c, _, l, _, _ => (c, l)
  | k + 1, n, c, b, l, m, bd =>
    let d := (List.range (l + 1)).foldl (fun acc i => acc ^^^ gfMul (c.getD i 0) (if i ≤ n then syn.getD (n - i) 0 else 0)) 0
    if d = 0 then bmLoop syn k (n + 1) c b l (m + 1) bd
    else
      let c' := polyAddShift c (gfMul d (gfInv bd)) m b
      if 2 * l ≤ n then bmLoop syn k (n + 1) c' c (n + 1 - l) 1 d
      else bmLoop syn k (n + 1) c' b l (m + 1) bd

/-- Decodes one codeword of 128 symbols: corrects up to 4 of them, or fails (R327). -/
def rsDecode (c : List Nat) : Option (List Nat) :=
  let syn := rsSyndromes c
  if syn.all (· == 0) then some c
  else
    let r := bmLoop syn 8 0 [1] [1] 0 1 1
    let lam := r.1
    let ev (p : List Nat) (x : Nat) := gfEval x p.reverse
    let pos := (List.range 128).filter fun p => ev lam (alpha (255 - p)) == 0
    if 4 < r.2 ∨ pos.length ≠ r.2 then none
    else
      let om := (List.range 8).map fun i =>
        (List.range (i + 1)).foldl (fun acc j => acc ^^^ gfMul (syn.getD j 0) (lam.getD (i - j) 0)) 0
      let dl := (List.range (lam.length - 1)).map fun i => if i % 2 = 0 then lam.getD (i + 1) 0 else 0
      let fixed := (List.range 128).map fun i =>
        let p := 127 - i
        let e := if pos.contains p then
            gfMul (alpha p) (gfMul (ev om (alpha (255 - p))) (gfInv (ev dl (alpha (255 - p)))))
          else 0
        c.getD i 0 ^^^ e
      if (rsSyndromes fixed).all (· == 0) then some fixed else none

/-- Every second element of a list, from the first. -/
def evens {α : Type} : List α → List α
  | [] => []
  | [a] => [a]
  | a :: _ :: r => a :: evens r

def odds {α : Type} (l : List α) : List α := evens (l.drop 1)

def interleave {α : Type} : List α → List α → List α
  | a :: r, b :: t => a :: b :: interleave r t
  | _, _ => []

/-- A flit from its first 240 bytes. -/
def flitEncode (d : Bytes) : Bytes :=
  let n := d.map (·.toNat)
  d ++ (interleave (rsParity (evens n)) (rsParity (odds n))).map (BitVec.ofNat 8)

/-- The corrected 240 bytes of a flit, or none where either codeword fails. -/
def flitDecode (b : Bytes) : Option Bytes :=
  let n := b.map (·.toNat)
  match rsDecode (evens n), rsDecode (odds n) with
  | some x, some y => some (((interleave x y).map (BitVec.ofNat 8)).take 240)
  | _, _ => none

end Sys2Proof.Machine
end

