-- ==== Sys2Proof/Machine/Links.lean ====
section
/-! DEFINITION. Fjarell links (R325-R337): flits, replay, bring-up phases, identification and credits. -/

namespace Sys2Proof.Machine

/-- The links run: power is good, no halt stands, and start-up has reached stage G outside RECOVERY. -/
def State.linksRun (s : State) : Bool :=
  s.awake && !s.mgmt.halted && s.boot.outcome != 2 &&
    (s.boot.stage == .links || s.boot.stage == .release || s.boot.stage == .done)

def State.linkEnabled (s : State) (l : Nat) : Bool := bitAt (s.dreg (0x38008 + 64 * l)) 0

/-- Limits of the phases in ticks (Table 11-2). -/
def phaseLimit (n : Nat) : Nat :=
  if n = 1 then 200000 else if n = 2 then 3000000 else if n = 3 then 100000 else if n = 4 then 100000 else if n = 5 then 100000 else 10000

/-- Bring-up of every link begins (stage G); a link that is not enabled stays DOWN, and so does one whose
clock or hub failed before. -/
def State.linksBegin (s : State) : State :=
  (List.range 36).foldl (fun s l =>
    if (s.link l).st.gone then s
    else s.setLink l (if s.linkEnabled l then { phase := 1, since := s.ticks } else { st := .down })) s

/-- A link goes DOWN: its replay buffer and the packets queued for it are discarded and counted (R332). -/
def State.linkGone (s : State) (l : Nat) (st : LinkSt) : State :=
  let k := s.link l
  let n := k.txq.length + k.replay.length
  (s.setLink l { k with st := st, phase := 0, replay := [], txq := [], txBytes := [], txFill := 0, resending := false, resendFrom := 0,
                        peerValid := false, discards := k.discards + n }).report lgLinks [0, 1] eLinkDown l l k.phase

/-- A link enters a phase. -/
def Link.enter (k : Link) (n now : Nat) : Link := { k with phase := n, since := now, goodFlits := 0 }

/-- A cable is mated on the connector of a link (R496, R497). -/
def State.cabled (s : State) (l : Nat) : Bool := (Tab.get none s.mgmt.cables (l / 4)).isSome

/-- DETECT: signal and clock on both lanes. A re-initialisation keeps its filter settings and skips phase 2
unless it has failed once (R332). -/
def detect (l : LinkIx) (s : State) : State :=
  let k := s.link l.val
  if s.linksRun && k.phase == 1 && s.cabled l.val then
    s.setLink l.val (k.enter (if k.st = .reinit ∧ !k.retried then 3 else 2) s.ticks)
  else s

/-- A link as bring-up begins: what an earlier attempt sent and received is forgotten, so that the first DATA flit of
phase 6 has `seq` 0 again. A re-initialisation keeps all of it (R332). -/
def Link.afresh (k : Link) : Link :=
  if k.st = .reinit then k
  else { k with txSeq := 0, rxSeq := 0, nakSend := false, replay := [], resending := false, resendFrom := 0, txBytes := [], txFill := 0, rxBytes := [],
                txq := k.txq.filter (fun p => p.cls != clLk), credits := [0, 0, 0, 0, 0], owed := ({} : Link).owed, credSent := false, credGot := false }

/-! ### Received flits -/

/-- Distance from a to b modulo 4,096. -/
def seqDist (a b : BitVec 12) : Nat := (b - a).toNat

/-- Acts on the `ack` and `nak` of a flit (R328). -/
def Link.acked (k : Link) (ack : BitVec 12) (nak : Bool) (now : Nat) : Link :=
  let n := match k.replay.head? with
    | some f => let d := seqDist f.1 ack + 1; if d ≤ k.replay.length then d else 0
    | none => 0
  let k := if 0 < n then { k with replay := k.replay.drop n, resendFrom := k.resendFrom - n, lastAckAt := now, resendCount := 0 } else k
  if nak && !k.replay.isEmpty && !k.resending then { k with resending := true, resendFrom := 0, resendCount := k.resendCount + 1 } else k

/-- The good flit of phase 4: 64 in a row end it, and phase 5 begins once this end's set-up lock is set (R330, R475). A link that
re-initialises resumes from the first unacknowledged flit (R332). -/
def Link.good (k : Link) (locked : Bool) (now : Nat) : Link :=
  if k.phase = 4 then
    if k.goodFlits + 1 < 64 ∨ (k.st ≠ .reinit ∧ !locked) then { k with goodFlits := min (k.goodFlits + 1) 64 }
    else if k.st = .reinit then
      { k with st := .active, phase := 0, goodFlits := 0, resending := !k.replay.isEmpty, resendFrom := 0, resendCount := 0, lastAckAt := now,
               retried := false }
    else k.enter 5 now
  else k

/-- Packets of a list, newest first, up to the one that ended a message. -/
def openPart : List Packet → Nat
  | [] => 0
  | p :: r => if p.last then 0 else openPart r + 1

/-- Drops the packets of a class and source that came after the last whole message (R334). -/
def dropPartial (cls src : Nat) (q : List Packet) : List Packet :=
  let mine (p : Packet) : Bool := p.cls == cls && p.src == src
  (dropFirst mine (openPart (q.reverse.filter mine)) q.reverse).reverse

/-- A packet reaches the input of its class, or is discarded (R334). An MG message takes one of its source's four entries
in the device store while one is free (R358). -/
def State.takePacket (s : State) (l : Nat) (x : Packet × Nat) : State :=
  let p := x.1
  let owe (s : State) (n : Nat) : State := s.modLink l fun k => { k with owed := k.owed.modify p.cls (· + n) }
  if x.2 ≠ 0 then
    let s := owe (s.discard l x.2) p.units
    if p.cls = clLk ∨ p.dst ≠ s.devId then s
    else
      let q := (s.link l).rxq
      let q' := dropPartial p.cls p.src q
      (owe s (heldUnits q - heldUnits q')).modLink l fun k => { k with rxq := q', spoilt := if p.last then k.spoilt else k.spoilt ++ [(p.cls, p.src)] }
  else if p.cls ≠ clLk ∧ p.dst = s.devId ∧ (s.link l).spoilt.contains (p.cls, p.src) then
    (owe s p.units).modLink l fun k => { k with spoilt := if p.last then k.spoilt.filter (· != (p.cls, p.src)) else k.spoilt }
  else if p.cls = clMg ∧ p.dst = s.devId ∧ p.kind ≤ 6 ∧ (s.mgIn.countP fun y => y.2.src == p.src) < 4 ∧
      !(s.link l).rxq.any (fun y => y.cls == clMg && y.src == p.src && y.kind ≠ 7) then
    { owe s p.units with mgIn := s.mgIn ++ [(l, p)] }
  else (if p.dst = s.devId ∧ p.drains then owe s p.units else s).modLink l fun k => { k with rxq := k.rxq ++ [p] }

/-- Takes whole packets from the front of the bytes received: NULL units are skipped (R333). -/
def State.parsePackets (s : State) (l : Nat) : Nat → State
  | 0 => s
  | n + 1 =>
    let b := (s.link l).rxBytes
    if b.length < 8 then s
    else if zeroRange b 0 8 then (s.modLink l fun k => { k with rxBytes := k.rxBytes.drop 8 }).parsePackets l n
    else
      match headUnits b with
      | none => ((s.modLink l fun k => { k with rxBytes := k.rxBytes.drop 8 }).discard l dcReserved).parsePackets l n
      | some u =>
        if b.length < 8 * u then s
        else
          let s := s.modLink l fun k => { k with rxBytes := k.rxBytes.drop (8 * u) }
          (s.takePacket l (Packet.parse b u)).parsePackets l n

/-- A flit of 256 bytes arrives: corrected, and its header; none when it is discarded (R327). -/
def readFlit (b : Bytes) : Option (Bytes × BitVec 12 × BitVec 12 × Nat × Bool) :=
  if b.length ≠ 256 then none
  else (flitDecode b).map fun d =>
    let w := fieldAt d 0 4
    (d, BitVec.ofNat 12 (fld w 0 12), BitVec.ofNat 12 (fld w 12 12), fld w 24 2, bitAt w 26)

/-- A flit that does not decode: in phase 4 the count starts again, later the sender must resend. -/
def State.badFlit (s : State) (l : Nat) : State :=
  s.modLink l fun k => { k with goodFlits := if k.goodFlits = 64 then 64 else 0, nakSend := k.nakSend || decide (k.phase = 0 ∨ 5 ≤ k.phase) }

/-- The link takes flits: its receiver has found its lanes. -/
def State.flitsTaken (s : State) (l : Nat) : Bool :=
  s.linksRun && (match (s.link l).st with
    | .training => decide (4 ≤ (s.link l).phase)
    | .reinit => decide (4 ≤ (s.link l).phase)
    | .active => true
    | .down => false
    | .held => false
    | .lost => false)

/-- DATA_FLIT (R328). -/
def dataFlit (l : LinkIx) (b : Bytes) (s : State) : State :=
  if !s.flitsTaken l.val then s
  else
    match readFlit b with
    | none => s.badFlit l.val
    | some (d, seq, ack, ft, nak) =>
      if ft ≠ 0 then s
      else
        let k := s.link l.val
        if k.phase = 4 then s.setLink l.val (k.good s.locked s.ticks)
        else
          let k := k.acked ack nak s.ticks
          if seq = k.rxSeq then
            let s := s.setLink l.val { k with rxSeq := k.rxSeq + 1, nakSend := false, rxBytes := k.rxBytes ++ slice d 4 236 }
            s.parsePackets l.val ((k.rxBytes.length + 236) / 8 + 1)
          else s.setLink l.val { k with nakSend := true }

/-- IDLE_FLIT (R329): its `ack` and `nak` count. -/
def idleFlit (l : LinkIx) (b : Bytes) (s : State) : State :=
  if !s.flitsTaken l.val then s
  else
    match readFlit b with
    | none => s.badFlit l.val
    | some (_, _, ack, ft, nak) =>
      if ft ≠ 1 then s
      else s.setLink l.val ((((s.link l.val).good s.locked s.ticks)).acked ack nak s.ticks)

/-- One filter tap after a request: 0 hold, 1 increase, 2 decrease. -/
def tapStep (v : Int) (r : Nat) : Int := if r = 1 then v + 1 else if r = 2 then v - 1 else v

/-- TRAIN_FLIT (R330): in phase 2 the partner's requests move this transmitter's filter, and whether this
receiver has converged is a free value (DESIGN CHOICE, log entry 41); a TRAIN flit that decodes ends phase 3. -/
def trainFlit (l : LinkIx) (b : Bytes) (s : State) : State :=
  let k := s.link l.val
  if !s.linksRun then s
  else
    match readFlit b with
    | none => s.badFlit l.val
    | some (d, _, _, ft, _) =>
      if ft ≠ 2 then s
      else if k.phase = 2 then
        let lane := fld (fieldAt d 4 1) 0 1
        let rq := fieldAt d 5 1
        let f := s.free
        let taps := k.taps.zipIdx.map fun (v, i) => if i / 3 = lane then tapStep v (fld rq (2 * (i % 3)) 2) else v
        let k := { k with taps := taps, peerConverged := bitAt (fieldAt d 4 1) 7, localConverged := bitAt f.1.toNat 0 }
        f.2.setLink l.val (if k.peerConverged && k.localConverged then k.enter 3 s.ticks else k)
      else if k.phase = 3 then s.setLink l.val (k.enter 4 s.ticks)
      else if k.phase = 4 then s.setLink l.val (k.good s.locked s.ticks)
      else s

/-! ### Sent flits -/

/-- An LK packet. -/
def lkPacket (src kind : Nat) (body : Bytes) : Packet :=
  { kind := kind, cls := clLk, src := src, dst := 0, hops := 0, last := true, info := 0, body := body }

/-- The first packet that may be sent: of a class with credits for it, and none of its class before it. -/
def nextTx (active : Bool) (credits : List Nat) : List Nat → List Packet → Option Packet
  | _, [] => none
  | stopped, p :: r =>
    if p.cls = clLk then some p
    else if active && !stopped.contains p.cls && decide (p.units ≤ credits.getD p.cls 0) then some p
    else nextTx active credits (p.cls :: stopped) r

/-- Fills the stream with whole packets until a DATA payload is full. -/
def Link.fill (k : Link) : Nat → Link
  | 0 => k
  | n + 1 =>
    if 236 ≤ k.txBytes.length then k
    else
      match nextTx (k.st == .active) k.credits [] k.txq with
      | none => k
      | some p =>
        let k := { k with txq := k.txq.erase p, txBytes := k.txBytes ++ p.bytes, txFill := 0,
                          credits := if p.cls = clLk then k.credits else k.credits.modify p.cls (· - p.units) }
        k.fill n

/-- Owed credits go out in a `CREDIT` packet (R336). -/
def Link.creditDue (k : Link) (src : Nat) : Link :=
  if (k.phase = 6 ∨ k.st = .active) ∧ k.owed.any (· != 0) then
    { k with owed := k.owed.map fun v => v - 65535, credSent := true,
             txq := lkPacket src 2 (padTo 16 (k.owed.flatMap fun v => natLe 2 (min v 65535))) :: k.txq }
  else k

/-- Phase 6 ends when the initial credits have gone and come. -/
def Link.activate (k : Link) : Link :=
  if k.phase = 6 ∧ k.credSent ∧ k.credGot then { k with st := .active, phase := 0 } else k

/-- A flit of the link with its current `ack` and `nak` (Table 11-1). -/
def Link.flit (k : Link) (seq : BitVec 12) (ft : Nat) (payload : Bytes) : Bytes :=
  flitEncode (natLe 4 (seq.toNat + (k.rxSeq - 1).toNat * 2 ^ 12 + ft * 2 ^ 24 + (if k.nakSend then 2 ^ 26 else 0)) ++ payload ++
    List.replicate (236 - payload.length) 0#8)

/-- FLIT_TRANSMIT (R326, R328-R330, R336): what the link sends next. -/
def flitTransmit (l : LinkIx) (s : State) : State :=
  let k := s.link l.val
  let idle (s : State) (k : Link) : State :=
    (s.setLink l.val { k with sinceIdle := 0 }).emit (.flit l.val (k.flit (k.txSeq - 1) 1 []))
  if !s.linksRun || k.st.gone || k.st == .held || (k.st != .active && k.phase == 0) then s
  else if k.st ≠ .active ∧ k.phase < 4 then
    let f := s.free
    let rq := fld f.1.toNat 0 2 % 3 + fld f.1.toNat 2 2 % 3 * 4 + fld f.1.toNat 4 2 % 3 * 16
    f.2.emit (.flit l.val (k.flit (k.txSeq - 1) 2 [BitVec.ofNat 8 (fld f.1.toNat 6 1 + if k.localConverged then 128 else 0), BitVec.ofNat 8 rq]))
  else if k.phase = 4 ∨ 4095 ≤ k.sinceIdle then idle s k
  else if k.resending then
    match k.replay[k.resendFrom]? with
    | some f =>
      -- in host-assisted mode the link stops at the rung and reports (R332)
      if s.assisted 5 && !k.answered then
        (s.setLink l.val { k with st := .held }).holdEvent ⟨5, l.val⟩ lgLinks [0, 1] eLinkFlit 1 l.val
          (BitVec.ofNat 64 l.val) (BitVec.ofNat 64 k.resends)
      else
      let k' := { k with sinceIdle := k.sinceIdle + 1, resends := k.resends + 1, resendFrom := k.resendFrom + 1, resending := decide (k.resendFrom + 1 < k.replay.length),
                          answered := k.answered && decide (k.resendFrom + 1 < k.replay.length) }
      ((s.setLink l.val k').emit (.flit l.val (k.flit f.1 0 f.2))).logEvent lgLinks [0, 1] eLinkFlit cRecovered 1 0 l.val
        (BitVec.ofNat 64 l.val) (BitVec.ofNat 64 k'.resends)
    | none => idle s { k with resending := false }
  else if 1024 ≤ k.replay.length then idle s k
  else
    let k1 := (k.creditDue s.devId).fill 64
    if k1.txBytes.length ≤ k1.txFill then idle s k1.activate
    else
      let pad := roundUp (236 - k1.txBytes.length) 8
      let b := k1.txBytes ++ List.replicate pad 0#8
      let k2 := { k1 with txBytes := b.drop 236, txFill := if pad = 0 then 0 else b.length - 236, txSeq := k1.txSeq + 1,
                          replay := k1.replay ++ [(k1.txSeq, b.take 236)], sinceIdle := k1.sinceIdle + 1,
                          lastAckAt := if k1.replay.isEmpty then s.ticks else k1.lastAckAt }
      (s.setLink l.val k2.activate).emit (.flit l.val (k2.flit k1.txSeq 0 (b.take 236)))

/-! ### Identification and credits -/

/-- The `IDENT` body (Table 11-4). -/
def State.identBody (s : State) (l : Nat) : Bytes :=
  natLe 8 (s.devId + l * 2 ^ 12 + s.podId * 2 ^ 18 + s.podSize * 2 ^ 30 + s.podIndex * 2 ^ 36)

/-- IDENT_INTERVAL: through phase 5, once the set-up lock is set. -/
def identInterval (l : LinkIx) (s : State) : State :=
  let k := s.link l.val
  if s.linksRun && s.locked && k.phase == 5 then
    s.setLink l.val { k with txq := lkPacket s.devId 1 (s.identBody l.val) :: k.txq }
  else s

/-- The oldest LK packet of a kind on a link. -/
def State.takeLk (s : State) (l kind : Nat) : Option (Packet × State) :=
  ((s.link l).rxq.find? fun p => p.cls == clLk && p.kind == kind).map fun p =>
    (p, s.modLink l fun k => { k with rxq := k.rxq.erase p })

/-- IDENT (R331): an accepted peer ends phase 5; another is reported, and the link stays there. -/
def ident (l : LinkIx) (s : State) : State :=
  if !s.linksRun || !s.locked then s
  else
    match s.takeLk l.val 1 with
    | none => s
    | some (p, s) =>
      let k := s.link l.val
      let w := fieldAt p.body 0 8
      let id := fld w 0 12
      if k.phase ≠ 5 then s
      else if id ≠ s.devId ∧ (fld w 18 12 ≠ s.podId ∨ s.podTable.contains id) then
        s.setLink l.val { k.enter 6 s.ticks with peerId := id, peerLink := fld w 12 6, peerValid := true,
                                                 txq := lkPacket s.devId 1 (s.identBody l.val) :: k.txq }
      else s.report lgLinks [0, 1] eLinkDown l.val l.val 5

/-- CREDIT (R336): returned credits; the first ones end the exchange of phase 6. -/
def credit (l : LinkIx) (s : State) : State :=
  if !s.linksRun then s
  else
    match s.takeLk l.val 2 with
    | none => s
    | some (p, s) =>
      s.modLink l.val fun k =>
        { k with credits := k.credits.zipIdx.map fun (v, i) => v + fieldAt p.body (2 * i) 2, credGot := true }.activate

def execDataFlit (l : LinkIx) (b : Bytes) (s : State) : Out := .next (dataFlit l b s)
def execIdleFlit (l : LinkIx) (b : Bytes) (s : State) : Out := .next (idleFlit l b s)
def execTrainFlit (l : LinkIx) (b : Bytes) (s : State) : Out := .next (trainFlit l b s)
def execDetect (l : LinkIx) (s : State) : Out := .next (detect l s)
def execIdent (l : LinkIx) (s : State) : Out := .next (ident l s)
def execCredit (l : LinkIx) (s : State) : Out := .next (credit l s)
def execFlitTransmit (l : LinkIx) (s : State) : Out := .next (flitTransmit l s)
def execIdentInterval (l : LinkIx) (s : State) : Out := .next (identInterval l s)

end Sys2Proof.Machine
end

