-- ==== Sys2Proof/Machine/Faults.lean ====
section
/-! DEFINITION. Failed host accesses (R384), orphaned rings (R391), the recovery ladder (R433-R437) and the checks that climb it (R424-R427). -/

namespace Sys2Proof.Machine

/-! ### Host accesses that end without their data -/

/-- The log entry of a failed host access: host address and item (R384). -/
def State.hostFaultLog (s : State) (a : HostAcc) : State :=
  let ring := match a.why with
    | .fence r _ => r
    | .atomic r _ => r
    | .entry r => r
    | .setup r _ => r
    | .record r _ _ _ => r
    | _ => match s.instOf a.item.inst with
      | some i => i.ring
      | none => a.fn
  s.report (lgPort a.port) [] eHostFault ring a.addr a.item.word.toNat

/-- A host access ends with `HOST_FAULT` (R384), or, its ring or port gone, with `PORT_LOST` (R391). An
XFER counts the Crumbs before the one that failed. -/
def State.accLost (s : State) (a : HostAcc) (fault : Bool) : State :=
  let s := s.dropAcc a.id
  let s := if fault then s.hostFaultLog a else s
  let flag (c : Nat) (s : State) : State :=
    if fault then s.modCore c fun k => k.modRunOf a.item fun r => { r with hostFault := true } else s
  let rs := if fault then rsHostFault else rsPortLost
  match a.why with
  | .posted => s
  | .record r _ _ slot => s.freeSlot (s.ringPort r) slot
  | .entry r => if fault then s.entryFailed r else s
  | .setup r pos => s.completeWith r pos (if fault then stHostFault else stPortLost)
  | .hld c d => flag c (s.modCore c fun k => k.setS d (BitVec.allOnes 64))
  | .hst c => (flag c s).tryEnd c
  | .xfer c id =>
    match s.reqOf c id with
    | none => s
    | some q =>
      -- what lies before the failed address still goes on
      let s := s.dropAccs fun x => x.why == .xfer c id && decide (a.addr ≤ x.addr)
      (s.modReq c id fun q => { q with served := true, status := rs, count := (a.addr - (XferDesc.parse q.block).addr) / 32 }).settleReq c q.id
  | .fence r pos => s.modRing r fun g => { g with live := updWhere (fun e => e.pos == pos) (fun e => { e with reads := e.reads - 1 }) g.live }
  | .atomic r pos => s.completeWith r pos (if fault then stHostFault else stPortLost)
  | .stream st g _ => s.endGen st g (if fault then stHostFault else stPortLost)
  | .tierH c id =>
    let s := s.modProg (c, id) fun p => { p with err := if p.err = 0 then rs else p.err }
    if c < 128 then s.modReq c id fun q => if q.served ∧ q.status = 0 then { q with status := rs, count := 0 } else q
    else if c < 8192 then s.modRemote (c - 128) id fun r => if r.served ∧ r.status = 0 then { r with status := rs, count := 0 } else r
    else if 16384 ≤ c ∧ c < 2 ^ 30 then s.modMove (c, id) fun m => { m with copied := false }
    else s

/-! ### What comes from the hosts -/

/-- Class of the item of an access, where it is express. -/
def State.accExpress (s : State) (a : HostAcc) : Bool := match s.itemOf a.item with
  | some x => x.cls == .express
  | none => false

/-- Crumbs of a transfer from the host reach local store. -/
def State.xferData (s : State) (c id : Nat) (d : Bytes) : State :=
  match s.reqOf c id with
  | none => s
  | some q =>
    let s := s.lsWrite c ((XferDesc.parse q.block).ls + 32 * q.moved) d
    s.modReq c id fun q => { q with moved := q.moved + d.length / 32 }

/-- What an access reads has come whole. -/
def State.accDone (s : State) (a : HostAcc) (d : Bytes) : State :=
  let s := s.dropAcc a.id
  match a.why with
  | .hld c r => (s.hostFill a.port (s.accExpress a) a.addr d).modCore c fun k => k.setS r (BitVec.ofNat 64 (leNat d))
  | .xfer c id =>
    match s.reqOf c id with
    | none => s
    | some q => ((s.hostFill a.port (s.accExpress a) a.addr d).xferData c id d).xferIn c id ((XferDesc.parse q.block).crumbs + 1)
  | .stream st g i => (s.hostFill a.port (streamExpress st) a.addr d).deliver st g i d false
  | .fence r pos => s.modRing r fun g => { g with live := updWhere (fun e => e.pos == pos) (fun e => { e with reads := e.reads - 1 }) g.live }
  | .atomic r pos => s.complete r pos { status := stOk, r0 := BitVec.ofNat 64 (leNat d) }
  | .tierH c id => s.modProg (c, id) fun p => { p with parts := p.parts ++ [⟨.host a.port a.addr a.len, d, false, 0⟩] }
  | .posted => s
  | .record _ _ _ _ => s
  | .entry _ => s
  | .setup _ _ => s
  | .hst _ => s

/-- The answer to a read of a ring's entry or of a set-up structure comes with the command of its own that takes it. -/
def AccWhy.ownAnswer : AccWhy → Bool
  | .entry _ => true
  | .setup _ _ => true
  | _ => false

/-- A read or atomic that was sent is answered: with its data, or with its failure (R383, R384). -/
def State.hostAnswer (s : State) (a : HostAcc) (ans : HostAns) : State :=
  match hostWhole ans a.len with
  | some d => s.accDone a d
  | none =>
    match a.why with
    | .xfer c id =>
      let n := ans.data.length / 32 * 32
      (s.xferData c id (ans.data.take n)).accLost { a with addr := a.addr + n } true
    | _ => s.accLost a true

def PortIn.port : PortIn → Nat
  | .read p _ _ => p
  | .write p _ _ => p
  | .answer p _ _ => p
  | .cmd p _ => p
  | .doe p _ => p

/-- Traffic of a host waits: behind earlier traffic of its port, for the port's hub, or for the unit it addresses
(R433, R434). An access kept as its command waits for the end of the restart that it met. -/
def State.portWaits (s : State) (x : PortIn) : Bool :=
  let unit (a : Nat) : Bool := match windowOf a with
    | some (u, _) => !s.unitUp u
    | none => false
  s.portIn.any (fun y => y.port == x.port) || !s.fnUp 3 x.port || (s.unitSt ⟨6, x.port⟩).reinit ||
    match x with
    | .read _ a _ => unit a
    | .write _ a _ => unit a
    | .answer _ _ _ => false
    | .cmd _ _ => true
    | .doe _ _ => true

/-- Traffic of a host is carried out. -/
def State.servePort (s : State) : PortIn → State
  | .read p a n => match s.reach p a n with
    | some (k, _) =>
      let r := s.memRead false k a n
      r.2.emit (.readData p r.1.1 r.1.2)
    | none => s.emit (.readData p (List.replicate n 0xFF#8) false)
  | .write p a d => match s.reach p a d.length with
    | some (k, _) => s.memWrite (some (128 + p)) false k a d
    | none => s
  | .answer _ acc ans => match s.accOf acc with
    | some a => s.hostAnswer a ans
    | none => s
  | .cmd _ _ => s
  | .doe _ _ => s

/-- Traffic that waited goes on where it can, in the order of each port. -/
def State.servePorts (s : State) : State :=
  s.portIn.foldl (fun s x => if s.portWaits x then { s with portIn := s.portIn ++ [x] } else s.servePort x) { s with portIn := [] }

/-- Fences whose reads have all been answered complete (R388). -/
def State.settleFenceReads (s : State) : State :=
  s.rings.foldl (fun s x => ((s.ring x.1).live.filter fun e => e.begun && fieldAt e.entry 0 1 == 1 && e.reads == 0).foldl
    (fun (s : State) (e : Live) => s.completeWith x.1 e.pos stOk) s) s

/-- After an access has ended: held writes move on, and the work that waited. -/
def State.goOn (s : State) : State :=
  (([0, 1].foldl State.issuePages s.servePorts.pump.tellReleased).settleInvals.settleFenceReads.progress).settle

/-! ### Orphaned rings (R390-R393) -/

/-! Events of an `ORPHAN` entry; the spec gives no code for them (PRESUMED, log entry 9). -/
def orDlDown := 1
def orHotReset := 2
def orPerst := 3
def orFlrPf := 4
def orFlrVf := 5
def orLost := 6

/-- Items of orphaned instances that have not started end `ORPHANED`. -/
def State.endUnstarted (s : State) : State :=
  (s.insts.flatMap fun i => (i.items.zipIdx.filter fun x => i.orphaned && (x.1.st == .waiting || x.1.st == .ready)).map
    fun x => (⟨i.num, x.2⟩ : ItemId)).foldl (fun s id => s.endItem id itOrphaned 0) s

/-- The rings of some functions of a port become ORPHANED, and their work is dropped or ends (R391). -/
def State.orphanRings (s : State) (p : Nat) (fns : Nat → Bool) : State :=
  let hit (r : Nat) : Bool := s.ringPort r == p && fns (s.ringFn r)
  let s := { s with
    rings := (List.range 4096).filterMap fun r =>
      let g := s.ring r
      let left := g.live.map fun (e : Live) => { e with orphaned := true }
      let g := if hit r then { g with st := .orphaned, head := none, pending := 0, live := left } else g
      if g = ({} : Ring) then none else some (r, g)
    insts := updWhere (fun i => hit i.ring) (fun i => { i with orphaned := true }) s.insts }
  let s := s.endUnstarted
  let s := (s.accs.filter fun a => a.port == p && fns a.fn).foldl (fun s a => s.accLost a false) s
  let s := ((List.range 512).filter fun n => s.streamPort n == p).foldl State.seek s
  s.settle.restoreAll

/-- Every ring of a port becomes ORPHANED: host lines leave the die cache, the port enters RECOVERY, and
the other port records the event (R391). -/
def State.orphanPort (s : State) (p event : Nat) : State :=
  let s := (s.orphanRings p fun _ => true).dropHostLines p
  let s := { s with portIn := s.portIn.filter fun x => x.port != p }
  let s := s.modPort p fun x => { x with phase := .recovery }
  let s := (s.report (lgPort p) [] eOrphan 0 0 event).report (lgPort (1 - p)) [] eOrphan 0 0 event
  s.goOn

/-! ### The ladder -/

/-- The log of a unit and its `unit` field (Table 14-3). Tiers have no log of their own: their entries of
rung 2 go to the device log. -/
def State.fnLog (s : State) (u : FnUnit) : Nat × Nat :=
  match u.fn.val with
  | 0 => (lgPort (s.ringPort u.unit), u.unit)
  | 1 => (lgCluster u.unit, 128 + u.unit)
  | 2 => (lgSifter u.unit, u.unit % 8)
  | 3 => (lgHub u.unit, 0)
  | 5 => (lgLinks, u.unit)
  | 6 => (lgPort u.unit, 0)
  | _ => (lgDevice, u.fn.val)

/-- A failed item of a LOST cluster's work finds no core any more: it ends `ABORTED` (R436). -/
def State.abortStranded (s : State) : State :=
  (s.readyQ.filter fun id => match s.instOf id.inst, s.itemOf id with
    | some i, some x => !s.hasCore i.port x.cls x.rcd.pin
    | _, _ => false).foldl (fun s id => s.endItem id itAborted 0) s

/-- The runs of a core end `RETRY`, which counts as no machine check of their items (R434); one that already drains to
a retry for a machine check keeps its count. -/
def Run.restarted (r : Run) : Run :=
  if r.fault.isSome || r.retry then r else { r with retry := true, uncounted := true, stall := some (.ending 0) }

def State.retryCore (s : State) (c : Nat) : State :=
  let s := s.modCore c fun k =>
    { k with held := none, run := k.run.map Run.restarted, saved := k.saved.map fun v => { v with run := v.run.restarted },
             tagLower := none, tagExpress := none, passes := [], trees := [], logLower := none, logExpress := none }
  let s := if (s.core c).run.isNone then s.restore c else s
  s.tryEnd c

/-- A generation set back to its arm (R434). -/
def Gen.again (g : Gen) : Gen :=
  { g with delivered := 0, requested := 0, consumed := 0, arrived := [], asked := [], entry := 0, within := 0 }

/-- The generations of a stream when its cluster restarts, or, lost, ends (R434, R436): ring-armed ones end
`ABORTED`; item-armed ones are armed again, or end as well. -/
def State.stopStream (s : State) (lost : Bool) (n : Nat) : State :=
  let t := s.strm n
  let ends (g : Gen) : Bool := g.ended.isNone && (lost || g.src.isRing)
  let gone := t.gens.filter ends ++ t.waiting.filter ends
  if t = {} then s
  else
    let s := s.setStrm n
      { gens := (t.gens.filter fun g => !ends g).map fun g => if g.ended.isNone then g.again else g
        waiting := t.waiting.filter fun g => !ends g
        status := if gone.isEmpty then t.status else stAborted }
    let s := s.dropAccs fun a => match a.why with
      | .stream m _ _ => m == n
      | _ => false
    gone.foldl (fun s g => s.genReport g.src stAborted) s

/-- What rung 2 of a cluster, or its loss, does to its cores, streams and cache slice (R434). -/
def State.stopCluster (s : State) (lost : Bool) (cl : Nat) : State :=
  let s := (rangeFrom (64 * cl) 64).foldl (fun s n => s.stopStream lost n) s
  let s := (rangeFrom (16 * cl) 16).foldl State.retryCore s
  let mine (y : CacheLine) : Bool := (lineSet y.space y.line).1 == cl
  let kept := (s.cache.filter fun (y : CacheLine) => y.space == 0 || !mine y).map fun (y : CacheLine) =>
    if mine y then { y with dirty := false } else y
  State.settle { s with cache := kept }

/-- The dirty lines of a slice whose SRAM failed are written back, those that cannot be corrected as poison (R434): which
they are the spec leaves to the event, so a free value says (DESIGN CHOICE, log entry 2). -/
def State.poisonDirty (s : State) (cl : Nat) : State :=
  (s.cache.filter fun y => y.space == 0 && y.dirty && (lineSet y.space y.line).1 == cl).foldl (fun s y =>
    let r := s.free
    if r.1.getLsbD 0 then (rangeFrom (4 * y.line) 4).foldl (fun s c => s.poisonAt (32 * c)) r.2 else r.2) s

/-- A ring reads nothing further: an entry read under way is dropped (R397). -/
def State.dropEntry (s : State) (r : Nat) : State := s.dropAccs fun a => a.why == .entry r

/-- A ring goes DRAINING, then IDLE (Table 14-6, R397). -/
def State.drainRing (s : State) (r : Nat) : State :=
  let g := s.ring r
  if g.st = .active ∨ g.st = .stopped then
    ((s.dropEntry r).modRing r fun g => { g with st := .draining, head := none, rereads := 0 }).ringDrained r
  else s

/-- A link restarts (R332): phases 1, 3 and 4, keeping its replay buffer and credits. -/
def State.restartLink (s : State) (l : Nat) : State :=
  s.modLink l fun k => { k.enter 1 s.ticks with st := .reinit, retried := false, resending := false, resendCount := 0 }

/-- A unit is LOST until rung 3 (R435, R436). -/
def State.lose (s : State) (u : FnUnit) (code : Nat) : State :=
  let s := s.setUnitSt u { s.unitSt u with lost := true, reinit := false }
  let s := { s with heldEvents := s.heldEvents.filter fun e => unitKey e.unit != unitKey u }
  let s := s.logEvent lgDevice [0, 1] eFunctionLost cLost 0 0 7 (BitVec.ofNat 64 (u.fn.val + u.unit * 2 ^ 16)) (BitVec.ofNat 64 code)
  let s := match u.fn.val with
    | 0 => s.drainRing u.unit
    | 1 => ((s.stopCluster true u.unit).abortStranded).settle.restoreAll
    | 3 =>
      let s := (rangeFrom (18 * u.unit) 18).foldl (fun (s : State) (l : Nat) => s.linkGone l .lost) s
      (s.modPort u.unit fun x => { x with linkUp := false }).orphanPort u.unit orLost
    | 4 => s.moves.foldl (fun s m => s.abandonMove m stAborted) s
    | 5 => s.linkGone u.unit .lost
    | 6 => (s.modPort u.unit fun x => { x with linkUp := false }).orphanPort u.unit orLost
    | _ => s
  s.goOn

/-- Rung 2 of a unit (R433, R434): a third one within the climb window makes it LOST (R435). A ring has
drained, and a link restarts, by steps of their own. -/
def State.reinit (s : State) (u : FnUnit) (code : Nat) : State :=
  let st := s.unitSt u
  let recent := st.rung2.filter fun t => decide (s.ticks < t + s.climbWindow u.fn.val)
  if st.reinit || st.lost then s
  else if 2 ≤ recent.length then s.lose u code
  else
    let own := u.fn.val = 0 || u.fn.val = 5
    let s := s.setUnitSt u { st with reinit := !own, rung2 := recent ++ [s.ticks], climbs := [], code := code }
    match u.fn.val with
    | 0 => s.drainRing u.unit
    | 1 => (if code = eSramUncorrected then s.poisonDirty u.unit else s).stopCluster false u.unit
    | 4 => s.moves.foldl (fun s m => s.abandonMove m stAborted) s
    | 5 => s.restartLink u.unit
    | 6 => s.modPort u.unit fun x => { x with phase := .recovery, atc := [] }
    | _ => s

/-- A unit reaches a rung (R433, R437): it is logged, and taken, or held for software's answer. Rung 1 of
every function is the work's own repeat. -/
def State.climb (s : State) (u : FnUnit) (k : Nat) (ports : List Nat) (code rung unit : Nat) (info0 info1 : Word) : State :=
  if (s.unitSt u).lost then s
  else if s.assisted u.fn.val then
    let s := s.holdEvent u k ports code rung unit info0 info1
    if u.fn = 5 then s.modLink u.unit fun l => { l with st := .held } else s
  else
    let s := s.logEvent k ports code (if rung = 1 then cRecovered else cReinit) rung 0 unit info0 info1
    if rung = 2 then s.reinit u code else s

/-- Counts an event toward the climb of a unit: the state, and whether the threshold is reached within the
climb window (Table 14-6). -/
def State.countClimb (s : State) (u : FnUnit) : State × Bool :=
  let st := s.unitSt u
  let recent := (st.climbs.filter fun t => decide (s.ticks < t + s.climbWindow u.fn.val)) ++ [s.ticks]
  let most := decide (s.climbCount u.fn.val ≤ recent.length)
  (s.setUnitSt u { st with climbs := if most then [] else recent }, most)

/-! ### Failed checks -/

/-- A machine check that is not consumed poison (R233, R283): the run ends `RETRY`, the second of an item
`FAULTED`; enough of them on one core within the climb window climb to rung 2 of the cluster. -/
def State.machineCheckAt (s : State) (c code cls engine : Nat) (info0 info1 : Word) : State :=
  match s.issuing c with
  | none => s
  | some r =>
    let insn := (s.core c).fetched
    let again := s.checkedBefore r
    let recent := ((s.core c).checks.filter fun t => decide (s.ticks < t + s.climbWindow 1)) ++ [s.ticks]
    let most := decide (s.climbCount 1 ≤ recent.length)
    let s := s.modCore c fun k => { k with checks := if most then [] else recent }
    if s.assisted 1 then
      let s := (s.logEvent (lgCluster (c / 16)) [r.port] code cls 1 1 c info0 info1).raise c xMachineCheck engine insn
      if most then s.climb ⟨1, c / 16⟩ (lgCluster (c / 16)) [0, 1] code 2 (128 + c / 16) info0 info1 else s
    else
      let s := s.logEvent (lgCluster (c / 16)) [r.port] code cls 1 0 c info0 info1
      let s := if again then s.raise c xMachineCheck engine insn
        else s.raiseRetry c xMachineCheck engine insn
      if most then s.climb ⟨1, c / 16⟩ (lgCluster (c / 16)) [0, 1] code 2 (128 + c / 16) info0 info1 else s

/-- MACHINE_CHECK: a residue mismatch in an engine of the core, or poison that an engine consumes (R429). -/
def machineCheck (c : CoreIx) (engine : BitVec 8) (poisonAt : Option Nat) (s : State) : State :=
  match s.issuing c.val with
  | none => s
  | some _ =>
    match poisonAt with
    | some a => s.consumePoison c.val engine.toNat (s.core c.val).fetched a
    | none =>
      s.machineCheckAt c.val eResidue cRecovered engine.toNat (BitVec.ofNat 64 engine.toNat) (s.core c.val).fetched

/-- RESIDUE (R424) of a Sifter, hub or NU datapath: the operation is redone, at rung 1; a Sifter climbs
after enough of them (Table 14-6). -/
def residue (u : FnUnit) (engine operation : BitVec 64) (s : State) : State :=
  let g := s.fnLog u
  if !s.running || (s.unitSt u).lost then s
  else if u.fn = 1 ∧ u.unit < 8 then s.climb u g.1 [0, 1] eResidue 1 g.2 engine operation
  else if u.fn = 2 ∧ u.unit < 10 then
    let q := s.countClimb u
    q.1.climb u g.1 [0, 1] eResidue (if q.2 then 2 else 1) g.2 engine operation
  else s

/-- Poisons the n-th contribution that the stores of a Sifter hold. -/
def poisonContrib (sf : Nat) : Nat → List Window → List Window
  | _, [] => []
  | n, w :: r =>
    let mine := w.contribs.filter fun x => x.sf == sf
    if n < mine.length then
      { w with contribs := (w.contribs.foldl (fun (a : List Contrib × Nat) x =>
          (a.1 ++ [if x.sf = sf ∧ a.2 = n then { x with poisoned := true } else x], if x.sf = sf then a.2 + 1 else a.2)) ([], 0)).1 } :: r
    else w :: poisonContrib sf (n - mine.length) r

/-- SRAM_UNCORRECTED (Table 14-1, R427). -/
def sramUncorrected (p : SramPlace) (syndrome : BitVec 64) (s : State) : State :=
  if !s.running then s
  else
    match p with
    | .coreWord c a =>
      let s := if a < 0x300000 then
          s.modCore c.val fun k => if k.lsPoison.contains (a / 8) then k else { k with lsPoison := k.lsPoison ++ [a / 8] }
        else s
      s.machineCheckAt c.val eSramUncorrected cPoisoned enIssue (BitVec.ofNat 64 a) syndrome
    | .coreTile c n =>
      (s.modCore c.val fun k => { k with trees := k.trees.map fun t =>
        if t.tile ≤ n.val ∧ n.val < t.tile + t.tag.tiles then { t with poisoned := true } else t }).machineCheckAt c.val eSramUncorrected cPoisoned
          enIssue (BitVec.ofNat 64 n.val) syndrome
    | .coreSlot c n =>
      (s.modCore c.val fun k => { k with trees := k.trees.map fun t =>
        if t.tag.wslot ≤ n.val ∧ n.val < t.tag.wslot + t.tag.slots then { t with poisoned := true } else t }).machineCheckAt c.val eSramUncorrected
          cPoisoned enIssue (BitVec.ofNat 64 n.val) syndrome
    | .coreSide c n =>
      (s.modCore c.val fun k => if k.sidePoison.contains n.val then k else { k with sidePoison := k.sidePoison ++ [n.val] }).machineCheckAt c.val
        eSramUncorrected cPoisoned enIssue (BitVec.ofNat 64 n.val) syndrome
    -- the registers of a run end with it (R205)
    | .coreReg c n => s.machineCheckAt c.val eSramUncorrected cPoisoned enIssue (BitVec.ofNat 64 n) syndrome
    | .function u =>
      let g := s.fnLog u
      s.climb u g.1 [0, 1] eSramUncorrected 2 g.2 (BitVec.ofNat 64 u.unit) syndrome
    | .sifterStore sf a =>
      ({ s with windows := poisonContrib sf.val a s.windows }).logEvent (lgSifter sf.val) [0, 1] eSramUncorrected cPoisoned 0 0 (sf.val % 8)
        (BitVec.ofNat 64 a) syndrome

/-- An uncorrectable error poisons the unit at an address, with an entry of class POISONED (R427); a unit
that is already poisoned only counts a read. -/
def State.poisonUnit (s : State) (a u code unit : Nat) (info0 info1 : Word) : State :=
  if s.unitGone u then s
  else if s.poisoned a 1 then s.poisonRead (memLog u)
  else (s.poisonAt a).logEvent (memLog u) [0, 1] code cPoisoned 0 0 unit info0 info1

/-- The `unit` field of an event of tier 1: one of the 12 packages of the hub. The spec gives no map from
addresses to packages (DESIGN CHOICE, log entry 2). -/
def State.package (s : State) : Nat × State := ((s.free.1.toNat) % 12, s.free.2)
/-- One of the 8 flash channels of a hub, likewise. -/
def State.flashChannel (s : State) : Nat × State := (32 + (s.free.1.toNat) % 8, s.free.2)

/-- PATROL (R426) of tiers 0 and 1. -/
def patrol (a : Nat) (good : Bool) (s : State) : State :=
  match s.locate a with
  | some (u, _) =>
    if !s.running || !s.unitUp u || good then s
    else if u < 8 then s.poisonUnit a u eCrumbCheck u (BitVec.ofNat 64 a) 2
    else if u < 10 then
      let q := s.package
      let f := q.2.free
      f.2.poisonUnit a u eLpddrInline q.1 (BitVec.ofNat 64 a) f.1
    else s
  | none => s

/-- CRUMB_CHECK_FAIL (R425): one re-fetch for each failure, at most 2, at rung 1; then poison. -/
def crumbCheckFail (a : Nat) (fails : Fin 3) (s : State) : State :=
  match s.locate a with
  | some (u, _) =>
    if !s.running || decide (8 ≤ u) || s.unitGone u then s
    else if fails = 2 || s.poisoned a 1 then s.poisonUnit a u eCrumbCheck u (BitVec.ofNat 64 a) 2
    else s.climb ⟨2, u⟩ (lgSifter u) [0, 1] eCrumbCheck 1 u (BitVec.ofNat 64 a) (BitVec.ofNat 64 (fails.val + 1))
  | none => s

/-- FLASH_READ_FAIL (R315): re-reads with shifted thresholds, at most 8, at rung 1; then poison. -/
def flashReadFail (a : Nat) (fails : Fin 9) (s : State) : State :=
  match s.locate a with
  | some (u, o) =>
    if !s.running || decide (u < 10 ∨ 12 ≤ u) || s.unitGone u then s
    else
      let q := s.flashChannel
      if fails.val = 8 || q.2.poisoned a 1 then q.2.poisonUnit (a / 4096 * 4096) u eFlashRead q.1 (BitVec.ofNat 64 (o / 4096)) 8
      else q.2.climb ⟨3, u % 2⟩ (lgHub (u % 2)) [0, 1] eFlashRead 1 q.1 (BitVec.ofNat 64 (o / 4096)) (BitVec.ofNat 64 (fails.val + 1))
  | none => s

/-- INLINE_ECC_ERROR (Table 14-1): 0 a link retry, at rung 1; 1 corrected; 2 poison. -/
def inlineEccError (a : Nat) (kind : Fin 3) (syndrome : BitVec 64) (s : State) : State :=
  match s.locate a with
  | some (u, _) =>
    if !s.running || decide (u < 8 ∨ 10 ≤ u) || s.unitGone u then s
    else
      let q := s.package
      if kind = 0 then q.2.climb ⟨3, u % 2⟩ (lgHub (u % 2)) [0, 1] eLpddrLink 1 q.1 (BitVec.ofNat 64 a) 1
      else if kind = 1 then q.2.logEvent (lgHub (u % 2)) [0, 1] eLpddrInline cCorrected 0 0 q.1 (BitVec.ofNat 64 a) syndrome
      else q.2.poisonUnit a u eLpddrInline q.1 (BitVec.ofNat 64 a) syndrome
  | none => s

/-- BRIDGE_CRC_FAIL: the transfer is replayed; 16 replays of one transfer climb to rung 2 (Table 14-6). -/
def bridgeCrcFail (h : Fin 2) (transfer : BitVec 64) (s : State) : State :=
  let u : FnUnit := ⟨3, h.val⟩
  if !s.running || (s.unitSt u).lost then s
  else
    let st := s.unitSt u
    let same := st.climbs.filter fun t => t == transfer.toNat
    let n := same.length + 1
    let most := decide (s.climbCount 3 ≤ n)
    (s.setUnitSt u { st with climbs := if most then [] else same ++ [transfer.toNat] }).climb u (lgHub h.val) [0, 1] eBridge
      (if most then 2 else 1) 0 transfer (BitVec.ofNat 64 n)

/-- PLL_LOCK_LOSS: `CLOCK`, and rung 2 of the function whose clock it was (R455, Table 14-6). -/
def pllLockLoss (u : FnUnit) (lockStatus : BitVec 64) (s : State) : State :=
  if !s.running || u.fn = 0 || u.fn = 4 || u.fn = 7 then s
  else s.climb u lgDevice [0, 1] eClock 2 u.fn.val (BitVec.ofNat 64 (u.fn.val + u.unit * 2 ^ 16)) lockStatus

/-- LINK_REINIT (R332): one flit resent 8 times without acknowledgement, or no advance of `ack` for 20 µs
with flits waiting. The cause in `info1`: 1 resends, 2 time (PRESUMED, log entry 9). -/
def linkReinit (l : LinkIx) (s : State) : State :=
  let k := s.link l.val
  let resent := decide (s.climbCount 5 ≤ k.resendCount)
  if !s.linksRun || k.st != .active || !(resent || (!k.replay.isEmpty && decide (k.lastAckAt + 2000 ≤ s.ticks))) then s
  else s.climb ⟨5, l.val⟩ lgLinks [0, 1] eLinkReinit 2 l.val (BitVec.ofNat 64 l.val) (if resent then 1 else 2)

/-- LINK_PHASE_TIMEOUT: phase 1 again, once; then DOWN (R330). A link that has ended phase 4 waits for this end's lock, and in
phase 5 for the other's, whose first `IDENT` ends it or keeps it there (R331; DEDUCED, log entry 42); one that has never come up
waits in phase 1 for a cable (R497). -/
def linkPhaseTimeout (l : LinkIx) (s : State) : State :=
  let k := s.link l.val
  if !s.linksRun || k.phase == 0 || k.phase == 5 || (k.phase == 4 && k.goodFlits == 64) || (k.phase == 1 && k.st == .training && !s.cabled l.val) || !decide (k.since + phaseLimit k.phase < s.ticks) then s
  else if k.retried then (if k.st = .reinit then s.lose ⟨5, l⟩ eLinkReinit else s.linkGone l.val .down)
  else s.setLink l.val { k.afresh.enter 1 s.ticks with retried := true, localConverged := false, peerConverged := false }

/-- MOVE_COMPLETE (R307). A copy that fails is restarted, at rung 1; the fourth failure of one move
restarts the epoch machinery (Table 14-6). -/
def moveComplete (e : EntryRef) (s : State) : State :=
  match s.moves.find? (fun m => m.entry == e) with
  | none => s
  | some m =>
    let unit := ((m.old.unit).getD 0)
    let lg := lgSifter (unitSifter unit)
    if !s.running || m.copied || !s.fnUp 4 0 then s
    else if m.prog.err ≠ 0 then
      if s.progWaits (whoMove e) then s
      else if s.climbCount 4 ≤ m.fails + 1 then
        s.climb ⟨4, 0⟩ lg [m.port] eMove 2 (unit % 8) (BitVec.ofNat 64 e.index) (BitVec.ofNat 64 m.prog.err)
      else
        (s.modMove (whoMove e) fun m => { m with prog := {}, fails := m.fails + 1 }).climb ⟨4, 0⟩ lg [m.port] eMove 1 (unit % 8)
          (BitVec.ofNat 64 e.index) (BitVec.ofNat 64 m.prog.err)
    else
      s.runJob (whoMove e) m.port noItem (JM.copyBlock m) (fun _ _ => []) fun s x =>
        match x with
        | none => s.abandonMove m stBadDescriptor
        | some bad => (s.modMove (whoMove e) fun m => { m with copied := true, bad := bad }).settleMoves

/-- FLASH_WRITE_COMPLETE (R316): the hub switches the oldest page it has programmed; every waiter of the
switch goes on. A page of which only a part was new keeps its mark (R427, log entry 73). -/
def flashWriteComplete (h : Fin 2) (s : State) : State :=
  match s.flashWrites.find? (fun w => w.hub == h.val) with
  | none => s
  | some w =>
    if !s.running || !s.fnUp 3 h.val then s
    else
      let t := ({ s with flashWrites := s.flashWrites.erase w }).dwrite (4096 * w.page) w.data
      (if !w.whole && s.poisoned (4096 * w.page) 1 then t.poisonAt (4096 * w.page) else t).progress.settle

/-- STREAM_STORE_RUN_EXPIRE (R323): the tracker that expects a line is free. -/
def streamStoreRunExpire (src : Fin 130) (line : Nat) (s : State) : State :=
  if s.running then { s with trackers := s.trackers.filter fun t => !(t.src == src.val && t.next == line) } else s

def execMachineCheck (c : CoreIx) (engine : BitVec 8) (poisonAt : Option Nat) (s : State) : Out := .next (machineCheck c engine poisonAt s)
def execResidue (u : FnUnit) (engine operation : BitVec 64) (s : State) : Out := .next (residue u engine operation s)
def execSramUncorrected (p : SramPlace) (syndrome : BitVec 64) (s : State) : Out := .next (sramUncorrected p syndrome s)
def execPatrol (addr : Nat) (good : Bool) (s : State) : Out := .next (patrol addr good s)
def execCrumbCheckFail (addr : Nat) (fails : Fin 3) (s : State) : Out := .next (crumbCheckFail addr fails s)
def execFlashReadFail (addr : Nat) (fails : Fin 9) (s : State) : Out := .next (flashReadFail addr fails s)
def execFlashWriteComplete (hub : Fin 2) (s : State) : Out := .next (flashWriteComplete hub s)
def execInlineEccError (addr : Nat) (kind : Fin 3) (syndrome : BitVec 64) (s : State) : Out := .next (inlineEccError addr kind syndrome s)
def execBridgeCrcFail (hub : Fin 2) (transfer : BitVec 64) (s : State) : Out := .next (bridgeCrcFail hub transfer s)
def execPllLockLoss (u : FnUnit) (lockStatus : BitVec 64) (s : State) : Out := .next (pllLockLoss u lockStatus s)
def execLinkReinit (l : LinkIx) (s : State) : Out := .next (linkReinit l s)
def execLinkPhaseTimeout (l : LinkIx) (s : State) : Out := .next (linkPhaseTimeout l s)
def execMoveComplete (e : EntryRef) (s : State) : Out := .next (moveComplete e s)
def execStreamStoreRunExpire (src : Fin 130) (line : Nat) (s : State) : Out := .next (streamStoreRunExpire src line s)

end Sys2Proof.Machine
end

