-- ==== Sys2Proof/Machine/Rings.lean ====
section
/-! DEFINITION. Rings (R395-R404): doorbells, enable and disable, the reading and accepting of descriptors, and the watchdog. -/

namespace Sys2Proof.Machine

/-! ### Access from a host -/

/-- A port's transaction logic is held in reset for a restart, while its link stays up (R456). -/
def State.portRests (s : State) (p : Nat) : Bool := (s.unitSt ⟨6, p⟩).reinit

/-- A port's traffic to the die waits: for the port or for its hub (R433, R434). -/
def State.dieRests (s : State) (p : Nat) : Bool := s.portRests p || s.stopped 3 p

/-- An access of a host is carried out, or waits for a restart to end. -/
def State.access (s : State) (rests : Bool) (p : Nat) (x : PortIn) (act : State → State) : State :=
  if rests && s.awake && !s.mgmt.halted && (s.port p).linkUp then { s with portIn := s.portIn ++ [x] } else act s

/-- An access to a BAR, and one to the configuration space of a port. -/
def State.atBar (s : State) (p : PortIx) (i : Instr) (act : State → State) : State := s.access (s.dieRests p.val) p.val (.cmd p.val i) act
def State.atCfg (s : State) (p : PortIx) (i : Instr) (act : State → State) : State := s.access (s.portRests p.val) p.val (.cmd p.val i) act


/-- A function of a port is reached through its link: the port is released (R452), up, and neither halted nor
LOST; the function is in D0 (R365), and a VF is enabled. -/
def State.fnOpen (s : State) (p fn : Nat) : Bool :=
  s.awake && !s.mgmt.halted && (s.port p).released && (s.port p).linkUp && !(s.fnc p fn).d3 && !s.dieRests p
    && !s.unitLost 6 p && !s.unitLost 3 p && (fn == 0 || ((s.port p).vfEnable && decide (fn ≤ (s.port p).numVFs)))

/-- BAR2 and BAR4 decode, which they do not in RECOVERY (R453). -/
def State.barOpen (s : State) (p fn : Nat) : Bool := s.fnOpen p fn && s.boot.outcome != 2

/-- Doorbell page i of a VF: the i-th page assigned to it, for the eight pages of its BAR2 (R370). -/
def State.vfPage (s : State) (p v i : Nat) : Option Nat :=
  if i < 8 then (((List.range 64).filter fun g => bitAt (s.vfWord p v 0) g)[i]?) else none

/-- The ring of a doorbell slot, where its page is owned (R370). -/
def State.doorRing (s : State) (a : DoorAddr) : Option Nat :=
  let page := if a.fn.val = 0 then some a.page.val else s.vfPage a.port.val a.fn.val a.page.val
  match page with
  | some g => if s.ringPort (64 * g + a.slot.val) = a.port.val then some (64 * g + a.slot.val) else none
  | none => none

/-- Offset of a doorbell slot in its BAR2. -/
def doorOff (a : DoorAddr) : Nat := 4096 * a.page.val + 64 * a.slot.val

/-- A doorbell fault: the ring becomes STOPPED and reads nothing further (R399). -/
def State.stopRing (s : State) (r p off : Nat) : State :=
  ((s.dropEntry r).modRing r fun g => { g with st := .stopped, head := none, rereads := 0 }).ringAccess p r off accDoorbell

/-- A doorbell write of a register of a slot: dropped where its page is not owned (R370) or its size is
wrong (R398). -/
def State.doorbell (s : State) (a : DoorAddr) (off : Nat) (act : State → Nat → State) : State :=
  let p := a.port.val
  if !s.barOpen p a.fn.val then s
  else
    let s := if a.fn.val = 0 then s.dropLatch p else s
    match s.doorRing a with
    | none => s.ringAccess p (64 * a.page.val + a.slot.val) (doorOff a + off) accUnowned
    | some r => if a.size ≠ 4 then s.ringAccess p r (doorOff a + off) accSize else act s r

/-- SQ_TAIL (R398, R399). -/
def sqTail (a : DoorAddr) (v : BitVec 32) (s : State) : State :=
  s.doorbell a 0 fun s r =>
    let g := s.ring r
    if g.st ≠ .active then s.ringAccess a.port.val r (doorOff a) accIgnored
    else if 2 ^ 31 ≤ (v - g.sqTail).toNat ∨ 2 ^ g.sqLog2 < (v - g.sqHead).toNat then s.stopRing r a.port.val (doorOff a)
    else s.modRing r fun g => { g with sqTail := v, halfSeen := g.halfSeen && v == g.sqTail }

/-- CQ_HEAD (R399): dropped, as every doorbell write is that comes after a disable or a fault (R397). -/
def cqHead (a : DoorAddr) (v : BitVec 32) (s : State) : State :=
  s.doorbell a 8 fun s r =>
    let g := s.ring r
    if g.st ≠ .active then s.ringAccess a.port.val r (doorOff a + 8) accIgnored
    else if (g.cqTail - g.cqHead).toNat < (v - g.cqHead).toNat then s.stopRing r a.port.val (doorOff a + 8)
    else s.modRing r fun g => { g with cqHead := v }

/-! ### Enable and disable -/

/-- A function reaches the set-up window of a ring: the PF of the port that claims it (R471), or the VF it is
assigned to (R473). -/
def State.ringReached (s : State) (p fn r : Nat) : Bool := s.ringPort r == p && (fn == 0 || s.ringFn r == fn)

/-- No instance created from an orphaned ring of the port remains, nor an accepted descriptor of one that is still
to create its own (R393). -/
def State.quiesced (s : State) (p : Nat) : Bool :=
  !(s.insts.any fun i => i.orphaned && i.port == p) &&
    !s.rings.any fun x => x.2.st == .orphaned && s.ringPort x.1 == p && x.2.live.any fun e => e.num.isSome

/-- The ring uses its timer (R396). -/
def Ring.timed (g : Ring) : Bool := g.irqTicks != 0 || g.watchTicks != 0
/-- The ring is enabled: it holds its timer (R446). -/
def Ring.enabled (g : Ring) : Bool := g.st == .active || g.st == .draining || g.st == .stopped

/-- A timer serves an enabled ring other than r (R396). -/
def State.timerOfRing (s : State) (r t : Nat) : Bool :=
  s.rings.any fun x => x.1 != r && x.2.enabled && x.2.timed && x.2.timer == t

/-- A timer serves another feature of a port: error event moderation or the time mark (Table 14-7). -/
def State.timerOfPort (s : State) (p t : Nat) : Bool :=
  (bitAt (s.preg p 0x2038) 0 && fld (s.preg p 0x2038) 1 10 == t) || (bitAt (s.preg p 0x2028) 3 && fld (s.preg p 0x2028) 6 10 == t)

/-- The parameters of a ring lie in the ranges of Table 13-1. -/
def State.ringInRange (s : State) (r : Nat) : Bool :=
  let g := s.ring r
  decide (4 ≤ g.sqLog2 ∧ g.sqLog2 ≤ 16 ∧ 4 ≤ g.cqLog2 ∧ g.cqLog2 ≤ 16 ∧ fld g.w3.toNat 21 2 ≤ 2 ∧ g.irqCount ≤ 4096 ∧ g.watchTicks ≤ 2 ^ 24) &&
    (s.ringFn r == 0 || decide (g.vector < 16)) && (!g.timed || s.timerPort g.timer == s.ringPort r)

/-- Why an enable is refused (Table 16-18): 4 not locked, 3 not quiesced, 1 range, 2 `CLAIM_CONFLICT`; 0 when
it is accepted. -/
def State.enableRefusal (s : State) (r : Nat) : Nat :=
  let g := s.ring r
  if !s.locked then 4
  else if g.st = .orphaned ∧ !s.quiesced (s.ringPort r) then 3
  else if !s.ringInRange r then 1
  else if g.timed && (s.timerOfRing r g.timer || s.timerOfPort (s.ringPort r) g.timer) then 2
  else 0

/-- A ring just enabled: its parameters, and everything else empty (R393, R397). -/
def Ring.fresh (g : Ring) : Ring :=
  { w0 := g.w0, w1 := g.w1, w2 := g.w2, w3 := g.w3, w4 := g.w4, st := .active,
    epoch := g.epoch + if g.st = .orphaned then 1 else 0 }

/-- Offset of the control word of a ring's set-up window. -/
def ringCtl (r : Nat) : Nat := 0x100000 + 64 * r + 40

/-- An enable of a ring: it becomes ACTIVE, or the refusal is kept (R395, R396). -/
def State.enableRing (s : State) (p r : Nat) : State :=
  let g := s.ring r
  if g.st ≠ .idle ∧ g.st ≠ .orphaned ∨ s.unitLost 0 r then s
  else
    let n := s.enableRefusal r
    if n = 0 then s.setRing r g.fresh
    else
      let s := s.modRing r fun g => { g with refusal := n }
      if n = 2 then s.report lgDevice [] eClaim 7 g.timer p else s

/-- RING_ENABLE (R395, R396, R476). -/
def ringEnable (p : PortIx) (fn : FnIx) (r : RingIx) (s : State) : State :=
  if !s.barOpen p.val fn.val then s
  else
    let s := s.wholeWrite p.val fn.val
    if !s.ringReached p.val fn.val r.val then s.ringAccess p.val r.val (ringCtl r.val) accUnowned
    else s.enableRing p.val r.val

/-- RING_DISABLE (R397). -/
def ringDisable (p : PortIx) (fn : FnIx) (r : RingIx) (s : State) : State :=
  if !s.barOpen p.val fn.val then s
  else
    let s := s.wholeWrite p.val fn.val
    if !s.ringReached p.val fn.val r.val then s.ringAccess p.val r.val (ringCtl r.val) accUnowned
    else s.drainRing r.val

/-! ### Reading (R401, R402) -/

/-- The dispatcher can read the next entry of a ring: there is one, none of it is being read, and its port is up and the
ring not held. -/
def State.readable (s : State) (r : Nat) : Bool :=
  let g := s.ring r
  g.st == .active && g.head.isNone && g.sqTail != g.sqHead && (!g.halfSeen || decide (2 ≤ (g.sqTail - g.sqHead).toNat))
    && (s.port (s.ringPort r)).linkUp && s.fnUp 0 r && !s.accs.any fun a => a.why == .entry r

/-- The ring read next: express before normal before background, in turn within a class (R402). -/
def State.nextRing (s : State) : Option Nat :=
  let ok := (s.rings.filter fun x => s.readable x.1).map (·.1)
  [0, 1, 2].findSome? fun k =>
    let mine := ok.filter fun r => (s.ring r).cls.num == k
    (mine.find? fun r => decide (Tab.get 0 s.ringTurn k < r)).orElse fun _ => mine.head?

/-- Host address of the n-th entry after the last one read. -/
def Ring.entryAddr (g : Ring) (n : Nat) : Nat := g.sqBase + 64 * ((g.sqHead.toNat + n) % 2 ^ g.sqLog2)

/-- A read of an entry goes out, as the ring's function and PASID (R369), and is held and translated as any other
(R366, R378). -/
def State.askEntry (s : State) (r n : Nat) : State :=
  s.hostStart (s.ringPort r) (s.ringFn r) (s.ring r).pasid ((s.ring r).entryAddr n) 64 .read (.entry r) noItem

/-- The host's answer to the read of a ring's next entry: an entry that announces an extension is read only with it
(R401); a read that returns bad data is repeated, at most twice, at rung 1 (Table 14-6). -/
def State.takeEntry (s : State) (r : Nat) (ans : HostAns) : State :=
  let g := s.ring r
  let p := s.ringPort r
  let addr := g.entryAddr 0
  let fault (s : State) : State := s.report (lgPort p) [] eHostFault r addr 0
  if ans.err = some .poisoned ∧ g.rereads < 2 then
    (s.modRing r fun g => { g with rereads := g.rereads + 1 }).climb ⟨0, r⟩ (lgPort p) [] eHostFault 1 r (BitVec.ofNat 64 addr) 0
  else
    match hostWhole ans 64 with
    | none => fault (s.entryFailed r)
    | some b =>
      if !bitAt (fieldAt b 0 8) 8 then s.modRing r fun g => g.take s.ticks 1 b none false
      else if (g.sqTail - g.sqHead).toNat < 2 then s.modRing r fun g => { g with halfSeen := true }
      else
        let s := (s.askEntry r 1).dropEntry r
        match hostWhole ans 128 with
        | some x => s.modRing r fun g => g.take s.ticks 2 b (some (x.drop 64)) false
        | none => fault (s.modRing r fun g => g.take s.ticks 2 b none true)

/-- The ring of an entry read that has been sent. -/
def State.entrySent (s : State) : Option Nat := s.accs.findSome? fun a => match a.why with
  | .entry r => if a.st = .sent then some r else none
  | _ => none

/-- DESCRIPTOR_READ (R402): the answer to a read that has been sent; otherwise the next ring's read goes out, with its
answer where nothing holds it. -/
def descriptorRead (ans : HostAns) (s : State) : State :=
  if !s.running then s
  else
    match s.entrySent with
    | some r => ((s.dropEntry r).settleInvals).takeEntry r ans
    | none =>
      match s.nextRing with
      | none => s
      | some r =>
        let s := { s with ringTurn := Tab.put 0 s.ringTurn (s.ring r).cls.num r }.askEntry r 0
        if s.entrySent = some r then ((s.dropEntry r).settleInvals).takeEntry r ans else s

/-! ### Acceptance (R267, R401-R404) -/

/-- Opcodes marked Yes under "Ring waits" (Table 13-8). -/
def ringWaits (op : Nat) : Bool := [0x01, 0x04, 0x08, 0x0B, 0x0D, 0x18, 0x1D, 0x1E, 0x20, 0x28].contains op

def opcodeKnown (op : Nat) : Bool :=
  decide (op ≤ 0x05) || decide (0x08 ≤ op ∧ op ≤ 0x10) || decide (0x18 ≤ op ∧ op ≤ 0x1E) || decide (0x20 ≤ op ∧ op ≤ 0x23) ||
    decide (0x28 ≤ op ∧ op ≤ 0x2A)

/-- Opcodes that take an extension (Table 13-8). -/
def takesExt (op : Nat) : Bool := op == 0x09 || op == 0x0A || op == 0x0C || op == 0x22

def Live.op (e : Live) : Nat := fieldAt e.entry 0 1

/-- The header of an entry breaks R401, R404 or R410. -/
def Live.headBad (e : Live) : Bool :=
  let h := fieldAt e.entry 0 8
  fld h 11 5 != 0 || fld h 32 32 != 0 || !opcodeKnown e.op || (e.ext.isSome && !takesExt e.op) || (e.op == 0x22 && e.ext.isNone)

/-- WATCHDOG (R400): once, for a descriptor that has waited `watch_ticks` at the head. -/
def watchdog (r : RingIx) (s : State) : State :=
  let g := s.ring r.val
  match g.head with
  | some e =>
    if s.running && g.watchTicks != 0 && !g.watched && decide (e.acceptedAt + g.watchTicks ≤ s.ticks) then
      (s.modRing r.val fun g => { g with watched := true }).report (lgPort (s.ringPort r.val)) [] eWatchdog r.val r.val (e.pos % 2 ^ g.sqLog2)
    else s
  | none => s

def execSqTail (a : DoorAddr) (v : BitVec 32) (s : State) : Out :=
  .next (s.atBar a.port (.sqTail a v) (sqTail a v))
def execCqHead (a : DoorAddr) (v : BitVec 32) (s : State) : Out :=
  .next (s.atBar a.port (.cqHead a v) (cqHead a v))
def execRingEnable (p : PortIx) (fn : FnIx) (r : RingIx) (s : State) : Out :=
  .next (s.atBar p (.ringEnable p fn r) (ringEnable p fn r))
def execRingDisable (p : PortIx) (fn : FnIx) (r : RingIx) (s : State) : Out :=
  .next (s.atBar p (.ringDisable p fn r) (ringDisable p fn r))
def execDescriptorRead (ans : HostAns) (s : State) : Out := .next (descriptorRead ans s)
def execWatchdog (r : RingIx) (s : State) : Out := .next (watchdog r s)

end Sys2Proof.Machine
end

