-- ==== Sys2Proof/Machine/Programs.lean ====
section
/-! DEFINITION. Programs and instances (R265-R269, R286), training steps (R253, R256), services (R414-R423) and the descriptors that answer a held item (R234). -/

namespace Sys2Proof.Machine

/-! ### Records -/

/-- A reference to a sync object: relative or absolute, and its number (Table 09-2). -/
def objRef (w lo : Nat) : Bool × Nat := (bitAt w (lo + 14), fld w lo 14)

/-- An item record (Table 09-2). -/
def ItemRec.parse (b : Bytes) : ItemRec :=
  let w := fieldAt b 0 8
  let v := fieldAt b 8 8
  { entry := fld w 0 18, cls := fld w 18 2, atomic := bitAt w 20, flow := fld w 21 16, group := fld w 37 8
    chainLast := bitAt w 45
    pin := if bitAt w 53 then some (fld w 46 7) else none
    dep := if bitAt v 15 then some (objRef v 0) else none
    done := if bitAt v 31 then some (objRef v 16) else none
    doneN := fld v 32 8
    args := [BitVec.ofNat 64 (fieldAt b 16 8), BitVec.ofNat 64 (fieldAt b 24 8), BitVec.ofNat 64 (fieldAt b 32 8)]
    arm := fieldAt b 40 8 }

/-- A sync object reference of a program of port p with n objects may stand (R266). -/
def State.refOk (s : State) (p n : Nat) (x : Bool × Nat) : Bool := if x.1 then decide (x.2 < n) else s.syncPort x.2 == p

/-- R266: an item record of a program of port p with n objects and an image of len bytes. -/
def State.itemRecOk (s : State) (p n len : Nat) (b : Bytes) : Bool :=
  let r := ItemRec.parse b
  let refs := (r.dep.toList ++ r.done.toList)
  bfld b 0 8 54 10 == 0 && bfld b 8 8 40 24 == 0 && zeroRange b 48 16 && r.entry % 8 == 0 && decide (r.entry < len ∧ r.cls ≤ 2)
    && (r.done.isNone || r.doneN != 0) && refs.all (s.refOk p n)
    && (match r.pin with
      | some c => s.corePort (Cls.ofNum r.cls) c == p
      | none => true)

/-- Address of the sync template, item table and code image of a program record (Table 09-1) lie in the port's
general memory (R300, R375). -/
def State.recordOk (s : State) (p : Nat) (b : Bytes) : Bool :=
  let crumbs := bfld b 8 4 0 12 + 1
  let items := bfld b 12 4 0 16 + 1
  let n := bfld b 32 4 0 13
  fieldAt b 0 8 % 32 == 0 && fieldAt b 16 8 % 64 == 0 && bfld b 8 4 12 20 == 0 && bfld b 12 4 16 16 == 0
    && bfld b 32 4 13 19 == 0 && zeroRange b 36 28 && decide (n ≤ 4096)
    && s.generalOk p (fieldAt b 0 8) (32 * crumbs) && s.generalOk p (fieldAt b 16 8) (64 * items)
    && (n == 0 || s.generalOk p (fieldAt b 24 8) (4 * n))

/-- Reads a program record and its item table, checked by R266; none where it may not be loaded. -/
def State.readProgram (s : State) (p a : Nat) : Option Program :=
  if !s.generalOk p a 64 then none
  else
    let b := (s.dread a 64).1
    if !s.recordOk p b then none
    else
      let crumbs := bfld b 8 4 0 12 + 1
      let n := bfld b 32 4 0 13
      let recs := (List.range (bfld b 12 4 0 16 + 1)).map fun i => (s.dread (fieldAt b 16 8 + 64 * i) 64).1
      if recs.all (s.itemRecOk p n (32 * crumbs)) then
        some { code := fieldAt b 0 8, crumbs := crumbs, syncTmpl := fieldAt b 24 8, syncCount := n, items := recs.map ItemRec.parse }
      else none

/-- A core forgets the image of a program (R266). -/
def Core.dropTag (k : Core) (tag : Nat) : Core :=
  { k with tagLower := k.tagLower.filter (· != tag), tagExpress := k.tagExpress.filter (· != tag) }

/-- An instance of a program is live, or accepted and not created yet. -/
def State.programLive (s : State) (p n : Nat) : Bool :=
  (s.insts.any fun i => i.port == p && i.program == n && i.opcode != 0x22) ||
    s.rings.any fun x => s.ringPort x.1 == p && x.2.live.any fun e => e.items != 0 && (e.op == 0x09 || e.op == 0x0A) && bfld e.entry 8 4 0 11 == n

/-- A service of the port is bound to the program. -/
def State.programBound (s : State) (p n : Nat) : Bool := (List.range 16).any fun k => match s.svc p k with
  | some v => v.program == n
  | none => false

/-- PROGRAM_LOAD (R266). -/
def programLoad (r : RingIx) (pos : Nat) (s : State) : State :=
  match s.descOf r.val pos 0x08 with
  | none => s
  | some x =>
    let p := s.ringPort r.val
    let n := bfld x.entry 8 4 0 11
    let a := fieldAt x.entry 16 8
    if unnamed x.entry [(64, 11), (128, 64)] then s.completeWith r.val pos stBadDescriptor
    else if s.programLive p n || s.programBound p n then s.completeWith r.val pos stClaimConflict
    else
      match s.readProgram p a with
      | none => s.completeWith r.val pos stBadDescriptor
      | some g =>
        let x := (s.ring r.val).cls == .express
        let s := ((s.cacheRead x a 64).cacheRead x (fieldAt (s.dread a 64).1 16 8) (64 * g.items.length)).setProg p n (some g)
        ((List.range 128).foldl (fun s c => s.modCore c fun k => k.dropTag (codeTag p n)) s).completeWith r.val pos stOk

/-! ### Instances -/

/-- What a descriptor fixes of its instance. -/
structure Create where
  program : Nat
  /-- The class that R22 sets, above that of the item records. -/
  cls : Option Cls := none
  word : Word := 0
  result2 : Word := 0
  report : Nat := 0
  budget : Nat := 0
  service : Option (Nat × Nat) := none
  versions : List (Nat × Bool) := []
  train : List (Nat × Nat) := []
  /-- Extension that replaces arguments (R404). -/
  ext : Option Bytes := none
deriving DecidableEq, Repr

/-- The arguments of an item, replaced where the extension says so (R404). -/
def argsOf (ext : Option Bytes) (l : List Word) : List Word :=
  match ext with
  | none => l
  | some b => l.zipIdx.map fun x => if bitAt (fieldAt b 24 1) x.2 then BitVec.ofNat 64 (fieldAt b (8 * x.2) 8) else x.1

/-- An extension of a `LAUNCH` or `TRAIN_STEP` sets a reserved bit (R404). -/
def extBad (ext : Option Bytes) : Bool := match ext with
  | some b => bfld b 24 8 3 61 != 0 || !zeroRange b 32 32
  | none => false

/-- An item of a new instance. -/
def newItem (cls : Cls) (args : List Word) (depInit : Nat) (r : ItemRec) : Item :=
  { rcd := { r with args := args }, cls := cls, st := .waiting, preShift := 0, checked := 0, suppress := [], fault := none, evs := [],
    sat := false, hostFault := false, counts := (0, 0), rerun := false, heldDecs := [], depInit := depInit, avoid := none,
    holdsFlow := false }

/-- The reservations of a descriptor go over to its instance. -/
def State.handOver (s : State) (r pos : Nat) : State :=
  s.modRing r fun g =>
    { g with live := updWhere (fun e => e.pos == pos) (fun e => { e with begun := true, base := 0, syncs := 0, items := 0, versions := [] }) g.live }

/-- The objects of a run take their initial counts from the template (R268). -/
def State.setTemplate (s : State) (express : Bool) (base : Nat) (g : Program) : State :=
  let s := if g.syncCount = 0 then s else s.cacheRead express g.syncTmpl (4 * g.syncCount)
  (List.range g.syncCount).foldl (fun s k => s.syncSetTo (base + k) (leNat (s.dread (g.syncTmpl + 4 * k) 4).1)) s

/-- Arms the stream of an item at the creation of its instance (R287, Table 09-2). -/
def State.armItem (s : State) (p num base : Nat) (k : Nat) (x : Item) : State :=
  if x.rcd.arm = 0 then s
  else if s.generalOk p x.rcd.arm 32 then
    (s.cacheRead (x.cls == .express) x.rcd.arm 32).armBytes p (x.cls == .express) (s.dread x.rcd.arm 32).1 (.item num k) base
  else (s.ringAccess p ((s.instOf num).elim 0 (·.ring)) x.rcd.arm accRange).genReport (.item num k) stBadDescriptor

/-- Creates the instance of an accepted descriptor (R267, R268): its objects, its items, its arms; the items
then take their readiness (R272), or end unrun where its ring has become ORPHANED meanwhile (R391). -/
def State.createInst (s : State) (r pos : Nat) (e : Live) (num : Nat) (c : Create) (g : Program) : State :=
  let p := s.ringPort r
  let s := s.setTemplate ((s.ring r).cls == .express) e.base g
  let obj (x : Bool × Nat) : Nat := if x.1 then (e.base + x.2) % 16384 else x.2
  let items := g.items.map fun x =>
    newItem (c.cls.getD (Cls.ofNum x.cls)) (argsOf c.ext x.args) ((x.dep.map fun d => (s.sync (obj d)).count.toNat).getD 0) x
  let i : Inst :=
    { num := num, port := p, fn := s.ringFn r, ring := r, pos := pos, opcode := e.op, program := c.program, base := e.base,
      syncCount := g.syncCount, word := c.word, items := items, result2 := c.result2, report := c.report,
      acceptedAt := e.acceptedAt, budget := c.budget, service := c.service, versions := c.versions, armStatus := [],
      counted := false, train := c.train, orphaned := e.orphaned }
  let s := { s with insts := insInst i s.insts }.handOver r pos
  (if e.orphaned then s else items.zipIdx.foldl (fun s x => s.armItem p num e.base x.2 x.1) s).settle

/-- A `LAUNCH` sets a bit it does not name, or names a misaligned report (R13, R404, R410). -/
def launchBad (x : Live) : Bool :=
  unnamed x.entry [(64, 11), (128, 64), (192, 64)] || extBad x.ext || decide (fieldAt x.entry 24 8 % 64 ≠ 0)

/-- LAUNCH (R406). -/
def launch (r : RingIx) (pos : Nat) (s : State) : State :=
  match s.descOf r.val pos 0x09 with
  | none => s
  | some x =>
    let n := bfld x.entry 8 4 0 11
    let w := BitVec.ofNat 64 (fieldAt x.entry 16 8)
    let rep := fieldAt x.entry 24 8
    match x.num, s.prog (s.ringPort r.val) n with
    | some num, some g =>
      if launchBad x then s.completeWith r.val pos stBadDescriptor
      else s.createInst r.val pos x num { program := n, word := w, result2 := w, report := rep, ext := x.ext } g
    | _, _ => s.completeWith r.val pos stBadDescriptor

/-! ### Training steps -/

/-- The `ready` object of the slot that step n writes, from a version record (Table 08-4, R256); none where the
record may not be named (R253). -/
def State.versionRec (s : State) (r step a : Nat) : Option (Nat × Nat) :=
  let p := s.ringPort r
  if !s.generalOk p a 64 then none
  else
    let b := (s.dread a 64).1
    let w := fieldAt b 0 8
    let v := fieldAt b 56 8
    let objs := [fld v 0 14, fld v 14 14, fld v 28 14, fld v 42 14]
    if fld w 36 28 ≠ 0 ∨ bfld b 8 8 40 24 ≠ 0 ∨ fld v 56 8 ≠ 0 ∨ fld w 32 3 = 0 ∨ fld w 32 3 = 7 ∨ (bitAt w 35 ∧ fld w 32 3 = 1)
        ∨ !(objs.all fun o => s.owns p (s.ringFn r) .sync o) then none
    else some (fld v (14 * ((step + 1) % 2)) 14, a)

/-- The version records that an array names, in its order; none where one of them may not be named. -/
def State.versionRecs (s : State) (r step a n : Nat) : Option (List (Nat × Nat)) :=
  if s.generalOk (s.ringPort r) a (8 * n) then
    (List.range n).mapM fun i => s.versionRec r step (leNat (s.dread (a + 8 * i) 8).1)
  else none

/-- The reads of the version records that an array names, and of the array (R320). -/
def State.readVersions (s : State) (express : Bool) (a : Nat) (l : List (Nat × Nat)) : State :=
  l.foldl (fun (s : State) (v : Nat × Nat) => s.cacheRead express v.2 64) (s.cacheRead express a (8 * l.length))

/-- A `TRAIN_STEP` sets a bit it does not name, or breaks the ranges of R253. -/
def trainBad (x : Live) : Bool :=
  let nver := bfld x.entry 40 4 0 13
  unnamed x.entry [(64, 11), (128, 64), (192, 64), (256, 64), (320, 13), (336, 1), (384, 40)] || extBad x.ext ||
    decide (fieldAt x.entry 24 8 % 64 ≠ 0 ∨ nver = 0 ∨ 4096 < nver)

/-- The version records that a `TRAIN_STEP` names. -/
def State.trainRecs (s : State) (r : Nat) (x : Live) : Option (List (Nat × Nat)) :=
  s.versionRecs r (bfld x.entry 48 8 0 40) (fieldAt x.entry 32 8) (bfld x.entry 40 4 0 13)

/-- TRAIN_STEP (R253, R256): the items take their readiness, then each `ready` object named is set to 1;
of a step whose ring is ORPHANED no item runs, and none is set. -/
def trainStep (r : RingIx) (pos : Nat) (s : State) : State :=
  match s.descOf r.val pos 0x0A with
  | none => s
  | some x =>
    let n := bfld x.entry 8 4 0 11
    let w := BitVec.ofNat 64 (fieldAt x.entry 16 8)
    let rep := fieldAt x.entry 24 8
    let step := bfld x.entry 48 8 0 40
    match x.num, s.prog (s.ringPort r.val) n, s.trainRecs r.val x with
    | some num, some g, some l =>
      if trainBad x then s.completeWith r.val pos stBadDescriptor
      else
        let cls := if bitAt (fieldAt x.entry 40 4) 16 then Cls.express else Cls.normal
        let s := (s.readVersions ((s.ring r.val).cls == .express) (fieldAt x.entry 32 8) l).createInst r.val pos x num
          { program := n, cls := some cls, word := w, result2 := BitVec.ofNat 64 step, report := rep, train := l, ext := x.ext } g
        if x.orphaned then s else l.foldl (fun (s : State) (v : Nat × Nat) => s.syncSetTo v.1 1) s
    | _, _, _ => s.completeWith r.val pos stBadDescriptor

/-! ### Services -/

/-- The body of a `SERVICE_BIND` breaks R410 or R414. -/
def State.bindBad (s : State) (r : Nat) (b : Bytes) : Bool :=
  let p := s.ringPort r
  let slots := bfld b 24 4 0 13
  let nt := bfld b 28 4 0 4
  unnamed b [(64, 4), (80, 1), (96, 11), (128, 64), (192, 13), (224, 4), (256, 128)] ||
    decide (slots = 0 ∨ 4096 < slots ∨ 8 < nt ∨ fieldAt b 16 8 % 128 ≠ 0) || !s.generalOk p (fieldAt b 16 8) (128 * slots) ||
    (s.prog p (bfld b 12 4 0 11)).isNone || !((List.range nt).all fun k => s.owns p (s.ringFn r) .table (fieldAt b (32 + 2 * k) 2))

/-- Cores on which an image may be preloaded: those claimed for express in clusters that are not LOST. -/
def State.expressCores (s : State) (p : Nat) : List Nat :=
  (List.range 128).filter fun c => s.corePort .express c == p && !(s.unitSt ⟨1, c / 16⟩).lost

/-- An express item runs on the core: its image stays. -/
def Core.expressBusy (k : Core) : Bool := match k.run with
  | some r => r.cls == .express
  | none => false

/-- SERVICE_BIND (R414): a `preload` waits for the express items that run on the port's cores. -/
def serviceBind (r : RingIx) (pos : Nat) (s : State) : State :=
  match s.descOf r.val pos 0x0B with
  | none => s
  | some x =>
    let b := x.entry
    let p := s.ringPort r.val
    let n := bfld b 8 4 0 4
    let g := bfld b 12 4 0 11
    let pre := bitAt (fieldAt b 8 4) 16
    if s.bindBad r.val b then s.completeWith r.val pos stBadDescriptor
    else if (s.svc p n).isSome then s.completeWith r.val pos stClaimConflict
    else if pre && (s.expressCores p).any fun c => (s.core c).expressBusy then s
    else
      let v : Service := { program := g, area := fieldAt b 16 8, slots := bfld b 24 4 0 13,
                           tables := (List.range (bfld b 28 4 0 4)).map fun k => fieldAt b (32 + 2 * k) 2,
                           used := [], unbinding := false }
      let s := s.setSvc p n (some v)
      let s := if pre then (s.expressCores p).foldl (fun s c =>
          if (s.core c).tagExpress = some (codeTag p g) then s else s.loadCode c p g true) s else s
      s.completeWith r.val pos stOk

/-- SERVICE_REQUEST (R416): the slot is written, and the express instance created with the versions of its acceptance. -/
def serviceRequest (r : RingIx) (pos : Nat) (s : State) : State :=
  match s.descOf r.val pos 0x0C with
  | none => s
  | some x =>
    let p := s.ringPort r.val
    let n := bfld x.entry 8 4 0 4
    match s.svc p n with
    | none => s.completeWith r.val pos stBadDescriptor
    | some v =>
      match s.prog p v.program with
      | none => s.completeWith r.val pos stBadDescriptor
      | some g =>
        match x.num with
        | none => s.completeWith r.val pos stBadDescriptor
        | some num =>
          let s := s.generalWrite none true (v.area + 128 * x.slot) (x.entry ++ x.ext.getD (List.replicate 64 0#8))
          s.createInst r.val pos x num
            { program := v.program, cls := some .express, word := BitVec.ofNat 64 (x.slot * 2 ^ 14 + n * 2 ^ 26),
              result2 := BitVec.ofNat 64 (fieldAt x.entry 56 8), budget := fieldAt x.entry 52 4, service := some (n, x.slot),
              versions := x.versions } g

/-- SERVICE_UNBIND (R420): no further request is accepted at once; it completes, and the id is free, once no
instance of the service is live. -/
def serviceUnbind (r : RingIx) (pos : Nat) (s : State) : State :=
  match s.descOf r.val pos 0x0D with
  | none => s
  | some x =>
    let p := s.ringPort r.val
    let n := bfld x.entry 8 4 0 4
    if unnamed x.entry [(64, 4)] then s.completeWith r.val pos stBadDescriptor
    else
      match s.svc p n with
      | none => s.completeWith r.val pos stBadDescriptor
      | some v =>
        if v.used.isEmpty then (s.setSvc p n none).completeWith r.val pos stOk
        else s.setSvc p n (some { v with unbinding := true })

/-! ### Held items (R234) -/

/-- The core that holds the item a descriptor of a ring names, with its fault record. -/
def State.heldItem (s : State) (r item : Nat) : Option (Nat × FaultRec) :=
  (List.range 128).findSome? fun c =>
    match (s.core c).held, (s.core c).run with
    | some f, some q =>
      if f.item.word.toNat = item ∧ q.port = s.ringPort r ∧ (s.ringFn r = 0 ∨ q.fn = s.ringFn r) then some (c, f) else none
    | _, _ => none

/-- ITEM_RESUME: only after `INT_SAT`; the tile keeps its clamped value and the item goes on behind the instruction. -/
def itemResume (r : RingIx) (pos : Nat) (s : State) : State :=
  match s.descOf r.val pos 0x0E with
  | none => s
  | some x =>
    match s.heldItem r.val (bfld x.entry 8 8 0 48) with
    | some (c, f) =>
      if unnamed x.entry [(64, 48)] || f.code != xIntSat then s.completeWith r.val pos stBadDescriptor
      else
        let s := s.modCore c fun k =>
          { k with held := none, run := k.run.map fun q => { q with sat := true } }
        (s.adv c).completeWith r.val pos stOk
    | none => s.completeWith r.val pos stBadDescriptor

/-- ITEM_ABORT: the held item ends as R231 does. -/
def itemAbort (r : RingIx) (pos : Nat) (s : State) : State :=
  match s.descOf r.val pos 0x0F with
  | none => s
  | some x =>
    match s.heldItem r.val (bfld x.entry 8 8 0 48) with
    | some (c, f) =>
      if unnamed x.entry [(64, 48)] then s.completeWith r.val pos stBadDescriptor
      else
        let s := s.modCore c fun k =>
          { k with held := none, run := k.run.map fun q => { q with fault := some f, stall := some (.ending 0) } }
        (s.completeWith r.val pos stOk).tryEnd c
    | none => s.completeWith r.val pos stBadDescriptor

/-- STREAM_ARM (R295): completes when its generation ends. -/
def streamArm (r : RingIx) (pos : Nat) (s : State) : State :=
  match s.descOf r.val pos 0x10 with
  | none => s
  | some x =>
    let s := s.begin r.val pos
    if unnamed x.entry [(64, 256)] then s.completeWith r.val pos stBadDescriptor
    else s.armBytes (s.ringPort r.val) ((s.ring r.val).cls == .express) (slice x.entry 8 32) (.ring r.val pos) 0

def execProgramLoad (r : RingIx) (pos : Nat) (s : State) : Out := .next (programLoad r pos s)
def execLaunch (r : RingIx) (pos : Nat) (s : State) : Out := .next (launch r pos s)
def execTrainStep (r : RingIx) (pos : Nat) (s : State) : Out := .next (trainStep r pos s)
def execServiceBind (r : RingIx) (pos : Nat) (s : State) : Out := .next (serviceBind r pos s)
def execServiceRequest (r : RingIx) (pos : Nat) (s : State) : Out := .next (serviceRequest r pos s)
def execServiceUnbind (r : RingIx) (pos : Nat) (s : State) : Out := .next (serviceUnbind r pos s)
def execItemResume (r : RingIx) (pos : Nat) (s : State) : Out := .next (itemResume r pos s)
def execItemAbort (r : RingIx) (pos : Nat) (s : State) : Out := .next (itemAbort r pos s)
def execStreamArm (r : RingIx) (pos : Nat) (s : State) : Out := .next (streamArm r pos s)

end Sys2Proof.Machine
end

