-- ==== Sys2Proof/Machine/Objects.lean ====
section
/-! DEFINITION. Descriptors on sync objects, host memory, tables and graphs (R388, R385, R377, R271, R67, R97-R100, R105, R135, R141). -/

namespace Sys2Proof.Machine

/-! ### Plain descriptors -/

/-- NOP: completes at once. -/
def descNop (r : RingIx) (pos : Nat) (s : State) : State :=
  match s.descOf r.val pos 0x00 with
  | none => s
  | some x => s.completeWith r.val pos (if unnamed x.entry [] then stBadDescriptor else stOk)

/-- The functions of a port whose writes a FENCE covers: the PF, its enabled VFs, and those that writes still wait for.
One that may issue no request keeps its read held (R366). -/
def State.fenceFns (s : State) (p : Nat) : List (Nat × Nat) :=
  if !(s.port p).linkUp then []
  else ((List.range 128).filter fun f =>
    f == 0 || ((s.port p).vfEnable && decide (f ≤ (s.port p).numVFs)) || s.accs.any fun a => a.port == p && a.fn == f && a.kind.posted).map
      fun f => (p, f)

/-- FENCE (R388): once every earlier descriptor of the ring has completed, a zero-length read for each function. -/
def descFence (r : RingIx) (pos : Nat) (s : State) : State :=
  match s.descOf r.val pos 0x01 with
  | none => s
  | some x =>
    let g := s.ring r.val
    let p := s.ringPort r.val
    if unnamed x.entry [(64, 1)] then s.completeWith r.val pos stBadDescriptor
    else if (g.live.head?.map (·.pos)) ≠ some pos then s
    else
      let fns := s.fenceFns p ++ if bitAt (fieldAt x.entry 8 8) 0 then s.fenceFns (1 - p) else []
      let s := s.modRing r.val fun g =>
        { g with live := updWhere (fun e => e.pos == pos) (fun e => { e with begun := true, reads := fns.length }) g.live }
      let s := fns.foldl (fun (s : State) (f : Nat × Nat) =>
        s.hostStart f.1 f.2 (if f.1 = p ∧ f.2 = s.ringFn r.val then g.pasid else none) g.cqBase 0 .fenceRead (.fence r.val pos) noItem) s
      s.goOn

/-- FLUSH (R385): every host line of the port leaves the die cache. -/
def flush (r : RingIx) (pos : Nat) (s : State) : State :=
  match s.descOf r.val pos 0x02 with
  | none => s
  | some x =>
    if unnamed x.entry [] then s.completeWith r.val pos stBadDescriptor
    else (s.dropHostLines (s.ringPort r.val)).completeWith r.val pos stOk

/-- HOST_ATOMIC (R377). -/
def hostAtomic (r : RingIx) (pos : Nat) (s : State) : State :=
  match s.descOf r.val pos 0x03 with
  | none => s
  | some x =>
    let p := s.ringPort r.val
    let w := fieldAt x.entry 32 8
    let wide := bitAt w 1
    let n := if wide then 8 else 4
    let a := fieldAt x.entry 8 8
    if unnamed x.entry [(64, 64), (128, 64), (192, 64), (256, 2)] || !(s.fnc p (s.ringFn r.val)).atomicEn || decide (a % n ≠ 0) then
      s.completeWith r.val pos stBadDescriptor
    else if s.hostGone r.val then s.completeWith r.val pos stPortLost
    else
      (s.begin r.val pos).hostStart p (s.ringFn r.val) (s.ring r.val).pasid a n
        (.atomic (bitAt w 0) wide (BitVec.ofNat 64 (fieldAt x.entry 16 8)) (BitVec.ofNat 64 (fieldAt x.entry 24 8))) (.atomic r.val pos) noItem

/-- SYNC_SET (R271). -/
def syncSet (r : RingIx) (pos : Nat) (s : State) : State :=
  match s.descOf r.val pos 0x04 with
  | none => s
  | some x =>
    let o := bfld x.entry 8 4 0 14
    if unnamed x.entry [(64, 14), (96, 32)] || !s.owns (s.ringPort r.val) (s.ringFn r.val) .sync o then s.completeWith r.val pos stBadDescriptor
    else ((s.syncSetTo o (fieldAt x.entry 12 4)).completeWith r.val pos stOk).settle

/-- TICKS: the counter of R18 when executed. -/
def ticks (r : RingIx) (pos : Nat) (s : State) : State :=
  match s.descOf r.val pos 0x05 with
  | none => s
  | some x =>
    if unnamed x.entry [] then s.completeWith r.val pos stBadDescriptor
    else s.complete r.val pos { status := stOk, r0 := BitVec.ofNat 64 s.ticks }

/-! ### Tables -/

/-- A table descriptor (Table 03-2). -/
def Table.parse (b : Bytes) : Table :=
  let w := fieldAt b 0 8
  let v := fieldAt b 8 8
  { id := fld w 0 16, len := fld w 16 10 + 1, opt := fld w 26 2, mom32 := bitAt w 28, frozen := bitAt w 29, shared := bitAt w 30
    port := fld w 31 1, eps := fld w 32 32, rows := if fld v 0 40 = 0 then 2 ^ 40 else fld v 0 40, scope := fld v 40 2
    narrowest := fld v 42 2, versioned := bitAt v 44, active := false
    dir0 := fieldAt b 16 8, dir1 := fieldAt b 24 8, def0 := fieldAt b 32 8, def1 := fieldAt b 40 8
    beta1 := fieldAt b 48 4, beta1c := fieldAt b 52 4, beta2 := fieldAt b 56 4, beta2c := fieldAt b 60 4 }

/-- A version of a table may be set up (R67): its directory in general memory, its default row in the Sifter region
of a tier 0 stack, neither of them of the other port (R26). -/
def State.versionOk (s : State) (t : Table) (v : Bool) : Bool :=
  t.dir v != 0 && t.dflt v != 0 && t.dir v % 32 == 0 && t.dflt v % 32 == 0 && s.generalOk t.port (t.dir v) (16 * ceilDiv t.rows 16) &&
    (match s.kindOf (t.dflt v) (t.recLen 0) with
      | some (.sifter, u, o) => decide (u < 8) && !s.otherPool t.port u o (t.recLen 0)
      | _ => false)

/-- R67: a table descriptor may be set up from a ring. -/
def State.tableOk (s : State) (r : Nat) (b : Bytes) : Bool :=
  let t := Table.parse b
  bfld b 8 8 46 18 == 0 && t.scope != 3 && t.narrowest != 3 && !(t.versioned && t.scope == 2)
    && s.owns (s.ringPort r) (s.ringFn r) .table t.id && t.port == s.ringPort r && decide (t.recLen 0 ≤ 8192)
    && s.versionOk t false && (if t.versioned then s.versionOk t true else t.dir1 == 0 && t.def1 == 0)

/-- TABLE_SETUP (R67). -/
def tableSetup (r : RingIx) (pos : Nat) (ans : HostAns) (s : State) : State :=
  match s.descAny r.val pos 0x18 with
  | none => s
  | some x =>
    let a := fieldAt x.entry 8 8
    if unnamed x.entry [(64, 64)] || decide (a % 64 ≠ 0) then s.completeWith r.val pos stBadDescriptor
    else
      s.setupRead r.val pos a ans fun s b =>
        let t := Table.parse b
        if !s.tableOk r.val b then s.completeWith r.val pos stBadDescriptor
        else if (s.tableOf t.id).isSome then s.completeWith r.val pos stClaimConflict
        else (s.setTable t.id (some t)).completeWith r.val pos stOk

/-- The table and version that an outstanding request of a core reads or writes. -/
def LsuReq.holdsTable (q : LsuReq) : Option Nat :=
  match q.kind with
  | .sift => some (SiftBlk.parse q.block).table
  | .nu => if (NuBlk.parse q.block).op = opAggregate then some (NuBlk.parse q.block).table else none
  | .xfer => none
  | .pairst => none
  | .pass => none

/-- Something here holds a table: a request, a window, a recorded version of a service instance, or a move; of one
version, or of either. -/
def State.tableHeld (s : State) (id : Nat) (v : Option Bool) : Bool :=
  let ver (x : Bool) : Bool := v.isNone || v == some x
  (s.cores.any fun c => c.2.lsu.any fun q => q.holdsTable == some id && ver q.version) ||
    (s.remotes.any fun q => q.kind == 1 && (SiftBlk.parse (slice q.body 8 64)).table == id && ver (bitAt (fieldAt q.body 0 8) 0)) ||
    (s.rings.any fun g => g.2.live.any fun e => e.versions.any fun x => x.1 == id && ver x.2) ||
    (s.windows.any fun w => w.table == id && !w.closed && ver w.version) ||
    (s.insts.any fun i => i.versions.any fun x => x.1 == id && ver x.2) ||
    s.moves.any fun m => m.entry.kind == 0 && m.entry.id.toNat == id && ver m.entry.version

/-- A table or graph opcode names its object in [15:0] or [11:0] of bytes 8-11. -/
def tableId (x : Live) : Nat := fieldAt x.entry 8 2
def graphId (x : Live) : Nat := bfld x.entry 8 4 0 12

/-- TABLE_SWITCH (R97, R99): in the order of acceptance with other switches of the table (R412). -/
def tableSwitch (r : RingIx) (pos : Nat) (s : State) : State :=
  match s.descOf r.val pos 0x19 with
  | none => s
  | some x =>
    let id := tableId x
    let st := s.descTable r.val id
    if unnamed x.entry [(64, 16)] then s.completeWith r.val pos stBadDescriptor
    else if st ≠ 0 then s.completeWith r.val pos st
    else if !((s.tableOf id).map (·.versioned)).getD false then s.completeWith r.val pos stBadDescriptor
    else if s.earlierNames 0x19 x tableId then s
    else
      let s := s.begin r.val pos
      let sw : Switch := { ring := r.val, pos := pos, table := id, version := false, waiting := [], refused := false }
      State.startSwitches { s with switches := s.switches ++ [sw] } id (s.switches.length + 1)

/-- Other devices of a scope have no more use of what is given up: the spec gives no message that says so, so a free
value says when (DESIGN CHOICE, log entry 44). -/
def State.othersDone (s : State) (scope : Nat) : Bool × State :=
  if (s.scopeOthers scope).isEmpty then (true, s) else (s.free.1.getLsbD 0, s.free.2)

/-- TABLE_RETIRE (R100): outstanding until no request of the scope holds the inactive version. -/
def tableRetire (r : RingIx) (pos : Nat) (s : State) : State :=
  match s.descAny r.val pos 0x1A with
  | none => s
  | some x =>
    let id := tableId x
    let st := s.descTable r.val id
    if unnamed x.entry [(64, 16)] then s.completeWith r.val pos stBadDescriptor
    else if st ≠ 0 then s.completeWith r.val pos st
    else
      match s.tableOf id with
      | some t =>
        if !t.versioned then s.completeWith r.val pos stBadDescriptor
        else
          let s := s.begin r.val pos
          if s.tableHeld id (some !t.active) then s
          else
            let q := s.othersDone t.scope
            if q.1 then q.2.completeWith r.val pos stOk else q.2
      | none => s.completeWith r.val pos stTableInvalid

/-- TABLE_FREE: once nothing holds the table, its id is free. -/
def tableFree (r : RingIx) (pos : Nat) (s : State) : State :=
  match s.descOf r.val pos 0x1B with
  | none => s
  | some x =>
    let id := tableId x
    let st := s.descTable r.val id
    if unnamed x.entry [(64, 16)] then s.completeWith r.val pos stBadDescriptor
    else if st ≠ 0 then s.completeWith r.val pos st
    else if s.tableHeld id none || s.switches.any (fun w => w.table == id) then s
    else ({ s.setTable id none with windows := s.windows.filter fun w => w.table != id }).completeWith r.val pos stOk

/-! ### Graphs -/

/-- A graph descriptor (Table 04-1). -/
def Graph.parse (b : Bytes) : Graph :=
  let w := fieldAt b 0 8
  { id := fld w 0 12, form := fld w 12 2, scope := fld w 14 2, shared := bitAt w 16, port := fld w 17 1, planes := fld w 18 2
    vertices := bfld b 8 8 0 40, vdir := fieldAt b 16 8, ndir := fieldAt b 24 8, pdir := fieldAt b 32 8
    nsplit := bfld b 40 8 0 48, nsize := bfld b 48 8 0 48 }

/-- R105: a graph descriptor may be set up from a ring. -/
def State.graphOk (s : State) (r : Nat) (b : Bytes) : Bool :=
  let g := Graph.parse b
  bfld b 0 8 20 44 == 0 && bfld b 8 8 40 24 == 0 && bfld b 40 8 48 16 == 0 && bfld b 48 8 48 16 == 0 && zeroRange b 56 8
    && decide (g.form < 2) && g.scope != 3 && g.planes != 3 && s.owns (s.ringPort r) (s.ringFn r) .graph g.id && g.port == s.ringPort r
    && (g.form == 0 || decide (g.vertices < 2 ^ 32))
    && !s.otherClaim g.port g.vdir (16 * ceilDiv g.vertices 16)
    && !s.otherClaim g.port g.ndir (16 * ceilDiv g.nsize (if g.form = 0 then 512 else 1024))
    && (g.pdir == 0 || !s.otherClaim g.port g.pdir (16 * ceilDiv g.nsize 1024))

/-- GRAPH_SETUP (R105). -/
def graphSetup (r : RingIx) (pos : Nat) (ans : HostAns) (s : State) : State :=
  match s.descAny r.val pos 0x20 with
  | none => s
  | some x =>
    if unnamed x.entry [(64, 64)] then s.completeWith r.val pos stBadDescriptor
    else
      s.setupRead r.val pos (fieldAt x.entry 8 8) ans fun s b =>
        let g := Graph.parse b
        if !s.graphOk r.val b then s.completeWith r.val pos stBadDescriptor
        else if (s.graphOf g.id).isSome then s.completeWith r.val pos stClaimConflict
        else (s.setGraph g.id (some g)).completeWith r.val pos stOk

/-- The NU requests here that use a graph: of cores, and of other devices. -/
def State.graphReqs (s : State) (id : Nat) : List (Nat × Nat) :=
  (s.cores.flatMap fun c => (c.2.lsu.filter fun q => q.kind == .nu && (NuBlk.parse q.block).graph == id).map fun q => (c.1, q.id)) ++
    (s.remotes.filter fun q => q.kind == 2 && fld (fieldAt q.body 8 8) 0 12 == id).map fun q => whoRemote q.dev q.tag

/-- The sweep iteration of a graph under way here, by its number. -/
def State.graphIter (s : State) (id : Nat) : List (Nat × Nat) :=
  match s.sweepOf id with
  | some w => if w.computed then [] else [(2 ^ 40 + w.inst, w.iter)]
  | none => []

/-- GRAPH_DRAIN (R141): completes once what began before it has completed, in the whole scope. -/
def graphDrain (r : RingIx) (pos : Nat) (s : State) : State :=
  match s.descAny r.val pos 0x21 with
  | none => s
  | some x =>
    let id := graphId x
    let st := s.descGraph r.val id
    if unnamed x.entry [(64, 12)] then s.completeWith r.val pos stBadDescriptor
    else if st ≠ 0 then s.completeWith r.val pos st
    else
      let now := s.graphReqs id ++ s.graphIter id
      let left := if x.begun then x.waitsFor.filter now.contains else now
      let s := s.modRing r.val fun g =>
        { g with live := updWhere (fun e => e.pos == pos) (fun e => { e with begun := true, waitsFor := left }) g.live }
      if !left.isEmpty then s
      else
        let q := s.othersDone (((s.graphOf id).map (·.scope)).getD 0)
        if q.1 then q.2.completeWith r.val pos stOk else q.2

/-- The parameters of a sweep (Table 04-10) from the extension; a `spill` of 0 selects the default (R42). -/
def Sweep.parse (b : Bytes) (inst now limit : Nat) : Sweep :=
  let w := fieldAt b 0 8
  { graph := fld w 4 12, inst := inst, kind := fld w 0 4, maxIter := fld w 16 16, startPlane := fld w 32 1, s := (spillOf (fld w 33 4)).getD 0
    a := fieldAt b 8 4, b := fieldAt b 12 4, tol := fieldAt b 16 4, iter := 0, computed := false, delta := 0, prog := {}
    since := now, limit := limit }

/-- The status with which a `SWEEP` is refused: a reserved bit, a range, its graph, or too few planes (R13, R135, R411). -/
def State.sweepRefusal (s : State) (r : Nat) (x : Live) : Option Nat :=
  let b := x.ext.getD []
  let w := Sweep.parse b 0 0 0
  let st := s.descGraph r w.graph
  if unnamed x.entry [] || bfld b 0 8 37 27 ≠ 0 || !zeroRange b 20 44 || decide (2 < w.kind) || w.maxIter == 0 ||
      (w.kind == 0 && decide (w.s < 9 ∨ 12 < w.s)) then some stBadDescriptor
  else if st ≠ 0 then some st
  else if ((s.graphOf w.graph).map (·.planes)).getD 0 < 2 then some stBadDescriptor
  else none

/-- SWEEP (R135): creates the instance of device-supplied background items; it runs after earlier sweeps of the
graph (R139), and not at all where its ring has become ORPHANED meanwhile (R391). -/
def sweep (r : RingIx) (pos : Nat) (s : State) : State :=
  match s.descOf r.val pos 0x22 with
  | none => s
  | some x =>
    let num := x.num.getD 0
    let w := Sweep.parse (x.ext.getD []) num s.ticks s.sweepLimit
    let cores := s.sweepCores (s.ringPort r.val)
    match s.sweepRefusal r.val x with
    | some st => s.completeWith r.val pos st
    | none =>
    if x.num.isNone then s.completeWith r.val pos stGraphInvalid
    else if cores.isEmpty || x.orphaned then s.completeWith r.val pos stAborted
    else if s.earlierNames 0x22 x fun e => fld (fieldAt (e.ext.getD []) 0 8) 4 12 then s
    else
      let items := cores.map fun c => { newItem .background [] 0 (ItemRec.parse []) with st := .inService c }
      let i : Inst :=
        { num := num, port := s.ringPort r.val, fn := s.ringFn r.val, ring := r.val, pos := pos, opcode := 0x22, program := 0,
          base := x.base, syncCount := x.syncs, word := 0, items := items, result2 := BitVec.ofNat 64 num, report := 0,
          acceptedAt := x.acceptedAt, budget := 0, service := none, versions := [], armStatus := [], counted := false, train := [],
          orphaned := false }
      (State.handOver { s with insts := insInst i s.insts, sweeps := s.sweeps ++ [w] } r.val pos).runSweeps w.graph

/-- GRAPH_FREE: once no request or sweep holds the graph, its id is free. -/
def graphFree (r : RingIx) (pos : Nat) (s : State) : State :=
  match s.descOf r.val pos 0x23 with
  | none => s
  | some x =>
    let id := graphId x
    let st := s.descGraph r.val id
    if unnamed x.entry [(64, 12)] then s.completeWith r.val pos stBadDescriptor
    else if st ≠ 0 then s.completeWith r.val pos st
    else if !(s.graphReqs id).isEmpty || s.sweeps.any (fun w => w.graph == id) ||
        s.moves.any (fun m => m.entry.kind != 0 && m.entry.id.toNat == id) then s
    else
      ({ s.setGraph id none with areas := s.areas.filter fun a => a.1 != id,
                                 sweepMarks := s.sweepMarks.filter fun m => m.1 != id }).completeWith r.val pos stOk

def execDescNop (r : RingIx) (pos : Nat) (s : State) : Out := .next (descNop r pos s)
def execDescFence (r : RingIx) (pos : Nat) (s : State) : Out := .next (descFence r pos s)
def execFlush (r : RingIx) (pos : Nat) (s : State) : Out := .next (flush r pos s)
def execHostAtomic (r : RingIx) (pos : Nat) (s : State) : Out := .next (hostAtomic r pos s)
def execSyncSet (r : RingIx) (pos : Nat) (s : State) : Out := .next (syncSet r pos s)
def execTicks (r : RingIx) (pos : Nat) (s : State) : Out := .next (ticks r pos s)
def execTableSetup (r : RingIx) (pos : Nat) (ans : HostAns) (s : State) : Out := .next (tableSetup r pos ans s)
def execTableSwitch (r : RingIx) (pos : Nat) (s : State) : Out := .next (tableSwitch r pos s)
def execTableRetire (r : RingIx) (pos : Nat) (s : State) : Out := .next (tableRetire r pos s)
def execTableFree (r : RingIx) (pos : Nat) (s : State) : Out := .next (tableFree r pos s)
def execGraphSetup (r : RingIx) (pos : Nat) (ans : HostAns) (s : State) : Out := .next (graphSetup r pos ans s)
def execGraphDrain (r : RingIx) (pos : Nat) (s : State) : Out := .next (graphDrain r pos s)
def execSweep (r : RingIx) (pos : Nat) (s : State) : Out := .next (sweep r pos s)
def execGraphFree (r : RingIx) (pos : Nat) (s : State) : Out := .next (graphFree r pos s)

end Sys2Proof.Machine
end

