-- ==== Sys2Proof/Machine/Accept.lean ====
section
/-! DEFINITION. The acceptance of descriptors (R267, R269, R402, R416): what a descriptor creates, its reservations and its instance number. -/

namespace Sys2Proof.Machine

/-- A service request keeps the rules of R415: its service is bound, it stands on an express ring, and its
results fit. -/
def State.requestOk (s : State) (p : Nat) (e : Live) : Option Service :=
  let b := e.entry
  let k := bfld b 36 4 0 10
  match s.svc p (bfld b 8 4 0 4) with
  | some v =>
    if v.unbinding || bfld b 8 4 4 28 ≠ 0 || bfld b 32 4 24 8 ≠ 0 || bfld b 36 4 10 22 ≠ 0 || fieldAt b 24 8 % 8 ≠ 0 || bfld b 32 4 0 24 = 0 ||
        fieldAt b 40 8 % 32 ≠ 0 || decide (fieldAt b 48 4 < 32 + 16 * (k + 1)) then none
    else some v
  | none => none

/-- The descriptor would create express items (R401). -/
def State.makesExpress (s : State) (p : Nat) (e : Live) : Bool :=
  if e.op = 0x0C then true
  else if e.op = 0x0A then bitAt (fieldAt e.entry 40 4) 16
  else if e.op = 0x09 then
    match s.prog p (bfld e.entry 8 4 0 11) with
    | some g => g.items.any fun x => x.cls == 0
    | none => false
  else false

/-- An entry of an opcode that creates an instance keeps the rules of its body, so that it does (R13, R410, R411). -/
def State.bodyOk (s : State) (r : Nat) (e : Live) : Bool :=
  if e.op = 0x09 then !launchBad e
  else if e.op = 0x0A then !trainBad e && (s.trainRecs r e).isSome
  else if e.op = 0x22 then (s.sweepRefusal r e).isNone
  else true

/-- What an entry creates: sync objects and items; none for one that creates no instance. -/
def State.creates (s : State) (r : Nat) (e : Live) : Option (Nat × Nat) :=
  let p := s.ringPort r
  if !s.bodyOk r e then none
  else if e.op = 0x09 ∨ e.op = 0x0A then (s.prog p (bfld e.entry 8 4 0 11)).map fun g => (g.syncCount, g.items.length)
  else if e.op = 0x0C then ((s.requestOk p e).bind fun v => s.prog p v.program).map fun g => (g.syncCount, g.items.length)
  else if e.op = 0x22 then some (2, (s.sweepCores p).length)
  else none

/-- Sync objects that live instances and reservations hold: first and count. -/
def State.syncsHeld (s : State) : List (Nat × Nat) :=
  (s.insts.map fun i => (i.base, i.syncCount)) ++ s.rings.flatMap fun x => x.2.live.map fun e => (e.base, e.syncs)

/-- The first run of n consecutive objects that the port claims and nothing holds (R267). -/
def State.findSyncs (s : State) (p n : Nat) : Option Nat :=
  if n = 0 then some 0
  else
    let held := s.syncsHeld.filter fun x => x.2 != 0
    (List.range (16384 - n + 1)).find? fun b =>
      (rangeFrom b n).all (fun o => s.syncPort o == p) && !(held.any fun x => decide (b < x.1 + x.2 ∧ x.1 < b + n))

/-- Item-store entries of a port in use or reserved. -/
def State.itemsHeld (s : State) (p : Nat) : Nat :=
  ((s.insts.filter fun i => i.port == p).map fun i => i.items.length).sum +
    ((s.rings.filter fun x => s.ringPort x.1 == p).flatMap fun x => x.2.live.map (·.items)).sum

/-- The reservations of an entry that can all be made at once (R267, R416); none while one cannot. -/
def State.reserve (s : State) (r : Nat) (e : Live) : Option Live :=
  let p := s.ringPort r
  match s.creates r e with
  | none => some e
  | some (n, items) =>
    match s.findSyncs p n with
    | none => none
    | some base =>
      if s.itemShare p < s.itemsHeld p + items then none
      else
        let e := { e with base := base, syncs := n, items := items }
        if e.op = 0x0C then
          match s.requestOk p e with
          | some v => ((List.range v.slots).find? fun k => !v.used.contains k).map fun k => { e with slot := k }
          | none => some e
        else some e

/-- Nothing of the ring keeps its head from being accepted: a completion record is free (R402), no accepted
descriptor makes the ring wait (R403), and an `order` flag finds none outstanding. -/
def Ring.acceptable (g : Ring) (e : Live) : Bool :=
  decide ((g.cqTail - g.cqHead).toNat + g.live.length < 2 ^ g.cqLog2) && !(g.live.any fun x => ringWaits x.op && !x.failed) &&
    (e.failed || !bitAt (fieldAt e.entry 0 8) 9 || g.live.isEmpty)

/-- The active versions of the tables of a service that a request is for (R97, R416). -/
def State.serviceVersions (s : State) (p : Nat) (e : Live) : List (Nat × Bool) :=
  if e.op = 0x0C then
    match s.requestOk p e with
    | some v => v.tables.filterMap fun t => (s.tableOf t).map fun q => (t, q.active)
    | none => []
  else []

/-- DESCRIPTOR_ACCEPT (R267, R269, R402). -/
def descriptorAccept (r : RingIx) (s : State) : State :=
  let g := s.ring r.val
  let p := s.ringPort r.val
  match g.head with
  | none => s
  | some e =>
    if !s.running || g.st != .active || !g.acceptable e then s
    else
      -- a descriptor that creates an instance takes its number (R269)
      let numbered (s : State) (e : Live) : State × Live :=
        if (s.creates r.val e).isNone then (s, e)
        else ({ s with instCount := (s.instCount + 1) % 2 ^ 32 }, { e with num := some ((s.instCount + 1) % 2 ^ 32) })
      let accept (s : State) (e : Live) : State :=
        { s with acceptCount := s.acceptCount + 1 }.modRing r.val fun g =>
          { g with head := none, watched := false, live := g.live ++ [{ e with acceptedAt := s.ticks, order := s.acceptCount }] }
      if e.failed then (accept s e).completeWith r.val e.pos stHostFault
      else if e.headBad || (s.makesExpress p e && g.cls != .express) then (accept s e).completeWith r.val e.pos stBadDescriptor
      else
        match s.reserve r.val e with
        | none => s
        | some e =>
          let (s, e) := numbered s { e with versions := s.serviceVersions p e }
          let s := accept s e
          if e.op = 0x0C ∧ e.items ≠ 0 then
            let n := bfld e.entry 8 4 0 4
            match s.svc p n with
            | some v => s.setSvc p n (some { v with used := v.used ++ [e.slot] })
            | none => s
          else s

def execDescriptorAccept (r : RingIx) (s : State) : Out := .next (descriptorAccept r s)

end Sys2Proof.Machine
end

