-- ==== Sys2Proof/Machine/Crypto.lean ====
section
/-! DEFINITION. SHA-256, HMAC and ECDSA on P-256, which R460 and R463 name (FIPS 180-4, RFC 2104 and FIPS 186-4; PRESUMED, log entry 46). -/

namespace Sys2Proof.Machine

/-! ### SHA-256 -/

/-- A word of a sequence of 32-bit words written as one number, the first word the most significant. -/
def wordAt (n v i : Nat) : BitVec 32 := BitVec.ofNat 32 (v / 2 ^ (32 * (n - 1 - i)))

/-- The 64 round constants, one behind the other. -/
def shaK : Nat :=
  0x428a2f9871374491b5c0fbcfe9b5dba53956c25b59f111f1923f82a4ab1c5ed5d807aa9812835b01243185be550c7dc372be5d7480deb1fe9bdc06a7c19bf174e49b69c1efbe47860fc19dc6240ca1cc2de92c6f4a7484aa5cb0a9dc76f988da983e5152a831c66db00327c8bf597fc7c6e00bf3d5a7914706ca63511429296727b70a852e1b21384d2c6dfc53380d13650a7354766a0abb81c2c92e92722c85a2bfe8a1a81a664bc24b8b70c76c51a3d192e819d6990624f40e3585106aa07019a4c1161e376c082748774c34b0bcb5391c0cb34ed8aa4a5b9cca4f682e6ff3748f82ee78a5636f84c878148cc7020890befffaa4506cebbef9a3f7c67178f2

/-- The initial hash value, its eight words one behind the other. -/
def shaInit : Nat := 0x6a09e667bb67ae853c6ef372a54ff53a510e527f9b05688c1f83d9ab5be0cd19

/-- Four successive values of one of the two words that a round makes, the newest first. -/
structure Four where
  p : BitVec 32
  q : BitVec 32
  r : BitVec 32
  s : BitVec 32

def Four.push (x : Four) (w : BitVec 32) : Four := { p := w, q := x.p, r := x.q, s := x.r }
def Four.list (x : Four) : List (BitVec 32) := [x.p, x.q, x.r, x.s]

/-- What a round works on: the two words' last four values, and the schedule's next 16 words. -/
structure ShaSt where
  hi : Four
  lo : Four
  sched : List (BitVec 32)

/-- The words rotated right by three amounts, or shifted by the third, and combined. -/
def spin (w : BitVec 32) (i j k : Nat) (shift : Bool) : BitVec 32 :=
  w.rotateRight i ^^^ w.rotateRight j ^^^ (if shift then w >>> k else w.rotateRight k)

/-- Round t. -/
def ShaSt.round (x : ShaSt) (t : Nat) : ShaSt :=
  let w := x.sched.headD 0
  let pick := x.lo.r ^^^ (x.lo.p &&& (x.lo.q ^^^ x.lo.r))
  let most := (x.hi.p &&& (x.hi.q ||| x.hi.r)) ||| (x.hi.q &&& x.hi.r)
  let sum := x.lo.s + spin x.lo.p 6 11 25 false + pick + wordAt 64 shaK t + w
  let far := w + spin (x.sched.getD 1 0) 7 18 3 true + x.sched.getD 9 0 + spin (x.sched.getD 14 0) 17 19 10 true
  { hi := x.hi.push (sum + spin x.hi.p 2 13 22 false + most), lo := x.lo.push (x.hi.s + sum), sched := x.sched.tail ++ [far] }

/-- The hash value after one more block of 64 bytes. -/
def shaBlock (v : Nat) (b : Bytes) : Nat :=
  let four (i : Nat) : Four := { p := wordAt 8 v i, q := wordAt 8 v (i + 1), r := wordAt 8 v (i + 2), s := wordAt 8 v (i + 3) }
  let n := beNat b
  let x := (List.range 64).foldl ShaSt.round { hi := four 0, lo := four 4, sched := (List.range 16).map (wordAt 16 n) }
  ((x.hi.list ++ x.lo.list).zipIdx.map fun y => y.1 + wordAt 8 v y.2).foldl (fun a w => a * 2 ^ 32 + w.toNat) 0

/-- The hash value over n blocks. -/
def shaBlocks (v : Nat) : Nat → Bytes → Nat
  | 0, _ => v
  | n + 1, b => shaBlocks (shaBlock v (b.take 64)) n (b.drop 64)

/-- The digest of a message, padded to whole blocks with its length in bits at the end. -/
def sha256 (b : Bytes) : BitVec 256 :=
  let zeros := (119 - b.length % 64) % 64
  let m := b ++ [0x80#8] ++ List.replicate zeros 0#8 ++ natBe 8 (8 * b.length)
  BitVec.ofNat 256 (shaBlocks shaInit (m.length / 64) m)

/-- A digest as its 32 bytes, the first the most significant. -/
def digestBytes (d : BitVec 256) : Bytes := natBe 32 d.toNat

/-- HMAC-SHA-256 with a key of 32 bytes. -/
def hmac (key : BitVec 256) (m : Bytes) : BitVec 256 :=
  let k := digestBytes key ++ List.replicate 32 0#8
  sha256 (k.map (· ^^^ 0x5C#8) ++ digestBytes (sha256 (k.map (· ^^^ 0x36#8) ++ m)))

/-! ### P-256 -/

def p256P : Nat := 2 ^ 256 - 2 ^ 224 + 2 ^ 192 + 2 ^ 96 - 1
def p256N : Nat := 0xffffffff00000000ffffffffffffffffbce6faada7179e84f3b9cac2fc632551
def p256B : Nat := 0x5ac635d8aa3a93e7b3ebbd55769886bc651d06b0cc53b0f63bce3c3e27d2604b
def p256G : Nat × Nat :=
  (0x6b17d1f2e12c4247f8bce6e563a440f277037d812deb33a0f4a13945d898c296, 0x4fe342e2fe1a7f9b8ee7eb4a7c0f9e162bce33576b315ececbb6406837bf51f5)

/-- x^e mod m, by squaring, over the n low bits of e. -/
def powMod (m e : Nat) : Nat → Nat → Nat → Nat
  | 0, _, r => r
  | n + 1, x, r => powMod m (e / 2) n (x * x % m) (if e % 2 = 1 then r * x % m else r)

/-- The inverse modulo a prime. -/
def invMod (m x : Nat) : Nat := powMod m (m - 2) 256 (x % m) 1

/-- A point of the curve as X, Y, Z with x = X / Z² and y = Y / Z³; none is the point at infinity. -/
abbrev Point := Option (Nat × Nat × Nat)

def onCurve (x y : Nat) : Bool := decide (x < p256P ∧ y < p256P ∧ y * y % p256P = (x * x * x + (p256P - 3) * x + p256B) % p256P)

/-- a - b modulo the field's prime, for b below it. -/
def subMod (a b : Nat) : Nat := (a + p256P - b) % p256P

def mulMod (a b : Nat) : Nat := a * b % p256P

/-- Twice a point. -/
def ptDouble : Point → Point
  | none => none
  | some (x, y, z) =>
    if y = 0 then none
    else
      let a := mulMod (4 * x) (mulMod y y)
      let m := mulMod 3 (mulMod (subMod x (mulMod z z)) ((x + mulMod z z) % p256P))
      let x' := subMod (mulMod m m) (mulMod 2 a)
      some (x', subMod (mulMod m (subMod a x')) (mulMod 8 (mulMod (mulMod y y) (mulMod y y))), mulMod (2 * y) z)

def ptAdd (p q : Point) : Point :=
  match p, q with
  | none, q => q
  | some p, none => some p
  | some (x1, y1, z1), some (x2, y2, z2) =>
    let u := mulMod x1 (mulMod z2 z2)
    let v := mulMod x2 (mulMod z1 z1)
    let s := mulMod y1 (mulMod z2 (mulMod z2 z2))
    let t := mulMod y2 (mulMod z1 (mulMod z1 z1))
    if u = v then (if s = t then ptDouble (some (x1, y1, z1)) else none)
    else
      let h := subMod v u
      let r := subMod t s
      let w := mulMod u (mulMod h h)
      let c := mulMod h (mulMod h h)
      let x' := subMod (subMod (mulMod r r) c) (mulMod 2 w)
      some (x', subMod (mulMod r (subMod w x')) (mulMod s c), mulMod h (mulMod z1 z2))

/-- k times a point, over the n low bits of k. -/
def ptMul (k : Nat) : Nat → Point → Point → Point
  | 0, _, r => r
  | n + 1, q, r => ptMul (k / 2) n (ptDouble q) (if k % 2 = 1 then ptAdd r q else r)

/-- The coordinates of a point. -/
def ptAffine : Point → Option (Nat × Nat)
  | none => none
  | some (x, y, z) =>
    let i := invMod p256P z
    some (mulMod x (mulMod i i), mulMod y (mulMod i (mulMod i i)))

def scalarMul (k : Nat) (q : Nat × Nat) : Point := ptMul k 256 (some (q.1, q.2, 1)) none

/-- `ecdsa_p256_verify` of a signature over a digest. -/
def ecdsaVerify (x y : Nat) (e : BitVec 256) (r s : Nat) : Bool :=
  if !onCurve x y || decide (r = 0 ∨ s = 0 ∨ p256N ≤ r ∨ p256N ≤ s) then false
  else
    let w := invMod p256N s
    match ptAffine (ptAdd (scalarMul (e.toNat * w % p256N) p256G) (scalarMul (r * w % p256N) (x, y))) with
    | some (v, _) => v % p256N == r
    | none => false

/-- A signature over a digest: r then s, 32 bytes each. -/
def ecdsaSign (d : Nat) (e : BitVec 256) (nonce : Nat) : Bytes :=
  let k := nonce % (p256N - 1) + 1
  let r := ((ptAffine (scalarMul k p256G)).getD (0, 0)).1 % p256N
  natBe 32 r ++ natBe 32 (invMod p256N k * (e.toNat + r * d) % p256N)

/-- `derive` of R463. -/
def deriveKey (uds : BitVec 256) (label : Bytes) : Nat := (hmac uds label).toNat % (p256N - 1) + 1

/-- The public key of a secret one: X then Y. -/
def publicKey (d : Nat) : Bytes :=
  match ptAffine (scalarMul d p256G) with
  | some (x, y) => natBe 32 x ++ natBe 32 y
  | none => List.replicate 64 0#8

/-- ASCII bytes. -/
def ascii (t : String) : Bytes := t.toList.map fun c => BitVec.ofNat 8 c.toNat

end Sys2Proof.Machine
end

