-- ==== Sys2Proof/Machine/HostPort.lean ====
section
/-! DEFINITION. Host ports (chapter 12): BAR4, configuration requests, translations, page requests, completions, and the events that orphan rings. -/

namespace Sys2Proof.Machine

/-! ### BAR4 (R371, R372) -/

/-- Device address of an offset of a port's BAR4: its aperture enabled, the access inside it and of an accepted length. -/
def State.bar4Addr (s : State) (p off len : Nat) : Option Nat :=
  if bitAt (s.preg p 0x2000) 5 && decide (off + len ≤ 2 ^ (s.port p).bar4Log2 ∧ len ≤ 4096) then some (s.preg p 0x2008 + off) else none

/-- A BAR4 access that lies in storage of the port's goes on, or waits for a unit that restarts (R433). -/
def State.bar4Go (s : State) (x : PortIn) : State :=
  if s.portWaits x then { s with portIn := s.portIn ++ [x] } else s.servePort x

/-- BAR4_READ: all ones where the aperture is disabled or R299 answers; poison is passed on as an attribute (R428). -/
def bar4Read (p : PortIx) (off len : Nat) (s : State) : State :=
  if !s.barOpen p.val 0 then s
  else
    let s := s.dropLatch p.val
    let ones := Output.readData p.val (List.replicate len 0xFF#8) false
    match s.bar4Addr p.val off len with
    | none => s.emit ones
    | some a => if (s.reach p.val a len).isNone then (s.accessLog p.val 0 a accRange).emit ones else s.bar4Go (.read p.val a len)

/-- BAR4_WRITE: through the die cache or, in a Sifter region, straight to memory; tier 2 ignores it, with an
entry in the error log (R316). -/
def bar4Write (p : PortIx) (off : Nat) (data : Bytes) (s : State) : State :=
  if !s.barOpen p.val 0 then s
  else
    let s := s.dropLatch p.val
    match s.bar4Addr p.val off data.length with
    | none => s
    | some a =>
      match s.reach p.val a data.length with
      | none => s.accessLog p.val 0 a accRange
      | some (_, u) => if unitTier u = 2 then s.accessLog p.val 0 a accIgnored else s.bar4Go (.write p.val a data)

/-! ### Configuration space -/

/-- What a port reports of its capabilities (Tables 12-1 and 12-2), and the words of its VPD. -/
def State.capValue (s : State) (p fn : Nat) (c : CfgCap) : Nat :=
  match c with
  | .linkSpeeds => 0x3F
  | .linkWidth => 16
  | .maxPayload => 512
  | .tagBits => 14
  | .totalVFs => 127
  | .pasidBits => 20
  | .pasidExecute => 0
  | .pasidPrivileged => 0
  | .msixEntries => if fn = 0 then 2048 else 16
  | .interruptPin => 0
  | .msi => 0
  | .tphRequester => 1
  | .stTable => 0
  | .atomicRequester => 1
  | .atomicCompleter => 0
  | .timeoutRanges => 0xF
  | .flr => 1
  | .noSoftReset => 1
  | .pmeSupport => 0
  | .resizableBar => 1
  | .aer => 1
  | .ats => 1
  | .pri => 1
  | .doe => 1
  | .relaxedOrdering => 1
  | .idOrdering => 1
  | .maxReadRequest => 4096
  | .trainedRate => (s.port p).rate
  | .trainedWidth => (s.port p).lanes
  | .flitMode => if (s.port p).flit then 1 else 0
  | .aspmSupport => 0
  | .absent _ => 0
  | .vpdCode => s.fuses.code.toNat
  | .vpdSerial => s.fuses.serial.toNat
  | .vpdRevision => s.fuses.moduleRev.toNat
  | .vpdTier2 => 2 * unitExtent s.fuses.code.toNat 10

/-- The value of a configuration field. -/
def State.cfgRead (s : State) (p fn : Nat) (f : CfgField) : Nat :=
  let x := s.fnc p fn
  let b (v : Bool) : Nat := if v then 1 else 0
  match f with
  | .busMasterEnable => b x.bme
  | .relaxedOrderingEnable => b x.ro
  | .idoRequestEnable => b x.ido
  | .atomicOpRequesterEnable => b x.atomicEn
  | .atsEnable => b x.ats
  | .priEnable => b x.pri
  | .outstandingPageRequestAllocation => x.pageAlloc
  | .msixEnable => b x.msix
  | .vectorMask v => b (!x.unmasked.contains v || decide (s.msixUsable p fn ≤ v))
  | .vfEnable => b (s.port p).vfEnable
  | .numVFs => (s.port p).numVFs
  | .powerState => if x.d3 then 3 else 0
  | .mps => x.mps
  | .mrrs => x.mrrs
  | .bar4Log2 => (s.port p).bar4Log2
  | .tagBits => x.tagBits
  | .tphRequesterEnable => b x.tph
  | .pasidEnable => b x.pasidEn
  | .completionTimeout => x.cplTimeout
  | .cap c => s.capValue p fn c
  | .other off => Tab.get 0 x.other off

/-- Sends an entry that is no longer masked and has its pending bit set (R409). -/
def State.msixFlush (s : State) (p fn v : Nat) : State :=
  let f := s.fnc p fn
  if f.msix && f.pendingVec.contains v && f.unmasked.contains v && decide (v < s.msixUsable p fn) then
    (s.modFnc p fn fun x => { x with pendingVec := x.pendingVec.filter (· != v) }).msixSend p fn v
  else s

/-- Clears the mask of an MSI-X entry; entries that are not usable ignore it (R367). -/
def State.msixUnmaskOne (s : State) (p fn v : Nat) : State :=
  if s.msixUsable p fn ≤ v then s
  else (s.modFnc p fn fun x => { x with unmasked := x.unmasked.filter (· != v) ++ [v] }).msixFlush p fn v

/-- Writes a configuration field; a value outside what Table 12-1 and Table 12-3 support leaves the field as it is. -/
def State.cfgWrite (s : State) (p fn : Nat) (f : CfgField) (v : Nat) : State :=
  let b := bitAt v 0
  let set (g : FnCfg → FnCfg) : State := s.modFnc p fn g
  match f with
  | .busMasterEnable => set fun x => { x with bme := b }
  | .relaxedOrderingEnable => set fun x => { x with ro := b }
  | .idoRequestEnable => set fun x => { x with ido := b }
  | .atomicOpRequesterEnable => set fun x => { x with atomicEn := b }
  | .atsEnable => (set fun x => { x with ats := b }).modPort p fun x => { x with atc := x.atc.filter fun t => t.fn != fn }
  | .priEnable => set fun x => { x with pri := b }
  | .outstandingPageRequestAllocation => (set fun x => { x with pageAlloc := v }).issuePages p
  | .msixEnable =>
    let s := set fun x => { x with msix := b }
    (s.fnc p fn).pendingVec.foldl (fun s v => s.msixFlush p fn v) s
  | .vectorMask n =>
    if s.msixUsable p fn ≤ n then s
    else if b then set fun x => { x with unmasked := x.unmasked.filter (· != n) }
    else s.msixUnmaskOne p fn n
  | .vfEnable => if fn = 0 then s.modPort p fun x => { x with vfEnable := b } else s
  | .numVFs => if fn = 0 ∧ v ≤ 127 ∧ !(s.port p).vfEnable then s.modPort p fun x => { x with numVFs := v } else s
  | .powerState => if v = 0 ∨ v = 3 then set fun x => { x with d3 := v == 3 } else s
  | .mps => if v = 128 ∨ v = 256 ∨ v = 512 then set fun x => { x with mps := v } else s
  | .mrrs => if [128, 256, 512, 1024, 2048, 4096].contains v then set fun x => { x with mrrs := v } else s
  | .bar4Log2 => if fn = 0 ∧ 30 ≤ v ∧ v ≤ 39 then s.modPort p fun x => { x with bar4Log2 := v } else s
  | .tagBits => if v = 8 ∨ v = 10 ∨ v = 14 then set fun x => { x with tagBits := v } else s
  | .tphRequesterEnable => set fun x => { x with tph := b }
  | .pasidEnable => set fun x => { x with pasidEn := b }
  | .completionTimeout => if v < 16 then set fun x => { x with cplTimeout := v } else s
  | .cap _ => s
  | .other off => set fun x => { x with other := Tab.put 0 x.other off v }

/-- The function is presented by the port: the PF, or an enabled VF. -/
def State.fnThere (s : State) (p fn : Nat) : Bool := fn == 0 || ((s.port p).vfEnable && decide (fn ≤ (s.port p).numVFs))

/-- The port's link carries requests: the link is up, and the device is awake and not halted. -/
def State.linkOpen (s : State) (p : Nat) : Bool := s.awake && !s.mgmt.halted && (s.port p).linkUp

/-- CONFIG_REQUEST: Configuration Request Retry Status until the port is released (R452). The first one answered
normally enumerates the port. -/
def configRequest (p : PortIx) (fn : FnIx) (q : CfgReq) (s : State) : State :=
  if !s.linkOpen p.val then s
  else if !(s.port p.val).released then s.emit (.cfg p.val fn.val none)
  else if !s.fnThere p.val fn.val then s
  else
    let s := s.modPort p.val fun x => { x with enumerated := true }
    match q with
    | .read f => s.emit (.cfg p.val fn.val (some (s.cfgRead p.val fn.val f)))
    | .write f v => ((s.cfgWrite p.val fn.val f v).emit (.cfg p.val fn.val (some 0))).goOn

/-- BUS_MASTER_ENABLE_CLEAR (R366): the function's requests are held. -/
def busMasterEnableClear (p : PortIx) (fn : FnIx) (s : State) : State :=
  if s.linkOpen p.val then (s.modFnc p.val fn.val fun x => { x with bme := false }).pump else s

/-- D3HOT (R365): BARs stop decoding, and requests are held as R366 gives. -/
def d3hot (p : PortIx) (fn : FnIx) (s : State) : State :=
  if s.linkOpen p.val then (s.modFnc p.val fn.val fun x => { x with d3 := true }).pump else s

/-- LINK_RETRAIN (R390): no effect that can be seen; requests wait and replay. -/
def linkRetrain (_p : PortIx) (s : State) : State := s

/-- MSIX_UNMASK (R409). -/
def msixUnmask (p : PortIx) (fn : FnIx) (v : Nat) (s : State) : State :=
  if s.fnOpen p.val fn.val then s.msixUnmaskOne p.val fn.val v else s

/-! ### Translations and page requests (R378-R383) -/

/-- ATS_INVALIDATION (R379): answered once no read that used the translations is outstanding. -/
def atsInvalidation (p : PortIx) (fn : FnIx) (pasid : Option (BitVec 20)) (page pages : Nat) (s : State) : State :=
  if !s.linkOpen p.val then s
  else
    let hit (t : Atc) : Bool := t.fn == fn.val && t.pasid == pasid && decide (t.page < page + pages ∧ page < t.page + t.pages)
    (s.modPort p.val fun x => { x with
      atc := x.atc.filter fun t => !hit t, invals := x.invals ++ [(fn.val, page, s.pageReads p.val fn.val pasid page pages)] }).settleInvals

/-- Adds a translation; the cache holds 8,192 entries, and drops its oldest (R378). -/
def addAtc (l : List Atc) (t : Atc) : List Atc :=
  let l := l ++ [t]
  l.drop (l.length - 8192)

/-- The access waits for the translation of one of some pages. -/
def State.awaitsPage (s : State) (p fn : Nat) (pasid : Option (BitVec 20)) (page pages : Nat) (a : HostAcc) : Bool :=
  a.port == p && a.fn == fn && a.pasid == pasid && a.st == .xlate &&
    (match missingPage (s.port p).atc a with
      | some m => decide (page ≤ m ∧ m < page + pages)
      | none => false)

/-- TRANSLATION_COMPLETION: waiting accesses go on, or meet a page fault, where the page is not present or lacks the
access they need (R380), which fails them where no page request is possible (R378, R383). A page asked for ahead that
is not present faults when its transfer reaches it (R381). -/
def translationCompletion (p : PortIx) (fn : FnIx) (pasid : Option (BitVec 20)) (page pages : Nat) (ans : XlatAns) (s : State) : State :=
  let wait := s.accs.filter (s.awaitsPage p.val fn.val pasid page pages)
  let f := s.fnc p.val fn.val
  let hit := (s.port p.val).aheadHit fn.val pasid page pages
  if !s.linkOpen p.val || (wait.isEmpty && hit.isEmpty) then s
  else
    let bad := wait.filter fun a => !ans.read || (a.kind.writes && !ans.write)
    let s := s.modPort p.val fun x => { x with
      ahead := x.ahead.filter fun k => !hit.contains k
      atc := if ans.read then addAtc x.atc { fn := fn.val, pasid := pasid, page := page, pages := pages, base := ans.base, write := ans.write } else x.atc }
    let next (a : HostAcc) : AccSt := if bad.contains a then .pageReq else if wait.contains a then .queued else a.st
    let s : State := { s with accs := s.accs.map fun a => { a with st := next a, since := if bad.contains a then s.ticks else a.since } }
    if f.pri && !f.priFailed then s.goOn
    else (bad.foldl (fun s a => s.accLost a true) s).goOn

/-- PAGE_REQUEST_RESPONSE (R380, R383), to a request of a group: accesses translate again, or fail; a Response Failure
fails every access of the function that waits for a page. -/
def pageRequestResponse (p : PortIx) (fn : FnIx) (group : Nat) (ans : PageAns) (s : State) : State :=
  match (s.port p.val).pageOut.find? (fun k => k.1 == group && k.2.1 == fn.val) with
  | none => s
  | some k =>
    let mine (a : HostAcc) : Bool := a.port == p.val && a.st == .pageReq && s.pageOf a == k.2
    let s' := s.modPort p.val fun x => { x with pageOut := x.pageOut.erase k }
    let s' : State := match ans with
      | .success => { s' with accs := updWhere mine (fun a => { a with st := .queued }) s'.accs }
      | .invalidRequest => (s.accs.filter mine).foldl (fun s a => s.accLost a true) s'
      | .responseFailure =>
        let s' := s'.modPort p.val fun x => { x with pageOut := x.pageOut.filter fun k => k.2.1 != fn.val }
        let s' := s'.modFnc p.val fn.val fun x => { x with priFailed := true }
        (s.accs.filter fun a => a.port == p.val && a.fn == fn.val && a.st == .pageReq).foldl (fun s a => s.accLost a true) s'
    s'.goOn

/-- FAULT_TIMEOUT (R366, R383): the accesses that wait for a page fail, or a held read does. -/
def faultTimeout (p : PortIx) (acc : Nat) (s : State) : State :=
  match s.accOf acc with
  | none => s
  | some a =>
    let due := a.port == p.val && decide (a.since + s.faultLimit p.val ≤ s.ticks)
    let k := s.pageOf a
    if due && a.st == .pageReq && (s.port p.val).pageOut.any (fun y => y.2 == k) then
      ((s.accs.filter fun b => b.port == p.val && b.st == .pageReq && s.pageOf b == k).foldl (fun s b => s.accLost b true) s).goOn
    else if due && a.st == .held && !a.kind.posted then (s.accLost a true).goOn
    else s

/-! ### Completions (R383, R384) -/

/-- HOST_READ_COMPLETION: a read or atomic that was sent is answered (R383); the answer waits while the port's hub
restarts (R434). -/
def hostReadCompletion (p : PortIx) (acc : Nat) (ans : HostAns) (s : State) : State :=
  match s.accOf acc with
  | none => s
  | some a =>
    if a.port ≠ p.val ∨ a.st ≠ .sent ∨ a.why.ownAnswer ∨ !s.linkOpen p.val then s
    else if s.portWaits (.answer p.val acc ans) then { s with portIn := s.portIn ++ [.answer p.val acc ans] }
    else (s.hostAnswer a ans).goOn

/-! ### Port events (R390-R392) -/

/-- The configuration space of a port is reset: nothing of the host's set-up of it remains. -/
def Port.resetCfg (x : Port) : Port :=
  { x with vfEnable := false, numVFs := 0, bar4Log2 := 34, fns := [], atc := [], invals := [], pageOut := [], ahead := [] }

/-- The link of a port goes down: R391, and the configuration space is reset (Table 12-9). -/
def State.portDown (s : State) (p event : Nat) : State :=
  let s := s.modPort p fun x => { x with linkUp := false }
  (s.orphanPort p event).modPort p Port.resetCfg

/-- DL_DOWN. -/
def dlDown (p : PortIx) (s : State) : State := if s.linkOpen p.val then s.portDown p.val orDlDown else s

/-- HOT_RESET: the link itself comes back by DL_UP. -/
def hotReset (p : PortIx) (s : State) : State := if s.linkOpen p.val then s.portDown p.val orHotReset else s

/-- PERST_ASSERT: with no power the pin alone changes. -/
def perstAssert (p : PortIx) (s : State) : State :=
  let s := s.modPort p.val fun x => { x with perst := true }
  if s.awake && !s.mgmt.halted && (s.port p.val).released then s.portDown p.val orPerst
  else s.modPort p.val fun x => { x with linkUp := false }

/-- A port is released for enumeration and enters STARTUP (R452). -/
def State.releasePort (s : State) (p : Nat) : State := s.modPort p fun x => { x with released := true, phase := .startup, before := .startup }

/-- PERST_DEASSERT (R452): the port trains its link; a port that stage H found in reset is released now (R451). -/
def perstDeassert (p : PortIx) (s : State) : State :=
  let s := s.modPort p.val fun x => { x with perst := false }
  if s.boot.stage == .done && s.awake && !(s.port p.val).released && !s.unitLost 6 p.val && !s.unitLost 3 p.val then s.releasePort p.val else s

/-- DL_UP: the link has trained (R364, R452), so the port has a host again for R441. -/
def dlUp (t : Trained) (s : State) : State :=
  let p := t.port
  if s.jinalUp && !s.mgmt.halted && !(s.port p.val).perst && !s.unitLost 6 p.val && !s.unitLost 3 p.val then
    s.modPort p.val fun x => { x with linkUp := true, downSince := none, rate := t.rate.val, lanes := t.lanes, flit := t.flit }
  else s

/-- FLR_PF: every ring of the port becomes ORPHANED, and VF Enable clears. -/
def flrPf (p : PortIx) (s : State) : State :=
  if !s.linkOpen p.val then s
  else
    (s.orphanPort p.val orFlrPf).modPort p.val fun x =>
      { x with vfEnable := false, numVFs := 0, fns := [], atc := [], invals := [], pageOut := [], ahead := [] }

/-- FLR_VF: the rings assigned to the VF become ORPHANED. -/
def flrVf (p : PortIx) (vf : FnIx) (s : State) : State :=
  if !s.linkOpen p.val || vf.val == 0 || !s.fnThere p.val vf.val then s
  else
    let s := s.orphanRings p.val fun f => f == vf.val
    let s := s.report (lgPort p.val) [] eOrphan 0 vf.val orFlrVf
    (s.modPort p.val fun x =>
      { x.setFnc vf.val {} with atc := x.atc.filter fun t => t.fn != vf.val, invals := x.invals.filter fun v => v.1 != vf.val,
                                pageOut := x.pageOut.filter fun k => k.2.1 != vf.val
                                ahead := x.ahead.filter fun k => k.1 != vf.val }).goOn

def execBar4Read (p : PortIx) (off len : Nat) (s : State) : Out :=
  .next (s.atBar p (.bar4Read p off len) (bar4Read p off len))
def execBar4Write (p : PortIx) (off : Nat) (data : Bytes) (s : State) : Out :=
  .next (s.atBar p (.bar4Write p off data) (bar4Write p off data))
def execConfigRequest (p : PortIx) (fn : FnIx) (q : CfgReq) (s : State) : Out :=
  .next (s.atCfg p (.configRequest p fn q) (configRequest p fn q))
def execAtsInvalidation (p : PortIx) (fn : FnIx) (pasid : Option (BitVec 20)) (page pages : Nat) (s : State) : Out :=
  .next (s.atCfg p (.atsInvalidation p fn pasid page pages) (atsInvalidation p fn pasid page pages))
def execTranslationCompletion (p : PortIx) (fn : FnIx) (pasid : Option (BitVec 20)) (page pages : Nat) (ans : XlatAns) (s : State) : Out :=
  .next (s.atCfg p (.translationCompletion p fn pasid page pages ans) (translationCompletion p fn pasid page pages ans))
def execPageRequestResponse (p : PortIx) (fn : FnIx) (group : Nat) (ans : PageAns) (s : State) : Out :=
  .next (s.atCfg p (.pageRequestResponse p fn group ans) (pageRequestResponse p fn group ans))
def execFaultTimeout (p : PortIx) (acc : Nat) (s : State) : Out := .next (faultTimeout p acc s)
def execHostReadCompletion (p : PortIx) (acc : Nat) (ans : HostAns) (s : State) : Out := .next (hostReadCompletion p acc ans s)
def execDlDown (p : PortIx) (s : State) : Out := .next (dlDown p s)
def execHotReset (p : PortIx) (s : State) : Out := .next (hotReset p s)
def execPerstAssert (p : PortIx) (s : State) : Out := .next (perstAssert p s)
def execPerstDeassert (p : PortIx) (s : State) : Out := .next (perstDeassert p s)
def execFlrPf (p : PortIx) (s : State) : Out :=
  .next (s.atCfg p (.flrPf p) (flrPf p))
def execFlrVf (p : PortIx) (vf : FnIx) (s : State) : Out :=
  .next (s.atCfg p (.flrVf p vf) (flrVf p vf))
def execBusMasterEnableClear (p : PortIx) (fn : FnIx) (s : State) : Out :=
  .next (s.atCfg p (.busMasterEnableClear p fn) (busMasterEnableClear p fn))
def execD3hot (p : PortIx) (fn : FnIx) (s : State) : Out :=
  .next (s.atCfg p (.d3hot p fn) (d3hot p fn))
def execLinkRetrain (p : PortIx) (s : State) : Out := .next (linkRetrain p s)
def execMsixUnmask (p : PortIx) (fn : FnIx) (v : Nat) (s : State) : Out :=
  .next (s.atBar p (.msixUnmask p fn v) (msixUnmask p fn v))
def execDlUp (t : Trained) (s : State) : Out := .next (dlUp t s)

end Sys2Proof.Machine
end

