-- ==== Sys2Proof/Machine/Recover.lean ====
section
/-! DEFINITION. Recovery answers (R437, R485), device reset (R441-R444), sensors and halts (R448, R449). -/

namespace Sys2Proof.Machine

/-! ### Device reset -/

/-- What stays of a log at a device reset: all of it, marked with the reset's tick count (R443). -/
def Log.kept (g : Log) (now : Nat) : Log := { g with resetMark := some now }

/-- Device addresses of tier 2, which no reset clears (R304, R443). -/
def inTier2 (a : Nat) : Bool := decide (0x100000000000 ≤ a ∧ a < 0x400000000000)

/-! ### Slot state (R458) -/

/-- Byte offset of a copy of the slot state in the boot flash: two copies, each in half of the 64 KiB (PRESUMED, log entry 45). -/
def slotCopy (n : Nat) : Nat := 0x3000000 + 0x8000 * (n % 2)

/-- A copy's bytes: flags, pending slot, trial count, sequence number, and the CRC-32 of them (PRESUMED, log entry 45). -/
def SlotState.body (x : SlotState) : Bytes :=
  let bit (b : Bool) (i : Nat) : Nat := if b then 2 ^ i else 0
  natLe 1 (bit x.active 0 + bit x.pending 1 + bit x.pendingFlag 2 + bit x.invalid0 3 + bit x.invalid1 4) ++ natLe 3 x.trials ++ natLe 8 x.seq
def SlotState.bytes (x : SlotState) : Bytes := x.body ++ natLe 4 (crc32 x.body)

/-- The slot state in a copy's bytes, where its CRC-32 holds. -/
def SlotState.parse (b : Bytes) : Option SlotState :=
  let bit (i : Nat) : Bool := bitAt (fieldAt b 0 1) i
  if fieldAt b 12 4 = crc32 (slice b 0 12) then
    some { active := bit 0, pending := bit 1, pendingFlag := bit 2, invalid0 := bit 3, invalid1 := bit 4,
           trials := fieldAt b 1 3, seq := fieldAt b 4 8 }
  else none

/-- The slot state that Jinal reads: the valid copy with the higher sequence number (R458); of a flash that holds none, the
first state of log entry 3. -/
def State.readSlots (s : State) : SlotState :=
  let copy (n : Nat) : Option SlotState := SlotState.parse (s.bootFlash.readBytes (slotCopy n) 16)
  match copy 0, copy 1 with
  | some x, some y => if x.seq < y.seq then y else x
  | some x, none => x
  | none, some y => y
  | none, none => {}

/-- A change of the slot state is written to the flash with the next sequence number, over the copy that was not written
last (R458). -/
def State.putSlots (s : State) (x : SlotState) : State :=
  let y := { x with seq := s.boot.slots.seq + 1 }
  if { x with seq := 0 } = { s.boot.slots with seq := 0 } then s
  else { s with boot := { s.boot with slots := y }, bootFlash := s.bootFlash.writeBytes (slotCopy y.seq) y.bytes }

/-- The slot that an open session writes, the one that is not active, is marked invalid (R468, R469). -/
def SlotState.discard (x : SlotState) : SlotState := if x.active then { x with invalid0 := true } else { x with invalid1 := true }

/-- Ends the session, and marks its slot invalid. -/
def State.endSession (s : State) : State :=
  let s' := { s with boot := { s.boot with session := none } }
  s'.putSlots s'.boot.slots.discard

/-- A reset or a power cycle discards an open session (R469). -/
def State.dropSession (s : State) : State := if s.boot.session.isSome then s.endSession else s

/-- The state after a reset of every function (R4): what the always-on domain, the fuses, the boot flash, tier 2
and the module keep, and everything else as after reset. -/
def State.cleared (s : State) (b : Boot) (ticks : Nat) (logs : Tab Log) (mg : Mgmt) (pw : PowerCtl) : State :=
  { State.reset with
    pending := s.pending, out := s.out, freeCtr := s.freeCtr, ticks := ticks, fuses := s.fuses, bootFlash := s.bootFlash, boot := b, power := pw, mgmt := mg
    dmem := s.dmem.filter fun e => inTier2 e.1
    poison := s.poison.filter inTier2
    hubWritten := s.hubWritten
    logs := logs
    ports := [0, 1].filterMap fun p =>
      let x : Port := { perst := (s.port p).perst }
      if x = ({} : Port) then none else some (p, x) }

/-- Tells the host of each port whose link is up that it goes down. -/
def State.linksFall (s : State) : State :=
  [0, 1].foldl (fun s p => if (s.port p).linkUp then (s.modPort p fun x => { x with linkUp := false }).emit (.linkDown p) else s) s

/-- The boot that follows a device reset (R457): stage C with the firmware of the boot in progress, stage B where an image is
pending or no slot has been verified yet (R454), and stage H where no firmware ever passed (DEDUCED, log entry 45).
The measurements stay, index 10 among them: it changes with a set-up lock and with nothing else (R465). -/
def Boot.again (b : Boot) (now : Nat) : Boot :=
  let noFw := b.outcome = 2 ∧ (b.failStage = 1 ∨ b.failStage = 2)
  let none' := b.stage = .wake ∨ b.stage = .verify
  { b with
    stage := if none' then b.stage else if b.slots.pendingFlag then .verify else if noFw then .release else .clocks
    outcome := if !b.slots.pendingFlag ∧ noFw then 2 else 0
    failStage := if !b.slots.pendingFlag ∧ noFw then b.failStage else 0
    since := now, stageTicks := List.replicate 8 0, tier2Lost := [], udsLocked := false }

/-- Rung 3 (R443). -/
def State.restart (s : State) : State :=
  let s := s.dropSession.linksFall
  s.cleared (s.boot.again s.ticks) s.ticks (s.logs.map fun e => (e.1, e.2.kept s.ticks))
    { s.mgmt with resetDeadline := none, halted := false, haltThermal := false, haltSupply := false, haltSensor := 0, haltReading := 0, running := none } s.power

/-- A port has no host, seen by a request that is pending (R441). -/
def State.noHost (s : State) (p : Nat) : Bool := !(s.port p).enumerated || (s.port p).downSince.isSome

/-- The agreement of R441 between the ports. -/
def State.resetAgreed (s : State) : Bool :=
  let q (p : Nat) : Bool := (s.port p).resetReq.isSome
  (q 0 && q 1) || (q 0 && s.noHost 1) || (q 1 && s.noHost 0)

/-- A request is recorded: `RESET_REQUEST` in the device log, both vectors, and ALERT# (R442, R500). Requester 0
and 1 are the ports, 2 the management interface (PRESUMED, log entry 9). -/
def State.noteRequest (s : State) (who grace : Nat) : State := (s.report lgDevice [] eResetRequest 7 who grace).alert 4

/-- A request of a PF with a grace period in ms (R441, R486). -/
def State.pfRequest (s : State) (p graceMs : Nat) : State :=
  if (s.port p).resetReq.isSome || decide (graceMs < 10 ∨ 60000 < graceMs) then s.accessLog p 0 0x3010 accIgnored
  else
    let grace := graceMs * ticksPerMs
    let s := s.modPort p fun x => { x with resetReq := some (s.ticks + grace) }
    let s := if (s.port (1 - p)).linkUp then s else s.modPort (1 - p) fun x => { x with downSince := some s.ticks }
    s.noteRequest p grace

/-- The events whose device reset request, made through a port of some list, has ended without a reset: their
functions are LOST (R485). -/
def State.loseEscalated (s : State) (ps : List Nat) : State :=
  (s.heldEvents.filter fun e => match e.escalated with
    | some p => ps.contains p
    | none => false).foldl (fun s e => s.lose e.unit e.code) s

/-- Pending requests of some ports end. -/
def State.endRequests (s : State) (ps : List Nat) : State :=
  (ps.foldl (fun s p => s.modPort p fun x => { x with resetReq := none }) s).loseEscalated ps

/-- A write by a PF of a register other than those of identity and the mailbox (R453), taken as one of the whole
register, as every command is that names a register's field (R472; DESIGN CHOICE, log entry 47). -/
def State.pfAccess (s : State) (p : PortIx) (act : State → State) : State :=
  if s.barOpen p.val 0 then act (s.wholeWrite p.val 0) else s

/-- RESET_REQUEST: `request` of `RESET_CTRL`, with the grace period the register holds. -/
def resetRequest (p : PortIx) (s : State) : State := s.pfAccess p fun s => s.pfRequest p.val (fld (s.preg p.val 0x3010) 0 16)

/-- WITHDRAW: clears the requests of both PFs (R442), never the management interface's (R486). -/
def State.withdrawAll (s : State) : State := s.endRequests ([0, 1].filter fun p => (s.port p).resetReq.isSome)

def withdraw (p : PortIx) (s : State) : State := s.pfAccess p State.withdrawAll

/-- Kind of a sensor by its index: 0 die, 1 hub, 2 base die, 3 LPDDR5X, 4 flash (Table 14-8). -/
def sensorKind (i : Nat) : Nat := if i < 16 then 0 else if i < 24 then 1 else if i < 32 then 2 else if i < 56 then 3 else 4

/-- Warning threshold of a sensor in °C (Table 16-13). -/
def State.warnAt (s : State) (i : Nat) : Int := (fld (s.dreg 0x1030) (8 * sensorKind i) 8 : Nat)

/-- A reset is refused while the device is halted and a sensor reads above its warning threshold (R444). -/
def State.resetRefused (s : State) : Bool :=
  s.mgmt.halted && s.mgmt.readings.zipIdx.any fun x => decide (16 * s.warnAt x.2 < x.1.toInt)

/-- RESET_DEADLINE: a management request resets the device or is refused (R444), and a PF's request lapses, unless the
ports have agreed by then (R442). A halted device waits for the management interface (R449). -/
def resetDeadline (s : State) : State :=
  if !s.awake then s
  else
    let due (d : Option Nat) : Bool := match d with
      | some t => decide (t ≤ s.ticks)
      | none => false
    let late := [0, 1].filter fun p => due (s.port p).resetReq
    if due s.mgmt.resetDeadline then
      if s.resetRefused then
        let s := (s.report lgDevice [] eResetRequest 7 2 0).endRequests late
        { s with mgmt := { s.mgmt with resetDeadline := none } }
      else s.restart
    else if !s.mgmt.halted && s.resetAgreed && !late.isEmpty then s.restart
    else s.endRequests late

/-- DEVICE_RESET: takes place where the ports have agreed (R441), on a device that is not halted (R449). -/
def deviceReset (s : State) : State := if s.awake && !s.mgmt.halted && s.resetAgreed then s.restart else s

/-! ### Recovery answers -/

/-- The event that is shown: the oldest without an answer (R485). -/
def State.shown (s : State) : Option HeldEvent := s.heldEvents.find? fun e => e.escalated.isNone

/-- An event's entry is written again with its answer, and the event leaves the list. -/
def State.answerEvent (s : State) (e : HeldEvent) (answer : Nat) : State :=
  let s := s.logEvent e.log e.ports e.code (if e.rung = 1 then cRecovered else cReinit) e.rung answer e.field e.info0 e.info1
  { s with heldEvents := s.heldEvents.erase e }

/-- Takes the rung of an event: rung 1 is the work's own repeat, and a link resends (R332). -/
def State.takeRung (s : State) (e : HeldEvent) : State :=
  if e.rung = 1 then
    (if e.unit.fn = 5 then s.modLink e.unit.unit fun k => if k.st = .held then { k with st := .active, answered := true } else k else s).goOn
  else (s.reinit e.unit e.code).goOn

/-- An answer of a PF to the shown event (R485). -/
def State.giveAnswer (s : State) (p answer : Nat) (token : BitVec 16) : State :=
  match s.shown with
  | none => s.accessLog p 0 0x3008 accIgnored
  | some e =>
    if e.token ≠ token.toNat then s.accessLog p 0 0x3008 accIgnored
    else if answer = 2 then (s.answerEvent e 2).takeRung e
    else if answer = 3 then
      if e.rung = 1 then ((s.answerEvent e 3).reinit e.unit e.code).goOn
      else
        let s := s.answerEvent e 3
        { s with heldEvents := s.heldEvents ++ [{ e with escalated := some p }] }.pfRequest p 10
    else if answer = 4 then (s.answerEvent e 4).lose e.unit e.code
    else s.accessLog p 0 0x3008 accIgnored

def proceed (p : PortIx) (token : BitVec 16) (s : State) : State := s.pfAccess p fun s => s.giveAnswer p.val 2 token
def escalate (p : PortIx) (token : BitVec 16) (s : State) : State := s.pfAccess p fun s => s.giveAnswer p.val 3 token
def abandon (p : PortIx) (token : BitVec 16) (s : State) : State := s.pfAccess p fun s => s.giveAnswer p.val 4 token

/-- ANSWER_TIMEOUT: the hardware-mode action, once the function's answer timeout has passed (R437). -/
def answerTimeout (token : BitVec 16) (s : State) : State :=
  match s.heldEvents.find? (fun e => e.token == token.toNat && e.escalated.isNone) with
  | none => s
  | some e =>
    let ms := fld (s.dreg (0x1040 + 8 * e.unit.fn.val)) 32 16
    if s.running && ms != 0 && decide (e.since + ms * ticksPerMs ≤ s.ticks) then (s.answerEvent e 5).takeRung e else s

/-! ### Sensors and halts -/

/-- Critical thresholds in °C (Table 14-8). -/
def criticalAt (i : Nat) : Int := [110, 110, 95, 95, 85].getD (sensorKind i) 0

/-- A link at a halt: its peer sees it go down. -/
def Link.halted (k : Link) : Link := { k with st := if k.st = .lost then .lost else .down, phase := 0, peerValid := false }

/-- A halt (R449): every engine, port and link stops, and page writes not yet switched are abandoned (R318). -/
def State.halt (s : State) (thermal : Bool) (sensor : Nat) (reading : BitVec 16) : State :=
  let s := s.logEvent lgDevice [] (if thermal then eThermalHalt else eSupply) cHalt 0 0 7 (BitVec.ofNat 64 sensor)
    (if thermal then reading.signExtend 64 else reading.setWidth 64)
  let s := s.linksFall
  let s : State := { s with
    links := s.links.map fun (x : Nat × Link) => (x.1, x.2.halted)
    flashWrites := []
    mgmt := { s.mgmt with halted := true, haltThermal := thermal, haltSupply := !thermal, haltSensor := sensor, haltReading := reading } }
  s.alert 1

/-- A sensor was below its warning threshold at the last sample and no longer is: `THERMAL_WARN` and ALERT# (R448, R500). -/
def State.warnSensor (s : State) (i : Nat) (v : BitVec 16) : State :=
  if 16 * s.warnAt i ≤ v.toInt then
    if s.mgmt.warned.contains i then s
    else
      ({ s with mgmt := { s.mgmt with warned := s.mgmt.warned ++ [i] } }.report lgDevice [] eThermalWarn 7 i (v.signExtend 64).toNat).alert 2
  else { s with mgmt := { s.mgmt with warned := s.mgmt.warned.filter (· != i) } }

/-- SENSOR_SAMPLE (R448, R449): from the end of stage A on (R454). -/
def sensorSample (readings : List (BitVec 16)) (s : State) : State :=
  if !s.jinalUp || readings.length != 60 then s
  else
    let s := readings.zipIdx.foldl (fun s x => s.warnSensor x.2 x.1) { s with mgmt := { s.mgmt with readings := readings } }
    match readings.zipIdx.find? (fun x => decide (16 * criticalAt x.2 ≤ x.1.toInt)) with
    | some x => if s.mgmt.halted then s else s.halt true x.2 x.1
    | none => s

/-- SUPPLY_FAULT (R449). Below 44 V the power controller acts instead (R494). -/
def supplyFault (mv : Nat) (s : State) : State :=
  if !s.jinalUp || decide (48000 ≤ mv ∧ mv ≤ 58000) then s
  else
    let s := { s with power := { s.power with vin := mv } }
    if s.mgmt.halted then s else s.halt false 0 (BitVec.ofNat 16 mv)

def execProceed (p : PortIx) (token : BitVec 16) (s : State) : Out :=
  .next (s.atBar p (.proceed p token) (proceed p token))
def execEscalate (p : PortIx) (token : BitVec 16) (s : State) : Out :=
  .next (s.atBar p (.escalate p token) (escalate p token))
def execAbandon (p : PortIx) (token : BitVec 16) (s : State) : Out :=
  .next (s.atBar p (.abandon p token) (abandon p token))
def execAnswerTimeout (token : BitVec 16) (s : State) : Out := .next (answerTimeout token s)
def execSensorSample (readings : List (BitVec 16)) (s : State) : Out := .next (sensorSample readings s)
def execSupplyFault (millivolts : Nat) (s : State) : Out := .next (supplyFault millivolts s)
def execResetRequest (p : PortIx) (s : State) : Out :=
  .next (s.atBar p (.resetRequest p) (resetRequest p))
def execWithdraw (p : PortIx) (s : State) : Out :=
  .next (s.atBar p (.withdraw p) (withdraw p))
def execResetDeadline (s : State) : Out := .next (resetDeadline s)
def execDeviceReset (s : State) : Out := .next (deviceReset s)

end Sys2Proof.Machine
end

