-- ==== Sys2Proof/Machine/Boot.lean ====
section
/-! DEFINITION. Start-up (R450-R457), firmware images (R458-R462), identity and measurements (R463-R465), and firmware update (R468-R470). -/

namespace Sys2Proof.Machine

/-! ### Images -/

/-- First byte of a slot in the boot flash (Table 15-4). -/
def slotBase (slot : Bool) : Nat := if slot then 0x1800000 else 0

def State.flashBytes (s : State) (off len : Nat) : Bytes := s.bootFlash.readBytes off len

/-- A component of an image: id, offset, length and digest (Table 15-6). -/
structure Component where
  id : Nat
  off : Nat
  len : Nat
  digest : Bytes

/-- The component table: 6 entries of 48 bytes behind the header. -/
def components (table : Bytes) : List Component :=
  (List.range 6).map fun i =>
    let b := slice table (48 * i) 48
    { id := fieldAt b 0 4, off := fieldAt b 8 4, len := fieldAt b 12 4, digest := slice b 16 32 }

/-- Blows a fuse of the anti-rollback counter, and counts the blown ones (R462). -/
def blowBit (x : BitVec 128) : BitVec 128 := x ||| (x + 1)
def svnCount (x : BitVec 128) : Nat := ((List.range 128).filter fun i => x.getLsbD i).length
/-- Blows fuses, one at a time, until the counter has reached a value, at most 128 of them. -/
def blowTo (x : BitVec 128) (n : Nat) : BitVec 128 := (blowBit^[min n 128 - svnCount x]) x
def State.svnFuse (s : State) : Nat := svnCount s.fuses.svn

/-- The fixed fields of a header, and its reserved bytes and those of the component table (Tables 15-5, 15-6). -/
def headerOk (h table : Bytes) : Bool :=
  slice h 0 4 == ascii "AN31" && fieldAt h 4 4 == 1 + 6 * 65536 && zeroRange h 9 3 && decide (fieldAt h 12 4 ≤ 2 ^ 24) &&
    decide (fieldAt h 8 1 ≤ 128 ∧ fieldAt h 24 1 < 4) && zeroRange h 25 7 && zeroRange h 96 96 && (List.range 6).all fun i => zeroRange table (48 * i + 4) 4

/-- Ids 1 to 6 appear once each, inside the image and apart from one another. -/
def layoutOk (size : Nat) (cs : List Component) : Bool :=
  (List.range 6).all (fun i => (cs.filter fun c => c.id == i + 1).length == 1) &&
    cs.all (fun c => decide (c.off + c.len ≤ size)) &&
    cs.all (fun c => cs.all fun d => c.id == d.id || decide (c.off + c.len ≤ d.off ∨ d.off + d.len ≤ c.off))

/-- A slot's header and component table are read into Jinal's SRAM (R460). -/
def State.readHeader (s : State) (slot : Bool) : State :=
  { s with boot := { s.boot with sram := s.boot.sram.writeBytes 0 (s.flashBytes (slotBase slot) 544) } }

/-- Header and component table under check. -/
def State.header (s : State) : Bytes := s.boot.sram.readBytes 0 256
def State.table (s : State) : Bytes := s.boot.sram.readBytes 256 288

/-- The whole image of a slot is read once into the boot image SRAM (R460). -/
def State.readImage (s : State) (slot : Bool) : State :=
  { s with boot := { s.boot with image := s.boot.image.writeBytes 0 (s.flashBytes (slotBase slot) (fieldAt s.header 12 4)) } }

/-- The steps of R460 up to the signature and the layout, over the header and the table in Jinal's SRAM: the status of the
first that fails, 0 when none does. -/
def State.headerStatus (s : State) : Nat :=
  let h := s.header
  let key := fieldAt h 24 1
  let pub := slice h 32 64
  if !headerOk h s.table || bitAt s.fuses.revoked.toNat key || sha256 pub != s.fuses.rootHash.getD key 0 then 0x10
  else if fieldAt h 8 1 < s.svnFuse then 0x11
  else if ecdsaVerify (beNat (slice h 32 32)) (beNat (slice h 64 32)) (sha256 (h.take 192 ++ s.table)) (beNat (slice h 192 32)) (beNat (slice h 224 32)) &&
      layoutOk (fieldAt h 12 4) (components s.table) then 0
  else 0x10

/-- The digests of R460, over the boot image SRAM. -/
def State.digestsOk (s : State) : Bool :=
  (components s.table).all fun c => digestBytes (sha256 (s.boot.image.readBytes c.off c.len)) == c.digest

/-- `verify` of R460 over a slot, with the copies in SRAM that it leaves: the status of the first step that fails, 0 when none does. -/
def State.verifyRead (s : State) (slot : Bool) : Nat × State :=
  let s := s.readHeader slot
  if s.headerStatus ≠ 0 then (s.headerStatus, s)
  else
    let s := s.readImage slot
    (if s.digestsOk then 0 else 0x10, s)

def State.verifySlot (s : State) (slot : Bool) : Nat := (s.verifyRead slot).1

/-- The first of some slots that passes, with what the tries leave in SRAM. -/
def State.tryReads (s : State) : List Bool → Option Bool × State
  | [] => (none, s)
  | b :: r =>
    let v := s.verifyRead b
    if v.1 = 0 then (some b, v.2) else v.2.tryReads r

/-- `svn` of the image in a slot. -/
def State.slotSvn (s : State) (slot : Bool) : Nat := fieldAt (s.flashBytes (slotBase slot + 8) 1) 0 1

/-! ### Identity and measurements -/

/-- H9 of R465 over measurements 1 to 9. -/
def chainValue (ds : List (BitVec 256)) : BitVec 256 := ds.foldl (fun h d => sha256 (digestBytes h ++ digestBytes d)) 0

/-- Measurements 1 to 11 of a boot from a slot (Table 15-7); index 10 is as the latest set-up lock left it. -/
def State.measure (s : State) (slot : Bool) : List (BitVec 256) :=
  let h := s.flashBytes (slotBase slot) 256
  let table := s.flashBytes (slotBase slot + 256) 288
  let comp (i : Nat) : BitVec 256 := match (components table).find? (fun c => c.id == i) with
    | some c => BitVec.ofNat 256 (beNat c.digest)
    | none => 0
  let ds := [Config.romDigest, sha256 (Config.fuseBytes s.svnFuse s.fuses.revoked.toNat (fieldAt h 24 1)), sha256 (h ++ table)] ++ (rangeFrom 1 6).map comp
  ds ++ [s.boot.meas.getD 9 0, chainValue ds]

/-- The key pairs of R463. -/
def State.deviceKey (s : State) : Nat := deriveKey s.fuses.uds (ascii "AN3100-DEVICEID")
def State.aliasOf (s : State) (h9 : BitVec 256) : Nat := deriveKey s.fuses.uds (ascii "AN3100-ALIAS" ++ digestBytes h9)

/-- Length of the DER value at the front of some bytes, with its tag and length bytes; 0 when there is none. -/
def derLen (b : Bytes) : Nat :=
  let n := fieldAt b 1 1
  if fieldAt b 0 1 ≠ 0x30 then 0
  else if n < 128 then n + 2
  else if n - 128 ≤ 3 then beNat (slice b 2 (n - 128)) + 2 + (n - 128)
  else 0

/-- Certificates 1 to 3 as the boot flash holds them, one behind the other (PRESUMED, log entry 46). -/
def State.storedCerts (s : State) : List Bytes :=
  let b := s.flashBytes 0x3010000 0x10000
  let n1 := derLen b
  let n2 := derLen (b.drop n1)
  let n3 := derLen (b.drop (n1 + n2))
  [b.take n1, (b.drop n1).take n2, (b.drop (n1 + n2)).take n3]

/-- A byte string occurs in another. -/
def occurs (x : Bytes) : Bytes → Bool
  | [] => x.isEmpty
  | y :: r => (y :: r).take x.length == x || occurs x r

/-- The DeviceID certificate holds the derived public key (R464). -/
def State.deviceCertOk (s : State) : Bool := occurs ([0x03#8, 0x42#8, 0x00#8, 0x04#8] ++ publicKey s.deviceKey) (s.storedCerts.getD 2 [])

/-! The alias certificate in DER (R464). -/

/-- A DER value: its tag, its length and its bytes. -/
def der (tag : Nat) (b : Bytes) : Bytes :=
  natLe 1 tag ++ (if b.length < 128 then natLe 1 b.length else if b.length < 256 then natLe 1 0x81 ++ natLe 1 b.length else natLe 1 0x82 ++ natBe 2 b.length) ++ b

/-- A DER integer that is not negative, of at most 32 bytes. -/
def derInt (v : Nat) : Bytes :=
  let b := (natBe 32 v).dropWhile (· == 0#8)
  der 2 (if b.headD 0x80#8 ≥ 0x80#8 then 0#8 :: b else b)

/-- `ecdsa-with-SHA256`, and a P-256 public key. -/
def derSigAlg : Bytes := der 0x30 (der 6 [0x2A, 0x86, 0x48, 0xCE, 0x3D, 0x04, 0x03, 0x02])
def derKey (pub : Bytes) : Bytes :=
  der 0x30 (der 0x30 (der 6 [0x2A, 0x86, 0x48, 0xCE, 0x3D, 0x02, 0x01] ++ der 6 [0x2A, 0x86, 0x48, 0xCE, 0x3D, 0x03, 0x01, 0x07]) ++ der 3 (0#8 :: 4#8 :: pub))

/-- notBefore and notAfter of the alias certificate. -/
def derValidity : Bytes := der 0x30 (der 0x18 (ascii "19700101000000Z") ++ der 0x18 (ascii "99991231235959Z"))

/-- What the ROM signs of an alias certificate: X.509 v3, its serial number bytes 0 to 15 of H9 with bit 7 of byte 0 cleared,
the times of R464 and the alias public key. Its names and extensions, which the spec does not fix, are open. -/
def aliasBody (h9 : BitVec 256) (pub : Bytes) : Bytes :=
  der 0x30 (der 0xA0 (derInt 2) ++ derInt (h9.toNat / 2 ^ 128 % 2 ^ 127) ++ derSigAlg ++ Config.certName 0 ++ derValidity ++ Config.certName 1 ++
    derKey pub ++ Config.certName 2)

/-- The alias certificate, signed with the DeviceID private key (R463). -/
def State.makeAlias (s : State) (h9 : BitVec 256) : Bytes :=
  let tbs := aliasBody h9 (publicKey (s.aliasOf h9))
  let g := ecdsaSign s.deviceKey (sha256 tbs) (Config.nonce s.freeCtr)
  der 0x30 (tbs ++ derSigAlg ++ der 3 (0#8 :: der 0x30 (derInt (beNat (g.take 32)) ++ derInt (beNat (g.drop 32)))))

/-! ### Stages -/

/-- Limits of the stages in ticks (Table 15-2). -/
def stageLimit : Stage → Nat
  | .off => 0
  | .wake => 5 * ticksPerMs
  | .verify => 100 * ticksPerMs
  | .clocks => 3 * ticksPerMs
  | .bridges => 10 * ticksPerMs
  | .memories => 120 * ticksPerMs
  | .flash => 550 * ticksPerMs
  | .links => 70 * ticksPerMs
  | .release => 2 * ticksPerMs
  | .done => 0

/-- Place of a stage in Table 15-2, from 0 for A. -/
def Stage.index : Stage → Nat
  | .off => 0
  | .wake => 0
  | .verify => 1
  | .clocks => 2
  | .bridges => 3
  | .memories => 4
  | .flash => 5
  | .links => 6
  | .release => 7
  | .done => 8

def Stage.next : Stage → Stage
  | .off => .off
  | .wake => .verify
  | .verify => .clocks
  | .clocks => .bridges
  | .bridges => .memories
  | .memories => .flash
  | .flash => .links
  | .links => .release
  | .release => .done
  | .done => .done

/-- A stage ends, its duration is kept, and a given one begins. -/
def State.stageTo (s : State) (next : Stage) : State :=
  { s with boot := { s.boot with stage := next, since := s.ticks, stageTicks := s.boot.stageTicks.set s.boot.stage.index (s.ticks - s.boot.since) } }

def State.stageEnd (s : State) : State := s.stageTo s.boot.stage.next

/-- The stage under way has run past its limit (R451): what ends it is STAGE_TIMEOUT. -/
def State.stageLate (s : State) : Bool := decide (s.boot.since + stageLimit s.boot.stage < s.ticks)

/-- The stage under way is the one given, inside its limit, and nothing has halted start-up (R451, R454). -/
def State.atStage (s : State) (st : Stage) : Bool := s.awake && !s.mgmt.halted && s.boot.stage == st && !s.stageLate

/-- A failed stage writes its cause to the device log (R453); the code is the model's: PRESUMED, log entry 9. -/
def State.stageLog (s : State) (info1 : Nat) : State := s.report lgDevice [] eFunctionLost 7 (s.boot.stage.index + 1) info1

/-- The first failed stage is kept (Table 16-3). -/
def State.stageFails (s : State) : State :=
  { s with boot := { s.boot with failStage := if s.boot.failStage = 0 then s.boot.stage.index + 1 else s.boot.failStage } }

/-- Start-up ends in RECOVERY: stage H is all that is left of it (R453). -/
def State.toRecovery (s : State) (info1 : Nat) : State :=
  let s := (s.stageLog info1).stageFails
  ({ s with boot := { s.boot with outcome := 2 } }).stageTo .release

/-- A unit that fails a later stage is LOST (R453). -/
def State.loseUnits (s : State) (us : List FnUnit) : State :=
  us.foldl (fun s u => s.stageFails.lose u eFunctionLost) s

/-! ### Stage B -/

/-- The slots to try, in order (R461, R470). -/
def SlotState.order (x : SlotState) : List Bool :=
  if x.pendingFlag && decide (x.trials < 3) then [x.pending, !x.pending] else if x.pendingFlag then [!x.pending, x.pending] else [x.active, !x.active]

/-- The slot state after a boot from a slot, or from none (R461, R470). -/
def SlotState.booted (x : SlotState) (slot : Option Bool) : SlotState :=
  match slot with
  | none => if x.pendingFlag then { x with pendingFlag := false, trials := 0 } else x
  | some b =>
    if x.pendingFlag && decide (x.trials < 3) && b == x.pending then { x with active := b, trials := x.trials + 1 }
    else if x.pendingFlag then
      let y := { x with active := b, pendingFlag := false, trials := 0 }
      if x.trials < 3 then (if x.pending then { y with invalid1 := true } else { y with invalid0 := true }) else y
    else { x with active := b }

/-- A slot is not marked invalid. -/
def SlotState.usable (x : SlotState) (slot : Bool) : Bool := !(if slot then x.invalid1 else x.invalid0)

/-- Stage A ends, where its end has had no command of its own: the spec bounds its duration only (DESIGN CHOICE, log entry 2). -/
def State.wakeEnd (s : State) : State :=
  if s.boot.stage = .wake then
    let a := min s.wakeTicks (s.ticks - s.boot.since)
    { s with boot := { s.boot with stage := .verify, since := s.boot.since + a, stageTicks := s.boot.stageTicks.set 0 a } }
  else s

/-- VERIFY (R460-R465): Jinal reads the slot state, tries the slots, measures the one it runs, and the ROM derives the alias
key, signs its certificate, erases the DeviceID key and locks `uds` (R463). From power good it ends stages A and B. -/
def verify (s : State) : State :=
  let s := if s.awake && !s.mgmt.halted then s.wakeEnd else s
  if !s.atStage .verify then s
  else
    let x := s.readSlots
    let s := { s with boot := { s.boot with slots := x } }
    let t := s.tryReads (x.order.filter x.usable)
    let s := t.2
    let y := x.booted t.1
    let s := if x.pendingFlag && decide (3 ≤ x.trials) && t.1 == some (!x.pending) then s.stageLog 0x100 else s
    let s := s.putSlots y
    let s := { s with boot := { s.boot with trial := y.pendingFlag } }
    match t.1 with
    | none => s.toRecovery 1
    | some b =>
      if !s.deviceCertOk then s.toRecovery 2
      else
        let m := s.measure b
        let h9 := m.getD 10 0
        ({ s with freeCtr := s.freeCtr + 1,
                  boot := { s.boot with svn := s.slotSvn b, meas := m, aliasKey := s.aliasOf h9, aliasCert := s.makeAlias h9, udsLocked := true } }).stageEnd

/-! ### Stages C to H -/

/-- CLOCKS (R455): clock 0 is the main die's, 1 and 2 the hubs', 3 to 10 the base dies' and 11 up the link SerDes'.
A PLL that failed twice is logged as `CLOCK`. -/
def State.clocksEnd (s : State) (failed : Failed) : State :=
  let s := failed.foldl (fun s n => s.logEvent lgDevice [] eClock cReport 0 0 7 (BitVec.ofNat 64 n) 0) s
  if failed.contains 0 then s.toRecovery 0
  else
    let s := s.loseUnits (failed.filterMap fun n => if 1 ≤ n ∧ n ≤ 2 then some ⟨3, n - 1⟩ else if 3 ≤ n ∧ n ≤ 10 then some ⟨2, n - 3⟩ else none)
    ((failed.filter fun n => decide (11 ≤ n ∧ n < 47)).foldl (fun s n => s.linkGone (n - 11) .down) s).stageEnd

def clocks (failed : Failed) (s : State) : State := if s.atStage .clocks then s.clocksEnd failed else s

/-- BRIDGES: a hub bridge that fails loses its hub (R453). -/
def State.bridgesEnd (s : State) (failed : Failed) : State :=
  (s.loseUnits (failed.filterMap fun n => if n < 2 then some ⟨3, n⟩ else none)).stageEnd

def bridges (failed : Failed) (s : State) : State := if s.atStage .bridges then s.bridgesEnd failed else s

/-- MEMORIES: units 0 to 7 are the stacks, and 8 to 31 the packages, 12 to a hub, whose hub is LOST with them
(DEDUCED, log entry 45). -/
def State.memoriesEnd (s : State) (failed : Failed) : State :=
  (s.loseUnits (failed.filterMap fun n => if n < 8 then some ⟨2, n⟩ else if n < 32 then some ⟨3, (n - 8) / 12⟩ else none)).stageEnd

def memories (failed : Failed) (s : State) : State := if s.atStage .memories then s.memoriesEnd failed else s

/-- FLASH: a hub whose map cannot be loaded loses its tier 2 (R453). Stage G begins bring-up of every link. -/
def State.flashEnd (s : State) (failed : Failed) : State :=
  let s := (failed.filter fun n => decide (n < 2)).foldl (fun (s : State) n =>
    let s := (s.stageLog n).stageFails
    { s with boot := { s.boot with tier2Lost := if s.boot.tier2Lost.contains n then s.boot.tier2Lost else s.boot.tier2Lost ++ [n] } }) s
  s.stageEnd.linksBegin

def flash (failed : Failed) (s : State) : State := if s.atStage .flash then s.flashEnd failed else s

/-- LINKS: a link that failed its phases goes DOWN, which is no failure of the stage (R453); one without a cable
stays at phase 1 (R497). -/
def State.linksEnd (s : State) (failed : Failed) : State :=
  ((failed.filter fun l => decide (l < 36) && (s.link l).st == .training && decide ((s.link l).phase ≤ 4) && s.cabled l).foldl
    (fun s l => s.linkGone l .down) s).stageEnd

def links (failed : Failed) (s : State) : State := if s.atStage .links then s.linksEnd failed else s

/-- RELEASE (R451-R453): the outcome is set, and each port that is not held in reset is released. -/
def State.releaseEnd (s : State) : State :=
  let s := { s with boot := { s.boot with outcome := if s.boot.outcome = 2 then 2 else if s.boot.failStage = 0 then 0 else 1 } }.stageEnd
  [0, 1].foldl (fun s p => if (s.port p).perst || s.unitLost 6 p || s.unitLost 3 p then s else s.releasePort p) s

def release (s : State) : State := if s.atStage .release then s.releaseEnd else s

/-- The units that a stage brings up, by the numbers its command gives them. -/
def stageUnits : Stage → Nat
  | .clocks => 47
  | .bridges => 2
  | .memories => 32
  | .flash => 2
  | .links => 36
  | .release => 2
  | _ => 0

/-- What becomes of a stage in which some units fail. -/
def State.stageResult (s : State) (units : Failed) : State :=
  match s.boot.stage with
  | .wake => s.toRecovery 3
  | .verify => s.toRecovery 3
  | .clocks => s.clocksEnd units
  | .bridges => s.bridgesEnd units
  | .memories => s.memoriesEnd units
  | .flash => s.flashEnd units
  | .links => s.linksEnd units
  | .release => (s.loseUnits (units.map fun n => ⟨6, n⟩)).releaseEnd
  | .off => s
  | .done => s

/-- STAGE_TIMEOUT (R451): the stage has run past its limit, and its units that did not end in time fail; stages A and B end in
RECOVERY, and at stage H the units are the ports. A list that names no unit of the stage is no failure of it. -/
def stageTimeout (units : Failed) (s : State) : State :=
  let mine := units.filter fun n => decide (n < stageUnits s.boot.stage)
  if !s.awake || s.mgmt.halted || !s.stageLate || (mine.isEmpty && s.boot.stage != .wake && s.boot.stage != .verify) then s
  else s.stageResult mine

/-! ### Firmware update -/

/-- Statuses of `MBOX_STATUS` (Table 16-23). -/
def fwOk := 0x00
def fwBad := 0x01
def fwConflict := 0x02
def fwNotOwner := 0x12
/-- Statuses of the management interface (R498). -/
def mgNotReady := 0x20
def mgRefused := 0x21
def mgBusy := 0x22

/-- A running command of the mailbox or of the management interface: its word as `MBOX_CMD` has it, with the operands of
FW_WRITE only (Table 16-23). -/
def fwWord (cmd off len : Nat) : Nat := if cmd = 2 then cmd + len % 8192 * 2 ^ 16 + off % 2 ^ 32 * 2 ^ 32 else cmd

/-- A command completes: a mailbox sets `done` and raises `err_vector` (R487); the management interface answers with the status. -/
def State.fwAnswer (s : State) (who : Requester) (status : Nat) : State :=
  match who with
  | .pf p => (s.modPort p.val fun x => { x with mboxBusy := none, mboxDone := true, mboxStatus := status, mboxCount := x.mboxCount + 1 }).raiseErr p.val
  | .mgmt _ _ => { s with mgmt := { s.mgmt with running := none } }.emit (.mgmt status [])

/-- A PF's mailbox carries out a command: the one it runs, to its end, or one written now through its BAR0, which works in
RECOVERY as well (R453). While it runs another, the write is ignored and logged (R487). -/
def State.fwMailbox (s : State) (p : PortIx) (word : Nat) (act : State → Nat × State) : State :=
  match (s.port p.val).mboxBusy with
  | some w =>
    if w = word then (if s.jinalUp then (act s).2.fwAnswer (.pf p) (act s).1 else s)
    else if s.fnOpen p.val 0 then (s.wholeWrite p.val 0).accessLog p.val 0 0x4000 accIgnored
    else s
  | none =>
    if s.fnOpen p.val 0 then
      let s := s.wholeWrite p.val 0
      (act s).2.fwAnswer (.pf p) (act s).1
    else s

/-- A transfer of the management interface carries out a command, or only begins it; while another of its commands runs it
is answered BUSY, and a failed PEC carries nothing out (R498). -/
def State.fwTransfer (s : State) (x : MgXfer) (ends : Bool) (word : Nat) (data : Bytes) (act : State → Nat × State) : State :=
  if !x.pecOk || !s.power.standby then s
  else if !s.jinalUp then s.emit (.mgmt mgNotReady [])
  else if s.mgmt.running.isSome ∧ s.mgmt.running ≠ some (word, data) then s.emit (.mgmt mgBusy [])
  else if ends then (act s).2.fwAnswer (.mgmt x ends) (act s).1
  else if s.mgmt.running.isSome then s.emit (.mgmt mgBusy [])
  else { s with mgmt := { s.mgmt with running := some (word, data) } }

/-- A firmware command of either. -/
def State.fwDo (s : State) (who : Requester) (word : Nat) (data : Bytes) (act : State → Nat × State) : State :=
  match who with
  | .pf p => s.fwMailbox p word act
  | .mgmt x ends => s.fwTransfer x ends word data act

/-- A command of a PF waits while its port restarts, but for one that its mailbox runs already. -/
def State.atFw (s : State) (who : Requester) (i : Instr) (act : State → State) : State :=
  match who with
  | .pf p => if (s.port p.val).mboxBusy.isSome then act s else s.atBar p i act
  | .mgmt _ _ => act s

/-- The slot an update writes: the one that is not active (R468). -/
def State.updateSlot (s : State) : Bool := !s.boot.slots.active

def fwOpen (who : Requester) (s : State) : State :=
  s.fwDo who (fwWord 1 0 0) [] fun s =>
    if s.boot.session.isSome || s.boot.slots.pendingFlag then (fwConflict, s)
    else (fwOk, { s with boot := { s.boot with session := some who.owner } })

/-- A session command of a requester that did not open the session is rejected (R487). -/
def State.inSession (s : State) (who : Requester) (act : State → Nat × State) : Nat × State :=
  if s.boot.session = some who.owner then act s else (fwNotOwner, s)

/-- FW_WRITE: a PF's data stand in `MBOX_DATA` (R487); the management interface's come with the command (Table 17-5). -/
def fwWrite (who : Requester) (off len : Nat) (data : Bytes) (s : State) : State :=
  s.fwDo who (fwWord 2 off len) data fun s =>
    let d := match who with
      | .pf p => (s.port p.val).mboxData.readBytes 0 len
      | .mgmt _ _ => data
    let ok := match who with
      | .pf _ => decide (1 ≤ len ∧ len ≤ 4096 ∧ off % 4096 = 0 ∧ off < 2 ^ 24)
      | .mgmt _ _ => decide (1 ≤ data.length ∧ data.length ≤ 240 ∧ off % 16 = 0 ∧ off < 2 ^ 24)
    if !ok then (fwBad, s)
    else s.inSession who fun s => (fwOk, { s with bootFlash := s.bootFlash.writeBytes (slotBase s.updateSlot + off) d })

/-- FW_CLOSE verifies the slot by R460 (R468). -/
def fwClose (who : Requester) (s : State) : State :=
  s.fwDo who (fwWord 3 0 0) [] fun s => s.inSession who fun s =>
    let slot := s.updateSlot
    let v := s.verifyRead slot
    let s := v.2
    if v.1 = 0 then
      let x := s.boot.slots
      let x := { x with pending := slot, pendingFlag := true, trials := 0, invalid0 := x.invalid0 && slot, invalid1 := x.invalid1 && !slot }
      (fwOk, { s with boot := { s.boot with session := none } }.putSlots x)
    else (v.1, s.endSession)

def fwAbort (who : Requester) (s : State) : State := s.fwDo who (fwWord 4 0 0) [] fun s => s.inSession who fun s => (fwOk, s.endSession)

/-- FW_COMMIT (R462, R470): ends the trial, and raises the fuse counter to the image's `svn` bit by bit. -/
def fwCommit (who : Requester) (s : State) : State :=
  s.fwDo who (fwWord 5 0 0) [] fun s =>
    if !s.boot.trial then (fwOk, s)
    else
      let s : State := { s with fuses := { s.fuses with svn := blowTo s.fuses.svn s.boot.svn }, boot := { s.boot with trial := false } }
      (fwOk, s.putSlots { s.boot.slots with pendingFlag := false, trials := 0 })

/-- Power goes while a commit may be running: it may have blown any number of the fuses it was to blow (R462). -/
def State.blowPartly (s : State) : State :=
  let commit : Bool := [0, 1].any (fun p => (s.port p).mboxBusy == some (fwWord 5 0 0)) || s.mgmt.running == some (fwWord 5 0 0, [])
  if commit && s.boot.trial then
    let f := s.free
    { f.2 with fuses := { s.fuses with svn := blowTo s.fuses.svn (s.svnFuse + f.1.toNat % (s.boot.svn - s.svnFuse + 1)) } }
  else s

def execVerify (s : State) : Out := .next (verify s)
def execClocks (failed : Failed) (s : State) : Out := .next (clocks failed s)
def execBridges (failed : Failed) (s : State) : Out := .next (bridges failed s)
def execMemories (failed : Failed) (s : State) : Out := .next (memories failed s)
def execFlash (failed : Failed) (s : State) : Out := .next (flash failed s)
def execLinks (failed : Failed) (s : State) : Out := .next (links failed s)
def execRelease (s : State) : Out := .next (release s)
def execStageTimeout (units : Failed) (s : State) : Out := .next (stageTimeout units s)
def execFwOpen (who : Requester) (s : State) : Out :=
  .next (s.atFw who (.fwOpen who) (fwOpen who))
def execFwWrite (who : Requester) (off : Nat) (len : Nat) (data : Bytes) (s : State) : Out :=
  .next (s.atFw who (.fwWrite who off len data) (fwWrite who off len data))
def execFwClose (who : Requester) (s : State) : Out :=
  .next (s.atFw who (.fwClose who) (fwClose who))
def execFwAbort (who : Requester) (s : State) : Out :=
  .next (s.atFw who (.fwAbort who) (fwAbort who))
def execFwCommit (who : Requester) (s : State) : Out :=
  .next (s.atFw who (.fwCommit who) (fwCommit who))

end Sys2Proof.Machine
end

