-- ==== Sys2Proof/Machine/Pins.lean ====
section
/-! DEFINITION. The pins of the host connector and of the link connectors (R490, R496), and the module's bus address (R498). -/

namespace Sys2Proof.Machine

/-- What a pin of the host connector carries (Tables 17-1 and 17-2). -/
inductive HostPin where
  | lane (port : PortIx) (lane : Fin 16) (transmit positive : Bool)
  | refclk (port : PortIx) (positive : Bool)
  | perst (port : PortIx)
  | prsnt (n : Fin 2)
  | pwrEn
  | pwrgd
  | alert
  | i3cScl
  | i3cSda
  | smbClk
  | smbDat
  | maddr (n : Fin 2)
  | gpio (n : Fin 4)
  | noConnection
  | ground
deriving DecidableEq, Repr

/-- The sideband pins by row (A is 0) and column (Table 17-2). -/
def sideband (row : Fin 8) (col : Nat) : HostPin :=
  match row.val, col with
  | 0, 49 => .refclk 0 true
  | 0, 50 => .refclk 0 false
  | 4, 49 => .refclk 1 true
  | 4, 50 => .refclk 1 false
  | 2, 49 => .perst 0
  | 6, 49 => .perst 1
  | 2, 50 => .prsnt 0
  | 6, 50 => .prsnt 1
  | 3, 49 => .pwrEn
  | 3, 50 => .pwrgd
  | 7, 49 => .alert
  | 0, 51 => .i3cScl
  | 1, 51 => .i3cSda
  | 2, 51 => .smbClk
  | 3, 51 => .smbDat
  | 4, 51 => .maddr 0
  | 5, 51 => .maddr 1
  | 6, 51 => .gpio 0
  | 7, 51 => .gpio 1
  | 0, 52 => .gpio 2
  | 1, 52 => .gpio 3
  | 7, 50 => .noConnection
  | 2, 52 => .noConnection
  | 3, 52 => .noConnection
  | _, _ => .ground

/-- A pin of the host connector: lane n of a port takes columns 3n + 1 to 3n + 3 of the port's four rows (R490). -/
def hostPin (row : Fin 8) (col : Fin 57) : HostPin :=
  if 49 ≤ col.val then sideband row col.val
  else
    let k := col.val - 1
    let p : PortIx := if row.val < 4 then 0 else 1
    let n := Fin.ofNat 16 (k / 3)
    if col.val = 0 ∨ k % 3 = 2 then .ground
    else if row.val % 4 = 0 then .lane p n true (k % 3 == 0)
    else if row.val % 4 = 2 then .lane p n false (k % 3 == 0)
    else .ground

/-- What a pin of a link connector carries: the link is the connector's j-th (R496). -/
inductive LinkPin where
  | lane (j : Fin 4) (lane : Fin 2) (transmit positive : Bool)
  | cprsnt
  | cidScl
  | cidSda
  | cid3v3
  | ground
deriving DecidableEq, Repr

/-- A pin of a link connector (R496). -/
def linkPin (row : Fin 4) (col : Fin 27) : LinkPin :=
  if col.val = 25 then (match row.val with
    | 0 => .cprsnt
    | 2 => .cidScl
    | 3 => .cidSda
    | _ => .ground)
  else if col.val = 26 then (if row.val = 0 then .cid3v3 else .ground)
  else
    let k := col.val - 1
    if col.val = 0 ∨ k % 3 = 2 ∨ row.val % 2 = 1 then .ground
    else .lane (Fin.ofNat 4 (k / 6)) (Fin.ofNat 2 (k % 6 / 3)) (row.val == 0) (k % 3 == 0)

/-- The 7-bit SMBus address, which is also the static I3C address (R498). -/
def busAddress (strap : BitVec 2) : BitVec 7 := 0x60#7 + strap.setWidth 7

end Sys2Proof.Machine
end

