-- ==== Sys2Proof/Machine/Registers.lean ====
section
/-! DEFINITION. Set-up registers (chapter 16): the map and what each register reads as, the set-up lock, the enables that claim resources, and writes. -/

namespace Sys2Proof.Machine

/-! ### Reads -/

/-- A number from fields given as (value, lowest bit). -/
def fields (l : List (Nat × Nat)) : Nat := l.foldl (fun a x => a + x.1 * 2 ^ x.2) 0

def natOf (b : Bool) : Nat := if b then 1 else 0

/-- One bit for each of n units. -/
def bitMap (n : Nat) (t : Nat → Bool) : Nat := fields ((List.range n).map fun i => (natOf (t i), i))

/-- `CAP_IDENT` (Table 16-2). -/
def State.capIdent (s : State) : Nat :=
  fields [(0x3100, 0), (s.fuses.code.toNat % 16, 16), (s.fuses.moduleRev.toNat, 20), (if s.fuses.code = 0 then 8000 else 16000, 32)]

/-- `BOOT_STATE` (Table 16-3). -/
def State.bootState (s : State) : Nat :=
  let b := s.boot
  fields [(b.outcome, 0), (b.failStage, 2), (natOf b.slots.active, 6), (natOf b.trial, 7), (b.slots.trials, 8), (b.svn, 16), (s.svnFuse, 24)]

/-- `UNIT_STATE` (Table 16-24). -/
def State.unitState (s : State) : Nat :=
  fields [(bitMap 8 (s.unitLost 1), 0), (bitMap 10 (s.unitLost 2), 8), (bitMap 2 (s.unitLost 3), 18), (bitMap 2 (s.unitLost 6), 20),
    (bitMap 2 s.boot.tier2Lost.contains, 22),
    (((List.range 36).filter fun l => (s.link l).st == .lost || ((s.link l).st == .down && s.linkEnabled l)).length, 24)]

/-- `SETUP_LOCK` (Table 16-4). -/
def State.setupLock (s : State) : Nat :=
  fields [(natOf s.locked, 1), (natOf s.lockRefused, 2), (s.lockBy, 3), (s.lockCause, 4), (s.lockCount.toNat, 32)]

def Phase.num : Phase → Nat
  | .startup => 0
  | .service => 1
  | .test => 2
  | .recovery => 3

/-- `PORT_CTRL` (Table 16-15). -/
def State.portCtrl (s : State) (p : Nat) : Nat :=
  let w := s.preg p 0x2000
  fields [((s.port p).phase.num, 0), (natOf ((s.port p).phase == .test), 3), (natOf (s.quiesced p), 4), (fld w 5 2, 5), (fld w 8 11, 8), (fld w 32 16, 32)]

/-- `PORT_CLAIM` (R479). -/
def Port.claimWord (x : Port) : Nat := fields [(natOf x.conflict, 0), (x.conflictFeature, 4), (x.conflictCount.toNat, 32)]

/-- `RECOVERY_HELD` (Table 16-21). -/
def State.heldWord (s : State) : Nat :=
  match s.shown with
  | some e => fields [(1, 0), (e.unit.fn.val, 8), (e.field % 8192, 11), (e.rung, 24), (e.code, 32), (e.token, 48)]
  | none => 0

/-- `RESET_STATUS` (Table 16-22); with no request pending of its own, `other_host` tells what a request would find. -/
def State.resetStatus (s : State) (p : Nat) : Nat :=
  let host := if (s.port p).resetReq.isSome then !s.noHost (1 - p) else (s.port (1 - p)).enumerated && (s.port (1 - p)).linkUp
  fields [(natOf (s.port p).resetReq.isSome, 0), (natOf (s.port (1 - p)).resetReq.isSome, 1), (natOf s.mgmt.resetDeadline.isSome, 2), (natOf host, 3)]

/-- `RESET_DEADLINE`: the earliest pending one. -/
def State.firstDeadline (s : State) : Nat :=
  (([(s.port 0).resetReq, (s.port 1).resetReq, s.mgmt.resetDeadline].filterMap id).min?).getD 0

/-- `MBOX_STATUS` (Table 16-23). -/
def Port.mboxWord (x : Port) : Nat := fields [(natOf x.mboxBusy.isSome, 0), (natOf x.mboxDone, 1), (x.mboxStatus, 8), (x.mboxCount.toNat, 32)]

def LinkSt.num : LinkSt → Nat
  | .down => 0
  | .training => 1
  | .active => 2
  | .reinit => 3
  | .held => 4
  | .lost => 5

/-- The words of a link (Table 16-9). -/
def State.linkWord (s : State) (l w : Nat) : Nat :=
  let k := s.link l
  if w = 0 then
    fields [(k.st.num, 0), (if k.st = .training then k.phase else 0, 3), (k.peerId, 6), (k.peerLink, 18), (natOf k.peerValid, 24)]
  else if w = 1 then s.dreg (0x38008 + 64 * l) % 2
  else if w = 2 then k.resends
  else if w = 3 then k.discards
  else 0

def RingSt.num : RingSt → Nat
  | .idle => 0
  | .active => 1
  | .draining => 2
  | .stopped => 3
  | .orphaned => 4

/-- The words of a ring set-up window (Table 16-18). -/
def State.ringWord (s : State) (r w : Nat) : Nat :=
  let g := s.ring r
  match w with
  | 0 => g.w0.toNat
  | 1 => g.w1.toNat
  | 2 => g.w2.toNat
  | 3 => g.w3.toNat
  | 4 => g.w4.toNat
  | 5 => fields [(g.st.num, 0), (g.refusal, 8), (s.ringFn r, 16)]
  | _ => 0

/-- A sync object's word (R297). -/
def SyncObj.word (x : SyncObj) : Nat := fields [(x.count.toNat, 0), (natOf x.aborted, 32), (natOf x.underflow, 33)]

/-- The four words of a stream window (Table 16-19): the counts of the current generation (R291), zeros where there
is none. -/
def State.streamWords (s : State) (n : Nat) : List Word :=
  let t := s.strm n
  let c : Nat × Nat × Nat := match t.current with
    | some g => (g.delivered, g.requested, g.consumed)
    | none => (0, 0, 0)
  [c.1, c.2.1, c.2.2, fields [(t.status, 0), (natOf t.delivering.isSome, 8), (natOf t.queued.isSome, 9)]].map (BitVec.ofNat 64)

/-- The 32 bytes of a log entry (Table 14-4) as four words. -/
def LogEntry.words (e : LogEntry) : List Nat :=
  [fields [(e.code, 0), (e.cls, 16), (e.rung, 19), (e.answer, 22), (e.unit, 25)], e.ticks, e.info0.toNat, e.info1.toNat]

/-- The log of window i for a PF (R484). -/
def logOf (p i : Nat) : Nat := if i = 0 then lgDevice else if i = 1 then lgPort p else i + 1

/-- The view of a log that a PF has, with its overflow count: a port log has one. -/
def State.logView (s : State) (p k : Nat) : List LogEntry × Nat :=
  let g := s.log k
  if p = 0 ∨ k = 1 ∨ k = 2 then (g.view0, g.overflow0.toNat) else (g.view1, g.overflow1.toNat)

/-- A word of a log window (Table 16-20), over the entries and overflow count of a view. -/
def Log.word (g : Log) (v : List LogEntry × Nat) (o : Nat) : Nat :=
  if o < 0x20 then (match v.1.head? with
    | some e => e.words.getD (o / 8) 0
    | none => 0)
  else if o = 0x28 then fields [(v.1.length, 0), (v.2, 32)]
  else if o = 0x30 then g.poisonReads.toNat
  else if 0x100 ≤ o ∧ o < 0x190 then
    let c (k : Nat) : Nat := if 1 ≤ k ∧ k ≤ 0x23 then (Tab.get 0 g.counts k).toNat else 0
    c ((o - 0x100) / 4) + c ((o - 0x100) / 4 + 1) * 2 ^ 32
  else 0

/-- Entries of a port's log that name a ring of a VF (R473): entries of PCI Express events name a function (Table 14-3),
those of sync objects nothing, and an `ACCESS` entry a ring where its cause says so (`State.ringAccess`). -/
def State.vfEntry (s : State) (vf : Nat) (e : LogEntry) : Bool :=
  e.code != 0x10 && e.code != ePcieUncorrectable && e.code != eOrphan && e.code != eSyncUnderflow &&
    (e.code != eAccess || decide (16 ≤ e.info1.toNat)) && s.ringFn e.unit == vf

def State.vfView (s : State) (p vf : Nat) : List LogEntry × Nat :=
  let g := s.log (lgPort p)
  (g.view0.filter (s.vfEntry vf), g.overflow0.toNat)

/-- Ring j of a VF's set-up windows (R473). -/
def State.vfRing (s : State) (p vf j : Nat) : Option Nat := (s.vfPage p vf (j / 64)).map fun g => 64 * g + j % 64

/-- A register of device scope is stored by a write, and read as it stands. -/
def storedDev (o : Nat) : Bool :=
  decide (0x1008 ≤ o ∧ o < 0x1078) || decide (0x10000 ≤ o ∧ o < 0x20000) || decide (0x20000 ≤ o ∧ o < 0x20160) ||
    decide (0x30100 ≤ o ∧ o < 0x30228) || decide (0x31000 ≤ o ∧ o < 0x38000)

/-- A register of port scope that reads as it was stored. -/
def storedPort (o : Nat) : Bool := [0x2008, 0x2010, 0x2018, 0x2020, 0x2028, 0x2038, 0x3010].contains o

/-- The word of a PF's BAR0 at a multiple of 8 (Table 16-1). -/
def State.regRead (s : State) (p o : Nat) : Nat :=
  if o = 0 then s.capIdent
  else if o = 8 then s.fuses.serial.toNat
  else if o = 0x10 then s.ticks % 2 ^ 64
  else if o = 0x18 then s.bootState
  else if o = 0x20 then s.unitState
  else if 0x40 ≤ o ∧ o < 0x80 then s.boot.stageTicks.getD ((o - 0x40) / 8) 0
  else if o = 0x1000 then s.setupLock
  else if storedDev o then s.dreg o
  else if o = 0x2000 then s.portCtrl p
  else if o = 0x2030 then (s.port p).claimWord
  else if storedPort o then s.preg p o
  else if o = 0x3000 then s.heldWord
  else if o = 0x3018 then s.resetStatus p
  else if o = 0x3020 then s.firstDeadline
  else if o = 0x4008 then (s.port p).mboxWord
  else if 0x5000 ≤ o ∧ o < 0x6000 then leNat ((s.port p).mboxData.readBytes (o - 0x5000) 8)
  else if 0x20200 ≤ o ∧ o < 0x20210 then Tab.get 0 s.hubWritten ((o - 0x20200) / 8)
  else if 0x20210 ≤ o ∧ o < 0x20230 then Tab.get 0 s.tierRefused ((o - 0x20210) / 8)
  else if o = 0x30000 then s.dreg o % 2 ^ 30 + (if s.locked then s.podIndex else 0) * 2 ^ 30
  else if 0x38000 ≤ o ∧ o < 0x38900 then s.linkWord ((o - 0x38000) / 64) ((o - 0x38000) % 64 / 8)
  else if 0x40000 ≤ o ∧ o < 0x40000 + 64 * 127 then s.preg p o
  else if 0x80000 ≤ o ∧ o < 0x80000 + 4096 * 23 then
    let k := logOf p ((o - 0x80000) / 4096)
    (s.log k).word (s.logView p k) ((o - 0x80000) % 4096)
  else if 0x100000 ≤ o ∧ o < 0x140000 then
    let r := (o - 0x100000) / 64
    if s.ringPort r = p then s.ringWord r ((o - 0x100000) % 64 / 8) else 0
  else if 0x140000 ≤ o ∧ o < 0x160000 then
    let n := (o - 0x140000) / 8
    if s.syncPort n = p then (s.sync n).word else 0
  else if 0x160000 ≤ o ∧ o < 0x164000 then
    let n := (o - 0x160000) / 32
    if s.streamPort n = p then ((s.streamWords n).getD ((o - 0x160000) % 32 / 8) 0).toNat else 0
  else if 0x164000 ≤ o ∧ o < 0x16C000 then (Tab.get 0 s.shardWindow ((o - 0x164000) / 8)).toNat
  else 0

/-- A word of a stream window is a read of the sample (R483): bytes 0 to 7 take it, and the others return it. -/
def State.sampled (s : State) (p o : Nat) : Nat × State :=
  if 0x160000 ≤ o ∧ o < 0x164000 then
    let n := (o - 0x160000) / 32
    let w := o % 32 / 8
    if s.streamPort n ≠ p then (0, s)
    else if w = 0 then
      let q := s.streamWords n
      ((q.getD 0 0).toNat, s.modPort p fun x => { x with samples := Tab.put [] x.samples n q })
    else
      match Tab.get [] (s.port p).samples n with
      | [] => (s.regRead p o, s)
      | q => ((q.getD w 0).toNat, s)
  else (s.regRead p o, s)

/-- Registers that work in the RECOVERY outcome: identity and the mailbox (R453). -/
def State.bar0Open (s : State) (p fn off : Nat) : Bool :=
  s.fnOpen p fn && (s.boot.outcome != 2 || (fn == 0 && decide (off < 0x1000 ∨ 0x4000 ≤ off ∧ off < 0x6000)))

/-- A word of a VF's BAR0 (R473). -/
def State.vfRead (s : State) (p vf o : Nat) : Nat :=
  if o < 0x8000 then
    match s.vfRing p vf (o / 64) with
    | some r => s.ringWord r (o % 64 / 8)
    | none => 0
  else if o < 0x9000 then (s.log (lgPort p)).word (s.vfView p vf) (o - 0x8000)
  else 0

/-- A word of a BAR2 (R370, Table 13-3): the slot of an owned ring; zero in a page that is not owned. -/
def State.doorWord (s : State) (p fn o : Nat) : Nat :=
  match if fn = 0 then some (o / 4096) else s.vfPage p fn (o / 4096) with
  | some g =>
    let r := 64 * g + o % 4096 / 64
    let x := s.ring r
    if s.ringPort r ≠ p then 0
    else if o % 64 = 0 then fields [(x.sqTail.toNat, 0), (x.sqHead.toNat, 32)]
    else if o % 64 = 8 then fields [(x.cqHead.toNat, 0), (x.cqTail.toNat, 32)]
    else 0
  | none => 0

/-- Size of BAR0 or BAR2 of a function (Table 12-3). -/
def barSize (fn : Nat) (doors : Bool) : Nat :=
  if doors then (if fn = 0 then 2 ^ 18 else 2 ^ 15) else if fn = 0 then 2 ^ 26 else 2 ^ 16

/-- The 64-bit word at a multiple of 8 of a BAR0 or BAR2, as read. -/
def State.barWord (s : State) (p fn : Nat) (doors : Bool) (o : Nat) : Nat × State :=
  if doors then (s.doorWord p fn o, s)
  else if fn = 0 then s.sampled p o
  else (s.vfRead p fn o, s)

/-- SPLIT_READ (R12, R370, R472, R473): a read of a set-up register or a doorbell slot. Aligned 32-bit and 64-bit reads
are answered, any other with all ones and an entry in the error log. A PF's 32-bit read of the lower half of a
register latches its upper half; the next access, if it reads that upper half, returns the latch. -/
def splitRead (p : PortIx) (fn : FnIx) (doors : Bool) (off size : Nat) (s : State) : State :=
  if !(if doors then s.barOpen p.val fn.val else s.bar0Open p.val fn.val off) || decide (barSize fn.val doors ≤ off) then s
  else
    let regs := fn.val == 0 && !doors
    let latch := if regs then (s.port p.val).latch else none
    let s := if fn.val = 0 then s.dropLatch p.val else s
    let give (s : State) (d : Bytes) : State := s.emit (.readData p.val d false)
    let o := off / 8 * 8
    if !(size == 8 && off % 8 == 0) && !(size == 4 && off % 4 == 0) then give (s.accessLog p.val fn.val off accSize) (List.replicate size 0xFF#8)
    else
      let q := s.barWord p.val fn.val doors o
      if size = 8 then give q.2 (natLe 8 q.1)
      else if off % 8 = 0 then
        give (if regs then q.2.modPort p.val fun x => { x with latch := some (off, BitVec.ofNat 32 (q.1 / 2 ^ 32)) } else q.2) (natLe 4 q.1)
      else
        match latch with
        | some (l, v) => give s (natLe 4 (if l = o then v.toNat else q.1 / 2 ^ 32))
        | none => give s (natLe 4 (q.1 / 2 ^ 32))

/-- STREAM_WINDOW_READ (R483). -/
def streamWindowRead (p : PortIx) (st : StreamIx) (s : State) : State :=
  let o := 0x160000 + 32 * st.val
  if !s.bar0Open p.val 0 o then s
  else
    let q := (s.dropLatch p.val).sampled p.val o
    q.2.emit (.readData p.val (natLe 8 q.1) false)

/-! ### The set-up lock (R475) -/

/-- First failing register of the core classes (R374). -/
def State.classFault (s : State) : Option Nat :=
  ((List.range 128).find? fun c => s.corePort .normal c != s.corePort .background c).map fun c => 0x10210 + 8 * (c / 64)

/-- A Sifter region of unit u is aligned and inside its window. -/
def State.regionFits (s : State) (u : Nat) : Bool :=
  let r := s.sifterRegion u
  r.1 % granule == 0 && r.2 % granule == 0 && decide (r.1 + r.2 ≤ unitExtent s.fuses.code.toNat u)

/-- A device memory range is aligned and inside one window of tiers 0 to 2. -/
def State.rangeFits (s : State) (p i : Nat) : Bool :=
  let r := s.devRange p i
  r.2 == 0 || (r.1 % granule == 0 && r.2 % granule == 0 && match windowOf r.1 with
    | some (u, o) => decide (u < 12 ∧ o + r.2 ≤ unitExtent s.fuses.code.toNat u)
    | none => false)

/-- The size register of the i-th reserved area of a unit: the sort area of a stack, the page cache and then the sort area of
a hub (Table 16-7); of an area of fixed size, the first of them. -/
def areaReg (u i : Nat) : Nat := if u < 8 then 0x20100 + 8 * u else if i < 2 then 0x20140 + 8 * (u - 8) else 0x20150 + 8 * (u - 8)

/-- Registers and ranges, by device address, of a unit's Sifter region and reserved areas, and of the device memory ranges. -/
def State.layout (s : State) : List (Nat × Nat × Nat) × List (Nat × Nat × Nat × Nat) :=
  ((List.range 12).flatMap fun u =>
      (0x20000 + 16 * u, unitBase u + (s.sifterRegion u).1, (s.sifterRegion u).2) ::
        (s.reservedAreas u).zipIdx.map fun r => (areaReg u r.2, unitBase u + r.1.1, r.1.2),
    [0, 1].flatMap fun p => (List.range 16).map fun i => (p, 0x14000 + 256 * p + 16 * i, (s.devRange p i).1, (s.devRange p i).2))

/-- First failing register of the memory layout: what does not fit, and then what overlaps. -/
def State.layoutFault (s : State) : Option Nat :=
  let l := s.layout
  let solid := l.1.filter fun x => x.2.2 != 0
  let ranges := l.2.filter fun x => x.2.2.2 != 0
  let region := ((List.range 12).find? fun u => !s.regionFits u).map fun u => 0x20000 + 16 * u
  let range := (([0, 1].flatMap fun p => (List.range 16).map fun i => (p, i)).find? fun x => !s.rangeFits x.1 x.2).map
    fun x => 0x14000 + 256 * x.1 + 16 * x.2
  let solids := (solid.zipIdx.find? fun x => (solid.zipIdx.any fun y => x.2 != y.2 && meets (x.1.2.1, x.1.2.2) y.1.2.1 y.1.2.2) ||
    ranges.any fun y => meets (x.1.2.1, x.1.2.2) y.2.2.1 y.2.2.2).map fun x => x.1.1
  let hosts := (ranges.find? fun x => ranges.any fun y => x.1 != y.1 && meets (x.2.2.1, x.2.2.2) y.2.2.1 y.2.2.2).map fun x => x.2.1
  [region, range, solids, hosts].findSome? id

/-- First failing register of the fabric identity and of the pod shard map. -/
def State.fabricFault (s : State) : Option Nat :=
  let t := s.podTable
  if s.podSize = 0 ∨ 37 < s.podSize then some 0x30000
  else
    match (List.range t.length).find? (fun i => (t.take i).contains (t.getD i 0)) with
    | some i => some (0x30100 + 8 * i)
    | none =>
      if !t.contains s.devId then some 0x30000
      else ((List.range 4096).find? fun d => !t.contains (s.entry16 0x34000 d % 4096)).map fun d => 0x34000 + 8 * (d / 4)

/-- The first failing check of a lock request: its cause and register. Every state of the claim bitmaps claims each
resource for exactly one port, so cause 1 does not arise. -/
def State.lockFault (s : State) : Option (Nat × Nat) :=
  [s.classFault.map fun o => (2, o), s.layoutFault.map fun o => (3, o), s.fabricFault.map fun o => (4, o)].findSome? id

/-- Offsets of the claim table's registers (Table 16-6), from 0x01_0000. -/
def claimOffsets : List Nat :=
  ((List.range 70).map (8 * ·)) ++ ((List.range 528).map fun i => 0x400 + 8 * i) ++ [0x1800] ++ ((List.range 10).map fun i => 0x1840 + 8 * i) ++
    ((List.range 1088).map fun i => 0x2000 + 8 * i)

/-- Measurement 10 (Table 15-7): claim table, device id, pod id, pod table and function modes. -/
def State.lockDigest (s : State) : BitVec 256 :=
  sha256 (Config.lockBytes (claimOffsets.map (fun o => s.dreg (0x10000 + o)) ++ [s.dreg 0x30000] ++ s.podTable ++ [s.dreg 0x1008]))

/-- Links that have ended phase 4 enter phase 5 (R475). -/
def State.linksLocked (s : State) : State :=
  { s with links := s.links.map fun x => (x.1, if x.2.phase = 4 ∧ x.2.goodFlits = 64 then { x.2 with phase := 5, since := s.ticks, goodFlits := 0 } else x.2) }

/-- A request for the lock (R475). One of the other PF in the same cycle counts with the one before it: port 0 then is the
one that set the lock, and a refusal is recorded once. -/
def State.lockRequest (s : State) (p : Nat) : State :=
  if s.locked then (if p = 0 ∧ s.lockLast = some (s.ticks, 1, 0, 0) then { s with lockBy := 0 } else s)
  else
    match s.lockFault with
    | some (cause, o) =>
      if s.lockLast = some (s.ticks, 1 - p, cause, o) then { s with lockLast := none }
      else
        { s with lockRefused := true, lockCause := cause, lockCount := s.lockCount + 1, lockLast := some (s.ticks, p, cause, o) }.logEvent
          lgDevice [] eClaim cReport 0 0 7 (BitVec.ofNat 64 cause) (BitVec.ofNat 64 (p * 2 ^ 63 + o))
    | none =>
      { s with locked := true, lockBy := p, lockLast := some (s.ticks, p, 0, 0),
               boot := { s.boot with meas := s.boot.meas.set 9 s.lockDigest } }.linksLocked

/-! ### Enables that claim resources (R446, R479) -/

/-- Clears a bit of a number. -/
def clearBit (n i : Nat) : Nat := if bitAt n i then n - 2 ^ i else n
def setBit (n i : Nat) : Nat := if bitAt n i then n else n + 2 ^ i

/-- Pins that a `PORT_GPIO` value claims: enable bit and pin field of the alert, time-mark and trigger features. -/
def gpioFeatures : List (Nat × Nat × Nat) := [(3, 0, 1), (4, 3, 4), (5, 24, 25)]

/-- The pins a `PORT_GPIO` value holds. -/
def gpioPins (w : Nat) : List Nat := gpioFeatures.filterMap fun f => if bitAt w f.2.1 then some (fld w f.2.2 2) else none

/-- A time mark can be had: its power lies in range, and its timer is the port's and free. -/
def State.tmarkOk (s : State) (p w : Nat) : Bool :=
  let t := fld w 6 10
  s.timerPort t == p && !s.timerOfRing 4096 t && !(bitAt (s.preg p 0x2038) 0 && fld (s.preg p 0x2038) 1 10 == t)

/-- The fields of a feature of `PORT_GPIO`: enable, pin, and the timer and power of the time mark. -/
def gpioMask (f : Nat) : Nat := if f = 3 then 0x7 else if f = 4 then 0x3FFFF8 else 0x7000000

/-- A write of `PORT_GPIO`: the features that it disables or leaves as they were come first; of the others, in turn, one
whose pin or timer another feature holds fails, and its fields stay as they were (R446). -/
def State.writeGpio (s : State) (p v : Nat) : State :=
  let old := s.preg p 0x2028
  let key := regKey (some p) 0x2028
  if bitAt v 3 && !decide (10 ≤ fld v 16 6 ∧ fld v 16 6 ≤ 40) then s.accessLog p 0 0x2028 accIgnored
  else
    let same (f : Nat × Nat × Nat) : Bool := bitAt old f.2.1 && fld old f.2.2 2 == fld v f.2.2 2 &&
      (f.1 != 4 || fld old 6 10 == fld v 6 10)
    let put (w : Nat) (f : Nat × Nat × Nat) : Nat := (w &&& (ones64 ^^^ gpioMask f.1)) ||| (v &&& gpioMask f.1)
    let plain (f : Nat × Nat × Nat) : Bool := !bitAt v f.2.1 || same f
    let s := s.setReg key ((gpioFeatures.filter plain).foldl put old)
    (gpioFeatures.filter fun f => !plain f).foldl (fun s f =>
      let w := s.preg p 0x2028
      let pin := fld v f.2.2 2
      if (gpioPins (clearBit w f.2.1) ++ gpioPins (s.preg (1 - p) 0x2028)).contains pin then s.claimConflict p f.1 pin
      else if f.1 = 4 && !s.tmarkOk p v then s.claimConflict p f.1 (fld v 6 10)
      else s.setReg key (put w f)) s

/-- Sends the error event message that moderation holds back. -/
def State.flushErr (s : State) (p : Nat) : State :=
  if (s.port p).modPending then (s.modPort p fun x => { x with modPending := false }).raiseErr p else s

/-- A write of `ERR_MOD` (R480); an enable that fails changes nothing (R446). -/
def State.writeErrMod (s : State) (p v : Nat) : State :=
  let old := s.preg p 0x2038
  let t := fld v 1 10
  let key := regKey (some p) 0x2038
  if fld v 16 16 = 0 || (bitAt old 0 && fld old 1 10 != t) then s.accessLog p 0 0x2038 accIgnored
  else if bitAt v 0 && !bitAt old 0 then
    if s.timerPort t != p || s.timerOfRing 4096 t || (bitAt (s.preg p 0x2028) 3 && fld (s.preg p 0x2028) 6 10 == t) then
      s.claimConflict p 6 t
    else (s.setReg key v).modPort p fun x => { x with modEnd := s.ticks }
  else
    let s := s.setReg key v
    if bitAt v 0 then s else s.flushErr p

/-! ### Port controls -/

/-- The phase a port enters by `service_en` (R508). -/
def Port.serve (x : Port) : Port := if x.phase = .startup ∨ x.phase = .recovery then { x with phase := .service } else x

/-- `test_en` (Table 16-15): 1 enters TEST, and 0 returns to the phase it was entered from. -/
def Port.testEn (x : Port) (v : Bool) : Port :=
  if v then (if x.phase = .test then x else { x with phase := .test, before := x.phase })
  else if x.phase = .test then { x with phase := x.before }
  else x

/-- A write of `PORT_CTRL`: the fields a mask names; an enable of write buffering that fails changes nothing (R446). -/
def State.writePortCtrl (s : State) (p mask v : Nat) : State :=
  let old := s.preg p 0x2000
  let key := regKey (some p) 0x2000
  let nv := (old &&& (ones64 ^^^ mask)) ||| (v &&& mask)
  if fld nv 32 16 = 0 then s.accessLog p 0 0x2000 accIgnored
  else if bitAt nv 6 && !bitAt old 6 && decide (s.stagingFree p < 32) then s.claimConflict p 2 32
  else
    let act (i : Nat) : Bool := bitAt mask i && bitAt v i
    let stored := fields [(fld nv 5 2, 5), (fld nv 8 11, 8), (fld nv 32 16, 32)]
    let s := s.setReg key stored
    let s := if act 2 then s.modPort p Port.serve else s
    let s := if bitAt mask 3 then s.modPort p fun x => x.testEn (bitAt v 3) else s
    if act 7 then (s.modPort p fun x => { x with fns := x.fns.map fun f => (f.1, { f.2 with priFailed := false }) }).issuePages p else s

/-! ### Range checks (R477, R478) -/

/-- A new value of a checked register keeps its ranges and order. -/
def valueOk (o v : Nat) : Bool :=
  let f (lo w : Nat) : Nat := fld v lo w
  if o = 0x1010 then f 0 16 != 0 && f 16 16 != 0 && f 32 16 != 0 && f 48 16 != 0
  else if o = 0x1018 then decide (20 ≤ f 0 5 ∧ f 0 5 ≤ 30 ∧ 1 ≤ f 8 8 ∧ f 8 8 ≤ 168)
  else if o = 0x1020 then
    decide (f 48 6 < f 42 6 ∧ f 42 6 < f 36 6 ∧ f 36 6 < f 30 6 ∧ f 12 6 < f 24 6 ∧ f 24 6 ≤ f 18 6 ∧ f 12 6 < f 6 6)
  else if o = 0x1030 then decide (f 0 8 < 110 ∧ f 8 8 < 110 ∧ f 16 8 < 95 ∧ f 24 8 < 95 ∧ f 32 8 < 85)
  else if 0x1040 ≤ o ∧ o < 0x1078 then decide (20 ≤ f 0 5 ∧ f 0 5 ≤ 30)
  else if o = 0x11800 then f 0 19 % 1024 == 0 && decide (f 0 19 ≤ 262144)
  else if 0x11840 ≤ o ∧ o < 0x11890 then decide (f 0 7 ≤ 64 ∧ f 8 7 ≤ 64 ∧ f 16 7 ≤ 64)
  else if 0x20100 ≤ o ∧ o < 0x20140 then v % granule == 0 && decide (v ≤ 2 ^ 33)
  else if 0x20140 ≤ o ∧ o < 0x20160 then v % granule == 0 && decide (v ≤ 2 ^ 35)
  else true

/-- The defined bits of a stored register of device scope; 0 where none is defined. -/
def devMask (o : Nat) : Nat :=
  let bits (l : List (Nat × Nat)) : Nat := fields (l.map fun x => ((2 ^ x.2 - 1), x.1))
  if o = 0x1008 then bits [(0, 7)]
  else if o = 0x1010 then ones64
  else if o = 0x1018 then bits [(0, 5), (8, 8), (16, 16)]
  else if o = 0x1020 then bits [(0, 54)]
  else if o = 0x1028 then bits [(0, 6), (8, 6)]
  else if o = 0x1030 then bits [(0, 40)]
  else if o = 0x1040 ∨ o = 0x1070 then bits [(0, 5), (32, 16)]
  else if 0x1048 ≤ o ∧ o < 0x1070 then bits [(0, 5), (8, 8), (32, 16)]
  else if 0x10000 ≤ o ∧ o < 0x20000 then
    if o = 0x11800 then bits [(0, 19)]
    else if 0x11840 ≤ o ∧ o < 0x11890 then bits [(0, 7), (8, 7), (16, 7)]
    else if claimOffsets.contains (o - 0x10000) then ones64
    else 0
  else if 0x20000 ≤ o ∧ o < 0x200C0 ∨ 0x20100 ≤ o ∧ o < 0x20160 then ones64
  else if o = 0x30000 then bits [(0, 30)]
  else if 0x30100 ≤ o ∧ o < 0x30228 then bits [(0, 12)]
  else if 0x31000 ≤ o ∧ o < 0x33000 then bits [(0, 14), (16, 14), (32, 14), (48, 14)]
  else if 0x34000 ≤ o ∧ o < 0x38000 then bits [(0, 13), (16, 13), (32, 13), (48, 13)]
  else if 0x38000 ≤ o ∧ o < 0x38900 ∧ o % 64 = 8 then bits [(0, 1)]
  else 0

/-- A register of device scope that the set-up lock fixes (RWL). -/
def lockedReg (o : Nat) : Bool :=
  o == 0x1008 || decide (0x10000 ≤ o ∧ o < 0x20160) || o == 0x30000 || decide (0x30100 ≤ o ∧ o < 0x30228) || decide (0x34000 ≤ o ∧ o < 0x38900)

/-- A write of an RWL field after the lock is recorded (R9). -/
def State.lockViolation (s : State) (o v : Nat) : State := s.report lgDevice [] eLockViolation 7 o v

/-- A link whose `enable` a write has changed: with 0 it is DOWN, and with 1 again it trains (Table 16-9). -/
def State.linkSwitch (s : State) (l : Nat) : State :=
  s.modLink l fun k => if s.linkEnabled l then { k with st := .training, phase := 1, since := s.ticks } else { k with st := .down, phase := 0, peerValid := false }

/-- A write of a stored register of device scope. -/
def State.writeDev (s : State) (p o mask v : Nat) : State :=
  let m := mask &&& devMask o
  let nv := (s.dreg o &&& (ones64 ^^^ m)) ||| (v &&& m)
  if m = 0 then s
  else if lockedReg o && s.locked then s.lockViolation o v
  else if decide (0x38000 ≤ o ∧ o < 0x38900) && nv != s.dreg o then (s.setReg o nv).linkSwitch ((o - 0x38000) / 64)
  else if valueOk o nv then s.setReg o nv
  else s.accessLog p 0 o accIgnored

/-! ### Assignment to virtual functions (R481) -/

/-- Bits of word w of a `VF_ASSIGN` entry (Table 16-17). -/
def vfMask (w : Nat) : Nat :=
  if w = 0 then ones64
  else if w = 1 then 0x3FFF3FFF
  else if w = 2 then 0xFFFF0000FFFF
  else if w = 3 ∨ w = 4 then 0x0FFF0FFF
  else 0

/-- The range that word w holds, when it holds one. -/
def vfRangeOf (w v : Nat) : Nat × Nat := if w = 2 then (fld v 0 16, fld v 32 16) else if w = 1 then (fld v 0 14, fld v 16 14) else (fld v 0 12, fld v 16 12)

def resKindOf (w : Nat) : ResKind := if w = 1 then .sync else if w = 2 then .table else if w = 3 then .graph else .chan
def resCount (w : Nat) : Nat := if w = 1 then 16384 else if w = 2 then 65536 else 4096

/-- Pages of a page word. -/
def pagesOf (v : Nat) : List Nat := (List.range 64).filter fun i => bitAt v i

/-- Every ring of some doorbell pages is IDLE. -/
def State.pagesIdle (s : State) (l : List Nat) : Bool := l.all fun i => (rangeFrom (64 * i) 64).all fun r => (s.ring r).st == .idle

/-- A new value of word w of a VF's assignment keeps R481. -/
def State.assignOk (s : State) (p vf w v : Nat) : Bool :=
  let others := (rangeFrom 1 127).filter fun u => u != vf
  s.pagesIdle (pagesOf (s.vfWord p vf 0)) &&
    (if w = 0 then
      s.pagesIdle (pagesOf v) && decide ((pagesOf v).length ≤ 8) &&
        (pagesOf v).all (fun i => (rangeFrom (64 * i) 64).all fun r => s.ringPort r == p) &&
        others.all fun u => s.vfWord p u 0 &&& v == 0
    else
      let r := vfRangeOf w v
      decide (r.1 + r.2 ≤ resCount w) && (rangeFrom r.1 r.2).all (fun i => s.resPort (resKindOf w) i == p) &&
        others.all fun u =>
          let q := vfRangeOf w (s.vfWord p u w)
          q.2 == 0 || r.2 == 0 || !meets q r.1 r.2)

def State.writeAssign (s : State) (p o mask v : Nat) : State :=
  let vf := (o - 0x40000) / 64 + 1
  let w := o % 64 / 8
  let m := mask &&& vfMask w
  let nv := (s.preg p o &&& (ones64 ^^^ m)) ||| (v &&& m)
  if vfMask w = 0 then s
  else if s.assignOk p vf w nv then s.setReg (regKey (some p) o) nv
  else s.accessLog p 0 o accIgnored

/-! ### Writes -/

/-- Removes the oldest entry of a PF's view of a log (R484). -/
def State.popLog (s : State) (p k : Nat) : State :=
  let g := s.log k
  s.setLog k (if p = 0 ∨ k = 1 ∨ k = 2 then { g with view0 := g.view0.drop 1 } else { g with view1 := g.view1.drop 1 })

/-- Bits of the words +0 to +32 of a ring window (Table 16-18). -/
def ringMask (w : Nat) : Nat :=
  let bits (l : List (Nat × Nat)) : Nat := fields (l.map fun x => ((2 ^ x.2 - 1), x.1))
  match w with
  | 0 => bits [(0, 5), (12, 52)]
  | 1 => bits [(0, 5), (12, 52)]
  | 2 => bits [(5, 59)]
  | 3 => bits [(0, 23), (24, 11), (35, 13), (48, 10)]
  | 4 => bits [(0, 16), (16, 25)]
  | _ => 0

/-- Stores a word of a ring window. -/
def Ring.setWord (g : Ring) (w : Nat) (v : Word) : Ring :=
  match w with
  | 0 => { g with w0 := v }
  | 1 => { g with w1 := v }
  | 2 => { g with w2 := v }
  | 3 => { g with w3 := v }
  | 4 => { g with w4 := v }
  | _ => g

/-- A write of a word of a ring window by the function that reaches it (R482). -/
def State.writeRing (s : State) (p : PortIx) (fn : FnIx) (r : RingIx) (w mask v : Nat) : State :=
  let g := s.ring r.val
  if w < 5 then
    let m := mask &&& ringMask w
    let nv := (s.ringWord r.val w &&& (ones64 ^^^ m)) ||| (v &&& m)
    if g.st = .idle ∨ (g.st = .orphaned ∧ s.quiesced p.val) then s.modRing r.val fun g => g.setWord w (BitVec.ofNat 64 nv)
    else s.ringAccess p.val r.val (0x100000 + 64 * r.val + 8 * w) accIgnored
  else if w = 5 then
    let on := bitAt (mask &&& v) 4
    let off := bitAt (mask &&& v) 5
    if on && off then s.ringAccess p.val r.val (ringCtl r.val) accIgnored
    else if on then ringEnable p fn r s
    else if off then ringDisable p fn r s
    else s
  else s

/-- A write of `MBOX_CMD` (Table 16-23, R487): the mailbox is busy with the command until the command's own row carries it
out; one that does not exist is rejected at once (DESIGN CHOICE, log entry 47). -/
def State.mailbox (s : State) (p : PortIx) (v : Nat) : State :=
  let cmd := fld v 0 8
  if (s.port p.val).mboxBusy.isSome then s.accessLog p.val 0 0x4000 accIgnored
  else if 1 ≤ cmd ∧ cmd ≤ 5 then s.modPort p.val fun x => { x with mboxBusy := some (fwWord cmd (fld v 32 32) (fld v 16 13)) }
  else s.fwAnswer (.pf p) fwBad

/-- A write of a register of port scope that the lock fixes. -/
def State.writeTierH (s : State) (p o mask v : Nat) : State :=
  let m := mask &&& (if o = 0x2010 then ones64 - 0xFFF else 2 ^ 56 - 1)
  let nv := (s.preg p o &&& (ones64 ^^^ m)) ||| (v &&& m)
  let key := regKey (some p) o
  if s.locked then s.lockViolation o v
  else if o = 0x2018 && decide (2 ^ 33 < fld nv 0 34) then s.accessLog p 0 o accIgnored
  else if o = 0x2018 && bitAt nv 55 && !bitAt (s.preg p o) 55 then
    if s.stagingFree p < 64 then s.claimConflict p 1 64 else s.setReg key nv
  else s.setReg key nv

/-- A write of a word of a PF's BAR0: the bits that a mask names; WO fields act where the mask names them. -/
def State.regWrite (s : State) (p : PortIx) (o mask v : Nat) : State :=
  let act (i : Nat) : Bool := bitAt (mask &&& v) i
  let port (m : Nat) : Nat := (s.preg p.val o &&& (ones64 ^^^ (mask &&& m))) ||| (v &&& (mask &&& m))
  if o = 0x1000 then
    let s := if act 2 then { s with lockRefused := false } else s
    if act 0 then s.lockRequest p.val else s
  else if storedDev o || o = 0x30000 || decide (0x38000 ≤ o ∧ o < 0x38900) then s.writeDev p.val o mask v
  else if o = 0x2000 then s.writePortCtrl p.val mask v
  else if o = 0x2008 then
    let b := port (ones64 - (2 ^ 30 - 1))
    if bitAt (s.preg p.val 0x2000) 5 || b % 2 ^ (s.port p.val).bar4Log2 != 0 then s.accessLog p.val 0 o accIgnored
    else s.setReg (regKey (some p.val) o) b
  else if o = 0x2010 ∨ o = 0x2018 then s.writeTierH p.val o mask v
  else if o = 0x2020 then
    let k := port 0x31F
    if 8 ≤ fld k 0 5 ∧ fld k 0 5 ≤ 16 ∧ fld k 8 2 ≤ 2 then s.setReg (regKey (some p.val) o) k else s.accessLog p.val 0 o accIgnored
  else if o = 0x2028 then s.writeGpio p.val (port 0x73FFFFF)
  else if o = 0x2030 then (if act 0 then s.modPort p.val fun x => { x with conflict := false } else s)
  else if o = 0x2038 then s.writeErrMod p.val (port 0xFFFF07FF)
  else if o = 0x3008 then
    if bitAt mask 0 then s.giveAnswer p.val (fld (v &&& mask) 0 3) (BitVec.ofNat 16 (fld (v &&& mask) 48 16)) else s
  else if o = 0x3010 then
    let s := s.setReg (regKey (some p.val) o) (port 0xFFFF)
    let s := if act 17 then s.withdrawAll else s
    if act 16 then s.pfRequest p.val (fld (s.preg p.val 0x3010) 0 16) else s
  else if o = 0x4000 then (if bitAt mask 0 then s.mailbox p (v &&& mask) else s)
  else if o = 0x4008 then (if act 1 then s.modPort p.val fun x => { x with mboxDone := false } else s)
  else if 0x5000 ≤ o ∧ o < 0x6000 then
    if (s.port p.val).mboxBusy.isSome then s.accessLog p.val 0 o accIgnored
    else
    let d := (leNat ((s.port p.val).mboxData.readBytes (o - 0x5000) 8) &&& (ones64 ^^^ mask)) ||| (v &&& mask)
    s.modPort p.val fun x => { x with mboxData := x.mboxData.writeBytes (o - 0x5000) (natLe 8 d) }
  else if 0x40000 ≤ o ∧ o < 0x40000 + 64 * 127 then s.writeAssign p.val o mask v
  else if 0x80000 ≤ o ∧ o < 0x80000 + 4096 * 23 then
    if o % 4096 = 0x20 && act 0 then s.popLog p.val (logOf p.val ((o - 0x80000) / 4096)) else s
  else if h : 0x100000 ≤ o ∧ o < 0x140000 then
    s.writeRing p 0 ⟨(o - 0x100000) / 64, by omega⟩ ((o - 0x100000) % 64 / 8) mask v
  else s

/-- An offset of a PF's BAR0 lies in a region of Table 16-1, and in an entry that the port claims (R471). -/
def State.regThere (s : State) (p o : Nat) : Bool :=
  if 0x100000 ≤ o ∧ o < 0x140000 then s.ringPort ((o - 0x100000) / 64) == p
  else if 0x140000 ≤ o ∧ o < 0x160000 then s.syncPort ((o - 0x140000) / 8) == p
  else if 0x160000 ≤ o ∧ o < 0x164000 then s.streamPort ((o - 0x160000) / 32) == p
  else decide (o < 0x6000 ∨ 0x10000 ≤ o ∧ o < 0x21000 ∨ 0x30000 ≤ o ∧ o < 0x39000 ∨ 0x40000 ≤ o ∧ o < 0x42000 ∨
    0x80000 ≤ o ∧ o < 0x98000 ∨ 0x164000 ≤ o ∧ o < 0x16C000)

/-- A write of a word of a VF's BAR0 (R473). -/
def State.vfWrite (s : State) (p : PortIx) (fn : FnIx) (o mask v : Nat) : State :=
  if o < 0x8000 then
    match s.vfRing p.val fn.val (o / 64) with
    | some r => if h : r < 4096 then s.writeRing p fn ⟨r, h⟩ (o % 64 / 8) mask v else s
    | none => s
  else if o = 0x8020 ∧ bitAt (mask &&& v) 0 then
    let g := s.log (lgPort p.val)
    match g.view0.find? (s.vfEntry fn.val) with
    | some e => s.setLog (lgPort p.val) { g with view0 := g.view0.erase e }
    | none => s
  else s

def State.anyWrite (s : State) (p : PortIx) (fn : FnIx) (o mask v : Nat) : State :=
  if fn.val = 0 then s.regWrite p o mask v else s.vfWrite p fn o mask v

/-- A write in a BAR2: `sq_tail` and `cq_head` take aligned 32-bit writes, any other is dropped and logged (R398). -/
def doorWrite (p : PortIx) (fn : FnIx) (off size : Nat) (v : BitVec 32) (s : State) : State :=
  if h : off < 2 ^ 18 then
    let a : DoorAddr := { port := p, fn := fn, page := ⟨off / 4096, by omega⟩, slot := ⟨off % 4096 / 64, by omega⟩, size := size }
    if off % 64 = 0 then sqTail a v s
    else if off % 64 = 8 then cqHead a v s
    else s.doorbell a (off % 64) fun s r => s.ringAccess p.val r off (if off % 4 = 0 then accIgnored else accSize)
  else s

/-- A function's BAR0 has a register at an offset (R471). -/
def State.regHere (s : State) (p : PortIx) (fn : FnIx) (off : Nat) : Bool := fn.val != 0 || s.regThere p.val off

/-- A write of a word of BAR0; where a PF has no register it is dropped and logged (R471). -/
def State.heldWrite (s : State) (p : PortIx) (fn : FnIx) (off mask v : Nat) : State :=
  if s.regHere p fn off then s.anyWrite p fn off mask v else s.accessLog p.val 0 off accUnowned

/-- REGISTER_WRITE (R9, R12, R398, R471-R473): whole, or as two halves, of which the second completes the write. -/
def registerWrite (p : PortIx) (fn : FnIx) (doors : Bool) (off size : Nat) (v : Word) (s : State) : State :=
  if doors then (if barSize fn.val true ≤ off then s else doorWrite p fn off size (v.setWidth 32) s)
  else if !s.bar0Open p.val fn.val off || decide (0x4000000 ≤ off) || (fn.val != 0 && decide (0x10000 ≤ off)) then s
  else
    let s := if fn.val = 0 then s.dropLatch p.val else s
    if !(size == 8 && off % 8 == 0) && !(size == 4 && off % 4 == 0) then s.accessLog p.val fn.val off accSize
    else if size = 8 then (s.setHalf p.val fn.val none).heldWrite p fn off ones64 v.toNat
    else if off % 8 = 0 then
      (if s.regHere p fn off then s else s.accessLog p.val 0 off accUnowned).setHalf p.val fn.val (some (off, v.setWidth 32))
    else
      let s' := s.setHalf p.val fn.val none
      match Tab.get none (s.port p.val).heldHalf fn.val with
      | some (o, lo) =>
        if o = off - 4 then s'.heldWrite p fn (off - 4) ones64 (lo.toNat + v.toNat % 2 ^ 32 * 2 ^ 32)
        else s'.heldWrite p fn (off - 4) (ones64 - (2 ^ 32 - 1)) (v.toNat % 2 ^ 32 * 2 ^ 32)
      | none => s'.heldWrite p fn (off - 4) (ones64 - (2 ^ 32 - 1)) (v.toNat % 2 ^ 32 * 2 ^ 32)

/-! ### Writes with rows of their own -/

/-- A PF writes some fields of a register, in a write of the whole register (R472; DESIGN CHOICE, log entry 47). -/
def State.pfWrite (s : State) (p : PortIx) (o mask v : Nat) : State :=
  if s.bar0Open p.val 0 o then (s.wholeWrite p.val 0).regWrite p o mask v else s

/-- SETUP_LOCK_REQUEST (R475). -/
def setupLockRequest (p : PortIx) (s : State) : State := s.pfWrite p 0x1000 1 1
/-- SERVICE_EN (R508). -/
def serviceEn (p : PortIx) (s : State) : State := s.pfWrite p 0x2000 4 4
/-- TEST_EN (R508). -/
def testEn (p : PortIx) (v : Bool) (s : State) : State := s.pfWrite p 0x2000 8 (if v then 8 else 0)
/-- PRI_RESET (R383). -/
def priReset (p : PortIx) (s : State) : State := s.pfWrite p 0x2000 0x80 0x80
/-- BAR4_WBUF (R479). -/
def bar4Wbuf (p : PortIx) (s : State) : State := s.pfWrite p 0x2000 0x40 0x40
/-- TIER_H_ENABLE (R479). -/
def tierHEnable (p : PortIx) (s : State) : State := s.pfWrite p 0x2018 (2 ^ 55) (2 ^ 55)
/-- ALERT_EN (R479). -/
def alertEn (p : PortIx) (pin : Fin 4) (s : State) : State := s.pfWrite p 0x2028 7 (1 + 2 * pin.val)
/-- TMARK_EN (R479). -/
def tmarkEn (p : PortIx) (pin : Fin 4) (timer : BitVec 10) (log2 : BitVec 6) (s : State) : State :=
  s.pfWrite p 0x2028 0x3FFFF8 (8 + 16 * pin.val + 64 * timer.toNat + 65536 * log2.toNat)
/-- TRIG_EN (R479). -/
def trigEn (p : PortIx) (pin : Fin 4) (s : State) : State := s.pfWrite p 0x2028 0x7000000 (2 ^ 24 + 2 ^ 25 * pin.val)
/-- MOD_EN (R480). -/
def modEn (p : PortIx) (timer : BitVec 10) (modTicks : BitVec 16) (s : State) : State :=
  s.pfWrite p 0x2038 0xFFFF07FF (1 + 2 * timer.toNat + 65536 * modTicks.toNat)
/-- VF_ASSIGN (R481); there is no VF 0. -/
def vfAssign (p : PortIx) (vf : FnIx) (word : Fin 5) (v : Word) (s : State) : State :=
  if vf.val = 0 then s else s.pfWrite p (0x40000 + 64 * (vf.val - 1) + 8 * word.val) ones64 v.toNat
/-- LOG_POP (R484). -/
def logPop (p : PortIx) (window : Fin 23) (s : State) : State := s.pfWrite p (0x80020 + 4096 * window.val) 1 1

/-- TIME_MARK (R479): a pulse each time the counter reaches a multiple of 2^v. -/
def timeMark (p : PortIx) (s : State) : State :=
  let w := s.preg p.val 0x2028
  if s.running && bitAt w 3 && decide (s.ticks % 2 ^ fld w 16 6 = 0) then s.emit (.pinPulse p.val (fld w 4 2)) else s

/-- TRACE_TRIGGER (R479): a rising edge on the trigger pin. -/
def traceTrigger (p : PortIx) (s : State) : State :=
  if s.jinalUp && bitAt (s.preg p.val 0x2028) 24 then s.modPort p.val fun x => { x with traceTriggered := x.traceTriggered + 1 } else s

/-- ERR_MOD_INTERVAL (R480): one message follows at the end of the interval. -/
def errModInterval (p : PortIx) (s : State) : State :=
  if s.awake && bitAt (s.preg p.val 0x2038) 0 && decide ((s.port p.val).modEnd ≤ s.ticks) then s.flushErr p.val else s

def execSetupLockRequest (p : PortIx) (s : State) : Out :=
  .next (s.atBar p (.setupLockRequest p) (setupLockRequest p))
def execServiceEn (p : PortIx) (s : State) : Out :=
  .next (s.atBar p (.serviceEn p) (serviceEn p))
def execTestEn (p : PortIx) (v : Bool) (s : State) : Out :=
  .next (s.atBar p (.testEn p v) (testEn p v))
def execPriReset (p : PortIx) (s : State) : Out :=
  .next (s.atBar p (.priReset p) (priReset p))
def execBar4Wbuf (p : PortIx) (s : State) : Out :=
  .next (s.atBar p (.bar4Wbuf p) (bar4Wbuf p))
def execTierHEnable (p : PortIx) (s : State) : Out :=
  .next (s.atBar p (.tierHEnable p) (tierHEnable p))
def execAlertEn (p : PortIx) (pin : Fin 4) (s : State) : Out :=
  .next (s.atBar p (.alertEn p pin) (alertEn p pin))
def execTmarkEn (p : PortIx) (pin : Fin 4) (timer : BitVec 10) (log2 : BitVec 6) (s : State) : Out :=
  .next (s.atBar p (.tmarkEn p pin timer log2) (tmarkEn p pin timer log2))
def execTimeMark (p : PortIx) (s : State) : Out := .next (timeMark p s)
def execTrigEn (p : PortIx) (pin : Fin 4) (s : State) : Out :=
  .next (s.atBar p (.trigEn p pin) (trigEn p pin))
def execTraceTrigger (p : PortIx) (s : State) : Out := .next (traceTrigger p s)
def execModEn (p : PortIx) (timer : BitVec 10) (modTicks : BitVec 16) (s : State) : Out :=
  .next (s.atBar p (.modEn p timer modTicks) (modEn p timer modTicks))
def execErrModInterval (p : PortIx) (s : State) : Out := .next (errModInterval p s)
def execVfAssign (p : PortIx) (vf : FnIx) (word : Fin 5) (v : Word) (s : State) : Out :=
  .next (s.atBar p (.vfAssign p vf word v) (vfAssign p vf word v))
def execLogPop (p : PortIx) (window : Fin 23) (s : State) : Out :=
  .next (s.atBar p (.logPop p window) (logPop p window))
def execSplitRead (p : PortIx) (a : BarRead) (s : State) : Out :=
  .next (s.atBar p (.splitRead p a) (splitRead p a.fn a.doors a.off a.size))
def execStreamWindowRead (p : PortIx) (st : StreamIx) (s : State) : Out :=
  .next (s.atBar p (.streamWindowRead p st) (streamWindowRead p st))
def execRegisterWrite (p : PortIx) (fn : FnIx) (a : BarAt) (size : Nat) (v : Word) (s : State) : Out :=
  .next (s.atBar p (.registerWrite p fn a size v) (registerWrite p fn a.doors a.off size v))

end Sys2Proof.Machine
end

