-- ==== Sys2Proof/Machine/Module.lean ====
section
/-! DEFINITION. The module (chapter 17): the management bus, the power controller, link cables and ALERT#. -/

namespace Sys2Proof.Machine

/-! ### ALERT# and pins -/

/-- Latched causes change; ALERT# is released where none remains and no halt stands (R500). -/
def State.setCauses (s : State) (c : BitVec 5) : State :=
  let s' := { s with mgmt := { s.mgmt with causes := c } }
  if s.alertPin && !s'.alertPin then s'.emit (.alert false) else s'

/-- A GPIO that duplicates the alert is asserted with it (R479, R492). -/
def State.gpioAlert (s : State) (pin : Nat) : Bool :=
  s.alertPin && [0, 1].any fun p => bitAt (s.preg p 0x2028) 0 && fld (s.preg p 0x2028) 1 2 == pin

/-! ### Management commands (Table 17-5) -/

/-- A management command: a failed PEC or no standby supply carries nothing out, and Jinal's commands need Jinal, with no
earlier command of the interface running (R498, R499). -/
def State.mgDo (s : State) (x : MgXfer) (jinal : Bool) (act : State → Nat × Bytes × State) : State :=
  if !x.pecOk || !s.power.standby then s
  else if jinal && !s.jinalUp then s.emit (.mgmt mgNotReady [])
  else if jinal && s.mgmt.running.isSome then s.emit (.mgmt mgBusy [])
  else
    let r := act s
    r.2.2.emit (.mgmt r.1 r.2.1)

def mgmtIdent (x : MgXfer) (s : State) : State := s.mgDo x true fun s => (fwOk, natLe 8 s.capIdent ++ natLe 8 s.fuses.serial.toNat, s)
def bootStateCmd (x : MgXfer) (s : State) : State := s.mgDo x true fun s => (fwOk, natLe 8 s.bootState, s)
def mgmtTicks (x : MgXfer) (s : State) : State := s.mgDo x true fun s => (fwOk, natLe 8 s.ticks, s)

/-- First sensor and number of sensors of a group (Table 14-8). -/
def tempGroup (g : Nat) : Option (Nat × Nat) := [(0, 16), (16, 8), (24, 8), (32, 24), (56, 4)][g]?

/-- TEMPS: the latest readings of a group. -/
def temps (x : MgXfer) (group : Nat) (s : State) : State :=
  s.mgDo x true fun s =>
    match tempGroup group with
    | some (a, n) => (fwOk, ((s.mgmt.readings.drop a).take n).flatMap fun v => natLe 2 v.toNat, s)
    | none => (fwBad, [], s)

/-- POWER: VIN, and seven measured values that the spec gives no rule for (DESIGN CHOICE, log entry 2). -/
def power (x : MgXfer) (s : State) : State :=
  s.mgDo x true fun s =>
    let f := s.frees 7
    (fwOk, natLe 2 s.power.vin ++ f.1.flatMap (fun w => natLe 2 w.toNat), f.2)

/-- HALT_STATE: the flags, the sensor and its reading (byte places: PRESUMED, log entry 48). -/
def haltState (x : MgXfer) (s : State) : State :=
  s.mgDo x true fun s =>
    let m := s.mgmt
    (fwOk, natLe 1 (fields [(natOf m.halted, 0), (natOf m.haltThermal, 1), (natOf m.haltSupply, 2)]) ++ natLe 1 m.haltSensor ++ natLe 2 m.haltReading.toNat, s)

/-- LOG_RECENT: a device log entry by age, or zeros. -/
def logRecent (x : MgXfer) (index : Nat) (s : State) : State :=
  s.mgDo x true fun s =>
    if 16 ≤ index then (fwBad, [], s)
    else
      match (s.log lgDevice).recent[index]? with
      | some e => (fwOk, e.words.flatMap (natLe 8), s)
      | none => (fwOk, List.replicate 32 0#8, s)

/-- ALERT_STATUS: the read clears the causes, except `halted` while the device is halted. -/
def alertStatus (x : MgXfer) (s : State) : State :=
  s.mgDo x true fun s => (fwOk, natLe 1 s.mgmt.causes.toNat, s.setCauses (if s.mgmt.halted then s.mgmt.causes &&& 1 else 0))

/-- CABLES: presence, length and part code of a link connector (byte places: PRESUMED, log entry 48). -/
def cables (x : MgXfer) (lc : Nat) (s : State) : State :=
  s.mgDo x true fun s =>
    if 9 ≤ lc then (fwBad, [], s)
    else
      match Tab.get none s.mgmt.cables lc with
      | some c => (fwOk, [1] ++ natLe 2 c.1 ++ slice c.2 0 16, s)
      | none => (fwOk, List.replicate 19 0#8, s)

/-- RESET_REQ: a request that the PFs cannot refuse; a new one replaces the deadline (R442, R501). -/
def resetReq (x : MgXfer) (graceMs : Nat) (s : State) : State :=
  s.mgDo x true fun s =>
    let grace := graceMs * ticksPerMs
    if graceMs < 10 ∨ 60000 < graceMs then (fwBad, [], s)
    else if s.resetRefused then (mgRefused, [], s.report lgDevice [] eResetRequest 7 2 grace)
    else (fwOk, [], { s with mgmt := { s.mgmt with resetDeadline := some (s.ticks + grace) } }.noteRequest 2 grace)

/-- RESET_WITHDRAW (R499). -/
def resetWithdraw (x : MgXfer) (s : State) : State :=
  s.mgDo x true fun s => (fwOk, [], { s with mgmt := { s.mgmt with resetDeadline := none } })

/-! ### The power controller -/

/-- Power leaves every domain (R494): what the flash, the fuses and the connectors keep stays, tier 2 among it (R318), the
counter restarts at zero (R445), and a pending management request and any session are gone (R469, R501). -/
def State.powerOff (s : State) : State :=
  let s := s.blowPartly.dropSession.linksFall
  let m : Mgmt := { causes := s.mgmt.causes &&& 8, cables := s.mgmt.cables, strap := s.mgmt.strap }
  let t := s.cleared { stage := .off, slots := s.boot.slots } 0 [] m { s.power with pwrgd := false, railsUp := 0, raising := false }
  if s.alertPin && !t.alertPin then t.emit (.alert false) else t

/-- POWER_CYCLE (R445, R499): whatever the state of the device. -/
def powerCycle (x : MgXfer) (offSeconds : Nat) (s : State) : State :=
  s.mgDo x false fun s =>
    if offSeconds < 2 ∨ 60 < offSeconds then (fwBad, [], s)
    else
      let s := s.powerOff
      (fwOk, [], { s with power := { s.power with cycling := true, offSeconds := offSeconds } })

/-- POWER_STATUS: VIN, the flags and the order number of a faulted rail. -/
def powerStatus (x : MgXfer) (s : State) : State :=
  s.mgDo x false fun s =>
    let w := s.power
    (fwOk, natLe 2 w.vin ++ natLe 1 (fields [(natOf w.pwrEn, 0), (natOf w.pwrgd, 1), (natOf w.railFault.isSome, 2)]) ++ natLe 1 (w.railFault.getD 0), s)

/-- POWER_ON (R493): with VIN at 46 V or more and PWR_EN high the rails are raised; after a rail failure only when PWR_EN
is raised anew, and in a power cycle not before its off time (R501). -/
def powerOn (s : State) : State :=
  let w := s.power
  if w.cycling then
    { s with power := { w with pwrEn := true, vin := max w.vin 46000, needRaise := w.needRaise && w.pwrEn } }
  else if !w.standby || w.pwrgd || w.raising || (w.needRaise && w.pwrEn) then s
  else { s with power := { w with pwrEn := true, vin := max w.vin 46000, raising := true, needRaise := false } }

/-- RAIL_FAULT (R493): a rail of an order number of Table 17-3 fails; the sequence stops. -/
def railFault (order : Nat) (s : State) : State :=
  if s.power.raising && decide (1 ≤ order ∧ order ≤ 7) then
    { s with power := { s.power with raising := false, railsUp := 0, railFault := some order, needRaise := true } }.alert 8
  else s

/-- POWER_GOOD (R450): the always-on domain wakes with the counter at zero. -/
def powerGood (s : State) : State :=
  if s.power.raising then
    { s with ticks := 0, freeCtr := s.freeCtr + 1, power := { s.power with raising := false, pwrgd := true, railsUp := 7, railFault := none },
             boot := { s.boot with stage := .wake, since := 0, wake := s.freeCtr } }
  else s

/-- PWR_EN_LOW (R494, R501). -/
def pwrEnLow (s : State) : State :=
  let s := if s.power.pwrgd then s.powerOff else s
  { s with power := { s.power with pwrEn := false, raising := false, railsUp := 0 } }

/-- VIN_LOSS (R494): the power controller's standby supply falls with VIN; VIN itself is not reported any more (DESIGN CHOICE, log entry 3).
A sequence that a rail failure stopped still waits for PWR_EN to be raised anew (R493). -/
def vinLoss (s : State) : State :=
  let s := if s.power.pwrgd then s.powerOff else s
  { s with power := { s.power with vin := 0, standby := false, raising := false, railsUp := 0, cycling := false, railFault := none } }

/-- POWER_CYCLE_OFF_TIME (R445, R501): power is applied again, unless PWR_EN has fallen. -/
def powerCycleOffTime (s : State) : State :=
  let w := s.power
  if w.cycling then
    { s with power := { w with cycling := false, offSeconds := 0, raising := w.standby && w.pwrEn && !w.needRaise && decide (46000 ≤ w.vin) } }
  else s

/-- STANDBY_SUPPLY_UP (R499). -/
def standbySupplyUp (mv : Nat) (s : State) : State :=
  if s.power.standby || decide (mv < 44000) then s else { s with power := { s.power with standby := true, vin := mv } }

/-! ### Cables and addresses -/

/-- Links of a connector that are in bring-up begin it again at phase 1, with no failure counted (R497). -/
def State.connectorChanged (s : State) (lc : Nat) : State :=
  (rangeFrom (4 * lc) 4).foldl (fun s l => s.modLink l fun k =>
    if k.st = .training ∧ k.phase ≠ 0 then { k.afresh.enter 1 s.ticks with retried := false, localConverged := false, peerConverged := false, peerValid := false }
    else k) s

/-- CPRSNT_CHANGE (R497, R500): a cable is unmated, or mated and its EEPROM read. -/
def cprsntChange (lc : Fin 9) (present : Bool) (lengthCm : Nat) (part : Bytes) (s : State) : State :=
  let s := { s with mgmt := { s.mgmt with cables := Tab.put none s.mgmt.cables lc.val (if present then some (lengthCm, part.take 16) else none) } }
  (s.connectorChanged lc.val).alert 16

/-- ALERT_RESPONSE_ADDRESS (R500): the module's SMBus address, 0x60 plus its straps (R498). -/
def alertResponseAddress (s : State) : State :=
  if s.power.standby && s.alertPin then s.emit (.ownAddress (busAddress s.mgmt.strap)) else s

/-- DYNAMIC_ADDRESS_ASSIGNMENT (R498). -/
def dynamicAddressAssignment (addr : BitVec 7) (s : State) : State :=
  if s.power.standby then { s with mgmt := { s.mgmt with addr := some addr } } else s

def execMgmtIdent (x : MgXfer) (s : State) : Out := .next (mgmtIdent x s)
def execBootState (x : MgXfer) (s : State) : Out := .next (bootStateCmd x s)
def execMgmtTicks (x : MgXfer) (s : State) : Out := .next (mgmtTicks x s)
def execTemps (x : MgXfer) (group : Nat) (s : State) : Out := .next (temps x group s)
def execPower (x : MgXfer) (s : State) : Out := .next (power x s)
def execHaltState (x : MgXfer) (s : State) : Out := .next (haltState x s)
def execLogRecent (x : MgXfer) (index : Nat) (s : State) : Out := .next (logRecent x index s)
def execAlertStatus (x : MgXfer) (s : State) : Out := .next (alertStatus x s)
def execCables (x : MgXfer) (lc : Nat) (s : State) : Out := .next (cables x lc s)
def execResetReq (x : MgXfer) (graceMs : Nat) (s : State) : Out := .next (resetReq x graceMs s)
def execResetWithdraw (x : MgXfer) (s : State) : Out := .next (resetWithdraw x s)
def execPowerCycle (x : MgXfer) (offSeconds : Nat) (s : State) : Out := .next (powerCycle x offSeconds s)
def execPowerStatus (x : MgXfer) (s : State) : Out := .next (powerStatus x s)
def execPowerOn (s : State) : Out := .next (powerOn s)
def execRailFault (order : Nat) (s : State) : Out := .next (railFault order s)
def execPowerGood (s : State) : Out := .next (powerGood s)
def execPwrEnLow (s : State) : Out := .next (pwrEnLow s)
def execVinLoss (s : State) : Out := .next (vinLoss s)
def execPowerCycleOffTime (s : State) : Out := .next (powerCycleOffTime s)
def execStandbySupplyUp (millivolts : Nat) (s : State) : Out := .next (standbySupplyUp millivolts s)
def execCprsntChange (lc : Fin 9) (present : Bool) (lengthCm : Nat) (part : Bytes) (s : State) : Out := .next (cprsntChange lc present lengthCm part s)
def execAlertResponseAddress (s : State) : Out := .next (alertResponseAddress s)
def execDynamicAddressAssignment (addr : BitVec 7) (s : State) : Out := .next (dynamicAddressAssignment addr s)

end Sys2Proof.Machine
end

