-- ==== Sys2Proof/Machine/Spdm.lean ====
section
/-! DEFINITION. SPDM attestation (R464-R467): the responders of the DOE mailboxes and of the management interface. Message layouts are those of DMTF SPDM 1.2, which R466 names (PRESUMED, log entry 46). -/

namespace Sys2Proof.Machine

/-- Key of a responder's state: each keeps its own (R467). -/
def respKey : Responder → Nat
  | .doe p => p.val
  | .mgmt => 2

/-- A request reaches its responder; a failed PEC carries nothing out (R498). -/
def State.spdmReached (s : State) (r : SpdmReq) : Bool :=
  match r.who with
  | .doe p => s.fnOpen p.val 0
  | .mgmt => r.pecOk && s.power.standby && s.jinalUp

/-- A request of a DOE mailbox waits while its port restarts. -/
def State.atDoe (s : State) (r : SpdmReq) (i : SpdmCmd) (act : State → State) : State :=
  match r.who with
  | .doe p => s.access (s.dieRests p.val) p.val (.doe p.val i) act
  | .mgmt => act s

def State.spdmOf (s : State) (r : SpdmReq) : Spdm := Tab.get {} s.spdm (respKey r.who)

/-- A message: version 1.2, code and two parameters, then its body. -/
def spdmMsg (code p1 p2 : Nat) (body : Bytes) : Bytes := [0x12#8, BitVec.ofNat 8 code, BitVec.ofNat 8 p1, BitVec.ofNat 8 p2] ++ body

/-! Error codes of SPDM 1.2. -/
def spInvalid := 0x01
def spUnexpected := 0x04
def spUnspecified := 0x05
def spUnsupported := 0x07

def State.spdmError (s : State) (r : SpdmReq) (code data : Nat) : State := s.emit (.spdm r.who (spdmMsg 0x7F code data []))

def State.spdmSet (s : State) (r : SpdmReq) (v : Spdm) : State := { s with spdm := Tab.put {} s.spdm (respKey r.who) v }

/-- A response that takes the exchange on, with the state it leaves. -/
def State.spdmAnswer (s : State) (r : SpdmReq) (v : Spdm) (msg : Bytes) : State := (s.spdmSet r v).emit (.spdm r.who msg)

/-- Only Jinal's ROM runs: before stage B has ended, and in RECOVERY (R453). -/
def State.romOnly (s : State) : Bool := s.boot.outcome == 2 || s.boot.stage == .wake || s.boot.stage == .verify

/-- A request other than `GET_VERSION`, which needs an exchange that has come as far as `need`. -/
def State.spdmDo (s : State) (r : SpdmReq) (need : Nat → Bool) (act : State → State) : State :=
  if !s.spdmReached r then s
  else if s.romOnly then s.spdmError r spUnspecified 0
  else if need (s.spdmOf r).step then act s
  else s.spdmError r spUnexpected 0

/-! ### The certificate chain (R464) -/

/-- The chain of slot 0 in the form SPDM gives it: length, the hash of the root certificate, and the certificates. -/
def State.certChain (s : State) : Bytes :=
  let certs := s.storedCerts ++ [s.boot.aliasCert]
  let body := digestBytes (sha256 (certs.getD 0 [])) ++ certs.flatten
  natLe 2 (body.length + 4) ++ [0, 0] ++ body

/-- 32 free bytes: a nonce (DESIGN CHOICE, log entry 2). -/
def State.freeBytes32 (s : State) : Bytes × State :=
  let f := s.frees 4
  (f.1.flatMap fun w => natLe 8 w.toNat, f.2)

/-- What a signature of SPDM 1.2 covers: the prefix with the kind of message, and the digest of the transcript. -/
def spdmToSign (kind : String) (transcript : Bytes) : Bytes :=
  (List.replicate 4 (ascii "dmtf-spdm-v1.2.*")).flatten ++ List.replicate (36 - kind.length) 0 ++ ascii kind ++ digestBytes (sha256 transcript)

/-- A signature over a transcript with the alias key (R466). -/
def State.spdmSign (s : State) (kind : String) (transcript : Bytes) : Bytes :=
  ecdsaSign s.boot.aliasKey (sha256 (spdmToSign kind transcript)) (Config.nonce s.freeCtr)

/-! ### Requests -/

/-- GET_VERSION: one version, 1.2; it begins the exchange again. -/
def getVersion (r : SpdmReq) (s : State) : State :=
  let m : Bytes := [0x10, 0x04, 0, 0, 0, 1, 0x00, 0x12]
  if s.spdmReached r then s.spdmAnswer r { step := 1, vca := [0x10, 0x84, 0, 0] ++ m } m else s

/-- GET_CAPABILITIES: CERT_CAP, CHAL_CAP and MEAS_CAP 10b, CTExponent 14 (R466). The two message sizes that SPDM 1.2
adds are open (DESIGN CHOICE, log entry 2). -/
def getCapabilities (r : SpdmReq) (s : State) : State :=
  s.spdmDo r (· == 1) fun s =>
    let f := s.frees 2
    let m := spdmMsg 0x61 0 0 ([0, 14, 0, 0] ++ natLe 4 0x16 ++ f.1.flatMap fun w => natLe 4 w.toNat)
    let x := s.spdmOf r
    f.2.spdmAnswer r { x with step := 2, vca := x.vca ++ spdmMsg 0xE1 0 0 r.rest ++ m } m

/-- NEGOTIATE_ALGORITHMS: P-256 and SHA-256 only (R466). -/
def negotiateAlgorithms (r : SpdmReq) (s : State) : State :=
  s.spdmDo r (· == 2) fun s =>
    let m := spdmMsg 0x63 0 0 (natLe 2 36 ++ [1, 0] ++ natLe 4 2 ++ natLe 4 0x10 ++ natLe 4 1 ++ List.replicate 16 0#8)
    let x := s.spdmOf r
    s.spdmAnswer r { x with step := 3, vca := x.vca ++ spdmMsg 0xE3 r.attr.toNat 0 r.rest ++ m } m

/-- A request and its answer that concern certificates enter the transcript of CHALLENGE, and begin that of the measurements again. -/
def Spdm.withCerts (x : Spdm) (req ans : Bytes) : Spdm := { x with certs := x.certs ++ req ++ ans, meas := [] }

/-- GET_DIGESTS: slot 0 only. -/
def getDigests (r : SpdmReq) (s : State) : State :=
  s.spdmDo r (· == 3) fun s =>
    let m := spdmMsg 0x01 0 1 (digestBytes (sha256 s.certChain))
    s.spdmAnswer r ((s.spdmOf r).withCerts (spdmMsg 0x81 0 0 []) m) m

/-- GET_CERTIFICATE: a portion of the chain. -/
def getCertificate (r : SpdmReq) (slot off len : Nat) (s : State) : State :=
  s.spdmDo r (· == 3) fun s =>
    let c := s.certChain
    if slot ≠ 0 ∨ c.length ≤ off then s.spdmError r spInvalid 0
    else
      let d := (c.drop off).take len
      let m := spdmMsg 0x02 slot 0 (natLe 2 d.length ++ natLe 2 (c.length - off - d.length) ++ d)
      s.spdmAnswer r ((s.spdmOf r).withCerts (spdmMsg 0x82 slot 0 (natLe 2 off ++ natLe 2 len)) m) m

/-- Type of a measurement in the DMTF format: 0 immutable ROM, 1 firmware, 2 hardware configuration, 3 firmware configuration. -/
def measType (i : Nat) : Nat := if i = 1 then 0 else if i = 2 then 2 else if i = 10 then 3 else 1

/-- A measurement block in the DMTF format (R465). -/
def measBlock (i : Nat) (d : BitVec 256) : Bytes := natLe 1 i ++ [1] ++ natLe 2 35 ++ natLe 1 (measType i) ++ natLe 2 32 ++ digestBytes d
def State.measBlocks (s : State) (is : List Nat) : Bytes := is.flatMap fun i => measBlock i (s.boot.meas.getD (i - 1) 0)

/-- The measurement summary hash that a CHALLENGE asks for: none, the ROM's and firmware's measurements as the trusted base
(DESIGN CHOICE, log entry 46), or all of them. -/
def State.measSummary (s : State) (kind : Nat) : Option Bytes :=
  if kind = 0 then some []
  else if kind = 1 then some (digestBytes (sha256 (s.measBlocks (rangeFrom 1 9))))
  else if kind = 0xFF then some (digestBytes (sha256 (s.measBlocks (rangeFrom 1 11))))
  else none

/-- CHALLENGE: the chain's digest, a nonce and the measurement summary, signed with the alias key over the exchange so far. -/
def challenge (r : SpdmReq) (slot : Nat) (nonce : Bytes) (s : State) : State :=
  s.spdmDo r (· == 3) fun s =>
    match s.measSummary r.attr.toNat with
    | none => s.spdmError r spInvalid 0
    | some summary =>
      if slot ≠ 0 then s.spdmError r spInvalid 0
      else
        let n := s.freeBytes32
        let m := spdmMsg 0x03 slot 1 (digestBytes (sha256 s.certChain) ++ n.1 ++ summary ++ [0, 0])
        let x := s.spdmOf r
        let g := n.2.spdmSign "responder-challenge_auth signing" (x.vca ++ x.certs ++ spdmMsg 0x83 slot r.attr.toNat nonce ++ m)
        { n.2 with freeCtr := n.2.freeCtr + 1 }.spdmAnswer r { x with certs := [], meas := [] } (m ++ g)

/-- GET_MEASUREMENTS (R467): index 0 asks for their number, 0xFF for all of them; index 10 is reported as it stands. The
answer is signed where the request asks for it, over every measurement exchange since the last signature. -/
def getMeasurements (r : SpdmReq) (slot index : Nat) (nonce : Bytes) (s : State) : State :=
  s.spdmDo r (· == 3) fun s =>
    let signed := bitAt r.attr.toNat 0
    if (signed && slot != 0) || (11 < index ∧ index ≠ 0xFF) then s.spdmError r spInvalid 0
    else
      let is := if index = 0 then [] else if index = 0xFF then rangeFrom 1 11 else [index]
      let rcd := s.measBlocks is
      let n := s.freeBytes32
      let m := spdmMsg 0x60 (if index = 0 then 11 else 0) slot (natLe 1 is.length ++ natLe 3 rcd.length ++ rcd ++ n.1 ++ [0, 0])
      let x := s.spdmOf r
      let req := spdmMsg 0xE0 r.attr.toNat index (if signed then nonce ++ natLe 1 slot else [])
      if signed then
        let g := n.2.spdmSign "responder-measurements signing" (x.vca ++ x.meas ++ req ++ m)
        { n.2 with freeCtr := n.2.freeCtr + 1 }.spdmAnswer r { x with meas := [] } (m ++ g)
      else n.2.spdmAnswer r { x with meas := x.meas ++ req ++ m } m

/-- SPDM_UNSUPPORTED: any other request (R466). -/
def spdmUnsupported (r : SpdmReq) (code : Byte) (s : State) : State :=
  s.spdmDo r (fun _ => true) fun s => s.spdmError r spUnsupported code.toNat

def execGetVersion (r : SpdmReq) (s : State) : Out :=
  .next (s.atDoe r (.getVersion r) (getVersion r))
def execGetCapabilities (r : SpdmReq) (s : State) : Out :=
  .next (s.atDoe r (.getCapabilities r) (getCapabilities r))
def execNegotiateAlgorithms (r : SpdmReq) (s : State) : Out :=
  .next (s.atDoe r (.negotiateAlgorithms r) (negotiateAlgorithms r))
def execGetDigests (r : SpdmReq) (s : State) : Out :=
  .next (s.atDoe r (.getDigests r) (getDigests r))
def execGetCertificate (r : SpdmReq) (slot : Nat) (off : Nat) (len : Nat) (s : State) : Out :=
  .next (s.atDoe r (.getCertificate r slot off len) (getCertificate r slot off len))
def execChallenge (r : SpdmReq) (slot : Nat) (nonce : Bytes) (s : State) : Out :=
  .next (s.atDoe r (.challenge r slot nonce) (challenge r slot nonce))
def execGetMeasurements (r : SpdmReq) (slot : Nat) (index : Nat) (nonce : Bytes) (s : State) : Out :=
  .next (s.atDoe r (.getMeasurements r slot index nonce) (getMeasurements r slot index nonce))
def execSpdmUnsupported (r : SpdmReq) (code : Byte) (s : State) : Out :=
  .next (s.atDoe r (.unsupported r code) (spdmUnsupported r code))

end Sys2Proof.Machine
end

