-- ==== Sys2Proof/Machine/Ports.lean ====
section
/-! DEFINITION. What an access of a host does that waited for its port or its hub to restart, and the end of a restart (R433, R434, R456). -/

namespace Sys2Proof.Machine

/-- The access that a command of a host makes. -/
def hostAccess : Instr → State → State
  | .setupLockRequest p => setupLockRequest p
  | .serviceEn p => serviceEn p
  | .testEn p v => testEn p v
  | .priReset p => priReset p
  | .bar4Wbuf p => bar4Wbuf p
  | .tierHEnable p => tierHEnable p
  | .alertEn p pin => alertEn p pin
  | .tmarkEn p pin timer log2 => tmarkEn p pin timer log2
  | .trigEn p pin => trigEn p pin
  | .modEn p timer modTicks => modEn p timer modTicks
  | .vfAssign p vf word v => vfAssign p vf word v
  | .logPop p window => logPop p window
  | .splitRead p a => splitRead p a.fn a.doors a.off a.size
  | .streamWindowRead p st => streamWindowRead p st
  | .registerWrite p fn a size v => registerWrite p fn a.doors a.off size v
  | .sqTail a v => sqTail a v
  | .cqHead a v => cqHead a v
  | .ringEnable p fn r => ringEnable p fn r
  | .ringDisable p fn r => ringDisable p fn r
  | .configRequest p fn q => configRequest p fn q
  | .atsInvalidation p fn pasid page pages => atsInvalidation p fn pasid page pages
  | .translationCompletion p fn pasid page pages ans => translationCompletion p fn pasid page pages ans
  | .pageRequestResponse p fn group ans => pageRequestResponse p fn group ans
  | .flrPf p => flrPf p
  | .flrVf p vf => flrVf p vf
  | .busMasterEnableClear p fn => busMasterEnableClear p fn
  | .d3hot p fn => d3hot p fn
  | .msixUnmask p fn v => msixUnmask p fn v
  | .proceed p token => proceed p token
  | .escalate p token => escalate p token
  | .abandon p token => abandon p token
  | .resetRequest p => resetRequest p
  | .withdraw p => withdraw p
  | .fwOpen who => fwOpen who
  | .fwWrite who off len data => fwWrite who off len data
  | .fwClose who => fwClose who
  | .fwAbort who => fwAbort who
  | .fwCommit who => fwCommit who
  | .bar4Read p off len => bar4Read p off len
  | .bar4Write p off data => bar4Write p off data
  | _ => id

/-- A request of a DOE mailbox. -/
def spdmAccess : SpdmCmd → State → State
  | .getVersion r => getVersion r
  | .getCapabilities r => getCapabilities r
  | .negotiateAlgorithms r => negotiateAlgorithms r
  | .getDigests r => getDigests r
  | .getCertificate r slot off len => getCertificate r slot off len
  | .challenge r slot nonce => challenge r slot nonce
  | .getMeasurements r slot index nonce => getMeasurements r slot index nonce
  | .unsupported r code => spdmUnsupported r code

/-- Accesses that waited for a port or a hub are carried out, in the order of each port. -/
def State.portsResume (s : State) : State :=
  s.portIn.foldl (fun s x =>
    match x with
    | .cmd p i => if s.dieRests p then { s with portIn := s.portIn ++ [x] } else hostAccess i s
    | .doe p c => if s.dieRests p then { s with portIn := s.portIn ++ [x] } else spdmAccess c s
    | _ => if s.portWaits x then { s with portIn := s.portIn ++ [x] } else s.servePort x) { s with portIn := [] }

/-- REINIT_COMPLETE (R456): a restart finishes, and the work that waited goes on, or fails (R435). -/
def reinitComplete (u : FnUnit) (ok : Bool) (s : State) : State :=
  let st := s.unitSt u
  if !s.awake || !st.reinit then s
  else if !ok then s.lose u st.code
  else
    let s := (s.setUnitSt u { st with reinit := false }).portsResume
    ((List.range 128).foldl State.restore s).goOn

def execReinitComplete (u : FnUnit) (ok : Bool) (s : State) : Out := .next (reinitComplete u ok s)

end Sys2Proof.Machine
end

