-- ==== Sys2Proof/Machine/Start.lean ====
section
/-! DEFINITION. Starts of items (R272-R280, R283-R285), re-runs of groups, and the interrupt of a ring whose oldest completion has waited (R409). -/

namespace Sys2Proof.Machine

/-- The run of an item that starts: registers at zero, and `ITEM_ARG3` the instance word with the run's
first object in [13:0] (R205, R268). -/
def startRun (i : Inst) (x : Item) (id : ItemId) : Run :=
  { item := id, cls := x.cls, port := i.port, ring := i.ring, fn := i.fn,
    args := x.rcd.args ++ [BitVec.ofNat 64 (i.word.toNat / 16384 * 16384 + i.base % 16384)],
    preShift := x.preShift, inGroup := x.rcd.group != 0, chainLast := x.rcd.chainLast, effects := [], suppress := x.suppress,
    evInvalid := 0, evPermute := 0, evNanRow := 0, evSat := 0, sat := false, hostFault := false,
    applyCount := 0, lookupCount := 0, rerun := false, stall := none, stallAt := 0, fault := none, retry := false }

/-- Keeps the item running on a core in its second context bank (R228, R278). -/
def State.preempt (s : State) (c : Nat) : State :=
  s.modCore c fun k => match k.run with
    | some r => { k with run := none, saved := some { run := r, regs := k.regs, since := s.ticks } }
    | none => k

/-- The ready item waits for the flow that an item of a port has just taken: it is ready no longer (R272), though its
dependence stays met (R256). -/
def State.flowTaken (s : State) (p : Nat) (r : ItemRec) (id : ItemId) : Bool :=
  r.atomic && (match s.instOf id.inst, s.itemOf id with
    | some i, some x => x.rcd.atomic && !x.holdsFlow && i.port == p && x.rcd.flow == r.flow
    | _, _ => false)

/-- Starts an item on a core: a busy core is pre-empted, the image is loaded where the code tag differs
(R276), and the flow of an atomic item is held (R273), which leaves no other item of it ready (R272). -/
def State.startItem (s : State) (id : ItemId) (c : Nat) : State :=
  match s.instOf id.inst, s.itemOf id with
  | some i, some x =>
    let express := x.cls == .express
    let s := s.preempt c
    let s := if (s.core c).tag express == some (codeTag i.port i.program) then s else s.loadCode c i.port i.program express
    let s := s.modCore c fun k =>
      { k with run := some (startRun i x id), regs := { pc := partBase express + x.rcd.entry } }
    let s := s.modItem id fun x => { x with st := .inService c, holdsFlow := x.rcd.atomic }
    let s := { s with
      readyQ := s.readyQ.filter (· != id)
      flows := if x.rcd.atomic && !x.holdsFlow then s.flows ++ [(i.port, x.rcd.flow)] else s.flows }
    let back := s.readyQ.filter (s.flowTaken i.port x.rcd)
    let s := back.foldl (fun s y => s.modItem y fun x => { x with st := .waiting }) s
    { s with readyQ := s.readyQ.filter fun y => !back.contains y }
  | _, _ => s

/-- ITEM_START (R277): the dispatcher starts the next item in the order of R274 on the core that R275
or R278 chooses. -/
def itemStart (s : State) : State :=
  if !s.running then s
  else
    let s := s.settle
    match s.nextStart with
    | none => s.restoreAll
    | some (id, c) => (s.startItem id c).restoreAll

/-- The group has ended with its last stage `RERUN`: every item of it has ended (R284). -/
def Inst.rerunDue (i : Inst) (g : Nat) : Bool :=
  g != 0 && (i.items.any fun x => x.rcd.group == g && x.rerun) &&
    i.items.all fun x => x.rcd.group != g || x.st.over.isSome

/-- An item of a group set back to start again (R284): its held decrements are discarded (R285); a machine check
it has had still counts (R283), and so do the response words it has had (R407). -/
def Item.again (x : Item) : Item :=
  { x with st := .waiting, preShift := x.preShift + 1, suppress := [], fault := none, evs := [], sat := false,
           hostFault := false, rerun := false, heldDecs := [], avoid := none, holdsFlow := false, met := false }

/-- GROUP_RERUN (R284): each dependence object of the group goes back to its initial count and its items
start again in index order. -/
def groupRerun (n : Nat) (g : BitVec 8) (s : State) : State :=
  match s.instOf n with
  | none => s
  | some i =>
    if !s.running || !i.rerunDue g.toNat then s
    else
      let deps := i.items.filterMap fun x => if x.rcd.group = g.toNat then x.rcd.dep.map fun d => (i.objOf d, x.depInit) else none
      let s := deps.foldl (fun (s : State) (d : Nat × Nat) => s.syncSetTo d.1 d.2) s
      let s := s.modInst n fun i => { i with items := updWhere (fun x => x.rcd.group == g.toNat) Item.again i.items }
      s.settle

/-- IRQ_TICKS_EXPIRY (R409): the oldest pending completion of a ring has waited `irq_ticks`. -/
def irqTicksExpiry (r : RingIx) (s : State) : State :=
  let g := s.ring r.val
  if s.running && g.irqCount != 0 && g.irqTicks != 0 && decide (0 < g.pending ∧ g.pendingSince + g.irqTicks ≤ s.ticks) then
    s.ringIrq r.val
  else s

def execItemStart (s : State) : Out := .next (itemStart s)
def execGroupRerun (inst : Nat) (group : BitVec 8) (s : State) : Out := .next (groupRerun inst group s)
def execIrqTicksExpiry (r : RingIx) (s : State) : Out := .next (irqTicksExpiry r s)

end Sys2Proof.Machine
end

