-- ==== Sys2Proof/Machine/Dispatch.lean ====
section
/-! DEFINITION. The meaning of every command: one arm per constructor of Instr, each a direct call of its meaning. -/

namespace Sys2Proof.Machine

/-- The effect of a command on everything but the queue. -/
def exec (i : Instr) (s : State) : Host.Outcome State Fault Refusal :=
  match i with
  | .nop c f => Sys2Proof.Machine.execNop c f s
  | .add c f => Sys2Proof.Machine.execAdd c f s
  | .sub c f => Sys2Proof.Machine.execSub c f s
  | .mul c f => Sys2Proof.Machine.execMul c f s
  | .mulhu c f => Sys2Proof.Machine.execMulhu c f s
  | .and c f => Sys2Proof.Machine.execAnd c f s
  | .or c f => Sys2Proof.Machine.execOr c f s
  | .xor c f => Sys2Proof.Machine.execXor c f s
  | .shl c f => Sys2Proof.Machine.execShl c f s
  | .shr c f => Sys2Proof.Machine.execShr c f s
  | .sar c f => Sys2Proof.Machine.execSar c f s
  | .slt c f => Sys2Proof.Machine.execSlt c f s
  | .sltu c f => Sys2Proof.Machine.execSltu c f s
  | .seq c f => Sys2Proof.Machine.execSeq c f s
  | .min c f => Sys2Proof.Machine.execMin c f s
  | .max c f => Sys2Proof.Machine.execMax c f s
  | .addi c f => Sys2Proof.Machine.execAddi c f s
  | .andi c f => Sys2Proof.Machine.execAndi c f s
  | .ori c f => Sys2Proof.Machine.execOri c f s
  | .shli c f => Sys2Proof.Machine.execShli c f s
  | .shri c f => Sys2Proof.Machine.execShri c f s
  | .li c f => Sys2Proof.Machine.execLi c f s
  | .lih c f => Sys2Proof.Machine.execLih c f s
  | .sfadd c f => Sys2Proof.Machine.execSfadd c f s
  | .sfsub c f => Sys2Proof.Machine.execSfsub c f s
  | .sfmul c f => Sys2Proof.Machine.execSfmul c f s
  | .sfdiv c f => Sys2Proof.Machine.execSfdiv c f s
  | .sfsqrt c f => Sys2Proof.Machine.execSfsqrt c f s
  | .sf2i c f => Sys2Proof.Machine.execSf2i c f s
  | .si2f c f => Sys2Proof.Machine.execSi2f c f s
  | .ld c f => Sys2Proof.Machine.execLd c f s
  | .ld32 c f => Sys2Proof.Machine.execLd32 c f s
  | .st c f => Sys2Proof.Machine.execSt c f s
  | .st32 c f => Sys2Proof.Machine.execSt32 c f s
  | .sysr c f => Sys2Proof.Machine.execSysr c f s
  | .pcnt c f => Sys2Proof.Machine.execPcnt c f s
  | .jmp c f => Sys2Proof.Machine.execJmp c f s
  | .jr c f => Sys2Proof.Machine.execJr c f s
  | .beqz c f => Sys2Proof.Machine.execBeqz c f s
  | .bnez c f => Sys2Proof.Machine.execBnez c f s
  | .bltz c f => Sys2Proof.Machine.execBltz c f s
  | .bgez c f => Sys2Proof.Machine.execBgez c f s
  | .loop c f => Sys2Proof.Machine.execLoop c f s
  | .wait c f => Sys2Proof.Machine.execWait c f s
  | .ewait c f => Sys2Proof.Machine.execEwait c f s
  | .waitTimeout c => Sys2Proof.Machine.execWaitTimeout c s
  | .signal c f => Sys2Proof.Machine.execSignal c f s
  | .endItem c f => Sys2Proof.Machine.execEndItem c f s
  | .macc c f => Sys2Proof.Machine.execMacc c f s
  | .tsload c f => Sys2Proof.Machine.execTsload c f s
  | .tsstore c f => Sys2Proof.Machine.execTsstore c f s
  | .glz c f => Sys2Proof.Machine.execGlz c f s
  | .chain c f => Sys2Proof.Machine.execChain c f s
  | .chainru c f => Sys2Proof.Machine.execChainru c f s
  | .vperm c f => Sys2Proof.Machine.execVperm c f s
  | .vshuf c f => Sys2Proof.Machine.execVshuf c f s
  | .vpack c f => Sys2Proof.Machine.execVpack c f s
  | .vunpack c f => Sys2Proof.Machine.execVunpack c f s
  | .tld c f => Sys2Proof.Machine.execTld c f s
  | .tst c f => Sys2Proof.Machine.execTst c f s
  | .pld c f => Sys2Proof.Machine.execPld c f s
  | .pst c f => Sys2Proof.Machine.execPst c f s
  | .red c f => Sys2Proof.Machine.execRed c f s
  | .rowop c f => Sys2Proof.Machine.execRowop c f s
  | .sift c f => Sys2Proof.Machine.execSift c f s
  | .nureq c f => Sys2Proof.Machine.execNureq c f s
  | .xfer c f => Sys2Proof.Machine.execXfer c f s
  | .hld c f => Sys2Proof.Machine.execHld c f s
  | .hst c f => Sys2Proof.Machine.execHst c f s
  | .pass c f => Sys2Proof.Machine.execPass c f s
  | .chainPassArrival c n => Sys2Proof.Machine.execChainPassArrival c n s
  | .pairst c f => Sys2Proof.Machine.execPairst c f s
  | .statld c f => Sys2Proof.Machine.execStatld c f s
  | .statst c f => Sys2Proof.Machine.execStatst c f s
  | .sconsume c f => Sys2Proof.Machine.execSconsume c f s
  | .gather c req => Sys2Proof.Machine.execGather c req s
  | .sum c req => Sys2Proof.Machine.execSum c req s
  | .wsum c req => Sys2Proof.Machine.execWsum c req s
  | .mean c req => Sys2Proof.Machine.execMean c req s
  | .rowRead c req => Sys2Proof.Machine.execRowRead c req s
  | .update c req => Sys2Proof.Machine.execUpdate c req s
  | .apply c req => Sys2Proof.Machine.execApply c req s
  | .applyWindowTimeout p table => Sys2Proof.Machine.execApplyWindowTimeout p table s
  | .rowWrite c req => Sys2Proof.Machine.execRowWrite c req s
  | .expand c req => Sys2Proof.Machine.execExpand c req s
  | .aggregate c req => Sys2Proof.Machine.execAggregate c req s
  | .walk c req => Sys2Proof.Machine.execWalk c req s
  | .vertexRead c req => Sys2Proof.Machine.execVertexRead c req s
  | .vertexWrite c req => Sys2Proof.Machine.execVertexWrite c req s
  | .itemStart => Sys2Proof.Machine.execItemStart s
  | .machineCheck c engine poisonAt => Sys2Proof.Machine.execMachineCheck c engine poisonAt s
  | .groupRerun inst group => Sys2Proof.Machine.execGroupRerun inst group s
  | .irqTicksExpiry r => Sys2Proof.Machine.execIrqTicksExpiry r s
  | .streamGrant cl => Sys2Proof.Machine.execStreamGrant cl s
  | .streamCrumbDelivered st n host => Sys2Proof.Machine.execStreamCrumbDelivered st n host s
  | .generationStart st => Sys2Proof.Machine.execGenerationStart st s
  | .sqTail a v => Sys2Proof.Machine.execSqTail a v s
  | .cqHead a v => Sys2Proof.Machine.execCqHead a v s
  | .ringEnable p fn r => Sys2Proof.Machine.execRingEnable p fn r s
  | .ringDisable p fn r => Sys2Proof.Machine.execRingDisable p fn r s
  | .descriptorRead ans => Sys2Proof.Machine.execDescriptorRead ans s
  | .descriptorAccept r => Sys2Proof.Machine.execDescriptorAccept r s
  | .watchdog r => Sys2Proof.Machine.execWatchdog r s
  | .descNop r pos => Sys2Proof.Machine.execDescNop r pos s
  | .descFence r pos => Sys2Proof.Machine.execDescFence r pos s
  | .flush r pos => Sys2Proof.Machine.execFlush r pos s
  | .hostAtomic r pos => Sys2Proof.Machine.execHostAtomic r pos s
  | .syncSet r pos => Sys2Proof.Machine.execSyncSet r pos s
  | .ticks r pos => Sys2Proof.Machine.execTicks r pos s
  | .programLoad r pos => Sys2Proof.Machine.execProgramLoad r pos s
  | .launch r pos => Sys2Proof.Machine.execLaunch r pos s
  | .trainStep r pos => Sys2Proof.Machine.execTrainStep r pos s
  | .serviceBind r pos => Sys2Proof.Machine.execServiceBind r pos s
  | .serviceRequest r pos => Sys2Proof.Machine.execServiceRequest r pos s
  | .serviceUnbind r pos => Sys2Proof.Machine.execServiceUnbind r pos s
  | .itemResume r pos => Sys2Proof.Machine.execItemResume r pos s
  | .itemAbort r pos => Sys2Proof.Machine.execItemAbort r pos s
  | .streamArm r pos => Sys2Proof.Machine.execStreamArm r pos s
  | .tableSetup r pos ans => Sys2Proof.Machine.execTableSetup r pos ans s
  | .tableSwitch r pos => Sys2Proof.Machine.execTableSwitch r pos s
  | .tableRetire r pos => Sys2Proof.Machine.execTableRetire r pos s
  | .tableFree r pos => Sys2Proof.Machine.execTableFree r pos s
  | .migrate r pos => Sys2Proof.Machine.execMigrate r pos s
  | .poolGrant r pos => Sys2Proof.Machine.execPoolGrant r pos s
  | .poolReclaim r pos => Sys2Proof.Machine.execPoolReclaim r pos s
  | .graphSetup r pos ans => Sys2Proof.Machine.execGraphSetup r pos ans s
  | .graphDrain r pos => Sys2Proof.Machine.execGraphDrain r pos s
  | .sweep r pos => Sys2Proof.Machine.execSweep r pos s
  | .graphFree r pos => Sys2Proof.Machine.execGraphFree r pos s
  | .channelSetup r pos ans => Sys2Proof.Machine.execChannelSetup r pos ans s
  | .channelArm r pos => Sys2Proof.Machine.execChannelArm r pos s
  | .fabricFence r pos => Sys2Proof.Machine.execFabricFence r pos s
  | .sweepTimeout g => Sys2Proof.Machine.execSweepTimeout g s
  | .dataFlit l b => Sys2Proof.Machine.execDataFlit l b s
  | .idleFlit l b => Sys2Proof.Machine.execIdleFlit l b s
  | .trainFlit l b => Sys2Proof.Machine.execTrainFlit l b s
  | .detect l => Sys2Proof.Machine.execDetect l s
  | .linkPhaseTimeout l => Sys2Proof.Machine.execLinkPhaseTimeout l s
  | .linkReinit l => Sys2Proof.Machine.execLinkReinit l s
  | .ident l => Sys2Proof.Machine.execIdent l s
  | .credit l => Sys2Proof.Machine.execCredit l s
  | .packetTransit l => Sys2Proof.Machine.execPacketTransit l s
  | .prepare l => Sys2Proof.Machine.execPrepare l s
  | .answer l => Sys2Proof.Machine.execAnswer l s
  | .commit l => Sys2Proof.Machine.execCommit l s
  | .mapChange l => Sys2Proof.Machine.execMapChange l s
  | .mapAck l => Sys2Proof.Machine.execMapAck l s
  | .sweepEnd l => Sys2Proof.Machine.execSweepEnd l s
  | .mgAck l => Sys2Proof.Machine.execMgAck l s
  | .siftReq l => Sys2Proof.Machine.execSiftReq l s
  | .nuReq l => Sys2Proof.Machine.execNuReq l s
  | .updateNode l => Sys2Proof.Machine.execUpdateNode l s
  | .updateEnd l => Sys2Proof.Machine.execUpdateEnd l s
  | .forward l => Sys2Proof.Machine.execForward l s
  | .blockCopy l => Sys2Proof.Machine.execBlockCopy l s
  | .result l => Sys2Proof.Machine.execResult l s
  | .status l => Sys2Proof.Machine.execStatus l s
  | .grant l => Sys2Proof.Machine.execGrant l s
  | .channelSend ch => Sys2Proof.Machine.execChannelSend ch s
  | .record l => Sys2Proof.Machine.execRecord l s
  | .knead l => Sys2Proof.Machine.execKnead l s
  | .block l => Sys2Proof.Machine.execBlock l s
  | .chanAck l => Sys2Proof.Machine.execChanAck l s
  | .abort l => Sys2Proof.Machine.execAbort l s
  | .channelTimeout ch => Sys2Proof.Machine.execChannelTimeout ch s
  | .fence l => Sys2Proof.Machine.execFence l s
  | .fenceAck l => Sys2Proof.Machine.execFenceAck l s
  | .fabricTimeout r pos => Sys2Proof.Machine.execFabricTimeout r pos s
  | .epochVisit e => Sys2Proof.Machine.execEpochVisit e s
  | .epochEnd => Sys2Proof.Machine.execEpochEnd s
  | .moveComplete e => Sys2Proof.Machine.execMoveComplete e s
  | .chunkRelease e => Sys2Proof.Machine.execChunkRelease e s
  | .patrol addr good => Sys2Proof.Machine.execPatrol addr good s
  | .crumbCheckFail addr fails => Sys2Proof.Machine.execCrumbCheckFail addr fails s
  | .flashReadFail addr fails => Sys2Proof.Machine.execFlashReadFail addr fails s
  | .flashWriteComplete hub => Sys2Proof.Machine.execFlashWriteComplete hub s
  | .streamStoreRunExpire src line => Sys2Proof.Machine.execStreamStoreRunExpire src line s
  | .residue u engine operation => Sys2Proof.Machine.execResidue u engine operation s
  | .sramUncorrected p syndrome => Sys2Proof.Machine.execSramUncorrected p syndrome s
  | .reinitComplete u ok => Sys2Proof.Machine.execReinitComplete u ok s
  | .proceed p token => Sys2Proof.Machine.execProceed p token s
  | .escalate p token => Sys2Proof.Machine.execEscalate p token s
  | .abandon p token => Sys2Proof.Machine.execAbandon p token s
  | .answerTimeout token => Sys2Proof.Machine.execAnswerTimeout token s
  | .sensorSample readings => Sys2Proof.Machine.execSensorSample readings s
  | .supplyFault millivolts => Sys2Proof.Machine.execSupplyFault millivolts s
  | .bar4Read p off len => Sys2Proof.Machine.execBar4Read p off len s
  | .bar4Write p off data => Sys2Proof.Machine.execBar4Write p off data s
  | .configRequest p fn q => Sys2Proof.Machine.execConfigRequest p fn q s
  | .atsInvalidation p fn pasid page pages => Sys2Proof.Machine.execAtsInvalidation p fn pasid page pages s
  | .translationCompletion p fn pasid page pages ans => Sys2Proof.Machine.execTranslationCompletion p fn pasid page pages ans s
  | .pageRequestResponse p fn group ans => Sys2Proof.Machine.execPageRequestResponse p fn group ans s
  | .faultTimeout p acc => Sys2Proof.Machine.execFaultTimeout p acc s
  | .hostReadCompletion p acc ans => Sys2Proof.Machine.execHostReadCompletion p acc ans s
  | .dlDown p => Sys2Proof.Machine.execDlDown p s
  | .hotReset p => Sys2Proof.Machine.execHotReset p s
  | .perstAssert p => Sys2Proof.Machine.execPerstAssert p s
  | .perstDeassert p => Sys2Proof.Machine.execPerstDeassert p s
  | .flrPf p => Sys2Proof.Machine.execFlrPf p s
  | .flrVf p vf => Sys2Proof.Machine.execFlrVf p vf s
  | .busMasterEnableClear p fn => Sys2Proof.Machine.execBusMasterEnableClear p fn s
  | .d3hot p fn => Sys2Proof.Machine.execD3hot p fn s
  | .linkRetrain p => Sys2Proof.Machine.execLinkRetrain p s
  | .msixUnmask p fn vector => Sys2Proof.Machine.execMsixUnmask p fn vector s
  | .setupLockRequest p => Sys2Proof.Machine.execSetupLockRequest p s
  | .serviceEn p => Sys2Proof.Machine.execServiceEn p s
  | .testEn p v => Sys2Proof.Machine.execTestEn p v s
  | .priReset p => Sys2Proof.Machine.execPriReset p s
  | .bar4Wbuf p => Sys2Proof.Machine.execBar4Wbuf p s
  | .tierHEnable p => Sys2Proof.Machine.execTierHEnable p s
  | .alertEn p pin => Sys2Proof.Machine.execAlertEn p pin s
  | .tmarkEn p pin timer log2 => Sys2Proof.Machine.execTmarkEn p pin timer log2 s
  | .timeMark p => Sys2Proof.Machine.execTimeMark p s
  | .trigEn p pin => Sys2Proof.Machine.execTrigEn p pin s
  | .traceTrigger p => Sys2Proof.Machine.execTraceTrigger p s
  | .modEn p timer modTicks => Sys2Proof.Machine.execModEn p timer modTicks s
  | .errModInterval p => Sys2Proof.Machine.execErrModInterval p s
  | .vfAssign p vf word v => Sys2Proof.Machine.execVfAssign p vf word v s
  | .resetRequest p => Sys2Proof.Machine.execResetRequest p s
  | .withdraw p => Sys2Proof.Machine.execWithdraw p s
  | .resetDeadline => Sys2Proof.Machine.execResetDeadline s
  | .deviceReset => Sys2Proof.Machine.execDeviceReset s
  | .logPop p window => Sys2Proof.Machine.execLogPop p window s
  | .splitRead p a => Sys2Proof.Machine.execSplitRead p a s
  | .streamWindowRead p st => Sys2Proof.Machine.execStreamWindowRead p st s
  | .registerWrite p fn a size v => Sys2Proof.Machine.execRegisterWrite p fn a size v s
  | .fwOpen who => Sys2Proof.Machine.execFwOpen who s
  | .fwWrite who off len data => Sys2Proof.Machine.execFwWrite who off len data s
  | .fwClose who => Sys2Proof.Machine.execFwClose who s
  | .fwAbort who => Sys2Proof.Machine.execFwAbort who s
  | .fwCommit who => Sys2Proof.Machine.execFwCommit who s
  | .mgmtIdent x => Sys2Proof.Machine.execMgmtIdent x s
  | .bootState x => Sys2Proof.Machine.execBootState x s
  | .mgmtTicks x => Sys2Proof.Machine.execMgmtTicks x s
  | .temps x group => Sys2Proof.Machine.execTemps x group s
  | .power x => Sys2Proof.Machine.execPower x s
  | .haltState x => Sys2Proof.Machine.execHaltState x s
  | .logRecent x index => Sys2Proof.Machine.execLogRecent x index s
  | .alertStatus x => Sys2Proof.Machine.execAlertStatus x s
  | .cables x lc => Sys2Proof.Machine.execCables x lc s
  | .resetReq x graceMs => Sys2Proof.Machine.execResetReq x graceMs s
  | .resetWithdraw x => Sys2Proof.Machine.execResetWithdraw x s
  | .powerCycle x offSeconds => Sys2Proof.Machine.execPowerCycle x offSeconds s
  | .powerStatus x => Sys2Proof.Machine.execPowerStatus x s
  | .getVersion r => Sys2Proof.Machine.execGetVersion r s
  | .getCapabilities r => Sys2Proof.Machine.execGetCapabilities r s
  | .negotiateAlgorithms r => Sys2Proof.Machine.execNegotiateAlgorithms r s
  | .getDigests r => Sys2Proof.Machine.execGetDigests r s
  | .getCertificate r slot off len => Sys2Proof.Machine.execGetCertificate r slot off len s
  | .challenge r slot nonce => Sys2Proof.Machine.execChallenge r slot nonce s
  | .getMeasurements r slot index nonce => Sys2Proof.Machine.execGetMeasurements r slot index nonce s
  | .spdmUnsupported r code => Sys2Proof.Machine.execSpdmUnsupported r code s
  | .powerOn => Sys2Proof.Machine.execPowerOn s
  | .railFault order => Sys2Proof.Machine.execRailFault order s
  | .powerGood => Sys2Proof.Machine.execPowerGood s
  | .pwrEnLow => Sys2Proof.Machine.execPwrEnLow s
  | .vinLoss => Sys2Proof.Machine.execVinLoss s
  | .cprsntChange lc present lengthCm part => Sys2Proof.Machine.execCprsntChange lc present lengthCm part s
  | .verify => Sys2Proof.Machine.execVerify s
  | .clocks failed => Sys2Proof.Machine.execClocks failed s
  | .bridges failed => Sys2Proof.Machine.execBridges failed s
  | .memories failed => Sys2Proof.Machine.execMemories failed s
  | .flash failed => Sys2Proof.Machine.execFlash failed s
  | .links failed => Sys2Proof.Machine.execLinks failed s
  | .release => Sys2Proof.Machine.execRelease s
  | .stageTimeout units => Sys2Proof.Machine.execStageTimeout units s
  | .flitTransmit l => Sys2Proof.Machine.execFlitTransmit l s
  | .identInterval l => Sys2Proof.Machine.execIdentInterval l s
  | .dlUp t => Sys2Proof.Machine.execDlUp t s
  | .powerCycleOffTime => Sys2Proof.Machine.execPowerCycleOffTime s
  | .standbySupplyUp millivolts => Sys2Proof.Machine.execStandbySupplyUp millivolts s
  | .pllLockLoss u lockStatus => Sys2Proof.Machine.execPllLockLoss u lockStatus s
  | .bridgeCrcFail hub transfer => Sys2Proof.Machine.execBridgeCrcFail hub transfer s
  | .inlineEccError addr kind syndrome => Sys2Proof.Machine.execInlineEccError addr kind syndrome s
  | .alertResponseAddress => Sys2Proof.Machine.execAlertResponseAddress s
  | .dynamicAddressAssignment addr => Sys2Proof.Machine.execDynamicAddressAssignment addr s

end Sys2Proof.Machine
end

