-- ==== Sys2Proof/Machine/Step.lean ====
section
/-! DEFINITION. One step: the command at the front of the queue, or the tick of an idle block. -/

namespace Sys2Proof.Machine

/-- The step takes the oldest waiting command; with none waiting one tick of the free-running counter
(R18) passes while the block is awake (DESIGN CHOICE, log entry 6). -/
def step (s : State) : Host.Outcome State Fault Refusal :=
  match s.pending with
  | [] => .next (if s.awake then { s with ticks := s.ticks + 1 } else s)
  | c :: r => exec c { s with pending := r }

/-- The state with the command that a word of the table spells at the front of its queue. -/
def State.withFetchWord (s : State) (nbits w : Nat) : State :=
  match decodeTableWord nbits w with
  | some c => { s with pending := c :: s.pending }
  | none => s

end Sys2Proof.Machine
end

