-- ==== Sys2Proof/Safety.lean ====
section
/-! DEFINITION. The terms that statements about the block use: when a core issues, what an instruction that
completes leaves, and the invariants of the state. -/

namespace Sys2Proof.Machine

/-- The block runs and core `c` issues its next instruction for run `r`: its cluster is up, the item is not
held and waits for nothing, and the program counter lies in its partition, at a word whose opcode is not reserved
(R204, R207, R433, R437). -/
abbrev Ready (s : State) (c : Nat) (r : Run) : Prop :=
  s.running = true ∧ s.clusterUp c = true ∧ (s.core c).held = none ∧ (s.core c).run = some r ∧ r.stall = none ∧
    inPart r.express (s.core c).regs.pc 8 = true ∧ (s.core c).opcodeOk = true

/-- The core of an instruction fetches its word; a command of another kind fetches none (R204, R208). -/
abbrev Fetches (s : State) (i : Instr) : Prop :=
  match coreWord i with
  | some (c, w) => (s.core c.val).fetched = w
  | none => True

/-- The outcome of a core's instruction where its core fetches its word. -/
abbrev Does (s : State) (i : Instr) (o : Out) : Prop := Fetches s i → exec i s = o

/-- The state after an instruction of core `c` whose only effects are on the core itself. -/
abbrev State.onCore (s : State) (c : Nat) (f : Core → Core) : State := s.setCore c (f (s.core c))

/-- The next instruction follows: instructions are 8 bytes long (R204). -/
abbrev Core.next (k : Core) : Core := k.setPc (k.regs.pc + 8)

/-- A scalar result: Sd takes a value and the next instruction follows. -/
abbrev State.result (s : State) (c : Nat) (d : BitVec 5) (v : Word) : Out :=
  .next (s.onCore c fun k => (k.setS d.toNat v).next)

/-- Core `c` issues a request: its block and response word are aligned, in the partition and read without poison,
fewer than 64 operations are outstanding, and the number it takes is not in use (R215, R227, R230). -/
abbrev Asks (s : State) (c : Nat) (r : Run) (f : XFmt) (kind : ReqKind) (len : Nat) : Prop :=
  let k := s.core c
  let b := (k.sreg f.a.toNat).toNat
  let w := (k.sreg f.b.toNat).toNat
  Ready s c r ∧ f.ok false true true false false = true ∧ f.imm = 0 ∧ s.lsuCount c < 64 ∧ b % 32 = 0 ∧ w % 8 = 0 ∧
    inPart r.express b len = true ∧ inPart r.express w 8 = true ∧ engRead k b len enLsu = .ok () ∧
    s.lsuHeld r.port kind (k.ls.readBytes b len) = false ∧ (∀ x ∈ k.lsu, x.id ≠ k.nextReq)

/-- The request that an instruction at core `c` issues: its block as it stands, its response word and its item. -/
abbrev State.request (s : State) (c : Nat) (r : Run) (f : XFmt) (kind : ReqKind) (len : Nat) : LsuReq :=
  let k := s.core c
  { id := k.nextReq, kind := kind, block := k.ls.readBytes (k.sreg f.a.toNat).toNat len, resp := (k.sreg f.b.toNat).toNat,
    cls := r.cls, port := r.port, ring := r.ring, item := r.item, version := false, split := 0, status := 0, count := 0,
    served := false, moved := 0, prog := {}, effect := none }

/-- The state in which a request is outstanding: its response word is zero and the next instruction follows (R215). -/
abbrev State.requested (s : State) (c : Nat) (q : LsuReq) : State :=
  s.onCore c fun k => { k.engPut q.resp (natLe 8 0) with lsu := k.lsu ++ [q], nextReq := k.nextReq + 1 }.next

/-- The state in which descriptor `pos` of a ring has asked the host for the 64 bytes it names: once only, as the ring's function
and PASID (R369, R403). -/
abbrev State.setupAsked (s : State) (r pos addr : Nat) : State :=
  if s.accs.any fun a => a.why == .setup r pos then s
  else (s.begin r pos).hostStart (s.ringPort r) (s.ringFn r) (s.ring r).pasid addr 64 .read (.setup r pos) noItem

/-- A firmware command of a requester acts on state `u`: a PF's mailbox runs it and Jinal carries it out, or the PF writes it now
and no other runs there; or a transfer of the management interface ends it, with no other command of the interface running. -/
abbrev FwActs (w : Requester) (word : Nat) (data : Bytes) (s u : State) : Prop :=
  match w with
  | .pf p => ((s.port p.val).mboxBusy = some word ∧ s.jinalUp = true ∧ u = s) ∨
      ((s.port p.val).mboxBusy = none ∧ s.fnOpen p.val 0 = true ∧ u = s.wholeWrite p.val 0)
  | .mgmt x ends => ends = true ∧ x.pecOk = true ∧ s.power.standby = true ∧ s.jinalUp = true ∧
      (s.mgmt.running = none ∨ s.mgmt.running = some (word, data)) ∧ u = s

/-- The first message of a class for this device in a link's receive queue, as R336 and R363 take it: its packets are the first
of its class, destination and sender, up to the one that ends the message (one packet of an answer), and every sender with an
earlier packet of the class has no whole message there. -/
def MessageAtHead (cls self : Nat) (q : List Packet) (ps : List Packet) : Prop :=
  ∃ p rest pre post, ps = p :: rest ∧ q = pre ++ p :: post ∧ p.cls = cls ∧ p.dst = self ∧
    (∀ x ∈ pre, x.cls = cls → x.dst = self → x.src ≠ p.src ∧ cls ≠ clRs ∧
      ∀ y ∈ q, y.cls = cls → y.dst = self → y.src = x.src → y.last = false) ∧
    (cls = clRs → rest = []) ∧
    (cls ≠ clRs → ∃ init z, ps = init ++ [z] ∧ z.last = true ∧ ∀ y ∈ init, y.last = false)

/-- The form that every step keeps: the boot flash, the device memory and each core's local store are listed in canonical form. -/
abbrev State.Inv (s : State) : Prop :=
  s.bootFlash.wf = true ∧ s.dmem.wf = true ∧ ∀ c, (s.core c).ls.wf = true

end Sys2Proof.Machine
end

