-- ==== Sys2Proof/Certificates/Slice0/Obligations.lean ====
section
/-! DEFINITION. The statements about the block that are to be proved. -/

open Sys2Proof Sys2Proof.Machine

/-- A step carries out the command at the front of the queue on the state with the rest of the queue.

With no command waiting the step is one tick of the counter while the block is awake (DESIGN CHOICE,
log entry 6): the counter rises by one and nothing else changes; a block without power changes nothing.

Every command answers a next state, whatever the state and its operands: no command ends in a fault or a refusal. -/
def Obligations.StepRunsFrontCommand : Prop :=
  (∀ (i : Instr) (rest : List Instr) (s : State), s.pending = i :: rest →
    step s = exec i { s with pending := rest }) ∧
  (∀ s : State, s.pending = [] →
    (s.awake = true → step s = .next { s with ticks := s.ticks + 1 }) ∧ (s.awake = false → step s = .next s)) ∧
  ∀ (i : Instr) (s : State), ∃ t, exec i s = .next t

/-- What reset leaves, in the values the spec gives: every set-up and expert register at its reset value, of which the
device and port controls are written out, every function in hardware mode, each half of the resources with its port,
nothing running and nothing logged. -/
def Obligations.ResetValues : Prop :=
  State.reset.pending = [] ∧ State.reset.out = [] ∧ State.reset.ticks = 0 ∧ State.reset.locked = false ∧
    State.reset.running = false ∧ State.reset.boot.stage = .wake ∧
    (∀ f, State.reset.assisted f = false) ∧
    (∀ r, r < 2048 → State.reset.ringPort r = 0) ∧ (∀ r, 2048 ≤ r → r < 4096 → State.reset.ringPort r = 1) ∧
    (∀ k c, c < 64 → State.reset.corePort k c = 0) ∧ (∀ k c, 64 ≤ c → c < 128 → State.reset.corePort k c = 1) ∧
    State.reset.podSize = 1 ∧ State.reset.waitLimit = 1000000 ∧
    (∀ k, State.reset.reg k = regReset State.reset.fuses.code.toNat k) ∧
    State.reset.dreg 0x1008 = 0 ∧ State.reset.dreg 0x1010 = 1000 + 100 * 2 ^ 16 + 1000 * 2 ^ 32 + 100 * 2 ^ 48 ∧
    State.reset.dreg 0x1018 = 24 + 24 * 2 ^ 8 + 60 * 2 ^ 16 ∧
    State.reset.dreg 0x1020 = 8 + 10 * 2 ^ 6 + 2 * 2 ^ 12 + 10 * 2 ^ 18 + 4 * 2 ^ 24 + 8 * 2 ^ 30 + 6 * 2 ^ 36 + 4 * 2 ^ 42 + 2 * 2 ^ 48 ∧
    State.reset.dreg 0x1028 = 23 + 31 * 2 ^ 8 ∧ State.reset.dreg 0x1030 = 95 + 95 * 2 ^ 8 + 85 * 2 ^ 16 + 85 * 2 ^ 24 + 70 * 2 ^ 32 ∧
    (∀ p, p < 2 → State.reset.portCtrl p = 16 + 32 + 100 * 2 ^ 32 ∧ State.reset.preg p 0x2008 = 0 ∧ State.reset.preg p 0x2010 = 0 ∧
      State.reset.preg p 0x2018 = 0 ∧ State.reset.preg p 0x2020 = 11 + 2 ^ 8 ∧ State.reset.preg p 0x2028 = 0 ∧
      State.reset.preg p 0x2038 = 100 * 2 ^ 16 ∧ State.reset.preg p 0x3010 = 1000) ∧
    (∀ l, State.reset.link l = {}) ∧ (∀ r, State.reset.ring r = {}) ∧ (∀ o, State.reset.sync o = {}) ∧
    (∀ t, State.reset.tableOf t = none) ∧ (∀ k, State.reset.log k = {})

/-- Reset has every form that steps keep (`EveryStepKeepsForms`): the memories list nothing. -/
def Obligations.ResetForm : Prop :=
  State.reset.Inv ∧ State.reset.bootFlash = [] ∧ State.reset.dmem = [] ∧ (∀ c, (State.reset.core c).ls = []) ∧ State.reset.pending = []

/-- Every command keeps the form of the state: from a state whose boot flash, device memory and local stores are lists in
canonical form, a step leaves one. -/
def Obligations.EveryStepKeepsForms : Prop :=
  ∀ s t : State, s.Inv → step s = .next t → t.Inv

/-- Every step, whatever its command, takes exactly the command at the front of the queue, blows fuses of the anti-rollback
counter only, and heals none. -/
def Obligations.EveryStepKeepsFuses : Prop :=
  ∀ s t : State, step s = .next t →
    t.pending = s.pending.tail ∧ s.fuses.svn ||| t.fuses.svn = t.fuses.svn ∧ { t.fuses with svn := 0 } = { s.fuses with svn := 0 }

/-- R33: a sum of two operands of opposite sign that is exactly zero is +0 under both roundings and in every format, the
sum of two negative zeros is -0, and the sign of a product is the exclusive OR of the operands' signs. -/
def Obligations.SignsOfZerosAndProducts : Prop :=
  (∀ (f : Fmt) (r : Rnd) (o : Ovf) (n : Bool) (m1 m2 : Nat) (e1 e2 : Int),
    m1 <<< (e1 - min e1 e2).toNat = m2 <<< (e2 - min e1 e2).toNat →
      f.roundV r o (FV.add (.fin n m1 e1) (.fin (!n) m2 e2)) = .zero false) ∧
  (∀ (f : Fmt) (r : Rnd) (o : Ovf) (e1 e2 : Int), f.roundV r o (FV.add (.fin true 0 e1) (.fin true 0 e2)) = .zero true) ∧
  (∀ (f : Fmt) (r : Rnd) (o : Ovf) (a b : FV), (f.roundV r o (a.mul b)).isNan = false → (f.roundV r o (a.mul b)).sign = (a.sign != b.sign)) ∧
  ∀ a b : FV, ((add32 a b).run 0).1 = (Ar.note [a, b] (fp32.roundV .rne .toInf (a.add b)) |>.run 0).1 ∧
    ((mul32 a b).run 0).1 = (Ar.note [a, b] (fp32.roundV .rne .toInf (a.mul b)) |>.run 0).1

/-- R205: S0 reads as zero and discards what is written to it, and at the start of an item, on an idle core or one whose
item it pre-empts, every scalar, predicate and tile register of the item reads as zero. -/
def Obligations.RegistersAtItemStart : Prop :=
  (∀ (k : Core) (v : Word), k.sreg 0 = 0 ∧ k.setS 0 v = k) ∧
  ∀ (s : State) (id : ItemId) (c : Nat) (i : Inst) (x : Item), s.running = true →
    s.settle.nextStart = some (id, c) → s.settle.instOf id.inst = some i → s.settle.itemOf id = some x → c < 128 →
    ∃ t, exec .itemStart s = .next t ∧ ((t.core c).run.map (·.item)) = some id ∧
      (∀ n, (t.core c).sreg n = 0) ∧ (∀ n, (t.core c).preg n = 0) ∧ ∀ n e, (t.core c).telem n e = 0

/-- R482, R508 and R444: a ring window takes a write of its parameters only while the ring is `IDLE`, or `ORPHANED` on a
quiesced port, and logs another, as it logs one that enables and disables at once; a ring that is neither is not enabled
again. A write of `PORT_CTRL` that sets both enables goes to `TEST` from `SERVICE`, and the port returns there. A device
reset asked for while the device is halted and a sensor reads above its warning threshold is logged and changes nothing
else. -/
def Obligations.RegisterRules : Prop :=
  (∀ (p : PortIx) (fn : FnIx) (r : RingIx) (off w : Nat) (v : Word) (s : State), s.bar0Open p.val fn.val off = true → off % 64 = 8 * w →
    (fn.val = 0 ∧ off = 0x100000 + 64 * r.val + 8 * w ∧ s.ringPort r.val = p.val ∨
      fn.val ≠ 0 ∧ off < 0x8000 ∧ s.vfRing p.val fn.val (off / 64) = some r.val) →
    let u := s.wholeWrite p.val fn.val
    let st := (s.ring r.val).st
    (w < 5 → (st = .idle ∨ st = .orphaned ∧ s.quiesced p.val = true) → exec (.registerWrite p fn ⟨false, off⟩ 8 v) s =
      .next (u.setRing r.val ((u.ring r.val).setWord w
        (BitVec.ofNat 64 ((s.ringWord r.val w &&& (ones64 ^^^ ringMask w)) ||| (v.toNat &&& ringMask w)))))) ∧
    (w < 5 → st ≠ .idle → (st = .orphaned → s.quiesced p.val = false) → exec (.registerWrite p fn ⟨false, off⟩ 8 v) s =
      .next (u.ringAccess p.val r.val (0x100000 + 64 * r.val + 8 * w) accIgnored)) ∧
    (w = 5 → v.getLsbD 4 = true → v.getLsbD 5 = true → exec (.registerWrite p fn ⟨false, off⟩ 8 v) s =
      .next (u.ringAccess p.val r.val (ringCtl r.val) accIgnored)) ∧
    (st ≠ .idle → st ≠ .orphaned → s.barOpen p.val fn.val = true → s.ringReached p.val fn.val r.val = true → exec (.ringEnable p fn r) s = .next u)) ∧
  (∀ (p : PortIx) (v : Word) (s : State), s.bar0Open p.val 0 0x2000 = true → v.getLsbD 2 = true → v.getLsbD 3 = true → fld v.toNat 32 16 ≠ 0 →
    (v.getLsbD 6 = false ∨ bitAt (s.preg p.val 0x2000) 6 = true ∨ 32 ≤ s.stagingFree p.val) → ((s.port p.val).phase = .startup ∨ (s.port p.val).phase = .recovery) →
    ∃ t u : State, exec (.registerWrite p 0 ⟨false, 0x2000⟩ 8 v) s = .next t ∧ (t.port p.val).phase = .test ∧ (t.port p.val).before = .service ∧
      (t.bar0Open p.val 0 0x2000 = true → fld (t.preg p.val 0x2000) 32 16 ≠ 0 → exec (.testEn p false) t = .next u ∧ (u.port p.val).phase = .service)) ∧
  ∀ (x : MgXfer) (ms : Nat) (s : State), x.pecOk = true → s.power.standby = true → s.jinalUp = true → s.mgmt.running = none → 10 ≤ ms → ms ≤ 60000 → s.mgmt.halted = true →
    (∃ y ∈ s.mgmt.readings.zipIdx, 16 * s.warnAt y.2 < y.1.toInt) → exec (.resetReq x ms) s =
      .next ((s.report lgDevice [] eResetRequest 7 2 (ms * ticksPerMs)).emit (.mgmt mgRefused []))

/-- `WATCHDOG`: a head entry that has waited its limit is logged, once.

It says that `WATCHDOG` completes, and when. -/
def Obligations.WatchdogLogs : Prop :=
  ∀ (r : RingIx) (s : State) (e : Live), s.running = true →
    let g := s.ring r.val
    g.head = some e → g.watchTicks ≠ 0 →
    (g.watched = false → e.acceptedAt + g.watchTicks ≤ s.ticks → exec (.watchdog r) s =
      .next ((s.setRing r.val { g with watched := true }).report (lgPort (s.ringPort r.val)) [] eWatchdog r.val r.val (e.pos % 2 ^ g.sqLog2))) ∧
    (g.watched = true ∨ s.ticks < e.acceptedAt + g.watchTicks → exec (.watchdog r) s = .next s)

/-- S0 reads as zero and discards writes; every other scalar register keeps what was last written to it.

Scalar arithmetic and logic on registers: Sd takes the result of Sa and Sb, the next instruction follows and
nothing else changes.

`NOP` only advances the program counter.

Scalar instructions with an immediate.

`SYSR` reads a core state word, and `ILLEGAL_OP` follows on a reserved number; `PCNT` counts set bits.

It says that `NOP`, `ADD`, `SUB`, `MUL`, `MULHU`, `AND`, `OR`, `XOR`, `SHL`, `SHR`, `SAR`, `SLT`, `SLTU`, `SEQ`, `MIN`,
`MAX`, `ADDI`, `ANDI`, `ORI`, `SHLI`, `SHRI`, `LI`, `LIH`, `SYSR`, `PCNT` complete, and when. -/
def Obligations.ScalarResults : Prop :=
  (∀ (k : Core) (n m : Nat) (v : Word),
    k.sreg 0 = 0 ∧ (k.setS 0 v) = k ∧ (n ≠ 0 → (k.setS n v).sreg n = v) ∧ (m ≠ n → (k.setS n v).sreg m = k.sreg m) ∧
      (k.setS n v).ls = k.ls ∧ (k.setS n v).regs.pc = k.regs.pc ∧ (k.setS n v).trees = k.trees) ∧
  (∀ (c : CoreIx) (f : RFmt) (s : State) (r : Run), Ready s c.val r → f.ok true true true false = true →
    let a := (s.core c.val).sreg f.a.toNat
    let b := (s.core c.val).sreg f.b.toNat
    let res := s.result c.val f.d
    Does s (.add c f) (res (a + b)) ∧ Does s (.sub c f) (res (a - b)) ∧ Does s (.mul c f) (res (a * b)) ∧
    Does s (.mulhu c f) (res (BitVec.ofNat 64 (a.toNat * b.toNat / 2 ^ 64))) ∧
    Does s (.and c f) (res (a &&& b)) ∧ Does s (.or c f) (res (a ||| b)) ∧ Does s (.xor c f) (res (a ^^^ b)) ∧
    Does s (.shl c f) (res (a <<< (b.toNat % 64))) ∧ Does s (.shr c f) (res (a >>> (b.toNat % 64))) ∧
    Does s (.sar c f) (res (a.sshiftRight (b.toNat % 64))) ∧
    Does s (.slt c f) (res (if a.toInt < b.toInt then 1 else 0)) ∧
    Does s (.sltu c f) (res (if a.toNat < b.toNat then 1 else 0)) ∧
    Does s (.seq c f) (res (if a = b then 1 else 0)) ∧
    Does s (.min c f) (res (if b.toInt < a.toInt then b else a)) ∧
    Does s (.max c f) (res (if a.toInt < b.toInt then b else a))) ∧
  (∀ (c : CoreIx) (f : RFmt) (s : State) (r : Run), Ready s c.val r → f.ok false false false false = true →
    Does s (.nop c f) (.next (s.onCore c.val Core.next))) ∧
  (∀ (c : CoreIx) (f : IFmt) (s : State) (r : Run), Ready s c.val r →
    let a := (s.core c.val).sreg f.a.toNat
    let res := s.result c.val f.d
    (f.ok true true false = true →
      Does s (.addi c f) (res (a + f.imm.signExtend 64)) ∧ Does s (.andi c f) (res (a &&& f.imm.zeroExtend 64)) ∧
      Does s (.ori c f) (res (a ||| f.imm.zeroExtend 64)) ∧ Does s (.shli c f) (res (a <<< (f.imm.toNat % 64))) ∧
      Does s (.shri c f) (res (a >>> (f.imm.toNat % 64)))) ∧
    (f.ok true false false = true →
      Does s (.li c f) (res (f.imm.signExtend 64)) ∧
      Does s (.lih c f) (res (BitVec.ofNat 64 (f.imm.toNat * 2 ^ 32 + ((s.core c.val).sreg f.d.toNat).toNat % 2 ^ 32))))) ∧
  (∀ (c : CoreIx) (s : State) (r : Run), Ready s c.val r →
    (∀ f : IFmt, f.ok true false false = true →
      (∀ v, s.coreWord c.val f.imm.toNat r = some v → Does s (.sysr c f) (s.result c.val f.d v)) ∧
      (16 ≤ f.imm.toNat → Does s (.sysr c f) (.next (s.raise c.val xIllegalOp enIssue (f.word 0x24)))) ∧
      (f.imm.toNat < 16 → (s.coreWord c.val f.imm.toNat r).isSome = true)) ∧
    s.coreWord c.val 0 r = some (BitVec.ofNat 64 c.val) ∧ s.coreWord c.val 8 r = some (BitVec.ofNat 64 s.ticks) ∧
    s.coreWord c.val 10 r = some (BitVec.ofNat 64 r.evInvalid) ∧
    (∀ f : RFmt, f.ok true true false false = true → f.a.toNat < 8 →
      Does s (.pcnt c f) (s.result c.val f.d
        (BitVec.ofNat 64 ((List.range 256).countP fun i => ((s.core c.val).preg f.a.toNat).getLsbD i)))))

/-- Scalar single floats: Sd takes the FP32 result in its lower half with zero above, and the item's count of
invalid operations rises by the invalid operations of the instruction, saturating (R32, R206).

It says that `SFADD`, `SFSUB`, `SFMUL`, `SFDIV`, `SFSQRT`, `SF2I`, `SI2F` complete, and when. -/
def Obligations.SingleFloatResults : Prop :=
  ∀ (c : CoreIx) (f : RFmt) (s : State) (r : Run), Ready s c.val r →
    let fp (n : Nat) : FV := fp32.dec (((s.core c.val).sreg n).toNat % 2 ^ 32)
    let a := fp f.a.toNat
    let b := fp f.b.toNat
    let res (n : Nat) (v : Word) : Out :=
      .next (s.onCore c.val fun k =>
        ({ k with run := some { r with evInvalid := min (r.evInvalid + n) (2 ^ 32 - 1) } }.setS f.d.toNat v).next)
    let sf (x : Ar FV) : Out := res (x.run 0).2 (BitVec.ofNat 64 (fp32.enc (x.run 0).1))
    (f.ok true true true false = true →
      Does s (.sfadd c f) (sf (add32 a b)) ∧ Does s (.sfsub c f) (sf (sub32 a b)) ∧
      Does s (.sfmul c f) (sf (mul32 a b)) ∧ Does s (.sfdiv c f) (sf (div32 a b))) ∧
    (f.ok true true false false = true →
      Does s (.sfsqrt c f) (sf (sqrt32 a)) ∧
      Does s (.sf2i c f) (res ((narrowInt 32 a).run 0).2 (BitVec.ofInt 64 ((narrowInt 32 a).run 0).1)) ∧
      Does s (.si2f c f) (s.result c.val f.d
        (BitVec.ofNat 64 (fp32.enc (rne32 (FV.ofInt (((s.core c.val).sreg f.a.toNat).setWidth 32).toInt))))))

/-- Loads of local store: an aligned address of the partition that holds no poison gives its little-endian value,
zero-extended.

Stores to local store: the bytes at the address take the register's lowest bytes, little-endian; every byte
of memory outside them, every register but the program counter and every other core stay as they were.

It says that `LD`, `LD32`, `ST`, `ST32` complete, and when. -/
def Obligations.LocalStoreWords : Prop :=
  (∀ (c : CoreIx) (f : IFmt) (s : State) (r : Run), Ready s c.val r → f.ok true true false = true →
    let k := s.core c.val
    let x := (k.sreg f.a.toNat + f.imm.signExtend 64).toNat
    let clean (n : Nat) : Prop := x % n = 0 ∧ inPart r.express x n = true ∧ ∀ w ∈ wordsOf x n, w ∉ k.lsPoison
    (clean 8 → Does s (.ld c f) (s.result c.val f.d (BitVec.ofNat 64 (k.ls.readNat x 8)))) ∧
    (clean 4 → Does s (.ld32 c f) (s.result c.val f.d (BitVec.ofNat 64 (k.ls.readNat x 4))))) ∧
  (∀ (c : CoreIx) (f : IFmt) (s : State) (r : Run), Ready s c.val r → f.ok false true true = true →
    let k := s.core c.val
    let x := (k.sreg f.a.toNat + f.imm.signExtend 64).toNat
    let v := (k.sreg f.b.toNat).toNat
    let stored (i : Instr) (n : Nat) : Prop :=
      Fetches s i → ∃ t, exec i s = .next t ∧
        (∀ a, (t.core c.val).ls.read a =
          if x ≤ a ∧ a < x + n then BitVec.ofNat 8 (v / 256 ^ (a - x)) else k.ls.read a) ∧
        (t.core c.val).regs = { k.regs with pc := k.regs.pc + 8 } ∧ (t.core c.val).trees = k.trees ∧
        (t.core c.val).run = k.run ∧ t = { s with cores := t.cores } ∧ ∀ d, d ≠ c.val → t.core d = s.core d
    (x % 8 = 0 → inPart r.express x 8 = true → stored (.st c f) 8) ∧
    (x % 4 = 0 → inPart r.express x 4 = true → stored (.st32 c f) 4))

/-- Branches: a taken branch goes to the target, a multiple of 8 in the partition; one not taken goes on. The offset
counts instructions from the branch. `LOOP` decrements Sa first.

`JR` goes to the address in Sa.

It says that `JMP`, `JR`, `BEQZ`, `BNEZ`, `BLTZ`, `BGEZ`, `LOOP` complete, and when. -/
def Obligations.BranchResults : Prop :=
  (∀ (c : CoreIx) (f : BFmt) (s : State) (r : Run), Ready s c.val r →
    let k := s.core c.val
    let a := k.sreg f.a.toNat
    let dst := (BitVec.ofNat 64 k.regs.pc + 8 * f.off.signExtend 64).toNat
    let branch (i : Instr) (taken : Prop) (k : Core) : Prop :=
      (taken → dst % 8 = 0 → inPart r.express dst 8 = true → Does s i (.next (s.setCore c.val (k.setPc dst)))) ∧
      (¬ taken → Does s i (.next (s.setCore c.val k.next)))
    (f.ok false = true → branch (.jmp c f) True k) ∧
    (f.ok true = true →
      branch (.beqz c f) (a = 0) k ∧ branch (.bnez c f) (a ≠ 0) k ∧ branch (.bltz c f) (a.toInt < 0) k ∧
      branch (.bgez c f) (0 ≤ a.toInt) k ∧
      branch (.loop c f) (f.a ≠ 0 ∧ a ≠ 1) (k.setS f.a.toNat (a - 1)))) ∧
  (∀ (c : CoreIx) (f : RFmt) (s : State) (r : Run), Ready s c.val r → f.ok false true false false = true →
    let dst := ((s.core c.val).sreg f.a.toNat).toNat
    (dst % 8 = 0 → inPart r.express dst 8 = true → Does s (.jr c f) (.next (s.onCore c.val fun k => k.setPc dst))) ∧
    (dst % 8 ≠ 0 → Does s (.jr c f) (.next (s.raise c.val xMisaligned enIssue (f.word 0x29)))) ∧
    (dst % 8 = 0 → inPart r.express dst 8 = false → Does s (.jr c f) (.next (s.raise c.val xLsPartition enIssue (f.word 0x29)))))

/-- `WAIT`: issue goes on at once when the condition holds, and stops at the instruction when it does not.

A core that waited goes on behind the instruction that waited once its condition holds: the next instruction
given to it is carried out with the program counter advanced and no wait left.

`WAIT_TIMEOUT`: a wait that is still not satisfied when the wait limit has passed raises the exception; before,
and when it is satisfied, nothing happens.

It says that `WAIT`, `EWAIT`, `WAIT_TIMEOUT` complete, and when. -/
def Obligations.WaitResults : Prop :=
  (∀ (c : CoreIx) (f : XFmt) (s : State) (r : Run), Ready s c.val r →
    let k := s.core c.val
    let a := (k.sreg f.a.toNat).toNat
    let b := (k.sreg f.b.toNat).toNat
    let waits (i : Instr) (t : Stall) (met : Prop) : Prop :=
      (met → Does s i (.next (s.onCore c.val Core.next))) ∧
      (¬ met → Does s i (.next (s.onCore c.val fun k => { k with run := some { r with stall := some t, stallAt := s.ticks, stallLimit := s.waitLimit } })))
    (f.imm = 0 → f.ok false true false false false = true → a % 8 = 0 → inPart r.express a 8 = true → a / 8 ∉ k.lsPoison →
      waits (.wait c f) (.word a) (((k.ls.read a).getLsbD 0) = true)) ∧
    (f.imm = 1 → f.ok false true false false false = true →
      waits (.wait c f) (.chain (a % 2 ^ 32)) ((k.chainCount - BitVec.ofNat 32 a).toNat < 2 ^ 31)) ∧
    (f.imm = 2 → f.ok false true true false false = true → ∀ d, s.deliveredNow c.val r (a % 2 ^ 16) = some d →
      waits (.wait c f) (.stream (a % 2 ^ 16) b) (b ≤ d)) ∧
    (f.imm.toNat < 64 → f.ok false false false false false = true →
      waits (.ewait c f) (.engines f.imm.toNat) (f.imm.getLsbD 5 = true → s.outstanding c.val r.item = false))) ∧
  (∀ (c : CoreIx) (s : State) (r : Run) (t : Stall), s.issuing c.val = some r → r.stall = some t → s.stallMet c.val r t = true →
    ∀ i : Instr, (∃ f, i = .nop c f ∨ i = .add c f ∨ i = .sub c f) ∨ (∃ f, i = .addi c f ∨ i = .ld c f ∨ i = .st c f) →
      let u := s.setCore c.val { s.core c.val with
        run := some { r with stall := none }, regs := { (s.core c.val).regs with pc := (s.core c.val).regs.pc + 8 } }
      Fetches u i → exec i s = exec i u) ∧
  (∀ (c : CoreIx) (s : State) (r : Run) (t : Stall), s.issuing c.val = some r → r.stall = some t → t.limited = true →
    (s.stallMet c.val r t = false → r.stallAt + r.stallLimit ≤ s.ticks →
      exec (.waitTimeout c) s = .next (s.raise c.val xWaitTimeout enIssue
        (BitVec.ofNat 64 ((s.core c.val).ls.readNat (s.core c.val).regs.pc 8)))) ∧
    (s.stallMet c.val r t = true → exec (.waitTimeout c) s = .next s) ∧
    (s.ticks < r.stallAt + r.stallLimit → exec (.waitTimeout c) s = .next s))

/-- `SIGNAL` decrements a sync object of the item's port, unless an earlier run of the item did; an object of the other
port raises `SYNC_CLAIM`, and so nothing is decremented.

`END` holds the item open while an operation of it is outstanding, and ends its run at once when none is.

It says that `SIGNAL`, `END` complete, and when. -/
def Obligations.SignalAndEnd : Prop :=
  (∀ (c : CoreIx) (f : XFmt) (s : State) (r : Run), Ready s c.val r → f.ok false true false false false = true →
    0 < f.imm.toNat → f.imm.toNat < 256 →
    let o := ((s.core c.val).sreg f.a.toNat).toNat % 16384
    (s.syncPort o = r.port → ∀ st, r.suppress[r.effects.length]? = some st →
      Does s (.signal c f) (.next (s.onCore c.val fun k => { k.next with run := some { r with effects := r.effects ++ [st] } }))) ∧
    (s.syncPort o = r.port → r.suppress[r.effects.length]? = none →
      Does s (.signal c f) (.next (((s.onCore c.val fun k =>
        { k.next with run := some { r with effects := r.effects ++ [0] } }).itemDecrement r.item o f.imm.toNat false).settle))) ∧
    (s.syncPort o ≠ r.port → Does s (.signal c f) (.next (s.raise c.val xSyncClaim enIssue (f.word 0x32)))) ∧
    (s.insts = [] → s.syncPort o = r.port → r.suppress[r.effects.length]? = none → f.imm.toNat ≤ (s.sync o).count.toNat →
      Fetches s (.signal c f) → ∃ t, exec (.signal c f) s = .next t ∧ (t.sync o).count = (s.sync o).count - f.imm.setWidth 32 ∧
        (t.sync o).underflow = (s.sync o).underflow ∧ ∀ q, q ≠ o → t.sync q = s.sync q)) ∧
  (∀ (c : CoreIx) (f : XFmt) (s : State) (r : Run), Ready s c.val r → f.ok false false false false false = true → f.imm.toNat < 65536 →
    let e := s.onCore c.val fun k => { k with run := some { r with stall := some (.ending f.imm.toNat), stallAt := s.ticks, stallLimit := s.waitLimit } }
    (s.outstanding c.val r.item = true → Does s (.endItem c f) (.next e)) ∧
    (s.outstanding c.val r.item = false → Does s (.endItem c f) (.next (e.finishRun c.val f.imm.toNat))))

/-- What an exception of an instruction raises (R207, R225, R227, R230): a reserved field and a fetch outside the
partition come first; a misaligned address comes before one outside the partition.

An exception other than `MACHINE_CHECK` (R231, R234): the fault record is logged in the cluster's log; in
hardware mode the core stops issuing the item, which ends `FAULTED` once what it issued has completed; in
host-assisted mode the item is held with its registers, run and local store as they are. -/
def Obligations.ExceptionResults : Prop :=
  (∀ (c : CoreIx) (s : State) (r : Run), s.issuing c.val = some r → r.stall = none →
    let k := s.core c.val
    (inPart r.express k.regs.pc 8 = false →
      (∀ f, exec (.add c f) s = .next (s.raise c.val xLsPartition enIssue (f.word 0x01))) ∧
      (∀ f, exec (.ld c f) s = .next (s.raise c.val xLsPartition enIssue (f.word 0x20))) ∧
      (∀ f, exec (.macc c f) s = .next (s.raise c.val xLsPartition enIssue (f.word 0x40)))) ∧
    (inPart r.express k.regs.pc 8 = true → k.opcodeOk = false →
      (∀ f, exec (.add c f) s = .next (s.raise c.val xIllegalOp enIssue k.fetched)) ∧
      (∀ f, exec (.ld c f) s = .next (s.raise c.val xIllegalOp enIssue k.fetched)) ∧
      (∀ f, exec (.macc c f) s = .next (s.raise c.val xIllegalOp enIssue k.fetched))) ∧
    (inPart r.express k.regs.pc 8 = true → k.opcodeOk = true →
      (∀ f : RFmt, f.rsv ≠ 0 ∨ f.c ≠ 0 → Does s (.add c f) (.next (s.raise c.val xIllegalOp enIssue (f.word 0x01)))) ∧
      (∀ f : IFmt, f.rsv ≠ 0 ∨ f.b ≠ 0 → Does s (.ld c f) (.next (s.raise c.val xIllegalOp enIssue (f.word 0x20)))) ∧
      (∀ f : IFmt, f.ok true true false = true →
        let x := (k.sreg f.a.toNat + f.imm.signExtend 64).toNat
        (x % 8 ≠ 0 → Does s (.ld c f) (.next (s.raise c.val xMisaligned enIssue (f.word 0x20)))) ∧
        (x % 8 = 0 → inPart r.express x 8 = false → Does s (.ld c f) (.next (s.raise c.val xLsPartition enIssue (f.word 0x20))))) ∧
      (∀ f : IFmt, f.ok false true true = true →
        let x := (k.sreg f.a.toNat + f.imm.signExtend 64).toNat
        (x % 8 ≠ 0 → Does s (.st c f) (.next (s.raise c.val xMisaligned enIssue (f.word 0x22)))) ∧
        (x % 8 = 0 → inPart r.express x 8 = false → Does s (.st c f) (.next (s.raise c.val xLsPartition enIssue (f.word 0x22))))))) ∧
  (∀ (c : CoreIx) (s : State) (r : Run) (code engine : Nat) (insn : Word), s.issuing c.val = some r →
    let k := s.core c.val
    let F : FaultRec := { code := code, engine := engine, core := c.val, pc := k.regs.pc, insn := insn, item := r.item }
    let t := s.raise c.val code engine insn
    (s.assisted 1 = false → s.outstanding c.val r.item = true →
      t.core c.val = { k with run := some { r with fault := some F, stall := some (.ending 0) } } ∧ t.insts = s.insts) ∧
    (s.assisted 1 = true → t.core c.val = { k with held := some F } ∧ t.insts = s.insts) ∧
    (s.assisted 1 = true ∨ s.outstanding c.val r.item = true →
      Tab.get 0 (t.log (lgCluster (c.val / 16))).counts eCoreFault =
        Tab.get 0 (s.log (lgCluster (c.val / 16))).counts eCoreFault + 1 ∧
      ((s.log (lgCluster (c.val / 16))).view0.length < 64 →
        (t.log (lgCluster (c.val / 16))).view0 = (s.log (lgCluster (c.val / 16))).view0 ++
          [{ code := eCoreFault, cls := cReport, rung := 0, answer := if s.assisted 1 then 1 else 0, unit := c.val, ticks := s.ticks,
             info0 := BitVec.ofNat 64 (code + engine * 2 ^ 8 + c.val * 2 ^ 16), info1 := BitVec.ofNat 64 k.regs.pc }])))

/-- `MACC` that begins an integer tree set: the set at the tile then holds the exact sum of products of each
element over the block's indices, every live set that shared a tile or slot with it is gone (R53), and the program
counter advances; local store, registers and the rest of the machine stay as they are.

`MACC` on a floating-point tree set: a begin or an add puts the block's terms on the set's carry stack in
ascending index, in the canonical tree of R40 and R42, and counts its invalid operations.

It says that `MACC` completes, and when. -/
def Obligations.MaccResults : Prop :=
  (∀ (c : CoreIx) (f : MFmt) (s : State) (r : Run), Ready s c.val r → f.rsvLo = 0 → f.rsvHi = 0 → f.begins = true →
    let k := s.core c.val
    let h := (k.sreg f.h.toNat).toNat
    let v := (k.sreg f.s.toNat).toNat
    let m : MaccCap :=
      { tile := f.tile.toNat, held := h % 2 ^ 22, heldStride := h / 2 ^ 22 % 2 ^ 16, streamed := v % 2 ^ 22,
        streamedStride := v / 2 ^ 22 % 2 ^ 16, base := (k.sreg f.k.toNat).toNat % 2 ^ 40, rows := f.rowsM1.toNat + 1,
        cols := f.colsM1.toNat + 1, kCount := f.kM1.toNat + 1, fpair := f.fpair.toNat, transpose := f.transpose }
    ∀ (w : Nat) (t : TreeSet), (m.fpair = 6 ∧ w = 8 ∨ m.fpair = 7 ∧ w = 4) →
      macBegin k r m (k.sreg f.tc.toNat).toNat = .ok t → t.tag.arith = .int → t.tag.shift = 0 →
      let e : Elem := .int w
      (∀ p ∈ [(m.held, m.heldStride, m.rows), (m.streamed, m.streamedStride, m.cols)],
        panelOk e p.1 p.2.1 = true ∧ inPart r.express p.1 (rowsExtent p.2.2 p.2.1 (e.rowBytes m.kCount)) = true ∧
        panelRead k e p.1 p.2.1 p.2.2 m.kCount = .ok ()) →
      let hv := fun i a => bitsInt w (((panel k e m.held m.heldStride m.rows m.kCount).getD a []).getD i 0)
      let sv := fun i b => bitsInt w (((panel k e m.streamed m.streamedStride m.cols m.kCount).getD b []).getD i 0)
      Fetches s (.macc c f) → ∃ u : TreeSet, exec (.macc c f) s = .next (s.onCore c.val fun k =>
          ({ k with trees := u :: k.trees.filter fun x => !x.shares m.tile t.tag }.setRepLog r.express (some ⟨m.tile, [m], false⟩)).next) ∧
        u.tile = m.tile ∧ u.tag = t.tag ∧ u.stack.t = m.base + m.kCount ∧ u.rows = m.rows ∧ u.cols = m.cols ∧
        u.closed = decide (m.kCount < 64) ∧ u.sat = false ∧
        ∀ a b, a < m.rows → b < m.cols →
          u.ints[m.cols * a + b]? = some (((List.range m.kCount).map fun i => hv i a * sv i b).sum)) ∧
  (∀ (c : CoreIx) (f : MFmt) (s : State) (r : Run), Ready s c.val r → f.rsvLo = 0 → f.rsvHi = 0 → (f.begins = true ∨ f.tc = 0) →
    let k := s.core c.val
    let h := (k.sreg f.h.toNat).toNat
    let v := (k.sreg f.s.toNat).toNat
    let m : MaccCap :=
      { tile := f.tile.toNat, held := h % 2 ^ 22, heldStride := h / 2 ^ 22 % 2 ^ 16, streamed := v % 2 ^ 22,
        streamedStride := v / 2 ^ 22 % 2 ^ 16, base := (k.sreg f.k.toNat).toNat % 2 ^ 40, rows := f.rowsM1.toNat + 1,
        cols := f.colsM1.toNat + 1, kCount := f.kM1.toNat + 1, fpair := f.fpair.toNat, transpose := f.transpose }
    ∀ (e : Elem × Elem) (t : TreeSet), pairOf m.fpair = some e →
      (if f.begins then macBegin k r m (k.sreg f.tc.toNat).toNat else macAdd k r m) = .ok t →
      t.tag.arith = .fp → e.1.isInt = false → t.tag.fpair = some m.fpair → t.passThru = false →
      panelOk e.1 m.held m.heldStride = true → panelOk e.2 m.streamed m.streamedStride = true →
      inPart r.express m.held (rowsExtent m.rows m.heldStride (e.1.rowBytes m.kCount)) = true →
      inPart r.express m.streamed (rowsExtent m.cols m.streamedStride (e.2.rowBytes m.kCount)) = true →
      panelRead k e.1 m.held m.heldStride m.rows m.kCount = .ok () →
      panelRead k e.2 m.streamed m.streamedStride m.cols m.kCount = .ok () →
      let hv := (panel k e.1 m.held m.heldStride m.rows m.kCount).map fun x => x.map e.1.fv
      let sv := (panel k e.2 m.streamed m.streamedStride m.cols m.kCount).map fun x => x.map e.2.fv
      let q := (blockFp ({ t with closed := decide (m.kCount < 64) }.shrink m.rows m.cols) hv sv m.kCount).run 0
      Does s (.macc c f) (.next (s.onCore c.val fun k =>
        { (if f.begins then k.beginTree q.1 else k.putTree q.1).next with
          run := some { r with evInvalid := min (r.evInvalid + q.2) (2 ^ 32 - 1) } })))

/-- `TSLOAD` of a floating-point record begins the tree set from it; `TSSTORE` writes the record of a live set, and
no other byte of the local store.

`GLZ` drains a live tile: the outputs of R165 go to local store, those of elements without a defined value from free
values, the set's group ends, and the invalid operations are counted; it waits while an operation issued before it has
still to write its control block (the model's reading of R164, log entry 16).

It says that `TSLOAD`, `TSSTORE`, `GLZ` complete, and when. -/
def Obligations.TreeSetAndGlaze : Prop :=
  (∀ (c : CoreIx) (f : XFmt) (s : State) (r : Run), Ready s c.val r → f.imm.toNat < 64 →
    let k := s.core c.val
    let a := (k.sreg f.a.toNat).toNat
    let b := (k.sreg f.b.toNat).toNat
    (f.ok false true true false false = true → a % 32 = 0 → b % 32 = 0 → inPart r.express a 32 = true → inPart r.express b 32 = true →
      ∀ g h t, engRead k b 32 enMe = .ok () → parseTcb (k.ls.readBytes b 32) r.preShift = some g → g.arith = .fp →
        g.fits r.express f.imm.toNat = true → engRead k a 32 enMe = .ok () → RecHdr.parse false (k.ls.readBytes a 32) = some h →
        inPart r.express a h.length = true → engRead k a h.length enMe = .ok () →
        (Rec.parse (k.ls.readBytes a h.length)).bind (loadSet f.imm.toNat g) = some t →
        Does s (.tsload c f) (.next (s.onCore c.val fun k =>
          { k with trees := { t with passThru := false } :: k.trees.filter fun x => !x.shares t.tile t.tag }.next))) ∧
    (f.ok false true false false false = true → a % 32 = 0 → (tileRange r.express).1 ≤ f.imm.toNat →
      f.imm.toNat < (tileRange r.express).2 → ∀ t, k.tree f.imm.toNat = some t → t.poisoned = false → inPart r.express a t.header.length = true →
        let q := s.treeRecord t
        Fetches s (.tsstore c f) → ∃ u, exec (.tsstore c f) s = .next u ∧ (u.core c.val).regs = { k.regs with pc := k.regs.pc + 8 } ∧
          (u.core c.val).trees = k.trees ∧
          (∀ x, (u.core c.val).ls.read x = if a ≤ x ∧ x < a + q.1.length then q.1.getD (x - a) 0 else k.ls.read x) ∧
          u = { s with cores := u.cores, freeCtr := u.freeCtr } ∧
          (t.rows = 32 → t.cols = 64 → u.freeCtr = s.freeCtr))) ∧
  (∀ (c : CoreIx) (f : XFmt) (s : State) (r : Run) (t : TreeSet), Ready s c.val r →
    f.ok false true false false false = true → f.imm.toNat < 64 →
    let k := s.core c.val
    let a := (k.sreg f.a.toNat).toNat
    let g := GlazeCfg.parse (k.ls.readBytes a 64)
    a % 32 = 0 → inPart r.express a 64 = true → (tileRange r.express).1 ≤ f.imm.toNat → f.imm.toNat < (tileRange r.express).2 →
    k.tree f.imm.toNat = some t → t.poisoned = false → k.awaits a 64 = false → (∀ v ∈ g.vecs, k.awaits (g.vecAddr + v.1) v.2 = false) →
    engRead k a 64 enGlaze = .ok () → g.bad = false →
    engSpans r.express enGlaze g.writes = .ok () → engRanges k r.express enGlaze (g.vecs.map fun v => (g.vecAddr + v.1, v.2)) = .ok () →
    let undef := decide (t.rows < g.rows ∨ t.cols < g.cols)
    let fr := s.frees (if undef then g.rows * g.cols + 1 else 0)
    let q := (do
      let vals ← (t.shrink g.rows g.cols).values
      g.outputs k (t.shrink g.rows g.cols) vals (fr.1.drop 1) : Ar _).run 0
    let n := q.2 + (if undef then (fr.1.headD 0).toNat else 0)
    Does s (.glz c f) (.next (fr.2.onCore c.val fun k =>
      { ((k.puts (g.stores q.1)).putTree { t with group := false, drained := true }).next with
        run := some { r with evInvalid := min (r.evInvalid + n) (2 ^ 32 - 1) } })) ∧
    (undef = false → fr.2 = s)) ∧
  (∀ (c : CoreIx) (f : XFmt) (s : State) (r : Run), Ready s c.val r → f.ok false true false false false = true → f.imm.toNat < 64 →
    let k := s.core c.val
    let a := (k.sreg f.a.toNat).toNat
    a % 32 = 0 → inPart r.express a 64 = true → (tileRange r.express).1 ≤ f.imm.toNat → f.imm.toNat < (tileRange r.express).2 →
    (k.tree f.imm.toNat).isSome = true → k.awaits a 64 = true → Does s (.glz c f) (.next s))

/-- `CHAIN`: with its descriptor good, its tile live, its reads clean and in the partition and its writes in the
partition, the chain's writes (local store, tile registers, predicate, count) are made and the program counter
advances; no byte outside its writes, no tree set and no other core changes.

`CHAINRU` makes the writes of the chain and those of the reduction of its results.

`RED` and `ROWOP` whose descriptors pass their checks make the writes of the reduction or of the row operation and go
on; a descriptor with a bad value raises `CHAIN_CONFIG`, `RU_CONFIG` or `ROW_CONFIG` instead.

It says that `CHAIN`, `CHAINRU`, `RED`, `ROWOP` complete, and when. -/
def Obligations.ChainAndReduction : Prop :=
  ∀ (c : CoreIx) (f : XFmt) (s : State) (r : Run), Ready s c.val r → f.imm = 0 →
    let k := s.core c.val
    let a := (k.sreg f.a.toNat).toNat
    let b := (k.sreg f.b.toNat).toNat
    let clean (e : Nat) (l : List (Nat × Nat)) : Prop := ∀ x ∈ l, inPart r.express x.1 x.2 = true ∧ engRead k x.1 x.2 e = .ok ()
    let fits (l : List (Nat × Bytes)) : Prop := ∀ x ∈ l, inPart r.express x.1 x.2.length = true
    let live (n : Nat) : Prop := tileOk r.express n = true ∧ ∃ t, k.tree n = some t ∧ t.poisoned = false
    let d := ChainDesc.parse (k.ls.readBytes a 128)
    let t := if d.src = 2 then k.tree d.accTile else none
    let x := chainCalc s c.val d t
    let runs : Prop := a % 32 = 0 ∧ clean enVe [(a, 128)] ∧ d.bad = false ∧ (d.src = 2 → live d.accTile) ∧ clean enVe (d.reads k) ∧ fits x.stores
    (f.ok false true false false false = true →
      (runs → d.ruTap = false → Fetches s (.chain c f) → ∃ u, exec (.chain c f) s = .next u ∧ u = (x.apply c.val d).adv c.val ∧
        u = { s with cores := u.cores, freeCtr := u.freeCtr } ∧ (∀ e, e ≠ c.val → u.core e = s.core e) ∧
        (u.core c.val).trees = k.trees ∧ (u.core c.val).regs.pc = k.regs.pc + 8 ∧
        ∀ y, (∀ z ∈ x.stores, y < z.1 ∨ z.1 + z.2.length ≤ y) → (u.core c.val).ls.read y = k.ls.read y) ∧
      (a % 32 = 0 → clean enVe [(a, 128)] → d.ruTap = true ∨ d.bad = true →
        Does s (.chain c f) (.next (s.raise c.val xChainConfig enVe (f.word 0x50))))) ∧
    (f.ok false true true false false = true → runs → b % 32 = 0 → clean enRu [(b, 64)] →
      let g := RuDesc.parse (k.ls.readBytes b 64)
      let src : RuIn :=
        { rows := d.rows, cols := d.cols, isInt := d.outElem.isInt, env := { x.env with transpose := false, u0 := g.uBase, v0 := g.vBase }
          vals := x.results.map fun v => if d.outMode = 1 ∧ v.2 = false then none else some v.1 }
      (g.bad true = false → ∀ rec?, ruReads k r g src = .ok rec? →
        let q := ruCalc k x.state r g src rec?
        fits q.stores → q.sat = false ∨ r.chainLast = false →
          Does s (.chainru c f) (.next (({ x with state := q.apply c.val }.apply c.val d).adv c.val))) ∧
      (g.bad true = true → Does s (.chainru c f) (.next (s.raise c.val xRuConfig enRu (f.word 0x51))))) ∧
    (f.ok false true false false false = true → a % 32 = 0 → clean enRu [(a, 64)] →
      let g := RuDesc.parse (k.ls.readBytes a 64)
      let src := ruStream s c.val g (if g.src = 2 then k.tree g.accTile else none)
      (g.bad false = false → (g.src = 2 → live g.accTile) → (g.src = 0 → clean enRu (gridRanges g.inElem g.xAddr g.xStride g.rows g.cols)) →
        ∀ rec?, ruReads k r g src.1 = .ok rec? →
        let q := ruCalc k src.2.2 r g src.1 rec?
        fits q.stores → q.sat = false ∨ r.chainLast = false → Fetches s (.red c f) → ∃ u, exec (.red c f) s = .next u ∧
          u = ((q.apply c.val).evInvalid c.val src.2.1).adv c.val ∧ u = { s with cores := u.cores, freeCtr := u.freeCtr } ∧
          (∀ e, e ≠ c.val → u.core e = s.core e) ∧ (u.core c.val).trees = k.trees ∧ (u.core c.val).regs = { k.regs with pc := k.regs.pc + 8 } ∧
          ∀ y, (∀ z ∈ q.stores, y < z.1 ∨ z.1 + z.2.length ≤ y) → (u.core c.val).ls.read y = k.ls.read y) ∧
      (g.bad false = true → Does s (.red c f) (.next (s.raise c.val xRuConfig enRu (f.word 0x5C))))) ∧
    (f.ok false true false false false = true → a % 32 = 0 → clean enRwe [(a, 64)] →
      let d := RowDesc.parse (k.ls.readBytes a 64)
      (d.bad = true → Does s (.rowop c f) (.next (s.raise c.val xRowConfig enRwe (f.word 0x5E)))) ∧
      (d.bad = false → (d.writesRows = true → ∀ x ∈ gridRanges d.outElem d.outAddr d.outStride d.rows d.len, inPart r.express x.1 x.2 = true) →
        (d.statLs = true → inPart r.express d.statAddr (8 * d.rows) = true) →
        (d.statLs = true → d.readsStat = true → engRead k d.statAddr (8 * d.rows) enRwe = .ok ()) →
        (d.statLs = false → inSide r.express d.statIdx d.rows = true ∧ (d.readsStat = true → sideRead k d.statIdx d.rows enRwe = .ok ())) → clean enRwe d.reads →
        (d.sums = true → ∀ rec?, rowRec k r d = .ok rec? → let q := rowSum s c.val d rec?
          (q.2 = 0 ∨ inPart r.express d.auxAddr q.2 = true) → Does s (.rowop c f) (.next (q.1.adv c.val))) ∧
        (d.sums = false → d.op = 3 → Does s (.rowop c f) (.next ((rowMax s c.val d).adv c.val))) ∧
        (d.sums = false → d.op ≠ 3 → Does s (.rowop c f) (.next ((rowRows s c.val d).adv c.val)))))

/-- `VPERM`: each element of Td is the element of Ta or Tb that its index word names, or zero; index words with a
non-zero bit in [30:9] are counted.

`VSHUF`: transpose, interleave low and high, even and odd columns, rotate rows and columns, broadcast a row or a
column, and reverse, element by element; a reserved pattern raises `CHAIN_CONFIG`.

It says that `VPERM`, `VSHUF` complete, and when. -/
def Obligations.PermuteAndShuffle : Prop :=
  (∀ (c : CoreIx) (f : XFmt) (s : State) (r : Run), Ready s c.val r → f.ok true true true true false = true → f.imm = 0 →
    let k := s.core c.val
    Fetches s (.vperm c f) → ∃ t, exec (.vperm c f) s = .next t ∧ t = { s with cores := t.cores } ∧ (t.core c.val).ls = k.ls ∧
      (t.core c.val).regs.s = k.regs.s ∧ (t.core c.val).regs.pc = k.regs.pc + 8 ∧ (t.core c.val).trees = k.trees ∧
      (∀ n e, n < 32 → e < 256 → (t.core c.val).telem n e =
        if n = f.d.toNat then
          let i := k.telem f.c.toNat e
          if i.getLsbD 31 then 0
          else if i.toNat / 512 % 2 ^ 22 ≠ 0 then 0
          else if i.getLsbD 8 then k.telem f.b.toNat (i.toNat % 256) else k.telem f.a.toNat (i.toNat % 256)
        else k.telem n e) ∧
      (t.core c.val).run = some { r with evPermute := min (r.evPermute + (List.range 256).countP fun e =>
        decide ((k.telem f.c.toNat e).toNat / 512 % 2 ^ 22 ≠ 0)) (2 ^ 32 - 1) }) ∧
  (∀ (c : CoreIx) (f : XFmt) (s : State) (r : Run), Ready s c.val r → f.ok true true true false true = true → f.imm.toNat < 16 →
    let k := s.core c.val
    let a (r c : Nat) := k.telem f.a.toNat (16 * r + c)
    let b (r c : Nat) := k.telem f.b.toNat (16 * r + c)
    let n := f.imm.toNat
    (f.sub.toNat < 10 → Fetches s (.vshuf c f) → ∃ t, exec (.vshuf c f) s = .next t ∧ t = { s with cores := t.cores } ∧ (t.core c.val).ls = k.ls ∧
      (t.core c.val).run = k.run ∧ (t.core c.val).regs.pc = k.regs.pc + 8 ∧
      (∀ m e, m < 32 → e < 256 → m ≠ f.d.toNat → (t.core c.val).telem m e = k.telem m e) ∧
      ∀ row col, row < 16 → col < 16 → (t.core c.val).telem f.d.toNat (16 * row + col) =
        match f.sub.toNat with
        | 0 => a col row
        | 1 => if col % 2 = 0 then a row (col / 2) else b row (col / 2)
        | 2 => if col % 2 = 0 then a row (8 + col / 2) else b row (8 + col / 2)
        | 3 => if col < 8 then a row (2 * col) else b row (2 * col - 16)
        | 4 => if col < 8 then a row (2 * col + 1) else b row (2 * col - 15)
        | 5 => a ((row + 16 - n) % 16) col
        | 6 => a row ((col + 16 - n) % 16)
        | 7 => a n col
        | 8 => a row n
        | _ => a row (15 - col)) ∧
    (10 ≤ f.sub.toNat → Does s (.vshuf c f) (.next (s.raise c.val xChainConfig enVe (f.word 0x53)))))

/-- `VPACK` narrows 32-bit elements to pairs of 16 bits, BF16 or FP16, to nearest even or by the draws of R187, for
which the seed's second register of c = 31 is a free value; `VUNPACK` widens them again, into two registers, or leaves
free values where both are one.

`TLD` and `TST` move a tile register between its 16 rows of 64 bytes in local store and the register, `TST` in
ascending row order, so that where rows overlap the last one stays; `PLD` and `PST` move a predicate; an access that
is not Crumb-aligned raises `MISALIGNED`.

`STATLD` and `STATST` move entries between the row-statistics side memory and local store, and none with a count of
0; while 64 operations are outstanding they wait.

It says that `VPACK`, `VUNPACK`, `TLD`, `TST`, `PLD`, `PST`, `STATLD`, `STATST` complete, and when. -/
def Obligations.PackingAndMoves : Prop :=
  (∀ (c : CoreIx) (f : XFmt) (s : State) (r : Run), Ready s c.val r →
    let k := s.core c.val
    let e : Elem := if f.sub.toNat % 2 = 0 then .fl bf16 else .fl fp16
    (f.ok true true true true true = true → f.sub.toNat < 4 → f.imm.toNat < 2 ^ 22 →
      let fr := s.frees (if f.c = 31 then 1 else 0)
      let w := if f.c = 31 then (fr.1.headD 0).toNat else (k.sreg (f.c.toNat + 1)).toNat
      let half (row col : Nat) : Ar Nat :=
        let x := if col < 16 then k.telem f.a.toNat (16 * row + col) else k.telem f.b.toNat (16 * row + col - 16)
        e.narrow (if f.sub.toNat < 2 then .rne
          else .sr (drawNarrow (k.sreg f.c.toNat).toNat (w % 2 ^ 32) (w / 2 ^ 32 % 2 ^ 32 + row) (f.imm.toNat + col))) false (fp32.dec x.toNat)
      Fetches s (.vpack c f) → ∃ t, exec (.vpack c f) s = .next t ∧ t = { s with cores := t.cores, freeCtr := t.freeCtr } ∧ (f.c ≠ 31 → t.freeCtr = s.freeCtr) ∧
        (t.core c.val).ls = k.ls ∧ (t.core c.val).regs.s = k.regs.s ∧ (t.core c.val).regs.pc = k.regs.pc + 8 ∧
        (∃ n, (t.core c.val).run = some { r with evInvalid := min (r.evInvalid + n) (2 ^ 32 - 1) }) ∧
        (∀ m x, m < 32 → x < 256 → m ≠ f.d.toNat → (t.core c.val).telem m x = k.telem m x) ∧
        ∀ row col, row < 16 → col < 16 → (t.core c.val).telem f.d.toNat (16 * row + col) =
          BitVec.ofNat 32 (((half row (2 * col)).run 0).1 + 65536 * ((half row (2 * col + 1)).run 0).1)) ∧
    (f.ok true true true false true = true → f.sub.toNat < 2 → f.imm = 0 →
      Fetches s (.vunpack c f) → ∃ t, exec (.vunpack c f) s = .next t ∧ t = { s with cores := t.cores, freeCtr := t.freeCtr } ∧ (t.core c.val).ls = k.ls ∧
        (t.core c.val).run = k.run ∧ (t.core c.val).regs.s = k.regs.s ∧ (t.core c.val).regs.pc = k.regs.pc + 8 ∧
        (∀ m x, m < 32 → x < 256 → m ≠ f.d.toNat → m ≠ f.b.toNat → (t.core c.val).telem m x = k.telem m x) ∧
        (f.d = f.b → t.freeCtr = s.freeCtr + 256) ∧
        (f.d ≠ f.b → t.freeCtr = s.freeCtr ∧ ∀ row col, row < 16 → col < 32 →
          (t.core c.val).telem (if col < 16 then f.d.toNat else f.b.toNat) (16 * row + col % 16) =
            BitVec.ofNat 32 (e.widen ((k.telem f.a.toNat (16 * row + col / 2)).toNat / 2 ^ (16 * (col % 2)) % 2 ^ 16))))) ∧
  (∀ (c : CoreIx) (f : XFmt) (s : State) (r : Run), Ready s c.val r →
    let k := s.core c.val
    let a := (k.sreg f.a.toNat + f.imm.signExtend 64).toNat
    let st := (k.sreg f.b.toNat).toNat % 2 ^ 16
    (f.ok true true true false false = true → a % 32 = 0 → inPart r.express a (15 * 32 * st + 64) = true →
      ((∀ i, i < 16 → engRead k (a + 32 * i * st) 64 enVe = .ok ()) →
        Fetches s (.tld c f) → ∃ t, exec (.tld c f) s = .next t ∧ t = { s with cores := t.cores } ∧ (t.core c.val).ls = k.ls ∧
          (t.core c.val).regs.s = k.regs.s ∧ (t.core c.val).regs.pc = k.regs.pc + 8 ∧
          ∀ n e, n < 32 → e < 256 → (t.core c.val).telem n e =
            if n = f.d.toNat then BitVec.ofNat 32 (k.ls.readNat (a + 32 * (e / 16) * st + 4 * (e % 16)) 4) else k.telem n e) ∧
      (Fetches s (.tst c f) → ∃ t, exec (.tst c f) s = .next t ∧ t = { s with cores := t.cores } ∧ (t.core c.val).regs = { k.regs with pc := k.regs.pc + 8 } ∧
        ∀ x, (t.core c.val).ls.read x = (List.range 16).foldl (fun v row =>
          if a + 32 * row * st ≤ x ∧ x < a + 32 * row * st + 64 then
            let j := x - (a + 32 * row * st)
            BitVec.ofNat 8 ((k.telem f.d.toNat (16 * row + j / 4)).toNat / 256 ^ (j % 4))
          else v) (k.ls.read x))) ∧
    (f.ok true true false false false = true → f.d.toNat < 8 → a % 32 = 0 → inPart r.express a 32 = true →
      (engRead k a 32 enVe = .ok () → Does s (.pld c f) (.next (s.onCore c.val fun k => (k.setP f.d.toNat (BitVec.ofNat 256 (k.ls.readNat a 32))).next))) ∧
      (Fetches s (.pst c f) → ∃ t, exec (.pst c f) s = .next t ∧ t = { s with cores := t.cores } ∧
        (t.core c.val).regs = { k.regs with pc := k.regs.pc + 8 } ∧
        (∀ x, (t.core c.val).ls.read x = if a ≤ x ∧ x < a + 32 then BitVec.ofNat 8 ((k.preg f.d.toNat).toNat / 256 ^ (x - a)) else k.ls.read x))) ∧
    (a % 32 ≠ 0 →
      (f.ok true true true false false = true → Does s (.tld c f) (.next (s.raise c.val xMisaligned enIssue (f.word 0x56))) ∧
        Does s (.tst c f) (.next (s.raise c.val xMisaligned enIssue (f.word 0x57)))) ∧
      (f.ok true true false false false = true → f.d.toNat < 8 →
        Does s (.pld c f) (.next (s.raise c.val xMisaligned enIssue (f.word 0x58))) ∧
        Does s (.pst c f) (.next (s.raise c.val xMisaligned enIssue (f.word 0x59)))))) ∧
  (∀ (c : CoreIx) (f : XFmt) (s : State) (r : Run), Ready s c.val r → f.ok false true true false false = true → f.imm = 0 →
    let k := s.core c.val
    let a := (k.sreg f.a.toNat).toNat
    let w := (k.sreg f.b.toNat).toNat
    let first := w % 2 ^ 13
    let n := w / 2 ^ 13 % 2 ^ 14
    (64 ≤ s.lsuCount c.val → Does s (.statld c f) (.next s) ∧ Does s (.statst c f) (.next s)) ∧
    (s.lsuCount c.val < 64 → (n ≠ 0 → inPart r.express a (8 * n) = true ∧ inSide r.express first n = true) →
      ((n ≠ 0 → engRead k a (8 * n) enLsu = .ok ()) →
        Fetches s (.statld c f) → ∃ t, exec (.statld c f) s = .next t ∧ t = { s with cores := t.cores } ∧ (t.core c.val).ls = k.ls ∧
          (t.core c.val).regs = { k.regs with pc := k.regs.pc + 8 } ∧
          ∀ i, Tab.get 0 (t.core c.val).side i =
            if first ≤ i ∧ i < first + n then BitVec.ofNat 64 (k.ls.readNat (a + 8 * (i - first)) 8) else Tab.get 0 k.side i) ∧
      (sideRead k first n enLsu = .ok () → Fetches s (.statst c f) → ∃ t, exec (.statst c f) s = .next t ∧ t = { s with cores := t.cores } ∧ (t.core c.val).side = k.side ∧
        (t.core c.val).regs = { k.regs with pc := k.regs.pc + 8 } ∧
        (∀ i, i < n → (t.core c.val).ls.readNat (a + 8 * i) 8 = (Tab.get 0 k.side (first + i)).toNat) ∧
        ∀ x, x < a ∨ a + 8 * n ≤ x → (t.core c.val).ls.read x = k.ls.read x)))

/-- `SIFT`: a block that is bad, a table that may not be used so, an operation on a table without an optimiser that
needs one, and offsets that do not rise from 0 are answered with their status; any other request is outstanding, with the
version of its table that it uses and, where it writes, as an effect operation, and its response word is zero.

`NUREQ`: a bad block or entry, and a graph or table that may not be used so, are answered with their status; any other
request is outstanding with the split threshold and spread of its port.

It says that `SIFT`, `NUREQ` complete, and when. -/
def Obligations.RequestIssue : Prop :=
  (∀ (c : CoreIx) (f : XFmt) (s : State) (r : Run), Asks s c.val r f .sift 64 → r.suppress = [] →
    let q := s.request c.val r f .sift 64
    let b := SiftBlk.parse q.block
    let s1 := s.requested c.val q
    let k := s1.core c.val
    let answers (status : Nat) : Prop := Does s (.sift c f) (.next (s1.respond c.val q status 0))
    (siftBad q.block = true → answers rsBadDescriptor) ∧
    (siftBad q.block = false → s.tableAccess r.port b.table b.writes ≠ 0 → answers (s.tableAccess r.port b.table b.writes)) ∧
    (siftBad q.block = false → s.tableAccess r.port b.table b.writes = 0 → ∀ t, s.tableOf b.table = some t →
      (b.op = 4 ∨ b.op = 5 → t.opt = 0 → answers rsBadDescriptor) ∧
      ((b.op = 4 ∨ b.op = 5 → t.opt ≠ 0) →
        (b.bags = true → inPart r.express b.offAddr (4 * (b.count + 1)) = true ∧ engRead k b.offAddr (4 * (b.count + 1)) enLsu = .ok ()) →
        let off := k.siftOffsets b
        let n := off.getLastD 0
        let badList : Prop := b.op ≠ 5 ∧ (off.headD 0 ≠ 0 ∨ offsetsOk off = false ∨ b.op = 4 ∧ 0 < n ∧ 2 ^ b.depth ≤ b.gradBase + n - 1)
        (badList → answers rsBadDescriptor) ∧
        (¬ badList →
          (b.op ≠ 5 → ∀ x ∈ siftReads k b t.len, x.2 ≠ 0 → inPart r.express x.1 x.2 = true ∧ engRead k x.1 x.2 enLsu = .ok ()) →
          (b.lookup = true → inPart r.express b.outAddr (b.count * b.outStride t) = true) →
          Fetches s (.sift c f) → ∃ u, exec (.sift c f) s = .next u ∧ u = { s with cores := u.cores } ∧
            u.reqOf c.val q.id = some { q with
              version := if b.lookup then s.versionFor r.item t else t.active, effect := if b.writes then some r.effects.length else none } ∧
            (u.core c.val).ls.readNat q.resp 8 = 0 ∧ (u.core c.val).regs = { (s.core c.val).regs with pc := (s.core c.val).regs.pc + 8 } ∧
            (u.core c.val).run = some { r with effects := if b.writes then r.effects ++ [0] else r.effects })))) ∧
  (∀ (c : CoreIx) (f : XFmt) (s : State) (r : Run), Asks s c.val r f .nu 64 → r.suppress = [] →
    let q := s.request c.val r f .nu 64
    let b := NuBlk.parse q.block
    let s1 := s.requested c.val q
    let k := s1.core c.val
    let answers (status : Nat) : Prop := Does s (.nureq c f) (.next (s1.respond c.val q status 0))
    let writes := b.op == opVertexWrite
    let t := if b.op = opAggregate then s.tableOf b.table else none
    (nuBad q.block = true → answers rsBadDescriptor) ∧
    (nuBad q.block = false → s.graphAccess r.port b.graph writes ≠ 0 → answers (s.graphAccess r.port b.graph writes)) ∧
    (nuBad q.block = false → s.graphAccess r.port b.graph writes = 0 →
      (b.op = opAggregate → s.tableAccess r.port b.table false ≠ 0 → answers (s.tableAccess r.port b.table false)) ∧
      ((b.op = opAggregate → s.tableAccess r.port b.table false = 0) →
        inPart r.express b.inAddr (b.inSize * b.count) = true → (0 < b.outBytes t → inPart r.express b.outAddr (b.outBytes t) = true) →
        engRead k b.inAddr (b.inSize * b.count) enLsu = .ok () →
        let badEntry (i : Nat) : Prop := fieldAt (k.ls.readBytes (b.inAddr + b.inSize * i) b.inSize) 5 3 ≠ 0 ∨
          writes = true ∧ zeroRange (k.ls.readBytes (b.inAddr + 32 * i) 32) 24 8 = false
        ((∃ i, i < b.count ∧ badEntry i) → answers rsBadDescriptor) ∧
        ((∀ i, i < b.count → ¬ badEntry i) →
          Fetches s (.nureq c f) → ∃ u, exec (.nureq c f) s = .next u ∧ u = { s with cores := u.cores } ∧
            u.reqOf c.val q.id = some { q with
              version := (t.map fun t => s.versionFor r.item t).getD false, split := 2 ^ (s.preg r.port 0x2020 % 32),
              spread := s.preg r.port 0x2020 / 256 % 4, effect := if writes then some r.effects.length else none } ∧
            (u.core c.val).ls.readNat q.resp 8 = 0 ∧ (u.core c.val).regs = { (s.core c.val).regs with pc := (s.core c.val).regs.pc + 8 } ∧
            (u.core c.val).run = some { r with effects := if writes then r.effects ++ [0] else r.effects }))))

/-- `XFER` between a range of tier 0 or 1 that the port claims and local store: the Crumbs are copied, the response
word tells of them, and the request is over. A write of tier 2 goes to its hub by whole pages and is outstanding until they
have switched; a transfer from the host takes the lines that the die cache holds and reads the rest, and one to the host
posts its writes and completes; a bad block, a range that the port may not reach, and tier 2 pages written in part
are answered `BAD_DESCRIPTOR`, and a transfer to a host that is gone `PORT_LOST`.

`PAIRST` of a valid block writes both copies of the weight pair and its generation count, and answers `OK`.

`HLD` and `HST`: a word of host memory. A word that the die cache holds comes at once; with the host there the core
waits for the read; with the host gone `HLD` gives all ones and marks the run, whatever the cache holds. `HST` posts its write and goes on, waits while its
port's write queue is full (the model's depth of that queue, log entry 74), and only takes its place among the effect
operations where an earlier run made the write or the host is gone.

It says that `XFER`, `HLD`, `HST`, `PAIRST` complete, and when. -/
def Obligations.HostAndDeviceTransfers : Prop :=
  (∀ (c : CoreIx) (f : XFmt) (s : State) (r : Run), Asks s c.val r f .xfer 64 → r.suppress = [] →
    let q := s.request c.val r f .xfer 64
    let d := XferDesc.parse q.block
    let s1 := s.requested c.val q
    d.bad = false → inPart r.express d.ls (32 * d.crumbs) = true →
    (q.resp + 8 ≤ d.ls ∨ d.ls + 32 * d.crumbs ≤ q.resp) → ∀ k u, s.reach r.port d.addr (32 * d.crumbs) = some (k, u) → u < 10 →
      (d.dir = 0 → Fetches s (.xfer c f) → ∃ t, exec (.xfer c f) s = .next t ∧ t.reqOf c.val q.id = none ∧
        (t.core c.val).ls.readNat q.resp 8 = 1 + 65536 * d.crumbs ∧ t.dmem = s.dmem ∧
        ∀ i, i < d.crumbs → (t.core c.val).ls.readBytes (d.ls + 32 * i) 32 = s.dmem.readBytes (d.addr + 32 * i) 32) ∧
      (d.dir = 1 → s.unitGone u = false → engRead (s1.core c.val) d.ls (32 * d.crumbs) enLsu = .ok () →
        Fetches s (.xfer c f) → ∃ t, exec (.xfer c f) s = .next t ∧ t.reqOf c.val q.id = none ∧
          (t.core c.val).ls.readNat q.resp 8 = 1 + 65536 * d.crumbs ∧
          t.dmem.readBytes d.addr (32 * d.crumbs) = (s.core c.val).ls.readBytes d.ls (32 * d.crumbs) ∧
          ∀ a, a < d.addr ∨ d.addr + 32 * d.crumbs ≤ a → t.dmem.read a = s.dmem.read a)) ∧
  (∀ (c : CoreIx) (f : XFmt) (s : State) (r : Run), Asks s c.val r f .xfer 64 → r.suppress = [] →
    let q := s.request c.val r f .xfer 64
    let d := XferDesc.parse q.block
    let n := 32 * d.crumbs
    let s1 := s.requested c.val q
    let q' := { q with effect := some r.effects.length }
    let s2 := s1.onCore c.val fun k => { k with run := some { r with effects := r.effects ++ [0] }, lsu := updWhere (fun x => x.id == q.id) (fun _ => q') k.lsu }
    (d.bad = true → Does s (.xfer c f) (.next (s1.respond c.val q rsBadDescriptor 0))) ∧
    (d.bad = false → inPart r.express d.ls n = true →
      (d.dir = 2 → Does s (.xfer c f) (.next (s1.xferIn c.val q.id (d.crumbs + 1)))) ∧
      (d.dir = 0 → s.reach r.port d.addr n = none →
        Does s (.xfer c f) (.next ((s1.ringAccess r.port r.ring d.addr accRange).respond c.val q rsBadDescriptor 0))) ∧
      (d.dir = 0 → ∀ k u, s.reach r.port d.addr n = some (k, u) →
        Does s (.xfer c f) (.next ((s1.devToLs c.val r.express k d.ls d.addr d.crumbs).respond c.val q rsOk d.crumbs))) ∧
      (engRead (s1.core c.val) d.ls n enLsu = .ok () →
        let data := (s1.core c.val).ls.readBytes d.ls n
        (d.dir = 1 → s.reach r.port d.addr n = none →
          Does s (.xfer c f) (.next ((s2.ringAccess r.port r.ring d.addr accRange).respond c.val q' rsBadDescriptor 0))) ∧
        (d.dir = 1 → ∀ k u, s.reach r.port d.addr n = some (k, u) → unitTier u = 2 →
          (d.addr % 4096 ≠ 0 ∨ n % 4096 ≠ 0 → Does s (.xfer c f) (.next (s2.respond c.val q' rsBadDescriptor 0))) ∧
          (d.addr % 4096 = 0 → n % 4096 = 0 → Does s (.xfer c f) (.next ((((if k = .general then s2.linesWrite (some c.val) r.express d.addr n else s2).flashPut d.addr data (some (c.val, q.id))).modReq c.val q.id
            fun q => { q with served := true, count := d.crumbs }).settleReq c.val q.id)))) ∧
        (d.dir = 3 → s.hostGone r.ring = true → Does s (.xfer c f) (.next (s2.respond c.val q' rsPortLost 0))) ∧
        (d.dir = 3 → s.hostGone r.ring = false → Does s (.xfer c f) (.next (((s2.xferOutFrom c.val q' d.addr data (d.crumbs + 1)).modReq c.val q.id
          fun q => { q with served := true, count := d.crumbs }).settleReq c.val q.id)))))) ∧
  (∀ (c : CoreIx) (f : XFmt) (s : State) (r : Run), Asks s c.val r f .pairst 32 → r.suppress = [] →
    let q := s.request c.val r f .pairst 32
    let a := fieldAt q.block 0 8
    let ls := bfld q.block 8 4 0 22
    let stride := fieldAt q.block 12 2
    let k0 := fieldAt q.block 16 4
    let n := fieldAt q.block 20 4
    let s1 := s.requested c.val q
    bfld q.block 8 4 22 10 = 0 → fieldAt q.block 14 2 = 0 → zeroRange q.block 24 8 = true → 0 < n → a % 32 = 0 → ls % 32 = 0 →
    ∀ h, PairHdr.parse (s.dread a 32).1 = some h → k0 + n ≤ h.k → h.rc ≤ stride →
      s.pairRange r.port a 32 = true → s.pairRange r.port a (32 * (1 + h.k * h.rc)) = true →
      s.pairRange r.port (a + 32 * h.colOff) (32 * h.n * h.cc) = true → inPart r.express ls (rowsExtent n stride (h.elem.rowBytes h.n)) = true →
      (∀ i, i < n → engRead (s1.core c.val) (ls + 32 * i * stride) (h.elem.rowBytes h.n) enLsu = .ok ()) →
      let q' := { q with effect := some r.effects.length }
      let s2 := s1.onCore c.val fun k => { k with run := some { r with effects := r.effects ++ [0] }, lsu := updWhere (fun x => x.id == q.id) (fun _ => q') k.lsu }
      Does s (.pairst c f) (.next (((s2.memRead r.express .general a 32).2.pairStore c.val r.express a h k0
        ((List.range n).map fun i => h.elem.unpack h.n ((s1.core c.val).ls.readBytes (ls + 32 * i * stride) (h.elem.rowBytes h.n)))).respond c.val q' rsOk 0))) ∧
  (∀ (c : CoreIx) (f : XFmt) (s : State) (r : Run), Ready s c.val r → f.imm = 0 → s.lsuCount c.val < 64 →
    let k := s.core c.val
    let a := (k.sreg f.a.toNat).toNat
    let h := s.ringHost r.ring
    (f.ok true true false false false = true →
      (∀ b, s.hostCached r.port a 8 = some b → s.hostGone r.ring = false →
        Does s (.hld c f) ((s.hostTouch r.port a 8).result c.val f.d (BitVec.ofNat 64 (leNat b)))) ∧
      (s.hostCached r.port a 8 = none → s.hostGone r.ring = false → Does s (.hld c f) (.next
        ((s.onCore c.val fun k => { k with run := some { r with stall := some .hostRead, stallAt := s.ticks, stallLimit := s.waitLimit } }).hostStart r.port h.1 h.2 a 8
          .read (.hld c.val f.d.toNat) r.item))) ∧
      (s.hostGone r.ring = true → Does s (.hld c f) (.next (s.onCore c.val fun k =>
        { (k.setS f.d.toNat (BitVec.allOnes 64)).next with run := some { r with hostFault := true } })))) ∧
    (f.ok false true true false false = true →
      let noted (st : Nat) : State := s.onCore c.val fun k => { k.next with run := some { r with effects := r.effects ++ [st] } }
      (s.writesFull r.port = true → Does s (.hst c f) (.next s)) ∧
      (s.writesFull r.port = false →
        (∀ st, r.suppress[r.effects.length]? = some st → Does s (.hst c f) (.next (noted st))) ∧
        (r.suppress[r.effects.length]? = none → s.hostGone r.ring = true → Does s (.hst c f) (.next (noted 0))) ∧
        (r.suppress[r.effects.length]? = none → s.hostGone r.ring = false → Does s (.hst c f) (.next
          (((noted 0).hostInvalidate r.port a 8).hostStart r.port h.1 h.2 a 8 (.write (natLe 8 (k.sreg f.b.toNat).toNat) false) (.hst c.val) r.item))))))

/-- `PASS` sends its block, as it stands at issue, to every core of the range that the item's port
claims, but the source (R26, R157); `CHAIN_PASS_ARRIVAL`
delivers the next Crumb of the pass whose turn it is, counts it, and writes the flag after the last one, and n + 1 Crumbs
arrive as one and then n.

It says that `PASS`, `CHAIN_PASS_ARRIVAL` complete, and when. -/
def Obligations.ChainPasses : Prop :=
  (∀ (c : CoreIx) (f : XFmt) (s : State) (r : Run), Ready s c.val r → f.ok false true true true false = true → f.imm = 0 → s.lsuCount c.val < 64 →
    let k := s.core c.val
    let a := (k.sreg f.a.toNat).toNat
    let b := (k.sreg f.b.toNat).toNat
    let src := a % 2 ^ 22
    let dst := a / 2 ^ 22 % 2 ^ 22
    let n := a / 2 ^ 44 % 2 ^ 15 + 1
    let lo := b % 16
    let hi := b / 16 % 16
    let flagAt := b / 2 ^ 32 % 2 ^ 22
    lo ≤ hi → src % 32 = 0 → dst % 32 = 0 → inPart r.express src (32 * n) = true → inPart r.express dst (32 * n) = true →
    (b / 256 % 2 = 1 → flagAt % 8 = 0 ∧ inPart r.express flagAt 8 = true) → engRead k src (32 * n) enLsu = .ok () →
    Fetches s (.pass c f) → ∃ t, exec (.pass c f) s = .next t ∧ t = { s with cores := t.cores } ∧
      ∀ d, t.core d =
        if d = c.val then k.next
        else if c.val / 16 * 16 + lo ≤ d ∧ d ≤ c.val / 16 * 16 + hi ∧ s.corePort r.cls d = r.port then
          { s.core d with passes := (s.core d).passes ++ [{ dst := dst, crumbs := (List.range n).map fun i => k.ls.readBytes (src + 32 * i) 32,
                                                            flag := if b / 256 % 2 = 1 then some (flagAt, k.sreg f.c.toNat) else none }] }
        else s.core d) ∧
  ∀ (c : CoreIx) (s : State) (p : Pass) (rest : List Pass) (b : Bytes) (more : List Bytes), s.running = true → s.clusterUp c.val = true →
    (s.core c.val).passes = p :: rest → p.crumbs = b :: more →
    exec (.chainPassArrival c 1) s = .next (s.onCore c.val fun k =>
      let k1 := k.engPut p.dst b
      if more = [] then
        { (match p.flag with
            | some (a, v) => k1.engPut a (natLe 8 v.toNat)
            | none => k1) with chainCount := k.chainCount + 1, passes := rest }
      else { k1 with chainCount := k.chainCount + 1, passes := rest ++ [{ p with dst := p.dst + 32, crumbs := more }] }) ∧
    ∀ (n : Nat) (t : State), exec (.chainPassArrival c 1) s = .next t → exec (.chainPassArrival c (n + 1)) s = exec (.chainPassArrival c n) t

/-- A Sifter request reaches the Sifters by the command of its op (`GATHER`, `SUM`, `WSUM`, `MEAN`, `UPDATE`, `APPLY`,
`ROW_WRITE`, `ROW_READ`): it joins the queue of work under service and is served.

A Sifter serves no request of a table that is gone and no contribution or `APPLY` with other window parameters than the
open window's: `TABLE_INVALID` and `CHAIN_MISMATCH`, no row and no window changed.

A request of the neighbourhood units reaches them: it joins the queue of work under service and is served; one whose
graph is gone answers `GRAPH_INVALID`. A command whose op is not the request's, or whose request is already under
service or served, changes nothing. -/
def Obligations.SifterAndNuWorkStarts : Prop :=
  (∀ (c : CoreIx) (req : Nat) (s : State) (q : LsuReq), s.running = true → s.reqOf c.val req = some q → q.kind = .sift →
    let fresh := q.served = false ∧ (c.val, req) ∉ s.queue ∧ ∀ w ∈ s.windows, w.waitsFor c.val req = false
    let taken := { s with queue := s.queue ++ [(c.val, req)] }
    let b := SiftBlk.parse q.block
    let mine := fieldAt q.block 0 1 % 16
    (∀ (i : Instr) (op : Nat) (_ : op = 0 ∧ i = .gather c req ∨ op = 1 ∧ i = .sum c req ∨ op = 2 ∧ i = .wsum c req ∨ op = 3 ∧ i = .mean c req ∨
        op = 4 ∧ i = .update c req ∨ op = 5 ∧ i = .apply c req ∨ op = 6 ∧ i = .rowWrite c req ∨ op = 7 ∧ i = .rowRead c req),
      (fresh → mine = op → exec i s = .next (taken.runEnds (c.val, req) fun s => s.serveSift c.val req)) ∧
      (mine ≠ op → exec i s = .next s) ∧
      ((c.val, req) ∈ s.queue ∨ q.served = true → exec i s = .next s) ∧
      (fresh → mine = op → q.prog = {} → s.tableOf b.table = none → exec i s = .next (taken.endReq c.val q rsTableInvalid 0))) ∧
    (fresh → q.prog = {} → ∀ t w p, s.tableOf b.table = some t → w ∈ s.windows → Window.takes q.port t.id q.version w = true → w.par = some p →
      (mine = 4 → p ≠ b.winPar → exec (.update c req) s = .next (taken.endReq c.val q rsChainMismatch 0)) ∧
      (mine = 5 → p.agrees b = false → exec (.apply c req) s = .next (taken.endReq c.val q rsChainMismatch 0)))) ∧
  (∀ (c : CoreIx) (req : Nat) (s : State) (q : LsuReq), s.running = true → s.reqOf c.val req = some q → q.kind = .nu →
    let fresh := q.served = false ∧ (c.val, req) ∉ s.queue
    let taken := { s with queue := s.queue ++ [(c.val, req)] }
    let b := NuBlk.parse q.block
    let mine := fieldAt q.block 0 1 % 16
    ∀ (i : Instr) (op : Nat) (_ : op = 0 ∧ i = .expand c req ∨ op = 1 ∧ i = .aggregate c req ∨ op = 2 ∧ i = .walk c req ∨
        op = 3 ∧ i = .vertexRead c req ∨ op = 4 ∧ i = .vertexWrite c req),
      (fresh → mine = op → exec i s = .next (taken.runEnds (c.val, req) fun s => s.serveNu c.val req)) ∧
      (mine ≠ op → exec i s = .next s) ∧
      ((c.val, req) ∈ s.queue ∨ q.served = true → exec i s = .next s) ∧
      (fresh → mine = op → q.prog = {} → s.graphOf b.graph = none → exec i s = .next (taken.endReq c.val q rsGraphInvalid 0)))

/-- A lookup whose rows are all served completes: each result lies at its place of the output area as the Sifters
return it, the response word tells `OK` and the number of default-row lookups, and the request is over. A `ROW_WRITE` whose
rows are all written completes: the response word tells `OK`, and the request is over.

An NU request whose records have all come completes with the status and count of its output: the response word tells
them and the request is over.

It says that `GATHER`, `SUM`, `WSUM`, `MEAN`, `ROW_READ`, `ROW_WRITE`, `EXPAND`, `AGGREGATE`, `WALK`, `VERTEX_READ`,
`VERTEX_WRITE` complete, and when. -/
def Obligations.SifterAndNuWorkCompletes : Prop :=
  (∀ (c : CoreIx) (req : Nat) (s : State) (q : LsuReq) (t : Table), s.running = true → s.reqOf c.val req = some q → q.kind = .sift →
    q.served = false → (c.val, req) ∉ s.queue → (∀ w ∈ s.windows, w.waitsFor c.val req = false) → q.prog = {} →
    let b := SiftBlk.parse q.block
    s.tableOf b.table = some t →
    let s1 := { s with queue := s.queue ++ [(c.val, req)] }
    let look : JM (Option Nat) := do
      match ← JM.lookup q.port b t q.version ((s.core c).siftEntries b t.len) false with
      | none => pure none
      | some v => some <$> JM.deliverLookup c.val q v [] fun g => (s.core c).bagLen b g
    ∀ n j, look.run (Job.start s1 (c.val, req) q.port) = (some (some n), j) →
      j.s.accs = [] → j.s.flashWrites = [] → j.s.reqOf c.val req = some q →
      (∀ r prog, (j.s.core c.val).run = some r → r.stall ≠ some (.ending prog)) →
      ∀ i : Instr, (b.op = 0 ∧ i = .gather c req ∨ b.op = 1 ∧ i = .sum c req ∨ b.op = 2 ∧ i = .wsum c req ∨
          b.op = 3 ∧ i = .mean c req ∨ b.op = 7 ∧ i = .rowRead c req) →
        ∃ u, exec i s = .next u ∧ u.reqOf c.val req = none ∧ (c.val, req) ∉ u.queue ∧
          (u.core c.val).ls = (j.s.core c.val).ls.writeBytes q.resp (natLe 8 (1 + 65536 * n)) ∧ u.dmem = j.s.dmem) ∧
  (∀ (c : CoreIx) (req : Nat) (s : State) (q : LsuReq) (t : Table), s.running = true → s.reqOf c.val req = some q → q.kind = .sift →
    q.served = false → (c.val, req) ∉ s.queue → (∀ w ∈ s.windows, w.waitsFor c.val req = false) → q.prog = {} →
    let b := SiftBlk.parse q.block
    b.op = 6 → s.tableOf b.table = some t →
    let s1 := { s with queue := s.queue ++ [(c.val, req)] }
    ∀ n j, (JM.rowWrites q.port b t q.version ((s.core c).siftEntries b t.len) false).run (Job.start s1 (c.val, req) q.port) = (some n, j) →
      j.s.accs = [] → j.s.flashWrites = [] → j.s.reqOf c.val req = some q →
      (∀ r prog, (j.s.core c.val).run = some r → r.stall ≠ some (.ending prog)) →
      ∃ u, exec (.rowWrite c req) s = .next u ∧ u.reqOf c.val req = none ∧ (c.val, req) ∉ u.queue ∧
        (u.core c.val).ls = (j.s.core c.val).ls.writeBytes q.resp (natLe 8 1) ∧ u.dmem = j.s.dmem) ∧
  (∀ (c : CoreIx) (req : Nat) (s : State) (q : LsuReq) (g : Graph), s.running = true → s.reqOf c.val req = some q → q.kind = .nu →
    q.served = false → (c.val, req) ∉ s.queue → q.prog = {} →
    let b := NuBlk.parse q.block
    s.graphOf b.graph = some g →
    let s1 := { s with queue := s.queue ++ [(c.val, req)] }
    ∀ (i : Instr) (m : JM (Nat × Nat)),
      (b.op = 0 ∧ i = .expand c req ∧ m = JM.expand c.val q g b ∨
        (b.op = 1 ∧ i = .aggregate c req ∧ ∃ t, s.tableOf b.table = some t ∧ m = JM.aggregate c.val q g t b) ∨
        b.op = 2 ∧ i = .walk c req ∧ m = JM.walk c.val q g b ∨ b.op = 3 ∧ i = .vertexRead c req ∧ m = JM.vertexRead c.val q g b ∨
        b.op = 4 ∧ i = .vertexWrite c req ∧ m = JM.vertexWrite c.val q g b) →
      ∀ r j, m.run (Job.start s1 (c.val, req) q.port) = (some r, j) → j.s.accs = [] → j.s.flashWrites = [] →
        j.s.reqOf c.val req = some q → (∀ r prog, (j.s.core c.val).run = some r → r.stall ≠ some (.ending prog)) →
        ∃ u, exec i s = .next u ∧ u.reqOf c.val req = none ∧ (c.val, req) ∉ u.queue ∧
          (u.core c.val).ls = (j.s.core c.val).ls.writeBytes q.resp (natLe 8 (1 + 256 * r.1 + 65536 * r.2)) ∧ u.dmem = j.s.dmem)

/-- One contribution to a row of this device joins the open window of its port, table and version, in a place of its own;
one to a place that is taken is discarded and spoils the window.

`UPDATE` completes: with no open window whose parameters differ and no row of a moving shard, the response word tells
`CHAIN_MISMATCH` exactly where one of its contributions, deposited in list order, was discarded, which with no window open
none is, and `OK` elsewhere; the request is over.

`APPLY` completes: with the window's parameters its own, no contribution discarded, no sort area overrun and every rank's
marker in, it processes the rows of the window, which is then gone; once the work on them is done, the response word tells
`OK` and the number of rows that it counts, and the request is over.

`APPLY_WINDOW_TIMEOUT`: a window whose `APPLY` waits for a rank longer than the limit closes with no row changed, and
the `APPLY` answers `RANK_MISSING`; before the limit nothing happens.

It says that `UPDATE`, `APPLY`, `APPLY_WINDOW_TIMEOUT` complete, and when. -/
def Obligations.UpdateAndApply : Prop :=
  (∀ (c : CoreIx) (q : LsuReq) (s : State) (b : SiftBlk) (t : Table) (e : Ent) (i : Nat), (s.readHome t q.version b.idx64 e.row).1 = s.devId →
    (s.rowLoc t q.version b.idx64 e.row).dflt = false → ∀ w, s.windows = [w] → Window.takes q.port t.id q.version w = true →
    let r := s.deposit c.val q b t e i
    ((∀ y ∈ w.contribs, y.row ≠ some e.row ∨ y.idx ≠ b.gradBase + i) →
      r.1 = false ∧ ∃ w', r.2.windows = [w'] ∧ w'.par = some b.winPar ∧ w'.spoiled = w.spoiled ∧
        ∃ x, w'.contribs = w.contribs ++ [x] ∧ x.row = some e.row ∧ x.idx = b.gradBase + i ∧
          x.term = (((s.core c).gradTerm b t.len e).run 0).1) ∧
    ((∃ y ∈ w.contribs, y.row = some e.row ∧ y.idx = b.gradBase + i) →
      r.1 = true ∧ ∃ w', r.2.windows = [w'] ∧ w'.contribs = w.contribs ∧ w'.spoiled = true)) ∧
  (∀ (c : CoreIx) (req : Nat) (s : State) (q : LsuReq) (t : Table), s.running = true → s.reqOf c.val req = some q → q.kind = .sift →
    q.served = false → (c.val, req) ∉ s.queue → (∀ w ∈ s.windows, w.waitsFor c.val req = false) → q.prog = {} →
    let b := SiftBlk.parse q.block
    s.tableOf b.table = some t →
    let taken := { s with queue := s.queue ++ [(c.val, req)] }
    (fieldAt q.block 0 1 % 16 = 4 →
      (∀ w ∈ s.windows, Window.takes q.port t.id q.version w = true → w.par = none ∨ w.par = some b.winPar) →
      (∀ e ∈ (s.core c).siftEntries b t.len, s.shardMoving t.scope ((s.rowLoc t q.version b.idx64 e.row).shard t) = false) →
      s.accs = [] → s.flashWrites = [] → (∀ r prog, (s.core c.val).run = some r → r.stall ≠ some (.ending prog)) →
      let laid := ((s.core c).siftEntries b t.len).zipIdx.foldl (fun (a : Bool × State) x =>
        (a.1 || (a.2.deposit c.val q b t x.1 x.2).1, (a.2.deposit c.val q b t x.1 x.2).2))
        (false, taken.readRowDirs q.port (q.cls == .express) t q.version b.idx64 (((s.core c).siftEntries b t.len).map (·.row)))
      ∃ u st, exec (.update c req) s = .next u ∧ (st = rsOk ∨ st = rsChainMismatch) ∧ (st = rsChainMismatch ↔ laid.1 = true) ∧
        (s.windows = [] → st = rsOk) ∧ u.windows = (laid.2.windowCapacity q.port t.id q.version).windows ∧
        u.reqOf c.val req = none ∧ (c.val, req) ∉ u.queue ∧
        (u.core c.val).ls = (s.core c.val).ls.writeBytes q.resp (natLe 8 (1 + 256 * st))) ∧
    ∀ w, fieldAt q.block 0 1 % 16 = 5 → s.windows = [w] → Window.takes q.port t.id q.version w = true →
      (∀ p, w.par = some p → p.agrees b = true) → w.spoiled = false → w.overflow = false → b.ranks ≤ w.ranks.length + 1 →
      let w' := { w with wait := some ⟨c.val, req, b.ranks, s.ticks, s.windowLimit⟩ }
      ∀ n j, (JM.applyRows t w' b).run (Job.start (State.sendWindow { taken with windows := [w'] } t w') (c.val, req) q.port) = (some n, j) →
        j.s.accs = [] → j.s.flashWrites = [] → j.s.reqOf c.val req = some q →
        (∀ r prog, (j.s.core c.val).run = some r → r.stall ≠ some (.ending prog)) →
        ∃ u, exec (.apply c req) s = .next u ∧ u.windows = [] ∧ u.reqOf c.val req = none ∧ (c.val, req) ∉ u.queue ∧
          (u.core c.val).ls = (j.s.core c.val).ls.writeBytes q.resp (natLe 8 (1 + 65536 * n))) ∧
  (∀ (p : PortIx) (table : BitVec 16) (s : State) (w : Window) (a : ApplyWait) (q : LsuReq), s.windows = [w] → w.port = p.val →
    w.table = table.toNat → w.closed = false → w.wait = some a → s.reqOf a.core a.req = some q → w.ranks.length + 1 < a.ranks →
    (a.since + a.limit ≤ s.ticks → exec (.applyWindowTimeout p table) s =
      .next ({ s with windows := [{ w with closed := true, contribs := [], fwd := [], nodes := [], srcs := [] }] }.endReq a.core q rsRankMissing 0)) ∧
    (s.ticks < a.since + a.limit → exec (.applyWindowTimeout p table) s = .next s))

/-- `ITEM_START`: the item that the dispatcher chooses starts on the core it chooses, with its registers at zero, the
program counter at its entry, the instance word among its arguments, and, where the core was busy, the pre-empted run
and its registers kept in the second context bank.

`ITEM_START` with nothing that can start changes only what follows by itself and gives back the cores that no ready express
item keeps to the items pre-empted there; a block that does not run starts nothing.

`GROUP_RERUN`: the items of a group whose last stage asks for a re-run wait again, one pre-shift further, the
decrements held for the group are discarded, and the dependence objects take their initial counts.

It says that `ITEM_START`, `GROUP_RERUN` complete, and when. -/
def Obligations.ItemDispatch : Prop :=
  (∀ (s : State) (id : ItemId) (c : Nat) (i : Inst) (x : Item), s.running = true →
    let s0 := s.settle
    s0.nextStart = some (id, c) → s0.instOf id.inst = some i → s0.itemOf id = some x → c < 128 →
    let k := s0.core c
    let express := x.cls == .express
    k.tag express = some (codeTag i.port i.program) →
    ∃ t, exec .itemStart s = .next t ∧ t.itemOf id = some { x with st := .inService c, holdsFlow := x.rcd.atomic } ∧ id ∉ t.readyQ ∧
      t.core c = { k with run := some (startRun i x id), regs := { pc := partBase express + x.rcd.entry },
                          saved := match k.run with
                            | some r => some { run := r, regs := k.regs, since := s0.ticks }
                            | none => k.saved }) ∧
  (∀ s : State, (s.running = false → exec .itemStart s = .next s) ∧
    (s.running = true → s.settle.nextStart = none → exec .itemStart s = .next s.settle.restoreAll)) ∧
  (∀ (n : Nat) (g : BitVec 8) (s : State) (i : Inst), s.running = true → s.instOf n = some i → i.rerunDue g.toNat = true →
    (exec (.groupRerun n g) s = .next ((((i.items.filterMap fun x => if x.rcd.group = g.toNat then x.rcd.dep.map fun d => (i.objOf d, x.depInit) else none).foldl
        (fun (s : State) (d : Nat × Nat) => s.setSync d.1 { count := BitVec.ofNat 32 d.2 }) s).modInst n fun i =>
          { i with items := i.items.map fun x => if x.rcd.group = g.toNat then x.again else x }).settle)) ∧
    ∀ x : Item, x.again.st = .waiting ∧ x.again.preShift = x.preShift + 1 ∧ x.again.heldDecs = [] ∧ x.again.checked = x.checked ∧ x.again.rcd = x.rcd)

/-- `SCONSUME` of a stream of this core: the current generation's consumed count rises, no further than what was delivered,
an excess is logged, and a generation that this ends is dropped; of another core's stream, or one of the other port, it is
logged and has no other effect.

The stream unit: a grant requests the next Crumbs of the stream chosen, at most eight and no more than its buffer has room
for, with their addresses; with no stream eligible it requests nothing.

A Crumb that arrives, from device memory or from the host, is written at its place in the stream's ring of buffers, and the
delivered count grows over the unbroken prefix; one that nothing asked for changes nothing.

A queued generation starts when the delivering one has requested its last Crumb, and where their buffers overlap not before
every Crumb of it has been consumed.

While the device does not run, or the cluster is restarting, held or LOST, the stream unit does nothing.

It says that `SCONSUME`, `STREAM_GRANT`, `STREAM_CRUMB_DELIVERED`, `GENERATION_START` complete, and when. -/
def Obligations.StreamCommands : Prop :=
  (∀ (c : CoreIx) (f : XFmt) (s : State) (r : Run), Ready s c.val r → f.ok false true true false false = true → f.imm = 0 →
    s.lsuCount c.val < 64 →
    let st := ((s.core c.val).sreg f.a.toNat).toNat % 65536
    let n := ((s.core c.val).sreg f.b.toNat).toNat
    let u := s.onCore c.val Core.next
    let other : Out := .next (u.report (lgCluster (c.val / 16)) [r.port] eStream c.val st strOther)
    (st / 4 = c.val → s.streamPort st = r.port → ∀ g, (s.strm st).gens = [g] → g.started = true → Does s (.sconsume c f) (.next (((if g.delivered < g.consumed + n then u.report (lgCluster (c.val / 16)) [r.port] eStream c.val st strOver else u).setStrm st
        { s.strm st with gens := [{ g with consumed := min (g.consumed + n) g.delivered }] }).dropGens st))) ∧
    (st / 4 ≠ c.val ∨ s.streamPort st ≠ r.port → Does s (.sconsume c f) other)) ∧
  (∀ (cl : Fin 8) (s : State) (n : Nat), s.streamsUp cl.val = true →
    let s0 := (rangeFrom (64 * cl.val) 64).foldl State.seek s
    (s0.grantee cl.val = some n → exec (.streamGrant cl) s = .next (((s0.takeTurn cl.val n).requestCrumbs n).seek n)) ∧
    (s0.grantee cl.val = none → exec (.streamGrant cl) s = .next s0)) ∧
  (∀ (s : State) (n want held : Nat) (g : Gen) (run src n1 s1 n2 s2 n3 s3 : Nat), (s.strm n).gens = [g] → s.eligible n = some (want, held, g) →
    s.entryOf (s.streamPort n) g = .transfer false run src n1 s1 n2 s2 n3 s3 →
    want ≤ 8 ∧ held + want ≤ 2 ^ g.bufLog ∧ s.requestCrumbs n = s.setStrm n { s.strm n with gens :=
      [{ g with requested := g.requested + want, within := g.within + want,
                asked := g.asked ++ (List.range want).map fun j =>
                  (g.requested + j, false, transferAddr run src n1 s1 n2 s2 s3 (g.within + j)) }] }) ∧
  (∀ (st : StreamIx) (i : Nat) (host : Bytes) (s : State), s.streamsUp (st.val / 64) = true →
    (∀ g a k u o, (s.strm st.val).asker i = some (g, false, a) → s.kindOf a 32 = some (k, u, o) →
      exec (.streamCrumbDelivered st i host) s =
        .next ((s.memRead (streamExpress st.val) k a 32).2.deliver st.val g.src i (s.dread a 32).1 (s.dread a 32).2)) ∧
    (∀ g a acc, (s.strm st.val).asker i = some (g, true, a) → s.accs.find? (fun x => x.why == .stream st.val g.src i && x.st == .sent) = some acc →
      exec (.streamCrumbDelivered st i host) s =
        .next (({ s with accs := s.accs.filter fun x => !(x.id == acc.id) }.settleInvals).deliver st.val g.src i (slice host 0 32) false)) ∧
    ((s.strm st.val).asker i = none → exec (.streamCrumbDelivered st i host) s = .next s)) ∧
  (∀ (s : State) (st i : Nat) (d : Bytes) (g : Gen), (s.strm st).gens = [g] → g.delivering = true → d.length = 32 →
    s.entryOf (s.streamPort st) g = .stop → (∃ k, g.delivered ≤ k ∧ k < g.requested ∧ k ∉ i :: g.arrived) →
    let t := s.deliver st g.src i d false
    (t.core (streamCore st)).ls.readBytes (g.buf + 32 * (i % 2 ^ g.bufLog)) 32 = d ∧
      ∃ dl, g.delivered ≤ dl ∧ (∀ k, g.delivered ≤ k → k < dl → k ∈ i :: g.arrived) ∧ dl ∉ i :: g.arrived ∧
        (t.strm st).gens = [{ g with asked := g.asked.filter (fun a => a.1 != i), arrived := (i :: g.arrived).filter (fun x => decide (dl ≤ x)),
                                     delivered := dl }]) ∧
  (∀ (s : State), (∀ cl : Fin 8, s.streamsUp cl.val = false → exec (.streamGrant cl) s = .next s) ∧
    ∀ st : StreamIx, s.streamsUp (st.val / 64) = false → exec (.generationStart st) s = .next s ∧
      ∀ i host, exec (.streamCrumbDelivered st i host) s = .next s) ∧
  ∀ (st : StreamIx) (s : State) (q : Gen), s.streamsUp (st.val / 64) = true → let s0 := s.seek st.val
    q.started = false → (s0.strm st.val).waiting = [] →
    ((s0.strm st.val).gens = [q] →
      exec (.generationStart st) s = .next ((s0.readEntry st.val q).setStrm st.val { s0.strm st.val with gens := [{ q with started := true }] })) ∧
    ∀ g, (s0.strm st.val).gens = [g, q] → g.started = true → g.ended = none →
      let apart := meets (g.buf, 32 * 2 ^ g.bufLog) q.buf (32 * 2 ^ q.bufLog) = false ∨ g.requested ≤ g.consumed
      (s0.entryOf (s0.streamPort st.val) g = .stop → apart → exec (.generationStart st) s =
        .next ((s0.readEntry st.val q).setStrm st.val { s0.strm st.val with gens := [g, { q with started := true }] })) ∧
      (s0.entryOf (s0.streamPort st.val) g ≠ .stop ∨ ¬apart → exec (.generationStart st) s = .next s0)

/-- `RING_ENABLE` of a ring that is `IDLE`, or `ORPHANED` on a quiesced port, with its set-up locked, its parameters in range
and its timer free, makes it `ACTIVE` with every count at zero; otherwise it is refused with the cause of what fails: 4
before the lock, 3 not quiesced, 1 out of range, 2 a timer in other use, which is logged as a claim conflict.

`RING_DISABLE`: an active or stopped ring with accepted descriptors, or records still to be released, drains; with none it
becomes `IDLE` at once, its counter block written where it has one; a ring in another state is left alone.

`IRQ_TICKS_EXPIRY`: the ring's oldest pending completion has waited its time, so its interrupt goes out and nothing
is pending; earlier nothing happens.

Doorbell writes: a tail within the ring's free entries is taken, one beyond it stops the ring; a head within what
was written is taken, one beyond it stops the ring; a write that is not 4 bytes, or to a ring that takes none, is dropped and
logged. A write by the physical function discards the port's register latch.

It says that `RING_ENABLE`, `RING_DISABLE`, `IRQ_TICKS_EXPIRY`, `SQ_TAIL`, `CQ_HEAD` complete, and when. -/
def Obligations.RingControl : Prop :=
  (∀ (p : PortIx) (fn : FnIx) (r : RingIx) (s : State), s.barOpen p.val fn.val = true → s.ringReached p.val fn.val r.val = true →
    (s.ring r.val).st = .idle ∨ (s.ring r.val).st = .orphaned → s.unitLost 0 r.val = false →
    let g := s.ring r.val
    let v := s.wholeWrite p.val fn.val
    let quiet := g.st = .orphaned → s.quiesced (s.ringPort r.val) = true
    let free := g.timed = true → s.timerOfRing r.val g.timer = false ∧ s.timerOfPort (s.ringPort r.val) g.timer = false
    let refused (n : Nat) := v.setRing r.val { g with refusal := n }
    (s.locked = true → quiet → s.ringInRange r.val = true → free → exec (.ringEnable p fn r) s =
      .next (v.setRing r.val { w0 := g.w0, w1 := g.w1, w2 := g.w2, w3 := g.w3, w4 := g.w4, st := .active,
                               epoch := if g.st = .orphaned then g.epoch + 1 else g.epoch })) ∧
    (s.locked = false → exec (.ringEnable p fn r) s = .next (refused 4)) ∧
    (s.locked = true → ¬quiet → exec (.ringEnable p fn r) s = .next (refused 3)) ∧
    (s.locked = true → quiet → s.ringInRange r.val = false → exec (.ringEnable p fn r) s = .next (refused 1)) ∧
    (s.locked = true → quiet → s.ringInRange r.val = true → ¬free → exec (.ringEnable p fn r) s =
      .next ((refused 2).report lgDevice [] eClaim 7 g.timer p.val))) ∧
  (∀ (p : PortIx) (fn : FnIx) (r : RingIx) (s : State), s.barOpen p.val fn.val = true → s.ringReached p.val fn.val r.val = true →
    let g := s.ring r.val
    let v := s.wholeWrite p.val fn.val
    let drained := (v.dropEntry r.val).setRing r.val { g with st := .draining, head := none, rereads := 0 }
    (g.st = .active ∨ g.st = .stopped →
      (g.live ≠ [] ∨ s.recordHeld r.val = true → exec (.ringDisable p fn r) s = .next drained) ∧
      (g.live = [] → s.recordHeld r.val = false → exec (.ringDisable p fn r) s =
        .next ((drained.postCounters r.val).modRing r.val fun g => { g with st := .idle })) ∧
      (g.live = [] → s.recordHeld r.val = false → g.ctrAddr = 0 → exec (.ringDisable p fn r) s =
        .next ((v.dropEntry r.val).setRing r.val { g with st := .idle, head := none, rereads := 0 }))) ∧
    (g.st ≠ .active → g.st ≠ .stopped → exec (.ringDisable p fn r) s = .next v)) ∧
  (∀ (r : RingIx) (s : State), s.running = true → (s.ring r.val).irqCount ≠ 0 → (s.ring r.val).irqTicks ≠ 0 → 0 < (s.ring r.val).pending →
    let g := s.ring r.val
    (g.pendingSince + g.irqTicks ≤ s.ticks → exec (.irqTicksExpiry r) s =
      .next ((s.setRing r.val { g with pending := 0 }).msixSend (s.ringPort r.val) (s.ringFn r.val) g.vector)) ∧
    (s.ticks < g.pendingSince + g.irqTicks → exec (.irqTicksExpiry r) s = .next s)) ∧
  (∀ (a : DoorAddr) (v : BitVec 32) (s : State) (r : Nat), s.barOpen a.port.val a.fn.val = true → s.doorRing a = some r →
    let g := s.ring r
    let u := if a.fn.val = 0 then s.dropLatch a.port.val else s
    let off := 4096 * a.page.val + 64 * a.slot.val
    let stopped := (u.dropEntry r).setRing r { g with st := .stopped, head := none, rereads := 0 }
    (a.size = 4 →
      (g.st = .active → (v - g.sqTail).toNat < 2 ^ 31 → (v - g.sqHead).toNat ≤ 2 ^ g.sqLog2 → exec (.sqTail a v) s =
        .next (u.setRing r { g with sqTail := v, halfSeen := g.halfSeen && v == g.sqTail })) ∧
      (g.st = .active → 2 ^ 31 ≤ (v - g.sqTail).toNat ∨ 2 ^ g.sqLog2 < (v - g.sqHead).toNat → exec (.sqTail a v) s =
        .next (stopped.ringAccess a.port.val r off accDoorbell)) ∧
      (g.st ≠ .active → exec (.sqTail a v) s = .next (u.ringAccess a.port.val r off accIgnored)) ∧
      (g.st = .active →
        ((v - g.cqHead).toNat ≤ (g.cqTail - g.cqHead).toNat → exec (.cqHead a v) s = .next (u.setRing r { g with cqHead := v })) ∧
        ((g.cqTail - g.cqHead).toNat < (v - g.cqHead).toNat → exec (.cqHead a v) s =
          .next (stopped.ringAccess a.port.val r (off + 8) accDoorbell))) ∧
      (g.st ≠ .active → exec (.cqHead a v) s = .next (u.ringAccess a.port.val r (off + 8) accIgnored))) ∧
    (a.size ≠ 4 → exec (.sqTail a v) s = .next (u.ringAccess a.port.val r off accSize) ∧
      exec (.cqHead a v) s = .next (u.ringAccess a.port.val r (off + 8) accSize)))

/-- `MACHINE_CHECK`: the first one of an item ends the run `RETRY` once its operations have completed; a second one, also one
that comes while the run of the first still drains, ends it `FAULTED`; a core that issues nothing is left alone.

It says that `MACHINE_CHECK` completes, and when. -/
def Obligations.MachineCheckResults : Prop :=
  ∀ (c : CoreIx) (engine : BitVec 8) (s : State),
    (s.issuing c.val = none → ∀ a, exec (.machineCheck c engine a) s = .next s) ∧
    ∀ (r : Run) (x : Item), s.issuing c.val = some r → s.itemOf r.item = some x → s.assisted 1 = false → s.outstanding c.val r.item = true →
      (x.checked = 0 → (r.retry = true → r.uncounted = true) → (∀ a, ∃ t, exec (.machineCheck c engine (some a)) s = .next t ∧
          t.core c.val = { s.core c.val with run := some { r with retry := true, stall := some (.ending 0) } } ∧ t.insts = s.insts) ∧
        ((s.core c.val).checks = [] → 1 < s.climbCount 1 → ∃ t, exec (.machineCheck c engine none) s = .next t ∧
          t.core c.val = { s.core c.val with checks := [s.ticks], run := some { r with retry := true, stall := some (.ending 0) } } ∧
          t.insts = s.insts)) ∧
      (0 < x.checked ∨ r.retry = true ∧ r.uncounted = false → ∀ a, ∃ t, exec (.machineCheck c engine (some a)) s = .next t ∧
        (t.core c.val).run = some { r with stall := some (.ending 0), fault := some {
            code := xMachineCheck, engine := engine.toNat, core := c.val, pc := (s.core c.val).regs.pc,
            insn := BitVec.ofNat 64 ((s.core c.val).ls.readNat (s.core c.val).regs.pc 8), item := r.item } })

/-- `DESCRIPTOR_READ`: with no read under way the entry of the ring whose turn it is is asked for, and its answer taken where
nothing holds the read; the entry that arrives whole waits at the head of its ring, with its extension where it announces one;
an entry of a ring that does not yet hold its extension is read again; a failed read waits as a failed entry and is logged.

`DESCRIPTOR_ACCEPT`: a head entry that is in order joins the accepted descriptors with its reservations, and one that creates
an instance takes the next instance number and, of a service request, its slot and the versions of its tables; one whose header is bad, or that makes express
items on a ring of another class, is completed `BAD_DESCRIPTOR`, and one whose read failed `HOST_FAULT`; one that cannot
reserve stays at the head.

It says that `DESCRIPTOR_READ`, `DESCRIPTOR_ACCEPT` complete, and when. -/
def Obligations.DescriptorIntake : Prop :=
  (∀ (ans : HostAns) (s : State) (r : Nat), s.running = true → s.entrySent = some r →
    let g := s.ring r
    let u := (s.dropEntry r).settleInvals
    let head (n : Nat) (entry : Bytes) (ext : Option Bytes) (failed : Bool) (g : Ring) : Ring :=
      { g with head := some { pos := g.epoch * 2 ^ 32 + g.sqHead.toNat, entry := entry, ext := ext, acceptedAt := s.ticks, begun := false, base := 0, syncs := 0,
                              items := 0, slot := 0, reads := 0, failed := failed },
               sqHead := g.sqHead + BitVec.ofNat 32 n, rereads := 0, watched := false, halfSeen := false }
    (∀ b, ans.err ≠ some .poisoned → hostWhole ans 64 = some b →
      ((fieldAt b 0 8).testBit 8 = false → exec (.descriptorRead ans) s = .next (u.modRing r (head 1 b none false))) ∧
      ((fieldAt b 0 8).testBit 8 = true → (g.sqTail - g.sqHead).toNat < 2 → exec (.descriptorRead ans) s = .next (u.setRing r { g with halfSeen := true })) ∧
      ∀ x, (fieldAt b 0 8).testBit 8 = true → 2 ≤ (g.sqTail - g.sqHead).toNat → hostWhole ans 128 = some x →
        exec (.descriptorRead ans) s = .next (((u.askEntry r 1).dropEntry r).modRing r (head 2 b (some (x.drop 64)) false))) ∧
    (ans.err = some .timeout → hostWhole ans 64 = none → exec (.descriptorRead ans) s =
      .next ((u.modRing r (head 1 (List.replicate 64 0#8) none true)).report (lgPort (s.ringPort r)) [] eHostFault r
        (g.sqBase + 64 * (g.sqHead.toNat % 2 ^ g.sqLog2)) 0))) ∧
  (∀ (ans : HostAns) (s : State), s.running = true → s.entrySent = none →
    (s.nextRing = none → exec (.descriptorRead ans) s = .next s) ∧
    ∀ r, s.nextRing = some r →
      let t := State.askEntry { s with ringTurn := Tab.put 0 s.ringTurn (s.ring r).cls.num r } r 0
      (t.entrySent ≠ some r → exec (.descriptorRead ans) s = .next t) ∧
      (t.entrySent = some r → exec (.descriptorRead ans) s = exec (.descriptorRead ans) t)) ∧
  (∀ (r : RingIx) (s : State) (e : Live), s.running = true →
    let g := s.ring r.val
    let p := s.ringPort r.val
    g.head = some e → g.st = .active → g.acceptable e = true →
    let accepted (s : State) (e : Live) :=
      { s with acceptCount := s.acceptCount + 1 }.setRing r.val { g with
        head := none, watched := false, live := g.live ++ [{ e with acceptedAt := s.ticks, order := s.acceptCount }] }
    let n := (s.instCount + 1) % 2 ^ 32
    let v := fieldAt e.entry 8 4 % 16
    (e.failed = true → exec (.descriptorAccept r) s = .next ((accepted s e).completeWith r.val e.pos stHostFault)) ∧
    (e.failed = false → e.headBad = true ∨ s.makesExpress p e = true ∧ g.cls ≠ .express →
      exec (.descriptorAccept r) s = .next ((accepted s e).completeWith r.val e.pos stBadDescriptor)) ∧
    (e.failed = false → e.headBad = false → (s.makesExpress p e = true → g.cls = .express) →
      (s.reserve r.val e = none → exec (.descriptorAccept r) s = .next s) ∧
      (s.creates r.val e = none → (e.op = 0x0C → e.items = 0) →
        exec (.descriptorAccept r) s = .next (accepted s { e with versions := s.serviceVersions p e })) ∧
      ∀ e', s.creates r.val e ≠ none → s.reserve r.val e = some e' →
        let u := accepted { s with instCount := n } { e' with versions := s.serviceVersions p e, num := some n }
        (e.op ≠ 0x0C → exec (.descriptorAccept r) s = .next u) ∧
        ∀ w, e.op = 0x0C → e'.items ≠ 0 → s.svc p v = some w →
          exec (.descriptorAccept r) s = .next (u.setSvc p v (some { w with used := w.used ++ [e'.slot] }))))

/-- Completing a descriptor of an active ring removes it from the accepted ones and posts the next completion record:
the ring's completion tail rises by one; other rings, while none of their records waits to be released, stay as they are.

`NOP`, `FLUSH`, `SYNC_SET` and `TICKS`, with no reserved bit set: each completes `OK` with its effect; a reserved bit
that is set gives `BAD_DESCRIPTOR`. `HOST_ATOMIC` sends its request and waits for the answer. `FENCE` sends a
zero-length read for each function it covers once every earlier descriptor of the ring has completed.

It says that `DESC_NOP`, `DESC_FENCE`, `FLUSH`, `HOST_ATOMIC`, `SYNC_SET`, `TICKS` complete, and when. -/
def Obligations.PlainDescriptors : Prop :=
  (∀ (r pos : Nat) (d : Done) (s : State) (e : Live), (s.ring r).live.find? (fun e => e.pos == pos) = some e → (s.ring r).st = .active →
    let t := s.complete r pos d
    (t.ring r).live = (s.ring r).live.filter (fun e => e.pos != pos) ∧ (t.ring r).cqTail = (s.ring r).cqTail + 1 ∧
      (t.ring r).st = .active ∧ (t.ring r).sqHead = (s.ring r).sqHead ∧ (t.ring r).head = (s.ring r).head ∧
      (s.released = [] → (∀ q, q ≠ r → s.recordHeld q = false) → ∀ q, q ≠ r → t.ring q = s.ring q) ∧ t.dmem = s.dmem ∧ t.cores = s.cores ∧ t.insts = s.insts ∧ t.syncs = s.syncs) ∧
  (∀ (r : RingIx) (pos : Nat) (s : State) (x : Live),
    let p := s.ringPort r.val
    let fn := s.ringFn r.val
    (s.descOf r.val pos 0x00 = some x → (unnamed x.entry [] = false → exec (.descNop r pos) s = .next (s.completeWith r.val pos stOk)) ∧
      (unnamed x.entry [] = true → exec (.descNop r pos) s = .next (s.completeWith r.val pos stBadDescriptor))) ∧
    (s.descOf r.val pos 0x01 = some x → unnamed x.entry [(64, 1)] = false → (s.ring r.val).live.head?.map (·.pos) = some pos →
      let fns := s.fenceFns p ++ if (fieldAt x.entry 8 8).testBit 0 then s.fenceFns (1 - p) else []
      exec (.descFence r pos) s = .next ((fns.foldl (fun (s' : State) f => s'.hostStart f.1 f.2 (if f.1 = p ∧ f.2 = fn then (s.ring r.val).pasid else none)
          (s.ring r.val).cqBase 0 .fenceRead (.fence r.val pos) noItem)
        (s.setRing r.val { s.ring r.val with live := (s.ring r.val).live.map fun e =>
          if e.pos = pos then { e with begun := true, reads := fns.length } else e })).goOn)) ∧
    (s.descOf r.val pos 0x02 = some x → unnamed x.entry [] = false → exec (.flush r pos) s =
      .next ({ s with cache := s.cache.filter fun y => y.space != 1 + p }.completeWith r.val pos stOk)) ∧
    (s.descOf r.val pos 0x03 = some x → unnamed x.entry [(64, 64), (128, 64), (192, 64), (256, 2)] = false →
      (s.fnc p fn).atomicEn = true → s.hostGone r.val = false →
      let wide := (fieldAt x.entry 32 8).testBit 1
      let n := if wide then 8 else 4
      fieldAt x.entry 8 8 % n = 0 → exec (.hostAtomic r pos) s =
        .next ((s.begin r.val pos).hostStart p fn (s.ring r.val).pasid (fieldAt x.entry 8 8) n
          (.atomic ((fieldAt x.entry 32 8).testBit 0) wide (BitVec.ofNat 64 (fieldAt x.entry 16 8)) (BitVec.ofNat 64 (fieldAt x.entry 24 8)))
          (.atomic r.val pos) noItem)) ∧
    (s.descOf r.val pos 0x04 = some x → unnamed x.entry [(64, 14), (96, 32)] = false →
      let o := fieldAt x.entry 8 4 % 2 ^ 14
      s.owns p fn .sync o = true → exec (.syncSet r pos) s =
        .next (((s.setSync o { count := BitVec.ofNat 32 (fieldAt x.entry 12 4), aborted := false, underflow := false }).completeWith r.val pos stOk).settle)) ∧
    (s.descOf r.val pos 0x05 = some x → unnamed x.entry [] = false → exec (.ticks r pos) s =
      .next (s.complete r.val pos { status := stOk, r0 := BitVec.ofNat 64 s.ticks })))

/-- `PROGRAM_LOAD` of a checked record stores the program and makes every core forget an image of that number; `LAUNCH`
and `TRAIN_STEP` create the instance of a loaded program under the number the descriptor took, the training step's `ready`
objects being set to 1 unless its ring has been orphaned.

Creating the instance of a program without items to arm or to start leaves the sync objects of its run at the
template's counts, and completes the descriptor.

It says that `PROGRAM_LOAD`, `LAUNCH`, `TRAIN_STEP` complete, and when. -/
def Obligations.ProgramDescriptors : Prop :=
  (∀ (r : RingIx) (pos : Nat) (s : State) (x : Live) (g : Program),
    let p := s.ringPort r.val
    let n := fieldAt x.entry 8 4 % 2 ^ 11
    let rep := fieldAt x.entry 24 8
    (s.descOf r.val pos 0x08 = some x → unnamed x.entry [(64, 11), (128, 64)] = false → s.programLive p n = false → s.programBound p n = false →
      (s.readProgram p (fieldAt x.entry 16 8) = some g → ∃ t : State, exec (.programLoad r pos) s = .next (t.completeWith r.val pos stOk) ∧
        t.prog p n = some g ∧ (∀ q m, (q ≠ p ∨ m ≠ n) → m < 2048 → n < 2048 → t.prog q m = s.prog q m) ∧
        (∀ c, c < 128 → (t.core c).tagLower ≠ some (codeTag p n) ∧ (t.core c).tagExpress ≠ some (codeTag p n) ∧ (t.core c).ls = (s.core c).ls) ∧
        t.rings = s.rings) ∧
      (s.readProgram p (fieldAt x.entry 16 8) = none → exec (.programLoad r pos) s = .next (s.completeWith r.val pos stBadDescriptor))) ∧
    (∀ num, s.descOf r.val pos 0x09 = some x → x.num = some num → s.prog p n = some g → unnamed x.entry [(64, 11), (128, 64), (192, 64)] = false →
      extBad x.ext = false → rep % 64 = 0 → exec (.launch r pos) s = .next (s.createInst r.val pos x num
        { program := n, word := BitVec.ofNat 64 (fieldAt x.entry 16 8), result2 := BitVec.ofNat 64 (fieldAt x.entry 16 8), report := rep, ext := x.ext } g)) ∧
    (∀ num, s.descOf r.val pos 0x0A = some x → x.num = some num → s.prog p n = some g →
      unnamed x.entry [(64, 11), (128, 64), (192, 64), (256, 64), (320, 13), (336, 1), (384, 40)] = false → extBad x.ext = false → rep % 64 = 0 →
      let k := fieldAt x.entry 40 4 % 2 ^ 13
      let step := fieldAt x.entry 48 8 % 2 ^ 40
      0 < k → k ≤ 4096 → ∀ l, s.versionRecs r.val step (fieldAt x.entry 32 8) k = some l → exec (.trainStep r pos) s =
        .next ((if x.orphaned then [] else l).foldl (fun s v => s.setSync v.1 { count := 1 })
          ((s.readVersions ((s.ring r.val).cls == .express) (fieldAt x.entry 32 8) l).createInst r.val pos x num
          { program := n, cls := some (if (fieldAt x.entry 40 4).testBit 16 then .express else .normal), word := BitVec.ofNat 64 (fieldAt x.entry 16 8),
            result2 := BitVec.ofNat 64 step, report := rep, train := l, ext := x.ext } g)))) ∧
  (∀ (s : State) (r pos num : Nat) (e : Live) (c : Create) (g : Program), g.items = [] → s.insts = [] → g.syncCount = 1 →
    e.base < 16384 → (s.ring r).live = [e] → e.pos = pos → (s.ring r).st = .active → e.op = 0x09 → c.report = 0 → c.budget = 0 → c.service = none →
    c.train = [] →
    let t := s.createInst r pos e num c g
    (t.sync e.base).count = BitVec.ofNat 32 (leNat (s.dmem.readBytes g.syncTmpl 4)) ∧ t.instCount = s.instCount ∧
      (∀ o, o ≠ e.base → t.sync o = s.sync o) ∧ t.insts = [] ∧ (t.ring r).live = [] ∧ (t.ring r).cqTail = (s.ring r).cqTail + 1)

/-- Services and held items: `SERVICE_BIND` binds a free service, with the image of its program loaded first
where it asks for that and no express item runs on the port's cores, `SERVICE_REQUEST` writes the request's slot and creates
its express instance with the versions recorded at its acceptance, `SERVICE_UNBIND` frees the service once no slot is in use and stops
requests until then; `ITEM_RESUME` goes on after `INT_SAT`, `ITEM_ABORT` ends the item, `STREAM_ARM` arms a stream.

It says that `SERVICE_BIND`, `SERVICE_REQUEST`, `SERVICE_UNBIND`, `ITEM_RESUME`, `ITEM_ABORT`, `STREAM_ARM` complete, and
when. -/
def Obligations.ServiceAndItemDescriptors : Prop :=
  ∀ (r : RingIx) (pos : Nat) (s : State) (x : Live),
    let p := s.ringPort r.val
    let b := x.entry
    let n := fieldAt b 8 4 % 16
    (s.descOf r.val pos 0x0B = some x → s.bindBad r.val b = false → s.svc p n = none →
      let g := fieldAt b 12 4 % 2 ^ 11
      let tables := (List.range (fieldAt b 28 4 % 16)).map fun k => fieldAt b (32 + 2 * k) 2
      let bound := s.setSvc p n (some ⟨g, fieldAt b 16 8, fieldAt b 24 4 % 2 ^ 13, tables, [], false⟩)
      ((fieldAt b 8 4).testBit 16 = false → exec (.serviceBind r pos) s = .next (bound.completeWith r.val pos stOk)) ∧
      ((fieldAt b 8 4).testBit 16 = true → (∀ c ∈ s.expressCores p, (s.core c).expressBusy = false) → exec (.serviceBind r pos) s =
        .next (((s.expressCores p).foldl (fun s' c => if (s'.core c).tagExpress = some (codeTag p g) then s' else s'.loadCode c p g true) bound).completeWith
          r.val pos stOk)) ∧
      ((fieldAt b 8 4).testBit 16 = true → (∃ c ∈ s.expressCores p, (s.core c).expressBusy = true) → exec (.serviceBind r pos) s = .next s)) ∧
    (s.descOf r.val pos 0x0B = some x → s.bindBad r.val b = false → (s.svc p n).isSome = true →
      exec (.serviceBind r pos) s = .next (s.completeWith r.val pos stClaimConflict)) ∧
    (∀ num, s.descOf r.val pos 0x0C = some x → x.num = some num → ∀ v g, s.svc p n = some v → s.prog p v.program = some g →
      let s1 := s.generalWrite none true (v.area + 128 * x.slot) (x.entry ++ x.ext.getD (List.replicate 64 0#8))
      exec (.serviceRequest r pos) s = .next (s1.createInst r.val pos x num
        { program := v.program, cls := some .express, word := BitVec.ofNat 64 (x.slot * 2 ^ 14 + n * 2 ^ 26),
          result2 := BitVec.ofNat 64 (fieldAt b 56 8), budget := fieldAt b 52 4, service := some (n, x.slot),
          versions := x.versions } g)) ∧
    (s.descOf r.val pos 0x0D = some x → unnamed b [(64, 4)] = false → ∀ v, s.svc p n = some v →
      (v.used = [] → exec (.serviceUnbind r pos) s = .next ((s.setSvc p n none).completeWith r.val pos stOk)) ∧
      (v.used ≠ [] → exec (.serviceUnbind r pos) s = .next (s.setSvc p n (some { v with unbinding := true })) ∧
        ∀ e, e.op = 0x0C → fieldAt e.entry 8 4 % 16 = n → (s.setSvc p n (some { v with unbinding := true })).requestOk p e = none)) ∧
    (s.descOf r.val pos 0x0E = some x → unnamed b [(64, 48)] = false → ∀ c f q, s.heldItem r.val (fieldAt b 8 8 % 2 ^ 48) = some (c, f) →
      (s.core c).run = some q →
      (f.code = xIntSat → exec (.itemResume r pos) s = .next ((s.onCore c fun k =>
        { k.next with held := none, run := some { q with sat := true } }).completeWith r.val pos stOk)) ∧
      (f.code ≠ xIntSat → exec (.itemResume r pos) s = .next (s.completeWith r.val pos stBadDescriptor))) ∧
    (s.descOf r.val pos 0x0F = some x → unnamed b [(64, 48)] = false → ∀ c f q, s.heldItem r.val (fieldAt b 8 8 % 2 ^ 48) = some (c, f) →
      (s.core c).run = some q → exec (.itemAbort r pos) s = .next (((s.onCore c fun k =>
        { k with held := none, run := some { q with fault := some f, stall := some (.ending 0) } }).completeWith r.val pos stOk).tryEnd c)) ∧
    (s.descOf r.val pos 0x10 = some x → unnamed b [(64, 256)] = false → exec (.streamArm r pos) s =
      .next ((s.begin r.val pos).armBytes p ((s.ring r.val).cls == .express) (slice b 8 32) (.ring r.val pos) 0))

/-- Table and graph set-up: the read of the host's descriptor goes out as the ring's function and PASID, and waits where
something holds it; the descriptor that comes makes the object live; it takes nothing while the object's number is in use
(`CLAIM_CONFLICT`) or where a field is bad, and a failed read of it ends `HOST_FAULT`.

Descriptors on live tables: a switch begins, and waits its turn, after those of the table that were accepted before it; an inactive version, or a table, that nothing holds is
given up at once, and one that something holds keeps the descriptor outstanding. When the other devices of a scope have no
more use of a version is a free value (model choice, log entry 44).

It says that `TABLE_SETUP`, `TABLE_SWITCH`, `TABLE_RETIRE`, `TABLE_FREE`, `GRAPH_SETUP` complete, and when. -/
def Obligations.TableDescriptors : Prop :=
  (∀ (r : RingIx) (pos : Nat) (s : State) (x : Live) (ans : HostAns) (i : Instr), unnamed x.entry [(64, 64)] = false →
    i = .tableSetup r pos ans ∧ s.descAny r.val pos 0x18 = some x ∧ fieldAt x.entry 8 8 % 64 = 0 ∨
      i = .graphSetup r pos ans ∧ s.descAny r.val pos 0x20 = some x →
    let asked := s.setupAsked r.val pos (fieldAt x.entry 8 8)
    (asked.setupSent r.val pos = none →
      ((asked.accs.any fun a => a.why == .setup r.val pos) = true → exec i s = .next asked) ∧
      ((asked.accs.any fun a => a.why == .setup r.val pos) = false → exec i s = .next (asked.completeWith r.val pos stHostFault))) ∧
    ∀ a, asked.setupSent r.val pos = some a →
      let u := (asked.dropAcc a.id).settleInvals
      (hostWhole ans 64 = none → exec i s = .next
        ((u.report (lgPort (u.ringPort r.val)) [] eHostFault r.val (fieldAt x.entry 8 8) 0).completeWith r.val pos stHostFault)) ∧
      ∀ b, hostWhole ans 64 = some b →
        (i = .tableSetup r pos ans →
          (u.tableOk r.val b = false → exec i s = .next (u.completeWith r.val pos stBadDescriptor)) ∧
          (u.tableOk r.val b = true → u.tableOf (Table.parse b).id = none → exec i s =
            .next ((u.setTable (Table.parse b).id (some (Table.parse b))).completeWith r.val pos stOk)) ∧
          (u.tableOk r.val b = true → (u.tableOf (Table.parse b).id).isSome = true → exec i s = .next (u.completeWith r.val pos stClaimConflict))) ∧
        (i = .graphSetup r pos ans →
          (u.graphOk r.val b = false → exec i s = .next (u.completeWith r.val pos stBadDescriptor)) ∧
          (u.graphOk r.val b = true → u.graphOf (Graph.parse b).id = none → exec i s =
            .next ((u.setGraph (Graph.parse b).id (some (Graph.parse b))).completeWith r.val pos stOk)) ∧
          (u.graphOk r.val b = true → (u.graphOf (Graph.parse b).id).isSome = true → exec i s = .next (u.completeWith r.val pos stClaimConflict)))) ∧
  (∀ (r : RingIx) (pos : Nat) (s : State) (x : Live) (t : Table), unnamed x.entry [(64, 16)] = false →
    let id := fieldAt x.entry 8 2
    s.tableOf id = some t → s.descTable r.val id = 0 →
    (s.descOf r.val pos 0x19 = some x → t.versioned = true → s.earlierNames 0x19 x tableId = true → exec (.tableSwitch r pos) s = .next s) ∧
    (s.descOf r.val pos 0x19 = some x → t.versioned = true → s.earlierNames 0x19 x tableId = false → exec (.tableSwitch r pos) s =
      .next (State.startSwitches { s.begin r.val pos with switches := s.switches ++
        [{ ring := r.val, pos := pos, table := id, version := false, waiting := [], refused := false }] } id (s.switches.length + 1))) ∧
    (s.descAny r.val pos 0x1A = some x → t.versioned = true →
      let u := s.begin r.val pos
      (u.tableHeld id (some !t.active) = false →
        (s.scopeOthers t.scope = [] → exec (.tableRetire r pos) s = .next (u.completeWith r.val pos stOk)) ∧
        (s.scopeOthers t.scope ≠ [] → exec (.tableRetire r pos) s =
          .next (if u.free.1.getLsbD 0 then u.free.2.completeWith r.val pos stOk else u.free.2))) ∧
      (u.tableHeld id (some !t.active) = true → exec (.tableRetire r pos) s = .next u)) ∧
    (s.descOf r.val pos 0x1B = some x →
      (s.tableHeld id none = false → (∀ w ∈ s.switches, w.table ≠ id) → exec (.tableFree r pos) s =
        .next ({ s.setTable id none with windows := s.windows.filter fun w => w.table != id }.completeWith r.val pos stOk)) ∧
      (s.tableHeld id none = true ∨ (∃ w ∈ s.switches, w.table = id) → exec (.tableFree r pos) s = .next s)))

/-- Descriptors on live graphs: a drain that finds nothing under way completes, one that finds work remembers it and
completes when that work has gone; a sweep becomes an instance of the cores that take it, under the number its descriptor
took; a graph that nothing uses is freed, and one in use keeps the descriptor outstanding. When the other devices of a scope
have drained is a free value (model choice, log entry 44).

It says that `GRAPH_DRAIN`, `SWEEP`, `GRAPH_FREE` complete, and when. -/
def Obligations.GraphDescriptors : Prop :=
  ∀ (r : RingIx) (pos : Nat) (s : State) (x : Live) (g : Graph),
    (s.descAny r.val pos 0x21 = some x → unnamed x.entry [(64, 12)] = false →
      let id := fieldAt x.entry 8 4 % 2 ^ 12
      s.graphOf id = some g → s.descGraph r.val id = 0 →
      let now := s.graphReqs id ++ s.graphIter id
      let left := if x.begun then x.waitsFor.filter now.contains else now
      let s1 := s.setRing r.val { s.ring r.val with live := (s.ring r.val).live.map fun e => if e.pos = pos then { e with begun := true, waitsFor := left } else e }
      (left = [] → s.scopeOthers g.scope = [] → exec (.graphDrain r pos) s = .next (s1.completeWith r.val pos stOk)) ∧
      (left = [] → s.scopeOthers g.scope ≠ [] → exec (.graphDrain r pos) s =
        .next (if s1.free.1.getLsbD 0 then s1.free.2.completeWith r.val pos stOk else s1.free.2)) ∧
      (left ≠ [] → exec (.graphDrain r pos) s = .next s1)) ∧
    (s.descOf r.val pos 0x23 = some x → unnamed x.entry [(64, 12)] = false →
      let id := fieldAt x.entry 8 4 % 2 ^ 12
      s.descGraph r.val id = 0 →
      let idle := s.graphReqs id = [] ∧ (∀ w ∈ s.sweeps, w.graph ≠ id) ∧ ∀ m ∈ s.moves, m.entry.kind ≠ 0 → m.entry.id.toNat ≠ id
      (¬idle → exec (.graphFree r pos) s = .next s) ∧ (idle → ∃ t : State, exec (.graphFree r pos) s = .next (t.completeWith r.val pos stOk) ∧ t.graphOf id = none ∧ (∀ i, i ≠ id → t.graphOf i = s.graphOf i) ∧
        t.rings = s.rings ∧ t.cores = s.cores ∧ t.dmem = s.dmem ∧ t.tables = s.tables)) ∧
    (s.descOf r.val pos 0x22 = some x → unnamed x.entry [] = false → ∀ b num, x.ext = some b → x.num = some num → x.orphaned = false →
      let w := Sweep.parse b num s.ticks s.sweepLimit
      let cores := s.sweepCores (s.ringPort r.val)
      fieldAt b 0 8 / 2 ^ 37 % 2 ^ 27 = 0 → zeroRange b 20 44 = true → w.kind ≤ 2 → w.maxIter ≠ 0 → (w.kind = 0 → 9 ≤ w.s ∧ w.s ≤ 12) →
      s.descGraph r.val w.graph = 0 → s.graphOf w.graph = some g → 2 ≤ g.planes → cores ≠ [] →
      (s.earlierNames 0x22 x (fun e => fld (fieldAt (e.ext.getD []) 0 8) 4 12) = true → exec (.sweep r pos) s = .next s) ∧
      (s.earlierNames 0x22 x (fun e => fld (fieldAt (e.ext.getD []) 0 8) 4 12) = false → ∃ i, i.num = num ∧ i.opcode = 0x22 ∧ i.items.length = cores.length ∧ i.ring = r.val ∧ i.pos = pos ∧ i.result2 = BitVec.ofNat 64 num ∧
        exec (.sweep r pos) s = .next
          ((State.handOver { s with insts := insInst i s.insts, sweeps := s.sweeps ++ [w] } r.val pos).runSweeps w.graph)))

/-- Pool descriptors and `MIGRATE`: a grant of free granules of one Sifter unit adds them to the port's pool as whole
chunks, a reclaim of unused whole chunks takes them out, and a conflict changes no pool. A `MIGRATE` of a block that can
take the tier, width and unit named starts its move, or completes `TIER_FULL` when the pool has no chunk, and waits while
the block or its shard moves; one of a shard starts a shard move.

It says that `MIGRATE`, `POOL_GRANT`, `POOL_RECLAIM` complete, and when. -/
def Obligations.TierDescriptors : Prop :=
  (∀ (r : RingIx) (pos : Nat) (s : State) (e : Live) (u o : Nat),
    let a := fieldAt e.entry 8 8
    let n := fieldAt e.entry 16 8
    let p := s.ringPort r.val
    let met := s.chunks.filter fun x => x.unit == u && meets (x.off, 32 * 2 ^ x.log2) o n
    s.kindOf a n = some (.sifter, u, o) → a % granule = 0 → n % granule = 0 → 0 < n → unnamed e.entry [(64, 64), (128, 64)] = false →
    (s.descOf r.val pos 0x1D = some e →
      (met = [] → exec (.poolGrant r pos) s = .next ({ s with
        chunks := s.chunks ++ (List.range (n / granule)).map fun i => (⟨u, o + i * granule, 12, p, false⟩ : Chunk) }.completeWith r.val pos stOk)) ∧
      (met ≠ [] → exec (.poolGrant r pos) s = .next (s.completeWith r.val pos stClaimConflict))) ∧
    (s.descOf r.val pos 0x1E = some e →
      ((∀ x ∈ met, x.port = p ∧ x.used = false) → (met.map fun x => 32 * 2 ^ x.log2).sum = n → exec (.poolReclaim r pos) s =
        .next ({ s with chunks := s.chunks.filter fun x => !met.contains x }.completeWith r.val pos stOk)) ∧
      ((∃ x ∈ met, x.port ≠ p ∨ x.used = true) ∨ (met.map fun x => 32 * 2 ^ x.log2).sum ≠ n → exec (.poolReclaim r pos) s = .next (s.completeWith r.val pos stClaimConflict)))) ∧
  ∀ (r : RingIx) (pos : Nat) (s : State) (x : Live), s.descOf r.val pos 0x1C = some x → unnamed x.entry [(64, 25), (128, 16), (192, 48)] = false →
    let wd := fieldAt x.entry 8 8
    let id := fieldAt x.entry 16 2
    let index := bfld x.entry 24 8 0 48
    let kind := fld wd 0 3
    let tier := fld wd 3 2
    let w := fld wd 5 2
    (∀ k : Fin 4, k.val = kind →
      let e : EntryRef := ⟨k, BitVec.ofNat 16 id, kind == 0 && ((s.tableOf id).map (·.active)).getD false, index⟩
      (if kind = 0 then s.descTable r.val id else s.descGraph r.val id) = 0 →
      ∀ dir d p u, s.liveEntry e = some (dir, d, p) → tierUnit tier (fld wd 7 4) = some u → w ≠ 3 → (tier = 0 → w = 0) → (kind ≠ 0 → w = 0) →
        let seen := s.seeDir false dir index
        (12 ≤ u → seen.extent u ≠ 0) → (∀ t, kind = 0 → seen.tableOf id = some t → w ≤ t.narrowest ∧ (w = 2 → d.tier ≠ 3 → seen.canInt4 t d = true)) →
        (tier = 3 → seen.poisoned d.addr (seen.entryLen e d.width) = false) →
        (d.moving = true ∨ seen.entryHeld e = true → exec (.migrate r pos) s = .next seen) ∧
        (d.moving = false → seen.entryHeld e = false →
        (∀ t, (seen.begin r.val pos).startMove e (some (r.val, pos)) tier u w = some t → exec (.migrate r pos) s = .next t) ∧
        ((seen.begin r.val pos).startMove e (some (r.val, pos)) tier u w = none → exec (.migrate r pos) s = .next (seen.completeWith r.val pos stTierFull)))) ∧
    (kind = 4 → (fld wd 23 2 = 1 ∨ fld wd 23 2 = 2) → index < 4096 → (∀ m ∈ s.shardMoves, m.who ≠ whoShard (fld wd 23 2) index) →
      s.homeOf (fld wd 23 2) index = s.devId → fld wd 11 12 ∈ s.scopeOthers (fld wd 23 2) → exec (.migrate r pos) s =
        .next (State.runShards { s.begin r.val pos with shardMoves := (s.begin r.val pos).shardMoves ++
          [{ shard := index, scope := fld wd 23 2, newHome := fld wd 11 12, src := some (r.val, pos), started := false, copies := [], acks := [],
             transferred := false, failed := false, prog := {} }] }))

/-- Epochs and moves: a visit decides about a present entry of an active directory once in an epoch and halves its
counts, whatever it decides; the end of an epoch, once every visit is made, takes over and halves the shard counts and
starts the next epoch; a move whose block has been copied, with no page write to wait for, changes its entry; an old
chunk goes back to its pool when no request holds it.

It says that `EPOCH_VISIT`, `EPOCH_END`, `MOVE_COMPLETE`, `CHUNK_RELEASE` complete, and when. -/
def Obligations.EpochsAndMoves : Prop :=
  (∀ (e : EntryRef) (s : State) (dir n p : Nat), s.running = true → s.tiersRun = true → s.entryDir e = some (dir, n, p) → s.activeEntry e = true →
    e.index < n → (s.dirEnt dir e.index).present = true →
    (e ∈ s.visited → exec (.epochVisit e) s = .next s) ∧
    (e ∉ s.visited →
      let half (u : State) : State := { u.putDir dir e.index { u.dirEnt dir e.index with
        reads := (u.dirEnt dir e.index).reads / 2, updates := (u.dirEnt dir e.index).updates / 2 } with visited := u.visited ++ [e] }
      let seen := s.seeDir false dir e.index
      (seen.liveEntry e = none → exec (.epochVisit e) s = .next (half seen)) ∧
      (∀ d, seen.liveEntry e = some (dir, d, p) → exec (.epochVisit e) s = .next (half (seen.visitMove e d p))))) ∧
  (∀ s : State, s.running = true → s.tiersRun = true → s.epochStart + s.epochTicks ≤ s.ticks → s.allVisited = true →
    let turned := { s with shardWindow := s.shardCounts,
                           shardCounts := s.shardCounts.foldl (fun (t : Tab Word) (x : Nat × Word) => Tab.put 0 t x.1 (halveCounts x.2)) [],
                           visited := [], flashMoved := [], epochStart := s.ticks }
    exec .epochEnd s = .next (if s.assisted 4 then turned else (turned.pickShards 1).pickShards 2).runShards) ∧
  (∀ s : State, s.ticks < s.epochStart + s.epochTicks ∨ s.allVisited = false → exec .epochEnd s = .next s) ∧
  (∀ (e : EntryRef) (s : State) (m : Move) (pg : Prog), s.running = true → s.fnUp 4 0 = true → s.moves.find? (fun m => m.entry == e) = some m →
    m.copied = false → m.prog.err = 0 → s.progOf (whoMove e) = some pg → ∀ bad j,
    (JM.copyBlock m).run (Job.start s (whoMove e) m.port) = (some bad, j) →
    let t := j.s.modProg (whoMove e) fun p => { p with parts := j.parts }
    (bad = none → exec (.moveComplete e) s = .next (t.abandonMove m stBadDescriptor)) ∧
    (∀ l, bad = some l → exec (.moveComplete e) s = .next (t.modMove (whoMove e) fun m => { m with copied := true, bad := l }).settleMoves)) ∧
  ∀ (e : EntryRef) (s : State) (o : OldChunk), s.running = true → s.oldChunks.find? (fun o => o.entry == e) = some o →
    ((∀ h ∈ o.holders, h ∉ s.queue) → exec (.chunkRelease e) s =
      .next ({ s with oldChunks := s.oldChunks.erase o }.freeChunk o.port o.unit o.off o.log2)) ∧
    ((∃ h ∈ o.holders, h ∈ s.queue) → exec (.chunkRelease e) s = .next s)

/-- Taking a chunk from a pool makes exactly its Crumbs unfree, and returning it makes them free again. -/
def Obligations.ChunkAccounting : Prop :=
  (∀ (s t : State) (p u c off : Nat), s.chunks.Nodup → s.allocChunk p u c = some (off, t) →
    t.freeCrumbs p u + 2 ^ c = s.freeCrumbs p u ∧ (⟨u, off, c, p, true⟩ : Chunk) ∈ t.chunks ∧
      ∀ q v, q ≠ p ∨ v ≠ u → t.freeCrumbs q v = s.freeCrumbs q v) ∧
  ∀ (s : State) (p u c off : Nat), s.chunks.Nodup →
    let t := s.freeChunk p u off c
    t.freeCrumbs p u = s.freeCrumbs p u + 2 ^ c ∧ (∀ x ∈ t.chunks, x.used = true → x.unit = u → x.off ≠ off) ∧
      ∀ q v, q ≠ p ∨ v ≠ u → t.freeCrumbs q v = s.freeCrumbs q v

/-- Failed memory checks: a good patrol changes nothing; a failed Crumb, inline-ECC or flash read that is repeated is
recorded at rung 1, and one that no repeat mends poisons its unit; a residue mismatch outside the cores is redone at
rung 1, or at rung 2 once a Sifter has had too many; a bad SRAM word of a core's local store, accumulator tile or side
memory is poisoned and is a machine check.

A unit of memory that fails beyond repair reads as poisoned from then on, and its bytes do not change.

It says that `PATROL`, `CRUMB_CHECK_FAIL`, `FLASH_READ_FAIL`, `RESIDUE`, `SRAM_UNCORRECTED`, `INLINE_ECC_ERROR` complete, and
when. -/
def Obligations.MemoryChecks : Prop :=
  (∀ (s : State), s.running = true →
    (∀ (a u o : Nat), s.locate a = some (u, o) →
      (exec (.patrol a true) s = .next s) ∧
      (u < 8 → s.unitUp u = true → exec (.patrol a false) s = .next (s.poisonUnit a u eCrumbCheck u (BitVec.ofNat 64 a) 2)) ∧
      (8 ≤ u → u < 10 → s.unitUp u = true → exec (.patrol a false) s =
        .next (s.package.2.free.2.poisonUnit a u eLpddrInline s.package.1 (BitVec.ofNat 64 a) s.package.2.free.1)) ∧
      (u < 8 → s.unitGone u = false → s.poisoned a 1 = false →
        (∀ k : Fin 3, k.val < 2 → exec (.crumbCheckFail a k) s =
          .next (s.climb ⟨2, u⟩ (lgSifter u) [0, 1] eCrumbCheck 1 u (BitVec.ofNat 64 a) (BitVec.ofNat 64 (k.val + 1)))) ∧
        exec (.crumbCheckFail a 2) s = .next (s.poisonUnit a u eCrumbCheck u (BitVec.ofNat 64 a) 2)) ∧
      (10 ≤ u → u < 12 → s.unitGone u = false →
        let q := s.flashChannel
        (∀ k : Fin 9, k.val < 8 → q.2.poisoned a 1 = false → exec (.flashReadFail a k) s =
          .next (q.2.climb ⟨3, u % 2⟩ (lgHub (u % 2)) [0, 1] eFlashRead 1 q.1 (BitVec.ofNat 64 (o / 4096)) (BitVec.ofNat 64 (k.val + 1)))) ∧
        exec (.flashReadFail a 8) s = .next (q.2.poisonUnit (a / 4096 * 4096) u eFlashRead q.1 (BitVec.ofNat 64 (o / 4096)) 8)) ∧
      (8 ≤ u → u < 10 → s.unitGone u = false → ∀ y : BitVec 64,
        let q := s.package
        exec (.inlineEccError a 0 y) s = .next (q.2.climb ⟨3, u % 2⟩ (lgHub (u % 2)) [0, 1] eLpddrLink 1 q.1 (BitVec.ofNat 64 a) 1) ∧
        exec (.inlineEccError a 1 y) s = .next (q.2.logEvent (lgHub (u % 2)) [0, 1] eLpddrInline cCorrected 0 0 q.1 (BitVec.ofNat 64 a) y) ∧
        exec (.inlineEccError a 2 y) s = .next (q.2.poisonUnit a u eLpddrInline q.1 (BitVec.ofNat 64 a) y))) ∧
    (∀ (u : FnUnit) (g o : BitVec 64), (s.unitSt u).lost = false →
      (u.fn = 1 → u.unit < 8 → exec (.residue u g o) s = .next (s.climb u (s.fnLog u).1 [0, 1] eResidue 1 (s.fnLog u).2 g o)) ∧
      (u.fn = 2 → u.unit < 10 → exec (.residue u g o) s =
        .next ((s.countClimb u).1.climb u (s.fnLog u).1 [0, 1] eResidue (if (s.countClimb u).2 then 2 else 1) (s.fnLog u).2 g o))) ∧
    (∀ (c : CoreIx) (a : Nat) (y : BitVec 64), a < 0x300000 → a / 8 ∉ (s.core c.val).lsPoison → exec (.sramUncorrected (.coreWord c a) y) s =
      .next ((s.setCore c.val { s.core c.val with lsPoison := (s.core c.val).lsPoison ++ [a / 8] }).machineCheckAt c.val eSramUncorrected cPoisoned
        enIssue (BitVec.ofNat 64 a) y)) ∧
    (∀ (c : CoreIx) (n : Fin 64) (y : BitVec 64), exec (.sramUncorrected (.coreTile c n) y) s =
      .next ((s.setCore c.val { s.core c.val with trees := (s.core c.val).trees.map fun t =>
        if t.tile ≤ n.val ∧ n.val < t.tile + t.tag.tiles then { t with poisoned := true } else t }).machineCheckAt c.val eSramUncorrected cPoisoned
          enIssue (BitVec.ofNat 64 n.val) y)) ∧
    (∀ (c : CoreIx) (n : Fin 8192) (y : BitVec 64), n.val ∉ (s.core c.val).sidePoison → exec (.sramUncorrected (.coreSide c n) y) s =
      .next ((s.setCore c.val { s.core c.val with sidePoison := (s.core c.val).sidePoison ++ [n.val] }).machineCheckAt c.val eSramUncorrected cPoisoned
        enIssue (BitVec.ofNat 64 n.val) y)) ∧
    ∀ (u : FnUnit) (y : BitVec 64), exec (.sramUncorrected (.function u) y) s =
      .next (s.climb u (s.fnLog u).1 [0, 1] eSramUncorrected 2 (s.fnLog u).2 (BitVec.ofNat 64 u.unit) y)) ∧
  (∀ (s : State) (a u o code unit : Nat) (x y : Word), s.locate a = some (u, o) → s.unitGone u = false → s.poisoned a 1 = false →
    (s.poisonUnit a u code unit x y).poisoned a 1 = true ∧ (s.poisonUnit a u code unit x y).dmem = s.dmem ∧
      (s.poisonUnit a u code unit x y).cores = s.cores)

/-- Units that fail and come back: a lost clock takes its function to rung 2; a bridge transfer is replayed at rung 1 and
its last replay climbs to rung 2; a link that resends without progress restarts; a restart that finishes lets the waiting
work go on, and one that fails loses the unit.

`FLASH_WRITE_COMPLETE` puts the oldest page programmed in a hub into tier 2, still poisoned if it was and not all of the page
was new (model choice, log entry 73), and lets what waited go on;
`STREAM_STORE_RUN_EXPIRE` frees the tracker that expects the line and nothing else.

It says that `LINK_REINIT`, `FLASH_WRITE_COMPLETE`, `STREAM_STORE_RUN_EXPIRE`, `REINIT_COMPLETE`, `PLL_LOCK_LOSS`,
`BRIDGE_CRC_FAIL` complete, and when. -/
def Obligations.UnitRecovery : Prop :=
  (∀ s : State,
    (∀ (u : FnUnit) (y : BitVec 64), s.running = true → u.fn ≠ 0 → u.fn ≠ 4 → u.fn ≠ 7 → exec (.pllLockLoss u y) s =
      .next (s.climb u lgDevice [0, 1] eClock 2 u.fn.val (BitVec.ofNat 64 (u.fn.val + u.unit * 2 ^ 16)) y)) ∧
    (∀ (h : Fin 2) (x : BitVec 64), s.running = true → (s.unitSt ⟨3, h.val⟩).lost = false →
      let st := s.unitSt ⟨3, h.val⟩
      let same := st.climbs.filter fun t => t == x.toNat
      (same.length + 1 < s.climbCount 3 → exec (.bridgeCrcFail h x) s =
        .next ((s.setUnitSt ⟨3, h.val⟩ { st with climbs := same ++ [x.toNat] }).climb ⟨3, h.val⟩ (lgHub h.val) [0, 1] eBridge 1 0 x
          (BitVec.ofNat 64 (same.length + 1)))) ∧
      (s.climbCount 3 ≤ same.length + 1 → exec (.bridgeCrcFail h x) s =
        .next ((s.setUnitSt ⟨3, h.val⟩ { st with climbs := [] }).climb ⟨3, h.val⟩ (lgHub h.val) [0, 1] eBridge 2 0 x
          (BitVec.ofNat 64 (same.length + 1))))) ∧
    (∀ l : LinkIx, s.linksRun = true → (s.link l.val).st = .active →
      (s.climbCount 5 ≤ (s.link l.val).resendCount → exec (.linkReinit l) s =
        .next (s.climb ⟨5, l.val⟩ lgLinks [0, 1] eLinkReinit 2 l.val (BitVec.ofNat 64 l.val) 1)) ∧
      ((s.link l.val).resendCount < s.climbCount 5 → (s.link l.val).replay ≠ [] → (s.link l.val).lastAckAt + 2000 ≤ s.ticks →
        exec (.linkReinit l) s = .next (s.climb ⟨5, l.val⟩ lgLinks [0, 1] eLinkReinit 2 l.val (BitVec.ofNat 64 l.val) 2)) ∧
      ((s.link l.val).resendCount < s.climbCount 5 → (s.link l.val).replay = [] → exec (.linkReinit l) s = .next s)) ∧
    ∀ u : FnUnit, s.awake = true → (s.unitSt u).reinit = true →
      exec (.reinitComplete u true) s = .next ((List.range 128).foldl State.restore (s.setUnitSt u { s.unitSt u with reinit := false }).portsResume).goOn ∧
      exec (.reinitComplete u false) s = .next (s.lose u (s.unitSt u).code)) ∧
  ((∀ (h : Fin 2) (s : State) (w : FlashWrite), s.flashWrites.find? (fun w => w.hub == h.val) = some w → s.running = true → s.fnUp 3 h.val = true →
    let t := { s with flashWrites := s.flashWrites.erase w }.dwrite (4096 * w.page) w.data
    exec (.flashWriteComplete h) s =
      .next ((if w.whole = false ∧ s.poisoned (4096 * w.page) 1 = true then t.poisonAt (4096 * w.page) else t).progress).settle) ∧
  (∀ (h : Fin 2) (s : State), s.flashWrites.find? (fun w => w.hub == h.val) = none → exec (.flashWriteComplete h) s = .next s) ∧
  ∀ (src : Fin 130) (line : Nat) (s : State), s.running = true → exec (.streamStoreRunExpire src line) s =
    .next { s with trackers := s.trackers.filter fun t => !(t.src == src.val && t.next == line) })

/-- Taking a message of a class and kind from a link, whose hub is not restarting: either it is the oldest whole one of that
class for this device in the link's receive queue, made of the packets that leave that queue and of no others, its data theirs
in order, and their space that was not given back before is owed as credit of its class; or it is the oldest management message
that came on the link and was put in the device store, whose place it leaves. No other link, no core and no memory changes;
while the hub of the link restarts nothing is taken. -/
def Obligations.MessageTaking : Prop :=
  (∀ (s t : State) (l cls kind : Nat) (m : Msg), s.takeMsg l cls kind = some (m, t) →
    s.fnUp 3 (l / 18) = true ∧
    m.head.kind = kind ∧ (∀ q, q ≠ l → t.link q = s.link q) ∧ t.cores = s.cores ∧ t.dmem = s.dmem ∧ t.remotes = s.remotes ∧
      ((∃ ps, MessageAtHead cls s.devId (s.link l).rxq ps ∧ ps.head? = some m.head ∧ m.body = ps.flatMap (·.body) ∧
          m.units = heldUnits ps ∧
          (let mine (x : Packet) : Bool := x.cls == cls && x.dst == s.devId && x.src == m.head.src
           (s.link l).rxq.filter mine = ps ++ (t.link l).rxq.filter mine ∧
           (s.link l).rxq.filter (fun x => !mine x) = (t.link l).rxq.filter (fun x => !mine x)) ∧
          (t.link l).owed = (s.link l).owed.modify cls (· + m.units) ∧ t.mgIn = s.mgIn ∧
          (cls = clMg → kind ≠ 7 → ∀ x ∈ s.mgIn, x.1 ≠ l)) ∨
        (cls = clMg ∧ kind ≠ 7 ∧ (∃ pre post, s.mgIn = pre ++ (l, m.head) :: post ∧ (∀ x ∈ pre, x.1 ≠ l) ∧ t.mgIn = pre ++ post) ∧
          m.body = m.head.body ∧ t.link l = s.link l))) ∧
  ∀ (s : State) (l cls kind : Nat), s.fnUp 3 (l / 18) = false → s.takeMsg l cls kind = none

/-- Requests of other devices: `SIFT_REQ`, `NU_REQ` and a well-formed `FORWARD` are taken up under the sender's tag and
served; an ill-formed `FORWARD` and `BLOCK_COPY` are answered `BAD_DESCRIPTOR`; a segment that `BLOCK_COPY` brings is
staged and answered `OK`, a block is stored or refused by its own test, and in hardware mode a device over its load takes
neither; a block other than a row block waits while a sweep of its graph computes an iteration; a link that holds no such message, and a block that does not run, do nothing.

`UPDATE_NODE`: the nodes of another rank join the window that takes from it, which is opened where there is none, those of
rows whose home is now another device are passed on to it, and the message is answered `OK`, or waits while a shard of its rows moves; nodes with other window parameters are refused `CHAIN_MISMATCH`, an ill-formed message
`BAD_DESCRIPTOR`, and a table its port may not write with the status that says so. `UPDATE_END` adds the rank to those whose
nodes have all come, if as many have come as it tells of, is answered `OK`, and lets an `APPLY` that waited for it go on.

It says that `SIFT_REQ`, `NU_REQ`, `UPDATE_NODE`, `UPDATE_END`, `FORWARD`, `BLOCK_COPY` complete, and when. -/
def Obligations.RequestMessages : Prop :=
  ∀ (l : LinkIx) (s : State), (s.running = false → exec (.siftReq l) s = .next s ∧ exec (.nuReq l) s = .next s ∧
      exec (.forward l) s = .next s ∧ exec (.blockCopy l) s = .next s) ∧
    (s.running = true →
      (∀ m t, s.takeMsg l.val clRq 1 = some (m, t) → exec (.siftReq l) s =
        .next ((t.newRemote m.head 1 false m.body).resumeOne (whoRemote m.head.src (fld m.head.info.toNat 0 32))).progress) ∧
      (s.takeMsg l.val clRq 1 = none → exec (.siftReq l) s = .next s) ∧
      (∀ m t, s.takeMsg l.val clRq 2 = some (m, t) → exec (.nuReq l) s =
        .next ((t.newRemote m.head 2 false m.body).resumeOne (whoRemote m.head.src (fld m.head.info.toNat 0 32))).progress) ∧
      (s.takeMsg l.val clRq 2 = none → exec (.nuReq l) s = .next s) ∧
      (∀ m t, s.takeMsg l.val clRq 5 = some (m, t) →
        let i := m.head.info.toNat
        ((fieldAt m.body 0 8 = 1 ∨ fieldAt m.body 0 8 = 2) → 8 ≤ m.body.length → exec (.forward l) s =
          .next ((t.newRemote m.head (fieldAt m.body 0 8) true (m.body.drop 8)).resumeOne (whoRemote m.head.src (fld i 0 32))).progress) ∧
        ((fieldAt m.body 0 8 = 0 ∨ 2 < fieldAt m.body 0 8 ∨ m.body.length < 8) → exec (.forward l) s =
          .next (t.sendAnswer m.head.src (fld i 0 32) (fld i 32 1) [] rsBadDescriptor 0))) ∧
      (s.takeMsg l.val clRq 5 = none → exec (.forward l) s = .next s) ∧
      (∀ m t, s.takeMsg l.val clRq 6 = some (m, t) → bfld m.body 0 8 0 3 ≠ 0 → s.sweepTakes (bfld m.body 8 8 0 12) m.head.src = false →
        exec (.blockCopy l) s = .next s) ∧
      (∀ m t, s.takeMsg l.val clRq 6 = some (m, t) → bfld m.body 0 8 0 3 = 0 ∨ s.sweepTakes (bfld m.body 8 8 0 12) m.head.src = true →
        let tag := fld m.head.info.toNat 0 32
        let kind := fld (fieldAt m.body 0 8) 0 3
        let graph := fld (fieldAt m.body 8 8) 0 16
        let index := bfld m.body 16 8 0 48
        let n := fieldAt m.body 24 4
        let u := t.newRemote m.head 6 false []
        let answered (v : State) (status : Nat) : State := (v.endRemote m.head.src tag status 0 []).progress
        let good := kind ≤ 3 ∧ fld (fieldAt m.body 0 8) 7 57 = 0 ∧ fld (fieldAt m.body 8 8) 17 47 = 0 ∧ bfld m.body 16 8 48 16 = 0 ∧
          bfld m.body 24 8 32 32 = 0 ∧ m.body.length = 32 + roundUp n 8 ∧ zeroRange m.body (32 + n) (roundUp n 8 - n) = true
        let loaded := u.assisted 4 = false ∧
          2 ^ fld (u.dreg 0x1028) 8 6 ≤ (t.shardWindow.map fun v => fld v.2.toNat 0 32 + fld v.2.toNat 32 32).sum
        (¬good → exec (.blockCopy l) s = .next (answered u rsBadDescriptor)) ∧
        (good → loaded → exec (.blockCopy l) s = .next (answered u rsNuOverflow)) ∧
        (good → ¬loaded → kind = 2 ∨ kind = 3 → exec (.blockCopy l) s = .next (answered { u with
          staged := (u.staged.filter fun y => !(y.dev == m.head.src && y.kind == kind && y.graph == graph && y.index == index)) ++
            [⟨m.head.src, kind, graph, index, slice m.body 32 n⟩] } rsOk)) ∧
        (good → ¬loaded → ∀ k : Fin 4, k.val = kind → kind < 2 →
          let r := u.storeCopy (whoRemote m.head.src tag) m.head.src ⟨k, BitVec.ofNat 16 graph, bitAt (fieldAt m.body 8 8) 16, index⟩
            (fld (fieldAt m.body 0 8) 3 2) (fld (fieldAt m.body 0 8) 5 2) (slice m.body 32 n)
          exec (.blockCopy l) s = .next (answered r.2 r.1))) ∧
      (s.takeMsg l.val clRq 6 = none → exec (.blockCopy l) s = .next s)) ∧
    (∀ m t, s.takeMsg l.val clRq 3 = some (m, t) →
      let w := fieldAt m.body 0 8
      let table := fld w 0 16
      let ver := bitAt w 16
      let d := fld w 34 12
      let par : WinPar := ⟨fld w 17 4, bitAt w 21, fieldAt m.body 8 8, fld w 22 6, fld w 28 6⟩
      let port := fld m.head.info.toNat 32 1
      let answer (v : State) (st : Nat) : State := v.sendAnswer m.head.src (fld m.head.info.toNat 0 32) port [] st 0
      let good := fld w 46 18 = 0 ∧ 9 ≤ par.s ∧ par.s ≤ 12 ∧ par.rankLevel ≤ par.depth
      (¬good → exec (.updateNode l) s = .next (answer t rsBadDescriptor)) ∧
      (good → t.tableAccess port table true ≠ 0 → exec (.updateNode l) s = .next (answer t (t.tableAccess port table true))) ∧
      ∀ tb, good → t.tableAccess port table true = 0 → t.tableOf table = some tb →
        let ns := (nodesParse par.s tb.len m.body.length (m.body.drop 16)).map fun x => (if x.1 = dfltRecord then none else some x.1, x.2)
        (nodesWhole par.s tb.len m.body.length (m.body.drop 16) = false → exec (.updateNode l) s = .next (answer t rsBadDescriptor)) ∧
        (nodesWhole par.s tb.len m.body.length (m.body.drop 16) = true →
          let here := ns.filter fun n => (t.nodeHome tb ver n.1).1 == t.devId
          let gone := ns.filter fun n => (t.nodeHome tb ver n.1).1 != t.devId
          let joined (x : Window) : Window := { x with
            par := some par, nodes := x.nodes ++ here, srcs := x.srcs ++ here.map (fun _ => m.head.src), away := x.away ++ gone.map (fun _ => (d, m.head.src)) }
          (t.windows = [] → (∀ n ∈ ns, t.shardMoving tb.scope (shardOf table (n.1.getD 0 / 16)) = false) → exec (.updateNode l) s =
            .next (answer (State.passNodes { t with windows := [joined (Window.new port table ver)] } tb ver port par d gone) rsOk)) ∧
          (t.windows = [] → (∃ n ∈ ns, t.shardMoving tb.scope (shardOf table (n.1.getD 0 / 16)) = true) → exec (.updateNode l) s = .next s) ∧
          ∀ x, t.windows = [x] → x.takesNodes port table ver d m.head.src = true →
            (x.par ≠ none → x.par ≠ some par → exec (.updateNode l) s = .next (answer t rsChainMismatch)) ∧
            (x.par = none ∨ x.par = some par → (∀ n ∈ ns, t.shardMoving tb.scope (shardOf table (n.1.getD 0 / 16)) = false) →
              x.closed = false → exec (.updateNode l) s =
                .next (answer (State.passNodes { t with windows := [joined x] } tb ver port par d gone) rsOk)))) ∧
    (∀ m t, s.takeMsg l.val clRq 4 = some (m, t) →
      let w := fieldAt m.body 0 8
      let table := fld w 0 16
      let ver := bitAt w 16
      let d := fld w 17 12
      let port := fld m.head.info.toNat 32 1
      let answer (v : State) (st : Nat) : State := v.sendAnswer m.head.src (fld m.head.info.toNat 0 32) port [] st 0
      let good := fld w 30 2 = 0 ∧ m.body.length = 8
      (¬good → exec (.updateEnd l) s = .next (answer t rsBadDescriptor)) ∧
      (good → t.tableAccess port table true ≠ 0 → exec (.updateEnd l) s = .next (answer t (t.tableAccess port table true))) ∧
      ∀ x, good → t.tableAccess port table true = 0 → t.windows = [x] → x.takesFrom port table ver d = true → x.closed = false →
        (x.wholeFrom d m.head.src (fld w 32 32) = true →
          let u := answer { t with windows := [{ x with ranks := x.ranks ++ [d], froms := x.froms ++ [m.head.src], spoiled := x.spoiled || bitAt w 29 }] } rsOk
          (x.wait = none → exec (.updateEnd l) s = .next u) ∧
          (∀ a, x.wait = some a → exec (.updateEnd l) s = .next (u.runEnds (a.core, a.req) fun v =>
            match v.reqOf a.core a.req with
            | some q => v.runApply a.core q
            | none => v))) ∧
        (x.wholeFrom d m.head.src (fld w 32 32) = false → x.wait = none → exec (.updateEnd l) s = .next (answer t rsOk))) ∧
    (s.takeMsg l.val clRq 3 = none → exec (.updateNode l) s = .next s) ∧ (s.takeMsg l.val clRq 4 = none → exec (.updateEnd l) s = .next s)

/-- Answers and fences: `RESULT` bytes gather under their tag; `STATUS` ends its request's wait and hands over what came;
`MG_ACK` frees its entry; a `FENCE` is noted for its class and answered once it has come in all five classes and every
earlier request is answered; the last `FENCE_ACK` completes the descriptor that sent the fences.

It says that `MG_ACK`, `RESULT`, `STATUS`, `FENCE`, `FENCE_ACK` complete, and when. -/
def Obligations.AnswerMessages : Prop :=
  ∀ (l : LinkIx) (s : State), s.running = true →
    (∀ m t, s.takeMsg l.val clRs 1 = some (m, t) →
      let d := m.head.src
      let tag := fld m.head.info.toNat 0 32
      exec (.result l) s = .next { t with responses := (t.responses.filter fun x => !(x.1 == d && x.2.1 == tag)) ++
        [(d, tag, ((t.responses.find? fun x => x.1 == d && x.2.1 == tag).map (·.2.2)).getD [] ++ m.body)] }) ∧
    (∀ m t, s.takeMsg l.val clRs 2 = some (m, t) →
      let d := m.head.src
      let tag := fld m.head.info.toNat 0 32
      let st := fld (fieldAt m.body 0 8) 0 8
      let b := ((t.responses.find? fun x => x.1 == d && x.2.1 == tag).map (·.2.2)).getD []
      let u := { t with responses := t.responses.filter (fun x => !(x.1 == d && x.2.1 == tag)), rqOut := t.rqOut.erase (d, tag) }
      (∀ who, u.askOwner d tag = some who → st = 0 → exec (.status l) s = .next (u.modProg who fun p =>
        { p with asks := p.asks.filter (fun a => !(a.dev == d && a.tag == tag)),
                 parts := p.parts ++ (p.asks.filter fun a => a.dev == d && a.tag == tag).flatMap
                   fun a => partsOf a b (fld (fieldAt m.body 0 8) 16 48) }).progress) ∧
      (∀ who, u.askOwner d tag = some who → st ≠ 0 → exec (.status l) s = .next (u.modProg who fun p =>
        { p with asks := p.asks.filter (fun a => !(a.dev == d && a.tag == tag)), err := if p.err = 0 then st else p.err }).progress) ∧
      (u.askOwner d tag = none → exec (.status l) s = .next (u.copyAnswered d tag st).progress)) ∧
    (∀ m t, s.takeMsg l.val clMg 7 = some (m, t) → exec (.mgAck l) s = .next (t.mgAcked m.head.src (fld m.head.info.toNat 0 16))) ∧
    (∀ m t, s.takeMsg l.val clMg 15 = some (m, t) →
      let d := m.head.src
      let id := fld m.head.info.toNat 0 32
      (t.fencesIn.find? fun f => f.dev == d && f.id == id) = none → t.fencesIn = [] →
      exec (.fence l) s = .next { t with fencesIn := [⟨d, id, [clMg], []⟩] }) ∧
    (∀ c m t f, [clMg, clRq, clRs, clRd, clBc].findSome? (fun c => (s.takeMsg l.val c 15).map fun x => (c, x)) = some (c, m, t) →
      t.fencesIn = [f] → f.dev = m.head.src → f.id = fld m.head.info.toNat 0 32 → f.classes.length = 4 →
      let tags := if c = clRq then (t.remotes.filter fun r => r.dev == f.dev).map (·.tag) else f.tags
      ((∀ r ∈ t.remotes, r.dev = f.dev → r.tag ∉ tags) → exec (.fence l) s =
        .next ({ t with fencesIn := [] }.sendMsg f.dev clRs 14 f.id [])) ∧
      ((∃ r ∈ t.remotes, r.dev = f.dev ∧ r.tag ∈ tags) → exec (.fence l) s =
        .next { t with fencesIn := [{ f with classes := f.classes ++ [c], tags := tags }] })) ∧
    (∀ m t f, s.takeMsg l.val clRs 14 = some (m, t) → t.fences.find? (fun f => f.id == fld m.head.info.toNat 0 32) = some f →
      ((∀ d ∈ f.waiting, d = m.head.src) → exec (.fenceAck l) s =
        .next ({ t with fences := t.fences.filter fun x => x.id != fld m.head.info.toNat 0 32 }.completeWith f.ring f.pos stOk)) ∧
      ((∃ d ∈ f.waiting, d ≠ m.head.src) → exec (.fenceAck l) s =
        .next { t with fences := t.fences.map fun x =>
          if x.id = fld m.head.info.toNat 0 32 then { x with waiting := f.waiting.filter (· != m.head.src) } else x }))

/-- Management messages: `PREPARE` is acknowledged and answered by this device's own test of the switch; the last `ANSWER`
flips the table here and sends `COMMIT` to the rest of the pod, or refuses the switch; `COMMIT` flips on receipt;
`MAP_CHANGE` changes the map entry at once; the last `MAP_ACK` frees the shard's storage.

Sweep messages and time limits: an end marker is acknowledged, kept with its iteration and value, and the sweep goes
on; a marker that does not come in time ends the sweep `RANK_MISSING` with the plane that was read.

It says that `SWEEP_TIMEOUT`, `PREPARE`, `ANSWER`, `COMMIT`, `MAP_CHANGE`, `MAP_ACK`, `SWEEP_END` complete, and when. -/
def Obligations.ManagementMessages : Prop :=
  (∀ (l : LinkIx) (s : State), s.running = true →
    (∀ m t, s.takeMsg l.val clMg 1 = some (m, t) →
      let i := fld m.head.info.toNat 0 48
      exec (.prepare l) s = .next ((t.ackMg m.head).sendMg m.head.src 2 i (natLe 8 (if t.switchOk (fld i 0 16) 1 (fld i 17 1) then 1 else 0)))) ∧
    (∀ m t, s.takeMsg l.val clMg 2 = some (m, t) →
      let u := t.ackMg m.head
      ∀ w, u.switches.find? (fun w => w.info (u.ringPort w.ring) == fld m.head.info.toNat 0 48 && w.waiting.contains m.head.src) = some w →
        let rest := { u with switches := u.switches.filter fun x => x != w }
        let yes := bitAt (fieldAt m.body 0 8) 0
        (w.waiting = [m.head.src] →
          (w.refused = false → yes = true →
            let f := rest.flip w.table w.version
            let v := ((f.scopeOthers 1).foldl (fun s d => s.sendMg d 3 (w.info (s.ringPort w.ring)) []) f).completeWith w.ring w.pos stOk
            exec (.answer l) s = .next (v.startSwitches w.table (v.switches.length + 1))) ∧
          (w.refused = true ∨ yes = false →
            let v := rest.completeWith w.ring w.pos stBadDescriptor
            exec (.answer l) s = .next (v.startSwitches w.table (v.switches.length + 1)))) ∧
        ((∃ d ∈ w.waiting, d ≠ m.head.src) →
          let w' := { w with waiting := w.waiting.filter (· != m.head.src), refused := w.refused || !yes }
          exec (.answer l) s = .next { u with switches := updWhere (fun x => x == w) (fun _ => w') u.switches })) ∧
    (∀ m t, s.takeMsg l.val clMg 3 = some (m, t) → exec (.commit l) s =
      .next ((t.ackMg m.head).flip (fld m.head.info.toNat 0 16) (bitAt m.head.info.toNat 16))) ∧
    (∀ m t, s.takeMsg l.val clMg 4 = some (m, t) →
      let i := fld m.head.info.toNat 0 26
      let u := (t.ackMg m.head).setEntry16 (if fld i 12 2 = 1 then 0x34000 else 0x36000) (fld i 0 12) (fld (fieldAt m.body 0 8) 0 16)
      exec (.mapChange l) s = .next (State.progress { u with
        staged := u.staged.filter (fun x => x.dev != m.head.src),
        mapWaits := u.mapWaits ++ [(⟨m.head.src, i, u.openTags m.head.src, u.nuOpen⟩ : MapWait)] })) ∧
    (∀ m t, s.takeMsg l.val clMg 5 = some (m, t) →
      let u := t.ackMg m.head
      ∀ x, u.shardMoves.find? (fun x => x.shard == fld m.head.info.toNat 0 12 && x.scope == fld m.head.info.toNat 12 2 && x.transferred) = some x →
        let x' := { x with acks := x.acks.filter (· != m.head.src) }
        exec (.mapAck l) s = .next ((u.modShard x.who fun _ => x').endShard x').progress)) ∧
  (∀ s : State,
    (∀ (l : LinkIx) m t, s.takeMsg l.val clMg 6 = some (m, t) → let i := m.head.info.toNat
      exec (.sweepEnd l) s = .next ((State.ackMg { t with
        sweepMarks := t.sweepMarks ++ [(fld i 0 12, m.head.src, fld i 12 16, BitVec.ofNat 64 (fieldAt m.body 0 8))] } m.head).runSweeps (fld i 0 12))) ∧
    (∀ l : LinkIx, s.takeMsg l.val clMg 6 = none → exec (.sweepEnd l) s = .next s) ∧
    ∀ (g : Fin 4096) (gr : Graph) (w : Sweep), s.graphOf g.val = some gr → s.sweepOf g.val = some w →
      (w.computed = true → w.since + w.limit ≤ s.ticks → (∃ d ∈ s.scopeOthers gr.scope, ∀ m ∈ s.marksOf w, m.1 ≠ d) → exec (.sweepTimeout g) s =
        .next ((s.finishSweep w stRankMissing w.iter w.readPlane w.delta).runSweeps g.val)) ∧
      ((w.computed = false ∨ s.ticks < w.since + w.limit) → exec (.sweepTimeout g) s = .next s))

/-- Channel and fabric descriptors: a set-up asks the host for its record as other set-ups do, and a checked record is stored
for its channel; an arm takes a free channel, waits behind one that is armed, and for those accepted before it; `FABRIC_FENCE` sends a `FENCE` in each class to every device named, or completes at once when
there is none; answers that do not come in time end the fence `FABRIC_TIMEOUT` and the channel's arm aborted.

Channel messages: an armed send channel with its `go` at 0 and a grant sends its message once, and an aborted `go` ends its
arm; a receive channel takes the message it has granted into its buffer, acknowledges it, carries it on to `next` and is done,
a broadcast one packet by packet, and one that is too long ends the arm; in add mode the record that has come is added to; the
acknowledgement ends the sender's arm; a grant is kept by the send channel it names, or for a slice to be passed on; an `ABORT`
of the peer ends the arm; the record of a slice reaches the work that granted it space, which goes on.

It says that `CHANNEL_SETUP`, `CHANNEL_ARM`, `FABRIC_FENCE`, `GRANT`, `CHANNEL_SEND`, `RECORD`, `KNEAD`, `BLOCK`, `CHAN_ACK`,
`ABORT`, `CHANNEL_TIMEOUT`, `FABRIC_TIMEOUT` complete, and when. -/
def Obligations.ChannelCommands : Prop :=
  ((∀ (r : RingIx) (pos : Nat) (ans : HostAns) (s : State) (e : Live), s.descAny r.val pos 0x28 = some e →
    unnamed e.entry [(64, 64)] = false →
    let asked := s.setupAsked r.val pos (fieldAt e.entry 8 8)
    (asked.setupSent r.val pos = none →
      ((asked.accs.any fun a => a.why == .setup r.val pos) = true → exec (.channelSetup r pos ans) s = .next asked) ∧
      ((asked.accs.any fun a => a.why == .setup r.val pos) = false → exec (.channelSetup r pos ans) s = .next (asked.completeWith r.val pos stHostFault))) ∧
    ∀ a, asked.setupSent r.val pos = some a →
      let u := (asked.dropAcc a.id).settleInvals
      (hostWhole ans 64 = none → exec (.channelSetup r pos ans) s = .next
        ((u.report (lgPort (u.ringPort r.val)) [] eHostFault r.val (fieldAt e.entry 8 8) 0).completeWith r.val pos stHostFault)) ∧
      ∀ b, hostWhole ans 64 = some b →
        let ch := fld (fieldAt b 0 8) 0 12
        let ok := u.chanOk (u.ringPort r.val) (u.ringFn r.val) b
        (ok = true → (u.chan ch).arm = none → exec (.channelSetup r pos ans) s =
          .next ((u.setChan ch { rcd := some (ChanRec.parse b) }).completeWith r.val pos stOk)) ∧
        (ok = true → (u.chan ch).arm ≠ none → exec (.channelSetup r pos ans) s = .next (u.completeWith r.val pos stClaimConflict)) ∧
        (ok = false → exec (.channelSetup r pos ans) s = .next (u.completeWith r.val pos stBadDescriptor))) ∧
  (∀ (r : RingIx) (pos : Nat) (s : State) (e : Live), s.descOf r.val pos 0x29 = some e → unnamed e.entry [(64, 12)] = false →
    let ch := bfld e.entry 8 4 0 12
    s.owns (s.ringPort r.val) (s.ringFn r.val) .chan ch = true → (s.chan ch).rcd ≠ none →
    let names (e : Live) : Nat := bfld e.entry 8 4 0 12
    (s.earlierNames 0x29 e names = true → exec (.channelArm r pos) s = .next s) ∧
    (s.earlierNames 0x29 e names = false → ((s.begin r.val pos).chan ch).arm = none → exec (.channelArm r pos) s = .next ((s.begin r.val pos).armChan ch r.val pos)) ∧
    (s.earlierNames 0x29 e names = false → ((s.begin r.val pos).chan ch).arm ≠ none → exec (.channelArm r pos) s =
      .next ((s.begin r.val pos).setChan ch { (s.begin r.val pos).chan ch with waiting := ((s.begin r.val pos).chan ch).waiting ++ [(r.val, pos)] }))) ∧
  (∀ (r : RingIx) (pos : Nat) (s : State) (e : Live), s.descOf r.val pos 0x2A = some e → unnamed e.entry [(64, 2), (80, 12)] = false →
    let w := fieldAt e.entry 8 4
    let dev := fld w 16 12
    fld w 0 2 ≠ 3 →
    let ds := if fld w 0 2 = 0 then [dev] else s.others (fld w 0 2 == 2)
    (ds = [] → exec (.fabricFence r pos) s = .next (s.completeWith r.val pos stOk)) ∧
    (ds ≠ [] → exec (.fabricFence r pos) s = .next (ds.foldl (fun s' d =>
        [clMg, clRq, clRs, clRd, clBc].foldl (fun s' c => s'.sendMsg d c 15 s.nextFence []) s')
      { s.begin r.val pos with nextFence := (s.nextFence + 1) % 2 ^ 32,
                               fences := (s.begin r.val pos).fences ++ [⟨r.val, pos, s.nextFence, ds, (s.begin r.val pos).ticks, (s.begin r.val pos).channelLimit⟩] }))) ∧
  (∀ (r : RingIx) (pos : Nat) (s : State) (f : FenceWait), s.fences.find? (fun f => f.ring == r.val && f.pos == pos) = some f → s.running = true →
    (f.since + f.limit ≤ s.ticks → exec (.fabricTimeout r pos) s =
      .next ({ s with fences := s.fences.filter fun x => x != f }.completeWith r.val pos stFabricTimeout)) ∧
    (s.ticks < f.since + f.limit → exec (.fabricTimeout r pos) s = .next s)) ∧
  ∀ (ch : ChanIx) (s : State) (r pos since lim : Nat), s.running = true → (s.chan ch.val).arm = some (r, pos, since, lim) →
    (since + lim ≤ s.ticks → (s.chan ch.val).sentMsg = false → (s.chan ch.val).whole = false →
      exec (.channelTimeout ch) s = .next (s.chanAbort ch.val abTimeout)) ∧
    ((s.ticks < since + lim ∨ (s.chan ch.val).sentMsg = true ∨ (s.chan ch.val).whole = true) → exec (.channelTimeout ch) s = .next s)) ∧
  ((∀ (ch : ChanIx) (s : State) (c : ChanRec), (s.chan ch.val).rcd = some c → s.running = true → (s.chan ch.val).arm ≠ none →
    (s.chan ch.val).sentMsg = false →
    ((s.sync c.go).aborted = true → exec (.channelSend ch) s = .next (s.chanAbort ch.val abGo)) ∧
    ((s.sync c.go).aborted = false → (s.sync c.go).count ≠ 0 → exec (.channelSend ch) s = .next s) ∧
    ((s.sync c.go).aborted = false → (s.sync c.go).count = 0 →
      (c.send = true →
        ((s.chan ch.val).grant = none → exec (.channelSend ch) s = .next s) ∧
        ((s.chan ch.val).grant ≠ none →
          (c.add = true → exec (.channelSend ch) s = .next (s.addMode ch.val c)) ∧
          (c.add = false →
            (∀ b, s.plainMsg c = some b → exec (.channelSend ch) s = .next ((s.memRead false .general c.buf b.length).2.sendChan ch.val c b)) ∧
            (s.plainMsg c = none → exec (.channelSend ch) s = .next
              ((s.notePoison c.buf (if c.bc then c.len else (recordLen (s.dbytes c.buf 32)).getD 32)).chanAbort ch.val abCheck))))) ∧
      (c.send = false → exec (.channelSend ch) s = .next (if c.add && (s.chan ch.val).whole then s.addMode ch.val c else s)))) ∧
  (∀ (l : LinkIx) (s t : State) (m : Msg) (c : ChanRec), s.running = true →
    let ch := fld m.head.info.toNat 0 12
    let k := t.chan ch
    let b := k.got ++ m.body
    k.rcd = some c → c.send = false → c.peer = m.head.src → c.peerChan = fld m.head.info.toNat 12 12 →
    k.arm ≠ none → k.granted = true → k.whole = false →
    let taken (v : State) := ((v.modChan ch fun k => { k with got := b, whole := true }).generalWrite none false c.buf b).sendMsg c.peer clRs 4 (c.info ch) []
    (s.takeMsg l.val clRd 1 = some (m, t) → c.bc = false →
      (c.bufSize < b.length → exec (.record l) s = .next (t.chanAbort ch abTooLong)) ∧
      (b.length ≤ c.bufSize → c.add = false →
        (c.next = none → exec (.record l) s = .next ((taken t).chanDone ch c)) ∧
        (∀ n d, c.next = some n → (t.chan n).rcd = some d → exec (.record l) s = .next (((taken t).sendChan n d b).chanDone ch c))) ∧
      (b.length ≤ c.bufSize → c.add = true → ∀ r, Rec.parse m.body = some r →
        (r.hdr.arith ≠ 0 → exec (.record l) s = .next (t.chanAbort ch abCheck)) ∧
        (r.hdr.arith = 0 → ((taken t).sync c.go).aborted = false →
          (((taken t).sync c.go).count ≠ 0 → exec (.record l) s = .next (taken t)) ∧
          (((taken t).sync c.go).count = 0 → exec (.record l) s = .next ((taken t).addMode ch c))))) ∧
    (s.takeBlock l.val = some (m, t) → c.bc = true →
      (c.bufSize < b.length → exec (.block l) s = .next (t.chanAbort ch abTooLong)) ∧
      (b.length ≤ c.bufSize → c.add = false →
        let on (d : ChanRec) (n : Nat) : Packet := { m.head with src := t.devId, dst := d.peer, hops := 0, info := BitVec.ofNat 64 (d.info n) }
        (m.head.last = false →
          (c.next = none → exec (.block l) s = .next (t.modChan ch fun k => { k with got := b, whole := false })) ∧
          (∀ n d, c.next = some n → (t.chan n).rcd = some d → exec (.block l) s =
            .next (((t.modChan n fun k => k).bcSend n [on d n]).modChan ch fun k => { k with got := b, whole := false }))) ∧
        (m.head.last = true →
          (c.next = none → exec (.block l) s = .next ((taken t).chanDone ch c)) ∧
          (∀ n d, c.next = some n → (t.chan n).rcd = some d → exec (.block l) s =
            .next ((taken ((t.modChan n fun k => { k with grant := none, sentMsg := true }).bcSend n [on d n])).chanDone ch c)))))) ∧
  (∀ (l : LinkIx) (s t : State) (m : Msg) (c : ChanRec), s.running = true →
    let ch := fld m.head.info.toNat 0 12
    (t.chan ch).rcd = some c → c.peer = m.head.src → c.peerChan = fld m.head.info.toNat 12 12 →
    (s.takeMsg l.val clRs 4 = some (m, t) → c.send = true → (t.chan ch).sentMsg = true → exec (.chanAck l) s = .next (t.chanDone ch c)) ∧
    (s.takeMsg l.val clRs 3 = some (m, t) → c.send = true →
      let u := t.setChan ch { t.chan ch with grant := some (bfld m.body 0 8 0 25) }
      exec (.grant l) s = .next ((u.channels.map (·.1)).foldl (fun s i =>
        if ((s.chan i).rcd.bind (·.next)) = some ch then s.tryGrant i else s) u)) ∧
    ((s.takeMsg l.val clRd 3 = some (m, t) ∨ (s.takeMsg l.val clRd 3 = none ∧ s.takeMsg l.val clBc 3 = some (m, t))) →
      exec (.abort l) s = .next (t.chanAbort ch abReceived))) ∧
  ∀ (l : LinkIx) (s t : State) (m : Msg), s.running = true →
    let num := fld m.head.info.toNat 0 12
    (s.takeMsg l.val clRs 3 = some (m, t) → fld m.head.info.toNat 12 12 = 0 → t.podTable.contains m.head.src = true → (t.chan num).rcd = none →
      exec (.grant l) s = .next { t with kneadGrants := t.kneadGrants ++ [(m.head.src, num, bfld m.body 0 8 0 25)] }.progress) ∧
    (s.takeMsg l.val clRd 2 = some (m, t) →
      (∀ k, t.kneads.find? (fun k => k.num == num && k.dev == m.head.src) = some k → exec (.knead l) s =
        .next (State.modProg { t with kneads := t.kneads.erase k } k.who fun p =>
          { p with parts := p.parts ++ [⟨.knead k.list k.slice, m.body, false, k.dev⟩] }).progress) ∧
      (t.kneads.find? (fun k => k.num == num && k.dev == m.head.src) = none → exec (.knead l) s = .next t)))

/-- A packet on the wire reads back as the packet it was, and is not discarded. -/
def Obligations.PacketRoundTrip : Prop :=
  ∀ p : Packet, kindOk p.cls p.kind = true → p.src < 4096 → p.dst < 4096 → p.hops < 3 → p.kind < 16 →
    p.info.toNat &&& infoMask p.cls p.kind = p.info.toNat → (p.cls = clLk → p.dst = 0) → p.body.length % 8 = 0 → p.body.length ≤ 2048 →
    p.bytes.length = 8 * p.units ∧ headUnits p.bytes = some p.units ∧ Packet.parse p.bytes p.units = (p, 0)

/-- Bring-up of a link: `DETECT` ends phase 1 when a cable is mated; a phase that overruns its limit goes back to phase 1
once and then leaves the link `DOWN`; an accepted `IDENT` of the peer ends phase 5 and another is reported; phase 5 sends
`IDENT`; `CREDIT` returns credits by class; a training flit moves the filter taps in phase 2, ends that phase when both ends have
converged, of which this end's is a free value (model choice, log entry 41), ends phase 3 and counts in phase 4, which 64 good
flits in a row end once the set-up lock is set; a link whose re-initialisation fails twice is lost.

It says that `TRAIN_FLIT`, `DETECT`, `LINK_PHASE_TIMEOUT`, `IDENT`, `CREDIT`, `IDENT_INTERVAL` complete, and when. -/
def Obligations.LinkBringUp : Prop :=
  ∀ (l : LinkIx) (s : State), s.linksRun = true → let k := s.link l.val
    ((k.phase = 1 → s.cabled l.val = true →
        (k.st = .training → exec (.detect l) s = .next (s.setLink l.val { k with phase := 2, since := s.ticks, goodFlits := 0 })) ∧
        (k.st = .reinit → k.retried = false → exec (.detect l) s = .next (s.setLink l.val { k with phase := 3, since := s.ticks, goodFlits := 0 })) ∧
        (k.st = .reinit → k.retried = true → exec (.detect l) s = .next (s.setLink l.val { k with phase := 2, since := s.ticks, goodFlits := 0 }))) ∧
      ((k.phase ≠ 1 ∨ s.cabled l.val = false) → exec (.detect l) s = .next s)) ∧
    ((k.phase = 2 ∨ k.phase = 3 ∨ k.phase = 4 ∧ k.goodFlits ≠ 64 ∨ k.phase = 6 ∨ k.phase = 1 ∧ (s.cabled l.val = true ∨ k.st ≠ .training)) →
      k.since + phaseLimit k.phase < s.ticks →
      (k.retried = false → exec (.linkPhaseTimeout l) s = .next (s.setLink l.val
        { k.afresh with phase := 1, since := s.ticks, goodFlits := 0, retried := true, localConverged := false, peerConverged := false })) ∧
      (k.retried = true → k.st = .reinit → exec (.linkPhaseTimeout l) s = .next (s.lose ⟨5, l.val⟩ eLinkReinit)) ∧
      (k.retried = true → k.st ≠ .reinit → exec (.linkPhaseTimeout l) s = .next (s.linkGone l.val .down))) ∧
    ((k.phase = 5 ∨ k.phase = 0 ∨ k.phase = 4 ∧ k.goodFlits = 64 ∨ k.phase = 1 ∧ k.st = .training ∧ s.cabled l.val = false ∨ s.ticks ≤ k.since + phaseLimit k.phase) →
      exec (.linkPhaseTimeout l) s = .next s) ∧
    (k.st = .reinit → k.afresh = k) ∧
    (k.st ≠ .reinit → k.afresh.txSeq = 0 ∧ k.afresh.rxSeq = 0 ∧ k.afresh.replay = [] ∧ k.afresh.credSent = false ∧ k.afresh.credGot = false) ∧
    (∀ p t, s.locked = true → s.takeLk l.val 1 = some (p, t) → k.phase = 5 →
      let w := fieldAt p.body 0 8
      let id := fld w 0 12
      let k' := t.link l.val
      (id ≠ s.devId → (fld w 18 12 ≠ s.podId ∨ id ∈ s.podTable) → exec (.ident l) s = .next (t.setLink l.val
        { k' with phase := 6, since := s.ticks, goodFlits := 0, peerId := id, peerLink := fld w 12 6, peerValid := true,
                  txq := lkPacket s.devId 1 (s.identBody l.val) :: k'.txq })) ∧
      (id = s.devId → exec (.ident l) s = .next (t.report lgLinks [0, 1] eLinkDown l.val l.val 5))) ∧
    (s.locked = true → k.phase = 5 → exec (.identInterval l) s =
      .next (s.setLink l.val { k with txq := lkPacket s.devId 1 (s.identBody l.val) :: k.txq })) ∧
    ((s.locked = false ∨ k.phase ≠ 5) → exec (.identInterval l) s = .next s) ∧
    (∀ p t, s.takeLk l.val 2 = some (p, t) → exec (.credit l) s = .next (t.setLink l.val
      ({ t.link l.val with credits := (t.link l.val).credits.zipIdx.map fun (v, i) => v + fieldAt p.body (2 * i) 2, credGot := true } : Link).activate)) ∧
    ∀ (b d : Bytes) (x y : BitVec 12) (n : Bool), readFlit b = some (d, x, y, 2, n) →
      (k.phase = 3 → exec (.trainFlit l b) s = .next (s.setLink l.val { k with phase := 4, since := s.ticks, goodFlits := 0 })) ∧
      (k.phase = 4 →
        (k.goodFlits < 63 → exec (.trainFlit l b) s = .next (s.setLink l.val { k with goodFlits := k.goodFlits + 1 })) ∧
        (63 ≤ k.goodFlits → k.st ≠ .reinit →
          (s.locked = true → exec (.trainFlit l b) s = .next (s.setLink l.val { k with phase := 5, since := s.ticks, goodFlits := 0 })) ∧
          (s.locked = false → exec (.trainFlit l b) s = .next (s.setLink l.val { k with goodFlits := 64 })))) ∧
      (k.phase = 2 →
        let k' := { k with taps := k.taps.zipIdx.map fun (v, i) => if i / 3 = fld (fieldAt d 4 1) 0 1 then tapStep v (fld (fieldAt d 5 1) (2 * (i % 3)) 2) else v,
                           peerConverged := bitAt (fieldAt d 4 1) 7, localConverged := bitAt s.free.1.toNat 0 }
        exec (.trainFlit l b) s = .next (s.free.2.setLink l.val
          (if bitAt (fieldAt d 4 1) 7 && bitAt s.free.1.toNat 0 then { k' with phase := 3, since := s.ticks, goodFlits := 0 } else k')))

/-- Traffic on an active link: the flit that is expected is taken, its 236 payload bytes follow those received before and
the packets they complete are taken; another only asks for a resend; one that does not decode does the same; an idle flit
carries its acknowledgement. What is queued goes out in a flit that the replay buffer keeps, an idle flit goes out when nothing
is queued, and what was asked for again goes out again. A packet for another device goes on toward it with one hop more, and is discarded after two.

Acknowledgements: one within the replay buffer removes exactly the flits up to it, one outside changes nothing, and a
`nak` starts the resending of what remains.

It says that `DATA_FLIT`, `IDLE_FLIT`, `PACKET_TRANSIT`, `FLIT_TRANSMIT` complete, and when. -/
def Obligations.LinkTraffic : Prop :=
  (∀ (l : LinkIx) (s : State), s.linksRun = true → (s.link l.val).st = .active → (s.link l.val).phase = 0 → let k := s.link l.val
    (∀ (b d : Bytes) (seq ack : BitVec 12) (nak : Bool),
      (readFlit b = some (d, seq, ack, 0, nak) → let k' := k.acked ack nak s.ticks
        (seq = k.rxSeq → exec (.dataFlit l b) s = .next ((s.setLink l.val
          { k' with rxSeq := k.rxSeq + 1, nakSend := false, rxBytes := k.rxBytes ++ slice d 4 236 }).parsePackets l.val ((k.rxBytes.length + 236) / 8 + 1))) ∧
        (seq ≠ k.rxSeq → exec (.dataFlit l b) s = .next (s.setLink l.val { k' with nakSend := true }))) ∧
      (readFlit b = some (d, seq, ack, 1, nak) → exec (.idleFlit l b) s = .next (s.setLink l.val (k.acked ack nak s.ticks)))) ∧
    (∀ b : Bytes, readFlit b = none → exec (.dataFlit l b) s = .next (s.setLink l.val { k with goodFlits := if k.goodFlits = 64 then 64 else 0, nakSend := true }) ∧
      exec (.idleFlit l b) s = .next (s.setLink l.val { k with goodFlits := if k.goodFlits = 64 then 64 else 0, nakSend := true })) ∧
    (k.replay = [] → k.txq = [] → k.txBytes = [] → (∀ x ∈ k.owed, x = 0) → k.resending = false → exec (.flitTransmit l) s =
      .next ((s.setLink l.val { k with sinceIdle := 0 }).emit (.flit l.val (k.flit (k.txSeq - 1) 1 [])))) ∧
    (k.resending = false → k.sinceIdle < 4095 → k.replay.length < 1024 →
      let k1 := (k.creditDue s.devId).fill 64
      let pad := roundUp (236 - k1.txBytes.length) 8
      let b := k1.txBytes ++ List.replicate pad 0#8
      k1.txFill < k1.txBytes.length →
      ∃ k2 : Link, exec (.flitTransmit l) s = .next ((s.setLink l.val k2).emit (.flit l.val (k2.flit k1.txSeq 0 (b.take 236)))) ∧
        k2.txSeq = k1.txSeq + 1 ∧ k2.replay = k1.replay ++ [(k1.txSeq, b.take 236)] ∧ k2.txBytes = b.drop 236 ∧ k2.txq = k1.txq ∧
        k2.credits = k1.credits ∧ k2.sinceIdle = k.sinceIdle + 1 ∧ k2.st = .active) ∧
    (∀ f, k.resending = true → k.sinceIdle < 4095 → k.replay[k.resendFrom]? = some f → s.assisted 5 = false → k.resendFrom + 1 < k.replay.length →
      exec (.flitTransmit l) s = .next (((s.setLink l.val
        { k with sinceIdle := k.sinceIdle + 1, resends := k.resends + 1, resendFrom := k.resendFrom + 1 }).emit
        (.flit l.val (k.flit f.1 0 f.2))).logEvent lgLinks [0, 1] eLinkFlit cRecovered 1 0 l.val (BitVec.ofNat 64 l.val) (BitVec.ofNat 64 (k.resends + 1)))) ∧
    ∀ p, s.running = true → k.rxq.find? (fun p => p.cls != clLk && p.dst != s.devId) = some p →
      let t := s.setLink l.val { k with rxq := k.rxq.erase p, owed := k.owed.modify p.cls (· + p.units) }
      (p.hops = 2 → exec (.packetTransit l) s = .next (t.discard l.val dcHops)) ∧
      (p.hops ≠ 2 → ∀ o, t.routeOf p.dst = some o → exec (.packetTransit l) s =
        .next (t.setLink o { t.link o with txq := (t.link o).txq ++ [{ p with hops := p.hops + 1 }] })) ∧
      (p.hops ≠ 2 → t.routeOf p.dst = none → exec (.packetTransit l) s = .next (t.discard l.val dcRoute))) ∧
  (∀ (k : Link) (a b : List (BitVec 12 × Bytes)) (f : BitVec 12 × Bytes) (now : Nat),
    k.replay = a ++ f :: b → k.replay.length ≤ 1024 → k.resending = false →
    (∀ (i : Nat) (h : i < k.replay.length) (h0 : 0 < k.replay.length), (k.replay[i]).1 = (k.replay[0]).1 + BitVec.ofNat 12 i) →
    (k.acked f.1 false now).replay = b ∧ (k.acked f.1 false now).resendCount = 0 ∧ (k.acked f.1 false now).lastAckAt = now ∧
      ((k.acked f.1 true now).replay = b ∧ (k.acked f.1 true now).resending = !b.isEmpty) ∧
      ∀ x : BitVec 12, (∀ g ∈ k.replay, g.1 ≠ x) → k.acked x false now = k)

/-- Host windows and configuration: a read of the enabled aperture returns the bytes it names, with the poison
attribute, one outside returns all ones, and so does one of memory the port does not reach, which is logged; a write stores,
except to tier 2, where it is ignored and logged, as one that the port does not reach is; both wait for a unit that
restarts; configuration requests are answered
with a retry status before the port is released, and afterwards read and write the fields; clearing Bus Master Enable and
D3hot hold a function's requests, retraining changes nothing, and unmasking a usable vector sends what it holds.

The enables of a function and its payload size read as they were last written, an unsupported size leaving the field as it
is, and writing an enable changes no other function's.

It says that `BAR4_READ`, `BAR4_WRITE`, `CONFIG_REQUEST`, `BUS_MASTER_ENABLE_CLEAR`, `D3HOT`, `LINK_RETRAIN`, `MSIX_UNMASK`
complete, and when. -/
def Obligations.HostWindows : Prop :=
  (∀ (p : PortIx) (s : State),
    (s.barOpen p.val 0 = true → let v := s.dropLatch p.val
      (∀ off len, s.bar4Addr p.val off len = none → exec (.bar4Read p off len) s = .next (v.emit (.readData p.val (List.replicate len 0xFF#8) false))) ∧
      (∀ off len a, s.bar4Addr p.val off len = some a → s.reach p.val a len = none → exec (.bar4Read p off len) s =
        .next ((v.accessLog p.val 0 a accRange).emit (.readData p.val (List.replicate len 0xFF#8) false))) ∧
      (∀ off len a k u, s.bar4Addr p.val off len = some a → s.reach p.val a len = some (k, u) →
        (v.portWaits (.read p.val a len) = false → v.reach p.val a len = some (k, u) → exec (.bar4Read p off len) s =
          .next ((v.memRead false k a len).2.emit (.readData p.val (v.memRead false k a len).1.1 (v.memRead false k a len).1.2))) ∧
        (v.portWaits (.read p.val a len) = true → exec (.bar4Read p off len) s = .next { v with portIn := v.portIn ++ [.read p.val a len] })) ∧
      (∀ off (d : Bytes), s.bar4Addr p.val off d.length = none → exec (.bar4Write p off d) s = .next v) ∧
      (∀ off (d : Bytes) a, s.bar4Addr p.val off d.length = some a → s.reach p.val a d.length = none →
        exec (.bar4Write p off d) s = .next (v.accessLog p.val 0 a accRange)) ∧
      (∀ off (d : Bytes) a k u, s.bar4Addr p.val off d.length = some a → s.reach p.val a d.length = some (k, u) →
        (unitTier u = 2 → exec (.bar4Write p off d) s = .next (v.accessLog p.val 0 a accIgnored)) ∧
        (unitTier u ≠ 2 → v.portWaits (.write p.val a d) = false → v.reach p.val a d.length = some (k, u) →
          exec (.bar4Write p off d) s = .next (v.memWrite (some (128 + p.val)) false k a d)) ∧
        (unitTier u ≠ 2 → v.portWaits (.write p.val a d) = true →
          exec (.bar4Write p off d) s = .next { v with portIn := v.portIn ++ [.write p.val a d] }))) ∧
    (∀ (fn : FnIx), s.linkOpen p.val = true → s.portRests p.val = false →
      let up := s.setPort p.val { s.port p.val with enumerated := true }
      ((s.port p.val).released = false → ∀ q, exec (.configRequest p fn q) s = .next (s.emit (.cfg p.val fn.val none))) ∧
      ((s.port p.val).released = true → s.fnThere p.val fn.val = true →
        (∀ f, exec (.configRequest p fn (.read f)) s = .next (up.emit (.cfg p.val fn.val (some (up.cfgRead p.val fn.val f))))) ∧
        (∀ f v, exec (.configRequest p fn (.write f v)) s = .next ((up.cfgWrite p.val fn.val f v).emit (.cfg p.val fn.val (some 0))).goOn))) ∧
    (∀ fn : FnIx, s.linkOpen p.val = true → s.portRests p.val = false →
      exec (.busMasterEnableClear p fn) s = .next ((s.modFnc p.val fn.val fun x => { x with bme := false }).pump) ∧
      exec (.d3hot p fn) s = .next ((s.modFnc p.val fn.val fun x => { x with d3 := true }).pump)) ∧
    (exec (.linkRetrain p) s = .next s) ∧
    ∀ (fn : FnIx) (v : Nat), s.fnOpen p.val fn.val = true → v < s.msixUsable p.val fn.val → exec (.msixUnmask p fn v) s =
      .next ((s.modFnc p.val fn.val fun x => { x with unmasked := x.unmasked.filter (· != v) ++ [v] }).msixFlush p.val fn.val v)) ∧
  (∀ (s : State) (p fn v : Nat), p < 2 → fn < 128 →
    (∀ f, f = .busMasterEnable ∨ f = .relaxedOrderingEnable ∨ f = .idoRequestEnable ∨ f = .atomicOpRequesterEnable ∨ f = .atsEnable ∨ f = .priEnable ∨
        f = .tphRequesterEnable ∨ f = .pasidEnable →
      (s.cfgWrite p fn f v).cfgRead p fn f = v % 2 ∧ ∀ q g h, (q ≠ p ∨ g ≠ fn) → (s.cfgWrite p fn f v).cfgRead q g h = s.cfgRead q g h) ∧
    ((v = 128 ∨ v = 256 ∨ v = 512) → (s.cfgWrite p fn .mps v).cfgRead p fn .mps = v) ∧
    (v ≠ 128 → v ≠ 256 → v ≠ 512 → (s.cfgWrite p fn .mps v).cfgRead p fn .mps = s.cfgRead p fn .mps))

/-- Translations and completions: an invalidation drops the translations it covers; a translation that is present is kept with
its address and its rights and lets the accesses waiting for its pages go on, and one that is absent, or lacks the right an
access needs, asks for the page, or ends them `HOST_FAULT` where no page request is possible; a page response, which names its group, lets its accesses translate again or ends them; a page that is not answered in time
ends them; the completion of a read that was sent hands its bytes to what asked for them, or ends it.

It says that `ATS_INVALIDATION`, `TRANSLATION_COMPLETION`, `PAGE_REQUEST_RESPONSE`, `FAULT_TIMEOUT`,
`HOST_READ_COMPLETION` complete, and when. -/
def Obligations.HostAccesses : Prop :=
  ∀ (p : PortIx) (s : State),
    (s.linkOpen p.val = true → s.portRests p.val = false → ∀ (fn : FnIx) (pasid : Option (BitVec 20)) (page pages : Nat),
      exec (.atsInvalidation p fn pasid page pages) s = .next ((s.setPort p.val { s.port p.val with
        atc := (s.port p.val).atc.filter fun t => !(t.fn == fn.val && t.pasid == pasid && decide (t.page < page + pages ∧ page < t.page + t.pages)),
        invals := (s.port p.val).invals ++ [(fn.val, page, s.pageReads p.val fn.val pasid page pages)] }).settleInvals) ∧
      (let wait := s.accs.filter (s.awaitsPage p.val fn.val pasid page pages)
       let early := (s.port p.val).aheadHit fn.val pasid page pages
       (wait = [] → early = [] → ∀ ans, exec (.translationCompletion p fn pasid page pages ans) s = .next s) ∧
       (wait ≠ [] ∨ early ≠ [] → ∀ ans : XlatAns,
        let bad := wait.filter fun a => !ans.read || (a.kind.writes && !ans.write)
        let x := s.port p.val
        let atc := if ans.read = true then addAtc x.atc { fn := fn.val, pasid := pasid, page := page, pages := pages, base := ans.base, write := ans.write }
          else x.atc
        let t := s.setPort p.val { x with ahead := x.ahead.filter (fun k => !early.contains k), atc := atc }
        let u : State := { t with accs := t.accs.map fun a => { a with
          st := if bad.contains a then .pageReq else if wait.contains a then .queued else a.st
          since := if bad.contains a then t.ticks else a.since } }
        ((s.fnc p.val fn.val).pri = true → (s.fnc p.val fn.val).priFailed = false → exec (.translationCompletion p fn pasid page pages ans) s =
          .next u.goOn) ∧
        ((s.fnc p.val fn.val).pri = false ∨ (s.fnc p.val fn.val).priFailed = true → exec (.translationCompletion p fn pasid page pages ans) s =
          .next (bad.foldl (fun s a => s.accLost a true) u).goOn)))) ∧
    (s.portRests p.val = false → ∀ (fn : FnIx) (group : Nat) k, (s.port p.val).pageOut.find? (fun k => k.1 == group && k.2.1 == fn.val) = some k →
      let mine (a : HostAcc) : Bool := a.port == p.val && a.st == .pageReq && s.pageOf a == k.2
      let t := s.setPort p.val { s.port p.val with pageOut := (s.port p.val).pageOut.erase k }
      exec (.pageRequestResponse p fn group .success) s =
        .next (State.goOn { t with accs := updWhere mine (fun a => { a with st := .queued }) t.accs }) ∧
      exec (.pageRequestResponse p fn group .invalidRequest) s = .next ((s.accs.filter mine).foldl (fun s a => s.accLost a true) t).goOn ∧
      (let u := (t.modPort p.val fun x => { x with pageOut := x.pageOut.filter fun k => k.2.1 != fn.val }).modFnc p.val fn.val fun x =>
         { x with priFailed := true }
       exec (.pageRequestResponse p fn group .responseFailure) s = .next ((s.accs.filter fun a => a.port == p.val && a.fn == fn.val && a.st == .pageReq).foldl
         (fun s a => s.accLost a true) u).goOn)) ∧
    (∀ (acc : Nat) (a : HostAcc), s.accOf acc = some a → a.port = p.val →
      (a.st = .pageReq → (s.port p.val).pageOut.any (fun y => y.2 == s.pageOf a) = true → a.since + s.faultLimit p.val ≤ s.ticks →
        exec (.faultTimeout p acc) s =
        .next (((s.accs.filter fun b => b.port == p.val && b.st == .pageReq && s.pageOf b == s.pageOf a).foldl (fun s b => s.accLost b true) s).goOn)) ∧
      (a.st = .held → a.kind.posted = false → a.since + s.faultLimit p.val ≤ s.ticks → exec (.faultTimeout p acc) s = .next (s.accLost a true).goOn) ∧
      (s.ticks < a.since + s.faultLimit p.val → exec (.faultTimeout p acc) s = .next s) ∧
      (a.st = .sent → a.why.ownAnswer = false → s.linkOpen p.val = true → ∀ ans,
        (s.portWaits (.answer p.val acc ans) = true →
          exec (.hostReadCompletion p acc ans) s = .next { s with portIn := s.portIn ++ [.answer p.val acc ans] }) ∧
        (s.portWaits (.answer p.val acc ans) = false →
          (∀ d, hostWhole ans a.len = some d → exec (.hostReadCompletion p acc ans) s = .next (s.accDone a d).goOn) ∧
          (hostWhole ans a.len = none → (∀ c id, a.why ≠ .xfer c id) → exec (.hostReadCompletion p acc ans) s = .next (s.accLost a true).goOn) ∧
          (hostWhole ans a.len = none → ∀ c id, a.why = .xfer c id → let n := ans.data.length / 32 * 32
            exec (.hostReadCompletion p acc ans) s =
              .next ((s.xferData c id (ans.data.take n)).accLost { a with addr := a.addr + n } true).goOn))))

/-- Port events: a port whose link is lost or reset has its rings orphaned, its link down and its configuration space
reset; a function-level reset orphans the rings of the port or of the virtual function; the pin `PERST#` and the link's
training are followed.

It says that `DL_DOWN`, `HOT_RESET`, `PERST_ASSERT`, `PERST_DEASSERT`, `FLR_PF`, `FLR_VF`, `DL_UP` complete, and when. -/
def Obligations.PortEvents : Prop :=
  ∀ (p : PortIx) (s : State),
    (s.linkOpen p.val = true →
      let down (e : Nat) := ((s.setPort p.val { s.port p.val with linkUp := false }).orphanPort p.val e).modPort p.val Port.resetCfg
      exec (.dlDown p) s = .next (down orDlDown) ∧ exec (.hotReset p) s = .next (down orHotReset)) ∧
    (s.linkOpen p.val = true → s.portRests p.val = false →
      exec (.flrPf p) s = .next ((s.orphanPort p.val orFlrPf).modPort p.val fun x =>
        { x with vfEnable := false, numVFs := 0, fns := [], atc := [], invals := [], pageOut := [], ahead := [] }) ∧
      (∀ vf : FnIx, vf.val ≠ 0 → s.fnThere p.val vf.val = true → exec (.flrVf p vf) s =
        .next ((((s.orphanRings p.val fun f => f == vf.val).report (lgPort p.val) [] eOrphan 0 vf.val orFlrVf).modPort p.val fun x =>
          { x.setFnc vf.val {} with atc := x.atc.filter fun t => t.fn != vf.val, invals := x.invals.filter fun v => v.1 != vf.val,
                                    pageOut := x.pageOut.filter fun k => k.2.1 != vf.val, ahead := x.ahead.filter fun k => k.1 != vf.val }).goOn))) ∧
    (s.linkOpen p.val = false → exec (.dlDown p) s = .next s ∧ exec (.hotReset p) s = .next s ∧ exec (.flrPf p) s = .next s) ∧
    (s.awake = false → exec (.perstAssert p) s = .next (s.setPort p.val { s.port p.val with perst := true, linkUp := false })) ∧
    (s.awake = true → s.mgmt.halted = false → (s.port p.val).released = true → exec (.perstAssert p) s =
      .next (((s.setPort p.val { s.port p.val with perst := true, linkUp := false }).orphanPort p.val orPerst).modPort p.val Port.resetCfg)) ∧
    (s.boot.stage = .done → s.awake = true → (s.port p.val).released = false → s.unitLost 6 p.val = false → s.unitLost 3 p.val = false →
      exec (.perstDeassert p) s = .next (s.setPort p.val { s.port p.val with perst := false, released := true, phase := .startup, before := .startup })) ∧
    (s.boot.stage ≠ .done → exec (.perstDeassert p) s = .next (s.setPort p.val { s.port p.val with perst := false })) ∧
    ∀ t : Trained, t.port = p →
      (s.jinalUp = true → s.mgmt.halted = false → (s.port p.val).perst = false → s.unitLost 6 p.val = false → s.unitLost 3 p.val = false →
        exec (.dlUp t) s = .next (s.setPort p.val { s.port p.val with
          linkUp := true, downSince := none, rate := t.rate.val, lanes := t.lanes, flit := t.flit })) ∧
      ((s.port p.val).perst = true → exec (.dlUp t) s = .next s)

/-- The set-up lock: a request that no check fails sets it, records who asked and takes measurement 10; one that a check
fails is refused with its cause and logged with its register; a second one changes nothing, except that the requests of both
ports in one cycle count as one, of port 0. After the lock a write of a
locked register of device scope changes nothing and is logged.

`SERVICE_EN`, `TEST_EN`, `PRI_RESET`, `BAR4_WBUF` and `TIER_H_ENABLE`: each does what its field of the port's control
registers does; an enable that needs staging buffers takes them where enough are free, and otherwise stays clear with the
conflict recorded; tier H is fixed by the set-up lock.

It says that `SETUP_LOCK_REQUEST`, `SERVICE_EN`, `TEST_EN`, `PRI_RESET`, `BAR4_WBUF`, `TIER_H_ENABLE`, `REGISTER_WRITE`
complete, and when. -/
def Obligations.SetupAndControls : Prop :=
  (∀ (p : PortIx) (s : State), s.bar0Open p.val 0 0x1000 = true → let u := s.wholeWrite p.val 0
    (u.locked = false → u.lockFault = none → exec (.setupLockRequest p) s =
      .next (State.linksLocked { u with locked := true, lockBy := p.val, lockLast := some (u.ticks, p.val, 0, 0),
                                        boot := { u.boot with meas := u.boot.meas.set 9 u.lockDigest } })) ∧
    (∀ c o, u.locked = false → u.lockFault = some (c, o) →
      (u.lockLast ≠ some (u.ticks, 1 - p.val, c, o) → exec (.setupLockRequest p) s =
        .next ({ u with lockRefused := true, lockCause := c, lockCount := u.lockCount + 1, lockLast := some (u.ticks, p.val, c, o) }.logEvent lgDevice []
          eClaim cReport 0 0 7 (BitVec.ofNat 64 c) (BitVec.ofNat 64 (p.val * 2 ^ 63 + o)))) ∧
      (u.lockLast = some (u.ticks, 1 - p.val, c, o) → exec (.setupLockRequest p) s = .next { u with lockLast := none })) ∧
    (u.locked = true → (p.val = 1 ∨ u.lockLast ≠ some (u.ticks, 1, 0, 0)) → exec (.setupLockRequest p) s = .next u) ∧
    (u.locked = true → p.val = 0 → u.lockLast = some (u.ticks, 1, 0, 0) → exec (.setupLockRequest p) s = .next { u with lockBy := 0 }) ∧
    ∀ (o : Nat) (v : Word), s.bar0Open p.val 0 o = true → o % 8 = 0 → storedDev o = true → lockedReg o = true → devMask o ≠ 0 → s.locked = true →
      ∃ t : State, exec (.registerWrite p 0 ⟨false, o⟩ 8 v) s = .next (t.lockViolation o v.toNat) ∧ t.regs = s.regs ∧ t.locked = true) ∧
  (∀ (p : PortIx) (s : State), s.bar0Open p.val 0 0x2000 = true → s.bar0Open p.val 0 0x2018 = true → fld (s.preg p.val 0x2000) 32 16 ≠ 0 →
    let x := s.port p.val
    (∃ t, exec (.serviceEn p) s = .next t ∧ (t.port p.val).phase = (if x.phase = .startup ∨ x.phase = .recovery then .service else x.phase) ∧
      (∀ q, q ≠ p.val → t.port q = s.port q) ∧ t.cores = s.cores ∧ t.dmem = s.dmem) ∧
    (∀ v, ∃ t, exec (.testEn p v) s = .next t ∧
      (v = true → (t.port p.val).phase = .test ∧ (x.phase ≠ .test → (t.port p.val).before = x.phase)) ∧
      (v = false → (t.port p.val).phase = (if x.phase = .test then x.before else x.phase)) ∧
      (∀ q, q ≠ p.val → t.port q = s.port q) ∧ t.cores = s.cores ∧ t.dmem = s.dmem) ∧
    (∃ u : State, exec (.priReset p) s = .next (u.issuePages p.val) ∧ (∀ fn, (u.fnc p.val fn).priFailed = false) ∧ u.accs = s.accs ∧ u.cores = s.cores) ∧
    (bitAt (s.preg p.val 0x2000) 6 = false →
      (32 ≤ s.stagingFree p.val → ∃ t, exec (.bar4Wbuf p) s = .next t ∧ bitAt (t.preg p.val 0x2000) 6 = true ∧ (t.port p.val).conflict = x.conflict) ∧
      (s.stagingFree p.val < 32 → ∃ t, exec (.bar4Wbuf p) s = .next t ∧ bitAt (t.preg p.val 0x2000) 6 = false ∧ (t.port p.val).conflict = true ∧
        (t.port p.val).conflictFeature = 2)) ∧
    (bitAt (s.preg p.val 0x2018) 55 = false → fld (s.preg p.val 0x2018) 0 34 ≤ 2 ^ 33 → s.locked = false →
      (64 ≤ s.stagingFree p.val → ∃ t, exec (.tierHEnable p) s = .next t ∧ bitAt (t.preg p.val 0x2018) 55 = true ∧ (t.port p.val).conflict = x.conflict) ∧
      (s.stagingFree p.val < 64 → ∃ t, exec (.tierHEnable p) s = .next t ∧ bitAt (t.preg p.val 0x2018) 55 = false ∧ (t.port p.val).conflict = true ∧
        (t.port p.val).conflictFeature = 1)) ∧
    (s.locked = true → exec (.tierHEnable p) s = .next ((s.wholeWrite p.val 0).lockViolation 0x2018 (2 ^ 55))))

/-- Pins and timers: the alert, time-mark and trigger enables are writes of their fields of `PORT_GPIO`, a free pin being
taken and one that the other port holds being refused with the conflict recorded; the moderation enable is a write of
`ERR_MOD`; a time mark pulses its pin when the counter reaches a multiple of its interval, an enabled trigger counts, and
the end of a moderation interval sends the message that was held back.

It says that `ALERT_EN`, `TMARK_EN`, `TIME_MARK`, `TRIG_EN`, `TRACE_TRIGGER`, `MOD_EN`, `ERR_MOD_INTERVAL` complete, and
when. -/
def Obligations.PinsAndTimers : Prop :=
  ∀ (p : PortIx) (s : State),
    (s.bar0Open p.val 0 0x2028 = true → let put (m v : Nat) : Nat := (s.preg p.val 0x2028 &&& (ones64 ^^^ m)) ||| (v &&& m)
      ∀ pin : Fin 4,
        exec (.alertEn p pin) s = .next ((s.wholeWrite p.val 0).writeGpio p.val (put 7 (1 + 2 * pin.val))) ∧
        (∀ timer log2, exec (.tmarkEn p pin timer log2) s =
          .next ((s.wholeWrite p.val 0).writeGpio p.val (put 0x3FFFF8 (8 + 16 * pin.val + 64 * timer.toNat + 65536 * log2.toNat)))) ∧
        exec (.trigEn p pin) s = .next ((s.wholeWrite p.val 0).writeGpio p.val (put 0x7000000 (2 ^ 24 + 2 ^ 25 * pin.val))) ∧
        (s.preg p.val 0x2028 = 0 → s.preg (1 - p.val) 0x2028 = 0 → ∃ t, exec (.alertEn p pin) s = .next t ∧ t.preg p.val 0x2028 = 1 + 2 * pin.val) ∧
        (s.preg p.val 0x2028 = 0 → s.preg (1 - p.val) 0x2028 = 1 + 2 * pin.val → ∃ t, exec (.alertEn p pin) s = .next t ∧
          t.preg p.val 0x2028 = 0 ∧ (t.port p.val).conflict = true ∧ (t.port p.val).conflictFeature = 3)) ∧
    (s.bar0Open p.val 0 0x2038 = true → ∀ timer ticks, exec (.modEn p timer ticks) s = .next ((s.wholeWrite p.val 0).writeErrMod p.val
      ((s.preg p.val 0x2038 &&& (ones64 ^^^ 0xFFFF07FF)) ||| ((1 + 2 * timer.toNat + 65536 * ticks.toNat) &&& 0xFFFF07FF)))) ∧
    (s.running = true → bitAt (s.preg p.val 0x2028) 3 = true →
      (s.ticks % 2 ^ fld (s.preg p.val 0x2028) 16 6 = 0 → exec (.timeMark p) s = .next (s.emit (.pinPulse p.val (fld (s.preg p.val 0x2028) 4 2)))) ∧
      (s.ticks % 2 ^ fld (s.preg p.val 0x2028) 16 6 ≠ 0 → exec (.timeMark p) s = .next s)) ∧
    (s.jinalUp = true → bitAt (s.preg p.val 0x2028) 24 = true → exec (.traceTrigger p) s =
      .next (s.setPort p.val { s.port p.val with traceTriggered := (s.port p.val).traceTriggered + 1 })) ∧
    (bitAt (s.preg p.val 0x2028) 24 = false → exec (.traceTrigger p) s = .next s) ∧
    (s.awake = true → bitAt (s.preg p.val 0x2038) 0 = true → (s.port p.val).modEnd ≤ s.ticks →
      ((s.port p.val).modPending = true → exec (.errModInterval p) s =
        .next ((s.setPort p.val { s.port p.val with modPending := false }).raiseErr p.val)) ∧
      ((s.port p.val).modPending = false → exec (.errModInterval p) s = .next s))

/-- Register accesses: an aligned 64-bit read returns the register's word and an aligned 32-bit read its half; a PF's
32-bit read of a lower half latches the upper half, which the next access returns if it reads that half; a read or a
write of another size or alignment is logged, and such a read returns all ones; a BAR2 read returns the slot's word, a
stream window read the first word of its sample; `LOG_POP` drops the oldest entry of the port's view and `VF_ASSIGN` stores
an assignment that keeps the rules, and leaves the register and logs another.

A register written as two 32-bit halves, the lower one first, takes the value that one 64-bit write gives it.

It says that `VF_ASSIGN`, `LOG_POP`, `SPLIT_READ`, `STREAM_WINDOW_READ`, `REGISTER_WRITE` complete, and when. -/
def Obligations.RegisterAccesses : Prop :=
  (∀ (p : PortIx) (s : State), let u := s.dropLatch p.val
    (∀ off, s.bar0Open p.val 0 off = true → off < 0x4000000 → off % 8 = 0 → let q := u.sampled p.val off
      exec (.splitRead p ⟨⟨false, off⟩, 0, 8⟩) s = .next (q.2.emit (.readData p.val (natLe 8 q.1) false)) ∧
      exec (.splitRead p ⟨⟨false, off⟩, 0, 4⟩) s = .next ((q.2.setPort p.val { q.2.port p.val with latch := some (off, BitVec.ofNat 32 (q.1 / 2 ^ 32)) }).emit
        (.readData p.val (natLe 4 q.1) false)) ∧
      (s.bar0Open p.val 0 (off + 4) = true →
        (∀ v : BitVec 32, (s.port p.val).latch = some (off, v) →
          exec (.splitRead p ⟨⟨false, off + 4⟩, 0, 4⟩) s = .next (u.emit (.readData p.val (natLe 4 v.toNat) false))) ∧
        ((∀ v : BitVec 32, (s.port p.val).latch ≠ some (off, v)) →
          exec (.splitRead p ⟨⟨false, off + 4⟩, 0, 4⟩) s = .next (u.emit (.readData p.val (natLe 4 (q.1 / 2 ^ 32)) false))))) ∧
    (∀ (fn : FnIx) (off : Nat), fn.val ≠ 0 → s.bar0Open p.val fn.val off = true → off < 0x10000 → off % 8 = 0 →
      exec (.splitRead p ⟨⟨false, off⟩, fn, 8⟩) s = .next (s.emit (.readData p.val (natLe 8 (s.vfRead p.val fn.val off)) false)) ∧
      exec (.splitRead p ⟨⟨false, off⟩, fn, 4⟩) s = .next (s.emit (.readData p.val (natLe 4 (s.vfRead p.val fn.val off)) false))) ∧
    (∀ (fn : FnIx) (off : Nat), s.barOpen p.val fn.val = true → off < barSize fn.val true → off % 8 = 0 →
      let v := if fn.val = 0 then u else s
      exec (.splitRead p ⟨⟨true, off⟩, fn, 8⟩) s = .next (v.emit (.readData p.val (natLe 8 (s.doorWord p.val fn.val off)) false)) ∧
      exec (.splitRead p ⟨⟨true, off⟩, fn, 4⟩) s = .next (v.emit (.readData p.val (natLe 4 (s.doorWord p.val fn.val off)) false))) ∧
    (∀ (fn : FnIx) (off size : Nat), s.bar0Open p.val fn.val off = true → off < barSize fn.val false →
      ¬ (size = 8 ∧ off % 8 = 0) → ¬ (size = 4 ∧ off % 4 = 0) → let v := if fn.val = 0 then u else s
      exec (.splitRead p ⟨⟨false, off⟩, fn, size⟩) s =
        .next ((v.accessLog p.val fn.val off accSize).emit (.readData p.val (List.replicate size 0xFF#8) false))) ∧
    (∀ st : StreamIx, s.bar0Open p.val 0 (0x160000 + 32 * st.val) = true →
      (s.streamPort st.val = p.val → exec (.streamWindowRead p st) s = .next ((u.setPort p.val { u.port p.val with
        samples := Tab.put [] (u.port p.val).samples st.val (s.streamWords st.val) }).emit
          (.readData p.val (natLe 8 ((s.streamWords st.val).getD 0 0).toNat) false))) ∧
      (s.streamPort st.val ≠ p.val → exec (.streamWindowRead p st) s = .next (u.emit (.readData p.val (natLe 8 0) false)))) ∧
    (∀ w : Fin 23, s.bar0Open p.val 0 (0x80020 + 4096 * w.val) = true → exec (.logPop p w) s =
      .next ((s.wholeWrite p.val 0).popLog p.val (logOf p.val w.val))) ∧
    (∀ (vf : FnIx) (w : Fin 5) (v : Word), vf.val ≠ 0 → let o := 0x40000 + 64 * (vf.val - 1) + 8 * w.val
      s.bar0Open p.val 0 o = true → let nv := (s.preg p.val o &&& (ones64 ^^^ vfMask w.val)) ||| (v.toNat &&& vfMask w.val)
      let u := s.wholeWrite p.val 0
      (u.assignOk p.val vf.val w.val nv = true → exec (.vfAssign p vf w v) s = .next (u.setReg (regKey (some p.val) o) nv)) ∧
      (u.assignOk p.val vf.val w.val nv = false → exec (.vfAssign p vf w v) s = .next (u.accessLog p.val 0 o accIgnored))) ∧
    ∀ (off size : Nat) (v : Word), s.bar0Open p.val 0 off = true → off < 0x4000000 →
      ¬ (size = 8 ∧ off % 8 = 0) → ¬ (size = 4 ∧ off % 4 = 0) →
      exec (.registerWrite p 0 ⟨false, off⟩ size v) s = .next (u.accessLog p.val 0 off accSize)) ∧
  (∀ (p : PortIx) (fn : FnIx) (off : Nat) (lo hi : Word) (s t : State), off % 8 = 0 → off < 0x4000000 → (fn.val ≠ 0 → off < 0x10000) →
    s.bar0Open p.val fn.val off = true → (fn.val = 0 → s.regThere p.val off = true) → exec (.registerWrite p fn ⟨false, off⟩ 4 lo) s = .next t →
    exec (.registerWrite p fn ⟨false, off + 4⟩ 4 hi) t = exec (.registerWrite p fn ⟨false, off⟩ 8 (BitVec.ofNat 64 (lo.toNat % 2 ^ 32 + hi.toNat % 2 ^ 32 * 2 ^ 32))) s)

/-- Management commands that Jinal answers: each answers `OK` with its bytes and changes nothing else, but for the alert
causes that a read clears and the reset requests; a command with a bad operand answers its refusal; a transfer whose PEC
fails carries nothing out, before Jinal runs the answer is `NOT_READY`, and while an earlier command of the interface runs it
is `BUSY`.

It says that `MGMT_IDENT`, `BOOT_STATE`, `MGMT_TICKS`, `TEMPS`, `POWER`, `HALT_STATE`, `LOG_RECENT`, `ALERT_STATUS`,
`CABLES`, `RESET_REQ`, `RESET_WITHDRAW`, `POWER_CYCLE` complete, and when. -/
def Obligations.ManagementCommands : Prop :=
  ∀ (x : MgXfer) (s : State), s.power.standby = true →
    (x.pecOk = false → exec (.mgmtIdent x) s = .next s ∧ exec (.resetReq x 10) s = .next s ∧ exec (.powerCycle x 2) s = .next s) ∧
    (x.pecOk = true → s.jinalUp = false → exec (.mgmtIdent x) s = .next (s.emit (.mgmt mgNotReady [])) ∧
      exec (.bootState x) s = .next (s.emit (.mgmt mgNotReady []))) ∧
    (x.pecOk = true → s.jinalUp = true → s.mgmt.running ≠ none →
      exec (.mgmtIdent x) s = .next (s.emit (.mgmt mgBusy [])) ∧ exec (.alertStatus x) s = .next (s.emit (.mgmt mgBusy [])) ∧
        exec (.resetReq x 10) s = .next (s.emit (.mgmt mgBusy []))) ∧
    (x.pecOk = true → s.jinalUp = true → s.mgmt.running = none →
      let ok (b : Bytes) : State := s.emit (.mgmt fwOk b)
      exec (.mgmtIdent x) s = .next (ok (natLe 8 s.capIdent ++ natLe 8 s.fuses.serial.toNat)) ∧
      exec (.bootState x) s = .next (ok (natLe 8 s.bootState)) ∧
      exec (.mgmtTicks x) s = .next (ok (natLe 8 s.ticks)) ∧
      (∀ g a n, tempGroup g = some (a, n) → exec (.temps x g) s = .next (ok (((s.mgmt.readings.drop a).take n).flatMap fun v => natLe 2 v.toNat))) ∧
      (∀ g, tempGroup g = none → exec (.temps x g) s = .next (s.emit (.mgmt fwBad []))) ∧
      exec (.power x) s = .next ((s.frees 7).2.emit (.mgmt fwOk (natLe 2 s.power.vin ++ (s.frees 7).1.flatMap fun w => natLe 2 w.toNat))) ∧
      (∃ b : Bytes, b.length = 4 ∧ exec (.haltState x) s = .next (ok b)) ∧
      (∀ i e, i < 16 → (s.log lgDevice).recent[i]? = some e → exec (.logRecent x i) s = .next (ok (e.words.flatMap (natLe 8)))) ∧
      (∀ i, i < 16 → (s.log lgDevice).recent[i]? = none → exec (.logRecent x i) s = .next (ok (List.replicate 32 0#8))) ∧
      (∀ i, 16 ≤ i → exec (.logRecent x i) s = .next (s.emit (.mgmt fwBad []))) ∧
      exec (.alertStatus x) s = .next ((s.setCauses (if s.mgmt.halted then s.mgmt.causes &&& 1 else 0)).emit (.mgmt fwOk (natLe 1 s.mgmt.causes.toNat))) ∧
      (∀ c, c < 9 → Tab.get none s.mgmt.cables c = none → exec (.cables x c) s = .next (ok (List.replicate 19 0#8))) ∧
      (∀ c v, c < 9 → Tab.get none s.mgmt.cables c = some v → ∃ b : Bytes, b.length = 19 ∧ exec (.cables x c) s = .next (ok b)) ∧
      (∀ ms, 10 ≤ ms → ms ≤ 60000 →
        (s.resetRefused = false → exec (.resetReq x ms) s = .next (({ s with mgmt := { s.mgmt with
          resetDeadline := some (s.ticks + ms * ticksPerMs) } }.noteRequest 2 (ms * ticksPerMs)).emit (.mgmt fwOk []))) ∧
        (s.resetRefused = true → ∃ t : State, exec (.resetReq x ms) s = .next (t.emit (.mgmt mgRefused [])) ∧ t.mgmt = s.mgmt)) ∧
      (∀ ms, ms < 10 ∨ 60000 < ms → exec (.resetReq x ms) s = .next (s.emit (.mgmt fwBad []))) ∧
      exec (.resetWithdraw x) s = .next ({ s with mgmt := { s.mgmt with resetDeadline := none } }.emit (.mgmt fwOk [])))

/-- The power controller: its two commands need no Jinal; the rails are raised, fail or are good as their events tell,
the counter restarting at zero; `PWR_EN` low or a lost VIN takes the power away and a cycle gives it back at its off time,
before which `PWR_EN` and VIN alone follow; the standby supply, cables and addresses of the module follow their events.

Power that leaves every domain keeps the fuses, but for those that a commit under way blew, the boot flash, but for the mark of
a session it ends, tier 2, the cables and the straps, and nothing else of a run: no instance, no ring, no core and no log is left, and the counter stands at zero.

It says that `POWER_CYCLE`, `POWER_STATUS`, `POWER_ON`, `RAIL_FAULT`, `POWER_GOOD`, `PWR_EN_LOW`, `VIN_LOSS`,
`CPRSNT_CHANGE`, `POWER_CYCLE_OFF_TIME`, `STANDBY_SUPPLY_UP`, `ALERT_RESPONSE_ADDRESS`, `DYNAMIC_ADDRESS_ASSIGNMENT`
complete, and when. -/
def Obligations.PowerEvents : Prop :=
  (∀ s : State,
    (∀ x : MgXfer, x.pecOk = true → s.power.standby = true →
      (∃ b : Bytes, b.length = 4 ∧ exec (.powerStatus x) s = .next (s.emit (.mgmt fwOk b))) ∧
      (∀ n, 2 ≤ n → n ≤ 60 → exec (.powerCycle x n) s = .next (State.emit { s.powerOff with
        power := { s.powerOff.power with cycling := true, offSeconds := n } } (.mgmt fwOk []))) ∧
      ∀ n, n < 2 ∨ 60 < n → exec (.powerCycle x n) s = .next (s.emit (.mgmt fwBad []))) ∧
    (s.power.standby = true → s.power.cycling = false → s.power.pwrgd = false → s.power.raising = false → (s.power.needRaise = false ∨ s.power.pwrEn = false) →
      exec .powerOn s = .next { s with power := { s.power with pwrEn := true, vin := max s.power.vin 46000, raising := true, needRaise := false } }) ∧
    (s.power.cycling = true → exec .powerOn s = .next { s with
      power := { s.power with pwrEn := true, vin := max s.power.vin 46000, needRaise := s.power.needRaise && s.power.pwrEn } }) ∧
    (s.power.cycling = false → s.power.pwrgd = true → exec .powerOn s = .next s) ∧
    (∀ n, s.power.raising = true → 1 ≤ n → n ≤ 7 → exec (.railFault n) s = .next ({ s with
      power := { s.power with raising := false, railsUp := 0, railFault := some n, needRaise := true } }.alert 8)) ∧
    (s.power.raising = true → exec .powerGood s = .next { s with
      ticks := 0, freeCtr := s.freeCtr + 1, power := { s.power with raising := false, pwrgd := true, railsUp := 7, railFault := none }
      boot := { s.boot with stage := .wake, since := 0, wake := s.freeCtr } }) ∧
    (s.power.raising = false → exec .powerGood s = .next s ∧ ∀ n, exec (.railFault n) s = .next s) ∧
    (s.power.pwrgd = false → exec .pwrEnLow s = .next { s with power := { s.power with pwrEn := false, raising := false, railsUp := 0 } }) ∧
    (s.power.pwrgd = true → exec .pwrEnLow s = .next { s.powerOff with power := { s.powerOff.power with pwrEn := false, raising := false, railsUp := 0 } }) ∧
    (∃ t, exec .vinLoss s = .next t ∧ t.power.standby = false ∧ t.power.pwrgd = false ∧ t.power.raising = false ∧ t.power.needRaise = s.power.needRaise ∧
      (s.boot.trial = false → t.fuses = s.fuses) ∧ (s.boot.session = none → t.bootFlash = s.bootFlash)) ∧
    (s.power.cycling = true → exec .powerCycleOffTime s = .next { s with power := { s.power with
      cycling := false, offSeconds := 0, raising := s.power.standby && s.power.pwrEn && !s.power.needRaise && decide (46000 ≤ s.power.vin) } }) ∧
    (s.power.cycling = false → exec .powerCycleOffTime s = .next s) ∧
    (∀ mv, s.power.standby = false → (44000 ≤ mv → exec (.standbySupplyUp mv) s = .next { s with power := { s.power with standby := true, vin := mv } }) ∧
      (mv < 44000 → exec (.standbySupplyUp mv) s = .next s)) ∧
    (∀ (c : Fin 9) (b : Bool) (n : Nat) (part : Bytes),
      let t := { s with mgmt := { s.mgmt with cables := Tab.put none s.mgmt.cables c.val (if b then some (n, part.take 16) else none) } }
      exec (.cprsntChange c b n part) s = .next ((t.connectorChanged c.val).alert 16) ∧
        ∀ l, (s.link l).st ≠ .training → (t.connectorChanged c.val).link l = s.link l) ∧
    (s.power.standby = true → s.alertPin = true → exec .alertResponseAddress s = .next (s.emit (.ownAddress (0x60#7 + s.mgmt.strap.setWidth 7)))) ∧
    (s.alertPin = false → exec .alertResponseAddress s = .next s) ∧
    ∀ a, s.power.standby = true → exec (.dynamicAddressAssignment a) s = .next { s with mgmt := { s.mgmt with addr := some a } }) ∧
  (∀ s : State, let t := s.powerOff
    (s.boot.trial = false → t.fuses = s.fuses) ∧ s.fuses.svn &&& t.fuses.svn = s.fuses.svn ∧ (s.boot.session = none → t.bootFlash = s.bootFlash) ∧ t.pending = s.pending ∧ t.ticks = 0 ∧ t.boot.stage = .off ∧ t.power.pwrgd = false ∧ t.insts = [] ∧
      t.logs = [] ∧ t.mgmt.cables = s.mgmt.cables ∧ t.mgmt.strap = s.mgmt.strap ∧ t.awake = false ∧ (∀ r, t.ring r = {}) ∧ (∀ c, t.core c = State.reset.core c) ∧
      ∀ e : Host.Cell, e ∈ t.dmem ↔ e ∈ s.dmem ∧ inTier2 e.1 = true)

/-- The SPDM responders: each keeps its own exchange and its transcript, which `GET_VERSION` begins again and the two following
requests carry on; the others need an exchange that has come so far, answer with digests, certificates, measurements of the
boot and signatures over the transcript, and refuse other slots and indexes; before stage B has ended every request but `GET_VERSION` is
an error, and a request that SPDM names and the device does not support is one too.

Firmware update: a session opens when none is open and no image is pending; its owner writes the slot that is not
active, closes it with the verification's status, and makes it pending when that is `OK`, or gives it up; another
requester is refused; a commit ends the trial and blows fuses until the counter has reached the running image's number. A
command that is not the one its mailbox runs is ignored and logged, and the management interface answers it `BUSY`.

It says that `FW_OPEN`, `FW_WRITE`, `FW_CLOSE`, `FW_ABORT`, `FW_COMMIT`, `GET_VERSION`, `GET_CAPABILITIES`,
`NEGOTIATE_ALGORITHMS`, `GET_DIGESTS`, `GET_CERTIFICATE`, `CHALLENGE`, `GET_MEASUREMENTS`, `SPDM_UNSUPPORTED` complete, and
when. -/
def Obligations.AttestationAndFirmware : Prop :=
  (∀ (r : SpdmReq) (s : State), s.spdmReached r = true → let x := s.spdmOf r
    (let m : Bytes := [0x10, 0x04, 0, 0, 0, 1, 0x00, 0x12]
     exec (.getVersion r) s = .next (s.spdmAnswer r { step := 1, vca := [0x10, 0x84, 0, 0] ++ m } m)) ∧
    (s.romOnly = true → let bad := Host.Outcome.next (State.emit s (.spdm r.who (spdmMsg 0x7F spUnspecified 0 [])))
      exec (.getCapabilities r) s = bad ∧ exec (.getDigests r) s = bad ∧ ∀ n, exec (.getMeasurements r 0 0 n) s = bad) ∧
    (s.romOnly = false →
      let early := Host.Outcome.next (State.emit s (.spdm r.who (spdmMsg 0x7F spUnexpected 0 [])))
      let invalid := Host.Outcome.next (State.emit s (.spdm r.who (spdmMsg 0x7F spInvalid 0 [])))
      (x.step = 1 → let m := spdmMsg 0x61 0 0 ([0, 14, 0, 0] ++ natLe 4 0x16 ++ (s.frees 2).1.flatMap fun w => natLe 4 w.toNat)
        exec (.getCapabilities r) s = .next ((s.frees 2).2.spdmAnswer r { x with step := 2, vca := x.vca ++ spdmMsg 0xE1 0 0 r.rest ++ m } m)) ∧
      (x.step ≠ 1 → exec (.getCapabilities r) s = early) ∧
      (x.step = 2 → let m := spdmMsg 0x63 0 0 (natLe 2 36 ++ [1, 0] ++ natLe 4 2 ++ natLe 4 0x10 ++ natLe 4 1 ++ List.replicate 16 0#8)
        exec (.negotiateAlgorithms r) s = .next (s.spdmAnswer r { x with step := 3, vca := x.vca ++ spdmMsg 0xE3 r.attr.toNat 0 r.rest ++ m } m)) ∧
      (x.step ≠ 2 → exec (.negotiateAlgorithms r) s = early) ∧
      (x.step = 3 →
        (let m := spdmMsg 0x01 0 1 (digestBytes (sha256 s.certChain))
         exec (.getDigests r) s = .next (s.spdmAnswer r { x with certs := x.certs ++ spdmMsg 0x81 0 0 [] ++ m, meas := [] } m)) ∧
        (∀ off len, off < s.certChain.length → let d := (s.certChain.drop off).take len
          let m := spdmMsg 0x02 0 0 (natLe 2 d.length ++ natLe 2 (s.certChain.length - off - d.length) ++ d)
          exec (.getCertificate r 0 off len) s =
            .next (s.spdmAnswer r { x with certs := x.certs ++ spdmMsg 0x82 0 0 (natLe 2 off ++ natLe 2 len) ++ m, meas := [] } m)) ∧
        (∀ slot off len, slot ≠ 0 → exec (.getCertificate r slot off len) s = invalid) ∧
        (∀ n summary, s.measSummary r.attr.toNat = some summary → let f := s.freeBytes32
          let m := spdmMsg 0x03 0 1 (digestBytes (sha256 s.certChain) ++ f.1 ++ summary ++ [0, 0])
          exec (.challenge r 0 n) s = .next ({ f.2 with freeCtr := f.2.freeCtr + 1 }.spdmAnswer r { x with certs := [], meas := [] }
            (m ++ f.2.spdmSign "responder-challenge_auth signing" (x.vca ++ x.certs ++ spdmMsg 0x83 0 r.attr.toNat n ++ m)))) ∧
        (∀ i n, 1 ≤ i → i ≤ 11 → let f := s.freeBytes32
          let b := measBlock i (s.boot.meas.getD (i - 1) 0)
          let m := spdmMsg 0x60 0 0 (natLe 1 1 ++ natLe 3 b.length ++ b ++ f.1 ++ [0, 0])
          (r.attr.getLsbD 0 = true → exec (.getMeasurements r 0 i n) s =
            .next ({ f.2 with freeCtr := f.2.freeCtr + 1 }.spdmAnswer r { x with meas := [] }
              (m ++ f.2.spdmSign "responder-measurements signing" (x.vca ++ x.meas ++ spdmMsg 0xE0 r.attr.toNat i (n ++ natLe 1 0) ++ m)))) ∧
          (r.attr.getLsbD 0 = false → exec (.getMeasurements r 0 i n) s =
            .next (f.2.spdmAnswer r { x with meas := x.meas ++ spdmMsg 0xE0 r.attr.toNat i [] ++ m } m))) ∧
        (∀ i n, 11 < i → i ≠ 0xFF → exec (.getMeasurements r 0 i n) s = invalid)) ∧
      (x.step ≠ 3 → exec (.getDigests r) s = early ∧ ∀ n, exec (.challenge r 0 n) s = early) ∧
      ∀ code : Byte, exec (.spdmUnsupported r code) s = .next (s.emit (.spdm r.who (spdmMsg 0x7F spUnsupported code.toNat []))))) ∧
  (∀ (w : Requester) (s u : State),
    (FwActs w (fwWord 1 0 0) [] s u →
      (u.boot.session = none → u.boot.slots.pendingFlag = false → exec (.fwOpen w) s =
        .next (State.fwAnswer { u with boot := { u.boot with session := some w.owner } } w fwOk)) ∧
      (u.boot.session ≠ none ∨ u.boot.slots.pendingFlag = true → exec (.fwOpen w) s = .next (u.fwAnswer w fwConflict))) ∧
    (∀ off len data, FwActs w (fwWord 2 off len) data s u → u.boot.session = some w.owner →
      (∀ p : PortIx, w = .pf p → 1 ≤ len → len ≤ 4096 → off % 4096 = 0 → off < 2 ^ 24 → exec (.fwWrite w off len data) s =
        .next (State.fwAnswer { u with bootFlash := u.bootFlash.writeBytes (slotBase u.updateSlot + off) ((u.port p.val).mboxData.readBytes 0 len) } w fwOk)) ∧
      (∀ x b, w = .mgmt x b → 1 ≤ data.length → data.length ≤ 240 → off % 16 = 0 → off < 2 ^ 24 → exec (.fwWrite w off len data) s =
        .next (State.fwAnswer { u with bootFlash := u.bootFlash.writeBytes (slotBase u.updateSlot + off) data } w fwOk))) ∧
    (FwActs w (fwWord 3 0 0) [] s u →
      (u.boot.session = some w.owner → let v := u.verifyRead u.updateSlot
        (v.1 = 0 → ∃ t, exec (.fwClose w) s = .next (State.fwAnswer t w fwOk) ∧ t.boot.session = none ∧
          t.boot.slots.pendingFlag = true ∧ t.boot.slots.pending = u.updateSlot ∧ t.boot.slots.trials = 0 ∧ t.boot.slots.usable u.updateSlot = true ∧
          t.boot.slots.active = u.boot.slots.active) ∧
        (v.1 ≠ 0 → exec (.fwClose w) s = .next (v.2.endSession.fwAnswer w v.1))) ∧
      (u.boot.session ≠ some w.owner → exec (.fwClose w) s = .next (u.fwAnswer w fwNotOwner))) ∧
    (FwActs w (fwWord 4 0 0) [] s u →
      (u.boot.session = some w.owner → exec (.fwAbort w) s = .next (u.endSession.fwAnswer w fwOk)) ∧
      (u.boot.session ≠ some w.owner → exec (.fwAbort w) s = .next (u.fwAnswer w fwNotOwner))) ∧
    (FwActs w (fwWord 5 0 0) [] s u →
      (u.boot.trial = false → exec (.fwCommit w) s = .next (u.fwAnswer w fwOk)) ∧
      (u.boot.trial = true → exec (.fwCommit w) s = .next (State.fwAnswer (State.putSlots { u with
        fuses := { u.fuses with svn := blowTo u.fuses.svn u.boot.svn }
        boot := { u.boot with trial := false } } { u.boot.slots with pendingFlag := false, trials := 0 }) w fwOk)))) ∧
  (∀ (p : PortIx) (s : State) (w' : Nat), (s.port p.val).mboxBusy = some w' → w' ≠ fwWord 5 0 0 → s.fnOpen p.val 0 = true →
    exec (.fwCommit (.pf p)) s = .next ((s.wholeWrite p.val 0).accessLog p.val 0 0x4000 accIgnored)) ∧
  (∀ (x : MgXfer) (s : State), x.pecOk = true → s.power.standby = true → s.jinalUp = true →
    (s.mgmt.running = none → exec (.fwCommit (.mgmt x false)) s = .next { s with mgmt := { s.mgmt with running := some (fwWord 5 0 0, []) } }) ∧
    (∀ r, s.mgmt.running = some r → r ≠ (fwWord 5 0 0, []) → ∀ e, exec (.fwCommit (.mgmt x e)) s = .next (s.emit (.mgmt mgBusy [])))) ∧
  ∀ (x : BitVec 128) (n : Nat), x &&& blowTo x n = x ∧ (svnCount x ≤ n → n ≤ 128 → svnCount (blowTo x n) = n)

/-- Start-up stages: verification boots the first usable slot that passes, with its measurements and alias key, and goes to
`RECOVERY` when none passes; clocks, bridges, memories and flash lose the units that failed and begin the next stage; a
main clock that fails ends in `RECOVERY`; the release sets the outcome and lets the ports go; a stage that overruns its
limit fails.

Device reset and recovery answers: a PF's request is recorded with its deadline, a second one refused; the withdrawal
ends the requests of both; a device that is not halted resets when the ports agree, and any when a management deadline has
come, unless that reset is refused; a PF's request that no agreement has met by its deadline ends; the answer of a PF to
the event shown lets its rung go on, goes a rung further or loses the unit, and one that names another event is logged; an
answer that does not come in time is the hardware's own.

Sensors and the supply: a sample below every threshold only stores its readings; a reading at its critical threshold
halts the device, and so does a supply out of range; nothing is sampled while Jinal does not run.

It says that `PROCEED`, `ESCALATE`, `ABANDON`, `ANSWER_TIMEOUT`, `SENSOR_SAMPLE`, `SUPPLY_FAULT`, `RESET_REQUEST`,
`WITHDRAW`, `RESET_DEADLINE`, `DEVICE_RESET`, `VERIFY`, `CLOCKS`, `BRIDGES`, `MEMORIES`, `FLASH`, `LINKS`, `RELEASE`,
`STAGE_TIMEOUT` complete, and when. -/
def Obligations.StartupAndRecovery : Prop :=
  (∀ s : State, s.awake = true → s.mgmt.halted = false →
    (s.boot.stage = .wake → exec .verify s = exec .verify s.wakeEnd) ∧
    (s.stageLate = false →
      (s.boot.stage = .verify → let x := s.readSlots
        let t := State.tryReads { s with boot := { s.boot with slots := x } } (x.order.filter x.usable)
        let v := t.2.putSlots (x.booted t.1)
        let u := { v with boot := { v.boot with trial := (x.booted t.1).pendingFlag } }
        x.pendingFlag = false →
        (∀ b, t.1 = some b → u.deviceCertOk = true → let h9 := (u.measure b).getD 10 0
          exec .verify s = .next (State.stageEnd { u with freeCtr := u.freeCtr + 1, boot := { u.boot with
            svn := u.slotSvn b, meas := u.measure b, aliasKey := u.aliasOf h9, aliasCert := u.makeAlias h9, udsLocked := true } })) ∧
        (∀ b, t.1 = some b → u.deviceCertOk = false → exec .verify s = .next (u.toRecovery 2)) ∧
        (t.1 = none → exec .verify s = .next (u.toRecovery 1))) ∧
      (s.boot.stage = .clocks → exec (.clocks []) s = .next s.stageEnd ∧
        exec (.clocks [0]) s = .next ((s.logEvent lgDevice [] eClock cReport 0 0 7 0 0).toRecovery 0)) ∧
      (s.boot.stage = .bridges → exec (.bridges []) s = .next s.stageEnd ∧ exec (.bridges [1]) s = .next (s.loseUnits [⟨3, 1⟩]).stageEnd) ∧
      (s.boot.stage = .memories → exec (.memories []) s = .next s.stageEnd ∧ exec (.memories [5]) s = .next (s.loseUnits [⟨2, 5⟩]).stageEnd) ∧
      (s.boot.stage = .flash → exec (.flash []) s = .next s.stageEnd.linksBegin) ∧
      (s.boot.stage = .links → exec (.links []) s = .next s.stageEnd ∧
        ∀ l, l < 36 → (s.link l).st = .training → (s.link l).phase ≤ 4 → s.cabled l = true → exec (.links [l]) s = .next (s.linkGone l .down).stageEnd) ∧
      (s.boot.stage = .release → let o := if s.boot.outcome = 2 then 2 else if s.boot.failStage = 0 then 0 else 1
        let t := State.stageEnd { s with boot := { s.boot with outcome := o } }
        exec .release s = .next (([0, 1].filter fun p => !(t.port p).perst && !t.unitLost 6 p && !t.unitLost 3 p).foldl State.releasePort t) ∧
        t.boot.stage = .done ∧ t.boot.outcome = o) ∧
      ∀ u, exec (.stageTimeout u) s = .next s) ∧
    (s.boot.stage ≠ .release → exec .release s = .next s) ∧
    (s.stageLate = true →
      (s.boot.stage = .clocks → exec (.clocks []) s = .next s) ∧ (s.boot.stage = .release → exec .release s = .next s) ∧
      (s.boot.stage = .wake ∨ s.boot.stage = .verify → exec (.stageTimeout []) s = .next (s.toRecovery 3)) ∧
      (s.boot.stage ≠ .wake → s.boot.stage ≠ .verify → exec (.stageTimeout []) s = .next s) ∧
      ∀ us : Failed, us ≠ [] → (∀ n ∈ us, n < stageUnits s.boot.stage) →
        (s.boot.stage = .clocks → exec (.stageTimeout us) s = .next (s.clocksEnd us)) ∧
        (s.boot.stage = .bridges → exec (.stageTimeout us) s = .next (s.bridgesEnd us)) ∧
        (s.boot.stage = .memories → exec (.stageTimeout us) s = .next (s.memoriesEnd us)) ∧
        (s.boot.stage = .flash → exec (.stageTimeout us) s = .next (s.flashEnd us)) ∧
        (s.boot.stage = .links → exec (.stageTimeout us) s = .next (s.linksEnd us)) ∧
        (s.boot.stage = .release → exec (.stageTimeout us) s = .next (s.loseUnits (us.map fun n => ⟨6, n⟩)).releaseEnd))) ∧
  (∀ (p : PortIx) (s : State),
    (s.barOpen p.val 0 = true → let s' := s
      let s := s'.wholeWrite p.val 0
      let g := fld (s.preg p.val 0x3010) 0 16
      ((s.port p.val).resetReq = none → 10 ≤ g → g ≤ 60000 → (s.port (1 - p.val)).linkUp = true → exec (.resetRequest p) s' =
        .next ((s.setPort p.val { s.port p.val with resetReq := some (s.ticks + g * ticksPerMs) }).noteRequest p.val (g * ticksPerMs))) ∧
      ((s.port p.val).resetReq ≠ none → exec (.resetRequest p) s' = .next (s.accessLog p.val 0 0x3010 accIgnored)) ∧
      exec (.withdraw p) s' = .next s.withdrawAll ∧
      (s.shown = none → ∀ k, exec (.proceed p k) s' = .next (s.accessLog p.val 0 0x3008 accIgnored)) ∧
      (∀ e, s.shown = some e →
        (∀ k : BitVec 16, e.token ≠ k.toNat → exec (.abandon p k) s' = .next (s.accessLog p.val 0 0x3008 accIgnored)) ∧
        (∀ k : BitVec 16, e.token = k.toNat →
          exec (.proceed p k) s' = .next ((s.answerEvent e 2).takeRung e) ∧
          (e.rung = 1 → exec (.escalate p k) s' = .next ((s.answerEvent e 3).reinit e.unit e.code).goOn) ∧
          (e.rung ≠ 1 → exec (.escalate p k) s' = .next (State.pfRequest { s.answerEvent e 3 with
            heldEvents := (s.answerEvent e 3).heldEvents ++ [{ e with escalated := some p.val }] } p.val 10)) ∧
          exec (.abandon p k) s' = .next ((s.answerEvent e 4).lose e.unit e.code)))) ∧
    (s.awake = true → s.mgmt.halted = false → s.resetAgreed = true → exec .deviceReset s = .next s.restart) ∧
    (s.resetAgreed = false ∨ s.mgmt.halted = true → exec .deviceReset s = .next s) ∧
    (s.awake = true →
      let late := [0, 1].filter fun p => (s.port p).resetReq.any fun d => decide (d ≤ s.ticks)
      (∀ d, s.mgmt.resetDeadline = some d → d ≤ s.ticks →
        (s.resetRefused = false → exec .resetDeadline s = .next s.restart) ∧
        (s.resetRefused = true → let t := (s.report lgDevice [] eResetRequest 7 2 0).endRequests late
          exec .resetDeadline s = .next { t with mgmt := { t.mgmt with resetDeadline := none } })) ∧
      (s.mgmt.resetDeadline = none → s.mgmt.halted = false →
        (s.resetAgreed = true → late ≠ [] → exec .resetDeadline s = .next s.restart) ∧
        (s.resetAgreed = false → exec .resetDeadline s = .next (s.endRequests late)))) ∧
    (∀ (k : BitVec 16) e, s.heldEvents.find? (fun e => e.token == k.toNat && e.escalated.isNone) = some e → s.running = true →
      let ms := fld (s.dreg (0x1040 + 8 * e.unit.fn.val)) 32 16
      (ms ≠ 0 → e.since + ms * ticksPerMs ≤ s.ticks → exec (.answerTimeout k) s = .next ((s.answerEvent e 5).takeRung e)) ∧
      (ms = 0 ∨ s.ticks < e.since + ms * ticksPerMs → exec (.answerTimeout k) s = .next s))) ∧
  (∀ s : State,
    (s.jinalUp = false → (∀ r, exec (.sensorSample r) s = .next s) ∧ ∀ mv, exec (.supplyFault mv) s = .next s) ∧
    (s.jinalUp = true →
      (∀ r : List (BitVec 16), r.length = 60 → (∀ x ∈ r.zipIdx, x.1.toInt < 16 * s.warnAt x.2 ∧ x.1.toInt < 16 * criticalAt x.2) → s.mgmt.warned = [] →
        exec (.sensorSample r) s = .next { s with mgmt := { s.mgmt with readings := r } }) ∧
      (∀ (r : List (BitVec 16)) x, r.length = 60 → r.zipIdx.find? (fun x => decide (16 * criticalAt x.2 ≤ x.1.toInt)) = some x → s.mgmt.halted = false →
        ∃ u : State, exec (.sensorSample r) s = .next (u.halt true x.2 x.1) ∧ (u.halt true x.2 x.1).mgmt.halted = true ∧
          (u.halt true x.2 x.1).mgmt.haltThermal = true ∧ (u.halt true x.2 x.1).mgmt.haltSensor = x.2 ∧ (u.halt true x.2 x.1).running = false) ∧
      (∀ mv, 48000 ≤ mv → mv ≤ 58000 → exec (.supplyFault mv) s = .next s) ∧
      (∀ mv, mv < 48000 ∨ 58000 < mv → s.mgmt.halted = false →
        exec (.supplyFault mv) s = .next (State.halt { s with power := { s.power with vin := mv } } false 0 (BitVec.ofNat 16 mv)))))
end

