-- ==== Sys2Proof/Laws/Tab.lean ====
section
/-! SUPPORT. Laws of sparse tables and of byte memory: a read after a write, a write after a write, and the canonical form. -/

namespace Sys2Proof.Machine

variable {α : Type}

theorem Tab.get_erase_self (d : α) (t : Tab α) (k : Nat) : Tab.get d (Tab.erase t k) k = d := by
  induction t with
  | nil => rfl
  | cons e r ih =>
    obtain ⟨a, b⟩ := e
    by_cases h : k = a
    · simp [Tab.erase, h] at ih ⊢; subst h; exact ih
    · simp [Tab.erase, Tab.get, h, ih]

theorem Tab.get_erase_ne (d : α) (t : Tab α) {j k : Nat} (hj : j ≠ k) : Tab.get d (Tab.erase t k) j = Tab.get d t j := by
  induction t with
  | nil => rfl
  | cons e r ih =>
    obtain ⟨a, b⟩ := e
    by_cases h : k = a
    · subst h; simp [Tab.erase, Tab.get, hj, ih]
    · by_cases h2 : j = a <;> simp [Tab.erase, Tab.get, h, h2, ih]

theorem Tab.erase_erase (t : Tab α) (k : Nat) : Tab.erase (Tab.erase t k) k = Tab.erase t k := by
  induction t with
  | nil => rfl
  | cons e r ih =>
    obtain ⟨a, b⟩ := e
    by_cases h : k = a
    · simp [Tab.erase, h] at ih ⊢; subst h; exact ih
    · simp [Tab.erase, h, ih]

theorem Tab.erase_ins (t : Tab α) (k : Nat) (v : α) : Tab.erase (Tab.ins t k v) k = Tab.erase t k := by
  induction t with
  | nil => simp [Tab.ins, Tab.erase]
  | cons e r ih =>
    obtain ⟨a, b⟩ := e
    by_cases h : k < a
    · simp [Tab.ins, Tab.erase, h]
    · by_cases h2 : k = a <;> simp [Tab.ins, Tab.erase, h, h2] at ih ⊢
      · subst h2; exact ih
      · exact ih

theorem Tab.get_ins_self (d : α) (t : Tab α) (k : Nat) (v : α) :
    Tab.get d (Tab.ins (Tab.erase t k) k v) k = v := by
  induction t with
  | nil => simp [Tab.erase, Tab.ins, Tab.get]
  | cons e r ih =>
    obtain ⟨a, b⟩ := e
    by_cases h : k = a
    · subst h; simpa [Tab.erase] using ih
    · by_cases h2 : k < a <;> simp [Tab.erase, Tab.ins, Tab.get, h, h2, ih]

theorem Tab.get_ins_ne (d : α) (t : Tab α) {j k : Nat} (v : α) (hj : j ≠ k) :
    Tab.get d (Tab.ins t k v) j = Tab.get d t j := by
  induction t with
  | nil => simp [Tab.ins, Tab.get, hj]
  | cons e r ih =>
    obtain ⟨a, b⟩ := e
    by_cases h : k < a
    · simp [Tab.ins, Tab.get, h, hj]
    · by_cases h2 : j = a <;> simp [Tab.ins, Tab.get, h, h2, ih]

theorem Tab.above_erase {j : Nat} (t : Tab α) (k : Nat) (h : Tab.above j t = true) : Tab.above j (Tab.erase t k) = true := by
  induction t with
  | nil => rfl
  | cons e r ih =>
    obtain ⟨a, b⟩ := e
    simp only [Tab.above, List.all_cons, Bool.and_eq_true] at h ih
    by_cases h2 : k = a <;> simp [Tab.erase, h2, Tab.above]
    · subst h2; simpa [Tab.above] using ih h.2
    · exact ⟨by simpa using h.1, by simpa [Tab.above] using ih h.2⟩

theorem Tab.above_ins {j : Nat} (t : Tab α) (k : Nat) (v : α) (hk : j < k) (h : Tab.above j t = true) :
    Tab.above j (Tab.ins t k v) = true := by
  induction t with
  | nil => simp [Tab.ins, Tab.above, hk]
  | cons e r ih =>
    obtain ⟨a, b⟩ := e
    simp only [Tab.above, List.all_cons, Bool.and_eq_true, decide_eq_true_eq] at h ih
    by_cases h2 : k < a
    · simp [Tab.ins, h2, Tab.above, hk, h.1]; simpa using h.2
    · simp [Tab.ins, h2, Tab.above, h.1]; simpa [Tab.above] using ih h.2

theorem Tab.above_mono {i j : Nat} (t : Tab α) (hij : i ≤ j) (h : Tab.above j t = true) : Tab.above i t = true := by
  simp only [Tab.above, List.all_eq_true, decide_eq_true_eq] at h ⊢
  exact fun e he => Nat.lt_of_le_of_lt hij (h e he)

theorem Tab.erase_keys (t : Tab α) (k : Nat) : ∀ e ∈ Tab.erase t k, e.1 ≠ k := by
  induction t with
  | nil => simp [Tab.erase]
  | cons e r ih =>
    obtain ⟨a, b⟩ := e
    by_cases h : k = a
    · subst h; rw [Tab.erase, if_pos rfl]; exact ih
    · intro x hx
      simp only [Tab.erase, h, if_false, List.mem_cons] at hx
      rcases hx with rfl | hx
      · exact fun q => h q.symm
      · exact ih x hx

section put
variable [DecidableEq α]

/-- A read after a write of the same key gives the value written. -/
@[simp] theorem Tab.get_put (d : α) (t : Tab α) (k : Nat) (v : α) : Tab.get d (Tab.put d t k v) k = v := by
  unfold Tab.put
  split
  · next h => rw [Tab.get_erase_self, h]
  · exact Tab.get_ins_self d t k v

/-- A write leaves what every other key holds. -/
theorem Tab.get_put_ne (d : α) (t : Tab α) {j k : Nat} (v : α) (hj : j ≠ k) :
    Tab.get d (Tab.put d t k v) j = Tab.get d t j := by
  unfold Tab.put
  split
  · exact Tab.get_erase_ne d t hj
  · rw [Tab.get_ins_ne d _ v hj, Tab.get_erase_ne d t hj]

/-- A read after a write, either way. -/
theorem Tab.get_put_eq (d : α) (t : Tab α) (j k : Nat) (v : α) :
    Tab.get d (Tab.put d t k v) j = if j = k then v else Tab.get d t j := by
  by_cases h : j = k
  · subst h; simp
  · simp [h, Tab.get_put_ne d t v h]

theorem Tab.erase_put (d : α) (t : Tab α) (k : Nat) (v : α) : Tab.erase (Tab.put d t k v) k = Tab.erase t k := by
  unfold Tab.put
  split
  · exact Tab.erase_erase t k
  · rw [Tab.erase_ins, Tab.erase_erase]

/-- Of two writes of one key the later is all that remains. -/
@[simp] theorem Tab.put_put (d : α) (t : Tab α) (k : Nat) (v w : α) :
    Tab.put d (Tab.put d t k v) k w = Tab.put d t k w := by
  have h := Tab.erase_put d t k v
  unfold Tab.put at h ⊢
  rw [h]

theorem Tab.wf_erase (d : α) (t : Tab α) (k : Nat) (h : Tab.wf d t = true) : Tab.wf d (Tab.erase t k) = true := by
  induction t with
  | nil => rfl
  | cons e r ih =>
    obtain ⟨a, b⟩ := e
    simp only [Tab.wf, Bool.and_eq_true] at h
    by_cases h2 : k = a
    · simpa [Tab.erase, h2] using (h2 ▸ ih h.2)
    · simp only [Tab.erase, h2, if_false, Tab.wf, Bool.and_eq_true]
      exact ⟨⟨h.1.1, Tab.above_erase r k h.1.2⟩, ih h.2⟩

theorem Tab.wf_ins (d : α) (t : Tab α) (k : Nat) (v : α) (hv : v ≠ d) (h : Tab.wf d t = true)
    (hk : ∀ e ∈ t, e.1 ≠ k) : Tab.wf d (Tab.ins t k v) = true := by
  induction t with
  | nil => simp [Tab.ins, Tab.wf, hv, Tab.above]
  | cons e r ih =>
    obtain ⟨a, b⟩ := e
    simp only [Tab.wf, Bool.and_eq_true] at h
    by_cases h2 : k < a
    · simp only [Tab.ins, h2, if_true, Tab.wf, Bool.and_eq_true]
      refine ⟨⟨by simpa using hv, ?_⟩, ⟨h.1, h.2⟩⟩
      simp only [Tab.above, List.all_cons, Bool.and_eq_true, decide_eq_true_eq]
      exact ⟨h2, Tab.above_mono r (Nat.le_of_lt h2) h.1.2⟩
    · have hne : a ≠ k := hk (a, b) (by simp)
      simp only [Tab.ins, h2, if_false, Tab.wf, Bool.and_eq_true]
      exact ⟨⟨h.1.1, Tab.above_ins r k v (by omega) h.1.2⟩, ih h.2 fun e he => hk e (by simp [he])⟩

/-- A write keeps the canonical form. -/
theorem Tab.wf_put (d : α) (t : Tab α) (k : Nat) (v : α) (h : Tab.wf d t = true) : Tab.wf d (Tab.put d t k v) = true := by
  unfold Tab.put
  split
  · exact Tab.wf_erase d t k h
  · next hv => exact Tab.wf_ins d _ k v hv (Tab.wf_erase d t k h) (Tab.erase_keys t k)

theorem Tab.wf_filter (d : α) (p : Nat × α → Bool) (t : Tab α) (h : Tab.wf d t = true) : Tab.wf d (t.filter p) = true := by
  induction t with
  | nil => rfl
  | cons e r ih =>
    obtain ⟨a, b⟩ := e
    simp only [Tab.wf, Bool.and_eq_true] at h
    by_cases hp : p (a, b) = true
    · simp only [List.filter_cons, hp, if_true, Tab.wf, Bool.and_eq_true]
      refine ⟨⟨h.1.1, ?_⟩, ih h.2⟩
      have := h.1.2
      simp only [Tab.above, List.all_eq_true, decide_eq_true_eq] at this ⊢
      exact fun e he => this e (List.mem_of_mem_filter he)
    · simpa [List.filter_cons, hp] using ih h.2

end put

/-! ### Memory -/

theorem Memory.read_write (m : Memory) (a j : Nat) (b : Byte) :
    (m.write a b).read j = if j = a then b else m.read j := Tab.get_put_eq 0#8 m j a b

/-- Every byte outside the written range reads as before. -/
theorem Memory.read_writeBytes_out (d : Bytes) (m : Memory) (a j : Nat) (h : j < a ∨ a + d.length ≤ j) :
    (m.writeBytes a d).read j = m.read j := by
  induction d generalizing m a with
  | nil => rfl
  | cons b r ih =>
    simp only [List.length_cons] at h
    rw [Memory.writeBytes, ih _ _ (by omega), Memory.read_write, if_neg (by omega)]

/-- A byte of the written range reads as written. -/
theorem Memory.read_writeBytes_in (d : Bytes) (m : Memory) (a i : Nat) (h : i < d.length) :
    (m.writeBytes a d).read (a + i) = d.getD i 0 := by
  induction d generalizing m a i with
  | nil => simp at h
  | cons b r ih =>
    rw [Memory.writeBytes]
    cases i with
    | zero => rw [Memory.read_writeBytes_out _ _ _ _ (by omega), Memory.read_write]; simp
    | succ i =>
      have := ih (m.write a b) (a + 1) i (by simpa using h)
      rw [show a + (i + 1) = a + 1 + i by omega, this]; simp

/-- A run of the written range reads as written. -/
theorem Memory.readBytes_writeBytes_in (d : Bytes) (m : Memory) (a : Nat) :
    ∀ n o, o + n ≤ d.length → (m.writeBytes a d).readBytes (a + o) n = (d.drop o).take n
  | 0, _, _ => by simp [Memory.readBytes]
  | n + 1, o, h => by
    have ho : o < d.length := by omega
    rw [Memory.readBytes, Memory.read_writeBytes_in d m a o ho, Nat.add_assoc,
      Memory.readBytes_writeBytes_in d m a n (o + 1) (by omega), List.drop_eq_getElem_cons ho, List.take_succ_cons,
      List.getD_eq_getElem d _ ho]

/-- A run outside the written range reads as before. -/
theorem Memory.readBytes_writeBytes_out (d : Bytes) (m : Memory) (a : Nat) :
    ∀ n b, (b + n ≤ a ∨ a + d.length ≤ b) → (m.writeBytes a d).readBytes b n = m.readBytes b n
  | 0, _, _ => rfl
  | n + 1, b, h => by
    rw [Memory.readBytes, Memory.readBytes, Memory.read_writeBytes_out d m a b (by omega),
      Memory.readBytes_writeBytes_out d m a n (b + 1) (by omega)]

theorem Memory.wf_write (m : Memory) (a : Nat) (b : Byte) (h : m.wf = true) : (m.write a b).wf = true :=
  Tab.wf_put 0#8 m a b h

theorem Memory.wf_writeBytes (d : Bytes) (m : Memory) (a : Nat) (h : m.wf = true) : (m.writeBytes a d).wf = true := by
  induction d generalizing m a with
  | nil => exact h
  | cons b r ih => exact ih _ _ (Memory.wf_write m a b h)

theorem Memory.wf_clearRange (m : Memory) (lo hi : Nat) (h : m.wf = true) : (m.clearRange lo hi).wf = true :=
  Tab.wf_filter 0#8 _ m h

end Sys2Proof.Machine
end

