-- ==== Sys2Proof/Laws/State.lean ====
section
/-! SUPPORT. What each update of a part of the state leaves of every field, and what is read of a part after an update of it. -/

namespace Sys2Proof.Machine

variable (s : State)

/-! ### setCore -/

section setCore
variable (c : Nat) (k : Core)

@[simp] theorem State.setCore_pending : (s.setCore c k).pending = s.pending := rfl
@[simp] theorem State.setCore_out : (s.setCore c k).out = s.out := rfl
@[simp] theorem State.setCore_freeCtr : (s.setCore c k).freeCtr = s.freeCtr := rfl
@[simp] theorem State.setCore_ticks : (s.setCore c k).ticks = s.ticks := rfl
@[simp] theorem State.setCore_fuses : (s.setCore c k).fuses = s.fuses := rfl
@[simp] theorem State.setCore_bootFlash : (s.setCore c k).bootFlash = s.bootFlash := rfl
@[simp] theorem State.setCore_boot : (s.setCore c k).boot = s.boot := rfl
@[simp] theorem State.setCore_power : (s.setCore c k).power = s.power := rfl
@[simp] theorem State.setCore_mgmt : (s.setCore c k).mgmt = s.mgmt := rfl
@[simp] theorem State.setCore_syncs : (s.setCore c k).syncs = s.syncs := rfl
@[simp] theorem State.setCore_programs : (s.setCore c k).programs = s.programs := rfl
@[simp] theorem State.setCore_services : (s.setCore c k).services = s.services := rfl
@[simp] theorem State.setCore_insts : (s.setCore c k).insts = s.insts := rfl
@[simp] theorem State.setCore_instCount : (s.setCore c k).instCount = s.instCount := rfl
@[simp] theorem State.setCore_acceptCount : (s.setCore c k).acceptCount = s.acceptCount := rfl
@[simp] theorem State.setCore_readyQ : (s.setCore c k).readyQ = s.readyQ := rfl
@[simp] theorem State.setCore_flows : (s.setCore c k).flows = s.flows := rfl
@[simp] theorem State.setCore_streams : (s.setCore c k).streams = s.streams := rfl
@[simp] theorem State.setCore_rrStream : (s.setCore c k).rrStream = s.rrStream := rfl
@[simp] theorem State.setCore_flowLast : (s.setCore c k).flowLast = s.flowLast := rfl
@[simp] theorem State.setCore_tables : (s.setCore c k).tables = s.tables := rfl
@[simp] theorem State.setCore_windows : (s.setCore c k).windows = s.windows := rfl
@[simp] theorem State.setCore_graphs : (s.setCore c k).graphs = s.graphs := rfl
@[simp] theorem State.setCore_sweeps : (s.setCore c k).sweeps = s.sweeps := rfl
@[simp] theorem State.setCore_sweepMarks : (s.setCore c k).sweepMarks = s.sweepMarks := rfl
@[simp] theorem State.setCore_switches : (s.setCore c k).switches = s.switches := rfl
@[simp] theorem State.setCore_chunks : (s.setCore c k).chunks = s.chunks := rfl
@[simp] theorem State.setCore_moves : (s.setCore c k).moves = s.moves := rfl
@[simp] theorem State.setCore_oldChunks : (s.setCore c k).oldChunks = s.oldChunks := rfl
@[simp] theorem State.setCore_shardMoves : (s.setCore c k).shardMoves = s.shardMoves := rfl
@[simp] theorem State.setCore_staged : (s.setCore c k).staged = s.staged := rfl
@[simp] theorem State.setCore_mapWaits : (s.setCore c k).mapWaits = s.mapWaits := rfl
@[simp] theorem State.setCore_areas : (s.setCore c k).areas = s.areas := rfl
@[simp] theorem State.setCore_visited : (s.setCore c k).visited = s.visited := rfl
@[simp] theorem State.setCore_flashMoved : (s.setCore c k).flashMoved = s.flashMoved := rfl
@[simp] theorem State.setCore_shardCounts : (s.setCore c k).shardCounts = s.shardCounts := rfl
@[simp] theorem State.setCore_shardWindow : (s.setCore c k).shardWindow = s.shardWindow := rfl
@[simp] theorem State.setCore_epochStart : (s.setCore c k).epochStart = s.epochStart := rfl
@[simp] theorem State.setCore_dmem : (s.setCore c k).dmem = s.dmem := rfl
@[simp] theorem State.setCore_poison : (s.setCore c k).poison = s.poison := rfl
@[simp] theorem State.setCore_cache : (s.setCore c k).cache = s.cache := rfl
@[simp] theorem State.setCore_trackers : (s.setCore c k).trackers = s.trackers := rfl
@[simp] theorem State.setCore_pageCache : (s.setCore c k).pageCache = s.pageCache := rfl
@[simp] theorem State.setCore_flashWrites : (s.setCore c k).flashWrites = s.flashWrites := rfl
@[simp] theorem State.setCore_hubWritten : (s.setCore c k).hubWritten = s.hubWritten := rfl
@[simp] theorem State.setCore_tierRefused : (s.setCore c k).tierRefused = s.tierRefused := rfl
@[simp] theorem State.setCore_rings : (s.setCore c k).rings = s.rings := rfl
@[simp] theorem State.setCore_ringTurn : (s.setCore c k).ringTurn = s.ringTurn := rfl
@[simp] theorem State.setCore_regs : (s.setCore c k).regs = s.regs := rfl
@[simp] theorem State.setCore_locked : (s.setCore c k).locked = s.locked := rfl
@[simp] theorem State.setCore_lockBy : (s.setCore c k).lockBy = s.lockBy := rfl
@[simp] theorem State.setCore_lockRefused : (s.setCore c k).lockRefused = s.lockRefused := rfl
@[simp] theorem State.setCore_lockCause : (s.setCore c k).lockCause = s.lockCause := rfl
@[simp] theorem State.setCore_lockCount : (s.setCore c k).lockCount = s.lockCount := rfl
@[simp] theorem State.setCore_lockLast : (s.setCore c k).lockLast = s.lockLast := rfl
@[simp] theorem State.setCore_ports : (s.setCore c k).ports = s.ports := rfl
@[simp] theorem State.setCore_accs : (s.setCore c k).accs = s.accs := rfl
@[simp] theorem State.setCore_nextAcc : (s.setCore c k).nextAcc = s.nextAcc := rfl
@[simp] theorem State.setCore_released : (s.setCore c k).released = s.released := rfl
@[simp] theorem State.setCore_portIn : (s.setCore c k).portIn = s.portIn := rfl
@[simp] theorem State.setCore_links : (s.setCore c k).links = s.links := rfl
@[simp] theorem State.setCore_channels : (s.setCore c k).channels = s.channels := rfl
@[simp] theorem State.setCore_fences : (s.setCore c k).fences = s.fences := rfl
@[simp] theorem State.setCore_nextFence : (s.setCore c k).nextFence = s.nextFence := rfl
@[simp] theorem State.setCore_fencesIn : (s.setCore c k).fencesIn = s.fencesIn := rfl
@[simp] theorem State.setCore_nextTag : (s.setCore c k).nextTag = s.nextTag := rfl
@[simp] theorem State.setCore_responses : (s.setCore c k).responses = s.responses := rfl
@[simp] theorem State.setCore_mtags : (s.setCore c k).mtags = s.mtags := rfl
@[simp] theorem State.setCore_mgOut : (s.setCore c k).mgOut = s.mgOut := rfl
@[simp] theorem State.setCore_mgWait : (s.setCore c k).mgWait = s.mgWait := rfl
@[simp] theorem State.setCore_remotes : (s.setCore c k).remotes = s.remotes := rfl
@[simp] theorem State.setCore_rqOut : (s.setCore c k).rqOut = s.rqOut := rfl
@[simp] theorem State.setCore_mgIn : (s.setCore c k).mgIn = s.mgIn := rfl
@[simp] theorem State.setCore_bcNow : (s.setCore c k).bcNow = s.bcNow := rfl
@[simp] theorem State.setCore_bcQ : (s.setCore c k).bcQ = s.bcQ := rfl
@[simp] theorem State.setCore_kneads : (s.setCore c k).kneads = s.kneads := rfl
@[simp] theorem State.setCore_kneadGrants : (s.setCore c k).kneadGrants = s.kneadGrants := rfl
@[simp] theorem State.setCore_queue : (s.setCore c k).queue = s.queue := rfl
@[simp] theorem State.setCore_rowLine : (s.setCore c k).rowLine = s.rowLine := rfl
@[simp] theorem State.setCore_sifterInvalid : (s.setCore c k).sifterInvalid = s.sifterInvalid := rfl
@[simp] theorem State.setCore_logs : (s.setCore c k).logs = s.logs := rfl
@[simp] theorem State.setCore_units : (s.setCore c k).units = s.units := rfl
@[simp] theorem State.setCore_heldEvents : (s.setCore c k).heldEvents = s.heldEvents := rfl
@[simp] theorem State.setCore_nextToken : (s.setCore c k).nextToken = s.nextToken := rfl
@[simp] theorem State.setCore_spdm : (s.setCore c k).spdm = s.spdm := rfl

end setCore

/-! ### setSync -/

section setSync
variable (o : Nat) (x : SyncObj)

@[simp] theorem State.setSync_pending : (s.setSync o x).pending = s.pending := rfl
@[simp] theorem State.setSync_out : (s.setSync o x).out = s.out := rfl
@[simp] theorem State.setSync_freeCtr : (s.setSync o x).freeCtr = s.freeCtr := rfl
@[simp] theorem State.setSync_ticks : (s.setSync o x).ticks = s.ticks := rfl
@[simp] theorem State.setSync_fuses : (s.setSync o x).fuses = s.fuses := rfl
@[simp] theorem State.setSync_bootFlash : (s.setSync o x).bootFlash = s.bootFlash := rfl
@[simp] theorem State.setSync_boot : (s.setSync o x).boot = s.boot := rfl
@[simp] theorem State.setSync_power : (s.setSync o x).power = s.power := rfl
@[simp] theorem State.setSync_mgmt : (s.setSync o x).mgmt = s.mgmt := rfl
@[simp] theorem State.setSync_cores : (s.setSync o x).cores = s.cores := rfl
@[simp] theorem State.setSync_programs : (s.setSync o x).programs = s.programs := rfl
@[simp] theorem State.setSync_services : (s.setSync o x).services = s.services := rfl
@[simp] theorem State.setSync_insts : (s.setSync o x).insts = s.insts := rfl
@[simp] theorem State.setSync_instCount : (s.setSync o x).instCount = s.instCount := rfl
@[simp] theorem State.setSync_acceptCount : (s.setSync o x).acceptCount = s.acceptCount := rfl
@[simp] theorem State.setSync_readyQ : (s.setSync o x).readyQ = s.readyQ := rfl
@[simp] theorem State.setSync_flows : (s.setSync o x).flows = s.flows := rfl
@[simp] theorem State.setSync_streams : (s.setSync o x).streams = s.streams := rfl
@[simp] theorem State.setSync_rrStream : (s.setSync o x).rrStream = s.rrStream := rfl
@[simp] theorem State.setSync_flowLast : (s.setSync o x).flowLast = s.flowLast := rfl
@[simp] theorem State.setSync_tables : (s.setSync o x).tables = s.tables := rfl
@[simp] theorem State.setSync_windows : (s.setSync o x).windows = s.windows := rfl
@[simp] theorem State.setSync_graphs : (s.setSync o x).graphs = s.graphs := rfl
@[simp] theorem State.setSync_sweeps : (s.setSync o x).sweeps = s.sweeps := rfl
@[simp] theorem State.setSync_sweepMarks : (s.setSync o x).sweepMarks = s.sweepMarks := rfl
@[simp] theorem State.setSync_switches : (s.setSync o x).switches = s.switches := rfl
@[simp] theorem State.setSync_chunks : (s.setSync o x).chunks = s.chunks := rfl
@[simp] theorem State.setSync_moves : (s.setSync o x).moves = s.moves := rfl
@[simp] theorem State.setSync_oldChunks : (s.setSync o x).oldChunks = s.oldChunks := rfl
@[simp] theorem State.setSync_shardMoves : (s.setSync o x).shardMoves = s.shardMoves := rfl
@[simp] theorem State.setSync_staged : (s.setSync o x).staged = s.staged := rfl
@[simp] theorem State.setSync_mapWaits : (s.setSync o x).mapWaits = s.mapWaits := rfl
@[simp] theorem State.setSync_areas : (s.setSync o x).areas = s.areas := rfl
@[simp] theorem State.setSync_visited : (s.setSync o x).visited = s.visited := rfl
@[simp] theorem State.setSync_flashMoved : (s.setSync o x).flashMoved = s.flashMoved := rfl
@[simp] theorem State.setSync_shardCounts : (s.setSync o x).shardCounts = s.shardCounts := rfl
@[simp] theorem State.setSync_shardWindow : (s.setSync o x).shardWindow = s.shardWindow := rfl
@[simp] theorem State.setSync_epochStart : (s.setSync o x).epochStart = s.epochStart := rfl
@[simp] theorem State.setSync_dmem : (s.setSync o x).dmem = s.dmem := rfl
@[simp] theorem State.setSync_poison : (s.setSync o x).poison = s.poison := rfl
@[simp] theorem State.setSync_cache : (s.setSync o x).cache = s.cache := rfl
@[simp] theorem State.setSync_trackers : (s.setSync o x).trackers = s.trackers := rfl
@[simp] theorem State.setSync_pageCache : (s.setSync o x).pageCache = s.pageCache := rfl
@[simp] theorem State.setSync_flashWrites : (s.setSync o x).flashWrites = s.flashWrites := rfl
@[simp] theorem State.setSync_hubWritten : (s.setSync o x).hubWritten = s.hubWritten := rfl
@[simp] theorem State.setSync_tierRefused : (s.setSync o x).tierRefused = s.tierRefused := rfl
@[simp] theorem State.setSync_rings : (s.setSync o x).rings = s.rings := rfl
@[simp] theorem State.setSync_ringTurn : (s.setSync o x).ringTurn = s.ringTurn := rfl
@[simp] theorem State.setSync_regs : (s.setSync o x).regs = s.regs := rfl
@[simp] theorem State.setSync_locked : (s.setSync o x).locked = s.locked := rfl
@[simp] theorem State.setSync_lockBy : (s.setSync o x).lockBy = s.lockBy := rfl
@[simp] theorem State.setSync_lockRefused : (s.setSync o x).lockRefused = s.lockRefused := rfl
@[simp] theorem State.setSync_lockCause : (s.setSync o x).lockCause = s.lockCause := rfl
@[simp] theorem State.setSync_lockCount : (s.setSync o x).lockCount = s.lockCount := rfl
@[simp] theorem State.setSync_lockLast : (s.setSync o x).lockLast = s.lockLast := rfl
@[simp] theorem State.setSync_ports : (s.setSync o x).ports = s.ports := rfl
@[simp] theorem State.setSync_accs : (s.setSync o x).accs = s.accs := rfl
@[simp] theorem State.setSync_nextAcc : (s.setSync o x).nextAcc = s.nextAcc := rfl
@[simp] theorem State.setSync_released : (s.setSync o x).released = s.released := rfl
@[simp] theorem State.setSync_portIn : (s.setSync o x).portIn = s.portIn := rfl
@[simp] theorem State.setSync_links : (s.setSync o x).links = s.links := rfl
@[simp] theorem State.setSync_channels : (s.setSync o x).channels = s.channels := rfl
@[simp] theorem State.setSync_fences : (s.setSync o x).fences = s.fences := rfl
@[simp] theorem State.setSync_nextFence : (s.setSync o x).nextFence = s.nextFence := rfl
@[simp] theorem State.setSync_fencesIn : (s.setSync o x).fencesIn = s.fencesIn := rfl
@[simp] theorem State.setSync_nextTag : (s.setSync o x).nextTag = s.nextTag := rfl
@[simp] theorem State.setSync_responses : (s.setSync o x).responses = s.responses := rfl
@[simp] theorem State.setSync_mtags : (s.setSync o x).mtags = s.mtags := rfl
@[simp] theorem State.setSync_mgOut : (s.setSync o x).mgOut = s.mgOut := rfl
@[simp] theorem State.setSync_mgWait : (s.setSync o x).mgWait = s.mgWait := rfl
@[simp] theorem State.setSync_remotes : (s.setSync o x).remotes = s.remotes := rfl
@[simp] theorem State.setSync_rqOut : (s.setSync o x).rqOut = s.rqOut := rfl
@[simp] theorem State.setSync_mgIn : (s.setSync o x).mgIn = s.mgIn := rfl
@[simp] theorem State.setSync_bcNow : (s.setSync o x).bcNow = s.bcNow := rfl
@[simp] theorem State.setSync_bcQ : (s.setSync o x).bcQ = s.bcQ := rfl
@[simp] theorem State.setSync_kneads : (s.setSync o x).kneads = s.kneads := rfl
@[simp] theorem State.setSync_kneadGrants : (s.setSync o x).kneadGrants = s.kneadGrants := rfl
@[simp] theorem State.setSync_queue : (s.setSync o x).queue = s.queue := rfl
@[simp] theorem State.setSync_rowLine : (s.setSync o x).rowLine = s.rowLine := rfl
@[simp] theorem State.setSync_sifterInvalid : (s.setSync o x).sifterInvalid = s.sifterInvalid := rfl
@[simp] theorem State.setSync_logs : (s.setSync o x).logs = s.logs := rfl
@[simp] theorem State.setSync_units : (s.setSync o x).units = s.units := rfl
@[simp] theorem State.setSync_heldEvents : (s.setSync o x).heldEvents = s.heldEvents := rfl
@[simp] theorem State.setSync_nextToken : (s.setSync o x).nextToken = s.nextToken := rfl
@[simp] theorem State.setSync_spdm : (s.setSync o x).spdm = s.spdm := rfl

end setSync

/-! ### setRing -/

section setRing
variable (r : Nat) (x : Ring)

@[simp] theorem State.setRing_pending : (s.setRing r x).pending = s.pending := rfl
@[simp] theorem State.setRing_out : (s.setRing r x).out = s.out := rfl
@[simp] theorem State.setRing_freeCtr : (s.setRing r x).freeCtr = s.freeCtr := rfl
@[simp] theorem State.setRing_ticks : (s.setRing r x).ticks = s.ticks := rfl
@[simp] theorem State.setRing_fuses : (s.setRing r x).fuses = s.fuses := rfl
@[simp] theorem State.setRing_bootFlash : (s.setRing r x).bootFlash = s.bootFlash := rfl
@[simp] theorem State.setRing_boot : (s.setRing r x).boot = s.boot := rfl
@[simp] theorem State.setRing_power : (s.setRing r x).power = s.power := rfl
@[simp] theorem State.setRing_mgmt : (s.setRing r x).mgmt = s.mgmt := rfl
@[simp] theorem State.setRing_cores : (s.setRing r x).cores = s.cores := rfl
@[simp] theorem State.setRing_syncs : (s.setRing r x).syncs = s.syncs := rfl
@[simp] theorem State.setRing_programs : (s.setRing r x).programs = s.programs := rfl
@[simp] theorem State.setRing_services : (s.setRing r x).services = s.services := rfl
@[simp] theorem State.setRing_insts : (s.setRing r x).insts = s.insts := rfl
@[simp] theorem State.setRing_instCount : (s.setRing r x).instCount = s.instCount := rfl
@[simp] theorem State.setRing_acceptCount : (s.setRing r x).acceptCount = s.acceptCount := rfl
@[simp] theorem State.setRing_readyQ : (s.setRing r x).readyQ = s.readyQ := rfl
@[simp] theorem State.setRing_flows : (s.setRing r x).flows = s.flows := rfl
@[simp] theorem State.setRing_streams : (s.setRing r x).streams = s.streams := rfl
@[simp] theorem State.setRing_rrStream : (s.setRing r x).rrStream = s.rrStream := rfl
@[simp] theorem State.setRing_flowLast : (s.setRing r x).flowLast = s.flowLast := rfl
@[simp] theorem State.setRing_tables : (s.setRing r x).tables = s.tables := rfl
@[simp] theorem State.setRing_windows : (s.setRing r x).windows = s.windows := rfl
@[simp] theorem State.setRing_graphs : (s.setRing r x).graphs = s.graphs := rfl
@[simp] theorem State.setRing_sweeps : (s.setRing r x).sweeps = s.sweeps := rfl
@[simp] theorem State.setRing_sweepMarks : (s.setRing r x).sweepMarks = s.sweepMarks := rfl
@[simp] theorem State.setRing_switches : (s.setRing r x).switches = s.switches := rfl
@[simp] theorem State.setRing_chunks : (s.setRing r x).chunks = s.chunks := rfl
@[simp] theorem State.setRing_moves : (s.setRing r x).moves = s.moves := rfl
@[simp] theorem State.setRing_oldChunks : (s.setRing r x).oldChunks = s.oldChunks := rfl
@[simp] theorem State.setRing_shardMoves : (s.setRing r x).shardMoves = s.shardMoves := rfl
@[simp] theorem State.setRing_staged : (s.setRing r x).staged = s.staged := rfl
@[simp] theorem State.setRing_mapWaits : (s.setRing r x).mapWaits = s.mapWaits := rfl
@[simp] theorem State.setRing_areas : (s.setRing r x).areas = s.areas := rfl
@[simp] theorem State.setRing_visited : (s.setRing r x).visited = s.visited := rfl
@[simp] theorem State.setRing_flashMoved : (s.setRing r x).flashMoved = s.flashMoved := rfl
@[simp] theorem State.setRing_shardCounts : (s.setRing r x).shardCounts = s.shardCounts := rfl
@[simp] theorem State.setRing_shardWindow : (s.setRing r x).shardWindow = s.shardWindow := rfl
@[simp] theorem State.setRing_epochStart : (s.setRing r x).epochStart = s.epochStart := rfl
@[simp] theorem State.setRing_dmem : (s.setRing r x).dmem = s.dmem := rfl
@[simp] theorem State.setRing_poison : (s.setRing r x).poison = s.poison := rfl
@[simp] theorem State.setRing_cache : (s.setRing r x).cache = s.cache := rfl
@[simp] theorem State.setRing_trackers : (s.setRing r x).trackers = s.trackers := rfl
@[simp] theorem State.setRing_pageCache : (s.setRing r x).pageCache = s.pageCache := rfl
@[simp] theorem State.setRing_flashWrites : (s.setRing r x).flashWrites = s.flashWrites := rfl
@[simp] theorem State.setRing_hubWritten : (s.setRing r x).hubWritten = s.hubWritten := rfl
@[simp] theorem State.setRing_tierRefused : (s.setRing r x).tierRefused = s.tierRefused := rfl
@[simp] theorem State.setRing_ringTurn : (s.setRing r x).ringTurn = s.ringTurn := rfl
@[simp] theorem State.setRing_regs : (s.setRing r x).regs = s.regs := rfl
@[simp] theorem State.setRing_locked : (s.setRing r x).locked = s.locked := rfl
@[simp] theorem State.setRing_lockBy : (s.setRing r x).lockBy = s.lockBy := rfl
@[simp] theorem State.setRing_lockRefused : (s.setRing r x).lockRefused = s.lockRefused := rfl
@[simp] theorem State.setRing_lockCause : (s.setRing r x).lockCause = s.lockCause := rfl
@[simp] theorem State.setRing_lockCount : (s.setRing r x).lockCount = s.lockCount := rfl
@[simp] theorem State.setRing_lockLast : (s.setRing r x).lockLast = s.lockLast := rfl
@[simp] theorem State.setRing_ports : (s.setRing r x).ports = s.ports := rfl
@[simp] theorem State.setRing_accs : (s.setRing r x).accs = s.accs := rfl
@[simp] theorem State.setRing_nextAcc : (s.setRing r x).nextAcc = s.nextAcc := rfl
@[simp] theorem State.setRing_released : (s.setRing r x).released = s.released := rfl
@[simp] theorem State.setRing_portIn : (s.setRing r x).portIn = s.portIn := rfl
@[simp] theorem State.setRing_links : (s.setRing r x).links = s.links := rfl
@[simp] theorem State.setRing_channels : (s.setRing r x).channels = s.channels := rfl
@[simp] theorem State.setRing_fences : (s.setRing r x).fences = s.fences := rfl
@[simp] theorem State.setRing_nextFence : (s.setRing r x).nextFence = s.nextFence := rfl
@[simp] theorem State.setRing_fencesIn : (s.setRing r x).fencesIn = s.fencesIn := rfl
@[simp] theorem State.setRing_nextTag : (s.setRing r x).nextTag = s.nextTag := rfl
@[simp] theorem State.setRing_responses : (s.setRing r x).responses = s.responses := rfl
@[simp] theorem State.setRing_mtags : (s.setRing r x).mtags = s.mtags := rfl
@[simp] theorem State.setRing_mgOut : (s.setRing r x).mgOut = s.mgOut := rfl
@[simp] theorem State.setRing_mgWait : (s.setRing r x).mgWait = s.mgWait := rfl
@[simp] theorem State.setRing_remotes : (s.setRing r x).remotes = s.remotes := rfl
@[simp] theorem State.setRing_rqOut : (s.setRing r x).rqOut = s.rqOut := rfl
@[simp] theorem State.setRing_mgIn : (s.setRing r x).mgIn = s.mgIn := rfl
@[simp] theorem State.setRing_bcNow : (s.setRing r x).bcNow = s.bcNow := rfl
@[simp] theorem State.setRing_bcQ : (s.setRing r x).bcQ = s.bcQ := rfl
@[simp] theorem State.setRing_kneads : (s.setRing r x).kneads = s.kneads := rfl
@[simp] theorem State.setRing_kneadGrants : (s.setRing r x).kneadGrants = s.kneadGrants := rfl
@[simp] theorem State.setRing_queue : (s.setRing r x).queue = s.queue := rfl
@[simp] theorem State.setRing_rowLine : (s.setRing r x).rowLine = s.rowLine := rfl
@[simp] theorem State.setRing_sifterInvalid : (s.setRing r x).sifterInvalid = s.sifterInvalid := rfl
@[simp] theorem State.setRing_logs : (s.setRing r x).logs = s.logs := rfl
@[simp] theorem State.setRing_units : (s.setRing r x).units = s.units := rfl
@[simp] theorem State.setRing_heldEvents : (s.setRing r x).heldEvents = s.heldEvents := rfl
@[simp] theorem State.setRing_nextToken : (s.setRing r x).nextToken = s.nextToken := rfl
@[simp] theorem State.setRing_spdm : (s.setRing r x).spdm = s.spdm := rfl

end setRing

/-! ### setPort -/

section setPort
variable (p : Nat) (x : Port)

@[simp] theorem State.setPort_pending : (s.setPort p x).pending = s.pending := rfl
@[simp] theorem State.setPort_out : (s.setPort p x).out = s.out := rfl
@[simp] theorem State.setPort_freeCtr : (s.setPort p x).freeCtr = s.freeCtr := rfl
@[simp] theorem State.setPort_ticks : (s.setPort p x).ticks = s.ticks := rfl
@[simp] theorem State.setPort_fuses : (s.setPort p x).fuses = s.fuses := rfl
@[simp] theorem State.setPort_bootFlash : (s.setPort p x).bootFlash = s.bootFlash := rfl
@[simp] theorem State.setPort_boot : (s.setPort p x).boot = s.boot := rfl
@[simp] theorem State.setPort_power : (s.setPort p x).power = s.power := rfl
@[simp] theorem State.setPort_mgmt : (s.setPort p x).mgmt = s.mgmt := rfl
@[simp] theorem State.setPort_cores : (s.setPort p x).cores = s.cores := rfl
@[simp] theorem State.setPort_syncs : (s.setPort p x).syncs = s.syncs := rfl
@[simp] theorem State.setPort_programs : (s.setPort p x).programs = s.programs := rfl
@[simp] theorem State.setPort_services : (s.setPort p x).services = s.services := rfl
@[simp] theorem State.setPort_insts : (s.setPort p x).insts = s.insts := rfl
@[simp] theorem State.setPort_instCount : (s.setPort p x).instCount = s.instCount := rfl
@[simp] theorem State.setPort_acceptCount : (s.setPort p x).acceptCount = s.acceptCount := rfl
@[simp] theorem State.setPort_readyQ : (s.setPort p x).readyQ = s.readyQ := rfl
@[simp] theorem State.setPort_flows : (s.setPort p x).flows = s.flows := rfl
@[simp] theorem State.setPort_streams : (s.setPort p x).streams = s.streams := rfl
@[simp] theorem State.setPort_rrStream : (s.setPort p x).rrStream = s.rrStream := rfl
@[simp] theorem State.setPort_flowLast : (s.setPort p x).flowLast = s.flowLast := rfl
@[simp] theorem State.setPort_tables : (s.setPort p x).tables = s.tables := rfl
@[simp] theorem State.setPort_windows : (s.setPort p x).windows = s.windows := rfl
@[simp] theorem State.setPort_graphs : (s.setPort p x).graphs = s.graphs := rfl
@[simp] theorem State.setPort_sweeps : (s.setPort p x).sweeps = s.sweeps := rfl
@[simp] theorem State.setPort_sweepMarks : (s.setPort p x).sweepMarks = s.sweepMarks := rfl
@[simp] theorem State.setPort_switches : (s.setPort p x).switches = s.switches := rfl
@[simp] theorem State.setPort_chunks : (s.setPort p x).chunks = s.chunks := rfl
@[simp] theorem State.setPort_moves : (s.setPort p x).moves = s.moves := rfl
@[simp] theorem State.setPort_oldChunks : (s.setPort p x).oldChunks = s.oldChunks := rfl
@[simp] theorem State.setPort_shardMoves : (s.setPort p x).shardMoves = s.shardMoves := rfl
@[simp] theorem State.setPort_staged : (s.setPort p x).staged = s.staged := rfl
@[simp] theorem State.setPort_mapWaits : (s.setPort p x).mapWaits = s.mapWaits := rfl
@[simp] theorem State.setPort_areas : (s.setPort p x).areas = s.areas := rfl
@[simp] theorem State.setPort_visited : (s.setPort p x).visited = s.visited := rfl
@[simp] theorem State.setPort_flashMoved : (s.setPort p x).flashMoved = s.flashMoved := rfl
@[simp] theorem State.setPort_shardCounts : (s.setPort p x).shardCounts = s.shardCounts := rfl
@[simp] theorem State.setPort_shardWindow : (s.setPort p x).shardWindow = s.shardWindow := rfl
@[simp] theorem State.setPort_epochStart : (s.setPort p x).epochStart = s.epochStart := rfl
@[simp] theorem State.setPort_dmem : (s.setPort p x).dmem = s.dmem := rfl
@[simp] theorem State.setPort_poison : (s.setPort p x).poison = s.poison := rfl
@[simp] theorem State.setPort_cache : (s.setPort p x).cache = s.cache := rfl
@[simp] theorem State.setPort_trackers : (s.setPort p x).trackers = s.trackers := rfl
@[simp] theorem State.setPort_pageCache : (s.setPort p x).pageCache = s.pageCache := rfl
@[simp] theorem State.setPort_flashWrites : (s.setPort p x).flashWrites = s.flashWrites := rfl
@[simp] theorem State.setPort_hubWritten : (s.setPort p x).hubWritten = s.hubWritten := rfl
@[simp] theorem State.setPort_tierRefused : (s.setPort p x).tierRefused = s.tierRefused := rfl
@[simp] theorem State.setPort_rings : (s.setPort p x).rings = s.rings := rfl
@[simp] theorem State.setPort_ringTurn : (s.setPort p x).ringTurn = s.ringTurn := rfl
@[simp] theorem State.setPort_regs : (s.setPort p x).regs = s.regs := rfl
@[simp] theorem State.setPort_locked : (s.setPort p x).locked = s.locked := rfl
@[simp] theorem State.setPort_lockBy : (s.setPort p x).lockBy = s.lockBy := rfl
@[simp] theorem State.setPort_lockRefused : (s.setPort p x).lockRefused = s.lockRefused := rfl
@[simp] theorem State.setPort_lockCause : (s.setPort p x).lockCause = s.lockCause := rfl
@[simp] theorem State.setPort_lockCount : (s.setPort p x).lockCount = s.lockCount := rfl
@[simp] theorem State.setPort_lockLast : (s.setPort p x).lockLast = s.lockLast := rfl
@[simp] theorem State.setPort_accs : (s.setPort p x).accs = s.accs := rfl
@[simp] theorem State.setPort_nextAcc : (s.setPort p x).nextAcc = s.nextAcc := rfl
@[simp] theorem State.setPort_released : (s.setPort p x).released = s.released := rfl
@[simp] theorem State.setPort_portIn : (s.setPort p x).portIn = s.portIn := rfl
@[simp] theorem State.setPort_links : (s.setPort p x).links = s.links := rfl
@[simp] theorem State.setPort_channels : (s.setPort p x).channels = s.channels := rfl
@[simp] theorem State.setPort_fences : (s.setPort p x).fences = s.fences := rfl
@[simp] theorem State.setPort_nextFence : (s.setPort p x).nextFence = s.nextFence := rfl
@[simp] theorem State.setPort_fencesIn : (s.setPort p x).fencesIn = s.fencesIn := rfl
@[simp] theorem State.setPort_nextTag : (s.setPort p x).nextTag = s.nextTag := rfl
@[simp] theorem State.setPort_responses : (s.setPort p x).responses = s.responses := rfl
@[simp] theorem State.setPort_mtags : (s.setPort p x).mtags = s.mtags := rfl
@[simp] theorem State.setPort_mgOut : (s.setPort p x).mgOut = s.mgOut := rfl
@[simp] theorem State.setPort_mgWait : (s.setPort p x).mgWait = s.mgWait := rfl
@[simp] theorem State.setPort_remotes : (s.setPort p x).remotes = s.remotes := rfl
@[simp] theorem State.setPort_rqOut : (s.setPort p x).rqOut = s.rqOut := rfl
@[simp] theorem State.setPort_mgIn : (s.setPort p x).mgIn = s.mgIn := rfl
@[simp] theorem State.setPort_bcNow : (s.setPort p x).bcNow = s.bcNow := rfl
@[simp] theorem State.setPort_bcQ : (s.setPort p x).bcQ = s.bcQ := rfl
@[simp] theorem State.setPort_kneads : (s.setPort p x).kneads = s.kneads := rfl
@[simp] theorem State.setPort_kneadGrants : (s.setPort p x).kneadGrants = s.kneadGrants := rfl
@[simp] theorem State.setPort_queue : (s.setPort p x).queue = s.queue := rfl
@[simp] theorem State.setPort_rowLine : (s.setPort p x).rowLine = s.rowLine := rfl
@[simp] theorem State.setPort_sifterInvalid : (s.setPort p x).sifterInvalid = s.sifterInvalid := rfl
@[simp] theorem State.setPort_logs : (s.setPort p x).logs = s.logs := rfl
@[simp] theorem State.setPort_units : (s.setPort p x).units = s.units := rfl
@[simp] theorem State.setPort_heldEvents : (s.setPort p x).heldEvents = s.heldEvents := rfl
@[simp] theorem State.setPort_nextToken : (s.setPort p x).nextToken = s.nextToken := rfl
@[simp] theorem State.setPort_spdm : (s.setPort p x).spdm = s.spdm := rfl

end setPort

/-! ### setLink -/

section setLink
variable (l : Nat) (x : Link)

@[simp] theorem State.setLink_pending : (s.setLink l x).pending = s.pending := rfl
@[simp] theorem State.setLink_out : (s.setLink l x).out = s.out := rfl
@[simp] theorem State.setLink_freeCtr : (s.setLink l x).freeCtr = s.freeCtr := rfl
@[simp] theorem State.setLink_ticks : (s.setLink l x).ticks = s.ticks := rfl
@[simp] theorem State.setLink_fuses : (s.setLink l x).fuses = s.fuses := rfl
@[simp] theorem State.setLink_bootFlash : (s.setLink l x).bootFlash = s.bootFlash := rfl
@[simp] theorem State.setLink_boot : (s.setLink l x).boot = s.boot := rfl
@[simp] theorem State.setLink_power : (s.setLink l x).power = s.power := rfl
@[simp] theorem State.setLink_mgmt : (s.setLink l x).mgmt = s.mgmt := rfl
@[simp] theorem State.setLink_cores : (s.setLink l x).cores = s.cores := rfl
@[simp] theorem State.setLink_syncs : (s.setLink l x).syncs = s.syncs := rfl
@[simp] theorem State.setLink_programs : (s.setLink l x).programs = s.programs := rfl
@[simp] theorem State.setLink_services : (s.setLink l x).services = s.services := rfl
@[simp] theorem State.setLink_insts : (s.setLink l x).insts = s.insts := rfl
@[simp] theorem State.setLink_instCount : (s.setLink l x).instCount = s.instCount := rfl
@[simp] theorem State.setLink_acceptCount : (s.setLink l x).acceptCount = s.acceptCount := rfl
@[simp] theorem State.setLink_readyQ : (s.setLink l x).readyQ = s.readyQ := rfl
@[simp] theorem State.setLink_flows : (s.setLink l x).flows = s.flows := rfl
@[simp] theorem State.setLink_streams : (s.setLink l x).streams = s.streams := rfl
@[simp] theorem State.setLink_rrStream : (s.setLink l x).rrStream = s.rrStream := rfl
@[simp] theorem State.setLink_flowLast : (s.setLink l x).flowLast = s.flowLast := rfl
@[simp] theorem State.setLink_tables : (s.setLink l x).tables = s.tables := rfl
@[simp] theorem State.setLink_windows : (s.setLink l x).windows = s.windows := rfl
@[simp] theorem State.setLink_graphs : (s.setLink l x).graphs = s.graphs := rfl
@[simp] theorem State.setLink_sweeps : (s.setLink l x).sweeps = s.sweeps := rfl
@[simp] theorem State.setLink_sweepMarks : (s.setLink l x).sweepMarks = s.sweepMarks := rfl
@[simp] theorem State.setLink_switches : (s.setLink l x).switches = s.switches := rfl
@[simp] theorem State.setLink_chunks : (s.setLink l x).chunks = s.chunks := rfl
@[simp] theorem State.setLink_moves : (s.setLink l x).moves = s.moves := rfl
@[simp] theorem State.setLink_oldChunks : (s.setLink l x).oldChunks = s.oldChunks := rfl
@[simp] theorem State.setLink_shardMoves : (s.setLink l x).shardMoves = s.shardMoves := rfl
@[simp] theorem State.setLink_staged : (s.setLink l x).staged = s.staged := rfl
@[simp] theorem State.setLink_mapWaits : (s.setLink l x).mapWaits = s.mapWaits := rfl
@[simp] theorem State.setLink_areas : (s.setLink l x).areas = s.areas := rfl
@[simp] theorem State.setLink_visited : (s.setLink l x).visited = s.visited := rfl
@[simp] theorem State.setLink_flashMoved : (s.setLink l x).flashMoved = s.flashMoved := rfl
@[simp] theorem State.setLink_shardCounts : (s.setLink l x).shardCounts = s.shardCounts := rfl
@[simp] theorem State.setLink_shardWindow : (s.setLink l x).shardWindow = s.shardWindow := rfl
@[simp] theorem State.setLink_epochStart : (s.setLink l x).epochStart = s.epochStart := rfl
@[simp] theorem State.setLink_dmem : (s.setLink l x).dmem = s.dmem := rfl
@[simp] theorem State.setLink_poison : (s.setLink l x).poison = s.poison := rfl
@[simp] theorem State.setLink_cache : (s.setLink l x).cache = s.cache := rfl
@[simp] theorem State.setLink_trackers : (s.setLink l x).trackers = s.trackers := rfl
@[simp] theorem State.setLink_pageCache : (s.setLink l x).pageCache = s.pageCache := rfl
@[simp] theorem State.setLink_flashWrites : (s.setLink l x).flashWrites = s.flashWrites := rfl
@[simp] theorem State.setLink_hubWritten : (s.setLink l x).hubWritten = s.hubWritten := rfl
@[simp] theorem State.setLink_tierRefused : (s.setLink l x).tierRefused = s.tierRefused := rfl
@[simp] theorem State.setLink_rings : (s.setLink l x).rings = s.rings := rfl
@[simp] theorem State.setLink_ringTurn : (s.setLink l x).ringTurn = s.ringTurn := rfl
@[simp] theorem State.setLink_regs : (s.setLink l x).regs = s.regs := rfl
@[simp] theorem State.setLink_locked : (s.setLink l x).locked = s.locked := rfl
@[simp] theorem State.setLink_lockBy : (s.setLink l x).lockBy = s.lockBy := rfl
@[simp] theorem State.setLink_lockRefused : (s.setLink l x).lockRefused = s.lockRefused := rfl
@[simp] theorem State.setLink_lockCause : (s.setLink l x).lockCause = s.lockCause := rfl
@[simp] theorem State.setLink_lockCount : (s.setLink l x).lockCount = s.lockCount := rfl
@[simp] theorem State.setLink_lockLast : (s.setLink l x).lockLast = s.lockLast := rfl
@[simp] theorem State.setLink_ports : (s.setLink l x).ports = s.ports := rfl
@[simp] theorem State.setLink_accs : (s.setLink l x).accs = s.accs := rfl
@[simp] theorem State.setLink_nextAcc : (s.setLink l x).nextAcc = s.nextAcc := rfl
@[simp] theorem State.setLink_released : (s.setLink l x).released = s.released := rfl
@[simp] theorem State.setLink_portIn : (s.setLink l x).portIn = s.portIn := rfl
@[simp] theorem State.setLink_channels : (s.setLink l x).channels = s.channels := rfl
@[simp] theorem State.setLink_fences : (s.setLink l x).fences = s.fences := rfl
@[simp] theorem State.setLink_nextFence : (s.setLink l x).nextFence = s.nextFence := rfl
@[simp] theorem State.setLink_fencesIn : (s.setLink l x).fencesIn = s.fencesIn := rfl
@[simp] theorem State.setLink_nextTag : (s.setLink l x).nextTag = s.nextTag := rfl
@[simp] theorem State.setLink_responses : (s.setLink l x).responses = s.responses := rfl
@[simp] theorem State.setLink_mtags : (s.setLink l x).mtags = s.mtags := rfl
@[simp] theorem State.setLink_mgOut : (s.setLink l x).mgOut = s.mgOut := rfl
@[simp] theorem State.setLink_mgWait : (s.setLink l x).mgWait = s.mgWait := rfl
@[simp] theorem State.setLink_remotes : (s.setLink l x).remotes = s.remotes := rfl
@[simp] theorem State.setLink_rqOut : (s.setLink l x).rqOut = s.rqOut := rfl
@[simp] theorem State.setLink_mgIn : (s.setLink l x).mgIn = s.mgIn := rfl
@[simp] theorem State.setLink_bcNow : (s.setLink l x).bcNow = s.bcNow := rfl
@[simp] theorem State.setLink_bcQ : (s.setLink l x).bcQ = s.bcQ := rfl
@[simp] theorem State.setLink_kneads : (s.setLink l x).kneads = s.kneads := rfl
@[simp] theorem State.setLink_kneadGrants : (s.setLink l x).kneadGrants = s.kneadGrants := rfl
@[simp] theorem State.setLink_queue : (s.setLink l x).queue = s.queue := rfl
@[simp] theorem State.setLink_rowLine : (s.setLink l x).rowLine = s.rowLine := rfl
@[simp] theorem State.setLink_sifterInvalid : (s.setLink l x).sifterInvalid = s.sifterInvalid := rfl
@[simp] theorem State.setLink_logs : (s.setLink l x).logs = s.logs := rfl
@[simp] theorem State.setLink_units : (s.setLink l x).units = s.units := rfl
@[simp] theorem State.setLink_heldEvents : (s.setLink l x).heldEvents = s.heldEvents := rfl
@[simp] theorem State.setLink_nextToken : (s.setLink l x).nextToken = s.nextToken := rfl
@[simp] theorem State.setLink_spdm : (s.setLink l x).spdm = s.spdm := rfl

end setLink

/-! ### setChan -/

section setChan
variable (c : Nat) (x : Channel)

@[simp] theorem State.setChan_pending : (s.setChan c x).pending = s.pending := rfl
@[simp] theorem State.setChan_out : (s.setChan c x).out = s.out := rfl
@[simp] theorem State.setChan_freeCtr : (s.setChan c x).freeCtr = s.freeCtr := rfl
@[simp] theorem State.setChan_ticks : (s.setChan c x).ticks = s.ticks := rfl
@[simp] theorem State.setChan_fuses : (s.setChan c x).fuses = s.fuses := rfl
@[simp] theorem State.setChan_bootFlash : (s.setChan c x).bootFlash = s.bootFlash := rfl
@[simp] theorem State.setChan_boot : (s.setChan c x).boot = s.boot := rfl
@[simp] theorem State.setChan_power : (s.setChan c x).power = s.power := rfl
@[simp] theorem State.setChan_mgmt : (s.setChan c x).mgmt = s.mgmt := rfl
@[simp] theorem State.setChan_cores : (s.setChan c x).cores = s.cores := rfl
@[simp] theorem State.setChan_syncs : (s.setChan c x).syncs = s.syncs := rfl
@[simp] theorem State.setChan_programs : (s.setChan c x).programs = s.programs := rfl
@[simp] theorem State.setChan_services : (s.setChan c x).services = s.services := rfl
@[simp] theorem State.setChan_insts : (s.setChan c x).insts = s.insts := rfl
@[simp] theorem State.setChan_instCount : (s.setChan c x).instCount = s.instCount := rfl
@[simp] theorem State.setChan_acceptCount : (s.setChan c x).acceptCount = s.acceptCount := rfl
@[simp] theorem State.setChan_readyQ : (s.setChan c x).readyQ = s.readyQ := rfl
@[simp] theorem State.setChan_flows : (s.setChan c x).flows = s.flows := rfl
@[simp] theorem State.setChan_streams : (s.setChan c x).streams = s.streams := rfl
@[simp] theorem State.setChan_rrStream : (s.setChan c x).rrStream = s.rrStream := rfl
@[simp] theorem State.setChan_flowLast : (s.setChan c x).flowLast = s.flowLast := rfl
@[simp] theorem State.setChan_tables : (s.setChan c x).tables = s.tables := rfl
@[simp] theorem State.setChan_windows : (s.setChan c x).windows = s.windows := rfl
@[simp] theorem State.setChan_graphs : (s.setChan c x).graphs = s.graphs := rfl
@[simp] theorem State.setChan_sweeps : (s.setChan c x).sweeps = s.sweeps := rfl
@[simp] theorem State.setChan_sweepMarks : (s.setChan c x).sweepMarks = s.sweepMarks := rfl
@[simp] theorem State.setChan_switches : (s.setChan c x).switches = s.switches := rfl
@[simp] theorem State.setChan_chunks : (s.setChan c x).chunks = s.chunks := rfl
@[simp] theorem State.setChan_moves : (s.setChan c x).moves = s.moves := rfl
@[simp] theorem State.setChan_oldChunks : (s.setChan c x).oldChunks = s.oldChunks := rfl
@[simp] theorem State.setChan_shardMoves : (s.setChan c x).shardMoves = s.shardMoves := rfl
@[simp] theorem State.setChan_staged : (s.setChan c x).staged = s.staged := rfl
@[simp] theorem State.setChan_mapWaits : (s.setChan c x).mapWaits = s.mapWaits := rfl
@[simp] theorem State.setChan_areas : (s.setChan c x).areas = s.areas := rfl
@[simp] theorem State.setChan_visited : (s.setChan c x).visited = s.visited := rfl
@[simp] theorem State.setChan_flashMoved : (s.setChan c x).flashMoved = s.flashMoved := rfl
@[simp] theorem State.setChan_shardCounts : (s.setChan c x).shardCounts = s.shardCounts := rfl
@[simp] theorem State.setChan_shardWindow : (s.setChan c x).shardWindow = s.shardWindow := rfl
@[simp] theorem State.setChan_epochStart : (s.setChan c x).epochStart = s.epochStart := rfl
@[simp] theorem State.setChan_dmem : (s.setChan c x).dmem = s.dmem := rfl
@[simp] theorem State.setChan_poison : (s.setChan c x).poison = s.poison := rfl
@[simp] theorem State.setChan_cache : (s.setChan c x).cache = s.cache := rfl
@[simp] theorem State.setChan_trackers : (s.setChan c x).trackers = s.trackers := rfl
@[simp] theorem State.setChan_pageCache : (s.setChan c x).pageCache = s.pageCache := rfl
@[simp] theorem State.setChan_flashWrites : (s.setChan c x).flashWrites = s.flashWrites := rfl
@[simp] theorem State.setChan_hubWritten : (s.setChan c x).hubWritten = s.hubWritten := rfl
@[simp] theorem State.setChan_tierRefused : (s.setChan c x).tierRefused = s.tierRefused := rfl
@[simp] theorem State.setChan_rings : (s.setChan c x).rings = s.rings := rfl
@[simp] theorem State.setChan_ringTurn : (s.setChan c x).ringTurn = s.ringTurn := rfl
@[simp] theorem State.setChan_regs : (s.setChan c x).regs = s.regs := rfl
@[simp] theorem State.setChan_locked : (s.setChan c x).locked = s.locked := rfl
@[simp] theorem State.setChan_lockBy : (s.setChan c x).lockBy = s.lockBy := rfl
@[simp] theorem State.setChan_lockRefused : (s.setChan c x).lockRefused = s.lockRefused := rfl
@[simp] theorem State.setChan_lockCause : (s.setChan c x).lockCause = s.lockCause := rfl
@[simp] theorem State.setChan_lockCount : (s.setChan c x).lockCount = s.lockCount := rfl
@[simp] theorem State.setChan_lockLast : (s.setChan c x).lockLast = s.lockLast := rfl
@[simp] theorem State.setChan_ports : (s.setChan c x).ports = s.ports := rfl
@[simp] theorem State.setChan_accs : (s.setChan c x).accs = s.accs := rfl
@[simp] theorem State.setChan_nextAcc : (s.setChan c x).nextAcc = s.nextAcc := rfl
@[simp] theorem State.setChan_released : (s.setChan c x).released = s.released := rfl
@[simp] theorem State.setChan_portIn : (s.setChan c x).portIn = s.portIn := rfl
@[simp] theorem State.setChan_links : (s.setChan c x).links = s.links := rfl
@[simp] theorem State.setChan_fences : (s.setChan c x).fences = s.fences := rfl
@[simp] theorem State.setChan_nextFence : (s.setChan c x).nextFence = s.nextFence := rfl
@[simp] theorem State.setChan_fencesIn : (s.setChan c x).fencesIn = s.fencesIn := rfl
@[simp] theorem State.setChan_nextTag : (s.setChan c x).nextTag = s.nextTag := rfl
@[simp] theorem State.setChan_responses : (s.setChan c x).responses = s.responses := rfl
@[simp] theorem State.setChan_mtags : (s.setChan c x).mtags = s.mtags := rfl
@[simp] theorem State.setChan_mgOut : (s.setChan c x).mgOut = s.mgOut := rfl
@[simp] theorem State.setChan_mgWait : (s.setChan c x).mgWait = s.mgWait := rfl
@[simp] theorem State.setChan_remotes : (s.setChan c x).remotes = s.remotes := rfl
@[simp] theorem State.setChan_rqOut : (s.setChan c x).rqOut = s.rqOut := rfl
@[simp] theorem State.setChan_mgIn : (s.setChan c x).mgIn = s.mgIn := rfl
@[simp] theorem State.setChan_bcNow : (s.setChan c x).bcNow = s.bcNow := rfl
@[simp] theorem State.setChan_bcQ : (s.setChan c x).bcQ = s.bcQ := rfl
@[simp] theorem State.setChan_kneads : (s.setChan c x).kneads = s.kneads := rfl
@[simp] theorem State.setChan_kneadGrants : (s.setChan c x).kneadGrants = s.kneadGrants := rfl
@[simp] theorem State.setChan_queue : (s.setChan c x).queue = s.queue := rfl
@[simp] theorem State.setChan_rowLine : (s.setChan c x).rowLine = s.rowLine := rfl
@[simp] theorem State.setChan_sifterInvalid : (s.setChan c x).sifterInvalid = s.sifterInvalid := rfl
@[simp] theorem State.setChan_logs : (s.setChan c x).logs = s.logs := rfl
@[simp] theorem State.setChan_units : (s.setChan c x).units = s.units := rfl
@[simp] theorem State.setChan_heldEvents : (s.setChan c x).heldEvents = s.heldEvents := rfl
@[simp] theorem State.setChan_nextToken : (s.setChan c x).nextToken = s.nextToken := rfl
@[simp] theorem State.setChan_spdm : (s.setChan c x).spdm = s.spdm := rfl

end setChan

/-! ### setStrm -/

section setStrm
variable (n : Nat) (x : Stream)

@[simp] theorem State.setStrm_pending : (s.setStrm n x).pending = s.pending := rfl
@[simp] theorem State.setStrm_out : (s.setStrm n x).out = s.out := rfl
@[simp] theorem State.setStrm_freeCtr : (s.setStrm n x).freeCtr = s.freeCtr := rfl
@[simp] theorem State.setStrm_ticks : (s.setStrm n x).ticks = s.ticks := rfl
@[simp] theorem State.setStrm_fuses : (s.setStrm n x).fuses = s.fuses := rfl
@[simp] theorem State.setStrm_bootFlash : (s.setStrm n x).bootFlash = s.bootFlash := rfl
@[simp] theorem State.setStrm_boot : (s.setStrm n x).boot = s.boot := rfl
@[simp] theorem State.setStrm_power : (s.setStrm n x).power = s.power := rfl
@[simp] theorem State.setStrm_mgmt : (s.setStrm n x).mgmt = s.mgmt := rfl
@[simp] theorem State.setStrm_cores : (s.setStrm n x).cores = s.cores := rfl
@[simp] theorem State.setStrm_syncs : (s.setStrm n x).syncs = s.syncs := rfl
@[simp] theorem State.setStrm_programs : (s.setStrm n x).programs = s.programs := rfl
@[simp] theorem State.setStrm_services : (s.setStrm n x).services = s.services := rfl
@[simp] theorem State.setStrm_insts : (s.setStrm n x).insts = s.insts := rfl
@[simp] theorem State.setStrm_instCount : (s.setStrm n x).instCount = s.instCount := rfl
@[simp] theorem State.setStrm_acceptCount : (s.setStrm n x).acceptCount = s.acceptCount := rfl
@[simp] theorem State.setStrm_readyQ : (s.setStrm n x).readyQ = s.readyQ := rfl
@[simp] theorem State.setStrm_flows : (s.setStrm n x).flows = s.flows := rfl
@[simp] theorem State.setStrm_rrStream : (s.setStrm n x).rrStream = s.rrStream := rfl
@[simp] theorem State.setStrm_flowLast : (s.setStrm n x).flowLast = s.flowLast := rfl
@[simp] theorem State.setStrm_tables : (s.setStrm n x).tables = s.tables := rfl
@[simp] theorem State.setStrm_windows : (s.setStrm n x).windows = s.windows := rfl
@[simp] theorem State.setStrm_graphs : (s.setStrm n x).graphs = s.graphs := rfl
@[simp] theorem State.setStrm_sweeps : (s.setStrm n x).sweeps = s.sweeps := rfl
@[simp] theorem State.setStrm_sweepMarks : (s.setStrm n x).sweepMarks = s.sweepMarks := rfl
@[simp] theorem State.setStrm_switches : (s.setStrm n x).switches = s.switches := rfl
@[simp] theorem State.setStrm_chunks : (s.setStrm n x).chunks = s.chunks := rfl
@[simp] theorem State.setStrm_moves : (s.setStrm n x).moves = s.moves := rfl
@[simp] theorem State.setStrm_oldChunks : (s.setStrm n x).oldChunks = s.oldChunks := rfl
@[simp] theorem State.setStrm_shardMoves : (s.setStrm n x).shardMoves = s.shardMoves := rfl
@[simp] theorem State.setStrm_staged : (s.setStrm n x).staged = s.staged := rfl
@[simp] theorem State.setStrm_mapWaits : (s.setStrm n x).mapWaits = s.mapWaits := rfl
@[simp] theorem State.setStrm_areas : (s.setStrm n x).areas = s.areas := rfl
@[simp] theorem State.setStrm_visited : (s.setStrm n x).visited = s.visited := rfl
@[simp] theorem State.setStrm_flashMoved : (s.setStrm n x).flashMoved = s.flashMoved := rfl
@[simp] theorem State.setStrm_shardCounts : (s.setStrm n x).shardCounts = s.shardCounts := rfl
@[simp] theorem State.setStrm_shardWindow : (s.setStrm n x).shardWindow = s.shardWindow := rfl
@[simp] theorem State.setStrm_epochStart : (s.setStrm n x).epochStart = s.epochStart := rfl
@[simp] theorem State.setStrm_dmem : (s.setStrm n x).dmem = s.dmem := rfl
@[simp] theorem State.setStrm_poison : (s.setStrm n x).poison = s.poison := rfl
@[simp] theorem State.setStrm_cache : (s.setStrm n x).cache = s.cache := rfl
@[simp] theorem State.setStrm_trackers : (s.setStrm n x).trackers = s.trackers := rfl
@[simp] theorem State.setStrm_pageCache : (s.setStrm n x).pageCache = s.pageCache := rfl
@[simp] theorem State.setStrm_flashWrites : (s.setStrm n x).flashWrites = s.flashWrites := rfl
@[simp] theorem State.setStrm_hubWritten : (s.setStrm n x).hubWritten = s.hubWritten := rfl
@[simp] theorem State.setStrm_tierRefused : (s.setStrm n x).tierRefused = s.tierRefused := rfl
@[simp] theorem State.setStrm_rings : (s.setStrm n x).rings = s.rings := rfl
@[simp] theorem State.setStrm_ringTurn : (s.setStrm n x).ringTurn = s.ringTurn := rfl
@[simp] theorem State.setStrm_regs : (s.setStrm n x).regs = s.regs := rfl
@[simp] theorem State.setStrm_locked : (s.setStrm n x).locked = s.locked := rfl
@[simp] theorem State.setStrm_lockBy : (s.setStrm n x).lockBy = s.lockBy := rfl
@[simp] theorem State.setStrm_lockRefused : (s.setStrm n x).lockRefused = s.lockRefused := rfl
@[simp] theorem State.setStrm_lockCause : (s.setStrm n x).lockCause = s.lockCause := rfl
@[simp] theorem State.setStrm_lockCount : (s.setStrm n x).lockCount = s.lockCount := rfl
@[simp] theorem State.setStrm_lockLast : (s.setStrm n x).lockLast = s.lockLast := rfl
@[simp] theorem State.setStrm_ports : (s.setStrm n x).ports = s.ports := rfl
@[simp] theorem State.setStrm_accs : (s.setStrm n x).accs = s.accs := rfl
@[simp] theorem State.setStrm_nextAcc : (s.setStrm n x).nextAcc = s.nextAcc := rfl
@[simp] theorem State.setStrm_released : (s.setStrm n x).released = s.released := rfl
@[simp] theorem State.setStrm_portIn : (s.setStrm n x).portIn = s.portIn := rfl
@[simp] theorem State.setStrm_links : (s.setStrm n x).links = s.links := rfl
@[simp] theorem State.setStrm_channels : (s.setStrm n x).channels = s.channels := rfl
@[simp] theorem State.setStrm_fences : (s.setStrm n x).fences = s.fences := rfl
@[simp] theorem State.setStrm_nextFence : (s.setStrm n x).nextFence = s.nextFence := rfl
@[simp] theorem State.setStrm_fencesIn : (s.setStrm n x).fencesIn = s.fencesIn := rfl
@[simp] theorem State.setStrm_nextTag : (s.setStrm n x).nextTag = s.nextTag := rfl
@[simp] theorem State.setStrm_responses : (s.setStrm n x).responses = s.responses := rfl
@[simp] theorem State.setStrm_mtags : (s.setStrm n x).mtags = s.mtags := rfl
@[simp] theorem State.setStrm_mgOut : (s.setStrm n x).mgOut = s.mgOut := rfl
@[simp] theorem State.setStrm_mgWait : (s.setStrm n x).mgWait = s.mgWait := rfl
@[simp] theorem State.setStrm_remotes : (s.setStrm n x).remotes = s.remotes := rfl
@[simp] theorem State.setStrm_rqOut : (s.setStrm n x).rqOut = s.rqOut := rfl
@[simp] theorem State.setStrm_mgIn : (s.setStrm n x).mgIn = s.mgIn := rfl
@[simp] theorem State.setStrm_bcNow : (s.setStrm n x).bcNow = s.bcNow := rfl
@[simp] theorem State.setStrm_bcQ : (s.setStrm n x).bcQ = s.bcQ := rfl
@[simp] theorem State.setStrm_kneads : (s.setStrm n x).kneads = s.kneads := rfl
@[simp] theorem State.setStrm_kneadGrants : (s.setStrm n x).kneadGrants = s.kneadGrants := rfl
@[simp] theorem State.setStrm_queue : (s.setStrm n x).queue = s.queue := rfl
@[simp] theorem State.setStrm_rowLine : (s.setStrm n x).rowLine = s.rowLine := rfl
@[simp] theorem State.setStrm_sifterInvalid : (s.setStrm n x).sifterInvalid = s.sifterInvalid := rfl
@[simp] theorem State.setStrm_logs : (s.setStrm n x).logs = s.logs := rfl
@[simp] theorem State.setStrm_units : (s.setStrm n x).units = s.units := rfl
@[simp] theorem State.setStrm_heldEvents : (s.setStrm n x).heldEvents = s.heldEvents := rfl
@[simp] theorem State.setStrm_nextToken : (s.setStrm n x).nextToken = s.nextToken := rfl
@[simp] theorem State.setStrm_spdm : (s.setStrm n x).spdm = s.spdm := rfl

end setStrm

/-! ### setLog -/

section setLog
variable (k : Nat) (x : Log)

@[simp] theorem State.setLog_pending : (s.setLog k x).pending = s.pending := rfl
@[simp] theorem State.setLog_out : (s.setLog k x).out = s.out := rfl
@[simp] theorem State.setLog_freeCtr : (s.setLog k x).freeCtr = s.freeCtr := rfl
@[simp] theorem State.setLog_ticks : (s.setLog k x).ticks = s.ticks := rfl
@[simp] theorem State.setLog_fuses : (s.setLog k x).fuses = s.fuses := rfl
@[simp] theorem State.setLog_bootFlash : (s.setLog k x).bootFlash = s.bootFlash := rfl
@[simp] theorem State.setLog_boot : (s.setLog k x).boot = s.boot := rfl
@[simp] theorem State.setLog_power : (s.setLog k x).power = s.power := rfl
@[simp] theorem State.setLog_mgmt : (s.setLog k x).mgmt = s.mgmt := rfl
@[simp] theorem State.setLog_cores : (s.setLog k x).cores = s.cores := rfl
@[simp] theorem State.setLog_syncs : (s.setLog k x).syncs = s.syncs := rfl
@[simp] theorem State.setLog_programs : (s.setLog k x).programs = s.programs := rfl
@[simp] theorem State.setLog_services : (s.setLog k x).services = s.services := rfl
@[simp] theorem State.setLog_insts : (s.setLog k x).insts = s.insts := rfl
@[simp] theorem State.setLog_instCount : (s.setLog k x).instCount = s.instCount := rfl
@[simp] theorem State.setLog_acceptCount : (s.setLog k x).acceptCount = s.acceptCount := rfl
@[simp] theorem State.setLog_readyQ : (s.setLog k x).readyQ = s.readyQ := rfl
@[simp] theorem State.setLog_flows : (s.setLog k x).flows = s.flows := rfl
@[simp] theorem State.setLog_streams : (s.setLog k x).streams = s.streams := rfl
@[simp] theorem State.setLog_rrStream : (s.setLog k x).rrStream = s.rrStream := rfl
@[simp] theorem State.setLog_flowLast : (s.setLog k x).flowLast = s.flowLast := rfl
@[simp] theorem State.setLog_tables : (s.setLog k x).tables = s.tables := rfl
@[simp] theorem State.setLog_windows : (s.setLog k x).windows = s.windows := rfl
@[simp] theorem State.setLog_graphs : (s.setLog k x).graphs = s.graphs := rfl
@[simp] theorem State.setLog_sweeps : (s.setLog k x).sweeps = s.sweeps := rfl
@[simp] theorem State.setLog_sweepMarks : (s.setLog k x).sweepMarks = s.sweepMarks := rfl
@[simp] theorem State.setLog_switches : (s.setLog k x).switches = s.switches := rfl
@[simp] theorem State.setLog_chunks : (s.setLog k x).chunks = s.chunks := rfl
@[simp] theorem State.setLog_moves : (s.setLog k x).moves = s.moves := rfl
@[simp] theorem State.setLog_oldChunks : (s.setLog k x).oldChunks = s.oldChunks := rfl
@[simp] theorem State.setLog_shardMoves : (s.setLog k x).shardMoves = s.shardMoves := rfl
@[simp] theorem State.setLog_staged : (s.setLog k x).staged = s.staged := rfl
@[simp] theorem State.setLog_mapWaits : (s.setLog k x).mapWaits = s.mapWaits := rfl
@[simp] theorem State.setLog_areas : (s.setLog k x).areas = s.areas := rfl
@[simp] theorem State.setLog_visited : (s.setLog k x).visited = s.visited := rfl
@[simp] theorem State.setLog_flashMoved : (s.setLog k x).flashMoved = s.flashMoved := rfl
@[simp] theorem State.setLog_shardCounts : (s.setLog k x).shardCounts = s.shardCounts := rfl
@[simp] theorem State.setLog_shardWindow : (s.setLog k x).shardWindow = s.shardWindow := rfl
@[simp] theorem State.setLog_epochStart : (s.setLog k x).epochStart = s.epochStart := rfl
@[simp] theorem State.setLog_dmem : (s.setLog k x).dmem = s.dmem := rfl
@[simp] theorem State.setLog_poison : (s.setLog k x).poison = s.poison := rfl
@[simp] theorem State.setLog_cache : (s.setLog k x).cache = s.cache := rfl
@[simp] theorem State.setLog_trackers : (s.setLog k x).trackers = s.trackers := rfl
@[simp] theorem State.setLog_pageCache : (s.setLog k x).pageCache = s.pageCache := rfl
@[simp] theorem State.setLog_flashWrites : (s.setLog k x).flashWrites = s.flashWrites := rfl
@[simp] theorem State.setLog_hubWritten : (s.setLog k x).hubWritten = s.hubWritten := rfl
@[simp] theorem State.setLog_tierRefused : (s.setLog k x).tierRefused = s.tierRefused := rfl
@[simp] theorem State.setLog_rings : (s.setLog k x).rings = s.rings := rfl
@[simp] theorem State.setLog_ringTurn : (s.setLog k x).ringTurn = s.ringTurn := rfl
@[simp] theorem State.setLog_regs : (s.setLog k x).regs = s.regs := rfl
@[simp] theorem State.setLog_locked : (s.setLog k x).locked = s.locked := rfl
@[simp] theorem State.setLog_lockBy : (s.setLog k x).lockBy = s.lockBy := rfl
@[simp] theorem State.setLog_lockRefused : (s.setLog k x).lockRefused = s.lockRefused := rfl
@[simp] theorem State.setLog_lockCause : (s.setLog k x).lockCause = s.lockCause := rfl
@[simp] theorem State.setLog_lockCount : (s.setLog k x).lockCount = s.lockCount := rfl
@[simp] theorem State.setLog_lockLast : (s.setLog k x).lockLast = s.lockLast := rfl
@[simp] theorem State.setLog_ports : (s.setLog k x).ports = s.ports := rfl
@[simp] theorem State.setLog_accs : (s.setLog k x).accs = s.accs := rfl
@[simp] theorem State.setLog_nextAcc : (s.setLog k x).nextAcc = s.nextAcc := rfl
@[simp] theorem State.setLog_released : (s.setLog k x).released = s.released := rfl
@[simp] theorem State.setLog_portIn : (s.setLog k x).portIn = s.portIn := rfl
@[simp] theorem State.setLog_links : (s.setLog k x).links = s.links := rfl
@[simp] theorem State.setLog_channels : (s.setLog k x).channels = s.channels := rfl
@[simp] theorem State.setLog_fences : (s.setLog k x).fences = s.fences := rfl
@[simp] theorem State.setLog_nextFence : (s.setLog k x).nextFence = s.nextFence := rfl
@[simp] theorem State.setLog_fencesIn : (s.setLog k x).fencesIn = s.fencesIn := rfl
@[simp] theorem State.setLog_nextTag : (s.setLog k x).nextTag = s.nextTag := rfl
@[simp] theorem State.setLog_responses : (s.setLog k x).responses = s.responses := rfl
@[simp] theorem State.setLog_mtags : (s.setLog k x).mtags = s.mtags := rfl
@[simp] theorem State.setLog_mgOut : (s.setLog k x).mgOut = s.mgOut := rfl
@[simp] theorem State.setLog_mgWait : (s.setLog k x).mgWait = s.mgWait := rfl
@[simp] theorem State.setLog_remotes : (s.setLog k x).remotes = s.remotes := rfl
@[simp] theorem State.setLog_rqOut : (s.setLog k x).rqOut = s.rqOut := rfl
@[simp] theorem State.setLog_mgIn : (s.setLog k x).mgIn = s.mgIn := rfl
@[simp] theorem State.setLog_bcNow : (s.setLog k x).bcNow = s.bcNow := rfl
@[simp] theorem State.setLog_bcQ : (s.setLog k x).bcQ = s.bcQ := rfl
@[simp] theorem State.setLog_kneads : (s.setLog k x).kneads = s.kneads := rfl
@[simp] theorem State.setLog_kneadGrants : (s.setLog k x).kneadGrants = s.kneadGrants := rfl
@[simp] theorem State.setLog_queue : (s.setLog k x).queue = s.queue := rfl
@[simp] theorem State.setLog_rowLine : (s.setLog k x).rowLine = s.rowLine := rfl
@[simp] theorem State.setLog_sifterInvalid : (s.setLog k x).sifterInvalid = s.sifterInvalid := rfl
@[simp] theorem State.setLog_units : (s.setLog k x).units = s.units := rfl
@[simp] theorem State.setLog_heldEvents : (s.setLog k x).heldEvents = s.heldEvents := rfl
@[simp] theorem State.setLog_nextToken : (s.setLog k x).nextToken = s.nextToken := rfl
@[simp] theorem State.setLog_spdm : (s.setLog k x).spdm = s.spdm := rfl

end setLog

/-! ### setUnitSt -/

section setUnitSt
variable (u : FnUnit) (x : Unit')

@[simp] theorem State.setUnitSt_pending : (s.setUnitSt u x).pending = s.pending := rfl
@[simp] theorem State.setUnitSt_out : (s.setUnitSt u x).out = s.out := rfl
@[simp] theorem State.setUnitSt_freeCtr : (s.setUnitSt u x).freeCtr = s.freeCtr := rfl
@[simp] theorem State.setUnitSt_ticks : (s.setUnitSt u x).ticks = s.ticks := rfl
@[simp] theorem State.setUnitSt_fuses : (s.setUnitSt u x).fuses = s.fuses := rfl
@[simp] theorem State.setUnitSt_bootFlash : (s.setUnitSt u x).bootFlash = s.bootFlash := rfl
@[simp] theorem State.setUnitSt_boot : (s.setUnitSt u x).boot = s.boot := rfl
@[simp] theorem State.setUnitSt_power : (s.setUnitSt u x).power = s.power := rfl
@[simp] theorem State.setUnitSt_mgmt : (s.setUnitSt u x).mgmt = s.mgmt := rfl
@[simp] theorem State.setUnitSt_cores : (s.setUnitSt u x).cores = s.cores := rfl
@[simp] theorem State.setUnitSt_syncs : (s.setUnitSt u x).syncs = s.syncs := rfl
@[simp] theorem State.setUnitSt_programs : (s.setUnitSt u x).programs = s.programs := rfl
@[simp] theorem State.setUnitSt_services : (s.setUnitSt u x).services = s.services := rfl
@[simp] theorem State.setUnitSt_insts : (s.setUnitSt u x).insts = s.insts := rfl
@[simp] theorem State.setUnitSt_instCount : (s.setUnitSt u x).instCount = s.instCount := rfl
@[simp] theorem State.setUnitSt_acceptCount : (s.setUnitSt u x).acceptCount = s.acceptCount := rfl
@[simp] theorem State.setUnitSt_readyQ : (s.setUnitSt u x).readyQ = s.readyQ := rfl
@[simp] theorem State.setUnitSt_flows : (s.setUnitSt u x).flows = s.flows := rfl
@[simp] theorem State.setUnitSt_streams : (s.setUnitSt u x).streams = s.streams := rfl
@[simp] theorem State.setUnitSt_rrStream : (s.setUnitSt u x).rrStream = s.rrStream := rfl
@[simp] theorem State.setUnitSt_flowLast : (s.setUnitSt u x).flowLast = s.flowLast := rfl
@[simp] theorem State.setUnitSt_tables : (s.setUnitSt u x).tables = s.tables := rfl
@[simp] theorem State.setUnitSt_windows : (s.setUnitSt u x).windows = s.windows := rfl
@[simp] theorem State.setUnitSt_graphs : (s.setUnitSt u x).graphs = s.graphs := rfl
@[simp] theorem State.setUnitSt_sweeps : (s.setUnitSt u x).sweeps = s.sweeps := rfl
@[simp] theorem State.setUnitSt_sweepMarks : (s.setUnitSt u x).sweepMarks = s.sweepMarks := rfl
@[simp] theorem State.setUnitSt_switches : (s.setUnitSt u x).switches = s.switches := rfl
@[simp] theorem State.setUnitSt_chunks : (s.setUnitSt u x).chunks = s.chunks := rfl
@[simp] theorem State.setUnitSt_moves : (s.setUnitSt u x).moves = s.moves := rfl
@[simp] theorem State.setUnitSt_oldChunks : (s.setUnitSt u x).oldChunks = s.oldChunks := rfl
@[simp] theorem State.setUnitSt_shardMoves : (s.setUnitSt u x).shardMoves = s.shardMoves := rfl
@[simp] theorem State.setUnitSt_staged : (s.setUnitSt u x).staged = s.staged := rfl
@[simp] theorem State.setUnitSt_mapWaits : (s.setUnitSt u x).mapWaits = s.mapWaits := rfl
@[simp] theorem State.setUnitSt_areas : (s.setUnitSt u x).areas = s.areas := rfl
@[simp] theorem State.setUnitSt_visited : (s.setUnitSt u x).visited = s.visited := rfl
@[simp] theorem State.setUnitSt_flashMoved : (s.setUnitSt u x).flashMoved = s.flashMoved := rfl
@[simp] theorem State.setUnitSt_shardCounts : (s.setUnitSt u x).shardCounts = s.shardCounts := rfl
@[simp] theorem State.setUnitSt_shardWindow : (s.setUnitSt u x).shardWindow = s.shardWindow := rfl
@[simp] theorem State.setUnitSt_epochStart : (s.setUnitSt u x).epochStart = s.epochStart := rfl
@[simp] theorem State.setUnitSt_dmem : (s.setUnitSt u x).dmem = s.dmem := rfl
@[simp] theorem State.setUnitSt_poison : (s.setUnitSt u x).poison = s.poison := rfl
@[simp] theorem State.setUnitSt_cache : (s.setUnitSt u x).cache = s.cache := rfl
@[simp] theorem State.setUnitSt_trackers : (s.setUnitSt u x).trackers = s.trackers := rfl
@[simp] theorem State.setUnitSt_pageCache : (s.setUnitSt u x).pageCache = s.pageCache := rfl
@[simp] theorem State.setUnitSt_flashWrites : (s.setUnitSt u x).flashWrites = s.flashWrites := rfl
@[simp] theorem State.setUnitSt_hubWritten : (s.setUnitSt u x).hubWritten = s.hubWritten := rfl
@[simp] theorem State.setUnitSt_tierRefused : (s.setUnitSt u x).tierRefused = s.tierRefused := rfl
@[simp] theorem State.setUnitSt_rings : (s.setUnitSt u x).rings = s.rings := rfl
@[simp] theorem State.setUnitSt_ringTurn : (s.setUnitSt u x).ringTurn = s.ringTurn := rfl
@[simp] theorem State.setUnitSt_regs : (s.setUnitSt u x).regs = s.regs := rfl
@[simp] theorem State.setUnitSt_locked : (s.setUnitSt u x).locked = s.locked := rfl
@[simp] theorem State.setUnitSt_lockBy : (s.setUnitSt u x).lockBy = s.lockBy := rfl
@[simp] theorem State.setUnitSt_lockRefused : (s.setUnitSt u x).lockRefused = s.lockRefused := rfl
@[simp] theorem State.setUnitSt_lockCause : (s.setUnitSt u x).lockCause = s.lockCause := rfl
@[simp] theorem State.setUnitSt_lockCount : (s.setUnitSt u x).lockCount = s.lockCount := rfl
@[simp] theorem State.setUnitSt_lockLast : (s.setUnitSt u x).lockLast = s.lockLast := rfl
@[simp] theorem State.setUnitSt_ports : (s.setUnitSt u x).ports = s.ports := rfl
@[simp] theorem State.setUnitSt_accs : (s.setUnitSt u x).accs = s.accs := rfl
@[simp] theorem State.setUnitSt_nextAcc : (s.setUnitSt u x).nextAcc = s.nextAcc := rfl
@[simp] theorem State.setUnitSt_released : (s.setUnitSt u x).released = s.released := rfl
@[simp] theorem State.setUnitSt_portIn : (s.setUnitSt u x).portIn = s.portIn := rfl
@[simp] theorem State.setUnitSt_links : (s.setUnitSt u x).links = s.links := rfl
@[simp] theorem State.setUnitSt_channels : (s.setUnitSt u x).channels = s.channels := rfl
@[simp] theorem State.setUnitSt_fences : (s.setUnitSt u x).fences = s.fences := rfl
@[simp] theorem State.setUnitSt_nextFence : (s.setUnitSt u x).nextFence = s.nextFence := rfl
@[simp] theorem State.setUnitSt_fencesIn : (s.setUnitSt u x).fencesIn = s.fencesIn := rfl
@[simp] theorem State.setUnitSt_nextTag : (s.setUnitSt u x).nextTag = s.nextTag := rfl
@[simp] theorem State.setUnitSt_responses : (s.setUnitSt u x).responses = s.responses := rfl
@[simp] theorem State.setUnitSt_mtags : (s.setUnitSt u x).mtags = s.mtags := rfl
@[simp] theorem State.setUnitSt_mgOut : (s.setUnitSt u x).mgOut = s.mgOut := rfl
@[simp] theorem State.setUnitSt_mgWait : (s.setUnitSt u x).mgWait = s.mgWait := rfl
@[simp] theorem State.setUnitSt_remotes : (s.setUnitSt u x).remotes = s.remotes := rfl
@[simp] theorem State.setUnitSt_rqOut : (s.setUnitSt u x).rqOut = s.rqOut := rfl
@[simp] theorem State.setUnitSt_mgIn : (s.setUnitSt u x).mgIn = s.mgIn := rfl
@[simp] theorem State.setUnitSt_bcNow : (s.setUnitSt u x).bcNow = s.bcNow := rfl
@[simp] theorem State.setUnitSt_bcQ : (s.setUnitSt u x).bcQ = s.bcQ := rfl
@[simp] theorem State.setUnitSt_kneads : (s.setUnitSt u x).kneads = s.kneads := rfl
@[simp] theorem State.setUnitSt_kneadGrants : (s.setUnitSt u x).kneadGrants = s.kneadGrants := rfl
@[simp] theorem State.setUnitSt_queue : (s.setUnitSt u x).queue = s.queue := rfl
@[simp] theorem State.setUnitSt_rowLine : (s.setUnitSt u x).rowLine = s.rowLine := rfl
@[simp] theorem State.setUnitSt_sifterInvalid : (s.setUnitSt u x).sifterInvalid = s.sifterInvalid := rfl
@[simp] theorem State.setUnitSt_logs : (s.setUnitSt u x).logs = s.logs := rfl
@[simp] theorem State.setUnitSt_heldEvents : (s.setUnitSt u x).heldEvents = s.heldEvents := rfl
@[simp] theorem State.setUnitSt_nextToken : (s.setUnitSt u x).nextToken = s.nextToken := rfl
@[simp] theorem State.setUnitSt_spdm : (s.setUnitSt u x).spdm = s.spdm := rfl

end setUnitSt

/-! ### setTable -/

section setTable
variable (n : Nat) (x : Option Table)

@[simp] theorem State.setTable_pending : (s.setTable n x).pending = s.pending := rfl
@[simp] theorem State.setTable_out : (s.setTable n x).out = s.out := rfl
@[simp] theorem State.setTable_freeCtr : (s.setTable n x).freeCtr = s.freeCtr := rfl
@[simp] theorem State.setTable_ticks : (s.setTable n x).ticks = s.ticks := rfl
@[simp] theorem State.setTable_fuses : (s.setTable n x).fuses = s.fuses := rfl
@[simp] theorem State.setTable_bootFlash : (s.setTable n x).bootFlash = s.bootFlash := rfl
@[simp] theorem State.setTable_boot : (s.setTable n x).boot = s.boot := rfl
@[simp] theorem State.setTable_power : (s.setTable n x).power = s.power := rfl
@[simp] theorem State.setTable_mgmt : (s.setTable n x).mgmt = s.mgmt := rfl
@[simp] theorem State.setTable_cores : (s.setTable n x).cores = s.cores := rfl
@[simp] theorem State.setTable_syncs : (s.setTable n x).syncs = s.syncs := rfl
@[simp] theorem State.setTable_programs : (s.setTable n x).programs = s.programs := rfl
@[simp] theorem State.setTable_services : (s.setTable n x).services = s.services := rfl
@[simp] theorem State.setTable_insts : (s.setTable n x).insts = s.insts := rfl
@[simp] theorem State.setTable_instCount : (s.setTable n x).instCount = s.instCount := rfl
@[simp] theorem State.setTable_acceptCount : (s.setTable n x).acceptCount = s.acceptCount := rfl
@[simp] theorem State.setTable_readyQ : (s.setTable n x).readyQ = s.readyQ := rfl
@[simp] theorem State.setTable_flows : (s.setTable n x).flows = s.flows := rfl
@[simp] theorem State.setTable_streams : (s.setTable n x).streams = s.streams := rfl
@[simp] theorem State.setTable_rrStream : (s.setTable n x).rrStream = s.rrStream := rfl
@[simp] theorem State.setTable_flowLast : (s.setTable n x).flowLast = s.flowLast := rfl
@[simp] theorem State.setTable_windows : (s.setTable n x).windows = s.windows := rfl
@[simp] theorem State.setTable_graphs : (s.setTable n x).graphs = s.graphs := rfl
@[simp] theorem State.setTable_sweeps : (s.setTable n x).sweeps = s.sweeps := rfl
@[simp] theorem State.setTable_sweepMarks : (s.setTable n x).sweepMarks = s.sweepMarks := rfl
@[simp] theorem State.setTable_switches : (s.setTable n x).switches = s.switches := rfl
@[simp] theorem State.setTable_chunks : (s.setTable n x).chunks = s.chunks := rfl
@[simp] theorem State.setTable_moves : (s.setTable n x).moves = s.moves := rfl
@[simp] theorem State.setTable_oldChunks : (s.setTable n x).oldChunks = s.oldChunks := rfl
@[simp] theorem State.setTable_shardMoves : (s.setTable n x).shardMoves = s.shardMoves := rfl
@[simp] theorem State.setTable_staged : (s.setTable n x).staged = s.staged := rfl
@[simp] theorem State.setTable_mapWaits : (s.setTable n x).mapWaits = s.mapWaits := rfl
@[simp] theorem State.setTable_areas : (s.setTable n x).areas = s.areas := rfl
@[simp] theorem State.setTable_visited : (s.setTable n x).visited = s.visited := rfl
@[simp] theorem State.setTable_flashMoved : (s.setTable n x).flashMoved = s.flashMoved := rfl
@[simp] theorem State.setTable_shardCounts : (s.setTable n x).shardCounts = s.shardCounts := rfl
@[simp] theorem State.setTable_shardWindow : (s.setTable n x).shardWindow = s.shardWindow := rfl
@[simp] theorem State.setTable_epochStart : (s.setTable n x).epochStart = s.epochStart := rfl
@[simp] theorem State.setTable_dmem : (s.setTable n x).dmem = s.dmem := rfl
@[simp] theorem State.setTable_poison : (s.setTable n x).poison = s.poison := rfl
@[simp] theorem State.setTable_cache : (s.setTable n x).cache = s.cache := rfl
@[simp] theorem State.setTable_trackers : (s.setTable n x).trackers = s.trackers := rfl
@[simp] theorem State.setTable_pageCache : (s.setTable n x).pageCache = s.pageCache := rfl
@[simp] theorem State.setTable_flashWrites : (s.setTable n x).flashWrites = s.flashWrites := rfl
@[simp] theorem State.setTable_hubWritten : (s.setTable n x).hubWritten = s.hubWritten := rfl
@[simp] theorem State.setTable_tierRefused : (s.setTable n x).tierRefused = s.tierRefused := rfl
@[simp] theorem State.setTable_rings : (s.setTable n x).rings = s.rings := rfl
@[simp] theorem State.setTable_ringTurn : (s.setTable n x).ringTurn = s.ringTurn := rfl
@[simp] theorem State.setTable_regs : (s.setTable n x).regs = s.regs := rfl
@[simp] theorem State.setTable_locked : (s.setTable n x).locked = s.locked := rfl
@[simp] theorem State.setTable_lockBy : (s.setTable n x).lockBy = s.lockBy := rfl
@[simp] theorem State.setTable_lockRefused : (s.setTable n x).lockRefused = s.lockRefused := rfl
@[simp] theorem State.setTable_lockCause : (s.setTable n x).lockCause = s.lockCause := rfl
@[simp] theorem State.setTable_lockCount : (s.setTable n x).lockCount = s.lockCount := rfl
@[simp] theorem State.setTable_lockLast : (s.setTable n x).lockLast = s.lockLast := rfl
@[simp] theorem State.setTable_ports : (s.setTable n x).ports = s.ports := rfl
@[simp] theorem State.setTable_accs : (s.setTable n x).accs = s.accs := rfl
@[simp] theorem State.setTable_nextAcc : (s.setTable n x).nextAcc = s.nextAcc := rfl
@[simp] theorem State.setTable_released : (s.setTable n x).released = s.released := rfl
@[simp] theorem State.setTable_portIn : (s.setTable n x).portIn = s.portIn := rfl
@[simp] theorem State.setTable_links : (s.setTable n x).links = s.links := rfl
@[simp] theorem State.setTable_channels : (s.setTable n x).channels = s.channels := rfl
@[simp] theorem State.setTable_fences : (s.setTable n x).fences = s.fences := rfl
@[simp] theorem State.setTable_nextFence : (s.setTable n x).nextFence = s.nextFence := rfl
@[simp] theorem State.setTable_fencesIn : (s.setTable n x).fencesIn = s.fencesIn := rfl
@[simp] theorem State.setTable_nextTag : (s.setTable n x).nextTag = s.nextTag := rfl
@[simp] theorem State.setTable_responses : (s.setTable n x).responses = s.responses := rfl
@[simp] theorem State.setTable_mtags : (s.setTable n x).mtags = s.mtags := rfl
@[simp] theorem State.setTable_mgOut : (s.setTable n x).mgOut = s.mgOut := rfl
@[simp] theorem State.setTable_mgWait : (s.setTable n x).mgWait = s.mgWait := rfl
@[simp] theorem State.setTable_remotes : (s.setTable n x).remotes = s.remotes := rfl
@[simp] theorem State.setTable_rqOut : (s.setTable n x).rqOut = s.rqOut := rfl
@[simp] theorem State.setTable_mgIn : (s.setTable n x).mgIn = s.mgIn := rfl
@[simp] theorem State.setTable_bcNow : (s.setTable n x).bcNow = s.bcNow := rfl
@[simp] theorem State.setTable_bcQ : (s.setTable n x).bcQ = s.bcQ := rfl
@[simp] theorem State.setTable_kneads : (s.setTable n x).kneads = s.kneads := rfl
@[simp] theorem State.setTable_kneadGrants : (s.setTable n x).kneadGrants = s.kneadGrants := rfl
@[simp] theorem State.setTable_queue : (s.setTable n x).queue = s.queue := rfl
@[simp] theorem State.setTable_rowLine : (s.setTable n x).rowLine = s.rowLine := rfl
@[simp] theorem State.setTable_sifterInvalid : (s.setTable n x).sifterInvalid = s.sifterInvalid := rfl
@[simp] theorem State.setTable_logs : (s.setTable n x).logs = s.logs := rfl
@[simp] theorem State.setTable_units : (s.setTable n x).units = s.units := rfl
@[simp] theorem State.setTable_heldEvents : (s.setTable n x).heldEvents = s.heldEvents := rfl
@[simp] theorem State.setTable_nextToken : (s.setTable n x).nextToken = s.nextToken := rfl
@[simp] theorem State.setTable_spdm : (s.setTable n x).spdm = s.spdm := rfl

end setTable

/-! ### setGraph -/

section setGraph
variable (n : Nat) (x : Option Graph)

@[simp] theorem State.setGraph_pending : (s.setGraph n x).pending = s.pending := rfl
@[simp] theorem State.setGraph_out : (s.setGraph n x).out = s.out := rfl
@[simp] theorem State.setGraph_freeCtr : (s.setGraph n x).freeCtr = s.freeCtr := rfl
@[simp] theorem State.setGraph_ticks : (s.setGraph n x).ticks = s.ticks := rfl
@[simp] theorem State.setGraph_fuses : (s.setGraph n x).fuses = s.fuses := rfl
@[simp] theorem State.setGraph_bootFlash : (s.setGraph n x).bootFlash = s.bootFlash := rfl
@[simp] theorem State.setGraph_boot : (s.setGraph n x).boot = s.boot := rfl
@[simp] theorem State.setGraph_power : (s.setGraph n x).power = s.power := rfl
@[simp] theorem State.setGraph_mgmt : (s.setGraph n x).mgmt = s.mgmt := rfl
@[simp] theorem State.setGraph_cores : (s.setGraph n x).cores = s.cores := rfl
@[simp] theorem State.setGraph_syncs : (s.setGraph n x).syncs = s.syncs := rfl
@[simp] theorem State.setGraph_programs : (s.setGraph n x).programs = s.programs := rfl
@[simp] theorem State.setGraph_services : (s.setGraph n x).services = s.services := rfl
@[simp] theorem State.setGraph_insts : (s.setGraph n x).insts = s.insts := rfl
@[simp] theorem State.setGraph_instCount : (s.setGraph n x).instCount = s.instCount := rfl
@[simp] theorem State.setGraph_acceptCount : (s.setGraph n x).acceptCount = s.acceptCount := rfl
@[simp] theorem State.setGraph_readyQ : (s.setGraph n x).readyQ = s.readyQ := rfl
@[simp] theorem State.setGraph_flows : (s.setGraph n x).flows = s.flows := rfl
@[simp] theorem State.setGraph_streams : (s.setGraph n x).streams = s.streams := rfl
@[simp] theorem State.setGraph_rrStream : (s.setGraph n x).rrStream = s.rrStream := rfl
@[simp] theorem State.setGraph_flowLast : (s.setGraph n x).flowLast = s.flowLast := rfl
@[simp] theorem State.setGraph_tables : (s.setGraph n x).tables = s.tables := rfl
@[simp] theorem State.setGraph_windows : (s.setGraph n x).windows = s.windows := rfl
@[simp] theorem State.setGraph_sweeps : (s.setGraph n x).sweeps = s.sweeps := rfl
@[simp] theorem State.setGraph_sweepMarks : (s.setGraph n x).sweepMarks = s.sweepMarks := rfl
@[simp] theorem State.setGraph_switches : (s.setGraph n x).switches = s.switches := rfl
@[simp] theorem State.setGraph_chunks : (s.setGraph n x).chunks = s.chunks := rfl
@[simp] theorem State.setGraph_moves : (s.setGraph n x).moves = s.moves := rfl
@[simp] theorem State.setGraph_oldChunks : (s.setGraph n x).oldChunks = s.oldChunks := rfl
@[simp] theorem State.setGraph_shardMoves : (s.setGraph n x).shardMoves = s.shardMoves := rfl
@[simp] theorem State.setGraph_staged : (s.setGraph n x).staged = s.staged := rfl
@[simp] theorem State.setGraph_mapWaits : (s.setGraph n x).mapWaits = s.mapWaits := rfl
@[simp] theorem State.setGraph_areas : (s.setGraph n x).areas = s.areas := rfl
@[simp] theorem State.setGraph_visited : (s.setGraph n x).visited = s.visited := rfl
@[simp] theorem State.setGraph_flashMoved : (s.setGraph n x).flashMoved = s.flashMoved := rfl
@[simp] theorem State.setGraph_shardCounts : (s.setGraph n x).shardCounts = s.shardCounts := rfl
@[simp] theorem State.setGraph_shardWindow : (s.setGraph n x).shardWindow = s.shardWindow := rfl
@[simp] theorem State.setGraph_epochStart : (s.setGraph n x).epochStart = s.epochStart := rfl
@[simp] theorem State.setGraph_dmem : (s.setGraph n x).dmem = s.dmem := rfl
@[simp] theorem State.setGraph_poison : (s.setGraph n x).poison = s.poison := rfl
@[simp] theorem State.setGraph_cache : (s.setGraph n x).cache = s.cache := rfl
@[simp] theorem State.setGraph_trackers : (s.setGraph n x).trackers = s.trackers := rfl
@[simp] theorem State.setGraph_pageCache : (s.setGraph n x).pageCache = s.pageCache := rfl
@[simp] theorem State.setGraph_flashWrites : (s.setGraph n x).flashWrites = s.flashWrites := rfl
@[simp] theorem State.setGraph_hubWritten : (s.setGraph n x).hubWritten = s.hubWritten := rfl
@[simp] theorem State.setGraph_tierRefused : (s.setGraph n x).tierRefused = s.tierRefused := rfl
@[simp] theorem State.setGraph_rings : (s.setGraph n x).rings = s.rings := rfl
@[simp] theorem State.setGraph_ringTurn : (s.setGraph n x).ringTurn = s.ringTurn := rfl
@[simp] theorem State.setGraph_regs : (s.setGraph n x).regs = s.regs := rfl
@[simp] theorem State.setGraph_locked : (s.setGraph n x).locked = s.locked := rfl
@[simp] theorem State.setGraph_lockBy : (s.setGraph n x).lockBy = s.lockBy := rfl
@[simp] theorem State.setGraph_lockRefused : (s.setGraph n x).lockRefused = s.lockRefused := rfl
@[simp] theorem State.setGraph_lockCause : (s.setGraph n x).lockCause = s.lockCause := rfl
@[simp] theorem State.setGraph_lockCount : (s.setGraph n x).lockCount = s.lockCount := rfl
@[simp] theorem State.setGraph_lockLast : (s.setGraph n x).lockLast = s.lockLast := rfl
@[simp] theorem State.setGraph_ports : (s.setGraph n x).ports = s.ports := rfl
@[simp] theorem State.setGraph_accs : (s.setGraph n x).accs = s.accs := rfl
@[simp] theorem State.setGraph_nextAcc : (s.setGraph n x).nextAcc = s.nextAcc := rfl
@[simp] theorem State.setGraph_released : (s.setGraph n x).released = s.released := rfl
@[simp] theorem State.setGraph_portIn : (s.setGraph n x).portIn = s.portIn := rfl
@[simp] theorem State.setGraph_links : (s.setGraph n x).links = s.links := rfl
@[simp] theorem State.setGraph_channels : (s.setGraph n x).channels = s.channels := rfl
@[simp] theorem State.setGraph_fences : (s.setGraph n x).fences = s.fences := rfl
@[simp] theorem State.setGraph_nextFence : (s.setGraph n x).nextFence = s.nextFence := rfl
@[simp] theorem State.setGraph_fencesIn : (s.setGraph n x).fencesIn = s.fencesIn := rfl
@[simp] theorem State.setGraph_nextTag : (s.setGraph n x).nextTag = s.nextTag := rfl
@[simp] theorem State.setGraph_responses : (s.setGraph n x).responses = s.responses := rfl
@[simp] theorem State.setGraph_mtags : (s.setGraph n x).mtags = s.mtags := rfl
@[simp] theorem State.setGraph_mgOut : (s.setGraph n x).mgOut = s.mgOut := rfl
@[simp] theorem State.setGraph_mgWait : (s.setGraph n x).mgWait = s.mgWait := rfl
@[simp] theorem State.setGraph_remotes : (s.setGraph n x).remotes = s.remotes := rfl
@[simp] theorem State.setGraph_rqOut : (s.setGraph n x).rqOut = s.rqOut := rfl
@[simp] theorem State.setGraph_mgIn : (s.setGraph n x).mgIn = s.mgIn := rfl
@[simp] theorem State.setGraph_bcNow : (s.setGraph n x).bcNow = s.bcNow := rfl
@[simp] theorem State.setGraph_bcQ : (s.setGraph n x).bcQ = s.bcQ := rfl
@[simp] theorem State.setGraph_kneads : (s.setGraph n x).kneads = s.kneads := rfl
@[simp] theorem State.setGraph_kneadGrants : (s.setGraph n x).kneadGrants = s.kneadGrants := rfl
@[simp] theorem State.setGraph_queue : (s.setGraph n x).queue = s.queue := rfl
@[simp] theorem State.setGraph_rowLine : (s.setGraph n x).rowLine = s.rowLine := rfl
@[simp] theorem State.setGraph_sifterInvalid : (s.setGraph n x).sifterInvalid = s.sifterInvalid := rfl
@[simp] theorem State.setGraph_logs : (s.setGraph n x).logs = s.logs := rfl
@[simp] theorem State.setGraph_units : (s.setGraph n x).units = s.units := rfl
@[simp] theorem State.setGraph_heldEvents : (s.setGraph n x).heldEvents = s.heldEvents := rfl
@[simp] theorem State.setGraph_nextToken : (s.setGraph n x).nextToken = s.nextToken := rfl
@[simp] theorem State.setGraph_spdm : (s.setGraph n x).spdm = s.spdm := rfl

end setGraph

/-! ### setProg -/

section setProg
variable (p n : Nat) (x : Option Program)

@[simp] theorem State.setProg_pending : (s.setProg p n x).pending = s.pending := rfl
@[simp] theorem State.setProg_out : (s.setProg p n x).out = s.out := rfl
@[simp] theorem State.setProg_freeCtr : (s.setProg p n x).freeCtr = s.freeCtr := rfl
@[simp] theorem State.setProg_ticks : (s.setProg p n x).ticks = s.ticks := rfl
@[simp] theorem State.setProg_fuses : (s.setProg p n x).fuses = s.fuses := rfl
@[simp] theorem State.setProg_bootFlash : (s.setProg p n x).bootFlash = s.bootFlash := rfl
@[simp] theorem State.setProg_boot : (s.setProg p n x).boot = s.boot := rfl
@[simp] theorem State.setProg_power : (s.setProg p n x).power = s.power := rfl
@[simp] theorem State.setProg_mgmt : (s.setProg p n x).mgmt = s.mgmt := rfl
@[simp] theorem State.setProg_cores : (s.setProg p n x).cores = s.cores := rfl
@[simp] theorem State.setProg_syncs : (s.setProg p n x).syncs = s.syncs := rfl
@[simp] theorem State.setProg_services : (s.setProg p n x).services = s.services := rfl
@[simp] theorem State.setProg_insts : (s.setProg p n x).insts = s.insts := rfl
@[simp] theorem State.setProg_instCount : (s.setProg p n x).instCount = s.instCount := rfl
@[simp] theorem State.setProg_acceptCount : (s.setProg p n x).acceptCount = s.acceptCount := rfl
@[simp] theorem State.setProg_readyQ : (s.setProg p n x).readyQ = s.readyQ := rfl
@[simp] theorem State.setProg_flows : (s.setProg p n x).flows = s.flows := rfl
@[simp] theorem State.setProg_streams : (s.setProg p n x).streams = s.streams := rfl
@[simp] theorem State.setProg_rrStream : (s.setProg p n x).rrStream = s.rrStream := rfl
@[simp] theorem State.setProg_flowLast : (s.setProg p n x).flowLast = s.flowLast := rfl
@[simp] theorem State.setProg_tables : (s.setProg p n x).tables = s.tables := rfl
@[simp] theorem State.setProg_windows : (s.setProg p n x).windows = s.windows := rfl
@[simp] theorem State.setProg_graphs : (s.setProg p n x).graphs = s.graphs := rfl
@[simp] theorem State.setProg_sweeps : (s.setProg p n x).sweeps = s.sweeps := rfl
@[simp] theorem State.setProg_sweepMarks : (s.setProg p n x).sweepMarks = s.sweepMarks := rfl
@[simp] theorem State.setProg_switches : (s.setProg p n x).switches = s.switches := rfl
@[simp] theorem State.setProg_chunks : (s.setProg p n x).chunks = s.chunks := rfl
@[simp] theorem State.setProg_moves : (s.setProg p n x).moves = s.moves := rfl
@[simp] theorem State.setProg_oldChunks : (s.setProg p n x).oldChunks = s.oldChunks := rfl
@[simp] theorem State.setProg_shardMoves : (s.setProg p n x).shardMoves = s.shardMoves := rfl
@[simp] theorem State.setProg_staged : (s.setProg p n x).staged = s.staged := rfl
@[simp] theorem State.setProg_mapWaits : (s.setProg p n x).mapWaits = s.mapWaits := rfl
@[simp] theorem State.setProg_areas : (s.setProg p n x).areas = s.areas := rfl
@[simp] theorem State.setProg_visited : (s.setProg p n x).visited = s.visited := rfl
@[simp] theorem State.setProg_flashMoved : (s.setProg p n x).flashMoved = s.flashMoved := rfl
@[simp] theorem State.setProg_shardCounts : (s.setProg p n x).shardCounts = s.shardCounts := rfl
@[simp] theorem State.setProg_shardWindow : (s.setProg p n x).shardWindow = s.shardWindow := rfl
@[simp] theorem State.setProg_epochStart : (s.setProg p n x).epochStart = s.epochStart := rfl
@[simp] theorem State.setProg_dmem : (s.setProg p n x).dmem = s.dmem := rfl
@[simp] theorem State.setProg_poison : (s.setProg p n x).poison = s.poison := rfl
@[simp] theorem State.setProg_cache : (s.setProg p n x).cache = s.cache := rfl
@[simp] theorem State.setProg_trackers : (s.setProg p n x).trackers = s.trackers := rfl
@[simp] theorem State.setProg_pageCache : (s.setProg p n x).pageCache = s.pageCache := rfl
@[simp] theorem State.setProg_flashWrites : (s.setProg p n x).flashWrites = s.flashWrites := rfl
@[simp] theorem State.setProg_hubWritten : (s.setProg p n x).hubWritten = s.hubWritten := rfl
@[simp] theorem State.setProg_tierRefused : (s.setProg p n x).tierRefused = s.tierRefused := rfl
@[simp] theorem State.setProg_rings : (s.setProg p n x).rings = s.rings := rfl
@[simp] theorem State.setProg_ringTurn : (s.setProg p n x).ringTurn = s.ringTurn := rfl
@[simp] theorem State.setProg_regs : (s.setProg p n x).regs = s.regs := rfl
@[simp] theorem State.setProg_locked : (s.setProg p n x).locked = s.locked := rfl
@[simp] theorem State.setProg_lockBy : (s.setProg p n x).lockBy = s.lockBy := rfl
@[simp] theorem State.setProg_lockRefused : (s.setProg p n x).lockRefused = s.lockRefused := rfl
@[simp] theorem State.setProg_lockCause : (s.setProg p n x).lockCause = s.lockCause := rfl
@[simp] theorem State.setProg_lockCount : (s.setProg p n x).lockCount = s.lockCount := rfl
@[simp] theorem State.setProg_lockLast : (s.setProg p n x).lockLast = s.lockLast := rfl
@[simp] theorem State.setProg_ports : (s.setProg p n x).ports = s.ports := rfl
@[simp] theorem State.setProg_accs : (s.setProg p n x).accs = s.accs := rfl
@[simp] theorem State.setProg_nextAcc : (s.setProg p n x).nextAcc = s.nextAcc := rfl
@[simp] theorem State.setProg_released : (s.setProg p n x).released = s.released := rfl
@[simp] theorem State.setProg_portIn : (s.setProg p n x).portIn = s.portIn := rfl
@[simp] theorem State.setProg_links : (s.setProg p n x).links = s.links := rfl
@[simp] theorem State.setProg_channels : (s.setProg p n x).channels = s.channels := rfl
@[simp] theorem State.setProg_fences : (s.setProg p n x).fences = s.fences := rfl
@[simp] theorem State.setProg_nextFence : (s.setProg p n x).nextFence = s.nextFence := rfl
@[simp] theorem State.setProg_fencesIn : (s.setProg p n x).fencesIn = s.fencesIn := rfl
@[simp] theorem State.setProg_nextTag : (s.setProg p n x).nextTag = s.nextTag := rfl
@[simp] theorem State.setProg_responses : (s.setProg p n x).responses = s.responses := rfl
@[simp] theorem State.setProg_mtags : (s.setProg p n x).mtags = s.mtags := rfl
@[simp] theorem State.setProg_mgOut : (s.setProg p n x).mgOut = s.mgOut := rfl
@[simp] theorem State.setProg_mgWait : (s.setProg p n x).mgWait = s.mgWait := rfl
@[simp] theorem State.setProg_remotes : (s.setProg p n x).remotes = s.remotes := rfl
@[simp] theorem State.setProg_rqOut : (s.setProg p n x).rqOut = s.rqOut := rfl
@[simp] theorem State.setProg_mgIn : (s.setProg p n x).mgIn = s.mgIn := rfl
@[simp] theorem State.setProg_bcNow : (s.setProg p n x).bcNow = s.bcNow := rfl
@[simp] theorem State.setProg_bcQ : (s.setProg p n x).bcQ = s.bcQ := rfl
@[simp] theorem State.setProg_kneads : (s.setProg p n x).kneads = s.kneads := rfl
@[simp] theorem State.setProg_kneadGrants : (s.setProg p n x).kneadGrants = s.kneadGrants := rfl
@[simp] theorem State.setProg_queue : (s.setProg p n x).queue = s.queue := rfl
@[simp] theorem State.setProg_rowLine : (s.setProg p n x).rowLine = s.rowLine := rfl
@[simp] theorem State.setProg_sifterInvalid : (s.setProg p n x).sifterInvalid = s.sifterInvalid := rfl
@[simp] theorem State.setProg_logs : (s.setProg p n x).logs = s.logs := rfl
@[simp] theorem State.setProg_units : (s.setProg p n x).units = s.units := rfl
@[simp] theorem State.setProg_heldEvents : (s.setProg p n x).heldEvents = s.heldEvents := rfl
@[simp] theorem State.setProg_nextToken : (s.setProg p n x).nextToken = s.nextToken := rfl
@[simp] theorem State.setProg_spdm : (s.setProg p n x).spdm = s.spdm := rfl

end setProg

/-! ### setSvc -/

section setSvc
variable (p n : Nat) (x : Option Service)

@[simp] theorem State.setSvc_pending : (s.setSvc p n x).pending = s.pending := rfl
@[simp] theorem State.setSvc_out : (s.setSvc p n x).out = s.out := rfl
@[simp] theorem State.setSvc_freeCtr : (s.setSvc p n x).freeCtr = s.freeCtr := rfl
@[simp] theorem State.setSvc_ticks : (s.setSvc p n x).ticks = s.ticks := rfl
@[simp] theorem State.setSvc_fuses : (s.setSvc p n x).fuses = s.fuses := rfl
@[simp] theorem State.setSvc_bootFlash : (s.setSvc p n x).bootFlash = s.bootFlash := rfl
@[simp] theorem State.setSvc_boot : (s.setSvc p n x).boot = s.boot := rfl
@[simp] theorem State.setSvc_power : (s.setSvc p n x).power = s.power := rfl
@[simp] theorem State.setSvc_mgmt : (s.setSvc p n x).mgmt = s.mgmt := rfl
@[simp] theorem State.setSvc_cores : (s.setSvc p n x).cores = s.cores := rfl
@[simp] theorem State.setSvc_syncs : (s.setSvc p n x).syncs = s.syncs := rfl
@[simp] theorem State.setSvc_programs : (s.setSvc p n x).programs = s.programs := rfl
@[simp] theorem State.setSvc_insts : (s.setSvc p n x).insts = s.insts := rfl
@[simp] theorem State.setSvc_instCount : (s.setSvc p n x).instCount = s.instCount := rfl
@[simp] theorem State.setSvc_acceptCount : (s.setSvc p n x).acceptCount = s.acceptCount := rfl
@[simp] theorem State.setSvc_readyQ : (s.setSvc p n x).readyQ = s.readyQ := rfl
@[simp] theorem State.setSvc_flows : (s.setSvc p n x).flows = s.flows := rfl
@[simp] theorem State.setSvc_streams : (s.setSvc p n x).streams = s.streams := rfl
@[simp] theorem State.setSvc_rrStream : (s.setSvc p n x).rrStream = s.rrStream := rfl
@[simp] theorem State.setSvc_flowLast : (s.setSvc p n x).flowLast = s.flowLast := rfl
@[simp] theorem State.setSvc_tables : (s.setSvc p n x).tables = s.tables := rfl
@[simp] theorem State.setSvc_windows : (s.setSvc p n x).windows = s.windows := rfl
@[simp] theorem State.setSvc_graphs : (s.setSvc p n x).graphs = s.graphs := rfl
@[simp] theorem State.setSvc_sweeps : (s.setSvc p n x).sweeps = s.sweeps := rfl
@[simp] theorem State.setSvc_sweepMarks : (s.setSvc p n x).sweepMarks = s.sweepMarks := rfl
@[simp] theorem State.setSvc_switches : (s.setSvc p n x).switches = s.switches := rfl
@[simp] theorem State.setSvc_chunks : (s.setSvc p n x).chunks = s.chunks := rfl
@[simp] theorem State.setSvc_moves : (s.setSvc p n x).moves = s.moves := rfl
@[simp] theorem State.setSvc_oldChunks : (s.setSvc p n x).oldChunks = s.oldChunks := rfl
@[simp] theorem State.setSvc_shardMoves : (s.setSvc p n x).shardMoves = s.shardMoves := rfl
@[simp] theorem State.setSvc_staged : (s.setSvc p n x).staged = s.staged := rfl
@[simp] theorem State.setSvc_mapWaits : (s.setSvc p n x).mapWaits = s.mapWaits := rfl
@[simp] theorem State.setSvc_areas : (s.setSvc p n x).areas = s.areas := rfl
@[simp] theorem State.setSvc_visited : (s.setSvc p n x).visited = s.visited := rfl
@[simp] theorem State.setSvc_flashMoved : (s.setSvc p n x).flashMoved = s.flashMoved := rfl
@[simp] theorem State.setSvc_shardCounts : (s.setSvc p n x).shardCounts = s.shardCounts := rfl
@[simp] theorem State.setSvc_shardWindow : (s.setSvc p n x).shardWindow = s.shardWindow := rfl
@[simp] theorem State.setSvc_epochStart : (s.setSvc p n x).epochStart = s.epochStart := rfl
@[simp] theorem State.setSvc_dmem : (s.setSvc p n x).dmem = s.dmem := rfl
@[simp] theorem State.setSvc_poison : (s.setSvc p n x).poison = s.poison := rfl
@[simp] theorem State.setSvc_cache : (s.setSvc p n x).cache = s.cache := rfl
@[simp] theorem State.setSvc_trackers : (s.setSvc p n x).trackers = s.trackers := rfl
@[simp] theorem State.setSvc_pageCache : (s.setSvc p n x).pageCache = s.pageCache := rfl
@[simp] theorem State.setSvc_flashWrites : (s.setSvc p n x).flashWrites = s.flashWrites := rfl
@[simp] theorem State.setSvc_hubWritten : (s.setSvc p n x).hubWritten = s.hubWritten := rfl
@[simp] theorem State.setSvc_tierRefused : (s.setSvc p n x).tierRefused = s.tierRefused := rfl
@[simp] theorem State.setSvc_rings : (s.setSvc p n x).rings = s.rings := rfl
@[simp] theorem State.setSvc_ringTurn : (s.setSvc p n x).ringTurn = s.ringTurn := rfl
@[simp] theorem State.setSvc_regs : (s.setSvc p n x).regs = s.regs := rfl
@[simp] theorem State.setSvc_locked : (s.setSvc p n x).locked = s.locked := rfl
@[simp] theorem State.setSvc_lockBy : (s.setSvc p n x).lockBy = s.lockBy := rfl
@[simp] theorem State.setSvc_lockRefused : (s.setSvc p n x).lockRefused = s.lockRefused := rfl
@[simp] theorem State.setSvc_lockCause : (s.setSvc p n x).lockCause = s.lockCause := rfl
@[simp] theorem State.setSvc_lockCount : (s.setSvc p n x).lockCount = s.lockCount := rfl
@[simp] theorem State.setSvc_lockLast : (s.setSvc p n x).lockLast = s.lockLast := rfl
@[simp] theorem State.setSvc_ports : (s.setSvc p n x).ports = s.ports := rfl
@[simp] theorem State.setSvc_accs : (s.setSvc p n x).accs = s.accs := rfl
@[simp] theorem State.setSvc_nextAcc : (s.setSvc p n x).nextAcc = s.nextAcc := rfl
@[simp] theorem State.setSvc_released : (s.setSvc p n x).released = s.released := rfl
@[simp] theorem State.setSvc_portIn : (s.setSvc p n x).portIn = s.portIn := rfl
@[simp] theorem State.setSvc_links : (s.setSvc p n x).links = s.links := rfl
@[simp] theorem State.setSvc_channels : (s.setSvc p n x).channels = s.channels := rfl
@[simp] theorem State.setSvc_fences : (s.setSvc p n x).fences = s.fences := rfl
@[simp] theorem State.setSvc_nextFence : (s.setSvc p n x).nextFence = s.nextFence := rfl
@[simp] theorem State.setSvc_fencesIn : (s.setSvc p n x).fencesIn = s.fencesIn := rfl
@[simp] theorem State.setSvc_nextTag : (s.setSvc p n x).nextTag = s.nextTag := rfl
@[simp] theorem State.setSvc_responses : (s.setSvc p n x).responses = s.responses := rfl
@[simp] theorem State.setSvc_mtags : (s.setSvc p n x).mtags = s.mtags := rfl
@[simp] theorem State.setSvc_mgOut : (s.setSvc p n x).mgOut = s.mgOut := rfl
@[simp] theorem State.setSvc_mgWait : (s.setSvc p n x).mgWait = s.mgWait := rfl
@[simp] theorem State.setSvc_remotes : (s.setSvc p n x).remotes = s.remotes := rfl
@[simp] theorem State.setSvc_rqOut : (s.setSvc p n x).rqOut = s.rqOut := rfl
@[simp] theorem State.setSvc_mgIn : (s.setSvc p n x).mgIn = s.mgIn := rfl
@[simp] theorem State.setSvc_bcNow : (s.setSvc p n x).bcNow = s.bcNow := rfl
@[simp] theorem State.setSvc_bcQ : (s.setSvc p n x).bcQ = s.bcQ := rfl
@[simp] theorem State.setSvc_kneads : (s.setSvc p n x).kneads = s.kneads := rfl
@[simp] theorem State.setSvc_kneadGrants : (s.setSvc p n x).kneadGrants = s.kneadGrants := rfl
@[simp] theorem State.setSvc_queue : (s.setSvc p n x).queue = s.queue := rfl
@[simp] theorem State.setSvc_rowLine : (s.setSvc p n x).rowLine = s.rowLine := rfl
@[simp] theorem State.setSvc_sifterInvalid : (s.setSvc p n x).sifterInvalid = s.sifterInvalid := rfl
@[simp] theorem State.setSvc_logs : (s.setSvc p n x).logs = s.logs := rfl
@[simp] theorem State.setSvc_units : (s.setSvc p n x).units = s.units := rfl
@[simp] theorem State.setSvc_heldEvents : (s.setSvc p n x).heldEvents = s.heldEvents := rfl
@[simp] theorem State.setSvc_nextToken : (s.setSvc p n x).nextToken = s.nextToken := rfl
@[simp] theorem State.setSvc_spdm : (s.setSvc p n x).spdm = s.spdm := rfl

end setSvc

/-! ### modInst -/

section modInst
variable (n : Nat) (f : Inst → Inst)

@[simp] theorem State.modInst_pending : (s.modInst n f).pending = s.pending := rfl
@[simp] theorem State.modInst_out : (s.modInst n f).out = s.out := rfl
@[simp] theorem State.modInst_freeCtr : (s.modInst n f).freeCtr = s.freeCtr := rfl
@[simp] theorem State.modInst_ticks : (s.modInst n f).ticks = s.ticks := rfl
@[simp] theorem State.modInst_fuses : (s.modInst n f).fuses = s.fuses := rfl
@[simp] theorem State.modInst_bootFlash : (s.modInst n f).bootFlash = s.bootFlash := rfl
@[simp] theorem State.modInst_boot : (s.modInst n f).boot = s.boot := rfl
@[simp] theorem State.modInst_power : (s.modInst n f).power = s.power := rfl
@[simp] theorem State.modInst_mgmt : (s.modInst n f).mgmt = s.mgmt := rfl
@[simp] theorem State.modInst_cores : (s.modInst n f).cores = s.cores := rfl
@[simp] theorem State.modInst_syncs : (s.modInst n f).syncs = s.syncs := rfl
@[simp] theorem State.modInst_programs : (s.modInst n f).programs = s.programs := rfl
@[simp] theorem State.modInst_services : (s.modInst n f).services = s.services := rfl
@[simp] theorem State.modInst_instCount : (s.modInst n f).instCount = s.instCount := rfl
@[simp] theorem State.modInst_acceptCount : (s.modInst n f).acceptCount = s.acceptCount := rfl
@[simp] theorem State.modInst_readyQ : (s.modInst n f).readyQ = s.readyQ := rfl
@[simp] theorem State.modInst_flows : (s.modInst n f).flows = s.flows := rfl
@[simp] theorem State.modInst_streams : (s.modInst n f).streams = s.streams := rfl
@[simp] theorem State.modInst_rrStream : (s.modInst n f).rrStream = s.rrStream := rfl
@[simp] theorem State.modInst_flowLast : (s.modInst n f).flowLast = s.flowLast := rfl
@[simp] theorem State.modInst_tables : (s.modInst n f).tables = s.tables := rfl
@[simp] theorem State.modInst_windows : (s.modInst n f).windows = s.windows := rfl
@[simp] theorem State.modInst_graphs : (s.modInst n f).graphs = s.graphs := rfl
@[simp] theorem State.modInst_sweeps : (s.modInst n f).sweeps = s.sweeps := rfl
@[simp] theorem State.modInst_sweepMarks : (s.modInst n f).sweepMarks = s.sweepMarks := rfl
@[simp] theorem State.modInst_switches : (s.modInst n f).switches = s.switches := rfl
@[simp] theorem State.modInst_chunks : (s.modInst n f).chunks = s.chunks := rfl
@[simp] theorem State.modInst_moves : (s.modInst n f).moves = s.moves := rfl
@[simp] theorem State.modInst_oldChunks : (s.modInst n f).oldChunks = s.oldChunks := rfl
@[simp] theorem State.modInst_shardMoves : (s.modInst n f).shardMoves = s.shardMoves := rfl
@[simp] theorem State.modInst_staged : (s.modInst n f).staged = s.staged := rfl
@[simp] theorem State.modInst_mapWaits : (s.modInst n f).mapWaits = s.mapWaits := rfl
@[simp] theorem State.modInst_areas : (s.modInst n f).areas = s.areas := rfl
@[simp] theorem State.modInst_visited : (s.modInst n f).visited = s.visited := rfl
@[simp] theorem State.modInst_flashMoved : (s.modInst n f).flashMoved = s.flashMoved := rfl
@[simp] theorem State.modInst_shardCounts : (s.modInst n f).shardCounts = s.shardCounts := rfl
@[simp] theorem State.modInst_shardWindow : (s.modInst n f).shardWindow = s.shardWindow := rfl
@[simp] theorem State.modInst_epochStart : (s.modInst n f).epochStart = s.epochStart := rfl
@[simp] theorem State.modInst_dmem : (s.modInst n f).dmem = s.dmem := rfl
@[simp] theorem State.modInst_poison : (s.modInst n f).poison = s.poison := rfl
@[simp] theorem State.modInst_cache : (s.modInst n f).cache = s.cache := rfl
@[simp] theorem State.modInst_trackers : (s.modInst n f).trackers = s.trackers := rfl
@[simp] theorem State.modInst_pageCache : (s.modInst n f).pageCache = s.pageCache := rfl
@[simp] theorem State.modInst_flashWrites : (s.modInst n f).flashWrites = s.flashWrites := rfl
@[simp] theorem State.modInst_hubWritten : (s.modInst n f).hubWritten = s.hubWritten := rfl
@[simp] theorem State.modInst_tierRefused : (s.modInst n f).tierRefused = s.tierRefused := rfl
@[simp] theorem State.modInst_rings : (s.modInst n f).rings = s.rings := rfl
@[simp] theorem State.modInst_ringTurn : (s.modInst n f).ringTurn = s.ringTurn := rfl
@[simp] theorem State.modInst_regs : (s.modInst n f).regs = s.regs := rfl
@[simp] theorem State.modInst_locked : (s.modInst n f).locked = s.locked := rfl
@[simp] theorem State.modInst_lockBy : (s.modInst n f).lockBy = s.lockBy := rfl
@[simp] theorem State.modInst_lockRefused : (s.modInst n f).lockRefused = s.lockRefused := rfl
@[simp] theorem State.modInst_lockCause : (s.modInst n f).lockCause = s.lockCause := rfl
@[simp] theorem State.modInst_lockCount : (s.modInst n f).lockCount = s.lockCount := rfl
@[simp] theorem State.modInst_lockLast : (s.modInst n f).lockLast = s.lockLast := rfl
@[simp] theorem State.modInst_ports : (s.modInst n f).ports = s.ports := rfl
@[simp] theorem State.modInst_accs : (s.modInst n f).accs = s.accs := rfl
@[simp] theorem State.modInst_nextAcc : (s.modInst n f).nextAcc = s.nextAcc := rfl
@[simp] theorem State.modInst_released : (s.modInst n f).released = s.released := rfl
@[simp] theorem State.modInst_portIn : (s.modInst n f).portIn = s.portIn := rfl
@[simp] theorem State.modInst_links : (s.modInst n f).links = s.links := rfl
@[simp] theorem State.modInst_channels : (s.modInst n f).channels = s.channels := rfl
@[simp] theorem State.modInst_fences : (s.modInst n f).fences = s.fences := rfl
@[simp] theorem State.modInst_nextFence : (s.modInst n f).nextFence = s.nextFence := rfl
@[simp] theorem State.modInst_fencesIn : (s.modInst n f).fencesIn = s.fencesIn := rfl
@[simp] theorem State.modInst_nextTag : (s.modInst n f).nextTag = s.nextTag := rfl
@[simp] theorem State.modInst_responses : (s.modInst n f).responses = s.responses := rfl
@[simp] theorem State.modInst_mtags : (s.modInst n f).mtags = s.mtags := rfl
@[simp] theorem State.modInst_mgOut : (s.modInst n f).mgOut = s.mgOut := rfl
@[simp] theorem State.modInst_mgWait : (s.modInst n f).mgWait = s.mgWait := rfl
@[simp] theorem State.modInst_remotes : (s.modInst n f).remotes = s.remotes := rfl
@[simp] theorem State.modInst_rqOut : (s.modInst n f).rqOut = s.rqOut := rfl
@[simp] theorem State.modInst_mgIn : (s.modInst n f).mgIn = s.mgIn := rfl
@[simp] theorem State.modInst_bcNow : (s.modInst n f).bcNow = s.bcNow := rfl
@[simp] theorem State.modInst_bcQ : (s.modInst n f).bcQ = s.bcQ := rfl
@[simp] theorem State.modInst_kneads : (s.modInst n f).kneads = s.kneads := rfl
@[simp] theorem State.modInst_kneadGrants : (s.modInst n f).kneadGrants = s.kneadGrants := rfl
@[simp] theorem State.modInst_queue : (s.modInst n f).queue = s.queue := rfl
@[simp] theorem State.modInst_rowLine : (s.modInst n f).rowLine = s.rowLine := rfl
@[simp] theorem State.modInst_sifterInvalid : (s.modInst n f).sifterInvalid = s.sifterInvalid := rfl
@[simp] theorem State.modInst_logs : (s.modInst n f).logs = s.logs := rfl
@[simp] theorem State.modInst_units : (s.modInst n f).units = s.units := rfl
@[simp] theorem State.modInst_heldEvents : (s.modInst n f).heldEvents = s.heldEvents := rfl
@[simp] theorem State.modInst_nextToken : (s.modInst n f).nextToken = s.nextToken := rfl
@[simp] theorem State.modInst_spdm : (s.modInst n f).spdm = s.spdm := rfl

end modInst

/-! ### emit -/

section emit
variable (o : Output)

@[simp] theorem State.emit_pending : (s.emit o).pending = s.pending := rfl
@[simp] theorem State.emit_freeCtr : (s.emit o).freeCtr = s.freeCtr := rfl
@[simp] theorem State.emit_ticks : (s.emit o).ticks = s.ticks := rfl
@[simp] theorem State.emit_fuses : (s.emit o).fuses = s.fuses := rfl
@[simp] theorem State.emit_bootFlash : (s.emit o).bootFlash = s.bootFlash := rfl
@[simp] theorem State.emit_boot : (s.emit o).boot = s.boot := rfl
@[simp] theorem State.emit_power : (s.emit o).power = s.power := rfl
@[simp] theorem State.emit_mgmt : (s.emit o).mgmt = s.mgmt := rfl
@[simp] theorem State.emit_cores : (s.emit o).cores = s.cores := rfl
@[simp] theorem State.emit_syncs : (s.emit o).syncs = s.syncs := rfl
@[simp] theorem State.emit_programs : (s.emit o).programs = s.programs := rfl
@[simp] theorem State.emit_services : (s.emit o).services = s.services := rfl
@[simp] theorem State.emit_insts : (s.emit o).insts = s.insts := rfl
@[simp] theorem State.emit_instCount : (s.emit o).instCount = s.instCount := rfl
@[simp] theorem State.emit_acceptCount : (s.emit o).acceptCount = s.acceptCount := rfl
@[simp] theorem State.emit_readyQ : (s.emit o).readyQ = s.readyQ := rfl
@[simp] theorem State.emit_flows : (s.emit o).flows = s.flows := rfl
@[simp] theorem State.emit_streams : (s.emit o).streams = s.streams := rfl
@[simp] theorem State.emit_rrStream : (s.emit o).rrStream = s.rrStream := rfl
@[simp] theorem State.emit_flowLast : (s.emit o).flowLast = s.flowLast := rfl
@[simp] theorem State.emit_tables : (s.emit o).tables = s.tables := rfl
@[simp] theorem State.emit_windows : (s.emit o).windows = s.windows := rfl
@[simp] theorem State.emit_graphs : (s.emit o).graphs = s.graphs := rfl
@[simp] theorem State.emit_sweeps : (s.emit o).sweeps = s.sweeps := rfl
@[simp] theorem State.emit_sweepMarks : (s.emit o).sweepMarks = s.sweepMarks := rfl
@[simp] theorem State.emit_switches : (s.emit o).switches = s.switches := rfl
@[simp] theorem State.emit_chunks : (s.emit o).chunks = s.chunks := rfl
@[simp] theorem State.emit_moves : (s.emit o).moves = s.moves := rfl
@[simp] theorem State.emit_oldChunks : (s.emit o).oldChunks = s.oldChunks := rfl
@[simp] theorem State.emit_shardMoves : (s.emit o).shardMoves = s.shardMoves := rfl
@[simp] theorem State.emit_staged : (s.emit o).staged = s.staged := rfl
@[simp] theorem State.emit_mapWaits : (s.emit o).mapWaits = s.mapWaits := rfl
@[simp] theorem State.emit_areas : (s.emit o).areas = s.areas := rfl
@[simp] theorem State.emit_visited : (s.emit o).visited = s.visited := rfl
@[simp] theorem State.emit_flashMoved : (s.emit o).flashMoved = s.flashMoved := rfl
@[simp] theorem State.emit_shardCounts : (s.emit o).shardCounts = s.shardCounts := rfl
@[simp] theorem State.emit_shardWindow : (s.emit o).shardWindow = s.shardWindow := rfl
@[simp] theorem State.emit_epochStart : (s.emit o).epochStart = s.epochStart := rfl
@[simp] theorem State.emit_dmem : (s.emit o).dmem = s.dmem := rfl
@[simp] theorem State.emit_poison : (s.emit o).poison = s.poison := rfl
@[simp] theorem State.emit_cache : (s.emit o).cache = s.cache := rfl
@[simp] theorem State.emit_trackers : (s.emit o).trackers = s.trackers := rfl
@[simp] theorem State.emit_pageCache : (s.emit o).pageCache = s.pageCache := rfl
@[simp] theorem State.emit_flashWrites : (s.emit o).flashWrites = s.flashWrites := rfl
@[simp] theorem State.emit_hubWritten : (s.emit o).hubWritten = s.hubWritten := rfl
@[simp] theorem State.emit_tierRefused : (s.emit o).tierRefused = s.tierRefused := rfl
@[simp] theorem State.emit_rings : (s.emit o).rings = s.rings := rfl
@[simp] theorem State.emit_ringTurn : (s.emit o).ringTurn = s.ringTurn := rfl
@[simp] theorem State.emit_regs : (s.emit o).regs = s.regs := rfl
@[simp] theorem State.emit_locked : (s.emit o).locked = s.locked := rfl
@[simp] theorem State.emit_lockBy : (s.emit o).lockBy = s.lockBy := rfl
@[simp] theorem State.emit_lockRefused : (s.emit o).lockRefused = s.lockRefused := rfl
@[simp] theorem State.emit_lockCause : (s.emit o).lockCause = s.lockCause := rfl
@[simp] theorem State.emit_lockCount : (s.emit o).lockCount = s.lockCount := rfl
@[simp] theorem State.emit_lockLast : (s.emit o).lockLast = s.lockLast := rfl
@[simp] theorem State.emit_ports : (s.emit o).ports = s.ports := rfl
@[simp] theorem State.emit_accs : (s.emit o).accs = s.accs := rfl
@[simp] theorem State.emit_nextAcc : (s.emit o).nextAcc = s.nextAcc := rfl
@[simp] theorem State.emit_released : (s.emit o).released = s.released := rfl
@[simp] theorem State.emit_portIn : (s.emit o).portIn = s.portIn := rfl
@[simp] theorem State.emit_links : (s.emit o).links = s.links := rfl
@[simp] theorem State.emit_channels : (s.emit o).channels = s.channels := rfl
@[simp] theorem State.emit_fences : (s.emit o).fences = s.fences := rfl
@[simp] theorem State.emit_nextFence : (s.emit o).nextFence = s.nextFence := rfl
@[simp] theorem State.emit_fencesIn : (s.emit o).fencesIn = s.fencesIn := rfl
@[simp] theorem State.emit_nextTag : (s.emit o).nextTag = s.nextTag := rfl
@[simp] theorem State.emit_responses : (s.emit o).responses = s.responses := rfl
@[simp] theorem State.emit_mtags : (s.emit o).mtags = s.mtags := rfl
@[simp] theorem State.emit_mgOut : (s.emit o).mgOut = s.mgOut := rfl
@[simp] theorem State.emit_mgWait : (s.emit o).mgWait = s.mgWait := rfl
@[simp] theorem State.emit_remotes : (s.emit o).remotes = s.remotes := rfl
@[simp] theorem State.emit_rqOut : (s.emit o).rqOut = s.rqOut := rfl
@[simp] theorem State.emit_mgIn : (s.emit o).mgIn = s.mgIn := rfl
@[simp] theorem State.emit_bcNow : (s.emit o).bcNow = s.bcNow := rfl
@[simp] theorem State.emit_bcQ : (s.emit o).bcQ = s.bcQ := rfl
@[simp] theorem State.emit_kneads : (s.emit o).kneads = s.kneads := rfl
@[simp] theorem State.emit_kneadGrants : (s.emit o).kneadGrants = s.kneadGrants := rfl
@[simp] theorem State.emit_queue : (s.emit o).queue = s.queue := rfl
@[simp] theorem State.emit_rowLine : (s.emit o).rowLine = s.rowLine := rfl
@[simp] theorem State.emit_sifterInvalid : (s.emit o).sifterInvalid = s.sifterInvalid := rfl
@[simp] theorem State.emit_logs : (s.emit o).logs = s.logs := rfl
@[simp] theorem State.emit_units : (s.emit o).units = s.units := rfl
@[simp] theorem State.emit_heldEvents : (s.emit o).heldEvents = s.heldEvents := rfl
@[simp] theorem State.emit_nextToken : (s.emit o).nextToken = s.nextToken := rfl
@[simp] theorem State.emit_spdm : (s.emit o).spdm = s.spdm := rfl

end emit

/-! ### setReg -/

section setReg
variable (a v : Nat)

@[simp] theorem State.setReg_pending : (s.setReg a v).pending = s.pending := rfl
@[simp] theorem State.setReg_out : (s.setReg a v).out = s.out := rfl
@[simp] theorem State.setReg_freeCtr : (s.setReg a v).freeCtr = s.freeCtr := rfl
@[simp] theorem State.setReg_ticks : (s.setReg a v).ticks = s.ticks := rfl
@[simp] theorem State.setReg_fuses : (s.setReg a v).fuses = s.fuses := rfl
@[simp] theorem State.setReg_bootFlash : (s.setReg a v).bootFlash = s.bootFlash := rfl
@[simp] theorem State.setReg_boot : (s.setReg a v).boot = s.boot := rfl
@[simp] theorem State.setReg_power : (s.setReg a v).power = s.power := rfl
@[simp] theorem State.setReg_mgmt : (s.setReg a v).mgmt = s.mgmt := rfl
@[simp] theorem State.setReg_cores : (s.setReg a v).cores = s.cores := rfl
@[simp] theorem State.setReg_syncs : (s.setReg a v).syncs = s.syncs := rfl
@[simp] theorem State.setReg_programs : (s.setReg a v).programs = s.programs := rfl
@[simp] theorem State.setReg_services : (s.setReg a v).services = s.services := rfl
@[simp] theorem State.setReg_insts : (s.setReg a v).insts = s.insts := rfl
@[simp] theorem State.setReg_instCount : (s.setReg a v).instCount = s.instCount := rfl
@[simp] theorem State.setReg_acceptCount : (s.setReg a v).acceptCount = s.acceptCount := rfl
@[simp] theorem State.setReg_readyQ : (s.setReg a v).readyQ = s.readyQ := rfl
@[simp] theorem State.setReg_flows : (s.setReg a v).flows = s.flows := rfl
@[simp] theorem State.setReg_streams : (s.setReg a v).streams = s.streams := rfl
@[simp] theorem State.setReg_rrStream : (s.setReg a v).rrStream = s.rrStream := rfl
@[simp] theorem State.setReg_flowLast : (s.setReg a v).flowLast = s.flowLast := rfl
@[simp] theorem State.setReg_tables : (s.setReg a v).tables = s.tables := rfl
@[simp] theorem State.setReg_windows : (s.setReg a v).windows = s.windows := rfl
@[simp] theorem State.setReg_graphs : (s.setReg a v).graphs = s.graphs := rfl
@[simp] theorem State.setReg_sweeps : (s.setReg a v).sweeps = s.sweeps := rfl
@[simp] theorem State.setReg_sweepMarks : (s.setReg a v).sweepMarks = s.sweepMarks := rfl
@[simp] theorem State.setReg_switches : (s.setReg a v).switches = s.switches := rfl
@[simp] theorem State.setReg_chunks : (s.setReg a v).chunks = s.chunks := rfl
@[simp] theorem State.setReg_moves : (s.setReg a v).moves = s.moves := rfl
@[simp] theorem State.setReg_oldChunks : (s.setReg a v).oldChunks = s.oldChunks := rfl
@[simp] theorem State.setReg_shardMoves : (s.setReg a v).shardMoves = s.shardMoves := rfl
@[simp] theorem State.setReg_staged : (s.setReg a v).staged = s.staged := rfl
@[simp] theorem State.setReg_mapWaits : (s.setReg a v).mapWaits = s.mapWaits := rfl
@[simp] theorem State.setReg_areas : (s.setReg a v).areas = s.areas := rfl
@[simp] theorem State.setReg_visited : (s.setReg a v).visited = s.visited := rfl
@[simp] theorem State.setReg_flashMoved : (s.setReg a v).flashMoved = s.flashMoved := rfl
@[simp] theorem State.setReg_shardCounts : (s.setReg a v).shardCounts = s.shardCounts := rfl
@[simp] theorem State.setReg_shardWindow : (s.setReg a v).shardWindow = s.shardWindow := rfl
@[simp] theorem State.setReg_epochStart : (s.setReg a v).epochStart = s.epochStart := rfl
@[simp] theorem State.setReg_dmem : (s.setReg a v).dmem = s.dmem := rfl
@[simp] theorem State.setReg_poison : (s.setReg a v).poison = s.poison := rfl
@[simp] theorem State.setReg_cache : (s.setReg a v).cache = s.cache := rfl
@[simp] theorem State.setReg_trackers : (s.setReg a v).trackers = s.trackers := rfl
@[simp] theorem State.setReg_pageCache : (s.setReg a v).pageCache = s.pageCache := rfl
@[simp] theorem State.setReg_flashWrites : (s.setReg a v).flashWrites = s.flashWrites := rfl
@[simp] theorem State.setReg_hubWritten : (s.setReg a v).hubWritten = s.hubWritten := rfl
@[simp] theorem State.setReg_tierRefused : (s.setReg a v).tierRefused = s.tierRefused := rfl
@[simp] theorem State.setReg_rings : (s.setReg a v).rings = s.rings := rfl
@[simp] theorem State.setReg_ringTurn : (s.setReg a v).ringTurn = s.ringTurn := rfl
@[simp] theorem State.setReg_locked : (s.setReg a v).locked = s.locked := rfl
@[simp] theorem State.setReg_lockBy : (s.setReg a v).lockBy = s.lockBy := rfl
@[simp] theorem State.setReg_lockRefused : (s.setReg a v).lockRefused = s.lockRefused := rfl
@[simp] theorem State.setReg_lockCause : (s.setReg a v).lockCause = s.lockCause := rfl
@[simp] theorem State.setReg_lockCount : (s.setReg a v).lockCount = s.lockCount := rfl
@[simp] theorem State.setReg_lockLast : (s.setReg a v).lockLast = s.lockLast := rfl
@[simp] theorem State.setReg_ports : (s.setReg a v).ports = s.ports := rfl
@[simp] theorem State.setReg_accs : (s.setReg a v).accs = s.accs := rfl
@[simp] theorem State.setReg_nextAcc : (s.setReg a v).nextAcc = s.nextAcc := rfl
@[simp] theorem State.setReg_released : (s.setReg a v).released = s.released := rfl
@[simp] theorem State.setReg_portIn : (s.setReg a v).portIn = s.portIn := rfl
@[simp] theorem State.setReg_links : (s.setReg a v).links = s.links := rfl
@[simp] theorem State.setReg_channels : (s.setReg a v).channels = s.channels := rfl
@[simp] theorem State.setReg_fences : (s.setReg a v).fences = s.fences := rfl
@[simp] theorem State.setReg_nextFence : (s.setReg a v).nextFence = s.nextFence := rfl
@[simp] theorem State.setReg_fencesIn : (s.setReg a v).fencesIn = s.fencesIn := rfl
@[simp] theorem State.setReg_nextTag : (s.setReg a v).nextTag = s.nextTag := rfl
@[simp] theorem State.setReg_responses : (s.setReg a v).responses = s.responses := rfl
@[simp] theorem State.setReg_mtags : (s.setReg a v).mtags = s.mtags := rfl
@[simp] theorem State.setReg_mgOut : (s.setReg a v).mgOut = s.mgOut := rfl
@[simp] theorem State.setReg_mgWait : (s.setReg a v).mgWait = s.mgWait := rfl
@[simp] theorem State.setReg_remotes : (s.setReg a v).remotes = s.remotes := rfl
@[simp] theorem State.setReg_rqOut : (s.setReg a v).rqOut = s.rqOut := rfl
@[simp] theorem State.setReg_mgIn : (s.setReg a v).mgIn = s.mgIn := rfl
@[simp] theorem State.setReg_bcNow : (s.setReg a v).bcNow = s.bcNow := rfl
@[simp] theorem State.setReg_bcQ : (s.setReg a v).bcQ = s.bcQ := rfl
@[simp] theorem State.setReg_kneads : (s.setReg a v).kneads = s.kneads := rfl
@[simp] theorem State.setReg_kneadGrants : (s.setReg a v).kneadGrants = s.kneadGrants := rfl
@[simp] theorem State.setReg_queue : (s.setReg a v).queue = s.queue := rfl
@[simp] theorem State.setReg_rowLine : (s.setReg a v).rowLine = s.rowLine := rfl
@[simp] theorem State.setReg_sifterInvalid : (s.setReg a v).sifterInvalid = s.sifterInvalid := rfl
@[simp] theorem State.setReg_logs : (s.setReg a v).logs = s.logs := rfl
@[simp] theorem State.setReg_units : (s.setReg a v).units = s.units := rfl
@[simp] theorem State.setReg_heldEvents : (s.setReg a v).heldEvents = s.heldEvents := rfl
@[simp] theorem State.setReg_nextToken : (s.setReg a v).nextToken = s.nextToken := rfl
@[simp] theorem State.setReg_spdm : (s.setReg a v).spdm = s.spdm := rfl

end setReg

/-! ### free -/

@[simp] theorem State.free_pending : s.free.2.pending = s.pending := rfl
@[simp] theorem State.free_out : s.free.2.out = s.out := rfl
@[simp] theorem State.free_ticks : s.free.2.ticks = s.ticks := rfl
@[simp] theorem State.free_fuses : s.free.2.fuses = s.fuses := rfl
@[simp] theorem State.free_bootFlash : s.free.2.bootFlash = s.bootFlash := rfl
@[simp] theorem State.free_boot : s.free.2.boot = s.boot := rfl
@[simp] theorem State.free_power : s.free.2.power = s.power := rfl
@[simp] theorem State.free_mgmt : s.free.2.mgmt = s.mgmt := rfl
@[simp] theorem State.free_cores : s.free.2.cores = s.cores := rfl
@[simp] theorem State.free_syncs : s.free.2.syncs = s.syncs := rfl
@[simp] theorem State.free_programs : s.free.2.programs = s.programs := rfl
@[simp] theorem State.free_services : s.free.2.services = s.services := rfl
@[simp] theorem State.free_insts : s.free.2.insts = s.insts := rfl
@[simp] theorem State.free_instCount : s.free.2.instCount = s.instCount := rfl
@[simp] theorem State.free_acceptCount : s.free.2.acceptCount = s.acceptCount := rfl
@[simp] theorem State.free_readyQ : s.free.2.readyQ = s.readyQ := rfl
@[simp] theorem State.free_flows : s.free.2.flows = s.flows := rfl
@[simp] theorem State.free_streams : s.free.2.streams = s.streams := rfl
@[simp] theorem State.free_rrStream : s.free.2.rrStream = s.rrStream := rfl
@[simp] theorem State.free_flowLast : s.free.2.flowLast = s.flowLast := rfl
@[simp] theorem State.free_tables : s.free.2.tables = s.tables := rfl
@[simp] theorem State.free_windows : s.free.2.windows = s.windows := rfl
@[simp] theorem State.free_graphs : s.free.2.graphs = s.graphs := rfl
@[simp] theorem State.free_sweeps : s.free.2.sweeps = s.sweeps := rfl
@[simp] theorem State.free_sweepMarks : s.free.2.sweepMarks = s.sweepMarks := rfl
@[simp] theorem State.free_switches : s.free.2.switches = s.switches := rfl
@[simp] theorem State.free_chunks : s.free.2.chunks = s.chunks := rfl
@[simp] theorem State.free_moves : s.free.2.moves = s.moves := rfl
@[simp] theorem State.free_oldChunks : s.free.2.oldChunks = s.oldChunks := rfl
@[simp] theorem State.free_shardMoves : s.free.2.shardMoves = s.shardMoves := rfl
@[simp] theorem State.free_staged : s.free.2.staged = s.staged := rfl
@[simp] theorem State.free_mapWaits : s.free.2.mapWaits = s.mapWaits := rfl
@[simp] theorem State.free_areas : s.free.2.areas = s.areas := rfl
@[simp] theorem State.free_visited : s.free.2.visited = s.visited := rfl
@[simp] theorem State.free_flashMoved : s.free.2.flashMoved = s.flashMoved := rfl
@[simp] theorem State.free_shardCounts : s.free.2.shardCounts = s.shardCounts := rfl
@[simp] theorem State.free_shardWindow : s.free.2.shardWindow = s.shardWindow := rfl
@[simp] theorem State.free_epochStart : s.free.2.epochStart = s.epochStart := rfl
@[simp] theorem State.free_dmem : s.free.2.dmem = s.dmem := rfl
@[simp] theorem State.free_poison : s.free.2.poison = s.poison := rfl
@[simp] theorem State.free_cache : s.free.2.cache = s.cache := rfl
@[simp] theorem State.free_trackers : s.free.2.trackers = s.trackers := rfl
@[simp] theorem State.free_pageCache : s.free.2.pageCache = s.pageCache := rfl
@[simp] theorem State.free_flashWrites : s.free.2.flashWrites = s.flashWrites := rfl
@[simp] theorem State.free_hubWritten : s.free.2.hubWritten = s.hubWritten := rfl
@[simp] theorem State.free_tierRefused : s.free.2.tierRefused = s.tierRefused := rfl
@[simp] theorem State.free_rings : s.free.2.rings = s.rings := rfl
@[simp] theorem State.free_ringTurn : s.free.2.ringTurn = s.ringTurn := rfl
@[simp] theorem State.free_regs : s.free.2.regs = s.regs := rfl
@[simp] theorem State.free_locked : s.free.2.locked = s.locked := rfl
@[simp] theorem State.free_lockBy : s.free.2.lockBy = s.lockBy := rfl
@[simp] theorem State.free_lockRefused : s.free.2.lockRefused = s.lockRefused := rfl
@[simp] theorem State.free_lockCause : s.free.2.lockCause = s.lockCause := rfl
@[simp] theorem State.free_lockCount : s.free.2.lockCount = s.lockCount := rfl
@[simp] theorem State.free_lockLast : s.free.2.lockLast = s.lockLast := rfl
@[simp] theorem State.free_ports : s.free.2.ports = s.ports := rfl
@[simp] theorem State.free_accs : s.free.2.accs = s.accs := rfl
@[simp] theorem State.free_nextAcc : s.free.2.nextAcc = s.nextAcc := rfl
@[simp] theorem State.free_released : s.free.2.released = s.released := rfl
@[simp] theorem State.free_portIn : s.free.2.portIn = s.portIn := rfl
@[simp] theorem State.free_links : s.free.2.links = s.links := rfl
@[simp] theorem State.free_channels : s.free.2.channels = s.channels := rfl
@[simp] theorem State.free_fences : s.free.2.fences = s.fences := rfl
@[simp] theorem State.free_nextFence : s.free.2.nextFence = s.nextFence := rfl
@[simp] theorem State.free_fencesIn : s.free.2.fencesIn = s.fencesIn := rfl
@[simp] theorem State.free_nextTag : s.free.2.nextTag = s.nextTag := rfl
@[simp] theorem State.free_responses : s.free.2.responses = s.responses := rfl
@[simp] theorem State.free_mtags : s.free.2.mtags = s.mtags := rfl
@[simp] theorem State.free_mgOut : s.free.2.mgOut = s.mgOut := rfl
@[simp] theorem State.free_mgWait : s.free.2.mgWait = s.mgWait := rfl
@[simp] theorem State.free_remotes : s.free.2.remotes = s.remotes := rfl
@[simp] theorem State.free_rqOut : s.free.2.rqOut = s.rqOut := rfl
@[simp] theorem State.free_mgIn : s.free.2.mgIn = s.mgIn := rfl
@[simp] theorem State.free_bcNow : s.free.2.bcNow = s.bcNow := rfl
@[simp] theorem State.free_bcQ : s.free.2.bcQ = s.bcQ := rfl
@[simp] theorem State.free_kneads : s.free.2.kneads = s.kneads := rfl
@[simp] theorem State.free_kneadGrants : s.free.2.kneadGrants = s.kneadGrants := rfl
@[simp] theorem State.free_queue : s.free.2.queue = s.queue := rfl
@[simp] theorem State.free_rowLine : s.free.2.rowLine = s.rowLine := rfl
@[simp] theorem State.free_sifterInvalid : s.free.2.sifterInvalid = s.sifterInvalid := rfl
@[simp] theorem State.free_logs : s.free.2.logs = s.logs := rfl
@[simp] theorem State.free_units : s.free.2.units = s.units := rfl
@[simp] theorem State.free_heldEvents : s.free.2.heldEvents = s.heldEvents := rfl
@[simp] theorem State.free_nextToken : s.free.2.nextToken = s.nextToken := rfl
@[simp] theorem State.free_spdm : s.free.2.spdm = s.spdm := rfl
@[simp] theorem State.free_freeCtr : s.free.2.freeCtr = s.freeCtr + 1 := rfl

/-! ### Reads after updates -/

@[simp] theorem State.core_setCore (i : Nat) (x : Core) : (s.setCore i x).core i = x := Tab.get_put ({} : Core) _ i x
theorem State.core_setCore_ne (i : Nat) (x : Core) {j : Nat} (h : j ≠ i) : (s.setCore i x).core j = s.core j := Tab.get_put_ne ({} : Core) _ x h
@[simp] theorem State.setCore_setCore (i : Nat) (x y : Core) : (s.setCore i x).setCore i y = s.setCore i y := by simp [State.setCore]
@[simp] theorem State.sync_setSync (i : Nat) (x : SyncObj) : (s.setSync i x).sync i = x := Tab.get_put ({} : SyncObj) _ i x
theorem State.sync_setSync_ne (i : Nat) (x : SyncObj) {j : Nat} (h : j ≠ i) : (s.setSync i x).sync j = s.sync j := Tab.get_put_ne ({} : SyncObj) _ x h
@[simp] theorem State.setSync_setSync (i : Nat) (x y : SyncObj) : (s.setSync i x).setSync i y = s.setSync i y := by simp [State.setSync]
@[simp] theorem State.ring_setRing (i : Nat) (x : Ring) : (s.setRing i x).ring i = x := Tab.get_put ({} : Ring) _ i x
theorem State.ring_setRing_ne (i : Nat) (x : Ring) {j : Nat} (h : j ≠ i) : (s.setRing i x).ring j = s.ring j := Tab.get_put_ne ({} : Ring) _ x h
@[simp] theorem State.setRing_setRing (i : Nat) (x y : Ring) : (s.setRing i x).setRing i y = s.setRing i y := by simp [State.setRing]
@[simp] theorem State.port_setPort (i : Nat) (x : Port) : (s.setPort i x).port i = x := Tab.get_put ({} : Port) _ i x
theorem State.port_setPort_ne (i : Nat) (x : Port) {j : Nat} (h : j ≠ i) : (s.setPort i x).port j = s.port j := Tab.get_put_ne ({} : Port) _ x h
@[simp] theorem State.setPort_setPort (i : Nat) (x y : Port) : (s.setPort i x).setPort i y = s.setPort i y := by simp [State.setPort]
@[simp] theorem State.link_setLink (i : Nat) (x : Link) : (s.setLink i x).link i = x := Tab.get_put ({} : Link) _ i x
theorem State.link_setLink_ne (i : Nat) (x : Link) {j : Nat} (h : j ≠ i) : (s.setLink i x).link j = s.link j := Tab.get_put_ne ({} : Link) _ x h
@[simp] theorem State.setLink_setLink (i : Nat) (x y : Link) : (s.setLink i x).setLink i y = s.setLink i y := by simp [State.setLink]
@[simp] theorem State.chan_setChan (i : Nat) (x : Channel) : (s.setChan i x).chan i = x := Tab.get_put ({} : Channel) _ i x
theorem State.chan_setChan_ne (i : Nat) (x : Channel) {j : Nat} (h : j ≠ i) : (s.setChan i x).chan j = s.chan j := Tab.get_put_ne ({} : Channel) _ x h
@[simp] theorem State.setChan_setChan (i : Nat) (x y : Channel) : (s.setChan i x).setChan i y = s.setChan i y := by simp [State.setChan]
@[simp] theorem State.strm_setStrm (i : Nat) (x : Stream) : (s.setStrm i x).strm i = x := Tab.get_put ({} : Stream) _ i x
theorem State.strm_setStrm_ne (i : Nat) (x : Stream) {j : Nat} (h : j ≠ i) : (s.setStrm i x).strm j = s.strm j := Tab.get_put_ne ({} : Stream) _ x h
@[simp] theorem State.setStrm_setStrm (i : Nat) (x y : Stream) : (s.setStrm i x).setStrm i y = s.setStrm i y := by simp [State.setStrm]
@[simp] theorem State.log_setLog (i : Nat) (x : Log) : (s.setLog i x).log i = x := Tab.get_put ({} : Log) _ i x
theorem State.log_setLog_ne (i : Nat) (x : Log) {j : Nat} (h : j ≠ i) : (s.setLog i x).log j = s.log j := Tab.get_put_ne ({} : Log) _ x h
@[simp] theorem State.setLog_setLog (i : Nat) (x y : Log) : (s.setLog i x).setLog i y = s.setLog i y := by simp [State.setLog]
@[simp] theorem State.tableOf_setTable (i : Nat) (x : Option Table) : (s.setTable i x).tableOf i = x := Tab.get_put (none : Option Table) _ i x
theorem State.tableOf_setTable_ne (i : Nat) (x : Option Table) {j : Nat} (h : j ≠ i) : (s.setTable i x).tableOf j = s.tableOf j := Tab.get_put_ne (none : Option Table) _ x h
@[simp] theorem State.setTable_setTable (i : Nat) (x y : Option Table) : (s.setTable i x).setTable i y = s.setTable i y := by simp [State.setTable]
@[simp] theorem State.graphOf_setGraph (i : Nat) (x : Option Graph) : (s.setGraph i x).graphOf i = x := Tab.get_put (none : Option Graph) _ i x
theorem State.graphOf_setGraph_ne (i : Nat) (x : Option Graph) {j : Nat} (h : j ≠ i) : (s.setGraph i x).graphOf j = s.graphOf j := Tab.get_put_ne (none : Option Graph) _ x h
@[simp] theorem State.setGraph_setGraph (i : Nat) (x y : Option Graph) : (s.setGraph i x).setGraph i y = s.setGraph i y := by simp [State.setGraph]
@[simp] theorem State.core_setSync (i : Nat) (x : SyncObj) : (s.setSync i x).core = s.core := rfl
@[simp] theorem State.core_setRing (i : Nat) (x : Ring) : (s.setRing i x).core = s.core := rfl
@[simp] theorem State.core_setPort (i : Nat) (x : Port) : (s.setPort i x).core = s.core := rfl
@[simp] theorem State.core_setLink (i : Nat) (x : Link) : (s.setLink i x).core = s.core := rfl
@[simp] theorem State.core_setChan (i : Nat) (x : Channel) : (s.setChan i x).core = s.core := rfl
@[simp] theorem State.core_setStrm (i : Nat) (x : Stream) : (s.setStrm i x).core = s.core := rfl
@[simp] theorem State.core_setLog (i : Nat) (x : Log) : (s.setLog i x).core = s.core := rfl
@[simp] theorem State.core_setTable (i : Nat) (x : Option Table) : (s.setTable i x).core = s.core := rfl
@[simp] theorem State.core_setGraph (i : Nat) (x : Option Graph) : (s.setGraph i x).core = s.core := rfl
@[simp] theorem State.sync_setCore (i : Nat) (x : Core) : (s.setCore i x).sync = s.sync := rfl
@[simp] theorem State.sync_setRing (i : Nat) (x : Ring) : (s.setRing i x).sync = s.sync := rfl
@[simp] theorem State.sync_setPort (i : Nat) (x : Port) : (s.setPort i x).sync = s.sync := rfl
@[simp] theorem State.sync_setLink (i : Nat) (x : Link) : (s.setLink i x).sync = s.sync := rfl
@[simp] theorem State.sync_setChan (i : Nat) (x : Channel) : (s.setChan i x).sync = s.sync := rfl
@[simp] theorem State.sync_setStrm (i : Nat) (x : Stream) : (s.setStrm i x).sync = s.sync := rfl
@[simp] theorem State.sync_setLog (i : Nat) (x : Log) : (s.setLog i x).sync = s.sync := rfl
@[simp] theorem State.sync_setTable (i : Nat) (x : Option Table) : (s.setTable i x).sync = s.sync := rfl
@[simp] theorem State.sync_setGraph (i : Nat) (x : Option Graph) : (s.setGraph i x).sync = s.sync := rfl
@[simp] theorem State.ring_setCore (i : Nat) (x : Core) : (s.setCore i x).ring = s.ring := rfl
@[simp] theorem State.ring_setSync (i : Nat) (x : SyncObj) : (s.setSync i x).ring = s.ring := rfl
@[simp] theorem State.ring_setPort (i : Nat) (x : Port) : (s.setPort i x).ring = s.ring := rfl
@[simp] theorem State.ring_setLink (i : Nat) (x : Link) : (s.setLink i x).ring = s.ring := rfl
@[simp] theorem State.ring_setChan (i : Nat) (x : Channel) : (s.setChan i x).ring = s.ring := rfl
@[simp] theorem State.ring_setStrm (i : Nat) (x : Stream) : (s.setStrm i x).ring = s.ring := rfl
@[simp] theorem State.ring_setLog (i : Nat) (x : Log) : (s.setLog i x).ring = s.ring := rfl
@[simp] theorem State.ring_setTable (i : Nat) (x : Option Table) : (s.setTable i x).ring = s.ring := rfl
@[simp] theorem State.ring_setGraph (i : Nat) (x : Option Graph) : (s.setGraph i x).ring = s.ring := rfl
@[simp] theorem State.port_setCore (i : Nat) (x : Core) : (s.setCore i x).port = s.port := rfl
@[simp] theorem State.port_setSync (i : Nat) (x : SyncObj) : (s.setSync i x).port = s.port := rfl
@[simp] theorem State.port_setRing (i : Nat) (x : Ring) : (s.setRing i x).port = s.port := rfl
@[simp] theorem State.port_setLink (i : Nat) (x : Link) : (s.setLink i x).port = s.port := rfl
@[simp] theorem State.port_setChan (i : Nat) (x : Channel) : (s.setChan i x).port = s.port := rfl
@[simp] theorem State.port_setStrm (i : Nat) (x : Stream) : (s.setStrm i x).port = s.port := rfl
@[simp] theorem State.port_setLog (i : Nat) (x : Log) : (s.setLog i x).port = s.port := rfl
@[simp] theorem State.port_setTable (i : Nat) (x : Option Table) : (s.setTable i x).port = s.port := rfl
@[simp] theorem State.port_setGraph (i : Nat) (x : Option Graph) : (s.setGraph i x).port = s.port := rfl
@[simp] theorem State.link_setCore (i : Nat) (x : Core) : (s.setCore i x).link = s.link := rfl
@[simp] theorem State.link_setSync (i : Nat) (x : SyncObj) : (s.setSync i x).link = s.link := rfl
@[simp] theorem State.link_setRing (i : Nat) (x : Ring) : (s.setRing i x).link = s.link := rfl
@[simp] theorem State.link_setPort (i : Nat) (x : Port) : (s.setPort i x).link = s.link := rfl
@[simp] theorem State.link_setChan (i : Nat) (x : Channel) : (s.setChan i x).link = s.link := rfl
@[simp] theorem State.link_setStrm (i : Nat) (x : Stream) : (s.setStrm i x).link = s.link := rfl
@[simp] theorem State.link_setLog (i : Nat) (x : Log) : (s.setLog i x).link = s.link := rfl
@[simp] theorem State.link_setTable (i : Nat) (x : Option Table) : (s.setTable i x).link = s.link := rfl
@[simp] theorem State.link_setGraph (i : Nat) (x : Option Graph) : (s.setGraph i x).link = s.link := rfl
@[simp] theorem State.chan_setCore (i : Nat) (x : Core) : (s.setCore i x).chan = s.chan := rfl
@[simp] theorem State.chan_setSync (i : Nat) (x : SyncObj) : (s.setSync i x).chan = s.chan := rfl
@[simp] theorem State.chan_setRing (i : Nat) (x : Ring) : (s.setRing i x).chan = s.chan := rfl
@[simp] theorem State.chan_setPort (i : Nat) (x : Port) : (s.setPort i x).chan = s.chan := rfl
@[simp] theorem State.chan_setLink (i : Nat) (x : Link) : (s.setLink i x).chan = s.chan := rfl
@[simp] theorem State.chan_setStrm (i : Nat) (x : Stream) : (s.setStrm i x).chan = s.chan := rfl
@[simp] theorem State.chan_setLog (i : Nat) (x : Log) : (s.setLog i x).chan = s.chan := rfl
@[simp] theorem State.chan_setTable (i : Nat) (x : Option Table) : (s.setTable i x).chan = s.chan := rfl
@[simp] theorem State.chan_setGraph (i : Nat) (x : Option Graph) : (s.setGraph i x).chan = s.chan := rfl
@[simp] theorem State.strm_setCore (i : Nat) (x : Core) : (s.setCore i x).strm = s.strm := rfl
@[simp] theorem State.strm_setSync (i : Nat) (x : SyncObj) : (s.setSync i x).strm = s.strm := rfl
@[simp] theorem State.strm_setRing (i : Nat) (x : Ring) : (s.setRing i x).strm = s.strm := rfl
@[simp] theorem State.strm_setPort (i : Nat) (x : Port) : (s.setPort i x).strm = s.strm := rfl
@[simp] theorem State.strm_setLink (i : Nat) (x : Link) : (s.setLink i x).strm = s.strm := rfl
@[simp] theorem State.strm_setChan (i : Nat) (x : Channel) : (s.setChan i x).strm = s.strm := rfl
@[simp] theorem State.strm_setLog (i : Nat) (x : Log) : (s.setLog i x).strm = s.strm := rfl
@[simp] theorem State.strm_setTable (i : Nat) (x : Option Table) : (s.setTable i x).strm = s.strm := rfl
@[simp] theorem State.strm_setGraph (i : Nat) (x : Option Graph) : (s.setGraph i x).strm = s.strm := rfl
@[simp] theorem State.log_setCore (i : Nat) (x : Core) : (s.setCore i x).log = s.log := rfl
@[simp] theorem State.log_setSync (i : Nat) (x : SyncObj) : (s.setSync i x).log = s.log := rfl
@[simp] theorem State.log_setRing (i : Nat) (x : Ring) : (s.setRing i x).log = s.log := rfl
@[simp] theorem State.log_setPort (i : Nat) (x : Port) : (s.setPort i x).log = s.log := rfl
@[simp] theorem State.log_setLink (i : Nat) (x : Link) : (s.setLink i x).log = s.log := rfl
@[simp] theorem State.log_setChan (i : Nat) (x : Channel) : (s.setChan i x).log = s.log := rfl
@[simp] theorem State.log_setStrm (i : Nat) (x : Stream) : (s.setStrm i x).log = s.log := rfl
@[simp] theorem State.log_setTable (i : Nat) (x : Option Table) : (s.setTable i x).log = s.log := rfl
@[simp] theorem State.log_setGraph (i : Nat) (x : Option Graph) : (s.setGraph i x).log = s.log := rfl
@[simp] theorem State.tableOf_setCore (i : Nat) (x : Core) : (s.setCore i x).tableOf = s.tableOf := rfl
@[simp] theorem State.tableOf_setSync (i : Nat) (x : SyncObj) : (s.setSync i x).tableOf = s.tableOf := rfl
@[simp] theorem State.tableOf_setRing (i : Nat) (x : Ring) : (s.setRing i x).tableOf = s.tableOf := rfl
@[simp] theorem State.tableOf_setPort (i : Nat) (x : Port) : (s.setPort i x).tableOf = s.tableOf := rfl
@[simp] theorem State.tableOf_setLink (i : Nat) (x : Link) : (s.setLink i x).tableOf = s.tableOf := rfl
@[simp] theorem State.tableOf_setChan (i : Nat) (x : Channel) : (s.setChan i x).tableOf = s.tableOf := rfl
@[simp] theorem State.tableOf_setStrm (i : Nat) (x : Stream) : (s.setStrm i x).tableOf = s.tableOf := rfl
@[simp] theorem State.tableOf_setLog (i : Nat) (x : Log) : (s.setLog i x).tableOf = s.tableOf := rfl
@[simp] theorem State.tableOf_setGraph (i : Nat) (x : Option Graph) : (s.setGraph i x).tableOf = s.tableOf := rfl
@[simp] theorem State.graphOf_setCore (i : Nat) (x : Core) : (s.setCore i x).graphOf = s.graphOf := rfl
@[simp] theorem State.graphOf_setSync (i : Nat) (x : SyncObj) : (s.setSync i x).graphOf = s.graphOf := rfl
@[simp] theorem State.graphOf_setRing (i : Nat) (x : Ring) : (s.setRing i x).graphOf = s.graphOf := rfl
@[simp] theorem State.graphOf_setPort (i : Nat) (x : Port) : (s.setPort i x).graphOf = s.graphOf := rfl
@[simp] theorem State.graphOf_setLink (i : Nat) (x : Link) : (s.setLink i x).graphOf = s.graphOf := rfl
@[simp] theorem State.graphOf_setChan (i : Nat) (x : Channel) : (s.setChan i x).graphOf = s.graphOf := rfl
@[simp] theorem State.graphOf_setStrm (i : Nat) (x : Stream) : (s.setStrm i x).graphOf = s.graphOf := rfl
@[simp] theorem State.graphOf_setLog (i : Nat) (x : Log) : (s.setLog i x).graphOf = s.graphOf := rfl
@[simp] theorem State.graphOf_setTable (i : Nat) (x : Option Table) : (s.setTable i x).graphOf = s.graphOf := rfl
@[simp] theorem State.core_emit (x : Output) : (s.emit x).core = s.core := rfl
@[simp] theorem State.sync_emit (x : Output) : (s.emit x).sync = s.sync := rfl
@[simp] theorem State.ring_emit (x : Output) : (s.emit x).ring = s.ring := rfl
@[simp] theorem State.port_emit (x : Output) : (s.emit x).port = s.port := rfl
@[simp] theorem State.link_emit (x : Output) : (s.emit x).link = s.link := rfl
@[simp] theorem State.chan_emit (x : Output) : (s.emit x).chan = s.chan := rfl
@[simp] theorem State.strm_emit (x : Output) : (s.emit x).strm = s.strm := rfl
@[simp] theorem State.log_emit (x : Output) : (s.emit x).log = s.log := rfl
@[simp] theorem State.tableOf_emit (x : Output) : (s.emit x).tableOf = s.tableOf := rfl
@[simp] theorem State.graphOf_emit (x : Output) : (s.emit x).graphOf = s.graphOf := rfl

/-- Two changes of one core are one change. -/
@[simp] theorem State.modCore_modCore (c : Nat) (f g : Core → Core) : (s.modCore c f).modCore c g = s.modCore c (fun k => g (f k)) := by
  simp [State.modCore]

@[simp] theorem State.modCore_setCore (c : Nat) (k : Core) (g : Core → Core) : (s.setCore c k).modCore c g = s.setCore c (g k) := by
  simp [State.modCore]

@[simp] theorem State.core_modCore (c : Nat) (f : Core → Core) : (s.modCore c f).core c = f (s.core c) := by
  simp [State.modCore]

theorem State.core_modCore_ne (c : Nat) (f : Core → Core) {j : Nat} (h : j ≠ c) : (s.modCore c f).core j = s.core j := by
  simp [State.modCore, State.core_setCore_ne s c _ h]

/-! ### Core registers -/

section core
variable (k : Core) (n e : Nat) (v : Word)

@[simp] theorem Core.lsPut_regs (d : Bytes) : (k.lsPut n d).regs = k.regs := rfl
@[simp] theorem Core.setS_ls : (k.setS n v).ls = k.ls := by unfold Core.setS; split <;> rfl
@[simp] theorem Core.setPc_ls : (k.setPc n).ls = k.ls := rfl
@[simp] theorem Core.setP_ls (w : BitVec 256) : (k.setP n w).ls = k.ls := rfl
@[simp] theorem Core.setT_ls (w : BitVec 32) : (k.setT n e w).ls = k.ls := rfl
@[simp] theorem Core.setS_lsPoison : (k.setS n v).lsPoison = k.lsPoison := by unfold Core.setS; split <;> rfl
@[simp] theorem Core.setPc_lsPoison : (k.setPc n).lsPoison = k.lsPoison := rfl
@[simp] theorem Core.setP_lsPoison (w : BitVec 256) : (k.setP n w).lsPoison = k.lsPoison := rfl
@[simp] theorem Core.setT_lsPoison (w : BitVec 32) : (k.setT n e w).lsPoison = k.lsPoison := rfl
@[simp] theorem Core.setS_side : (k.setS n v).side = k.side := by unfold Core.setS; split <;> rfl
@[simp] theorem Core.setPc_side : (k.setPc n).side = k.side := rfl
@[simp] theorem Core.setP_side (w : BitVec 256) : (k.setP n w).side = k.side := rfl
@[simp] theorem Core.setT_side (w : BitVec 32) : (k.setT n e w).side = k.side := rfl
@[simp] theorem Core.lsPut_side (d : Bytes) : (k.lsPut n d).side = k.side := rfl
@[simp] theorem Core.setS_sidePoison : (k.setS n v).sidePoison = k.sidePoison := by unfold Core.setS; split <;> rfl
@[simp] theorem Core.setPc_sidePoison : (k.setPc n).sidePoison = k.sidePoison := rfl
@[simp] theorem Core.setP_sidePoison (w : BitVec 256) : (k.setP n w).sidePoison = k.sidePoison := rfl
@[simp] theorem Core.setT_sidePoison (w : BitVec 32) : (k.setT n e w).sidePoison = k.sidePoison := rfl
@[simp] theorem Core.lsPut_sidePoison (d : Bytes) : (k.lsPut n d).sidePoison = k.sidePoison := rfl
@[simp] theorem Core.setS_trees : (k.setS n v).trees = k.trees := by unfold Core.setS; split <;> rfl
@[simp] theorem Core.setPc_trees : (k.setPc n).trees = k.trees := rfl
@[simp] theorem Core.setP_trees (w : BitVec 256) : (k.setP n w).trees = k.trees := rfl
@[simp] theorem Core.setT_trees (w : BitVec 32) : (k.setT n e w).trees = k.trees := rfl
@[simp] theorem Core.lsPut_trees (d : Bytes) : (k.lsPut n d).trees = k.trees := rfl
@[simp] theorem Core.setS_logLower : (k.setS n v).logLower = k.logLower := by unfold Core.setS; split <;> rfl
@[simp] theorem Core.setPc_logLower : (k.setPc n).logLower = k.logLower := rfl
@[simp] theorem Core.setP_logLower (w : BitVec 256) : (k.setP n w).logLower = k.logLower := rfl
@[simp] theorem Core.setT_logLower (w : BitVec 32) : (k.setT n e w).logLower = k.logLower := rfl
@[simp] theorem Core.lsPut_logLower (d : Bytes) : (k.lsPut n d).logLower = k.logLower := rfl
@[simp] theorem Core.setS_logExpress : (k.setS n v).logExpress = k.logExpress := by unfold Core.setS; split <;> rfl
@[simp] theorem Core.setPc_logExpress : (k.setPc n).logExpress = k.logExpress := rfl
@[simp] theorem Core.setP_logExpress (w : BitVec 256) : (k.setP n w).logExpress = k.logExpress := rfl
@[simp] theorem Core.setT_logExpress (w : BitVec 32) : (k.setT n e w).logExpress = k.logExpress := rfl
@[simp] theorem Core.lsPut_logExpress (d : Bytes) : (k.lsPut n d).logExpress = k.logExpress := rfl
@[simp] theorem Core.setS_run : (k.setS n v).run = k.run := by unfold Core.setS; split <;> rfl
@[simp] theorem Core.setPc_run : (k.setPc n).run = k.run := rfl
@[simp] theorem Core.setP_run (w : BitVec 256) : (k.setP n w).run = k.run := rfl
@[simp] theorem Core.setT_run (w : BitVec 32) : (k.setT n e w).run = k.run := rfl
@[simp] theorem Core.lsPut_run (d : Bytes) : (k.lsPut n d).run = k.run := rfl
@[simp] theorem Core.setS_saved : (k.setS n v).saved = k.saved := by unfold Core.setS; split <;> rfl
@[simp] theorem Core.setPc_saved : (k.setPc n).saved = k.saved := rfl
@[simp] theorem Core.setP_saved (w : BitVec 256) : (k.setP n w).saved = k.saved := rfl
@[simp] theorem Core.setT_saved (w : BitVec 32) : (k.setT n e w).saved = k.saved := rfl
@[simp] theorem Core.lsPut_saved (d : Bytes) : (k.lsPut n d).saved = k.saved := rfl
@[simp] theorem Core.setS_held : (k.setS n v).held = k.held := by unfold Core.setS; split <;> rfl
@[simp] theorem Core.setPc_held : (k.setPc n).held = k.held := rfl
@[simp] theorem Core.setP_held (w : BitVec 256) : (k.setP n w).held = k.held := rfl
@[simp] theorem Core.setT_held (w : BitVec 32) : (k.setT n e w).held = k.held := rfl
@[simp] theorem Core.lsPut_held (d : Bytes) : (k.lsPut n d).held = k.held := rfl
@[simp] theorem Core.setS_chainCount : (k.setS n v).chainCount = k.chainCount := by unfold Core.setS; split <;> rfl
@[simp] theorem Core.setPc_chainCount : (k.setPc n).chainCount = k.chainCount := rfl
@[simp] theorem Core.setP_chainCount (w : BitVec 256) : (k.setP n w).chainCount = k.chainCount := rfl
@[simp] theorem Core.setT_chainCount (w : BitVec 32) : (k.setT n e w).chainCount = k.chainCount := rfl
@[simp] theorem Core.lsPut_chainCount (d : Bytes) : (k.lsPut n d).chainCount = k.chainCount := rfl
@[simp] theorem Core.setS_passes : (k.setS n v).passes = k.passes := by unfold Core.setS; split <;> rfl
@[simp] theorem Core.setPc_passes : (k.setPc n).passes = k.passes := rfl
@[simp] theorem Core.setP_passes (w : BitVec 256) : (k.setP n w).passes = k.passes := rfl
@[simp] theorem Core.setT_passes (w : BitVec 32) : (k.setT n e w).passes = k.passes := rfl
@[simp] theorem Core.lsPut_passes (d : Bytes) : (k.lsPut n d).passes = k.passes := rfl
@[simp] theorem Core.setS_tagLower : (k.setS n v).tagLower = k.tagLower := by unfold Core.setS; split <;> rfl
@[simp] theorem Core.setPc_tagLower : (k.setPc n).tagLower = k.tagLower := rfl
@[simp] theorem Core.setP_tagLower (w : BitVec 256) : (k.setP n w).tagLower = k.tagLower := rfl
@[simp] theorem Core.setT_tagLower (w : BitVec 32) : (k.setT n e w).tagLower = k.tagLower := rfl
@[simp] theorem Core.lsPut_tagLower (d : Bytes) : (k.lsPut n d).tagLower = k.tagLower := rfl
@[simp] theorem Core.setS_tagExpress : (k.setS n v).tagExpress = k.tagExpress := by unfold Core.setS; split <;> rfl
@[simp] theorem Core.setPc_tagExpress : (k.setPc n).tagExpress = k.tagExpress := rfl
@[simp] theorem Core.setP_tagExpress (w : BitVec 256) : (k.setP n w).tagExpress = k.tagExpress := rfl
@[simp] theorem Core.setT_tagExpress (w : BitVec 32) : (k.setT n e w).tagExpress = k.tagExpress := rfl
@[simp] theorem Core.lsPut_tagExpress (d : Bytes) : (k.lsPut n d).tagExpress = k.tagExpress := rfl
@[simp] theorem Core.setS_imgLower : (k.setS n v).imgLower = k.imgLower := by unfold Core.setS; split <;> rfl
@[simp] theorem Core.setPc_imgLower : (k.setPc n).imgLower = k.imgLower := rfl
@[simp] theorem Core.setP_imgLower (w : BitVec 256) : (k.setP n w).imgLower = k.imgLower := rfl
@[simp] theorem Core.setT_imgLower (w : BitVec 32) : (k.setT n e w).imgLower = k.imgLower := rfl
@[simp] theorem Core.lsPut_imgLower (d : Bytes) : (k.lsPut n d).imgLower = k.imgLower := rfl
@[simp] theorem Core.setS_imgExpress : (k.setS n v).imgExpress = k.imgExpress := by unfold Core.setS; split <;> rfl
@[simp] theorem Core.setPc_imgExpress : (k.setPc n).imgExpress = k.imgExpress := rfl
@[simp] theorem Core.setP_imgExpress (w : BitVec 256) : (k.setP n w).imgExpress = k.imgExpress := rfl
@[simp] theorem Core.setT_imgExpress (w : BitVec 32) : (k.setT n e w).imgExpress = k.imgExpress := rfl
@[simp] theorem Core.lsPut_imgExpress (d : Bytes) : (k.lsPut n d).imgExpress = k.imgExpress := rfl
@[simp] theorem Core.setS_lsu : (k.setS n v).lsu = k.lsu := by unfold Core.setS; split <;> rfl
@[simp] theorem Core.setPc_lsu : (k.setPc n).lsu = k.lsu := rfl
@[simp] theorem Core.setP_lsu (w : BitVec 256) : (k.setP n w).lsu = k.lsu := rfl
@[simp] theorem Core.setT_lsu (w : BitVec 32) : (k.setT n e w).lsu = k.lsu := rfl
@[simp] theorem Core.lsPut_lsu (d : Bytes) : (k.lsPut n d).lsu = k.lsu := rfl
@[simp] theorem Core.setS_nextReq : (k.setS n v).nextReq = k.nextReq := by unfold Core.setS; split <;> rfl
@[simp] theorem Core.setPc_nextReq : (k.setPc n).nextReq = k.nextReq := rfl
@[simp] theorem Core.setP_nextReq (w : BitVec 256) : (k.setP n w).nextReq = k.nextReq := rfl
@[simp] theorem Core.setT_nextReq (w : BitVec 32) : (k.setT n e w).nextReq = k.nextReq := rfl
@[simp] theorem Core.lsPut_nextReq (d : Bytes) : (k.lsPut n d).nextReq = k.nextReq := rfl
@[simp] theorem Core.setS_checks : (k.setS n v).checks = k.checks := by unfold Core.setS; split <;> rfl
@[simp] theorem Core.setPc_checks : (k.setPc n).checks = k.checks := rfl
@[simp] theorem Core.setP_checks (w : BitVec 256) : (k.setP n w).checks = k.checks := rfl
@[simp] theorem Core.setT_checks (w : BitVec 32) : (k.setT n e w).checks = k.checks := rfl
@[simp] theorem Core.lsPut_checks (d : Bytes) : (k.lsPut n d).checks = k.checks := rfl

@[simp] theorem Core.setPc_pc : (k.setPc n).regs.pc = n := rfl
@[simp] theorem Core.setPc_s : (k.setPc n).regs.s = k.regs.s := rfl
@[simp] theorem Core.setPc_p : (k.setPc n).regs.p = k.regs.p := rfl
@[simp] theorem Core.setPc_t : (k.setPc n).regs.t = k.regs.t := rfl
@[simp] theorem Core.setS_pc : (k.setS n v).regs.pc = k.regs.pc := by unfold Core.setS; split <;> rfl
@[simp] theorem Core.setS_p : (k.setS n v).regs.p = k.regs.p := by unfold Core.setS; split <;> rfl
@[simp] theorem Core.setS_t : (k.setS n v).regs.t = k.regs.t := by unfold Core.setS; split <;> rfl
@[simp] theorem Core.sreg_setPc (j : Nat) : (k.setPc n).sreg j = k.sreg j := rfl

/-- A scalar register after a write: the value written, or what it held; register 0 is zero (R205). -/
theorem Core.sreg_setS (j : Nat) : (k.setS n v).sreg j = if j = n ∧ n ≠ 0 then v else k.sreg j := by
  unfold Core.setS
  by_cases h : n = 0
  · simp [h]
  · by_cases h2 : j = n
    · subst h2; simp [Core.sreg, h]
    · simp [Core.sreg, h, h2, Tab.get_put_ne]

end core

end Sys2Proof.Machine
end

