-- ==== Sys2Proof/Laws/Issue.lean ====
section
/-! SUPPORT. What a core does with one instruction when it is ready for it. -/

namespace Sys2Proof.Machine

variable {s : State} {c : Nat} {r : Run}

theorem issuing_of_ready (h : Ready s c r) : s.issuing c = some r := by
  obtain ⟨h1, h2, h3, h4, -, -, -⟩ := h
  simp [State.issuing, h1, h2, h3, h4]

/-- A core that issues nothing takes no instruction. -/
theorem issue_none (h : s.issuing c = none) (w : Word) (ok : Bool) (body : State → Run → Eff) :
    s.issue c w ok body = s := by simp [State.issue, h]

/-- A ready core takes the instruction whose word it fetches: its effect, or the exception of a reserved field or of the effect. -/
theorem issue_ready (h : Ready s c r) {w : Word} (hw : (s.core c).fetched = w) (ok : Bool) (body : State → Run → Eff) :
    s.issue c w ok body =
      if ok = true then
        match body s r with
        | .ok t => t
        | .error e => s.take c e w
      else s.raise c xIllegalOp enIssue w := by
  have hi := issuing_of_ready h
  obtain ⟨-, -, -, -, h5, h6, h7⟩ := h
  have hr : ({ r with stall := none } : Run) = r := by rw [← h5]
  have hw' : ((s.core c).fetched != w) = false := by simp [hw]
  rw [State.issue.eq_def, hi]
  simp only [State.unstall, h5, h6, h7, hw', Bool.not_true, Bool.false_eq_true, if_false, hr]
  cases ok <;> rfl

/-- A ready core whose instruction has an effect. -/
theorem issue_ok (h : Ready s c r) {w : Word} (hw : (s.core c).fetched = w) {ok : Bool} {body : State → Run → Eff} {t : State}
    (ho : ok = true) (hb : body s r = .ok t) : s.issue c w ok body = t := by
  rw [issue_ready h hw, if_pos ho, hb]

/-- A ready core whose instruction raises an exception of its effect. -/
theorem issue_error (h : Ready s c r) {w : Word} (hw : (s.core c).fetched = w) {ok : Bool} {body : State → Run → Eff} {e : Exn}
    (ho : ok = true) (hb : body s r = .error e) : s.issue c w ok body = s.take c e w := by
  rw [issue_ready h hw, if_pos ho, hb]

/-- Two updates of one core are one. -/
theorem setCore_setCore (s : State) (c : Nat) (k k' : Core) : (s.setCore c k).setCore c k' = s.setCore c k' := by
  simp [State.setCore, Tab.put_put]

theorem modCore_modCore (s : State) (c : Nat) (f g : Core → Core) :
    (s.modCore c f).modCore c g = s.setCore c (g (f (s.core c))) := by
  simp [State.modCore]

/-- A scalar result is one update of the core. -/
theorem putS_eq (s : State) (c : Nat) (d : BitVec 5) (v : Word) :
    s.putS c d v = s.onCore c fun k => (k.setS d.toNat v).next := by
  simp only [State.putS, State.adv, modCore_modCore]

theorem adv_eq (s : State) (c : Nat) : s.adv c = s.onCore c Core.next := rfl

end Sys2Proof.Machine
end

