-- ==== Sys2Proof/WellFormed.lean ====
section
/-! DEFINITION. Well-formed commands: the operands that the types leave wider than the spec lets them be. -/

namespace Sys2Proof

/-- Doorbell writes carry 1 to 64 bytes (R398 tells those of 4 bytes from the rest). -/
def DoorAddr.wf (a : DoorAddr) : Bool := decide (1 ≤ a.size ∧ a.size ≤ 64)

/-- A ring position is a 32-bit count (Table 13-3). -/
def posWf (pos : Nat) : Bool := decide (pos < 2 ^ 32)

/-- A host's answer brings at most the bytes asked for. -/
def HostAns.wf (a : HostAns) (most : Nat) : Bool := decide (a.data.length ≤ most)

/-- Pages of an invalidation or a translation: a power of two, as PCI Express has them. -/
def pagesWf (page pages : Nat) : Bool := decide (page < 2 ^ 52) && (List.range 53).any fun k => pages == 2 ^ k

/-- Bits [63:48] of a device address are zero (R298). -/
def devAddrWf (a : Nat) : Bool := decide (a < 2 ^ 48)

/-- A table vector or configuration offset of a field (Tables 12-1, 12-3). -/
def CfgField.wf : CfgField → Bool
  | .vectorMask v => decide (v < 2048)
  | .other off => decide (off < 4096)
  | .busMasterEnable | .relaxedOrderingEnable | .idoRequestEnable | .atomicOpRequesterEnable | .atsEnable | .priEnable
  | .outstandingPageRequestAllocation | .msixEnable | .vfEnable | .numVFs | .powerState | .mps | .mrrs | .bar4Log2
  | .tagBits | .tphRequesterEnable | .pasidEnable | .completionTimeout | .cap _ => true

def CfgReq.wf : CfgReq → Bool
  | .read f => f.wf
  | .write f v => f.wf && decide (v < 2 ^ 32)

/-- The tag a directory entry's kind allows: only tables have versions. -/
def EntryRef.wf (e : EntryRef) : Bool := e.kind.val == 0 || !e.version

/-- Units of a stage's command: each once, below the number of units the stage brings up. -/
def Failed.wf (f : Failed) (n : Nat) : Bool := decide f.Nodup && f.all fun u => decide (u < n)

/-- The operands of a command are within what the spec lets them be. Reserved fields of core instructions are
no part of this: an instruction that sets one executes, and raises `ILLEGAL_OP` (R207). -/
def Instr.wf : Instr → Bool
  -- every bit pattern of an instruction word is an instruction
  | .nop _ _ | .add _ _ | .sub _ _ | .mul _ _ | .mulhu _ _ | .and _ _ | .or _ _ | .xor _ _ | .shl _ _ | .shr _ _ | .sar _ _
  | .slt _ _ | .sltu _ _ | .seq _ _ | .min _ _ | .max _ _ | .addi _ _ | .andi _ _ | .ori _ _ | .shli _ _ | .shri _ _ | .li _ _
  | .lih _ _ | .sfadd _ _ | .sfsub _ _ | .sfmul _ _ | .sfdiv _ _ | .sfsqrt _ _ | .sf2i _ _ | .si2f _ _ | .ld _ _ | .ld32 _ _
  | .st _ _ | .st32 _ _ | .sysr _ _ | .pcnt _ _ | .jmp _ _ | .jr _ _ | .beqz _ _ | .bnez _ _ | .bltz _ _ | .bgez _ _
  | .loop _ _ | .wait _ _ | .ewait _ _ | .waitTimeout _ | .signal _ _ | .endItem _ _ | .macc _ _ | .tsload _ _ | .tsstore _ _
  | .glz _ _ | .chain _ _ | .chainru _ _ | .vperm _ _ | .vshuf _ _ | .vpack _ _ | .vunpack _ _ | .tld _ _ | .tst _ _
  | .pld _ _ | .pst _ _ | .red _ _ | .rowop _ _ | .sift _ _ | .nureq _ _ | .xfer _ _ | .hld _ _ | .hst _ _ | .pass _ _
  | .pairst _ _ | .statld _ _ | .statst _ _ | .sconsume _ _ => true
  -- a chain pass carries 1 to 32,768 Crumbs (R157)
  | .chainPassArrival _ n => decide (1 ≤ n ∧ n ≤ 32768)
  | .gather _ _ | .sum _ _ | .wsum _ _ | .mean _ _ | .rowRead _ _ | .update _ _ | .apply _ _ | .applyWindowTimeout _ _
  | .rowWrite _ _ | .expand _ _ | .aggregate _ _ | .walk _ _ | .vertexRead _ _ | .vertexWrite _ _ => true
  | .itemStart => true
  -- a local-store address (Table 07-8)
  | .machineCheck _ _ a => decide (a.getD 0 < 0x300000)
  | .groupRerun _ _ | .irqTicksExpiry _ | .streamGrant _ | .generationStart _ => true
  -- one Crumb of host data
  | .streamCrumbDelivered _ _ host => decide (host.length ≤ 32)
  | .sqTail a _ => a.wf
  | .cqHead a _ => a.wf
  | .ringEnable _ _ _ | .ringDisable _ _ _ => true
  -- an entry and its extension (R401)
  | .descriptorRead ans => ans.wf 128
  | .descriptorAccept _ | .watchdog _ => true
  | .descNop _ pos | .descFence _ pos | .flush _ pos | .hostAtomic _ pos | .syncSet _ pos | .ticks _ pos | .programLoad _ pos
  | .launch _ pos | .trainStep _ pos | .serviceBind _ pos | .serviceRequest _ pos | .serviceUnbind _ pos | .itemResume _ pos
  | .itemAbort _ pos | .streamArm _ pos | .tableSwitch _ pos | .tableRetire _ pos | .tableFree _ pos | .migrate _ pos
  | .poolGrant _ pos | .poolReclaim _ pos | .graphDrain _ pos | .sweep _ pos | .graphFree _ pos | .channelArm _ pos
  | .fabricFence _ pos | .fabricTimeout _ pos => posWf pos
  -- the records these descriptors read from host memory (Tables 03-2, 04-1, 11-8)
  | .tableSetup _ pos ans => posWf pos && ans.wf 128
  | .graphSetup _ pos ans => posWf pos && ans.wf 128
  | .channelSetup _ pos ans => posWf pos && ans.wf 128
  | .sweepTimeout _ => true
  -- a flit has 256 bytes (R326)
  | .dataFlit _ b => b.length == 256
  | .idleFlit _ b => b.length == 256
  | .trainFlit _ b => b.length == 256
  | .detect _ | .linkPhaseTimeout _ | .linkReinit _ | .ident _ | .credit _ | .packetTransit _ | .prepare _ | .answer _
  | .commit _ | .mapChange _ | .mapAck _ | .sweepEnd _ | .mgAck _ | .siftReq _ | .nuReq _ | .updateNode _ | .updateEnd _
  | .forward _ | .blockCopy _ | .result _ | .status _ | .grant _ | .channelSend _ | .record _ | .knead _ | .block _
  | .chanAck _ | .abort _ | .channelTimeout _ | .fence _ | .fenceAck _ => true
  | .epochVisit e => e.wf
  | .epochEnd => true
  | .moveComplete e => e.wf
  | .chunkRelease e => e.wf
  | .patrol a _ => devAddrWf a
  | .crumbCheckFail a _ => devAddrWf a
  | .flashReadFail a _ => devAddrWf a
  | .flashWriteComplete _ => true
  | .streamStoreRunExpire _ line => decide (line < 2 ^ 41)
  -- unit numbers go up to the 4,096 rings
  | .residue u _ _ => decide (u.unit < 4096)
  | .sramUncorrected p _ => match p with
    | .coreWord _ a => decide (a < 0x300000)
    | .coreTile _ _ | .coreSlot _ _ | .coreSide _ _ => true
    | .coreReg _ n => decide (n < 2 ^ 16)
    | .function u => decide (u.unit < 4096)
    | .sifterStore _ a => devAddrWf a
  | .reinitComplete u _ => decide (u.unit < 4096)
  | .proceed _ _ | .escalate _ _ | .abandon _ _ | .answerTimeout _ => true
  -- Table 14-8 has 60 sensors
  | .sensorSample readings => readings.length == 60
  | .supplyFault mv => decide (mv < 2 ^ 16)
  -- a request of PCI Express reads or writes at most 4,096 bytes
  | .bar4Read _ _ len => decide (1 ≤ len ∧ len ≤ 4096)
  | .bar4Write _ _ data => decide (1 ≤ data.length ∧ data.length ≤ 4096)
  | .configRequest _ _ q => q.wf
  | .atsInvalidation _ _ _ page pages => pagesWf page pages
  | .translationCompletion _ _ _ page pages _ => pagesWf page pages
  -- a port has at most 512 page requests outstanding (R380)
  | .pageRequestResponse _ _ group _ => decide (group < 512)
  | .faultTimeout _ _ | .hostReadCompletion _ _ _ => true
  | .dlDown _ | .hotReset _ | .perstAssert _ | .perstDeassert _ | .flrPf _ | .flrVf _ _ | .busMasterEnableClear _ _ | .d3hot _ _
  | .linkRetrain _ => true
  -- a port has 2,048 vectors (R367)
  | .msixUnmask _ _ v => decide (v < 2048)
  | .setupLockRequest _ | .serviceEn _ | .testEn _ _ | .priReset _ | .bar4Wbuf _ | .tierHEnable _ | .alertEn _ _ | .tmarkEn _ _ _ _
  | .timeMark _ | .trigEn _ _ | .traceTrigger _ | .modEn _ _ _ | .errModInterval _ | .vfAssign _ _ _ _ | .resetRequest _
  | .withdraw _ | .resetDeadline | .deviceReset | .logPop _ _ => true
  -- BAR0 of a PF is 64 MiB (Table 12-3)
  | .splitRead _ a => decide (a.off < 2 ^ 26 ∧ 1 ≤ a.size ∧ a.size ≤ 4096)
  | .streamWindowRead _ _ => true
  | .registerWrite _ _ a size _ => decide (a.off < 2 ^ 26 ∧ 1 ≤ size ∧ size ≤ 8)
  | .fwOpen _ | .fwClose _ | .fwAbort _ | .fwCommit _ => true
  -- `MBOX_DATA` has 4,096 bytes (R487), and a management command fewer
  | .fwWrite _ _ _ data => decide (data.length ≤ 4096)
  | .mgmtIdent _ | .bootState _ | .mgmtTicks _ | .power _ | .haltState _ | .alertStatus _ | .resetWithdraw _ | .powerStatus _ => true
  -- one-byte parameters, two for the reset's grace (Table 17-5)
  | .temps _ g => decide (g < 2 ^ 8)
  | .logRecent _ i => decide (i < 2 ^ 8)
  | .cables _ lc => decide (lc < 2 ^ 8)
  | .resetReq _ ms => decide (ms < 2 ^ 16)
  | .powerCycle _ n => decide (n < 2 ^ 8)
  | .getVersion _ | .getCapabilities _ | .negotiateAlgorithms _ | .getDigests _ | .spdmUnsupported _ _ => true
  | .getCertificate _ slot off len => decide (slot < 16 ∧ off < 2 ^ 16 ∧ len < 2 ^ 16)
  -- SPDM's nonces have 32 bytes (PRESUMED, log entry 46)
  | .challenge _ slot nonce => decide (slot < 256) && nonce.length == 32
  | .getMeasurements _ slot index nonce => decide (slot < 16 ∧ index < 256) && nonce.length == 32
  | .powerOn => true
  -- order numbers of Table 17-3
  | .railFault order => decide (1 ≤ order ∧ order ≤ 7)
  | .powerGood | .pwrEnLow | .vinLoss => true
  | .cprsntChange _ _ lengthCm part => decide (lengthCm < 2 ^ 16) && part.length == 16
  | .verify => true
  | .clocks f => Failed.wf f 47
  | .bridges f => Failed.wf f 2
  | .memories f => Failed.wf f 32
  | .flash f => Failed.wf f 2
  | .links f => Failed.wf f 36
  | .release => true
  | .stageTimeout units => units.all fun u => decide (u < 47)
  -- the widths of Table 12-1; 64 GT/s runs in flit mode (R364)
  | .dlUp t => (t.lanes == 16 || t.lanes == 8 || t.lanes == 4) && (t.rate.val != 5 || t.flit)
  | .flitTransmit _ | .identInterval _ | .powerCycleOffTime => true
  | .standbySupplyUp mv => decide (mv < 2 ^ 16)
  | .pllLockLoss u _ => decide (u.unit < 4096)
  | .bridgeCrcFail _ _ => true
  | .inlineEccError a _ _ => devAddrWf a
  | .alertResponseAddress | .dynamicAddressAssignment _ => true

end Sys2Proof
end

