-- ==== Sys2Proof/Tests/Slice0.lean ====
section
/-! SUPPORT. Tests: one ill-formed command for each check of WellFormed, small tests of single commands with values worked from the spec, and a witness for the hypotheses of each statement. -/

namespace Sys2Proof.Tests

open Sys2Proof.Machine

set_option Elab.async false

/-! ### Small states -/

/-- Start-up is over and the block runs. -/
def up : State := { State.reset with boot := { State.reset.boot with stage := .done } }

/-- A run of item 0 of instance 1 on port 0. -/
def rn : Run :=
  { item := ⟨1, 0⟩, cls := .normal, port := 0, ring := 0, fn := 0, args := [], preShift := 0, inGroup := false, chainLast := false,
    effects := [], suppress := [], evInvalid := 0, evPermute := 0, evNanRow := 0, evSat := 0, sat := false, hostFault := false,
    applyCount := 0, lookupCount := 0, rerun := false, stall := none, stallAt := 0, fault := none, retry := false }

/-- Core 3 runs `rn` at byte 64 of its partition, with the scalar registers given. -/
def cored (s : Tab Word) (ls : Memory) : Core := { run := some rn, regs := { s := s, pc := partBase false + 64 }, ls := ls }

/-- The block with core 3 as given. -/
def on3 (k : Core) : State := up.setCore 3 k

/-- The word of an instruction where its core fetches it (R204); other commands fetch none. -/
def put (i : Instr) (s : State) : State :=
  match coreWord i with
  | some (c, w) => s.modCore c.val fun k => { k with ls := k.ls.writeBytes k.regs.pc (natLe 8 w.toNat) }
  | none => s

/-- The core of an instruction fetches its word. -/
def fetched (s : State) (i : Instr) : Bool :=
  match coreWord i with
  | some (c, w) => (s.core c.val).fetched == w
  | none => true
theorem fetches_of (s : State) (i : Instr) (h : fetched s i = true) : Fetches s i := by
  unfold fetched at h
  unfold Fetches
  split at h <;> simp_all
/-- With its word placed, an instruction of core 3 is fetched and ready to issue for a run. -/
abbrev Runs (s : State) (r : Run) (l : List Instr) : Prop := ∀ i ∈ l, fetched (put i s) i = true ∧ Ready (put i s) 3 r

/-- The core after a command on it, and the whole state. -/
def after (i : Instr) (s : State) : State :=
  match exec i (put i s) with
  | .next t => t
  | _ => State.reset

/-- Core 3 after a command. -/
def aft3 (i : Instr) (s : State) : Core := (after i s).core 3


/-! ### Ill-formed commands are refused -/

theorem wf_door_size : Instr.wf (.sqTail ⟨0, 0, 0, 0, 0⟩ 1) = false := by decide
theorem wf_door_size_head : Instr.wf (.cqHead ⟨0, 0, 0, 0, 65⟩ 1) = false := by decide
theorem wf_pos : Instr.wf (.descNop 0 (2 ^ 32)) = false := by decide
theorem wf_pass_none : Instr.wf (.chainPassArrival 0 0) = false := by decide
theorem wf_pass_many : Instr.wf (.chainPassArrival 0 32769) = false := by decide
theorem wf_check_address : Instr.wf (.machineCheck 0 1 (some 0x300000)) = false := by decide
set_option maxRecDepth 8000 in
theorem wf_crumb : Instr.wf (.streamCrumbDelivered 0 0 (List.replicate 33 0)) = false := by decide
set_option maxRecDepth 8000 in
theorem wf_entry : Instr.wf (.descriptorRead ⟨List.replicate 129 0, none⟩) = false := by decide
theorem wf_setup_pos : Instr.wf (.tableSetup 0 (2 ^ 32) ⟨[], none⟩) = false := by decide
set_option maxRecDepth 8000 in
theorem wf_setup_record : Instr.wf (.channelSetup 0 0 ⟨List.replicate 129 0, none⟩) = false := by decide
set_option maxRecDepth 8000 in
theorem wf_flit : Instr.wf (.dataFlit 0 (List.replicate 255 0)) = false := by decide
theorem wf_entry_version : Instr.wf (.epochVisit ⟨1, 0, true, 0⟩) = false := by decide
theorem wf_device_address : Instr.wf (.patrol (2 ^ 48) true) = false := by decide
theorem wf_line : Instr.wf (.streamStoreRunExpire 0 (2 ^ 41)) = false := by decide
theorem wf_unit : Instr.wf (.residue ⟨0, 4096⟩ 0 0) = false := by decide
theorem wf_sram_word : Instr.wf (.sramUncorrected (.coreWord 0 0x300000) 0) = false := by decide
theorem wf_sram_function : Instr.wf (.sramUncorrected (.function ⟨0, 4096⟩) 0) = false := by decide
theorem wf_sram_store : Instr.wf (.sramUncorrected (.sifterStore 0 (2 ^ 48)) 0) = false := by decide
theorem wf_sensors : Instr.wf (.sensorSample [0]) = false := by decide
theorem wf_supply : Instr.wf (.supplyFault 65536) = false := by decide
theorem wf_bar4_read : Instr.wf (.bar4Read 0 0 4097) = false := by decide
theorem wf_bar4_write : Instr.wf (.bar4Write 0 0 []) = false := by decide
theorem wf_config_offset : Instr.wf (.configRequest 0 0 (.read (.other 4096))) = false := by decide
theorem wf_config_vector : Instr.wf (.configRequest 0 0 (.write (.vectorMask 2048) 1)) = false := by decide
theorem wf_config_value : Instr.wf (.configRequest 0 0 (.write .mps (2 ^ 32))) = false := by decide
theorem wf_pages : Instr.wf (.atsInvalidation 0 0 none 0 3) = false := by decide
theorem wf_page : Instr.wf (.pageRequestResponse 0 0 (2 ^ 52) .success) = false := by decide
theorem wf_vector : Instr.wf (.msixUnmask 0 0 2048) = false := by decide

/-! ### Core instructions -/

/-- Core 3 with S2 = all ones, S3 = 2 and a local store of three bytes at 0x2000. -/
def k3 : Core := cored [(2, BitVec.allOnes 64), (3, 2), (4, 0x2000), (5, 0x1122334455667788)] [(0x2000, 0x99), (0x2001, 0x01), (0x2007, 0x80)]
def s3 : State := on3 k3

theorem test_add_wraps : (aft3 (.add 3 ⟨1, 2, 3, 0, 0⟩) s3).sreg 1 = 1 := by decide +kernel
theorem test_add_s0 : (aft3 (.add 3 ⟨0, 2, 3, 0, 0⟩) s3).sreg 0 = 0 := by decide +kernel
theorem test_sub_wraps : (aft3 (.sub 3 ⟨1, 3, 2, 0, 0⟩) s3).sreg 1 = 3 := by decide +kernel
theorem test_mul_low : (aft3 (.mul 3 ⟨1, 2, 3, 0, 0⟩) s3).sreg 1 = 0xFFFFFFFFFFFFFFFE := by decide +kernel
theorem test_mulhu : (aft3 (.mulhu 3 ⟨1, 2, 2, 0, 0⟩) s3).sreg 1 = 0xFFFFFFFFFFFFFFFE := by decide +kernel
theorem test_and : (aft3 (.and 3 ⟨1, 5, 3, 0, 0⟩) s3).sreg 1 = 0 := by decide +kernel
theorem test_or : (aft3 (.or 3 ⟨1, 4, 3, 0, 0⟩) s3).sreg 1 = 0x2002 := by decide +kernel
theorem test_xor : (aft3 (.xor 3 ⟨1, 2, 3, 0, 0⟩) s3).sreg 1 = 0xFFFFFFFFFFFFFFFD := by decide +kernel
theorem test_shl : (aft3 (.shl 3 ⟨1, 5, 3, 0, 0⟩) s3).sreg 1 = 0x4488cd115599de20 := by decide +kernel
theorem test_shr_count_64 : (aft3 (.shr 3 ⟨1, 5, 4, 0, 0⟩) s3).sreg 1 = 0x1122334455667788 := by decide +kernel
theorem test_sar_sign : (aft3 (.sar 3 ⟨1, 2, 3, 0, 0⟩) s3).sreg 1 = BitVec.allOnes 64 := by decide +kernel
theorem test_slt_signed : (aft3 (.slt 3 ⟨1, 2, 3, 0, 0⟩) s3).sreg 1 = 1 := by decide +kernel
theorem test_sltu : (aft3 (.sltu 3 ⟨1, 2, 3, 0, 0⟩) s3).sreg 1 = 0 := by decide +kernel
theorem test_seq : (aft3 (.seq 3 ⟨1, 2, 2, 0, 0⟩) s3).sreg 1 = 1 := by decide +kernel
theorem test_min_signed : (aft3 (.min 3 ⟨1, 2, 3, 0, 0⟩) s3).sreg 1 = BitVec.allOnes 64 := by decide +kernel
theorem test_max_signed : (aft3 (.max 3 ⟨1, 2, 3, 0, 0⟩) s3).sreg 1 = 2 := by decide +kernel
theorem test_addi_sign : (aft3 (.addi 3 ⟨1, 3, 0, 0, 0xFFFFFFFF⟩) s3).sreg 1 = 1 := by decide +kernel
theorem test_andi_zero_extends : (aft3 (.andi 3 ⟨1, 2, 0, 0, 0x80000001⟩) s3).sreg 1 = 0x80000001 := by decide +kernel
theorem test_ori : (aft3 (.ori 3 ⟨1, 3, 0, 0, 0x80000000⟩) s3).sreg 1 = 0x80000002 := by decide +kernel
theorem test_shli : (aft3 (.shli 3 ⟨1, 3, 0, 0, 62⟩) s3).sreg 1 = 0x8000000000000000 := by decide +kernel
theorem test_shri : (aft3 (.shri 3 ⟨1, 2, 0, 0, 60⟩) s3).sreg 1 = 0xF := by decide +kernel
theorem test_li_sign : (aft3 (.li 3 ⟨1, 0, 0, 0, 0x80000000⟩) s3).sreg 1 = 0xFFFFFFFF80000000 := by decide +kernel
theorem test_lih_keeps_low : (aft3 (.lih 3 ⟨5, 0, 0, 0, 0xAABBCCDD⟩) s3).sreg 5 = 0xAABBCCDD55667788 := by decide +kernel
theorem test_nop : (aft3 (.nop 3 ⟨0, 0, 0, 0, 0⟩) s3).regs.pc = partBase false + 72 := by decide +kernel
theorem test_reserved : ((aft3 (.nop 3 ⟨1, 0, 0, 0, 0⟩) s3).run.bind (·.fault)).map (·.code) = none ∧
    ((after (.nop 3 ⟨1, 0, 0, 0, 0⟩) s3).log (lgCluster 0)).view0.length = 1 := by decide +kernel
theorem test_ld : (aft3 (.ld 3 ⟨1, 4, 0, 0, 0⟩) s3).sreg 1 = 0x8000000000000199 := by decide +kernel
theorem test_ld32 : (aft3 (.ld32 3 ⟨1, 4, 0, 0, 4⟩) s3).sreg 1 = 0x80000000 := by decide +kernel
theorem test_st_bytes : ((aft3 (.st 3 ⟨0, 4, 5, 0, 8⟩) s3).ls.read 0x2008, (aft3 (.st 3 ⟨0, 4, 5, 0, 8⟩) s3).ls.read 0x200F) = (0x88, 0x11) := by decide +kernel
theorem test_st32 : ((aft3 (.st32 3 ⟨0, 4, 5, 0, 4⟩) s3).ls.readNat 0x2000 8) = 0x5566778800000199 := by decide +kernel
theorem test_sysr_core : (aft3 (.sysr 3 ⟨1, 0, 0, 0, 0⟩) s3).sreg 1 = 3 := by decide +kernel
theorem test_pcnt : (aft3 (.pcnt 3 ⟨1, 2, 0, 0, 0⟩) (on3 (k3.setP 2 0xF0F))).sreg 1 = 8 := by decide +kernel
theorem test_jmp_back : (aft3 (.jmp 3 ⟨0, 0, 0, 0xFFFFFFFE⟩) s3).regs.pc = partBase false + 48 := by decide +kernel
theorem test_jr : (aft3 (.jr 3 ⟨0, 4, 0, 0, 0⟩) s3).regs.pc = 0x2000 := by decide +kernel
theorem test_beqz_not : (aft3 (.beqz 3 ⟨0, 3, 0, 4⟩) s3).regs.pc = partBase false + 72 := by decide +kernel
theorem test_bnez : (aft3 (.bnez 3 ⟨0, 3, 0, 4⟩) s3).regs.pc = partBase false + 96 := by decide +kernel
theorem test_bltz : (aft3 (.bltz 3 ⟨0, 2, 0, 4⟩) s3).regs.pc = partBase false + 96 := by decide +kernel
theorem test_bgez_zero : (aft3 (.bgez 3 ⟨0, 0, 0, 4⟩) s3).regs.pc = partBase false + 96 := by decide +kernel
theorem test_loop : ((aft3 (.loop 3 ⟨0, 3, 0, 4⟩) s3).sreg 3, (aft3 (.loop 3 ⟨0, 3, 0, 4⟩) s3).regs.pc) = (1, partBase false + 96) := by decide +kernel

/-- FP32 1.5 and 2.25 in S1 and S2: 3.75 is 0x40700000, 3.375 is 0x40580000, -0.75 is 0xBF400000, 1.5 / 2.25 rounds to 0x3F2AAAAB. -/
def f3 : State := on3 (cored [(1, 0x3FC00000), (2, 0x40100000), (3, 0xFFFFFFFD)] [])

theorem test_sfadd : (aft3 (.sfadd 3 ⟨4, 1, 2, 0, 0⟩) f3).sreg 4 = 0x40700000 := by decide +kernel
theorem test_sfsub : (aft3 (.sfsub 3 ⟨4, 1, 2, 0, 0⟩) f3).sreg 4 = 0xBF400000 := by decide +kernel
theorem test_sfmul : (aft3 (.sfmul 3 ⟨4, 1, 2, 0, 0⟩) f3).sreg 4 = 0x40580000 := by decide +kernel
theorem test_sfdiv : (aft3 (.sfdiv 3 ⟨4, 1, 2, 0, 0⟩) f3).sreg 4 = 0x3F2AAAAB := by decide +kernel
theorem test_sfsqrt : (aft3 (.sfsqrt 3 ⟨4, 2, 0, 0, 0⟩) f3).sreg 4 = 0x3FC00000 := by decide +kernel
theorem test_sf2i_even : (aft3 (.sf2i 3 ⟨4, 1, 0, 0, 0⟩) f3).sreg 4 = 2 := by decide +kernel
theorem test_si2f_signed : (aft3 (.si2f 3 ⟨4, 3, 0, 0, 0⟩) f3).sreg 4 = 0xC0400000 := by decide +kernel
theorem test_sfsqrt_invalid : ((aft3 (.sfsqrt 3 ⟨4, 3, 0, 0, 0⟩) (on3 (cored [(3, 0xBF800000)] []))).run.map (·.evInvalid)) = some 1 := by decide +kernel

/-! ### Witnesses: the step, reset and invariants -/

def isNext : Host.Outcome State Fault Refusal → Bool
  | .next _ => true
  | _ => false

theorem wit_StepRunsFrontCommand : ({ s3 with pending := [.nop 3 ⟨0, 0, 0, 0, 0⟩, .powerOn] } : State).pending = .nop 3 ⟨0, 0, 0, 0, 0⟩ :: [.powerOn] ∧
    up.pending = [] ∧ up.awake = true ∧ ({ up with power := { up.power with pwrgd := false } } : State).awake = false := by decide
theorem wit_EveryStepKeepsForms : (up.bootFlash.wf = true ∧ isNext (step { s3 with pending := [.add 3 ⟨1, 2, 3, 0, 0⟩] }) = true) := by decide
theorem wit_EveryStepKeepsFuses : isNext (step up) = true ∧ isNext (step { up with pending := [.vinLoss] }) = true := by decide
theorem wit_SignsOfZerosAndProducts : (3 : Nat) <<< ((4 : Int) - min 4 2).toNat = 12 <<< ((2 : Int) - min 4 2).toNat ∧
    (fp32.roundV .rne .toInf ((FV.fin true 3 0).mul (.fin false 5 0))).isNan = false := by decide

/-- An item of program 5 that waits for nothing, and its instance, on port 0. -/
def rec1 : ItemRec :=
  { entry := 8, cls := 1, atomic := false, flow := 0, group := 0, chainLast := false, pin := none, dep := none, done := none, doneN := 0,
    args := [7], arm := 0 }
def item1 : Item :=
  { rcd := rec1, cls := .normal, st := .ready, preShift := 0, checked := 0, suppress := [], fault := none, evs := [], sat := false, hostFault := false,
    counts := (0, 0), rerun := false, heldDecs := [], depInit := 0, avoid := none, holdsFlow := false }
def inst1 : Inst :=
  { num := 1, port := 0, fn := 0, ring := 0, pos := 0, opcode := 9, program := 5, base := 0, syncCount := 0, word := 0, items := [item1],
    result2 := 0, report := 0, acceptedAt := 0, budget := 0, service := none, versions := [], armStatus := [], counted := false, train := [],
    orphaned := false }
/-- One item ready, and core 0 with its image loaded. -/
def readyS : State := { up.setCore 0 { tagLower := some (codeTag 0 5) } with insts := [inst1], readyQ := [⟨1, 0⟩] }

theorem wit_start : readyS.running = true ∧ readyS.settle.nextStart = some (⟨1, 0⟩, 0) ∧ readyS.settle.instOf 1 = some inst1 ∧
    readyS.settle.itemOf ⟨1, 0⟩ = some item1 ∧ (readyS.settle.core 0).tag (item1.cls == .express) = some (codeTag inst1.port inst1.program) := by decide

/-! ### Engines -/

/-- Local store that holds the byte strings given. -/
def lsOf (l : List (Nat × Bytes)) : Memory := l.foldl (fun m x => m.writeBytes x.1 x.2) []
/-- A tree control block with q = 10, s = 9 and the arithmetic given. -/
def tcb (arith : BitVec 8) : Bytes := List.replicate 20 0 ++ [10, 0, arith, 0] ++ List.replicate 8 0

/-- INT8 panels (1, 2, -1), (4, 5, 6) and (1, 1, 1), (2, 0, -1). -/
def intK : Core := cored [(2, 0x804000), (3, 0x805000), (5, 0x1000)]
  (lsOf [(0x1000, tcb 1), (0x4000, [1, 2, 255]), (0x4040, [4, 5, 6]), (0x5000, [1, 1, 1]), (0x5040, [2, 0, 255])])
def intMacc : MFmt :=
  { tile := 0, h := 2, s := 3, k := 4, rsvLo := 0, rowsM1 := 1, colsM1 := 1, kM1 := 2, fpair := 6, begins := true, transpose := false, tc := 5, rsvHi := 0 }
def intCap : MaccCap :=
  { tile := 0, held := 0x4000, heldStride := 2, streamed := 0x5000, streamedStride := 2, base := 0, rows := 2, cols := 2, kCount := 3, fpair := 6, transpose := false }
theorem test_macc_int : ((aft3 (.macc 3 intMacc) (on3 intK)).tree 0).map (·.ints) = some [2, 3, 15, 2] := by decide +kernel

/-- BF16 panels (1, 2, 1) and (1, 1, 1) of one row and one column, and a Glaze block that writes FP32. -/
def fpK : Core := cored [(2, 0x1004000), (3, 0x1005000), (5, 0x1000), (6, 0x2000), (7, 0x7000)]
  (lsOf [(0x1000, tcb 0), (0x2008, natLe 4 0x6000), (0x2018, natLe 4 0x3F800000), (0x2034, natLe 2 8), (0x4000, [0x80, 0x3F, 0, 0x40, 0x80, 0x3F]), (0x5000, [0x80, 0x3F, 0x80, 0x3F, 0x80, 0x3F])])
def fpMacc (begins : Bool) : MFmt :=
  { tile := 0, h := 2, s := 3, k := 4, rsvLo := 0, rowsM1 := 0, colsM1 := 0, kM1 := 2, fpair := 0, begins := begins, transpose := false,
    tc := if begins then 5 else 0, rsvHi := 0 }
def fpCap : MaccCap :=
  { tile := 0, held := 0x4000, heldStride := 4, streamed := 0x5000, streamedStride := 4, base := 0, rows := 1, cols := 1, kCount := 3, fpair := 0, transpose := false }
def fpS : State := after (.macc 3 (fpMacc true)) (on3 fpK)
def xf (a : BitVec 5) (imm : BitVec 32) : XFmt := { d := 0, a := a, b := 0, c := 0, sub := 0, imm := imm }
theorem test_glz : (aft3 (.glz 3 (xf 6 0)) fpS).ls.readNat 0x6000 4 = 0x40800000 := by decide +kernel

/-! ### Witnesses: core instructions -/

def rf (d a b c : BitVec 5) : RFmt := ⟨d, a, b, c, 0⟩
def isOk {ε α : Type} : Except ε α → Bool
  | .ok _ => true
  | .error _ => false

theorem wit_ScalarResults : Runs s3 rn [.add 3 ⟨1, 2, 3, 0, 0⟩, .sub 3 ⟨1, 2, 3, 0, 0⟩, .mul 3 ⟨1, 2, 3, 0, 0⟩, .mulhu 3 ⟨1, 2, 3, 0, 0⟩, .and 3 ⟨1, 2, 3, 0, 0⟩,
      .or 3 ⟨1, 2, 3, 0, 0⟩, .xor 3 ⟨1, 2, 3, 0, 0⟩, .shl 3 ⟨1, 2, 3, 0, 0⟩, .shr 3 ⟨1, 2, 3, 0, 0⟩, .sar 3 ⟨1, 2, 3, 0, 0⟩,
      .slt 3 ⟨1, 2, 3, 0, 0⟩, .sltu 3 ⟨1, 2, 3, 0, 0⟩, .seq 3 ⟨1, 2, 3, 0, 0⟩, .min 3 ⟨1, 2, 3, 0, 0⟩, .max 3 ⟨1, 2, 3, 0, 0⟩,
      .nop 3 ⟨0, 0, 0, 0, 0⟩, .addi 3 ⟨1, 2, 0, 0, 7⟩, .andi 3 ⟨1, 2, 0, 0, 7⟩, .ori 3 ⟨1, 2, 0, 0, 7⟩,
      .shli 3 ⟨1, 2, 0, 0, 7⟩, .shri 3 ⟨1, 2, 0, 0, 7⟩, .li 3 ⟨1, 0, 0, 0, 7⟩, .lih 3 ⟨1, 0, 0, 0, 7⟩, .sysr 3 ⟨1, 0, 0, 0, 8⟩,
      .sysr 3 ⟨1, 0, 0, 0, 16⟩, .pcnt 3 ⟨1, 2, 0, 0, 0⟩] ∧ (rf 1 2 3 0).ok true true true false = true ∧ (rf 0 0 0 0).ok false false false false = true ∧
    IFmt.ok ⟨1, 2, 0, 0, 7⟩ true true false = true ∧ IFmt.ok ⟨1, 0, 0, 0, 7⟩ true false false = true ∧
    (s3.coreWord 3 8 rn).isSome = true ∧ 16 ≤ ((16 : BitVec 32)).toNat ∧ (rf 1 2 0 0).ok true true false false = true ∧ (5 : Nat) ≠ 0 := by decide +kernel
theorem wit_SingleFloatResults : Runs f3 rn [.sfadd 3 ⟨4, 1, 2, 0, 0⟩, .sfsub 3 ⟨4, 1, 2, 0, 0⟩, .sfmul 3 ⟨4, 1, 2, 0, 0⟩, .sfdiv 3 ⟨4, 1, 2, 0, 0⟩,
      .sfsqrt 3 ⟨4, 1, 0, 0, 0⟩, .sf2i 3 ⟨4, 1, 0, 0, 0⟩, .si2f 3 ⟨4, 1, 0, 0, 0⟩] ∧ (rf 4 1 2 0).ok true true true false = true ∧ (rf 4 1 0 0).ok true true false false = true := by decide +kernel
theorem wit_LocalStoreWords : Runs s3 rn [.ld 3 ⟨1, 4, 0, 0, 0⟩, .ld32 3 ⟨1, 4, 0, 0, 4⟩, .st 3 ⟨0, 4, 5, 0, 0⟩, .st32 3 ⟨0, 4, 5, 0, 4⟩] ∧ IFmt.ok ⟨1, 4, 0, 0, 0⟩ true true false = true ∧ IFmt.ok ⟨0, 4, 5, 0, 0⟩ false true true = true ∧
    (k3.sreg 4 + (0 : BitVec 32).signExtend 64).toNat = 0x2000 ∧ 0x2000 % 8 = 0 ∧ inPart rn.express 0x2000 8 = true ∧
    (∀ w ∈ wordsOf 0x2000 8, w ∉ k3.lsPoison) := by decide +kernel
theorem wit_BranchResults : Runs s3 rn [.jmp 3 ⟨0, 0, 0, 4⟩, .beqz 3 ⟨0, 3, 0, 4⟩, .bnez 3 ⟨0, 3, 0, 4⟩, .bltz 3 ⟨0, 3, 0, 4⟩, .bgez 3 ⟨0, 3, 0, 4⟩,
      .loop 3 ⟨0, 3, 0, 4⟩, .jr 3 ⟨0, 4, 0, 0, 0⟩] ∧ BFmt.ok ⟨0, 0, 0, 4⟩ false = true ∧ BFmt.ok ⟨0, 3, 0, 4⟩ true = true ∧
    (BitVec.ofNat 64 k3.regs.pc + 8 * (4 : BitVec 32).signExtend 64).toNat % 8 = 0 ∧
    inPart rn.express (BitVec.ofNat 64 k3.regs.pc + 8 * (4 : BitVec 32).signExtend 64).toNat 8 = true ∧ k3.sreg 3 ≠ 0 ∧ k3.sreg 0 = 0 ∧
    (k3.sreg 2).toInt < 0 ∧ (rf 0 4 0 0).ok false true false false = true ∧ (k3.sreg 4).toNat % 8 = 0 ∧ inPart rn.express (k3.sreg 4).toNat 8 = true ∧
    (k3.sreg 3).toNat % 8 ≠ 0 ∧ (k3.setS 6 0x300000 |>.sreg 6).toNat % 8 = 0 ∧ inPart rn.express 0x300000 8 = false := by decide +kernel

/-- Core 3 waits at the chain count 5, with the limit passed or not. -/
def waiting (since : Nat) : State := { on3 { k3 with run := some { rn with stall := some (.chain 5), stallAt := since } } with ticks := 2000000 }
theorem wit_WaitResults : Runs s3 rn [.wait 3 ⟨0, 4, 0, 0, 0, 0⟩, .wait 3 ⟨0, 4, 0, 0, 0, 1⟩, .wait 3 ⟨0, 2, 3, 0, 0, 2⟩, .ewait 3 ⟨0, 0, 0, 0, 0, 1⟩] ∧ XFmt.ok ⟨0, 4, 0, 0, 0, 0⟩ false true false false false = true ∧ (k3.sreg 4).toNat % 8 = 0 ∧
    inPart rn.express (k3.sreg 4).toNat 8 = true ∧ (k3.sreg 4).toNat / 8 ∉ k3.lsPoison ∧ XFmt.ok ⟨0, 2, 3, 0, 0, 2⟩ false true true false false = true ∧
    XFmt.ok ⟨0, 0, 0, 0, 0, 1⟩ false false false false false = true := by decide +kernel
def gen3 : Gen :=
  { src := .ring 0 0, list := 0, buf := 0, bufLog := 0, drain := 0, base := 0, started := true, delivered := 3, requested := 3, consumed := 0,
    arrived := [], asked := [], entry := 0, within := 0, ended := none }
theorem wit_WaitResults_stream : (s3.setStrm 12 { gens := [gen3] }).deliveredNow 3 rn 12 = some 3 ∧ s3.deliveredNow 3 rn 13 = none := by decide +kernel
theorem wit_WaitResults_end : ((waiting 0).issuing 3).isSome = true ∧ (Stall.chain 5).limited = true ∧
    (waiting 0).stallMet 3 { rn with stall := some (.chain 5) } (.chain 5) = false ∧ (waiting 0).waitLimit = 1000000 ∧
    (on3 { k3 with chainCount := 5, run := some { rn with stall := some (.chain 5) } }).stallMet 3 rn (.chain 5) = true := by decide +kernel

theorem wit_SignalAndEnd : Runs s3 rn [.signal 3 ⟨0, 3, 0, 0, 0, 1⟩, .endItem 3 ⟨0, 0, 0, 0, 0, 7⟩] ∧ XFmt.ok ⟨0, 3, 0, 0, 0, 1⟩ false true false false false = true ∧ rn.suppress = [] ∧
    s3.syncPort 2 = 0 ∧ (on3 (k3.setS 3 9000)).syncPort 9000 = 1 ∧ s3.insts = [] ∧ (1 : Nat) ≤ ((s3.setSync 2 { count := 4 }).sync 2).count.toNat ∧
    XFmt.ok ⟨0, 0, 0, 0, 0, 7⟩ false false false false false = true ∧ s3.outstanding 3 rn.item = false := by decide +kernel

def lq : LsuReq :=
  { id := 0, kind := .sift, block := List.replicate 64 0, resp := 0x100, cls := .normal, port := 0, ring := 0, item := ⟨1, 0⟩, version := false,
    split := 0, status := 0, count := 0, served := false, moved := 0, prog := {}, effect := none }
/-- Core 3 with one request outstanding. -/
def busy3 : State := on3 { k3 with lsu := [lq] }
theorem wit_SignalAndEnd_held : Runs busy3 rn [.endItem 3 ⟨0, 0, 0, 0, 0, 7⟩] ∧ busy3.outstanding 3 rn.item = true := by decide +kernel

theorem wit_ExceptionResults : Runs s3 rn [.add 3 ⟨1, 2, 3, 4, 0⟩, .ld 3 ⟨1, 2, 3, 0, 0⟩, .ld 3 ⟨1, 3, 0, 0, 0⟩, .st 3 ⟨0, 3, 5, 0, 0⟩] ∧ s3.issuing 3 = some rn ∧ rn.stall = none ∧ (on3 { k3 with regs := { k3.regs with pc := 0x240000 } }).issuing 3 = some rn ∧
    inPart rn.express 0x240000 8 = false ∧ inPart rn.express k3.regs.pc 8 = true ∧ (k3.sreg 3 + (0 : BitVec 32).signExtend 64).toNat % 8 ≠ 0 ∧
    (cored [(3, 0x300000)] []).sreg 3 = 0x300000 ∧ s3.assisted 1 = false ∧ busy3.outstanding 3 rn.item = true ∧
    (busy3.log (lgCluster 0)).view0.length < 64 := by decide +kernel
/-- A word at the program counter whose opcode Table 07-3 does not give. -/
def badOp : State := on3 { k3 with ls := k3.ls.write (partBase false + 64) 0x17 }
theorem wit_ExceptionResults_opcode : badOp.issuing 3 = some rn ∧ inPart rn.express (badOp.core 3).regs.pc 8 = true ∧ (badOp.core 3).opcodeOk = false ∧
    (s3.core 3).opcodeOk = true := by decide +kernel
/-- Clusters in host-assisted mode. -/
def assistedS : State := s3.setReg (regKey none 0x1008) 2
theorem wit_ExceptionResults_assisted : assistedS.assisted 1 = true ∧ assistedS.issuing 3 = some rn := by decide +kernel

theorem wit_MaccResults_int : Runs (on3 intK) rn [.macc 3 intMacc] ∧ intMacc.rsvLo = 0 ∧ intMacc.rsvHi = 0 ∧ intMacc.begins = true ∧
    (match macBegin intK rn intCap 0x1000 with
      | .ok t => t.tag.arith == .int && t.tag.shift == 0
      | .error _ => false) = true ∧
    panelOk (.int 8) 0x4000 2 = true ∧ inPart rn.express 0x4000 (rowsExtent 2 2 ((Elem.int 8).rowBytes 3)) = true ∧
    isOk (panelRead intK (.int 8) 0x4000 2 2 3) = true ∧ isOk (panelRead intK (.int 8) 0x5000 2 2 3) = true := by decide +kernel
theorem wit_MaccResults_fp : Runs (on3 fpK) rn [.macc 3 (fpMacc true), .macc 3 (fpMacc false)] ∧ (fpMacc true).begins = true ∧ pairOf 0 = some (.fl bf16, .fl bf16) ∧
    (match macBegin fpK rn fpCap 0x1000 with
      | .ok t => t.tag.arith == .fp && t.tag.fpair == some 0 && !t.passThru
      | .error _ => false) = true ∧
    panelOk (.fl bf16) 0x4000 4 = true ∧ inPart rn.express 0x4000 (rowsExtent 1 4 ((Elem.fl bf16).rowBytes 3)) = true ∧
    isOk (panelRead fpK (.fl bf16) 0x4000 4 1 3) = true := by decide +kernel

/-- The core after the begin of `test_glz`, and the Glaze block it names. -/
def glzK : Core := fpS.core 3
def glzCfg : GlazeCfg := GlazeCfg.parse (glzK.ls.readBytes 0x2000 64)
theorem wit_TreeSetAndGlaze_drain : Runs fpS ((glzK.run).getD rn) [.glz 3 (xf 6 0), .tsstore 3 (xf 7 0)] ∧ (xf 6 0).ok false true false false false = true ∧ (glzK.sreg 6).toNat = 0x2000 ∧
    inPart rn.express 0x2000 64 = true ∧ (match glzK.tree 0 with
      | some t => decide (glzCfg.rows ≤ t.rows ∧ glzCfg.cols ≤ t.cols)
      | none => false) = true ∧ isOk (engRead glzK 0x2000 64 enGlaze) = true ∧ glzCfg.bad = false ∧
    isOk (engSpans rn.express enGlaze glzCfg.writes) = true ∧
    isOk (engRanges glzK rn.express enGlaze (glzCfg.vecs.map fun v => (glzCfg.vecAddr + v.1, v.2))) = true := by decide +kernel
theorem wit_TreeSetAndGlaze_waits : let k := { glzK with lsu := [{ lq with resp := 0x2038 }] }
    (k.tree 0).isSome = true ∧ k.awaits 0x2000 64 = true ∧ glzK.awaits 0x2000 64 = false ∧ (∀ v ∈ glzCfg.vecs, glzK.awaits (glzCfg.vecAddr + v.1) v.2 = false) := by
  decide +kernel
theorem wit_TreeSetAndGlaze_store : (xf 7 0).ok false true false false false = true ∧ (glzK.sreg 7).toNat % 32 = 0 ∧ (glzK.tree 0).isSome = true ∧
    (match glzK.tree 0 with
      | some t => inPart false (glzK.sreg 7).toNat t.header.length
      | none => false) = true := by decide +kernel

/-- The record of an empty floating-point set at 0x4000 and its control block at 0x1000. -/
def recHdr : RecHdr :=
  { t := 0, spill := 9, arith := 0, sr := false, sat := false, shift := 0, seed := 0, tensor := 0, uBase := 0, vBase := 0, uCount := 31, vCount := 63, level := 0 }
def recK : Core := cored [(2, 0x4000), (3, 0x1000)] (lsOf [(0x1000, tcb 0), (0x4000, recHdr.bytes)])
def recF : XFmt := { d := 0, a := 2, b := 3, c := 0, sub := 0, imm := 0 }
theorem wit_TreeSetAndGlaze_load : Runs (on3 recK) rn [.tsload 3 recF] ∧ recF.ok false true true false false = true ∧ isOk (engRead recK 0x1000 32 enMe) = true ∧
    (match parseTcb (recK.ls.readBytes 0x1000 32) 0 with
      | some g => decide (g.arith = .fp) && g.fits false 0 &&
          ((Rec.parse (recK.ls.readBytes 0x4000 recHdr.length)).bind (loadSet 0 g)).isSome
      | none => false) = true ∧
    RecHdr.parse false (recK.ls.readBytes 0x4000 32) = some recHdr ∧ inPart rn.express 0x4000 recHdr.length = true ∧
    isOk (engRead recK 0x4000 recHdr.length enMe) = true := by decide +kernel

/-! ### Witnesses: descriptors of the engines and requests of the LSU -/

/-- A chain of one `MOV`-like stage (operation 0) over one FP32 element of local store at 0x3000, stored at 0x3100. -/
def chainB : Bytes := List.replicate 40 0 ++ natLe 4 0x3000 ++ natLe 4 0 ++ natLe 4 0x3100 ++ List.replicate 12 0 ++ List.replicate 64 0
/-- The same chain with its reduction tap, and a reduction of the tap: a sum of one row of one element, stored at 0x3200. -/
def tapB : Bytes := [0, 0, 0, 0, 1, 0, 0, 0] ++ chainB.drop 8
def ruB (src : Nat) : Bytes := natLe 8 (4 * src) ++ List.replicate 32 0 ++ natLe 4 0x3000 ++ natLe 4 0 ++ natLe 4 0x3200 ++ List.replicate 12 0
/-- A softmax over one row of one FP32 element, with statistics in the side memory. -/
def rowB (op kind : Nat) : Bytes :=
  natLe 8 (op + 16 * kind + 2 ^ 20 + 2 ^ 21) ++ List.replicate 32 0 ++ natLe 4 0x3000 ++ natLe 4 0x3300 ++ List.replicate 16 0
def vecK : Core := cored [(2, 0x1000), (3, 0x1100), (4, 0x1200), (5, 0x1300), (6, 0x1400)]
  (lsOf [(0x1000, chainB), (0x1100, tapB), (0x1200, ruB 3), (0x1300, ruB 0), (0x1400, rowB 0 0), (0x3000, natLe 4 0x3F800000)])
def vecS : State := on3 vecK
def xf2 (a b : BitVec 5) : XFmt := { d := 0, a := a, b := b, c := 0, sub := 0, imm := 0 }

theorem test_chain_copy : (aft3 (.chain 3 (xf2 2 0)) vecS).ls.readNat 0x3100 4 = 0x3F800000 := by decide +kernel
theorem test_chainru_sum : (aft3 (.chainru 3 (xf2 3 4)) vecS).ls.readNat 0x3200 4 = 0x3F800000 := by decide +kernel
theorem test_red_sum : (aft3 (.red 3 (xf2 5 0)) vecS).ls.readNat 0x3200 4 = 0x3F800000 := by decide +kernel

/-- Ranges inside the partition without poison, and writes inside it. -/
def clean (k : Core) (e : Nat) (l : List (Nat × Nat)) : Bool := l.all fun x => inPart false x.1 x.2 && isOk (engRead k x.1 x.2 e)
def fitsIn (l : List (Nat × Bytes)) : Bool := l.all fun x => inPart false x.1 x.2.length
def chainD : ChainDesc := ChainDesc.parse chainB
def tapD : ChainDesc := ChainDesc.parse tapB
def chainX (d : ChainDesc) : ChainRes := chainCalc vecS 3 d none
theorem wit_ChainAndReduction_chain : Runs vecS rn [.chain 3 (xf2 2 0), .chainru 3 (xf2 3 4), .red 3 (xf2 5 0), .rowop 3 (xf2 6 0)] ∧ (xf2 2 0).ok false true false false false = true ∧ (∀ d ∈ [chainD, tapD], d.bad = false ∧
      d.src ≠ 2 ∧ clean vecK enVe (d.reads vecK) = true ∧ fitsIn (chainX d).stores = true) ∧ chainD.ruTap = false ∧ tapD.ruTap = true ∧
    clean vecK enVe [(0x1000, 128), (0x1100, 128)] = true := by decide +kernel
/-- A chain over tile 0 as its source, on the core whose tile 0 is live. -/
theorem wit_ChainAndReduction_accum : let b := natLe 8 2 ++ chainB.drop 8
    let d := ChainDesc.parse b
    let k := { glzK with ls := glzK.ls.writeBytes 0x1000 b }
    d.src = 2 ∧ d.bad = false ∧ tileOk false d.accTile = true ∧ (k.tree d.accTile).isSome = true ∧ clean k enVe ((0x1000, 128) :: d.reads k) = true ∧
    fitsIn (chainCalc (on3 k) 3 d (k.tree d.accTile)).stores = true := by decide +kernel
def tapIn (g : RuDesc) : RuIn :=
  { rows := tapD.rows, cols := tapD.cols, isInt := tapD.outElem.isInt, env := { (chainX tapD).env with transpose := false, u0 := g.uBase, v0 := g.vBase }
    vals := (chainX tapD).results.map fun v => if tapD.outMode = 1 ∧ v.2 = false then none else some v.1 }
theorem wit_ChainAndReduction_tap : (xf2 3 4).ok false true true false false = true ∧ clean vecK enRu [(0x1200, 64), (0x1300, 64)] = true ∧
    (let g := RuDesc.parse (ruB 3); g.bad true = false ∧ (match ruReads vecK rn g (tapIn g) with
      | .ok y => fitsIn (ruCalc vecK (chainX tapD).state rn g (tapIn g) y).stores && !(ruCalc vecK (chainX tapD).state rn g (tapIn g) y).sat
      | .error _ => false) = true) ∧ (RuDesc.parse (ruB 0)).bad true = true := by decide +kernel
theorem wit_ChainAndReduction_red : clean vecK enRu [(0x1300, 64)] = true ∧
    (let g := RuDesc.parse (ruB 0); let src := ruStream vecS 3 g none; g.bad false = false ∧ g.src = 0 ∧
      clean vecK enRu (gridRanges g.inElem g.xAddr g.xStride g.rows g.cols) = true ∧ (match ruReads vecK rn g src.1 with
      | .ok y => fitsIn (ruCalc vecK src.2.2 rn g src.1 y).stores && !(ruCalc vecK src.2.2 rn g src.1 y).sat
      | .error _ => false) = true) ∧ (RuDesc.parse (ruB 3)).bad false = true ∧ (RuDesc.parse (ruB 2)).src = 2 := by decide +kernel
/-- The hypotheses of `ROWOP` on a descriptor, without the choice of its operation. -/
def rowHyp (d : RowDesc) (k : Core) : Bool :=
  !d.bad && (!d.writesRows || (gridRanges d.outElem d.outAddr d.outStride d.rows d.len).all fun x => inPart false x.1 x.2) &&
    (if d.statLs then inPart false d.statAddr (8 * d.rows) && (!d.readsStat || isOk (engRead k d.statAddr (8 * d.rows) enRwe)) else inSide false d.statIdx d.rows) &&
    clean k enRwe d.reads
/-- The statistics in local store at 0x3340. -/
def rowStat (b : Bytes) : Bytes := natLe 8 (fieldAt b 0 8 + 2 ^ 22) ++ slice b 8 52 ++ natLe 4 0x3340
theorem wit_ChainAndReduction_row : clean vecK enRwe [(0x1400, 64)] = true ∧ rowHyp (RowDesc.parse (rowB 0 0)) vecK = true ∧
    (RowDesc.parse (rowB 0 0)).sums = false ∧ (RowDesc.parse (rowB 0 0)).op ≠ 3 ∧ rowHyp (RowDesc.parse (rowB 3 0)) vecK = true ∧
    (RowDesc.parse (rowB 3 0)).sums = false ∧ (RowDesc.parse (rowB 3 0)).op = 3 ∧ (RowDesc.parse (rowB 9 0)).bad = true ∧
    (∀ d ∈ [RowDesc.parse (rowB 4 0), RowDesc.parse (rowStat (rowB 4 0))], rowHyp d vecK = true ∧ d.sums = true ∧ (match rowRec vecK rn d with
      | .ok y => decide ((rowSum vecS 3 d y).2 = 0) || inPart false d.auxAddr (rowSum vecS 3 d y).2
      | .error _ => false) = true) ∧ (RowDesc.parse (rowStat (rowB 4 0))).statLs = true := by decide +kernel

theorem wit_PermuteAndShuffle : Runs vecS rn [.vperm 3 ⟨1, 2, 3, 4, 0, 0⟩, .vshuf 3 ⟨1, 2, 3, 0, 9, 15⟩, .vshuf 3 ⟨1, 2, 3, 0, 10, 0⟩] ∧ XFmt.ok ⟨1, 2, 3, 4, 0, 0⟩ true true true true false = true ∧
    XFmt.ok ⟨1, 2, 3, 0, 9, 15⟩ true true true false true = true ∧ XFmt.ok ⟨1, 2, 3, 0, 10, 0⟩ true true true false true = true := by decide +kernel
theorem test_vshuf_transpose : (aft3 (.vshuf 3 ⟨1, 2, 3, 0, 0, 0⟩) (on3 (vecK.setT 2 18 5))).telem 1 33 = 5 := by decide +kernel
theorem test_vunpack_bf16 : let k := aft3 (.vunpack 3 ⟨1, 2, 3, 0, 0, 0⟩) (on3 (vecK.setT 2 0 0x40003F80))
    k.telem 1 1 = 0x40000000 := by decide +kernel
/-- `VPACK` of S4 as its seed, and of S31, whose second register is open; `VUNPACK` into two registers and into one. -/
theorem wit_PackingAndMoves : Runs vecS rn [.vpack 3 ⟨1, 2, 3, 4, 3, 9⟩, .vpack 3 ⟨1, 2, 3, 31, 3, 9⟩, .vunpack 3 ⟨1, 2, 3, 0, 1, 0⟩, .vunpack 3 ⟨1, 2, 1, 0, 1, 0⟩,
      .tld 3 ⟨1, 2, 7, 0, 0, 0⟩, .tst 3 ⟨1, 2, 7, 0, 0, 0⟩, .tld 3 ⟨7, 2, 0, 0, 0, 33⟩, .tst 3 ⟨7, 2, 0, 0, 0, 33⟩,
      .pld 3 ⟨1, 2, 0, 0, 0, 32⟩, .pst 3 ⟨1, 2, 0, 0, 0, 32⟩, .pld 3 ⟨7, 2, 0, 0, 0, 33⟩, .pst 3 ⟨7, 2, 0, 0, 0, 33⟩] ∧
    XFmt.ok ⟨1, 2, 3, 4, 3, 9⟩ true true true true true = true ∧ XFmt.ok ⟨1, 2, 3, 31, 3, 9⟩ true true true true true = true ∧
    (3 : Nat) < 4 ∧ XFmt.ok ⟨1, 2, 3, 0, 1, 0⟩ true true true false true = true ∧ XFmt.ok ⟨1, 2, 1, 0, 1, 0⟩ true true true false true = true ∧
    XFmt.ok ⟨1, 2, 7, 0, 0, 0⟩ true true true false false = true ∧
    (vecK.sreg 2).toNat % 32 = 0 ∧ (∀ n ∈ [0, 2], inPart false 0x1000 (15 * 32 * n + 64) = true ∧
      ∀ i < 16, isOk (engRead vecK (0x1000 + 32 * i * n) 64 enVe) = true) ∧
    XFmt.ok ⟨1, 2, 0, 0, 0, 32⟩ true true false false false = true ∧ isOk (engRead vecK 0x1020 32 enVe) = true ∧
    (vecK.sreg 2 + (33 : BitVec 32).signExtend 64).toNat % 32 ≠ 0 ∧ (XFmt.mk 7 2 0 0 0 33).ok true true false false false = true := by decide +kernel
theorem test_vunpack_open : ((after (.vunpack 3 ⟨1, 2, 1, 0, 1, 0⟩) vecS).freeCtr) = vecS.freeCtr + 256 := by decide +kernel
theorem test_tst_overlap : (aft3 (.tst 3 ⟨1, 2, 0, 0, 0, 0x4000⟩) (on3 ((vecK.setS 2 0).setT 1 240 0xABCD))).ls.read 0x4000 = 0xCD := by decide +kernel
/-- S8 names the first 2 of the side memory's entries. -/
def statK : Core := (vecK.setS 8 (2 ^ 14)).setS 9 0x3000
theorem wit_PackingAndMoves_side : Runs (on3 statK) rn [.statld 3 (xf2 9 8), .statst 3 (xf2 9 8)] ∧
    (xf2 9 8).ok false true true false false = true ∧ inPart false 0x3000 (8 * 2) = true ∧
    inSide false 0 2 = true ∧ (statK.sreg 8).toNat / 2 ^ 13 % 2 ^ 14 = 2 ∧ isOk (engRead statK 0x3000 16 enLsu) = true ∧
    ((statK.setS 8 0).sreg 8).toNat / 2 ^ 13 % 2 ^ 14 = 0 ∧ (on3 statK).lsuCount 3 = 0 ∧
    64 ≤ (on3 { statK with lsu := List.replicate 64 lq }).lsuCount 3 := by decide +kernel
theorem test_statld : (Tab.get 0 (aft3 (.statld 3 (xf2 9 8)) (on3 statK)).side 0) = 0x3F800000 := by decide +kernel
theorem test_statst : (aft3 (.statst 3 (xf2 9 8)) (on3 { statK with side := [(1, 5)] })).ls.readNat 0x3000 16 = 5 * 2 ^ 64 := by decide +kernel
theorem test_tld_tst : let k := aft3 (.tst 3 ⟨1, 2, 7, 0, 0, 0x4000⟩) (on3 (((vecK.setS 2 0).setS 7 2).setT 1 17 0xABCD))
    k.ls.read (0x4000 + 64 + 4) = 0xCD := by decide +kernel
theorem test_pld : (aft3 (.pld 3 ⟨1, 0, 0, 0, 0, 0x3000⟩) vecS).preg 1 = 0x3F800000 := by decide +kernel
theorem test_pst : (aft3 (.pst 3 ⟨1, 0, 0, 0, 0, 0x4000⟩) (on3 (vecK.setP 1 (3 * 2 ^ 248)))).ls.read 0x401F = 3 := by decide +kernel

/-- A table of 4 elements a row on port 0, and a graph of 8 vertices. -/
def tab1 : Table :=
  { id := 6, len := 4, opt := 0, mom32 := false, frozen := false, shared := false, port := 0, eps := 0, rows := 32, scope := 0, narrowest := 0,
    versioned := true, active := true, dir0 := 0x80010000, dir1 := 0x80020000, def0 := 0, def1 := 0, beta1 := 0, beta1c := 0, beta2 := 0, beta2c := 0 }
def graph1 : Graph :=
  { id := 2, form := 0, scope := 0, shared := false, port := 0, planes := 2, vertices := 8, vdir := 0x80030000, ndir := 0x80040000,
    pdir := 0x80050000, nsplit := 0, nsize := 0 }
/-- Blocks of a gather of one row of table 6, of the same with a reserved bit, and of a read of one vertex of graph 2. -/
def gatherB : Bytes := natLe 8 (6 * 16) ++ List.replicate 16 0 ++ natLe 8 0x3000 ++ natLe 4 0 ++ natLe 4 0x3400 ++ List.replicate 24 0
def vreadB : Bytes := natLe 8 (3 + 2 * 16) ++ List.replicate 16 0 ++ natLe 4 0x3000 ++ natLe 4 0x3400 ++ List.replicate 32 0
def reqK : Core := cored [(2, 0x1000), (3, 0x1100), (4, 0x1200), (9, 0x2000)]
  (lsOf [(0x1000, gatherB), (0x1100, List.replicate 64 0xFF), (0x1200, vreadB), (0x3000, natLe 4 3)])
def reqS : State := ((on3 reqK).setTable 6 (some tab1)).setGraph 2 (some graph1)
theorem wit_RequestIssue : Runs reqS rn [.sift 3 (xf2 2 9), .sift 3 (xf2 3 9), .nureq 3 (xf2 4 9)] ∧ Asks reqS 3 rn (xf2 2 9) .sift 64 ∧ siftBad gatherB = false ∧ (SiftBlk.parse gatherB).op = 0 ∧
    reqS.tableOf (SiftBlk.parse gatherB).table = some tab1 ∧ (on3 reqK).tableOf (SiftBlk.parse gatherB).table = none ∧
    reqS.tableAccess 0 6 false = 0 ∧ inPart false (SiftBlk.parse gatherB).outAddr ((SiftBlk.parse gatherB).count * (SiftBlk.parse gatherB).outStride tab1) = true ∧
    (∀ x ∈ siftReads reqK (SiftBlk.parse gatherB) 4, inPart false x.1 x.2 = true ∧ isOk (engRead reqK x.1 x.2 enLsu) = true) ∧
    Asks reqS 3 rn (xf2 3 9) .sift 64 ∧ siftBad (List.replicate 64 0xFF) = true := by decide +kernel
theorem wit_RequestIssue_nu : Asks reqS 3 rn (xf2 4 9) .nu 64 ∧ nuBad vreadB = false ∧ nuBad (List.replicate 64 0xFF) = true ∧
    (NuBlk.parse vreadB).op = opVertexRead ∧ reqS.graphAccess 0 (NuBlk.parse vreadB).graph false = 0 ∧
    inPart false (NuBlk.parse vreadB).inAddr ((NuBlk.parse vreadB).inSize * (NuBlk.parse vreadB).count) = true ∧
    inPart false (NuBlk.parse vreadB).outAddr ((NuBlk.parse vreadB).outBytes none) = true ∧
    isOk (engRead reqK (NuBlk.parse vreadB).inAddr ((NuBlk.parse vreadB).inSize * (NuBlk.parse vreadB).count) enLsu) = true ∧
    (∀ i < (NuBlk.parse vreadB).count, fieldAt (reqK.ls.readBytes ((NuBlk.parse vreadB).inAddr + (NuBlk.parse vreadB).inSize * i) (NuBlk.parse vreadB).inSize) 5 3 = 0) := by
  decide +kernel

/-- A transfer of one Crumb between 0x80000000 and local store 0x3000, and a block that stores one row of a weight pair. -/
def xferB (dir : Nat) : Bytes := natLe 8 dir ++ natLe 8 0x80000000 ++ natLe 4 0x3000 ++ List.replicate 44 0
def pairB : Bytes := natLe 8 0x80001000 ++ natLe 4 0x3000 ++ natLe 4 1 ++ natLe 4 0 ++ natLe 4 1 ++ List.replicate 8 0
/-- The header of a BF16 pair with k = 2 and n = 4, its column copy at Crumb 3. -/
def pairHdrB : Bytes := natLe 2 1 ++ natLe 4 1 ++ natLe 4 3 ++ natLe 8 3 ++ List.replicate 14 0
def movK : Core := cored [(2, 0x1000), (3, 0x1100), (4, 0x1200), (5, 0x8000), (9, 0x2000)]
  (lsOf [(0x1000, xferB 0), (0x1100, xferB 1), (0x1200, pairB), (0x3000, [0x80, 0x3F, 0, 0x40])])
def movS : State := { on3 movK with dmem := lsOf [(0x80000000, [1, 2, 3]), (0x80001000, pairHdrB)] }
theorem wit_HostAndDeviceTransfers_xfer : Runs movS rn [.xfer 3 (xf2 2 9), .xfer 3 (xf2 3 9), .pairst 3 (xf2 4 9), .hld 3 ⟨1, 5, 0, 0, 0, 0⟩, .hst 3 (xf2 5 9)] ∧
    Asks movS 3 rn (xf2 2 9) .xfer 64 ∧ Asks movS 3 rn (xf2 3 9) .xfer 64 ∧ rn.suppress = [] ∧
    (XferDesc.parse (xferB 0)).bad = false ∧ (XferDesc.parse (xferB 1)).dir = 1 ∧ inPart false 0x3000 32 = true ∧ 0x2000 + 8 ≤ 0x3000 ∧
    (movS.reach 0 0x80000000 32).map (·.2) = some 0 ∧ movS.unitGone 0 = false ∧ isOk (engRead movK 0x3000 32 enLsu) = true := by decide +kernel
theorem test_xfer_in : (aft3 (.xfer 3 (xf2 2 9)) movS).ls.readNat 0x3000 8 = 0x30201 ∧ (aft3 (.xfer 3 (xf2 2 9)) movS).ls.readNat 0x2000 8 = 0x10001 := by decide +kernel
theorem test_xfer_out : (after (.xfer 3 (xf2 3 9)) movS).dmem.readNat 0x80000000 8 = 0x40003F80 := by decide +kernel
theorem wit_HostAndDeviceTransfers_pair : Asks movS 3 rn (xf2 4 9) .pairst 32 ∧ (PairHdr.parse (movS.dread 0x80001000 32).1).isSome = true ∧
    (match PairHdr.parse (movS.dread 0x80001000 32).1 with
      | some h => decide (0 + 1 ≤ h.k ∧ h.rc ≤ 1) && movS.pairRange 0 0x80001000 32 && movS.pairRange 0 0x80001000 (32 * (1 + h.k * h.rc)) &&
          movS.pairRange 0 (0x80001000 + 32 * h.colOff) (32 * h.n * h.cc) && inPart false 0x3000 (rowsExtent 1 1 (h.elem.rowBytes h.n)) &&
          isOk (engRead movK 0x3000 (h.elem.rowBytes h.n) enLsu)
      | none => false) = true := by decide +kernel
theorem wit_HostAndDeviceTransfers_host : (⟨1, 5, 0, 0, 0, 0⟩ : XFmt).ok true true false false false = true ∧ (xf2 5 0).ok true true false false false = true ∧ (xf2 5 9).ok false true true false false = true ∧
    movS.hostCached 0 0x8000 8 = none ∧ movS.hostGone 0 = true ∧
    (movS.setPort 0 { released := true, perst := false, linkUp := true }).hostGone 0 = false := by decide +kernel

def tabO : Table := { tab1 with opt := 1 }
/-- Blocks of an update and of a sum of one row in one bag, whose offsets lie at 0x3800 or, out of order, at 0x3900, and of an `APPLY`. -/
def bagB (op off : Nat) : Bytes := natLe 8 (op + 6 * 16) ++ List.replicate 16 0 ++ natLe 4 0x3000 ++ natLe 4 off ++ natLe 4 0 ++ natLe 4 0x3400 ++ List.replicate 24 0
def bagK : Core := { reqK with ls := (reqK.ls.writeBytes 0x1000 (bagB 4 0x3800)).writeBytes 0x3800 (natLe 4 0 ++ natLe 4 1) |>.writeBytes 0x3900 (natLe 4 1 ++ natLe 4 1) }
def bagS (t : Table) : State := (on3 bagK).setTable 6 (some t)
theorem wit_RequestIssue_lists : Asks (bagS tabO) 3 rn (xf2 2 9) .sift 64 ∧ (∀ op ∈ [1, 4], siftBad (bagB op 0x3800) = false ∧
      (let b := SiftBlk.parse (bagB op 0x3800); b.bags = true ∧ inPart false b.offAddr (4 * (b.count + 1)) = true ∧
        isOk (engRead bagK b.offAddr (4 * (b.count + 1)) enLsu) = true ∧ (bagK.siftOffsets b) = [0, 1] ∧ offsetsOk [0, 1] = true ∧ ¬ 2 ^ b.depth ≤ b.gradBase + 1 - 1 ∧
        ∀ x ∈ siftReads bagK b 4, inPart false x.1 x.2 = true ∧ isOk (engRead bagK x.1 x.2 enLsu) = true)) ∧
    (bagK.siftOffsets (SiftBlk.parse (bagB 4 0x3900))).headD 0 ≠ 0 ∧ (bagS tab1).tableAccess 0 6 true = 0 ∧ (on3 bagK).tableAccess 0 6 true ≠ 0 ∧
    (SiftBlk.parse (bagB 4 0x3800)).op = 4 ∧ tab1.opt = 0 ∧ tabO.opt ≠ 0 := by decide +kernel
/-- A block of an aggregation of one list of graph 2 over table 6, and one that writes one vertex, whose entry lies at 0x3000. -/
def nuB (op : Nat) : Bytes := natLe 8 (op + 2 * 16) ++ List.replicate 16 0 ++ natLe 4 0x3000 ++ natLe 4 (if op = 1 then 0x3400 else 0) ++ List.replicate 24 0 ++ natLe 8 (if op = 1 then 6 else 0)
theorem wit_RequestIssue_nu_lists : (on3 reqK).graphAccess 0 2 false ≠ 0 ∧ nuBad (nuB 4) = false ∧ (NuBlk.parse (nuB 4)).op = opVertexWrite ∧
    reqS.graphAccess 0 2 true = 0 ∧ nuBad (nuB 1) = false ∧ (NuBlk.parse (nuB 1)).op = opAggregate ∧ (NuBlk.parse (nuB 1)).table = 6 ∧ reqS.tableAccess 0 6 false = 0 ∧
    (reqS.setTable 6 none).tableAccess 0 6 false ≠ 0 ∧
    (let k := { reqK with ls := (reqK.ls.writeBytes 0x1200 (nuB 4)).write 0x3006 1 }; let s := (on3 k).setGraph 2 (some graph1)
     Asks s 3 rn (xf2 4 9) .nu 64 ∧ (NuBlk.parse (nuB 4)).inSize = 32 ∧ fieldAt (k.ls.readBytes 0x3000 32) 5 3 ≠ 0 ∧
       isOk (engRead k 0x3000 32 enLsu) = true) := by decide +kernel
/-- A transfer of n Crumbs in direction d at address a. -/
def xferAt (d n a : Nat) : Bytes := natLe 8 (d + 16 * (n - 1)) ++ natLe 8 a ++ natLe 4 0x3000 ++ List.replicate 44 0
def hostS : State := movS.setPort 0 { released := true, perst := false, linkUp := true }
theorem wit_HostAndDeviceTransfers_forms : (XferDesc.parse (xferAt 4 1 0)).bad = true ∧
    (∀ x ∈ [xferAt 0 1 (2 ^ 45), xferAt 1 1 (2 ^ 45), xferAt 1 1 0x180000000000, xferAt 1 128 0x180000000000, xferAt 2 1 0x9000, xferAt 3 1 0x9000],
      (XferDesc.parse x).bad = false ∧ inPart false (XferDesc.parse x).ls (32 * (XferDesc.parse x).crumbs) = true ∧
      isOk (engRead movK 0x3000 (32 * (XferDesc.parse x).crumbs) enLsu) = true) ∧
    movS.reach 0 (2 ^ 45) 32 = none ∧ ((movS.reach 0 0x180000000000 4096).map fun x => unitTier x.2) = some 2 ∧
    ((movS.reach 0 0x180000000000 32).map fun x => unitTier x.2) = some 2 ∧ 0x180000000000 % 4096 = 0 ∧ movS.hostGone 0 = true ∧ hostS.hostGone 0 = false := by
  decide +kernel
/-- Host line 256 of port 0 in the die cache, and no staging buffer free with one write on its way. -/
def cachedS : State := { hostS with cache := [⟨1, 256, false, false, List.replicate 128 7⟩] }
def writeAcc : HostAcc :=
  { id := 5, port := 0, fn := 0, pasid := none, addr := 0x9000, len := 8, kind := .write [] false, why := .hst 3, st := .queued, since := 0, item := ⟨1, 0⟩ }
def stuckS : State := { hostS with regs := (List.range 128).map fun k => (regKey none (0x11080 + 8 * k), some (2 ^ 64 - 1)), accs := [writeAcc] }
theorem wit_HostAndDeviceTransfers_words : cachedS.hostCached 0 0x8000 8 = some (List.replicate 8 7) ∧ hostS.hostCached 0 0x8000 8 = none ∧
    stuckS.writesFull 0 = true ∧ hostS.writesFull 0 = false ∧ hostS.lsuCount 3 = 0 ∧ ([4] : List Nat)[rn.effects.length]? = some 4 := by decide +kernel

/-- A pass of one Crumb to positions 4 and 5 of the cluster, with a flag. -/
def passK : Core := cored [(2, 0x3000 + 0x4000 * 2 ^ 22), (3, 4 + 5 * 16 + 256 + 0x5000 * 2 ^ 32), (4, 77)] (lsOf [(0x3000, [9])])
def passF : XFmt := { d := 0, a := 2, b := 3, c := 4, sub := 0, imm := 0 }
theorem wit_ChainPasses : Runs (on3 passK) rn [.pass 3 passF] ∧ passF.ok false true true true false = true ∧ (passK.sreg 3).toNat % 16 ≤ (passK.sreg 3).toNat / 16 % 16 ∧
    inPart false 0x3000 32 = true ∧ inPart false 0x4000 32 = true ∧ (passK.sreg 3).toNat / 256 % 2 = 1 ∧ inPart false 0x5000 8 = true ∧
    isOk (engRead passK 0x3000 32 enLsu) = true ∧ (∃ p : Pass, ((after (.pass 3 passF) (on3 passK)).core 5).passes = [p] ∧ p.crumbs.length = 1) := by
  refine ⟨by decide +kernel, by decide +kernel, by decide +kernel, by decide +kernel, by decide +kernel, by decide +kernel, by decide +kernel, by decide +kernel,
    { dst := 0x4000, crumbs := [9 :: List.replicate 31 0], flag := some (0x5000, 77) }, by decide +kernel⟩
theorem test_pass_arrival : let k := (after (.chainPassArrival 5 1) (after (.pass 3 passF) (on3 passK))).core 5
    (k.ls.read 0x4000, k.ls.readNat 0x5000 8, k.chainCount) = (9, 77, 1) := by decide +kernel

/-! ### Witnesses: Sifters, neighbourhood units, windows, dispatch, streams -/

/-- The state with a gather outstanding at core 3, the one with a vertex read, and the request of each. -/
def gatS : State := after (.sift 3 (xf2 2 9)) reqS
def nuS : State := after (.nureq 3 (xf2 4 9)) reqS
def gatQ : LsuReq := (gatS.reqOf 3 0).getD lq
def nuQ : LsuReq := (nuS.reqOf 3 0).getD lq
theorem wit_SifterAndNuWorkStarts : gatS.running = true ∧ gatS.reqOf 3 0 = some gatQ ∧ gatQ.kind = .sift ∧ gatQ.served = false ∧ (3, 0) ∉ gatS.queue ∧
    fieldAt gatQ.block 0 1 % 16 = 0 ∧ gatQ.prog = {} ∧ (gatS.setTable 6 none).tableOf (SiftBlk.parse gatQ.block).table = none ∧
    nuS.running = true ∧ nuS.reqOf 3 0 = some nuQ ∧ nuQ.kind = .nu ∧ nuQ.served = false ∧ (3, 0) ∉ nuS.queue ∧ fieldAt nuQ.block 0 1 % 16 = 3 ∧
    (nuS.setGraph 2 none).graphOf (NuBlk.parse nuQ.block).graph = none := by decide +kernel

/-- A window of table 6 with one contribution to row 3 of index 0, open or waiting. -/
def contrib1 : Contrib := { row := some 3, idx := 0, term := [0], weighted := false, poisoned := false, sf := 0 }
def win1 (par : Option WinPar) (wait : Option ApplyWait) : Window :=
  { port := 0, table := 6, version := true, par := par, contribs := [contrib1], fwd := [], nodes := [], ranks := [], sorted := [], spoiled := false,
    overflow := false, wait := wait, closed := false }
def updB : Bytes := natLe 8 (4 + 6 * 16) ++ gatherB.drop 8
def updQ : LsuReq := { lq with block := updB, version := true }
def updS (w : Window) : State :=
  { (on3 { reqK with lsu := [updQ] }).setTable 6 (some tab1) with windows := [w] }
theorem wit_SifterAndNuWorkStarts_window : (updS (win1 (some ⟨12, true, 1, 0, 0⟩) none)).reqOf 3 0 = some updQ ∧ updQ.prog = {} ∧
    (SiftBlk.parse updQ.block).op = 4 ∧ (updS (win1 none none)).tableOf (SiftBlk.parse updQ.block).table = some tab1 ∧
    Window.takes updQ.port 6 updQ.version (win1 (some ⟨12, true, 1, 0, 0⟩) none) = true ∧ (⟨12, true, 1, 0, 0⟩ : WinPar) ≠ (SiftBlk.parse updQ.block).winPar := by
  decide +kernel

def lookOf (s : State) (q : LsuReq) : JM (Option Nat) := do
  let b := SiftBlk.parse q.block
  match ← JM.lookup q.port b tab1 q.version ((s.core 3).siftEntries b tab1.len) false with
  | none => pure none
  | some v => some <$> JM.deliverLookup 3 q v [] fun g => (s.core 3).bagLen b g
def lookRun : Option (Option Nat) × Job := (lookOf gatS gatQ).run (Job.start { gatS with queue := gatS.queue ++ [(3, 0)] } (3, 0) 0)
def vreadRun : Option (Nat × Nat) × Job :=
  (JM.vertexRead 3 nuQ graph1 (NuBlk.parse nuQ.block)).run (Job.start { nuS with queue := nuS.queue ++ [(3, 0)] } (3, 0) 0)
theorem wit_SifterAndNuWorkCompletes : lookRun.1 = some (some 1) ∧ lookRun.2.s.accs = [] ∧ lookRun.2.s.flashWrites = [] ∧ lookRun.2.s.reqOf 3 0 = some gatQ ∧
    ((lookRun.2.s.core 3).run.bind (·.stall)) = none ∧ gatS.tableOf (SiftBlk.parse gatQ.block).table = some tab1 ∧ (SiftBlk.parse gatQ.block).op = 0 := by
  decide +kernel
theorem wit_SifterAndNuWorkCompletes_nu : vreadRun.1 = some (0, 0) ∧ vreadRun.2.s.accs = [] ∧ vreadRun.2.s.flashWrites = [] ∧ vreadRun.2.s.reqOf 3 0 = some nuQ ∧
    ((vreadRun.2.s.core 3).run.bind (·.stall)) = none ∧ nuS.graphOf (NuBlk.parse nuQ.block).graph = some graph1 ∧ (NuBlk.parse nuQ.block).op = 3 := by
  decide +kernel

/-- Row 3 of table 6 lies in a present block of stack 0, in a Sifter region of 16 MiB at offset 2^32. -/
def presentS : State :=
  ((({ updS (win1 none none) with dmem := lsOf [(0x80020000, natLe 8 (2 ^ 4 + 2 ^ 27 * 2 ^ 8))] } : State).setReg (regKey none 0x20000) (2 ^ 32)).setReg
    (regKey none 0x20008) (2 ^ 24))
theorem wit_UpdateAndApply_deposit : presentS.rowHome tab1 false 3 = presentS.devId ∧ (presentS.rowLoc tab1 true false 3).dflt = false ∧
    (presentS.rowLoc tab1 true false 5).dflt = false ∧ presentS.windows = [win1 none none] ∧ Window.takes 0 6 true (win1 none none) = true ∧
    (∀ y ∈ (win1 none none).contribs, y.row ≠ some 5 ∨ y.idx ≠ (SiftBlk.parse updB).gradBase + 0) ∧
    (∃ y ∈ (win1 none none).contribs, y.row = some 3 ∧ y.idx = (SiftBlk.parse updB).gradBase + 0) := by decide +kernel
theorem wit_UpdateAndApply_timeout : let s := { updS (win1 none (some ⟨3, 0, 3, 10, 100⟩)) with ticks := 110 }
    s.windows = [win1 none (some ⟨3, 0, 3, 10, 100⟩)] ∧ s.reqOf 3 0 = some updQ ∧ ([] : List Nat).length + 1 < 3 ∧ 10 + 100 ≤ s.ticks := by decide +kernel

/-- Core 3's request to write row 3, whose values are at 0x3000, and to apply the window of `win1`. -/
def rowsB : Bytes := natLe 8 (6 + 6 * 16) ++ List.replicate 16 0 ++ natLe 4 0x3400 ++ natLe 4 0 ++ natLe 4 0x3000 ++ List.replicate 28 0
def applyB : Bytes := natLe 8 (5 + 6 * 16) ++ List.replicate 36 0 ++ natLe 4 1 ++ List.replicate 16 0
/-- Row 3 present as in `presentS`, core 3 with one request of the block given, and the window given. -/
def rowS (b : Bytes) (w : List Window) : State :=
  { presentS.setCore 3 { reqK with ls := reqK.ls.writeBytes 0x3400 (natLe 4 3), lsu := [{ updQ with block := b }] } with windows := w }
def rowQ (b : Bytes) : LsuReq := { updQ with block := b }
def rowRun : Option Nat × Job :=
  let s := rowS rowsB []
  (JM.rowWrites 0 (SiftBlk.parse rowsB) tab1 true ((s.core 3).siftEntries (SiftBlk.parse rowsB) 4) false).run (Job.start { s with queue := [(3, 0)] } (3, 0) 0)
theorem wit_SifterAndNuWorkCompletes_rows : (rowS rowsB []).running = true ∧ (rowS rowsB []).reqOf 3 0 = some (rowQ rowsB) ∧ (SiftBlk.parse rowsB).op = 6 ∧
    (rowS rowsB []).tableOf 6 = some tab1 ∧ rowRun.1 = some 0 ∧ rowRun.2.s.accs = [] ∧ rowRun.2.s.flashWrites = [] ∧ rowRun.2.s.reqOf 3 0 = some (rowQ rowsB) ∧
    ((rowRun.2.s.core 3).run.bind (·.stall)) = none := by decide +kernel
def applyS : State := rowS applyB [win1 none none]
def applyW : Window := win1 none (some ⟨3, 0, 1, 0, applyS.windowLimit⟩)
def applyRun : Option Nat × Job :=
  (JM.applyRows tab1 applyW (SiftBlk.parse applyB)).run (Job.start (State.sendWindow { applyS with queue := [(3, 0)], windows := [applyW] } tab1 applyW) (3, 0) 0)
theorem wit_UpdateAndApply_done : applyS.running = true ∧ applyS.reqOf 3 0 = some (rowQ applyB) ∧ fieldAt applyB 0 1 % 16 = 5 ∧ applyS.windows = [win1 none none] ∧
    (win1 none none).spoiled = false ∧ (SiftBlk.parse applyB).ranks ≤ 1 ∧ applyS.ticks = 0 ∧ applyRun.1.isSome = true ∧ applyRun.2.s.accs = [] ∧
    applyRun.2.s.flashWrites = [] ∧ applyRun.2.s.reqOf 3 0 = some (rowQ applyB) ∧ ((applyRun.2.s.core 3).run.bind (·.stall)) = none ∧
    (let s := rowS updB []; s.reqOf 3 0 = some (rowQ updB) ∧ s.shardMoving tab1.scope ((s.rowLoc tab1 true false 3).shard tab1) = false ∧ s.accs = [] ∧ s.flashWrites = [] ∧
      s.windows = []) := by decide +kernel

theorem wit_ItemDispatch : up.running = true ∧ up.settle.nextStart = none ∧ readyS.settle.nextStart = some (⟨1, 0⟩, 0) := by decide +kernel
/-- Every core of the device busy with a background run, and an express item ready on core 0's image. -/
def preS : State :=
  { up with cores := (List.range 128).map fun c => (c, { run := some { rn with cls := .background }, tagExpress := some (codeTag 0 5) }),
            insts := [{ inst1 with items := [{ item1 with cls := .express }] }], readyQ := [⟨1, 0⟩] }
theorem wit_ItemDispatch_preempt : preS.running = true ∧ (preS.settle.nextStart.map (·.1)) = some ⟨1, 0⟩ ∧
    (∃ c : Fin 128, preS.settle.nextStart = some (⟨1, 0⟩, c.val) ∧ ((preS.settle.core c.val).run.map (·.cls)) = some .background) := by
  refine ⟨by decide +kernel, by decide +kernel, 0, by decide +kernel, by decide +kernel⟩
/-- A group of one item that has asked for a re-run. -/
def groupS : State :=
  { up with insts := [{ inst1 with items := [{ item1 with rcd := { rec1 with group := 4, dep := some (true, 1) }, st := .ended 5 0, rerun := true, depInit := 2 }] }] }
theorem wit_ItemDispatch_group : ∃ i, groupS.instOf 1 = some i ∧ i.rerunDue (4 : BitVec 8).toNat = true ∧ groupS.running = true :=
  ⟨_, rfl, by decide +kernel, by decide +kernel⟩
theorem test_group_rerun : let t := after (.groupRerun 1 4) groupS
    ((t.itemOf ⟨1, 0⟩).map (·.preShift), (t.itemOf ⟨1, 0⟩).map (·.st), (t.sync 1).count) = (some 1, some .waiting, 2) := by decide +kernel

/-- Stream 12, of core 3: its list at 0x80000000 has a transfer of 4 Crumbs from 0x80002000 and a stop. -/
def strList : Bytes := natLe 8 (3 * 8) ++ natLe 8 0x80002000 ++ List.replicate 48 0 ++ natLe 8 2 ++ List.replicate 56 0
def strS (g : Gen) : State :=
  { (on3 (cored [(2, 12), (3, 2), (4, 16)] [])).setStrm 12 { gens := [g] } with dmem := lsOf [(0x80000000, strList), (0x80002000, [0xAA])] }
def genA : Gen := { gen3 with list := 0x80000000, buf := 0x4000, bufLog := 4, delivered := 3, requested := 3 }
theorem wit_StreamCommands_consume : Runs (strS genA) rn [.sconsume 3 (xf2 2 3)] ∧ (xf2 2 3).ok false true true false false = true ∧ ((strS genA).core 3).sreg 2 = 12 ∧
    (12 : Nat) / 4 = 3 ∧ ((strS genA).strm 12).gens = [genA] ∧ genA.started = true ∧ genA.consumed + 2 ≤ genA.delivered ∧
    ((((strS genA).core 3).sreg 4).toNat % 65536) / 4 ≠ 3 := by decide +kernel
def genB : Gen := { genA with delivered := 0, requested := 1, within := 1, asked := [(0, false, 0x80002000)] }
theorem wit_StreamCommands_unit : ((rangeFrom 0 64).foldl State.seek (strS { genA with delivered := 0, requested := 0 })).grantee 0 = some 12 ∧
    ((rangeFrom 64 64).foldl State.seek (strS genA)).grantee 1 = none ∧ ((strS genB).strm 12).delivering = some genB ∧
    genB.asked.find? (fun x => x.1 == 0) = some (0, false, 0x80002000) ∧ ((strS genB).kindOf 0x80002000 32).isSome = true ∧
    ((strS { genB with started := false }).seek 12 |>.strm 12).gens = [{ genB with started := false }] := by decide +kernel
def strAcc : HostAcc :=
  { id := 5, port := 0, fn := 0, pasid := none, addr := 0x9000, len := 32, kind := .read, why := .stream 12 (.ring 0 0) 0, st := .sent, since := 0, item := ⟨0, 0⟩ }
theorem wit_StreamCommands_host : let s := { strS { genB with asked := [(0, true, 0x9000)] } with accs := [strAcc] }
    ((s.strm 12).asker 0).map (·.2) = some (true, 0x9000) ∧ (((strS genB).strm 12).asker 0).map (·.2) = some (false, 0x80002000) ∧
    s.accs.find? (fun x => x.why == .stream 12 (.ring 0 0) 0 && x.st == .sent) = some strAcc ∧ (s.strm 12).asker 7 = none := by decide +kernel
/-- A generation at its list's end with one Crumb outstanding that is not the last requested. -/
def genC : Gen := { genA with list := 0x80000040, delivered := 0, requested := 2, asked := [(0, false, 0x80002000), (1, false, 0x80002020)] }
theorem wit_StreamCommands_deliver : ((strS genC).strm 12).gens = [genC] ∧ genC.delivering = true ∧ (List.replicate 32 (7#8)).length = 32 ∧ genC.arrived = [] ∧
    genC.entry = 0 ∧ (strS genC).entryOf ((strS genC).streamPort 12) { genC with asked := genC.asked.filter (fun a => a.1 != 0), delivered := 1 } = .stop ∧
    genC.requested ≠ 0 + 1 := by decide +kernel
theorem test_stream_crumb : let t := after (.streamCrumbDelivered 12 0 []) (strS genC)
    ((t.core 3).ls.read 0x4000, ((t.strm 12).gens.map (·.delivered))) = (0xAA, [1]) := by decide +kernel

/-- A generation that has requested its whole transfer, and one that waits for it, in a buffer apart from its own or in its own. -/
def genD : Gen := { genA with list := 0x80000040, delivered := 2, asked := [(2, false, 0x80002040)] }
def genQ (buf : Nat) : Gen := { genA with src := .ring 0 1, buf := buf, started := false, delivered := 0, requested := 0 }
def genS (l : List Gen) : State := (strS genA).setStrm 12 { gens := l }
theorem wit_StreamCommands_start : (((genS [genQ 0x8000]).seek 12).strm 12).gens = [genQ 0x8000] ∧ (((genS [genQ 0x8000]).seek 12).strm 12).waiting = [] ∧
    (let s := (genS [genD, genQ 0x8000]).seek 12; (s.strm 12).gens = [genD, genQ 0x8000] ∧ s.entryOf (s.streamPort 12) genD = .stop ∧
      meets (0x4000, 32 * 16) 0x8000 (32 * 16) = false) ∧
    (let s := (genS [genD, genQ 0x4000]).seek 12; (s.strm 12).gens = [genD, genQ 0x4000] ∧ meets (0x4000, 32 * 16) 0x4000 (32 * 16) = true ∧
      ¬ genD.requested ≤ genD.consumed) ∧
    (let s := (genS [genA, genQ 0x8000]).seek 12; (s.strm 12).gens = [genA, genQ 0x8000] ∧ s.entryOf (s.streamPort 12) genA ≠ .stop) := by decide +kernel
def genF : Gen := { genA with delivered := 0, requested := 0 }
theorem wit_StreamCommands_request : ((strS genF).strm 12).gens = [genF] ∧ ((strS genF).eligible 12).map (fun x => (x.1, x.2.1)) = some (4, 0) := by
  decide +kernel
theorem wit_StreamCommands_entry : (match (strS genF).entryOf ((strS genF).streamPort 12) genF with
      | .transfer false _ _ _ _ _ _ _ _ => true
      | _ => false) = true := by decide +kernel
theorem wit_StreamCommands_excess : (strS genA).lsuCount 3 = 0 ∧ genA.delivered < genA.consumed + 4 := by decide +kernel

/-! ### Witnesses: rings and descriptors -/

/-- The block set up, with both ports in service. -/
def port1 : Port :=
  { phase := .service, released := true, perst := false, linkUp := true, enumerated := true, fns := [(0, { bme := true, atomicEn := true })] }
def upL : State := { up with locked := true, ports := [(0, port1), (1, port1)] }
/-- A pod of devices 0 and 5, of which this is device 0. -/
def podS (s : State) : State := (s.setReg (regKey none 0x30000) (2 * 2 ^ 24)).setReg (regKey none 0x30108) 5
/-- Ring 0 of port 0: 16 entries each way, and the state with it. -/
def ring0 : Ring := { w0 := 0x10004, w1 := 0x20004, st := .active }
def ringS (g : Ring) : State := upL.setRing 0 g
/-- A descriptor at position 3 of ring 0, and the state with it. -/
def dl (op : BitVec 8) (body : Bytes) : Live :=
  { pos := 3, entry := [op] ++ List.replicate 7 0 ++ body ++ List.replicate (56 - body.length) 0, ext := none, acceptedAt := 0, begun := false,
    base := 0, syncs := 0, items := 0, slot := 0, reads := 0 }
def withD (x : Live) (s : State) : State := s.setRing 0 { ring0 with live := [x] }
def dS (op : BitVec 8) (body : Bytes) : State := withD (dl op body) upL
/-- The first doorbell of port 0. -/
def door : DoorAddr := ⟨0, 0, 0, 0, 4⟩

theorem wit_RingControl_enable : let s := ringS { ring0 with st := .idle }
    s.fnOpen 0 0 = true ∧ s.ringReached 0 0 0 = true ∧ (s.ring 0).st = .idle ∧ s.unitLost 0 0 = false ∧ s.locked = true ∧
    s.ringInRange 0 = true ∧ (s.ring 0).timed = false ∧ (ringS {}).ringInRange 0 = false ∧ (ringS {}).fnOpen 0 0 = true ∧
    ({ s with locked := false } : State).fnOpen 0 0 = true := by decide +kernel
theorem wit_RingControl_disable : (dS 0 []).fnOpen 0 0 = true ∧ (dS 0 []).ringReached 0 0 0 = true ∧ ((dS 0 []).ring 0).st = .active ∧
    ((dS 0 []).ring 0).live ≠ [] ∧ ((ringS ring0).ring 0).live = [] ∧ ((ringS ring0).ring 0).ctrAddr = 0 := by decide +kernel
def irqRing : Ring := { ring0 with w3 := 2 ^ 35 + 0x200000, w4 := 5, pending := 1, pendingSince := 10 }
theorem wit_RingControl_irq : let s := { ringS irqRing with ticks := 15 }
    s.running = true ∧ (s.ring 0).irqCount ≠ 0 ∧ (s.ring 0).irqTicks ≠ 0 ∧ 0 < (s.ring 0).pending ∧ (s.ring 0).pendingSince + (s.ring 0).irqTicks ≤ s.ticks ∧
    (14 : Nat) < irqRing.pendingSince + irqRing.irqTicks := by decide +kernel
theorem wit_RingControl_door : let s := ringS { ring0 with cqTail := 2 }
    s.barOpen 0 0 = true ∧ s.doorRing door = some 0 ∧ (s.ring 0).st = .active ∧ ((16 : BitVec 32) - (s.ring 0).sqTail).toNat < 2 ^ 31 ∧
    ((16 : BitVec 32) - (s.ring 0).sqHead).toNat ≤ 2 ^ (s.ring 0).sqLog2 ∧ 2 ^ (s.ring 0).sqLog2 < ((17 : BitVec 32) - (s.ring 0).sqHead).toNat ∧
    ((2 : BitVec 32) - (s.ring 0).cqHead).toNat ≤ ((s.ring 0).cqTail - (s.ring 0).cqHead).toNat ∧
    ((s.ring 0).cqTail - (s.ring 0).cqHead).toNat < ((3 : BitVec 32) - (s.ring 0).cqHead).toNat := by decide +kernel

/-- A ring that port loss has orphaned, on a port that has quiesced and on one where an instance of it remains. -/
def orphan : Ring := { ring0 with st := .orphaned }
theorem wit_RingControl_refused : ((ringS orphan).ring 0).st = .orphaned ∧ (ringS orphan).quiesced 0 = true ∧ (ringS orphan).ringInRange 0 = true ∧
    ({ ringS orphan with insts := [{ inst1 with orphaned := true }] } : State).quiesced 0 = false ∧ (ringS {}).ringInRange 0 = false ∧ (ringS {}).unitLost 0 0 = false ∧
    (let g : Ring := { ring0 with st := .idle, w3 := 2 ^ 35 + 0x200000, w4 := 2 ^ 32 }; let s := (ringS g).setRing 1 { g with st := .active }
     s.ringInRange 0 = true ∧ (s.ring 0).timed = true ∧ s.timerOfRing 0 (s.ring 0).timer = true) ∧
    ({ ringS { ring0 with st := .idle } with locked := false } : State).unitLost 0 0 = false := by decide +kernel
theorem wit_RingControl_dropped : (ringS orphan).barOpen 0 0 = true ∧ (ringS orphan).doorRing door = some 0 ∧ ((ringS orphan).ring 0).st ≠ .active ∧
    ((ringS orphan).ring 0).st = .orphaned ∧ (ringS ring0).doorRing { door with size := 8 } = some 0 ∧ 2 ^ 31 ≤ ((2 ^ 31 : BitVec 32) - ring0.sqTail).toNat := by decide +kernel

/-- Core 3 runs item 0 of instance 1 with a request outstanding. -/
def mcS (n : Nat) : State :=
  { busy3 with insts := [{ inst1 with items := [{ item1 with st := .inService 3, checked := n }] }], ticks := 7 }
theorem wit_MachineCheckResults : (∀ n ∈ [0, 1], (mcS n).issuing 3 = some rn ∧ ((mcS n).itemOf rn.item).map (·.checked) = some n ∧ (mcS n).assisted 1 = false ∧
    (mcS n).outstanding 3 rn.item = true ∧ ((mcS n).core 3).checks = [] ∧ 1 < (mcS n).climbCount 1) ∧ up.issuing 3 = none := by decide +kernel
theorem test_machine_check : (aft3 (.machineCheck 3 5 (some 3)) (mcS 0)).run.map (fun r => (r.retry, r.stall)) = some (true, some (.ending 0)) := by
  decide +kernel

/-- Ring 0 with n entries to read. -/
def readS (n : BitVec 32) : State := ringS { ring0 with sqTail := n }
def ansB (b : Bytes) : HostAns := ⟨b ++ List.replicate (128 - b.length) 0, none⟩
theorem wit_DescriptorIntake_read : (readS 1).running = true ∧ (readS 1).nextRing = some 0 ∧ (hostWhole (ansB [0]) 64).isSome = true ∧
    ((hostWhole (ansB [0]) 64).map fun b => (fieldAt b 0 8).testBit 8) = some false ∧
    ((hostWhole (ansB [9, 1]) 64).map fun b => (fieldAt b 0 8).testBit 8) = some true ∧ (readS 2).nextRing = some 0 ∧
    2 ≤ (((readS 2).ring 0).sqTail - ((readS 2).ring 0).sqHead).toNat ∧ hostWhole ⟨[], some .timeout⟩ 64 = none := by decide +kernel
def headS (e : Live) : State := ringS { ring0 with head := some e }
def launchE : Live := dl 9 (natLe 8 5)
def prog1 : Program := { code := 0x80000000, crumbs := 1, syncTmpl := 0x80001000, syncCount := 1, items := [] }
/-- Port 0 has no item-store entries, and program 5 has three items. -/
def fullS : State :=
  ((headS launchE).setProg 0 5 (some { prog1 with syncCount := 0, items := List.replicate 3 rec1 })).setReg (regKey none 0x11800) 0
theorem wit_DescriptorIntake_accept : (headS (dl 0xEE [])).running = true ∧ ((headS (dl 0 [])).ring 0).acceptable (dl 0 []) = true ∧
    (dl 0xEE []).headBad = true ∧ ((headS (dl 0xEE [])).ring 0).acceptable (dl 0xEE []) = true ∧ (dl 0 []).headBad = false ∧
    (headS (dl 0 [])).makesExpress 0 (dl 0 []) = false ∧ (headS (dl 0 [])).reserve 0 (dl 0 []) = some (dl 0 []) ∧
    fullS.makesExpress 0 launchE = false ∧ launchE.headBad = false ∧ fullS.reserve 0 launchE = none := by decide +kernel

theorem wit_PlainDescriptors : ((dS 0 []).ring 0).live.find? (fun e => e.pos == 3) = some (dl 0 []) ∧ (dS 0 []).descOf 0 3 0 = some (dl 0 []) ∧
    unnamed (dl 0 []).entry [] = false ∧ unnamed (dl 0 [1]).entry [] = true ∧ (dS 0 [1]).descOf 0 3 0 = some (dl 0 [1]) ∧
    (dS 1 [1]).descOf 0 3 1 = some (dl 1 [1]) ∧ unnamed (dl 1 [1]).entry [(64, 1)] = false ∧ ((dS 1 [1]).ring 0).live.head?.map (·.pos) = some 3 ∧
    (dS 2 []).descOf 0 3 2 = some (dl 2 []) ∧ (dS 5 []).descOf 0 3 5 = some (dl 5 []) := by decide +kernel
def atomB : Bytes := natLe 8 0x1008 ++ natLe 8 7 ++ natLe 8 9 ++ natLe 8 3
theorem wit_PlainDescriptors_atomic : let s := dS 3 atomB; let x := dl 3 atomB
    s.descOf 0 3 3 = some x ∧ unnamed x.entry [(64, 64), (128, 64), (192, 64), (256, 2)] = false ∧ (s.fnc 0 0).atomicEn = true ∧ s.hostGone 0 = false ∧
    (fieldAt x.entry 32 8).testBit 1 = true ∧ fieldAt x.entry 8 8 % 8 = 0 := by decide +kernel
theorem wit_PlainDescriptors_sync : let b := natLe 4 77 ++ natLe 4 5; let s := dS 4 b; let x := dl 4 b
    s.descOf 0 3 4 = some x ∧ unnamed x.entry [(64, 14), (96, 32)] = false ∧ s.owns 0 0 .sync 77 = true := by decide +kernel

/-- A record of a program of one item: code at 0x80000000, item table at 0x80003000. -/
def progB : Bytes := natLe 8 0x80000000 ++ natLe 8 0 ++ natLe 8 0x80003000 ++ List.replicate 40 0
def loadB : Bytes := natLe 8 5 ++ natLe 8 0x80002000
def loadS : State := { withD (dl 8 loadB) upL with dmem := lsOf [(0x80002000, progB)] }
theorem wit_ProgramDescriptors_load : loadS.descOf 0 3 8 = some (dl 8 loadB) ∧ unnamed (dl 8 loadB).entry [(64, 11), (128, 64)] = false ∧
    loadS.programLive 0 5 = false ∧ loadS.programBound 0 5 = false ∧ (loadS.readProgram 0 0x80002000).isSome = true ∧
    ({ loadS with dmem := [] } : State).readProgram 0 0x80002001 = none := by decide +kernel
def startB : Bytes := natLe 8 5 ++ natLe 8 0x1234 ++ natLe 8 0x80004000
def startS (x : Live) : State := (withD x upL).setProg 0 5 (some prog1)
theorem wit_ProgramDescriptors_launch : let x := dl 9 startB
    (startS x).descOf 0 3 9 = some x ∧ (startS x).prog 0 5 = some prog1 ∧ unnamed x.entry [(64, 11), (128, 64), (192, 64)] = false ∧
    extBad x.ext = false ∧ fieldAt x.entry 24 8 % 64 = 0 := by decide +kernel
/-- A training step over one version record at 0x80005000, named by the array at 0x80004000. -/
def trainB : Bytes := natLe 8 5 ++ natLe 8 0x1234 ++ natLe 8 0 ++ natLe 8 0x80004000 ++ natLe 8 1 ++ natLe 8 2
def trainS : State :=
  { startS (dl 10 trainB) with dmem := lsOf [(0x80004000, natLe 8 0x80005000), (0x80005000, natLe 8 (2 * 2 ^ 32)), (0x80005038, natLe 8 (7 * 2 ^ 14))] }
theorem wit_ProgramDescriptors_train : let x := dl 10 trainB
    trainS.descOf 0 3 10 = some x ∧ trainS.prog 0 5 = some prog1 ∧
    unnamed x.entry [(64, 11), (128, 64), (192, 64), (256, 64), (320, 13), (336, 1), (384, 40)] = false ∧ fieldAt x.entry 40 4 % 2 ^ 13 = 1 ∧
    trainS.versionRecs 0 2 0x80004000 1 = some [(7, 0x80005000)] := by decide +kernel
def made : Create := { program := 5, word := 0, result2 := 0, report := 0, ext := none }
def madeX : Live := { launchE with base := 100, syncs := 1 }
theorem wit_ProgramDescriptors_create : prog1.items = [] ∧ (startS madeX).insts = [] ∧ prog1.syncCount = 1 ∧ madeX.base < 16384 ∧
    ((startS madeX).ring 0).live = [madeX] ∧ ((startS madeX).ring 0).st = .active ∧ madeX.op = 9 ∧ made.report = 0 ∧ made.budget = 0 ∧
    made.service = none ∧ made.train = [] := by decide +kernel

def bindB : Bytes := natLe 4 2 ++ natLe 4 5 ++ natLe 8 0x80006000 ++ natLe 4 4 ++ natLe 4 1 ++ natLe 2 6
def svc1 : Service := { program := 5, area := 0x80006000, slots := 4, tables := [6], used := [], unbinding := false }
def svcS (x : Live) (v : Option Service) : State := ((startS x).setSvc 0 2 v).setTable 6 (some tab1)
theorem wit_Service_bind : let x := dl 11 bindB
    (svcS x none).descOf 0 3 11 = some x ∧ (svcS x none).bindBad 0 x.entry = false ∧ (svcS x none).svc 0 2 = none ∧
    (fieldAt x.entry 8 4).testBit 16 = false ∧ (svcS x (some svc1)).bindBad 0 x.entry = false ∧ ((svcS x (some svc1)).svc 0 2).isSome = true := by
  decide +kernel
def reqX : Live := { dl 12 (natLe 8 2) with items := 1, slot := 1 }
theorem wit_Service_request : (svcS reqX (some svc1)).descOf 0 3 12 = some reqX ∧ reqX.items ≠ 0 ∧ (svcS reqX (some svc1)).svc 0 2 = some svc1 ∧
    (svcS reqX (some svc1)).prog 0 5 = some prog1 := by decide +kernel
theorem wit_Service_unbind : let x := dl 13 (natLe 8 2)
    (svcS x (some svc1)).descOf 0 3 13 = some x ∧ unnamed x.entry [(64, 4)] = false ∧ (svcS x (some svc1)).svc 0 2 = some svc1 := by decide +kernel
def heldF (code : Nat) : FaultRec := { code := code, engine := 0, core := 3, pc := 0, insn := 0, item := rn.item }
def heldS (x : Live) (code : Nat) : State := (withD x upL).setCore 3 { run := some rn, held := some (heldF code) }
theorem wit_Item_held : let x := dl 14 (natLe 8 65536); let y := dl 15 (natLe 8 65536)
    (heldS x xIntSat).descOf 0 3 14 = some x ∧ unnamed x.entry [(64, 48)] = false ∧ (heldS x xIntSat).heldItem 0 65536 = some (3, heldF xIntSat) ∧
    ((heldS x xIntSat).core 3).run = some rn ∧ (heldS x xMachineCheck).heldItem 0 65536 = some (3, heldF xMachineCheck) ∧ xMachineCheck ≠ xIntSat ∧
    (heldS y xIntSat).descOf 0 3 15 = some y ∧ (heldS y xIntSat).heldItem 0 65536 = some (3, heldF xIntSat) := by decide +kernel
theorem test_item_resume : (((after (.itemResume 0 3) (heldS (dl 14 (natLe 8 65536)) xIntSat)).core 3).run.map (·.evSat)) = some 0 := by decide +kernel
theorem wit_Stream_arm : let x := dl 16 (natLe 8 0x80000000)
    (dS 16 (natLe 8 0x80000000)).descOf 0 3 16 = some x ∧ unnamed x.entry [(64, 256)] = false := by decide +kernel

/-- A Sifter region of 16 MiB at offset 2^32 of stack 0, and records of a table and a graph. -/
def regionS (s : State) : State := (s.setReg (regKey none 0x20000) (2 ^ 32)).setReg (regKey none 0x20008) (2 ^ 24)
def tableB : Bytes := natLe 8 (6 + 3 * 2 ^ 16) ++ natLe 8 32 ++ natLe 8 0x80010000 ++ natLe 8 0 ++ natLe 8 (2 ^ 32) ++ List.replicate 24 0
def graphB : Bytes := natLe 8 (2 + 2 * 2 ^ 18) ++ natLe 8 8 ++ natLe 8 0x80030000 ++ natLe 8 0x80040000 ++ natLe 8 0x80050000 ++ List.replicate 24 0
def setupX (op : BitVec 8) : Live := dl op (natLe 8 0x1000)
theorem wit_TableDescriptors_setup : let s := regionS (withD (setupX 0x18) upL); let t := withD (setupX 0x20) upL
    (hostWhole ⟨tableB, none⟩ 64) = some tableB ∧ unnamed (setupX 0x18).entry [(64, 64)] = false ∧ s.descOf 0 3 0x18 = some (setupX 0x18) ∧
    s.tableOk 0 tableB = true ∧ (Table.parse tableB).id = 6 ∧ s.tableOf 6 = none ∧ (s.setTable 6 (some tab1)).tableOk 0 tableB = true ∧
    unnamed (setupX 0x20).entry [(64, 64)] = false ∧ t.descOf 0 3 0x20 = some (setupX 0x20) ∧ t.graphOk 0 graphB = true ∧ (Graph.parse graphB).id = 2 ∧
    t.graphOf 2 = none ∧ (t.setGraph 2 (some graph1)).graphOk 0 graphB = true := by decide +kernel
def objX (op : BitVec 8) (id : Nat) : Live := dl op (natLe 8 id)
def tabS (op : BitVec 8) : State := (withD (objX op 6) upL).setTable 6 (some tab1)
def heldWin : Window := { win1 none none with version := false }
theorem wit_TableDescriptors_live : (∀ op ∈ [(0x19 : BitVec 8), 0x1A, 0x1B], unnamed (objX op 6).entry [(64, 16)] = false ∧
      (tabS op).descOf 0 3 op.toNat = some (objX op 6) ∧ (tabS op).tableOf 6 = some tab1 ∧ (tabS op).descTable 0 6 = 0) ∧ tab1.versioned = true ∧
    (tabS 0x1A).descAny 0 3 0x1A = some (objX 0x1A 6) ∧ (tabS 0x1A).scopeOthers tab1.scope = [] ∧
    ((tabS 0x1A).begin 0 3).tableHeld 6 (some !tab1.active) = false ∧
    (({ tabS 0x1A with windows := [heldWin] } : State).begin 0 3).tableHeld 6 (some !tab1.active) = true ∧ (tabS 0x1B).tableHeld 6 none = false ∧
    (tabS 0x1B).switches = [] ∧ ({ tabS 0x1B with windows := [heldWin] } : State).tableHeld 6 none = true := by decide +kernel
def grS (x : Live) : State := (withD x upL).setGraph 2 (some graph1)
def sweepB : Bytes := natLe 8 (2 * 16 + 2 ^ 16 + 9 * 2 ^ 33) ++ List.replicate 56 0
def sweepX : Live := { dl 0x22 [] with ext := some sweepB }
theorem wit_GraphDescriptors : (∀ op ∈ [(0x21 : BitVec 8), 0x23], unnamed (objX op 2).entry [(64, 12)] = false ∧ (grS (objX op 2)).descGraph 0 2 = 0 ∧
      (grS (objX op 2)).descOf 0 3 op.toNat = some (objX op 2)) ∧ (grS (objX 0x21 2)).descAny 0 3 0x21 = some (objX 0x21 2) ∧
    (grS (objX 0x21 2)).graphReqs 2 ++ (grS (objX 0x21 2)).graphIter 2 = [] ∧
    ({ grS (objX 0x21 2) with sweeps := [Sweep.parse sweepB 1 0 9] } : State).graphIter 2 ≠ [] ∧ (grS (objX 0x21 2)).scopeOthers graph1.scope = [] ∧
    (grS (objX 0x23 2)).sweeps = [] ∧ (grS (objX 0x23 2)).moves = [] := by decide +kernel
theorem wit_GraphDescriptors_sweep : let s := grS sweepX; let w := Sweep.parse sweepB 1 0 9
    s.descOf 0 3 0x22 = some sweepX ∧ unnamed sweepX.entry [] = false ∧ sweepX.ext = some sweepB ∧ s.instCount = 0 ∧
    fieldAt sweepB 0 8 / 2 ^ 37 % 2 ^ 27 = 0 ∧ zeroRange sweepB 20 44 = true ∧ w.kind = 0 ∧ w.maxIter = 1 ∧ w.s = 9 ∧ w.graph = 2 ∧
    s.descGraph 0 2 = 0 ∧ s.graphOf 2 = some graph1 ∧ graph1.planes = 2 ∧ s.sweepCores 0 ≠ [] := by decide +kernel

def failE : Live := { dl 0 [] with failed := true }
/-- A service request on an express ring. -/
def servE : Live := dl 12 (natLe 8 2 ++ List.replicate 16 0 ++ natLe 8 1 ++ natLe 8 0 ++ natLe 4 64)
def servS : State :=
  ((svcS servE (some svc1)).setProg 0 5 (some { prog1 with items := [rec1] })).setRing 0 { ring0 with w3 := 0, head := some servE }
theorem wit_DescriptorIntake_more : (headS failE).running = true ∧ ((headS failE).ring 0).acceptable failE = true ∧ (headS failE).makesExpress 0 failE = false ∧
    (readS 1).nextRing = some 0 ∧ hostWhole ⟨[], some .timeout⟩ 64 = none ∧ (headS (dl 0 [])).creates 0 (dl 0 []) = none := by decide +kernel
theorem wit_DescriptorIntake_creates : let s := (headS launchE).setProg 0 5 (some { prog1 with items := [rec1] })
    (s.ring 0).head = some launchE ∧ (s.ring 0).acceptable launchE = true ∧ launchE.headBad = false ∧ s.makesExpress 0 launchE = false ∧
    (s.creates 0 launchE).isSome = true ∧ (s.reserve 0 launchE).isSome = true ∧ launchE.op ≠ 0x0C := by decide +kernel
theorem wit_DescriptorIntake_service : (servS.ring 0).head = some servE ∧ (servS.ring 0).acceptable servE = true ∧ servE.headBad = false ∧
    (servS.ring 0).cls = .express ∧ (servS.creates 0 servE).isSome = true ∧ ((servS.reserve 0 servE).map (·.items)) = some 1 ∧
    servS.svc 0 (fieldAt servE.entry 8 4 % 16) = some svc1 := by decide +kernel
/-- A descriptor that has taken instance number 1. -/
def numd (x : Live) : Live := { x with num := some 1 }
theorem wit_ProgramDescriptors_numbered : (let x := numd (dl 9 startB); (startS x).descOf 0 3 9 = some x ∧ x.num = some 1 ∧ (startS x).prog 0 5 = some prog1) ∧
    (let x := numd (dl 10 trainB); let s := { startS x with dmem := trainS.dmem };
      s.descOf 0 3 10 = some x ∧ s.versionRecs 0 2 0x80004000 1 = some [(7, 0x80005000)] ∧ x.orphaned = false ∧ ({ x with orphaned := true } : Live).num = some 1) := by decide +kernel
def bindX : Live := dl 11 (natLe 4 (2 + 65536) ++ bindB.drop 4)
def busyX : State := (svcS bindX none).setCore 0 { run := some { rn with cls := .express } }
theorem wit_Service_preload : bindX.entry.length = 64 ∧ (svcS bindX none).descOf 0 3 11 = some bindX ∧ (svcS bindX none).bindBad 0 bindX.entry = false ∧
    (svcS bindX none).svc 0 2 = none ∧ (fieldAt bindX.entry 8 4).testBit 16 = true ∧
    ((svcS bindX none).expressCores 0).all (fun c => !((svcS bindX none).core c).expressBusy) = true ∧
    (busyX.expressCores 0).contains 0 = true ∧ (busyX.core 0).expressBusy = true ∧ busyX.bindBad 0 bindX.entry = false ∧
    (let x := numd reqX; (svcS x (some svc1)).descOf 0 3 12 = some x ∧ (svcS x (some svc1)).svc 0 2 = some svc1 ∧ (svcS x (some svc1)).prog 0 5 = some prog1) ∧
    (let x := dl 13 (natLe 8 2); (svcS x (some { svc1 with used := [1] })).svc 0 2 = some { svc1 with used := [1] }) := by decide +kernel
def tabW (op : BitVec 8) : State := (podS (tabS op)).setTable 6 (some { tab1 with scope := 1 })
theorem wit_TableDescriptors_more : hostWhole ⟨[], some .timeout⟩ 64 = none ∧ fieldAt (setupX 0x18).entry 8 8 % 64 = 0 ∧
    (tabW 0x1A).scopeOthers 1 ≠ [] ∧ (tabW 0x1A).descAny 0 3 0x1A = some (objX 0x1A 6) ∧ (tabW 0x1A).descTable 0 6 = 0 ∧
    ((tabW 0x1A).begin 0 3).tableHeld 6 (some !tab1.active) = false ∧
    (let s := { tabS 0x1B with switches := [{ ring := 0, pos := 4, table := 6, version := false, waiting := [], refused := false }] };
      s.descOf 0 3 0x1B = some (objX 0x1B 6) ∧ s.tableHeld 6 none = false) := by decide +kernel
theorem wit_GraphDescriptors_more :
    (let x : Live := { objX 0x21 2 with begun := true, waitsFor := [(9, 9)] }; (grS x).descAny 0 3 0x21 = some x ∧
      x.waitsFor.filter (((grS x).graphReqs 2 ++ (grS x).graphIter 2).contains) = []) ∧
    (let s := (podS (grS (objX 0x21 2))).setGraph 2 (some { graph1 with scope := 1 });
      s.descAny 0 3 0x21 = some (objX 0x21 2) ∧ s.descGraph 0 2 = 0 ∧ s.scopeOthers 1 ≠ [] ∧ s.graphReqs 2 ++ s.graphIter 2 = []) ∧
    (let s := { grS (objX 0x23 2) with sweeps := [Sweep.parse sweepB 1 0 9] }; s.descOf 0 3 0x23 = some (objX 0x23 2) ∧ s.descGraph 0 2 = 0 ∧
      (Sweep.parse sweepB 1 0 9).graph = 2) ∧ (grS (objX 0x23 2)).graphReqs 2 = [] ∧
    (let x := numd sweepX; (grS x).descOf 0 3 0x22 = some x ∧ x.orphaned = false) := by decide +kernel

/-! ### Witnesses: tiers, recovery and messages -/

def poolB : Bytes := natLe 8 (2 ^ 32) ++ natLe 8 granule
def poolS (op : BitVec 8) (l : List Chunk) : State := { regionS (withD (dl op poolB) upL) with chunks := l }
theorem wit_TierDescriptors_pool : ∀ op ∈ [(0x1D : BitVec 8), 0x1E], let s := poolS op []
    s.descOf 0 3 op.toNat = some (dl op poolB) ∧ s.kindOf (2 ^ 32) granule = some (.sifter, 0, 2 ^ 32) ∧ 2 ^ 32 % granule = 0 ∧ 0 < granule ∧
    fieldAt (dl op poolB).entry 8 8 = 2 ^ 32 ∧ fieldAt (dl op poolB).entry 16 8 = granule ∧
    unnamed (dl op poolB).entry [(64, 64), (128, 64)] = false ∧ meets (2 ^ 32, 32 * 2 ^ 12) (2 ^ 32) granule = true ∧ 32 * 2 ^ 12 = granule := by
  decide +kernel
/-- The chunk of the pools above, in use or not. -/
def chunk0 (used : Bool) : Chunk := ⟨0, 2 ^ 32, 12, 0, used⟩
theorem test_pool_conflict : ((after (.poolGrant 0 3) (poolS 0x1D [chunk0 true])).chunks, (after (.poolReclaim 0 3) (poolS 0x1E [chunk0 true])).chunks,
    (after (.poolReclaim 0 3) (poolS 0x1E [chunk0 false])).chunks) = ([chunk0 true], [chunk0 true], []) := by decide +kernel
/-- `MIGRATE` of block 0 of table 6 to LPDDR, with the chunks given. -/
def migX : Live := dl 0x1C (natLe 8 8 ++ natLe 8 6)
def tierE : EntryRef := ⟨0, 6, true, 0⟩
def tierS (x : Live) (l : List Chunk) : State :=
  regionS (({ withD x upL with dmem := lsOf [(0x80020000, natLe 8 (2 ^ 4 + 2 ^ 27 * 2 ^ 8))], chunks := l } : State).setTable 6 (some tab1))
def lpChunk : Chunk := ⟨8, 2 ^ 34, 12, 0, false⟩
theorem wit_TierDescriptors_migrate : let s := tierS migX [lpChunk]
    s.descOf 0 3 0x1C = some migX ∧ unnamed migX.entry [(64, 25), (128, 16), (192, 48)] = false ∧ s.descTable 0 6 = 0 ∧
    ((s.liveEntry tierE).map fun x => (x.1, x.2.1.moving, x.2.1.tier, x.2.2)) = some (0x80020000, false, 0, 0) ∧ tierUnit 1 0 = some 8 ∧
    ((s.tableOf 6).map (·.active)) = some true ∧ s.entryHeld tierE = false ∧ ((s.begin 0 3).startMove tierE (some (0, 3)) 1 8 0).isSome = true ∧
    (((tierS migX []).begin 0 3).startMove tierE (some (0, 3)) 1 8 0) = none := by decide +kernel
def shardX : Live := dl 0x1C (natLe 8 (4 + 5 * 2 ^ 11 + 2 ^ 23) ++ natLe 8 0 ++ natLe 8 9)
theorem wit_TierDescriptors_shard : let s := podS (withD shardX upL); let wd := fieldAt shardX.entry 8 8
    s.descOf 0 3 0x1C = some shardX ∧ unnamed shardX.entry [(64, 25), (128, 16), (192, 48)] = false ∧ fld wd 0 3 = 4 ∧ fld wd 23 2 = 1 ∧
    s.shardMoves = [] ∧ s.homeOf 1 9 = s.devId ∧ 5 ∈ s.scopeOthers 1 ∧ fld wd 11 12 = 5 := by decide +kernel

def turnS : State := tierS migX []
theorem wit_EpochsAndMoves_visit : turnS.running = true ∧ turnS.tiersRun = true ∧ turnS.entryDir tierE = some (0x80020000, 2, 0) ∧
    turnS.activeEntry tierE = true ∧ (turnS.dirEnt 0x80020000 0).present = true ∧ tierE ∉ turnS.visited ∧ (turnS.liveEntry tierE).isSome = true ∧
    (turnS.setReg (regKey none 0x20008) 0).liveEntry tierE = none ∧ turnS.allVisited = false ∧
    ({ turnS with visited := [tierE], ticks := turnS.epochTicks } : State).allVisited = true := by decide +kernel
def move1 : Move :=
  { entry := tierE, addr := 0x80020000, oldWord := 2 ^ 4 + 2 ^ 35, newWord := 1 + 2 ^ 4 + 2 ^ 37, port := 0, src := none, prog := {}, copied := false, bad := [] }
def moveS : State := { turnS with moves := [move1] }
theorem wit_EpochsAndMoves_move : moveS.moves.find? (fun m => m.entry == tierE) = some move1 ∧ moveS.fnUp 4 0 = true ∧ move1.copied = false ∧
    move1.prog.err = 0 ∧ moveS.progOf (whoMove tierE) = some {} ∧ ((JM.copyBlock move1).run (Job.start moveS (whoMove tierE) 0)).1.isSome = true := by
  decide +kernel
def oldC (h : List (Nat × Nat)) : OldChunk := { entry := tierE, unit := 0, off := 2 ^ 32, log2 := 12, port := 0, holders := h }
theorem wit_EpochsAndMoves_release : ({ up with oldChunks := [oldC []] } : State).oldChunks.find? (fun o => o.entry == tierE) = some (oldC []) ∧
    (oldC []).holders = [] ∧ ∃ h ∈ (oldC [(3, 0)]).holders, h ∈ ({ up with queue := [(3, 0)] } : State).queue := by decide +kernel
theorem wit_ChunkAccounting : [lpChunk].Nodup ∧ ((({ up with chunks := [lpChunk] } : State).allocChunk 0 8 5).map (·.1)) = some (2 ^ 34) := by decide +kernel

theorem wit_MemoryChecks : up.running = true ∧ up.locate 0x80000000 = some (0, 0x80000000) ∧ up.unitUp 0 = true ∧ up.unitGone 0 = false ∧
    up.poisoned 0x80000000 1 = false ∧ up.locate 0x10000000040 = some (8, 0x40) ∧ up.unitUp 8 = true ∧ up.unitGone 8 = false ∧
    up.locate 0x180000001234 = some (11, 0x1234) ∧ up.unitGone 11 = false ∧ up.flashChannel.2.poisoned 0x180000001234 1 = false ∧
    (up.unitSt ⟨1, 7⟩).lost = false ∧ (up.unitSt ⟨2, 9⟩).lost = false ∧ 0x2FFFFF / 8 ∉ (up.core 3).lsPoison := by decide +kernel
def linkS (k : Link) : State := upL.setLink 2 k
def actK : Link := { st := .active }
theorem wit_UnitRecovery : up.running = true ∧ (up.unitSt ⟨3, 1⟩).lost = false ∧ ([] : List Nat).length + 1 < up.climbCount 3 ∧
    up.climbCount 3 ≤ (((up.setUnitSt ⟨3, 1⟩ { climbs := List.replicate 15 7 }).unitSt ⟨3, 1⟩).climbs.filter fun t => t == 7).length + 1 ∧
    (linkS actK).linksRun = true ∧ ((linkS actK).link 2).st = .active ∧ actK.resendCount < up.climbCount 5 ∧ up.climbCount 5 ≤ 16 ∧
    ({ actK with lastAckAt := 5 } : Link).lastAckAt + 2000 ≤ 2005 ∧ up.awake = true ∧
    ((up.setUnitSt ⟨2, 1⟩ { reinit := true }).unitSt ⟨2, 1⟩).reinit = true := by decide +kernel
def page1 : FlashWrite := { hub := 1, page := 0x180000001, data := [1], whole := true, core := none }
theorem wit_UnitRecovery_flash : let s := { up with flashWrites := [page1] }
    s.flashWrites.find? (fun w => w.hub == 1) = some page1 ∧ s.running = true ∧ s.fnUp 3 1 = true ∧ s.flashWrites.find? (fun w => w.hub == 0) = none := by
  decide +kernel

/-- A packet of device 5 for this device, alone in the receive queue of link 2. -/
def pkt (cls kind info : Nat) (body : Bytes) : Packet :=
  { kind := kind, cls := cls, src := 5, dst := 0, hops := 0, last := true, info := BitVec.ofNat 64 info, body := body }
def rxS (s : State) (p : Packet) : State := s.setLink 2 { st := .active, rxq := [p] }
theorem wit_MessageTaking : ((rxS upL (pkt clRq 1 9 [1])).takeMsg 2 clRq 1).map (·.1) = some ⟨pkt clRq 1 9 [1], [1], (pkt clRq 1 9 [1]).units⟩ := by
  decide +kernel
theorem wit_RequestMessages : State.reset.running = false ∧ upL.running = true ∧ upL.takeMsg 2 clRq 1 = none ∧ upL.takeMsg 2 clRq 2 = none ∧
    upL.takeMsg 2 clRq 5 = none ∧ ((rxS upL (pkt clRq 2 9 [])).takeMsg 2 clRq 2).isSome = true ∧
    (∀ k ∈ [0, 1, 2, 3], (((rxS upL (pkt clRq 5 9 (natLe 8 k))).takeMsg 2 clRq 5).map fun x => fieldAt x.1.body 0 8) = some k) := by decide +kernel
def copyB (kind len : Nat) : Bytes := natLe 8 kind ++ natLe 8 2 ++ natLe 8 7 ++ natLe 8 len ++ List.replicate len 3
def copyS (kind : Nat) : State := rxS (upL.setReg (regKey none 0x1008) 16) (pkt clRq 6 9 (copyB kind 8))
theorem wit_RequestMessages_copy : ([0, 1, 2, 3, 4].all fun k => (copyS k).assisted 4 && match (copyS k).takeMsg 2 clRq 6 with
    | some (m, _) => fld (fieldAt m.body 0 8) 0 3 == k && decide (fieldAt m.body 24 4 + 32 ≤ m.body.length) && fld (fieldAt m.body 0 8) 7 57 == 0 &&
        fld (fieldAt m.body 8 8) 17 47 == 0 && bfld m.body 16 8 48 16 == 0 && bfld m.body 24 8 32 32 == 0
    | none => false) = true := by decide +kernel
theorem test_block_copy : (after (.blockCopy 2) (copyS 2)).staged = [⟨5, 2, 2, 7, List.replicate 8 3⟩] := by decide +kernel

/-- Core 3's request waits for the answer of tag 9 from device 5. -/
def askS : State := (on3 { k3 with lsu := [{ lq with prog := { asks := [⟨5, 9, [], 0⟩] } }] }).setLink 2 { st := .active }
def statS (st : Nat) : State := rxS askS (pkt clRs 2 9 (natLe 8 st))
theorem wit_AnswerMessages : ((rxS upL (pkt clRs 1 9 [1])).takeMsg 2 clRs 1).isSome = true ∧ ((statS 0).takeMsg 2 clRs 2).isSome = true ∧
    askS.askOwner 5 9 = some (3, 0) ∧ upL.askOwner 5 9 = none ∧ (((statS 4).takeMsg 2 clRs 2).map fun x => fld (fieldAt x.1.body 0 8) 0 8) = some 4 ∧
    ((rxS upL (pkt clMg 7 3 [])).takeMsg 2 clMg 7).isSome = true ∧ ((rxS upL (pkt clMg 15 9 [])).takeMsg 2 clMg 15).isSome = true ∧
    upL.fencesIn = [] := by decide +kernel
def fence1 (w : List Nat) : FenceWait := ⟨0, 3, 9, w, 0, 10⟩
def fenceS (w : List Nat) : State := rxS { upL with fences := [fence1 w] } (pkt clRs 14 9 [])
theorem wit_AnswerMessages_fence : ((fenceS [5]).takeMsg 2 clRs 14).isSome = true ∧ (fenceS [5]).fences.find? (fun f => f.id == 9) = some (fence1 [5]) ∧
    (∀ d ∈ (fence1 [5]).waiting, d = 5) ∧ (∃ d ∈ (fence1 [5, 6]).waiting, d ≠ 5) := by decide +kernel
theorem test_fence_ack : ((after (.fenceAck 2) (fenceS [5])).fences, (after (.fenceAck 2) (fenceS [5, 6])).fences) = ([], [fence1 [6]]) := by
  decide +kernel

def swW (w : List Nat) (refused : Bool) : Switch := { ring := 0, pos := 3, table := 6, version := false, waiting := w, refused := refused }
def swS (w : Switch) (yes : Nat) : State := rxS { upL with switches := [w] } (pkt clMg 2 0xC0006 (natLe 8 yes))
theorem wit_ManagementMessages : ((rxS upL (pkt clMg 1 6 [])).takeMsg 2 clMg 1).isSome = true ∧
    (((swS (swW [5] false) 1).takeMsg 2 clMg 2).map fun x => bitAt (fieldAt x.1.body 0 8) 0) = some true ∧
    (((swS (swW [5] false) 0).takeMsg 2 clMg 2).map fun x => bitAt (fieldAt x.1.body 0 8) 0) = some false ∧
    (((swS (swW [5] false) 1).takeMsg 2 clMg 2).map fun x => (x.2.ackMg x.1.head).switches.find? (fun w => w.info 0 == 0xC0006 && w.waiting.contains 5)) =
      some (some (swW [5] false)) ∧ (∃ d ∈ (swW [5, 6] true).waiting, d ≠ 5) ∧ ((rxS upL (pkt clMg 3 6 [])).takeMsg 2 clMg 3).isSome = true ∧
    ((rxS upL (pkt clMg 4 6 (natLe 8 5))).takeMsg 2 clMg 4).isSome = true := by decide +kernel
theorem test_switch_refused : ((after (.answer 2) (swS (swW [5, 6] false) 0)).switches) = [swW [6] true] := by decide +kernel
def mapMove : ShardMove :=
  { shard := 9, scope := 1, newHome := 5, src := none, started := true, copies := [], acks := [5, 6], transferred := true, failed := false, prog := {} }
theorem wit_ManagementMessages_ack : ((rxS { upL with shardMoves := [mapMove] } (pkt clMg 5 (9 + 4096) [])).takeMsg 2 clMg 5).map
    (fun x => (x.2.ackMg x.1.head).shardMoves.find? (fun x => x.shard == 9 && x.scope == 1 && x.transferred)) = some (some mapMove) := by decide +kernel
def wide : Graph := { graph1 with scope := 1 }
def endSweep : Sweep := { Sweep.parse sweepB 1 0 9 with computed := true }
def sweepS : State := podS { upL.setGraph 2 (some wide) with sweeps := [endSweep], ticks := 9 }
theorem wit_ManagementMessages_sweep : ((rxS upL (pkt clMg 6 2 (natLe 8 0))).takeMsg 2 clMg 6).isSome = true ∧ upL.takeMsg 2 clMg 6 = none ∧
    sweepS.graphOf 2 = some wide ∧ sweepS.sweepOf 2 = some endSweep ∧ endSweep.since + endSweep.limit ≤ sweepS.ticks ∧
    5 ∈ sweepS.scopeOthers wide.scope ∧ sweepS.marksOf endSweep = [] := by decide +kernel
theorem test_sweep_timeout : (after (.sweepTimeout 2) sweepS).sweeps = [] := by decide +kernel

theorem wit_TierDescriptors_waits : (let s := { tierS migX [lpChunk] with dmem := lsOf [(0x80020000, natLe 8 (2 ^ 4 + 2 ^ 5 + 2 ^ 27 * 2 ^ 8))] };
      (s.liveEntry tierE).map fun x => x.2.1.moving) = some true ∧ ([chunk0 false].map fun x => 32 * 2 ^ x.log2).sum ≠ 2 * granule ∧ (chunk0 true).used = true := by
  decide +kernel
theorem wit_UnitRecovery_part : let s := { up with flashWrites := [{ page1 with whole := false }], poison := [0x180000001000] }
    s.poisoned (4096 * page1.page) 1 = true ∧ up.poisoned (4096 * page1.page) 1 = false := by decide +kernel
/-- A management message in the device store. -/
def storeS : State := { upL with mgIn := [(2, pkt clMg 1 6 [])] }
theorem wit_MessageTaking_store : (storeS.takeMsg 2 clMg 1).map (fun x => (x.1.body, x.2.mgIn)) = some ([], []) ∧
    (storeS.takeMsg 2 clMg 1).map (fun x => x.1.head) = some (pkt clMg 1 6 []) := by decide +kernel
/-- `UPDATE_NODE` of rank 1 with one node of row 5 of table 6, and `UPDATE_END`. -/
def nodeB (n : Nat) : Bytes := natLe 8 (6 + 2 ^ 16 + 9 * 2 ^ 17 + 2 ^ 34) ++ natLe 8 0 ++ natLe 8 5 ++ List.replicate n 0
def endB (n : Nat) : Bytes := natLe 8 (6 + 2 ^ 16 + 2 ^ 17 + n * 2 ^ 32)
def updateS (kind : Nat) (b : Bytes) (l : List Window) : State := { rxS (upL.setTable 6 (some tab1)) (pkt clRq kind 9 b) with windows := l }
def nodeW : Window := { Window.new 0 6 true with par := some ⟨9, false, 0, 0, 0⟩ }
theorem wit_RequestMessages_nodes : (∀ n ∈ [40, 32], ((updateS 3 (nodeB n) []).takeMsg 2 clRq 3).map (fun x => (x.1.body, x.2.windows, x.2.tableAccess 0 6 true)) =
      some (nodeB n, [], 0)) ∧ nodesWhole 9 4 64 ((nodeB 40).drop 16) = true ∧ nodesWhole 9 4 56 ((nodeB 32).drop 16) = false ∧
    ((nodesParse 9 4 64 ((nodeB 40).drop 16)).map (·.1)) = [5] ∧ fld (fieldAt (nodeB 40) 0 8) 46 18 = 0 ∧ fld (fieldAt (nodeB 40) 0 8) 34 12 = 1 ∧
    upL.shardMoving 0 (shardOf 6 0) = false ∧ ((podS upL).setEntry16 0x34000 (shardOf 6 0) (2 ^ 12)).shardMoving 1 (shardOf 6 0) = true ∧
    nodeW.takesFrom 0 6 true 1 = true ∧ nodeW.par = some ⟨9, false, 0, 0, 0⟩ ∧ ({ nodeW with par := none } : Window).takesFrom 0 6 true 1 = true ∧
    (⟨12, true, 1, 0, 0⟩ : WinPar) ≠ ⟨9, false, 0, 0, 0⟩ ∧ upL.tableAccess 0 6 true ≠ 0 := by decide +kernel
def endQ : LsuReq := { updQ with block := natLe 8 (5 + 6 * 16) ++ List.replicate 56 0 }
theorem wit_RequestMessages_end : ((updateS 4 (endB 0) [nodeW]).takeMsg 2 clRq 4).map (fun x => (x.1.body, x.2.windows)) = some (endB 0, [nodeW]) ∧
    fld (fieldAt (endB 0) 0 8) 30 2 = 0 ∧ (endB 0).length = 8 ∧ fld (fieldAt (endB 0) 0 8) 17 12 = 1 ∧ fld (fieldAt (endB 0) 0 8) 32 32 = 0 ∧
    (nodeW.nodes.filter fun n => n.2.start >>> 0 == 1).length = 0 ∧ nodeW.closed = false ∧ nodeW.wait = none ∧
    (let w := { nodeW with wait := some ⟨3, 0, 2, 0, 100⟩ }; w.takesFrom 0 6 true 1 = true ∧ (updS w).reqOf 3 0 = some updQ) ∧ endQ.id = 0 := by decide +kernel
theorem wit_RequestMessages_forms : (rxS upL (pkt clRq 5 9 [1])).takeMsg 2 clRq 5 ≠ none ∧ ([1] : Bytes).length < 8 ∧ fieldAt [1] 0 8 = 1 ∧
    (let s := { copyS 0 with shardWindow := [(1, 2 ^ 40)] }; s.assisted 4 = true) ∧
    (let s := { (copyS 2).setReg (regKey none 0x1008) 0 with shardWindow := [(1, 2 ^ 31)] }; s.assisted 4 = false ∧
      2 ^ fld (s.dreg 0x1028) 8 6 ≤ (s.shardWindow.map fun v => fld v.2.toNat 0 32 + fld v.2.toNat 32 32).sum) ∧
    (copyB 4 8).length = 32 + roundUp 8 8 := by decide +kernel
/-- A fence of device 5 that has come in four classes, and comes in the fifth. -/
def fence4 (tags : List Nat) : FenceIn := ⟨5, 9, [clMg, clRs, clRd, clBc], tags⟩
theorem wit_AnswerMessages_last : let s := rxS { upL with fencesIn := [fence4 []] } (pkt clRq 15 9 [])
    ([clMg, clRq, clRs, clRd, clBc].findSome? (fun c => (s.takeMsg 2 c 15).map fun x => (c, x))).map (fun x => (x.1, x.2.2.fencesIn, x.2.2.remotes)) = some (clRq, [fence4 []], []) ∧
    (fence4 []).classes.length = 4 := by decide +kernel

/-! ### Witnesses: channels, links and host ports -/

/-- A record of channel 3, which sends up to 64 bytes at 0x80000000 to channel 4 of device 5; and of one that receives. -/
def chanB (kind : Nat) : Bytes :=
  natLe 8 (3 + kind + 5 * 2 ^ 15 + 4 * 2 ^ 27) ++ natLe 8 0x80000000 ++ natLe 4 64 ++ natLe 4 32 ++ List.replicate 40 0
def sendC : ChanRec := ChanRec.parse (chanB 0x2000)
def recvC : ChanRec := ChanRec.parse (chanB 0x1000)
def chanS (x : Live) (k : Channel) : State := (withD x upL).setChan 3 k
def armed (c : ChanRec) : Channel := { rcd := some c, arm := some (0, 3, 0, 9) }
theorem wit_ChannelCommands_setup : let x := setupX 0x28
    (chanS x {}).descOf 0 3 0x28 = some x ∧ unnamed x.entry [(64, 64)] = false ∧ hostWhole ⟨chanB 0, none⟩ 64 = some (chanB 0) ∧
    fld (fieldAt (chanB 0) 0 8) 0 12 = 3 ∧ (chanS x {}).chanOk 0 0 (chanB 0) = true ∧ ((chanS x {}).chan 3).arm = none ∧
    ((chanS x (armed sendC)).chan 3).arm ≠ none ∧ (chanS x (armed sendC)).chanOk 0 0 (chanB 0) = true ∧
    (chanS x {}).chanOk 0 0 (chanB (2 ^ 60)) = false := by decide +kernel
theorem wit_ChannelCommands_arm : let x := objX 0x29 3; let k : Channel := { rcd := some sendC }
    (chanS x k).descOf 0 3 0x29 = some x ∧ unnamed x.entry [(64, 12)] = false ∧ (chanS x k).owns 0 0 .chan 3 = true ∧ ((chanS x k).chan 3).rcd ≠ none ∧
    (((chanS x k).begin 0 3).chan 3).arm = none ∧ (((chanS x (armed sendC)).begin 0 3).chan 3).arm ≠ none := by decide +kernel
def fenX (w : Nat) : Live := objX 0x2A w
theorem wit_ChannelCommands_fence : (withD (fenX 2) upL).descOf 0 3 0x2A = some (fenX 2) ∧ (withD (fenX 1) upL).descOf 0 3 0x2A = some (fenX 1) ∧
    unnamed (fenX 1).entry [(64, 2), (80, 12)] = false ∧ (withD (fenX 1) upL).others false = [] ∧ (podS (withD (fenX 1) upL)).others false = [5] ∧
    unnamed (fenX (5 * 65536)).entry [(64, 2), (80, 12)] = false ∧ 5 ∈ (podS upL).others false ∧
    ({ upL with fences := [fence1 [5]], ticks := 10 } : State).fences.find? (fun f => f.ring == 0 && f.pos == 3) = some (fence1 [5]) ∧
    (fence1 [5]).since + (fence1 [5]).limit ≤ 10 := by decide +kernel
theorem wit_ChannelCommands_timeout : let s := { upL.setChan 3 (armed sendC) with ticks := 9 }
    s.running = true ∧ (s.chan 3).arm = some (0, 3, 0, 9) ∧ 0 + 9 ≤ s.ticks ∧ (s.chan 3).sentMsg = false ∧ (s.chan 3).whole = false := by decide +kernel
def goS (k : Channel) (go : SyncObj) : State := (upL.setChan 3 k).setSync 0 go
theorem wit_ChannelCommands_send : let s := goS { armed sendC with grant := some 64 } {}
    (s.chan 3).rcd = some sendC ∧ s.running = true ∧ (s.chan 3).arm ≠ none ∧ (s.chan 3).sentMsg = false ∧ sendC.send = true ∧ sendC.go = 0 ∧
    (s.sync 0).aborted = false ∧ (s.sync 0).count = 0 ∧ (s.chan 3).grant ≠ none ∧ sendC.add = false ∧ s.plainMsg sendC = some (List.replicate 32 0) ∧
    s.plainMsg { sendC with buf := 0x80000001, port := 1 } = none ∧ ((goS (armed sendC) { aborted := true }).sync 0).aborted = true ∧
    ((goS (armed sendC) { count := 2 }).sync 0).count ≠ 0 ∧ ((goS (armed sendC) {}).chan 3).grant = none := by decide +kernel
def recvK : Channel := { armed recvC with granted := true }
def recvS (n : Nat) : State := rxS (upL.setChan 3 recvK) (pkt clRd 1 (3 + 4 * 4096) (List.replicate n 1))
theorem wit_ChannelCommands_receive : (∀ n ∈ [64, 72], (((recvS n).takeMsg 2 clRd 1).map fun x => (x.1.body.length, fld x.1.head.info.toNat 0 12,
      fld x.1.head.info.toNat 12 12, x.1.head.src)) = some (n, 3, 4, 5)) ∧ ((recvS 64).chan 3) = recvK ∧ recvC.send = false ∧ recvC.bc = false ∧
    recvC.peer = 5 ∧ recvC.peerChan = 4 ∧ recvC.bufSize = 64 ∧ recvC.add = false ∧ recvC.next = none ∧ recvK.arm ≠ none ∧ recvK.whole = false := by
  decide +kernel
theorem test_channel_receive : (after (.record 2) (recvS 64)).dmem.read 0x8000003F = 1 := by decide +kernel
def sentK : Channel := { armed sendC with sentMsg := true }
theorem wit_ChannelCommands_answers : let s (cls kind : Nat) := rxS (upL.setChan 3 sentK) (pkt cls kind (3 + 4 * 4096) (natLe 8 64))
    ((s clRs 4).takeMsg 2 clRs 4).isSome = true ∧ ((s clRs 3).takeMsg 2 clRs 3).isSome = true ∧ ((s clRd 3).takeMsg 2 clRd 3).isSome = true ∧
    (s clBc 3).takeMsg 2 clRd 3 = none ∧ ((s clBc 3).takeMsg 2 clBc 3).isSome = true ∧ (((s clRs 4).takeMsg 2 clRs 4).map fun x => (x.2.chan 3)) = some sentK := by
  decide +kernel
/-- A record of slice 3 of list 2 that request 0 of core 3 awaits from device 5. -/
def knd : Knead := ⟨3, (3, 0), 2, 3, 5⟩
def kneadS (l : List Knead) : State := rxS { upL with kneads := l } (pkt clRd 2 3 recHdr.bytes)
theorem wit_ChannelCommands_knead : ((kneadS [knd]).takeMsg 2 clRd 2).isSome = true ∧
    (kneadS [knd]).kneads.find? (fun k => k.num == 3 && k.dev == 5) = some knd ∧ (kneadS []).kneads.find? (fun k => k.num == 3 && k.dev == 5) = none ∧
    (let s := rxS (podS upL) (pkt clRs 3 3 (natLe 8 64)); (s.takeMsg 2 clRs 3).isSome = true ∧ s.podTable.contains 5 = true ∧ (s.chan 3).rcd = none) := by
  decide +kernel

theorem wit_PacketRoundTrip : kindOk clRd 1 = true ∧ (pkt clRd 1 3 (List.replicate 8 7)).info.toNat &&& infoMask clRd 1 = 3 ∧ clRd ≠ clLk ∧
    kindOk clLk 2 = true ∧ infoMask clLk 2 = 0 := by decide
theorem test_packet_bytes : Packet.parse (pkt clRd 1 3 (List.replicate 8 7)).bytes (pkt clRd 1 3 (List.replicate 8 7)).units =
    (pkt clRd 1 3 (List.replicate 8 7), 0) := by decide +kernel

/-- Link 2 as given, its cable mated. -/
def cabS (k : Link) : State := { linkS k with mgmt := { upL.mgmt with cables := [(0, some (1, []))] } }
def identP (dev pod : Nat) : Packet := { pkt clLk 1 0 (natLe 8 (dev + pod * 2 ^ 18)) with dst := 0 }
theorem wit_LinkBringUp : let s (k : Link) := cabS k
    (s { phase := 1 }).linksRun = true ∧ (s {}).cabled 2 = true ∧ (linkS {}).cabled 2 = false ∧ ((s { phase := 1, st := .reinit }).link 2).st = .reinit ∧
    (let t := { s { phase := 6, since := 5 } with ticks := 10006 }; (t.link 2).since + phaseLimit 6 < t.ticks) ∧
    (let t := { s { phase := 2 } with ticks := 3000000 }; t.ticks ≤ (t.link 2).since + phaseLimit 2) ∧ (s { phase := 5 }).locked = true ∧
    (let t := podS (s { phase := 5, rxq := [identP 5 0] }); (t.takeLk 2 1).map (·.1) = some (identP 5 0) ∧ t.devId = 0 ∧ 5 ∈ t.podTable) ∧
    ((s { phase := 5, rxq := [identP 0 0] }).takeLk 2 1).isSome = true ∧
    ((s { phase := 6, rxq := [{ identP 0 0 with kind := 2 }] }).takeLk 2 2).isSome = true := by decide +kernel
def flitB (seq ft : Nat) (pay : Bytes) : Bytes := flitEncode (natLe 4 (seq + 4095 * 2 ^ 12 + ft * 2 ^ 24) ++ pay ++ List.replicate (236 - pay.length) 0)
def readTag (b : Bytes) : Option (Nat × Nat × Nat × Bool) := (readFlit b).map fun x => (x.2.1.toNat, x.2.2.1.toNat, x.2.2.2.1, x.2.2.2.2)
theorem wit_LinkBringUp_train : readTag (flitB 4095 2 [0, 5]) = some (4095, 4095, 2, false) ∧
    ((readFlit (flitB 4095 2 [0, 5])).map fun x => bitAt (fieldAt x.1 4 1) 7) = some false := by decide +kernel
theorem wit_LinkTraffic : (linkS actK).linksRun = true ∧ ((linkS actK).link 2).phase = 0 ∧ readTag (flitB 0 0 []) = some (0, 4095, 0, false) ∧
    readFlit [] = none ∧ actK.rxSeq = 0 ∧ (0 : BitVec 12) ≠ ({ actK with rxSeq := 3 } : Link).rxSeq ∧
    actK.replay = [] ∧ (∀ x ∈ ({ actK with owed := [0, 0, 0, 0, 0] } : Link).owed, x = 0) ∧ actK.resending = false := by decide +kernel
theorem wit_LinkTraffic_resend : let k := { actK with resending := true, replay := [(7, [1]), (8, [2])] }
    k.replay[k.resendFrom]? = some (7, [1]) ∧ upL.assisted 5 = false ∧ k.resendFrom + 1 < k.replay.length := by decide +kernel
theorem wit_LinkTraffic_transit : let s (h : Nat) := linkS { actK with rxq := [{ pkt clRq 1 9 [] with dst := 7, hops := h }] }
    (s 2).running = true ∧ ((s 2).link 2).rxq.find? (fun p => p.dst != (s 2).devId) = some { pkt clRq 1 9 [] with dst := 7, hops := 2 } ∧
    (s 1).routeOf 7 = none ∧ ((s 1).setReg (regKey none (0x31000 + 8)) ((2 ^ 13 + 2) * 2 ^ 48)).routeOf 7 = some 2 := by decide +kernel
def ackK : Link := { st := .active, replay := [(4095, [1]), (0, [2]), (1, [])] }
theorem wit_LinkTraffic_ack : ackK.replay = [(4095, [1])] ++ (0, [2]) :: [(1, [])] ∧ ackK.replay.length ≤ 1024 ∧ ackK.resending = false ∧
    (∀ (i : Nat) (h : i < ackK.replay.length) (h0 : 0 < ackK.replay.length), (ackK.replay[i]).1 = (ackK.replay[0]).1 + BitVec.ofNat 12 i) ∧
    (∀ g ∈ ackK.replay, g.1 ≠ 2) := by
  refine ⟨rfl, by decide, rfl, fun i h _ => ?_, by decide⟩
  match i, h with
  | 0, _ => simp [ackK]
  | 1, _ => simp [ackK]
  | 2, _ => simp [ackK]
/-- An idle flit is 256 bytes and reads back with the last sequence number sent. -/
theorem test_idle_flit : (match (after (.flitTransmit 2) (linkS { actK with txSeq := 8, owed := [0, 0, 0, 0, 0] })).out with
    | [.flit _ b] => (b.length, readTag b)
    | _ => (0, none)) = (256, some (7, 4095, 1, false)) := by decide +kernel

/-- The BAR4 aperture of port 0 at 0x80000000. -/
def apS : State := (upL.setReg (regKey (some 0) 0x2000) 32).setReg (regKey (some 0) 0x2008) 0x80000000
theorem wit_HostWindows : apS.barOpen 0 0 = true ∧ apS.bar4Addr 0 8 4 = some 0x80000008 ∧ (apS.reach 0 0x80000008 4).isSome = true ∧
    apS.bar4Addr 0 (2 ^ 34) 1 = none ∧ (apS.setReg (regKey (some 0) 0x2008) (2 ^ 45)).bar4Addr 0 0 4 = some (2 ^ 45) ∧ apS.reach 0 (2 ^ 45) 4 = none ∧
    ((apS.reach 0 0x100000000010 4).map fun x => unitTier x.2) = some 2 ∧ ((apS.reach 0 0x80000008 4).map fun x => unitTier x.2) = some 0 ∧
    (∀ x ∈ [PortIn.read 0 0x80000008 4, .write 0 0x80000008 [1, 2, 3, 4]], (apS.dropLatch 0).portWaits x = false ∧
      ((apS.setUnitSt ⟨2, 0⟩ { reinit := true }).dropLatch 0).portWaits x = true) ∧ (apS.setUnitSt ⟨2, 0⟩ { reinit := true }).barOpen 0 0 = true ∧
    (apS.dropLatch 0).reach 0 0x80000008 4 = apS.reach 0 0x80000008 4 ∧ apS.portRests 0 = false ∧ apS.linkOpen 0 = true ∧ apS.fnThere 0 0 = true ∧ (apS.port 0).released = true ∧ apS.fnOpen 0 0 = true ∧ 2047 < apS.msixUsable 0 0 ∧
    ((apS.setPort 0 { port1 with released := false }).port 0).released = false := by decide +kernel
theorem test_bar4_write : (after (.bar4Write 0 8 [1, 2]) apS).dmem.read 0x80000009 = 2 := by decide +kernel
def acc1 (st : AccSt) : HostAcc :=
  { id := 5, port := 0, fn := 0, pasid := none, addr := 0x9000, len := 4, kind := .read, why := .hld 3 1, st := st, since := 0, item := ⟨1, 0⟩ }
def accS (st : AccSt) (f : FnCfg) (out : List (Nat × Nat × Option (BitVec 20) × Nat)) : State :=
  { upL.setPort 0 { port1 with fns := [(0, f)], pageOut := out } with accs := [acc1 st] }
theorem wit_HostAccesses : let x := accS .xlate { ats := true, pri := true } []
    x.linkOpen 0 = true ∧ x.portRests 0 = false ∧ x.accs.filter (x.awaitsPage 0 0 none 9 1) = [acc1 .xlate] ∧ x.accs.filter (x.awaitsPage 0 0 none 10 1) = [] ∧
    (x.fnc 0 0).pri = true ∧ (x.fnc 0 0).priFailed = false ∧ (let y := accS .xlate { ats := true } []
      y.accs.filter (y.awaitsPage 0 0 none 9 1) = [acc1 .xlate] ∧ (y.fnc 0 0).pri = false) ∧
    (let z := { accS .pageReq { pri := true } [(7, 0, none, 9)] with ticks := 2 ^ 30 };
      z.portRests 0 = false ∧ (z.port 0).pageOut.find? (fun k => k.1 == 7 && k.2.1 == 0) = some (7, 0, none, 9) ∧ z.accOf 5 = some (acc1 .pageReq) ∧
      (z.port 0).pageOut.any (fun y => y.2 == z.pageOf (acc1 .pageReq)) = true ∧ 0 + z.faultLimit 0 ≤ z.ticks) ∧
    (accS .sent {} []).accOf 5 = some (acc1 .sent) ∧ (acc1 .sent).why.ownAnswer = false ∧ (accS .sent {} []).linkOpen 0 = true ∧
    (accS .sent {} []).portWaits (.answer 0 5 ⟨[1, 2, 3, 4], none⟩) = false ∧
    ((accS .sent {} []).setUnitSt ⟨3, 0⟩ { reinit := true }).portWaits (.answer 0 5 ⟨[1, 2, 3, 4], none⟩) = true ∧ (hostWhole ⟨[1, 2, 3, 4], none⟩ 4).isSome = true ∧ hostWhole ⟨[], some .timeout⟩ 4 = none := by
  decide +kernel
theorem wit_PortEvents : upL.linkOpen 0 = true ∧ upL.portRests 0 = false ∧ (⟨0, 5, 16, true⟩ : Trained).port = 0 ∧ (upL.setPort 0 { port1 with vfEnable := true, numVFs := 3 }).fnThere 0 3 = true ∧
    State.reset.linkOpen 0 = false ∧ State.reset.powerOff.awake = false ∧ upL.awake = true ∧ upL.mgmt.halted = false ∧ (upL.port 0).released = true ∧
    (up.port 0).released = false ∧ up.boot.stage = .done ∧ up.unitLost 6 0 = false ∧ up.unitLost 3 0 = false ∧ State.reset.boot.stage ≠ .done ∧
    upL.jinalUp = true ∧ (upL.port 0).perst = false ∧ (up.port 0).perst = true := by decide +kernel

/-- Channel 3 as a receive channel of the kind given, its message granted, and channel 6, which carries the message on. -/
def kindC (bc add : Bool) (next : Option Nat) : ChanRec := { recvC with bc := bc, add := add, next := next }
def kindK (c : ChanRec) : Channel := { armed c with granted := true }
def kindS (c : ChanRec) (p : Packet) : State := rxS ((upL.setChan 3 (kindK c)).setChan 6 { rcd := some sendC }) p
def msgP (cls : Nat) (b : Bytes) : Packet := pkt cls 1 (3 + 4 * 4096) b
theorem wit_ChannelCommands_kinds : (∀ next ∈ [none, some 6], ((kindS (kindC false false next) (msgP clRd [1])).takeMsg 2 clRd 1).map (fun x => x.2.chan 3) =
      some (kindK (kindC false false next))) ∧ ((upL.setChan 6 { rcd := some sendC }).chan 6).rcd = some sendC ∧
    (∀ next ∈ [none, some 6], ∀ last ∈ [true, false],
      ((kindS (kindC true false next) { msgP clBc [1] with last := last }).takeBlock 2).map (fun x => (x.1.head.last, x.2.chan 3)) = some (last, kindK (kindC true false next))) ∧
    (let b := recHdr.bytes; b.length ≤ recvC.bufSize ∧ ((Rec.parse b).map fun r => r.hdr.arith) = some 0 ∧
      ((Rec.parse ({ recHdr with arith := 1 } : RecHdr).bytes).map fun r => r.hdr.arith) = some 1) ∧
    (upL.sync 0).aborted = false ∧ (upL.sync 0).count = 0 ∧ recvC.go = 0 := by
  refine ⟨by decide +kernel, by decide +kernel, by decide +kernel, ⟨by decide +kernel, by decide +kernel, by decide +kernel⟩, by decide +kernel⟩
theorem wit_ChannelCommands_add : let s := goS { armed { sendC with add := true } with grant := some 64 } {}
    (s.chan 3).rcd = some { sendC with add := true } ∧ (s.chan 3).grant ≠ none ∧ (s.sync sendC.go).count = 0 ∧
    ((upL.setChan 3 (kindK (kindC false true none))).chan 3).sentMsg = false := by decide +kernel
theorem wit_LinkBringUp_phases : let s (k : Link) := cabS k
    ((s { phase := 1, st := .reinit, retried := true }).link 2).retried = true ∧
    (let t := { s { phase := 1, since := 5, retried := true } with ticks := 2 ^ 40 }; (t.link 2).since + phaseLimit 1 < t.ticks ∧ t.cabled 2 = true) ∧
    ((s { phase := 1, st := .reinit }).link 2).st = .reinit ∧ ({ phase := 1 } : Link).st ≠ .reinit ∧
    ((s { phase := 3 }).link 2).phase = 3 ∧ ((s { phase := 4, goodFlits := 63 }).link 2).goodFlits = 63 ∧ ((linkS { phase := 1 }).cabled 2) = false := by decide +kernel
/-- A link with one packet to send, one that resends, and one that holds a packet for another device. -/
def sendK : Link := { actK with txq := [pkt clRq 1 9 [1]], credits := [9, 9, 9, 9, 9], owed := [0, 0, 0, 0, 0] }
theorem wit_LinkTraffic_data : let k1 := (sendK.creditDue 0).fill 64
    sendK.resending = false ∧ sendK.sinceIdle < 4095 ∧ sendK.replay.length < 1024 ∧ k1.txFill < k1.txBytes.length ∧
    (linkS sendK).linksRun = true ∧ ((linkS sendK).link 2).phase = 0 := by decide +kernel
theorem wit_HostWindows_unreached : let s := apS.setReg (regKey (some 0) 0x2008) (2 ^ 45)
    s.barOpen 0 0 = true ∧ s.bar4Addr 0 0 2 = some (2 ^ 45) ∧ s.reach 0 (2 ^ 45) 2 = none := by decide +kernel
def aheadS : State := upL.setPort 0 { port1 with ahead := [(0, none, 9)], fns := [(0, { ats := true, pri := true })] }
def xferAcc : HostAcc := { acc1 .sent with why := .xfer 3 0, len := 64 }
theorem wit_HostAccesses_more : (aheadS.port 0).aheadHit 0 none 9 1 = [(0, none, 9)] ∧ aheadS.accs = [] ∧ (aheadS.fnc 0 0).pri = true ∧
    ({ accS .held {} [] with ticks := 2 ^ 30 } : State).accOf 5 = some (acc1 .held) ∧ (acc1 .held).kind.posted = false ∧
    0 + (accS .held {} []).faultLimit 0 ≤ 2 ^ 30 ∧ (0 : Nat) < 0 + (accS .held {} []).faultLimit 0 ∧
    ({ upL with accs := [xferAcc] } : State).accOf 5 = some xferAcc ∧ hostWhole ⟨List.replicate 32 1, some .timeout⟩ 64 = none ∧
    (let s := accS .pageReq { pri := true } [(7, 0, none, 9)]; (s.accs.filter fun a => a.port == 0 && a.fn == 0 && a.st == .pageReq) = [acc1 .pageReq] ∧
      s.linkOpen 0 = true) := by decide +kernel

/-! ### Witnesses: registers, the module and start-up -/

theorem wit_SetupAndControls_lock : let s := { upL with locked := false }
    s.bar0Open 0 0 0x1000 = true ∧ (s.wholeWrite 0 0).locked = false ∧ (s.wholeWrite 0 0).lockFault = none ∧ s.lockLast = none ∧
    (let t := ((podS s).setReg (regKey none 0x30108) 0).wholeWrite 0 0; t.lockFault = some (4, 0x30108) ∧
      ({ t with lockLast := some (t.ticks, 1, 4, 0x30108) } : State).lockLast = some (t.ticks, 1 - 0, 4, 0x30108)) ∧ (upL.wholeWrite 0 0).locked = true ∧
    (let t : State := { upL with lockLast := some (upL.ticks, 1, 0, 0) }; (t.wholeWrite 0 0).lockLast = some (t.ticks, 1, 0, 0)) := by decide +kernel
theorem wit_SetupAndControls_locked : upL.bar0Open 0 0 0x10210 = true ∧ 0x10210 % 8 = 0 ∧ storedDev 0x10210 = true ∧ lockedReg 0x10210 = true ∧
    devMask 0x10210 ≠ 0 ∧ upL.locked = true := by decide +kernel
/-- Port 0 claims every staging buffer. -/
def noStage : State := { upL with regs := (List.range 128).map fun k => (regKey none (0x11080 + 8 * k), some 0) }
theorem wit_SetupAndControls : upL.bar0Open 0 0 0x2000 = true ∧ upL.bar0Open 0 0 0x2018 = true ∧ fld (upL.preg 0 0x2000) 32 16 ≠ 0 ∧
    bitAt (upL.preg 0 0x2000) 6 = false ∧ 64 ≤ noStage.stagingFree 0 ∧ noStage.stagingFree 1 < 32 ∧ noStage.bar0Open 1 0 0x2018 = true ∧ fld (noStage.preg 1 0x2000) 32 16 ≠ 0 ∧
    bitAt (upL.preg 0 0x2018) 55 = false ∧ fld (upL.preg 0 0x2018) 0 34 ≤ 2 ^ 33 ∧ ({ upL with locked := false } : State).bar0Open 0 0 0x2018 = true := by
  decide +kernel
theorem wit_PinsAndTimers : upL.bar0Open 0 0 0x2028 = true ∧ upL.preg 0 0x2028 = 0 ∧ upL.preg 1 0x2028 = 0 ∧
    (upL.setReg (regKey (some 1) 0x2028) 5).preg 1 0x2028 = 1 + 2 * 2 ∧ upL.bar0Open 0 0 0x2038 = true ∧
    (let s := { upL.setReg (regKey (some 0) 0x2028) (8 + 12 * 65536 + 2 ^ 24) with ticks := 4096 };
      s.running = true ∧ bitAt (s.preg 0 0x2028) 3 = true ∧ s.ticks % 2 ^ fld (s.preg 0 0x2028) 16 6 = 0 ∧ 4097 % 2 ^ fld (s.preg 0 0x2028) 16 6 ≠ 0 ∧
      s.jinalUp = true ∧ bitAt (s.preg 0 0x2028) 24 = true) ∧
    (let s := upL.setReg (regKey (some 0) 0x2038) 1; s.awake = true ∧ bitAt (s.preg 0 0x2038) 0 = true ∧ (s.port 0).modEnd ≤ s.ticks) := by decide +kernel
theorem wit_RegisterAccesses : upL.bar0Open 0 0 0x1010 = true ∧ 0x1010 % 8 = 0 ∧
    (let s := upL.setPort 0 { port1 with latch := some (0x1010, 7) }; s.bar0Open 0 0 0x1014 = true ∧ (s.port 0).latch = some (0x1010, 7)) ∧
    upL.bar0Open 0 0 0x1011 = true ∧ 0x1011 % 4 ≠ 0 ∧ upL.bar0Open 0 0 (0x160000 + 32 * 511) = true ∧ upL.streamPort 511 = 1 ∧
    upL.bar0Open 1 0 (0x160000 + 32 * 511) = true ∧ upL.bar0Open 0 0 (0x80020 + 4096 * 22) = true ∧ upL.bar0Open 0 0 (0x40000 + 64 * 126 + 8) = true ∧
    (upL.wholeWrite 0 0).assignOk 0 127 1 (5 * 65536) = true ∧ (upL.wholeWrite 0 0).assignOk 0 127 0 (2 ^ 9 - 1) = false ∧ upL.regThere 0 0x1010 = true := by
  decide +kernel
/-- A word of the mailbox buffer written as two halves. -/
theorem test_split_write : (((after (.registerWrite 0 0 ⟨false, 0x500C⟩ 4 2) (after (.registerWrite 0 0 ⟨false, 0x5008⟩ 4 1) upL)).port 0).mboxData) = [(8, 1), (12, 2)] := by
  decide +kernel
def xferOk : MgXfer := ⟨true, true⟩
/-- The rails are down. -/
def offS : State := { upL with power := { upL.power with pwrgd := false } }
theorem wit_ManagementCommands : upL.power.standby = true ∧ xferOk.pecOk = true ∧ (⟨true, false⟩ : MgXfer).pecOk = false ∧ upL.jinalUp = true ∧
    offS.jinalUp = false ∧ offS.power.standby = true ∧ upL.mgmt.running = none ∧
    ({ upL with mgmt := { upL.mgmt with running := some (5, []) } } : State).mgmt.running ≠ none ∧ tempGroup 4 = some (56, 4) ∧ tempGroup 5 = none ∧
    (upL.log lgDevice).recent[15]? = none ∧ Tab.get none (cabS {}).mgmt.cables 0 = some (1, []) ∧ Tab.get none upL.mgmt.cables 8 = none ∧
    upL.resetRefused = false ∧
    ({ upL with mgmt := { upL.mgmt with halted := true, readings := List.replicate 60 2000 } } : State).resetRefused = true := by decide +kernel
theorem wit_ManagementCommands_log : ((upL.accessLog 0 0 0 accSize).logEvent lgDevice [] eClaim cReport 0 0 7 0 0).log lgDevice |>.recent[0]? |>.isSome := by
  decide +kernel
theorem wit_PowerEvents : let s := { upL with power := { upL.power with pwrgd := false, pwrEn := false, raising := false, cycling := false } }
    s.power.standby = true ∧ upL.power.pwrgd = true ∧ ({ s with power := { s.power with raising := true } } : State).power.raising = true ∧
    s.jinalUp = false ∧ upL.jinalUp = true ∧ upL.alertPin = false ∧
    upL.boot.trial = false ∧ upL.boot.session = none ∧ ((upL.setLink 3 { st := .active }).link 3).st ≠ .training ∧
    ({ upL with mgmt := { upL.mgmt with causes := 1 } } : State).alertPin = true ∧ State.reset.alertPin = false := by decide +kernel
def spS (n : Nat) : State := { upL with spdm := [(respKey (.doe 0), { step := n })] }
def doeR : SpdmReq := { who := .doe 0, attr := 1 }
theorem wit_Attestation : (∀ n ∈ [1, 2, 3], (spS n).spdmReached doeR = true ∧ (spS n).romOnly = false ∧ ((spS n).spdmOf doeR).step = n) ∧
    (spS 3).measSummary doeR.attr.toNat ≠ none ∧ doeR.attr.getLsbD 0 = true ∧ ({ doeR with attr := 0 } : SpdmReq).attr.getLsbD 0 = false ∧
    State.reset.romOnly = true ∧ offS.spdmReached { who := .mgmt } = false ∧
    (let s : State := { State.reset with boot := { State.reset.boot with stage := .verify } }; s.spdmReached { who := .mgmt } = true ∧ s.romOnly = true) := by
  decide +kernel
def sessS (who : Option FwOwner) : State := { upL with boot := { upL.boot with session := who } }
/-- The management interface ends a command, and port 0 writes one or runs it. -/
def mgmtW : Requester := .mgmt xferOk true
/-- Firmware commands of port 0 and of the management interface act: the mailbox runs one or takes one, a transfer ends one. -/
theorem wit_Firmware_acts : FwActs mgmtW 1 [] (sessS none) (sessS none) ∧ FwActs (.pf 0) 1 [] (sessS none) ((sessS none).wholeWrite 0 0) ∧
    (let s := (sessS none).setPort 0 { port1 with mboxBusy := some 1 }; FwActs (.pf 0) 1 [] s s) ∧
    (let s := { sessS none with mgmt := { upL.mgmt with running := some (5, []) } }; FwActs mgmtW (fwWord 5 0 0) [] s s) ∧
    FwActs mgmtW (fwWord 2 16 0) [1] (sessS (some mgmtW.owner)) (sessS (some mgmtW.owner)) ∧
    FwActs (.pf 0) (fwWord 2 4096 1) [] (sessS (some (.pf 0))) ((sessS (some (.pf 0))).wholeWrite 0 0) :=
  ⟨⟨rfl, by decide +kernel, by decide +kernel, by decide +kernel, .inl (by decide +kernel), rfl⟩,
    .inr ⟨by decide +kernel, by decide +kernel, rfl⟩, .inl ⟨by decide +kernel, by decide +kernel, rfl⟩,
    ⟨rfl, by decide +kernel, by decide +kernel, by decide +kernel, .inr (by decide +kernel), rfl⟩,
    ⟨rfl, by decide +kernel, by decide +kernel, by decide +kernel, .inl (by decide +kernel), rfl⟩,
    .inr ⟨by decide +kernel, by decide +kernel, rfl⟩⟩
theorem wit_Firmware : (let s := (sessS none).setPort 0 { port1 with mboxBusy := some 1 }; (s.port 0).mboxBusy = some 1 ∧ (1 : Nat) ≠ fwWord 5 0 0 ∧ s.fnOpen 0 0 = true) ∧
    (let s := { sessS none with mgmt := { upL.mgmt with running := some (1, []) } }; s.mgmt.running = some (1, []) ∧ (1, []) ≠ (fwWord 5 0 0, ([] : Bytes))) ∧
    (sessS none).boot.session = none ∧ (sessS none).boot.slots.pendingFlag = false ∧ (sessS (some mgmtW.owner)).boot.session = some mgmtW.owner ∧
    (sessS (some mgmtW.owner)).updateSlot = true ∧ ((sessS (some mgmtW.owner)).verifyRead true).1 ≠ 0 ∧
    ({ sessS none with boot := { upL.boot with trial := true } } : State).boot.trial = true ∧
    svnCount 0 ≤ 5 ∧ svnCount (blowTo 0 5) = 5 ∧ (0 : Nat) < 128 := by
  decide +kernel
def stS (st : Stage) : State := { State.reset with boot := { State.reset.boot with stage := st } }
def lateS (st : Stage) : State := { stS st with ticks := stageLimit st + 1 }
theorem wit_Startup : (∀ st ∈ [Stage.clocks, .bridges, .memories, .flash, .links, .release], (stS st).awake = true ∧ (stS st).mgmt.halted = false ∧
      (stS st).boot.stage = st ∧ (stS st).stageLate = false) ∧
    (∀ st ∈ [Stage.wake, .verify, .clocks, .bridges, .memories, .flash, .links, .release], (lateS st).awake = true ∧ (lateS st).mgmt.halted = false ∧
      (lateS st).boot.stage = st ∧ (lateS st).stageLate = true) ∧
    (∀ st ∈ [Stage.clocks, .bridges, .memories, .flash, .links, .release], ∀ n ∈ [0, 1], n < stageUnits st) ∧
    (let s := { (stS .links).setLink 2 { phase := 4 } with mgmt := { State.reset.mgmt with cables := [(0, some (1, []))] } };
      (s.link 2).st = .training ∧ s.cabled 2 = true) ∧ (stS .wake).boot.stage = .wake := by decide +kernel
def ev1 (rung : Nat) : HeldEvent := { unit := ⟨2, 1⟩, rung := rung, code := eCrumbCheck, token := 7, since := 0, log := lgSifter 1, ports := [0, 1], field := 1, info0 := 0, info1 := 0 }
def evS (rung : Nat) : State := { upL with heldEvents := [ev1 rung], ticks := 2 ^ 40 }
theorem wit_Recovery : upL.barOpen 0 0 = true ∧ (upL.port 0).resetReq = none ∧
    (let g := fld ((upL.setReg (regKey (some 0) 0x3010) 10).preg 0 0x3010) 0 16; 10 ≤ g ∧ g ≤ 60000) ∧ (upL.port 1).linkUp = true ∧
    ((upL.setPort 0 { port1 with resetReq := some 5 }).port 0).resetReq ≠ none ∧ upL.shown = none ∧ (evS 2).shown = some (ev1 2) ∧
    (evS 1).shown = some (ev1 1) ∧ (ev1 1).token = (7 : BitVec 16).toNat ∧ upL.resetAgreed = false ∧
    ((upL.setPort 0 { port1 with resetReq := some 5 }).setPort 1 { port1 with resetReq := some 5 }).resetAgreed = true ∧
    (let s := { upL with mgmt := { upL.mgmt with resetDeadline := some 5 }, ticks := 5 }; s.awake = true ∧ s.mgmt.resetDeadline = some 5 ∧ 5 ≤ s.ticks) ∧
    (let s := (evS 1).setReg (regKey none 0x1050) (2 ^ 32); fld (s.dreg 0x1050) 32 16 ≠ 0 ∧
      (ev1 1).since + fld (s.dreg 0x1050) 32 16 * ticksPerMs ≤ s.ticks ∧ s.running = true ∧
      s.heldEvents.find? (fun e => e.token == 7 && e.escalated.isNone) = some (ev1 1)) := by decide +kernel
theorem wit_PowerEvents_cycle : let s := { upL with power := { upL.power with pwrgd := false, raising := false, cycling := true, vin := 48000 } }
    s.power.cycling = true ∧ s.power.standby = true ∧ upL.power.cycling = false ∧ ({ s with power := { s.power with standby := false } } : State).power.standby = false := by
  decide +kernel
/-- A halted device with a reset refused by its temperature, and one whose ports have agreed. -/
def hotS : State := { upL with mgmt := { upL.mgmt with readings := List.replicate 60 2000, resetDeadline := some 5 }, ticks := 5 }
theorem wit_Recovery_resets : ({ hotS with mgmt := { hotS.mgmt with halted := true } } : State).resetRefused = true ∧ upL.resetRefused = false ∧
    (let s := { (upL.setPort 0 { port1 with resetReq := some 5 }) with ticks := 5 };
      s.resetAgreed = false ∧ ([0, 1].filter fun p => (s.port p).resetReq.any fun d => decide (d ≤ s.ticks)) = [0] ∧ s.mgmt.resetDeadline = none) ∧
    (let s := { (upL.setPort 0 { port1 with resetReq := some 5 }).setPort 1 { port1 with resetReq := some 5 } with ticks := 5 };
      s.resetAgreed = true ∧ ([0, 1].filter fun p => (s.port p).resetReq.any fun d => decide (d ≤ s.ticks)) ≠ []) := by decide +kernel
theorem wit_RegisterAccesses_forms : (upL.setPort 0 { port1 with vfEnable := true, numVFs := 3 }).bar0Open 0 3 0x8 = true ∧
    (upL.setPort 0 { port1 with vfEnable := true, numVFs := 3 }).bar0Open 0 3 2 = true ∧ upL.barOpen 0 0 = true ∧ 64 < barSize 0 true ∧
    ¬ (2 = 8 ∧ 0x1010 % 8 = 0) ∧ ¬ (8 = 8 ∧ 0x1014 % 8 = 0) ∧ upL.bar0Open 0 0 0x1014 = true := by decide +kernel
theorem wit_PinsAndTimers_held : (upL.setPort 0 { port1 with modPending := true }).port 0 |>.modPending := by decide +kernel
/-- An 8-byte read of the device's identity and one of 2 bytes. -/
theorem test_read_sizes : ((after (.splitRead 0 ⟨⟨false, 0x1000⟩, 0, 8⟩) upL).out, (after (.splitRead 0 ⟨⟨false, 0x1000⟩, 0, 2⟩) upL).out.map fun o => match o with
      | .readData _ b _ => b
      | _ => []) = ((after (.splitRead 0 ⟨⟨false, 0x1000⟩, 0, 8⟩) upL).out, [[0xFF, 0xFF]]) := by decide +kernel
/-- The example of R490 and the pins of R496: E16 is port 1, lane 5, transmit positive; C14 is lane 0 of the connector's third link, receive negative. -/
theorem test_pins : (hostPin 4 16, hostPin 6 17, linkPin 2 14, busAddress 2) =
    (.lane 1 5 true true, .lane 1 5 false false, .lane 2 0 false false, 0x62#7) := by decide
def hot (v : BitVec 16) : List (BitVec 16) := List.replicate 59 400 ++ [v]
theorem wit_Sensors : offS.jinalUp = false ∧ upL.jinalUp = true ∧ (hot 400).length = 60 ∧ upL.mgmt.warned = [] ∧ upL.mgmt.halted = false ∧
    (∀ x ∈ (hot 400).zipIdx, x.1.toInt < 16 * upL.warnAt x.2 ∧ x.1.toInt < 16 * criticalAt x.2) ∧
    (hot 1360).zipIdx.find? (fun x => decide (16 * criticalAt x.2 ≤ x.1.toInt)) = some (1360, 59) := by decide +kernel
theorem test_thermal_halt : let t := after (.sensorSample (hot 1360)) upL
    (t.mgmt.halted, t.mgmt.haltSensor, t.mgmt.haltReading, t.running) = (true, 59, 1360, false) := by decide +kernel
theorem test_supply_halt : ((after (.supplyFault 47999) upL).mgmt.haltSupply, (after (.supplyFault 58000) upL).mgmt.halted) = (true, false) := by
  decide +kernel
/-- A firmware image of 550 bytes, svn 1: six components of one byte. The key, the signature and the digests were worked outside the model. -/
def imgDigests : List Nat :=
  [0x8ce86a6ae65d3692e7305e2c58ac62eebd97d3d943e093f577da25c36988246b, 0xa9f51566bd6705f7ea6ad54bb9deb449f795582d6529a0e22207b8981233ec58,
   0x333e0a1e27815d0ceee55c473fe3dc93d56c63e3bee2b3b4aee8eed6d70191a3, 0x8c2574892063f995fdf756bce07f46c1a5193e54cd52837ed91e32008ccf41ac,
   0xa83dd0ccbffe39d071cc317ddf6e97f5c6b1c87af91919271f9fa140b0508c6c, 0x8de0b3c47f112c59745f717a626932264c422a7563954872e237b223af4ad643]
@[irreducible] def imgB : Bytes :=
  ascii "AN31" ++ natLe 4 0x60001 ++ natLe 4 1 ++ natLe 4 550 ++ List.replicate 16 0 ++
  natBe 32 0x88bb9ff22ab291a74c86fc677ba897baadee370cc6129b82d170ba3fc26415c ++ natBe 32 0x442da9a716067956d91eaa02b93ad409490e87cd5e758ea6a331a1deb75ba846 ++ List.replicate 96 0 ++
  natBe 32 0x7f6b80844bd54dc4f9a8ddd0afde96ac43754df52236a9d065bd80a052d1cd7e ++ natBe 32 0x8e498504cd2be1a9ae15b36db4803070b3cf2a53da7d828179a7929815fa9c06 ++
  (imgDigests.zipIdx.flatMap fun x => natLe 8 (x.2 + 1) ++ natLe 4 (544 + x.2) ++ natLe 4 1 ++ natBe 32 x.1) ++ ascii "NEGRIS"
/-- Two empty certificates, and one with the public key that R463 derives from a device secret of zeros. -/
@[irreducible] def certB : Bytes :=
  [0x30, 0, 0x30, 0, 0x30, 68, 0x03, 0x42, 0x00, 0x04] ++
  natBe 32 0x48e9ebe7945b59cd732df30ea5fe9208ea6fa7809d5d1e998407154a18ee7a3e ++ natBe 32 0xd0f55bc713aff8efc87ac55e4dab2f97e9aa4924f4a15775e5edcff873aa8ebc
@[irreducible] def flashM : Memory := (Memory.writeBytes [] 0x3010000 certB).writeBytes 0 imgB
/-- Stage B with this image in slot 0 and the hash of its key in the fuses. -/
def bootS : State :=
  { State.reset with
    bootFlash := flashM
    fuses := { State.reset.fuses with rootHash := [7028746602838548431638546311580689905625252224857137045904936916603885544004#256, 0, 0, 0] }
    boot := { State.reset.boot with stage := .verify } }
theorem imgB_length : imgB.length = 550 := by decide +kernel
theorem flash_eq : bootS.bootFlash = (Memory.writeBytes [] 0x3010000 certB).writeBytes 0 imgB := by
  show flashM = _
  unfold flashM; rfl
theorem boot_flash (o n : Nat) (h : o + n ≤ 550) : bootS.flashBytes o n = (imgB.drop o).take n := by
  have := Memory.readBytes_writeBytes_in imgB (Memory.writeBytes [] 0x3010000 certB) 0 n o (by rw [imgB_length]; exact h)
  rw [Nat.zero_add] at this
  rw [State.flashBytes, flash_eq, this]
theorem all_same (f g : Component → Bool) : ∀ cs : List Component, (∀ c ∈ cs, f c = g c) → cs.all f = cs.all g
  | [], _ => rfl
  | c :: r, h => by simp [h c, all_same f g r fun c hc => h c (List.mem_cons_of_mem _ hc)]
/-! What the reads of R460 leave as it is. -/
theorem readHeader_sram (s : State) (b : Bool) : (s.readHeader b).boot.sram = s.boot.sram.writeBytes 0 (s.flashBytes (slotBase b) 544) := by
  simp only [State.readHeader]
theorem readHeader_flash (s : State) (b : Bool) (o n : Nat) : (s.readHeader b).flashBytes o n = s.flashBytes o n := by
  simp only [State.readHeader, State.flashBytes]
theorem readHeader_image (s : State) (b : Bool) : (s.readHeader b).boot.image = s.boot.image := by simp only [State.readHeader]
theorem readImage_image (s : State) (b : Bool) :
    (s.readImage b).boot.image = s.boot.image.writeBytes 0 (s.flashBytes (slotBase b) (fieldAt s.header 12 4)) := by
  simp only [State.readImage]
theorem readImage_table (s : State) (b : Bool) : (s.readImage b).table = s.table := by simp only [State.readImage, State.table]
theorem cert_read (s : State) (b : Bool) : ((s.readHeader b).readImage b).deviceCertOk = s.deviceCertOk := by
  simp only [State.readHeader, State.readImage, State.deviceCertOk, State.storedCerts, State.flashBytes, State.deviceKey]
theorem slots_read (s : State) (b : Bool) : ((s.readHeader b).readImage b).boot.slots = s.boot.slots := by
  simp only [State.readHeader, State.readImage]
theorem slots_same (s : State) (h : s.boot.slots = {}) : ({ s with boot := { s.boot with slots := {} } } : State) = s := by
  obtain ⟨x⟩ := s; rw [← h]
theorem putSlots_same (s : State) : s.putSlots s.boot.slots = s := by simp [State.putSlots]
theorem slot_flash (o n : Nat) (h : o + n ≤ 550) : bootS.flashBytes (slotBase false + o) n = (imgB.drop o).take n := by
  rw [show slotBase false + o = o from Nat.zero_add o]; exact boot_flash o n h
/-- Jinal's copy of the header and the table, and the boot image SRAM's of the image. -/
theorem boot_sram (o n : Nat) (h : o + n ≤ 544) : (bootS.readHeader false).boot.sram.readBytes o n = ((imgB.take 544).drop o).take n := by
  have hf : bootS.flashBytes (slotBase false) 544 = imgB.take 544 := boot_flash 0 544 (by omega)
  have := Memory.readBytes_writeBytes_in (imgB.take 544) bootS.boot.sram 0 n o (by rw [List.length_take, imgB_length]; omega)
  rw [Nat.zero_add] at this
  rw [readHeader_sram, hf, this]
def imgTable : Bytes := ((imgB.take 544).drop 256).take 288
theorem boot_header : (bootS.readHeader false).header = ((imgB.take 544).drop 0).take 256 := boot_sram 0 256 (by omega)
theorem boot_table : (bootS.readHeader false).table = imgTable := boot_sram 256 288 (by omega)
theorem boot_size : fieldAt (bootS.readHeader false).header 12 4 = 550 := by rw [boot_header]; decide +kernel
theorem boot_image (o n : Nat) (h : o + n ≤ 550) : ((bootS.readHeader false).readImage false).boot.image.readBytes o n = (imgB.drop o).take n := by
  have hf : (bootS.readHeader false).flashBytes (slotBase false) 550 = imgB := by
    rw [readHeader_flash, show slotBase false = 0 from rfl, boot_flash 0 550 (by omega), List.drop_zero, List.take_of_length_le (by rw [imgB_length])]
  have := Memory.readBytes_writeBytes_in imgB bootS.boot.image 0 n o (by rw [imgB_length]; omega)
  rw [Nat.zero_add] at this
  rw [readImage_image, readHeader_image, boot_size, hf, this]
theorem img_parts : ((components imgTable).all fun c => decide (c.off + c.len ≤ 550)) = true := by decide +kernel
theorem img_header : (bootS.readHeader false).headerStatus = 0 := by
  unfold State.headerStatus
  rw [boot_header, boot_table]
  decide +kernel
theorem img_digests : ((bootS.readHeader false).readImage false).digestsOk = true := by
  unfold State.digestsOk
  rw [readImage_table, boot_table,
    all_same _ (fun c => digestBytes (sha256 ((imgB.drop c.off).take c.len)) == c.digest) _
    fun c hc => by rw [boot_image _ _ (of_decide_eq_true (List.all_eq_true.mp img_parts c hc))]]
  decide +kernel
/-- Slot 0 passes: its header, its table and its image stand in the SRAMs. -/
theorem wit_verify_image : bootS.verifyRead false = (0, (bootS.readHeader false).readImage false) := by
  simp only [State.verifyRead, img_header, img_digests, ne_eq, not_true_eq_false, if_false, if_true]
theorem wit_verify_certificate : bootS.deviceCertOk = true := by
  have h : bootS.flashBytes 0x3010000 0x10000 = (Memory.writeBytes [] 0x3010000 certB).readBytes 0x3010000 0x10000 := by
    rw [State.flashBytes, flash_eq,
      Memory.readBytes_writeBytes_out imgB _ 0 _ _ (Or.inr (by rw [imgB_length]; omega))]
  unfold State.deviceCertOk State.storedCerts
  rw [h]
  decide +kernel
theorem certB_length : certB.length = 74 := by decide +kernel
/-- No copy of the slot state is valid in this flash: the first state of log entry 3 holds. -/
theorem boot_copy (n : Nat) : bootS.bootFlash.readBytes (slotCopy n) 16 = Memory.readBytes [] (slotCopy n) 16 := by
  have hl : 0x3000000 ≤ slotCopy n ∧ slotCopy n ≤ 0x3008000 := by unfold slotCopy; omega
  rw [flash_eq, Memory.readBytes_writeBytes_out imgB _ 0 _ _ (Or.inr (by rw [imgB_length]; omega)),
    Memory.readBytes_writeBytes_out certB _ _ _ _ (Or.inl (by omega))]
theorem wit_verify_slots : bootS.readSlots = {} := by
  simp only [State.readSlots, boot_copy 0, boot_copy 1]
  decide +kernel
theorem wit_verify_state : bootS.awake = true ∧ bootS.mgmt.halted = false ∧ bootS.boot.stage = .verify ∧ bootS.stageLate = false ∧
    bootS.boot.slots = {} ∧ ({} : SlotState).pendingFlag = false ∧ ({} : SlotState).order.filter ({} : SlotState).usable = [false, true] ∧
    ({} : SlotState).booted (some false) = {} := by decide +kernel
/-- The image boots: the first try passes, the slot state stays as it is, and the DeviceID certificate names the derived key. -/
theorem wit_verify : let x := bootS.readSlots
    let t := State.tryReads { bootS with boot := { bootS.boot with slots := x } } (x.order.filter x.usable)
    let v := t.2.putSlots (x.booted t.1)
    x.pendingFlag = false ∧ t.1 = some false ∧ v.deviceCertOk = true := by
  have ht : bootS.tryReads [false, true] = (some false, (bootS.readHeader false).readImage false) := by
    simp only [State.tryReads, wit_verify_image, if_true]
  have hs : ((bootS.readHeader false).readImage false).boot.slots = {} := (slots_read _ _).trans wit_verify_state.2.2.2.2.1
  have hv : ((bootS.readHeader false).readImage false).putSlots {} = (bootS.readHeader false).readImage false := by
    conv => lhs; rw [← hs]
    exact putSlots_same _
  intro x t v
  have hx : x = {} := wit_verify_slots
  have h : t = (some false, (bootS.readHeader false).readImage false) := by
    simp only [t, hx, slots_same bootS wit_verify_state.2.2.2.2.1, wit_verify_state.2.2.2.2.2.2.1, ht]
  refine ⟨by rw [hx], by rw [h], ?_⟩
  simp only [v, h, hx, wit_verify_state.2.2.2.2.2.2.2, hv, cert_read, wit_verify_certificate]
/-- An empty flash passes no slot, and a flash without the certificate gives no DeviceID. -/
theorem wit_verify_none : let s := { State.reset with boot := { State.reset.boot with stage := .verify } }
    let x := s.readSlots
    s.stageLate = false ∧ x.pendingFlag = false ∧ (State.tryReads { s with boot := { s.boot with slots := x } } (x.order.filter x.usable)).1 = none ∧
    s.deviceCertOk = false := by decide +kernel

/-! ### Witnesses: both sides of the conditions above -/

theorem wit_UpdateAndApply_home : (∀ row ∈ [3, 5], (presentS.readHome tab1 true (SiftBlk.parse updB).idx64 row).1 = presentS.devId ∧
    (presentS.rowLoc tab1 true (SiftBlk.parse updB).idx64 row).dflt = false) := by decide +kernel
/-- Core 3's request to deposit one gradient for row 3: its offsets, 0 and 1, are at 0x3500. -/
def oneB : Bytes := updB.take 28 ++ natLe 4 0x3500 ++ updB.drop 32
def oneS (w : List Window) : State :=
  { presentS.setCore 3 { reqK with ls := reqK.ls.writeBytes 0x3504 (natLe 4 1), lsu := [{ updQ with block := oneB }] } with windows := w }
def oneEnts : List Ent := ((oneS []).core 3).siftEntries (SiftBlk.parse oneB) tab1.len
def laidOf (s : State) : Bool :=
  let b := SiftBlk.parse oneB
  (((s.core 3).siftEntries b tab1.len).zipIdx.foldl (fun (a : Bool × State) x =>
    (a.1 || (a.2.deposit 3 (rowQ oneB) b tab1 x.1 x.2).1, (a.2.deposit 3 (rowQ oneB) b tab1 x.1 x.2).2))
    (false, ({ s with queue := s.queue ++ [(3, 0)] } : State).readRowDirs 0 false tab1 true b.idx64 (((s.core 3).siftEntries b tab1.len).map (·.row)))).1
/-- An `UPDATE` whose contribution joins the window, and one whose place is taken. -/
theorem wit_UpdateAndApply_laid : laidOf (oneS []) = false ∧ laidOf (oneS [win1 none none]) = true ∧ (oneEnts.map (·.row)) = [3] ∧
    (oneS []).reqOf 3 0 = some (rowQ oneB) ∧ (SiftBlk.parse oneB).op = 4 ∧ (oneS []).tableOf (SiftBlk.parse oneB).table = some tab1 ∧
    (oneS []).accs = [] ∧ (oneS []).flashWrites = [] ∧ (oneS []).shardMoving tab1.scope (((oneS []).rowLoc tab1 true false 3).shard tab1) = false := by
  decide +kernel
theorem wit_StreamCommands_up : (strS genA).streamsUp 0 = true ∧ (strS genA).streamsUp 1 = true ∧ (strS genA).streamPort 12 = rn.port ∧
    (∀ st, st < 512 → st / 64 < 8) ∧ ({ strS genA with mgmt := { up.mgmt with halted := true } } : State).streamsUp 0 = false ∧
    (strS genA |>.setReg (regKey none 0x10210) 8).streamPort 12 = 1 := by
  refine ⟨by decide +kernel, by decide +kernel, by decide +kernel, fun st h => by omega, by decide +kernel, by decide +kernel⟩
theorem wit_StreamCommands_prefix : (strS genC).entryOf ((strS genC).streamPort 12) genC = .stop ∧
    ∃ k, genC.delivered ≤ k ∧ k < genC.requested ∧ k ∉ 0 :: genC.arrived := ⟨by decide +kernel, 1, by decide⟩
theorem wit_RingControl_open : (∀ st ∈ [RingSt.idle, .orphaned], let s := ringS { ring0 with st := st }
      s.barOpen 0 0 = true ∧ s.ringReached 0 0 0 = true ∧ (s.ring 0).st = st) ∧ (dS 0 []).barOpen 0 0 = true ∧ (ringS ring0).recordHeld 0 = false ∧
    (ringS { ring0 with st := .draining }).barOpen 0 0 = true := by decide +kernel
/-- A set-up descriptor whose read of the host goes out, one whose read waits for the bus master enable, and one whose function is gone. -/
def askedOf (s : State) : State := s.setupAsked 0 3 0x1000
def gone0 (x : Live) : State := withD { x with orphaned := true } upL
theorem wit_TableDescriptors_asked : (∀ op ∈ [(0x18 : BitVec 8), 0x20, 0x28],
      (withD (setupX op) upL).descAny 0 3 op.toNat = some (setupX op) ∧ ((askedOf (withD (setupX op) upL)).setupSent 0 3).isSome = true ∧
      (let s := askedOf ((withD (setupX op) upL).setPort 0 { port1 with fns := [(0, {})] }); s.setupSent 0 3 = none ∧ (s.accs.any fun a => a.why == .setup 0 3) = true)) ∧
    fieldAt (setupX 0x18).entry 8 8 = 0x1000 := by decide +kernel
theorem wit_TableDescriptors_answer : (let u := askedOf (regionS (withD (setupX 0x18) upL)); u.tableOk 0 tableB = true ∧ u.tableOk 0 (List.replicate 64 0xFF) = false ∧ u.tableOf 6 = none) ∧
    (let u := askedOf (withD (setupX 0x20) upL); u.graphOk 0 graphB = true ∧ u.graphOk 0 (List.replicate 64 0xFF) = false ∧ u.graphOf 2 = none) ∧
    (let u := askedOf (chanS (setupX 0x28) {}); u.chanOk (u.ringPort 0) (u.ringFn 0) (chanB 0) = true ∧ (u.chan 3).arm = none ∧
      u.chanOk (u.ringPort 0) (u.ringFn 0) (chanB (2 ^ 60)) = false) := by decide +kernel
/-- The same descriptor accepted a moment earlier on ring 1, for the same object. -/
def behind (x : Live) (s : State) : State := (s.setRing 0 { ring0 with live := [{ x with order := 1 }] }).setRing 1 { ring0 with live := [x] }
theorem wit_Descriptors_order : (∀ op ∈ [(0x19 : BitVec 8), 0x29], let x := objX op 6
      (behind x upL).earlierNames op.toNat { x with order := 1 } tableId = true ∧ (withD x upL).earlierNames op.toNat x tableId = false) ∧
    (let names (e : Live) : Nat := fld (fieldAt (e.ext.getD []) 0 8) 4 12
     (behind sweepX upL).earlierNames 0x22 { sweepX with order := 1 } names = true ∧ (withD sweepX upL).earlierNames 0x22 sweepX names = false) ∧
    (let names (e : Live) : Nat := bfld e.entry 8 4 0 12
     (behind (objX 0x29 3) upL).earlierNames 0x29 { objX 0x29 3 with order := 1 } names = true) := by decide +kernel
theorem wit_MachineCheckResults_drain : (∀ r ∈ [{ rn with retry := true, uncounted := true }, { rn with retry := true, uncounted := false }],
      (on3 { k3 with run := some r }).issuing 3 = some r) ∧ rn.retry = false := by decide +kernel
/-- The entry of ring 0 asked for, and its read held while bus mastering is off. -/
def sentS (n : BitVec 32) : State := (readS n).askEntry 0 0
theorem wit_DescriptorIntake_sent : (∀ k ∈ [1, 2], let n := BitVec.ofNat 32 k; (sentS n).running = true ∧ (sentS n).entrySent = some 0 ∧ (readS n).entrySent = none ∧ (readS n).nextRing = some 0) ∧
    (let s := (readS 1).setPort 0 { port1 with fns := [(0, {})] }; s.nextRing = some 0 ∧
      State.entrySent (State.askEntry { s with ringTurn := Tab.put 0 s.ringTurn (s.ring 0).cls.num 0 } 0 0) = none) ∧
    State.entrySent (State.askEntry { readS 1 with ringTurn := Tab.put 0 (readS 1).ringTurn ((readS 1).ring 0).cls.num 0 } 0 0) = some 0 ∧
    (readS 0).nextRing = none ∧ (readS 0).entrySent = none ∧
    (let s := sentS 2; 2 ≤ ((s.ring 0).sqTail - (s.ring 0).sqHead).toNat) ∧
    hostWhole (ansB [9, 1]) 128 = some ([9, 1] ++ List.replicate 126 0) ∧ (ansB [9, 1]).err = none := by decide +kernel
theorem wit_PlainDescriptors_others : (dS 0 []).released = [] ∧ (dS 0 []).accs = [] := by decide +kernel
theorem wit_Service_busy : ((svcS reqX (some { svc1 with unbinding := true })).svc 0 2).map (·.unbinding) = some true ∧
    (let x := { numd reqX with versions := [(6, true)] }; x.num = some 1 ∧ (svcS x (some svc1)).descOf 0 3 12 = some x) := by decide +kernel
theorem wit_ChunkAccounting_free : let s : State := { up with chunks := [⟨8, 2 ^ 34, 5, 0, true⟩, ⟨8, 2 ^ 34 + 1024, 5, 0, false⟩] }
    s.chunks.Nodup ∧ s.freeCrumbs 0 8 = 32 ∧ (s.freeChunk 0 8 (2 ^ 34) 5).freeCrumbs 0 8 = 64 ∧ (s.freeChunk 0 8 (2 ^ 34) 5).chunks = [⟨8, 2 ^ 34, 6, 0, false⟩] := by
  decide +kernel
theorem wit_MemoryChecks_words : 9 ∉ (up.core 3).sidePoison ∧ (9 : Nat) < 8192 ∧ up.locate 0x80000000 = some (0, 0x80000000) := by decide +kernel
/-- Two packets of device 5 and one of device 6 for this device, and the same while the link's hub restarts. -/
def pktA : Packet := { pkt clRq 1 9 [1] with src := 6, last := false }
def pktB : Packet := { pkt clRq 1 9 [2] with last := false }
def pktC : Packet := pkt clRq 1 9 [3]
def threeQ : List Packet := [pktA, pktB, pktC]
def threeS : State := upL.setLink 2 { st := .active, rxq := threeQ }
theorem wit_MessageTaking_head : (threeS.takeMsg 2 clRq 1).map (fun x => (x.1.body, (x.2.link 2).rxq)) = some ([2, 3], threeQ.take 1) ∧
    (threeS.setUnitSt ⟨3, 0⟩ { reinit := true }).fnUp 3 (2 / 18) = false ∧ threeS.fnUp 3 0 = true := by decide +kernel
theorem wit_MessageTaking_at : MessageAtHead clRq 0 threeQ [pktB, pktC] :=
  ⟨pktB, [pktC], [pktA], [pktC], rfl, rfl, rfl, rfl, by decide +kernel, fun h => absurd h (by decide), fun _ => ⟨[pktB], pktC, rfl, rfl, by decide +kernel⟩⟩
theorem wit_MessageTaking_answer : MessageAtHead clRs 0 [{ pkt clRs 1 9 [1] with last := false }] [{ pkt clRs 1 9 [1] with last := false }] :=
  ⟨_, [], [], [], rfl, rfl, rfl, rfl, (fun _ h => absurd h (List.not_mem_nil)), fun _ => rfl, fun h => absurd rfl h⟩
theorem wit_RequestMessages_sweep : (∀ c, ({ upL with sweeps := [{ endSweep with computed := c }] } : State).sweepTakes 2 5 = c) ∧ upL.sweepTakes 2 5 = true ∧
    (match (copyS 1).takeMsg 2 clRq 6 with
      | some (m, _) => bfld m.body 0 8 0 3 != 0 && bfld m.body 8 8 0 12 == 2
      | none => false) = true := by decide +kernel
theorem wit_RequestMessages_whole : nodeW.wholeFrom 1 5 0 = true ∧ nodeW.wholeFrom 1 5 1 = false ∧ ({ nodeW with away := [(1, 5)] } : Window).wholeFrom 1 5 0 = false ∧
    nodeW.takesNodes 0 6 true 1 5 = true ∧ upL.nodeHome tab1 true (some 5) = (upL.devId, some 5) ∧
    (let s := ((podS upL).setEntry16 0x34000 (shardOf 6 0) 5).setTable 6 (some { tab1 with scope := 1 }); (s.nodeHome { tab1 with scope := 1 } true (some 5)).1 = 5 ∧ s.devId = 0) := by
  decide +kernel
theorem wit_LinkBringUp_lock : let s (k : Link) := cabS k
    ((s { phase := 4, goodFlits := 63 }).link 2).st ≠ .reinit ∧ (s { phase := 4, goodFlits := 63 }).locked = true ∧
    ({ s { phase := 4, goodFlits := 63 } with locked := false } : State).linksRun = true ∧ ({ s { phase := 5 } with locked := false } : State).locked = false ∧
    ((s { phase := 4, goodFlits := 64 }).link 2).goodFlits = 64 ∧ ((s { phase := 4, goodFlits := 62 }).link 2).goodFlits < 63 ∧
    (let t := { s { phase := 4, since := 5, retried := true, st := .reinit } with ticks := 2 ^ 40 }; (t.link 2).since + phaseLimit 4 < t.ticks ∧ (t.link 2).goodFlits ≠ 64) ∧
    (let t := { s { phase := 3, since := 5, retried := true } with ticks := 2 ^ 40 }; (t.link 2).since + phaseLimit 3 < t.ticks ∧ (t.link 2).st ≠ .reinit) ∧
    (let t := { s { phase := 2, since := 5 } with ticks := 2 ^ 40 }; (t.link 2).since + phaseLimit 2 < t.ticks ∧ (t.link 2).retried = false) := by decide +kernel
theorem wit_ResetRequest_word : let s := upL.wholeWrite 0 0
    (s.port 0).resetReq = none ∧ (let g := fld (s.preg 0 0x3010) 0 16; 10 ≤ g ∧ g ≤ 60000) ∧ (s.port 1).linkUp = true ∧
    ((evS 2).wholeWrite 0 0).shown = some (ev1 2) ∧ ((evS 1).wholeWrite 0 0).shown = some (ev1 1) := by decide +kernel
theorem wit_Startup_stage : (lateS .wake).boot.stage = .wake ∧ (lateS .release).stageLate = true ∧ (stS .done).boot.stage ≠ .release := by decide +kernel

end Sys2Proof.Tests
end

section
/-! PROOFS. Signs of sums and products (R33): rounding keeps the sign of a value and makes no NaN, so the signs of results are
those of the exact operations. -/

namespace Sys2Proof.Machine

section rounding
variable (f : Fmt) (r : Rnd) (o : Ovf)

@[simp] theorem Fmt.round_zero (neg : Bool) (e : Int) (sticky : Bool) : f.round r o neg 0 e sticky = .zero neg := rfl

@[simp] theorem Fmt.roundV_zero (neg : Bool) : f.roundV r o (.zero neg) = .zero neg := rfl

/-- All that rounding a finite magnitude can answer: an infinity or a finite value, of the sign it was given. -/
theorem Fmt.round_cases (neg : Bool) (m : Nat) (e : Int) (sticky : Bool) :
    f.round r o neg m e sticky = .inf neg ∨ ∃ m' e', f.round r o neg m e sticky = .fin neg m' e' := by
  unfold Fmt.round
  extract_lets
  split
  · exact .inr ⟨0, 0, rfl⟩
  · split
    · cases o with
      | saturate => exact .inr ⟨_, _, rfl⟩
      | toInf =>
        dsimp only
        split
        · exact .inl rfl
        · exact .inr ⟨_, _, rfl⟩
    · exact .inr ⟨_, _, rfl⟩

/-- Rounding makes no NaN and loses none. -/
@[simp] theorem Fmt.roundV_isNan (v : FV) : (f.roundV r o v).isNan = v.isNan := by
  cases v with
  | nan => rfl
  | inf s => rfl
  | fin s m e => obtain h | ⟨_, _, h⟩ := f.round_cases r o s m e false <;> simp [Fmt.roundV, h, FV.isNan]

/-- Rounding keeps the sign, also where it overflows or underflows. -/
@[simp] theorem Fmt.roundV_sign (v : FV) : (f.roundV r o v).sign = v.sign := by
  cases v with
  | nan => rfl
  | inf s => rfl
  | fin s m e => obtain h | ⟨_, _, h⟩ := f.round_cases r o s m e false <;> simp [Fmt.roundV, h, FV.sign]

end rounding

/-- An exact sum of opposite signs whose magnitudes agree at the common exponent is +0. -/
theorem FV.add_opposite_eq_zero (n : Bool) {m1 m2 : Nat} {e1 e2 : Int}
    (h : m1 <<< (e1 - min e1 e2).toNat = m2 <<< (e2 - min e1 e2).toNat) :
    FV.add (.fin n m1 e1) (.fin (!n) m2 e2) = .zero false := by
  cases n <;> simp [FV.add, h]

/-- The exact sum of two negative zeros is -0, whatever their exponents. -/
theorem FV.add_negZero_negZero (e1 e2 : Int) : FV.add (.fin true 0 e1) (.fin true 0 e2) = .zero true := by
  simp [FV.add]

/-- An exact product that is a number has the exclusive OR of its operands' signs. -/
theorem FV.mul_sign {a b : FV} (h : (a.mul b).isNan = false) : (a.mul b).sign = (a.sign != b.sign) := by
  have inf_or_nan (m : Nat) (s : Bool) (hn : (if m = 0 then FV.nan else .inf s).isNan = false) :
      (if m = 0 then FV.nan else .inf s).sign = s := by
    split at hn
    · cases hn
    · next hm => rw [if_neg hm]; rfl
  match a, b with
  | .nan, _ | .inf _, .nan | .fin .., .nan => cases h
  | .inf _, .inf _ | .fin .., .fin .. => rfl
  | .inf s, .fin t m _ => exact inf_or_nan m (s != t) h
  | .fin s m _, .inf t => exact inf_or_nan m (t != s) h |>.trans (bne_comm ..)

/-- Settles O6: rounding keeps the zero or the sign that the exact sum or product has, and `add32` and `mul32` are these
operations rounded. -/
theorem signsOfZerosAndProducts : Obligations.SignsOfZerosAndProducts := by
  refine ⟨fun f r o n m1 m2 e1 e2 h => ?_, fun f r o e1 e2 => ?_, fun f r o a b h => ?_, fun a b => ⟨rfl, rfl⟩⟩
  · rw [FV.add_opposite_eq_zero n h, Fmt.roundV_zero]
  · rw [FV.add_negZero_negZero, Fmt.roundV_zero]
  · rw [Fmt.roundV_isNan] at h
    rw [Fmt.roundV_sign, FV.mul_sign h]

end Sys2Proof.Machine
end

section
/-! PROOFS. The registers of an item that starts (R205): the start writes the item's run and cleared registers into its core,
and giving pre-empted items their cores back leaves every busy core as it is. -/

namespace Sys2Proof.Machine

/-- A read of S0 gives zero (R205). -/
@[simp] theorem Core.sreg_zero (k : Core) : k.sreg 0 = 0 := rfl

/-- A write of S0 changes nothing (R205). -/
@[simp] theorem Core.setS_zero (k : Core) (v : Word) : k.setS 0 v = k := rfl

/-! ### Cleared registers -/

section cleared
variable {k : Core} {a : Nat} (h : k.regs = { pc := a })
include h

theorem Core.sreg_of_cleared (n : Nat) : k.sreg n = 0 := by simp [Core.sreg, h, Tab.get]

theorem Core.preg_of_cleared (n : Nat) : k.preg n = 0 := by simp [Core.preg, h, Tab.get]

theorem Core.telem_of_cleared (n e : Nat) : k.telem n e = 0 := by simp [Core.telem, h, Tab.get]

end cleared

/-! ### Giving cores back -/

/-- A core that runs an item is left as it is when any core gets its pre-empted item back (R279). -/
theorem State.restore_core_of_run {s : State} {c : Nat} (h : (s.core c).run.isSome) (d : Nat) :
    (s.restore d).core c = s.core c := by
  unfold State.restore
  extract_lets k
  split
  · split
    · next hidle =>
      have hne : c ≠ d := by
        rintro rfl
        simp [k, Option.isNone_eq_false_iff.mpr h] at hidle
      exact s.core_setCore_ne d _ hne
    · rfl
  · rfl

/-- A core that runs an item is left as it is when all cores get their pre-empted items back (R279). -/
theorem State.restoreAll_core_of_run {s : State} {c : Nat} (h : (s.core c).run.isSome) :
    s.restoreAll.core c = s.core c :=
  List.foldlRecOn (motive := fun t : State => t.core c = s.core c) _ _ rfl
    fun _ ht d _ => (State.restore_core_of_run (ht ▸ h) d).trans ht

/-! ### Starting an item -/

/-- A change of items leaves the cores. -/
theorem State.foldl_modItem_core (f : Item → Item) (l : List ItemId) (s : State) (c : Nat) :
    (l.foldl (fun s y => s.modItem y f) s).core c = s.core c :=
  List.foldlRecOn (motive := fun t : State => t.core c = s.core c) _ _ rfl fun _ ht _ _ => ht

/-- The core an item starts on, whether it was idle, was pre-empted or took a new image: it runs the item from its entry with
every register cleared (R205). -/
theorem State.startItem_core {s : State} {id : ItemId} {i : Inst} {x : Item} (hi : s.instOf id.inst = some i)
    (hx : s.itemOf id = some x) (c : Nat) :
    ∃ k : Core, (s.startItem id c).core c =
      { k with run := some (startRun i x id), regs := { pc := partBase (x.cls == .express) + x.rcd.entry } } := by
  unfold State.startItem
  rw [hi, hx]
  dsimp -zeta only
  extract_lets _ _ loaded running
  have hrun : running.core c = _ := loaded.core_modCore c _
  exact ⟨loaded.core c, (State.foldl_modItem_core ..).trans hrun⟩

/-- `ITEM_START` with an item to start starts it on the core chosen, then gives cores back (R277, R279). -/
theorem itemStart_of_nextStart {s : State} {id : ItemId} {c : Nat} (hr : s.running = true)
    (hn : s.settle.nextStart = some (id, c)) : itemStart s = (s.settle.startItem id c).restoreAll := by
  simp [itemStart, hr, hn]

/-- Settles O7: the start clears the registers of its core, which runs the item from then on and so is given back to no
other. -/
theorem registersAtItemStart : Obligations.RegistersAtItemStart := by
  refine ⟨fun k v => ⟨k.sreg_zero, k.setS_zero v⟩, fun s id c i x hr hn hi hx _ => ?_⟩
  obtain ⟨k, hk⟩ := State.startItem_core hi hx c
  rw [← State.restoreAll_core_of_run (by simp [hk]), ← itemStart_of_nextStart hr hn] at hk
  have hregs := congrArg Core.regs hk
  exact ⟨itemStart s, rfl, by rw [hk]; rfl, Core.sreg_of_cleared hregs, Core.preg_of_cleared hregs, Core.telem_of_cleared hregs⟩

end Sys2Proof.Machine
end

section
/-! PROOFS. The watchdog of a ring (R400): it records a head entry that has waited its limit and marks it as recorded, and it
changes nothing for one that is recorded already or still has time. -/

namespace Sys2Proof.Machine

section head
variable {r : RingIx} {s : State} {e : Live} (hhead : (s.ring r.val).head = some e)
include hhead

/-- A head entry that has waited its limit and is not recorded yet gets its one record (R400). -/
theorem watchdog_of_due (hrun : s.running = true) (hset : (s.ring r.val).watchTicks ≠ 0) (hnew : (s.ring r.val).watched = false)
    (hdue : e.acceptedAt + (s.ring r.val).watchTicks ≤ s.ticks) :
    watchdog r s = (s.modRing r.val fun g => { g with watched := true }).report (lgPort (s.ringPort r.val)) [] eWatchdog
      r.val r.val (e.pos % 2 ^ (s.ring r.val).sqLog2) := by
  simp [watchdog, hhead, hrun, hset, hnew, hdue]

/-- A head entry that is recorded already, or has not waited its limit, gets no record (R400). -/
theorem watchdog_of_not_due (h : (s.ring r.val).watched = true ∨ s.ticks < e.acceptedAt + (s.ring r.val).watchTicks) :
    watchdog r s = s := by
  obtain hold | hearly := h
  · simp [watchdog, hhead, hold]
  · simp [watchdog, hhead, Nat.not_le.mpr hearly]

end head

/-- `WATCHDOG` always completes, with the state the ring's watchdog leaves. -/
theorem exec_watchdog (r : RingIx) (s : State) : exec (.watchdog r) s = .next (watchdog r s) := rfl

/-- Settles O9: `WATCHDOG` completes, and whether the head entry's record is due decides between the one record and no change. -/
theorem watchdogLogs : Obligations.WatchdogLogs := by
  intro r s e hrun g hhead hset
  rw [exec_watchdog]
  constructor
  · intro hnew hdue
    rw [watchdog_of_due hhead hrun hset hnew hdue, State.modRing]
  · intro h
    rw [watchdog_of_not_due hhead h]

end Sys2Proof.Machine
end

section
/-! PROOFS. Rules of the set-up registers (R482, R508, R444): a write of a whole register reaches the ring window or `PORT_CTRL` that
its offset names, and what that register then does is read off its own function. -/

namespace Sys2Proof.Machine

/-! ### Commands at an open BAR -/

theorem State.fnOpen_of_bar0Open {s : State} {p fn off : Nat} (h : s.bar0Open p fn off = true) : s.fnOpen p fn = true := by
  simp only [State.bar0Open, Bool.and_eq_true] at h
  exact h.1

theorem State.fnOpen_of_barOpen {s : State} {p fn : Nat} (h : s.barOpen p fn = true) : s.fnOpen p fn = true := by
  simp only [State.barOpen, Bool.and_eq_true] at h
  exact h.1

/-- An access through a function that is reached does not wait for a restart (R433, R434). -/
theorem State.atBar_of_fnOpen {s : State} {p : PortIx} {fn : Nat} (h : s.fnOpen p.val fn = true) (i : Instr) (act : State → State) :
    s.atBar p i act = act s := by
  have hrest : s.dieRests p.val = false := by
    simp only [State.fnOpen, Bool.and_eq_true, Bool.not_eq_true'] at h
    exact h.1.1.1.2
  simp [State.atBar, State.access, hrest]

theorem exec_registerWrite_of_bar0Open {s : State} {p : PortIx} {fn : FnIx} {a : BarAt} (h : s.bar0Open p.val fn.val a.off = true)
    (size : Nat) (v : Word) : exec (.registerWrite p fn a size v) s = .next (registerWrite p fn a.doors a.off size v s) :=
  congrArg _ (State.atBar_of_fnOpen (State.fnOpen_of_bar0Open h) _ _)

theorem exec_testEn_of_bar0Open {s : State} {p : PortIx} {off : Nat} (h : s.bar0Open p.val 0 off = true) (v : Bool) :
    exec (.testEn p v) s = .next (testEn p v s) :=
  congrArg _ (State.atBar_of_fnOpen (State.fnOpen_of_bar0Open h) _ _)

theorem exec_ringEnable_of_barOpen {s : State} {p : PortIx} {fn : FnIx} (h : s.barOpen p.val fn.val = true) (r : RingIx) :
    exec (.ringEnable p fn r) s = .next (ringEnable p fn r s) :=
  congrArg _ (State.atBar_of_fnOpen (State.fnOpen_of_barOpen h) _ _)

/-! ### Writes of whole registers -/

/-- A write of a whole register touches the port's latch and held halves only (R472). -/
theorem State.wholeWrite_eq (s : State) (p fn : Nat) : s.wholeWrite p fn = s.setPort p { s.port p with
    latch := if fn = 0 then none else (s.port p).latch, heldHalf := Tab.put none (s.port p).heldHalf fn none } := by
  unfold State.wholeWrite
  split <;> simp [State.dropLatch, State.setHalf, State.modPort]

/-- An aligned 64-bit write at an open BAR0 goes to the register there, as a write of all its bits (R12, R472). -/
theorem registerWrite_whole {s : State} {p : PortIx} {fn : FnIx} {off : Nat} (hopen : s.bar0Open p.val fn.val off = true)
    (hal : off % 8 = 0) (hpf : off < 0x4000000) (hvf : fn.val ≠ 0 → off < 0x10000) (v : Word) :
    registerWrite p fn false off 8 v s = (s.wholeWrite p.val fn.val).heldWrite p fn off ones64 v.toNat := by
  have hin : (!s.bar0Open p.val fn.val off || decide (0x4000000 ≤ off) || (fn.val != 0 && decide (0x10000 ≤ off))) = false := by
    simpa [hopen, hpf] using hvf
  rw [registerWrite, if_neg Bool.false_ne_true, hin, if_neg Bool.false_ne_true]
  simp [State.wholeWrite, hal]

/-- A PF's write goes to its set-up registers. -/
theorem State.anyWrite_pf (s : State) (p : PortIx) (off mask v : Nat) : s.anyWrite p 0 off mask v = s.regWrite p off mask v := rfl

/-! ### What a write of a port leaves -/

section setPort
variable (s : State) (p : Nat) (x : Port)

@[simp] theorem State.ringPort_setPort : (s.setPort p x).ringPort = s.ringPort := rfl
@[simp] theorem State.ringReached_setPort : (s.setPort p x).ringReached = s.ringReached := rfl
@[simp] theorem State.ringWord_setPort : (s.setPort p x).ringWord = s.ringWord := rfl
@[simp] theorem State.vfRing_setPort : (s.setPort p x).vfRing = s.vfRing := rfl
@[simp] theorem State.quiesced_setPort : (s.setPort p x).quiesced = s.quiesced := rfl
@[simp] theorem State.preg_setPort : (s.setPort p x).preg = s.preg := rfl
@[simp] theorem State.stagingFree_setPort : (s.setPort p x).stagingFree = s.stagingFree := rfl

end setPort

/-! ### Ring windows (R482) -/

/-- A PF's write in its ring windows goes to the ring that the offset names, at its word (R471). -/
theorem State.regWrite_ringWindow (s : State) (p : PortIx) (r : RingIx) {w : Nat} (hw : w < 8) (mask v : Nat) :
    s.regWrite p (0x100000 + 64 * r.val + 8 * w) mask v = s.writeRing p 0 r w mask v := by
  have hr := r.isLt
  generalize ho : 0x100000 + 64 * r.val + 8 * w = o
  have hne (k : Nat) (hk : k < 0x100000) : o ≠ k := by omega
  have hge (k : Nat) (hk : k ≤ 0x100000) : ¬ o < k := by omega
  have hin : 0x100000 ≤ o ∧ o < 0x140000 := by omega
  have hring : (o - 0x100000) / 64 = r.val := by omega
  have hword : (o - 0x100000) % 64 / 8 = w := by omega
  simp [State.regWrite, storedDev, hne, hge, hin, hring, hword]

/-- A write in the window of a ring that the PF's port claims. -/
theorem State.heldWrite_pf_ringWindow {s : State} {p : PortIx} {r : RingIx} (hr : s.ringPort r.val = p.val) {w : Nat} (hw : w < 8)
    (mask v : Nat) : s.heldWrite p 0 (0x100000 + 64 * r.val + 8 * w) mask v = s.writeRing p 0 r w mask v := by
  have hlt := r.isLt
  have hthere : s.regThere p.val (0x100000 + 64 * r.val + 8 * w) = true := by
    unfold State.regThere
    rw [if_pos (by omega), show (0x100000 + 64 * r.val + 8 * w - 0x100000) / 64 = r.val by omega, hr, beq_self_eq_true]
  rw [← s.regWrite_ringWindow p r hw]
  simp [State.heldWrite, State.regHere, State.anyWrite_pf, hthere]

/-- A write in the window of a ring on a page assigned to the VF (R473). -/
theorem State.heldWrite_vf_ringWindow {s : State} {p : PortIx} {fn : FnIx} {r : RingIx} {off w : Nat} (hfn : fn.val ≠ 0)
    (hoff : off < 0x8000) (hr : s.vfRing p.val fn.val (off / 64) = some r.val) (hword : off % 64 = 8 * w) (mask v : Nat) :
    s.heldWrite p fn off mask v = s.writeRing p fn r w mask v := by
  simp [State.heldWrite, State.regHere, State.anyWrite, State.vfWrite, hfn, hoff, hr, hword]

/-- A function reaches word w of ring r at an offset of its BAR0: the PF of the port that claims the ring (R471), or a VF on a
page assigned to it (R473). -/
def State.ringWindowAt (s : State) (p : PortIx) (fn : FnIx) (off : Nat) (r : RingIx) (w : Nat) : Prop :=
  fn.val = 0 ∧ off = 0x100000 + 64 * r.val + 8 * w ∧ s.ringPort r.val = p.val ∨
    fn.val ≠ 0 ∧ off < 0x8000 ∧ s.vfRing p.val fn.val (off / 64) = some r.val

/-- A write of a whole word of a ring window is a write of that ring's word. -/
theorem exec_registerWrite_ringWindow {s : State} {p : PortIx} {fn : FnIx} {off w : Nat} {r : RingIx}
    (hopen : s.bar0Open p.val fn.val off = true) (hword : off % 64 = 8 * w) (hat : s.ringWindowAt p fn off r w) (v : Word) :
    exec (.registerWrite p fn ⟨false, off⟩ 8 v) s =
      .next ((s.wholeWrite p.val fn.val).writeRing p fn r w ones64 v.toNat) := by
  have hr := r.isLt
  rw [exec_registerWrite_of_bar0Open hopen]
  obtain ⟨hfn, rfl, hport⟩ | ⟨hfn, hoff, hring⟩ := hat
  · obtain rfl : fn = 0 := Fin.ext hfn
    rw [registerWrite_whole hopen (by omega) (by omega) (by simp), State.heldWrite_pf_ringWindow (by simpa [State.wholeWrite_eq]) (by omega)]
  · rw [registerWrite_whole hopen (by omega) (by omega) (by omega),
      State.heldWrite_vf_ringWindow hfn hoff (by simpa [State.wholeWrite_eq]) hword]

/-- A write of all bits names every defined bit of a ring's parameters. -/
theorem ones64_and_ringMask {w : Nat} (hw : w < 5) : ones64 &&& ringMask w = ringMask w := by
  revert w
  decide

section params
variable {s : State} {p : PortIx} {r : RingIx} {w : Nat} (hw : w < 5)
include hw

/-- A ring that is set up, or set up again, takes the defined bits of a parameter word (R482). -/
theorem State.writeRing_param_of_open (fn : FnIx) (h : (s.ring r.val).st = .idle ∨ (s.ring r.val).st = .orphaned ∧ s.quiesced p.val = true)
    (v : Nat) : s.writeRing p fn r w ones64 v = s.setRing r.val ((s.ring r.val).setWord w
      (BitVec.ofNat 64 ((s.ringWord r.val w &&& (ones64 ^^^ ringMask w)) ||| (v &&& ringMask w)))) := by
  simp [State.writeRing, State.modRing, hw, h, ones64_and_ringMask hw]

/-- Any other ring logs the write of a parameter word (R482). -/
theorem State.writeRing_param_of_closed (fn : FnIx) (hidle : (s.ring r.val).st ≠ .idle)
    (horph : (s.ring r.val).st = .orphaned → s.quiesced p.val = false) (mask v : Nat) :
    s.writeRing p fn r w mask v = s.ringAccess p.val r.val (0x100000 + 64 * r.val + 8 * w) accIgnored := by
  have h : ¬ ((s.ring r.val).st = .idle ∨ (s.ring r.val).st = .orphaned ∧ s.quiesced p.val = true) := by
    rintro (h | ⟨h, hq⟩)
    · exact hidle h
    · simp [horph h] at hq
  simp only [State.writeRing, hw, h, if_true, if_false]

end params

theorem bitAt_eq_testBit (n i : Nat) : bitAt n i = n.testBit i := by
  simp [bitAt, Nat.testBit, Nat.one_and_eq_mod_two]

theorem bitAt_toNat (v : Word) (i : Nat) : bitAt v.toNat i = v.getLsbD i := bitAt_eq_testBit ..

theorem and_ones64 (v : Word) : v.toNat &&& ones64 = v.toNat := by
  rw [ones64, Nat.and_two_pow_sub_one_eq_mod, Nat.mod_eq_of_lt v.isLt]

/-- A write that enables and disables a ring at once is logged and does neither (R482). -/
theorem State.writeRing_enable_disable (s : State) (p : PortIx) (fn : FnIx) (r : RingIx) {v : Word} (hon : v.getLsbD 4 = true)
    (hoff : v.getLsbD 5 = true) : s.writeRing p fn r 5 ones64 v.toNat = s.ringAccess p.val r.val (ringCtl r.val) accIgnored := by
  simp [State.writeRing, Nat.and_comm ones64, and_ones64, bitAt_toNat, hon, hoff]

/-- An enable of a ring that is in use changes no more than any write of a whole register does (R482). -/
theorem ringEnable_of_in_use {s : State} {p : PortIx} {fn : FnIx} {r : RingIx} (hidle : (s.ring r.val).st ≠ .idle)
    (horph : (s.ring r.val).st ≠ .orphaned) (hopen : s.barOpen p.val fn.val = true) (hr : s.ringReached p.val fn.val r.val = true) :
    ringEnable p fn r s = s.wholeWrite p.val fn.val := by
  simp [ringEnable, State.enableRing, State.wholeWrite_eq, hopen, hr, hidle, horph]

/-! ### PORT_CTRL (R508) -/

/-- A register's value after a write of the bits that a mask names. -/
def merged (old mask v : Nat) : Nat := (old &&& (ones64 ^^^ mask)) ||| (v &&& mask)

theorem merged_ones64 (old : Nat) (v : Word) : merged old ones64 v.toNat = v.toNat := by
  simp [merged, and_ones64]

/-- A bit that the mask does not name keeps its value. -/
theorem bitAt_merged_of_unnamed {mask i : Nat} (hi : i < 64) (hm : bitAt mask i = false) (old v : Nat) :
    bitAt (merged old mask v) i = bitAt old i := by
  rw [bitAt_eq_testBit] at hm
  have hones : ones64.testBit i = true := by rw [ones64, Nat.testBit_two_pow_sub_one, decide_eq_true hi]
  simp [merged, bitAt_eq_testBit, hm, hones]

/-- A field of which the mask names no bit keeps its value. -/
theorem fld_merged_of_unnamed {mask lo w : Nat} (hlo : lo + w ≤ 64) (hm : ∀ i < w, bitAt mask (lo + i) = false) (old v : Nat) :
    fld (merged old mask v) lo w = fld old lo w := by
  refine Nat.eq_of_testBit_eq fun i => ?_
  simp only [fld, Nat.testBit_mod_two_pow, Nat.testBit_shiftRight]
  by_cases hi : i < w
  · rw [← bitAt_eq_testBit, ← bitAt_eq_testBit, bitAt_merged_of_unnamed (by omega) (hm i hi)]
  · simp [hi]

/-- The phase of a port, and the one that it returns to from `TEST`. -/
def Port.phases (x : Port) : Phase × Phase := (x.phase, x.before)

/-- What a write of `PORT_CTRL` asks of the port: `service_en` first and then `test_en` (R508). -/
def Port.controls (x : Port) (mask v : Nat) : Port :=
  let x := if bitAt mask 2 && bitAt v 2 then x.serve else x
  if bitAt mask 3 then x.testEn (bitAt v 3) else x

theorem State.port_modPort_if (s : State) (p : Nat) (c : Bool) (f : Port → Port) :
    (if c then s.modPort p f else s).port p = if c then f (s.port p) else s.port p := by
  cases c <;> simp [State.modPort]

/-- Sending page requests leaves the phases of every port. -/
theorem State.issuePages_phases (s : State) (p q : Nat) : ((s.issuePages p).port q).phases = (s.port q).phases := by
  unfold State.issuePages
  refine List.foldlRecOn (motive := fun t : State => (t.port q).phases = (s.port q).phases) _ _ rfl fun t ht a _ => ?_
  extract_lets k x f g t'
  split
  · exact ht
  · refine Eq.trans ?_ ht
    show (t'.port q).phases = _
    by_cases hq : q = p
    · subst hq
      simp [t', State.modPort, Port.phases]
    · simp [t', State.modPort, State.port_setPort_ne _ _ _ hq]

/-- A write of `PORT_CTRL` that is taken gives the port the phases that its controls ask for. -/
theorem State.writePortCtrl_phases {s : State} {p mask v : Nat} (hlimit : fld (merged (s.preg p 0x2000) mask v) 32 16 ≠ 0)
    (hbuf : bitAt (merged (s.preg p 0x2000) mask v) 6 = true → bitAt (s.preg p 0x2000) 6 = false → 32 ≤ s.stagingFree p) :
    ((s.writePortCtrl p mask v).port p).phases = ((s.port p).controls mask v).phases := by
  unfold State.writePortCtrl
  extract_lets old key nv act stored s₁ s₂ s₃
  have hbuf' : ¬ (bitAt nv 6 && !bitAt old 6 && decide (s.stagingFree p < 32)) = true := by
    intro h
    simp only [Bool.and_eq_true, Bool.not_eq_true', decide_eq_true_eq] at h
    obtain ⟨⟨hnew, hold⟩, hfull⟩ := h
    exact absurd (hbuf hnew hold) (Nat.not_le.mpr hfull)
  rw [if_neg (show fld nv 32 16 ≠ 0 from hlimit), if_neg hbuf']
  have h₂ : s₂.port p = if act 2 then (s.port p).serve else s.port p := s₁.port_modPort_if p (act 2) Port.serve
  have h₃ : s₃.port p = (s.port p).controls mask v := by
    simp only [s₃, State.port_modPort_if, h₂]
    rfl
  split
  · rw [State.issuePages_phases, ← h₃]
    simp [State.modPort, Port.phases]
  · rw [h₃]

/-- `PORT_CTRL` is the register at 0x2000 of a PF's BAR0. -/
theorem State.regWrite_portCtrl (s : State) (p : PortIx) (mask v : Nat) : s.regWrite p 0x2000 mask v = s.writePortCtrl p.val mask v := by
  simp [State.regWrite, storedDev]

/-- A write of the whole of `PORT_CTRL` at an open BAR0. -/
theorem registerWrite_portCtrl {s : State} {p : PortIx} (hopen : s.bar0Open p.val 0 0x2000 = true) (v : Word) :
    registerWrite p 0 false 0x2000 8 v s = (s.wholeWrite p.val 0).writePortCtrl p.val ones64 v.toNat := by
  have hthere (t : State) : t.regHere p 0 0x2000 = true := by simp [State.regHere, State.regThere]
  rw [registerWrite_whole (fn := 0) hopen (by decide) (by decide) (fun h => absurd rfl h), State.heldWrite, if_pos (hthere _),
    State.anyWrite_pf, State.regWrite_portCtrl, Fin.val_zero]

/-- `service_en` and `test_en` together take a port through `SERVICE` to `TEST`, which returns to `SERVICE` (R508). -/
theorem Port.controls_both_phases {x : Port} {v : Word} (hserve : v.getLsbD 2 = true) (htest : v.getLsbD 3 = true)
    (hphase : x.phase = .startup ∨ x.phase = .recovery) : (x.controls ones64 v.toNat).phases = (.test, .service) := by
  have h2 : bitAt ones64 2 = true := by decide
  have h3 : bitAt ones64 3 = true := by decide
  simp [Port.controls, h2, h3, bitAt_toNat, hserve, htest, Port.serve, hphase, Port.testEn, Port.phases]

/-- A write of the whole of `PORT_CTRL` that sets both enables, with a fault limit and any write buffering to be had, enters `TEST`
from `SERVICE` (R508). -/
theorem registerWrite_portCtrl_phases {s : State} {p : PortIx} {v : Word} (hopen : s.bar0Open p.val 0 0x2000 = true)
    (hserve : v.getLsbD 2 = true) (htest : v.getLsbD 3 = true) (hlimit : fld v.toNat 32 16 ≠ 0)
    (hbuf : v.getLsbD 6 = false ∨ bitAt (s.preg p.val 0x2000) 6 = true ∨ 32 ≤ s.stagingFree p.val)
    (hphase : (s.port p.val).phase = .startup ∨ (s.port p.val).phase = .recovery) :
    ((registerWrite p 0 false 0x2000 8 v s).port p.val).phases = (.test, .service) := by
  have hfree : bitAt v.toNat 6 = true → bitAt (s.preg p.val 0x2000) 6 = false → 32 ≤ s.stagingFree p.val := by
    rw [bitAt_toNat]
    intro hnew hold
    exact (hbuf.resolve_left (by rw [hnew]; decide)).resolve_left (by rw [hold]; decide)
  rw [registerWrite_portCtrl hopen, State.writePortCtrl_phases (by rwa [merged_ones64])
    (by rwa [merged_ones64, State.wholeWrite_eq, State.preg_setPort, State.stagingFree_setPort])]
  refine Port.controls_both_phases hserve htest ?_
  rwa [State.wholeWrite_eq, State.port_setPort]

/-- A write of `test_en` at an open BAR0 is one of that bit of `PORT_CTRL`. -/
theorem testEn_of_bar0Open {s : State} {p : PortIx} (hopen : s.bar0Open p.val 0 0x2000 = true) (v : Bool) :
    testEn p v s = (s.wholeWrite p.val 0).writePortCtrl p.val 8 (if v then 8 else 0) := by
  simp [testEn, State.pfWrite, hopen, State.regWrite_portCtrl]

/-- A clear of `test_en` alone takes a port in `TEST` to the phase that it was entered from. -/
theorem Port.controls_clear_testEn {x : Port} (htest : x.phase = .test) : (x.controls 8 0).phase = x.before := by
  have hserve : bitAt 8 2 = false := by decide
  have hnamed : bitAt 8 3 = true := by decide
  have hclear : bitAt 0 3 = false := by decide
  simp [Port.controls, hserve, hnamed, hclear, Port.testEn, htest]

/-- A port in `TEST` returns to the phase that it was entered from when `test_en` is cleared (R508). -/
theorem testEn_false_phase {s : State} {p : PortIx} (hopen : s.bar0Open p.val 0 0x2000 = true)
    (hlimit : fld (s.preg p.val 0x2000) 32 16 ≠ 0) (htest : (s.port p.val).phase = .test) :
    ((testEn p false s).port p.val).phase = (s.port p.val).before := by
  have hlimit' (old : Nat) : fld (merged old 8 0) 32 16 = fld old 32 16 := fld_merged_of_unnamed (by decide) (by decide) old 0
  have hbuf (old : Nat) : bitAt (merged old 8 0) 6 = bitAt old 6 := bitAt_merged_of_unnamed (by decide) (by decide) old 0
  have hphases := State.writePortCtrl_phases (s := s.wholeWrite p.val 0) (p := p.val) (mask := 8) (v := 0)
    (by rwa [hlimit', State.wholeWrite_eq]) (by rw [hbuf]; intro hset hclear; simp [hset] at hclear)
  calc ((testEn p false s).port p.val).phase
    _ = (((s.wholeWrite p.val 0).port p.val).controls 8 0).phase := by
        rw [testEn_of_bar0Open hopen, if_neg Bool.false_ne_true]
        exact (Prod.mk.inj hphases).1
    _ = ((s.wholeWrite p.val 0).port p.val).before := Port.controls_clear_testEn (by rwa [State.wholeWrite_eq, State.port_setPort])
    _ = (s.port p.val).before := by rw [State.wholeWrite_eq, State.port_setPort]

/-! ### Refused resets (R444) -/

/-- A management command that Jinal carries out answers with what it does. -/
theorem State.mgDo_of_ready {s : State} {x : MgXfer} (hpec : x.pecOk = true) (hpow : s.power.standby = true)
    (hup : s.jinalUp = true) (hidle : s.mgmt.running = none) (act : State → Nat × Bytes × State) :
    s.mgDo x true act = (act s).2.2.emit (.mgmt (act s).1 (act s).2.1) := by
  simp [State.mgDo, hpec, hpow, hup, hidle]

/-- A halted device with a sensor above its warning threshold refuses a reset (R444). -/
theorem State.resetRefused_of_hot {s : State} (hhalt : s.mgmt.halted = true)
    (hhot : ∃ y ∈ s.mgmt.readings.zipIdx, 16 * s.warnAt y.2 < y.1.toInt) : s.resetRefused = true := by
  simpa only [State.resetRefused, hhalt, Bool.true_and, List.any_eq_true, decide_eq_true_eq]

theorem exec_resetReq (x : MgXfer) (ms : Nat) (s : State) : exec (.resetReq x ms) s = .next (resetReq x ms s) := rfl

/-- A refused request is logged, and changes nothing else (R444). -/
theorem resetReq_of_refused {s : State} {x : MgXfer} {ms : Nat} (hpec : x.pecOk = true) (hpow : s.power.standby = true)
    (hup : s.jinalUp = true) (hidle : s.mgmt.running = none) (hlo : 10 ≤ ms) (hhi : ms ≤ 60000) (href : s.resetRefused = true) :
    resetReq x ms s = (s.report lgDevice [] eResetRequest 7 2 (ms * ticksPerMs)).emit (.mgmt mgRefused []) := by
  have hgrace : ¬ (ms < 10 ∨ 60000 < ms) := by omega
  rw [resetReq, State.mgDo_of_ready hpec hpow hup hidle]
  simp only [hgrace, href, if_false, if_true]

/-- Settles O8: a write of a ring window is one of the ring's word, a write of `PORT_CTRL` gives the port the phases that its
controls ask for in turn, and a reset is refused on a hot halted device. -/
theorem registerRules : Obligations.RegisterRules := by
  refine ⟨?_, fun p v s hopen hserve htest hlimit hbuf hphase => ?_, fun x ms s hpec hpow hup hrun hlo hhi hhalt hhot => ?_⟩
  · intro p fn r off w v s hopen hword hat u st
    have hwrite := exec_registerWrite_ringWindow hopen hword hat v
    refine ⟨fun hw hst => ?_, fun hw hidle horph => ?_, fun hw hon hoff => ?_, fun hidle horph hbar hreach => ?_⟩
    · rw [hwrite, State.writeRing_param_of_open hw fn (by simpa [State.wholeWrite_eq] using hst)]
      simp [u, State.wholeWrite_eq]
    · rw [hwrite, State.writeRing_param_of_closed hw fn (by simpa [State.wholeWrite_eq] using hidle)
        (by simpa [State.wholeWrite_eq] using horph)]
    · subst hw
      rw [hwrite, State.writeRing_enable_disable _ p fn r hon hoff]
    · rw [exec_ringEnable_of_barOpen hbar, ringEnable_of_in_use hidle horph hbar hreach]
  · obtain ⟨hnow, hback⟩ := Prod.mk.inj (registerWrite_portCtrl_phases hopen hserve htest hlimit hbuf hphase)
    have hwrite := exec_registerWrite_of_bar0Open (fn := 0) (a := ⟨false, 0x2000⟩) hopen 8 v
    generalize registerWrite p 0 false 0x2000 8 v s = t at hwrite hnow hback
    exact ⟨t, testEn p false t, hwrite, hnow, hback, fun hopen' hlimit' =>
      ⟨exec_testEn_of_bar0Open hopen' false, (testEn_false_phase hopen' hlimit' hnow).trans hback⟩⟩
  · rw [exec_resetReq, resetReq_of_refused hpec hpow hup hrun hlo hhi (State.resetRefused_of_hot hhalt hhot)]

end Sys2Proof.Machine
end

section
/-! PROOFS. Packets on the wire (Table 11-3): a string of little-endian words and byte runs reads back part by part, and the
fields of a header word are those it was built from. -/

namespace Sys2Proof.Machine

/-! ### Byte strings -/

@[simp] theorem length_natLe (n v : Nat) : (natLe n v).length = n := by
  induction n generalizing v with
  | zero => rfl
  | succ n ih => simp [natLe, ih]

/-- Little-endian bytes read back as the number, modulo what they hold. -/
theorem leNat_natLe (n v : Nat) : leNat (natLe n v) = v % 256 ^ n := by
  induction n generalizing v with
  | zero => simp [natLe, leNat, Nat.mod_one]
  | succ n ih => rw [natLe, leNat, ih, Nat.pow_succ', Nat.mod_mul, BitVec.toNat_ofNat]

theorem leNat_natLe_of_lt {n v : Nat} (h : v < 256 ^ n) : leNat (natLe n v) = v := by
  rw [leNat_natLe, Nat.mod_eq_of_lt h]

/-- The part of a string that stands behind `pre`. -/
theorem slice_append {pre mid post : Bytes} {off len : Nat} (hoff : pre.length = off) (hlen : mid.length = len) :
    slice (pre ++ (mid ++ post)) off len = mid := by
  subst hoff hlen
  simp [slice]

/-- A little-endian number that stands behind `pre`. -/
theorem fieldAt_append {pre post : Bytes} {off len v : Nat} (hoff : pre.length = off) (hv : v < 256 ^ len) :
    fieldAt (pre ++ (natLe len v ++ post)) off len = v := by
  rw [fieldAt, slice_append hoff (length_natLe len v), leNat_natLe_of_lt hv]

/-- A little-endian number at the front of a string. -/
theorem fieldAt_front {post : Bytes} {len v : Nat} (hv : v < 256 ^ len) : fieldAt (natLe len v ++ post) 0 len = v :=
  List.nil_append (natLe len v ++ post) ▸ fieldAt_append (pre := []) rfl hv

/-- Zeros at the end of a string read as zero. -/
theorem fieldAt_zeros {pre : Bytes} {off len : Nat} (hoff : pre.length = off) : fieldAt (pre ++ List.replicate len 0#8) off len = 0 := by
  have hzero : ∀ n, List.replicate n 0#8 = natLe n 0 := fun n => by
    induction n with
    | zero => rfl
    | succ n ih => rw [List.replicate_succ, ih]; rfl
  rw [hzero, ← List.append_nil (natLe len 0)]
  exact fieldAt_append hoff (Nat.pow_pos (by decide))

/-- A string of a whole number of units needs no padding. -/
theorem padTo_of_dvd {m : Nat} {b : Bytes} (hm : 0 < m) (h : b.length % m = 0) : padTo m b = b := by
  obtain ⟨q, hq⟩ := Nat.dvd_of_mod_eq_zero h
  have : roundUp b.length m = b.length := by
    rw [roundUp, ceilDiv, hq, show m * q + m - 1 = m - 1 + m * q by omega, Nat.add_mul_div_left _ _ hm,
      Nat.div_eq_of_lt (by omega), Nat.zero_add, Nat.mul_comm]
  simp [padTo, this]

/-! ### The CRC -/

theorem crc32Bits_lt (k : Nat) {c : Nat} (h : c < 2 ^ 32) : crc32Bits k c < 2 ^ 32 := by
  induction k generalizing c with
  | zero => exact h
  | succ k ih =>
    refine ih ?_
    split
    · exact Nat.xor_lt_two_pow (by omega) (by decide)
    · omega

theorem crc32_lt (b : Bytes) : crc32 b < 2 ^ 32 := by
  suffices ∀ c < 2 ^ 32, b.foldl (fun c x => crc32Bits 8 (c ^^^ x.toNat)) c < 2 ^ 32 from
    Nat.xor_lt_two_pow (this _ (by decide)) (by decide)
  induction b with
  | nil => exact fun c h => h
  | cons x b ih => exact fun c h => ih _ (crc32Bits_lt 8 (Nat.xor_lt_two_pow h (by have := x.isLt; omega)))

/-! ### The header word -/

/-- The first word of a packet's header. -/
def Packet.headWord (p : Packet) (hops : Nat) : Nat :=
  p.kind + p.cls * 2 ^ 4 + (p.units - 1) * 2 ^ 7 + p.src * 2 ^ 16 + p.dst * 2 ^ 28 + hops * 2 ^ 40 + (if p.last then 2 ^ 42 else 0)

theorem Packet.headBytes_eq (p : Packet) (hops : Nat) : p.headBytes hops = natLe 8 (p.headWord hops) ++ natLe 8 p.info.toNat := rfl

/-- The CRC is taken with the hop count at zero. -/
theorem Packet.headWord_sub_hops (p : Packet) : p.headWord p.hops - p.hops * 2 ^ 40 = p.headWord 0 := by
  simp only [Packet.headWord]; omega

/-- The classes that name kinds fit their three bits. -/
theorem cls_lt_of_kindOk {cls kind : Nat} (h : kindOk cls kind = true) : cls < 6 := by
  by_contra hc
  obtain ⟨n, rfl⟩ : ∃ n, cls = n + 6 := ⟨cls - 6, by omega⟩
  cases h

section header
variable {p : Packet} (hkind : p.kind < 16) (hcls : p.cls < 8) (hunits : p.units ≤ 259) (hsrc : p.src < 4096) (hdst : p.dst < 4096)
  (hhops : p.hops < 4)
include hkind hcls hunits hsrc hdst

theorem Packet.headWord_fields :
    fld (p.headWord p.hops) 0 4 = p.kind ∧ fld (p.headWord p.hops) 4 3 = p.cls ∧ fld (p.headWord p.hops) 7 9 = p.units - 1 ∧
      fld (p.headWord p.hops) 16 12 = p.src ∧ fld (p.headWord p.hops) 28 12 = p.dst := by
  simp only [fld, Packet.headWord, Nat.shiftRight_eq_div_pow]
  cases p.last <;> simp only [if_true, Bool.false_eq_true, if_false] <;> refine ⟨?_, ?_, ?_, ?_, ?_⟩ <;> omega

include hhops

theorem Packet.headWord_flags :
    fld (p.headWord p.hops) 40 2 = p.hops ∧ bitAt (p.headWord p.hops) 42 = p.last ∧ fld (p.headWord p.hops) 43 21 = 0 ∧
      p.headWord p.hops < 256 ^ 8 := by
  simp only [fld, bitAt, Packet.headWord, Nat.shiftRight_eq_div_pow]
  cases p.last <;> simp only [if_true, Bool.false_eq_true, if_false, beq_eq_false_iff_ne, beq_iff_eq] <;>
    refine ⟨?_, ?_, ?_, ?_⟩ <;> omega

end header

/-! ### Whole packets -/

/-- The parts of a packet of whole units in the order of the wire. -/
theorem Packet.bytes_eq {p : Packet} (h : p.body.length % 8 = 0) :
    p.bytes = natLe 8 (p.headWord p.hops) ++ (natLe 8 p.info.toNat ++ (p.body ++
      (natLe 4 (crc32 (natLe 8 (p.headWord 0) ++ (natLe 8 p.info.toNat ++ p.body))) ++ List.replicate 4 0#8))) := by
  simp [Packet.bytes, padTo_of_dvd, h, Packet.headBytes_eq]

theorem Packet.units_of_dvd {p : Packet} (h : p.body.length % 8 = 0) : 8 * p.units = 24 + p.body.length := by
  rw [Packet.units, ceilDiv]; omega

/-- Settles O48: each part of the wire's string reads back at its place, so that no check of the packet fails. -/
theorem packetRoundTrip : Obligations.PacketRoundTrip := by
  intro p hok hsrc hdst hhops hkind hinfo hlk hdvd hlen
  have hunits := Packet.units_of_dvd hdvd
  have hle : p.units ≤ 259 := by omega
  have hcls : p.cls < 8 := by have := cls_lt_of_kindOk hok; omega
  obtain ⟨kind_eq, cls_eq, units_eq, src_eq, dst_eq⟩ := Packet.headWord_fields hkind hcls hle hsrc hdst
  obtain ⟨hops_eq, last_eq, rsv_eq, word_lt⟩ := Packet.headWord_flags hkind hcls hle hsrc hdst (by omega : p.hops < 4)
  have hbytes := Packet.bytes_eq hdvd
  have length_eq : p.bytes.length = 8 * p.units := by simp [hbytes, hunits]; omega
  have word_eq : fieldAt p.bytes 0 8 = p.headWord p.hops := by
    rw [hbytes]; exact fieldAt_front word_lt
  have info_eq : fieldAt p.bytes 8 8 = p.info.toNat := by
    rw [hbytes]; exact fieldAt_append (length_natLe ..) (by have := p.info.isLt; omega)
  have body_eq : slice p.bytes 16 (8 * p.units - 24) = p.body := by
    rw [hbytes, ← List.append_assoc]; exact slice_append (by simp) (by omega)
  have crcd_eq : slice p.bytes 8 (8 * p.units - 16) = natLe 8 p.info.toNat ++ p.body := by
    rw [hbytes, ← List.append_assoc (natLe 8 p.info.toNat)]; exact slice_append (by simp) (by simp; omega)
  have crc_eq : fieldAt p.bytes (8 * p.units - 8) 4 = crc32 (natLe 8 (p.headWord 0) ++ (natLe 8 p.info.toNat ++ p.body)) := by
    rw [hbytes, ← List.append_assoc (natLe 8 p.info.toNat), ← List.append_assoc]
    exact fieldAt_append (by simp; omega) (lt_of_lt_of_eq (crc32_lt _) (by norm_num))
  have zero_eq : fieldAt p.bytes (8 * p.units - 4) 4 = 0 := by
    rw [hbytes, ← List.append_assoc p.body, ← List.append_assoc (natLe 8 p.info.toNat), ← List.append_assoc]
    exact fieldAt_zeros (by simp; omega)
  refine ⟨length_eq, ?_, ?_⟩
  · have : ¬ (p.bytes.length < 8 ∨ p.units < 3 ∨ 259 < p.units) := by omega
    simp only [headUnits, bfld, word_eq, units_eq, show p.units - 1 + 1 = p.units by omega, if_neg this]
  · have hnoHops : ¬ p.hops = 3 := by omega
    simp only [Packet.parse, word_eq, kind_eq, cls_eq, src_eq, dst_eq, hops_eq, last_eq, rsv_eq, info_eq, body_eq, crcd_eq, crc_eq,
      zero_eq, Packet.headWord_sub_hops, BitVec.ofNat_toNat, BitVec.setWidth_eq, hok, hinfo]
    simp [hnoHops]
    exact fun hcls hne => absurd (hlk hcls) hne

end Sys2Proof.Machine
end


section
/-! PROOFS. What a step carries out, and what reset leaves. -/

namespace Sys2Proof.Machine

/-- Every command answers a next state: each arm of `exec` is `.next` of its function. -/
theorem exec_next (i : Instr) (s : State) : ∃ t, exec i s = .next t := by
  cases i <;> exact ⟨_, rfl⟩

/-- Settles O1: the three branches of `step`, and `exec_next`. -/
theorem stepRunsFrontCommand : Obligations.StepRunsFrontCommand := by
  unfold Obligations.StepRunsFrontCommand
  refine ⟨fun i rest s h => ?_, fun s h => ⟨fun ha => ?_, fun ha => ?_⟩, exec_next⟩
  · simp only [step, h]
  · simp only [step, h, ha, if_true]
  · simp [step, h, ha]

/-- Settles O3: every memory of the reset state is the empty list. -/
theorem resetForm : Obligations.ResetForm := by
  unfold Obligations.ResetForm
  refine ⟨⟨rfl, rfl, fun c => rfl⟩, rfl, rfl, fun c => rfl, rfl⟩

end Sys2Proof.Machine
end


section
/-! PROOFS. What reset leaves in the registers, the claim table and the logs. -/

namespace Sys2Proof.Machine

/-- At reset no register has been written: each reads as its reset value. -/
theorem reset_reg (k : Nat) : State.reset.reg k = regReset 0 k := rfl

/-- At reset the claim table is that of R477. -/
theorem reset_claim (base i : Nat) (h : base + 8 * (i / 64) < 0x10000) :
    State.reset.claim base i = fld (claimReset 0 (base + 8 * (i / 64))) (i % 64) 1 := by
  have hd : State.reset.dreg (0x10000 + base + 8 * (i / 64)) = claimReset 0 (base + 8 * (i / 64)) := by
    have ho : 0x10000 + base + 8 * (i / 64) - 0x10000 = base + 8 * (i / 64) := by omega
    rw [State.dreg, reset_reg, regReset, if_pos (by omega), devReset, if_pos (by omega), ho]
  rw [State.claim, hd]

theorem fld_halfMap_lower (k n i : Nat) (h : k < n / 2) : fld (halfMap k n) i 1 = 0 := by
  simp [halfMap, h, fld]

/-- Each bit of a word of all ones is 1. -/
theorem fld_halfMap_upper (k n i : Nat) (h : ¬ k < n / 2) (hi : i < 64) : fld (halfMap k n) i 1 = 1 := by
  have hall : ∀ j : Fin 64, fld ones64 j.val 1 = 1 := by decide
  rw [halfMap, if_neg h, hall ⟨i, hi⟩]

/-- Word `k` of the ring claims at reset. -/
theorem claimReset_rings (k : Nat) (h : k < 64) : claimReset 0 (0 + 8 * k) = halfMap k 64 := by
  simp only [claimReset]
  have hk : (0 + 8 * k - 0) / 8 = k := by omega
  rw [if_pos (by omega), hk]

/-- Word `k` of the core claims of a class at reset. -/
theorem claimReset_cores (x : Cls) (k : Nat) (h : k < 2) : claimReset 0 (0x200 + 0x10 * x.num + 8 * k) = halfMap k 2 := by
  have hk : k = 0 ∨ k = 1 := by omega
  cases x <;> obtain rfl | rfl := hk <;> rfl

theorem reset_ringPort (r : Nat) (h : r < 4096) : State.reset.ringPort r = fld (halfMap (r / 64) 64) (r % 64) 1 := by
  rw [State.ringPort, reset_claim _ _ (by omega), claimReset_rings _ (by omega)]

theorem reset_corePort (x : Cls) (c : Nat) (h : c < 128) :
    State.reset.corePort x c = fld (halfMap (c / 64) 2) (c % 64) 1 := by
  have hx : x.num < 3 := by cases x <;> decide
  rw [State.corePort, reset_claim _ _ (by omega), claimReset_cores _ _ (by omega)]

/-- No function is in host-assisted mode at reset: `ASSISTED` is 0. -/
theorem reset_assisted (f : Nat) : State.reset.assisted f = false := by
  have hd : State.reset.dreg 0x1008 = 0 := rfl
  simp [State.assisted, hd, bitAt]

/-- Settles O2: the claim table by halves, and every other value by evaluation of the reset state. -/
theorem resetValues : Obligations.ResetValues := by
  unfold Obligations.ResetValues
  refine ⟨rfl, rfl, rfl, rfl, rfl, rfl, reset_assisted, fun r h => ?_, fun r h h' => ?_, fun k c h => ?_, fun k c h h' => ?_,
    rfl, rfl, reset_reg, rfl, by decide, by decide, by decide, by decide, by decide, fun p hp => ?_,
    fun _ => rfl, fun _ => rfl, fun _ => rfl, fun _ => rfl, fun _ => rfl⟩
  · rw [reset_ringPort r (by omega), fld_halfMap_lower _ _ _ (by omega)]
  · rw [reset_ringPort r h', fld_halfMap_upper _ _ _ (by omega) (by omega)]
  · rw [reset_corePort k c (by omega), fld_halfMap_lower _ _ _ (by omega)]
  · rw [reset_corePort k c h', fld_halfMap_upper _ _ _ (by omega) (by omega)]
  · have h2 : p = 0 ∨ p = 1 := by omega
    obtain rfl | rfl := h2 <;> decide

end Sys2Proof.Machine
end


section
/-! PROOFS. Scalar instructions: what a ready core does with the word it fetches, and each result of Table 07-3. -/

namespace Sys2Proof.Machine

variable {s t : State} {c : CoreIx} {r : Run} {i : Instr} {w : Word} {ok : Bool} {body : State → Run → Eff} {e : Exn}

/-- An instruction that goes through the issue stage, at a core that is ready and fetches its word, has its effect. -/
theorem does_of_ok (h : Ready s c.val r) (hx : exec i s = .next (s.issue c.val w ok body)) (hi : coreWord i = some (c, w))
    (ho : ok = true) (hb : body s r = .ok t) : Does s i (.next t) := by
  intro hf
  rw [Fetches, hi] at hf
  rw [hx, issue_ok h hf ho hb]

/-- Such an instruction whose effect is an exception takes it. -/
theorem does_of_error (h : Ready s c.val r) (hx : exec i s = .next (s.issue c.val w ok body)) (hi : coreWord i = some (c, w))
    (ho : ok = true) (hb : body s r = .error e) : Does s i (.next (s.take c.val e w)) := by
  intro hf
  rw [Fetches, hi] at hf
  rw [hx, issue_error h hf ho hb]

/-- An instruction with a bad field raises `ILLEGAL_OP` (R207). -/
theorem does_of_bad_field (h : Ready s c.val r) (hx : exec i s = .next (s.issue c.val w ok body))
    (hi : coreWord i = some (c, w)) (ho : ok = false) : Does s i (.next (s.raise c.val xIllegalOp enIssue w)) := by
  intro hf
  rw [Fetches, hi] at hf
  rw [hx, issue_ready h hf, ho]
  rfl

/-- An exception other than a machine check is raised (R231). -/
theorem take_of_ne {code engine addr : Nat} (c : Nat) (h : code ≠ xMachineCheck) :
    s.take c ⟨code, engine, addr⟩ w = s.raise c code engine w := by
  rw [State.take, if_neg h]

/-- A scalar result of two registers. -/
theorem does_opRR (h : Ready s c.val r) (op : Nat) (g : Word → Word → Word) {f : RFmt}
    (hx : exec i s = .next (opRR op g c f s)) (hi : coreWord i = some (c, f.word op)) (ho : f.ok true true true false = true) :
    Does s i (s.result c.val f.d (g ((s.core c.val).sreg f.a.toNat) ((s.core c.val).sreg f.b.toNat))) :=
  does_of_ok h hx hi ho (congrArg Except.ok (putS_eq ..))

/-- A scalar result of a register and the immediate. -/
theorem does_opRI (h : Ready s c.val r) (op : Nat) (g : Word → BitVec 32 → Word) {f : IFmt}
    (hx : exec i s = .next (opRI op g c f s)) (hi : coreWord i = some (c, f.word op)) (ho : f.ok true true false = true) :
    Does s i (s.result c.val f.d (g ((s.core c.val).sreg f.a.toNat) f.imm)) :=
  does_of_ok h hx hi ho (congrArg Except.ok (putS_eq ..))

/-! ### The functions of Table 07-3 -/

theorem boolWord_slt (a b : Word) : boolWord (a.slt b) = if a.toInt < b.toInt then 1 else 0 := by
  simp [boolWord, BitVec.slt_eq_decide]

theorem boolWord_ult (a b : Word) : boolWord (a.ult b) = if a.toNat < b.toNat then 1 else 0 := by
  simp [boolWord, BitVec.ult_eq_decide]

theorem boolWord_beq (a b : Word) : boolWord (a == b) = if a = b then 1 else 0 := by
  simp [boolWord]

theorem minSigned_eq (a b : Word) : minSigned a b = if b.toInt < a.toInt then b else a := by
  simp [minSigned, BitVec.slt_eq_decide]

theorem maxSigned_eq (a b : Word) : maxSigned a b = if a.toInt < b.toInt then b else a := by
  simp [maxSigned, BitVec.slt_eq_decide]

/-- `LIH` puts the immediate above the low half of Sd. -/
theorem append_lower (x : BitVec 32) (v : Word) :
    x ++ v.setWidth 32 = BitVec.ofNat 64 (x.toNat * 2 ^ 32 + v.toNat % 2 ^ 32) := by
  apply BitVec.eq_of_toNat_eq
  have hv : (v.setWidth 32).toNat < 2 ^ 32 := (v.setWidth 32).isLt
  rw [BitVec.toNat_append, Nat.shiftLeft_eq, Nat.mul_comm, ← Nat.two_pow_add_eq_or_of_lt hv, BitVec.toNat_setWidth,
    BitVec.toNat_ofNat]
  omega

theorem popCount_eq (v : BitVec 256) : popCount v = (List.range 256).countP fun i => v.getLsbD i :=
  List.countP_eq_length_filter.symm

/-- The core state words are those numbered below 16 (Table 07-1). -/
theorem coreWord_isSome_iff (s : State) (c n : Nat) (r : Run) : (s.coreWord c n r).isSome = true ↔ n < 16 := by
  by_cases h : n < 16
  · have hall : ∀ m : Fin 16, (s.coreWord c m.val r).isSome = true := by
      intro ⟨m, hm⟩
      interval_cases m <;> rfl
    exact iff_of_true (hall ⟨n, h⟩) h
  · refine iff_of_false ?_ h
    obtain ⟨m, rfl⟩ : ∃ m, n = m + 16 := ⟨n - 16, by omega⟩
    simp [State.coreWord]

section
variable {f : RFmt} {g : IFmt}

/-- Arithmetic, logic, shifts and comparisons of two registers. -/
theorem does_registers (h : Ready s c.val r) (ho : f.ok true true true false = true) :
    let a := (s.core c.val).sreg f.a.toNat
    let b := (s.core c.val).sreg f.b.toNat
    let res := s.result c.val f.d
    Does s (.add c f) (res (a + b)) ∧ Does s (.sub c f) (res (a - b)) ∧ Does s (.mul c f) (res (a * b)) ∧
    Does s (.mulhu c f) (res (BitVec.ofNat 64 (a.toNat * b.toNat / 2 ^ 64))) ∧
    Does s (.and c f) (res (a &&& b)) ∧ Does s (.or c f) (res (a ||| b)) ∧ Does s (.xor c f) (res (a ^^^ b)) ∧
    Does s (.shl c f) (res (a <<< (b.toNat % 64))) ∧ Does s (.shr c f) (res (a >>> (b.toNat % 64))) ∧
    Does s (.sar c f) (res (a.sshiftRight (b.toNat % 64))) ∧
    Does s (.slt c f) (res (if a.toInt < b.toInt then 1 else 0)) ∧
    Does s (.sltu c f) (res (if a.toNat < b.toNat then 1 else 0)) ∧
    Does s (.seq c f) (res (if a = b then 1 else 0)) ∧
    Does s (.min c f) (res (if b.toInt < a.toInt then b else a)) ∧
    Does s (.max c f) (res (if a.toInt < b.toInt then b else a)) := by
  intro a b res
  rw [← boolWord_slt, ← boolWord_ult, ← boolWord_beq, ← minSigned_eq, ← maxSigned_eq]
  exact ⟨does_opRR h 0x01 (· + ·) rfl rfl ho, does_opRR h 0x02 (· - ·) rfl rfl ho, does_opRR h 0x03 (· * ·) rfl rfl ho,
    does_opRR h 0x04 mulHigh rfl rfl ho, does_opRR h 0x05 (· &&& ·) rfl rfl ho, does_opRR h 0x06 (· ||| ·) rfl rfl ho,
    does_opRR h 0x07 (· ^^^ ·) rfl rfl ho, does_opRR h 0x08 shiftLeft rfl rfl ho, does_opRR h 0x09 shiftRight rfl rfl ho,
    does_opRR h 0x0A shiftArith rfl rfl ho, does_opRR h 0x0B (fun a b => boolWord (a.slt b)) rfl rfl ho,
    does_opRR h 0x0C (fun a b => boolWord (a.ult b)) rfl rfl ho, does_opRR h 0x0D (fun a b => boolWord (a == b)) rfl rfl ho,
    does_opRR h 0x0E minSigned rfl rfl ho, does_opRR h 0x0F maxSigned rfl rfl ho⟩

/-- Instructions of a register and the immediate. -/
theorem does_immediates (h : Ready s c.val r) (ho : g.ok true true false = true) :
    let a := (s.core c.val).sreg g.a.toNat
    let res := s.result c.val g.d
    Does s (.addi c g) (res (a + g.imm.signExtend 64)) ∧ Does s (.andi c g) (res (a &&& g.imm.zeroExtend 64)) ∧
      Does s (.ori c g) (res (a ||| g.imm.zeroExtend 64)) ∧ Does s (.shli c g) (res (a <<< (g.imm.toNat % 64))) ∧
      Does s (.shri c g) (res (a >>> (g.imm.toNat % 64))) :=
  ⟨does_opRI h 0x10 (fun a i => a + sext32 i) rfl rfl ho, does_opRI h 0x11 (fun a i => a &&& i.setWidth 64) rfl rfl ho,
    does_opRI h 0x12 (fun a i => a ||| i.setWidth 64) rfl rfl ho, does_opRI h 0x13 (fun a i => a <<< (i.toNat % 64)) rfl rfl ho,
    does_opRI h 0x14 (fun a i => a >>> (i.toNat % 64)) rfl rfl ho⟩

/-- The two halves of a constant. -/
theorem does_constants (h : Ready s c.val r) (ho : g.ok true false false = true) :
    Does s (.li c g) (s.result c.val g.d (g.imm.signExtend 64)) ∧
      Does s (.lih c g) (s.result c.val g.d
        (BitVec.ofNat 64 (g.imm.toNat * 2 ^ 32 + ((s.core c.val).sreg g.d.toNat).toNat % 2 ^ 32))) := by
  rw [← append_lower]
  exact ⟨does_of_ok h rfl rfl ho (congrArg Except.ok (putS_eq ..)), does_of_ok h rfl rfl ho (congrArg Except.ok (putS_eq ..))⟩

/-- `SYSR` of a number that Table 07-1 lists. -/
theorem does_sysr (h : Ready s c.val r) (ho : g.ok true false false = true) {v : Word}
    (hv : s.coreWord c.val g.imm.toNat r = some v) : Does s (.sysr c g) (s.result c.val g.d v) := by
  refine does_of_ok h rfl rfl ho ?_
  rw [hv]
  exact congrArg Except.ok (putS_eq ..)

/-- `SYSR` of a reserved number. -/
theorem does_sysr_reserved (h : Ready s c.val r) (ho : g.ok true false false = true) (hn : 16 ≤ g.imm.toNat) :
    Does s (.sysr c g) (.next (s.raise c.val xIllegalOp enIssue (g.word 0x24))) := by
  have hnone : s.coreWord c.val g.imm.toNat r = none := by
    rw [← Option.not_isSome_iff_eq_none, coreWord_isSome_iff]
    omega
  rw [← take_of_ne (addr := 0) c.val (show xIllegalOp ≠ xMachineCheck by decide)]
  refine does_of_error h rfl rfl ho ?_
  rw [hnone]
  rfl

theorem does_pcnt (h : Ready s c.val r) (ho : f.ok true true false false = true) (ha : f.a.toNat < 8) :
    Does s (.pcnt c f) (s.result c.val f.d
      (BitVec.ofNat 64 ((List.range 256).countP fun i => ((s.core c.val).preg f.a.toNat).getLsbD i))) := by
  rw [← popCount_eq]
  refine does_of_ok h rfl rfl ?_ (congrArg Except.ok (putS_eq ..))
  rw [ho, decide_eq_true ha]
  rfl

end

/-- Settles O10: register reads after writes, and the instructions group by group. -/
theorem scalarResults : Obligations.ScalarResults := by
  unfold Obligations.ScalarResults
  refine ⟨fun k n m v => ⟨rfl, rfl, fun h => ?_, fun h => ?_, Core.setS_ls .., Core.setS_pc .., Core.setS_trees ..⟩,
    fun c f s r h ho => does_registers h ho, fun c f s r h ho => does_of_ok h rfl rfl ho rfl,
    fun c f s r h => ⟨does_immediates h, does_constants h⟩,
    fun c s r h => ⟨fun f ho => ⟨fun v => does_sysr h ho, does_sysr_reserved h ho, (coreWord_isSome_iff ..).2⟩,
      rfl, rfl, rfl, fun f => does_pcnt h⟩⟩
  · rw [Core.sreg_setS, if_pos ⟨rfl, h⟩]
  · rw [Core.sreg_setS, if_neg fun hm => h hm.1]

end Sys2Proof.Machine
end


section
/-! PROOFS. Single floats, loads, stores, branches and jumps (Table 07-3). -/

namespace Sys2Proof.Machine

variable {s t : State} {c : CoreIx} {r : Run} {i : Instr} {f : RFmt} {g : IFmt} {b : BFmt}

/-! ### Single floats -/

/-- A ready core runs its item. -/
theorem run_of_ready {c : Nat} (h : Ready s c r) : (s.core c).run = some r := h.2.2.2.1

/-- Counting invalid operations and writing a result are one update of a core that runs an item. -/
theorem evInvalid_putS {c : Nat} (h : Ready s c r) (n : Nat) (d : BitVec 5) (v : Word) :
    (s.evInvalid c n).putS c d v = s.onCore c fun k =>
      ({ k with run := some { r with evInvalid := min (r.evInvalid + n) (2 ^ 32 - 1) } }.setS d.toNat v).next := by
  rw [putS_eq, State.onCore, State.onCore, State.evInvalid, State.modRun, State.core_modCore, run_of_ready h]
  simp only [State.modCore, setCore_setCore, Option.map_some, satNat]

theorem does_opSF (h : Ready s c.val r) (op : Nat) (useB : Bool) (g : FV → FV → Ar FV)
    (hx : exec i s = .next (opSF op useB g c f s)) (hi : coreWord i = some (c, f.word op)) (ho : f.ok true true useB false = true) :
    let x := (g (wordFp ((s.core c.val).sreg f.a.toNat)) (wordFp ((s.core c.val).sreg f.b.toNat))).run 0
    Does s i (.next (s.onCore c.val fun k =>
      ({ k with run := some { r with evInvalid := min (r.evInvalid + x.2) (2 ^ 32 - 1) } }.setS f.d.toNat (fpWord x.1)).next)) :=
  does_of_ok h hx hi ho (congrArg Except.ok (evInvalid_putS h ..))

/-- The low half of a register as a two's complement number. -/
theorem bitsInt_low (v : Word) : bitsInt 32 (v.toNat % 2 ^ 32) = (v.setWidth 32).toInt := by
  rw [bitsInt, BitVec.toInt_eq_toNat_cond, BitVec.toNat_setWidth, Nat.mod_mod]
  split <;> split <;> omega

/-- Settles O11: `does_opSF` for each operation on floats, and the conversions. -/
theorem singleFloatResults : Obligations.SingleFloatResults := by
  unfold Obligations.SingleFloatResults
  intro c f s r h
  refine ⟨fun ho => ⟨?_, ?_, ?_, ?_⟩, fun ho => ⟨?_, ?_, ?_⟩⟩
  · exact does_opSF h 0x18 true add32 rfl rfl ho
  · exact does_opSF h 0x19 true sub32 rfl rfl ho
  · exact does_opSF h 0x1A true mul32 rfl rfl ho
  · exact does_opSF h 0x1B true div32 rfl rfl ho
  · exact does_opSF h 0x1C false (fun a _ => sqrt32 a) rfl rfl ho
  · exact does_of_ok h rfl rfl ho (congrArg Except.ok (evInvalid_putS h ..))
  · rw [← bitsInt_low]
    exact does_of_ok h rfl rfl ho (congrArg Except.ok (putS_eq ..))

/-! ### Loads and stores -/

theorem engRead_ok {k : Core} {a n engine : Nat} (h : ∀ w ∈ wordsOf a n, w ∉ k.lsPoison) : engRead k a n engine = .ok () := by
  have hnone : (wordsOf a n).find? (fun w => k.lsPoison.contains w) = none := by
    rw [List.find?_eq_none]
    intro w hw
    simpa using h w hw
  rw [engRead, hnone]

/-- An aligned address in the partition. -/
theorem lsAddr_ok {k : Core} {a : BitVec 5} {imm : BitVec 32} {n m : Nat} (hm : (k.sreg a.toNat + sext32 imm).toNat % m = 0)
    (hp : inPart r.express (k.sreg a.toNat + sext32 imm).toNat n = true) :
    lsAddr k r a imm n m = .ok (k.sreg a.toNat + sext32 imm).toNat := by
  rw [lsAddr, if_neg (not_not_intro hm), hp]
  rfl

theorem lsAddr_misaligned {k : Core} {a : BitVec 5} {imm : BitVec 32} {n m : Nat}
    (hm : (k.sreg a.toNat + sext32 imm).toNat % m ≠ 0) : lsAddr k r a imm n m = .error ⟨xMisaligned, enIssue, 0⟩ := by
  rw [lsAddr, if_pos hm]

/-- An aligned address outside the partition. -/
theorem lsAddr_outside {k : Core} {a : BitVec 5} {imm : BitVec 32} {n m : Nat} (hm : (k.sreg a.toNat + sext32 imm).toNat % m = 0)
    (hp : inPart r.express (k.sreg a.toNat + sext32 imm).toNat n = false) :
    lsAddr k r a imm n m = .error ⟨xLsPartition, enIssue, 0⟩ := by
  rw [lsAddr, if_neg (not_not_intro hm), hp]
  rfl

theorem does_load (h : Ready s c.val r) (op n : Nat) (hx : exec i s = .next (load op n c g s))
    (hi : coreWord i = some (c, g.word op)) (ho : g.ok true true false = true) :
    let k := s.core c.val
    let x := (k.sreg g.a.toNat + g.imm.signExtend 64).toNat
    (x % n = 0 ∧ inPart r.express x n = true ∧ ∀ w ∈ wordsOf x n, w ∉ k.lsPoison) →
      Does s i (s.result c.val g.d (BitVec.ofNat 64 (k.ls.readNat x n))) := by
  intro k x ⟨hm, hp, hc⟩
  have he : engRead (s.core c.val) ((s.core c.val).sreg g.a.toNat + sext32 g.imm).toNat n enIssue = .ok () := engRead_ok hc
  refine does_of_ok h hx hi ho ?_
  simp only [lsAddr_ok (k := s.core c.val) hm hp, he, bind, Except.bind, pure, Except.pure, putS_eq]
  rfl

/-- Byte `j` of a little-endian number of `n` bytes. -/
theorem getD_natLe (n v j : Nat) (h : j < n) : (natLe n v).getD j 0 = BitVec.ofNat 8 (v / 256 ^ j) := by
  induction n generalizing v j with
  | zero => omega
  | succ n ih =>
    cases j with
    | zero => simp [natLe]
    | succ j => simp only [natLe, List.getD_cons_succ, ih _ _ (Nat.lt_of_succ_lt_succ h), Nat.div_div_eq_div_mul, Nat.pow_succ, Nat.mul_comm]

/-- A byte of local store after a word has been stored. -/
theorem read_lsPut_natLe (k : Core) (x n v a : Nat) :
    (k.lsPut x (natLe n v)).ls.read a = if x ≤ a ∧ a < x + n then BitVec.ofNat 8 (v / 256 ^ (a - x)) else k.ls.read a := by
  simp only [Core.lsPut]
  split
  next h =>
    obtain ⟨j, rfl⟩ : ∃ j, a = x + j := ⟨a - x, by omega⟩
    rw [Memory.read_writeBytes_in _ _ _ _ (by simp; omega), getD_natLe _ _ _ (by omega), Nat.add_sub_cancel_left]
  next h => rw [Memory.read_writeBytes_out _ _ _ _ (by simp; omega)]

theorem stores (h : Ready s c.val r) (op n : Nat) (hx : exec i s = .next (store op n c g s))
    (hi : coreWord i = some (c, g.word op)) (ho : g.ok false true true = true) (hf : Fetches s i) :
    let k := s.core c.val
    let x := (k.sreg g.a.toNat + g.imm.signExtend 64).toNat
    let v := (k.sreg g.b.toNat).toNat
    x % n = 0 → inPart r.express x n = true →
      ∃ t, exec i s = .next t ∧
        (∀ a, (t.core c.val).ls.read a =
          if x ≤ a ∧ a < x + n then BitVec.ofNat 8 (v / 256 ^ (a - x)) else k.ls.read a) ∧
        (t.core c.val).regs = { k.regs with pc := k.regs.pc + 8 } ∧ (t.core c.val).trees = k.trees ∧
        (t.core c.val).run = k.run ∧ t = { s with cores := t.cores } ∧ ∀ d, d ≠ c.val → t.core d = s.core d := by
  intro k x v hm hp
  have hd : Does s i (.next (s.onCore c.val fun k => (k.lsPut x (natLe n v)).next)) := by
    refine does_of_ok h hx hi ho ?_
    simp only [lsAddr_ok (k := s.core c.val) hm hp, bind, Except.bind, pure, Except.pure, State.adv, modCore_modCore]
    rfl
  refine ⟨_, hd hf, fun a => ?_, ?_, ?_, ?_, rfl, fun d hd => ?_⟩
  · rw [State.core_setCore]
    exact read_lsPut_natLe _ _ _ _ a
  · rw [State.core_setCore]
    rfl
  · rw [State.core_setCore]
    rfl
  · rw [State.core_setCore]
    rfl
  · exact State.core_setCore_ne _ _ _ hd

/-- Settles O12: `does_load` and `stores` for 8 and for 4 bytes. -/
theorem localStoreWords : Obligations.LocalStoreWords := by
  unfold Obligations.LocalStoreWords
  refine ⟨fun c f s r h ho => ⟨does_load h 0x20 8 rfl rfl ho, does_load h 0x21 4 rfl rfl ho⟩,
    fun c f s r h ho => ⟨fun hm hp hf => ?_, fun hm hp hf => ?_⟩⟩
  · exact stores h 0x22 8 rfl rfl ho hf hm hp
  · exact stores h 0x23 4 rfl rfl ho hf hm hp

end Sys2Proof.Machine
end


section
/-! PROOFS. Branches, jumps and waits (Table 07-3). -/

namespace Sys2Proof.Machine

variable {s t : State} {c : CoreIx} {r : Run} {i : Instr} {f : RFmt} {g : XFmt} {b : BFmt}

/-! ### Branches -/

theorem jumpTo_ok {c : Nat} {x : Word} (hm : x.toNat % 8 = 0) (hp : inPart r.express x.toNat 8 = true) :
    s.jumpTo c r x = .ok (s.onCore c fun k => k.setPc x.toNat) := by
  rw [State.jumpTo, if_neg (not_not_intro hm), hp]
  rfl

theorem jumpTo_misaligned {c : Nat} {x : Word} (hm : x.toNat % 8 ≠ 0) : s.jumpTo c r x = precise xMisaligned := by
  rw [State.jumpTo, if_pos hm]

theorem jumpTo_outside {c : Nat} {x : Word} (hm : x.toNat % 8 = 0) (hp : inPart r.express x.toNat 8 = false) :
    s.jumpTo c r x = precise xLsPartition := by
  rw [State.jumpTo, if_neg (not_not_intro hm), hp]
  rfl

/-- A branch whose condition is `taken`. -/
theorem does_branch (h : Ready s c.val r) (op : Nat) (useA : Bool) (test : Word → Bool) (taken : Prop)
    (hx : exec i s = .next (branchIf op useA test c b s)) (hi : coreWord i = some (c, b.word op)) (ho : b.ok useA = true)
    (ht : test ((s.core c.val).sreg b.a.toNat) = true ↔ taken) :
    let k := s.core c.val
    let dst := (BitVec.ofNat 64 k.regs.pc + 8 * b.off.signExtend 64).toNat
    (taken → dst % 8 = 0 → inPart r.express dst 8 = true → Does s i (.next (s.setCore c.val (k.setPc dst)))) ∧
      (¬ taken → Does s i (.next (s.setCore c.val k.next))) := by
  refine ⟨fun hk hm hp => does_of_ok h hx hi ho ?_, fun hk => does_of_ok h hx hi ho ?_⟩
  · rw [← ht] at hk
    simp only [hk, if_true]
    exact jumpTo_ok hm hp
  · rw [← ht] at hk
    simp only [if_neg hk]
    rfl

/-- `LOOP` decrements Sa, and branches unless that leaves it zero; S0 stays zero. -/
theorem does_loop (h : Ready s c.val r) (ho : b.ok true = true) :
    let k := s.core c.val
    let a := k.sreg b.a.toNat
    let dst := (BitVec.ofNat 64 k.regs.pc + 8 * b.off.signExtend 64).toNat
    (b.a ≠ 0 ∧ a ≠ 1 → dst % 8 = 0 → inPart r.express dst 8 = true →
      Does s (.loop c b) (.next (s.setCore c.val ((k.setS b.a.toNat (a - 1)).setPc dst)))) ∧
    (¬ (b.a ≠ 0 ∧ a ≠ 1) → Does s (.loop c b) (.next (s.setCore c.val (k.setS b.a.toNat (a - 1)).next))) := by
  intro k a dst
  have hs : ((s.modCore c.val fun k => k.setS b.a.toNat (k.sreg b.a.toNat - 1)).core c.val).sreg b.a.toNat != 0 ↔ b.a ≠ 0 ∧ a ≠ 1 := by
    rw [State.core_modCore, Core.sreg_setS]
    by_cases h0 : b.a = 0
    · simp [h0, Core.sreg]
    · have hn : b.a.toNat ≠ 0 := fun hz => h0 (BitVec.eq_of_toNat_eq hz)
      rw [if_pos ⟨rfl, hn⟩, bne_iff_ne, Ne, sub_eq_zero]
      exact ⟨fun hy => ⟨h0, hy⟩, And.right⟩
  refine ⟨fun hk hm hp => does_of_ok h rfl rfl ho ?_, fun hk => does_of_ok h rfl rfl ho ?_⟩
  · rw [← hs] at hk
    simp only [hk, if_true]
    refine (jumpTo_ok hm hp).trans (congrArg Except.ok ?_)
    rw [State.onCore, State.core_modCore, State.modCore, setCore_setCore]
  · rw [← hs] at hk
    simp only [if_neg hk, State.adv, modCore_modCore]
    rfl

/-- Settles O13: `does_branch` with each condition, `does_loop`, and the three outcomes of `JR`. -/
theorem branchResults : Obligations.BranchResults := by
  unfold Obligations.BranchResults
  refine ⟨fun c f s r h => ⟨fun ho => ?_, fun ho => ⟨?_, ?_, ?_, ?_, does_loop h ho⟩⟩,
    fun c f s r h ho => ⟨fun hm hp => ?_, fun hm => ?_, fun hm hp => ?_⟩⟩
  · exact does_branch h 0x28 false (fun _ => true) True rfl rfl ho (by simp)
  · exact does_branch h 0x2A true (fun a => a == 0) _ rfl rfl ho (by simp)
  · exact does_branch h 0x2B true (fun a => a != 0) _ rfl rfl ho (by simp)
  · exact does_branch h 0x2C true (fun a => a.slt 0) _ rfl rfl ho (by simp [BitVec.slt_eq_decide])
  · exact does_branch h 0x2D true (fun a => !a.slt 0) _ rfl rfl ho (by simp [BitVec.slt_eq_decide])
  · exact does_of_ok h rfl rfl ho (jumpTo_ok hm hp)
  · rw [← take_of_ne (addr := 0) c.val (show xMisaligned ≠ xMachineCheck by decide)]
    exact does_of_error h rfl rfl ho (jumpTo_misaligned hm)
  · rw [← take_of_ne (addr := 0) c.val (show xLsPartition ≠ xMachineCheck by decide)]
    exact does_of_error h rfl rfl ho (jumpTo_outside hm hp)

/-! ### Waits -/

/-- The core stops at the instruction: its item waits. -/
theorem stallFor_eq {c : Nat} (h : Ready s c r) (w : Stall) :
    s.stallFor c w = s.onCore c fun k =>
      { k with run := some { r with stall := some w, stallAt := s.ticks, stallLimit := s.waitLimit } } := by
  rw [State.stallFor, State.modRun, State.modCore, run_of_ready h]
  rfl

/-- A wait whose condition holds goes on, and another stops the core. -/
theorem does_wait (h : Ready s c.val r) {w : Word} {ok : Bool} {body : State → Run → Eff} {u : Stall} {met : Prop}
    (hx : exec i s = .next (s.issue c.val w ok body)) (hi : coreWord i = some (c, w)) (ho : ok = true)
    (hb : body s r = .ok (if s.stallMet c.val r u = true then s.adv c.val else s.stallFor c.val u))
    (hm : s.stallMet c.val r u = true ↔ met) :
    (met → Does s i (.next (s.onCore c.val Core.next))) ∧
      (¬ met → Does s i (.next (s.onCore c.val fun k =>
        { k with run := some { r with stall := some u, stallAt := s.ticks, stallLimit := s.waitLimit } }))) := by
  refine ⟨fun hk => does_of_ok h hx hi ho ?_, fun hk => does_of_ok h hx hi ho ?_⟩
  · rw [hb, if_pos (hm.2 hk)]
    rfl
  · rw [hb, if_neg (fun hy => hk (hm.1 hy)), stallFor_eq h]

/-- Bit 0 of a word of memory is that of its first byte. -/
theorem readNat_bit (m : Memory) (a n : Nat) : bitAt (m.readNat a (n + 1)) 0 = (m.read a).getLsbD 0 := by
  rw [Memory.readNat, Memory.readBytes, leNat, bitAt, BitVec.getLsbD, Nat.testBit_zero, Nat.shiftRight_zero,
    Nat.add_mod, Nat.mul_mod]
  simp [beq_eq_decide]

/-- The condition of a `WAIT` on a local-store word (R220). -/
theorem does_wait_word (h : Ready s c.val r) (h0 : g.imm = 0) (ho : g.ok false true false false false = true)
    (hm : ((s.core c.val).sreg g.a.toNat).toNat % 8 = 0)
    (hp : inPart r.express ((s.core c.val).sreg g.a.toNat).toNat 8 = true)
    (hc : ((s.core c.val).sreg g.a.toNat).toNat / 8 ∉ (s.core c.val).lsPoison) :
    let a := ((s.core c.val).sreg g.a.toNat).toNat
    (((s.core c.val).ls.read a).getLsbD 0 = true → Does s (.wait c g) (.next (s.onCore c.val Core.next))) ∧
      (¬ ((s.core c.val).ls.read a).getLsbD 0 = true → Does s (.wait c g) (.next (s.onCore c.val fun k =>
        { k with run := some { r with stall := some (.word a), stallAt := s.ticks, stallLimit := s.waitLimit } }))) := by
  intro a
  have hw : wordsOf a 8 = [a / 8] := by
    have h1 : (a + 7) / 8 - a / 8 + 1 = 1 := by omega
    simp only [wordsOf, Nat.reduceLeDiff, max_eq_left, Nat.add_sub_assoc, Nat.reduceSub, h1]
    rfl
  have he : engRead (s.core c.val) a 8 enIssue = .ok () := engRead_ok (by simpa [hw] using hc)
  have hx : exec (.wait c g) s = .next (waitInsn c g s) := rfl
  unfold waitInsn at hx
  refine does_wait h (u := .word a) hx rfl ?_ ?_ ?_
  · simp [h0, ho]
  · simp only [h0]
    rw [if_pos (by decide), if_neg (not_not_intro hm), hp]
    simp only [a, Bool.not_true, Bool.false_eq_true, if_false] at he ⊢
    simp only [he, bind, Except.bind, pure, Except.pure]
    split <;> rfl
  · rw [← readNat_bit _ _ 7]
    rfl

/-- The condition of a `WAIT` on the chain count (R220). -/
theorem does_wait_chain (h : Ready s c.val r) (h1 : g.imm = 1) (ho : g.ok false true false false false = true) :
    let a := ((s.core c.val).sreg g.a.toNat).toNat
    let met := ((s.core c.val).chainCount - BitVec.ofNat 32 a).toNat < 2 ^ 31
    (met → Does s (.wait c g) (.next (s.onCore c.val Core.next))) ∧
      (¬ met → Does s (.wait c g) (.next (s.onCore c.val fun k =>
        { k with run := some { r with stall := some (.chain (a % 2 ^ 32)), stallAt := s.ticks, stallLimit := s.waitLimit } }))) := by
  intro a met
  have ha : BitVec.ofNat 32 (a % 2 ^ 32) = BitVec.ofNat 32 a := by
    apply BitVec.eq_of_toNat_eq
    simp
  have hx : exec (.wait c g) s = .next (waitInsn c g s) := rfl
  unfold waitInsn at hx
  refine does_wait h (u := .chain (a % 2 ^ 32)) hx rfl ?_ ?_ ?_
  · simp [h1, ho]
  · simp only [h1]
    rw [if_neg (by decide), if_pos (by decide)]
    simp only [bind, Except.bind, pure, Except.pure]
    split <;> rfl
  · simp only [State.stallMet, ha, decide_eq_true_eq, BitVec.lt_def]
    rfl

/-- The condition of a `WAIT` on a stream's delivered count (R220). -/
theorem does_wait_stream (h : Ready s c.val r) (h2 : g.imm = 2) (ho : g.ok false true true false false = true) {d : Nat}
    (hd : s.deliveredNow c.val r (((s.core c.val).sreg g.a.toNat).toNat % 2 ^ 16) = some d) :
    let a := ((s.core c.val).sreg g.a.toNat).toNat
    let n := ((s.core c.val).sreg g.b.toNat).toNat
    (n ≤ d → Does s (.wait c g) (.next (s.onCore c.val Core.next))) ∧
      (¬ n ≤ d → Does s (.wait c g) (.next (s.onCore c.val fun k =>
        { k with run := some { r with stall := some (.stream (a % 2 ^ 16) n), stallAt := s.ticks, stallLimit := s.waitLimit } }))) := by
  intro a n
  have hx : exec (.wait c g) s = .next (waitInsn c g s) := rfl
  unfold waitInsn at hx
  refine does_wait h (u := .stream (a % 2 ^ 16) n) hx rfl ?_ ?_ ?_
  · simp [h2, ho]
  · simp only [h2]
    rw [if_neg (by decide), if_neg (by decide)]
    simp only [bind, Except.bind, pure, Except.pure]
    split <;> rfl
  · simp only [State.stallMet, a, hd, decide_eq_true_eq]

theorem does_ewait (h : Ready s c.val r) (hm : g.imm.toNat < 64) (ho : g.ok false false false false false = true) :
    let met := g.imm.getLsbD 5 = true → s.outstanding c.val r.item = false
    (met → Does s (.ewait c g) (.next (s.onCore c.val Core.next))) ∧
      (¬ met → Does s (.ewait c g) (.next (s.onCore c.val fun k =>
        { k with run := some { r with stall := some (.engines g.imm.toNat), stallAt := s.ticks, stallLimit := s.waitLimit } }))) := by
  intro met
  have hb : bitAt g.imm.toNat 5 = g.imm.getLsbD 5 := by
    rw [bitAt, BitVec.getLsbD, Nat.testBit, Nat.one_and_eq_mod_two]
    simp [beq_eq_decide]
  refine does_wait h (u := .engines g.imm.toNat) rfl rfl ?_ ?_ ?_
  · simp [ho, hm]
  · simp only
    split <;> rfl
  · simp only [State.stallMet, hb, met]
    cases g.imm.getLsbD 5 <;> cases s.outstanding c.val r.item <;> decide

/-- The state in which a core goes on behind the instruction that waited. -/
abbrev State.unstalled (s : State) (c : Nat) (r : Run) : State :=
  s.setCore c { s.core c with
    run := some { r with stall := none }, regs := { (s.core c).regs with pc := (s.core c).regs.pc + 8 } }

/-- An issuing core runs its item. -/
theorem run_of_issuing {c : Nat} (h : s.issuing c = some r) : (s.core c).run = some r := by
  rw [State.issuing] at h
  split at h
  · exact h
  · cases h

/-- A core that waited issues its next instruction as the core that has gone on does (R220). -/
theorem issue_of_stallMet {c : Nat} {u : Stall} {w : Word} (h : s.issuing c = some r) (hs : r.stall = some u)
    (hm : s.stallMet c r u = true) (hf : ((s.unstalled c r).core c).fetched = w) (ok : Bool) (body : State → Run → Eff) :
    s.issue c w ok body = (s.unstalled c r).issue c w ok body := by
  have hr := run_of_issuing h
  have hu : s.unstall c r = some (s.unstalled c r) := by
    rw [State.unstall, hs]
    simp only [hm, if_true, State.modCore, hr, Option.map_some]
  have hi : (s.unstalled c r).issuing c = some { r with stall := none } := by
    rw [State.issuing, hr] at h
    rw [State.issuing, State.core_setCore]
    split at h
    next hc => exact if_pos hc
    next => cases h
  rw [State.issue.eq_def, State.issue.eq_def, h, hi]
  have hv : (s.unstalled c r).unstall c { r with stall := none } = some (s.unstalled c r) := rfl
  simp only [hu, hv, hf, bne_self_eq_false, Bool.false_eq_true, if_false]
  rfl

/-- `WAIT_TIMEOUT` at a core whose wait has a limit (R222). -/
theorem exec_waitTimeout {u : Stall} (h : s.issuing c.val = some r) (hs : r.stall = some u) (hl : u.limited = true) :
    exec (.waitTimeout c) s = .next (if s.stallMet c.val r u = false ∧ r.stallAt + r.stallLimit ≤ s.ticks then
      s.raise c.val xWaitTimeout enIssue (s.core c.val).fetched else s) := by
  have hx : exec (.waitTimeout c) s = .next (waitTimeout c s) := rfl
  rw [hx, waitTimeout, h]
  simp only [hs, hl, Bool.true_and, Bool.and_eq_true, Bool.not_eq_true', decide_eq_true_eq]

/-- Settles O14: each kind of wait, `issue_of_stallMet` for the instructions named, and `exec_waitTimeout`. -/
theorem waitResults : Obligations.WaitResults := by
  unfold Obligations.WaitResults
  refine ⟨fun c f s r h => ⟨does_wait_word h, does_wait_chain h, fun h2 ho d => does_wait_stream h h2 ho, does_ewait h⟩,
    fun c s r w h hs hm i hi => ?_, fun c s r w h hs hl => ⟨fun hm ht => ?_, fun hm => ?_, fun ht => ?_⟩⟩
  · intro u hf
    obtain ⟨f, rfl | rfl | rfl⟩ | ⟨f, rfl | rfl | rfl⟩ := hi <;>
      exact congrArg Host.Outcome.next (issue_of_stallMet h hs hm hf _ _)
  · rw [exec_waitTimeout h hs hl, if_pos ⟨hm, ht⟩]
    rfl
  · rw [exec_waitTimeout h hs hl, if_neg fun hc => absurd (hm.symm.trans hc.1) (by decide)]
  · rw [exec_waitTimeout h hs hl, if_neg fun hc => absurd hc.2 (Nat.not_le.2 ht)]

end Sys2Proof.Machine
end


section
/-! PROOFS. `SIGNAL` and `END`, and the exceptions of instructions. -/

namespace Sys2Proof.Machine

variable {s t : State} {c : CoreIx} {r : Run} {g : XFmt}

/-! ### SIGNAL and END -/

/-- An effect operation that an earlier run made gives its status again (R283). -/
theorem effectOp_repeated {c : Nat} (h : Ready s c r) (n : Nat) {st : Nat} (hs : r.suppress[r.effects.length]? = some st) :
    s.effectOp c n = (some st, s.onCore c fun k => { k with run := some { r with effects := r.effects ++ [st] } }) := by
  simp only [State.effectOp, run_of_ready h, hs, State.modRun, State.modCore, Option.map_some]

/-- A first effect operation is recorded with its status. -/
theorem effectOp_first {c : Nat} (h : Ready s c r) (n : Nat) (hs : r.suppress[r.effects.length]? = none) :
    s.effectOp c n = (none, s.onCore c fun k => { k with run := some { r with effects := r.effects ++ [n] } }) := by
  simp only [State.effectOp, run_of_ready h, hs, State.modRun, State.modCore, Option.map_some]

/-- An item's effect operation, and the next instruction, are one update of the core. -/
theorem adv_effect (s : State) (c : Nat) (l : List Nat) :
    (s.onCore c fun k => { k with run := some { r with effects := l } }).adv c =
      s.onCore c fun k => { k.next with run := some { r with effects := l } } := by
  simp only [State.adv, State.onCore, State.modCore, State.core_setCore, setCore_setCore]
  rfl

/-- With no `Inst` there is nothing that follows by itself from the items. -/
theorem settle_of_insts_nil (h : s.insts = []) : s.settle = s := by
  simp [State.settle, State.settleFuel, h, State.settleLoop]

/-- A decrement made for no `Inst` is a plain one. -/
theorem itemDecrement_of_insts_nil (h : s.insts = []) (id : ItemId) (o n : Nat) (ab : Bool) :
    s.itemDecrement id o n ab = s.decrement o n ab := by
  simp [State.itemDecrement, State.instOf, h]

/-- A decrement within the count is a write of the object. -/
theorem decrement_of_le {o n : Nat} (h : n ≤ (s.sync o).count.toNat) (ab : Bool) :
    s.decrement o n ab = s.setSync o { s.sync o with
      count := BitVec.ofNat 32 ((s.sync o).count.toNat - n), aborted := (s.sync o).aborted || ab } := by
  simp [State.decrement, Nat.not_lt.2 h]

/-- The hypotheses on the fields of a `SIGNAL` are its check. -/
theorem signal_ok (ho : g.ok false true false false false = true) (h0 : 0 < g.imm.toNat) (h1 : g.imm.toNat < 256) :
    (g.ok false true false false false && decide (0 < g.imm.toNat ∧ g.imm.toNat < 256)) = true := by
  simp [ho, h0, h1]

section
variable (h : Ready s c.val r) (ho : g.ok false true false false false = true) (h0 : 0 < g.imm.toNat) (h1 : g.imm.toNat < 256)
include h ho h0 h1

/-- A `SIGNAL` that an earlier run of the item made. -/
theorem does_signal_repeated (hp : s.syncPort (((s.core c.val).sreg g.a.toNat).toNat % 16384) = r.port) {st : Nat}
    (hs : r.suppress[r.effects.length]? = some st) :
    Does s (.signal c g) (.next (s.onCore c.val fun k => { k.next with run := some { r with effects := r.effects ++ [st] } })) := by
  refine does_of_ok h rfl rfl (signal_ok ho h0 h1) ?_
  rw [if_neg (not_not_intro hp), effectOp_repeated h 0 hs]
  exact congrArg Except.ok (adv_effect ..)

/-- The first `SIGNAL` of an item decrements the object. -/
theorem does_signal (hp : s.syncPort (((s.core c.val).sreg g.a.toNat).toNat % 16384) = r.port)
    (hs : r.suppress[r.effects.length]? = none) :
    Does s (.signal c g) (.next (((s.onCore c.val fun k =>
      { k.next with run := some { r with effects := r.effects ++ [0] } }).itemDecrement r.item
        (((s.core c.val).sreg g.a.toNat).toNat % 16384) g.imm.toNat false).settle)) := by
  refine does_of_ok h rfl rfl (signal_ok ho h0 h1) ?_
  rw [if_neg (not_not_intro hp), effectOp_first h 0 hs, ← adv_effect]
  rfl

theorem does_signal_claim (hp : s.syncPort (((s.core c.val).sreg g.a.toNat).toNat % 16384) ≠ r.port) :
    Does s (.signal c g) (.next (s.raise c.val xSyncClaim enIssue (g.word 0x32))) := by
  rw [← take_of_ne (addr := 0) c.val (show xSyncClaim ≠ xMachineCheck by decide)]
  refine does_of_error h rfl rfl (signal_ok ho h0 h1) ?_
  rw [if_pos hp]
  rfl

/-- With no `Inst`, `SIGNAL` changes the count of one sync object. -/
theorem signal_count (hi : s.insts = []) (hp : s.syncPort (((s.core c.val).sreg g.a.toNat).toNat % 16384) = r.port)
    (hs : r.suppress[r.effects.length]? = none)
    (hn : g.imm.toNat ≤ (s.sync (((s.core c.val).sreg g.a.toNat).toNat % 16384)).count.toNat) (hf : Fetches s (.signal c g)) :
    let o := ((s.core c.val).sreg g.a.toNat).toNat % 16384
    ∃ t, exec (.signal c g) s = .next t ∧ (t.sync o).count = (s.sync o).count - g.imm.setWidth 32 ∧
      (t.sync o).underflow = (s.sync o).underflow ∧ ∀ q, q ≠ o → t.sync q = s.sync q := by
  intro o
  have hd := does_signal h ho h0 h1 hp hs hf
  rw [itemDecrement_of_insts_nil (s := State.setCore _ _ _) hi, decrement_of_le (s := State.setCore _ _ _) hn,
    settle_of_insts_nil (s := State.setSync (State.setCore _ _ _) _ _) hi] at hd
  refine ⟨_, hd, ?_, ?_, fun q hq => ?_⟩
  · rw [State.sync_setSync]
    apply BitVec.eq_of_toNat_eq
    simp only [BitVec.toNat_ofNat, BitVec.toNat_sub, BitVec.toNat_setWidth]
    have hlt := (s.sync o).count.isLt
    have hle : g.imm.toNat ≤ (s.sync o).count.toNat := hn
    show ((s.sync o).count.toNat - g.imm.toNat) % 2 ^ 32 = _
    omega
  · rw [State.sync_setSync]
    rfl
  · exact State.sync_setSync_ne _ _ _ hq

end

/-- A core with a run that is at its end. -/
theorem atEnd_of_ending {c n : Nat} (hr : (s.core c).run = some r) (hs : r.stall = some (.ending n)) (hh : (s.core c).held = none) :
    s.atEnd c = if s.outstanding c r.item = true then none else some n := by
  simp only [State.atEnd, hr, hs, hh, Option.isSome_none, Bool.or_false]

/-- `END`: the run waits for its operations, and ends at once when none is outstanding. -/
theorem does_end (h : Ready s c.val r) (ho : g.ok false false false false false = true) (hi : g.imm.toNat < 65536) :
    let e := s.onCore c.val fun k =>
      { k with run := some { r with stall := some (.ending g.imm.toNat), stallAt := s.ticks, stallLimit := s.waitLimit } }
    Does s (.endItem c g) (.next (if s.outstanding c.val r.item = true then e else e.finishRun c.val g.imm.toNat)) := by
  intro e
  have hok : (g.ok false false false false false && decide (g.imm.toNat < 65536)) = true := by simp [ho, hi]
  have he : e.atEnd c.val = if s.outstanding c.val r.item = true then none else some g.imm.toNat := by
    have hrun : (e.core c.val).run =
        some { r with stall := some (.ending g.imm.toNat), stallAt := s.ticks, stallLimit := s.waitLimit } := by
      rw [State.core_setCore]
    have hheld : (e.core c.val).held = none := by
      rw [State.core_setCore]
      exact h.2.2.1
    have hout : e.outstanding c.val r.item = s.outstanding c.val r.item := by
      simp only [State.outstanding, e, State.core_setCore, State.setCore_accs]
    rw [atEnd_of_ending hrun rfl hheld, hout]
  refine does_of_ok h rfl rfl hok ?_
  rw [stallFor_eq h, State.tryEnd, he]
  by_cases hout : s.outstanding c.val r.item = true
  · rw [if_pos hout, if_pos hout]
  · rw [if_neg hout, if_neg hout]

/-- Settles O15: `SIGNAL` by the item's earlier effects and the object's port, `END` by what is outstanding. -/
theorem signalAndEnd : Obligations.SignalAndEnd := by
  unfold Obligations.SignalAndEnd
  refine ⟨fun c f s r h ho h0 h1 => ⟨fun hp st hs => does_signal_repeated h ho h0 h1 hp hs, does_signal h ho h0 h1,
    does_signal_claim h ho h0 h1, fun hi hp hs hn hf => signal_count h ho h0 h1 hi hp hs hn hf⟩,
    fun c f s r h ho hi => ⟨fun hout => ?_, fun hout => ?_⟩⟩
  · exact fun hf => (does_end h ho hi hf).trans (congrArg _ (if_pos hout))
  · exact fun hf => (does_end h ho hi hf).trans (congrArg _ (if_neg (Bool.eq_false_iff.1 hout)))

/-! ### Exceptions -/

/-- A write of core 3's running item that its port could send. -/
def releasableAcc : HostAcc :=
  { id := 0, port := 0, fn := 0, pasid := none, addr := 0, len := 8, kind := .write [] false, why := .hst 3, st := .queued, since := 0,
    item := Tests.rn.item }

/-- Core 3 runs an item whose one outstanding operation is that write, and port 0 takes messages of its error vector. -/
def releasableS : State :=
  { Tests.s3 with
    ports := [(0, { released := true, perst := false, linkUp := true, fns := [(0, { bme := true, msix := true, unmasked := [0] })] })]
    accs := [releasableAcc] }

/-- The log entry of the exception raises the error vector; its message goes out behind the write, nothing is outstanding
any more, and the run ends. -/
theorem raise_releasableS : ((releasableS.raise 3 xIllegalOp enIssue 0).core 3).run = none := by decide +kernel

/-- Refutes O16: an operation that is outstanding before the exception need not be so after it has been logged. In
`releasableS` the message of the error vector lets the item's last `HST` write out, so the run has ended. -/
theorem not_exceptionResults : ¬ Obligations.ExceptionResults := by
  unfold Obligations.ExceptionResults
  intro h
  have hi : releasableS.issuing 3 = some Tests.rn := by decide +kernel
  have ho : releasableS.outstanding 3 Tests.rn.item = true := by decide +kernel
  obtain ⟨hcore, -⟩ := (h.2 3 releasableS Tests.rn xIllegalOp enIssue 0 hi).1 (by decide +kernel) ho
  have hrun := raise_releasableS.symm.trans (congrArg Core.run hcore)
  cases hrun

end Sys2Proof.Machine
end


section
/-! PROOFS. `MACC`: what the instruction leaves once its checks pass, and the sums of an integer block. -/

namespace Sys2Proof.Machine

variable {s : State} {c : CoreIx} {r : Run} {f : MFmt} {m : MaccCap} {e : Elem × Elem} {t : TreeSet} {o : State}

/-- A field of a number as a quotient and a remainder. -/
theorem fld_eq_div (n lo w : Nat) : fld n lo w = n / 2 ^ lo % 2 ^ w := by
  rw [fld, Nat.shiftRight_eq_div_pow]

theorem fld_zero_eq (n w : Nat) : fld n 0 w = n % 2 ^ w := rfl

/-- What `MACC` captures of its registers and fields (R211). -/
abbrev maccCaptures (f : MFmt) (k : Core) : MaccCap :=
  { tile := f.tile.toNat, held := (k.sreg f.h.toNat).toNat % 2 ^ 22, heldStride := (k.sreg f.h.toNat).toNat / 2 ^ 22 % 2 ^ 16,
    streamed := (k.sreg f.s.toNat).toNat % 2 ^ 22, streamedStride := (k.sreg f.s.toNat).toNat / 2 ^ 22 % 2 ^ 16,
    base := (k.sreg f.k.toNat).toNat % 2 ^ 40, rows := f.rowsM1.toNat + 1, cols := f.colsM1.toNat + 1,
    kCount := f.kM1.toNat + 1, fpair := f.fpair.toNat, transpose := f.transpose }

/-- The set is put in its place: a begin takes tiles and slots, an add has them. -/
abbrev maccPlace (f : MFmt) (k : Core) (t : TreeSet) : Core := if f.begins then k.beginTree t else k.putTree t

/-- A panel that passes every check of R147, R227 and R428. -/
structure PanelGood (k : Core) (r : Run) (e : Elem) (addr stride n kc : Nat) : Prop where
  ok : panelOk e addr stride = true
  inside : inPart r.express addr (rowsExtent n stride (e.rowBytes kc)) = true
  read : panelRead k e addr stride n kc = .ok ()

/-- `MACC` whose checks pass carries out the accumulate of its arithmetic. -/
theorem does_macc (h : Ready s c.val r) (hl : f.rsvLo = 0) (hh : f.rsvHi = 0) (hb : f.begins = true ∨ f.tc = 0)
    (hm : m = maccCaptures f (s.core c.val)) (he : pairOf m.fpair = some e)
    (ht : (if f.begins then macBegin (s.core c.val) r m ((s.core c.val).sreg f.tc.toNat).toNat else macAdd (s.core c.val) r m) = .ok t)
    (hfmt : (t.tag.arith != .fp) = e.1.isInt) (hpair : t.tag.fpair = some m.fpair) (hpass : t.passThru = false)
    (h1 : PanelGood (s.core c.val) r e.1 m.held m.heldStride m.rows m.kCount)
    (h2 : PanelGood (s.core c.val) r e.2 m.streamed m.streamedStride m.cols m.kCount)
    (ho : let k := s.core c.val
      let t := { t with closed := decide (m.kCount < 64) }
      (if t.tag.arith = .fp then
        let h := (panel k e.1 m.held m.heldStride m.rows m.kCount).map fun x => x.map e.1.fv
        let v := (panel k e.2 m.streamed m.streamedStride m.cols m.kCount).map fun x => x.map e.2.fv
        let q := (blockFp (t.shrink m.rows m.cols) h v m.kCount).run 0
        pure (((s.setCore c.val (maccPlace f k q.1)).evInvalid c.val q.2).adv c.val)
      else do
        let log := RepLog.note (k.repLog r.express) m f.begins
        let q ← macInt k r e t m log (s.assisted 1)
        let s := s.setCore c.val ((maccPlace f k q.1).setRepLog r.express log)
        pure (if q.2 then s.intSat c.val (f.word 0x40) else s.adv c.val) : Eff) = .ok o) :
    Does s (.macc c f) (.next o) := by
  have hx : exec (.macc c f) s = .next (macc c f s) := rfl
  unfold macc at hx
  refine does_of_ok h hx rfl (by rw [hl, hh]; simpa using hb) ?_
  extract_lets +onlyGivenNames k h' v m'
  obtain rfl : m' = m := by
    rw [hm]
    simp only [m', h', v, k, fld_eq_div, Nat.pow_zero, Nat.div_one]
  clear_value m'
  simp only [he, Option.map_some, Option.getD_some, k, h1.inside, h2.inside, Bool.not_true, Bool.or_self, Bool.false_eq_true, if_false]
  have hrest : ∀ x : Except Exn TreeSet, x = .ok t → ∀ g : TreeSet → Eff, g t = .ok o → (x >>= g) = .ok o := by
    rintro x rfl g hg
    exact hg
  have hcond : ((t.tag.arith != .fp) != e.1.isInt || t.tag.fpair != some m'.fpair || !panelOk e.1 m'.held m'.heldStride ||
      !panelOk e.2 m'.streamed m'.streamedStride) = false := by
    simp [hfmt, hpair, h1.ok, h2.ok]
  simp only [hpass, bind, Except.bind] at ho
  by_cases hbeg : f.begins = true
  · rw [if_pos hbeg] at ht ⊢
    refine hrest _ ht _ ?_
    simp only [hcond, hpass, h1.read, h2.read, Bool.false_eq_true, if_false, bind, Except.bind]
    exact ho
  · rw [if_neg hbeg] at ht ⊢
    refine hrest _ ht _ ?_
    simp only [hcond, hpass, h1.read, h2.read, Bool.false_eq_true, if_false, bind, Except.bind]
    exact ho

/-! ### The floating-point form -/

/-- Counting invalid operations of a core that has been written, and the next instruction, are one update. -/
theorem evInvalid_adv_setCore {c : Nat} {k : Core} (hk : k.run = some r) (n : Nat) :
    ((s.setCore c k).evInvalid c n).adv c =
      s.setCore c { k.next with run := some { r with evInvalid := min (r.evInvalid + n) (2 ^ 32 - 1) } } := by
  simp only [State.adv, State.evInvalid, State.modRun, State.modCore, State.core_setCore, setCore_setCore, hk, Option.map_some, satNat]
  rfl

theorem adv_setCore (s : State) (c : Nat) (k : Core) : (s.setCore c k).adv c = s.setCore c k.next := by
  simp only [State.adv, State.modCore, State.core_setCore, setCore_setCore]

theorem run_maccPlace (f : MFmt) (k : Core) (t : TreeSet) : (maccPlace f k t).run = k.run := by
  unfold maccPlace
  split <;> rfl

/-! ### The integer form -/

/-- A begin that passes its checks begins an empty set at a multiple of 64 (R51, R52). -/
theorem macBegin_eq_ok {k : Core} {tc : Nat} (h : macBegin k r m tc = .ok t) :
    m.base % 64 = 0 ∧ ∃ g : TreeTag, g.fpair = some m.fpair ∧ t = TreeSet.fresh m.tile g m.base m.rows m.cols := by
  simp only [macBegin, bind, Except.bind, throw, throwThe, MonadExceptOf.throw, pure, Except.pure] at h
  split at h <;> try cases h
  split at h <;> try cases h
  split at h <;> try cases h
  split at h <;> try cases h
  next hb =>
    split at h <;> try cases h
    split at h <;> try cases h
    split at h <;> try cases h
    split at h <;> cases h
    exact ⟨not_not.1 hb, _, rfl, rfl⟩

theorem shrink_self (t : TreeSet) : t.shrink t.rows t.cols = t := by
  simp [TreeSet.shrink]

/-- The product of two integers without a pre-shift is exact. -/
theorem shiftProd_zero (p : Int) : shiftProd 0 p = p := by
  simp only [shiftProd, FV.toInt]
  by_cases hp : p < 0
  · simp [hp, abs_of_neg hp]
  · simp [hp]
    omega

/-- A value within the range of a width is not clamped. -/
theorem clampInt_of_mem {x : Int} (h1 : -(2 ^ 31) ≤ x) (h2 : x < 2 ^ 31) : clampInt 32 x = x := by
  simp only [clampInt]
  omega

/-- Numbers within the range of 32 bits pass R56's check. -/
theorem clampAll_of_mem {l : List Int} (h : ∀ x ∈ l, -(2 ^ 31) ≤ x ∧ x < 2 ^ 31) : clampAll 32 l = (l, false) := by
  have hc : ∀ x ∈ l, clampInt 32 x = x := fun x hx => clampInt_of_mem (h x hx).1 (h x hx).2
  have h1 : l.map (clampInt 32) = l := (List.map_congr_left hc).trans (List.map_id l)
  have h2 : (l.any fun x => clampInt 32 x != x) = false := by
    simp only [List.any_eq_false, bne_iff_ne, ne_eq, not_not]
    exact hc
  rw [clampAll, h1, h2]

/-- A sum of numbers of bounded size. -/
theorem abs_sum_le_length_mul {B : Int} (l : List Int) (h : ∀ x ∈ l, |x| ≤ B) : |l.sum| ≤ l.length * B := by
  induction l with
  | nil => simp
  | cons x l ih =>
    have h1 := h x (List.mem_cons_self ..)
    have h2 := ih fun y hy => h y (List.mem_cons_of_mem _ hy)
    have h3 := abs_add_le x l.sum
    simp only [List.sum_cons, List.length_cons]
    push_cast
    linarith

/-- A begun integer set at a multiple of 64, and a block of at most 64 indices whose sums fit in 32 bits: the sums
are the set's prefixes, and nothing saturates (R56). -/
theorem blockInt_fresh {h v : List (List Int)} {kc : Nat} (hkc : kc ≤ 64) (hint : t.tag.arith = .int) (hb : t.stack.t % 64 = 0)
    (hz : t.ints = List.replicate (t.rows * t.cols) 0) (hs : ∀ x ∈ sumInts t h v 0 kc, -(2 ^ 31) ≤ x ∧ x < 2 ^ 31) :
    blockInt t h v kc = { t with ints := sumInts t h v 0 kc, stack := ⟨t.stack.t + kc, []⟩ } := by
  have hlen : (sumInts t h v 0 kc).length = t.rows * t.cols := by simp [sumInts, grid]
  have hzip : t.ints.zipWith (· + ·) (sumInts t h v 0 kc) = sumInts t h v 0 kc := by
    rw [hz, ← hlen]
    apply List.ext_getElem
    · simp
    · intro i h1 h2
      simp
  have hend : (t.stack.t + (kc - 0)) % 64 = 0 ∨ decide (kc < 64) = true := by
    rw [decide_eq_true_eq]
    omega
  have hadd : t.addInts h v 0 kc (decide (kc < 64)) = { t with ints := sumInts t h v 0 kc, stack := ⟨t.stack.t + kc, []⟩ } := by
    simp only [TreeSet.addInts, hzip]
    rw [if_pos hend, TreeSet.checkPrefix]
    simp only [clampAll_of_mem hs, hint, reduceCtorEq, false_and, if_false, Bool.or_false, Nat.sub_zero]
  have hmin : min kc (64 - t.stack.t % 64) = kc := by omega
  simp only [blockInt, hmin, hadd, lt_irrefl, if_false]

/-- An element of the panel of a two's complement format, as a number. -/
theorem getD_getD_map_bitsInt {w : Nat} (hw : bitsInt w 0 = 0) (p : List (List Nat)) (a i : Nat) :
    (((p.map fun x => x.map (bitsInt w)).getD a []).getD i 0) = bitsInt w ((p.getD a []).getD i 0) := by
  have h1 : (p.map fun x => x.map (bitsInt w)).getD a [] = (p.getD a []).map (bitsInt w) :=
    List.getD_map _ [] fun x => x.map (bitsInt w)
  have h2 : ((p.getD a []).map (bitsInt w)).getD i (bitsInt w 0) = bitsInt w ((p.getD a []).getD i 0) :=
    List.getD_map _ 0 (bitsInt w)
  rw [h1, ← h2, hw]

theorem abs_bitsInt_le {w : Nat} (hw : w = 8 ∨ w = 4) (n : Nat) : |bitsInt w n| ≤ 128 := by
  rw [abs_le, bitsInt]
  obtain rfl | rfl := hw <;> split <;> omega

/-- The sum of the products of an element over a whole block. -/
def blockSum (h v : List (List Int)) (kc a b : Nat) : Int :=
  ((List.range kc).map fun i => (h.getD a []).getD i 0 * (v.getD b []).getD i 0).sum

theorem sumInts_block {h v : List (List Int)} {kc : Nat} (hs : t.tag.shift = 0) :
    sumInts t h v 0 kc = (grid t.rows t.cols).map fun p => blockSum h v kc p.1 p.2 := by
  simp only [sumInts, hs, shiftProd_zero, rangeFrom, Nat.sub_zero, List.map_map, blockSum, Function.comp_def, Nat.zero_add]

/-- A block of 64 products of bytes stays far within 32 bits. -/
theorem blockSum_mem {h v : List (List Int)} {kc : Nat} (hkc : kc ≤ 64) (a b : Nat)
    (hh : ∀ i, |(h.getD a []).getD i 0| ≤ 128) (hv : ∀ i, |(v.getD b []).getD i 0| ≤ 128) :
    -(2 ^ 31) ≤ blockSum h v kc a b ∧ blockSum h v kc a b < 2 ^ 31 := by
  have hprod : ∀ x ∈ (List.range kc).map fun i => (h.getD a []).getD i 0 * (v.getD b []).getD i 0, |x| ≤ 16384 := by
    intro x hx
    obtain ⟨i, -, rfl⟩ := List.mem_map.1 hx
    rw [abs_mul]
    calc |(h.getD a []).getD i 0| * |(v.getD b []).getD i 0| ≤ 128 * 128 :=
          mul_le_mul (hh i) (hv i) (abs_nonneg _) (by decide)
      _ = 16384 := by decide
  have hsum := abs_sum_le_length_mul _ hprod
  rw [List.length_map, List.length_range, ← blockSum, abs_le] at hsum
  omega

/-- Position of element `(a, b)` in a grid. -/
theorem getElem?_map_grid {α : Type} (g : Nat × Nat → α) {rows cols a b : Nat} (ha : a < rows) (hb : b < cols) :
    ((grid rows cols).map g)[cols * a + b]? = some (g (a, b)) := by
  have hlt : cols * a + b < rows * cols := by
    calc cols * a + b < cols * a + cols := by omega
      _ = (a + 1) * cols := by ring
      _ ≤ rows * cols := Nat.mul_le_mul_right _ ha
  have hdiv : (cols * a + b) / cols = a := by
    rw [Nat.mul_add_div (by omega), Nat.div_eq_of_lt hb, Nat.add_zero]
  have hmod : (cols * a + b) % cols = b := by
    rw [Nat.mul_add_mod, Nat.mod_eq_of_lt hb]
  simp [grid, hlt, hdiv, hmod]

/-- The set that an integer block begins: each element is the sum of its products. -/
theorem capBlock_fresh {k : Core} {w : Nat} (hw : w = 8 ∨ w = 4) {g : TreeTag} (hint : g.arith = .int) (hshift : g.shift = 0)
    (hb : m.base % 64 = 0) (hkc : m.kCount ≤ 64) (b : Bool) :
    let h := (panel k (.int w) m.held m.heldStride m.rows m.kCount).map fun x => x.map (bitsInt w)
    let v := (panel k (.int w) m.streamed m.streamedStride m.cols m.kCount).map fun x => x.map (bitsInt w)
    let t := { TreeSet.fresh m.tile g m.base m.rows m.cols with closed := b }
    capBlock k (.int w, .int w) t m =
      { t with ints := (grid m.rows m.cols).map fun p => blockSum h v m.kCount p.1 p.2, stack := ⟨m.base + m.kCount, []⟩ } := by
  intro h v t
  have hw0 : bitsInt w 0 = 0 := by obtain rfl | rfl := hw <;> rfl
  have hfp : g.arith ≠ .fp := by rw [hint]; decide
  have hz : t.ints = List.replicate (t.rows * t.cols) 0 := by simp [t, TreeSet.fresh, hfp]
  have hst : t.stack.t = m.base := by simp [t, TreeSet.fresh, hfp]
  have hsum : sumInts t h v 0 m.kCount = (grid m.rows m.cols).map fun p => blockSum h v m.kCount p.1 p.2 := sumInts_block hshift
  have hmem : ∀ x ∈ sumInts t h v 0 m.kCount, -(2 ^ 31) ≤ x ∧ x < 2 ^ 31 := by
    intro x hx
    rw [hsum] at hx
    obtain ⟨p, -, rfl⟩ := List.mem_map.1 hx
    refine blockSum_mem hkc _ _ (fun i => ?_) (fun i => ?_) <;>
      · rw [getD_getD_map_bitsInt hw0]
        exact abs_bitsInt_le hw _
  have hself : t.shrink m.rows m.cols = t := shrink_self t
  show blockInt (t.shrink m.rows m.cols) h v m.kCount = _
  rw [hself, blockInt_fresh hkc hint (by rw [hst, hb]) hz hmem, hsum, hst]

/-- An integer accumulate that does not saturate raises nothing (R57). -/
theorem macInt_of_not_sat {k : Core} {log : Option RepLog} {b : Bool} (hd : t.drained = false)
    (hs : (capBlock k e t m).sat = false) : macInt k r e t m log b = .ok (capBlock k e t m, false) := by
  simp only [macInt, hd, hs, Bool.false_and, Bool.false_eq_true, if_false, Bool.not_false, Bool.or_true, Bool.true_or, if_true]
  rfl

section
variable (h : Ready s c.val r) (hl : f.rsvLo = 0) (hh : f.rsvHi = 0)
include h hl hh

/-- `MACC` that begins an integer set. -/
theorem does_macc_int (hbeg : f.begins = true) {w : Nat} (hm : m = maccCaptures f (s.core c.val))
    (hw : m.fpair = 6 ∧ w = 8 ∨ m.fpair = 7 ∧ w = 4)
    (ht : macBegin (s.core c.val) r m ((s.core c.val).sreg f.tc.toNat).toNat = .ok t) (hint : t.tag.arith = .int)
    (hshift : t.tag.shift = 0) (h1 : PanelGood (s.core c.val) r (.int w) m.held m.heldStride m.rows m.kCount)
    (h2 : PanelGood (s.core c.val) r (.int w) m.streamed m.streamedStride m.cols m.kCount) :
    let u := capBlock (s.core c.val) (.int w, .int w) { t with closed := decide (m.kCount < 64) } m
    (u.tile = m.tile ∧ u.tag = t.tag ∧ u.stack.t = m.base + m.kCount ∧ u.rows = m.rows ∧ u.cols = m.cols ∧
      u.closed = decide (m.kCount < 64) ∧ u.sat = false ∧
      ∀ a b, a < m.rows → b < m.cols → u.ints[m.cols * a + b]? = some (blockSum
        ((panel (s.core c.val) (.int w) m.held m.heldStride m.rows m.kCount).map fun x => x.map (bitsInt w))
        ((panel (s.core c.val) (.int w) m.streamed m.streamedStride m.cols m.kCount).map fun x => x.map (bitsInt w)) m.kCount a b)) ∧
      Does s (.macc c f) (.next (s.onCore c.val fun k =>
        (({ k with trees := u :: k.trees.filter fun x => !x.shares u.tile u.tag }).setRepLog r.express
          (some ⟨m.tile, [m], false⟩)).next)) := by
  intro u
  obtain ⟨hb, g, hg, rfl⟩ := macBegin_eq_ok ht
  have hkc : m.kCount ≤ 64 := by
    rw [hm]
    have := f.kM1.isLt
    show f.kM1.toNat + 1 ≤ 64
    omega
  have hw' : w = 8 ∨ w = 4 := by omega
  have hu := capBlock_fresh (k := s.core c.val) (g := g) hw' hint hshift hb hkc (decide (m.kCount < 64))
  have hsat : u.sat = false := congrArg TreeSet.sat hu
  have he : pairOf m.fpair = some (.int w, .int w) := by
    obtain ⟨h6, rfl⟩ | ⟨h7, rfl⟩ := hw
    · rw [h6]; rfl
    · rw [h7]; rfl
  have hfp : g.arith ≠ .fp := by rw [show g.arith = .int from hint]; decide
  have htag : u.tag = g := congrArg TreeSet.tag hu
  refine ⟨⟨congrArg TreeSet.tile hu, htag, congrArg (fun x => x.stack.t) hu, congrArg TreeSet.rows hu,
    congrArg TreeSet.cols hu, congrArg TreeSet.closed hu, hsat, fun a b ha hb' => ?_⟩, ?_⟩
  · exact (congrArg (fun x : TreeSet => x.ints[m.cols * a + b]?) hu).trans
      (getElem?_map_grid (fun p => blockSum _ _ m.kCount p.1 p.2) ha hb')
  · refine does_macc h hl hh (.inl hbeg) hm he ((if_pos hbeg).trans ht) (bne_iff_ne.2 hfp) hg rfl h1 h2 ?_
    simp only [macInt_of_not_sat (t := { TreeSet.fresh m.tile g m.base m.rows m.cols with closed := decide (m.kCount < 64) })
      (e := (.int w, .int w)) rfl hsat, bind, Except.bind, pure, Except.pure, maccPlace, hbeg, if_true, Bool.false_eq_true, if_false,
      adv_setCore, RepLog.note]
    exact if_neg hfp

/-- `MACC` that begins or adds to a floating-point set. -/
theorem does_macc_fp (hb : f.begins = true ∨ f.tc = 0) (hm : m = maccCaptures f (s.core c.val)) (he : pairOf m.fpair = some e)
    (ht : (if f.begins then macBegin (s.core c.val) r m ((s.core c.val).sreg f.tc.toNat).toNat else macAdd (s.core c.val) r m) = .ok t)
    (hfp : t.tag.arith = .fp) (hfmt : e.1.isInt = false) (hpair : t.tag.fpair = some m.fpair) (hpass : t.passThru = false)
    (h1 : PanelGood (s.core c.val) r e.1 m.held m.heldStride m.rows m.kCount)
    (h2 : PanelGood (s.core c.val) r e.2 m.streamed m.streamedStride m.cols m.kCount) :
    let hv := (panel (s.core c.val) e.1 m.held m.heldStride m.rows m.kCount).map fun x => x.map e.1.fv
    let sv := (panel (s.core c.val) e.2 m.streamed m.streamedStride m.cols m.kCount).map fun x => x.map e.2.fv
    let q := (blockFp ({ t with closed := decide (m.kCount < 64) }.shrink m.rows m.cols) hv sv m.kCount).run 0
    Does s (.macc c f) (.next (s.onCore c.val fun k =>
      { (maccPlace f k q.1).next with run := some { r with evInvalid := min (r.evInvalid + q.2) (2 ^ 32 - 1) } })) := by
  intro hv sv q
  refine does_macc h hl hh hb hm he ht (by rw [hfp, hfmt]; rfl) hpair hpass h1 h2 ?_
  refine (if_pos hfp).trans (congrArg Except.ok ?_)
  exact evInvalid_adv_setCore ((run_maccPlace ..).trans (run_of_ready h)) _

end

/-- Settles O17: `does_macc_int` and `does_macc_fp`. -/
theorem maccResults : Obligations.MaccResults := by
  unfold Obligations.MaccResults
  refine ⟨fun c f s r h hl hh hbeg => ?_, fun c f s r h hl hh hb => ?_⟩
  · intro k _ _ m w t hw ht hint hshift e hp hv sv hf
    obtain ⟨ho1, hi1, hr1⟩ := hp _ (List.mem_cons_self ..)
    obtain ⟨ho2, hi2, hr2⟩ := hp _ (List.mem_cons_of_mem _ (List.mem_singleton_self _))
    have hw0 : bitsInt w 0 = 0 := by obtain ⟨-, rfl⟩ | ⟨-, rfl⟩ := hw <;> rfl
    obtain ⟨⟨htile, htag, hst, hr, hc, hcl, hsat, hints⟩, hd⟩ :=
      does_macc_int h hl hh hbeg (m := m) rfl hw ht hint hshift ⟨ho1, hi1, hr1⟩ ⟨ho2, hi2, hr2⟩
    rw [htile, htag] at hd
    refine ⟨_, hd hf, htile, htag, hst, hr, hc, hcl, hsat, fun a b ha hb => (hints a b ha hb).trans ?_⟩
    simp only [blockSum, getD_getD_map_bitsInt hw0]
    rfl
  · intro k _ _ m e t he ht hfp hfmt hpair hpass ho1 ho2 hi1 hi2 hr1 hr2
    exact does_macc_fp h hl hh hb rfl he ht hfp hfmt hpair hpass ⟨ho1, hi1, hr1⟩ ⟨ho2, hi2, hr2⟩

end Sys2Proof.Machine
end


section
/-! PROOFS. `TSLOAD`, `TSSTORE` and the Glaze drain. -/

namespace Sys2Proof.Machine

variable {s : State} {c : CoreIx} {r : Run} {f : XFmt} {t : TreeSet}

/-- An effect that goes on after a check that passes. -/
theorem eff_ok_bind {α β : Type} (a : α) (g : α → Except Exn β) : (Except.ok a >>= g) = g a := rfl

/-! ### Free values -/

/-- Free values advance their counter, and change nothing else. -/
theorem frees_state (s : State) (n : Nat) : (s.frees n).2 = { s with freeCtr := s.freeCtr + n } := by
  induction n generalizing s with
  | zero => rfl
  | succ n ih =>
    rw [State.frees, ih, State.free]
    simp only [Nat.add_assoc, Nat.add_comm 1]

/-- A state that differs in the counter of free values alone. -/
def FreesOnly (s u : State) : Prop := ∃ n, u = { s with freeCtr := n }

theorem FreesOnly.refl (s : State) : FreesOnly s s := ⟨s.freeCtr, rfl⟩

theorem FreesOnly.frees {s u : State} (h : FreesOnly s u) (n : Nat) : FreesOnly s (u.frees n).2 := by
  obtain ⟨m, rfl⟩ := h
  exact ⟨_, frees_state _ n⟩

theorem FreesOnly.core_eq {s u : State} (h : FreesOnly s u) (c : Nat) : u.core c = s.core c := by
  obtain ⟨m, rfl⟩ := h
  rfl

/-- The record of a set takes free values alone, and as many for each of its arrays as R148 leaves open. -/
theorem treeRecord_state {P : State → Prop} (s : State) (t : TreeSet) (h0 : P s)
    (hf : ∀ u, P u → P (u.frees (if t.rows = 32 ∧ t.cols = 64 then 0 else 2048)).2) : P (s.treeRecord t).2 := by
  rw [State.treeRecord]
  generalize (if t.rows = 32 ∧ t.cols = 64 then 0 else 2048) = n at hf ⊢
  dsimp only
  split
  · suffices h : ∀ (l : List (Nat × Option NodeArr)) (acc : List (Nat × Option NodeArr) × State), P acc.2 →
        P (l.foldl (fun (acc : List (Nat × Option NodeArr) × State) p =>
          match p.2 with
          | none => (acc.1 ++ [(p.1, none)], acc.2)
          | some a => (acc.1 ++ [(p.1, some (toRec t a (acc.2.frees n).1))], (acc.2.frees n).2)) acc).2 from h _ _ h0
    intro l
    induction l with
    | nil => exact fun acc h => h
    | cons p l ih =>
      intro acc h
      rw [List.foldl_cons]
      apply ih
      split
      · exact h
      · exact hf _ h
  · exact hf _ h0

theorem treeRecord_freesOnly (s : State) (t : TreeSet) : FreesOnly s (s.treeRecord t).2 :=
  treeRecord_state s t (.refl s) fun _ h => h.frees _

/-- A set whose elements are all defined leaves the record nothing open. -/
theorem treeRecord_of_full (s : State) (hr : t.rows = 32) (hc : t.cols = 64) : (s.treeRecord t).2 = s :=
  treeRecord_state (P := fun u => u = s) s t rfl fun u hu => by rw [if_pos ⟨hr, hc⟩, hu]; rfl

/-! ### TSLOAD and TSSTORE -/

/-- A tag that fits at a tile has the tile in its partition: it takes at least one (R50, R51). -/
theorem tileOk_of_fits {g : TreeTag} {express : Bool} {n : Nat} (h : g.fits express n = true) : tileOk express n = true := by
  have h1 : 1 ≤ g.tiles := by
    rw [TreeTag.tiles]
    split
    · exact Nat.le_max_left ..
    · exact le_rfl
  rw [TreeTag.fits, Bool.and_eq_true, decide_eq_true_eq] at h
  rw [tileOk, decide_eq_true_eq]
  omega

/-- A floating-point record begins a set that has not saturated. -/
theorem loadSet_fp_sat {n : Nat} {g : TreeTag} {x : Rec} (hg : g.arith = .fp) (h : loadSet n g x = some t) : t.sat = false := by
  simp only [loadSet, hg] at h
  split at h
  · cases h
    rfl
  · cases h

theorem does_tsload (h : Ready s c.val r) (ho : f.ok false true true false false = true) (hi : f.imm.toNat < 64) :
    let k := s.core c.val
    let a := (k.sreg f.a.toNat).toNat
    let b := (k.sreg f.b.toNat).toNat
    a % 32 = 0 → b % 32 = 0 → inPart r.express a 32 = true → inPart r.express b 32 = true →
      ∀ g h t, engRead k b 32 enMe = .ok () → parseTcb (k.ls.readBytes b 32) r.preShift = some g → g.arith = .fp →
        g.fits r.express f.imm.toNat = true → engRead k a 32 enMe = .ok () → RecHdr.parse false (k.ls.readBytes a 32) = some h →
        inPart r.express a h.length = true → engRead k a h.length enMe = .ok () →
        (Rec.parse (k.ls.readBytes a h.length)).bind (loadSet f.imm.toNat g) = some t →
        Does s (.tsload c f) (.next (s.onCore c.val fun k =>
          { k with trees := { t with passThru := false } :: k.trees.filter fun x => !x.shares t.tile t.tag }.next)) := by
  intro k a b ha hb hpa hpb g hd t hrb hg hfp hfits hra hhd hlen hrl ht
  have hx : exec (.tsload c f) s = .next (tsload c f s) := rfl
  unfold tsload at hx
  have hsat : t.sat = false := by
    obtain ⟨x, -, hx⟩ := Option.bind_eq_some_iff.1 ht
    exact loadSet_fp_sat hfp hx
  have hal : ¬ (a % 32 ≠ 0 ∨ b % 32 ≠ 0) := by omega
  refine does_of_ok h hx rfl (by simp [ho, hi]) ?_
  simp only [k, a, b] at *
  simp only [hal, hpa, hpb, tileOk_of_fits hfits, hrb, hra, hrl, hfits, hlen, Core.lsBytes, hg, hhd, ht, hfp, hsat, bind, Except.bind, pure,
    Except.pure, Bool.not_true, Bool.or_self, Bool.false_eq_true, if_false, bne_self_eq_false, Bool.false_and, adv_setCore]
  rfl

theorem does_tsstore (h : Ready s c.val r) (ho : f.ok false true false false false = true) (hi : f.imm.toNat < 64)
    (ha : ((s.core c.val).sreg f.a.toNat).toNat % 32 = 0) (htile : tileOk r.express f.imm.toNat = true)
    (ht : (s.core c.val).tree f.imm.toNat = some t) (hp : t.poisoned = false)
    (hin : inPart r.express ((s.core c.val).sreg f.a.toNat).toNat t.header.length = true) :
    Does s (.tsstore c f) (.next ((s.treeRecord t).2.onCore c.val fun k =>
      (k.engPut ((s.core c.val).sreg f.a.toNat).toNat (s.treeRecord t).1).next)) := by
  have hx : exec (.tsstore c f) s = .next (tsstore c f s) := rfl
  unfold tsstore at hx
  refine does_of_ok h hx rfl (by simp [ho, hi]) ?_
  simp only [ha, htile, ht, hin, TreeSet.readable, hp, ne_eq, not_true_eq_false, Bool.not_true, Bool.false_eq_true, if_false, bind, Except.bind,
    pure, Except.pure, State.adv, modCore_modCore]

/-- A write into a loaded image clears code tags, and changes nothing else. -/
theorem clearTags_eq (k : Core) (a n : Nat) : ∃ x y, k.clearTags a n = { k with tagLower := x, tagExpress := y } := by
  unfold Core.clearTags
  by_cases h1 : meets (0, k.imgLower) a n = true <;> by_cases h2 : meets (partBase true, k.imgExpress) a n = true <;>
    simp only [h1, h2, Bool.false_eq_true, if_true, if_false]
  · exact ⟨none, none, rfl⟩
  · exact ⟨none, k.tagExpress, rfl⟩
  · exact ⟨k.tagLower, none, rfl⟩
  · exact ⟨k.tagLower, k.tagExpress, rfl⟩

/-- A write by an engine changes local store, its poison and the code tags alone. -/
theorem engPut_eq (k : Core) (a : Nat) (d : Bytes) :
    ∃ p x y, k.engPut a d = { k with ls := k.ls.writeBytes a d, lsPoison := p, tagLower := x, tagExpress := y } := by
  obtain ⟨x, y, h⟩ := clearTags_eq (k.lsPut a d) a d.length
  exact ⟨_, x, y, h⟩

section
variable (k : Core) (a : Nat) (d : Bytes)

@[simp] theorem engPut_ls : (k.engPut a d).ls = k.ls.writeBytes a d := by
  obtain ⟨p, x, y, h⟩ := engPut_eq k a d
  rw [h]

@[simp] theorem engPut_regs : (k.engPut a d).regs = k.regs := by
  obtain ⟨p, x, y, h⟩ := engPut_eq k a d
  rw [h]

@[simp] theorem engPut_trees : (k.engPut a d).trees = k.trees := by
  obtain ⟨p, x, y, h⟩ := engPut_eq k a d
  rw [h]

@[simp] theorem engPut_run : (k.engPut a d).run = k.run := by
  obtain ⟨p, x, y, h⟩ := engPut_eq k a d
  rw [h]

end

/-- Writes of an engine change local store, its poison and the code tags alone. -/
theorem puts_eq (k : Core) (l : List (Nat × Bytes)) :
    ∃ p x y, k.puts l =
      { k with ls := l.foldl (fun m z => m.writeBytes z.1 z.2) k.ls, lsPoison := p, tagLower := x, tagExpress := y } := by
  induction l generalizing k with
  | nil => exact ⟨k.lsPoison, k.tagLower, k.tagExpress, rfl⟩
  | cons z l ih =>
    obtain ⟨p, x, y, h⟩ := engPut_eq k z.1 z.2
    obtain ⟨p', x', y', h'⟩ := ih (k.engPut z.1 z.2)
    refine ⟨p', x', y', ?_⟩
    rw [Core.puts, List.foldl_cons, ← Core.puts, h', h]
    rfl

@[simp] theorem puts_run (k : Core) (l : List (Nat × Bytes)) : (k.puts l).run = k.run := by
  obtain ⟨p, x, y, h⟩ := puts_eq k l
  rw [h]

/-- A byte of memory after a run of bytes has been written. -/
theorem read_writeBytes (m : Memory) (a : Nat) (d : Bytes) (x : Nat) :
    (m.writeBytes a d).read x = if a ≤ x ∧ x < a + d.length then d.getD (x - a) 0 else m.read x := by
  split
  next h =>
    obtain ⟨j, rfl⟩ : ∃ j, x = a + j := ⟨x - a, by omega⟩
    rw [Memory.read_writeBytes_in _ _ _ _ (by omega), Nat.add_sub_cancel_left]
  next h => exact Memory.read_writeBytes_out _ _ _ _ (by omega)

theorem tsstore_leaves (h : Ready s c.val r) (ho : f.ok false true false false false = true) (hi : f.imm.toNat < 64) :
    let k := s.core c.val
    let a := (k.sreg f.a.toNat).toNat
    a % 32 = 0 → (tileRange r.express).1 ≤ f.imm.toNat →
      f.imm.toNat < (tileRange r.express).2 → ∀ t, k.tree f.imm.toNat = some t → t.poisoned = false → inPart r.express a t.header.length = true →
        let q := s.treeRecord t
        Fetches s (.tsstore c f) → ∃ u, exec (.tsstore c f) s = .next u ∧ (u.core c.val).regs = { k.regs with pc := k.regs.pc + 8 } ∧
          (u.core c.val).trees = k.trees ∧
          (∀ x, (u.core c.val).ls.read x = if a ≤ x ∧ x < a + q.1.length then q.1.getD (x - a) 0 else k.ls.read x) ∧
          u = { s with cores := u.cores, freeCtr := u.freeCtr } ∧
          (t.rows = 32 → t.cols = 64 → u.freeCtr = s.freeCtr) := by
  intro k a ha hlo hhi t ht hp hin q hf
  refine ⟨_, does_tsstore h ho hi ha (decide_eq_true ⟨hlo, hhi⟩) ht hp hin hf, ?_, ?_, fun x => ?_, ?_, fun hr hc => ?_⟩
  · rw [State.core_setCore, (treeRecord_freesOnly s t).core_eq]
    exact congrArg (fun x : Regs => { x with pc := x.pc + 8 }) (engPut_regs ..)
  · rw [State.core_setCore, (treeRecord_freesOnly s t).core_eq]
    exact engPut_trees ..
  · rw [State.core_setCore, (treeRecord_freesOnly s t).core_eq, ← read_writeBytes, ← engPut_ls]
    rfl
  · obtain ⟨n, hn⟩ := treeRecord_freesOnly s t
    rw [hn]
    rfl
  · show (s.treeRecord t).2.freeCtr = _
    rw [treeRecord_of_full s hr hc]

/-! ### The Glaze drain -/

/-- An engine reads a tree set that is not poisoned. -/
theorem readable_of_not_poisoned {engine : Nat} (h : t.poisoned = false) : t.readable engine = .ok () := by
  simp [TreeSet.readable, h]

/-- Reads of an instruction that waits for an earlier write. -/
theorem does_glz_waits (h : Ready s c.val r) (ho : f.ok false true false false false = true) (hi : f.imm.toNat < 64) :
    let k := s.core c.val
    let a := (k.sreg f.a.toNat).toNat
    a % 32 = 0 → inPart r.express a 64 = true → (tileRange r.express).1 ≤ f.imm.toNat → f.imm.toNat < (tileRange r.express).2 →
    (k.tree f.imm.toNat).isSome = true → k.awaits a 64 = true → Does s (.glz c f) (.next s) := by
  intro k a ha hp hlo hhi ht hw
  obtain ⟨t, ht⟩ := Option.isSome_iff_exists.1 ht
  have hx : exec (.glz c f) s = .next (glz c f s) := rfl
  unfold glz at hx
  refine does_of_ok h hx rfl (by simp [ho, hi]) ?_
  have htile : tileOk r.express f.imm.toNat = true := decide_eq_true ⟨hlo, hhi⟩
  simp only [k, a] at ha hp ht hw
  simp only [ha, hp, htile, ht, hw, ne_eq, not_true_eq_false, Bool.not_true, Bool.true_or, Bool.false_eq_true, if_true, if_false, bind,
    Except.bind, pure, Except.pure]

/-- A drain whose checks pass: its block is `g`, its free values `fr`, and its outputs and their invalid operations `q`. -/
theorem does_glz (h : Ready s c.val r) (ho : f.ok false true false false false = true) (hi : f.imm.toNat < 64) {k : Core} {a : Nat}
    {g : GlazeCfg} {fr : List Word × State} {q : List GlazeOut × Nat} (hk : s.core c.val = k) (ha' : (k.sreg f.a.toNat).toNat = a)
    (hg : GlazeCfg.parse (k.ls.readBytes a 64) = g)
    (ha : a % 32 = 0) (hp : inPart r.express a 64 = true) (htile : tileOk r.express f.imm.toNat = true)
    (ht : k.tree f.imm.toNat = some t) (hpo : t.poisoned = false) (hw : k.awaits a 64 = false)
    (hwv : ∀ v ∈ g.vecs, k.awaits (g.vecAddr + v.1) v.2 = false) (hra : engRead k a 64 enGlaze = .ok ()) (hbad : g.bad = false)
    (hsp : engSpans r.express enGlaze g.writes = .ok ())
    (hrg : engRanges k r.express enGlaze (g.vecs.map fun v => (g.vecAddr + v.1, v.2)) = .ok ())
    (hfr : s.frees (if decide (t.rows < g.rows ∨ t.cols < g.cols) then g.rows * g.cols + 1 else 0) = fr)
    (hq : (do
      let vals ← (t.shrink g.rows g.cols).values
      g.outputs k (t.shrink g.rows g.cols) vals (fr.1.drop 1) : Ar _).run 0 = q) :
    let n := q.2 + (if decide (t.rows < g.rows ∨ t.cols < g.cols) then (fr.1.headD 0).toNat else 0)
    Does s (.glz c f) (.next (fr.2.onCore c.val fun k =>
      { ((k.puts (g.stores q.1)).putTree { t with group := false, drained := true }).next with
        run := some { r with evInvalid := min (r.evInvalid + n) (2 ^ 32 - 1) } })) := by
  have hx : exec (.glz c f) s = .next (glz c f s) := rfl
  unfold glz at hx
  have hany : (g.vecs.any fun v => k.awaits (g.vecAddr + v.1) v.2) = false := by
    rw [List.any_eq_false]
    exact fun v hv => Bool.eq_false_iff.1 (hwv v hv)
  have hcore : fr.2.core c.val = k := by
    rw [← hfr, ((FreesOnly.refl s).frees _).core_eq, hk]
  have hrun : ((k.puts (g.stores q.1)).putTree { t with group := false, drained := true }).run = some r := by
    rw [← hk]
    exact (puts_run ..).trans (run_of_ready h)
  refine does_of_ok h hx rfl (by simp [ho, hi]) ?_
  simp only [hk, ha', hg, ha, hp, htile, ht, hw, hany, hra, hbad, hsp, hrg, readable_of_not_poisoned hpo, hfr, hq, Core.lsBytes, ne_eq, not_true_eq_false,
    Bool.not_true, Bool.not_false, Bool.true_and, Bool.or_self, Bool.false_eq_true, if_false, eff_ok_bind, State.modCore, State.onCore, hcore,
    evInvalid_adv_setCore hrun]
  rfl

/-- Settles O18: `does_tsload`, `tsstore_leaves`, and the drain that runs and the one that waits. -/
theorem treeSetAndGlaze : Obligations.TreeSetAndGlaze := by
  unfold Obligations.TreeSetAndGlaze
  refine ⟨fun c f s r h hi => ⟨fun ho => does_tsload h ho hi, fun ho => tsstore_leaves h ho hi⟩,
    fun c f s r t h ho hi => ?_, fun c f s r h ho hi => does_glz_waits h ho hi⟩
  intro k a g ha hp hlo hhi ht hpo hw hwv hra hbad hsp hrg undef fr q n
  refine ⟨does_glz h ho hi rfl rfl rfl ha hp (decide_eq_true ⟨hlo, hhi⟩) ht hpo hw hwv hra hbad hsp hrg rfl rfl, fun hu => ?_⟩
  simp only [fr, hu, Bool.false_eq_true, if_false]
  rfl

end Sys2Proof.Machine
end


section
/-! PROOFS. `CHAIN`, `CHAINRU`, `RED` and `ROWOP`: the checks of descriptors and ranges, and what the engines leave alone. -/

namespace Sys2Proof.Machine

variable {s u : State} {c : CoreIx} {r : Run} {f : XFmt} {k : Core} {t : TreeSet} {b : Bytes}

/-! ### Checks -/

/-- Every range lies in the partition and is read without poison. -/
abbrev RangesClean (k : Core) (express : Bool) (engine : Nat) (l : List (Nat × Nat)) : Prop :=
  ∀ x ∈ l, inPart express x.1 x.2 = true ∧ engRead k x.1 x.2 engine = .ok ()

/-- A check of every member of a list passes. -/
theorem eff_forM_ok {α : Type} {l : List α} {g : α → Except Exn Unit} (h : ∀ x ∈ l, g x = .ok ()) : l.forM g = .ok () := by
  induction l with
  | nil => rfl
  | cons x l ih =>
    show (g x >>= fun _ => l.forM g) = _
    rw [h x (List.mem_cons_self ..), eff_ok_bind, ih fun y hy => h y (List.mem_cons_of_mem _ hy)]

theorem engRanges_ok {express : Bool} {engine : Nat} {l : List (Nat × Nat)} (h : RangesClean k express engine l) :
    engRanges k express engine l = .ok () :=
  eff_forM_ok fun x hx => by
    obtain ⟨hp, hr⟩ := h x hx
    simp only [hp, hr, Bool.not_true, Bool.false_eq_true, if_false]

theorem engSpans_ok {express : Bool} {engine : Nat} {l : List (Nat × Nat)} (h : ∀ x ∈ l, inPart express x.1 x.2 = true) :
    engSpans express engine l = .ok () :=
  eff_forM_ok fun x hx => by
    simp only [h x hx, Bool.not_true, Bool.false_eq_true, if_false]
    rfl

/-- Writes that all lie in the partition. -/
theorem engSpans_stores_ok {express : Bool} {engine : Nat} {l : List (Nat × Bytes)} (h : ∀ x ∈ l, inPart express x.1 x.2.length = true) :
    engSpans express engine (l.map fun x => (x.1, x.2.length)) = .ok () := by
  apply engSpans_ok
  intro y hy
  obtain ⟨x, hx, rfl⟩ := List.mem_map.1 hy
  exact h x hx

theorem tileFor_ok {express : Bool} {engine n : Nat} (ho : tileOk express n = true) (ht : k.tree n = some t) (hp : t.poisoned = false) :
    tileFor k express engine n = .ok t := by
  simp only [tileFor, ho, ht, readable_of_not_poisoned hp, Bool.not_true, Bool.false_eq_true, if_false, eff_ok_bind]
  rfl

theorem descAt_ok {reg : BitVec 5} {len engine : Nat} (ha : (k.sreg reg.toNat).toNat % 32 = 0)
    (h : RangesClean k r.express engine [((k.sreg reg.toNat).toNat, len)]) :
    descAt k r reg len engine = .ok (k.ls.readBytes (k.sreg reg.toNat).toNat len) := by
  obtain ⟨hp, hr⟩ := h _ (List.mem_singleton_self _)
  simp only [descAt, ha, hp, hr, ne_eq, not_true_eq_false, Bool.not_true, Bool.false_eq_true, if_false, eff_ok_bind]
  rfl

/-! ### What an engine leaves alone -/

/-- Beside core `c` and the counter of free values nothing differs. -/
structure CoreFrame (s : State) (c : Nat) (u : State) : Prop where
  rest : u = { s with cores := u.cores, freeCtr := u.freeCtr }
  others : ∀ e, e ≠ c → u.core e = s.core e

theorem CoreFrame.refl (s : State) (c : Nat) : CoreFrame s c s := ⟨rfl, fun _ _ => rfl⟩

theorem CoreFrame.setCore {c : Nat} (h : CoreFrame s c u) (k : Core) : CoreFrame s c (u.setCore c k) := by
  refine ⟨?_, fun e he => (State.core_setCore_ne _ _ _ he).trans (h.others e he)⟩
  have hr := h.rest
  generalize u.cores = a at hr ⊢
  generalize u.freeCtr = b at hr ⊢
  rw [hr]
  rfl

theorem CoreFrame.modCore {c : Nat} (h : CoreFrame s c u) (g : Core → Core) : CoreFrame s c (u.modCore c g) := h.setCore _

theorem CoreFrame.evInvalid {c : Nat} (h : CoreFrame s c u) (n : Nat) : CoreFrame s c (u.evInvalid c n) := by
  rw [State.evInvalid, State.modRun]
  exact h.modCore _

theorem CoreFrame.adv {c : Nat} (h : CoreFrame s c u) : CoreFrame s c (u.adv c) := h.modCore _

theorem CoreFrame.frees {c : Nat} (h : CoreFrame s c u) (n : Nat) : CoreFrame s c (u.frees n).2 := by
  rw [frees_state]
  refine ⟨?_, h.others⟩
  have hr := h.rest
  generalize u.cores = a at hr ⊢
  generalize u.freeCtr = b at hr ⊢
  rw [hr]

theorem CoreFrame.of_freesOnly {c : Nat} (h : FreesOnly s u) : CoreFrame s c u := by
  obtain ⟨n, rfl⟩ := h
  exact ⟨rfl, fun _ _ => rfl⟩

/-- Tile elements that are written one after another are registers: local store, tree sets and the rest stay. -/
theorem foldl_setT_eq (g : Nat → Nat × Nat) (l : List (Nat × Nat)) (k : Core) :
    ∃ x, l.foldl (fun k (z : Nat × Nat) => k.setT (g z.2).1 (g z.2).2 (BitVec.ofNat 32 z.1)) k = { k with regs := { k.regs with t := x } } := by
  induction l generalizing k with
  | nil => exact ⟨k.regs.t, rfl⟩
  | cons z l ih =>
    obtain ⟨x, hx⟩ := ih (k.setT (g z.2).1 (g z.2).2 (BitVec.ofNat 32 z.1))
    exact ⟨x, hx⟩

theorem puts_trees (k : Core) (l : List (Nat × Bytes)) : (k.puts l).trees = k.trees := by
  obtain ⟨p, x, y, h⟩ := puts_eq k l
  rw [h]

theorem puts_regs (k : Core) (l : List (Nat × Bytes)) : (k.puts l).regs = k.regs := by
  obtain ⟨p, x, y, h⟩ := puts_eq k l
  rw [h]

/-- A byte outside every range written reads as before. -/
theorem read_puts_out (k : Core) (l : List (Nat × Bytes)) {y : Nat} (h : ∀ z ∈ l, y < z.1 ∨ z.1 + z.2.length ≤ y) :
    (k.puts l).ls.read y = k.ls.read y := by
  induction l generalizing k with
  | nil => rfl
  | cons z l ih =>
    rw [Core.puts, List.foldl_cons, ← Core.puts, ih _ fun x hx => h x (List.mem_cons_of_mem _ hx), engPut_ls]
    exact Memory.read_writeBytes_out _ _ _ _ (h z (List.mem_cons_self ..))

/-- What a core keeps when an engine writes registers and counts events on it. -/
structure KeepsStore (k k' : Core) : Prop where
  ls : k'.ls = k.ls
  trees : k'.trees = k.trees
  pc : k'.regs.pc = k.regs.pc

theorem KeepsStore.trans {k k' k'' : Core} (h : KeepsStore k k') (h' : KeepsStore k' k'') : KeepsStore k k'' :=
  ⟨h'.ls.trans h.ls, h'.trees.trans h.trees, h'.pc.trans h.pc⟩

theorem keepsStore_tiles (k : Core) (g : Nat → Nat × Nat) (l : List (Nat × Nat)) :
    KeepsStore k (l.foldl (fun k (z : Nat × Nat) => k.setT (g z.2).1 (g z.2).2 (BitVec.ofNat 32 z.1)) k) := by
  obtain ⟨x, h⟩ := foldl_setT_eq g l k
  rw [h]
  exact ⟨rfl, rfl, rfl⟩

theorem keepsStore_run (k : Core) (x : Option Run) : KeepsStore k { k with run := x } := ⟨rfl, rfl, rfl⟩

theorem keepsStore_setS (k : Core) (n : Nat) (v : Word) : KeepsStore k (k.setS n v) :=
  ⟨Core.setS_ls .., Core.setS_trees .., Core.setS_pc ..⟩

theorem evInvalid_core (s : State) (c n : Nat) :
    (s.evInvalid c n).core c =
      { s.core c with run := (s.core c).run.map fun r => { r with evInvalid := satNat 32 (r.evInvalid + n) } } := by
  rw [State.evInvalid, State.modRun, State.core_modCore]

/-- A chain writes its stores, tile registers, predicate and count, and counts events. -/
theorem chainApply_core (x : ChainRes) (c : Nat) (d : ChainDesc) :
    KeepsStore ((x.state.core c).puts x.stores) ((x.apply c d).core c) := by
  rw [ChainRes.apply, evInvalid_core, State.core_modCore]
  generalize (x.state.core c).puts x.stores = k
  dsimp only
  refine KeepsStore.trans ?_ (keepsStore_run _ _)
  refine KeepsStore.trans (keepsStore_tiles k (fun e => (d.tDst + e / 256, e % 256)) x.tiles.zipIdx) ?_
  generalize x.tiles.zipIdx.foldl _ k = k'
  cases x.pred with
  | none =>
    cases x.count with
    | none => exact ⟨rfl, rfl, rfl⟩
    | some n => exact keepsStore_setS k' _ _
  | some p =>
    cases x.count with
    | none => exact ⟨rfl, rfl, rfl⟩
    | some n => exact KeepsStore.trans (k' := k'.setP d.coutP p) ⟨rfl, rfl, rfl⟩ (keepsStore_setS (k'.setP d.coutP p) _ _)

theorem coreFrame_chainApply {c : Nat} {x : ChainRes} (h : CoreFrame s c x.state) (d : ChainDesc) : CoreFrame s c (x.apply c d) := by
  rw [ChainRes.apply]
  exact (h.modCore _).evInvalid _

/-- The free values of a chain. -/
theorem chainCalc_state (s : State) (c : Nat) (d : ChainDesc) (t : Option TreeSet) : FreesOnly s (chainCalc s c d t).state :=
  ((FreesOnly.refl s).frees _).frees _

/-! ### CHAIN -/

/-- The tree set that a chain takes, if any. -/
abbrev chainTile (k : Core) (d : ChainDesc) : Option TreeSet := if d.src = 2 then k.tree d.accTile else none

/-- A chain's descriptor, reads and writes pass their checks. -/
structure ChainRuns (s : State) (c : Nat) (r : Run) (d : ChainDesc) : Prop where
  good : d.bad = false
  live : d.src = 2 → tileOk r.express d.accTile = true ∧ ∃ t, (s.core c).tree d.accTile = some t ∧ t.poisoned = false
  reads : RangesClean (s.core c) r.express enVe (d.reads (s.core c))
  writes : ∀ x ∈ (chainCalc s c d (chainTile (s.core c) d)).stores, inPart r.express x.1 x.2.length = true

theorem chainRun_ok {c : Nat} {d : ChainDesc} (h : ChainRuns s c r d) :
    chainRun s c r d = .ok (chainCalc s c d (chainTile (s.core c) d)) := by
  have hw := engSpans_stores_ok (engine := enVe) h.writes
  by_cases hsrc : d.src = 2
  · obtain ⟨hto, t, ht, hp⟩ := h.live hsrc
    have htile : chainTile (s.core c) d = some t := (if_pos hsrc).trans ht
    rw [htile] at hw ⊢
    simp only [chainRun, h.good, hsrc, tileFor_ok hto ht hp, engRanges_ok h.reads, hw, if_true, Bool.false_eq_true, if_false, eff_ok_bind, pure_bind]
    rfl
  · have htile : chainTile (s.core c) d = none := if_neg hsrc
    rw [htile] at hw ⊢
    simp only [chainRun, h.good, hsrc, engRanges_ok h.reads, hw, Bool.false_eq_true, if_false, eff_ok_bind, pure_bind]
    rfl

section
variable (h : Ready s c.val r) (hi : f.imm = 0)
include h hi

/-- `CHAIN` whose descriptor passes its checks. -/
theorem does_chain (ho : f.ok false true false false false = true) {d : ChainDesc}
    (hd : descAt (s.core c.val) r f.a 128 enVe = .ok b) (hb : ChainDesc.parse b = d) (hr : ChainRuns s c.val r d)
    (htap : d.ruTap = false) :
    Does s (.chain c f) (.next (((chainCalc s c.val d (chainTile (s.core c.val) d)).apply c.val d).adv c.val)) := by
  have hx : exec (.chain c f) s = .next (chainInsn c f s) := rfl
  unfold chainInsn at hx
  refine does_of_ok h hx rfl (by simp [ho, hi]) ?_
  simp only [hd, hb, htap, chainRun_ok hr, Bool.false_eq_true, if_false, eff_ok_bind]
  rfl

/-- `CHAIN` that names an RU descriptor, or has a bad value. -/
theorem does_chain_bad (ho : f.ok false true false false false = true) {d : ChainDesc}
    (hd : descAt (s.core c.val) r f.a 128 enVe = .ok b) (hb : ChainDesc.parse b = d) (hbad : d.ruTap = true ∨ d.bad = true) :
    Does s (.chain c f) (.next (s.raise c.val xChainConfig enVe (f.word 0x50))) := by
  have hx : exec (.chain c f) s = .next (chainInsn c f s) := rfl
  unfold chainInsn at hx
  rw [← take_of_ne (addr := 0) c.val (show xChainConfig ≠ xMachineCheck by decide)]
  refine does_of_error h hx rfl (by simp [ho, hi]) ?_
  simp only [hd, hb, eff_ok_bind]
  by_cases htap : d.ruTap = true
  · rw [if_pos htap]
    rfl
  · rw [if_neg htap, chainRun, if_pos (hbad.resolve_left htap)]
    rfl

/-! ### Reductions -/

/-- What a reduction needs beside its stream passes its checks. -/
structure RuRuns (k : Core) (u : State) (r : Run) (g : RuDesc) (src : RuIn) (y : Option Rec) : Prop where
  reads : ruReads k r g src = .ok y
  writes : ∀ x ∈ (ruCalc k u r g src y).stores, inPart r.express x.1 x.2.length = true

omit h hi in
theorem ruRun_ok {c : Nat} {g : RuDesc} {src : RuIn} {y : Option Rec} (h : RuRuns (u.core c) u r g src y) :
    ruRun u c r g src = .ok (ruCalc (u.core c) u r g src y) := by
  simp only [ruRun, h.reads, engSpans_stores_ok h.writes, eff_ok_bind]
  rfl

/-- The stream that `CHAINRU` hands to the reduction (R188). -/
abbrev chainStream (d : ChainDesc) (g : RuDesc) (x : ChainRes) : RuIn :=
  { rows := d.rows, cols := d.cols, isInt := d.outElem.isInt, env := { x.env with transpose := false, u0 := g.uBase, v0 := g.vBase }
    vals := x.results.map fun v => if d.outMode = 1 ∧ v.2 = false then none else some v.1 }

theorem does_chainru (ho : f.ok false true true false false = true) {d : ChainDesc} {g : RuDesc} {x : ChainRes} {b' : Bytes} {y : Option Rec}
    (hd : descAt (s.core c.val) r f.a 128 enVe = .ok b) (hb : ChainDesc.parse b = d)
    (hd' : descAt (s.core c.val) r f.b 64 enRu = .ok b') (hb' : RuDesc.parse b' = g)
    (hr : ChainRuns s c.val r d) (hx : chainCalc s c.val d (chainTile (s.core c.val) d) = x) (hg : g.bad true = false)
    (hu : RuRuns (s.core c.val) x.state r g (chainStream d g x) y)
    (hs : (ruCalc (s.core c.val) x.state r g (chainStream d g x) y).sat = false ∨ r.chainLast = false) :
    Does s (.chainru c f) (.next (({ x with state := (ruCalc (s.core c.val) x.state r g (chainStream d g x) y).apply c.val }.apply c.val d).adv
      c.val)) := by
  have he : exec (.chainru c f) s = .next (chainruInsn c f s) := rfl
  unfold chainruInsn at he
  have hcore : x.state.core c.val = s.core c.val := by rw [← hx, (chainCalc_state ..).core_eq]
  have hv : (x.results.map fun v => if d.outMode = 1 ∧ (!v.2) = true then none else some v.1) =
      x.results.map fun v => if d.outMode = 1 ∧ v.2 = false then none else some v.1 := by
    simp only [Bool.not_eq_true']
  have hru := ruRun_ok (c := c.val) (by rw [hcore]; exact hu)
  rw [hcore] at hru
  have hsat : ((ruCalc (s.core c.val) x.state r g (chainStream d g x) y).sat && r.chainLast) = false := by
    rw [Bool.and_eq_false_iff]
    exact hs
  refine does_of_ok h he rfl (by simp [ho, hi]) ?_
  simp only [hd, hb, hd', hb', chainRun_ok hr, hx, hg, hv, hru, hsat, Bool.false_eq_true, if_false, eff_ok_bind]
  rfl

theorem does_chainru_bad (ho : f.ok false true true false false = true) {d : ChainDesc} {g : RuDesc} {b' : Bytes}
    (hd : descAt (s.core c.val) r f.a 128 enVe = .ok b) (hb : ChainDesc.parse b = d)
    (hd' : descAt (s.core c.val) r f.b 64 enRu = .ok b') (hb' : RuDesc.parse b' = g)
    (hr : ChainRuns s c.val r d) (hg : g.bad true = true) :
    Does s (.chainru c f) (.next (s.raise c.val xRuConfig enRu (f.word 0x51))) := by
  have he : exec (.chainru c f) s = .next (chainruInsn c f s) := rfl
  unfold chainruInsn at he
  rw [← take_of_ne (addr := 0) c.val (show xRuConfig ≠ xMachineCheck by decide)]
  refine does_of_error h he rfl (by simp [ho, hi]) ?_
  simp only [hd, hb, hd', hb', chainRun_ok hr, hg, if_true, eff_ok_bind]
  rfl

end

/-! ### RED -/

/-- The tree set that `RED` takes, if any. -/
abbrev redTile (k : Core) (g : RuDesc) : Option TreeSet := if g.src = 2 then k.tree g.accTile else none

theorem ruSource_ok {g : RuDesc} (hbad : g.bad false = false) (hsrc : g.src < 4)
    (hl : g.src = 2 → tileOk r.express g.accTile = true ∧ ∃ t, k.tree g.accTile = some t ∧ t.poisoned = false)
    (hc : g.src = 0 → RangesClean k r.express enRu (gridRanges g.inElem g.xAddr g.xStride g.rows g.cols)) :
    ruSource k r g = .ok (redTile k g) := by
  by_cases h2 : g.src = 2
  · obtain ⟨hto, t, ht, hp⟩ := hl h2
    have htile : redTile k g = some t := (if_pos h2).trans ht
    rw [htile]
    simp only [ruSource, h2, tileFor_ok hto ht hp, if_true, eff_ok_bind]
    rfl
  · have h3 : g.src ≠ 3 := by
      intro h3
      simp [RuDesc.bad, h3] at hbad
    have hr : engRanges k r.express enRu (if g.src = 1 then [] else gridRanges g.inElem g.xAddr g.xStride g.rows g.cols) = .ok () := by
      by_cases h1 : g.src = 1
      · rw [if_pos h1]
        rfl
      · rw [if_neg h1]
        exact engRanges_ok (hc (by omega))
    simp only [ruSource, redTile, if_neg h2, hr, eff_ok_bind]
    rfl

/-- A tap's stream apart, the state of a reduction's stream differs in free values alone. -/
theorem ruStream_state (s : State) (c : Nat) (g : RuDesc) (t : Option TreeSet) : FreesOnly s (ruStream s c g t).2.2 := by
  cases t with
  | none => exact .refl s
  | some t => exact (FreesOnly.refl s).frees _

/-- The extreme of no element is a free value (R191). -/
theorem ruExtreme_state (g : RuDesc) (x : RuIn) (h : FreesOnly s u) : FreesOnly s (ruExtreme u g x).state := by
  rw [ruExtreme]
  dsimp only
  suffices ∀ (l : List (List (Option Nat))) (acc : Bytes × State), FreesOnly s acc.2 →
      FreesOnly s (l.foldl (fun (acc : Bytes × State) l =>
        match extreme x.isInt (g.op == 1) l with
        | some v => (acc.1 ++ natLe 4 v, acc.2)
        | none => (acc.1 ++ natLe 4 acc.2.free.1.toNat, acc.2.free.2)) acc).2 from this _ _ h
  intro l
  induction l with
  | nil => exact fun acc h => h
  | cons z l ih =>
    intro acc h
    rw [List.foldl_cons]
    apply ih
    split
    · exact h
    · exact h.frees 1

theorem ruSum_state (u : State) (r : Run) (g : RuDesc) (x : RuIn) (y : Option Rec) : (ruSum u r g x y).state = u := by
  simp only [ruSum]
  split
  · rfl
  · split <;> rfl

theorem ruCalc_state (r : Run) (g : RuDesc) (x : RuIn) (y : Option Rec) (h : FreesOnly s u) : FreesOnly s (ruCalc k u r g x y).state := by
  rw [ruCalc]
  split
  · rw [ruSum_state]
    exact h
  · split
    · exact h
    · exact ruExtreme_state g x h

theorem RuDesc.src_lt (b : Bytes) : (RuDesc.parse b).src < 4 := Nat.mod_lt _ (by decide)

section
variable (h : Ready s c.val r) (hi : f.imm = 0) (ho : f.ok false true false false false = true)
include h hi ho

theorem does_red {g : RuDesc} {src : RuIn × Nat × State} {y : Option Rec} (hd : descAt (s.core c.val) r f.a 64 enRu = .ok b)
    (hb : RuDesc.parse b = g) (hg : g.bad false = false) (hsrc : ruSource (s.core c.val) r g = .ok (redTile (s.core c.val) g))
    (hx : ruStream s c.val g (redTile (s.core c.val) g) = src) (hu : RuRuns (s.core c.val) src.2.2 r g src.1 y)
    (hs : (ruCalc (s.core c.val) src.2.2 r g src.1 y).sat = false ∨ r.chainLast = false) :
    Does s (.red c f) (.next ((((ruCalc (s.core c.val) src.2.2 r g src.1 y).apply c.val).evInvalid c.val src.2.1).adv c.val)) := by
  have he : exec (.red c f) s = .next (redInsn c f s) := rfl
  unfold redInsn at he
  have hcore : src.2.2.core c.val = s.core c.val := by rw [← hx, (ruStream_state ..).core_eq]
  have hru := ruRun_ok (c := c.val) (by rw [hcore]; exact hu)
  rw [hcore] at hru
  have hsat : ((ruCalc (s.core c.val) src.2.2 r g src.1 y).sat && r.chainLast) = false := by
    rw [Bool.and_eq_false_iff]
    exact hs
  refine does_of_ok h he rfl (by simp [ho, hi]) ?_
  simp only [hd, hb, hg, hsrc, hx, hru, hsat, Bool.false_eq_true, if_false, eff_ok_bind]
  rfl

theorem does_red_bad {g : RuDesc} (hd : descAt (s.core c.val) r f.a 64 enRu = .ok b) (hb : RuDesc.parse b = g) (hg : g.bad false = true) :
    Does s (.red c f) (.next (s.raise c.val xRuConfig enRu (f.word 0x5C))) := by
  have he : exec (.red c f) s = .next (redInsn c f s) := rfl
  unfold redInsn at he
  rw [← take_of_ne (addr := 0) c.val (show xRuConfig ≠ xMachineCheck by decide)]
  refine does_of_error h he rfl (by simp [ho, hi]) ?_
  simp only [hd, hb, hg, if_true, eff_ok_bind]
  rfl

/-! ### ROWOP -/

theorem does_rowop_bad {d : RowDesc} (hd : descAt (s.core c.val) r f.a 64 enRwe = .ok b) (hb : RowDesc.parse b = d) (hbad : d.bad = true) :
    Does s (.rowop c f) (.next (s.raise c.val xRowConfig enRwe (f.word 0x5E))) := by
  have he : exec (.rowop c f) s = .next (rowopInsn c f s) := rfl
  unfold rowopInsn at he
  rw [← take_of_ne (addr := 0) c.val (show xRowConfig ≠ xMachineCheck by decide)]
  refine does_of_error h he rfl (by simp [ho, hi]) ?_
  simp only [hd, hb, hbad, if_true, eff_ok_bind]
  rfl

end

/-- A row operation's descriptor, ranges and statistics pass their checks. -/
structure RowRuns (k : Core) (r : Run) (d : RowDesc) : Prop where
  good : d.bad = false
  writes : d.writesRows = true → ∀ x ∈ gridRanges d.outElem d.outAddr d.outStride d.rows d.len, inPart r.express x.1 x.2 = true
  stats : d.statLs = true → inPart r.express d.statAddr (8 * d.rows) = true
  statsRead : d.statLs = true → d.readsStat = true → engRead k d.statAddr (8 * d.rows) enRwe = .ok ()
  side : d.statLs = false → inSide r.express d.statIdx d.rows = true ∧ (d.readsStat = true → sideRead k d.statIdx d.rows enRwe = .ok ())
  reads : RangesClean k r.express enRwe d.reads

/-- A row operation that passes its checks goes on to its own effect. -/
theorem does_rowop (h : Ready s c.val r) (hi : f.imm = 0) (ho : f.ok false true false false false = true) {d : RowDesc} {o : State}
    (hd : descAt (s.core c.val) r f.a 64 enRwe = .ok b) (hb : RowDesc.parse b = d) (hr : RowRuns (s.core c.val) r d)
    (he : (if d.sums then do
        let rec? ← rowRec (s.core c.val) r d
        let q := rowSum s c.val d rec?
        engSpans r.express enRwe (if q.2 = 0 then [] else [(d.auxAddr, q.2)])
        pure (q.1.adv c.val)
      else if d.op = 3 then pure ((rowMax s c.val d).adv c.val)
      else pure ((rowRows s c.val d).adv c.val) : Eff) = .ok o) : Does s (.rowop c f) (.next o) := by
  have hx : exec (.rowop c f) s = .next (rowopInsn c f s) := rfl
  unfold rowopInsn at hx
  have hw : engSpans r.express enRwe (if d.writesRows = true then gridRanges d.outElem d.outAddr d.outStride d.rows d.len else []) = .ok () := by
    split
    next hw => exact engSpans_ok (hr.writes hw)
    next => rfl
  refine does_of_ok h hx rfl (by simp [ho, hi]) ?_
  simp only [hd, hb, hr.good, hw, engRanges_ok hr.reads, Bool.false_eq_true, if_false, eff_ok_bind]
  cases hst : d.statLs with
  | true =>
    have hs : engSpans r.express enRwe [(d.statAddr, 8 * d.rows)] = .ok () :=
      engSpans_ok fun x hx => List.mem_singleton.1 hx ▸ hr.stats hst
    cases hrd : d.readsStat with
    | true => simpa only [hs, hr.statsRead hst hrd, if_true, eff_ok_bind] using he
    | false => simpa only [hs, Bool.false_eq_true, if_true, if_false, eff_ok_bind] using he
  | false =>
    obtain ⟨hs, hsr⟩ := hr.side hst
    cases hrd : d.readsStat with
    | true => simpa only [hs, hsr hrd, Bool.not_true, Bool.false_eq_true, if_true, if_false, eff_ok_bind] using he
    | false => simpa only [hs, Bool.not_true, Bool.false_eq_true, if_false, eff_ok_bind] using he

/-- What `CHAIN` leaves: its writes apart, everything but its core and the counter of free values stays. -/
theorem chain_leaves {d : ChainDesc} {x : ChainRes} (hx : FreesOnly s x.state) :
    let u := (x.apply c.val d).adv c.val
    u = { s with cores := u.cores, freeCtr := u.freeCtr } ∧ (∀ e, e ≠ c.val → u.core e = s.core e) ∧
      (u.core c.val).trees = (s.core c.val).trees ∧ (u.core c.val).regs.pc = (s.core c.val).regs.pc + 8 ∧
      ∀ y, (∀ z ∈ x.stores, y < z.1 ∨ z.1 + z.2.length ≤ y) → (u.core c.val).ls.read y = (s.core c.val).ls.read y := by
  intro u
  obtain ⟨hrest, hothers⟩ : CoreFrame s c.val u := (coreFrame_chainApply (.of_freesOnly hx) d).adv
  have hcore : u.core c.val = ((x.apply c.val d).core c.val).next := State.core_modCore ..
  obtain ⟨hls, htrees, hpc⟩ := chainApply_core x c.val d
  rw [hx.core_eq] at hls htrees hpc
  refine ⟨hrest, hothers, ?_, ?_, fun y hy => ?_⟩
  · rw [hcore]
    exact htrees.trans (puts_trees ..)
  · rw [hcore]
    exact congrArg (· + 8) (hpc.trans (by rw [puts_regs]))
  · rw [hcore]
    exact (congrArg (fun m : Memory => m.read y) hls).trans (read_puts_out _ _ hy)

/-- What `RED` leaves. -/
theorem red_leaves {q : RuRes} {n : Nat} (hq : FreesOnly s q.state) :
    let u := ((q.apply c.val).evInvalid c.val n).adv c.val
    u = { s with cores := u.cores, freeCtr := u.freeCtr } ∧ (∀ e, e ≠ c.val → u.core e = s.core e) ∧
      (u.core c.val).trees = (s.core c.val).trees ∧
      (u.core c.val).regs = { (s.core c.val).regs with pc := (s.core c.val).regs.pc + 8 } ∧
      ∀ y, (∀ z ∈ q.stores, y < z.1 ∨ z.1 + z.2.length ≤ y) → (u.core c.val).ls.read y = (s.core c.val).ls.read y := by
  intro u
  obtain ⟨hrest, hothers⟩ : CoreFrame s c.val u := ((((CoreFrame.of_freesOnly hq).modCore _).evInvalid _).evInvalid n).adv
  have hcore : u.core c.val = (((q.apply c.val).evInvalid c.val n).core c.val).next := State.core_modCore ..
  rw [evInvalid_core, RuRes.apply, evInvalid_core, State.core_modCore, hq.core_eq] at hcore
  refine ⟨hrest, hothers, ?_, ?_, fun y hy => ?_⟩
  · rw [hcore]
    exact puts_trees ..
  · rw [hcore]
    exact congrArg (fun x : Regs => { x with pc := x.pc + 8 }) (puts_regs ..)
  · rw [hcore]
    exact read_puts_out _ _ hy

/-- Settles O19: each instruction by the lemma of its outcome, and `chain_leaves` and `red_leaves`. -/
theorem chainAndReduction : Obligations.ChainAndReduction := by
  unfold Obligations.ChainAndReduction
  intro c f s r h hi k a b clean fits live d t x runs
  have hdesc {n e : Nat} (ha : a % 32 = 0) (hc : clean e [(a, n)]) : descAt k r f.a n e = .ok (k.ls.readBytes a n) := descAt_ok ha hc
  have hruns (hr : runs) : ChainRuns s c.val r d := ⟨hr.2.2.1, hr.2.2.2.1, hr.2.2.2.2.1, hr.2.2.2.2.2⟩
  refine ⟨fun ho => ⟨fun hr htap hf => ?_, fun ha hc hbad => ?_⟩, fun ho hr hb hc => ?_, fun ho ha hc => ?_, fun ho ha hc => ?_⟩
  · exact ⟨_, does_chain h hi ho (hdesc hr.1 hr.2.1) rfl (hruns hr) htap hf, rfl, chain_leaves (chainCalc_state ..)⟩
  · exact does_chain_bad h hi ho (hdesc ha hc) rfl hbad
  · intro g src
    have hd' : descAt k r f.b 64 enRu = .ok (k.ls.readBytes b 64) := descAt_ok hb hc
    refine ⟨fun hg y hy hw hs => ?_, fun hg => ?_⟩
    · exact does_chainru h hi ho (hdesc hr.1 hr.2.1) rfl hd' rfl (hruns hr) rfl hg ⟨hy, hw⟩ hs
    · exact does_chainru_bad h hi ho (hdesc hr.1 hr.2.1) rfl hd' rfl (hruns hr) hg
  · intro g src
    refine ⟨fun hg hl hcl y hy hw hs hf => ?_, fun hg => ?_⟩
    · have hsrc : ruSource k r g = .ok (redTile k g) := ruSource_ok hg (RuDesc.src_lt _) hl hcl
      exact ⟨_, does_red h hi ho (hdesc ha hc) rfl hg hsrc rfl ⟨hy, hw⟩ hs hf, rfl, red_leaves (ruCalc_state _ _ _ _ (ruStream_state ..))⟩
    · exact does_red_bad h hi ho (hdesc ha hc) rfl hg
  · intro d
    refine ⟨fun hbad => does_rowop_bad h hi ho (hdesc ha hc) rfl hbad, fun hbad hw hst hstr hside hrd => ?_⟩
    have hrow : RowRuns k r d := ⟨hbad, hw, hst, hstr, hside, hrd⟩
    refine ⟨fun hsum y hy hq => ?_, fun hsum hop => ?_, fun hsum hop => ?_⟩
    · have hspan : engSpans r.express enRwe
          (if (rowSum s c.val d y).2 = 0 then [] else [(d.auxAddr, (rowSum s c.val d y).2)]) = .ok () := by
        split
        next => rfl
        next hne => exact engSpans_ok fun x hx => List.mem_singleton.1 hx ▸ hq.resolve_left hne
      refine does_rowop h hi ho (hdesc ha hc) rfl hrow ?_
      rw [if_pos hsum, hy, eff_ok_bind]
      exact congrArg (fun z : Except Exn Unit => z >>= fun _ => pure ((rowSum s c.val d y).1.adv c.val)) hspan
    · refine does_rowop h hi ho (hdesc ha hc) rfl hrow ?_
      rw [hsum, if_neg Bool.false_ne_true, if_pos hop]
      rfl
    · refine does_rowop h hi ho (hdesc ha hc) rfl hrow ?_
      rw [hsum, if_neg Bool.false_ne_true, if_neg hop]
      rfl

end Sys2Proof.Machine
end


section
/-! PROOFS. `VPERM` and `VSHUF`, element by element. -/

namespace Sys2Proof.Machine

variable {s : State} {c : CoreIx} {r : Run} {f : XFmt} {k : Core}

/-! ### Tile registers -/

/-- One element of a tile register is written (R171). -/
theorem telem_setT (k : Core) {n e m e' : Nat} (v : BitVec 32) (he : e < 256) (he' : e' < 256) :
    (k.setT n e v).telem m e' = if m = n ∧ e' = e then v else k.telem m e' := by
  rw [Core.telem, Core.setT, Tab.get_put_eq]
  have hkey : 256 * m + e' = 256 * n + e ↔ m = n ∧ e' = e := by omega
  simp only [hkey]
  rfl

theorem telem_foldl_setT (n m e : Nat) (he : e < 256) (l : List (BitVec 32)) (j : Nat) (hl : j + l.length ≤ 256) (k : Core) :
    ((l.zipIdx j).foldl (fun k (v, e) => k.setT n e v) k).telem m e =
      if m = n ∧ j ≤ e ∧ e < j + l.length then l.getD (e - j) 0 else k.telem m e := by
  induction l generalizing j k with
  | nil => simp
  | cons v l ih =>
    rw [List.length_cons] at hl
    rw [List.zipIdx_cons, List.foldl_cons, ih _ (by omega), telem_setT _ _ (by omega) he, List.length_cons]
    by_cases hm : m = n
    · by_cases hj : e = j
      · subst hj
        simp [hm]
      · by_cases hlt : j + 1 ≤ e ∧ e < j + 1 + l.length
        · have h1 : e - j = e - (j + 1) + 1 := by omega
          rw [if_pos ⟨hm, hlt⟩, if_pos ⟨hm, by omega, by omega⟩, h1, List.getD_cons_succ]
        · rw [if_neg fun h => hlt h.2, if_neg fun h => hj h.2, if_neg fun h => by omega]
    · rw [if_neg fun h => hm h.1, if_neg fun h => hm h.1, if_neg fun h => hm h.1]

/-- A tile register that has been written whole. -/
theorem telem_putTile (k : Core) {n m e : Nat} {l : List (BitVec 32)} (hl : l.length = 256) (he : e < 256) :
    (k.putTile n l).telem m e = if m = n then l.getD e 0 else k.telem m e := by
  rw [Core.putTile, telem_foldl_setT n m e he l 0 (by omega)]
  simp [hl, he]

/-- A write of a tile register changes no other part of the core. -/
theorem putTile_eq (k : Core) (n : Nat) (l : List (BitVec 32)) : ∃ x, k.putTile n l = { k with regs := { k.regs with t := x } } := by
  rw [Core.putTile]
  generalize l.zipIdx = l
  induction l generalizing k with
  | nil => exact ⟨k.regs.t, rfl⟩
  | cons z l ih =>
    obtain ⟨x, hx⟩ := ih (k.setT n z.2 z.1)
    exact ⟨x, hx⟩

theorem getD_tile (k : Core) {n e : Nat} (he : e < 256) : (k.tile n).getD e 0 = k.telem n e := by
  simp [Core.tile, he]

theorem length_tile (k : Core) (n : Nat) : (k.tile n).length = 256 := by simp [Core.tile]

/-- Element `e` of a list made of an element each. -/
theorem getD_map_range {α : Type} (g : Nat → α) (d : α) {n e : Nat} (he : e < n) : ((List.range n).map g).getD e d = g e := by
  simp [he]

/-! ### VPERM and VSHUF -/

/-- Bits [30:9] of an index word. -/
theorem fld_index (n : Nat) : fld n 9 22 = n / 512 % 2 ^ 22 := fld_eq_div n 9 22

/-- The element of `VPERM` that an index word names (R185). -/
theorem permTile_getD (k : Core) {a b i e : Nat} (he : e < 256) :
    (permTile (k.tile a) (k.tile b) (k.tile i)).1.getD e 0 =
      let w := k.telem i e
      if w.getLsbD 31 then 0
      else if w.toNat / 512 % 2 ^ 22 ≠ 0 then 0
      else if w.getLsbD 8 then k.telem b (w.toNat % 256) else k.telem a (w.toNat % 256) := by
  have hbit : ∀ (w : BitVec 32) (n : Nat), bitAt w.toNat n = w.getLsbD n := by
    intro w n
    rw [bitAt, BitVec.getLsbD, Nat.testBit, Nat.one_and_eq_mod_two]
    simp [beq_eq_decide]
  have hlt : (k.telem i e).toNat % 256 < 256 := Nat.mod_lt _ (by decide)
  simp only [permTile, Core.tile, List.map_map]
  rw [getD_map_range _ _ he]
  simp only [Function.comp_apply, hbit, fld_index, getD_map_range _ _ hlt, decide_eq_true_eq]
  by_cases h1 : (k.telem i e).getLsbD 31 = true
  · simp only [h1, true_or, if_true]
  · simp only [h1, false_or, if_false, Bool.false_eq_true]

/-- The index words of `VPERM` that count (R185). -/
theorem permTile_count (k : Core) (a b i : Nat) :
    (permTile (k.tile a) (k.tile b) (k.tile i)).2 =
      (List.range 256).countP fun e => decide ((k.telem i e).toNat / 512 % 2 ^ 22 ≠ 0) := by
  simp only [permTile, ← List.countP_eq_length_filter, Core.tile, List.countP_map, Function.comp_def, fld_index]

/-- Counting index words of a core that runs an item. -/
theorem evPermute_adv_setCore {c : Nat} {k : Core} (hk : k.run = some r) (n : Nat) :
    ((s.setCore c k).evPermute c n).adv c =
      s.setCore c { k.next with run := some { r with evPermute := min (r.evPermute + n) (2 ^ 32 - 1) } } := by
  simp only [State.adv, State.evPermute, State.modRun, State.modCore, State.core_setCore, setCore_setCore, hk, Option.map_some, satNat]
  rfl

theorem run_putTile (k : Core) (n : Nat) (l : List (BitVec 32)) : (k.putTile n l).run = k.run := by
  obtain ⟨x, h⟩ := putTile_eq k n l
  rw [h]

theorem does_vperm (h : Ready s c.val r) (ho : f.ok true true true true false = true) (hi : f.imm = 0) {k : Core}
    (hk : s.core c.val = k) {q : List (BitVec 32) × Nat} (hq : permTile (k.tile f.a.toNat) (k.tile f.b.toNat) (k.tile f.c.toNat) = q) :
    Does s (.vperm c f) (.next (s.setCore c.val
      { (k.putTile f.d.toNat q.1).next with run := some { r with evPermute := min (r.evPermute + q.2) (2 ^ 32 - 1) } })) := by
  have hrun : (k.putTile f.d.toNat q.1).run = some r := by
    rw [run_putTile, ← hk]
    exact run_of_ready h
  refine does_of_ok h rfl rfl (by simp [ho, hi]) ?_
  simp only [hk, hq, State.modCore, evPermute_adv_setCore hrun]

/-- The elements of a shuffle (Table 06-5). -/
def shufTile (k : Core) (f : XFmt) : List (BitVec 32) :=
  (List.range 256).map fun e =>
    match shufSrc f.sub.toNat f.imm.toNat (e / 16) (e % 16) with
    | some (useB, r, col) => (if useB then k.tile f.b.toNat else k.tile f.a.toNat).getD (16 * r + col) 0
    | none => 0

theorem does_vshuf (h : Ready s c.val r) (ho : f.ok true true true false true = true) (hi : f.imm.toNat < 16) (hs : f.sub.toNat < 10) :
    Does s (.vshuf c f) (.next (s.onCore c.val fun k => (k.putTile f.d.toNat (shufTile k f)).next)) := by
  refine does_of_ok h rfl rfl (by simp [ho, hi]) ?_
  rw [if_neg (by omega)]
  exact congrArg Except.ok (modCore_modCore s c.val (fun k => k.putTile f.d.toNat (shufTile (s.core c.val) f)) Core.next)

theorem does_vshuf_reserved (h : Ready s c.val r) (ho : f.ok true true true false true = true) (hi : f.imm.toNat < 16) (hs : 10 ≤ f.sub.toNat) :
    Does s (.vshuf c f) (.next (s.raise c.val xChainConfig enVe (f.word 0x53))) := by
  rw [← take_of_ne (addr := 0) c.val (show xChainConfig ≠ xMachineCheck by decide)]
  refine does_of_error h rfl rfl (by simp [ho, hi]) ?_
  rw [if_pos hs]
  rfl

/-- One element of a shuffle: that of the register, row and column that the pattern names. -/
theorem shufTile_getD (k : Core) {row col : Nat} (hr : row < 16) (hc : col < 16) {useB : Bool} {r' c' : Nat}
    (hs : shufSrc f.sub.toNat f.imm.toNat row col = some (useB, r', c')) (hr' : r' < 16) (hc' : c' < 16) :
    (shufTile k f).getD (16 * row + col) 0 = if useB then k.telem f.b.toNat (16 * r' + c') else k.telem f.a.toNat (16 * r' + c') := by
  have hdiv : (16 * row + col) / 16 = row := by omega
  have hmod : (16 * row + col) % 16 = col := by omega
  rw [shufTile, getD_map_range _ _ (by omega), hdiv, hmod, hs]
  cases useB
  · exact getD_tile _ (by omega)
  · exact getD_tile _ (by omega)

/-- Every pattern of Table 06-5. -/
theorem shufTile_pattern (k : Core) {row col : Nat} (hr : row < 16) (hc : col < 16) (hi : f.imm.toNat < 16) (hs : f.sub.toNat < 10) :
    let a (r c : Nat) := k.telem f.a.toNat (16 * r + c)
    let b (r c : Nat) := k.telem f.b.toNat (16 * r + c)
    let n := f.imm.toNat
    (shufTile k f).getD (16 * row + col) 0 =
      match f.sub.toNat with
      | 0 => a col row
      | 1 => if col % 2 = 0 then a row (col / 2) else b row (col / 2)
      | 2 => if col % 2 = 0 then a row (8 + col / 2) else b row (8 + col / 2)
      | 3 => if col < 8 then a row (2 * col) else b row (2 * col - 16)
      | 4 => if col < 8 then a row (2 * col + 1) else b row (2 * col - 15)
      | 5 => a ((row + 16 - n) % 16) col
      | 6 => a row ((col + 16 - n) % 16)
      | 7 => a n col
      | 8 => a row n
      | _ => a row (15 - col) := by
  intro a b n
  have hsrc : ∀ {useB r' c'}, shufSrc f.sub.toNat n row col = some (useB, r', c') → r' < 16 → c' < 16 →
      (shufTile k f).getD (16 * row + col) 0 = if useB then b r' c' else a r' c' := fun hs => shufTile_getD k hr hc hs
  have heven {x y : BitVec 32} : (if (col % 2 == 1) = true then y else x) = if col % 2 = 0 then x else y := by
    obtain h0 | h1 := Nat.mod_two_eq_zero_or_one col
    · simp [h0]
    · simp [h1]
  generalize f.sub.toNat = p at hs hsrc ⊢
  interval_cases p
  · exact hsrc rfl hc hr
  · exact (hsrc rfl hr (by omega)).trans heven
  · exact (hsrc rfl hr (by omega)).trans heven
  · by_cases h8 : col < 8
    · rw [hsrc (congrArg some (if_pos h8)) hr (by omega)]
      simp [h8, a]
    · rw [hsrc (congrArg some (if_neg h8)) hr (by omega)]
      simp [h8, b]
  · by_cases h8 : col < 8
    · rw [hsrc (congrArg some (if_pos h8)) hr (by omega)]
      simp [h8, a]
    · rw [hsrc (congrArg some (if_neg h8)) hr (by omega)]
      simp [h8, b]
  · exact hsrc rfl (Nat.mod_lt _ (by decide)) hc
  · exact hsrc rfl hr (Nat.mod_lt _ (by decide))
  · exact hsrc rfl hi hc
  · exact hsrc rfl hr hi
  · exact hsrc rfl hr (by omega)

/-- What a core keeps when one of its tile registers is written and the next instruction follows. -/
theorem putTile_next (k : Core) (n : Nat) (l : List (BitVec 32)) :
    (k.putTile n l).next.ls = k.ls ∧ (k.putTile n l).next.regs.s = k.regs.s ∧ (k.putTile n l).next.regs.pc = k.regs.pc + 8 ∧
      (k.putTile n l).next.trees = k.trees ∧ (k.putTile n l).next.run = k.run := by
  obtain ⟨x, h⟩ := putTile_eq k n l
  rw [h]
  exact ⟨rfl, rfl, rfl, rfl, rfl⟩

/-- The tile registers of a core when the next instruction follows on a write of one of them. -/
theorem telem_putTile_next (k : Core) {n m e : Nat} {l : List (BitVec 32)} (hl : l.length = 256) (he : e < 256) :
    (k.putTile n l).next.telem m e = if m = n then l.getD e 0 else k.telem m e := telem_putTile k hl he

theorem telem_with_run (k : Core) (x : Option Run) (m e : Nat) : Core.telem { k with run := x } m e = k.telem m e := rfl

/-- Settles O20: the written register element by element, and the parts of the core that it leaves. -/
theorem permuteAndShuffle : Obligations.PermuteAndShuffle := by
  unfold Obligations.PermuteAndShuffle
  refine ⟨fun c f s r h ho hi hf => ?_, fun c f s r h ho hi => ⟨fun hs hf => ?_, fun hs => does_vshuf_reserved h ho hi hs⟩⟩
  · have hd := does_vperm h ho hi rfl rfl hf
    rw [permTile_count] at hd
    refine ⟨_, hd, rfl, ?_⟩
    rw [State.core_setCore]
    generalize hq : (permTile ((s.core c.val).tile f.a.toNat) ((s.core c.val).tile f.b.toNat) ((s.core c.val).tile f.c.toNat)).1 = q
    have hlen : q.length = 256 := by simp [← hq, permTile, length_tile]
    have helem {n e : Nat} (he : e < 256) : ((s.core c.val).putTile f.d.toNat q).next.telem n e =
        if n = f.d.toNat then q.getD e 0 else (s.core c.val).telem n e := telem_putTile_next _ hlen he
    obtain ⟨hls, hs, hpc, htrees, -⟩ := putTile_next (s.core c.val) f.d.toNat q
    generalize ((s.core c.val).putTile f.d.toNat q).next = K at hls hs hpc htrees helem ⊢
    refine ⟨hls, hs, hpc, htrees, fun n e hn he => ?_, rfl⟩
    rw [telem_with_run, helem he, ← hq, permTile_getD _ he]
  · refine ⟨_, does_vshuf h ho hi hs hf, rfl, ?_⟩
    have hlen : (shufTile (s.core c.val) f).length = 256 := by simp [shufTile]
    rw [State.core_setCore]
    obtain ⟨hls, -, hpc, -, hrun⟩ := putTile_next (s.core c.val) f.d.toNat (shufTile (s.core c.val) f)
    refine ⟨hls, hrun, hpc, fun m e hm he hne => ?_, fun row col hr hc => ?_⟩
    · rw [telem_putTile_next _ hlen he, if_neg hne]
    · rw [telem_putTile_next _ hlen (by omega), if_pos rfl, shufTile_pattern _ hr hc hi hs] <;> rfl

end Sys2Proof.Machine
end


section
/-! PROOFS. `VPACK` and `VUNPACK`, and the moves of tile registers, predicates and row statistics. -/

namespace Sys2Proof.Machine

variable {s : State} {c : CoreIx} {r : Run} {f : XFmt} {k : Core}

/-! ### Results that do not depend on the count of invalid operations -/

/-- The value of a counted operation is the same whatever has been counted before. -/
def Ar.Steady {α : Type} (x : Ar α) : Prop := ∀ n, (x.run n).1 = (x.run 0).1

theorem Ar.Steady.pure {α : Type} (a : α) : Ar.Steady (pure a) := fun _ => rfl

theorem Ar.Steady.bind {α β : Type} {x : Ar α} {g : α → Ar β} (hx : x.Steady) (hg : ∀ a, (g a).Steady) : (x >>= g).Steady := by
  intro n
  show ((g (x.run n).1).run (x.run n).2).1 = ((g (x.run 0).1).run (x.run 0).2).1
  rw [hx n, hg _ (x.run n).2, hg _ (x.run 0).2]

theorem narrowTo_steady (g : Fmt) (rnd : Rnd) (ieee : Bool) (v : FV) : (narrowTo g rnd ieee v).Steady := by
  cases v with
  | inf b =>
    by_cases hg : g.hasInf = true
    · rw [narrowTo, if_pos hg]
      exact .pure _
    · rw [narrowTo, if_neg hg]
      exact fun _ => rfl
  | _ => exact .pure _

theorem narrow_steady (e : Elem) (rnd : Rnd) (ieee : Bool) (v : FV) : (e.narrow rnd ieee v).Steady := by
  cases e with
  | fl g =>
    by_cases hg : g = fp32
    · rw [Elem.narrow, if_pos hg]
      exact .pure _
    · rw [Elem.narrow, if_neg hg]
      exact .bind (narrowTo_steady g rnd ieee v) fun _ => .pure _
  | int w => exact .bind (fun _ => rfl) fun _ => .pure _

/-- The values of steady operations carried out one after another. -/
theorem mapM_steady {α β : Type} {g : α → Ar β} (hg : ∀ a, (g a).Steady) (l : List α) (n : Nat) :
    ((l.mapM g).run n).1 = l.map fun a => ((g a).run 0).1 := by
  induction l generalizing n with
  | nil => rfl
  | cons a l ih =>
    rw [List.mapM_cons]
    show ((g a).run n).1 :: ((l.mapM g).run ((g a).run n).2).1 = _
    rw [ih, hg a n]
    rfl

/-! ### `VPACK` -/

/-- One half of a packed element (R187), with `w` the second register of the seed. -/
def packHalf (k : Core) (f : XFmt) (w row col : Nat) : Ar Nat :=
  let x := if col < 16 then (k.tile f.a.toNat).getD (16 * row + col) 0 else (k.tile f.b.toNat).getD (16 * row + col - 16) 0
  let rnd := if bitAt f.sub.toNat 1 then
    Rnd.sr (drawNarrow (k.sreg f.c.toNat).toNat (fld w 0 32) (fld w 32 32 + row) (f.imm.toNat + col)) else .rne
  (packElem f.sub.toNat).narrow rnd false (fp32.dec x.toNat)

/-- One packed element. -/
def packPair (k : Core) (f : XFmt) (w e : Nat) : Ar (BitVec 32) := do
  let lo ← packHalf k f w (e / 16) (2 * (e % 16))
  let hi ← packHalf k f w (e / 16) (2 * (e % 16) + 1)
  pure (BitVec.ofNat 32 (lo + 65536 * hi))

theorem packHalf_steady (k : Core) (f : XFmt) (w row col : Nat) : (packHalf k f w row col).Steady :=
  narrow_steady _ _ _ _

theorem packPair_steady (k : Core) (f : XFmt) (w e : Nat) : (packPair k f w e).Steady :=
  .bind (packHalf_steady k f w _ _) fun _ => .bind (packHalf_steady k f w _ _) fun _ => .pure _

theorem packPair_val (k : Core) (f : XFmt) (w e : Nat) : ((packPair k f w e).run 0).1 =
    BitVec.ofNat 32 (((packHalf k f w (e / 16) (2 * (e % 16))).run 0).1 + 65536 * ((packHalf k f w (e / 16) (2 * (e % 16) + 1)).run 0).1) := by
  rw [← packHalf_steady k f w (e / 16) (2 * (e % 16) + 1) ((packHalf k f w (e / 16) (2 * (e % 16))).run 0).2]
  rfl

/-- The seed's second register (R187): a free value of `S32`. -/
def packSeed (s : State) (k : Core) (f : XFmt) : Nat :=
  if f.c.toNat = 31 then ((s.frees 1).1.headD 0).toNat else (k.sreg (f.c.toNat + 1)).toNat

theorem does_vpack (h : Ready s c.val r) (ho : f.ok true true true true true = true) (hs : f.sub.toNat < 4) (hi : f.imm.toNat < 2 ^ 22)
    (hk : s.core c.val = k) {fr : List Word × State} (hfr : s.frees (if f.c.toNat = 31 then 1 else 0) = fr) {w : Nat}
    (hw : (if f.c.toNat = 31 then (fr.1.headD 0).toNat else (k.sreg (f.c.toNat + 1)).toNat) = w) {q : List (BitVec 32) × Nat}
    (hq : ((List.range 256).mapM (packPair k f w)).run 0 = q) :
    Does s (.vpack c f) (.next (fr.2.setCore c.val
      { (k.putTile f.d.toNat q.1).next with run := some { r with evInvalid := min (r.evInvalid + q.2) (2 ^ 32 - 1) } })) := by
  have hrun : (k.putTile f.d.toNat q.1).run = some r := by
    rw [run_putTile, ← hk]
    exact run_of_ready h
  have hcore : fr.2.core c.val = k := by
    rw [← hfr, frees_state]
    exact hk
  have hx : exec (.vpack c f) s = .next (vpack c f s) := rfl
  unfold vpack at hx
  refine does_of_ok h hx rfl (by simpa [ho, hs] using hi) ?_
  unfold packPair packHalf at hq
  simp only [hk, hfr, hw, hq]
  rw [State.modCore, hcore, evInvalid_adv_setCore hrun]

theorem bitAt_one (n : Nat) (hn : n < 4) : bitAt n 1 = decide (2 ≤ n) := by
  interval_cases n <;> rfl

/-- A packed half in the terms of R187. -/
theorem packHalf_eq (k : Core) {f : XFmt} (w : Nat) {row col : Nat} (hs : f.sub.toNat < 4) (hr : row < 16) (hc : col < 32) :
    packHalf k f w row col =
      (packElem f.sub.toNat).narrow (if f.sub.toNat < 2 then .rne
        else .sr (drawNarrow (k.sreg f.c.toNat).toNat (w % 2 ^ 32) (w / 2 ^ 32 % 2 ^ 32 + row) (f.imm.toNat + col))) false
        (fp32.dec (if col < 16 then k.telem f.a.toNat (16 * row + col) else k.telem f.b.toNat (16 * row + col - 16)).toNat) := by
  have hsrc : (if col < 16 then (k.tile f.a.toNat).getD (16 * row + col) 0 else (k.tile f.b.toNat).getD (16 * row + col - 16) 0) =
      if col < 16 then k.telem f.a.toNat (16 * row + col) else k.telem f.b.toNat (16 * row + col - 16) := by
    by_cases h16 : col < 16
    · rw [if_pos h16, if_pos h16, getD_tile _ (by omega)]
    · rw [if_neg h16, if_neg h16, getD_tile _ (by omega)]
  rw [packHalf, hsrc, bitAt_one _ hs, fld_zero_eq, fld_eq_div]
  by_cases h2 : f.sub.toNat < 2
  · simp only [if_pos h2, show ¬ 2 ≤ f.sub.toNat by omega, decide_false, Bool.false_eq_true, if_false]
  · simp only [if_neg h2, show 2 ≤ f.sub.toNat by omega, decide_true, if_true]

/-- What a `VPACK` that is carried out leaves. -/
theorem vpack_leaves (k : Core) (f : XFmt) (q : List (BitVec 32) × Nat) (w : Nat) (hq : ((List.range 256).mapM (packPair k f w)).run 0 = q) :
    q.1.length = 256 ∧ ∀ row col, row < 16 → col < 16 → q.1.getD (16 * row + col) 0 =
      BitVec.ofNat 32 (((packHalf k f w row (2 * col)).run 0).1 + 65536 * ((packHalf k f w row (2 * col + 1)).run 0).1) := by
  have hlist : q.1 = (List.range 256).map fun e => ((packPair k f w e).run 0).1 := by
    rw [← hq]
    exact mapM_steady (packPair_steady k f w) _ _
  refine ⟨by simp [hlist], fun row col hr hc => ?_⟩
  have hdiv : (16 * row + col) / 16 = row := by omega
  have hmod : (16 * row + col) % 16 = col := by omega
  rw [hlist, getD_map_range _ _ (by omega), packPair_val, hdiv, hmod]

theorem vpack_claim (h : Ready s c.val r) (ho : f.ok true true true true true = true) (hs : f.sub.toNat < 4) (hi : f.imm.toNat < 2 ^ 22)
    (hf : Fetches s (.vpack c f)) :
    let k := s.core c.val
    let e : Elem := if f.sub.toNat % 2 = 0 then .fl bf16 else .fl fp16
    let fr := s.frees (if f.c = 31 then 1 else 0)
    let w := if f.c = 31 then (fr.1.headD 0).toNat else (k.sreg (f.c.toNat + 1)).toNat
    let half (row col : Nat) : Ar Nat :=
      let x := if col < 16 then k.telem f.a.toNat (16 * row + col) else k.telem f.b.toNat (16 * row + col - 16)
      e.narrow (if f.sub.toNat < 2 then .rne
        else .sr (drawNarrow (k.sreg f.c.toNat).toNat (w % 2 ^ 32) (w / 2 ^ 32 % 2 ^ 32 + row) (f.imm.toNat + col))) false (fp32.dec x.toNat)
    ∃ t, exec (.vpack c f) s = .next t ∧ t = { s with cores := t.cores, freeCtr := t.freeCtr } ∧ (f.c ≠ 31 → t.freeCtr = s.freeCtr) ∧
      (t.core c.val).ls = k.ls ∧ (t.core c.val).regs.s = k.regs.s ∧ (t.core c.val).regs.pc = k.regs.pc + 8 ∧
      (∃ n, (t.core c.val).run = some { r with evInvalid := min (r.evInvalid + n) (2 ^ 32 - 1) }) ∧
      (∀ m x, m < 32 → x < 256 → m ≠ f.d.toNat → (t.core c.val).telem m x = k.telem m x) ∧
      ∀ row col, row < 16 → col < 16 → (t.core c.val).telem f.d.toNat (16 * row + col) =
        BitVec.ofNat 32 (((half row (2 * col)).run 0).1 + 65536 * ((half row (2 * col + 1)).run 0).1) := by
  intro k e fr w half
  have h31 : f.c.toNat = 31 ↔ f.c = 31 := by bv_omega
  have hd := does_vpack h ho hs hi (k := k) rfl (fr := fr) (by simp only [h31, fr]) (w := w) (by simp only [h31, w]) rfl hf
  generalize hq : ((List.range 256).mapM (packPair k f w)).run 0 = q at hd
  obtain ⟨hlen, helem⟩ := vpack_leaves k f q w hq
  have htile {m x : Nat} (hx : x < 256) : (k.putTile f.d.toNat q.1).next.telem m x = if m = f.d.toNat then q.1.getD x 0 else k.telem m x :=
    telem_putTile_next _ hlen hx
  obtain ⟨hls, hsr, hpc, -, -⟩ := putTile_next k f.d.toNat q.1
  generalize (k.putTile f.d.toNat q.1).next = K at hd hls hsr hpc htile
  have hfr : fr.2 = { s with freeCtr := s.freeCtr + if f.c = 31 then 1 else 0 } := frees_state ..
  have hframe : CoreFrame s c.val fr.2 := .of_freesOnly ⟨_, hfr⟩
  refine ⟨_, hd, (hframe.setCore _).rest, fun hc => ?_, ?_⟩
  · show fr.2.freeCtr = _
    rw [hfr, if_neg hc]
    rfl
  · rw [State.core_setCore]
    refine ⟨hls, hsr, hpc, ⟨q.2, rfl⟩, fun m x _ hx hne => ?_, fun row col hr hc => ?_⟩
    · rw [telem_with_run, htile hx, if_neg hne]
    · rw [telem_with_run, htile (by omega), if_pos rfl, helem row col hr hc, packHalf_eq k w hs hr (by omega),
        packHalf_eq k w hs hr (by omega)]
      rfl


/-! ### `VUNPACK` -/

/-- Element `col` of 32 of row `row` of a packed register, widened (R187). -/
def unpackHalf (k : Core) (f : XFmt) (row col : Nat) : BitVec 32 :=
  BitVec.ofNat 32 ((packElem f.sub.toNat).widen (fld ((k.tile f.a.toNat).getD (16 * row + col / 2) 0).toNat (16 * (col % 2)) 16))

theorem unpackHalf_eq (k : Core) (f : XFmt) {row col : Nat} (hr : row < 16) (hc : col < 32) :
    unpackHalf k f row col =
      BitVec.ofNat 32 ((packElem f.sub.toNat).widen ((k.telem f.a.toNat (16 * row + col / 2)).toNat / 2 ^ (16 * (col % 2)) % 2 ^ 16)) := by
  rw [unpackHalf, getD_tile _ (by omega), fld_eq_div]

/-- Columns `16 * half` and up of the widened register. -/
def unpackTile (k : Core) (f : XFmt) (half : Nat) : List (BitVec 32) :=
  (List.range 256).map fun e => unpackHalf k f (e / 16) (16 * half + e % 16)

theorem length_unpackTile (k : Core) (f : XFmt) (half : Nat) : (unpackTile k f half).length = 256 := by simp [unpackTile]

theorem getD_unpackTile (k : Core) (f : XFmt) (half : Nat) {row col : Nat} (hr : row < 16) (hc : col < 16) :
    (unpackTile k f half).getD (16 * row + col) 0 = unpackHalf k f row (16 * half + col) := by
  have hdiv : (16 * row + col) / 16 = row := by omega
  have hmod : (16 * row + col) % 16 = col := by omega
  rw [unpackTile, getD_map_range _ _ (by omega), hdiv, hmod]

theorem length_frees (s : State) (n : Nat) : (s.frees n).1.length = n := by
  induction n generalizing s with
  | zero => rfl
  | succ n ih => rw [State.frees, List.length_cons, ih]

section
variable (h : Ready s c.val r) (ho : f.ok true true true false true = true) (hs : f.sub.toNat < 2) (hi : f.imm = 0)
include h ho hs hi

theorem does_vunpack (hk : s.core c.val = k) (hne : f.d ≠ f.b) :
    Does s (.vunpack c f) (.next (s.setCore c.val ((k.putTile f.d.toNat (unpackTile k f 0)).putTile f.b.toNat (unpackTile k f 1)).next)) := by
  refine does_of_ok h rfl rfl (by simp [ho, hs, hi]) ?_
  simp only [if_neg hne, State.modCore, adv_setCore, hk, unpackTile, unpackHalf, Nat.mul_zero, Nat.zero_add, Nat.mul_one]

theorem does_vunpack_same (hk : s.core c.val = k) (he : f.d = f.b) {fr : List Word × State} (hfr : s.frees 256 = fr) :
    Does s (.vunpack c f) (.next (fr.2.setCore c.val (k.putTile f.d.toNat (fr.1.map fun w => w.setWidth 32)).next)) := by
  have hcore : fr.2.core c.val = k := by
    rw [← hfr, frees_state]
    exact hk
  refine does_of_ok h rfl rfl (by simp [ho, hs, hi]) ?_
  simp only [if_pos he, State.modCore, adv_setCore, hfr, hcore]

end

/-! ### Tile registers and local store -/

theorem vecAddr_ok {a ext : Nat} (ha : (k.sreg f.a.toNat + f.imm.signExtend 64).toNat = a) (hm : a % 32 = 0)
    (hp : inPart r.express a ext = true) : vecAddr k r f ext = .ok a := by
  have ha' : (k.sreg f.a.toNat + sext32 f.imm).toNat = a := ha
  simp [vecAddr, ha', hm, hp]

theorem vecAddr_misaligned {a : Nat} (ext : Nat) (ha : (k.sreg f.a.toNat + f.imm.signExtend 64).toNat = a) (hm : a % 32 ≠ 0) :
    vecAddr k r f ext = .error ⟨xMisaligned, enIssue, 0⟩ := by
  have ha' : (k.sreg f.a.toNat + sext32 f.imm).toNat = a := ha
  simp [vecAddr, ha', hm]

/-- An instruction that changes its core and goes on. -/
theorem adv_modCore {c : Nat} (hk : s.core c = k) (g : Core → Core) : (s.modCore c g).adv c = s.setCore c (g k).next := by
  rw [State.modCore, adv_setCore, hk]

theorem does_tld (h : Ready s c.val r) (ho : f.ok true true true false false = true) (hk : s.core c.val = k) {a st : Nat}
    (hst : (k.sreg f.b.toNat).toNat % 2 ^ 16 = st) (ha : vecAddr k r f (tileExtent st) = .ok a)
    (hr : ∀ i, i < 16 → engRead k (a + 32 * i * st) 64 enVe = .ok ()) :
    Does s (.tld c f) (.next (s.setCore c.val (k.putTile f.d.toNat ((List.range 256).map fun e =>
      BitVec.ofNat 32 (k.lsNat (a + 32 * (e / 16) * st + 4 * (e % 16)) 4))).next)) := by
  have hrows : ((List.range 16).forM fun i => engRead k (a + 32 * i * st) 64 enVe) = .ok () :=
    eff_forM_ok fun i hi => hr i (List.mem_range.mp hi)
  have hx : exec (.tld c f) s = .next (tldInsn c f s) := rfl
  unfold tldInsn at hx
  refine does_of_ok h hx rfl ho ?_
  simp only [hk, fld_zero_eq, hst, ha, eff_ok_bind, hrows, State.modCore, adv_setCore]
  rfl

/-- The rows of a tile register and where `TST` puts them. -/
def tileRows (k : Core) (n a st : Nat) : List (Nat × Bytes) :=
  (List.range 16).map fun i => (a + 32 * i * st, (List.range 16).flatMap fun j => natLe 4 (k.telem n (16 * i + j)).toNat)

theorem does_tst (h : Ready s c.val r) (ho : f.ok true true true false false = true) (hk : s.core c.val = k) {a st : Nat}
    (hst : (k.sreg f.b.toNat).toNat % 2 ^ 16 = st) (ha : vecAddr k r f (tileExtent st) = .ok a) :
    Does s (.tst c f) (.next (s.setCore c.val (k.puts (tileRows k f.d.toNat a st)).next)) := by
  have hx : exec (.tst c f) s = .next (tstInsn c f s) := rfl
  unfold tstInsn at hx
  refine does_of_ok h hx rfl ho ?_
  simp only [hk, fld_zero_eq, hst, ha, eff_ok_bind]
  exact congrArg Except.ok (adv_modCore hk fun k' => k'.puts (tileRows k f.d.toNat a st))

theorem does_pld (h : Ready s c.val r) (ho : f.ok true true false false false = true) (hd : f.d.toNat < 8) (hk : s.core c.val = k) {a : Nat}
    (ha : vecAddr k r f 32 = .ok a) (hr : engRead k a 32 enVe = .ok ()) :
    Does s (.pld c f) (.next (s.setCore c.val (k.setP f.d.toNat (BitVec.ofNat 256 (k.ls.readNat a 32))).next)) := by
  have hx : exec (.pld c f) s = .next (pldInsn c f s) := rfl
  unfold pldInsn at hx
  refine does_of_ok h hx rfl (by simp [ho, hd]) ?_
  simp only [hk, ha, hr, eff_ok_bind, State.modCore, adv_setCore]
  rfl

theorem does_pst (h : Ready s c.val r) (ho : f.ok true true false false false = true) (hd : f.d.toNat < 8) (hk : s.core c.val = k) {a : Nat}
    (ha : vecAddr k r f 32 = .ok a) :
    Does s (.pst c f) (.next (s.setCore c.val (k.engPut a (natLe 32 (k.preg f.d.toNat).toNat)).next)) := by
  have hx : exec (.pst c f) s = .next (pstInsn c f s) := rfl
  unfold pstInsn at hx
  refine does_of_ok h hx rfl (by simp [ho, hd]) ?_
  simp only [hk, ha, eff_ok_bind, State.modCore, adv_setCore]
  rfl

/-- Byte `j` of numbers of `n` bytes each, put one after another. -/
theorem getD_flatMap_natLe (n : Nat) (hn : 0 < n) (g : Nat → Nat) (m j : Nat) (hj : j < n * m) :
    ((List.range m).flatMap fun i => natLe n (g i)).getD j 0 = BitVec.ofNat 8 (g (j / n) / 256 ^ (j % n)) := by
  induction m with
  | zero => omega
  | succ m ih =>
    have hlen : ((List.range m).flatMap fun i => natLe n (g i)).length = n * m := by
      simp [List.length_flatMap, Nat.mul_comm]
    rw [List.range_succ, List.flatMap_append, List.flatMap_singleton]
    by_cases hlt : j < n * m
    · rw [List.getD_append _ _ _ _ (by omega), ih hlt]
    · have hdiv : j / n = m :=
        Nat.div_eq_of_lt_le (by rw [Nat.mul_comm m]; omega) (by rw [Nat.mul_comm (m + 1)]; exact hj)
      have hmod : j % n = j - n * m := by
        have := Nat.div_add_mod j n
        rw [hdiv] at this
        omega
      rw [List.getD_append_right _ _ _ _ (by omega), hlen, ← hmod, getD_natLe _ _ _ (Nat.mod_lt _ hn), hdiv]

/-- A byte of local store after ranges of bytes have been written in turn: the last one that covers it holds. -/
theorem read_puts_foldl (k : Core) (l : List (Nat × Bytes)) (x : Nat) :
    (k.puts l).ls.read x = l.foldl (fun v z => if z.1 ≤ x ∧ x < z.1 + z.2.length then z.2.getD (x - z.1) 0 else v) (k.ls.read x) := by
  induction l generalizing k with
  | nil => rfl
  | cons z l ih => rw [Core.puts, List.foldl_cons, ← Core.puts, ih, engPut_ls, read_writeBytes, List.foldl_cons]

theorem read_puts_tileRows (k : Core) (n a st x : Nat) :
    (k.puts (tileRows k n a st)).ls.read x = (List.range 16).foldl (fun v row =>
      if a + 32 * row * st ≤ x ∧ x < a + 32 * row * st + 64 then
        let j := x - (a + 32 * row * st)
        BitVec.ofNat 8 ((k.telem n (16 * row + j / 4)).toNat / 256 ^ (j % 4))
      else v) (k.ls.read x) := by
  rw [read_puts_foldl, tileRows, List.foldl_map]
  refine List.foldl_ext _ _ _ fun v row _ => ?_
  have hlen : ((List.range 16).flatMap fun j => natLe 4 (k.telem n (16 * row + j)).toNat).length = 64 := by
    simp [List.length_flatMap]
  simp only [hlen]
  by_cases hin : a + 32 * row * st ≤ x ∧ x < a + 32 * row * st + 64
  · rw [if_pos hin, if_pos hin, getD_flatMap_natLe 4 (by decide) (fun j => (k.telem n (16 * row + j)).toNat) 16 _ (by omega)]
  · rw [if_neg hin, if_neg hin]

section
variable (h : Ready s c.val r)
  (ha : ((s.core c.val).sreg f.a.toNat + f.imm.signExtend 64).toNat % 32 ≠ 0)
include h ha

theorem does_tld_misaligned (ho : f.ok true true true false false = true) :
    Does s (.tld c f) (.next (s.raise c.val xMisaligned enIssue (f.word 0x56))) := by
  have hx : exec (.tld c f) s = .next (tldInsn c f s) := rfl
  unfold tldInsn at hx
  rw [← take_of_ne c.val (addr := 0) (by decide : xMisaligned ≠ xMachineCheck)]
  refine does_of_error h hx rfl ho ?_
  simp only [vecAddr_misaligned _ rfl ha]
  rfl

theorem does_tst_misaligned (ho : f.ok true true true false false = true) :
    Does s (.tst c f) (.next (s.raise c.val xMisaligned enIssue (f.word 0x57))) := by
  have hx : exec (.tst c f) s = .next (tstInsn c f s) := rfl
  unfold tstInsn at hx
  rw [← take_of_ne c.val (addr := 0) (by decide : xMisaligned ≠ xMachineCheck)]
  refine does_of_error h hx rfl ho ?_
  simp only [vecAddr_misaligned _ rfl ha]
  rfl

theorem does_pld_misaligned (ho : f.ok true true false false false = true) (hd : f.d.toNat < 8) :
    Does s (.pld c f) (.next (s.raise c.val xMisaligned enIssue (f.word 0x58))) := by
  have hx : exec (.pld c f) s = .next (pldInsn c f s) := rfl
  unfold pldInsn at hx
  rw [← take_of_ne c.val (addr := 0) (by decide : xMisaligned ≠ xMachineCheck)]
  refine does_of_error h hx rfl (by simp [ho, hd]) ?_
  simp only [vecAddr_misaligned _ rfl ha]
  rfl

theorem does_pst_misaligned (ho : f.ok true true false false false = true) (hd : f.d.toNat < 8) :
    Does s (.pst c f) (.next (s.raise c.val xMisaligned enIssue (f.word 0x59))) := by
  have hx : exec (.pst c f) s = .next (pstInsn c f s) := rfl
  unfold pstInsn at hx
  rw [← take_of_ne c.val (addr := 0) (by decide : xMisaligned ≠ xMachineCheck)]
  refine does_of_error h hx rfl (by simp [ho, hd]) ?_
  simp only [vecAddr_misaligned _ rfl ha]
  rfl

end

/-! ### Row statistics -/

theorem sideArgs_ok {w a : Nat} (hw : (k.sreg f.b.toNat).toNat = w) (ha : (k.sreg f.a.toNat).toNat = a)
    (hp : w / 2 ^ 13 % 2 ^ 14 ≠ 0 →
      inPart r.express a (8 * (w / 2 ^ 13 % 2 ^ 14)) = true ∧ inSide r.express (w % 2 ^ 13) (w / 2 ^ 13 % 2 ^ 14) = true) :
    sideArgs k r f = .ok (a, w % 2 ^ 13, w / 2 ^ 13 % 2 ^ 14) := by
  rw [sideArgs, hw, ha, fld_eq_div, fld_zero_eq]
  generalize w / 2 ^ 13 % 2 ^ 14 = n at hp ⊢
  by_cases hn : n = 0
  · simp [hn]
  · obtain ⟨h1, h2⟩ := hp hn
    rw [if_neg fun h => by simp [h1] at h, if_neg fun h => by simp only [h2] at h; exact absurd h.2 (by decide)]

section
variable (h : Ready s c.val r) (ho : f.ok false true true false false = true) (hi : f.imm = 0) (hk : s.core c.val = k)
include h ho hi

theorem does_statld_full (hl : 64 ≤ s.lsuCount c.val) : Does s (.statld c f) (.next s) := by
  have hx : exec (.statld c f) s = .next (statldInsn c f s) := rfl
  unfold statldInsn at hx
  exact does_of_ok h hx rfl (by simp [ho, hi]) (if_pos hl)

theorem does_statst_full (hl : 64 ≤ s.lsuCount c.val) : Does s (.statst c f) (.next s) := by
  have hx : exec (.statst c f) s = .next (statstInsn c f s) := rfl
  unfold statstInsn at hx
  exact does_of_ok h hx rfl (by simp [ho, hi]) (if_pos hl)

include hk

/-- Side memory read from local store at `a`, from entry `first` on. -/
def sideLoad (k : Core) (a first n : Nat) : Core :=
  (List.range n).foldl (fun k i => k.setSide (first + i) (BitVec.ofNat 64 (k.lsNat (a + 8 * i) 8))) k

theorem does_statld {a first n : Nat} (hl : s.lsuCount c.val < 64) (hx : sideArgs k r f = .ok (a, first, n))
    (hr : n ≠ 0 → engRead k a (8 * n) enLsu = .ok ()) :
    Does s (.statld c f) (.next (s.setCore c.val (sideLoad k a first n).next)) := by
  have he : exec (.statld c f) s = .next (statldInsn c f s) := rfl
  unfold statldInsn at he
  refine does_of_ok h he rfl (by simp [ho, hi]) ?_
  simp only [if_neg (Nat.not_le.mpr hl), hk, hx, eff_ok_bind]
  have hload : Except.ok ((s.modCore c.val fun k => sideLoad k a first n).adv c.val) = (Except.ok _ : Except Exn State) :=
    congrArg Except.ok (adv_modCore hk fun k => sideLoad k a first n)
  by_cases hn : n = 0
  · rw [if_neg (not_not.mpr hn)]
    exact hload
  · rw [if_pos hn, hr hn, eff_ok_bind]
    exact hload

theorem does_statst {a first n : Nat} (hl : s.lsuCount c.val < 64) (hx : sideArgs k r f = .ok (a, first, n))
    (hr : sideRead k first n enLsu = .ok ()) :
    Does s (.statst c f) (.next (s.setCore c.val
      (k.engPut a ((List.range n).flatMap fun i => natLe 8 (Tab.get 0 k.side (first + i)).toNat)).next)) := by
  have he : exec (.statst c f) s = .next (statstInsn c f s) := rfl
  unfold statstInsn at he
  refine does_of_ok h he rfl (by simp [ho, hi]) ?_
  simp only [if_neg (Nat.not_le.mpr hl), hk, hx, eff_ok_bind, hr]
  exact congrArg Except.ok
    (adv_modCore hk fun k' => k'.engPut a ((List.range n).flatMap fun i => natLe 8 (Tab.get 0 k'.side (first + i)).toNat))

end

theorem sideLoad_succ (k : Core) (a first n : Nat) : sideLoad k a first (n + 1) =
    (sideLoad k a first n).setSide (first + n) (BitVec.ofNat 64 ((sideLoad k a first n).lsNat (a + 8 * n) 8)) := by
  simp [sideLoad, List.range_succ]

/-- A load of side memory changes nothing else of the core. -/
theorem sideLoad_eq (k : Core) (a first n : Nat) : ∃ x y, sideLoad k a first n = { k with side := x, sidePoison := y } := by
  induction n with
  | zero => exact ⟨k.side, k.sidePoison, rfl⟩
  | succ n ih =>
    obtain ⟨x, y, h⟩ := ih
    rw [sideLoad_succ, h]
    exact ⟨_, _, rfl⟩

theorem get_sideLoad (k : Core) (a first n i : Nat) : Tab.get 0 (sideLoad k a first n).side i =
    if first ≤ i ∧ i < first + n then BitVec.ofNat 64 (k.ls.readNat (a + 8 * (i - first)) 8) else Tab.get 0 k.side i := by
  induction n with
  | zero => rw [if_neg (by omega)]; rfl
  | succ n ih =>
    have hls : (sideLoad k a first n).lsNat (a + 8 * n) 8 = k.ls.readNat (a + 8 * n) 8 := by
      obtain ⟨x, y, h⟩ := sideLoad_eq k a first n
      rw [h]
      rfl
    rw [sideLoad_succ, Core.setSide, Tab.get_put_eq, hls, ih]
    by_cases hin : i = first + n
    · rw [if_pos hin, if_pos (by omega), hin, Nat.add_sub_cancel_left]
    · rw [if_neg hin]
      by_cases hlt : first ≤ i ∧ i < first + n
      · rw [if_pos hlt, if_pos (by omega)]
      · rw [if_neg hlt, if_neg (by omega)]

theorem take_drop_flatMap_natLe (n : Nat) (g : Nat → Nat) {i cnt : Nat} (hi : i < cnt) :
    (((List.range cnt).flatMap fun i => natLe n (g i)).drop (n * i)).take n = natLe n (g i) := by
  induction cnt with
  | zero => omega
  | succ cnt ih =>
    have hlen : ((List.range cnt).flatMap fun i => natLe n (g i)).length = n * cnt := by
      simp [List.length_flatMap, Nat.mul_comm]
    rw [List.range_succ, List.flatMap_append, List.flatMap_singleton]
    obtain hlt | rfl := Nat.lt_or_eq_of_le (Nat.le_of_lt_succ hi)
    · have hle : n * i + n ≤ n * cnt := Nat.mul_le_mul_left n hlt
      rw [List.drop_append_of_le_length (by omega), List.take_append_of_le_length (by rw [List.length_drop]; omega), ih hlt]
    · rw [List.drop_left' hlen, List.take_of_length_le (by simp)]

/-- The block of numbers of `n` bytes each, read back one by one. -/
theorem readNat_writeBytes_flatMap (m : Memory) (a n : Nat) (g : Nat → Nat) {i cnt : Nat} (hi : i < cnt) (hg : g i < 256 ^ n) :
    (m.writeBytes a ((List.range cnt).flatMap fun i => natLe n (g i))).readNat (a + n * i) n = g i := by
  have hle : n * i + n ≤ n * cnt := Nat.mul_le_mul_left n hi
  rw [Memory.readNat, Memory.readBytes_writeBytes_in _ _ _ _ _ (by simpa [List.length_flatMap, Nat.mul_comm] using hle),
    take_drop_flatMap_natLe n g hi, leNat_natLe_of_lt hg]

/-! ### The obligation -/

/-- Settles O21: the converted or moved elements one by one, and the exceptions of accesses that are not aligned. -/
theorem packingAndMoves : Obligations.PackingAndMoves := by
  unfold Obligations.PackingAndMoves
  refine ⟨fun c f s r h => ⟨fun ho hs hi hf => ?_, fun ho hs hi hf => ?_⟩,
    fun c f s r h => ⟨fun ho ha hp => ⟨fun hr hf => ?_, fun hf => ?_⟩, fun ho hd ha hp => ⟨fun hr => ?_, fun hf => ?_⟩,
      fun ha => ⟨fun ho => ⟨?_, ?_⟩, fun ho hd => ⟨?_, ?_⟩⟩⟩,
    fun c f s r h ho hi => ⟨fun hl => ⟨does_statld_full h ho hi hl, does_statst_full h ho hi hl⟩,
      fun hl hp => ⟨fun hr hf => ?_, fun hr hf => ?_⟩⟩⟩
  · exact vpack_claim h ho hs hi hf
  · have hcol {col : Nat} : col < 32 → (col % 16 < 16 ∧ 16 * (col / 16) + col % 16 = col) := by omega
    by_cases hdb : f.d = f.b
    · have hlen : (((s.frees 256).1.map fun w => w.setWidth 32) : List (BitVec 32)).length = 256 := by simp [length_frees]
      have hfr : (s.frees 256).2 = { s with freeCtr := s.freeCtr + 256 } := frees_state ..
      have hd := does_vunpack_same h ho hs hi rfl hdb rfl hf
      have htile {m x : Nat} (hx : x < 256) := telem_putTile_next (s.core c.val) (n := f.d.toNat) (m := m) hlen hx
      obtain ⟨hls, hsr, hpc, -, hrun⟩ := putTile_next (s.core c.val) f.d.toNat ((s.frees 256).1.map fun w => w.setWidth 32)
      generalize ((s.core c.val).putTile f.d.toNat ((s.frees 256).1.map fun w => w.setWidth 32)).next = K at hd hls hsr hpc hrun htile
      refine ⟨_, hd, ((CoreFrame.of_freesOnly ⟨_, hfr⟩ : CoreFrame s c.val _).setCore _).rest, ?_⟩
      rw [State.core_setCore]
      refine ⟨hls, hrun, hsr, hpc, fun m x _ hx hne _ => ?_, fun _ => ?_, fun hne => absurd hdb hne⟩
      · rw [htile hx, if_neg hne]
      · show (s.frees 256).2.freeCtr = _
        rw [hfr]
    · have hne : f.d.toNat ≠ f.b.toNat := fun he => hdb (BitVec.eq_of_toNat_eq he)
      have hd := does_vunpack h ho hs hi rfl hdb hf
      generalize hk : s.core c.val = k at hd ⊢
      have htile {m x : Nat} (hx : x < 256) :
          ((k.putTile f.d.toNat (unpackTile k f 0)).putTile f.b.toNat (unpackTile k f 1)).next.telem m x =
            if m = f.b.toNat then (unpackTile k f 1).getD x 0 else if m = f.d.toNat then (unpackTile k f 0).getD x 0 else k.telem m x := by
        rw [telem_putTile_next _ (length_unpackTile ..) hx, telem_putTile _ (length_unpackTile ..) hx]
      obtain ⟨y, hy⟩ := putTile_eq k f.d.toNat (unpackTile k f 0)
      obtain ⟨hls, hsr, hpc, -, hrun⟩ := putTile_next (k.putTile f.d.toNat (unpackTile k f 0)) f.b.toNat (unpackTile k f 1)
      generalize ((k.putTile f.d.toNat (unpackTile k f 0)).putTile f.b.toNat (unpackTile k f 1)).next = K at hd hls hsr hpc hrun htile
      rw [hy] at hls hsr hpc hrun
      refine ⟨_, hd, rfl, ?_⟩
      rw [State.core_setCore]
      refine ⟨hls, hrun, hsr, hpc, fun m x _ hx hmd hmb => ?_, fun he => absurd he hdb, fun _ => ⟨rfl, fun row col hr hc => ?_⟩⟩
      · rw [htile hx, if_neg hmb, if_neg hmd]
      · have helem {half j : Nat} (hj : j < 16) (he : 16 * half + j = col) : (unpackTile k f half).getD (16 * row + j) 0 =
            BitVec.ofNat 32 ((packElem f.sub.toNat).widen ((k.telem f.a.toNat (16 * row + col / 2)).toNat / 2 ^ (16 * (col % 2)) % 2 ^ 16)) := by
          rw [getD_unpackTile k f half hr hj, he, unpackHalf_eq k f hr hc]
        rw [htile (by omega)]
        by_cases h16 : col < 16
        · rw [if_pos h16, if_neg hne, if_pos rfl, helem (Nat.mod_lt _ (by decide)) (by omega)]
          rfl
        · rw [if_neg h16, if_pos rfl, helem (half := 1) (Nat.mod_lt _ (by decide)) (by omega)]
          rfl
  · have hd := does_tld h ho rfl rfl (vecAddr_ok rfl ha hp) hr hf
    generalize hq : ((List.range 256).map fun e => BitVec.ofNat 32
      ((s.core c.val).lsNat (((s.core c.val).sreg f.a.toNat + f.imm.signExtend 64).toNat +
        32 * (e / 16) * (((s.core c.val).sreg f.b.toNat).toNat % 2 ^ 16) + 4 * (e % 16)) 4)) = q at hd
    have hlen : q.length = 256 := by simp [← hq]
    have htile {m x : Nat} (hx : x < 256) := telem_putTile_next (s.core c.val) (n := f.d.toNat) (m := m) hlen hx
    obtain ⟨hls, hsr, hpc, -, -⟩ := putTile_next (s.core c.val) f.d.toNat q
    generalize ((s.core c.val).putTile f.d.toNat q).next = K at hd hls hsr hpc htile
    refine ⟨_, hd, rfl, ?_⟩
    rw [State.core_setCore]
    refine ⟨hls, hsr, hpc, fun n e _ he => ?_⟩
    rw [htile he, ← hq, getD_map_range _ _ he]
    rfl
  · have hd := does_tst h ho rfl rfl (vecAddr_ok rfl ha hp) hf
    generalize hq : tileRows (s.core c.val) f.d.toNat _ _ = q at hd
    refine ⟨_, hd, rfl, ?_⟩
    rw [State.core_setCore]
    refine ⟨?_, fun x => ?_⟩
    · rw [Core.next, Core.setPc, puts_regs]
    · show (Core.puts _ q).ls.read x = _
      rw [← hq, read_puts_tileRows]
  · exact does_pld h ho hd rfl (vecAddr_ok rfl ha hp) hr
  · refine ⟨_, does_pst h ho hd rfl (vecAddr_ok rfl ha hp) hf, rfl, ?_⟩
    rw [State.core_setCore]
    refine ⟨?_, fun x => ?_⟩
    · rw [Core.next, Core.setPc, engPut_regs]
    · show (Core.engPut _ _ _).ls.read x = _
      rw [engPut_ls, read_writeBytes, length_natLe]
      by_cases hin : ((s.core c.val).sreg f.a.toNat + f.imm.signExtend 64).toNat ≤ x ∧
          x < ((s.core c.val).sreg f.a.toNat + f.imm.signExtend 64).toNat + 32
      · rw [if_pos hin, if_pos hin, getD_natLe _ _ _ (by omega)]
      · rw [if_neg hin, if_neg hin]
  · exact does_tld_misaligned h ha ho
  · exact does_tst_misaligned h ha ho
  · exact does_pld_misaligned h ha ho hd
  · exact does_pst_misaligned h ha ho hd
  · have hd := does_statld h ho hi rfl hl (sideArgs_ok rfl rfl hp) hr hf
    refine ⟨_, hd, rfl, ?_⟩
    rw [State.core_setCore]
    refine ⟨?_, ?_, fun i => get_sideLoad ..⟩
    all_goals
      obtain ⟨x, y, he⟩ := sideLoad_eq (s.core c.val) ((s.core c.val).sreg f.a.toNat).toNat
        (((s.core c.val).sreg f.b.toNat).toNat % 2 ^ 13) (((s.core c.val).sreg f.b.toNat).toNat / 2 ^ 13 % 2 ^ 14)
      rw [he]
      rfl
  · have hd := does_statst h ho hi rfl hl (sideArgs_ok rfl rfl hp) hr hf
    refine ⟨_, hd, rfl, ?_⟩
    rw [State.core_setCore]
    refine ⟨?_, ?_, fun i hin => ?_, fun x hx => ?_⟩
    · obtain ⟨p, x, y, he⟩ := engPut_eq (s.core c.val) ((s.core c.val).sreg f.a.toNat).toNat
        ((List.range (((s.core c.val).sreg f.b.toNat).toNat / 2 ^ 13 % 2 ^ 14)).flatMap fun i =>
          natLe 8 (Tab.get 0 (s.core c.val).side (((s.core c.val).sreg f.b.toNat).toNat % 2 ^ 13 + i)).toNat)
      rw [he]
      rfl
    · rw [Core.next, Core.setPc, engPut_regs]
    · show (Core.engPut _ _ _).ls.readNat _ 8 = _
      rw [engPut_ls]
      exact readNat_writeBytes_flatMap _ _ 8 (fun i => (Tab.get 0 (s.core c.val).side (_ + i)).toNat) hin (BitVec.isLt _)
    · show (Core.engPut _ _ _).ls.read _ = _
      rw [engPut_ls]
      exact Memory.read_writeBytes_out _ _ _ _ (by simpa [List.length_flatMap, Nat.mul_comm] using hx)

end Sys2Proof.Machine
end


section
/-! PROOFS. Taking a chunk from a pool and returning it. -/

namespace Sys2Proof.Machine

/-- The free Crumbs that a chunk adds to the pool of a port in a unit. -/
def Chunk.freeIn (p u : Nat) (x : Chunk) : Nat := if x.unit = u ∧ x.port = p ∧ !x.used then 2 ^ x.log2 else 0

/-- The free Crumbs of a pool in a list of chunks. -/
def poolFree (l : List Chunk) (p u : Nat) : Nat := (l.map (Chunk.freeIn p u)).sum

theorem freeCrumbs_eq (s : State) (p u : Nat) : s.freeCrumbs p u = poolFree s.chunks p u := rfl

section
variable (p u : Nat)

@[simp] theorem poolFree_append (l m : List Chunk) : poolFree (l ++ m) p u = poolFree l p u + poolFree m p u := by
  simp [poolFree]

@[simp] theorem poolFree_cons (x : Chunk) (l : List Chunk) : poolFree (x :: l) p u = x.freeIn p u + poolFree l p u := by
  simp [poolFree]

@[simp] theorem poolFree_nil : poolFree [] p u = 0 := rfl

/-- Removing a chunk that is listed once takes its Crumbs out of the pool. -/
theorem poolFree_filter_ne {l : List Chunk} {x : Chunk} (hl : l.Nodup) (hx : x ∈ l) :
    x.freeIn p u + poolFree (l.filter (· != x)) p u = poolFree l p u := by
  rw [poolFree, ← hl.erase_eq_filter, List.sum_map_erase (Chunk.freeIn p u) hx]
  rfl

/-- Removing chunks that are in use leaves the free Crumbs. -/
theorem poolFree_filter_used {l : List Chunk} {t : Chunk → Bool} (ht : ∀ x, t x = false → x.used = true) :
    poolFree (l.filter t) p u = poolFree l p u := by
  induction l with
  | nil => rfl
  | cons x l ih =>
    rw [List.filter_cons]
    by_cases hx : t x = true
    · rw [if_pos hx, poolFree_cons, poolFree_cons, ih]
    · have hused := ht x (Bool.not_eq_true _ ▸ hx)
      rw [if_neg hx, ih, poolFree_cons, Chunk.freeIn, if_neg (by simp [hused]), Nat.zero_add]

end

theorem freeIn_free (p u off c : Nat) : Chunk.freeIn p u ⟨u, off, c, p, false⟩ = 2 ^ c := by simp [Chunk.freeIn]

theorem freeIn_other {q v p u : Nat} (x : Chunk) (hu : x.unit = u) (hp : x.port = p) (h : q ≠ p ∨ v ≠ u) : x.freeIn q v = 0 := by
  rw [Chunk.freeIn, if_neg]
  rintro ⟨h1, h2, -⟩
  omega

/-! ### Taking a chunk -/

/-- A chunk of the state's that a pool can give for `2 ^ c` Crumbs. -/
def State.Offers (s : State) (p u c : Nat) (x : Chunk) : Prop :=
  x ∈ s.chunks ∧ x.unit = u ∧ x.port = p ∧ x.used = false ∧ c ≤ x.log2

/-- The chunk found is one that the pool offers. -/
theorem bestChunk_offers {s : State} {p u c : Nat} {x : Chunk} (h : s.bestChunk p u c = some x) : s.Offers p u c x := by
  refine List.foldlRecOn (motive := fun b => ∀ x, b = some x → s.Offers p u c x) s.chunks _ (fun x hx => by simp at hx) (fun b hb z hz y hy => ?_) x h
  by_cases hfit : z.unit = u ∧ z.port = p ∧ (!z.used) = true ∧ c ≤ z.log2
  · have hoffer : s.Offers p u c z := by
      obtain ⟨h1, h2, h3, h4⟩ := hfit
      exact ⟨hz, h1, h2, by simpa using h3, h4⟩
    simp only [if_pos hfit] at hy
    cases b with
    | none => exact Option.some.inj hy ▸ hoffer
    | some w =>
      simp only at hy
      split at hy
      · exact Option.some.inj hy ▸ hoffer
      · exact hb y hy
  · simp only [if_neg hfit] at hy
    exact hb y hy

/-- The halves that splitting leaves (R306). -/
def chunkHalves (u p off c n : Nat) : List Chunk := (rangeFrom c n).map fun k => ⟨u, off + 32 * 2 ^ k, k, p, false⟩

theorem poolFree_halves (u p off c n : Nat) : poolFree (chunkHalves u p off c n) p u + 2 ^ c = 2 ^ (c + n) := by
  induction n with
  | zero => simp [chunkHalves, rangeFrom]
  | succ n ih =>
    have hsucc : chunkHalves u p off c (n + 1) = chunkHalves u p off c n ++ [⟨u, off + 32 * 2 ^ (c + n), c + n, p, false⟩] := by
      simp [chunkHalves, rangeFrom, List.range_succ]
    rw [hsucc, poolFree_append, poolFree_cons, freeIn_free, poolFree_nil, ← Nat.add_assoc c, Nat.pow_succ]
    omega

/-- A list of chunks of one pool adds nothing to another. -/
theorem poolFree_other {l : List Chunk} {p u q v : Nat} (hl : ∀ x ∈ l, x.unit = u ∧ x.port = p) (h : q ≠ p ∨ v ≠ u) :
    poolFree l q v = 0 := by
  refine List.sum_eq_zero fun n hn => ?_
  obtain ⟨x, hx, rfl⟩ := List.mem_map.mp hn
  exact freeIn_other x (hl x hx).1 (hl x hx).2 h

theorem mem_chunkHalves {u p off c n : Nat} {x : Chunk} (hx : x ∈ chunkHalves u p off c n) : x.unit = u ∧ x.port = p := by
  obtain ⟨k, -, rfl⟩ := List.mem_map.mp hx
  exact ⟨rfl, rfl⟩

/-- What taking a chunk does: the chunk found gives the one taken and its other halves. -/
theorem allocChunk_some {s t : State} {p u c off : Nat} (h : s.allocChunk p u c = some (off, t)) :
    ∃ x, s.Offers p u c x ∧ off = x.off ∧ t.chunks = s.chunks.filter (· != x) ++ [⟨u, off, c, p, true⟩] ++ chunkHalves u p off c (x.log2 - c) := by
  rw [State.allocChunk] at h
  cases hx : s.bestChunk p u c with
  | none => simp [hx] at h
  | some x =>
    have hoffer := bestChunk_offers hx
    obtain ⟨-, hu, hp, hused, -⟩ := id hoffer
    simp only [hx, Option.some.injEq, Prod.mk.injEq] at h
    obtain ⟨rfl, rfl⟩ := h
    refine ⟨x, hoffer, rfl, ?_⟩
    simp only [chunkHalves, hu, hp, hused]

/-! ### Returning a chunk -/

/-- Merging a free chunk with its free halves adds exactly its Crumbs, and no chunk in use. -/
theorem mergeChunk_adds (n : Nat) {l : List Chunk} {x : Chunk} (hl : l.Nodup) (hx : x.used = false) :
    poolFree (mergeChunk l x n) x.port x.unit = poolFree l x.port x.unit + 2 ^ x.log2 ∧
      (∀ q v, q ≠ x.port ∨ v ≠ x.unit → poolFree (mergeChunk l x n) q v = poolFree l q v) ∧
      ∀ y ∈ mergeChunk l x n, y.used = true → y ∈ l := by
  have hself {m : List Chunk} {x : Chunk} (hx : x.used = false) :
      poolFree (m ++ [x]) x.port x.unit = poolFree m x.port x.unit + 2 ^ x.log2 ∧
        (∀ q v, q ≠ x.port ∨ v ≠ x.unit → poolFree (m ++ [x]) q v = poolFree m q v) ∧ ∀ y ∈ m ++ [x], y.used = true → y ∈ m := by
    refine ⟨?_, fun q v h => ?_, fun y hy hused => ?_⟩
    · simp [Chunk.freeIn, hx]
    · simp [freeIn_other x rfl rfl h]
    · obtain hy | hy := List.mem_append.mp hy
      · exact hy
      · rw [List.mem_singleton.mp hy, hx] at hused
        exact absurd hused (by decide)
  induction n generalizing l x with
  | zero => exact hself hx
  | succ n ih =>
    rw [mergeChunk]
    split
    next hmeet =>
      obtain ⟨-, hb⟩ := hmeet
      have hb := List.contains_iff_mem.mp hb
      obtain ⟨h1, h2, h3⟩ := ih (hl.filter _) (x := { x with off := min x.off (Nat.xor x.off (32 * 2 ^ x.log2)), log2 := x.log2 + 1 }) hx
      refine ⟨?_, fun q v h => ?_, fun y hy hu => List.mem_of_mem_filter (h3 y hy hu)⟩
      · have hrem := poolFree_filter_ne x.port x.unit hl hb
        rw [Chunk.freeIn, if_pos ⟨rfl, rfl, by simp [hx]⟩] at hrem
        rw [h1, Nat.pow_succ]
        simp only at hrem ⊢
        omega
      · have hrem := poolFree_filter_ne q v hl hb
        have hzero : Chunk.freeIn q v { x with off := Nat.xor x.off (32 * 2 ^ x.log2) } = 0 := freeIn_other _ rfl rfl h
        rw [h2 q v h, ← hrem, hzero, Nat.zero_add]
    next => exact hself hx

/-- Settles O40: chunks are split and merged within their pool, so its free Crumbs change by those of the chunk. -/
theorem chunkAccounting : Obligations.ChunkAccounting := by
  unfold Obligations.ChunkAccounting
  refine ⟨fun s t p u c off hn h => ?_, fun s p u c off hn => ?_⟩
  · obtain ⟨x, ⟨hx, hu, hp, hused, hc⟩, -, ht⟩ := allocChunk_some h
    simp only [freeCrumbs_eq, ht, poolFree_append, poolFree_cons, poolFree_nil, Nat.add_zero]
    refine ⟨?_, by simp, fun q v hqv => ?_⟩
    · have hrem := poolFree_filter_ne p u hn hx
      have hhalves := poolFree_halves u p off c (x.log2 - c)
      rw [Chunk.freeIn, if_pos ⟨hu, hp, by simp [hused]⟩] at hrem
      rw [Nat.add_sub_cancel' hc] at hhalves
      simp only [Chunk.freeIn, Bool.not_true, Bool.false_eq_true, and_false, if_false]
      omega
    · have hrem := poolFree_filter_ne q v hn hx
      rw [freeIn_other x hu hp hqv, Nat.zero_add] at hrem
      rw [hrem, poolFree_other (fun _ => mem_chunkHalves) hqv, freeIn_other _ rfl rfl hqv]
      rfl
  · have hrest {q v : Nat} : poolFree (s.chunks.filter fun x => !(x.unit == u && x.off == off && x.used)) q v = poolFree s.chunks q v :=
      poolFree_filter_used q v fun x hx => by simp at hx; exact hx.2
    obtain ⟨h1, h2, h3⟩ := mergeChunk_adds 8 (hn.filter fun x => !(x.unit == u && x.off == off && x.used)) (x := ⟨u, off, c, p, false⟩) rfl
    refine ⟨h1.trans (by rw [hrest]; rfl), fun x hx hused hxu hoff => ?_, fun q v h => (h2 q v h).trans (by rw [hrest]; rfl)⟩
    have hkept := (List.mem_filter.mp (h3 x hx hused)).2
    simp [hused, hxu, hoff] at hkept

end Sys2Proof.Machine
end


section
/-! PROOFS. Taking the oldest message of a class from a link. -/

namespace Sys2Proof.Machine

/-! ### Packets of one sender in a receive queue -/

/-- A packet of a class for a device. -/
def Packet.isFor (self cls : Nat) (p : Packet) : Bool := p.cls == cls && p.dst == self

theorem isFor_iff {self cls : Nat} {p : Packet} : p.isFor self cls = true ↔ p.cls = cls ∧ p.dst = self := by
  simp [Packet.isFor]

/-- The packets up to the end of a message are the front of a list, and only the last of them ends a message. -/
theorem upToLast_some {l ps : List Packet} (h : upToLast l = some ps) :
    ∃ init z rest, ps = init ++ [z] ∧ l = ps ++ rest ∧ z.last = true ∧ ∀ y ∈ init, y.last = false := by
  induction l generalizing ps with
  | nil => simp [upToLast] at h
  | cons p l ih =>
    by_cases hp : p.last = true
    · rw [upToLast, if_pos hp, Option.some.injEq] at h
      exact ⟨[], p, l, by simp [← h], by simp [← h], hp, by simp⟩
    · rw [upToLast, if_neg hp, Option.map_eq_some_iff] at h
      obtain ⟨ps, hps, rfl⟩ := h
      obtain ⟨init, z, rest, rfl, rfl, hz, hi⟩ := ih hps
      refine ⟨p :: init, z, rest, rfl, rfl, hz, fun y hy => ?_⟩
      obtain rfl | hy := List.mem_cons.mp hy
      · exact Bool.not_eq_true _ ▸ hp
      · exact hi y hy

theorem upToLast_none {l : List Packet} (h : upToLast l = none) : ∀ y ∈ l, y.last = false := by
  induction l with
  | nil => simp
  | cons p l ih =>
    by_cases hp : p.last = true
    · rw [upToLast, if_pos hp] at h
      cases h
    · rw [upToLast, if_neg hp, Option.map_eq_none_iff] at h
      intro y hy
      obtain rfl | hy := List.mem_cons.mp hy
      · exact Bool.not_eq_true _ ▸ hp
      · exact ih h y hy

/-- Removing the first packets that a test selects. -/
theorem filter_dropFirst (t : Packet → Bool) (n : Nat) (l : List Packet) :
    (dropFirst t n l).filter t = (l.filter t).drop n ∧
      (dropFirst t n l).filter (fun x => !t x) = l.filter fun x => !t x := by
  induction l generalizing n with
  | nil => cases n <;> simp [dropFirst]
  | cons p l ih =>
    cases n with
    | zero => simp [dropFirst]
    | succ n =>
      rw [dropFirst]
      by_cases hp : t p = true
      · obtain ⟨h1, h2⟩ := ih n
        simp [hp, h1, h2]
      · obtain ⟨h1, h2⟩ := ih (n + 1)
        simp [hp, h1, h2]

/-- What a sender has at the front of the queue, when it is a whole message; of class RS a packet is one. -/
def frontOf (cls : Nat) (l : List Packet) : Option (List Packet) := if cls = clRs then some (l.take 1) else upToLast l

/-- The front of a list begins with its first packet. -/
theorem frontOf_cons {cls : Nat} {l : List Packet} {p : Packet} {r : List Packet} (h : frontOf cls l = some (p :: r)) :
    ∃ rest, l = p :: r ++ rest := by
  by_cases hc : cls = clRs
  · rw [frontOf, if_pos hc, Option.some.injEq] at h
    exact ⟨l.drop 1, by rw [← h, List.take_append_drop]⟩
  · rw [frontOf, if_neg hc] at h
    obtain ⟨-, -, rest, -, hl, -⟩ := upToLast_some h
    exact ⟨rest, hl⟩

/-- What stands before the first place of a value stands before any other place of it. -/
theorem mem_before_of_first {α : Type} {a b c d : List α} {x y : α} (h : a ++ x :: b = c ++ x :: d) (hx : x ∉ a) (hy : y ∈ a) : y ∈ c := by
  obtain ⟨e, rfl, -⟩ | ⟨e, rfl, he⟩ := List.append_eq_append_iff.mp h
  · exact List.mem_append_left _ hy
  · cases e with
    | nil => simpa using hy
    | cons z e =>
      obtain ⟨rfl, -⟩ := List.cons.inj he
      exact absurd (by simp) hx

/-- The message found is made of the packets of the first sender that has a whole one. -/
theorem oldestMsg_some {self cls : Nat} {q q' : List Packet} {m : Msg} (h : oldestMsg self cls q = some (m, q')) :
    ∃ p r pre post, let sel (x : Packet) := x.isFor self cls && x.src == p.src
      frontOf cls (q.filter sel) = some (p :: r) ∧ q = pre ++ p :: post ∧ sel p = true ∧ (∀ x ∈ pre, sel x = false) ∧
      m = ⟨p, (p :: r).flatMap (·.body), heldUnits (p :: r)⟩ ∧ q' = dropFirst sel (r.length + 1) q ∧
      ∀ x ∈ pre, x.isFor self cls = true → ∀ ps, frontOf cls (q.filter fun y => y.isFor self cls && y.src == x.src) = some ps → ps = [] := by
  obtain ⟨before, src, after, hsrcs, hfound, hbefore⟩ := List.findSome?_eq_some_iff.mp h
  have hnone : src ∉ before := fun hmem => by
    rw [hbefore src hmem] at hfound
    cases hfound
  have hfound' : (match frontOf cls (q.filter fun y => y.isFor self cls && y.src == src) with
      | some (p :: r) => some ((⟨p, (p :: r).flatMap (·.body), heldUnits (p :: r)⟩ : Msg),
          dropFirst (fun y => y.isFor self cls && y.src == src) (p :: r).length q)
      | _ => none) = some (m, q') := hfound
  have hbefore' : ∀ x ∈ before, (match frontOf cls (q.filter fun y => y.isFor self cls && y.src == x) with
      | some (p :: r) => some ((⟨p, (p :: r).flatMap (·.body), heldUnits (p :: r)⟩ : Msg),
          dropFirst (fun y => y.isFor self cls && y.src == x) (p :: r).length q)
      | _ => none) = none := hbefore
  cases hf : frontOf cls (q.filter fun y => y.isFor self cls && y.src == src) with
  | none => simp [hf] at hfound'
  | some ps =>
    cases ps with
    | nil => simp [hf] at hfound'
    | cons p r =>
      simp only [hf, Option.some.injEq, Prod.mk.injEq] at hfound'
      obtain ⟨rfl, rfl⟩ := hfound'
      obtain ⟨rest, hrest⟩ := frontOf_cons hf
      obtain ⟨pre, post, rfl, hpre, hp, -⟩ := List.filter_eq_cons_iff.mp hrest
      have hsrc : p.src = src := by simpa using (Bool.and_eq_true_iff.mp hp).2
      subst hsrc
      refine ⟨p, r, pre, post, hf, rfl, hp, fun x hx => by simpa using hpre x hx, rfl, rfl, fun x hx hx' ps hps => ?_⟩
      have hmap : ((pre ++ p :: post).filter (Packet.isFor self cls)).map (·.src) = before ++ p.src :: after := hsrcs
      rw [List.filter_append, List.filter_cons, if_pos (Bool.and_eq_true_iff.mp hp).1, List.map_append, List.map_cons] at hmap
      have hmem : x.src ∈ before := by
        refine mem_before_of_first hmap (fun hmem => ?_) (List.mem_map_of_mem (List.mem_filter.mpr ⟨hx, hx'⟩))
        obtain ⟨y, hy, hys⟩ := List.mem_map.mp hmem
        obtain ⟨hy, hyf⟩ := List.mem_filter.mp hy
        exact hpre y hy (by simp [hyf, hys])
      have hno := hbefore' _ hmem
      rw [hps] at hno
      cases ps with
      | nil => rfl
      | cons a b => simp at hno

/-- The packets of the message found stand at the head of the queue. -/
theorem messageAtHead_of_front {self cls : Nat} {p : Packet} {r pre post : List Packet}
    (hf : frontOf cls ((pre ++ p :: post).filter fun x => x.isFor self cls && x.src == p.src) = some (p :: r))
    (hp : p.isFor self cls = true) (hpre : ∀ x ∈ pre, (x.isFor self cls && x.src == p.src) = false)
    (hno : ∀ x ∈ pre, x.isFor self cls = true → ∀ ps,
      frontOf cls ((pre ++ p :: post).filter fun y => y.isFor self cls && y.src == x.src) = some ps → ps = []) :
    MessageAtHead cls self (pre ++ p :: post) (p :: r) := by
  obtain ⟨hcls, hdst⟩ := isFor_iff.mp hp
  refine ⟨p, r, pre, post, rfl, rfl, hcls, hdst, fun x hx hxc hxd => ?_, fun hc => ?_, fun hc => ?_⟩
  · have hmine := isFor_iff.mpr ⟨hxc, hxd⟩
    have hmem : x ∈ (pre ++ p :: post).filter fun y => y.isFor self cls && y.src == x.src :=
      List.mem_filter.mpr ⟨List.mem_append_left _ hx, by simp [hmine]⟩
    have hrs : cls ≠ clRs := fun hc => by
      have := hno x hx hmine _ (by rw [frontOf, if_pos hc])
      generalize (pre ++ p :: post).filter _ = l at this hmem
      cases l with
      | nil => cases hmem
      | cons => simp at this
    refine ⟨fun hs => by simpa [hmine, hs] using hpre x hx, hrs, fun y hy hyc hyd hys => ?_⟩
    have hnone : upToLast ((pre ++ p :: post).filter fun y => y.isFor self cls && y.src == x.src) = none := by
      refine Option.eq_none_iff_forall_ne_some.mpr fun ps hps => ?_
      have hnil := hno x hx hmine ps (by rw [frontOf, if_neg hrs, hps])
      obtain ⟨init, z, rest, hz, -⟩ := upToLast_some hps
      simp [hz] at hnil
    exact upToLast_none hnone y (List.mem_filter.mpr ⟨hy, by simp [isFor_iff.mpr ⟨hyc, hyd⟩, hys]⟩)
  · rw [frontOf, if_pos hc, Option.some.injEq] at hf
    have hlen := congrArg List.length hf
    rw [List.length_take, List.length_cons] at hlen
    exact List.eq_nil_of_length_eq_zero (by omega)
  · rw [frontOf, if_neg hc] at hf
    obtain ⟨init, z, rest, hps, -, hz, hi⟩ := upToLast_some hf
    exact ⟨init, z, hps, hz, hi⟩

/-! ### Taking a message -/

/-- A message of the receive queue of a link. -/
theorem takeInput_some {s t : State} {l cls kind : Nat} {m : Msg} (h : s.takeInput l cls kind = some (m, t)) :
    m.head.kind = kind ∧ ∃ q, oldestMsg s.devId cls (s.link l).rxq = some (m, q) ∧
      t = s.modLink l fun k => { k with rxq := q, owed := k.owed.modify cls (· + m.units) } := by
  rw [State.takeInput] at h
  cases ho : oldestMsg s.devId cls (s.link l).rxq with
  | none => simp [ho] at h
  | some x =>
    obtain ⟨n, q⟩ := x
    simp only [ho] at h
    split at h
    next hk =>
      simp only [Option.some.injEq, Prod.mk.injEq] at h
      obtain ⟨rfl, rfl⟩ := h
      exact ⟨hk, q, rfl, rfl⟩
    next => cases h

/-- What taking a message of the receive queue leaves. -/
theorem takeInput_takes {s t : State} {l cls kind : Nat} {m : Msg} (h : s.takeInput l cls kind = some (m, t)) :
    m.head.kind = kind ∧ (∀ q, q ≠ l → t.link q = s.link q) ∧ t.cores = s.cores ∧ t.dmem = s.dmem ∧ t.remotes = s.remotes ∧
      t.mgIn = s.mgIn ∧
      ∃ ps, MessageAtHead cls s.devId (s.link l).rxq ps ∧ ps.head? = some m.head ∧ m.body = ps.flatMap (·.body) ∧
        m.units = heldUnits ps ∧
        (let mine (x : Packet) : Bool := x.cls == cls && x.dst == s.devId && x.src == m.head.src
         (s.link l).rxq.filter mine = ps ++ (t.link l).rxq.filter mine ∧
         (s.link l).rxq.filter (fun x => !mine x) = (t.link l).rxq.filter (fun x => !mine x)) ∧
        (t.link l).owed = (s.link l).owed.modify cls (· + m.units) := by
  obtain ⟨hkind, q, ho, rfl⟩ := takeInput_some h
  refine ⟨hkind, fun q hq => State.link_setLink_ne _ _ _ hq, rfl, rfl, rfl, rfl, ?_⟩
  obtain ⟨p, r, pre, post, hf, hq, hp, hpre, rfl, rfl, hno⟩ := oldestMsg_some ho
  rw [State.modLink, State.link_setLink]
  generalize (s.link l).rxq = rxq at hf hq hno ho ⊢
  subst hq
  obtain ⟨hkeep, hothers⟩ := filter_dropFirst (fun x => x.isFor s.devId cls && x.src == p.src) (r.length + 1) (pre ++ p :: post)
  obtain ⟨rest, hrest⟩ := frontOf_cons hf
  refine ⟨p :: r, messageAtHead_of_front hf (Bool.and_eq_true_iff.mp hp).1 hpre hno, rfl, rfl, rfl, ⟨?_, hothers.symm⟩, rfl⟩
  show List.filter (fun x => x.isFor s.devId cls && x.src == p.src) _ = p :: r ++ List.filter (fun x => x.isFor s.devId cls && x.src == p.src) _
  rw [hkeep, hrest, List.drop_left' (by rfl)]

/-- Settles O43: a message comes from the receive queue, or an MG message from the device store. -/
theorem messageTaking : Obligations.MessageTaking := by
  unfold Obligations.MessageTaking
  refine ⟨fun s t l cls kind m h => ?_, fun s l cls kind h => by simp [State.takeMsg, h]⟩
  rw [State.takeMsg] at h
  cases hup : s.fnUp 3 (l / 18) with
  | false => simp [hup] at h
  | true =>
    refine ⟨rfl, ?_⟩
    rw [if_neg (by simp [hup])] at h
    by_cases hmg : cls = clMg ∧ kind ≠ 7
    · rw [if_pos hmg] at h
      cases hfind : s.mgIn.find? fun x => x.1 == l with
      | none =>
        rw [hfind] at h
        obtain ⟨h1, h2, h3, h4, h5, h6, ps, h7, h8, h9, h10, h11, h12⟩ := takeInput_takes h
        refine ⟨h1, h2, h3, h4, h5, .inl ⟨ps, h7, h8, h9, h10, h11, h12, h6, fun _ _ x hx => ?_⟩⟩
        simpa using List.find?_eq_none.mp hfind x hx
      | some x =>
        simp only [hfind] at h
        split at h
        next hk =>
          simp only [Option.some.injEq, Prod.mk.injEq] at h
          obtain ⟨rfl, rfl⟩ := h
          obtain ⟨hx, pre, post, hmem, hpre⟩ := List.find?_eq_some_iff_append.mp hfind
          have hxl : x.1 = l := by simpa using hx
          subst hxl
          have hpre' : ∀ y ∈ pre, y.1 ≠ x.1 := fun y hy => by simpa using hpre y hy
          have hnot : x ∉ pre := fun hm => hpre' x hm rfl
          refine ⟨hk, fun _ _ => rfl, rfl, rfl, rfl, .inr ⟨hmg.1, hmg.2, ⟨pre, post, hmem, hpre', ?_⟩, rfl, rfl⟩⟩
          show s.mgIn.erase x = _
          rw [hmem, List.erase_append_right _ hnot, List.erase_cons_head]
        next => cases h
    · rw [if_neg hmg] at h
      obtain ⟨h1, h2, h3, h4, h5, h6, ps, h7, h8, h9, h10, h11, h12⟩ := takeInput_takes h
      exact ⟨h1, h2, h3, h4, h5, .inl ⟨ps, h7, h8, h9, h10, h11, h12, h6, fun hc hk => absurd ⟨hc, hk⟩ hmg⟩⟩

end Sys2Proof.Machine
end


section
/-! PROOFS. Requests of cores: how one is issued, and what `SIFT` and `NUREQ` answer at issue or leave outstanding. -/

namespace Sys2Proof.Machine

variable {s t : State} {c : CoreIx} {r : Run} {i : Instr} {f : XFmt} {kind : ReqKind} {len : Nat} {q : LsuReq}

/-! ### Issue of a request -/

/-- A core that may issue a request carries out its body on the state in which the request is outstanding (R215). -/
theorem does_lsuIssue {op : Nat} {body : State → Run → LsuReq → Eff} (h : Asks s c.val r f kind len)
    (hx : exec i s = .next (lsuIssue op len kind c f s body)) (hi : coreWord i = some (c, f.word op))
    (hq : s.request c.val r f kind len = q) (hb : body (s.requested c.val q) r q = .ok t) : Does s i (.next t) := by
  rw [← hq] at hb
  obtain ⟨hr, ho, himm, hcount, hb32, hw8, hpb, hpw, hread, hheld, -⟩ := h
  unfold lsuIssue at hx
  refine does_of_ok hr hx hi (by simp [ho, himm]) ?_
  rw [if_neg (Nat.not_le.mpr hcount)]
  have hal : ¬ (((s.core c.val).sreg f.a.toNat).toNat % 32 ≠ 0 ∨ ((s.core c.val).sreg f.b.toNat).toNat % 8 ≠ 0) := by simp [hb32, hw8]
  have hin : ¬ (((!inPart r.express ((s.core c.val).sreg f.a.toNat).toNat len) ||
      !inPart r.express ((s.core c.val).sreg f.b.toNat).toNat 8) = true) := by simp [hpb, hpw]
  have hheld' : s.lsuHeld r.port kind ((s.core c.val).lsBytes ((s.core c.val).sreg f.a.toNat).toNat len) = false := hheld
  simp only [if_neg hal, if_neg hin, hread, hheld', eff_ok_bind, Bool.false_eq_true, if_false, adv_modCore rfl]
  exact hb

/-! ### The request as it stands -/

@[simp] theorem core_requested (s : State) (c : Nat) (q : LsuReq) : (s.requested c q).core c =
    Core.next { (s.core c).engPut q.resp (natLe 8 0) with lsu := (s.core c).lsu ++ [q], nextReq := (s.core c).nextReq + 1 } :=
  State.core_setCore ..

theorem run_requested {c : Nat} (h : Ready s c r) (q : LsuReq) : ((s.requested c q).core c).run = some r := by
  rw [core_requested]
  exact (engPut_run ..).trans (run_of_ready h)

/-- Rewriting the one request of a number. -/
theorem updWhere_append_new {l : List LsuReq} (hl : ∀ x ∈ l, x.id ≠ q.id) (q' : LsuReq) :
    updWhere (fun x => x.id == q.id) (fun _ => q') (l ++ [q]) = l ++ [q'] := by
  rw [updWhere, List.map_append, List.map_singleton, if_pos (by simp)]
  congr 1
  refine (List.map_congr_left fun x hx => if_neg ?_).trans (List.map_id _)
  simpa using hl x hx

/-- A request that is outstanding is replaced. -/
theorem modReq_requested {c : Nat} (hl : ∀ x ∈ (s.core c).lsu, x.id ≠ q.id) {q' : LsuReq} (hq : q'.resp = q.resp) :
    ((s.requested c q).modReq c q.id fun _ => q') = s.requested c q' := by
  have hk : s.requested c q' = s.setCore c
      (Core.next { (s.core c).engPut q.resp (natLe 8 0) with lsu := (s.core c).lsu ++ [q'], nextReq := (s.core c).nextReq + 1 }) := by
    rw [← hq]
  rw [hk, ← updWhere_append_new hl q', State.modReq, State.modCore, core_requested, State.requested, State.onCore, setCore_setCore]
  rfl

theorem reqOf_requested {c : Nat} (hl : ∀ x ∈ (s.core c).lsu, x.id ≠ q.id) : (s.requested c q).reqOf c q.id = some q := by
  rw [State.reqOf, core_requested]
  show ((s.core c).lsu ++ [q]).find? _ = _
  rw [List.find?_append, List.find?_eq_none.mpr (by simpa using hl)]
  simp

theorem readNat_resp_requested (s : State) (c : Nat) (q : LsuReq) : ((s.requested c q).core c).ls.readNat q.resp 8 = 0 := by
  rw [core_requested]
  show (Core.engPut _ _ _).ls.readNat _ _ = _
  rw [engPut_ls, Memory.readNat]
  have := Memory.readBytes_writeBytes_in (natLe 8 0) (s.core c).ls q.resp 8 0 (by simp)
  rw [Nat.add_zero] at this
  rw [this]
  decide

theorem regs_requested (s : State) (c : Nat) (q : LsuReq) :
    ((s.requested c q).core c).regs = { (s.core c).regs with pc := (s.core c).regs.pc + 8 } := by
  rw [core_requested, ← engPut_regs (s.core c) q.resp (natLe 8 0)]
  rfl

/-! ### Requests that are effect operations -/

/-- The first effect operations of an item are recorded with their status. -/
theorem effectOp_of_run {c : Nat} (hr : (s.core c).run = some r) (hs : r.suppress = []) (n : Nat) :
    s.effectOp c n = (none, s.onCore c fun k => { k with run := some { r with effects := r.effects ++ [n] } }) := by
  have hnone : r.suppress[r.effects.length]? = none := by rw [hs]; rfl
  simp only [State.effectOp, hr, hnone, State.modRun, State.modCore, Option.map_some]

/-- The state in which a request is outstanding as the next effect operation of its item. -/
abbrev State.requestedEffect (s : State) (c : Nat) (r : Run) (q : LsuReq) : State :=
  (s.requested c { q with effect := some r.effects.length }).onCore c fun k => { k with run := some { r with effects := r.effects ++ [0] } }

/-- A request that writes is marked as an effect operation of its item (R283). -/
theorem asEffect_requested {c : Nat} (h : Ready s c r) (hs : r.suppress = []) (hl : ∀ x ∈ (s.core c).lsu, x.id ≠ q.id) :
    (s.requested c q).asEffect c r q = (s.requestedEffect c r q, some { q with effect := some r.effects.length }) := by
  rw [State.asEffect, effectOp_of_run (run_requested h q) hs]
  have hswap (q' : LsuReq) : (((s.requested c q).onCore c fun k => { k with run := some { r with effects := r.effects ++ [0] } }).modReq c q.id fun _ => q') =
      ((s.requested c q).modReq c q.id fun _ => q').onCore c fun k => { k with run := some { r with effects := r.effects ++ [0] } } := by
    simp only [State.modReq, State.modCore, State.onCore, State.core_setCore, setCore_setCore]
  simp only [hswap]
  rw [modReq_requested (q' := { q with effect := some r.effects.length }) hl rfl]

theorem reqOf_onCore_run (s : State) (c n : Nat) (x : Option Run) :
    (s.onCore c fun k => { k with run := x }).reqOf c n = s.reqOf c n := by
  simp only [State.reqOf, State.onCore, State.core_setCore]

/-- What is left when a request is outstanding, an effect operation where it writes. -/
theorem outstanding_leaves {c : Nat} (h : Ready s c r) (hl : ∀ x ∈ (s.core c).lsu, x.id ≠ q.id) (hq : q.effect = none) (w : Bool)
    {u : State} (hu : u = if w then s.requestedEffect c r q else s.requested c q) :
    u = { s with cores := u.cores } ∧ u.reqOf c q.id = some { q with effect := if w then some r.effects.length else none } ∧
      (u.core c).ls.readNat q.resp 8 = 0 ∧ (u.core c).regs = { (s.core c).regs with pc := (s.core c).regs.pc + 8 } ∧
      (u.core c).run = some { r with effects := if w then r.effects ++ [0] else r.effects } := by
  subst hu
  cases w with
  | false =>
    simp only [Bool.false_eq_true, if_false]
    refine ⟨rfl, ?_, readNat_resp_requested .., regs_requested .., run_requested h q⟩
    rw [reqOf_requested hl, ← hq]
  | true =>
    simp only [if_true]
    refine ⟨rfl, ?_, ?_, ?_, ?_⟩
    · rw [reqOf_onCore_run]
      exact reqOf_requested (q := { q with effect := some r.effects.length }) hl
    · rw [State.core_setCore]
      exact readNat_resp_requested s c { q with effect := some r.effects.length }
    · rw [State.core_setCore]
      exact regs_requested s c { q with effect := some r.effects.length }
    · rw [State.core_setCore]

end Sys2Proof.Machine
end


section
/-! PROOFS. `SIFT` and `NUREQ`: the checks at issue. -/

namespace Sys2Proof.Machine

variable {s t : State} {c : CoreIx} {r : Run} {f : XFmt} {q : LsuReq}

/-! ### `SIFT` -/

theorem requested_tableAccess (c : Nat) (p id : Nat) (w : Bool) : (s.requested c q).tableAccess p id w = s.tableAccess p id w := rfl
theorem requested_tableOf (c : Nat) (id : Nat) : (s.requested c q).tableOf id = s.tableOf id := rfl
theorem requested_versionFor (c : Nat) (id : ItemId) (t : Table) : (s.requested c q).versionFor id t = s.versionFor id t := rfl
theorem requested_graphAccess (c : Nat) (p id : Nat) (w : Bool) : (s.requested c q).graphAccess p id w = s.graphAccess p id w := rfl

/-- What a core keeps of a request that is outstanding. -/
theorem issued_leaves {kind : ReqKind} {len : Nat} (h : Asks s c.val r f kind len) {q q' : LsuReq} (hq : s.request c.val r f kind len = q)
    (hid : q'.id = q.id) (hresp : q'.resp = q.resp) (heff : q'.effect = none) (w : Bool) {u : State}
    (hu : u = if w then s.requestedEffect c.val r q' else s.requested c.val q') :
    u = { s with cores := u.cores } ∧ u.reqOf c.val q.id = some { q' with effect := if w then some r.effects.length else none } ∧
      (u.core c.val).ls.readNat q.resp 8 = 0 ∧ (u.core c.val).regs = { (s.core c.val).regs with pc := (s.core c.val).regs.pc + 8 } ∧
      (u.core c.val).run = some { r with effects := if w then r.effects ++ [0] else r.effects } := by
  obtain ⟨hready, -, -, -, -, -, -, -, -, -, hnew⟩ := h
  rw [← hid, ← hresp]
  refine outstanding_leaves hready ?_ heff w hu
  rw [hid, ← hq]
  exact hnew

section sift
variable (h : Asks s c.val r f .sift 64) (hq : s.request c.val r f .sift 64 = q)
include h hq

theorem does_sift_bad (hb : siftBad q.block = true) :
    Does s (.sift c f) (.next ((s.requested c.val q).respond c.val q rsBadDescriptor 0)) := by
  have hx : exec (.sift c f) s = .next (siftInsn c f s) := rfl
  unfold siftInsn at hx
  refine does_lsuIssue h hx rfl hq ?_
  exact if_pos hb

theorem does_sift_refused (hb : siftBad q.block = false) {b : SiftBlk} (hblk : SiftBlk.parse q.block = b)
    (ha : s.tableAccess r.port b.table b.writes ≠ 0) :
    Does s (.sift c f) (.next ((s.requested c.val q).respond c.val q (s.tableAccess r.port b.table b.writes) 0)) := by
  have hx : exec (.sift c f) s = .next (siftInsn c f s) := rfl
  unfold siftInsn at hx
  refine does_lsuIssue h hx rfl hq ?_
  simp only [hb, hblk, Bool.false_eq_true, if_false, requested_tableAccess, requested_tableOf]
  cases ht : s.tableOf b.table with
  | none => simp only [if_neg ha]; rfl
  | some t =>
    generalize s.tableAccess r.port b.table b.writes = n at ha ⊢
    cases n with
    | zero => exact absurd rfl ha
    | succ n => rfl

section
variable (hb : siftBad q.block = false) {b : SiftBlk} (hblk : SiftBlk.parse q.block = b)
  (ha : s.tableAccess r.port b.table b.writes = 0) {t : Table} (ht : s.tableOf b.table = some t)
include hb hblk ha ht

theorem does_sift_no_optimiser (hop : b.op = 4 ∨ b.op = 5) (hopt : t.opt = 0) :
    Does s (.sift c f) (.next ((s.requested c.val q).respond c.val q rsBadDescriptor 0)) := by
  have hx : exec (.sift c f) s = .next (siftInsn c f s) := rfl
  unfold siftInsn at hx
  refine does_lsuIssue h hx rfl hq ?_
  simp only [hb, hblk, Bool.false_eq_true, if_false, requested_tableAccess, requested_tableOf, ht, ha]
  rw [if_pos ⟨hop, hopt⟩]
  rfl

variable (hopt : b.op = 4 ∨ b.op = 5 → t.opt ≠ 0) {k : Core} (hk : (s.requested c.val q).core c.val = k)
  (hbags : b.bags = true → inPart r.express b.offAddr (4 * (b.count + 1)) = true ∧ engRead k b.offAddr (4 * (b.count + 1)) enLsu = .ok ())
include hopt hk hbags

/-- The lists of a request do not hold together (R77). -/
def siftListBad (k : Core) (b : SiftBlk) : Prop :=
  b.op ≠ 5 ∧ ((k.siftOffsets b).headD 0 ≠ 0 ∨ (!offsetsOk (k.siftOffsets b)) = true ∨
    b.op = 4 ∧ 0 < (k.siftOffsets b).getLastD 0 ∧ 2 ^ b.depth ≤ b.gradBase + (k.siftOffsets b).getLastD 0 - 1)

theorem does_sift_bad_list (hl : siftListBad k b) :
    Does s (.sift c f) (.next ((s.requested c.val q).respond c.val q rsBadDescriptor 0)) := by
  have hx : exec (.sift c f) s = .next (siftInsn c f s) := rfl
  unfold siftInsn at hx
  refine does_lsuIssue h hx rfl hq ?_
  have hno : ¬ ((b.op = 4 ∨ b.op = 5) ∧ t.opt = 0) := fun ⟨h1, h2⟩ => hopt h1 h2
  simp only [hb, hblk, Bool.false_eq_true, if_false, requested_tableAccess, requested_tableOf, ht, ha, if_neg hno, hk]
  by_cases hbag : b.bags = true
  · obtain ⟨hp, hr⟩ := hbags hbag
    simp only [hbag, if_true, hp, Bool.not_true, Bool.false_eq_true, if_false, hr, eff_ok_bind]
    exact if_pos hl
  · simp only [hbag, Bool.false_eq_true, if_false]
    exact if_pos hl

theorem does_sift (hl : ¬ siftListBad k b)
    (hreads : b.op ≠ 5 → ∀ x ∈ siftReads k b t.len, x.2 ≠ 0 → inPart r.express x.1 x.2 = true ∧ engRead k x.1 x.2 enLsu = .ok ())
    (hout : b.lookup = true → inPart r.express b.outAddr (b.count * b.outStride t) = true)
    (hsup : r.suppress = []) {q' : LsuReq} (hq' : { q with version := if b.lookup then s.versionFor r.item t else t.active } = q') :
    Does s (.sift c f) (.next (if b.writes then s.requestedEffect c.val r q' else s.requested c.val q')) := by
  have hx : exec (.sift c f) s = .next (siftInsn c f s) := rfl
  unfold siftInsn at hx
  refine does_lsuIssue h hx rfl hq ?_
  have hno : ¬ ((b.op = 4 ∨ b.op = 5) ∧ t.opt = 0) := fun ⟨h1, h2⟩ => hopt h1 h2
  obtain ⟨hready, -, -, -, -, -, -, -, -, -, hnew⟩ := h
  have hitem : q.item = r.item := by rw [← hq]
  have hid : q.id = (s.core c.val).nextReq := by rw [← hq]
  have hid' : q'.id = q.id := by rw [← hq']
  have hresp : q'.resp = q.resp := by rw [← hq']
  have hnewq : ∀ x ∈ (s.core c.val).lsu, x.id ≠ q.id := by rwa [hid]
  have hmod : ((s.requested c.val q).modReq c.val q.id fun _ => q') = s.requested c.val q' := modReq_requested hnewq hresp
  have heff : (s.requested c.val q').asEffect c.val r q' = _ := asEffect_requested hready hsup (by rwa [hid'])
  have hout' : ¬ (b.lookup && !inPart r.express b.outAddr (b.count * b.outStride t)) = true := by
    simpa using hout
  generalize hrd : (if b.op = 5 then [] else siftReads k b t.len) = rd
  have hrange : ∀ x ∈ rd, x.2 ≠ 0 → inPart r.express x.1 x.2 = true ∧ engRead k x.1 x.2 enLsu = .ok () := by
    by_cases h5 : b.op = 5
    · rw [← hrd, if_pos h5]
      simp
    · rw [← hrd, if_neg h5]
      exact hreads h5
  have hall : ¬ (!rd.all fun x => x.2 == 0 || inPart r.express x.1 x.2) = true := by
    have : rd.all (fun x => x.2 == 0 || inPart r.express x.1 x.2) = true := List.all_eq_true.mpr fun x hx => by
      by_cases h0 : x.2 = 0
      · simp [h0]
      · simp [(hrange x hx h0).1]
    simp [this]
  have hfor : (rd.forM fun x => if x.2 = 0 then pure () else engRead k x.1 x.2 enLsu) = .ok () := eff_forM_ok fun x hx => by
    by_cases h0 : x.2 = 0
    · rw [if_pos h0]
      rfl
    · rw [if_neg h0]
      exact (hrange x hx h0).2
  have hl' : ¬ (b.op ≠ 5 ∧ ((k.siftOffsets b).headD 0 ≠ 0 ∨ (!offsetsOk (k.siftOffsets b)) = true ∨
    b.op = 4 ∧ 0 < (k.siftOffsets b).getLastD 0 ∧ 2 ^ b.depth ≤ b.gradBase + (k.siftOffsets b).getLastD 0 - 1)) := hl
  have hver : { q with version := if b.lookup then s.versionFor q.item t else t.active } = q' := by rw [← hq', ← hitem]
  have hfin : (if b.writes = true then pure (s.requestedEffect c.val r q') else pure (s.requested c.val q') : Eff) =
      .ok (if b.writes then s.requestedEffect c.val r q' else s.requested c.val q') := by
    cases b.writes <;> rfl
  simp only [hb, hblk, Bool.false_eq_true, if_false, requested_tableAccess, requested_tableOf, ht, ha, if_neg hno, hk, if_neg hl', hrd,
    if_neg hall, if_neg hout', hfor, eff_ok_bind, requested_versionFor, hver, hmod, heff, hfin]
  by_cases hbag : b.bags = true
  · obtain ⟨hp, hr⟩ := hbags hbag
    simp only [hbag, if_true, hp, Bool.not_true, Bool.false_eq_true, if_false, hr, eff_ok_bind]
  · rw [if_neg hbag]

theorem sift_outstanding (hl : ¬ siftListBad k b)
    (hreads : b.op ≠ 5 → ∀ x ∈ siftReads k b t.len, x.2 ≠ 0 → inPart r.express x.1 x.2 = true ∧ engRead k x.1 x.2 enLsu = .ok ())
    (hout : b.lookup = true → inPart r.express b.outAddr (b.count * b.outStride t) = true)
    (hsup : r.suppress = []) (hf : Fetches s (.sift c f)) :
    ∃ u, exec (.sift c f) s = .next u ∧ u = { s with cores := u.cores } ∧
      u.reqOf c.val q.id = some { q with
        version := if b.lookup then s.versionFor r.item t else t.active, effect := if b.writes then some r.effects.length else none } ∧
      (u.core c.val).ls.readNat q.resp 8 = 0 ∧ (u.core c.val).regs = { (s.core c.val).regs with pc := (s.core c.val).regs.pc + 8 } ∧
      (u.core c.val).run = some { r with effects := if b.writes then r.effects ++ [0] else r.effects } :=
  ⟨_, does_sift h hq hb hblk ha ht hopt hk hbags hl hreads hout hsup rfl hf,
    issued_leaves h hq (q' := { q with version := if b.lookup then s.versionFor r.item t else t.active }) rfl rfl (by rw [← hq]) b.writes rfl⟩

end
end sift

/-! ### `NUREQ` -/

/-- An entry of the input list has a reserved bit set (R114). -/
def nuEntryBad (k : Core) (b : NuBlk) (i : Nat) : Bool :=
  fieldAt (k.lsBytes (b.inAddr + b.inSize * i) b.inSize) 5 3 ≠ 0 ||
    (b.op == opVertexWrite && !zeroRange (k.lsBytes (b.inAddr + 32 * i) 32) 24 8)

theorem nuEntryBad_iff {k : Core} {b : NuBlk} {i : Nat} : nuEntryBad k b i = true ↔
    fieldAt (k.ls.readBytes (b.inAddr + b.inSize * i) b.inSize) 5 3 ≠ 0 ∨
      (b.op == opVertexWrite) = true ∧ zeroRange (k.ls.readBytes (b.inAddr + 32 * i) 32) 24 8 = false := by
  simp only [nuEntryBad, Core.lsBytes, Bool.or_eq_true, Bool.and_eq_true, Bool.not_eq_true']
  exact or_congr_left decide_eq_true_iff

section nu
variable (h : Asks s c.val r f .nu 64) (hq : s.request c.val r f .nu 64 = q)
include h hq

theorem does_nureq_bad (hb : nuBad q.block = true) :
    Does s (.nureq c f) (.next ((s.requested c.val q).respond c.val q rsBadDescriptor 0)) := by
  have hx : exec (.nureq c f) s = .next (nureqInsn c f s) := rfl
  unfold nureqInsn at hx
  refine does_lsuIssue h hx rfl hq ?_
  exact if_pos hb

section
variable (hb : nuBad q.block = false) {b : NuBlk} (hblk : NuBlk.parse q.block = b)
include hb hblk

theorem does_nureq_refused (ha : s.graphAccess r.port b.graph (b.op == opVertexWrite) ≠ 0) :
    Does s (.nureq c f) (.next ((s.requested c.val q).respond c.val q (s.graphAccess r.port b.graph (b.op == opVertexWrite)) 0)) := by
  have hx : exec (.nureq c f) s = .next (nureqInsn c f s) := rfl
  unfold nureqInsn at hx
  refine does_lsuIssue h hx rfl hq ?_
  simp only [hb, hblk, Bool.false_eq_true, if_false, requested_graphAccess]
  exact if_pos ha

variable (ha : s.graphAccess r.port b.graph (b.op == opVertexWrite) = 0)
include ha

theorem does_nureq_no_table (hop : b.op = opAggregate) (ht : s.tableAccess r.port b.table false ≠ 0) :
    Does s (.nureq c f) (.next ((s.requested c.val q).respond c.val q (s.tableAccess r.port b.table false) 0)) := by
  have hx : exec (.nureq c f) s = .next (nureqInsn c f s) := rfl
  unfold nureqInsn at hx
  refine does_lsuIssue h hx rfl hq ?_
  simp only [hb, hblk, Bool.false_eq_true, if_false, requested_graphAccess, requested_tableAccess, ha, ne_eq, not_true, if_pos hop]
  exact if_pos ht

variable (ht : b.op = opAggregate → s.tableAccess r.port b.table false = 0) {t : Option Table}
  (htab : (if b.op = opAggregate then s.tableOf b.table else none) = t) {k : Core} (hk : (s.requested c.val q).core c.val = k)
  (hin : inPart r.express b.inAddr (b.inSize * b.count) = true)
  (hout : 0 < b.outBytes t → inPart r.express b.outAddr (b.outBytes t) = true)
  (hread : engRead k b.inAddr (b.inSize * b.count) enLsu = .ok ())
include ht htab hk hin hout hread

theorem does_nureq_bad_entry (he : (List.range b.count).any (nuEntryBad k b) = true) :
    Does s (.nureq c f) (.next ((s.requested c.val q).respond c.val q rsBadDescriptor 0)) := by
  have hx : exec (.nureq c f) s = .next (nureqInsn c f s) := rfl
  unfold nureqInsn at hx
  refine does_lsuIssue h hx rfl hq ?_
  have hacc : (if b.op = opAggregate then s.tableAccess r.port b.table false else 0) = 0 := by
    by_cases hop : b.op = opAggregate
    · rw [if_pos hop, ht hop]
    · rw [if_neg hop]
  have hin' : ¬ (!inPart r.express b.inAddr (b.inSize * b.count)) = true := by simp [hin]
  have hout' : ¬ (decide (0 < b.outBytes t) && !inPart r.express b.outAddr (b.outBytes t)) = true := by simpa using hout
  simp only [hb, hblk, Bool.false_eq_true, if_false, requested_graphAccess, requested_tableAccess, requested_tableOf, ha, hacc, ne_eq, not_true,
    htab, if_neg hin', if_neg hout', hk, hread, eff_ok_bind]
  exact if_pos he

theorem does_nureq (he : (List.range b.count).any (nuEntryBad k b) = false) (hsup : r.suppress = []) {q' : LsuReq}
    (hq' : { q with version := (t.map fun t => s.versionFor r.item t).getD false, split := 2 ^ fld (s.preg r.port 0x2020) 0 5,
                    spread := fld (s.preg r.port 0x2020) 8 2 } = q') :
    Does s (.nureq c f) (.next (if b.op == opVertexWrite then s.requestedEffect c.val r q' else s.requested c.val q')) := by
  have hx : exec (.nureq c f) s = .next (nureqInsn c f s) := rfl
  unfold nureqInsn at hx
  refine does_lsuIssue h hx rfl hq ?_
  obtain ⟨hready, -, -, -, -, -, -, -, -, -, hnew⟩ := h
  have hitem : q.item = r.item := by rw [← hq]
  have hid : q.id = (s.core c.val).nextReq := by rw [← hq]
  have hid' : q'.id = q.id := by rw [← hq']
  have hresp : q'.resp = q.resp := by rw [← hq']
  have hnewq : ∀ x ∈ (s.core c.val).lsu, x.id ≠ q.id := by rwa [hid]
  have hmod : ((s.requested c.val q).modReq c.val q.id fun _ => q') = s.requested c.val q' := modReq_requested hnewq hresp
  have heff : (s.requested c.val q').asEffect c.val r q' = _ := asEffect_requested hready hsup (by rwa [hid'])
  have hacc : (if b.op = opAggregate then s.tableAccess r.port b.table false else 0) = 0 := by
    by_cases hop : b.op = opAggregate
    · rw [if_pos hop, ht hop]
    · rw [if_neg hop]
  have hin' : ¬ (!inPart r.express b.inAddr (b.inSize * b.count)) = true := by simp [hin]
  have hout' : ¬ (decide (0 < b.outBytes t) && !inPart r.express b.outAddr (b.outBytes t)) = true := by simpa using hout
  have he' : ((List.range b.count).any fun i =>
      decide (fieldAt (k.lsBytes (b.inAddr + b.inSize * i) b.inSize) 5 3 ≠ 0) ||
        (b.op == opVertexWrite && !zeroRange (k.lsBytes (b.inAddr + 32 * i) 32) 24 8)) = false := he
  have hver : { q with version := (t.map fun t => (s.requested c.val q).versionFor q.item t).getD false
                       split := 2 ^ fld ((s.requested c.val q).preg r.port 0x2020) 0 5
                       spread := fld ((s.requested c.val q).preg r.port 0x2020) 8 2 } = q' := by
    rw [← hq', ← hitem]
    rfl
  have hfin : (if b.op = opVertexWrite then pure (s.requestedEffect c.val r q') else pure (s.requested c.val q') : Eff) =
      .ok (if b.op == opVertexWrite then s.requestedEffect c.val r q' else s.requested c.val q') := by
    by_cases hw : b.op = opVertexWrite <;> simp [hw] <;> rfl
  simp only [hb, hblk, Bool.false_eq_true, if_false, requested_graphAccess, requested_tableAccess, requested_tableOf, ha, hacc, ne_eq, not_true,
    htab, if_neg hin', if_neg hout', hk, hread, eff_ok_bind]
  simp only [ne_eq] at he'
  simp only [he', Bool.false_eq_true, if_false, hver, hmod, heff, hfin]

theorem nureq_outstanding (he : (List.range b.count).any (nuEntryBad k b) = false) (hsup : r.suppress = [])
    (hf : Fetches s (.nureq c f)) :
    ∃ u, exec (.nureq c f) s = .next u ∧ u = { s with cores := u.cores } ∧
      u.reqOf c.val q.id = some { q with
        version := (t.map fun t => s.versionFor r.item t).getD false, split := 2 ^ (s.preg r.port 0x2020 % 32),
        spread := s.preg r.port 0x2020 / 256 % 4, effect := if b.op == opVertexWrite then some r.effects.length else none } ∧
      (u.core c.val).ls.readNat q.resp 8 = 0 ∧ (u.core c.val).regs = { (s.core c.val).regs with pc := (s.core c.val).regs.pc + 8 } ∧
      (u.core c.val).run = some { r with effects := if b.op == opVertexWrite then r.effects ++ [0] else r.effects } := by
  have hsplit : 2 ^ (s.preg r.port 0x2020 % 32) = 2 ^ fld (s.preg r.port 0x2020) 0 5 := rfl
  have hspread : s.preg r.port 0x2020 / 256 % 4 = fld (s.preg r.port 0x2020) 8 2 := by
    rw [fld_eq_div]
    rfl
  rw [hsplit, hspread]
  exact ⟨_, does_nureq h hq hb hblk ha ht htab hk hin hout hread he hsup rfl hf,
    issued_leaves h hq (q' := { q with version := (t.map fun t => s.versionFor r.item t).getD false
                                       split := 2 ^ fld (s.preg r.port 0x2020) 0 5
                                       spread := fld (s.preg r.port 0x2020) 8 2 }) rfl rfl (by rw [← hq]) _ rfl⟩

end
end nu

/-- Settles O22: an answer at issue, or a request that is outstanding. -/
theorem requestIssue : Obligations.RequestIssue := by
  unfold Obligations.RequestIssue
  refine ⟨fun c f s r h hsup => ⟨does_sift_bad h rfl, fun hb ha => does_sift_refused h rfl hb rfl ha, fun hb ha t ht =>
      ⟨fun hop hopt => does_sift_no_optimiser h rfl hb rfl ha ht hop hopt, fun hopt hbags => ⟨fun hl => ?_, fun hl hreads hout hf => ?_⟩⟩⟩,
    fun c f s r h hsup => ⟨does_nureq_bad h rfl, fun hb ha => does_nureq_refused h rfl hb rfl ha, fun hb ha =>
      ⟨fun hop ht => does_nureq_no_table h rfl hb rfl ha hop ht, fun ht hin hout hread => ⟨fun he => ?_, fun he hf => ?_⟩⟩⟩⟩
  · refine does_sift_bad_list h rfl hb rfl ha ht hopt rfl hbags ?_
    simpa only [siftListBad, Bool.not_eq_true'] using hl
  · refine sift_outstanding h rfl hb rfl ha ht hopt rfl hbags ?_ hreads hout hsup hf
    simpa only [siftListBad, Bool.not_eq_true'] using hl
  · refine does_nureq_bad_entry h rfl hb rfl ha ht rfl rfl hin hout hread ?_
    obtain ⟨i, hi, hbad⟩ := he
    exact List.any_eq_true.mpr ⟨i, List.mem_range.mpr hi, nuEntryBad_iff.mpr hbad⟩
  · refine nureq_outstanding h rfl hb rfl ha ht rfl rfl hin hout hread (List.any_eq_false.mpr fun i hi => ?_) hsup hf
    exact fun hbad => he i (List.mem_range.mp hi) (nuEntryBad_iff.mp hbad)

end Sys2Proof.Machine
end


section
/-! PROOFS. Machine checks of items. -/

namespace Sys2Proof.Machine

/-- The state of `releasableS` with the `Inst` of the running item. -/
def releasableCheckedS : State := { releasableS with insts := (Tests.mcS 0).insts }

/-- The log entry of the machine check raises the error vector; its message goes out behind the write, nothing is
outstanding any more, and the run ends. -/
theorem machineCheck_releasableCheckedS :
    ((releasableCheckedS.consumePoison 3 5 (releasableCheckedS.core 3).fetched 0).core 3).run = none := by decide +kernel

/-- Refutes O31: an operation that is outstanding before the machine check need not be so after it has been logged. In
`releasableCheckedS` the message of the error vector lets the item's last `HST` write out, so the run does not drain but has
ended. -/
theorem not_machineCheckResults : ¬ Obligations.MachineCheckResults := by
  unfold Obligations.MachineCheckResults
  intro h
  have hi : releasableCheckedS.issuing 3 = some Tests.rn := by decide +kernel
  have hx : (releasableCheckedS.itemOf Tests.rn.item).map (·.checked) = some 0 := by decide +kernel
  obtain ⟨x, hx, hchecked⟩ := Option.map_eq_some_iff.mp hx
  obtain ⟨hfirst, -⟩ := (h 3 5 releasableCheckedS).2 Tests.rn x hi hx (by decide +kernel) (by decide +kernel)
  obtain ⟨t, ht, hcore, -⟩ := (hfirst hchecked (by decide)).1 0
  have hexec : exec (.machineCheck 3 5 (some 0)) releasableCheckedS =
      .next (releasableCheckedS.consumePoison 3 5 (releasableCheckedS.core 3).fetched 0) := by
    show Host.Outcome.next (machineCheck 3 5 (some 0) releasableCheckedS) = _
    rw [machineCheck, show releasableCheckedS.issuing (3 : CoreIx).val = some Tests.rn from hi]
    rfl
  rw [hexec] at ht
  injection ht with ht
  rw [← ht] at hcore
  have hrun := machineCheck_releasableCheckedS.symm.trans (congrArg Core.run hcore)
  cases hrun

end Sys2Proof.Machine
end


section
/-! PROOFS. `PASS` and the arrival of its Crumbs. -/

namespace Sys2Proof.Machine

variable {s : State} {c : CoreIx} {r : Run} {f : XFmt} {k : Core}

/-! ### `PASS` -/

/-- What a `PASS` sends: its block as it stands, and the flag that follows it (R157). -/
def passOf (k : Core) (src dst n flagAt b : Nat) (v : Word) : Pass :=
  { dst := dst, crumbs := (List.range n).map fun i => k.ls.readBytes (src + 32 * i) 32,
    flag := if b / 256 % 2 = 1 then some (flagAt, v) else none }

/-- The cores that a `PASS` reaches (R26, R157). -/
def passDests (s : State) (c : Nat) (r : Run) (lo hi : Nat) : List Nat :=
  (rangeFrom (c / 16 * 16 + lo) (hi - lo + 1)).filter fun i => i != c && s.corePort r.cls i == r.port

theorem mem_passDests {c lo hi d : Nat} (h : lo ≤ hi) : d ∈ passDests s c r lo hi ↔
    (c / 16 * 16 + lo ≤ d ∧ d ≤ c / 16 * 16 + hi) ∧ d ≠ c ∧ s.corePort r.cls d = r.port := by
  have hrange : d ∈ rangeFrom (c / 16 * 16 + lo) (hi - lo + 1) ↔ c / 16 * 16 + lo ≤ d ∧ d ≤ c / 16 * 16 + hi := by
    rw [rangeFrom, List.mem_map]
    constructor
    · rintro ⟨i, hi, rfl⟩
      have := List.mem_range.mp hi
      omega
    · exact fun h => ⟨d - (c / 16 * 16 + lo), List.mem_range.mpr (by omega), by omega⟩
  rw [passDests, List.mem_filter, hrange]
  simp

theorem passDests_nodup (s : State) (c : Nat) (r : Run) (lo hi : Nat) : (passDests s c r lo hi).Nodup :=
  (List.nodup_range.map (add_right_injective _)).filter _

/-- Updating each core of a list once. -/
theorem core_foldl_modCore {l : List Nat} (hl : l.Nodup) (g : Core → Core) (s : State) (d : Nat) :
    (l.foldl (fun s i => s.modCore i g) s).core d = if d ∈ l then g (s.core d) else s.core d := by
  induction l generalizing s with
  | nil => simp
  | cons i l ih =>
    obtain ⟨hi, hl⟩ := List.nodup_cons.mp hl
    rw [List.foldl_cons, ih hl]
    by_cases hd : d = i
    · subst hd
      rw [if_neg hi, if_pos (List.mem_cons_self ..), State.modCore, State.core_setCore]
    · rw [State.modCore, State.core_setCore_ne _ _ _ hd]
      simp [hd]

theorem cores_foldl_modCore (l : List Nat) (g : Core → Core) (s : State) :
    (l.foldl (fun s i => s.modCore i g) s) = { s with cores := (l.foldl (fun s i => s.modCore i g) s).cores } := by
  induction l generalizing s with
  | nil => rfl
  | cons i l ih => exact ih _

theorem does_pass (h : Ready s c.val r) (ho : f.ok false true true true false = true) (himm : f.imm = 0) (hl : s.lsuCount c.val < 64)
    (hk : s.core c.val = k) {a b src dst n lo hi flagAt : Nat} (ha : (k.sreg f.a.toNat).toNat = a) (hb : (k.sreg f.b.toNat).toNat = b)
    (hsrc : fld a 0 22 = src) (hdst : fld a 22 22 = dst) (hn : fld a 44 15 + 1 = n) (hlo : fld b 0 4 = lo) (hhi : fld b 4 4 = hi)
    (hflag : fld b 32 22 = flagAt) (hle : lo ≤ hi) (hs32 : src % 32 = 0) (hd32 : dst % 32 = 0)
    (hps : inPart r.express src (32 * n) = true) (hpd : inPart r.express dst (32 * n) = true)
    (hpf : b / 256 % 2 = 1 → flagAt % 8 = 0 ∧ inPart r.express flagAt 8 = true) (hread : engRead k src (32 * n) enLsu = .ok ()) :
    Does s (.pass c f) (.next (((passDests s c.val r lo hi).foldl (fun s i => s.modCore i fun k' =>
      { k' with passes := k'.passes ++ [passOf k src dst n flagAt b (k.sreg f.c.toNat)] }) s).adv c.val)) := by
  have hx : exec (.pass c f) s = .next (passInsn c f s) := rfl
  unfold passInsn at hx
  refine does_of_ok h hx rfl (by simp [ho, himm]) ?_
  have hbit : bitAt b 8 = decide (b / 256 % 2 = 1) := by
    rw [bitAt, Nat.shiftRight_eq_div_pow]
    rfl
  have halign : ¬ (src % 32 ≠ 0 ∨ dst % 32 ≠ 0 ∨ bitAt b 8 = true ∧ flagAt % 8 ≠ 0) := by
    rw [hbit, decide_eq_true_iff]
    exact fun hbad => hbad.elim (· hs32) fun hbad => hbad.elim (· hd32) fun ⟨h1, h2⟩ => h2 (hpf h1).1
  have hin : ¬ (!inPart r.express src (32 * n) || !inPart r.express dst (32 * n) || (bitAt b 8 && !inPart r.express flagAt 8)) = true := by
    rw [hps, hpd, hbit]
    by_cases hf : b / 256 % 2 = 1
    · simp [(hpf hf).2]
    · simp [hf]
  simp only [if_neg (Nat.not_le.mpr hl), hk, ha, hb, hsrc, hdst, hn, hlo, hhi, hflag, if_neg (Nat.not_lt.mpr hle), if_neg halign, if_neg hin,
    hread, eff_ok_bind]
  rw [hbit]
  simp only [decide_eq_true_iff]
  rfl

/-- What each core holds when a `PASS` has been carried out. -/
theorem core_pass (s : State) (c : CoreIx) (r : Run) {lo hi : Nat} (hle : lo ≤ hi) (p : Pass) (d : Nat) :
    (((passDests s c.val r lo hi).foldl (fun s i => s.modCore i fun k' => { k' with passes := k'.passes ++ [p] }) s).adv c.val).core d =
      if d = c.val then (s.core c.val).next
      else if c.val / 16 * 16 + lo ≤ d ∧ d ≤ c.val / 16 * 16 + hi ∧ s.corePort r.cls d = r.port then
        { s.core d with passes := (s.core d).passes ++ [p] }
      else s.core d := by
  have hcore (d : Nat) := core_foldl_modCore (passDests_nodup s c.val r lo hi) (fun k' => { k' with passes := k'.passes ++ [p] }) s d
  by_cases hd : d = c.val
  · subst hd
    rw [if_pos rfl, State.adv, State.modCore, State.core_setCore, hcore, if_neg fun hm => ((mem_passDests hle).mp hm).2.1 rfl]
  · rw [if_neg hd, State.adv, State.modCore, State.core_setCore_ne _ _ _ hd, hcore]
    by_cases hm : c.val / 16 * 16 + lo ≤ d ∧ d ≤ c.val / 16 * 16 + hi ∧ s.corePort r.cls d = r.port
    · rw [if_pos hm, if_pos ((mem_passDests hle).mpr ⟨⟨hm.1, hm.2.1⟩, hd, hm.2.2⟩)]
    · rw [if_neg hm, if_neg fun h => ?_]
      obtain ⟨⟨h1, h2⟩, -, h3⟩ := (mem_passDests hle).mp h
      exact hm ⟨h1, h2, h3⟩

/-! ### Arrival -/

/-- Writing local store does not look at the count of arrived Crumbs. -/
theorem engPut_chainCount (k : Core) (a : Nat) (d : Bytes) (n : BitVec 32) :
    Core.engPut { k with chainCount := n } a d = { k.engPut a d with chainCount := n } := by
  simp only [Core.engPut, Core.clearTags, Core.lsPut]
  by_cases hl : meets (0, k.imgLower) a d.length = true <;> by_cases he : meets (partBase true, k.imgExpress) a d.length = true <;>
    simp only [hl, he, if_true, Bool.false_eq_true, if_false]

/-- With no pass under way, or one that has no Crumb left, nothing arrives. -/
theorem arrive_none (k : Core) (h : ∀ p rest, k.passes = p :: rest → p.crumbs = []) (n : Nat) : k.arrive n = k := by
  cases n with
  | zero => rfl
  | succ n =>
    rw [Core.arrive]
    cases hp : k.passes with
    | nil => rfl
    | cons p rest => simp only [h p rest hp]

/-- Crumbs arrive one after another. -/
theorem arrive_succ (k : Core) (n : Nat) : k.arrive (n + 1) = (k.arrive 1).arrive n := by
  cases hp : k.passes with
  | nil =>
    have hnone : ∀ p rest, k.passes = p :: rest → p.crumbs = [] := by simp [hp]
    simp only [arrive_none k hnone]
  | cons p rest =>
    cases hc : p.crumbs with
    | nil =>
      have hnone : ∀ p rest, k.passes = p :: rest → p.crumbs = [] := by
        rintro p' rest' h
        rw [hp] at h
        obtain ⟨rfl, rfl⟩ := List.cons.inj h
        exact hc
      simp only [arrive_none k hnone]
    | cons b more =>
      simp only [Core.arrive, hp, hc]
      by_cases hm : more.isEmpty = true
      · rw [if_pos hm, if_pos hm]
      · rw [if_neg hm, if_neg hm]

/-- One Crumb of the pass whose turn it is arrives, and with the last one its flag (R158, R223). -/
theorem arrive_one (k : Core) {p : Pass} {rest : List Pass} {b : Bytes} {more : List Bytes} (hp : k.passes = p :: rest) (hc : p.crumbs = b :: more) :
    k.arrive 1 =
      let k1 := k.engPut p.dst b
      if more = [] then
        { (match p.flag with
            | some (a, v) => k1.engPut a (natLe 8 v.toNat)
            | none => k1) with chainCount := k.chainCount + 1, passes := rest }
      else { k1 with chainCount := k.chainCount + 1, passes := rest ++ [{ p with dst := p.dst + 32, crumbs := more }] } := by
  have hcount : (k.engPut p.dst b).chainCount = k.chainCount := by
    obtain ⟨x, y, z, he⟩ := engPut_eq k p.dst b
    rw [he]
  simp only [Core.arrive, hp, hc, hcount]
  cases more with
  | nil =>
    cases p.flag with
    | none => rfl
    | some av => simp only [List.isEmpty_nil, if_true, engPut_chainCount]
  | cons c more => rfl

theorem exec_chainPassArrival (c : CoreIx) (n : Nat) {s : State} (hr : s.running = true) (hu : s.clusterUp c.val = true) :
    exec (.chainPassArrival c n) s = .next (s.modCore c.val fun k => k.arrive n) := by
  show Host.Outcome.next (chainPassArrival c n s) = _
  rw [chainPassArrival, hr, hu]
  rfl

/-- Settles O24: the cores that a pass reaches, and its Crumbs one by one. -/
theorem chainPasses : Obligations.ChainPasses := by
  unfold Obligations.ChainPasses
  refine ⟨fun c f s r h ho himm hl => ?_, fun c s p rest b more hr hu hp hc => ⟨?_, fun n t ht => ?_⟩⟩
  · intro k a b src dst n lo hi flagAt hle hs32 hd32 hps hpd hpf hread hf
    refine ⟨_, does_pass h ho himm hl (k := k) rfl (a := a) (b := b) rfl rfl (fld_zero_eq a 22) (fld_eq_div a 22 22)
      (congrArg (· + 1) (fld_eq_div a 44 15)) (fld_zero_eq b 4) (fld_eq_div b 4 4) (fld_eq_div b 32 22) hle hs32 hd32 hps hpd hpf hread hf,
      ?_, fun d => core_pass s c r hle _ d⟩
    rw [State.adv, State.modCore, State.setCore, cores_foldl_modCore]
  · rw [exec_chainPassArrival c 1 hr hu, State.modCore, arrive_one _ hp hc] <;> rfl
  · rw [exec_chainPassArrival c 1 hr hu] at ht
    injection ht with ht
    subst ht
    rw [exec_chainPassArrival c (n + 1) hr hu, exec_chainPassArrival c n (s := s.modCore c.val fun k => k.arrive 1) hr hu]
    simp only [State.modCore, State.core_setCore, setCore_setCore, ← arrive_succ]

end Sys2Proof.Machine
end


section
/-! PROOFS. The events of a host port. -/

namespace Sys2Proof.Machine

variable {s : State} {p : PortIx}

/-! ### Set-ups of a port -/

@[simp] theorem State.modPort_setPort (s : State) (p : Nat) (x : Port) (f : Port → Port) :
    (s.setPort p x).modPort p f = s.setPort p (f x) := by
  simp [State.modPort]

@[simp] theorem State.awake_setPort (s : State) (p : Nat) (x : Port) : (s.setPort p x).awake = s.awake := rfl

@[simp] theorem State.unitLost_setPort (s : State) (p : Nat) (x : Port) (fn : Fin 8) (n : Nat) :
    (s.setPort p x).unitLost fn n = s.unitLost fn n := rfl

theorem linkOpen_parts (h : s.linkOpen p.val = false) : (s.awake && !s.mgmt.halted && (s.port p.val).linkUp) = false := h

/-- A port that does not rest, or whose link is not open, keeps no access waiting. -/
theorem atCfg_of_going {i : Instr} {act : State → State} (h : s.portRests p.val = false) : s.atCfg p i act = act s := by
  rw [State.atCfg, State.access, h]
  rfl

theorem atCfg_of_closed {i : Instr} {act : State → State} (h : s.linkOpen p.val = false) : s.atCfg p i act = act s := by
  have h' := linkOpen_parts h
  rw [Bool.and_assoc] at h'
  rw [State.atCfg, State.access, Bool.and_assoc, Bool.and_assoc, h', Bool.and_false]
  rfl

/-! ### The events -/

theorem exec_dlDown_open (h : s.linkOpen p.val = true) : exec (.dlDown p) s = .next (s.portDown p.val orDlDown) := by
  show Host.Outcome.next (dlDown p s) = _
  rw [dlDown, if_pos h]

theorem exec_hotReset_open (h : s.linkOpen p.val = true) : exec (.hotReset p) s = .next (s.portDown p.val orHotReset) := by
  show Host.Outcome.next (hotReset p s) = _
  rw [hotReset, if_pos h]

theorem exec_flrPf_open (h : s.linkOpen p.val = true) (hr : s.portRests p.val = false) :
    exec (.flrPf p) s = .next ((s.orphanPort p.val orFlrPf).modPort p.val fun x =>
      { x with vfEnable := false, numVFs := 0, fns := [], atc := [], invals := [], pageOut := [], ahead := [] }) := by
  show Host.Outcome.next (s.atCfg p (.flrPf p) (flrPf p)) = _
  rw [atCfg_of_going hr, flrPf, h]
  rfl

theorem exec_flrVf_open {vf : FnIx} (h : s.linkOpen p.val = true) (hr : s.portRests p.val = false) (hv : vf.val ≠ 0)
    (hf : s.fnThere p.val vf.val = true) : exec (.flrVf p vf) s =
      .next ((((s.orphanRings p.val fun f => f == vf.val).report (lgPort p.val) [] eOrphan 0 vf.val orFlrVf).modPort p.val fun x =>
        { x.setFnc vf.val {} with atc := x.atc.filter fun t => t.fn != vf.val, invals := x.invals.filter fun v => v.1 != vf.val,
                                  pageOut := x.pageOut.filter fun k => k.2.1 != vf.val, ahead := x.ahead.filter fun k => k.1 != vf.val }).goOn) := by
  show Host.Outcome.next (s.atCfg p (.flrVf p vf) (flrVf p vf)) = _
  have hn : ¬ (!s.linkOpen p.val || vf.val == 0 || !s.fnThere p.val vf.val) = true := by simp [h, hf, hv]
  rw [atCfg_of_going hr, flrVf, if_neg hn]

/-- Events of a link that is not open change nothing. -/
theorem exec_of_closed (h : s.linkOpen p.val = false) :
    exec (.dlDown p) s = .next s ∧ exec (.hotReset p) s = .next s ∧ exec (.flrPf p) s = .next s := by
  refine ⟨?_, ?_, ?_⟩
  · show Host.Outcome.next (dlDown p s) = _
    rw [dlDown, h]
    rfl
  · show Host.Outcome.next (hotReset p s) = _
    rw [hotReset, h]
    rfl
  · show Host.Outcome.next (s.atCfg p (.flrPf p) (flrPf p)) = _
    rw [atCfg_of_closed h, flrPf, h]
    rfl

theorem exec_perstAssert_asleep (h : s.awake = false) :
    exec (.perstAssert p) s = .next (s.setPort p.val { s.port p.val with perst := true, linkUp := false }) := by
  show Host.Outcome.next (perstAssert p s) = _
  simp [perstAssert, State.modPort, h]

theorem exec_perstAssert_up (h : s.awake = true) (hh : s.mgmt.halted = false) (hr : (s.port p.val).released = true) :
    exec (.perstAssert p) s =
      .next (((s.setPort p.val { s.port p.val with perst := true, linkUp := false }).orphanPort p.val orPerst).modPort p.val Port.resetCfg) := by
  show Host.Outcome.next (perstAssert p s) = _
  simp [perstAssert, State.portDown, State.modPort, h, hh, hr]

theorem exec_perstDeassert_done (hb : s.boot.stage = .done) (h : s.awake = true) (hr : (s.port p.val).released = false)
    (h6 : s.unitLost 6 p.val = false) (h3 : s.unitLost 3 p.val = false) :
    exec (.perstDeassert p) s =
      .next (s.setPort p.val { s.port p.val with perst := false, released := true, phase := .startup, before := .startup }) := by
  show Host.Outcome.next (perstDeassert p s) = _
  simp [perstDeassert, State.releasePort, State.modPort, hb, h, hr, h6, h3]

theorem exec_perstDeassert_early (hb : s.boot.stage ≠ .done) :
    exec (.perstDeassert p) s = .next (s.setPort p.val { s.port p.val with perst := false }) := by
  show Host.Outcome.next (perstDeassert p s) = _
  simp [perstDeassert, State.modPort, hb]

theorem exec_dlUp_up {t : Trained} (ht : t.port = p) (hj : s.jinalUp = true) (hh : s.mgmt.halted = false)
    (hp : (s.port p.val).perst = false) (h6 : s.unitLost 6 p.val = false) (h3 : s.unitLost 3 p.val = false) :
    exec (.dlUp t) s = .next (s.setPort p.val { s.port p.val with
      linkUp := true, downSince := none, rate := t.rate.val, lanes := t.lanes, flit := t.flit }) := by
  show Host.Outcome.next (dlUp t s) = _
  simp [dlUp, State.modPort, ht, hj, hh, hp, h6, h3]

theorem exec_dlUp_held {t : Trained} (ht : t.port = p) (hp : (s.port p.val).perst = true) : exec (.dlUp t) s = .next s := by
  show Host.Outcome.next (dlUp t s) = _
  simp [dlUp, ht, hp]

/-- Settles O53: each event is the function of its port that the model gives it, under the conditions of Table 12-9. -/
theorem portEvents : Obligations.PortEvents := by
  intro p s
  refine ⟨fun h => ⟨exec_dlDown_open h, exec_hotReset_open h⟩, fun h hr => ⟨exec_flrPf_open h hr, fun vf hv hf => exec_flrVf_open h hr hv hf⟩,
    exec_of_closed, exec_perstAssert_asleep, exec_perstAssert_up, exec_perstDeassert_done, exec_perstDeassert_early, fun t ht => ⟨?_, ?_⟩⟩
  · exact exec_dlUp_up ht
  · exact exec_dlUp_held ht

end Sys2Proof.Machine
end


section
/-! PROOFS. What the traffic to the hosts and the log events leave as it was. -/

namespace Sys2Proof.Machine

variable {s t u : State}

/-! ### The frame of an access to a host -/

/-- Only the traffic to the hosts, the logs and what they count have changed: accesses, outputs, the late records of rings, and
the pending messages of ports. -/
structure HostSide (s t : State) : Prop where
  rest : t = { s with out := t.out, accs := t.accs, nextAcc := t.nextAcc, rings := t.rings, released := t.released, ports := t.ports,
                      logs := t.logs }
  ring : ∀ r, ∃ n, t.ring r = { s.ring r with late := n }
  port : ∀ p, ∃ held till fns, t.port p = { s.port p with modPending := held, modEnd := till, fns := fns }

namespace HostSide

theorem refl (s : State) : HostSide s s := ⟨rfl, fun r => ⟨(s.ring r).late, rfl⟩, fun p => ⟨(s.port p).modPending, (s.port p).modEnd, (s.port p).fns, rfl⟩⟩

theorem trans (h : HostSide s t) (g : HostSide t u) : HostSide s u := by
  refine ⟨?_, fun r => ?_, fun p => ?_⟩
  · rw [g.rest, h.rest]
  · obtain ⟨n, hn⟩ := h.ring r
    obtain ⟨m, hm⟩ := g.ring r
    exact ⟨m, by rw [hm, hn]⟩
  · obtain ⟨_, _, _, hn⟩ := h.port p
    obtain ⟨a, b, c, hm⟩ := g.port p
    exact ⟨a, b, c, by rw [hm, hn]⟩

/-- Changes of what is on its way to the hosts. -/
theorem of_traffic {out : List Output} {accs : List HostAcc} {nextAcc : Nat} {released : List (Nat × Bool × Option (Nat × Nat))}
    {logs : Tab Log} :
    HostSide s { s with out := out, accs := accs, nextAcc := nextAcc, released := released, logs := logs } :=
  ⟨rfl, (refl s).ring, (refl s).port⟩

theorem emit (s : State) (o : Output) : HostSide s (s.emit o) := of_traffic

theorem setLog (s : State) (k : Nat) (l : Log) : HostSide s (s.setLog k l) := of_traffic

theorem modRing_late (s : State) (r n : Nat) : HostSide s (s.setRing r { s.ring r with late := n }) := by
  refine ⟨rfl, fun q => ?_, (refl s).port⟩
  by_cases hq : q = r
  · subst hq
    exact ⟨n, State.ring_setRing ..⟩
  · exact ⟨(s.ring q).late, State.ring_setRing_ne _ _ _ hq⟩

theorem setPort (s : State) (p : Nat) {x : Port} {held : Bool} {till : Nat} {fns : Tab FnCfg}
    (h : x = { s.port p with modPending := held, modEnd := till, fns := fns }) : HostSide s (s.setPort p x) := by
  refine ⟨rfl, (refl s).ring, fun q => ?_⟩
  by_cases hq : q = p
  · subst hq
    exact ⟨held, till, fns, by rw [State.port_setPort, h]⟩
  · exact ⟨_, _, _, State.port_setPort_ne _ _ _ hq⟩

theorem modFnc (s : State) (p f : Nat) (g : FnCfg → FnCfg) : HostSide s (s.modFnc p f g) :=
  setPort s p (held := (s.port p).modPending) (till := (s.port p).modEnd) rfl

theorem foldl {α : Type} {l : List α} {f : State → α → State} (hf : ∀ s a, HostSide s (f s a)) (s : State) : HostSide s (l.foldl f s) :=
  List.foldlRecOn (motive := HostSide s) _ _ (refl s) fun t ht a _ => ht.trans (hf t a)

/-! ### Accesses -/

theorem noteReleased (s : State) (a : HostAcc) : HostSide s (s.noteReleased a) := by
  unfold State.noteReleased
  split
  · extract_lets s'
    have h : HostSide s s' := by
      unfold s'
      split
      · exact modRing_late s _ _
      · exact refl s
    exact h.trans of_traffic
  · exact refl s

/-- Moving an access on leaves the state, sends one request, or releases a posted one; what is kept answers as before. -/
theorem advance_cases (s : State) (before : List HostAcc) (a : HostAcc) :
    ((s.advance before a).1 = s ∨ (∃ o, (s.advance before a).1 = s.emit o) ∨ (s.advance before a).1 = (s.emit (s.accOut a)).noteReleased a) ∧
      ∀ b ∈ (s.advance before a).2, b.why = a.why := by
  unfold State.advance
  extract_lets f
  split
  · exact ⟨.inl rfl, by simp⟩
  split
  · exact ⟨.inl rfl, by simp⟩
  rename_i miss _ _
  clear_value miss
  split
  · split
    · exact ⟨.inl rfl, by simp⟩
    split
    · exact ⟨.inl rfl, by simp⟩
    · exact ⟨.inr (.inl ⟨_, rfl⟩), by simp⟩
  · split
    · exact ⟨.inl rfl, by simp⟩
    split
    · exact ⟨.inr (.inr rfl), by simp⟩
    · exact ⟨.inr (.inl ⟨_, rfl⟩), by simp⟩

theorem advance (s : State) (before : List HostAcc) (a : HostAcc) : HostSide s (s.advance before a).1 := by
  obtain ⟨h | ⟨o, h⟩ | h, -⟩ := advance_cases s before a
  · rw [h]
    exact refl s
  · rw [h]
    exact emit s o
  · rw [h]
    exact (emit s _).trans (noteReleased ..)

theorem pumpFrom (l kept : List HostAcc) (s : State) : HostSide s (s.pumpFrom kept l).1 := by
  induction l generalizing s kept with
  | nil => exact refl s
  | cons a l ih =>
    have h := advance s kept a
    unfold State.pumpFrom
    split
    · next t heq => exact (by simpa [heq] using h : HostSide s t).trans (ih ..)
    · next t b heq => exact (by simpa [heq] using h : HostSide s t).trans (ih ..)

theorem pump (s : State) : HostSide s s.pump := (pumpFrom s.accs [] s).trans of_traffic

theorem hostStart (s : State) (p fn : Nat) (pasid : Option (BitVec 20)) (addr len : Nat) (kind : AccKind) (why : AccWhy) (item : ItemId) :
    HostSide s (s.hostStart p fn pasid addr len kind why item) := by
  unfold State.hostStart
  split
  · exact refl s
  · exact of_traffic.trans (pump _)

theorem msixSend (s : State) (p fn vec : Nat) : HostSide s (s.msixSend p fn vec) := by
  unfold State.msixSend
  extract_lets f
  split
  · exact modFnc s p fn _
  · exact hostStart ..

/-! ### Log events -/

theorem raiseErr (s : State) (p : Nat) : HostSide s (s.raiseErr p) := by
  unfold State.raiseErr
  extract_lets m vec
  split
  · split
    · exact setPort s p (till := (s.port p).modEnd) (fns := (s.port p).fns) rfl
    · exact (setPort s p (held := (s.port p).modPending) (fns := (s.port p).fns) rfl).trans (msixSend ..)
  · exact msixSend ..

theorem logEvent (s : State) (k : Nat) (ports : List Nat) (code cls rung answer unit : Nat) (info0 info1 : Word) :
    HostSide s (s.logEvent k ports code cls rung answer unit info0 info1) := by
  unfold State.logEvent
  extract_lets e s'
  have h : HostSide s s' := setLog s k _
  split
  · exact h
  · exact h.trans (foldl raiseErr s')

theorem report (s : State) (k : Nat) (ports : List Nat) (code unit info0 info1 : Nat) :
    HostSide s (s.report k ports code unit info0 info1) := logEvent ..

theorem accessLog (s : State) (p unit addr cause : Nat) : HostSide s (s.accessLog p unit addr cause) := report ..

theorem poisonRead (s : State) (k : Nat) : HostSide s (s.poisonRead k) := setLog ..

/-! ### What it leaves -/

theorem cores (h : HostSide s t) : t.cores = s.cores := by rw [h.rest]
theorem dmem (h : HostSide s t) : t.dmem = s.dmem := by rw [h.rest]
theorem insts (h : HostSide s t) : t.insts = s.insts := by rw [h.rest]
theorem syncs (h : HostSide s t) : t.syncs = s.syncs := by rw [h.rest]
theorem regs (h : HostSide s t) : t.regs = s.regs := by rw [h.rest]
theorem core (h : HostSide s t) : t.core = s.core := by rw [h.rest]; rfl
theorem preg (h : HostSide s t) : t.preg = s.preg := by rw [h.rest]; rfl
theorem poisoned (h : HostSide s t) : t.poisoned = s.poisoned := by rw [h.rest]; rfl

end HostSide

end Sys2Proof.Machine
end


section
/-! PROOFS. The pins, time marks and moderation of a port: writes of its `PORT_GPIO` and `ERR_MOD`. -/

namespace Sys2Proof.Machine

variable {s : State} {p : PortIx}

/-! ### Writes of a PF's fields -/

@[simp] theorem State.preg_wholeWrite (s : State) (p fn : Nat) : (s.wholeWrite p fn).preg = s.preg := by
  rw [State.wholeWrite_eq, State.preg_setPort]

@[simp] theorem State.locked_wholeWrite (s : State) (p fn : Nat) : (s.wholeWrite p fn).locked = s.locked := by
  rw [State.wholeWrite_eq]
  rfl

@[simp] theorem State.stagingFree_wholeWrite (s : State) (p fn : Nat) : (s.wholeWrite p fn).stagingFree = s.stagingFree := by
  rw [State.wholeWrite_eq, State.stagingFree_setPort]

/-- A write of some fields of a register at an open BAR0. -/
theorem pfWrite_of_open {off : Nat} (h : s.bar0Open p.val 0 off = true) (mask v : Nat) (i : Instr) :
    s.atBar p i (fun s => s.pfWrite p off mask v) = (s.wholeWrite p.val 0).regWrite p off mask v := by
  rw [State.atBar_of_fnOpen (State.fnOpen_of_bar0Open h), State.pfWrite, if_pos h]

/-- A register reads as it was last set. -/
theorem State.reg_setReg_self (s : State) (key : Nat) {v : Nat} (h : v < 2 ^ 64) : (s.setReg key v).reg key = v := by
  simp only [State.reg, State.setReg, Tab.get_put, BitVec.toNat_ofNat]
  exact Nat.mod_eq_of_lt h

theorem State.reg_setReg_ne (s : State) {key j : Nat} (v : Nat) (h : j ≠ key) : (s.setReg key v).reg j = s.reg j := by
  simp only [State.reg, State.setReg, Tab.get_put_ne _ _ _ h]

theorem State.preg_setReg_self (s : State) (p off : Nat) {v : Nat} (h : v < 2 ^ 64) : (s.setReg (regKey (some p) off) v).preg p off = v :=
  s.reg_setReg_self _ h

/-- A port's register is another than the same one of the other port. -/
theorem State.preg_setReg_peer (s : State) (p : PortIx) (off v : Nat) :
    (s.setReg (regKey (some p.val) off) v).preg (1 - p.val) off = s.preg (1 - p.val) off := by
  refine s.reg_setReg_ne v ?_
  have h := p.isLt
  simp only [regKey]
  omega

theorem State.regWrite_gpio (s : State) (p : PortIx) (mask v : Nat) : s.regWrite p 0x2028 mask v =
    s.writeGpio p.val ((s.preg p.val 0x2028 &&& (ones64 ^^^ (mask &&& 0x73FFFFF))) ||| (v &&& (mask &&& 0x73FFFFF))) := by
  simp [State.regWrite, storedDev]

theorem State.regWrite_errMod (s : State) (p : PortIx) (mask v : Nat) : s.regWrite p 0x2038 mask v =
    s.writeErrMod p.val ((s.preg p.val 0x2038 &&& (ones64 ^^^ (mask &&& 0xFFFF07FF))) ||| (v &&& (mask &&& 0xFFFF07FF))) := by
  simp [State.regWrite, storedDev]

/-- `PORT_GPIO` with some of its fields written. -/
def State.gpioPut (s : State) (p mask v : Nat) : Nat := (s.preg p 0x2028 &&& (ones64 ^^^ mask)) ||| (v &&& mask)

/-- A write of fields of `PORT_GPIO` at an open BAR0. -/
theorem gpioWrite_of_open (h : s.bar0Open p.val 0 0x2028 = true) {mask : Nat} (hm : mask &&& 0x73FFFFF = mask) (v : Nat) (i : Instr) :
    s.atBar p i (fun s => s.pfWrite p 0x2028 mask v) = (s.wholeWrite p.val 0).writeGpio p.val (s.gpioPut p.val mask v) := by
  rw [pfWrite_of_open h, State.regWrite_gpio, hm, State.preg_wholeWrite]
  rfl

/-! ### A pin for the alert -/

/-- A refused feature leaves the registers, and the port records the conflict. -/
theorem claimConflict_leaves (s : State) (p feature resource : Nat) :
    (s.claimConflict p feature resource).preg = s.preg ∧ ((s.claimConflict p feature resource).port p).conflict = true ∧
      ((s.claimConflict p feature resource).port p).conflictFeature = feature := by
  have h := HostSide.report (s.modPort p fun x => { x with conflict := true, conflictFeature := feature, conflictCount := x.conflictCount + 1 })
    lgDevice [] eClaim 7 resource p
  obtain ⟨held, till, fns, hport⟩ := h.port p
  rw [State.modPort, State.port_setPort] at hport
  refine ⟨h.preg, ?_, ?_⟩
  · rw [State.claimConflict, State.modPort, hport]
  · rw [State.claimConflict, State.modPort, hport]

/-- The alert claims its pin where `PORT_GPIO` is clear: the other features stay clear, and the pin is taken unless the other port
holds it. -/
theorem writeGpio_alert (pin : Fin 4) (hold : s.preg p.val 0x2028 = 0) :
    s.writeGpio p.val (1 + 2 * pin.val) =
      let t := s.setReg (regKey (some p.val) 0x2028) 0
      if (gpioPins (s.preg (1 - p.val) 0x2028)).contains pin.val then t.claimConflict p.val 3 pin.val
      else t.setReg (regKey (some p.val) 0x2028) (1 + 2 * pin.val) := by
  have hmark : bitAt (1 + 2 * pin.val) 3 = false := by revert pin; decide
  have hother : (gpioFeatures.filter fun f => !bitAt (1 + 2 * pin.val) f.2.1 || (bitAt 0 f.2.1 && fld 0 f.2.2 2 == fld (1 + 2 * pin.val) f.2.2 2 &&
      (f.1 != 4 || fld 0 6 10 == fld (1 + 2 * pin.val) 6 10))) = [(4, 3, 4), (5, 24, 25)] := by revert pin; decide
  have hthis : (gpioFeatures.filter fun f => !(!bitAt (1 + 2 * pin.val) f.2.1 || (bitAt 0 f.2.1 && fld 0 f.2.2 2 == fld (1 + 2 * pin.val) f.2.2 2 &&
      (f.1 != 4 || fld 0 6 10 == fld (1 + 2 * pin.val) 6 10)))) = [(3, 0, 1)] := by revert pin; decide
  have hclear : [(4, 3, 4), (5, 24, 25)].foldl (fun (w : Nat) (f : Nat × Nat × Nat) =>
      (w &&& (ones64 ^^^ gpioMask f.1)) ||| ((1 + 2 * pin.val) &&& gpioMask f.1)) 0 = 0 := by revert pin; decide
  have hput : (0 &&& (ones64 ^^^ gpioMask 3)) ||| ((1 + 2 * pin.val) &&& gpioMask 3) = 1 + 2 * pin.val := by revert pin; decide
  have hpin : fld (1 + 2 * pin.val) 1 2 = pin.val := by revert pin; decide
  have hnone : gpioPins (clearBit 0 0) = [] := by decide
  unfold State.writeGpio
  simp only [hold, hmark, Bool.false_and, Bool.false_eq_true, if_false, hother, hthis, hclear, List.foldl_cons, List.foldl_nil,
    s.preg_setReg_self p.val 0x2028 (v := 0) (by decide), hpin, hnone, List.nil_append, State.preg_setReg_peer, hput,
    show (3 : Nat) ≠ 4 by decide, decide_false]

theorem exec_alertEn (h : s.bar0Open p.val 0 0x2028 = true) (pin : Fin 4) :
    exec (.alertEn p pin) s = .next ((s.wholeWrite p.val 0).writeGpio p.val (s.gpioPut p.val 7 (1 + 2 * pin.val))) :=
  congrArg _ (gpioWrite_of_open h (by decide) _ _)

theorem exec_tmarkEn (h : s.bar0Open p.val 0 0x2028 = true) (pin : Fin 4) (timer : BitVec 10) (log2 : BitVec 6) :
    exec (.tmarkEn p pin timer log2) s = .next ((s.wholeWrite p.val 0).writeGpio p.val
      (s.gpioPut p.val 0x3FFFF8 (8 + 16 * pin.val + 64 * timer.toNat + 65536 * log2.toNat))) :=
  congrArg _ (gpioWrite_of_open h (by decide) _ _)

theorem exec_trigEn (h : s.bar0Open p.val 0 0x2028 = true) (pin : Fin 4) :
    exec (.trigEn p pin) s = .next ((s.wholeWrite p.val 0).writeGpio p.val (s.gpioPut p.val 0x7000000 (2 ^ 24 + 2 ^ 25 * pin.val))) :=
  congrArg _ (gpioWrite_of_open h (by decide) _ _)

theorem exec_modEn (h : s.bar0Open p.val 0 0x2038 = true) (timer : BitVec 10) (n : BitVec 16) :
    exec (.modEn p timer n) s = .next ((s.wholeWrite p.val 0).writeErrMod p.val
      ((s.preg p.val 0x2038 &&& (ones64 ^^^ 0xFFFF07FF)) ||| ((1 + 2 * timer.toNat + 65536 * n.toNat) &&& 0xFFFF07FF))) := by
  refine congrArg Host.Outcome.next ((pfWrite_of_open h _ _ _).trans ?_)
  rw [State.regWrite_errMod, Nat.and_self, State.preg_wholeWrite]

theorem gpioPut_alert (pin : Fin 4) (h : s.preg p.val 0x2028 = 0) : s.gpioPut p.val 7 (1 + 2 * pin.val) = 1 + 2 * pin.val := by
  rw [State.gpioPut, h]
  revert pin
  decide

/-- With both registers clear the pin is the port's. -/
theorem alertEn_free (h : s.bar0Open p.val 0 0x2028 = true) (pin : Fin 4) (hold : s.preg p.val 0x2028 = 0)
    (hpeer : s.preg (1 - p.val) 0x2028 = 0) :
    ∃ t, exec (.alertEn p pin) s = .next t ∧ t.preg p.val 0x2028 = 1 + 2 * pin.val := by
  have hfree : (gpioPins 0).contains pin.val = false := by revert pin; decide
  refine ⟨_, exec_alertEn h pin, ?_⟩
  rw [gpioPut_alert pin hold, writeGpio_alert pin (by rwa [State.preg_wholeWrite]), State.preg_wholeWrite, hpeer]
  simp only [hfree, Bool.false_eq_true, if_false]
  exact State.preg_setReg_self _ _ _ (by omega)

/-- A pin that the other port's alert holds is refused, and the conflict recorded. -/
theorem alertEn_held (h : s.bar0Open p.val 0 0x2028 = true) (pin : Fin 4) (hold : s.preg p.val 0x2028 = 0)
    (hpeer : s.preg (1 - p.val) 0x2028 = 1 + 2 * pin.val) :
    ∃ t, exec (.alertEn p pin) s = .next t ∧ t.preg p.val 0x2028 = 0 ∧ (t.port p.val).conflict = true ∧ (t.port p.val).conflictFeature = 3 := by
  have hheld : ∀ pin : Fin 4, (gpioPins (1 + 2 * pin.val)).contains pin.val = true := by decide
  refine ⟨_, exec_alertEn h pin, ?_⟩
  rw [gpioPut_alert pin hold, writeGpio_alert pin (by rwa [State.preg_wholeWrite]), State.preg_wholeWrite, hpeer]
  simp only [hheld pin, if_true]
  obtain ⟨hreg, hconf, hfeat⟩ := claimConflict_leaves ((s.wholeWrite p.val 0).setReg (regKey (some p.val) 0x2028) 0) p.val 3 pin.val
  exact ⟨by rw [hreg]; exact State.preg_setReg_self _ _ _ (by decide), hconf, hfeat⟩

/-! ### Marks, triggers and moderation -/

theorem exec_timeMark (hrun : s.running = true) (hen : bitAt (s.preg p.val 0x2028) 3 = true) : exec (.timeMark p) s =
    .next (if s.ticks % 2 ^ fld (s.preg p.val 0x2028) 16 6 = 0 then s.emit (.pinPulse p.val (fld (s.preg p.val 0x2028) 4 2)) else s) := by
  show Host.Outcome.next (timeMark p s) = _
  simp [timeMark, hrun, hen]

theorem exec_traceTrigger (hj : s.jinalUp = true) (hen : bitAt (s.preg p.val 0x2028) 24 = true) : exec (.traceTrigger p) s =
    .next (s.setPort p.val { s.port p.val with traceTriggered := (s.port p.val).traceTriggered + 1 }) := by
  show Host.Outcome.next (traceTrigger p s) = _
  simp [traceTrigger, State.modPort, hj, hen]

theorem exec_traceTrigger_off (hen : bitAt (s.preg p.val 0x2028) 24 = false) : exec (.traceTrigger p) s = .next s := by
  show Host.Outcome.next (traceTrigger p s) = _
  simp [traceTrigger, hen]

theorem exec_errModInterval (ha : s.awake = true) (hen : bitAt (s.preg p.val 0x2038) 0 = true) (hend : (s.port p.val).modEnd ≤ s.ticks) :
    exec (.errModInterval p) s = .next (s.flushErr p.val) := by
  show Host.Outcome.next (errModInterval p s) = _
  simp [errModInterval, ha, hen, hend]

/-- Settles O55: the enables are writes of fields of `PORT_GPIO` and `ERR_MOD`, and the events of marks, triggers and moderation
depend on what these registers hold. -/
theorem pinsAndTimers : Obligations.PinsAndTimers := by
  intro p s
  refine ⟨fun h => ?_, exec_modEn, fun hrun hen => ⟨fun h => ?_, fun h => ?_⟩, exec_traceTrigger, exec_traceTrigger_off,
    fun ha hen hend => ⟨fun h => ?_, fun h => ?_⟩⟩
  · intro put pin
    exact ⟨exec_alertEn h pin, exec_tmarkEn h pin, exec_trigEn h pin, alertEn_free h pin, alertEn_held h pin⟩
  · rw [exec_timeMark hrun hen, if_pos h]
  · rw [exec_timeMark hrun hen, if_neg h]
  · rw [exec_errModInterval ha hen hend, State.flushErr, if_pos h, State.modPort]
  · rw [exec_errModInterval ha hen hend, State.flushErr, h, if_neg Bool.false_ne_true]

end Sys2Proof.Machine
end


section
/-! PROOFS. The set-up lock and the controls of a port. -/

namespace Sys2Proof.Machine

variable {s : State} {p : PortIx}

/-! ### The set-up lock (R475) -/

theorem State.regWrite_lock (s : State) (p : PortIx) : s.regWrite p 0x1000 1 1 = s.lockRequest p.val := by
  simp [State.regWrite, bitAt]

theorem exec_setupLockRequest (h : s.bar0Open p.val 0 0x1000 = true) :
    exec (.setupLockRequest p) s = .next ((s.wholeWrite p.val 0).lockRequest p.val) :=
  congrArg Host.Outcome.next ((pfWrite_of_open h _ _ _).trans (State.regWrite_lock _ p))

section lock
variable {u : State} {i : Nat}

theorem lockRequest_sets (hl : u.locked = false) (hf : u.lockFault = none) : u.lockRequest i =
    State.linksLocked { u with locked := true, lockBy := i, lockLast := some (u.ticks, i, 0, 0),
                               boot := { u.boot with meas := u.boot.meas.set 9 u.lockDigest } } := by
  rw [State.lockRequest, hl, if_neg Bool.false_ne_true, hf]

theorem lockRequest_refused {c o : Nat} (hl : u.locked = false) (hf : u.lockFault = some (c, o)) : u.lockRequest i =
    if u.lockLast = some (u.ticks, 1 - i, c, o) then { u with lockLast := none }
    else { u with lockRefused := true, lockCause := c, lockCount := u.lockCount + 1, lockLast := some (u.ticks, i, c, o) }.logEvent lgDevice []
      eClaim cReport 0 0 7 (BitVec.ofNat 64 c) (BitVec.ofNat 64 (i * 2 ^ 63 + o)) := by
  rw [State.lockRequest, hl, if_neg Bool.false_ne_true, hf]

theorem lockRequest_again (hl : u.locked = true) :
    u.lockRequest i = if i = 0 ∧ u.lockLast = some (u.ticks, 1, 0, 0) then { u with lockBy := 0 } else u := by
  rw [State.lockRequest, if_pos hl]

end lock

/-! ### Locked registers -/

theorem ite_lt {c : Prop} [Decidable c] {a b n : Nat} (ha : a < n) (hb : b < n) : (if c then a else b) < n := by
  split
  · exact ha
  · exact hb

theorem devMask_lt (o : Nat) : devMask o < 2 ^ 64 := by
  simp only [devMask]
  have claims (a b c : Prop) [Decidable a] [Decidable b] [Decidable c] {x y z w : Nat} (hx : x < 2 ^ 64) (hy : y < 2 ^ 64) (hz : z < 2 ^ 64)
      (hw : w < 2 ^ 64) : (if a then x else if b then y else if c then z else w) < 2 ^ 64 := ite_lt hx (ite_lt hy (ite_lt hz hw))
  exact claims _ _ _ (by decide) (by decide) (by decide) (claims _ _ _ (by decide) (by decide) (by decide) (claims _ _ _ (by decide) (by decide)
    (ite_lt (by decide) (ite_lt (by decide) (ite_lt (by decide) (by decide))))
    (claims _ _ _ (by decide) (by decide) (by decide) (claims _ _ _ (by decide) (by decide) (by decide) (by decide)))))

theorem State.regWrite_stored (s : State) (p : PortIx) {o : Nat} (ho : o ≠ 0x1000) (hst : storedDev o = true) (mask v : Nat) :
    s.regWrite p o mask v = s.writeDev p.val o mask v := by
  simp only [State.regWrite, ho, hst, if_false, Bool.true_or, if_true]

theorem State.writeDev_locked (s : State) (i : Nat) {o : Nat} (hl : lockedReg o = true) (hlock : s.locked = true) {mask : Nat}
    (hm : mask &&& devMask o ≠ 0) (v : Nat) : s.writeDev i o mask v = s.lockViolation o v := by
  simp only [State.writeDev, hl, hlock, if_neg hm, Bool.and_self, if_true]

/-- A locked register lies where a PF's BAR0 has registers of the device (Table 16-1). -/
theorem regThere_of_stored (s : State) (i : Nat) {o : Nat} (hst : storedDev o = true) : s.regThere i o = true := by
  simp only [storedDev, Bool.or_eq_true, decide_eq_true_eq] at hst
  unfold State.regThere
  rw [if_neg (by omega), if_neg (by omega), if_neg (by omega)]
  exact decide_eq_true (by omega)

theorem lockedReg_ne {o : Nat} (hl : lockedReg o = true) : o ≠ 0x1000 := by
  rintro rfl
  revert hl
  decide

/-- After the lock a write of a locked register is logged, and nothing else (R9). -/
theorem exec_registerWrite_locked {o : Nat} (hopen : s.bar0Open p.val 0 o = true) (hal : o % 8 = 0) (hst : storedDev o = true)
    (hl : lockedReg o = true) (hm : devMask o ≠ 0) (hlock : s.locked = true) (v : Word) :
    exec (.registerWrite p 0 ⟨false, o⟩ 8 v) s = .next ((s.wholeWrite p.val 0).lockViolation o v.toNat) := by
  have hlt : o < 0x4000000 := by
    simp only [storedDev, Bool.or_eq_true, decide_eq_true_eq] at hst
    omega
  have hmask : ones64 &&& devMask o = devMask o := by
    rw [ones64, Nat.and_comm, Nat.and_two_pow_sub_one_eq_mod, Nat.mod_eq_of_lt (devMask_lt o)]
  have hhere : (s.wholeWrite p.val 0).regHere p 0 o = true := by
    rw [State.regHere, regThere_of_stored _ _ hst, Bool.or_true]
  have hwrite : registerWrite p 0 false o 8 v s = (s.wholeWrite p.val 0).heldWrite p 0 o ones64 v.toNat := by
    rw [registerWrite_whole (fn := 0) hopen hal hlt (fun h => absurd rfl h), Fin.val_zero]
  have hdev : (s.wholeWrite p.val 0).heldWrite p 0 o ones64 v.toNat = (s.wholeWrite p.val 0).lockViolation o v.toNat := by
    rw [State.heldWrite, if_pos hhere, State.anyWrite_pf, State.regWrite_stored _ p (lockedReg_ne hl) hst,
      State.writeDev_locked _ _ hl (by rwa [State.locked_wholeWrite]) (by rwa [hmask])]
  rw [exec_registerWrite_of_bar0Open (fn := 0) (a := ⟨false, o⟩) hopen, hwrite, hdev]

/-! ### The controls of a port (R508, R383, R479) -/

/-- A write of fields of `PORT_CTRL` at an open BAR0. -/
theorem portCtrlWrite_of_open (h : s.bar0Open p.val 0 0x2000 = true) (mask v : Nat) (i : Instr) :
    s.atBar p i (fun s => s.pfWrite p 0x2000 mask v) = (s.wholeWrite p.val 0).writePortCtrl p.val mask v :=
  (pfWrite_of_open h mask v i).trans (State.regWrite_portCtrl ..)

/-- The fields of `PORT_CTRL` that are stored. -/
def portCtrlStored (nv : Nat) : Nat := fields [(fld nv 5 2, 5), (fld nv 8 11, 8), (fld nv 32 16, 32)]

/-- A write of a port's controls: one register and one port have changed. -/
structure PortWrite (u t : State) (i key v : Nat) (x : Port) : Prop where
  rest : t = { u with regs := (u.setReg key v).regs, ports := t.ports }
  port : t.port i = x
  peer : ∀ q, q ≠ i → t.port q = u.port q

namespace PortWrite
variable {u t : State} {i key v : Nat} {x : Port}

theorem setReg (u : State) (i key v : Nat) : PortWrite u (u.setReg key v) i key v (u.port i) := ⟨rfl, rfl, fun _ _ => rfl⟩

theorem modPort_if (h : PortWrite u t i key v x) (c : Bool) (f : Port → Port) :
    PortWrite u (if c then t.modPort i f else t) i key v (if c then f x else x) := by
  cases c
  · exact h
  · refine ⟨?_, ?_, fun q hq => ?_⟩
    · show t.modPort i f = _
      rw [State.modPort, State.setPort]
      exact congrArg (fun s : State => { s with ports := Tab.put {} t.ports i (f (t.port i)) }) h.rest
    · show (t.modPort i f).port i = f x
      rw [State.modPort, State.port_setPort, h.port]
    · show (t.modPort i f).port q = _
      rw [State.modPort, State.port_setPort_ne _ _ _ hq, h.peer q hq]

theorem cores (h : PortWrite u t i key v x) : t.cores = u.cores := by rw [h.rest]
theorem dmem (h : PortWrite u t i key v x) : t.dmem = u.dmem := by rw [h.rest]
theorem accs (h : PortWrite u t i key v x) : t.accs = u.accs := by rw [h.rest]
theorem reg (h : PortWrite u t i key v x) : t.reg = (u.setReg key v).reg := by rw [h.rest]; rfl

end PortWrite

/-- A write of `PORT_CTRL` that is taken, and asks for no page again: its fields are stored, and the port follows its controls. -/
theorem writePortCtrl_taken {u : State} {i mask v : Nat} (hlimit : fld (merged (u.preg i 0x2000) mask v) 32 16 ≠ 0)
    (hbuf : bitAt (merged (u.preg i 0x2000) mask v) 6 = true → bitAt (u.preg i 0x2000) 6 = false → 32 ≤ u.stagingFree i) :
    ∃ t, PortWrite u t i (regKey (some i) 0x2000) (portCtrlStored (merged (u.preg i 0x2000) mask v)) ((u.port i).controls mask v) ∧
      u.writePortCtrl i mask v = if bitAt mask 7 && bitAt v 7 then
        (t.modPort i fun x => { x with fns := x.fns.map fun f => (f.1, { f.2 with priFailed := false }) }).issuePages i else t := by
  unfold State.writePortCtrl
  extract_lets old key nv act stored s₁ s₂ s₃
  have hbuf' : ¬ (bitAt nv 6 && !bitAt old 6 && decide (u.stagingFree i < 32)) = true := by
    intro h
    simp only [Bool.and_eq_true, Bool.not_eq_true', decide_eq_true_eq] at h
    obtain ⟨⟨hnew, hold⟩, hfull⟩ := h
    exact absurd (hbuf hnew hold) (Nat.not_le.mpr hfull)
  rw [if_neg (show fld nv 32 16 ≠ 0 from hlimit), if_neg hbuf']
  exact ⟨s₃, ((PortWrite.setReg u i key stored).modPort_if (act 2) Port.serve).modPort_if (bitAt mask 3) fun x => x.testEn (bitAt v 3), rfl⟩

/-- A write of `PORT_CTRL` that asks for a buffer where too few are free. -/
theorem writePortCtrl_refused {u : State} {i mask v : Nat} (hlimit : fld (merged (u.preg i 0x2000) mask v) 32 16 ≠ 0)
    (hnew : bitAt (merged (u.preg i 0x2000) mask v) 6 = true) (hold : bitAt (u.preg i 0x2000) 6 = false) (hfull : u.stagingFree i < 32) :
    u.writePortCtrl i mask v = u.claimConflict i 2 32 := by
  rw [merged] at hlimit hnew
  simp only [State.writePortCtrl, if_neg hlimit, hnew, hold, decide_eq_true hfull, Bool.not_false, Bool.and_self, if_true]

/-- A write of fields of `PORT_CTRL`, none of which is the limit, that takes effect. -/
theorem portCtrl_taken (h : s.bar0Open p.val 0 0x2000 = true) (hlimit : fld (s.preg p.val 0x2000) 32 16 ≠ 0) {mask v : Nat}
    (hm : ∀ i < 16, bitAt mask (32 + i) = false) (hbuf : bitAt mask 6 = false ∨ 32 ≤ s.stagingFree p.val) (i : Instr) :
    ∃ t, PortWrite (s.wholeWrite p.val 0) t p.val (regKey (some p.val) 0x2000) (portCtrlStored (merged (s.preg p.val 0x2000) mask v))
        (((s.wholeWrite p.val 0).port p.val).controls mask v) ∧
      s.atBar p i (fun s => s.pfWrite p 0x2000 mask v) = if bitAt mask 7 && bitAt v 7 then
        (t.modPort p.val fun x => { x with fns := x.fns.map fun f => (f.1, { f.2 with priFailed := false }) }).issuePages p.val else t := by
  rw [portCtrlWrite_of_open h]
  have htake := writePortCtrl_taken (u := s.wholeWrite p.val 0) (i := p.val) (mask := mask) (v := v)
  rw [State.preg_wholeWrite, State.stagingFree_wholeWrite] at htake
  refine htake (by rwa [fld_merged_of_unnamed (by decide) hm]) fun hnew hold => hbuf.resolve_left fun hnone => ?_
  rw [bitAt_merged_of_unnamed (by decide) hnone, hold] at hnew
  exact Bool.false_ne_true hnew

theorem port_wholeWrite_peer (s : State) {p q : Nat} (fn : Nat) (h : q ≠ p) : (s.wholeWrite p fn).port q = s.port q := by
  rw [State.wholeWrite_eq, State.port_setPort_ne _ _ _ h]

@[simp] theorem phase_wholeWrite (s : State) (p fn : Nat) : ((s.wholeWrite p fn).port p).phase = (s.port p).phase := by
  rw [State.wholeWrite_eq, State.port_setPort]

@[simp] theorem before_wholeWrite (s : State) (p fn : Nat) : ((s.wholeWrite p fn).port p).before = (s.port p).before := by
  rw [State.wholeWrite_eq, State.port_setPort]

@[simp] theorem conflict_wholeWrite (s : State) (p fn : Nat) : ((s.wholeWrite p fn).port p).conflict = (s.port p).conflict := by
  rw [State.wholeWrite_eq, State.port_setPort]

@[simp] theorem cores_wholeWrite (s : State) (p fn : Nat) : (s.wholeWrite p fn).cores = s.cores := by rw [State.wholeWrite_eq]; rfl
@[simp] theorem dmem_wholeWrite (s : State) (p fn : Nat) : (s.wholeWrite p fn).dmem = s.dmem := by rw [State.wholeWrite_eq]; rfl
@[simp] theorem accs_wholeWrite (s : State) (p fn : Nat) : (s.wholeWrite p fn).accs = s.accs := by rw [State.wholeWrite_eq]; rfl

section controls
variable (x : Port)

theorem controls_serve : x.controls 4 4 = x.serve := by
  simp [Port.controls, bitAt]

theorem controls_test (v : Bool) : x.controls 8 (if v then 8 else 0) = x.testEn v := by
  cases v <;> simp [Port.controls, bitAt]

theorem controls_of_none {mask v : Nat} (h2 : bitAt mask 2 = false) (h3 : bitAt mask 3 = false) : x.controls mask v = x := by
  simp [Port.controls, h2, h3]

theorem serve_phase : x.serve.phase = if x.phase = .startup ∨ x.phase = .recovery then .service else x.phase := by
  rw [Port.serve]
  split <;> rfl

theorem testEn_true : (x.testEn true).phase = .test ∧ (x.phase ≠ .test → (x.testEn true).before = x.phase) := by
  rw [Port.testEn, if_pos rfl]
  split
  · next h => exact ⟨h, fun hne => absurd h hne⟩
  · exact ⟨rfl, fun _ => rfl⟩

theorem testEn_false : (x.testEn false).phase = if x.phase = .test then x.before else x.phase := by
  rw [Port.testEn, if_neg Bool.false_ne_true]
  split <;> rfl

end controls

/-- What a write of a port's controls leaves of everything else. -/
theorem PortWrite.leaves {t : State} {key v : Nat} {x : Port} (h : PortWrite (s.wholeWrite p.val 0) t p.val key v x) :
    (∀ q, q ≠ p.val → t.port q = s.port q) ∧ t.cores = s.cores ∧ t.dmem = s.dmem := by
  refine ⟨fun q hq => ?_, ?_, ?_⟩
  · rw [h.peer q hq, port_wholeWrite_peer _ _ hq]
  · rw [h.cores, cores_wholeWrite]
  · rw [h.dmem, dmem_wholeWrite]

theorem priFailed_cleared (l : Tab FnCfg) (fn : Nat) :
    (Tab.get ({} : FnCfg) (l.map fun f => (f.1, { f.2 with priFailed := false })) fn).priFailed = false := by
  induction l with
  | nil => rfl
  | cons f l ih =>
    rw [List.map_cons, Tab.get]
    split
    · rfl
    · exact ih

/-- A bit that the mask names takes the new value. -/
theorem bitAt_merged_of_named {mask i : Nat} (hi : i < 64) (hm : bitAt mask i = true) (old v : Nat) : bitAt (merged old mask v) i = bitAt v i := by
  rw [bitAt_eq_testBit] at hm
  have hones : ones64.testBit i = true := by rw [ones64, Nat.testBit_two_pow_sub_one, decide_eq_true hi]
  simp [merged, bitAt_eq_testBit, hm, hones]

/-- A register keeps the bits below 64 of what is set. -/
theorem bitAt_setReg (u : State) (i off v j : Nat) (hj : j < 64) : bitAt ((u.setReg (regKey (some i) off) v).preg i off) j = bitAt v j := by
  simp only [State.preg, State.reg, State.setReg, Tab.get_put, BitVec.toNat_ofNat, bitAt_eq_testBit, Nat.testBit_mod_two_pow, decide_eq_true hj,
    Bool.true_and]

theorem fields_three (a b c i j k : Nat) : fields [(a, i), (b, j), (c, k)] = a * 2 ^ i + b * 2 ^ j + c * 2 ^ k := by
  simp [fields]

theorem portCtrlStored_eq (nv : Nat) : portCtrlStored nv = fld nv 5 2 * 2 ^ 5 + fld nv 8 11 * 2 ^ 8 + fld nv 32 16 * 2 ^ 32 :=
  fields_three ..

theorem bitAt_portCtrlStored (nv : Nat) : bitAt (portCtrlStored nv) 6 = bitAt nv 6 := by
  have hlow : fld nv 5 2 / 2 % 2 = nv / 2 ^ 6 % 2 := by
    rw [fld_eq_div]
    omega
  have hall (a b c : Nat) : (a * 2 ^ 5 + b * 2 ^ 8 + c * 2 ^ 32) / 2 ^ 6 % 2 = a / 2 % 2 := by omega
  rw [bitAt, bitAt, portCtrlStored_eq, Nat.shiftRight_eq_div_pow, Nat.shiftRight_eq_div_pow, hall, hlow]

theorem portCtrlStored_lt (nv : Nat) : portCtrlStored nv < 2 ^ 64 := by
  have ha : fld nv 5 2 < 2 ^ 2 := Nat.mod_lt _ (by decide)
  have hb : fld nv 8 11 < 2 ^ 11 := Nat.mod_lt _ (by decide)
  have hc : fld nv 32 16 < 2 ^ 16 := Nat.mod_lt _ (by decide)
  rw [portCtrlStored_eq]
  omega

section port
variable (h : s.bar0Open p.val 0 0x2000 = true) (hlimit : fld (s.preg p.val 0x2000) 32 16 ≠ 0)
include h hlimit

theorem serviceEn_taken : ∃ t, exec (.serviceEn p) s = .next t ∧
    (t.port p.val).phase = (if (s.port p.val).phase = .startup ∨ (s.port p.val).phase = .recovery then .service else (s.port p.val).phase) ∧
      (∀ q, q ≠ p.val → t.port q = s.port q) ∧ t.cores = s.cores ∧ t.dmem = s.dmem := by
  obtain ⟨t, ht, heq⟩ := portCtrl_taken h hlimit (mask := 4) (v := 4) (by decide) (.inl (by decide)) (.serviceEn p)
  refine ⟨t, congrArg _ heq, ?_, ht.leaves⟩
  rw [ht.port, controls_serve, serve_phase, phase_wholeWrite]

theorem testEn_taken (v : Bool) : ∃ t, exec (.testEn p v) s = .next t ∧
    (v = true → (t.port p.val).phase = .test ∧ ((s.port p.val).phase ≠ .test → (t.port p.val).before = (s.port p.val).phase)) ∧
      (v = false → (t.port p.val).phase = (if (s.port p.val).phase = .test then (s.port p.val).before else (s.port p.val).phase)) ∧
      (∀ q, q ≠ p.val → t.port q = s.port q) ∧ t.cores = s.cores ∧ t.dmem = s.dmem := by
  obtain ⟨t, ht, heq⟩ := portCtrl_taken h hlimit (mask := 8) (v := if v then 8 else 0) (by decide) (.inl (by decide)) (.testEn p v)
  have hport := ht.port
  rw [controls_test] at hport
  refine ⟨t, congrArg _ heq, fun hv => ?_, fun hv => ?_, ht.leaves⟩
  · obtain ⟨hphase, hback⟩ := testEn_true ((s.wholeWrite p.val 0).port p.val)
    rw [phase_wholeWrite] at hback
    rw [hport, hv]
    exact ⟨hphase, hback⟩
  · rw [hport, hv, testEn_false, phase_wholeWrite, before_wholeWrite]

theorem priReset_taken : ∃ u : State, exec (.priReset p) s = .next (u.issuePages p.val) ∧ (∀ fn, (u.fnc p.val fn).priFailed = false) ∧
    u.accs = s.accs ∧ u.cores = s.cores := by
  obtain ⟨t, ht, heq⟩ := portCtrl_taken h hlimit (mask := 0x80) (v := 0x80) (by decide) (.inl (by decide)) (.priReset p)
  refine ⟨_, congrArg _ (heq.trans (if_pos (by decide))), fun fn => ?_, ?_, ?_⟩
  · rw [State.fnc, State.modPort, State.port_setPort, Port.fnc]
    exact priFailed_cleared _ fn
  · exact ht.accs.trans (accs_wholeWrite ..)
  · exact ht.cores.trans (cores_wholeWrite ..)

/-- Write buffering takes staging buffers where enough are free. -/
theorem bar4Wbuf_taken (hfree : 32 ≤ s.stagingFree p.val) : ∃ t, exec (.bar4Wbuf p) s = .next t ∧ bitAt (t.preg p.val 0x2000) 6 = true ∧
    (t.port p.val).conflict = (s.port p.val).conflict := by
  obtain ⟨t, ht, heq⟩ := portCtrl_taken h hlimit (mask := 0x40) (v := 0x40) (by decide) (.inr hfree) (.bar4Wbuf p)
  refine ⟨t, congrArg _ heq, ?_, ?_⟩
  · rw [State.preg, ht.reg, State.reg_setReg_self _ _ (portCtrlStored_lt _), bitAt_portCtrlStored, bitAt_merged_of_named (by decide) (by decide)]
    decide
  · rw [ht.port, controls_of_none _ (by decide) (by decide), conflict_wholeWrite]

theorem bar4Wbuf_refused (hoff : bitAt (s.preg p.val 0x2000) 6 = false) (hfull : s.stagingFree p.val < 32) : ∃ t, exec (.bar4Wbuf p) s = .next t ∧
    bitAt (t.preg p.val 0x2000) 6 = false ∧ (t.port p.val).conflict = true ∧ (t.port p.val).conflictFeature = 2 := by
  have hnew : bitAt (merged (s.preg p.val 0x2000) 0x40 0x40) 6 = true := by
    rw [bitAt_merged_of_named (by decide) (by decide)]
    decide
  have hrefuse := writePortCtrl_refused (u := s.wholeWrite p.val 0) (i := p.val) (mask := 0x40) (v := 0x40)
  rw [State.preg_wholeWrite, State.stagingFree_wholeWrite] at hrefuse
  have heq : exec (.bar4Wbuf p) s = .next ((s.wholeWrite p.val 0).claimConflict p.val 2 32) :=
    congrArg Host.Outcome.next ((portCtrlWrite_of_open h 0x40 0x40 (.bar4Wbuf p)).trans
      (hrefuse (by rwa [fld_merged_of_unnamed (by decide) (by decide)]) hnew hoff hfull))
  obtain ⟨hreg, hconf, hfeat⟩ := claimConflict_leaves (s.wholeWrite p.val 0) p.val 2 32
  exact ⟨_, heq, by rw [hreg, State.preg_wholeWrite, hoff], hconf, hfeat⟩

end port

/-! ### Tier H of a port -/

theorem State.regWrite_tierH (s : State) (p : PortIx) (mask v : Nat) : s.regWrite p 0x2018 mask v = s.writeTierH p.val 0x2018 mask v := by
  simp [State.regWrite, storedDev]

theorem exec_tierHEnable (h : s.bar0Open p.val 0 0x2018 = true) :
    exec (.tierHEnable p) s = .next ((s.wholeWrite p.val 0).writeTierH p.val 0x2018 (2 ^ 55) (2 ^ 55)) :=
  congrArg Host.Outcome.next ((pfWrite_of_open h _ _ _).trans (State.regWrite_tierH ..))

/-- Tier H is enabled before the lock only, where it fits and staging buffers are free. -/
theorem writeTierH_enable (u : State) (i : Nat) : u.writeTierH i 0x2018 (2 ^ 55) (2 ^ 55) =
    if u.locked then u.lockViolation 0x2018 (2 ^ 55)
    else if 2 ^ 33 < fld (merged (u.preg i 0x2018) (2 ^ 55) (2 ^ 55)) 0 34 then u.accessLog i 0 0x2018 accIgnored
    else if bitAt (u.preg i 0x2018) 55 = false then
      if u.stagingFree i < 64 then u.claimConflict i 1 64 else u.setReg (regKey (some i) 0x2018) (merged (u.preg i 0x2018) (2 ^ 55) (2 ^ 55))
    else u.setReg (regKey (some i) 0x2018) (merged (u.preg i 0x2018) (2 ^ 55) (2 ^ 55)) := by
  have hnew : bitAt (merged (u.preg i 0x2018) (2 ^ 55) (2 ^ 55)) 55 = true := by
    rw [bitAt_merged_of_named (by decide) (by decide)]
    decide
  have hm : (2 ^ 55 &&& (if (0x2018 : Nat) = 0x2010 then ones64 - 0xFFF else 2 ^ 56 - 1)) = 2 ^ 55 := by decide
  rw [merged] at hnew ⊢
  simp only [State.writeTierH, hm, hnew, decide_true, Bool.true_and, decide_eq_true_eq, Bool.not_eq_true']

section tierH
variable (h : s.bar0Open p.val 0 0x2018 = true) (hoff : bitAt (s.preg p.val 0x2018) 55 = false)
  (hsize : fld (s.preg p.val 0x2018) 0 34 ≤ 2 ^ 33) (hlock : s.locked = false)
include h hoff hsize hlock

theorem tierHEnable_open : exec (.tierHEnable p) s = .next
    (if s.stagingFree p.val < 64 then (s.wholeWrite p.val 0).claimConflict p.val 1 64
    else (s.wholeWrite p.val 0).setReg (regKey (some p.val) 0x2018) (merged (s.preg p.val 0x2018) (2 ^ 55) (2 ^ 55))) := by
  have hfit : ¬ 2 ^ 33 < fld (merged (s.preg p.val 0x2018) (2 ^ 55) (2 ^ 55)) 0 34 := by
    rw [fld_merged_of_unnamed (by decide) (by decide)]
    omega
  rw [exec_tierHEnable h, writeTierH_enable, State.locked_wholeWrite, hlock, if_neg Bool.false_ne_true, State.preg_wholeWrite, if_neg hfit,
    if_pos hoff, State.stagingFree_wholeWrite]

theorem tierHEnable_taken (hfree : 64 ≤ s.stagingFree p.val) : ∃ t, exec (.tierHEnable p) s = .next t ∧ bitAt (t.preg p.val 0x2018) 55 = true ∧
    (t.port p.val).conflict = (s.port p.val).conflict := by
  refine ⟨_, (tierHEnable_open h hoff hsize hlock).trans (congrArg _ (if_neg (Nat.not_lt.mpr hfree))), ?_, ?_⟩
  · rw [bitAt_setReg _ _ _ _ _ (by decide), bitAt_merged_of_named (by decide) (by decide)]
    decide
  · exact conflict_wholeWrite ..

theorem tierHEnable_refused (hfull : s.stagingFree p.val < 64) : ∃ t, exec (.tierHEnable p) s = .next t ∧ bitAt (t.preg p.val 0x2018) 55 = false ∧
    (t.port p.val).conflict = true ∧ (t.port p.val).conflictFeature = 1 := by
  obtain ⟨hreg, hconf, hfeat⟩ := claimConflict_leaves (s.wholeWrite p.val 0) p.val 1 64
  exact ⟨_, (tierHEnable_open h hoff hsize hlock).trans (congrArg _ (if_pos hfull)), by rw [hreg, State.preg_wholeWrite, hoff], hconf, hfeat⟩

end tierH

/-- Settles O54: the lock request by the state of the lock and the first check that fails, and each control by the field of the register
that it writes. -/
theorem setupAndControls : Obligations.SetupAndControls := by
  refine ⟨fun p s h => ?_, fun p s h hh hlimit => ⟨serviceEn_taken h hlimit, testEn_taken h hlimit, priReset_taken h hlimit,
    fun hoff => ⟨bar4Wbuf_taken h hlimit, bar4Wbuf_refused h hlimit hoff⟩,
    fun hoff hsize hlock => ⟨tierHEnable_taken hh hoff hsize hlock, tierHEnable_refused hh hoff hsize hlock⟩, fun hlock => ?_⟩⟩
  · rw [exec_setupLockRequest h]
    refine ⟨fun hl hf => ?_, fun c o hl hf => ⟨fun hne => ?_, fun heq => ?_⟩, fun hl hno => ?_, fun hl hp heq => ?_, fun o v ho hal hst hlk hm hl => ?_⟩
    · rw [lockRequest_sets hl hf]
    · rw [lockRequest_refused hl hf, if_neg hne]
    · rw [lockRequest_refused hl hf, if_pos heq]
    · rw [lockRequest_again hl, if_neg]
      rintro ⟨hp, heq⟩
      exact hno.elim (fun h1 => absurd (hp.symm.trans h1) (by decide)) fun hne => hne heq
    · rw [lockRequest_again hl, if_pos ⟨hp, heq⟩]
    · exact ⟨_, exec_registerWrite_locked ho hal hst hlk hm hl v, by rw [State.wholeWrite_eq]; rfl, by rwa [State.locked_wholeWrite]⟩
  · rw [exec_tierHEnable hh, writeTierH_enable, State.locked_wholeWrite, if_pos hlock]

end Sys2Proof.Machine
end


section
/-! PROOFS. Accesses to the set-up registers: reads, latches, and writes whole and in halves. -/

namespace Sys2Proof.Machine

variable {s : State} {p : PortIx} {fn : FnIx}

/-! ### Reads (R12, R472) -/

theorem exec_splitRead_bar0 {off : Nat} (h : s.bar0Open p.val fn.val off = true) (size : Nat) :
    exec (.splitRead p ⟨⟨false, off⟩, fn, size⟩) s = .next (splitRead p fn false off size s) :=
  congrArg Host.Outcome.next (State.atBar_of_fnOpen (State.fnOpen_of_bar0Open h) _ _)

theorem exec_splitRead_doors (h : s.barOpen p.val fn.val = true) (off size : Nat) :
    exec (.splitRead p ⟨⟨true, off⟩, fn, size⟩) s = .next (splitRead p fn true off size s) :=
  congrArg Host.Outcome.next (State.atBar_of_fnOpen (State.fnOpen_of_barOpen h) _ _)

/-- A function's accesses begin by discarding a PF's latch. -/
def State.accessed (s : State) (p fn : Nat) : State := if fn = 0 then s.dropLatch p else s

/-- A read of an aligned word of an open BAR. -/
theorem splitRead_word {doors : Bool} {off : Nat} (h : (if doors then s.barOpen p.val fn.val else s.bar0Open p.val fn.val off) = true)
    (hin : off < barSize fn.val doors) (hal : off % 8 = 0) :
    splitRead p fn doors off 8 s = ((s.accessed p.val fn.val).barWord p.val fn.val doors off).2.emit
      (.readData p.val (natLe 8 ((s.accessed p.val fn.val).barWord p.val fn.val doors off).1) false) := by
  have ho : off / 8 * 8 = off := Nat.div_mul_cancel (Nat.dvd_of_mod_eq_zero hal)
  simp only [splitRead, h, Nat.not_le.mpr hin, hal, ho]
  rfl

/-- A read of the lower half of a word of an open BAR: a PF's latches the upper half of a register. -/
theorem splitRead_lower {doors : Bool} {off : Nat} (h : (if doors then s.barOpen p.val fn.val else s.bar0Open p.val fn.val off) = true)
    (hin : off < barSize fn.val doors) (hal : off % 8 = 0) :
    splitRead p fn doors off 4 s =
      let q := (s.accessed p.val fn.val).barWord p.val fn.val doors off
      (if fn.val == 0 && !doors then q.2.modPort p.val fun x => { x with latch := some (off, BitVec.ofNat 32 (q.1 / 2 ^ 32)) } else q.2).emit
        (.readData p.val (natLe 4 q.1) false) := by
  have ho : off / 8 * 8 = off := Nat.div_mul_cancel (Nat.dvd_of_mod_eq_zero hal)
  have hal4 : off % 4 = 0 := by omega
  simp only [splitRead, h, Nat.not_le.mpr hin, hal, hal4, ho]
  rfl

/-- A PF's read of the upper half of a register: what the latch holds of it, or else the register's word. -/
theorem splitRead_upper {off : Nat} (h : s.bar0Open p.val 0 (off + 4) = true) (hin : off < 0x4000000) (hal : off % 8 = 0) :
    splitRead p 0 false (off + 4) 4 s = (s.dropLatch p.val).emit (.readData p.val (natLe 4
      (match (s.port p.val).latch with
      | some (l, v) => if l = off then v.toNat else ((s.dropLatch p.val).sampled p.val off).1 / 2 ^ 32
      | none => ((s.dropLatch p.val).sampled p.val off).1 / 2 ^ 32)) false) := by
  have ho : (off + 4) / 8 * 8 = off := by omega
  have hsize : ¬ barSize 0 false ≤ off + 4 := by
    rw [barSize, if_neg Bool.false_ne_true, if_pos rfl]
    omega
  have hup : (off + 4) % 8 = 4 := by omega
  have hup4 : (off + 4) % 4 = 0 := by omega
  simp only [splitRead, Fin.val_zero, h, hsize, ho, hup, hup4]
  cases (s.port p.val).latch <;> rfl

/-- A read of another size or alignment is logged and returns all ones (R12). -/
theorem splitRead_bad {off size : Nat} (h : s.bar0Open p.val fn.val off = true) (hin : off < barSize fn.val false)
    (h8 : ¬ (size = 8 ∧ off % 8 = 0)) (h4 : ¬ (size = 4 ∧ off % 4 = 0)) :
    splitRead p fn false off size s = ((s.accessed p.val fn.val).accessLog p.val fn.val off accSize).emit
      (.readData p.val (List.replicate size 0xFF#8) false) := by
  have hb8 : (size == 8 && off % 8 == 0) = false := by simpa using h8
  have hb4 : (size == 4 && off % 4 == 0) = false := by simpa using h4
  simp only [splitRead, h, Nat.not_le.mpr hin, hb8, hb4]
  rfl

theorem exec_streamWindowRead {st : StreamIx} (h : s.bar0Open p.val 0 (0x160000 + 32 * st.val) = true) :
    exec (.streamWindowRead p st) s =
      .next (((s.dropLatch p.val).sampled p.val (0x160000 + 32 * st.val)).2.emit
        (.readData p.val (natLe 8 ((s.dropLatch p.val).sampled p.val (0x160000 + 32 * st.val)).1) false)) := by
  refine congrArg Host.Outcome.next ((State.atBar_of_fnOpen (State.fnOpen_of_bar0Open h) _ _).trans ?_)
  simp only [streamWindowRead, h]
  rfl

/-- A read of bytes 0 to 7 of a stream window takes the sample (R483). -/
theorem sampled_first (u : State) (i : Nat) (st : StreamIx) : u.sampled i (0x160000 + 32 * st.val) =
    if u.streamPort st.val ≠ i then (0, u) else (((u.streamWords st.val).getD 0 0).toNat,
      u.modPort i fun x => { x with samples := Tab.put [] x.samples st.val (u.streamWords st.val) }) := by
  have hst := st.isLt
  generalize st.val = n at hst
  have hin : 0x160000 ≤ 0x160000 + 32 * n ∧ 0x160000 + 32 * n < 0x164000 := by omega
  have hn : (0x160000 + 32 * n - 0x160000) / 32 = n := by omega
  have hw : (0x160000 + 32 * n) % 32 / 8 = 0 := by omega
  simp only [State.sampled, if_pos hin, hn, hw, if_true]

/-! ### Writes with rows of their own -/

theorem State.regWrite_logPop (u : State) (p : PortIx) (w : Fin 23) : u.regWrite p (0x80020 + 4096 * w.val) 1 1 = u.popLog p.val (logOf p.val w.val) := by
  have hw := w.isLt
  generalize w.val = n at hw
  generalize ho : 0x80020 + 4096 * n = o
  have hne (k : Nat) (hk : k < 0x80000) : o ≠ k := by omega
  have hge (k : Nat) (hk : k < 0x80000) : ¬ o < k := by omega
  have hin : 0x80000 ≤ o ∧ o < 0x80000 + 4096 * 23 := by omega
  have hlog : (o - 0x80000) / 4096 = n := by omega
  have hpop : o % 4096 = 0x20 := by omega
  simp [State.regWrite, storedDev, hne, hge, hin, hlog, hpop, bitAt]

theorem vfMask_of_ones64 {w : Nat} (hw : w < 5) : ones64 &&& vfMask w = vfMask w ∧ vfMask w ≠ 0 := by
  revert w
  decide

/-- The word of a function's assignment, at its offset (R481). -/
theorem State.regWrite_assign (u : State) (p : PortIx) {vf w o : Nat} (hvf : 0 < vf) (hlt : vf < 128) (hw : w < 5)
    (ho : o = 0x40000 + 64 * (vf - 1) + 8 * w) (v : Nat) :
    u.regWrite p o ones64 v =
      let nv := (u.preg p.val o &&& (ones64 ^^^ vfMask w)) ||| (v &&& vfMask w)
      if u.assignOk p.val vf w nv then u.setReg (regKey (some p.val) o) nv else u.accessLog p.val 0 o accIgnored := by
  obtain ⟨hones, hdef⟩ := vfMask_of_ones64 hw
  have hne (k : Nat) (hk : k < 0x40000) : o ≠ k := by omega
  have hge (k : Nat) (hk : k < 0x40000) : ¬ o < k := by omega
  have hin : 0x40000 ≤ o ∧ o < 0x40000 + 64 * 127 := by omega
  have hfn : (o - 0x40000) / 64 + 1 = vf := by omega
  have hword : o % 64 / 8 = w := by omega
  have hregs : u.regWrite p o ones64 v = u.writeAssign p.val o ones64 v := by
    simp [State.regWrite, storedDev, hne, hge, hin]
  rw [hregs]
  simp only [State.writeAssign, hfn, hword, hones, if_neg hdef]

/-- A PF's write of another size or alignment is logged (R12). -/
theorem registerWrite_bad {off size : Nat} (h : s.bar0Open p.val 0 off = true) (hin : off < 0x4000000) (h8 : ¬ (size = 8 ∧ off % 8 = 0))
    (h4 : ¬ (size = 4 ∧ off % 4 = 0)) (v : Word) :
    registerWrite p 0 false off size v s = (s.dropLatch p.val).accessLog p.val 0 off accSize := by
  have hb8 : (size == 8 && off % 8 == 0) = false := by simpa using h8
  have hb4 : (size == 4 && off % 4 == 0) = false := by simpa using h4
  simp only [registerWrite, Fin.val_zero, h, Nat.not_le.mpr hin, hb8, hb4]
  rfl

/-! ### Writes in halves (R472) -/

/-- The halves and latch of a port do not open or close its functions. -/
theorem bar0Open_setPort (u : State) (i f off : Nat) {latch : Option (Nat × BitVec 32)} {held : Tab (Option (Nat × BitVec 32))} :
    (u.setPort i { u.port i with latch := latch, heldHalf := held }).bar0Open i f off = u.bar0Open i f off := by
  simp only [State.bar0Open, State.fnOpen, State.fnc, State.port_setPort]
  rfl

/-- Both halves of a register lie in the same part of BAR0. -/
theorem bar0Open_upper {off : Nat} (hal : off % 8 = 0) (u : State) (i f : Nat) : u.bar0Open i f (off + 4) = u.bar0Open i f off := by
  have h : (off + 4 < 0x1000 ∨ 0x4000 ≤ off + 4 ∧ off + 4 < 0x6000) ↔ (off < 0x1000 ∨ 0x4000 ≤ off ∧ off < 0x6000) := by omega
  simp only [State.bar0Open, h]

/-- What a write of a lower half leaves: the half is held. -/
def State.halfWritten (s : State) (p fn off : Nat) (lo : Word) : State := s.setPort p { s.port p with
  latch := if fn = 0 then none else (s.port p).latch, heldHalf := Tab.put none (s.port p).heldHalf fn (some (off, lo.setWidth 32)) }

theorem registerWrite_lower {off : Nat} (h : s.bar0Open p.val fn.val off = true) (hal : off % 8 = 0) (hpf : off < 0x4000000)
    (hvf : fn.val ≠ 0 → off < 0x10000) (hthere : fn.val = 0 → s.regThere p.val off = true) (lo : Word) :
    registerWrite p fn false off 4 lo s = s.halfWritten p.val fn.val off lo := by
  have hin : (!s.bar0Open p.val fn.val off || decide (0x4000000 ≤ off) || (fn.val != 0 && decide (0x10000 ≤ off))) = false := by
    simpa [h, hpf] using hvf
  have hal4 : off % 4 = 0 := by omega
  rw [registerWrite, if_neg Bool.false_ne_true, hin, if_neg Bool.false_ne_true]
  by_cases hfn : fn.val = 0
  · have hhere (x : Port) : (s.setPort p.val x).regHere p fn off = true := by
      rw [State.regHere, show (s.setPort p.val x).regThere p.val off = s.regThere p.val off from rfl, hthere hfn, Bool.or_true]
    simp [hfn, hal, hal4, hhere, State.halfWritten, State.dropLatch, State.setHalf, State.modPort]
  · have hhere : s.regHere p fn off = true := by
      rw [State.regHere, bne_iff_ne.mpr hfn, Bool.true_or]
    simp [hfn, hal, hal4, hhere, State.halfWritten, State.setHalf, State.modPort]

/-- The second half completes the write as one of the whole register. -/
theorem registerWrite_upper {off : Nat} (h : s.bar0Open p.val fn.val off = true) (hal : off % 8 = 0) (hpf : off < 0x4000000)
    (hvf : fn.val ≠ 0 → off < 0x10000) (lo hi : Word) :
    registerWrite p fn false (off + 4) 4 hi (s.halfWritten p.val fn.val off lo) =
      (s.wholeWrite p.val fn.val).heldWrite p fn off ones64 (lo.toNat % 2 ^ 32 + hi.toNat % 2 ^ 32 * 2 ^ 32) := by
  have hopen : (s.halfWritten p.val fn.val off lo).bar0Open p.val fn.val (off + 4) = true := by
    rw [bar0Open_upper hal, State.halfWritten, bar0Open_setPort, h]
  have hin : (!(s.halfWritten p.val fn.val off lo).bar0Open p.val fn.val (off + 4) || decide (0x4000000 ≤ off + 4) ||
      (fn.val != 0 && decide (0x10000 ≤ off + 4))) = false := by
    have hpf' : ¬ 0x4000000 ≤ off + 4 := by omega
    simp only [hopen, Bool.not_true, hpf', decide_false, Bool.or_false, Bool.and_eq_false_iff, bne_eq_false_iff_eq, decide_eq_false_iff_not,
      Bool.or_eq_false_iff, true_and]
    by_cases hfn : fn.val = 0
    · exact .inl hfn
    · exact .inr (by have := hvf hfn; omega)
  have hal4 : (off + 4) % 4 = 0 := by omega
  have hal8 : (off + 4) % 8 = 4 := by omega
  rw [registerWrite, if_neg Bool.false_ne_true, hin, if_neg Bool.false_ne_true, State.wholeWrite_eq]
  by_cases hfn : fn.val = 0
  · simp [hfn, hal4, hal8, State.halfWritten, State.dropLatch, State.setHalf, State.modPort, BitVec.toNat_setWidth]
  · simp [hfn, hal4, hal8, State.halfWritten, State.setHalf, State.modPort, BitVec.toNat_setWidth]

theorem exec_registerWrite_halves {off : Nat} {lo hi : Word} {t : State} (hal : off % 8 = 0) (hpf : off < 0x4000000)
    (hvf : fn.val ≠ 0 → off < 0x10000) (h : s.bar0Open p.val fn.val off = true) (hthere : fn.val = 0 → s.regThere p.val off = true)
    (ht : exec (.registerWrite p fn ⟨false, off⟩ 4 lo) s = .next t) :
    exec (.registerWrite p fn ⟨false, off + 4⟩ 4 hi) t =
      exec (.registerWrite p fn ⟨false, off⟩ 8 (BitVec.ofNat 64 (lo.toNat % 2 ^ 32 + hi.toNat % 2 ^ 32 * 2 ^ 32))) s := by
  have hwhole : (BitVec.ofNat 64 (lo.toNat % 2 ^ 32 + hi.toNat % 2 ^ 32 * 2 ^ 32)).toNat = lo.toNat % 2 ^ 32 + hi.toNat % 2 ^ 32 * 2 ^ 32 := by
    rw [BitVec.toNat_ofNat]
    omega
  have hopen : (s.halfWritten p.val fn.val off lo).bar0Open p.val fn.val (off + 4) = true := by
    rw [bar0Open_upper hal, State.halfWritten, bar0Open_setPort, h]
  rw [exec_registerWrite_of_bar0Open h, registerWrite_lower h hal hpf hvf hthere] at ht
  injection ht with ht
  rw [← ht, exec_registerWrite_of_bar0Open hopen, registerWrite_upper h hal hpf hvf, exec_registerWrite_of_bar0Open h,
    registerWrite_whole h hal hpf hvf, hwhole]

theorem barSize_pf : barSize 0 false = 0x4000000 := by decide

theorem barSize_vf {f : Nat} (hf : f ≠ 0) : barSize f false = 0x10000 := by
  rw [barSize, if_neg Bool.false_ne_true, if_neg hf]
  rfl

section pf
variable {off : Nat} (h : s.bar0Open p.val 0 off = true) (hin : off < 0x4000000) (hal : off % 8 = 0)
include h hin hal

theorem pf_reads : let q := (s.dropLatch p.val).sampled p.val off
    exec (.splitRead p ⟨⟨false, off⟩, 0, 8⟩) s = .next (q.2.emit (.readData p.val (natLe 8 q.1) false)) ∧
      exec (.splitRead p ⟨⟨false, off⟩, 0, 4⟩) s = .next ((q.2.setPort p.val { q.2.port p.val with latch := some (off, BitVec.ofNat 32 (q.1 / 2 ^ 32)) }).emit
        (.readData p.val (natLe 4 q.1) false)) := by
  have hsize : off < barSize (0 : FnIx).val false := by rwa [Fin.val_zero, barSize_pf]
  constructor
  · rw [exec_splitRead_bar0 (fn := 0) h, splitRead_word (fn := 0) (doors := false) h hsize hal]
    rfl
  · rw [exec_splitRead_bar0 (fn := 0) h, splitRead_lower (fn := 0) (doors := false) h hsize hal]
    rfl

omit h in
theorem pf_reads_upper (hup : s.bar0Open p.val 0 (off + 4) = true) :
    (∀ v : BitVec 32, (s.port p.val).latch = some (off, v) →
      exec (.splitRead p ⟨⟨false, off + 4⟩, 0, 4⟩) s = .next ((s.dropLatch p.val).emit (.readData p.val (natLe 4 v.toNat) false))) ∧
    ((∀ v : BitVec 32, (s.port p.val).latch ≠ some (off, v)) →
      exec (.splitRead p ⟨⟨false, off + 4⟩, 0, 4⟩) s = .next ((s.dropLatch p.val).emit
        (.readData p.val (natLe 4 (((s.dropLatch p.val).sampled p.val off).1 / 2 ^ 32)) false))) := by
  rw [exec_splitRead_bar0 (fn := 0) hup, splitRead_upper hup hin hal]
  refine ⟨fun v hv => ?_, fun hv => ?_⟩
  · simp only [hv, if_true]
  · cases hl : (s.port p.val).latch with
    | none => rfl
    | some x =>
      have hne : x.1 ≠ off := fun he => hv x.2 (by rw [hl, ← he])
      simp only [if_neg hne]

end pf

theorem vf_reads {off : Nat} (hfn : fn.val ≠ 0) (h : s.bar0Open p.val fn.val off = true) (hin : off < 0x10000) (hal : off % 8 = 0) :
    exec (.splitRead p ⟨⟨false, off⟩, fn, 8⟩) s = .next (s.emit (.readData p.val (natLe 8 (s.vfRead p.val fn.val off)) false)) ∧
      exec (.splitRead p ⟨⟨false, off⟩, fn, 4⟩) s = .next (s.emit (.readData p.val (natLe 4 (s.vfRead p.val fn.val off)) false)) := by
  have hsize : off < barSize fn.val false := by rwa [barSize_vf hfn]
  have hs : s.accessed p.val fn.val = s := if_neg hfn
  have hword : s.barWord p.val fn.val false off = (s.vfRead p.val fn.val off, s) := by
    rw [State.barWord, if_neg Bool.false_ne_true, if_neg hfn]
  have hregs : (fn.val == 0 && !false) = false := by simp [hfn]
  constructor
  · rw [exec_splitRead_bar0 h, splitRead_word (doors := false) h hsize hal, hs, hword]
  · rw [exec_splitRead_bar0 h, splitRead_lower (doors := false) h hsize hal, hs, hword, hregs]
    rfl

theorem door_reads {off : Nat} (h : s.barOpen p.val fn.val = true) (hin : off < barSize fn.val true) (hal : off % 8 = 0) :
    let v := if fn.val = 0 then s.dropLatch p.val else s
    exec (.splitRead p ⟨⟨true, off⟩, fn, 8⟩) s = .next (v.emit (.readData p.val (natLe 8 (s.doorWord p.val fn.val off)) false)) ∧
      exec (.splitRead p ⟨⟨true, off⟩, fn, 4⟩) s = .next (v.emit (.readData p.val (natLe 4 (s.doorWord p.val fn.val off)) false)) := by
  have hword : (s.accessed p.val fn.val).barWord p.val fn.val true off = (s.doorWord p.val fn.val off, s.accessed p.val fn.val) := by
    rw [State.barWord, if_pos rfl, State.accessed]
    split <;> rfl
  have hregs : (fn.val == 0 && !true) = false := Bool.and_false _
  constructor
  · rw [exec_splitRead_doors h, splitRead_word (doors := true) h hin hal, hword]
    rfl
  · rw [exec_splitRead_doors h, splitRead_lower (doors := true) h hin hal, hword, hregs]
    rfl

theorem vfAssign_writes {vf : FnIx} {w : Fin 5} (hvf : vf.val ≠ 0) {o : Nat} (ho : o = 0x40000 + 64 * (vf.val - 1) + 8 * w.val)
    (h : s.bar0Open p.val 0 o = true) (v : Word) : exec (.vfAssign p vf w v) s =
      let nv := (s.preg p.val o &&& (ones64 ^^^ vfMask w.val)) ||| (v.toNat &&& vfMask w.val)
      let u := s.wholeWrite p.val 0
      .next (if u.assignOk p.val vf.val w.val nv then u.setReg (regKey (some p.val) o) nv else u.accessLog p.val 0 o accIgnored) := by
  have hregs := (s.wholeWrite p.val 0).regWrite_assign p (Nat.pos_of_ne_zero hvf) vf.isLt w.isLt ho v.toNat
  rw [State.preg_wholeWrite] at hregs
  refine congrArg Host.Outcome.next ((State.atBar_of_fnOpen (State.fnOpen_of_bar0Open h) _ _).trans ?_)
  rw [vfAssign, if_neg hvf, ← ho, State.pfWrite, if_pos h, hregs]

/-- Settles O56: reads by width, alignment and latch, the two writes with rows of their own, and the halves of a split write. -/
theorem registerAccesses : Obligations.RegisterAccesses := by
  refine ⟨fun p s => ⟨fun off h hin hal => ?_, fun fn off hfn h hin hal => vf_reads hfn h hin hal, fun fn off h hin hal => door_reads h hin hal,
    fun fn off size h hin h8 h4 => ?_, fun st h => ?_, fun w h => ?_, fun vf w v hvf => ?_, fun off size v h hin h8 h4 => ?_⟩,
    fun p fn off lo hi s t hal hpf hvf h hthere ht => exec_registerWrite_halves hal hpf hvf h hthere ht⟩
  · obtain ⟨h8, h4⟩ := pf_reads h hin hal
    exact ⟨h8, h4, pf_reads_upper hin hal⟩
  · rw [exec_splitRead_bar0 h, splitRead_bad h hin h8 h4]
    rfl
  · rw [exec_streamWindowRead h, sampled_first]
    refine ⟨fun hp => ?_, fun hp => ?_⟩
    · have hmine : ¬ (s.dropLatch p.val).streamPort st.val ≠ p.val := not_not.mpr hp
      rw [if_neg hmine]
      rfl
    · have hother : (s.dropLatch p.val).streamPort st.val ≠ p.val := hp
      rw [if_pos hother]
  · exact congrArg Host.Outcome.next ((pfWrite_of_open h _ _ _).trans (State.regWrite_logPop ..))
  · intro o h nv u
    refine ⟨fun hok => ?_, fun hbad => ?_⟩
    · exact (vfAssign_writes hvf rfl h v).trans (congrArg _ (if_pos hok))
    · exact (vfAssign_writes hvf rfl h v).trans (congrArg _ (if_neg (by rw [hbad]; exact Bool.false_ne_true)))
  · exact (exec_registerWrite_of_bar0Open (fn := 0) (a := ⟨false, off⟩) h size v).trans (congrArg _ (registerWrite_bad h hin h8 h4 v))

end Sys2Proof.Machine
end


section
/-! PROOFS. Rings: enables, disables, timers of interrupts, and doorbells. -/

namespace Sys2Proof.Machine

variable {s : State} {p : PortIx} {fn : FnIx} {r : RingIx}

@[simp] theorem State.ring_wholeWrite (s : State) (p fn : Nat) : (s.wholeWrite p fn).ring = s.ring := by
  rw [State.wholeWrite_eq]
  rfl

@[simp] theorem State.modRing_setRing (s : State) (r : Nat) (g : Ring) (f : Ring → Ring) : (s.setRing r g).modRing r f = s.setRing r (f g) := by
  rw [State.modRing, State.ring_setRing, State.setRing_setRing]

/-! ### Enables (R395, R396) -/

theorem ringReached_wholeWrite (s : State) (p fn : Nat) : (s.wholeWrite p fn).ringReached = s.ringReached := by
  rw [State.wholeWrite_eq]
  rfl

theorem exec_ringEnable (h : s.barOpen p.val fn.val = true) (hr : s.ringReached p.val fn.val r.val = true) :
    exec (.ringEnable p fn r) s = .next ((s.wholeWrite p.val fn.val).enableRing p.val r.val) := by
  rw [exec_ringEnable_of_barOpen h]
  simp only [ringEnable, h]
  rw [ringReached_wholeWrite, hr]
  rfl

/-- Why an enable is refused does not depend on what the write of its register touches. -/
theorem enableRefusal_wholeWrite (s : State) (p fn r : Nat) : (s.wholeWrite p fn).enableRefusal r = s.enableRefusal r := by
  rw [State.wholeWrite_eq]
  rfl

theorem unitLost_wholeWrite (s : State) (p fn : Nat) : (s.wholeWrite p fn).unitLost = s.unitLost := by
  rw [State.wholeWrite_eq]
  rfl

/-- An enable of a ring that can be set up. -/
theorem enableRing_of_open (u : State) (i : Nat) {j : Nat} (hst : (u.ring j).st = .idle ∨ (u.ring j).st = .orphaned) (hlost : u.unitLost 0 j = false) :
    u.enableRing i j =
      if u.enableRefusal j = 0 then u.setRing j (u.ring j).fresh
      else
        let v := u.setRing j { u.ring j with refusal := u.enableRefusal j }
        if u.enableRefusal j = 2 then v.report lgDevice [] eClaim 7 (u.ring j).timer i else v := by
  have hopen : ¬ ((u.ring j).st ≠ .idle ∧ (u.ring j).st ≠ .orphaned ∨ u.unitLost 0 j = true) := by
    rw [hlost]
    rintro (⟨hidle, horph⟩ | hl)
    · exact hst.elim hidle horph
    · exact Bool.false_ne_true hl
  simp only [State.enableRing, if_neg hopen]
  rfl

section refusal
variable (u : State) (j : Nat)

/-- A ring that waits for its port to be quiesced. -/
def State.ringQuiet (u : State) (j : Nat) : Prop := (u.ring j).st = .orphaned → u.quiesced (u.ringPort j) = true
/-- The timer of a ring serves nothing else. -/
def State.timerFree (u : State) (j : Nat) : Prop := (u.ring j).timed = true → u.timerOfRing j (u.ring j).timer = false ∧ u.timerOfPort (u.ringPort j) (u.ring j).timer = false

variable {u j}

theorem enableRefusal_unlocked (h : u.locked = false) : u.enableRefusal j = 4 := by
  simp [State.enableRefusal, h]

theorem not_unquiet (h : u.ringQuiet j) : ¬ ((u.ring j).st = .orphaned ∧ (!u.quiesced (u.ringPort j)) = true) := by
  rintro ⟨ho, hq⟩
  rw [h ho] at hq
  exact Bool.false_ne_true hq

theorem enableRefusal_unquiet (h : u.locked = true) (hq : ¬ u.ringQuiet j) : u.enableRefusal j = 3 := by
  obtain ⟨ho, hq⟩ := Classical.not_imp.mp hq
  simp [State.enableRefusal, h, ho, hq]

theorem enableRefusal_outOfRange (h : u.locked = true) (hq : u.ringQuiet j) (hr : u.ringInRange j = false) : u.enableRefusal j = 1 := by
  simp only [State.enableRefusal, h, if_neg (not_unquiet hq), hr]
  rfl

theorem enableRefusal_accepted (h : u.locked = true) (hq : u.ringQuiet j) (hr : u.ringInRange j = true) (hf : u.timerFree j) :
    u.enableRefusal j = 0 := by
  have htimer : ((u.ring j).timed && (u.timerOfRing j (u.ring j).timer || u.timerOfPort (u.ringPort j) (u.ring j).timer)) = false := by
    cases ht : (u.ring j).timed
    · rfl
    · obtain ⟨h1, h2⟩ := hf ht
      rw [h1, h2]
      rfl
  simp only [State.enableRefusal, h, if_neg (not_unquiet hq), hr, htimer]
  rfl

theorem enableRefusal_timer (h : u.locked = true) (hq : u.ringQuiet j) (hr : u.ringInRange j = true) (hf : ¬ u.timerFree j) :
    u.enableRefusal j = 2 := by
  obtain ⟨ht, hf⟩ := Classical.not_imp.mp hf
  have htimer : ((u.ring j).timed && (u.timerOfRing j (u.ring j).timer || u.timerOfPort (u.ringPort j) (u.ring j).timer)) = true := by
    rw [ht, Bool.true_and, Bool.or_eq_true]
    by_contra hn
    rw [not_or, Bool.not_eq_true, Bool.not_eq_true] at hn
    exact hf hn
  simp only [State.enableRefusal, h, if_neg (not_unquiet hq), hr, htimer]
  rfl

end refusal

theorem fresh_eq (g : Ring) : g.fresh =
    { w0 := g.w0, w1 := g.w1, w2 := g.w2, w3 := g.w3, w4 := g.w4, st := .active,
      epoch := if g.st = .orphaned then g.epoch + 1 else g.epoch } := by
  rw [Ring.fresh]
  split <;> rfl

/-- An enable of a ring that can be set up, by why it is refused. -/
theorem ringEnable_of_open (h : s.barOpen p.val fn.val = true) (hr : s.ringReached p.val fn.val r.val = true)
    (hst : (s.ring r.val).st = .idle ∨ (s.ring r.val).st = .orphaned) (hlost : s.unitLost 0 r.val = false) {n : Nat} (hn : s.enableRefusal r.val = n) :
    exec (.ringEnable p fn r) s = .next
      (if n = 0 then (s.wholeWrite p.val fn.val).setRing r.val (s.ring r.val).fresh
      else
        let v := (s.wholeWrite p.val fn.val).setRing r.val { s.ring r.val with refusal := n }
        if n = 2 then v.report lgDevice [] eClaim 7 (s.ring r.val).timer p.val else v) := by
  rw [exec_ringEnable h hr, enableRing_of_open _ _ (by rwa [State.ring_wholeWrite]) (by rwa [unitLost_wholeWrite]), enableRefusal_wholeWrite, hn,
    State.ring_wholeWrite]

/-! ### Disables (R397) -/

theorem exec_ringDisable (h : s.barOpen p.val fn.val = true) (hr : s.ringReached p.val fn.val r.val = true) :
    exec (.ringDisable p fn r) s = .next ((s.wholeWrite p.val fn.val).drainRing r.val) := by
  refine congrArg Host.Outcome.next ((State.atBar_of_fnOpen (State.fnOpen_of_barOpen h) _ _).trans ?_)
  simp only [ringDisable, h]
  rw [ringReached_wholeWrite, hr]
  rfl

/-- Dropping the read of an entry drops no completion record. -/
theorem recordHeld_dropEntry (u : State) (j : Nat) : (u.dropEntry j).recordHeld j = u.recordHeld j := by
  rw [State.recordHeld, State.recordHeld, State.dropEntry, State.dropAccs, List.any_filter]
  refine congrArg (List.any u.accs) (funext fun a => ?_)
  cases a.why with
  | entry q => exact Bool.and_false _
  | _ => rfl

/-- A disabled ring before it has drained. -/
def State.disabled (u : State) (j : Nat) : State :=
  (u.dropEntry j).setRing j { u.ring j with st := .draining, head := none, rereads := 0 }

theorem drainRing_of_enabled (u : State) {j : Nat} (h : (u.ring j).st = .active ∨ (u.ring j).st = .stopped) :
    u.drainRing j = if (u.ring j).live = [] ∧ u.recordHeld j = false then
      ((u.disabled j).postCounters j).modRing j fun g => { g with st := .idle } else u.disabled j := by
  have hring : (u.disabled j).ring j = { u.ring j with st := .draining, head := none, rereads := 0 } := State.ring_setRing ..
  have hheld : (u.disabled j).recordHeld j = u.recordHeld j := recordHeld_dropEntry u j
  rw [State.drainRing, if_pos h]
  show (u.disabled j).ringDrained j = _
  simp only [State.ringDrained, hring, hheld, true_and]

theorem postCounters_of_none {u : State} {j : Nat} (h : (u.ring j).ctrAddr = 0) : u.postCounters j = u := if_pos h

/-! ### Interrupts and doorbells (R409, R398, R399) -/

theorem exec_irqTicksExpiry (hrun : s.running = true) (hc : (s.ring r.val).irqCount ≠ 0) (ht : (s.ring r.val).irqTicks ≠ 0)
    (hp : 0 < (s.ring r.val).pending) : exec (.irqTicksExpiry r) s =
      .next (if (s.ring r.val).pendingSince + (s.ring r.val).irqTicks ≤ s.ticks then s.ringIrq r.val else s) := by
  show Host.Outcome.next (irqTicksExpiry r s) = _
  simp only [irqTicksExpiry, hrun, bne_iff_ne.mpr hc, bne_iff_ne.mpr ht, hp, true_and, Bool.true_and, decide_eq_true_eq]

/-- A doorbell write whose page is owned, of the right size or not. -/
theorem doorbell_of_owned {a : DoorAddr} {i : Nat} (h : s.barOpen a.port.val a.fn.val = true) (hr : s.doorRing a = some i) (off : Nat)
    (act : State → Nat → State) : s.doorbell a off act =
      if a.size ≠ 4 then (s.accessed a.port.val a.fn.val).ringAccess a.port.val i (doorOff a + off) accSize
      else act (s.accessed a.port.val a.fn.val) i := by
  have hr' : (s.accessed a.port.val a.fn.val).doorRing a = some i := by
    rw [← hr, State.accessed]
    split <;> rfl
  simp only [State.doorbell, h, Bool.not_true, Bool.false_eq_true, if_false]
  split
  · next hn =>
    rw [← State.accessed, hr'] at hn
    cases hn
  · next j hj =>
    rw [← State.accessed, hr'] at hj
    cases hj
    rfl

@[simp] theorem ring_accessed (s : State) (p fn : Nat) : (s.accessed p fn).ring = s.ring := by
  rw [State.accessed]
  split <;> rfl

theorem exec_sqTail {a : DoorAddr} (h : s.barOpen a.port.val a.fn.val = true) (v : BitVec 32) :
    exec (.sqTail a v) s = .next (sqTail a v s) :=
  congrArg Host.Outcome.next (State.atBar_of_fnOpen (State.fnOpen_of_barOpen h) _ _)

theorem exec_cqHead {a : DoorAddr} (h : s.barOpen a.port.val a.fn.val = true) (v : BitVec 32) :
    exec (.cqHead a v) s = .next (cqHead a v s) :=
  congrArg Host.Outcome.next (State.atBar_of_fnOpen (State.fnOpen_of_barOpen h) _ _)

/-- A doorbell write that stops its ring. -/
theorem stopRing_eq (u : State) (j k off : Nat) : u.stopRing j k off =
    ((u.dropEntry j).setRing j { u.ring j with st := .stopped, head := none, rereads := 0 }).ringAccess k j off accDoorbell := rfl

section doors
variable {a : DoorAddr} {i : Nat} (h : s.barOpen a.port.val a.fn.val = true) (hr : s.doorRing a = some i)
include h hr

theorem sqTail_of_owned (v : BitVec 32) : sqTail a v s =
    let u := s.accessed a.port.val a.fn.val
    let g := s.ring i
    if a.size ≠ 4 then u.ringAccess a.port.val i (doorOff a) accSize
    else if g.st ≠ .active then u.ringAccess a.port.val i (doorOff a) accIgnored
    else if 2 ^ 31 ≤ (v - g.sqTail).toNat ∨ 2 ^ g.sqLog2 < (v - g.sqHead).toNat then
      ((u.dropEntry i).setRing i { g with st := .stopped, head := none, rereads := 0 }).ringAccess a.port.val i (doorOff a) accDoorbell
    else u.setRing i { g with sqTail := v, halfSeen := g.halfSeen && v == g.sqTail } := by
  rw [sqTail, doorbell_of_owned h hr]
  simp only [stopRing_eq, ring_accessed, State.modRing, Nat.add_zero]

theorem cqHead_of_owned (v : BitVec 32) : cqHead a v s =
    let u := s.accessed a.port.val a.fn.val
    let g := s.ring i
    if a.size ≠ 4 then u.ringAccess a.port.val i (doorOff a + 8) accSize
    else if g.st ≠ .active then u.ringAccess a.port.val i (doorOff a + 8) accIgnored
    else if (g.cqTail - g.cqHead).toNat < (v - g.cqHead).toNat then
      ((u.dropEntry i).setRing i { g with st := .stopped, head := none, rereads := 0 }).ringAccess a.port.val i (doorOff a + 8) accDoorbell
    else u.setRing i { g with cqHead := v } := by
  rw [cqHead, doorbell_of_owned h hr]
  simp only [stopRing_eq, ring_accessed, State.modRing]

end doors

/-- Settles O30: an enable by why it is refused, a disable by what the ring still has to do, and the interrupt and doorbells by their
counts. -/
theorem ringControl : Obligations.RingControl := by
  refine ⟨fun p fn r s h hr hst hlost => ?_, fun p fn r s h hr => ?_, fun r s hrun hc ht hp => ?_, fun a v s i h hr => ?_⟩
  · intro g v quiet free refused
    have hen (n : Nat) := ringEnable_of_open h hr hst hlost (n := n)
    refine ⟨fun hl hq hi hf => ?_, fun hl => hen 4 (enableRefusal_unlocked hl), fun hl hq => hen 3 (enableRefusal_unquiet hl hq),
      fun hl hq hi => hen 1 (enableRefusal_outOfRange hl hq hi), fun hl hq hi hf => hen 2 (enableRefusal_timer hl hq hi hf)⟩
    refine (hen 0 (enableRefusal_accepted hl hq hi hf)).trans ?_
    rw [if_pos rfl, fresh_eq]
  · intro g v drained
    have hring : v.ring r.val = g := congrFun (State.ring_wholeWrite ..) _
    have hheld : v.recordHeld r.val = s.recordHeld r.val := by
      simp only [v, State.wholeWrite_eq]
      rfl
    have hdis : v.disabled r.val = drained := by rw [State.disabled, hring]
    rw [exec_ringDisable h hr]
    refine ⟨fun hst => ?_, fun ha hs => ?_⟩
    · have hdrain := drainRing_of_enabled v (j := r.val) (by rwa [hring])
      rw [hring, hheld, hdis] at hdrain
      rw [hdrain]
      refine ⟨fun hbusy => ?_, fun hl hh => ?_, fun hl hh hc => ?_⟩
      · rw [if_neg]
        rintro ⟨hl, hh⟩
        exact hbusy.elim (fun hne => hne hl) fun hheld => by rw [hheld] at hh; cases hh
      · rw [if_pos ⟨hl, hh⟩]
      · have hnone : (drained.ring r.val).ctrAddr = 0 := by rw [State.ring_setRing]; exact hc
        rw [if_pos ⟨hl, hh⟩, postCounters_of_none hnone, State.modRing_setRing]
    · have hoff : ¬ ((v.ring r.val).st = .active ∨ (v.ring r.val).st = .stopped) := by
        rw [hring]
        exact fun hor => hor.elim ha hs
      rw [State.drainRing, if_neg hoff]
  · intro g
    rw [exec_irqTicksExpiry hrun hc ht hp]
    refine ⟨fun hd => ?_, fun hd => ?_⟩
    · rw [if_pos hd]
      rfl
    · rw [if_neg (Nat.not_le.mpr hd)]
  · intro g u off stopped
    have hsq : sqTail a v s = if a.size ≠ 4 then u.ringAccess a.port.val i off accSize
        else if g.st ≠ .active then u.ringAccess a.port.val i off accIgnored
        else if 2 ^ 31 ≤ (v - g.sqTail).toNat ∨ 2 ^ g.sqLog2 < (v - g.sqHead).toNat then stopped.ringAccess a.port.val i off accDoorbell
        else u.setRing i { g with sqTail := v, halfSeen := g.halfSeen && v == g.sqTail } := sqTail_of_owned h hr v
    have hcq : cqHead a v s = if a.size ≠ 4 then u.ringAccess a.port.val i (off + 8) accSize
        else if g.st ≠ .active then u.ringAccess a.port.val i (off + 8) accIgnored
        else if (g.cqTail - g.cqHead).toNat < (v - g.cqHead).toNat then stopped.ringAccess a.port.val i (off + 8) accDoorbell
        else u.setRing i { g with cqHead := v } := cqHead_of_owned h hr v
    rw [exec_sqTail h, exec_cqHead h, hsq, hcq]
    refine ⟨fun h4 => ?_, fun h4 => ⟨?_, ?_⟩⟩
    · rw [if_neg (not_not.mpr h4), if_neg (not_not.mpr h4)]
      refine ⟨fun ha hlt hle => ?_, fun ha hbad => ?_, fun ha => ?_, fun ha => ⟨fun hle => ?_, fun hlt => ?_⟩, fun ha => ?_⟩
      · rw [if_neg (not_not.mpr ha), if_neg (by omega)]
      · rw [if_neg (not_not.mpr ha), if_pos hbad]
      · rw [if_pos ha]
      · rw [if_neg (not_not.mpr ha), if_neg (Nat.not_lt.mpr hle)]
      · rw [if_neg (not_not.mpr ha), if_pos hlt]
      · rw [if_pos ha]
    · rw [if_pos h4]
    · rw [if_pos h4]

end Sys2Proof.Machine
end


section
/-! PROOFS. Failed checks of memories and datapaths, and the poison they leave. -/

namespace Sys2Proof.Machine

variable {s : State}

section located
variable {a u o : Nat} (hrun : s.running = true) (hl : s.locate a = some (u, o))
include hrun hl

theorem exec_patrol (good : Bool) : exec (.patrol a good) s = .next
    (if !s.unitUp u || good then s
    else if u < 8 then s.poisonUnit a u eCrumbCheck u (BitVec.ofNat 64 a) 2
    else if u < 10 then s.package.2.free.2.poisonUnit a u eLpddrInline s.package.1 (BitVec.ofNat 64 a) s.package.2.free.1
    else s) := by
  show Host.Outcome.next (patrol a good s) = _
  simp only [patrol, hl, hrun, Bool.not_true, Bool.false_or]

theorem exec_crumbCheckFail (hu : u < 8) (hg : s.unitGone u = false) (hp : s.poisoned a 1 = false) (k : Fin 3) :
    exec (.crumbCheckFail a k) s = .next
      (if k = 2 then s.poisonUnit a u eCrumbCheck u (BitVec.ofNat 64 a) 2
      else s.climb ⟨2, u⟩ (lgSifter u) [0, 1] eCrumbCheck 1 u (BitVec.ofNat 64 a) (BitVec.ofNat 64 (k.val + 1))) := by
  show Host.Outcome.next (crumbCheckFail a k s) = _
  simp only [crumbCheckFail, hl, hrun, hg, hp, decide_eq_false (Nat.not_le.mpr hu), Bool.not_true, Bool.or_self, Bool.or_false, decide_eq_true_eq,
    Bool.false_eq_true, if_false]

theorem exec_flashReadFail (hlo : 10 ≤ u) (hhi : u < 12) (hg : s.unitGone u = false) (k : Fin 9) :
    exec (.flashReadFail a k) s = .next
      (let q := s.flashChannel
      if k.val = 8 ∨ q.2.poisoned a 1 = true then q.2.poisonUnit (a / 4096 * 4096) u eFlashRead q.1 (BitVec.ofNat 64 (o / 4096)) 8
      else q.2.climb ⟨3, u % 2⟩ (lgHub (u % 2)) [0, 1] eFlashRead 1 q.1 (BitVec.ofNat 64 (o / 4096)) (BitVec.ofNat 64 (k.val + 1))) := by
  have hin : ¬ (u < 10 ∨ 12 ≤ u) := by omega
  show Host.Outcome.next (flashReadFail a k s) = _
  simp only [flashReadFail, hl, hrun, hg, decide_eq_false hin, Bool.not_true, Bool.or_self, Bool.false_eq_true, if_false, Bool.or_eq_true,
    decide_eq_true_eq]

theorem exec_inlineEccError (hlo : 8 ≤ u) (hhi : u < 10) (hg : s.unitGone u = false) (kind : Fin 3) (y : BitVec 64) :
    exec (.inlineEccError a kind y) s = .next
      (let q := s.package
      if kind = 0 then q.2.climb ⟨3, u % 2⟩ (lgHub (u % 2)) [0, 1] eLpddrLink 1 q.1 (BitVec.ofNat 64 a) 1
      else if kind = 1 then q.2.logEvent (lgHub (u % 2)) [0, 1] eLpddrInline cCorrected 0 0 q.1 (BitVec.ofNat 64 a) y
      else q.2.poisonUnit a u eLpddrInline q.1 (BitVec.ofNat 64 a) y) := by
  have hin : ¬ (u < 8 ∨ 10 ≤ u) := by omega
  show Host.Outcome.next (inlineEccError a kind y s) = _
  simp only [inlineEccError, hl, hrun, hg, decide_eq_false hin, Bool.not_true, Bool.or_self, Bool.false_eq_true, if_false]

end located

/-! ### Poison (R427) -/

theorem dvd_unitBase (v : Nat) : 4096 ∣ unitBase v := by
  unfold unitBase
  split_ifs <;> omega

/-- Rounding down within a page does not leave a window. -/
theorem unitBase_le_round {n : Nat} (hn : n ∣ 4096) (v a : Nat) : unitBase v ≤ a / n * n ↔ unitBase v ≤ a := by
  obtain ⟨k, hk⟩ := hn.trans (dvd_unitBase v)
  have hpos : 0 < n := Nat.pos_of_dvd_of_pos hn (by decide)
  rw [hk, Nat.mul_comm n k, Nat.mul_le_mul_right_iff hpos, Nat.le_div_iff_mul_le hpos]

theorem windowOf_round {a u o n : Nat} (hn : n ∣ 4096) (h : windowOf a = some (u, o)) : ∃ o', windowOf (a / n * n) = some (u, o') := by
  have hle : a / n * n ≤ a := Nat.div_mul_le_self a n
  have hsame : (fun v => decide (unitBase v ≤ a / n * n)) = fun v => decide (unitBase v ≤ a) := funext fun v => by
    simp only [unitBase_le_round hn]
  unfold windowOf at h ⊢
  rw [hsame]
  cases hv : (List.range 14).reverse.find? fun v => decide (unitBase v ≤ a) with
  | none =>
    simp only [hv] at h
    cases h
  | some v =>
    simp only [hv] at h ⊢
    generalize (if v < 8 then 0x1000000000 else if v < 10 then 0x10000000000 else if v < 12 then 0x80000000000 else 0x200000000000) = lim at h ⊢
    by_cases hlim : a - unitBase v < lim ∧ a < 2 ^ 48
    · rw [if_pos hlim] at h
      cases h
      exact ⟨_, if_pos ⟨by omega, by omega⟩⟩
    · rw [if_neg hlim] at h
      cases h

/-- The size of a unit of marking. -/
def markSize (u : Nat) : Nat := if u < 8 then 32 else if u < 10 then 8 else 4096

theorem markSize_dvd (u : Nat) : markSize u ∣ 4096 ∧ 0 < markSize u := by
  unfold markSize
  split_ifs <;> decide

theorem markUnit_of_window {a u o : Nat} (h : windowOf a = some (u, o)) : markUnit a = (a / markSize u * markSize u, markSize u) := by
  simp only [markUnit, h]
  rfl

/-- The unit of marking at an address holds it. -/
theorem markUnit_covers {a u o : Nat} (h : windowOf a = some (u, o)) :
    (markUnit a).1 < a + 1 ∧ a < (markUnit a).1 + (markUnit (markUnit a).1).2 := by
  obtain ⟨hdvd, hpos⟩ := markSize_dvd u
  obtain ⟨o', h'⟩ := windowOf_round hdvd h
  rw [markUnit_of_window h, markUnit_of_window h']
  exact ⟨Nat.lt_succ_of_le (Nat.div_mul_le_self ..), Nat.lt_div_mul_add hpos⟩

theorem poisonAt_poisoned {a u o : Nat} (h : windowOf a = some (u, o)) (s : State) : (s.poisonAt a).poisoned a 1 = true := by
  have hmem : (markUnit a).1 ∈ (s.poisonAt a).poison := by
    rw [State.poisonAt]
    split
    · next hc => exact List.contains_iff_mem.mp hc
    · exact List.mem_append_right _ (List.mem_singleton_self _)
  exact List.any_eq_true.mpr ⟨_, hmem, decide_eq_true (markUnit_covers h)⟩

theorem poisonAt_leaves (s : State) (a : Nat) : (s.poisonAt a).dmem = s.dmem ∧ (s.poisonAt a).cores = s.cores := by
  rw [State.poisonAt]
  split <;> exact ⟨rfl, rfl⟩

theorem windowOf_of_locate {a u o : Nat} (h : s.locate a = some (u, o)) : windowOf a = some (u, o) := by
  unfold State.locate at h
  split at h
  · next v w hw =>
    split at h
    · cases h
      exact hw
    · cases h
  · cases h

/-- A unit that fails beyond repair is poisoned, and its bytes stay. -/
theorem poisonUnit_new {a u o : Nat} (hl : s.locate a = some (u, o)) (hg : s.unitGone u = false) (hp : s.poisoned a 1 = false) (code unit : Nat)
    (x y : Word) : (s.poisonUnit a u code unit x y).poisoned a 1 = true ∧ (s.poisonUnit a u code unit x y).dmem = s.dmem ∧
      (s.poisonUnit a u code unit x y).cores = s.cores := by
  have hlog := HostSide.logEvent (s.poisonAt a) (memLog u) [0, 1] code cPoisoned 0 0 unit x y
  obtain ⟨hmem, hcores⟩ := poisonAt_leaves s a
  rw [State.poisonUnit, hg, hp, if_neg Bool.false_ne_true, if_neg Bool.false_ne_true]
  exact ⟨by rw [hlog.poisoned]; exact poisonAt_poisoned (windowOf_of_locate hl) s, hlog.dmem.trans hmem, hlog.cores.trans hcores⟩

/-! ### Datapaths and SRAM -/

theorem exec_residue_cluster (hrun : s.running = true) {u : FnUnit} (hl : (s.unitSt u).lost = false) (hf : u.fn = 1) (hu : u.unit < 8) (g o : BitVec 64) :
    exec (.residue u g o) s = .next (s.climb u (s.fnLog u).1 [0, 1] eResidue 1 (s.fnLog u).2 g o) := by
  show Host.Outcome.next (residue u g o s) = _
  simp only [residue, hrun, hl, Bool.not_true, Bool.or_self, Bool.false_eq_true, if_false, if_pos (And.intro hf hu)]

theorem exec_residue_sifter (hrun : s.running = true) {u : FnUnit} (hl : (s.unitSt u).lost = false) (hf : u.fn = 2) (hu : u.unit < 10) (g o : BitVec 64) :
    exec (.residue u g o) s = .next ((s.countClimb u).1.climb u (s.fnLog u).1 [0, 1] eResidue (if (s.countClimb u).2 then 2 else 1)
      (s.fnLog u).2 g o) := by
  have hne : ¬ (u.fn = 1 ∧ u.unit < 8) := by
    rintro ⟨h1, -⟩
    rw [hf] at h1
    exact absurd h1 (by decide)
  show Host.Outcome.next (residue u g o s) = _
  simp only [residue, hrun, hl, Bool.not_true, Bool.or_self, Bool.false_eq_true, if_false, if_neg hne, if_pos (And.intro hf hu)]

theorem exec_sramUncorrected_word (hrun : s.running = true) (c : CoreIx) {a : Nat} (y : BitVec 64) (ha : a < 0x300000)
    (hn : a / 8 ∉ (s.core c.val).lsPoison) : exec (.sramUncorrected (.coreWord c a) y) s =
      .next ((s.setCore c.val { s.core c.val with lsPoison := (s.core c.val).lsPoison ++ [a / 8] }).machineCheckAt c.val eSramUncorrected cPoisoned
        enIssue (BitVec.ofNat 64 a) y) := by
  have hnew : ¬ (s.core c.val).lsPoison.contains (a / 8) = true := by rwa [List.contains_iff_mem]
  show Host.Outcome.next (sramUncorrected (.coreWord c a) y s) = _
  simp only [sramUncorrected, hrun, Bool.not_true, Bool.false_eq_true, if_false, if_pos ha, State.modCore, if_neg hnew]

theorem exec_sramUncorrected_tile (hrun : s.running = true) (c : CoreIx) (n : Fin 64) (y : BitVec 64) :
    exec (.sramUncorrected (.coreTile c n) y) s =
      .next ((s.setCore c.val { s.core c.val with trees := (s.core c.val).trees.map fun t =>
        if t.tile ≤ n.val ∧ n.val < t.tile + t.tag.tiles then { t with poisoned := true } else t }).machineCheckAt c.val eSramUncorrected cPoisoned
          enIssue (BitVec.ofNat 64 n.val) y) := by
  show Host.Outcome.next (sramUncorrected (.coreTile c n) y s) = _
  simp only [sramUncorrected, hrun, Bool.not_true, Bool.false_eq_true, if_false, State.modCore]

theorem exec_sramUncorrected_side (hrun : s.running = true) (c : CoreIx) {n : Fin 8192} (y : BitVec 64) (hn : n.val ∉ (s.core c.val).sidePoison) :
    exec (.sramUncorrected (.coreSide c n) y) s =
      .next ((s.setCore c.val { s.core c.val with sidePoison := (s.core c.val).sidePoison ++ [n.val] }).machineCheckAt c.val eSramUncorrected cPoisoned
        enIssue (BitVec.ofNat 64 n.val) y) := by
  have hnew : ¬ (s.core c.val).sidePoison.contains n.val = true := by rwa [List.contains_iff_mem]
  show Host.Outcome.next (sramUncorrected (.coreSide c n) y s) = _
  simp only [sramUncorrected, hrun, Bool.not_true, Bool.false_eq_true, if_false, State.modCore, if_neg hnew]

theorem exec_sramUncorrected_function (hrun : s.running = true) (u : FnUnit) (y : BitVec 64) : exec (.sramUncorrected (.function u) y) s =
    .next (s.climb u (s.fnLog u).1 [0, 1] eSramUncorrected 2 (s.fnLog u).2 (BitVec.ofNat 64 u.unit) y) := by
  show Host.Outcome.next (sramUncorrected (.function u) y s) = _
  simp only [sramUncorrected, hrun, Bool.not_true, Bool.false_eq_true, if_false]

/-- Settles O41: each check by what it finds, and the mark and bytes of a unit that is poisoned. -/
theorem memoryChecks : Obligations.MemoryChecks := by
  refine ⟨fun s hrun => ⟨fun a u o hl => ?_, fun u g o hl => ⟨fun hf hu => exec_residue_cluster hrun hl hf hu g o,
    fun hf hu => exec_residue_sifter hrun hl hf hu g o⟩, fun c a y ha hn => exec_sramUncorrected_word hrun c y ha hn,
    exec_sramUncorrected_tile hrun, fun c n y hn => exec_sramUncorrected_side hrun c y hn, exec_sramUncorrected_function hrun⟩,
    fun s a u o code unit x y hl hg hp => poisonUnit_new hl hg hp code unit x y⟩
  refine ⟨?_, fun hu hup => ?_, fun hlo hhi hup => ?_, fun hu hg hp => ⟨fun k hk => ?_, ?_⟩, fun hlo hhi hg => ?_, fun hlo hhi hg y => ?_⟩
  · rw [exec_patrol hrun hl, Bool.or_true, if_pos rfl]
  · rw [exec_patrol hrun hl, hup, if_pos hu]
    rfl
  · rw [exec_patrol hrun hl, hup, if_neg (Nat.not_lt.mpr hlo), if_pos hhi]
    rfl
  · rw [exec_crumbCheckFail hrun hl hu hg hp, if_neg]
    rintro rfl
    exact absurd hk (by decide)
  · rw [exec_crumbCheckFail hrun hl hu hg hp, if_pos rfl]
  · intro q
    refine ⟨fun k hk hp => ?_, ?_⟩
    · have hno : ¬ (k.val = 8 ∨ q.2.poisoned a 1 = true) := by
        rw [hp]
        exact fun h => h.elim (Nat.ne_of_lt hk) Bool.false_ne_true
      exact (exec_flashReadFail hrun hl hlo hhi hg k).trans (congrArg _ (if_neg hno))
    · exact (exec_flashReadFail hrun hl hlo hhi hg 8).trans (congrArg _ (if_pos (.inl rfl)))
  · intro q
    refine ⟨?_, ?_, ?_⟩
    · rw [exec_inlineEccError hrun hl hlo hhi hg]
      rfl
    · rw [exec_inlineEccError hrun hl hlo hhi hg]
      rfl
    · rw [exec_inlineEccError hrun hl hlo hhi hg]
      rfl

end Sys2Proof.Machine
end


section
/-! PROOFS. What the completion of a descriptor changes, and the descriptors `NOP`, `FENCE`, `FLUSH`, `HOST_ATOMIC`, `SYNC_SET` and
`TICKS`. -/

namespace Sys2Proof.Machine

variable {s t u : State} {q : Nat}

/-! ### Rings of which no record waits -/

/-- An access that carries a completion record of a ring. -/
def AccWhy.recordOf (q : Nat) : AccWhy → Bool
  | .record r _ _ _ => r == q
  | _ => false

/-- No completion record of a ring waits for its release, or to be told of it. -/
structure NoRecord (q : Nat) (s : State) : Prop where
  held : ∀ a ∈ s.accs, a.why.recordOf q = false
  told : ∀ x ∈ s.released, x.1 ≠ q

/-- A step that leaves a ring of which no record waits as it is, with none waiting. -/
structure Spares (q : Nat) (s t : State) : Prop where
  keep : NoRecord q s → NoRecord q t ∧ t.ring q = s.ring q

namespace Spares

theorem refl (q : Nat) (s : State) : Spares q s s := ⟨fun h => ⟨h, rfl⟩⟩

theorem trans (h : Spares q s t) (g : Spares q t u) : Spares q s u := ⟨fun hs =>
  have ⟨ht, hring⟩ := h.keep hs
  have ⟨hu, hring'⟩ := g.keep ht
  ⟨hu, hring'.trans hring⟩⟩

theorem of_same (ha : t.accs = s.accs) (hr : t.released = s.released) (hg : t.ring q = s.ring q) : Spares q s t :=
  ⟨fun h => ⟨⟨by rw [ha]; exact h.held, by rw [hr]; exact h.told⟩, hg⟩⟩

theorem modRing {r : Nat} (h : q ≠ r) (s : State) (f : Ring → Ring) : Spares q s (s.modRing r f) :=
  of_same rfl rfl (State.ring_setRing_ne _ _ _ h)

/-- A posted access that is released tells the ring of a record, which is another. -/
theorem noteReleased {a : HostAcc} (h : a.why.recordOf q = false) (s : State) : Spares q s (s.noteReleased a) := by
  cases hw : a.why with
  | record r irq since slot =>
    have hne : q ≠ r := by
      rw [hw] at h
      exact fun he => (beq_eq_false_iff_ne.mp h) he.symm
    simp only [State.noteReleased, hw]
    split
    all_goals
      refine ⟨fun hs => ⟨⟨hs.held, fun x hx => ?_⟩, ?_⟩⟩
      · rcases List.mem_append.mp hx with hx | hx
        · exact hs.told x hx
        · rw [List.mem_singleton.mp hx]
          exact hne.symm
    · exact State.ring_setRing_ne _ _ _ hne
    · rfl
  | _ =>
    simp only [State.noteReleased, hw]
    exact refl q s

theorem advance {a : HostAcc} (h : a.why.recordOf q = false) (s : State) (before : List HostAcc) :
    Spares q s (s.advance before a).1 := by
  obtain ⟨hs | ⟨o, hs⟩ | hs, -⟩ := HostSide.advance_cases s before a
  · rw [hs]
    exact refl q s
  · rw [hs]
    exact of_same rfl rfl rfl
  · rw [hs]
    exact (of_same rfl rfl rfl : Spares q s (s.emit (s.accOut a))).trans (noteReleased h _)

/-- Moving accesses on, none of which carries a record of the ring. -/
theorem pumpFrom (l : List HostAcc) : ∀ (s : State) (kept : List HostAcc), (∀ a ∈ kept, a.why.recordOf q = false) →
    (∀ a ∈ l, a.why.recordOf q = false) →
    Spares q s (s.pumpFrom kept l).1 ∧ ∀ a ∈ (s.pumpFrom kept l).2, a.why.recordOf q = false := by
  induction l with
  | nil => exact fun s kept hk _ => ⟨refl q s, hk⟩
  | cons a l ih =>
    intro s kept hk hl
    obtain ⟨ha, hl⟩ := List.forall_mem_cons.mp hl
    have hstep := advance ha s kept
    obtain ⟨-, hwhy⟩ := HostSide.advance_cases s kept a
    rw [State.pumpFrom]
    split
    · next t heq =>
      rw [heq] at hstep
      obtain ⟨hrest, hkept⟩ := ih t kept hk hl
      exact ⟨hstep.trans hrest, hkept⟩
    · next t b heq =>
      rw [heq] at hstep hwhy
      have hb : b.why.recordOf q = false := by rw [hwhy b rfl, ha]
      obtain ⟨hrest, hkept⟩ := ih t (kept ++ [b]) (List.forall_mem_append.mpr ⟨hk, by simpa using hb⟩) hl
      exact ⟨hstep.trans hrest, hkept⟩

theorem pump (s : State) : Spares q s s.pump := by
  refine ⟨fun hs => ?_⟩
  obtain ⟨hrest, hkept⟩ := pumpFrom s.accs s [] (by simp) hs.held
  obtain ⟨hno, hring⟩ := hrest.keep hs
  exact ⟨⟨hkept, hno.told⟩, hring⟩

theorem hostStart {why : AccWhy} (h : why.recordOf q = false) (s : State) (p fn : Nat) (pasid : Option (BitVec 20)) (addr len : Nat)
    (kind : AccKind) (item : ItemId) : Spares q s (s.hostStart p fn pasid addr len kind why item) := by
  unfold State.hostStart
  split
  · exact refl q s
  · refine trans (t := { s with accs := s.accs ++ [_], nextAcc := s.nextAcc + 1 }) ⟨fun hs => ⟨⟨?_, hs.told⟩, rfl⟩⟩ (pump _)
    exact List.forall_mem_append.mpr ⟨hs.held, by simpa using h⟩

theorem hostPost (s : State) (p fn : Nat) (pasid : Option (BitVec 20)) (addr : Nat) (data : Bytes) :
    Spares q s (s.hostPost p fn pasid addr data) := hostStart rfl ..

theorem msixSend (s : State) (p fn vec : Nat) : Spares q s (s.msixSend p fn vec) := by
  unfold State.msixSend
  extract_lets f
  split
  · exact of_same rfl rfl rfl
  · exact hostStart rfl ..

theorem postCounters (s : State) (r : Nat) : Spares q s (s.postCounters r) := by
  unfold State.postCounters
  extract_lets g
  split
  · exact refl q s
  · exact hostPost ..

/-! ### Records that are released -/

theorem freeSlot (s : State) (p : Nat) (x : Option (Nat × Nat)) : Spares q s (s.freeSlot p x) := by
  unfold State.freeSlot
  split
  · split
    · exact of_same rfl rfl rfl
    · exact refl q s
  · exact refl q s

theorem ringPend {r : Nat} (h : q ≠ r) (s : State) (now : Bool) : Spares q s (s.ringPend r now) := by
  unfold State.ringPend
  extract_lets s' g
  have hs : Spares q s s' := modRing h s _
  split
  · exact hs.trans ((modRing h s' fun g => { g with pending := 0 }).trans (msixSend ..))
  · exact hs

theorem ringDrained {r : Nat} (h : q ≠ r) (s : State) : Spares q s (s.ringDrained r) := by
  unfold State.ringDrained
  extract_lets g
  split
  · exact (postCounters s r).trans (modRing h _ _)
  · exact refl q s

theorem recordOut {x : Nat × Bool × Option (Nat × Nat)} (h : q ≠ x.1) (s : State) : Spares q s (s.recordOut x) :=
  ((freeSlot s _ _).trans (ringPend h _ _)).trans (ringDrained h _)

theorem tellReleased (s : State) : Spares q s s.tellReleased := by
  refine ⟨fun hs => ?_⟩
  have hclear : Spares q s { s with released := [] } := ⟨fun hs => ⟨⟨hs.held, by simp⟩, rfl⟩⟩
  have hall : Spares q { s with released := [] } s.tellReleased := by
    rw [State.tellReleased]
    refine List.foldlRecOn (motive := Spares q { s with released := [] }) _ _ (refl q _) fun t ht x hx => ht.trans (recordOut ?_ t)
    exact (hs.told x hx).symm
  exact (hclear.trans hall).keep hs

end Spares

/-! ### What telling of records leaves -/

/-- Only the traffic to the hosts, the services and what rings count of it have changed; an active ring stays active. -/
structure Tells (s t : State) : Prop where
  cores : t.cores = s.cores
  dmem : t.dmem = s.dmem
  insts : t.insts = s.insts
  syncs : t.syncs = s.syncs
  ring : ∀ r, (s.ring r).st = .active → ∃ late pending since, t.ring r = { s.ring r with late := late, pending := pending, pendingSince := since }

namespace Tells

theorem refl (s : State) : Tells s s := ⟨rfl, rfl, rfl, rfl, fun r _ => ⟨(s.ring r).late, (s.ring r).pending, (s.ring r).pendingSince, rfl⟩⟩

theorem trans (h : Tells s t) (g : Tells t u) : Tells s u := by
  refine ⟨g.cores.trans h.cores, g.dmem.trans h.dmem, g.insts.trans h.insts, g.syncs.trans h.syncs, fun r hr => ?_⟩
  obtain ⟨_, _, _, ht⟩ := h.ring r hr
  obtain ⟨a, b, c, hu⟩ := g.ring r (by rw [ht]; exact hr)
  exact ⟨a, b, c, by rw [hu, ht]⟩

theorem of_hostSide (h : HostSide s t) : Tells s t := by
  refine ⟨h.cores, h.dmem, h.insts, h.syncs, fun r _ => ?_⟩
  obtain ⟨n, hn⟩ := h.ring r
  exact ⟨n, (s.ring r).pending, (s.ring r).pendingSince, hn⟩

theorem pend (s : State) (r : Nat) (pending since : Nat) :
    Tells s (s.setRing r { s.ring r with pending := pending, pendingSince := since }) := by
  refine ⟨rfl, rfl, rfl, rfl, fun q _ => ?_⟩
  by_cases hq : q = r
  · subst hq
    exact ⟨(s.ring q).late, pending, since, State.ring_setRing ..⟩
  · exact ⟨_, _, _, State.ring_setRing_ne _ _ _ hq⟩

theorem hostPost (s : State) (p fn : Nat) (pasid : Option (BitVec 20)) (addr : Nat) (data : Bytes) :
    Tells s (s.hostPost p fn pasid addr data) := of_hostSide (HostSide.hostStart ..)

theorem postCounters (s : State) (r : Nat) : Tells s (s.postCounters r) := by
  unfold State.postCounters
  extract_lets g
  split
  · exact refl s
  · exact hostPost ..

theorem freeSlot (s : State) (p : Nat) (x : Option (Nat × Nat)) : Tells s (s.freeSlot p x) := by
  unfold State.freeSlot
  split
  · split
    · exact ⟨rfl, rfl, rfl, rfl, (refl s).ring⟩
    · exact refl s
  · exact refl s

theorem ringPend (s : State) (r : Nat) (now : Bool) : Tells s (s.ringPend r now) := by
  unfold State.ringPend
  extract_lets s' g
  have hs : Tells s s' := pend s r _ _
  split
  · exact hs.trans ((pend s' r 0 (s'.ring r).pendingSince).trans (of_hostSide (HostSide.msixSend ..)))
  · exact hs

/-- A ring that goes idle was draining. -/
theorem ringDrained (s : State) (r : Nat) : Tells s (s.ringDrained r) := by
  unfold State.ringDrained
  extract_lets g
  split
  · next hd =>
    have hpost := postCounters s r
    refine ⟨hpost.cores, hpost.dmem, hpost.insts, hpost.syncs, fun q hq => ?_⟩
    have hne : q ≠ r := by
      rintro rfl
      rw [hd.1] at hq
      cases hq
    obtain ⟨a, b, c, h⟩ := hpost.ring q hq
    exact ⟨a, b, c, by rw [State.modRing, State.ring_setRing_ne _ _ _ hne, h]⟩
  · exact refl s

theorem recordOut (s : State) (x : Nat × Bool × Option (Nat × Nat)) : Tells s (s.recordOut x) :=
  ((freeSlot s _ _).trans (ringPend ..)).trans (ringDrained ..)

theorem tellReleased (s : State) : Tells s s.tellReleased := by
  have hclear : Tells s { s with released := [] } := ⟨rfl, rfl, rfl, rfl, (refl s).ring⟩
  refine hclear.trans ?_
  rw [State.tellReleased]
  exact List.foldlRecOn (motive := Tells { s with released := [] }) _ _ (refl _) fun t ht x _ => ht.trans (recordOut t x)

end Tells

end Sys2Proof.Machine
end


section
/-! PROOFS. The completion of a descriptor, and the descriptors `NOP`, `FENCE`, `FLUSH`, `HOST_ATOMIC`, `SYNC_SET` and `TICKS`. -/

namespace Sys2Proof.Machine

variable {s : State} {r pos : Nat} {d : Done}

/-! ### Completion (R405, R407-R409) -/

/-- The ring without a descriptor that completes. -/
def State.dropLive (s : State) (r pos : Nat) : State := s.modRing r fun g => { g with live := g.live.filter fun e => e.pos != pos }

/-- What goes to the host before the record of a completion: the counter block and the report. -/
def State.beforeRecord (s : State) (r : Nat) (pasid : Option (BitVec 20)) (d : Done) : State :=
  let t := if d.counts then s.postCounters r else s
  match d.rep with
  | some x => t.hostPost (s.ringPort r) (t.ringFn r) pasid x.1 x.2
  | none => t

theorem hostSide_postCounters (s : State) (r : Nat) : HostSide s (s.postCounters r) := by
  unfold State.postCounters
  extract_lets g
  split
  · exact .refl s
  · exact HostSide.hostStart ..

theorem beforeRecord_frame (s : State) (r : Nat) (pasid : Option (BitVec 20)) (d : Done) :
    HostSide s (s.beforeRecord r pasid d) ∧ ∀ q, Spares q s (s.beforeRecord r pasid d) := by
  unfold State.beforeRecord
  extract_lets t
  have ht : HostSide s t ∧ ∀ q, Spares q s t := by
    unfold t
    split
    · exact ⟨hostSide_postCounters s r, fun q => Spares.postCounters s r⟩
    · exact ⟨.refl s, fun q => .refl q s⟩
  split
  · exact ⟨ht.1.trans (HostSide.hostStart ..), fun q => (ht.2 q).trans (Spares.hostPost ..)⟩
  · exact ht

/-- The end of a completion: the tail moves over the record, and rings are told of what has been released. -/
def State.recorded (s : State) (r : Nat) : State := (s.modRing r fun g => { g with cqTail := g.cqTail + 1 }).tellReleased

/-- A descriptor of an active ring leaves it, its counters and report go out, its record follows, and the tail moves on. -/
theorem complete_of_active {e : Live} (h : (s.ring r).live.find? (fun e => e.pos == pos) = some e) (hst : (s.ring r).st = .active) :
    ∃ t, HostSide (s.dropLive r pos) t ∧ (∀ q, q ≠ r → Spares q (s.dropLive r pos) t) ∧ s.complete r pos d = t.recorded r := by
  have hno : ¬ (s.ring r).st = .orphaned := by
    rw [hst]
    decide
  obtain ⟨hside, hspare⟩ := beforeRecord_frame (s.dropLive r pos) r (s.ring r).pasid d
  have hrec (q : Nat) (hq : q ≠ r) (irq : Bool) : (AccWhy.record r irq d.since d.slot).recordOf q = false := beq_eq_false_iff_ne.mpr hq.symm
  have heq : ∃ p fn pasid addr len kind irq, s.complete r pos d =
      (((s.dropLive r pos).beforeRecord r (s.ring r).pasid d).hostStart p fn pasid addr len kind (.record r irq d.since d.slot) noItem).recorded r := by
    simp only [State.complete, h, if_neg hno]
    exact ⟨_, _, _, _, _, _, _, rfl⟩
  obtain ⟨p, fn, pasid, addr, len, kind, irq, heq⟩ := heq
  exact ⟨_, hside.trans (HostSide.hostStart ..), fun q hq => (hspare q).trans (Spares.hostStart (hrec q hq irq) ..), heq⟩

/-- What the completion of a descriptor of an active ring leaves. -/
theorem complete_leaves {e : Live} (h : (s.ring r).live.find? (fun e => e.pos == pos) = some e) (hst : (s.ring r).st = .active) :
    let t := s.complete r pos d
    (t.ring r).live = (s.ring r).live.filter (fun e => e.pos != pos) ∧ (t.ring r).cqTail = (s.ring r).cqTail + 1 ∧
      (t.ring r).st = .active ∧ (t.ring r).sqHead = (s.ring r).sqHead ∧ (t.ring r).head = (s.ring r).head ∧
      (s.released = [] → (∀ q, q ≠ r → s.recordHeld q = false) → ∀ q, q ≠ r → t.ring q = s.ring q) ∧ t.dmem = s.dmem ∧ t.cores = s.cores ∧
      t.insts = s.insts ∧ t.syncs = s.syncs := by
  intro t
  obtain ⟨u, hside, hspare, heq⟩ := complete_of_active (d := d) h hst
  obtain ⟨n, hn⟩ := hside.ring r
  rw [State.dropLive, State.modRing, State.ring_setRing] at hn
  have htell := Tells.tellReleased (u.modRing r fun g => { g with cqTail := g.cqTail + 1 })
  have hring : (u.modRing r fun g => { g with cqTail := g.cqTail + 1 }).ring r = { u.ring r with cqTail := (u.ring r).cqTail + 1 } := State.ring_setRing ..
  obtain ⟨a, b, c, ht⟩ := htell.ring r (by rw [hring, hn]; exact hst)
  have ht : t.ring r = _ := (congrArg (State.ring · r) heq).trans ht
  rw [hring, hn] at ht
  refine ⟨by rw [ht], by rw [ht], by rw [ht]; exact hst, by rw [ht], by rw [ht], fun hrel hheld q hq => ?_, ?_, ?_, ?_, ?_⟩
  · have hno : NoRecord q s := by
      refine ⟨fun a ha => ?_, by rw [hrel]; simp⟩
      have hall := List.any_eq_false.mp (hheld q hq) a ha
      cases hw : a.why with
      | record i irq since slot =>
        simp only [hw] at hall
        exact Bool.eq_false_iff.mpr hall
      | _ => rfl
    have hchain : Spares q s t := by
      have hlast : Spares q u (u.recorded r) := (Spares.modRing hq u _).trans (Spares.tellReleased _)
      have hfirst : Spares q s (s.dropLive r pos) := Spares.modRing hq s _
      show Spares q s (s.complete r pos d)
      rw [heq]
      exact (hfirst.trans (hspare q hq)).trans hlast
    exact (hchain.keep hno).2
  · exact (congrArg State.dmem heq).trans (htell.dmem.trans hside.dmem)
  · exact (congrArg State.cores heq).trans (htell.cores.trans hside.cores)
  · exact (congrArg State.insts heq).trans (htell.insts.trans hside.insts)
  · exact (congrArg State.syncs heq).trans (htell.syncs.trans hside.syncs)

/-! ### The plain descriptors -/

section plain
variable {r : RingIx} {x : Live}

theorem exec_descNop (h : s.descOf r.val pos 0x00 = some x) :
    exec (.descNop r pos) s = .next (s.completeWith r.val pos (if unnamed x.entry [] then stBadDescriptor else stOk)) := by
  show Host.Outcome.next (descNop r pos s) = _
  simp only [descNop, h]

theorem exec_flush (h : s.descOf r.val pos 0x02 = some x) (hn : unnamed x.entry [] = false) : exec (.flush r pos) s =
    .next ({ s with cache := s.cache.filter fun y => y.space != 1 + s.ringPort r.val }.completeWith r.val pos stOk) := by
  show Host.Outcome.next (flush r pos s) = _
  simp only [flush, h, hn]
  rfl

theorem exec_ticks (h : s.descOf r.val pos 0x05 = some x) (hn : unnamed x.entry [] = false) : exec (.ticks r pos) s =
    .next (s.complete r.val pos { status := stOk, r0 := BitVec.ofNat 64 s.ticks }) := by
  show Host.Outcome.next (ticks r pos s) = _
  simp only [ticks, h, hn]
  rfl

theorem syncSet_object (b : Bytes) : bfld b 8 4 0 14 = fieldAt b 8 4 % 2 ^ 14 := by
  rw [bfld]
  exact fld_zero_eq _ 14

theorem exec_syncSet (h : s.descOf r.val pos 0x04 = some x) (hn : unnamed x.entry [(64, 14), (96, 32)] = false) {o : Nat}
    (hobj : bfld x.entry 8 4 0 14 = o) (ho : s.owns (s.ringPort r.val) (s.ringFn r.val) .sync o = true) : exec (.syncSet r pos) s =
      .next (((s.setSync o { count := BitVec.ofNat 32 (fieldAt x.entry 12 4), aborted := false, underflow := false }).completeWith
        r.val pos stOk).settle) := by
  show Host.Outcome.next (syncSet r pos s) = _
  simp only [syncSet, h, hn, hobj, ho]
  rfl

theorem exec_hostAtomic (h : s.descOf r.val pos 0x03 = some x) (hn : unnamed x.entry [(64, 64), (128, 64), (192, 64), (256, 2)] = false)
    (hen : (s.fnc (s.ringPort r.val) (s.ringFn r.val)).atomicEn = true) (hg : s.hostGone r.val = false)
    (hal : fieldAt x.entry 8 8 % (if (fieldAt x.entry 32 8).testBit 1 then 8 else 4) = 0) : exec (.hostAtomic r pos) s =
      .next ((s.begin r.val pos).hostStart (s.ringPort r.val) (s.ringFn r.val) (s.ring r.val).pasid (fieldAt x.entry 8 8)
        (if (fieldAt x.entry 32 8).testBit 1 then 8 else 4)
        (.atomic ((fieldAt x.entry 32 8).testBit 0) ((fieldAt x.entry 32 8).testBit 1) (BitVec.ofNat 64 (fieldAt x.entry 16 8))
          (BitVec.ofNat 64 (fieldAt x.entry 24 8))) (.atomic r.val pos) noItem) := by
  show Host.Outcome.next (hostAtomic r pos s) = _
  simp only [hostAtomic, h, hn, hen, hg, bitAt_eq_testBit, hal, ne_eq, not_true_eq_false, decide_false, Bool.not_true, Bool.or_self,
    Bool.false_eq_true, if_false]

/-- The function of a ring is read off the registers. -/
theorem ringFn_of_reg {s t : State} (h : t.reg = s.reg) : t.ringFn = s.ringFn := by
  funext r
  simp only [State.ringFn, State.vfWord, State.preg, State.ringPort, State.claim, State.dreg, h]

theorem HostSide.ringFn {t : State} (h : HostSide s t) : t.ringFn = s.ringFn := by
  refine ringFn_of_reg ?_
  rw [h.rest]
  rfl

/-- One read of a fence. -/
def State.fenceRead (s : State) (g : Ring) (p fn r pos : Nat) (f : Nat × Nat) : State :=
  s.hostStart f.1 f.2 (if f.1 = p ∧ f.2 = fn then g.pasid else none) g.cqBase 0 .fenceRead (.fence r pos) noItem

/-- The reads of a fence go out as the function of its ring, whatever has gone out before. -/
theorem fenceReads_eq (g : Ring) (p r pos : Nat) {fn : Nat} (l : List (Nat × Nat)) (u : State) (hu : u.ringFn r = fn) :
    l.foldl (fun s f => s.fenceRead g p (s.ringFn r) r pos f) u = l.foldl (fun s f => s.fenceRead g p fn r pos f) u := by
  induction l generalizing u with
  | nil => rfl
  | cons f l ih =>
    rw [List.foldl_cons, List.foldl_cons, hu]
    have hside : HostSide u (u.fenceRead g p fn r pos f) := HostSide.hostStart ..
    exact ih _ ((congrFun hside.ringFn r).trans hu)

theorem exec_descFence (h : s.descOf r.val pos 0x01 = some x) (hn : unnamed x.entry [(64, 1)] = false)
    (hfirst : (s.ring r.val).live.head?.map (·.pos) = some pos) : exec (.descFence r pos) s = .next
      (let fns := s.fenceFns (s.ringPort r.val) ++ if (fieldAt x.entry 8 8).testBit 0 then s.fenceFns (1 - s.ringPort r.val) else []
      (fns.foldl (fun (s' : State) f => s'.hostStart f.1 f.2 (if f.1 = s.ringPort r.val ∧ f.2 = s.ringFn r.val then (s.ring r.val).pasid else none)
          (s.ring r.val).cqBase 0 .fenceRead (.fence r.val pos) noItem)
        (s.setRing r.val { s.ring r.val with live := (s.ring r.val).live.map fun e =>
          if e.pos = pos then { e with begun := true, reads := fns.length } else e })).goOn) := by
  show Host.Outcome.next (descFence r pos s) = _
  simp only [descFence, h, hn, hfirst, bitAt_eq_testBit, ne_eq, not_true_eq_false, Bool.false_eq_true, if_false, updWhere, beq_iff_eq]
  exact congrArg (fun t : State => Host.Outcome.next t.goOn)
    (fenceReads_eq (s.ring r.val) (s.ringPort r.val) r.val pos _ _ (congrFun (ringFn_of_reg rfl) r.val))

end plain

/-- Settles O33: what completion leaves, and each plain descriptor by what its entry names. -/
theorem plainDescriptors : Obligations.PlainDescriptors := by
  refine ⟨fun r pos d s e h hst => complete_leaves h hst, fun r pos s x => ?_⟩
  intro p fn
  refine ⟨fun h => ⟨fun hn => ?_, fun hn => ?_⟩, fun h hn hf => exec_descFence h hn hf, fun h hn => exec_flush h hn,
    fun h hn hen hg => exec_hostAtomic h hn hen hg,
    fun h hn => exec_syncSet h hn (syncSet_object x.entry), fun h hn => exec_ticks h hn⟩
  · rw [exec_descNop h, hn]
    rfl
  · rw [exec_descNop h, hn]
    rfl

end Sys2Proof.Machine
end


section
/-! PROOFS. Transfers between local store, device memory and the hosts, and pair stores. -/

namespace Sys2Proof.Machine

variable {s t : State} {c : CoreIx} {r : Run} {f : XFmt} {q : LsuReq} {d : XferDesc}

/-! ### What a transfer of device memory leaves -/

/-- Only what the die cache and the page caches remember has changed. -/
structure DieSide (s t : State) : Prop where
  rest : t = { s with cache := t.cache, trackers := t.trackers, pageCache := t.pageCache }

namespace DieSide

theorem refl (s : State) : DieSide s s := ⟨rfl⟩

theorem trans {u : State} (h : DieSide s t) (g : DieSide t u) : DieSide s u := by
  constructor
  rw [g.rest, h.rest]

theorem foldl {α : Type} {l : List α} {f : State → α → State} (hf : ∀ s a, DieSide s (f s a)) (s : State) : DieSide s (l.foldl f s) :=
  List.foldlRecOn (motive := DieSide s) _ _ (refl s) fun _ ht a _ => ht.trans (hf _ a)

theorem touch (s : State) (space line : Nat) : DieSide s (s.touch space line) := by
  unfold State.touch
  split
  · exact ⟨rfl⟩
  · exact refl s

theorem allocate (s : State) (x : CacheLine) : DieSide s (s.allocate x) := ⟨rfl⟩

theorem pageRead (s : State) (a n : Nat) : DieSide s (s.pageRead a n) := by
  unfold State.pageRead
  split
  · split
    · exact foldl (fun _ _ => ⟨rfl⟩) s
    · exact refl s
  · exact refl s

theorem cacheRead (s : State) (express : Bool) (a n : Nat) : DieSide s (s.cacheRead express a n) := by
  refine foldl (fun s l => ?_) s
  split
  · exact touch s 0 l
  · exact (allocate s _).trans (pageRead _ _ _)

theorem lineWrite (s : State) (src : Option Nat) (express : Bool) (line : Nat) (whole : Bool) :
    DieSide s (s.lineWrite src express line whole) := by
  unfold State.lineWrite
  extract_lets r s'
  have h : DieSide s s' := ⟨rfl⟩
  split
  · exact h.trans ⟨rfl⟩
  · split
    · exact (h.trans (touch s' 0 line)).trans (allocate _ _)
    · exact h.trans (allocate _ _)

theorem linesWrite (s : State) (src : Option Nat) (express : Bool) (a n : Nat) : DieSide s (s.linesWrite src express a n) :=
  foldl (fun s _ => lineWrite s _ _ _ _) s

theorem cores (h : DieSide s t) : t.cores = s.cores := by rw [h.rest]
theorem dmem (h : DieSide s t) : t.dmem = s.dmem := by rw [h.rest]
theorem flashWrites (h : DieSide s t) : t.flashWrites = s.flashWrites := by rw [h.rest]
theorem unitGone (h : DieSide s t) (v : Nat) : t.unitGone v = s.unitGone v := by
  rw [h.rest]
  rfl

end DieSide

theorem HostSide.flashWrites (h : HostSide s t) : t.flashWrites = s.flashWrites := by rw [h.rest]

theorem core_of_cores (h : t.cores = s.cores) (i : Nat) : t.core i = s.core i := by
  unfold State.core
  rw [h]

/-- A read of device memory changes no core and no memory. -/
theorem memRead_leaves (s : State) (express : Bool) (k : Kind) (a n : Nat) :
    (s.memRead express k a n).2.cores = s.cores ∧ (s.memRead express k a n).2.dmem = s.dmem ∧
      (s.memRead express k a n).2.flashWrites = s.flashWrites := by
  have hn : HostSide s (s.notePoison a n) := by
    unfold State.notePoison
    split
    · split
      · exact HostSide.report ..
      · split
        · exact HostSide.poisonRead ..
        · exact HostSide.refl s
    · exact HostSide.refl s
  have hd : DieSide (s.notePoison a n) (s.memRead express k a n).2 := by
    rw [State.memRead]
    split
    · exact DieSide.cacheRead ..
    · exact DieSide.pageRead ..
  exact ⟨hd.cores.trans hn.cores, hd.dmem.trans hn.dmem, hd.flashWrites.trans hn.flashWrites⟩

/-- A write of a unit of tier 0 or 1 that is there stores its bytes, whatever way it takes, and changes no core. -/
theorem memWrite_leaves (src : Option Nat) (express : Bool) (k : Kind) {a u o : Nat} (d : Bytes) (hw : windowOf a = some (u, o))
    (ht : unitTier u ≠ 2) (hg : s.unitGone u = false) :
    (s.memWrite src express k a d).cores = s.cores ∧ (s.memWrite src express k a d).dmem = s.dmem.writeBytes a d := by
  have hput (t : State) (hc : t.cores = s.cores) (hd : t.dmem = s.dmem) (h : t.unitGone u = false) :
      (t.dwrite a d).cores = s.cores ∧ (t.dwrite a d).dmem = s.dmem.writeBytes a d := by
    simp only [State.dwrite, hw, h, if_neg ht, Bool.false_eq_true, if_false]
    exact ⟨hc, by rw [hd]⟩
  unfold State.memWrite
  split
  · have hl := DieSide.linesWrite s src express a d.length
    rw [State.generalWrite, hw]
    simp only [if_neg ht]
    exact hput _ hl.cores hl.dmem ((hl.unitGone u).trans hg)
  · exact hput s rfl rfl hg

/-! ### Ranges of tiers 0 and 1 -/

theorem extent_of_lt {u : Nat} (hu : u < 10) : unitBase u + s.extent u ≤ unitBase 10 ∧ (8 ≤ u → unitBase u + s.extent u ≤ unitBase 10) := by
  simp only [State.extent, unitBase, unitExtent, if_pos (show u < 12 by omega)]
  split_ifs <;> omega

/-- The range of a kind of storage lies in one unit. -/
theorem kindOf_inside {a n v w : Nat} {k : Kind} (h : s.kindOf a n = some (k, v, w)) :
    s.locate a = some (v, w) ∧ w + n ≤ s.extent v := by
  unfold State.kindOf at h
  split at h
  · cases h
  · next u o hl =>
    rw [hl]
    split at h
    · cases h
    · next hn =>
      have key : v = u ∧ w = o := by
        split_ifs at h
        · cases h
          exact ⟨rfl, rfl⟩
        · split at h
          · split at h
            · cases h
              exact ⟨rfl, rfl⟩
            · cases h
          · cases h
            exact ⟨rfl, rfl⟩
      obtain ⟨rfl, rfl⟩ := key
      exact ⟨rfl, Nat.not_lt.mp hn⟩

theorem reach_inside {p a n u : Nat} {k : Kind} (h : s.reach p a n = some (k, u)) :
    ∃ o, s.locate a = some (u, o) ∧ o + n ≤ s.extent u := by
  unfold State.reach at h
  split at h
  · next v w hk =>
    split_ifs at h
    cases h
    exact ⟨w, kindOf_inside hk⟩
  · next v w hk =>
    split_ifs at h
    cases h
    exact ⟨w, kindOf_inside hk⟩
  · cases h

theorem unitBase_le_of_windowOf {a u o : Nat} (h : windowOf a = some (u, o)) : unitBase u ≤ a ∧ o = a - unitBase u := by
  unfold windowOf at h
  split at h
  · next v hv =>
    have hle := List.find?_some hv
    extract_lets lim at h
    split at h
    · cases h
      exact ⟨of_decide_eq_true hle, rfl⟩
    · cases h
  · cases h

/-- Inside a range of tier 0 or 1 no address is one of tier 2. -/
theorem unitTier_ne_two {p a n u : Nat} {k : Kind} (h : s.reach p a n = some (k, u)) (hu : u < 10) {x v w : Nat} (hx : x < a + n)
    (hw : windowOf x = some (v, w)) : unitTier v ≠ 2 := by
  obtain ⟨o, hl, hn⟩ := reach_inside h
  obtain ⟨hb, rfl⟩ := unitBase_le_of_windowOf (windowOf_of_locate hl)
  have hv := (unitBase_le_of_windowOf hw).1
  have he := (extent_of_lt (s := s) hu).1
  intro ht
  have h10 : v = 10 ∨ v = 11 := by
    unfold unitTier at ht
    split_ifs at ht <;> omega
  have : unitBase 10 ≤ unitBase v := by
    obtain rfl | rfl := h10
    · exact Nat.le_refl _
    · decide
  omega

/-- A read of tier 0 or 1 returns what the memory holds. -/
theorem dbytes_of_reach {p a n u : Nat} {k : Kind} (h : s.reach p a n = some (k, u)) (hu : u < 10) {t : State} (hd : t.dmem = s.dmem)
    {x m : Nat} (hx : x < a + n) : t.dbytes x m = s.dmem.readBytes x m := by
  rw [← hd, State.dbytes]
  split
  · rfl
  · split
    · next v w hw => rw [if_neg (unitTier_ne_two h hu hx hw)]
    · rfl

/-! ### Crumbs from device memory to local store -/

theorem length_readBytes (m : Memory) (a n : Nat) : (m.readBytes a n).length = n := by
  induction n generalizing a with
  | zero => rfl
  | succ n ih => rw [Memory.readBytes, List.length_cons, ih]

@[simp] theorem poisonPut_ls (k : Core) (a : Nat) (d : Bytes) (bad : Bool) : (k.poisonPut a d bad).ls = k.ls.writeBytes a d := by
  rw [← engPut_ls k a d, Core.poisonPut]
  split <;> rfl

@[simp] theorem poisonPut_run (k : Core) (a : Nat) (d : Bytes) (bad : Bool) : (k.poisonPut a d bad).run = k.run := by
  rw [← engPut_run k a d, Core.poisonPut]
  split <;> rfl

/-- Crumbs that are copied to local store change nothing but it, and lie there as they are read. -/
theorem fillLs_leaves (s : State) (c la a n : Nat) (hm : ∀ i, i < n → ∀ t : State, t = { s with cores := t.cores } →
      t.dbytes (a + 32 * i) 32 = s.dmem.readBytes (a + 32 * i) 32) :
    s.fillLs c la a n = { s with cores := (s.fillLs c la a n).cores } ∧ ((s.fillLs c la a n).core c).run = (s.core c).run ∧
      ∀ i, i < n → ((s.fillLs c la a n).core c).ls.readBytes (la + 32 * i) 32 = s.dmem.readBytes (a + 32 * i) 32 := by
  induction n with
  | zero => exact ⟨rfl, rfl, fun i hi => absurd hi (Nat.not_lt_zero i)⟩
  | succ n ih =>
    obtain ⟨hrest, hrun, hls⟩ := ih fun i hi => hm i (Nat.lt_succ_of_lt hi)
    have hstep : s.fillLs c la a (n + 1) = (s.fillLs c la a n).modCore c fun k =>
        k.poisonPut (la + 32 * n) ((s.fillLs c la a n).dread (a + 32 * n) 32).1 ((s.fillLs c la a n).dread (a + 32 * n) 32).2 := by
      rw [State.fillLs, List.range_succ, List.foldl_concat, ← State.fillLs]
    have hread : ((s.fillLs c la a n).dread (a + 32 * n) 32).1 = s.dmem.readBytes (a + 32 * n) 32 := hm n (Nat.lt_succ_self n) _ hrest
    rw [hread] at hstep
    rw [hstep]
    refine ⟨?_, ?_, fun i hi => ?_⟩
    · rw [hrest]
      rfl
    · rw [State.core_modCore, poisonPut_run, hrun]
    · rw [State.core_modCore, poisonPut_ls]
      obtain hlt | rfl := Nat.lt_succ_iff_lt_or_eq.mp hi
      · rw [Memory.readBytes_writeBytes_out _ _ _ _ _ (Or.inl (by omega)), hls i hlt]
      · have := Memory.readBytes_writeBytes_in (s.dmem.readBytes (a + 32 * i) 32) ((s.fillLs c la a i).core c).ls (la + 32 * i) 32 0
          (by rw [length_readBytes])
        rw [Nat.add_zero, List.drop_zero, List.take_of_length_le (by rw [length_readBytes])] at this
        exact this

/-- `respond` of a request of a run that is not at its end: the response word is written and the request is over. -/
theorem respond_leaves (s : State) (c : Nat) (q : LsuReq) (status count : Nat)
    (hs : ∀ r n, (s.core c).run = some r → r.stall ≠ some (.ending n)) :
    (s.respond c q status count).reqOf c q.id = none ∧ s.respond c q status count = { s with cores := (s.respond c q status count).cores } ∧
      ((s.respond c q status count).core c).ls = (s.core c).ls.writeBytes q.resp (natLe 8 (respWord status count)) := by
  let k := ({ s.core c with lsu := (s.core c).lsu.filter fun x => x.id != q.id }.engPut q.resp (natLe 8 (respWord status count))).modRunOf
    q.item fun r => r.setEffect q (status + 256 * count)
  have hlsu : k.lsu = (s.core c).lsu.filter fun x => x.id != q.id := by
    obtain ⟨p, x, y, h⟩ := engPut_eq { s.core c with lsu := (s.core c).lsu.filter fun x => x.id != q.id } q.resp (natLe 8 (respWord status count))
    simp only [k, h, Core.modRunOf]
  have hls : k.ls = (s.core c).ls.writeBytes q.resp (natLe 8 (respWord status count)) := by
    simp only [k, Core.modRunOf, engPut_ls]
  have hend : (s.setCore c k).atEnd c = none := by
    have hrun : k.run = (s.core c).run.map fun r => if r.item = q.item then r.setEffect q (status + 256 * count) else r := by
      simp only [k, Core.modRunOf, engPut_run]
    rw [State.atEnd, State.core_setCore, hrun]
    cases hr : (s.core c).run with
    | none => rfl
    | some r =>
      have hstall : (if r.item = q.item then r.setEffect q (status + 256 * count) else r).stall = r.stall := by
        split
        · unfold Run.setEffect
          split
          · split <;> rfl
          · rfl
        · rfl
      have hopen (n : Nat) : r.stall ≠ some (.ending n) := hs r n hr
      simp only [Option.map_some, hstall]
  have heq : s.respond c q status count = s.setCore c k := by
    show (s.setCore c k).tryEnd c = _
    rw [State.tryEnd, hend]
  rw [heq]
  refine ⟨?_, rfl, by rw [State.core_setCore, hls]⟩
  rw [State.reqOf, State.core_setCore, hlsu, List.find?_eq_none]
  intro x hx
  simpa using (List.mem_filter.mp hx).2

/-- The response word of a request that ends well counts its Crumbs. -/
theorem readNat_respWord {m n : Memory} {a count : Nat} (h : m = n.writeBytes a (natLe 8 (respWord rsOk count)))
    (hc : count < 2 ^ 47) : m.readNat a 8 = 1 + 65536 * count := by
  have := Memory.readBytes_writeBytes_in (natLe 8 (respWord rsOk count)) n a 8 0 (by simp)
  rw [Nat.add_zero, List.drop_zero, List.take_of_length_le (by simp)] at this
  rw [h, Memory.readNat, this, leNat_natLe_of_lt (by unfold respWord rsOk; omega)]
  unfold respWord rsOk
  omega

/-! ### Requests that are effect operations, as they stand -/

theorem requestedEffect_eq (hl : ∀ x ∈ (s.core c.val).lsu, x.id ≠ q.id) :
    ((s.requested c.val q).onCore c.val fun k => { k with
      run := some { r with effects := r.effects ++ [0] },
      lsu := updWhere (fun x => x.id == q.id) (fun _ => { q with effect := some r.effects.length }) k.lsu }) = s.requestedEffect c.val r q := by
  have hswap : ((s.requested c.val q).onCore c.val fun k => { k with
      run := some { r with effects := r.effects ++ [0] },
      lsu := updWhere (fun x => x.id == q.id) (fun _ => { q with effect := some r.effects.length }) k.lsu }) =
      ((s.requested c.val q).modReq c.val q.id fun _ => { q with effect := some r.effects.length }).onCore c.val fun k =>
        { k with run := some { r with effects := r.effects ++ [0] } } := by
    simp only [State.modReq, State.modCore, State.onCore, State.core_setCore, setCore_setCore]
  rw [hswap, modReq_requested (q' := { q with effect := some r.effects.length }) hl rfl]

/-! ### `XFER` -/

section xfer
variable {len : Nat} (h : Asks s c.val r f .xfer 64) (hq : s.request c.val r f .xfer 64 = q) (hd : XferDesc.parse q.block = d)
include h hq hd

omit hd in
theorem new_request : ∀ x ∈ (s.core c.val).lsu, x.id ≠ q.id := by
  obtain ⟨-, -, -, -, -, -, -, -, -, -, hnew⟩ := h
  rw [← hq]
  exact hnew

theorem does_xfer_bad (hb : d.bad = true) : Does s (.xfer c f) (.next ((s.requested c.val q).respond c.val q rsBadDescriptor 0)) := by
  refine does_lsuIssue (op := 0x62) h rfl rfl hq ?_
  simp only [hd, hb, if_true]
  rfl

/-- A transfer to local store. -/
theorem does_xfer_in (hb : d.bad = false) (hp : inPart r.express d.ls (32 * d.crumbs) = true) (hdir : d.dir % 2 = 0) :
    Does s (.xfer c f) (.next ((s.requested c.val q).xferRun c.val q d r.express)) := by
  refine does_lsuIssue (op := 0x62) h rfl rfl hq ?_
  simp only [hd, hb, hp, hdir, Bool.not_true, Bool.false_eq_true, if_false, if_true]
  rfl

/-- A transfer from local store is an effect operation. -/
theorem does_xfer_out (hb : d.bad = false) (hp : inPart r.express d.ls (32 * d.crumbs) = true) (hdir : d.dir % 2 ≠ 0)
    (hread : engRead ((s.requested c.val q).core c.val) d.ls (32 * d.crumbs) enLsu = .ok ()) (hs : r.suppress = []) :
    Does s (.xfer c f) (.next ((s.requestedEffect c.val r q).xferRun c.val { q with effect := some r.effects.length } d r.express)) := by
  refine does_lsuIssue (op := 0x62) h rfl rfl hq ?_
  simp only [hd, hb, hp, if_neg hdir, hread, asEffect_requested h.1 hs (new_request h hq), Bool.not_true, Bool.false_eq_true, if_false]
  rfl

end xfer

section run
variable (u : State) (i : Nat) (q : LsuReq) {d : XferDesc} (express : Bool)

theorem xferRun_unreached (hdir : d.dir < 2) (hr : u.reach q.port d.addr (32 * d.crumbs) = none) :
    u.xferRun i q d express = (u.ringAccess q.port q.ring d.addr accRange).respond i q rsBadDescriptor 0 := by
  simp only [State.xferRun, if_pos hdir, hr]

theorem xferRun_read (hdir : d.dir = 0) {k : Kind} {v : Nat} (hr : u.reach q.port d.addr (32 * d.crumbs) = some (k, v)) :
    u.xferRun i q d express = (u.devToLs i express k d.ls d.addr d.crumbs).respond i q rsOk d.crumbs := by
  simp only [State.xferRun, hdir, hr, Nat.zero_lt_two, if_true]

theorem xferRun_write (hdir : d.dir = 1) {k : Kind} {v : Nat} (hr : u.reach q.port d.addr (32 * d.crumbs) = some (k, v)) (hv : unitTier v ≠ 2) :
    u.xferRun i q d express = (u.memWrite (some i) express k d.addr ((u.core i).lsBytes d.ls (32 * d.crumbs))).respond i q rsOk d.crumbs := by
  simp only [State.xferRun, hdir, hr, if_neg hv, Nat.one_lt_two, if_true, Nat.one_ne_zero, if_false]

theorem xferRun_part (hdir : d.dir = 1) {k : Kind} {v : Nat} (hr : u.reach q.port d.addr (32 * d.crumbs) = some (k, v)) (hv : unitTier v = 2)
    (hp : d.addr % 4096 ≠ 0 ∨ 32 * d.crumbs % 4096 ≠ 0) : u.xferRun i q d express = u.respond i q rsBadDescriptor 0 := by
  simp only [State.xferRun, hdir, hr, if_pos hv, if_pos hp, Nat.one_lt_two, if_true, Nat.one_ne_zero, if_false]

theorem xferRun_pages (hdir : d.dir = 1) {k : Kind} {v : Nat} (hr : u.reach q.port d.addr (32 * d.crumbs) = some (k, v)) (hv : unitTier v = 2)
    (ha : d.addr % 4096 = 0) (hn : 32 * d.crumbs % 4096 = 0) : u.xferRun i q d express =
      (((if k = .general then u.linesWrite (some i) express d.addr (32 * d.crumbs) else u).flashPut d.addr ((u.core i).lsBytes d.ls (32 * d.crumbs))
        (some (i, q.id))).modReq i q.id fun q => { q with served := true, count := d.crumbs }).settleReq i q.id := by
  have hp : ¬ (d.addr % 4096 ≠ 0 ∨ 32 * d.crumbs % 4096 ≠ 0) := by simp [ha, hn]
  simp only [State.xferRun, hdir, hr, if_pos hv, if_neg hp, Nat.one_lt_two, if_true, Nat.one_ne_zero, if_false]

theorem xferRun_fromHost (hdir : d.dir = 2) : u.xferRun i q d express = u.xferIn i q.id (d.crumbs + 1) := by
  simp only [State.xferRun, hdir, Nat.lt_irrefl, if_false, if_true]

theorem xferRun_gone (hdir : d.dir = 3) (hg : u.hostGone q.ring = true) : u.xferRun i q d express = u.respond i q rsPortLost 0 := by
  simp only [State.xferRun, hdir, hg, if_true, show ¬ (3 < 2) by decide, show ¬ (3 = 2) by decide, if_false]

theorem xferRun_toHost (hdir : d.dir = 3) (hg : u.hostGone q.ring = false) : u.xferRun i q d express =
    ((u.xferOutFrom i q d.addr ((u.core i).lsBytes d.ls (32 * d.crumbs)) (d.crumbs + 1)).modReq i q.id
      fun q => { q with served := true, count := d.crumbs }).settleReq i q.id := by
  simp only [State.xferRun, hdir, hg, Bool.false_eq_true, show ¬ (3 < 2) by decide, show ¬ (3 = 2) by decide, if_false]

end run

/-! ### Transfers of tiers 0 and 1 -/

theorem crumbs_lt (b : Bytes) : (XferDesc.parse b).crumbs < 2 ^ 47 := by
  have h : fld (fieldAt b 0 8) 4 17 < 2 ^ 17 := Nat.mod_lt _ (by decide)
  show fld (fieldAt b 0 8) 4 17 + 1 < 2 ^ 47
  omega

section device
variable (h : Asks s c.val r f .xfer 64) (hq : s.request c.val r f .xfer 64 = q) (hd : XferDesc.parse q.block = d)
  (hb : d.bad = false) (hp : inPart r.express d.ls (32 * d.crumbs) = true) (hdis : q.resp + 8 ≤ d.ls ∨ d.ls + 32 * d.crumbs ≤ q.resp)
include h hq hd hb hp hdis

/-- A transfer from device memory: its Crumbs lie in local store, and the response word counts them. -/
theorem xfer_toLocal {k : Kind} {u : Nat} (hr : s.reach r.port d.addr (32 * d.crumbs) = some (k, u)) (hu : u < 10) (hdir : d.dir = 0)
    (hf : Fetches s (.xfer c f)) : ∃ t, exec (.xfer c f) s = .next t ∧ t.reqOf c.val q.id = none ∧
        (t.core c.val).ls.readNat q.resp 8 = 1 + 65536 * d.crumbs ∧ t.dmem = s.dmem ∧
        ∀ i, i < d.crumbs → (t.core c.val).ls.readBytes (d.ls + 32 * i) 32 = s.dmem.readBytes (d.addr + 32 * i) 32 := by
  have hport : q.port = r.port := by rw [← hq]
  have hreach : (s.requested c.val q).reach q.port d.addr (32 * d.crumbs) = some (k, u) := by
    rw [hport]
    exact hr
  obtain ⟨hcores, hdmem, -⟩ := memRead_leaves (s.requested c.val q) r.express k d.addr (32 * d.crumbs)
  obtain ⟨hrest, hrun, hls⟩ := fillLs_leaves ((s.requested c.val q).memRead r.express k d.addr (32 * d.crumbs)).2 c.val d.ls d.addr d.crumbs
    fun i hi t ht => by
      rw [hdmem]
      exact dbytes_of_reach hr hu (t := t) ((by rw [ht] : t.dmem = _).trans hdmem) (by omega)
  rw [core_of_cores hcores, run_requested h.1] at hrun
  obtain ⟨hreq, hkeep, hlast⟩ := respond_leaves _ c.val q rsOk d.crumbs fun r' n hr' hn => by
    cases hrun.symm.trans hr'
    rw [h.1.2.2.2.2.1] at hn
    cases hn
  refine ⟨_, (does_xfer_in h hq hd hb hp (by rw [hdir]) hf).trans (congrArg Host.Outcome.next (xferRun_read _ _ _ _ hdir hreach)), hreq,
    readNat_respWord hlast (hd ▸ crumbs_lt _), ?_, fun i hi => ?_⟩
  · exact (congrArg State.dmem hkeep).trans ((congrArg State.dmem hrest).trans hdmem)
  · rw [State.devToLs, hlast, Memory.readBytes_writeBytes_out _ _ _ _ _ (by simp only [length_natLe]; omega), hls i hi, hdmem]
    rfl

/-- A transfer to device memory: the bytes of local store lie there, no others change, and the response word counts the Crumbs. -/
theorem xfer_toDevice {k : Kind} {u : Nat} (hr : s.reach r.port d.addr (32 * d.crumbs) = some (k, u)) (hu : u < 10) (hs : r.suppress = [])
    (hdir : d.dir = 1) (hg : s.unitGone u = false)
    (hread : engRead ((s.requested c.val q).core c.val) d.ls (32 * d.crumbs) enLsu = .ok ())
    (hf : Fetches s (.xfer c f)) : ∃ t, exec (.xfer c f) s = .next t ∧ t.reqOf c.val q.id = none ∧
          (t.core c.val).ls.readNat q.resp 8 = 1 + 65536 * d.crumbs ∧
          t.dmem.readBytes d.addr (32 * d.crumbs) = (s.core c.val).ls.readBytes d.ls (32 * d.crumbs) ∧
          ∀ a, a < d.addr ∨ d.addr + 32 * d.crumbs ≤ a → t.dmem.read a = s.dmem.read a := by
  have hport : q.port = r.port := by rw [← hq]
  have hreach : (s.requestedEffect c.val r q).reach q.port d.addr (32 * d.crumbs) = some (k, u) := by
    rw [hport]
    exact hr
  obtain ⟨o, hl, -⟩ := reach_inside hr
  have ht : unitTier u ≠ 2 := by
    unfold unitTier
    split_ifs <;> omega
  have hdata : ((s.requestedEffect c.val r q).core c.val).lsBytes d.ls (32 * d.crumbs) = (s.core c.val).ls.readBytes d.ls (32 * d.crumbs) := by
    have hls : ((s.requestedEffect c.val r q).core c.val).ls = (s.core c.val).ls.writeBytes q.resp (natLe 8 0) := by
      rw [State.requestedEffect, State.core_setCore, core_requested]
      exact engPut_ls ..
    rw [Core.lsBytes, hls, Memory.readBytes_writeBytes_out _ _ _ _ _ (by simp only [length_natLe]; omega)]
  have hlen : ((s.core c.val).ls.readBytes d.ls (32 * d.crumbs)).length = 32 * d.crumbs := length_readBytes ..
  obtain ⟨hcores, hdmem⟩ := memWrite_leaves (s := s.requestedEffect c.val r q) (some c.val) r.express k
    ((s.core c.val).ls.readBytes d.ls (32 * d.crumbs)) (windowOf_of_locate hl) ht hg
  have hrun : (((s.requestedEffect c.val r q).memWrite (some c.val) r.express k d.addr
      ((s.core c.val).ls.readBytes d.ls (32 * d.crumbs))).core c.val).run = some { r with effects := r.effects ++ [0] } := by
    rw [core_of_cores hcores]
    exact congrArg Core.run (State.core_setCore ..)
  obtain ⟨hreq, hkeep, hlast⟩ := respond_leaves _ c.val { q with effect := some r.effects.length } rsOk d.crumbs fun r' n hr' hn => by
    cases hrun.symm.trans hr'
    have := h.1.2.2.2.2.1.symm.trans hn
    cases this
  have hmem := (congrArg State.dmem hkeep).trans hdmem
  refine ⟨_, (does_xfer_out h hq hd hb hp (by rw [hdir]; decide) hread hs hf).trans (congrArg Host.Outcome.next
    ((xferRun_write _ c.val _ r.express hdir (by exact hreach) ht).trans (by rw [hdata]))), hreq, readNat_respWord hlast (hd ▸ crumbs_lt _), ?_, fun a ha => ?_⟩
  · have := Memory.readBytes_writeBytes_in ((s.core c.val).ls.readBytes d.ls (32 * d.crumbs)) (s.requestedEffect c.val r q).dmem d.addr
      (32 * d.crumbs) 0 (by omega)
    rw [Nat.add_zero, List.drop_zero, List.take_of_length_le (by omega)] at this
    rw [hmem, this]
  · rw [hmem]
    exact Memory.read_writeBytes_out _ _ _ _ (by omega)

end device

end Sys2Proof.Machine
end


section
/-! PROOFS. Pair stores, the words of host memory, and the statement about transfers. -/

namespace Sys2Proof.Machine

variable {s : State} {c : CoreIx} {r : Run} {f : XFmt} {q : LsuReq} {d : XferDesc}

/-! ### `PAIRST` -/

theorem does_pairst (h : Asks s c.val r f .pairst 32) (hs : r.suppress = []) (hq : s.request c.val r f .pairst 32 = q) {a ls stride k0 n : Nat}
    (ha : fieldAt q.block 0 8 = a) (hl : bfld q.block 8 4 0 22 = ls) (hst : fieldAt q.block 12 2 = stride) (hk : fieldAt q.block 16 4 = k0)
    (hn : fieldAt q.block 20 4 = n)
    (hbad : ¬ (bfld q.block 8 4 22 10 ≠ 0 ∨ fieldAt q.block 14 2 ≠ 0 ∨ !zeroRange q.block 24 8 ∨ n = 0 ∨ a % 32 ≠ 0 ∨ ls % 32 ≠ 0))
    {x : PairHdr} (hx : PairHdr.parse (s.dread a 32).1 = some x) (hfit : ¬ (x.k < k0 + n ∨ stride < x.rc))
    (h1 : s.pairRange r.port a 32 = true) (h2 : s.pairRange r.port a (32 * (1 + x.k * x.rc)) = true)
    (h3 : s.pairRange r.port (a + 32 * x.colOff) (32 * x.n * x.cc) = true)
    (hp : inPart r.express ls (rowsExtent n stride (x.elem.rowBytes x.n)) = true)
    (hread : ∀ i, i < n → engRead ((s.requested c.val q).core c.val) (ls + 32 * i * stride) (x.elem.rowBytes x.n) enLsu = .ok ()) :
    Does s (.pairst c f) (.next ((((s.requestedEffect c.val r q).memRead r.express .general a 32).2.pairStore c.val r.express a x k0
      ((List.range n).map fun i => x.elem.unpack x.n (((s.requested c.val q).core c.val).ls.readBytes (ls + 32 * i * stride) (x.elem.rowBytes x.n)))).respond
        c.val { q with effect := some r.effects.length } rsOk 0)) := by
  have hnew : ∀ y ∈ (s.core c.val).lsu, y.id ≠ q.id := by
    obtain ⟨-, -, -, -, -, -, -, -, -, -, hnew⟩ := h
    rw [← hq]
    exact hnew
  have hls : ((s.requestedEffect c.val r q).core c.val).ls = ((s.requested c.val q).core c.val).ls := by
    rw [State.requestedEffect, State.core_setCore, core_requested, core_requested]
    rfl
  have hx' : PairHdr.parse ((s.requested c.val q).dread a 32).1 = some x := hx
  have h1' : (s.requested c.val q).pairRange r.port a 32 = true := h1
  have h2' : (s.requested c.val q).pairRange r.port a (32 * (1 + x.k * x.rc)) = true := h2
  have h3' : (s.requested c.val q).pairRange r.port (a + 32 * x.colOff) (32 * x.n * x.cc) = true := h3
  have hall : (List.range n).forM (fun i => engRead ((s.requested c.val q).core c.val) (ls + 32 * i * stride) (x.elem.rowBytes x.n) enLsu) = .ok () :=
    eff_forM_ok fun i hi => hread i (List.mem_range.mp hi)
  refine does_lsuIssue (op := 0x66) h rfl rfl hq ?_
  simp only [ha, hl, hst, hk, hn, if_neg hbad, h1', Bool.not_true, Bool.false_eq_true, if_false, hx', if_neg hfit, h2', h3', hp, Bool.or_self,
    hall, asEffect_requested h.1 hs hnew, Core.lsBytes, hls]
  rfl

/-! ### Words of host memory -/

section words
variable (h : Ready s c.val r) (hi : f.imm = 0) (hc : s.lsuCount c.val < 64)
include h hi hc

theorem does_hld_cached (ho : f.ok true true false false false = true) {b : Bytes}
    (hb : s.hostCached r.port ((s.core c.val).sreg f.a.toNat).toNat 8 = some b) (hg : s.hostGone r.ring = false) :
    Does s (.hld c f) ((s.hostTouch r.port ((s.core c.val).sreg f.a.toNat).toNat 8).result c.val f.d (BitVec.ofNat 64 (leNat b))) := by
  refine does_of_ok h (w := f.word 0x63) rfl rfl (by simp [ho, hi]) ?_
  simp only [if_neg (Nat.not_le.mpr hc), hg, hb, Bool.false_eq_true, if_false, adv_modCore rfl]

theorem does_hld_waits (ho : f.ok true true false false false = true)
    (hb : s.hostCached r.port ((s.core c.val).sreg f.a.toNat).toNat 8 = none) (hg : s.hostGone r.ring = false) :
    Does s (.hld c f) (.next
        ((s.onCore c.val fun k => { k with run := some { r with stall := some .hostRead, stallAt := s.ticks, stallLimit := s.waitLimit } }).hostStart
          r.port (s.ringHost r.ring).1 (s.ringHost r.ring).2 ((s.core c.val).sreg f.a.toNat).toNat 8 .read (.hld c.val f.d.toNat) r.item)) := by
  refine does_of_ok h (w := f.word 0x63) rfl rfl (by simp [ho, hi]) ?_
  simp only [if_neg (Nat.not_le.mpr hc), hg, hb, Bool.false_eq_true, if_false, stallFor_eq h]

theorem does_hld_gone (ho : f.ok true true false false false = true) (hg : s.hostGone r.ring = true) :
    Does s (.hld c f) (.next (s.onCore c.val fun k =>
        { (k.setS f.d.toNat (BitVec.allOnes 64)).next with run := some { r with hostFault := true } })) := by
  refine does_of_ok h (w := f.word 0x63) rfl rfl (by simp [ho, hi]) ?_
  have hrun : ((s.core c.val).setS f.d.toNat (BitVec.allOnes 64)).run = some r := by
    rw [Core.setS]
    split <;> exact run_of_ready h
  simp only [if_neg (Nat.not_le.mpr hc), hg, if_true, State.modRun, State.modCore_modCore, adv_modCore rfl, hrun, Option.map_some]
  rfl

omit hc in
theorem does_hst_full (ho : f.ok false true true false false = true) (hw : s.writesFull r.port = true) : Does s (.hst c f) (.next s) := by
  refine does_of_ok h (w := f.word 0x64) rfl rfl (by simp [ho, hi]) ?_
  simp only [hw, Bool.or_true, if_true]

theorem does_hst_repeated (ho : f.ok false true true false false = true) (hw : s.writesFull r.port = false) {st : Nat}
    (hs : r.suppress[r.effects.length]? = some st) :
    Does s (.hst c f) (.next (s.onCore c.val fun k => { k.next with run := some { r with effects := r.effects ++ [st] } })) := by
  refine does_of_ok h (w := f.word 0x64) rfl rfl (by simp [ho, hi]) ?_
  simp only [decide_eq_false (Nat.not_le.mpr hc), hw, Bool.or_false, Bool.false_eq_true, if_false, effectOp_repeated h 0 hs, adv_effect]

theorem does_hst_gone (ho : f.ok false true true false false = true) (hw : s.writesFull r.port = false)
    (hs : r.suppress[r.effects.length]? = none) (hg : s.hostGone r.ring = true) :
    Does s (.hst c f) (.next (s.onCore c.val fun k => { k.next with run := some { r with effects := r.effects ++ [0] } })) := by
  refine does_of_ok h (w := f.word 0x64) rfl rfl (by simp [ho, hi]) ?_
  have hg' (g : Core → Core) : (s.onCore c.val g).hostGone r.ring = true := hg
  simp only [decide_eq_false (Nat.not_le.mpr hc), hw, Bool.or_false, Bool.false_eq_true, if_false, effectOp_first h 0 hs, hg', if_true, adv_effect]

theorem does_hst_first (ho : f.ok false true true false false = true) (hw : s.writesFull r.port = false)
    (hs : r.suppress[r.effects.length]? = none) (hg : s.hostGone r.ring = false) :
    Does s (.hst c f) (.next
      (((s.onCore c.val fun k => { k.next with run := some { r with effects := r.effects ++ [0] } }).hostInvalidate r.port
        ((s.core c.val).sreg f.a.toNat).toNat 8).hostStart r.port (s.ringHost r.ring).1 (s.ringHost r.ring).2
          ((s.core c.val).sreg f.a.toNat).toNat 8 (.write (natLe 8 ((s.core c.val).sreg f.b.toNat).toNat) false) (.hst c.val) r.item)) := by
  refine does_of_ok h (w := f.word 0x64) rfl rfl (by simp [ho, hi]) ?_
  have hg' (g : Core → Core) : (s.onCore c.val g).hostGone r.ring = false := hg
  simp only [decide_eq_false (Nat.not_le.mpr hc), hw, Bool.or_false, Bool.false_eq_true, if_false, effectOp_first h 0 hs, hg', adv_effect]

end words

/-! ### The directions of a transfer -/

section directions
variable (h : Asks s c.val r f .xfer 64) (hq : s.request c.val r f .xfer 64 = q) (hd : XferDesc.parse q.block = d)
  (hb : d.bad = false) (hp : inPart r.express d.ls (32 * d.crumbs) = true)
include h hq hd hb hp

theorem does_xfer_fromHost (hdir : d.dir = 2) : Does s (.xfer c f) (.next ((s.requested c.val q).xferIn c.val q.id (d.crumbs + 1))) := by
  rw [← xferRun_fromHost (s.requested c.val q) c.val q r.express hdir]
  exact does_xfer_in h hq hd hb hp (by rw [hdir])

theorem does_xfer_unread (hdir : d.dir = 0) (hr : s.reach r.port d.addr (32 * d.crumbs) = none) : Does s (.xfer c f)
    (.next (((s.requested c.val q).ringAccess r.port r.ring d.addr accRange).respond c.val q rsBadDescriptor 0)) := by
  have hx := xferRun_unreached (s.requested c.val q) c.val q r.express (by rw [hdir]; decide) (by rw [← hq]; exact hr)
  have hwho : q.port = r.port ∧ q.ring = r.ring := by rw [← hq]; exact ⟨rfl, rfl⟩
  rw [← hwho.1, ← hwho.2, ← hx]
  exact does_xfer_in h hq hd hb hp (by rw [hdir])

theorem does_xfer_read (hdir : d.dir = 0) (k : Kind) (u : Nat) (hr : s.reach r.port d.addr (32 * d.crumbs) = some (k, u)) :
    Does s (.xfer c f) (.next (((s.requested c.val q).devToLs c.val r.express k d.ls d.addr d.crumbs).respond c.val q rsOk d.crumbs)) := by
  rw [← xferRun_read (s.requested c.val q) c.val q r.express hdir (by rw [← hq]; exact hr)]
  exact does_xfer_in h hq hd hb hp (by rw [hdir])

variable (hread : engRead ((s.requested c.val q).core c.val) d.ls (32 * d.crumbs) enLsu = .ok ()) (hs : r.suppress = [])
  {s2 : State} (hs2 : s2 = s.requestedEffect c.val r q)
include hread hs hs2

theorem does_xfer_run (hdir : d.dir % 2 = 1) :
    Does s (.xfer c f) (.next (s2.xferRun c.val { q with effect := some r.effects.length } d r.express)) := by
  rw [hs2]
  exact does_xfer_out h hq hd hb hp (by omega) hread hs

omit h hq hd hb hp hread hs in
theorem lsBytes_requestedEffect (a n : Nat) : (s2.core c.val).lsBytes a n = ((s.requested c.val q).core c.val).ls.readBytes a n := by
  rw [hs2, State.requestedEffect, State.core_setCore, core_requested, core_requested]
  rfl

theorem does_xfer_unwritten (hdir : d.dir = 1) (hr : s.reach r.port d.addr (32 * d.crumbs) = none) : Does s (.xfer c f)
    (.next ((s2.ringAccess r.port r.ring d.addr accRange).respond c.val { q with effect := some r.effects.length } rsBadDescriptor 0)) := by
  have hx := xferRun_unreached s2 c.val { q with effect := some r.effects.length } r.express (by rw [hdir]; decide) (by rw [← hq, hs2]; exact hr)
  have hwho : q.port = r.port ∧ q.ring = r.ring := by rw [← hq]; exact ⟨rfl, rfl⟩
  rw [← hwho.1, ← hwho.2, ← hx]
  exact does_xfer_run h hq hd hb hp hread hs hs2 (by rw [hdir])

section pages
variable (hdir : d.dir = 1) {k : Kind} {u : Nat} (hr : s.reach r.port d.addr (32 * d.crumbs) = some (k, u)) (ht : unitTier u = 2)
include hdir hr ht

theorem does_xfer_part (hpart : d.addr % 4096 ≠ 0 ∨ 32 * d.crumbs % 4096 ≠ 0) :
    Does s (.xfer c f) (.next (s2.respond c.val { q with effect := some r.effects.length } rsBadDescriptor 0)) := by
  rw [← xferRun_part s2 c.val { q with effect := some r.effects.length } r.express hdir (by rw [← hq, hs2]; exact hr) ht hpart]
  exact does_xfer_run h hq hd hb hp hread hs hs2 (by rw [hdir])

theorem does_xfer_pages (ha : d.addr % 4096 = 0) (hn : 32 * d.crumbs % 4096 = 0) : Does s (.xfer c f)
    (.next ((((if k = .general then s2.linesWrite (some c.val) r.express d.addr (32 * d.crumbs) else s2).flashPut d.addr
      (((s.requested c.val q).core c.val).ls.readBytes d.ls (32 * d.crumbs)) (some (c.val, q.id))).modReq c.val q.id
        fun q => { q with served := true, count := d.crumbs }).settleReq c.val q.id)) := by
  have hx := xferRun_pages s2 c.val { q with effect := some r.effects.length } r.express hdir (by rw [← hq, hs2]; exact hr) ht ha hn
  rw [lsBytes_requestedEffect hs2] at hx
  rw [← hx]
  exact does_xfer_run h hq hd hb hp hread hs hs2 (by rw [hdir])

end pages

theorem does_xfer_gone (hdir : d.dir = 3) (hg : s.hostGone r.ring = true) :
    Does s (.xfer c f) (.next (s2.respond c.val { q with effect := some r.effects.length } rsPortLost 0)) := by
  rw [← xferRun_gone s2 c.val { q with effect := some r.effects.length } r.express hdir (by rw [← hq, hs2]; exact hg)]
  exact does_xfer_run h hq hd hb hp hread hs hs2 (by rw [hdir])

theorem does_xfer_toHost (hdir : d.dir = 3) (hg : s.hostGone r.ring = false) : Does s (.xfer c f)
    (.next (((s2.xferOutFrom c.val { q with effect := some r.effects.length } d.addr
      (((s.requested c.val q).core c.val).ls.readBytes d.ls (32 * d.crumbs)) (d.crumbs + 1)).modReq c.val q.id
        fun q => { q with served := true, count := d.crumbs }).settleReq c.val q.id)) := by
  have hx := xferRun_toHost s2 c.val { q with effect := some r.effects.length } r.express hdir (by rw [← hq, hs2]; exact hg)
  rw [lsBytes_requestedEffect hs2] at hx
  rw [← hx]
  exact does_xfer_run h hq hd hb hp hread hs hs2 (by rw [hdir])

end directions

/-- Settles O23: a transfer is carried out by its direction, with the Crumbs of tiers 0 and 1 followed byte by byte; a pair store
passes its checks; and a word of host memory comes, waits or is given up. -/
theorem hostAndDeviceTransfers : Obligations.HostAndDeviceTransfers := by
  unfold Obligations.HostAndDeviceTransfers
  refine ⟨fun c f s r h hs => ?_, fun c f s r h hs => ?_, fun c f s r h hs => ?_, fun c f s r h hi hc => ?_⟩
  · intro q d s1 hb hp hdis k u hr hu
    exact ⟨fun hdir hf => xfer_toLocal h rfl rfl hb hp hdis hr hu hdir hf,
      fun hdir hg hread hf => xfer_toDevice h rfl rfl hb hp hdis hr hu hs hdir hg hread hf⟩
  · exact ⟨does_xfer_bad h rfl rfl, fun hb hp => ⟨does_xfer_fromHost h rfl rfl hb hp, does_xfer_unread h rfl rfl hb hp, does_xfer_read h rfl rfl hb hp,
      fun hread => ⟨does_xfer_unwritten h rfl rfl hb hp hread hs (requestedEffect_eq (new_request h rfl)),
        fun hdir k u hr ht => ⟨does_xfer_part h rfl rfl hb hp hread hs (requestedEffect_eq (new_request h rfl)) hdir hr ht,
          does_xfer_pages h rfl rfl hb hp hread hs (requestedEffect_eq (new_request h rfl)) hdir hr ht⟩,
        does_xfer_gone h rfl rfl hb hp hread hs (requestedEffect_eq (new_request h rfl)),
        does_xfer_toHost h rfl rfl hb hp hread hs (requestedEffect_eq (new_request h rfl))⟩⟩⟩
  · intro q a ls stride k0 n s1 hf1 hf2 hz hn ha hl x hx hk hstr h1 h2 h3 hp hread q' s2
    have hs2 : s2 = s.requestedEffect c.val r q := requestedEffect_eq (h.2.2.2.2.2.2.2.2.2.2)
    rw [hs2]
    exact does_pairst h hs rfl rfl rfl rfl rfl rfl (by simp [hf1, hf2, hz, ha, hl, hn.ne', a, ls, n, q]) hx (not_or.mpr ⟨Nat.not_lt.mpr hk, Nat.not_lt.mpr hstr⟩) h1 h2 h3 hp hread
  · intro k a x
    refine ⟨fun ho => ⟨fun b hb hg => does_hld_cached h hi hc ho hb hg, fun hb hg => does_hld_waits h hi hc ho hb hg,
      fun hg => does_hld_gone h hi hc ho hg⟩, fun ho => ?_⟩
    intro noted
    exact ⟨fun hw => does_hst_full h hi ho hw, fun hw => ⟨fun st hs => does_hst_repeated h hi hc ho hw hs,
      fun hs hg => does_hst_gone h hi hc ho hw hs hg, fun hs hg => does_hst_first h hi hc ho hw hs hg⟩⟩

end Sys2Proof.Machine
end


section
/-! PROOFS. The windows of a host: BAR4, configuration space and interrupt vectors. -/

namespace Sys2Proof.Machine

variable {s : State} {p : PortIx}

/-! ### BAR4 -/

theorem reach_dropLatch (s : State) (p i a n : Nat) : (s.dropLatch p).reach i a n = s.reach i a n := rfl

theorem bar4Addr_dropLatch (s : State) (p off n : Nat) : (s.dropLatch p).bar4Addr p off n = s.bar4Addr p off n := by
  have hport : (s.dropLatch p).port p = { s.port p with latch := none } := State.port_setPort ..
  simp only [State.bar4Addr, hport]
  rfl

section bar4
variable (h : s.barOpen p.val 0 = true)
include h

theorem exec_bar4Read (off n : Nat) : exec (.bar4Read p off n) s = .next (bar4Read p off n s) :=
  congrArg Host.Outcome.next (State.atBar_of_fnOpen (State.fnOpen_of_barOpen h) _ _)

theorem exec_bar4Write (off : Nat) (d : Bytes) : exec (.bar4Write p off d) s = .next (bar4Write p off d s) :=
  congrArg Host.Outcome.next (State.atBar_of_fnOpen (State.fnOpen_of_barOpen h) _ _)

theorem bar4Read_outside {off n : Nat} (ha : s.bar4Addr p.val off n = none) :
    bar4Read p off n s = (s.dropLatch p.val).emit (.readData p.val (List.replicate n 0xFF#8) false) := by
  simp only [bar4Read, h, bar4Addr_dropLatch, ha, Bool.not_true, Bool.false_eq_true, if_false]

theorem bar4Read_unreached {off n a : Nat} (ha : s.bar4Addr p.val off n = some a) (hr : s.reach p.val a n = none) : bar4Read p off n s =
    ((s.dropLatch p.val).accessLog p.val 0 a accRange).emit (.readData p.val (List.replicate n 0xFF#8) false) := by
  simp only [bar4Read, h, bar4Addr_dropLatch, ha, reach_dropLatch, hr, Option.isNone_none, Bool.not_true, Bool.false_eq_true, if_false, if_true]

theorem bar4Read_reached {off n a : Nat} {x : Kind × Nat} (ha : s.bar4Addr p.val off n = some a) (hr : s.reach p.val a n = some x) :
    bar4Read p off n s = (s.dropLatch p.val).bar4Go (.read p.val a n) := by
  simp only [bar4Read, h, bar4Addr_dropLatch, ha, reach_dropLatch, hr, Option.isNone_some, Bool.not_true, Bool.false_eq_true, if_false]

theorem bar4Write_outside {off : Nat} {d : Bytes} (ha : s.bar4Addr p.val off d.length = none) : bar4Write p off d s = s.dropLatch p.val := by
  simp only [bar4Write, h, bar4Addr_dropLatch, ha, Bool.not_true, Bool.false_eq_true, if_false]

theorem bar4Write_unreached {off a : Nat} {d : Bytes} (ha : s.bar4Addr p.val off d.length = some a) (hr : s.reach p.val a d.length = none) :
    bar4Write p off d s = (s.dropLatch p.val).accessLog p.val 0 a accRange := by
  simp only [bar4Write, h, bar4Addr_dropLatch, ha, reach_dropLatch, hr, Bool.not_true, Bool.false_eq_true, if_false]

theorem bar4Write_reached {off a u : Nat} {k : Kind} {d : Bytes} (ha : s.bar4Addr p.val off d.length = some a)
    (hr : s.reach p.val a d.length = some (k, u)) : bar4Write p off d s =
      if unitTier u = 2 then (s.dropLatch p.val).accessLog p.val 0 a accIgnored else (s.dropLatch p.val).bar4Go (.write p.val a d) := by
  simp only [bar4Write, h, bar4Addr_dropLatch, ha, reach_dropLatch, hr, Bool.not_true, Bool.false_eq_true, if_false]

end bar4

theorem bar4Go_waits {x : PortIn} (h : s.portWaits x = true) : s.bar4Go x = { s with portIn := s.portIn ++ [x] } := if_pos h

theorem bar4Go_serves {x : PortIn} (h : s.portWaits x = false) : s.bar4Go x = s.servePort x := by
  rw [State.bar4Go, h]
  rfl

theorem servePort_read {i a n : Nat} {k : Kind} {u : Nat} (h : s.reach i a n = some (k, u)) :
    s.servePort (.read i a n) = (s.memRead false k a n).2.emit (.readData i (s.memRead false k a n).1.1 (s.memRead false k a n).1.2) := by
  simp only [State.servePort, h]

theorem servePort_write {i a : Nat} {d : Bytes} {k : Kind} {u : Nat} (h : s.reach i a d.length = some (k, u)) :
    s.servePort (.write i a d) = s.memWrite (some (128 + i)) false k a d := by
  simp only [State.servePort, h]

/-! ### Configuration space -/

theorem fnc_modFnc (s : State) (i n : Nat) (g : FnCfg → FnCfg) : (s.modFnc i n g).fnc i n = g (s.fnc i n) := by
  rw [State.fnc, State.modFnc, State.modPort, State.port_setPort]
  exact Tab.get_put ..

theorem fnc_modFnc_ne (s : State) {i n j m : Nat} (g : FnCfg → FnCfg) (h : j ≠ i ∨ m ≠ n) : (s.modFnc i n g).fnc j m = s.fnc j m := by
  rw [State.fnc, State.modFnc, State.modPort]
  by_cases hj : j = i
  · subst hj
    rw [State.port_setPort]
    exact Tab.get_put_ne _ _ _ (h.resolve_left (not_not_intro rfl))
  · rw [State.port_setPort_ne _ _ _ hj]
    rfl

/-- A state in which only the configuration of one function, and translations, may differ. -/
structure OnlyFn (i n : Nat) (s t : State) : Prop where
  fuses : t.fuses = s.fuses
  port : ∀ j, t.port j = { s.port j with fns := (t.port j).fns, atc := (t.port j).atc }
  fnc : ∀ j m, (j ≠ i ∨ m ≠ n) → t.fnc j m = s.fnc j m

namespace OnlyFn

variable {i n : Nat} {t : State}

theorem modFnc (s : State) (i n : Nat) (g : FnCfg → FnCfg) : OnlyFn i n s (s.modFnc i n g) where
  fuses := rfl
  port j := by
    rw [State.modFnc, State.modPort]
    by_cases hj : j = i
    · subst hj
      rw [State.port_setPort]
      rfl
    · rw [State.port_setPort_ne _ _ _ hj]
  fnc _ _ h := fnc_modFnc_ne s g h

theorem modAtc (h : OnlyFn i n s t) (f : List Atc → List Atc) : OnlyFn i n s (t.modPort i fun x => { x with atc := f x.atc }) where
  fuses := h.fuses
  port j := by
    rw [State.modPort]
    by_cases hj : j = i
    · subst hj
      rw [State.port_setPort, h.port]
    · rw [State.port_setPort_ne _ _ _ hj]
      exact h.port j
  fnc j m hjm := by
    rw [← h.fnc j m hjm, State.fnc, State.fnc, State.modPort]
    by_cases hj : j = i
    · subst hj
      rw [State.port_setPort]
      rfl
    · rw [State.port_setPort_ne _ _ _ hj]

/-- The fields of every other function read as before. -/
theorem cfgRead (h : OnlyFn i n s t) {j m : Nat} (hjm : j ≠ i ∨ m ≠ n) (f : CfgField) : t.cfgRead j m f = s.cfgRead j m f := by
  have hv : (t.port j).vfEnable = (s.port j).vfEnable := by rw [h.port]
  have hn : (t.port j).numVFs = (s.port j).numVFs := by rw [h.port]
  have hb : (t.port j).bar4Log2 = (s.port j).bar4Log2 := by rw [h.port]
  have hr : (t.port j).rate = (s.port j).rate := by rw [h.port]
  have hl : (t.port j).lanes = (s.port j).lanes := by rw [h.port]
  have hf : (t.port j).flit = (s.port j).flit := by rw [h.port]
  have hu : t.msixUsable j m = s.msixUsable j m := by rw [State.msixUsable, State.msixUsable, hv, hn]
  have hc (c : CfgCap) : t.capValue j m c = s.capValue j m c := by
    cases c <;> simp only [State.capValue, h.fuses, hr, hl, hf]
  cases f <;> simp only [State.cfgRead, h.fnc j m hjm, hv, hn, hb, hu, hc]

end OnlyFn

theorem bit_eq_mod (v : Nat) : (if bitAt v 0 then 1 else 0) = v % 2 := by
  rw [bitAt, Nat.shiftRight_zero]
  obtain h | h := Nat.mod_two_eq_zero_or_one v <;> rw [h] <;> rfl

/-- An enable of a function reads as its lowest bit was written, and no other function's fields change. -/
theorem cfgRead_cfgWrite_enable (s : State) (i n v : Nat) {f : CfgField} (hf : f = .busMasterEnable ∨ f = .relaxedOrderingEnable ∨
      f = .idoRequestEnable ∨ f = .atomicOpRequesterEnable ∨ f = .atsEnable ∨ f = .priEnable ∨ f = .tphRequesterEnable ∨ f = .pasidEnable) :
    (s.cfgWrite i n f v).cfgRead i n f = v % 2 ∧
      ∀ j m g, (j ≠ i ∨ m ≠ n) → (s.cfgWrite i n f v).cfgRead j m g = s.cfgRead j m g := by
  have hset (g : FnCfg → FnCfg) : (s.modFnc i n g).fnc i n = g (s.fnc i n) := fnc_modFnc s i n g
  have hats (g : FnCfg → FnCfg) (h : List Atc → List Atc) :
      ((s.modFnc i n g).modPort i fun x => { x with atc := h x.atc }).fnc i n = g (s.fnc i n) := by
    rw [← hset g, State.fnc, State.modPort, State.port_setPort]
    rfl
  have hone (g : FnCfg → FnCfg) (j m : Nat) (k : CfgField) (h : j ≠ i ∨ m ≠ n) : (s.modFnc i n g).cfgRead j m k = s.cfgRead j m k :=
    (OnlyFn.modFnc s i n g).cfgRead h k
  rw [← bit_eq_mod v]
  obtain rfl | rfl | rfl | rfl | rfl | rfl | rfl | rfl := hf
  · exact ⟨by simp only [State.cfgWrite, State.cfgRead, hset], fun j m k h => hone _ j m k h⟩
  · exact ⟨by simp only [State.cfgWrite, State.cfgRead, hset], fun j m k h => hone _ j m k h⟩
  · exact ⟨by simp only [State.cfgWrite, State.cfgRead, hset], fun j m k h => hone _ j m k h⟩
  · exact ⟨by simp only [State.cfgWrite, State.cfgRead, hset], fun j m k h => hone _ j m k h⟩
  · refine ⟨?_, fun j m k h => ((OnlyFn.modFnc s i n _).modAtc fun l => l.filter fun t => t.fn != n).cfgRead h k⟩
    simp only [State.cfgWrite, State.cfgRead, hats _ fun l => l.filter fun t => t.fn != n]
  · exact ⟨by simp only [State.cfgWrite, State.cfgRead, hset], fun j m k h => hone _ j m k h⟩
  · exact ⟨by simp only [State.cfgWrite, State.cfgRead, hset], fun j m k h => hone _ j m k h⟩
  · exact ⟨by simp only [State.cfgWrite, State.cfgRead, hset], fun j m k h => hone _ j m k h⟩

/-- The payload size reads as it was written. -/
theorem cfgRead_cfgWrite_mps (s : State) (i n v : Nat) : (s.cfgWrite i n .mps v).cfgRead i n .mps =
    if v = 128 ∨ v = 256 ∨ v = 512 then v else s.cfgRead i n .mps := by
  simp only [State.cfgWrite]
  split
  · simp only [State.cfgRead, fnc_modFnc]
  · rfl

/-! ### Requests to configuration space, and vectors -/

section requests
variable (hl : s.linkOpen p.val = true) (hr : s.portRests p.val = false)
include hl hr

theorem exec_configRequest_retry (fn : FnIx) (q : CfgReq) (h : (s.port p.val).released = false) :
    exec (.configRequest p fn q) s = .next (s.emit (.cfg p.val fn.val none)) := by
  refine congrArg Host.Outcome.next ((atCfg_of_going hr).trans ?_)
  simp only [configRequest, hl, h, Bool.not_true, Bool.not_false, Bool.false_eq_true, if_false, if_true]

section released
variable (h : (s.port p.val).released = true) {fn : FnIx} (hf : s.fnThere p.val fn.val = true)
include h hf

theorem exec_configRequest_read (f : CfgField) : exec (.configRequest p fn (.read f)) s =
    .next ((s.setPort p.val { s.port p.val with enumerated := true }).emit
      (.cfg p.val fn.val (some ((s.setPort p.val { s.port p.val with enumerated := true }).cfgRead p.val fn.val f)))) :=
  congrArg Host.Outcome.next ((atCfg_of_going hr).trans ((if_neg (by simp [hl])).trans ((if_neg (by simp [h])).trans (if_neg (by simp [hf])))))

theorem exec_configRequest_write (f : CfgField) (v : Nat) : exec (.configRequest p fn (.write f v)) s =
    .next (((s.setPort p.val { s.port p.val with enumerated := true }).cfgWrite p.val fn.val f v).emit (.cfg p.val fn.val (some 0))).goOn :=
  congrArg Host.Outcome.next ((atCfg_of_going hr).trans ((if_neg (by simp [hl])).trans ((if_neg (by simp [h])).trans (if_neg (by simp [hf])))))

end released

theorem exec_busMasterEnableClear (fn : FnIx) :
    exec (.busMasterEnableClear p fn) s = .next ((s.modFnc p.val fn.val fun x => { x with bme := false }).pump) :=
  congrArg Host.Outcome.next ((atCfg_of_going hr).trans (if_pos hl))

theorem exec_d3hot (fn : FnIx) : exec (.d3hot p fn) s = .next ((s.modFnc p.val fn.val fun x => { x with d3 := true }).pump) :=
  congrArg Host.Outcome.next ((atCfg_of_going hr).trans (if_pos hl))

end requests

theorem exec_msixUnmask {fn : FnIx} {v : Nat} (h : s.fnOpen p.val fn.val = true) (hv : v < s.msixUsable p.val fn.val) :
    exec (.msixUnmask p fn v) s =
      .next ((s.modFnc p.val fn.val fun x => { x with unmasked := x.unmasked.filter (· != v) ++ [v] }).msixFlush p.val fn.val v) :=
  congrArg Host.Outcome.next ((State.atBar_of_fnOpen h _ _).trans ((if_pos h).trans (if_neg (Nat.not_le.mpr hv))))

/-- Settles O51: an access of BAR4 ends where its address and the storage there lead, requests to configuration space write one
function's fields, and those read back. -/
theorem hostWindows : Obligations.HostWindows := by
  unfold Obligations.HostWindows
  refine ⟨fun p s => ⟨fun h => ?_, fun fn hl hr => ⟨fun hq q => exec_configRequest_retry hl hr fn q hq,
      fun hq hf => ⟨fun f => exec_configRequest_read hl hr hq hf f, fun f v => exec_configRequest_write hl hr hq hf f v⟩⟩,
      fun fn hl hr => ⟨exec_busMasterEnableClear hl hr fn, exec_d3hot hl hr fn⟩, rfl, fun fn v h hv => exec_msixUnmask h hv⟩,
    fun s p fn v _ _ => ⟨fun f hf => cfgRead_cfgWrite_enable s p fn v hf, fun hv => ?_, fun h1 h2 h3 => ?_⟩⟩
  · intro v
    refine ⟨fun off n ha => ?_, fun off n a ha hr => ?_, fun off n a k u ha hr => ⟨fun hw hv => ?_, fun hw => ?_⟩, fun off d ha => ?_,
      fun off d a ha hr => ?_, fun off d a k u ha hr => ⟨fun ht => ?_, fun ht hw hv => ?_, fun ht hw => ?_⟩⟩
    · rw [exec_bar4Read h, bar4Read_outside h ha]
    · rw [exec_bar4Read h, bar4Read_unreached h ha hr]
    · rw [exec_bar4Read h, bar4Read_reached h ha hr, bar4Go_serves hw, servePort_read hv]
    · rw [exec_bar4Read h, bar4Read_reached h ha hr, bar4Go_waits hw]
    · rw [exec_bar4Write h, bar4Write_outside h ha]
    · rw [exec_bar4Write h, bar4Write_unreached h ha hr]
    · rw [exec_bar4Write h, bar4Write_reached h ha hr, if_pos ht]
    · rw [exec_bar4Write h, bar4Write_reached h ha hr, if_neg ht, bar4Go_serves hw, servePort_write hv]
    · rw [exec_bar4Write h, bar4Write_reached h ha hr, if_neg ht, bar4Go_waits hw]
  · rw [cfgRead_cfgWrite_mps, if_pos hv]
  · rw [cfgRead_cfgWrite_mps, if_neg (by tauto)]

end Sys2Proof.Machine
end


section
/-! PROOFS. The traffic of an active link. -/

namespace Sys2Proof.Machine

variable {s : State} {l : LinkIx} {k : Link}

/-! ### Acknowledgements -/

/-- The flits that an acknowledgement removes: those up to it, where it is of the replay buffer. -/
def Link.covered (k : Link) (ack : BitVec 12) : Nat :=
  match k.replay.head? with
  | some f => if seqDist f.1 ack + 1 ≤ k.replay.length then seqDist f.1 ack + 1 else 0
  | none => 0

/-- The link after the flits that an acknowledgement covers have left its replay buffer. -/
def Link.ackedOnly (k : Link) (ack : BitVec 12) (now : Nat) : Link :=
  if 0 < k.covered ack then
    { k with replay := k.replay.drop (k.covered ack), resendFrom := k.resendFrom - k.covered ack, lastAckAt := now, resendCount := 0 }
  else k

theorem acked_eq (k : Link) (ack : BitVec 12) (nak : Bool) (now : Nat) : k.acked ack nak now =
    if nak && !(k.ackedOnly ack now).replay.isEmpty && !(k.ackedOnly ack now).resending then
      { k.ackedOnly ack now with resending := true, resendFrom := 0, resendCount := (k.ackedOnly ack now).resendCount + 1 }
    else k.ackedOnly ack now := rfl

theorem acked_of_covered {ack : BitVec 12} {now : Nat} (h : 0 < k.covered ack) (hr : k.resending = false) :
    (k.acked ack false now).replay = k.replay.drop (k.covered ack) ∧ (k.acked ack false now).resendCount = 0 ∧
      (k.acked ack false now).lastAckAt = now ∧ (k.acked ack true now).replay = k.replay.drop (k.covered ack) ∧
      (k.acked ack true now).resending = !(k.replay.drop (k.covered ack)).isEmpty := by
  have hk : k.ackedOnly ack now = { k with
      replay := k.replay.drop (k.covered ack), resendFrom := k.resendFrom - k.covered ack, lastAckAt := now, resendCount := 0 } := if_pos h
  refine ⟨?_, ?_, ?_, ?_⟩
  · rw [acked_eq, hk]
    rfl
  · rw [acked_eq, hk]
    rfl
  · rw [acked_eq, hk]
    rfl
  · rw [acked_eq, hk]
    cases he : (k.replay.drop (k.covered ack)).isEmpty
    · simp [hr]
    · simp [hr]

theorem acked_of_not_covered {ack : BitVec 12} {now : Nat} (h : k.covered ack = 0) : k.acked ack false now = k := by
  rw [acked_eq, Link.ackedOnly, h]
  rfl

section spaced
variable (hlen : k.replay.length ≤ 1024)
  (hseq : ∀ (i : Nat) (h : i < k.replay.length) (h0 : 0 < k.replay.length), (k.replay[i]).1 = (k.replay[0]).1 + BitVec.ofNat 12 i)
include hlen hseq

/-- The acknowledgement of a flit of the replay buffer covers it and those before it. -/
theorem covered_getElem {i : Nat} (h : i < k.replay.length) : k.covered (k.replay[i]).1 = i + 1 := by
  have h0 : 0 < k.replay.length := by omega
  have hd : seqDist (k.replay[0]).1 (k.replay[i]).1 = i := by
    rw [hseq i h h0, seqDist, BitVec.add_comm, BitVec.add_sub_cancel, BitVec.toNat_ofNat, Nat.mod_eq_of_lt (by omega)]
  rw [Link.covered, List.head?_eq_getElem?, List.getElem?_eq_getElem h0]
  simp only [hd, if_pos (Nat.succ_le_of_lt h)]

/-- A number that no flit of the replay buffer has covers nothing. -/
theorem covered_of_ne {x : BitVec 12} (h : ∀ g ∈ k.replay, g.1 ≠ x) : k.covered x = 0 := by
  unfold Link.covered
  split
  · next f hf =>
    refine if_neg fun hd => ?_
    have h0 : 0 < k.replay.length := by omega
    rw [List.head?_eq_getElem?, List.getElem?_eq_getElem h0, Option.some.injEq] at hf
    refine h _ (List.getElem_mem (n := seqDist f.1 x) (by omega)) ?_
    rw [hseq _ (by omega) h0, hf, seqDist, BitVec.ofNat_toNat, BitVec.setWidth_eq, BitVec.add_comm, BitVec.sub_add_cancel]
  · rfl

end spaced

/-! ### Flits that arrive -/

theorem acked_rxSeq (k : Link) (ack : BitVec 12) (nak : Bool) (now : Nat) : (k.acked ack nak now).rxSeq = k.rxSeq ∧
    (k.acked ack nak now).rxBytes = k.rxBytes := by
  unfold Link.acked
  extract_lets n k'
  have h : k'.rxSeq = k.rxSeq ∧ k'.rxBytes = k.rxBytes := by
    unfold k'
    split <;> exact ⟨rfl, rfl⟩
  split <;> exact h

section active
variable (hr : s.linksRun = true) (ha : (s.link l.val).st = .active) (hp : (s.link l.val).phase = 0)
include hr ha

theorem flitsTaken_of_active : s.flitsTaken l.val = true := by
  simp only [State.flitsTaken, hr, ha, Bool.true_and]

include hp

theorem exec_dataFlit_undecoded {b : Bytes} (hb : readFlit b = none) : exec (.dataFlit l b) s =
    .next (s.setLink l.val { s.link l.val with goodFlits := if (s.link l.val).goodFlits = 64 then 64 else 0, nakSend := true }) := by
  show Host.Outcome.next (dataFlit l b s) = _
  simp only [dataFlit, flitsTaken_of_active hr ha, hb, Bool.not_true, Bool.false_eq_true, if_false, State.badFlit, State.modLink, hp]
  simp

theorem exec_idleFlit_undecoded {b : Bytes} (hb : readFlit b = none) : exec (.idleFlit l b) s =
    .next (s.setLink l.val { s.link l.val with goodFlits := if (s.link l.val).goodFlits = 64 then 64 else 0, nakSend := true }) := by
  show Host.Outcome.next (idleFlit l b s) = _
  simp only [idleFlit, flitsTaken_of_active hr ha, hb, Bool.not_true, Bool.false_eq_true, if_false, State.badFlit, State.modLink, hp]
  simp

theorem exec_idleFlit {b d : Bytes} {seq ack : BitVec 12} {nak : Bool} (hb : readFlit b = some (d, seq, ack, 1, nak)) :
    exec (.idleFlit l b) s = .next (s.setLink l.val ((s.link l.val).acked ack nak s.ticks)) := by
  have hgood : (s.link l.val).good s.locked s.ticks = s.link l.val := if_neg (by rw [hp]; decide)
  show Host.Outcome.next (idleFlit l b s) = _
  simp only [idleFlit, flitsTaken_of_active hr ha, hb, Bool.not_true, Bool.false_eq_true, if_false, ne_eq, not_true_eq_false, hgood]

theorem exec_dataFlit_expected {b d : Bytes} {ack : BitVec 12} {nak : Bool} (hb : readFlit b = some (d, (s.link l.val).rxSeq, ack, 0, nak)) :
    exec (.dataFlit l b) s = .next ((s.setLink l.val { (s.link l.val).acked ack nak s.ticks with
      rxSeq := (s.link l.val).rxSeq + 1, nakSend := false, rxBytes := (s.link l.val).rxBytes ++ slice d 4 236 }).parsePackets l.val
        (((s.link l.val).rxBytes.length + 236) / 8 + 1)) := by
  obtain ⟨hseq, hbytes⟩ := acked_rxSeq (s.link l.val) ack nak s.ticks
  show Host.Outcome.next (dataFlit l b s) = _
  simp only [dataFlit, flitsTaken_of_active hr ha, hb, hp, Bool.not_true, Bool.false_eq_true, if_false, ne_eq, not_true_eq_false,
    show ¬ (0 = 4) by decide, hseq, hbytes, if_true]

theorem exec_dataFlit_other {b d : Bytes} {seq ack : BitVec 12} {nak : Bool} (hb : readFlit b = some (d, seq, ack, 0, nak))
    (hs : seq ≠ (s.link l.val).rxSeq) : exec (.dataFlit l b) s =
      .next (s.setLink l.val { (s.link l.val).acked ack nak s.ticks with nakSend := true }) := by
  obtain ⟨hseq, hbytes⟩ := acked_rxSeq (s.link l.val) ack nak s.ticks
  show Host.Outcome.next (dataFlit l b s) = _
  simp only [dataFlit, flitsTaken_of_active hr ha, hb, hp, Bool.not_true, Bool.false_eq_true, if_false, ne_eq, not_true_eq_false,
    show ¬ (0 = 4) by decide, hseq, if_neg hs]

end active

/-! ### Flits that go out -/

theorem creditDue_keeps (k : Link) (src : Nat) : (k.creditDue src).st = k.st ∧ (k.creditDue src).phase = k.phase ∧
    (k.creditDue src).sinceIdle = k.sinceIdle := by
  unfold Link.creditDue
  split <;> exact ⟨rfl, rfl, rfl⟩

theorem fill_keeps (n : Nat) (k : Link) : (k.fill n).st = k.st ∧ (k.fill n).phase = k.phase ∧ (k.fill n).sinceIdle = k.sinceIdle := by
  induction n generalizing k with
  | zero => exact ⟨rfl, rfl, rfl⟩
  | succ n ih =>
    unfold Link.fill
    split
    · exact ⟨rfl, rfl, rfl⟩
    · split
      · exact ⟨rfl, rfl, rfl⟩
      · exact ih _

theorem activate_of_phase {k : Link} (h : k.phase = 0) : k.activate = k := if_neg (by rw [h]; simp)

section sending
variable (hr : s.linksRun = true) (ha : (s.link l.val).st = .active) (hp : (s.link l.val).phase = 0)
include hr ha hp

/-- An idle flit goes out where nothing waits. -/
theorem exec_flitTransmit_idle (hreplay : (s.link l.val).replay = []) (hq : (s.link l.val).txq = []) (hb : (s.link l.val).txBytes = [])
    (ho : ∀ x ∈ (s.link l.val).owed, x = 0) (hres : (s.link l.val).resending = false) : exec (.flitTransmit l) s =
      .next ((s.setLink l.val { s.link l.val with sinceIdle := 0 }).emit (.flit l.val ((s.link l.val).flit ((s.link l.val).txSeq - 1) 1 []))) := by
  have hcred : (s.link l.val).creditDue s.devId = s.link l.val := by
    refine if_neg fun h => ?_
    obtain ⟨x, hx, hne⟩ := List.any_eq_true.mp h.2
    exact (bne_iff_ne.mp hne) (ho x hx)
  have hfill : (s.link l.val).fill 64 = s.link l.val := by
    simp only [Link.fill, hb, hq, nextTx, List.length_nil, if_neg (show ¬ 236 ≤ 0 by decide)]
  show Host.Outcome.next (flitTransmit l s) = _
  simp only [flitTransmit, hr, ha, hp, hres, hreplay, hcred, hfill, activate_of_phase hp, hb, LinkSt.gone, List.length_nil]
  split
  · next h => exact absurd h (by decide)
  · simp

/-- What is queued goes out in a flit that the replay buffer keeps. -/
theorem exec_flitTransmit_data (hres : (s.link l.val).resending = false) (hi : (s.link l.val).sinceIdle < 4095)
    (hn : (s.link l.val).replay.length < 1024) {k1 : Link} (hk : ((s.link l.val).creditDue s.devId).fill 64 = k1) {pad : Nat}
    (hpad : roundUp (236 - k1.txBytes.length) 8 = pad) {b : Bytes} (hb : k1.txBytes ++ List.replicate pad 0#8 = b)
    (hlt : k1.txFill < k1.txBytes.length) :
    ∃ k2 : Link, exec (.flitTransmit l) s = .next ((s.setLink l.val k2).emit (.flit l.val (k2.flit k1.txSeq 0 (b.take 236)))) ∧
        k2.txSeq = k1.txSeq + 1 ∧ k2.replay = k1.replay ++ [(k1.txSeq, b.take 236)] ∧ k2.txBytes = b.drop 236 ∧ k2.txq = k1.txq ∧
        k2.credits = k1.credits ∧ k2.sinceIdle = (s.link l.val).sinceIdle + 1 ∧ k2.st = .active := by
  obtain ⟨hst1, hphase1, hidle1⟩ := creditDue_keeps (s.link l.val) s.devId
  obtain ⟨hst2, hphase2, hidle2⟩ := fill_keeps 64 ((s.link l.val).creditDue s.devId)
  rw [hk] at hst2 hphase2 hidle2
  refine ⟨{ k1 with txBytes := b.drop 236, txFill := if pad = 0 then 0 else b.length - 236, txSeq := k1.txSeq + 1,
                    replay := k1.replay ++ [(k1.txSeq, b.take 236)], sinceIdle := k1.sinceIdle + 1,
                    lastAckAt := if k1.replay.isEmpty then s.ticks else k1.lastAckAt },
    ?_, rfl, rfl, rfl, rfl, rfl, congrArg (· + 1) (hidle2.trans hidle1), hst2.trans (hst1.trans ha)⟩
  show Host.Outcome.next (flitTransmit l s) = _
  simp only [flitTransmit, hr, ha, hp, hres, hk, hpad, hb, LinkSt.gone, if_neg (Nat.not_le.mpr hn), if_neg (Nat.not_le.mpr hlt)]
  rw [if_neg (by decide), if_neg (by decide), if_neg (by omega), if_neg (by decide)]
  exact congrArg Host.Outcome.next (congrArg (State.emit · _) (congrArg (s.setLink l.val) (activate_of_phase (hphase2.trans (hphase1.trans hp)))))

/-- What was asked for again goes out again. -/
theorem exec_flitTransmit_again {f : BitVec 12 × Bytes} (hres : (s.link l.val).resending = true) (hi : (s.link l.val).sinceIdle < 4095)
    (hf : (s.link l.val).replay[(s.link l.val).resendFrom]? = some f) (has : s.assisted 5 = false)
    (hn : (s.link l.val).resendFrom + 1 < (s.link l.val).replay.length) : exec (.flitTransmit l) s = .next (((s.setLink l.val
        { s.link l.val with
          sinceIdle := (s.link l.val).sinceIdle + 1, resends := (s.link l.val).resends + 1, resendFrom := (s.link l.val).resendFrom + 1 }).emit
        (.flit l.val ((s.link l.val).flit f.1 0 f.2))).logEvent lgLinks [0, 1] eLinkFlit cRecovered 1 0 l.val (BitVec.ofNat 64 l.val)
          (BitVec.ofNat 64 ((s.link l.val).resends + 1))) := by
  show Host.Outcome.next (flitTransmit l s) = _
  generalize hk : s.link l.val = k at *
  obtain ⟨st, phase, since, retried, peerId, peerLink, peerValid, resends, discards, txSeq, rxSeq, replay, resendFrom, resendCount, resending⟩ := k
  simp only at ha hp hres hi hf hn
  subst ha hp hres
  simp only [flitTransmit, hk, hr, has, hf, hn, decide_true, Bool.and_true, LinkSt.gone]
  rw [if_neg (by decide), if_neg (by decide), if_neg (by omega)]
  rfl

end sending

/-! ### Packets on their way to another device -/

section transit
variable {p : Packet} {t : State} (hr : s.running = true)
  (hf : (s.link l.val).rxq.find? (fun p => p.cls != clLk && p.dst != s.devId) = some p)
  (ht : (s.modLink l.val fun k => { k with rxq := k.rxq.erase p, owed := k.owed.modify p.cls (· + p.units) }) = t)
include hr hf ht

theorem exec_packetTransit_far (h : p.hops = 2) : exec (.packetTransit l) s = .next (t.discard l.val dcHops) := by
  show Host.Outcome.next (packetTransit l s) = _
  simp only [packetTransit, hr, hf, ht, if_pos h, Bool.not_true, Bool.false_eq_true, if_false]

theorem exec_packetTransit_on (h : p.hops ≠ 2) {o : Nat} (ho : t.routeOf p.dst = some o) : exec (.packetTransit l) s =
    .next (t.setLink o { t.link o with txq := (t.link o).txq ++ [{ p with hops := p.hops + 1 }] }) := by
  show Host.Outcome.next (packetTransit l s) = _
  simp only [packetTransit, hr, hf, ht, if_neg h, ho, Bool.not_true, Bool.false_eq_true, if_false]
  rfl

theorem exec_packetTransit_lost (h : p.hops ≠ 2) (ho : t.routeOf p.dst = none) :
    exec (.packetTransit l) s = .next (t.discard l.val dcRoute) := by
  show Host.Outcome.next (packetTransit l s) = _
  simp only [packetTransit, hr, hf, ht, if_neg h, ho, Bool.not_true, Bool.false_eq_true, if_false]

end transit

/-- Settles O50: an active link takes the flit it expects, sends what is queued or asked for again, passes packets on, and an
acknowledgement removes the flits it covers. -/
theorem linkTraffic : Obligations.LinkTraffic := by
  unfold Obligations.LinkTraffic
  refine ⟨fun l s hr ha hp => ?_, fun k a b f now hk hlen hres hseq => ?_⟩
  · intro k
    refine ⟨fun b d seq ack nak => ⟨fun hb => ?_, fun hb => exec_idleFlit hr ha hp hb⟩,
      fun b hb => ⟨exec_dataFlit_undecoded hr ha hp hb, exec_idleFlit_undecoded hr ha hp hb⟩,
      fun hreplay hq hb ho hres => exec_flitTransmit_idle hr ha hp hreplay hq hb ho hres,
      fun hres hi hn => fun hlt => exec_flitTransmit_data hr ha hp hres hi hn rfl rfl rfl hlt,
      fun f hres hi hf has hn => exec_flitTransmit_again hr ha hp hres hi hf has hn, fun p hrun hf => ?_⟩
    · intro k'
      refine ⟨fun hseq => ?_, fun hne => exec_dataFlit_other hr ha hp hb hne⟩
      subst hseq
      exact exec_dataFlit_expected hr ha hp hb
    · intro t
      exact ⟨exec_packetTransit_far hrun hf rfl, fun h2 o ho => exec_packetTransit_on hrun hf rfl h2 ho,
        fun h2 ho => exec_packetTransit_lost hrun hf rfl h2 ho⟩
  · have hlt : a.length < k.replay.length := by
      rw [hk, List.length_append, List.length_cons]
      omega
    have hfi : k.replay[a.length] = f := by
      simp only [hk, List.getElem_append_right (Nat.le_refl _), Nat.sub_self, List.getElem_cons_zero]
    have hcov : k.covered f.1 = a.length + 1 := by
      rw [← hfi]
      exact covered_getElem hlen hseq hlt
    have hdrop : k.replay.drop (k.covered f.1) = b := by
      rw [hcov, hk]
      simp
    obtain ⟨h1, h2, h3, h4, h5⟩ := acked_of_covered (now := now) (by rw [hcov]; exact Nat.succ_pos _) hres
    rw [hdrop] at h1 h4 h5
    exact ⟨h1, h2, h3, ⟨h4, h5⟩, fun x hx => acked_of_not_covered (covered_of_ne hlen hseq hx)⟩

end Sys2Proof.Machine
end


section
/-! PROOFS. The power controller, and what a loss of power leaves. -/

namespace Sys2Proof.Machine

variable {s : State}

/-! ### The anti-rollback counter only rises -/

/-- Every fuse of the first counter is blown in the second. -/
def FusesIn (x y : BitVec 128) : Prop := x ||| y = y

theorem FusesIn.refl (x : BitVec 128) : FusesIn x x := BitVec.or_self

theorem FusesIn.trans {x y z : BitVec 128} (h : FusesIn x y) (g : FusesIn y z) : FusesIn x z := by
  rw [FusesIn, ← g, ← BitVec.or_assoc, h]

theorem FusesIn.and_eq {x y : BitVec 128} (h : FusesIn x y) : x &&& y = x := by
  rw [← h]
  ext i hi
  simp only [BitVec.getElem_and, BitVec.getElem_or]
  cases x[i] <;> rfl

theorem fusesIn_blowBit (x : BitVec 128) : FusesIn x (blowBit x) := by
  rw [FusesIn, blowBit, ← BitVec.or_assoc, BitVec.or_self]

theorem fusesIn_blowTo (x : BitVec 128) (n : Nat) : FusesIn x (blowTo x n) :=
  Function.Iterate.rec (motive := FusesIn x) (FusesIn.refl x) (fun y (h : FusesIn x y) => h.trans (fusesIn_blowBit y)) _

/-! ### What a loss of power leaves -/

theorem blowPartly_rest (s : State) : s.blowPartly = { s with freeCtr := s.blowPartly.freeCtr, fuses := s.blowPartly.fuses } := by
  unfold State.blowPartly
  extract_lets commit f
  split <;> rfl

theorem fuses_blowPartly (s : State) : FusesIn s.fuses.svn s.blowPartly.fuses.svn ∧ (s.boot.trial = false → s.blowPartly.fuses = s.fuses) := by
  unfold State.blowPartly
  extract_lets commit f
  split
  · next h =>
    refine ⟨fusesIn_blowTo _ _, fun ht => ?_⟩
    rw [ht, Bool.and_false] at h
    cases h
  · exact ⟨FusesIn.refl _, fun _ => rfl⟩

theorem putSlots_rest (s : State) (x : SlotState) : s.putSlots x = { s with boot := (s.putSlots x).boot, bootFlash := (s.putSlots x).bootFlash } := by
  unfold State.putSlots
  extract_lets y
  split <;> rfl

theorem dropSession_rest (s : State) : s.dropSession = { s with boot := s.dropSession.boot, bootFlash := s.dropSession.bootFlash } := by
  unfold State.dropSession
  split
  · unfold State.endSession
    extract_lets s'
    rw [putSlots_rest]
  · rfl

theorem dropSession_of_none (h : s.boot.session = none) : s.dropSession = s := by
  rw [State.dropSession, h]
  rfl

theorem linksFall_rest (s : State) : s.linksFall = { s with ports := s.linksFall.ports, out := s.linksFall.out } := by
  unfold State.linksFall
  refine List.foldlRecOn (motive := fun t : State => t = { s with ports := t.ports, out := t.out }) _ _ rfl fun t ht p _ => ?_
  split
  · rw [ht]
    rfl
  · exact ht

/-- The state in which power leaves, before anything is cleared. -/
def State.leaving (s : State) : State := s.blowPartly.dropSession.linksFall

theorem leaving_rest (s : State) : s.leaving = { s with
    freeCtr := s.leaving.freeCtr, fuses := s.blowPartly.fuses, boot := s.leaving.boot, bootFlash := s.leaving.bootFlash, ports := s.leaving.ports,
    out := s.leaving.out } := by
  rw [State.leaving, linksFall_rest, dropSession_rest, blowPartly_rest]

theorem fuses_leaving (s : State) : s.leaving.fuses = s.blowPartly.fuses := by rw [leaving_rest]
theorem pending_leaving (s : State) : s.leaving.pending = s.pending := by rw [leaving_rest]
theorem mgmt_leaving (s : State) : s.leaving.mgmt = s.mgmt := by rw [leaving_rest]
theorem dmem_leaving (s : State) : s.leaving.dmem = s.dmem := by rw [leaving_rest]
theorem power_leaving (s : State) : s.leaving.power = s.power := by rw [leaving_rest]

theorem bootFlash_leaving (h : s.boot.session = none) : s.leaving.bootFlash = s.bootFlash := by
  have hp : s.blowPartly.boot.session = none := by rw [blowPartly_rest]; exact h
  rw [State.leaving, linksFall_rest, dropSession_of_none hp, blowPartly_rest]

/-- What power loss leaves, but for the release of the alert pin. -/
theorem powerOff_cleared (s : State) : ∃ o, s.powerOff = { s.leaving.cleared { stage := .off, slots := s.leaving.boot.slots } 0 []
    { causes := s.leaving.mgmt.causes &&& 8, cables := s.leaving.mgmt.cables, strap := s.leaving.mgmt.strap }
    { s.leaving.power with pwrgd := false, railsUp := 0, raising := false } with out := o } := by
  unfold State.powerOff
  extract_lets s' m t
  split
  · exact ⟨_, rfl⟩
  · exact ⟨_, rfl⟩

/-- Power that leaves every domain keeps the fuses, the boot flash, tier 2, the cables and the straps, and nothing else of a run. -/
theorem powerOff_leaves (s : State) :
    (s.boot.trial = false → s.powerOff.fuses = s.fuses) ∧ s.fuses.svn &&& s.powerOff.fuses.svn = s.fuses.svn ∧
      (s.boot.session = none → s.powerOff.bootFlash = s.bootFlash) ∧ s.powerOff.pending = s.pending ∧ s.powerOff.ticks = 0 ∧
      s.powerOff.boot.stage = .off ∧ s.powerOff.power.pwrgd = false ∧ s.powerOff.insts = [] ∧ s.powerOff.logs = [] ∧
      s.powerOff.mgmt.cables = s.mgmt.cables ∧ s.powerOff.mgmt.strap = s.mgmt.strap ∧ s.powerOff.awake = false ∧
      (∀ r, s.powerOff.ring r = {}) ∧ (∀ c, s.powerOff.core c = State.reset.core c) ∧
      ∀ e : Host.Cell, e ∈ s.powerOff.dmem ↔ e ∈ s.dmem ∧ inTier2 e.1 = true := by
  obtain ⟨o, h⟩ := powerOff_cleared s
  obtain ⟨hsvn, hfuses⟩ := fuses_blowPartly s
  have hf : s.powerOff.fuses = s.blowPartly.fuses := by
    rw [h]
    exact fuses_leaving s
  refine ⟨fun ht => hf.trans (hfuses ht), hf ▸ hsvn.and_eq, fun hs => ?_, ?_, ?_, ?_, ?_, ?_, ?_, ?_, ?_, ?_, fun r => ?_, fun c => ?_, fun e => ?_⟩
  · rw [h]
    exact bootFlash_leaving hs
  · rw [h]
    exact pending_leaving s
  · rw [h]
    rfl
  · rw [h]
    rfl
  · rw [h]
    rfl
  · rw [h]
    rfl
  · rw [h]
    rfl
  · rw [h]
    show s.leaving.mgmt.cables = _
    rw [mgmt_leaving]
  · rw [h]
    show s.leaving.mgmt.strap = _
    rw [mgmt_leaving]
  · rw [h]
    rfl
  · rw [h]
    rfl
  · rw [h]
    rfl
  · have hd : s.powerOff.dmem = s.dmem.filter fun e => inTier2 e.1 := by
      rw [h]
      exact congrArg (fun m : Memory => m.filter fun e => inTier2 e.1) (dmem_leaving s)
    rw [hd, List.mem_filter]

theorem power_powerOff (s : State) : s.powerOff.power = { s.power with pwrgd := false, railsUp := 0, raising := false } := by
  obtain ⟨o, h⟩ := powerOff_cleared s
  rw [h]
  exact congrArg (fun w : PowerCtl => { w with pwrgd := false, railsUp := 0, raising := false }) (power_leaving s)

/-! ### The events -/

/-- A loss of VIN takes the supply of the power controller away, and the device's power with it. -/
theorem exec_vinLoss (s : State) : ∃ t, exec .vinLoss s = .next t ∧ t.power.standby = false ∧ t.power.pwrgd = false ∧ t.power.raising = false ∧
    t.power.needRaise = s.power.needRaise ∧ (s.boot.trial = false → t.fuses = s.fuses) ∧ (s.boot.session = none → t.bootFlash = s.bootFlash) := by
  obtain ⟨hfuses, -, hflash, -, -, -, hgood, -⟩ := powerOff_leaves s
  cases hp : s.power.pwrgd with
  | false =>
    have hx : vinLoss s = _ := congrArg (fun t : State => { t with power := { t.power with
      vin := 0, standby := false, raising := false, railsUp := 0, cycling := false, railFault := none } }) (if_neg (by rw [hp]; exact Bool.false_ne_true))
    exact ⟨_, congrArg Host.Outcome.next hx, rfl, hp, rfl, rfl, fun _ => rfl, fun _ => rfl⟩
  | true =>
    have hx : vinLoss s = _ := congrArg (fun t : State => { t with power := { t.power with
      vin := 0, standby := false, raising := false, railsUp := 0, cycling := false, railFault := none } }) (if_pos hp)
    have hn : s.powerOff.power.needRaise = s.power.needRaise := by rw [power_powerOff]
    exact ⟨_, congrArg Host.Outcome.next hx, rfl, hgood, rfl, hn, hfuses, hflash⟩

/-- Links that are not in bring-up do not follow their connector. -/
theorem link_connectorChanged (c : Nat) {l : Nat} (h : (s.link l).st ≠ .training) : (s.connectorChanged c).link l = s.link l := by
  unfold State.connectorChanged
  refine List.foldlRecOn (motive := fun t : State => t.link l = s.link l) _ _ rfl fun t ht m _ => ?_
  rw [State.modLink]
  by_cases hm : l = m
  · subst hm
    rw [State.link_setLink, ht, if_neg fun hx => h hx.1]
  · rw [State.link_setLink_ne _ _ _ hm, ht]

/-- A command of the power controller needs no Jinal. -/
theorem mgDo_of_power {x : MgXfer} (hx : x.pecOk = true) (hp : s.power.standby = true) (act : State → Nat × Bytes × State) :
    s.mgDo x false act = (act s).2.2.emit (.mgmt (act s).1 (act s).2.1) := by
  simp [State.mgDo, hx, hp]

section power
variable {x : MgXfer} (hx : x.pecOk = true) (hp : s.power.standby = true)
include hx hp

theorem exec_powerStatus : ∃ b : Bytes, b.length = 4 ∧ exec (.powerStatus x) s = .next (s.emit (.mgmt fwOk b)) :=
  ⟨_, rfl, congrArg Host.Outcome.next (mgDo_of_power hx hp _)⟩

theorem exec_powerCycle {n : Nat} (h2 : 2 ≤ n) (h60 : n ≤ 60) : exec (.powerCycle x n) s = .next (State.emit { s.powerOff with
    power := { s.powerOff.power with cycling := true, offSeconds := n } } (.mgmt fwOk [])) := by
  show Host.Outcome.next (powerCycle x n s) = _
  rw [powerCycle, mgDo_of_power hx hp, if_neg (by omega)]

theorem exec_powerCycle_bad {n : Nat} (h : n < 2 ∨ 60 < n) : exec (.powerCycle x n) s = .next (s.emit (.mgmt fwBad [])) := by
  show Host.Outcome.next (powerCycle x n s) = _
  rw [powerCycle, mgDo_of_power hx hp, if_pos h]

end power

theorem exec_powerOn_cycling (h : s.power.cycling = true) : exec .powerOn s = .next { s with
    power := { s.power with pwrEn := true, vin := max s.power.vin 46000, needRaise := s.power.needRaise && s.power.pwrEn } } :=
  congrArg Host.Outcome.next (if_pos h)

theorem exec_powerOn_raises (hc : s.power.cycling = false) (hs : s.power.standby = true) (hg : s.power.pwrgd = false)
    (hr : s.power.raising = false) (hn : s.power.needRaise = false ∨ s.power.pwrEn = false) : exec .powerOn s =
      .next { s with power := { s.power with pwrEn := true, vin := max s.power.vin 46000, raising := true, needRaise := false } } :=
  congrArg Host.Outcome.next ((if_neg (by simp [hc])).trans (if_neg (by rcases hn with h | h <;> simp [hs, hg, hr, h])))

theorem exec_powerOn_good (hc : s.power.cycling = false) (hg : s.power.pwrgd = true) : exec .powerOn s = .next s :=
  congrArg Host.Outcome.next ((if_neg (by simp [hc])).trans (if_pos (by simp [hg])))

/-- Settles O58: the power controller's commands and events, and what is left where power leaves every domain. -/
theorem powerEvents : Obligations.PowerEvents := by
  unfold Obligations.PowerEvents
  refine ⟨fun s => ⟨fun x hx hp => ⟨exec_powerStatus hx hp, fun n h2 h60 => exec_powerCycle hx hp h2 h60, fun n h => exec_powerCycle_bad hx hp h⟩,
    fun hs hc hg hr hn => exec_powerOn_raises hc hs hg hr hn, exec_powerOn_cycling, exec_powerOn_good, fun n hr h1 h7 => ?_, fun hr => ?_,
    fun hr => ⟨?_, fun n => ?_⟩, fun hg => ?_, fun hg => ?_, exec_vinLoss s, fun hc => ?_, fun hc => ?_, fun mv hs => ⟨fun hm => ?_, fun hm => ?_⟩,
    fun c b n part => ?_, fun hs ha => ?_, fun ha => ?_, fun a hs => ?_⟩, powerOff_leaves⟩
  · exact congrArg Host.Outcome.next (if_pos (by simp [hr, h1, h7]))
  · exact congrArg Host.Outcome.next (if_pos hr)
  · exact congrArg Host.Outcome.next (if_neg (by simp [hr]))
  · exact congrArg Host.Outcome.next (if_neg (by simp [hr]))
  · exact congrArg (fun t : State => Host.Outcome.next { t with power := { t.power with pwrEn := false, raising := false, railsUp := 0 } })
      (if_neg (show ¬ s.power.pwrgd = true by simp [hg]))
  · exact congrArg (fun t : State => Host.Outcome.next { t with power := { t.power with pwrEn := false, raising := false, railsUp := 0 } })
      (if_pos hg)
  · exact congrArg Host.Outcome.next (if_pos hc)
  · exact congrArg Host.Outcome.next (if_neg (by simp [hc]))
  · have hc : ¬ (s.power.standby || decide (mv < 44000)) = true := by simp [hs, hm]
    exact congrArg Host.Outcome.next (if_neg hc)
  · have hc : (s.power.standby || decide (mv < 44000)) = true := by simp [hm]
    exact congrArg Host.Outcome.next (if_pos hc)
  · intro t
    exact ⟨rfl, fun l hl => link_connectorChanged (s := t) c.val hl⟩
  · exact congrArg Host.Outcome.next (if_pos (by simp [hs, ha]))
  · exact congrArg Host.Outcome.next (if_neg (by simp [ha]))
  · exact congrArg Host.Outcome.next (if_pos hs)

end Sys2Proof.Machine
end


section
/-! PROOFS. Items that start, and groups that run again. -/

namespace Sys2Proof.Machine

variable {s : State} {id : ItemId} {i : Inst} {x : Item} {c : Nat}

/-! ### Items after a change of one -/

theorem num_of_instOf {n : Nat} (h : s.instOf n = some i) : i.num = n := by
  rw [State.instOf] at h
  simpa using List.find?_some h

theorem instOf_modInst (s : State) (n m : Nat) {f : Inst → Inst} (hf : ∀ i, (f i).num = i.num) :
    (s.modInst n f).instOf m = (s.instOf m).map fun i => if i.num == n then f i else i := by
  rw [State.instOf, State.modInst, updWhere, List.find?_map, State.instOf]
  congr 2
  funext i
  simp only [Function.comp]
  split
  · rw [hf]
  · rfl

theorem itemOf_modItem_self (h : s.itemOf id = some x) (f : Item → Item) : (s.modItem id f).itemOf id = some (f x) := by
  rw [State.itemOf, Option.bind_eq_some_iff] at h
  obtain ⟨i, hi, hx⟩ := h
  have hnum := beq_iff_eq.mpr (num_of_instOf hi)
  rw [State.itemOf, State.modItem, instOf_modInst _ _ _ (by exact fun _ => rfl), hi]
  simp only [Option.map_some, hnum, if_true, Option.bind_some, List.getElem?_modify, hx]
  rfl

theorem itemOf_modItem_ne {y : ItemId} (h : y ≠ id) (f : Item → Item) : (s.modItem y f).itemOf id = s.itemOf id := by
  rw [State.itemOf, State.modItem, instOf_modInst _ _ _ (by exact fun _ => rfl), State.itemOf, Option.bind_map]
  cases hi : s.instOf id.inst with
  | none => rfl
  | some i =>
    have hnum := num_of_instOf hi
    simp only [Option.bind_some, Function.comp]
    split
    · next hn =>
      have hne : y.idx ≠ id.idx := by
        intro hidx
        have hinst : y.inst = id.inst := by rw [← hnum]; exact (eq_of_beq hn).symm
        exact h (by cases y; cases id; simp_all)
      simp [hne]
    · rfl

theorem itemOf_foldl_modItem {l : List ItemId} (h : ∀ y ∈ l, y ≠ id) (f : Item → Item) (s : State) :
    (l.foldl (fun s y => s.modItem y f) s).itemOf id = s.itemOf id :=
  List.foldlRecOn (motive := fun t : State => t.itemOf id = s.itemOf id) _ _ rfl fun _ ht y hy => (itemOf_modItem_ne (h y hy) f).trans ht

theorem readyQ_foldl_modItem (l : List ItemId) (f : Item → Item) (s : State) : (l.foldl (fun s y => s.modItem y f) s).readyQ = s.readyQ :=
  List.foldlRecOn (motive := fun t : State => t.readyQ = s.readyQ) _ _ rfl fun _ ht _ _ => ht

/-- Giving cores back changes no item and takes none from the ready ones. -/
theorem restoreAll_rest (s : State) : s.restoreAll = { s with cores := s.restoreAll.cores } := by
  refine List.foldlRecOn (motive := fun t : State => t = { s with cores := t.cores }) _ _ rfl fun t ht d _ => ?_
  rw [State.restore]
  split
  · split
    · rw [ht]
      rfl
    · exact ht
  · exact ht

theorem itemOf_of_insts {t : State} (h : t.insts = s.insts) (id : ItemId) : t.itemOf id = s.itemOf id := by
  simp only [State.itemOf, State.instOf, h]

theorem itemOf_restoreAll (s : State) (id : ItemId) : s.restoreAll.itemOf id = s.itemOf id :=
  itemOf_of_insts (by rw [restoreAll_rest]) id

theorem readyQ_restoreAll (s : State) : s.restoreAll.readyQ = s.readyQ := by rw [restoreAll_rest]

/-! ### An item that starts -/

/-- A core that gives its run up keeps it in the second bank. -/
theorem core_preempt (s : State) (c : Nat) : (s.preempt c).core c = { s.core c with
    run := none, saved := match (s.core c).run with
      | some r => some { run := r, regs := (s.core c).regs, since := s.ticks }
      | none => (s.core c).saved } := by
  rw [State.preempt, State.core_modCore]
  cases hr : (s.core c).run with
  | none =>
    simp only [← hr]
  | some r => rfl

/-- The state in which an item of a loaded image has just started. -/
theorem startItem_of_loaded (hi : s.instOf id.inst = some i) (hx : s.itemOf id = some x)
    (ht : (s.core c).tag (x.cls == .express) = some (codeTag i.port i.program)) :
    (s.startItem id c).itemOf id = some { x with st := .inService c, holdsFlow := x.rcd.atomic } ∧ id ∉ (s.startItem id c).readyQ ∧
      (s.startItem id c).core c = { s.core c with
        run := some (startRun i x id), regs := { pc := partBase (x.cls == .express) + x.rcd.entry },
        saved := match (s.core c).run with
          | some r => some { run := r, regs := (s.core c).regs, since := s.ticks }
          | none => (s.core c).saved } := by
  have htag : ((s.preempt c).core c).tag (x.cls == .express) = some (codeTag i.port i.program) := by
    rw [core_preempt]
    exact ht
  unfold State.startItem
  rw [hi, hx]
  dsimp -zeta only
  extract_lets express s1 s2 s3 s4 s5 back s6
  have h2 : s2 = s1 := if_pos (by rw [beq_iff_eq]; exact htag)
  have hx4 : s4.itemOf id = some { x with st := .inService c, holdsFlow := x.rcd.atomic } := itemOf_modItem_self (s := s3) (by
    show s2.itemOf id = some x
    rw [h2]
    exact hx) _
  have hback : ∀ y ∈ back, y ≠ id := fun y hy => by
    have := List.of_mem_filter (List.mem_of_mem_filter hy)
    simpa using this
  have hq : s6.readyQ = s5.readyQ := readyQ_foldl_modItem _ _ _
  refine ⟨(itemOf_foldl_modItem hback _ s5).trans hx4, fun hmem => ?_, ?_⟩
  · have h5 : id ∈ s5.readyQ := hq ▸ List.mem_of_mem_filter hmem
    have := List.of_mem_filter h5
    simp at this
  · have h6 : s6.core c = s3.core c := State.foldl_modItem_core ..
    have h3 : s3.core c = _ := State.core_modCore ..
    refine h6.trans (h3.trans ?_)
    rw [h2]
    exact congrArg (fun k : Core => { k with run := some (startRun i x id), regs := { pc := partBase express + x.rcd.entry } }) (core_preempt s c)

theorem exec_itemStart_starts (hr : s.running = true) (hn : s.settle.nextStart = some (id, c)) (hi : s.settle.instOf id.inst = some i)
    (hx : s.settle.itemOf id = some x) (ht : (s.settle.core c).tag (x.cls == .express) = some (codeTag i.port i.program)) :
    ∃ t, exec .itemStart s = .next t ∧ t.itemOf id = some { x with st := .inService c, holdsFlow := x.rcd.atomic } ∧ id ∉ t.readyQ ∧
      t.core c = { s.settle.core c with
        run := some (startRun i x id), regs := { pc := partBase (x.cls == .express) + x.rcd.entry },
        saved := match (s.settle.core c).run with
          | some r => some { run := r, regs := (s.settle.core c).regs, since := s.settle.ticks }
          | none => (s.settle.core c).saved } := by
  obtain ⟨hitem, hready, hcore⟩ := startItem_of_loaded hi hx ht
  refine ⟨(s.settle.startItem id c).restoreAll, congrArg Host.Outcome.next (itemStart_of_nextStart hr hn), ?_, ?_, ?_⟩
  · rw [itemOf_restoreAll, hitem]
  · rw [readyQ_restoreAll]
    exact hready
  · rw [State.restoreAll_core_of_run (by rw [hcore]; rfl), hcore]

theorem exec_itemStart_none (hr : s.running = true) (hn : s.settle.nextStart = none) : exec .itemStart s = .next s.settle.restoreAll := by
  show Host.Outcome.next (itemStart s) = _
  simp only [itemStart, hr, hn, Bool.not_true, Bool.false_eq_true, if_false]

/-! ### A group that runs again -/

theorem exec_groupRerun {n : Nat} {g : BitVec 8} (hr : s.running = true) (hi : s.instOf n = some i) (hd : i.rerunDue g.toNat = true) :
    exec (.groupRerun n g) s =
      .next ((((i.items.filterMap fun x => if x.rcd.group = g.toNat then x.rcd.dep.map fun d => (i.objOf d, x.depInit) else none).foldl
        (fun (s : State) (d : Nat × Nat) => s.setSync d.1 { count := BitVec.ofNat 32 d.2 }) s).modInst n fun i =>
          { i with items := i.items.map fun x => if x.rcd.group = g.toNat then x.again else x }).settle) := by
  show Host.Outcome.next (groupRerun n g s) = _
  simp only [groupRerun, hr, hi, hd, Bool.not_true, Bool.or_self, Bool.false_eq_true, if_false, updWhere, beq_iff_eq, State.syncSetTo]

/-- Settles O28: the item chosen starts with its registers at zero and leaves the ready ones, and a group's items wait again. -/
theorem itemDispatch : Obligations.ItemDispatch := by
  unfold Obligations.ItemDispatch
  exact ⟨fun s id c i x hr hn hi hx _ ht => exec_itemStart_starts hr hn hi hx ht,
    fun s => ⟨fun hr => congrArg Host.Outcome.next (if_pos (by simp [hr])), exec_itemStart_none⟩,
    fun n g s i hr hi hd => ⟨exec_groupRerun hr hi hd, fun x => ⟨rfl, rfl, rfl, rfl, rfl⟩⟩⟩

end Sys2Proof.Machine
end


section
/-! PROOFS. Streams: what a core consumes, what the stream unit asks for and delivers, and generations that start. -/

namespace Sys2Proof.Machine

variable {s : State} {c : CoreIx} {r : Run} {f : XFmt} {g : Gen} {st n : Nat}

theorem HostSide.strm {t : State} (h : HostSide s t) (n : Nat) : t.strm n = s.strm n := by
  rw [h.rest]
  rfl

/-! ### Consumption -/

theorem consumeGen_started (hg : g.started = true) (n : Nat) :
    consumeGen n [g] = [{ g with consumed := min (g.consumed + n) g.delivered }] := if_pos hg

section sconsume
variable (h : Ready s c.val r) (ho : f.ok false true true false false = true) (hi : f.imm = 0) (hc : s.lsuCount c.val < 64)
  (hst : ((s.core c.val).sreg f.a.toNat).toNat % 65536 = st)
include h ho hi hc hst

theorem does_sconsume_other (hother : st / 4 ≠ c.val ∨ s.streamPort st ≠ r.port) : Does s (.sconsume c f)
    (.next ((s.onCore c.val Core.next).report (lgCluster (c.val / 16)) [r.port] eStream c.val st strOther)) := by
  have hport : (s.adv c.val).streamPort st = s.streamPort st := rfl
  refine does_of_ok h (w := f.word 0x69) rfl rfl (by simp [ho, hi]) ?_
  simp only [if_neg (Nat.not_le.mpr hc), hst, hport, if_pos hother]
  rfl

theorem does_sconsume (hmine : st / 4 = c.val) (hport : s.streamPort st = r.port) (hgens : (s.strm st).gens = [g]) (hg : g.started = true)
    (hn : ((s.core c.val).sreg f.b.toNat).toNat = n) : Does s (.sconsume c f)
    (.next (((if g.delivered < g.consumed + n then
        (s.onCore c.val Core.next).report (lgCluster (c.val / 16)) [r.port] eStream c.val st strOver
      else s.onCore c.val Core.next).setStrm st
        { s.strm st with gens := [{ g with consumed := min (g.consumed + n) g.delivered }] }).dropGens st)) := by
  have hport' : (s.adv c.val).streamPort st = r.port := hport
  have hstrm : (s.adv c.val).strm st = s.strm st := rfl
  have hcur : (s.strm st).current = some g := by rw [Stream.current, hgens, List.find?_singleton, if_pos hg]
  have hlog : ((s.adv c.val).report (lgCluster (c.val / 16)) [r.port] eStream c.val st strOver).strm st = s.strm st :=
    HostSide.strm (HostSide.report ..) st
  refine does_of_ok h (w := f.word 0x69) rfl rfl (by simp [ho, hi]) ?_
  simp only [if_neg (Nat.not_le.mpr hc), hst, hn, hport', hstrm, hcur, State.modStrm, hmine, ne_eq, not_true_eq_false, or_self, if_false]
  by_cases hover : g.delivered < g.consumed + n
  · simp only [decide_eq_true hover, if_pos hover, if_true, hlog, hgens, consumeGen_started hg]
    rfl
  · simp only [decide_eq_false hover, if_neg hover, Bool.false_eq_true, if_false, hstrm, hgens, consumeGen_started hg]
    rfl

end sconsume

/-! ### Requests -/

theorem eligible_parts {want held : Nat} (h : s.eligible n = some (want, held, g)) :
    (s.strm n).requester = some g ∧ want ≤ 8 ∧ held + want ≤ 2 ^ g.bufLog := by
  unfold State.eligible at h
  split at h
  · cases h
  · next g' hreq =>
    split at h
    · extract_lets want' held' at h
      split at h
      · cases h
      · next hfree =>
        rw [Option.some.injEq, Prod.mk.injEq, Prod.mk.injEq] at h
        obtain ⟨rfl, rfl, rfl⟩ := h
        rw [Bool.or_eq_true, decide_eq_true_eq, not_or] at hfree
        exact ⟨hreq, Nat.min_le_left _ _, Nat.not_lt.mp hfree.2⟩
    · cases h

/-- The one generation of a stream that requests is one that delivers. -/
theorem delivering_of_requester {t : Stream} {x : Gen} (hg : t.gens = [x]) (h : t.requester = some g) : g = x ∧ x.delivering = true := by
  have hmem := List.mem_of_getLast? h
  rw [List.mem_filter, hg, List.mem_singleton] at hmem
  exact ⟨hmem.1, hmem.1 ▸ hmem.2⟩

/-- The update of the one generation of a stream. -/
theorem modGen_single (hgens : (s.strm n).gens = [g]) (hd : g.delivering = true) (f : Gen → Gen) :
    s.modGen n g.src f = s.setStrm n { s.strm n with gens := [f g] } := by
  simp only [State.modGen, State.modStrm, hgens, updWhere, List.map_singleton, hd, beq_self_eq_true, Bool.and_self, if_true]

/-- A stream of device memory asks for no more Crumbs than eight, and than its buffer has room for. -/
theorem requestCrumbs_of_eligible {want held run src n1 s1 n2 s2 n3 s3 : Nat} (hgens : (s.strm n).gens = [g])
    (he : s.eligible n = some (want, held, g)) (hent : s.entryOf (s.streamPort n) g = .transfer false run src n1 s1 n2 s2 n3 s3) :
    want ≤ 8 ∧ held + want ≤ 2 ^ g.bufLog ∧ s.requestCrumbs n = s.setStrm n { s.strm n with gens :=
      [{ g with requested := g.requested + want, within := g.within + want,
                asked := g.asked ++ (List.range want).map fun j =>
                  (g.requested + j, false, transferAddr run src n1 s1 n2 s2 s3 (g.within + j)) }] } := by
  obtain ⟨hreq, hle, hroom⟩ := eligible_parts he
  refine ⟨hle, hroom, ?_⟩
  simp only [State.requestCrumbs, he, hent, Bool.false_eq_true, if_false]
  exact modGen_single hgens (delivering_of_requester hgens hreq).2 _

section grant
variable {cl : Fin 8} (h : s.streamsUp cl.val = true)
include h

theorem exec_streamGrant (hn : ((rangeFrom (64 * cl.val) 64).foldl State.seek s).grantee cl.val = some n) : exec (.streamGrant cl) s =
    .next (((((rangeFrom (64 * cl.val) 64).foldl State.seek s).takeTurn cl.val n).requestCrumbs n).seek n) := by
  show Host.Outcome.next (streamGrant cl s) = _
  simp only [streamGrant, h, hn, Bool.not_true, Bool.false_eq_true, if_false]

theorem exec_streamGrant_none (hn : ((rangeFrom (64 * cl.val) 64).foldl State.seek s).grantee cl.val = none) : exec (.streamGrant cl) s =
    .next ((rangeFrom (64 * cl.val) 64).foldl State.seek s) := by
  show Host.Outcome.next (streamGrant cl s) = _
  simp only [streamGrant, h, hn, Bool.not_true, Bool.false_eq_true, if_false]

end grant

/-! ### Crumbs that arrive -/

section delivered
variable {x : StreamIx} {i a : Nat} {host : Bytes} (h : s.streamsUp (x.val / 64) = true)
include h

theorem exec_streamCrumbDelivered_device {k : Kind} {u o : Nat} (ha : (s.strm x.val).asker i = some (g, false, a))
    (hk : s.kindOf a 32 = some (k, u, o)) : exec (.streamCrumbDelivered x i host) s =
      .next ((s.memRead (streamExpress x.val) k a 32).2.deliver x.val g.src i (s.dread a 32).1 (s.dread a 32).2) := by
  show Host.Outcome.next (streamCrumbDelivered x i host s) = _
  simp only [streamCrumbDelivered, h, ha, hk, Bool.not_true, Bool.false_eq_true, if_false]
  rfl

theorem exec_streamCrumbDelivered_host {acc : HostAcc} (ha : (s.strm x.val).asker i = some (g, true, a))
    (hacc : s.accs.find? (fun y => y.why == .stream x.val g.src i && y.st == .sent) = some acc) : exec (.streamCrumbDelivered x i host) s =
      .next (({ s with accs := s.accs.filter fun y => !(y.id == acc.id) }.settleInvals).deliver x.val g.src i (slice host 0 32) false) := by
  show Host.Outcome.next (streamCrumbDelivered x i host s) = _
  simp only [streamCrumbDelivered, h, ha, hacc, Bool.not_true, Bool.false_eq_true, if_false, if_true, State.dropAcc, State.dropAccs]

theorem exec_streamCrumbDelivered_none (ha : (s.strm x.val).asker i = none) : exec (.streamCrumbDelivered x i host) s = .next s := by
  show Host.Outcome.next (streamCrumbDelivered x i host s) = _
  simp only [streamCrumbDelivered, h, ha, Bool.not_true, Bool.false_eq_true, if_false]

end delivered

/-- The unbroken front part covers what lies before its end. -/
theorem mem_of_lt_prefixLen {l : List Nat} : ∀ (k d : Nat), d ≤ prefixLen k l d ∧ ∀ j, d ≤ j → j < prefixLen k l d → j ∈ l
  | 0, d => ⟨Nat.le_refl d, fun j hj hlt => absurd hlt (Nat.not_lt.mpr hj)⟩
  | k + 1, d => by
    rw [prefixLen]
    split
    · next hmem =>
      obtain ⟨hle, hall⟩ := mem_of_lt_prefixLen (l := l) k (d + 1)
      refine ⟨by omega, fun j hj hlt => ?_⟩
      obtain rfl | hne := Nat.eq_or_lt_of_le hj
      · exact List.contains_iff_mem.mp hmem
      · exact hall j hne hlt
    · exact ⟨Nat.le_refl d, fun j hj hlt => absurd hlt (Nat.not_lt.mpr hj)⟩

/-- A front part that does not end at a number that has not arrived is as long as its limit. -/
theorem prefixLen_eq_add {l : List Nat} : ∀ (k d : Nat), prefixLen k l d ∈ l → prefixLen k l d = d + k
  | 0, d, _ => rfl
  | k + 1, d, h => by
    rw [prefixLen] at h ⊢
    split at h
    · next hmem => rw [if_pos hmem, prefixLen_eq_add k (d + 1) h, Nat.add_assoc, Nat.add_comm 1 k]
    · next hmem => exact absurd (List.contains_iff_mem.mpr h) hmem

/-- The unbroken front part ends at a number that has not arrived. -/
theorem prefixLen_notMem (l : List Nat) (d : Nat) : prefixLen l.length l d ∉ l := by
  intro hmem
  have heq := prefixLen_eq_add l.length d hmem
  have hsub : (List.range' d (l.length + 1)) ⊆ l := fun j hj => by
    rw [List.mem_range'_1] at hj
    obtain hlt | hge := Nat.lt_or_ge j (prefixLen l.length l d)
    · exact (mem_of_lt_prefixLen l.length d).2 j hj.1 hlt
    · rw [show j = prefixLen l.length l d by omega]
      exact hmem
  have := (List.nodup_range' (s := d) (n := l.length + 1)).subperm hsub |>.length_le
  rw [List.length_range'] at this
  omega

/-- The one generation of a stream that delivers. -/
theorem genOf_single (hgens : (s.strm st).gens = [g]) (hd : g.delivering = true) : (s.strm st).genOf g.src = some g := by
  simp only [Stream.genOf, hgens, List.find?_singleton, hd, beq_self_eq_true, Bool.and_self, if_true]

/-- A generation at the end of its list that still waits for Crumbs reads no further. -/
theorem seekFrom_of_stop {x : ArmSrc} {k : Nat} (hg : (s.strm st).genOf x = some g) (hent : s.entryOf (s.streamPort st) g = .stop)
    (hne : g.delivered ≠ g.requested) : s.seekFrom st x (k + 1) = s := by
  rw [State.seekFrom]
  simp only [hg, hent, if_neg hne]

theorem seek_of_stop (hgens : (s.strm st).gens = [g]) (hd : g.delivering = true) (hent : s.entryOf (s.streamPort st) g = .stop)
    (hne : g.delivered ≠ g.requested) : s.seek st = s := by
  have hfuel : seekFuel = 65535 + 1 := rfl
  rw [State.seek, hgens, List.filter_cons_of_pos hd, List.filter_nil, List.foldl_cons, List.foldl_nil, hfuel]
  exact seekFrom_of_stop (genOf_single hgens hd) hent hne

/-- A generation after Crumb i has arrived, with the unbroken front part then `dl` long. -/
def Gen.arrive (g : Gen) (i dl : Nat) : Gen :=
  { g with asked := g.asked.filter (fun a => a.1 != i), arrived := (i :: g.arrived).filter (fun x => decide (dl ≤ x)), delivered := dl }

/-- The entry that a generation has come to does not depend on the cores and the streams. -/
theorem entryOf_with {i dl : Nat} (h : s.entryOf (s.streamPort st) g = .stop) (x : Tab Core) (y : Tab Stream) :
    State.entryOf { s with cores := x, streams := y } (State.streamPort { s with cores := x, streams := y } st) (g.arrive i dl) = .stop := h

/-- A Crumb that arrives for the one generation of a stream, which has requested more, is written to its ring of buffers and
lengthens the unbroken front part. -/
theorem deliver_eq {i dl : Nat} {d : Bytes} (hgens : (s.strm st).gens = [g]) (hd : g.delivering = true)
    (hent : s.entryOf (s.streamPort st) g = .stop) (hdl : prefixLen (i :: g.arrived).length (i :: g.arrived) g.delivered = dl)
    (hne : dl ≠ g.requested) : s.deliver st g.src i d false =
      (s.modCore (streamCore st) fun k => k.poisonPut (g.buf + 32 * (i % 2 ^ g.bufLog)) d false).setStrm st { s.strm st with gens := [g.arrive i dl] } := by
  simp only [State.deliver, genOf_single hgens hd, hdl]
  have hmod := modGen_single (s := s.modCore (streamCore st) fun k => k.poisonPut (g.buf + 32 * (i % 2 ^ g.bufLog)) d false) hgens hd
    fun y => { y with asked := y.asked.filter (fun a => a.1 != i), arrived := (i :: g.arrived).filter (fun x => decide (dl ≤ x)), delivered := dl }
  refine (congrArg (State.seek · st) hmod).trans (seek_of_stop (g := g.arrive i dl) ?_ hd (entryOf_with hent _ _) hne)
  exact congrArg Stream.gens (State.strm_setStrm ..)

theorem deliver_single {i : Nat} {d : Bytes} (hgens : (s.strm st).gens = [g]) (hd : g.delivering = true) (hlen : d.length = 32)
    (hent : s.entryOf (s.streamPort st) g = .stop) (hmore : ∃ k, g.delivered ≤ k ∧ k < g.requested ∧ k ∉ i :: g.arrived) :
    ((s.deliver st g.src i d false).core (streamCore st)).ls.readBytes (g.buf + 32 * (i % 2 ^ g.bufLog)) 32 = d ∧
      ∃ dl, g.delivered ≤ dl ∧ (∀ k, g.delivered ≤ k → k < dl → k ∈ i :: g.arrived) ∧ dl ∉ i :: g.arrived ∧
        ((s.deliver st g.src i d false).strm st).gens = [g.arrive i dl] := by
  obtain ⟨hle, hall⟩ := mem_of_lt_prefixLen (l := i :: g.arrived) (i :: g.arrived).length g.delivered
  have hend := prefixLen_notMem (i :: g.arrived) g.delivered
  generalize hdl : prefixLen (i :: g.arrived).length (i :: g.arrived) g.delivered = dl at hle hall hend
  have hne : dl ≠ g.requested := by
    obtain ⟨k, hk, hlt, hnot⟩ := hmore
    intro heq
    exact hnot (hall k hk (by omega))
  rw [deliver_eq hgens hd hent hdl hne]
  refine ⟨?_, dl, hle, hall, hend, by rw [State.strm_setStrm]⟩
  have := Memory.readBytes_writeBytes_in d (s.core (streamCore st)).ls (g.buf + 32 * (i % 2 ^ g.bufLog)) 32 0 (by omega)
  rw [Nat.add_zero, List.drop_zero, List.take_of_length_le (by omega)] at this
  have hcore (x : Stream) : ((s.modCore (streamCore st) fun k => k.poisonPut (g.buf + 32 * (i % 2 ^ g.bufLog)) d false).setStrm st x).core
      (streamCore st) = (s.core (streamCore st)).poisonPut (g.buf + 32 * (i % 2 ^ g.bufLog)) d false :=
    s.core_modCore (streamCore st) fun k => k.poisonPut (g.buf + 32 * (i % 2 ^ g.bufLog)) d false
  rw [hcore, poisonPut_ls, this]

/-! ### Generations that start -/

section start
variable {x : StreamIx} {q : Gen} (h : s.streamsUp (x.val / 64) = true) (hq : q.started = false)
  (hw : ((s.seek x.val).strm x.val).waiting = [])
include h hq hw

theorem exec_generationStart_alone (hg : ((s.seek x.val).strm x.val).gens = [q]) : exec (.generationStart x) s =
    .next (((s.seek x.val).readEntry x.val q).setStrm x.val { (s.seek x.val).strm x.val with gens := [{ q with started := true }] }) := by
  have hqueued : ((s.seek x.val).strm x.val).queued = some q := by
    simp only [Stream.queued, hg, List.find?_singleton, hq, Bool.not_false, if_true]
  show Host.Outcome.next (generationStart x s) = _
  simp only [generationStart, h, hqueued, hg, hw, hq, Bool.not_true, Bool.false_eq_true, if_false, List.any_cons, List.any_nil, Bool.false_and,
    Bool.or_self, List.map_singleton]

section beside
variable (hg : ((s.seek x.val).strm x.val).gens = [g, q]) (hstart : g.started = true) (hend : g.ended = none)
include hg hstart hend

theorem exec_generationStart_beside
    (hent : (s.seek x.val).entryOf ((s.seek x.val).streamPort x.val) g = .stop)
    (hapart : meets (g.buf, 32 * 2 ^ g.bufLog) q.buf (32 * 2 ^ q.bufLog) = false ∨ g.requested ≤ g.consumed) : exec (.generationStart x) s =
    .next (((s.seek x.val).readEntry x.val q).setStrm x.val { (s.seek x.val).strm x.val with gens := [g, { q with started := true }] }) := by
  have hqueued : ((s.seek x.val).strm x.val).queued = some q := by
    simp only [Stream.queued, hg, List.find?_cons, hstart, hq, Bool.not_true, Bool.not_false]
  have hgo : (meets (g.buf, 32 * 2 ^ g.bufLog) q.buf (32 * 2 ^ q.bufLog) && decide (g.consumed < g.requested)) = false := by
    obtain hm | hc := hapart
    · rw [hm, Bool.false_and]
    · rw [decide_eq_false (Nat.not_lt.mpr hc), Bool.and_false]
  show Host.Outcome.next (generationStart x s) = _
  simp only [generationStart, h, hqueued, hg, hw, hq, hstart, hend, hent, hgo, Bool.not_true, Bool.false_eq_true, if_false, if_true, List.any_cons,
    List.any_nil, Bool.false_and, Bool.or_self, List.map_cons, List.map_nil, Option.isNone_none, bne_self_eq_false, Bool.and_false,
    Option.getD_none, beq_self_eq_true, Bool.and_true]

omit hw in
theorem exec_generationStart_blocked
    (hnot : (s.seek x.val).entryOf ((s.seek x.val).streamPort x.val) g ≠ .stop ∨
      ¬ (meets (g.buf, 32 * 2 ^ g.bufLog) q.buf (32 * 2 ^ q.bufLog) = false ∨ g.requested ≤ g.consumed)) :
    exec (.generationStart x) s = .next (s.seek x.val) := by
  have hqueued : ((s.seek x.val).strm x.val).queued = some q := by
    simp only [Stream.queued, hg, List.find?_cons, hstart, hq, Bool.not_true, Bool.not_false]
  have hblock : (((s.seek x.val).entryOf ((s.seek x.val).streamPort x.val) g != .stop) ||
      (meets (g.buf, 32 * 2 ^ g.bufLog) q.buf (32 * 2 ^ q.bufLog) && decide (g.consumed < g.requested))) = true := by
    obtain hent | hover := hnot
    · rw [bne_iff_ne.mpr hent, Bool.true_or]
    · rw [not_or, Bool.not_eq_false, Nat.not_le] at hover
      rw [hover.1, decide_eq_true hover.2, Bool.true_and, Bool.or_true]
  show Host.Outcome.next (generationStart x s) = _
  simp only [generationStart, h, hqueued, hg, hq, hstart, hend, hblock, Bool.not_true, Bool.false_eq_true, if_false, if_true, List.any_cons,
    Option.isNone_none, Option.getD_none, beq_self_eq_true, Bool.and_true, Bool.true_and, Bool.true_or]

end beside
end start

/-- Settles O29: consumption stops at what was delivered, the stream unit asks for what its buffer has room for, a Crumb lengthens
the unbroken front part, and a generation starts beside one that has asked for its last Crumb. -/
theorem streamCommands : Obligations.StreamCommands := by
  unfold Obligations.StreamCommands
  refine ⟨fun c f s r h ho hi hc => ?_, fun cl s n h => ⟨exec_streamGrant h, exec_streamGrant_none h⟩,
    fun s n want held g run src n1 s1 n2 s2 n3 s3 hg he hent => requestCrumbs_of_eligible hg he hent,
    fun st i host s h => ⟨fun g a k u o ha hk => exec_streamCrumbDelivered_device h ha hk,
      fun g a acc ha hacc => exec_streamCrumbDelivered_host h ha hacc, exec_streamCrumbDelivered_none h⟩,
    fun s st i d g hg hd hlen hent hmore => deliver_single hg hd hlen hent hmore,
    fun s => ⟨fun cl h => congrArg Host.Outcome.next (if_pos (by simp [h])),
      fun st h => ⟨congrArg Host.Outcome.next (if_pos (by simp [h])), fun i host => congrArg Host.Outcome.next (if_pos (by simp [h]))⟩⟩,
    fun st s q h => ?_⟩
  · intro st n u other
    exact ⟨fun hm hp g hg hs => does_sconsume h ho hi hc rfl hm hp hg hs rfl, fun ho' => does_sconsume_other h ho hi hc rfl ho'⟩
  · intro s0 hq hw
    exact ⟨exec_generationStart_alone h hq hw, fun g hg hs he => ⟨exec_generationStart_beside h hq hw hg hs he,
      exec_generationStart_blocked h hq hg hs he⟩⟩

end Sys2Proof.Machine
end


section
/-! PROOFS. What follows from ended items, instances and descriptors: which parts of the state it leaves as they were. -/

namespace Sys2Proof.Machine

variable {s t u : State}

/-- Only the items, their sync objects, the rings and what is on its way to the hosts have changed, and of the cores neither the local
stores nor the requests. -/
structure WorkSide (s t : State) : Prop where
  rest : t = { s with
    out := t.out, accs := t.accs, nextAcc := t.nextAcc, rings := t.rings, released := t.released, ports := t.ports, logs := t.logs,
    syncs := t.syncs, services := t.services, insts := t.insts, readyQ := t.readyQ, flows := t.flows, flowLast := t.flowLast,
    streams := t.streams, cores := t.cores }
  lsu : ∀ c, (t.core c).lsu = (s.core c).lsu
  ls : ∀ c, (t.core c).ls = (s.core c).ls

namespace WorkSide

theorem refl (s : State) : WorkSide s s := ⟨rfl, fun _ => rfl, fun _ => rfl⟩

theorem trans (h : WorkSide s t) (g : WorkSide t u) : WorkSide s u := by
  refine ⟨?_, fun c => (g.lsu c).trans (h.lsu c), fun c => (g.ls c).trans (h.ls c)⟩
  rw [g.rest, h.rest]

theorem foldl {α : Type} {l : List α} {f : State → α → State} (hf : ∀ s a, WorkSide s (f s a)) (s : State) : WorkSide s (l.foldl f s) :=
  List.foldlRecOn (motive := WorkSide s) _ _ (refl s) fun _ ht a _ => ht.trans (hf _ a)

theorem of_hostSide (h : HostSide s t) : WorkSide s t := by
  refine ⟨?_, fun c => by rw [h.core], fun c => by rw [h.core]⟩
  rw [h.rest]

/-- A change of items, sync objects and rings. -/
theorem of_work {rings : Tab Ring} {released : List (Nat × Bool × Option (Nat × Nat))} {syncs : Tab SyncObj} {services : Tab (Option Service)}
    {insts : List Inst} {readyQ : List ItemId} {flows : List (Nat × Nat)} {flowLast : Tab Nat} {streams : Tab Stream} :
    WorkSide s { s with
      rings := rings, released := released, syncs := syncs, services := services, insts := insts, readyQ := readyQ, flows := flows,
      flowLast := flowLast, streams := streams } := ⟨rfl, fun _ => rfl, fun _ => rfl⟩

/-- A change of a core that keeps its local store and its requests. -/
theorem setCore (s : State) (c : Nat) {k : Core} (hlsu : k.lsu = (s.core c).lsu) (hls : k.ls = (s.core c).ls) : WorkSide s (s.setCore c k) := by
  refine ⟨rfl, fun d => ?_, fun d => ?_⟩
  · by_cases h : d = c
    · subst h
      rw [State.core_setCore, hlsu]
    · rw [State.core_setCore_ne _ _ _ h]
  · by_cases h : d = c
    · subst h
      rw [State.core_setCore, hls]
    · rw [State.core_setCore_ne _ _ _ h]

/-! ### Records and completions -/

theorem modRing (s : State) (r : Nat) (f : Ring → Ring) : WorkSide s (s.modRing r f) := of_work

theorem hostPost (s : State) (p fn : Nat) (pasid : Option (BitVec 20)) (addr : Nat) (data : Bytes) :
    WorkSide s (s.hostPost p fn pasid addr data) := of_hostSide (HostSide.hostStart ..)

theorem postCounters (s : State) (r : Nat) : WorkSide s (s.postCounters r) := of_hostSide (hostSide_postCounters s r)

theorem freeSlot (s : State) (p : Nat) (x : Option (Nat × Nat)) : WorkSide s (s.freeSlot p x) := by
  unfold State.freeSlot
  split
  · split
    · exact of_work
    · exact refl s
  · exact refl s

theorem ringPend (s : State) (r : Nat) (now : Bool) : WorkSide s (s.ringPend r now) := by
  unfold State.ringPend
  extract_lets s' g
  have hs : WorkSide s s' := of_work
  split
  · exact (hs.trans (modRing s' r _)).trans (of_hostSide (HostSide.msixSend ..))
  · exact hs

theorem ringDrained (s : State) (r : Nat) : WorkSide s (s.ringDrained r) := by
  unfold State.ringDrained
  extract_lets g
  split
  · exact (postCounters s r).trans (modRing _ _ _)
  · exact refl s

theorem tellReleased (s : State) : WorkSide s s.tellReleased := by
  have hclear : WorkSide s { s with released := [] } := of_work
  exact hclear.trans (foldl (fun s x => ((freeSlot s _ _).trans (ringPend _ _ _)).trans (ringDrained _ _)) _)

theorem complete (s : State) (r pos : Nat) (d : Done) : WorkSide s (s.complete r pos d) := by
  unfold State.complete
  extract_lets g p s1 s2 s3
  split
  · exact freeSlot ..
  · have h1 : WorkSide s s1 := modRing s r _
    split
    · exact h1.trans (freeSlot ..)
    · extract_lets s4
      have h2 : WorkSide s s2 := by
        unfold s2
        split
        · exact h1.trans (postCounters ..)
        · exact h1
      have h3 : WorkSide s s3 := by
        unfold s3
        split
        · exact h2.trans (hostPost ..)
        · exact h2
      have h4 : WorkSide s s4 := h3.trans (of_hostSide (HostSide.hostStart ..))
      exact (h4.trans (modRing ..)).trans (tellReleased _)

/-! ### Items and instances -/

theorem modInst (s : State) (n : Nat) (f : Inst → Inst) : WorkSide s (s.modInst n f) := of_work

theorem modItem (s : State) (id : ItemId) (f : Item → Item) : WorkSide s (s.modItem id f) := of_work

theorem decrement (s : State) (o n : Nat) (ab : Bool) : WorkSide s (s.decrement o n ab) := by
  unfold State.decrement
  extract_lets x s'
  have hs : WorkSide s s' := of_work
  split
  · exact hs.trans (of_hostSide (HostSide.report ..))
  · exact hs

theorem itemDecrement (s : State) (id : ItemId) (o n : Nat) (ab : Bool) : WorkSide s (s.itemDecrement id o n ab) := by
  unfold State.itemDecrement
  split
  · split
    · exact modItem ..
    · exact decrement ..
  · exact decrement ..

theorem endItem (s : State) (id : ItemId) (status prog : Nat) : WorkSide s (s.endItem id status prog) := by
  unfold State.endItem
  split
  · extract_lets s1 s2
    have hs : WorkSide s s2 := of_work
    split
    · exact hs.trans (itemDecrement ..)
    · exact hs
  · exact refl s

theorem closeGroup (s : State) (n g : Nat) : WorkSide s (s.closeGroup n g) := by
  unfold State.closeGroup
  split
  · exact refl s
  · exact (modInst s n _).trans (foldl (fun s d => decrement s _ _ _) _)

theorem finishInst (s : State) (i : Inst) : WorkSide s (s.finishInst i) := by
  unfold State.finishInst
  extract_lets d s1 s2
  have h1 : WorkSide s s1 := of_work
  have h2 : WorkSide s s2 := by
    unfold s2
    split
    · exact h1.trans (modRing ..)
    · exact h1
  exact h2.trans (complete ..)

theorem settleOne (h : s.settleOne = some t) : WorkSide s t := by
  unfold State.settleOne at h
  split at h
  · split at h
    · split at h
      · cases h
        exact endItem ..
      · cases h
        exact of_work
    · cases h
  · split at h
    · cases h
      exact closeGroup ..
    · obtain ⟨i, -, hi⟩ := Option.map_eq_some_iff.mp h
      rw [← hi]
      exact finishInst s i

theorem settleLoop (n : Nat) (s : State) : WorkSide s (s.settleLoop n) := by
  induction n generalizing s with
  | zero => exact refl s
  | succ n ih =>
    rw [State.settleLoop]
    split
    · next s' hs => exact (settleOne hs).trans (ih s')
    · exact refl s

theorem settle (s : State) : WorkSide s s.settle := settleLoop ..

/-! ### Runs that end -/

theorem dropGens (s : State) (n : Nat) : WorkSide s (s.dropGens n) := of_work

theorem restore (s : State) (c : Nat) : WorkSide s (s.restore c) := by
  unfold State.restore
  extract_lets k
  split
  · split
    · exact setCore s c rfl rfl
    · exact refl s
  · exact refl s

theorem endRerunFlow (s : State) (flow : Option (Nat × Nat)) : WorkSide s (s.endRerunFlow flow) := by
  unfold State.endRerunFlow
  split
  · exact of_work
  · exact refl s

theorem finishOne (s : State) (c prog : Nat) : WorkSide s (s.finishOne c prog) := by
  unfold State.finishOne
  split
  · exact refl s
  · extract_lets orphaned flow s1 s2 s3 pin again s4 s5
    clear_value flow
    have h1 : WorkSide s s1 := setCore s c rfl rfl
    have h2 : WorkSide s s2 := by
      unfold s2
      split
      · exact h1.trans of_work
      · exact h1
    have h3 : WorkSide s s3 := h2.trans (modItem ..)
    have h4 : WorkSide s s4 := by
      unfold s4
      split
      · split
        · exact h3.trans of_work
        · exact h3.trans (endItem ..)
      · split
        · exact (h3.trans (modItem s3 _ _)).trans (endRerunFlow _ flow)
        · exact h3.trans (endItem ..)
    have h5 : WorkSide s s5 := h4.trans (foldl (fun s n => dropGens s n) s4)
    exact (h5.trans (settle s5)).trans (restore _ c)

theorem finishRun (s : State) (c prog : Nat) : WorkSide s (s.finishRun c prog) := by
  unfold State.finishRun
  extract_lets s1
  have h1 : WorkSide s s1 := finishOne ..
  split
  · exact h1.trans (finishOne ..)
  · exact h1

theorem tryEnd (s : State) (c : Nat) : WorkSide s (s.tryEnd c) := by
  unfold State.tryEnd
  split
  · exact finishRun ..
  · exact refl s

theorem reqOf (h : WorkSide s t) (c id : Nat) : t.reqOf c id = s.reqOf c id := by rw [State.reqOf, State.reqOf, h.lsu]

end WorkSide

/-! ### Requests that end -/

/-- A request that has its response word is over, whatever follows from the end of its item. -/
theorem reqOf_respond (s : State) (c : Nat) (q : LsuReq) (status count : Nat) : (s.respond c q status count).reqOf c q.id = none := by
  unfold State.respond
  rw [(WorkSide.tryEnd _ c).reqOf, State.reqOf, State.core_modCore, List.find?_eq_none]
  intro x hx
  obtain ⟨p, a, b, h⟩ := engPut_eq { s.core c with lsu := (s.core c).lsu.filter fun x => x.id != q.id } q.resp (natLe 8 (respWord status count))
  rw [Core.modRunOf, h] at hx
  simpa using (List.mem_filter.mp hx).2

end Sys2Proof.Machine
end


section
/-! PROOFS. Requests to the Sifters and the neighbourhood units that are taken up or refused. -/

namespace Sys2Proof.Machine

variable {s : State} {c : CoreIx} {req : Nat} {q : LsuReq}

/-! ### The end of a request of this device -/

theorem reqOf_modReq (s : State) (c id : Nat) {f : LsuReq → LsuReq} (hf : ∀ q, (f q).id = q.id) :
    (s.modReq c id f).reqOf c id = (s.reqOf c id).map f := by
  rw [State.reqOf, State.modReq, State.core_modCore, updWhere, List.find?_map, State.reqOf]
  have hid : (fun q : LsuReq => q.id == id) ∘ (fun x => if x.id == id then f x else x) = fun q => q.id == id := by
    funext x
    simp only [Function.comp]
    split
    · rw [hf]
    · rfl
  rw [hid]
  cases hx : (s.core c).lsu.find? fun q => q.id == id with
  | none => rfl
  | some x =>
    have hxid : (x.id == id) = true := by simpa using List.find?_some hx
    simp only [Option.map_some, hxid, if_true]

theorem id_of_reqOf {c id : Nat} (h : s.reqOf c id = some q) : q.id = id := by
  rw [State.reqOf] at h
  simpa using List.find?_some h

/-- A request that has ended with a status has nothing of its work left that an error could end again. -/
theorem err_endReq (hc : c.val < 128) (hq : s.reqOf c.val req = some q) (hp : q.prog = {}) (st n : Nat) :
    ∀ p, (s.endReq c.val q st n).progOf (c.val, req) = some p → p.err = 0 := by
  intro p h
  rw [State.progOf, if_pos hc] at h
  have hid := id_of_reqOf hq
  have hmod : ((s.dequeue (c.val, q.id)).modReq c.val q.id fun q => { q with served := true, status := st, count := n }).reqOf c.val q.id =
      some { q with served := true, status := st, count := n } := by
    rw [reqOf_modReq _ _ _ (by exact fun _ => rfl)]
    have hq' : s.reqOf c.val q.id = some q := by
      rw [hid]
      exact hq
    exact congrArg (Option.map _) hq'
  rw [State.endReq, State.settleReq, hmod] at h
  dsimp only at h
  split at h
  · rw [← hid, hmod] at h
    simp only [Option.map_some, Option.some.injEq, hp] at h
    rw [← h]
  · have hnone := reqOf_respond ((s.dequeue (c.val, q.id)).modReq c.val q.id fun q => { q with served := true, status := st, count := n }) c.val
      { q with served := true, status := st, count := n } st n
    rw [← hid, hnone] at h
    cases h

/-- Work that leaves no error behind has run once. -/
theorem runEnds_of_err {who : Nat × Nat} {run : State → State} {t : State} (ht : run s = t) (h : ∀ p, t.progOf who = some p → p.err = 0) :
    s.runEnds who run = t := by
  subst ht
  rw [State.runEnds]
  split
  · next p hp => rw [if_pos (h p hp)]
  · rfl

/-- A request that ends as soon as it is taken up. -/
theorem runEnds_endReq (hc : c.val < 128) (hq : s.reqOf c.val req = some q) (hp : q.prog = {}) {run : State → State} {st n : Nat}
    (hrun : run s = s.endReq c.val q st n) : s.runEnds (c.val, req) run = s.endReq c.val q st n :=
  runEnds_of_err hrun (err_endReq hc hq hp st n)

/-! ### Sifter work -/

/-- The state in which a request has joined the queue of work under service. -/
abbrev State.taken (s : State) (c req : Nat) : State := { s with queue := s.queue ++ [(c, req)] }

section sift
variable (hr : s.running = true) (hq : s.reqOf c.val req = some q) (hk : q.kind = .sift)
include hr hq hk

section fresh
variable (hs : q.served = false) (hqueue : (c.val, req) ∉ s.queue) (hwin : ∀ w ∈ s.windows, w.waitsFor c.val req = false)
include hs hqueue hwin

theorem siftOp_taken {op : Nat} (ho : fieldAt q.block 0 1 % 16 = op) :
    siftOp op c req s = (s.taken c.val req).runEnds (c.val, req) fun s => s.serveSift c.val req := by
  have hw : s.windows.any (Window.waitsFor c.val req) = false := List.any_eq_false.mpr fun w hw => by rw [hwin w hw]; exact Bool.false_ne_true
  have hqc : s.queue.contains (c.val, req) = false := by simpa using hqueue
  simp only [siftOp, hq, hr, hk, ho, hs, hw, hqc, beq_self_eq_true, Bool.not_false, Bool.and_self, if_true]

omit hr hk hs hqueue in
theorem serveSift_taken : (s.taken c.val req).serveSift c.val req =
    if fieldAt q.block 0 1 % 16 = 4 then (s.taken c.val req).runUpdate c.val q
    else if fieldAt q.block 0 1 % 16 = 5 then (s.taken c.val req).startApply c.val q
    else (s.taken c.val req).runSift c.val q := by
  have hq' : (s.taken c.val req).reqOf c.val req = some q := hq
  have hw : (s.taken c.val req).windows.any (Window.waitsFor c.val req) = false :=
    List.any_eq_false.mpr fun w hw => by rw [hwin w hw]; exact Bool.false_ne_true
  simp only [State.serveSift, hq', hw, Bool.false_eq_true, if_false]

variable (hp : q.prog = {})
include hp

/-- The table of a request is gone. -/
theorem siftOp_invalid (ht : s.tableOf (SiftBlk.parse q.block).table = none) :
    siftOp (fieldAt q.block 0 1 % 16) c req s = (s.taken c.val req).endReq c.val q rsTableInvalid 0 := by
  have ht' : (s.taken c.val req).tableOf (SiftBlk.parse q.block).table = none := ht
  rw [siftOp_taken hr hq hk hs hqueue hwin rfl]
  refine runEnds_endReq c.isLt (by exact hq) hp ((serveSift_taken hq hwin).trans ?_)
  split
  · simp only [State.runUpdate, ht']
  · split
    · simp only [State.startApply, ht']
    · simp only [State.runSift, hp, ht', ne_eq, not_true_eq_false, if_false]

section window
variable {t : Table} {w : Window} {p : WinPar} (ht : s.tableOf (SiftBlk.parse q.block).table = some t) (hw : w ∈ s.windows)
  (htk : Window.takes q.port t.id q.version w = true) (hpar : w.par = some p)
include ht hw htk hpar

/-- A contribution with other parameters than the open window's is refused. -/
theorem siftOp_update_mismatch (ho : fieldAt q.block 0 1 % 16 = 4) (hne : p ≠ (SiftBlk.parse q.block).winPar) :
    siftOp 4 c req s = (s.taken c.val req).endReq c.val q rsChainMismatch 0 := by
  have ht' : (s.taken c.val req).tableOf (SiftBlk.parse q.block).table = some t := ht
  rw [siftOp_taken hr hq hk hs hqueue hwin ho]
  refine runEnds_endReq c.isLt (by exact hq) hp ((serveSift_taken hq hwin).trans ?_)
  rw [if_pos ho]
  simp only [State.runUpdate, ht']
  exact if_pos (List.any_eq_true.mpr ⟨w, hw, by simp only [htk, hpar, bne_iff_ne.mpr hne, Bool.and_self]⟩)

/-- An `APPLY` with other parameters than the open window's is refused. -/
theorem siftOp_apply_mismatch (ho : fieldAt q.block 0 1 % 16 = 5) (hne : p.agrees (SiftBlk.parse q.block) = false) :
    siftOp 5 c req s = (s.taken c.val req).endReq c.val q rsChainMismatch 0 := by
  have ht' : (s.taken c.val req).tableOf (SiftBlk.parse q.block).table = some t := ht
  rw [siftOp_taken hr hq hk hs hqueue hwin ho]
  refine runEnds_endReq c.isLt (by exact hq) hp ((serveSift_taken hq hwin).trans ?_)
  rw [if_neg (by rw [ho]; decide), if_pos ho]
  simp only [State.startApply, ht']
  exact if_pos (List.any_eq_true.mpr ⟨w, hw, by simp [htk, hpar, hne]⟩)

end window
end fresh

omit hr hk in
theorem siftOp_other {op : Nat} (ho : fieldAt q.block 0 1 % 16 ≠ op) : siftOp op c req s = s := by
  simp only [siftOp, hq, beq_false_of_ne ho, Bool.and_false, Bool.false_and, Bool.false_eq_true, if_false]

omit hr hk in
theorem siftOp_again (h : (c.val, req) ∈ s.queue ∨ q.served = true) (op : Nat) : siftOp op c req s = s := by
  simp only [siftOp, hq]
  refine if_neg ?_
  obtain h | h := h
  · simp [h]
  · simp [h]

end sift

/-! ### Work of the neighbourhood units -/

section nu
variable (hr : s.running = true) (hq : s.reqOf c.val req = some q) (hk : q.kind = .nu)
include hr hq hk

section fresh
variable (hs : q.served = false) (hqueue : (c.val, req) ∉ s.queue)
include hs hqueue

theorem nuOp_taken {op : Nat} (ho : fieldAt q.block 0 1 % 16 = op) :
    nuOp op c req s = (s.taken c.val req).runEnds (c.val, req) fun s => s.serveNu c.val req := by
  have hqc : s.queue.contains (c.val, req) = false := by simpa using hqueue
  simp only [nuOp, hq, hr, hk, ho, hs, hqc, beq_self_eq_true, Bool.not_false, Bool.and_self, if_true]

theorem nuOp_invalid (hp : q.prog = {}) (hg : s.graphOf (NuBlk.parse q.block).graph = none) :
    nuOp (fieldAt q.block 0 1 % 16) c req s = (s.taken c.val req).endReq c.val q rsGraphInvalid 0 := by
  have hq' : (s.taken c.val req).reqOf c.val req = some q := hq
  have hg' : (s.taken c.val req).graphOf (NuBlk.parse q.block).graph = none := hg
  rw [nuOp_taken hr hq hk hs hqueue rfl]
  refine runEnds_endReq c.isLt (by exact hq) hp ?_
  simp only [State.serveNu, hq', State.runNu, hp, hg', ne_eq, not_true_eq_false, if_false]

end fresh

omit hr hk in
theorem nuOp_other {op : Nat} (ho : fieldAt q.block 0 1 % 16 ≠ op) : nuOp op c req s = s := by
  simp only [nuOp, hq, beq_false_of_ne ho, Bool.and_false, Bool.false_and, Bool.false_eq_true, if_false]

omit hr hk in
theorem nuOp_again (h : (c.val, req) ∈ s.queue ∨ q.served = true) (op : Nat) : nuOp op c req s = s := by
  simp only [nuOp, hq]
  refine if_neg ?_
  obtain h | h := h
  · simp [h]
  · simp [h]

end nu

/-! ### The commands of an operation -/

/-- The command of each Sifter operation. -/
theorem exec_siftOp {i : Instr} {op : Nat} (h : op = 0 ∧ i = .gather c req ∨ op = 1 ∧ i = .sum c req ∨ op = 2 ∧ i = .wsum c req ∨
      op = 3 ∧ i = .mean c req ∨ op = 4 ∧ i = .update c req ∨ op = 5 ∧ i = .apply c req ∨ op = 6 ∧ i = .rowWrite c req ∨
      op = 7 ∧ i = .rowRead c req) (s : State) : exec i s = .next (siftOp op c req s) := by
  obtain ⟨rfl, rfl⟩ | ⟨rfl, rfl⟩ | ⟨rfl, rfl⟩ | ⟨rfl, rfl⟩ | ⟨rfl, rfl⟩ | ⟨rfl, rfl⟩ | ⟨rfl, rfl⟩ | ⟨rfl, rfl⟩ := h <;> rfl

/-- The command of each operation of the neighbourhood units. -/
theorem exec_nuOp {i : Instr} {op : Nat} (h : op = 0 ∧ i = .expand c req ∨ op = 1 ∧ i = .aggregate c req ∨ op = 2 ∧ i = .walk c req ∨
      op = 3 ∧ i = .vertexRead c req ∨ op = 4 ∧ i = .vertexWrite c req) (s : State) : exec i s = .next (nuOp op c req s) := by
  obtain ⟨rfl, rfl⟩ | ⟨rfl, rfl⟩ | ⟨rfl, rfl⟩ | ⟨rfl, rfl⟩ | ⟨rfl, rfl⟩ := h <;> rfl

/-- Settles O25: the command of a request's own operation takes it up and serves it, or ends it where its table, its graph or its
window refuses it; every other command changes nothing. -/
theorem sifterAndNuWorkStarts : Obligations.SifterAndNuWorkStarts := by
  unfold Obligations.SifterAndNuWorkStarts
  refine ⟨fun c req s q hr hq hk => ⟨fun i op hi => ?_, fun ⟨hs, hqueue, hwin⟩ hp t w p ht hw htk hpar => ?_⟩,
    fun c req s q hr hq hk i op hi => ?_⟩
  · rw [exec_siftOp hi]
    refine ⟨fun ⟨hs, hqueue, hwin⟩ ho => congrArg _ (siftOp_taken hr hq hk hs hqueue hwin ho), fun ho => congrArg _ (siftOp_other hq ho),
      fun h => congrArg _ (siftOp_again hq h op), fun ⟨hs, hqueue, hwin⟩ ho hp ht => ?_⟩
    subst ho
    exact congrArg _ (siftOp_invalid hr hq hk hs hqueue hwin hp ht)
  · exact ⟨fun ho hne => congrArg Host.Outcome.next (siftOp_update_mismatch hr hq hk hs hqueue hwin hp ht hw htk hpar ho hne),
      fun ho hne => congrArg Host.Outcome.next (siftOp_apply_mismatch hr hq hk hs hqueue hwin hp ht hw htk hpar ho hne)⟩
  · rw [exec_nuOp hi]
    refine ⟨fun ⟨hs, hqueue⟩ ho => congrArg _ (nuOp_taken hr hq hk hs hqueue ho), fun ho => congrArg _ (nuOp_other hq ho),
      fun h => congrArg _ (nuOp_again hq h op), fun ⟨hs, hqueue⟩ ho hp hg => ?_⟩
    subst ho
    exact congrArg _ (nuOp_invalid hr hq hk hs hqueue hp hg)

end Sys2Proof.Machine
end


section
/-! PROOFS. Requests to the Sifters and the neighbourhood units that complete. -/

namespace Sys2Proof.Machine

variable {s v : State} {c : CoreIx} {req : Nat} {q : LsuReq} {st n : Nat}

/-! ### The operation of a block -/

/-- The lowest four bits of a number are those of its first byte. -/
theorem fieldAt_mod_sixteen (b : Bytes) (n : Nat) : fieldAt b 0 (n + 1) % 16 = fieldAt b 0 1 % 16 := by
  have h (m : Nat) : fieldAt b 0 (m + 1) % 16 = (b.headD 0#8).toNat % 16 := by
    rw [fieldAt, slice, List.drop_zero]
    cases b with
    | nil =>
      rw [List.take_nil, List.nil_append, List.length_nil, Nat.sub_zero, List.replicate_succ, leNat, List.headD_nil]
      omega
    | cons x r =>
      rw [List.take_succ_cons, List.cons_append, leNat, List.headD_cons]
      omega
  rw [h n, ← h 0]

theorem op_siftBlk (b : Bytes) : (SiftBlk.parse b).op = fieldAt b 0 1 % 16 := fieldAt_mod_sixteen b 7

theorem op_nuBlk (b : Bytes) : (NuBlk.parse b).op = fieldAt b 0 1 % 16 := fieldAt_mod_sixteen b 7

theorem respWord_eq (st n : Nat) : respWord st n = 1 + 256 * st + 65536 * n := by
  rw [respWord]
  omega

/-! ### The end of a request that waits for nothing -/

/-- A request whose work is done, and which waits for nothing, has its response word and is over. -/
theorem endReq_leaves {c : Nat} {q' : LsuReq} (hq : v.reqOf c q.id = some q') (hasks : q'.prog.asks = []) (hresp : q'.resp = q.resp)
    (haccs : ∀ a ∈ v.accs, a.why.isReq c q.id = false) (hflash : v.flashWrites = [])
    (hrun : ∀ r n, (v.core c).run = some r → r.stall ≠ some (.ending n)) :
    (v.endReq c q st n).reqOf c q.id = none ∧ (c, q.id) ∉ (v.endReq c q st n).queue ∧
      ((v.endReq c q st n).core c).ls = (v.core c).ls.writeBytes q.resp (natLe 8 (respWord st n)) ∧ (v.endReq c q st n).dmem = v.dmem := by
  let w := (v.dequeue (c, q.id)).modReq c q.id fun q => { q with served := true, status := st, count := n }
  have hid : q'.id = q.id := id_of_reqOf hq
  have hw : w.reqOf c q.id = some { q' with served := true, status := st, count := n } := by
    rw [reqOf_modReq _ _ _ (by exact fun _ => rfl)]
    exact congrArg (Option.map _) hq
  have haccs' : w.accs.any (fun a => a.why.isReq c q'.id) = false :=
    List.any_eq_false.mpr fun a ha => by rw [hid, haccs a ha]; exact Bool.false_ne_true
  have hflash' : w.flashWrites = [] := hflash
  have hwait : w.reqWaits c { q' with served := true, status := st, count := n } = false := by
    simp only [State.reqWaits, hasks, haccs', hflash', List.any_nil, List.isEmpty_nil, Bool.not_true, Bool.or_self]
  have heq : v.endReq c q st n = w.respond c { q' with served := true, status := st, count := n } st n := by
    show w.settleReq c q.id = _
    simp only [State.settleReq, hw, hwait, Bool.false_eq_true, if_false]
  have hcore : w.core c = { v.core c with lsu := updWhere (fun x => x.id == q.id) (fun q => { q with served := true, status := st, count := n }) (v.core c).lsu } :=
    State.core_modCore ..
  obtain ⟨hreq, hkeep, hls⟩ := respond_leaves w c { q' with served := true, status := st, count := n } st n fun r m hr => by
    rw [hcore] at hr
    exact hrun r m hr
  rw [heq]
  refine ⟨hid ▸ hreq, ?_, ?_, ?_⟩
  · have hqueue : (w.respond c { q' with served := true, status := st, count := n } st n).queue = v.queue.filter (· != (c, q.id)) := by
      rw [hkeep]
      rfl
    rw [hqueue, List.mem_filter]
    simp
  · rw [hls, hcore]
    exact congrArg (fun a => (v.core c).ls.writeBytes a (natLe 8 (respWord st n))) hresp
  · rw [hkeep]
    rfl

/-- Work that is done hands its result over. -/
theorem runJob_done {α : Type} {who : Nat × Nat} {port : Nat} {item : ItemId} {body : JM α} {mk : State → List Key → List Send}
    {done : State → α → State} {a : α} {j : Job} (hp : (s.progOf who).isSome) (hr : body.run (Job.start s who port) = (some a, j)) :
    s.runJob who port item body mk done = done (j.s.modProg who fun p => { p with parts := j.parts }) a := by
  obtain ⟨pg, hpg⟩ := Option.isSome_iff_exists.mp hp
  simp only [State.runJob, hpg, hr]

/-- What the work on a request of core c leaves where it is done: nothing waits, and the item is not at its end. -/
structure WorkDone (c : Nat) (q : LsuReq) (u v : State) : Prop where
  req : ∃ parts, v.reqOf c q.id = some { q with prog := { q.prog with parts := parts } }
  accs : v.accs = []
  flash : v.flashWrites = []
  dmem : v.dmem = u.dmem
  ls : (v.core c).ls = (u.core c).ls
  run : ∀ r n, (v.core c).run = some r → r.stall ≠ some (.ending n)

section done
variable {u : State} (hc : c.val < 128) (hq : u.reqOf c.val q.id = some q) (ha : u.accs = []) (hf : u.flashWrites = [])
  (hr : ∀ r n, (u.core c.val).run = some r → r.stall ≠ some (.ending n))
include hc hq ha hf hr

theorem workDone_modProg (parts : List Part) : WorkDone c.val q u (u.modProg (c.val, q.id) fun p => { p with parts := parts }) := by
  rw [State.modProg, if_pos hc]
  have hcore : ∀ f, ((u.modReq c.val q.id f).core c.val) = { u.core c.val with lsu := updWhere (fun q' => q'.id == q.id) f (u.core c.val).lsu } :=
    fun f => State.core_modCore ..
  refine ⟨⟨parts, ?_⟩, ha, hf, rfl, by rw [hcore], fun r n h => ?_⟩
  · rw [reqOf_modReq _ _ _ (by exact fun _ => rfl), hq]
    rfl
  · rw [hcore] at h
    exact hr r n h

end done

theorem WorkDone.modItemRun {c : Nat} {u : State} (h : WorkDone c q u v) (item : ItemId) {f : Run → Run} (hf : ∀ r, (f r).stall = r.stall) :
    WorkDone c q u (v.modItemRun c item f) := by
  have hcore : (v.modItemRun c item f).core c = (v.core c).modRunOf item f := State.core_modCore ..
  refine ⟨?_, h.accs, h.flash, h.dmem, by rw [hcore]; exact h.ls, fun r n hr => ?_⟩
  · rw [State.reqOf, hcore]
    exact h.req
  · rw [hcore, Core.modRunOf] at hr
    obtain ⟨x, hx, rfl⟩ := Option.map_eq_some_iff.mp hr
    have hopen := h.run x n hx
    split
    · rw [hf]
      exact hopen
    · exact hopen

theorem WorkDone.countRing {c : Nat} {u : State} (h : WorkDone c q u v) (ring : Nat) (item : ItemId) (a b d : Nat) :
    WorkDone c q u (v.countRing ring item a b d) := by
  unfold State.countRing
  split
  · exact h
  · exact ⟨h.req, h.accs, h.flash, h.dmem, h.ls, h.run⟩

/-- A request whose work is done completes. -/
theorem WorkDone.endReq {c : Nat} {u : State} (h : WorkDone c q u v) (hp : q.prog = {}) (st n : Nat) :
    (v.endReq c q st n).reqOf c q.id = none ∧ (c, q.id) ∉ (v.endReq c q st n).queue ∧
      ((v.endReq c q st n).core c).ls = (u.core c).ls.writeBytes q.resp (natLe 8 (respWord st n)) ∧ (v.endReq c q st n).dmem = u.dmem := by
  obtain ⟨parts, hreq⟩ := h.req
  have hasks : q.prog.asks = [] := by rw [hp]
  rw [← h.ls, ← h.dmem]
  exact endReq_leaves hreq hasks rfl (by rw [h.accs]; simp) h.flash h.run

/-- Work that ends its request as soon as it is taken up runs once. -/
theorem runEnds_of_over {run : State → State} {t : State} {c : Nat} (hc : c < 128) (ht : run s = t) (h : t.reqOf c req = none) :
    s.runEnds (c, req) run = t := by
  refine runEnds_of_err ht fun p hp => ?_
  rw [State.progOf, if_pos hc, h] at hp
  cases hp

/-- A request taken up has its work under way. -/
theorem progOf_taken (hq : s.reqOf c.val q.id = some q) : ((s.taken c.val q.id).progOf (c.val, q.id)).isSome := by
  rw [State.progOf, if_pos c.isLt]
  exact congrArg (fun x => (Option.map LsuReq.prog x).isSome) hq

/-! ### Sifter requests -/

section sift
variable {t : Table} (hr : s.running = true) (hq : s.reqOf c.val req = some q) (hk : q.kind = .sift) (hs : q.served = false)
  (hqueue : (c.val, req) ∉ s.queue) (hwin : ∀ w ∈ s.windows, w.waitsFor c.val req = false) (hp : q.prog = {})
  (ht : s.tableOf (SiftBlk.parse q.block).table = some t)
include hr hq hk hs hqueue hwin hp ht

/-- A lookup whose rows are all served completes. -/
theorem siftOp_lookup_completes {n : Nat} {j : Job}
    (hj : OptionT.run (do
      match ← JM.lookup q.port (SiftBlk.parse q.block) t q.version ((s.core c.val).siftEntries (SiftBlk.parse q.block) t.len) false with
      | none => pure none
      | some v => some <$> JM.deliverLookup c.val q v [] fun g => (s.core c.val).bagLen (SiftBlk.parse q.block) g)
        (Job.start (s.taken c.val req) (c.val, req) q.port) = (some (some n), j))
    (haccs : j.s.accs = []) (hflash : j.s.flashWrites = []) (hjq : j.s.reqOf c.val req = some q)
    (hrun : ∀ r prog, (j.s.core c.val).run = some r → r.stall ≠ some (.ending prog)) (ho : (SiftBlk.parse q.block).lookup = true) :
    ∃ u, siftOp (SiftBlk.parse q.block).op c req s = u ∧ u.reqOf c.val req = none ∧ (c.val, req) ∉ u.queue ∧
      (u.core c.val).ls = (j.s.core c.val).ls.writeBytes q.resp (natLe 8 (1 + 65536 * n)) ∧ u.dmem = j.s.dmem := by
  have hid := id_of_reqOf hq
  subst hid
  have ht' : (s.taken c.val q.id).tableOf (SiftBlk.parse q.block).table = some t := ht
  have hdone := ((workDone_modProg c.isLt hjq haccs hflash hrun j.parts).modItemRun q.item
    (f := fun x => { x with lookupCount := x.lookupCount + n }) fun _ => rfl).endReq hp rsOk n
  obtain ⟨hreq, hout, hls, hdmem⟩ := hdone
  have hno : ¬ fieldAt q.block 0 1 % 16 = 4 ∧ ¬ fieldAt q.block 0 1 % 16 = 5 := by
    rw [SiftBlk.lookup, op_siftBlk, Bool.or_eq_true, decide_eq_true_eq, beq_iff_eq] at ho
    omega
  refine ⟨_, ?_, hreq, hout, ?_, hdmem⟩
  · rw [op_siftBlk, siftOp_taken hr hq hk hs hqueue hwin rfl]
    refine runEnds_of_over c.isLt ((serveSift_taken hq hwin).trans ?_) hreq
    rw [if_neg hno.1, if_neg hno.2]
    simp only [State.runSift, hp, ht', ho, ne_eq, not_true_eq_false, if_false, if_true, bind_pure_comp]
    exact runJob_done (progOf_taken hq) hj
  · rw [hls]
    have hw : respWord rsOk n = 1 + 65536 * n := respWord_eq rsOk n
    rw [hw]

/-- A write of rows whose rows are all written completes. -/
theorem siftOp_rowWrite_completes {n : Nat} {j : Job}
    (hj : (JM.rowWrites q.port (SiftBlk.parse q.block) t q.version ((s.core c.val).siftEntries (SiftBlk.parse q.block) t.len) false).run
      (Job.start (s.taken c.val req) (c.val, req) q.port) = (some n, j))
    (haccs : j.s.accs = []) (hflash : j.s.flashWrites = []) (hjq : j.s.reqOf c.val req = some q)
    (hrun : ∀ r prog, (j.s.core c.val).run = some r → r.stall ≠ some (.ending prog)) (ho : (SiftBlk.parse q.block).op = 6) :
    ∃ u, siftOp 6 c req s = u ∧ u.reqOf c.val req = none ∧ (c.val, req) ∉ u.queue ∧
      (u.core c.val).ls = (j.s.core c.val).ls.writeBytes q.resp (natLe 8 1) ∧ u.dmem = j.s.dmem := by
  have hid := id_of_reqOf hq
  subst hid
  have ht' : (s.taken c.val q.id).tableOf (SiftBlk.parse q.block).table = some t := ht
  obtain ⟨hreq, hout, hls, hdmem⟩ :=
    ((workDone_modProg c.isLt hjq haccs hflash hrun j.parts).countRing q.ring q.item n 0 0).endReq hp rsOk 0
  have ho' : fieldAt q.block 0 1 % 16 = 6 := (op_siftBlk _).symm.trans ho
  have hlook : ¬ (SiftBlk.parse q.block).lookup = true := by simp [SiftBlk.lookup, ho]
  refine ⟨_, ?_, hreq, hout, hls, hdmem⟩
  rw [siftOp_taken hr hq hk hs hqueue hwin ho']
  refine runEnds_of_over c.isLt ((serveSift_taken hq hwin).trans ?_) hreq
  rw [if_neg (by rw [ho']; decide), if_neg (by rw [ho']; decide)]
  simp only [State.runSift, hp, ht', hlook, ne_eq, not_true_eq_false, Bool.false_eq_true, if_false]
  exact runJob_done (progOf_taken hq) hj

end sift

/-! ### Requests to the neighbourhood units -/

section nu
variable {g : Graph} (hr : s.running = true) (hq : s.reqOf c.val req = some q) (hk : q.kind = .nu) (hs : q.served = false)
  (hqueue : (c.val, req) ∉ s.queue) (hp : q.prog = {}) (hg : s.graphOf (NuBlk.parse q.block).graph = some g)

include hq hp hg in
/-- The work of each operation of the neighbourhood units, once its records have all come, ends the request with its result. -/
theorem runNu_done {m : JM (Nat × Nat)} {r : Nat × Nat} {j : Job}
    (h : (NuBlk.parse q.block).op = 0 ∧ m = JM.expand c.val q g (NuBlk.parse q.block) ∨
      ((NuBlk.parse q.block).op = 1 ∧ ∃ t, s.tableOf (NuBlk.parse q.block).table = some t ∧ m = JM.aggregate c.val q g t (NuBlk.parse q.block)) ∨
      (NuBlk.parse q.block).op = 2 ∧ m = JM.walk c.val q g (NuBlk.parse q.block) ∨
      (NuBlk.parse q.block).op = 3 ∧ m = JM.vertexRead c.val q g (NuBlk.parse q.block) ∨
      (NuBlk.parse q.block).op = 4 ∧ m = JM.vertexWrite c.val q g (NuBlk.parse q.block))
    (hid : q.id = req) (hj : m.run (Job.start (s.taken c.val req) (c.val, req) q.port) = (some r, j)) :
    (s.taken c.val req).runNu c.val q = (j.s.modProg (c.val, req) fun p => { p with parts := j.parts }).endReq c.val q r.1 r.2 := by
  subst hid
  have hg' : (s.taken c.val q.id).graphOf (NuBlk.parse q.block).graph = some g := hg
  have hdone := fun mk => runJob_done (item := q.item) (mk := mk) (done := fun s r => s.endReq c.val q r.1 r.2) (progOf_taken hq) hj
  obtain ⟨ho, rfl⟩ | ⟨ho, t, ht, rfl⟩ | ⟨ho, rfl⟩ | ⟨ho, rfl⟩ | ⟨ho, rfl⟩ := h
  case inr.inl =>
    have ht' : (s.taken c.val q.id).tableOf (NuBlk.parse q.block).table = some t := ht
    simp only [State.runNu, hp, hg', ho, ht', opExpand, opAggregate, ne_eq, not_true_eq_false, if_false, if_true,
      show ¬ (1 : Nat) = 0 from by decide]
    exact hdone _
  all_goals
    simp only [State.runNu, hp, hg', ho, opExpand, opAggregate, opWalk, opVertexRead, ne_eq, not_true_eq_false, if_false, if_true,
      Nat.reduceEqDiff, OfNat.ofNat_ne_zero]
    exact hdone _

include hr hq hk hs hqueue hp in
/-- A request to the neighbourhood units whose records have all come completes. -/
theorem nuOp_completes {r : Nat × Nat} {j : Job}
    (hm : (s.taken c.val req).runNu c.val q = (j.s.modProg (c.val, req) fun p => { p with parts := j.parts }).endReq c.val q r.1 r.2)
    (haccs : j.s.accs = []) (hflash : j.s.flashWrites = []) (hjq : j.s.reqOf c.val req = some q)
    (hrun : ∀ r prog, (j.s.core c.val).run = some r → r.stall ≠ some (.ending prog)) :
    ∃ u, nuOp (NuBlk.parse q.block).op c req s = u ∧ u.reqOf c.val req = none ∧ (c.val, req) ∉ u.queue ∧
      (u.core c.val).ls = (j.s.core c.val).ls.writeBytes q.resp (natLe 8 (1 + 256 * r.1 + 65536 * r.2)) ∧ u.dmem = j.s.dmem := by
  have hid := id_of_reqOf hq
  subst hid
  have hq' : (s.taken c.val q.id).reqOf c.val q.id = some q := hq
  obtain ⟨hreq, hout, hls, hdmem⟩ := (workDone_modProg c.isLt hjq haccs hflash hrun j.parts).endReq hp r.1 r.2
  rw [respWord_eq] at hls
  refine ⟨_, ?_, hreq, hout, hls, hdmem⟩
  rw [op_nuBlk, nuOp_taken hr hq hk hs hqueue rfl]
  refine runEnds_of_over c.isLt ?_ hreq
  show (s.taken c.val q.id).serveNu c.val q.id = _
  simp only [State.serveNu, hq']
  exact hm

end nu

/-- Settles O26: work whose rows or records have all come ends its request, with the response word its result gives. -/
theorem sifterAndNuWorkCompletes : Obligations.SifterAndNuWorkCompletes := by
  unfold Obligations.SifterAndNuWorkCompletes
  refine ⟨?_, ?_, ?_⟩
  · intro c req s q t hr hq hk hs hqueue hwin hp b ht s1 look n j hj haccs hflash hjq hrun i hi
    obtain ⟨hlook, hex⟩ : b.lookup = true ∧ exec i s = .next (siftOp b.op c req s) := by
      obtain ⟨ho, rfl⟩ | ⟨ho, rfl⟩ | ⟨ho, rfl⟩ | ⟨ho, rfl⟩ | ⟨ho, rfl⟩ := hi <;>
        exact ⟨by simp [SiftBlk.lookup, ho], by rw [ho]; rfl⟩
    obtain ⟨u, hu, h⟩ := siftOp_lookup_completes hr hq hk hs hqueue hwin hp ht hj haccs hflash hjq hrun hlook
    exact ⟨u, hex.trans (congrArg Host.Outcome.next hu), h⟩
  · intro c req s q t hr hq hk hs hqueue hwin hp b ho ht s1 n j hj haccs hflash hjq hrun
    obtain ⟨u, hu, h⟩ := siftOp_rowWrite_completes hr hq hk hs hqueue hwin hp ht hj haccs hflash hjq hrun ho
    exact ⟨u, congrArg Host.Outcome.next hu, h⟩
  · intro c req s q g hr hq hk hs hqueue hp b hg s1 i m hi r j hj haccs hflash hjq hrun
    have hex : exec i s = .next (nuOp b.op c req s) := by
      refine exec_nuOp ?_ s
      obtain ⟨ho, hi, _⟩ | ⟨ho, hi, _⟩ | ⟨ho, hi, _⟩ | ⟨ho, hi, _⟩ | ⟨ho, hi, _⟩ := hi <;> simp only [ho, hi, true_and, true_or, or_true]
    have hm := runNu_done (s := s) (c := c) (req := req) hq hp hg (m := m) (h := ?_) (id_of_reqOf hq) hj
    · obtain ⟨u, hu, h⟩ := nuOp_completes hr hq hk hs hqueue hp hm haccs hflash hjq hrun
      exact ⟨u, hex.trans (congrArg Host.Outcome.next hu), h⟩
    · obtain ⟨ho, _, hm⟩ | ⟨ho, _, hm⟩ | ⟨ho, _, hm⟩ | ⟨ho, _, hm⟩ | ⟨ho, _, hm⟩ := hi
      · exact .inl ⟨ho, hm⟩
      · exact .inr (.inl ⟨ho, hm⟩)
      · exact .inr (.inr (.inl ⟨ho, hm⟩))
      · exact .inr (.inr (.inr (.inl ⟨ho, hm⟩)))
      · exact .inr (.inr (.inr (.inr ⟨ho, hm⟩)))

end Sys2Proof.Machine
end


section
/-! PROOFS. Work of the Sifters and NUs that keeps a property of the state, and the rows of a window that an `APPLY` processes. -/

namespace Sys2Proof.Machine

variable {s u : State} {α β : Type}

/-- Work that keeps a property of the state, whether it is done or stops. -/
structure JM.Keeps (P : State → Prop) (x : JM α) : Prop where
  stays : ∀ j : Job, P j.s → P (x.run j).2.s

section keeps
variable {P : State → Prop}

theorem keeps_pure {a : α} : JM.Keeps P (pure a) := ⟨fun _ h => h⟩

theorem keeps_stop : JM.Keeps P (JM.stop (α := α)) := ⟨fun _ h => h⟩

theorem keeps_bind {x : JM α} {f : α → JM β} (hx : x.Keeps P) (hf : ∀ a, (f a).Keeps P) : JM.Keeps P (x >>= f) := by
  refine ⟨fun j h => ?_⟩
  have hj := hx.stays j h
  rw [OptionT.run_bind]
  change P (((x.run j).1.elim (pure none : StateM Job (Option β)) fun a => (f a).run) (x.run j).2).2.s
  cases (x.run j).1 with
  | none => exact hj
  | some a => exact (hf a).stays _ hj

theorem keeps_map {x : JM α} {f : α → β} (hx : x.Keeps P) : JM.Keeps P (f <$> x) := by
  rw [← bind_pure_comp]
  exact keeps_bind hx fun _ => keeps_pure

theorem keeps_get : JM.Keeps P MonadState.get := ⟨fun _ h => h⟩

theorem keeps_set {j : Job} (h : P j.s) : JM.Keeps P (set j : JM PUnit) := ⟨fun _ _ => h⟩

theorem keeps_modify {f : Job → Job} (hf : ∀ j, P j.s → P (f j).s) : JM.Keeps P (modify f) := ⟨hf⟩

/-- Work that starts from the job as it stands. -/
theorem keeps_ofJob {f : Job → JM α} (hf : ∀ j : Job, P j.s → P ((f j).run j).2.s) : JM.Keeps P (MonadState.get >>= f) := ⟨hf⟩

theorem keeps_upd {f : State → State} (hf : ∀ s, P s → P (f s)) : JM.Keeps P (JM.upd f) := ⟨fun j h => hf j.s h⟩

theorem keeps_st : JM.Keeps P JM.st := ⟨fun _ h => h⟩

theorem keeps_ite {c : Prop} [Decidable c] {x y : JM α} (hx : x.Keeps P) (hy : y.Keeps P) : JM.Keeps P (if c then x else y) := by
  split
  · exact hx
  · exact hy

theorem keeps_mapM {l : List α} {f : α → JM β} (hf : ∀ a, (f a).Keeps P) : JM.Keeps P (l.mapM f) := by
  induction l with
  | nil => exact keeps_pure
  | cons a l ih =>
    rw [List.mapM_cons]
    exact keeps_bind (hf a) fun _ => keeps_bind ih fun _ => keeps_pure

theorem keeps_forM {l : List α} {f : α → JM PUnit} (hf : ∀ a, (f a).Keeps P) : JM.Keeps P (l.forM f) := by
  induction l with
  | nil => exact keeps_pure
  | cons a l ih => exact keeps_bind (hf a) fun _ => ih

theorem keeps_all {l : List α} {f : α → JM β} (hf : ∀ a, (f a).Keeps P) : JM.Keeps P (JM.all l f) := by
  refine keeps_bind (keeps_mapM fun a => ?_) fun rs => ?_
  · exact ⟨(hf a).stays⟩
  · split
    · exact keeps_pure
    · exact keeps_stop

/-- Work that is done whole or not at all. -/
theorem keeps_whole {x : JM α} (hx : x.Keeps P) : JM.Keeps P (JM.whole x) := by
  refine ⟨fun j h => ?_⟩
  have hj := hx.stays j h
  change P ((do
    let j ← get
    let r ← x.run
    if r.isNone then modify fun j' => { j with hostAsks := j'.hostAsks, asks := j'.asks }
    pure r : StateM Job (Option α)) j).2.s
  obtain ⟨r, j', hr⟩ : ∃ r j', x.run j = (r, j') := ⟨_, _, rfl⟩
  rw [hr] at hj
  simp only [bind, StateT.bind, get, getThe, MonadStateOf.get, StateT.get, pure, hr]
  cases r with
  | none => exact h
  | some a => exact hj

theorem keeps_ar {sf : Nat} {x : Ar α} (h : ∀ s n, P s → P (s.sifterInv sf n)) : JM.Keeps P (JM.ar sf x) :=
  keeps_bind (keeps_upd fun s hs => by
    split
    · exact hs
    · exact h s _ hs) fun _ => keeps_pure

theorem keeps_ready (a n : Nat) : JM.Keeps P (JM.ready a n) := by
  refine keeps_ofJob fun j h => ?_
  split
  · next u o _ =>
    extract_lets base
    refine (keeps_ite keeps_stop ?_).stays j h
    refine keeps_ite ?_ keeps_pure
    exact keeps_bind (keeps_set h) fun _ => keeps_stop
  · exact h

end keeps

/-! ### The update windows -/

/-- What is only for the hosts and their logs leaves the windows. -/
theorem HostSide.windows {t : State} (h : HostSide s t) : t.windows = s.windows := by rw [h.rest]

theorem DieSide.windows {t : State} (h : DieSide s t) : t.windows = s.windows := by rw [h.rest]

theorem windows_foldl {f : State → α → State} (hf : ∀ s a, (f s a).windows = s.windows) (l : List α) (s : State) :
    (l.foldl f s).windows = s.windows :=
  List.foldlRecOn (motive := fun t : State => t.windows = s.windows) l _ rfl fun _ ht _ _ => (hf _ _).trans ht

theorem windows_notePoison (s : State) (a n : Nat) : (s.notePoison a n).windows = s.windows := by
  unfold State.notePoison
  split
  · split
    · exact (HostSide.report ..).windows
    · split <;> rfl
  · rfl

theorem windows_poisonAt (s : State) (a : Nat) : (s.poisonAt a).windows = s.windows := by
  unfold State.poisonAt
  extract_lets x
  split <;> rfl

theorem windows_flashPut (s : State) (a : Nat) (d : Bytes) (who : Option (Nat × Nat)) : (s.flashPut a d who).windows = s.windows := by
  unfold State.flashPut
  split
  · rfl
  · split
    · exact (HostSide.report ..).windows
    · exact windows_foldl (by exact fun _ _ => rfl) _ s

theorem windows_dwrite (s : State) (a : Nat) (d : Bytes) : (s.dwrite a d).windows = s.windows := by
  unfold State.dwrite
  split
  · rfl
  · split
    · exact (HostSide.report ..).windows
    · extract_lets s'
      split <;> rfl

theorem windows_generalWrite (s : State) (src : Option Nat) (express : Bool) (a : Nat) (d : Bytes) :
    (s.generalWrite src express a d).windows = s.windows := by
  unfold State.generalWrite
  extract_lets s'
  have h : s'.windows = s.windows := (DieSide.linesWrite ..).windows
  split
  · split
    · exact (windows_flashPut ..).trans h
    · exact (windows_dwrite ..).trans h
  · exact h

theorem windows_sifterWrite (s : State) (who : Nat × Nat) (a : Nat) (d : Bytes) : (s.sifterWrite who a d).windows = s.windows := by
  unfold State.sifterWrite
  split
  · split
    · exact windows_foldl (fun _ _ => (HostSide.hostStart ..).windows) _ s
    · split
      · exact windows_flashPut ..
      · exact windows_dwrite ..
  · rfl

theorem windows_countRow (s : State) (t : Table) (v : Bool) (l : RowLoc) (rd up : Nat) : (s.countRow t v l rd up).windows = s.windows := by
  unfold State.countRow
  extract_lets s'
  split
  · rfl
  · exact windows_generalWrite ..

/-! ### The rows that an `APPLY` processes -/

section rows
variable {ws : List Window}

theorem mem_keeps_windows (a n : Nat) : JM.Keeps (·.windows = ws) (JM.mem a n) := by
  refine keeps_ofJob fun j h => ?_
  extract_lets s'
  split
  · split
    · exact h
    · split
      · split
        · exact h
        · exact (keeps_bind (P := (·.windows = ws)) (keeps_ready a n) fun _ => keeps_stop).stays j h
      · refine (keeps_bind (P := (·.windows = ws)) (keeps_upd fun s hs => ?_) fun _ => keeps_pure).stays j h
        exact (DieSide.pageRead ..).windows.trans ((windows_notePoison ..).trans hs)
  · exact h

theorem write_keeps_windows (a : Nat) (d : Bytes) : JM.Keeps (·.windows = ws) (JM.write a d) := by
  refine keeps_modify fun j h => ?_
  extract_lets s'
  have hs : s'.windows = ws := (windows_sifterWrite ..).trans h
  split <;> exact hs

theorem ar_keeps_windows (sf : Nat) (x : Ar α) : JM.Keeps (·.windows = ws) (JM.ar sf x) := keeps_ar fun _ _ h => h

theorem blockToFp8_keeps_windows (t : Table) (v : Bool) (l : RowLoc) : JM.Keeps (·.windows = ws) (JM.blockToFp8 t v l) := by
  refine keeps_bind keeps_get fun j => keeps_bind (keeps_all fun i => mem_keeps_windows ..) fun recs => ?_
  refine keeps_bind (keeps_forM fun x => ?_) fun _ => keeps_upd fun s hs => (windows_generalWrite ..).trans hs
  refine keeps_bind (ar_keeps_windows ..) fun d => keeps_bind (write_keeps_windows ..) fun _ => keeps_upd fun s hs => ?_
  split
  · exact (windows_foldl (fun _ _ => windows_poisonAt ..) _ s).trans hs
  · exact hs

theorem storeRow_keeps_windows (t : Table) (v idx64 : Bool) (l : RowLoc) (x : List FV) (st : Option Bytes) :
    JM.Keeps (·.windows = ws) (JM.storeRow t v idx64 l x st) := by
  refine keeps_bind (ar_keeps_windows ..) fun d => ?_
  split
  · exact write_keeps_windows ..
  · exact keeps_bind (blockToFp8_keeps_windows ..) fun _ => keeps_bind keeps_st fun s => keeps_bind (ar_keeps_windows ..) fun _ =>
      write_keeps_windows ..

theorem applyRow_keeps_windows (t : Table) (w : Window) (p : WinPar) (b : SiftBlk) (x : RowWork) :
    JM.Keeps (·.windows = ws) (JM.applyRow t w p b x) := by
  refine keeps_bind keeps_st fun s => keeps_ite keeps_pure ?_
  refine keeps_bind (keeps_map (mem_keeps_windows ..)) fun r => keeps_ite ?_ ?_
  · exact keeps_bind (keeps_upd fun s hs => (HostSide.logEvent ..).windows.trans hs) fun _ => keeps_pure
  · exact keeps_bind (ar_keeps_windows ..) fun res => keeps_bind (storeRow_keeps_windows ..) fun _ =>
      keeps_bind (keeps_upd fun s hs => (windows_countRow ..).trans hs) fun _ => keeps_pure

/-- Processing the rows of a window changes no window. -/
theorem applyRows_keeps_windows (t : Table) (w : Window) (b : SiftBlk) : JM.Keeps (·.windows = ws) (JM.applyRows t w b) := by
  refine keeps_bind keeps_st fun s => keeps_bind (keeps_modify fun j h => ?_) fun _ => ?_
  · split <;> exact h
  have hrest : JM.Keeps (·.windows = ws) (do
      let _ ← JM.all (s.touched t w) fun x => JM.ready x.loc.addr (t.recLen x.loc.width)
      match w.par with
      | none => pure 0
      | some p => JM.whole do
        let ns ← (s.touched t w).mapM fun x => JM.applyRow t w p b x
        pure ns.sum) := by
    refine keeps_bind (keeps_all fun x => keeps_ready ..) fun _ => ?_
    split
    · exact keeps_pure
    · exact keeps_whole (keeps_bind (keeps_mapM fun x => applyRow_keeps_windows ..) fun _ => keeps_pure)
  refine keeps_bind (keeps_bind keeps_get fun _ => keeps_pure) fun held => keeps_ite (keeps_bind keeps_stop fun _ => hrest) hrest

end rows

end Sys2Proof.Machine
end


section
/-! PROOFS. `UPDATE`, `APPLY` and the time limit of a window. -/

namespace Sys2Proof.Machine

variable {s t u : State} {α : Type}

/-! ### Accesses that no request waits for -/

/-- A step after which a request of a core waits for no access, if before it waited for none. -/
structure Unasked (c id : Nat) (s t : State) : Prop where
  keep : (∀ a ∈ s.accs, a.why.isReq c id = false) → ∀ a ∈ t.accs, a.why.isReq c id = false

namespace Unasked

variable {c id : Nat}

theorem refl (s : State) : Unasked c id s s := ⟨fun h => h⟩

theorem trans (h : Unasked c id s t) (g : Unasked c id t u) : Unasked c id s u := ⟨fun hs => g.keep (h.keep hs)⟩

theorem of_accs (h : t.accs = s.accs) : Unasked c id s t := ⟨fun hs => by rw [h]; exact hs⟩

theorem foldl {l : List α} {f : State → α → State} (hf : ∀ s a, Unasked c id s (f s a)) (s : State) : Unasked c id s (l.foldl f s) :=
  List.foldlRecOn (motive := Unasked c id s) _ _ (refl s) fun _ ht a _ => ht.trans (hf _ a)

theorem pumpFrom (l : List HostAcc) : ∀ (s : State) (kept : List HostAcc), (∀ a ∈ kept, a.why.isReq c id = false) →
    (∀ a ∈ l, a.why.isReq c id = false) → ∀ a ∈ (s.pumpFrom kept l).2, a.why.isReq c id = false := by
  induction l with
  | nil => exact fun _ _ hk _ => hk
  | cons a l ih =>
    intro s kept hk hl
    obtain ⟨ha, hl⟩ := List.forall_mem_cons.mp hl
    obtain ⟨-, hwhy⟩ := HostSide.advance_cases s kept a
    rw [State.pumpFrom]
    split
    · next t heq => exact ih t kept hk hl
    · next t b heq =>
      rw [heq] at hwhy
      refine ih t (kept ++ [b]) (List.forall_mem_append.mpr ⟨hk, ?_⟩) hl
      simpa using (by rw [hwhy b rfl, ha] : b.why.isReq c id = false)

theorem pump (s : State) : Unasked c id s s.pump := ⟨fun hs => pumpFrom s.accs s [] (by simp) hs⟩

theorem hostStart {why : AccWhy} (h : why.isReq c id = false) (s : State) (p fn : Nat) (pasid : Option (BitVec 20)) (addr len : Nat)
    (kind : AccKind) (item : ItemId) : Unasked c id s (s.hostStart p fn pasid addr len kind why item) := by
  unfold State.hostStart
  split
  · exact refl s
  · refine trans (t := { s with accs := s.accs ++ [_], nextAcc := s.nextAcc + 1 }) ⟨fun hs => ?_⟩ (pump _)
    exact List.forall_mem_append.mpr ⟨hs, by simpa using h⟩

theorem msixSend (s : State) (p fn vec : Nat) : Unasked c id s (s.msixSend p fn vec) := by
  unfold State.msixSend
  extract_lets f
  split
  · exact of_accs rfl
  · exact hostStart rfl ..

theorem raiseErr (s : State) (p : Nat) : Unasked c id s (s.raiseErr p) := by
  unfold State.raiseErr
  extract_lets m vec
  split
  · split
    · exact of_accs rfl
    · exact trans (t := s.modPort p fun x => { x with modEnd := s.ticks + fld m 16 16 * 100 }) (of_accs rfl) (msixSend ..)
  · exact msixSend ..

theorem logEvent (s : State) (k : Nat) (ports : List Nat) (code cls rung answer unit : Nat) (info0 info1 : Word) :
    Unasked c id s (s.logEvent k ports code cls rung answer unit info0 info1) := by
  unfold State.logEvent
  extract_lets e s'
  have h : Unasked c id s s' := of_accs rfl
  split
  · exact h
  · exact h.trans (foldl raiseErr s')

end Unasked

/-! ### What work on windows leaves -/

/-- Only what is on its way to other devices and the hosts, the die cache, the counts of invalid operations and the windows have changed,
and no request of a core waits for an access that it did not wait for. -/
structure WindowSide (s t : State) : Prop where
  rest : t = { s with
    out := t.out, accs := t.accs, nextAcc := t.nextAcc, rings := t.rings, released := t.released, ports := t.ports, logs := t.logs,
    cache := t.cache, trackers := t.trackers, pageCache := t.pageCache, sifterInvalid := t.sifterInvalid, links := t.links,
    nextTag := t.nextTag, rqOut := t.rqOut, windows := t.windows }
  asks : ∀ c id, Unasked c id s t

namespace WindowSide

theorem refl (s : State) : WindowSide s s := ⟨rfl, fun _ _ => .refl s⟩

theorem trans (h : WindowSide s t) (g : WindowSide t u) : WindowSide s u := by
  refine ⟨?_, fun c id => (h.asks c id).trans (g.asks c id)⟩
  rw [g.rest, h.rest]

theorem foldl {l : List α} {f : State → α → State} (hf : ∀ s a, WindowSide s (f s a)) (s : State) : WindowSide s (l.foldl f s) :=
  List.foldlRecOn (motive := WindowSide s) _ _ (refl s) fun _ ht a _ => ht.trans (hf _ a)

theorem of_hostSide (h : HostSide s t) (ha : ∀ c id, Unasked c id s t) : WindowSide s t := by
  refine ⟨?_, ha⟩
  rw [h.rest]

theorem of_dieSide (h : DieSide s t) : WindowSide s t := by
  have ha : t.accs = s.accs := by rw [h.rest]
  refine ⟨?_, fun _ _ => .of_accs ha⟩
  rw [h.rest]

theorem of_windows (s : State) (ws : List Window) : WindowSide s { s with windows := ws } := ⟨rfl, fun _ _ => .of_accs rfl⟩

theorem logEvent (s : State) (k : Nat) (ports : List Nat) (code cls rung answer unit : Nat) (info0 info1 : Word) :
    WindowSide s (s.logEvent k ports code cls rung answer unit info0 info1) := of_hostSide (.logEvent ..) fun _ _ => .logEvent ..

theorem report (s : State) (k : Nat) (ports : List Nat) (code unit info0 info1 : Nat) :
    WindowSide s (s.report k ports code unit info0 info1) := logEvent ..

theorem accessLog (s : State) (p unit addr cause : Nat) : WindowSide s (s.accessLog p unit addr cause) := report ..

theorem sifterInv (s : State) (sf n : Nat) : WindowSide s (s.sifterInv sf n) := ⟨rfl, fun _ _ => .of_accs rfl⟩

theorem notePoison (s : State) (a n : Nat) : WindowSide s (s.notePoison a n) := by
  unfold State.notePoison
  split
  · split
    · exact logEvent ..
    · split
      · exact of_hostSide (.poisonRead ..) fun _ _ => .of_accs rfl
      · exact refl s
  · exact refl s

theorem readDir (s : State) (port owner : Nat) (express : Bool) (dir i len : Nat) : WindowSide s (s.readDir port owner express dir i len) := by
  unfold State.readDir
  extract_lets e s'
  have h : WindowSide s s' := (notePoison ..).trans (of_dieSide (.cacheRead ..))
  split
  · exact h.trans (accessLog ..)
  · exact h

theorem readRowDirs (s : State) (p : Nat) (express : Bool) (t : Table) (v idx64 : Bool) (rows : List Nat) :
    WindowSide s (s.readRowDirs p express t v idx64 rows) := foldl (fun _ _ => readDir ..) s

theorem withWindow (s : State) (p table : Nat) (v : Bool) (t : Window → Bool) (f : Window → Window) : WindowSide s (s.withWindow p table v t f) := by
  unfold State.withWindow
  split <;> exact of_windows ..

theorem deposit (s : State) (c : Nat) (q : LsuReq) (b : SiftBlk) (t : Table) (e : Ent) (i : Nat) : WindowSide s (s.deposit c q b t e i).2 := by
  unfold State.deposit
  extract_lets k h home here l sf dflt r x tk same dup s'
  have hs : WindowSide s s' := by
    show WindowSide s (if _ then _ else _)
    split
    · exact refl s
    · exact sifterInv ..
  dsimp only
  exact hs.trans (withWindow ..)

theorem windowCapacity (s : State) (p table : Nat) (v : Bool) : WindowSide s (s.windowCapacity p table v) := by
  unfold State.windowCapacity
  refine (foldl (fun s k => ?_) s).trans (foldl (fun s sf => ?_) _)
  all_goals
    split
    · exact of_windows ..
    · exact refl s

theorem release (s : State) (p : Packet) : WindowSide s (s.release p) := by
  unfold State.release
  split
  · exact ⟨rfl, fun _ _ => .of_accs rfl⟩
  · exact logEvent ..

theorem sendRq (s : State) (dst kind port : Nat) (body : Bytes) : WindowSide s (s.sendRq dst kind port body).2 := by
  refine trans (t := { s with nextTag := (s.nextTag + 1) % 2 ^ 32, rqOut := s.rqOut ++ [(dst, s.nextTag)] })
    ⟨rfl, fun _ _ => .of_accs rfl⟩ ?_
  exact foldl release _

theorem logPoisonedFwd (s : State) (w : Window) (dev : Nat) (l : List Contrib) : WindowSide s (s.logPoisonedFwd w dev l) :=
  foldl (fun _ _ => logEvent ..) s

theorem sendWindow (s : State) (t : Table) (w : Window) : WindowSide s (s.sendWindow t w) := by
  unfold State.sendWindow
  extract_lets d ver
  refine foldl (fun s dev => ?_) s
  extract_lets mine r s1 s2
  have h1 : WindowSide s s1 := by
    refine trans (t := if r.2 = 0 then s else s.sifterInv (s.forwardSifter dev) r.2) ?_ (logPoisonedFwd ..)
    split
    · exact refl s
    · exact sifterInv ..
  have h2 : WindowSide s1 s2 := by
    show WindowSide s1 (match w.par with | some p => _ | none => _)
    split
    · exact foldl (fun _ _ => sendRq ..) s1
    · exact refl s1
  exact (h1.trans h2).trans (sendRq ..)

theorem cores (h : WindowSide s t) : t.cores = s.cores := by rw [h.rest]
theorem queue (h : WindowSide s t) : t.queue = s.queue := by rw [h.rest]
theorem tables (h : WindowSide s t) : t.tables = s.tables := by rw [h.rest]
theorem flash (h : WindowSide s t) : t.flashWrites = s.flashWrites := by rw [h.rest]
theorem dmem (h : WindowSide s t) : t.dmem = s.dmem := by rw [h.rest]
theorem core (h : WindowSide s t) : t.core = s.core := by rw [h.rest]; rfl

end WindowSide

/-! ### Windows after a contribution -/

/-- What holds of every element of a list holds of them when the first of some kind has been updated. -/
theorem forall_mem_modFirst {P : α → Prop} {f : α → α} (hf : ∀ x, P x → P (f x)) (t : α → Bool) {l : List α} (h : ∀ x ∈ l, P x) :
    ∀ x ∈ modFirst t f l, P x := by
  induction l with
  | nil => exact h
  | cons y l ih =>
    obtain ⟨hy, hl⟩ := List.forall_mem_cons.mp h
    rw [modFirst]
    split
    · exact List.forall_mem_cons.mpr ⟨hf y hy, hl⟩
    · exact List.forall_mem_cons.mpr ⟨hy, ih hl⟩

theorem forall_mem_withWindow {P : Window → Prop} {f : Window → Window} (hf : ∀ w, P w → P (f w)) {p n : Nat} {v : Bool} (hnew : P (Window.new p n v))
    (t : Window → Bool) (h : ∀ w ∈ s.windows, P w) : ∀ w ∈ (s.withWindow p n v t f).windows, P w := by
  unfold State.withWindow
  split
  · exact forall_mem_modFirst hf t h
  · exact List.forall_mem_append.mpr ⟨h, by simpa using hf _ hnew⟩

/-- The places of the contributions that a window holds lie below a place. -/
structure Window.Below (n : Nat) (w : Window) : Prop where
  own : ∀ y ∈ w.contribs, y.idx < n
  fwd : ∀ y ∈ w.fwd, y.2.idx < n

theorem Window.Below.mono {w : Window} {m n : Nat} (h : w.Below m) (hmn : m ≤ n) : w.Below n :=
  ⟨fun y hy => Nat.lt_of_lt_of_le (h.own y hy) hmn, fun y hy => Nat.lt_of_lt_of_le (h.fwd y hy) hmn⟩

section deposit
variable (c : Nat) (q : LsuReq) (b : SiftBlk) (t : Table)

/-- A contribution whose place lies above those that the windows hold is not discarded. -/
theorem deposit_above {i : Nat} (e : Ent) (h : ∀ w ∈ s.windows, w.Below (b.gradBase + i)) :
    (s.deposit c q b t e i).1 = false ∧ ∀ w ∈ (s.deposit c q b t e i).2.windows, w.Below (b.gradBase + (i + 1)) := by
  unfold State.deposit
  extract_lets k hm home here l sf dflt r x tk same dup s'
  have hnot {y : Contrib} (hy : y.idx < b.gradBase + i) : same y = false := by
    have hne : (y.idx == x.idx) = false := beq_eq_false_iff_ne.mpr (show y.idx ≠ b.gradBase + i by omega)
    show (y.row == x.row && y.idx == x.idx) = false
    rw [hne, Bool.and_false]
  have hdup : dup = false := by
    refine List.any_eq_false.mpr fun w hw => ?_
    have hown : w.contribs.any same = false := List.any_eq_false.mpr fun y hy => by rw [hnot ((h w hw).own y hy)]; exact Bool.false_ne_true
    have hfwd : (w.fwd.any fun y => y.1 == home && same y.2) = false :=
      List.any_eq_false.mpr fun y hy => by rw [hnot ((h w hw).fwd y hy), Bool.and_false]; exact Bool.false_ne_true
    simp only [hown, hfwd, ite_self, Bool.and_false, Bool.false_eq_true, not_false_eq_true]
  have hs' : s'.windows = s.windows := by
    show (if _ then _ else _ : State).windows = _
    split <;> rfl
  refine ⟨hdup, ?_⟩
  dsimp only
  rw [hdup]
  refine forall_mem_withWindow (fun w hw => ?_) ⟨by simp [Window.new], by simp [Window.new]⟩ tk (fun w hw => ?_)
  · rw [if_neg Bool.false_ne_true]
    split
    · exact ⟨List.forall_mem_append.mpr ⟨hw.own, by simp [x]⟩, hw.fwd⟩
    · exact ⟨hw.own, List.forall_mem_append.mpr ⟨hw.fwd, by simp [x]⟩⟩
  · exact (h w (hs' ▸ hw)).mono (by omega)

/-- The contributions of an `UPDATE`, deposited in list order: whether one was discarded, and the state after them. -/
def layAll (l : List (Ent × Nat)) (a : Bool × State) : Bool × State :=
  l.foldl (fun (a : Bool × State) x => (a.1 || (a.2.deposit c q b t x.1 x.2).1, (a.2.deposit c q b t x.1 x.2).2)) a

/-- Contributions to places above those that the windows hold are all taken. -/
theorem layAll_above (ents : List Ent) : ∀ (i : Nat) (s : State), (∀ w ∈ s.windows, w.Below (b.gradBase + i)) →
    (layAll c q b t (ents.zipIdx i) (false, s)).1 = false := by
  induction ents with
  | nil => exact fun _ _ _ => rfl
  | cons e ents ih =>
    intro i s h
    obtain ⟨hno, hbelow⟩ := deposit_above c q b t e h
    rw [List.zipIdx_cons]
    show (layAll c q b t (ents.zipIdx (i + 1)) (false || (s.deposit c q b t e i).1, (s.deposit c q b t e i).2)).1 = false
    rw [hno]
    exact ih (i + 1) _ hbelow

theorem windowSide_layAll (l : List (Ent × Nat)) : ∀ a : Bool × State, WindowSide a.2 (layAll c q b t l a).2 := by
  induction l with
  | nil => exact fun _ => .refl _
  | cons x l ih => exact fun a => (WindowSide.deposit a.2 c q b t x.1 x.2).trans (ih (a.1 || (a.2.deposit c q b t x.1 x.2).1, (a.2.deposit c q b t x.1 x.2).2))

/-- A contribution to a row of this device, where one window is open: discarded if its place is taken, and otherwise joined to it. -/
theorem deposit_here {e : Ent} {i : Nat} {w : Window} (hhome : (s.readHome t q.version b.idx64 e.row).1 = s.devId)
    (hdflt : (s.rowLoc t q.version b.idx64 e.row).dflt = false) (hw : s.windows = [w]) (htk : Window.takes q.port t.id q.version w = true) :
    ∃ x : Contrib, x.row = some e.row ∧ x.idx = b.gradBase + i ∧ x.term = (((s.core c).gradTerm b t.len e).run 0).1 ∧
      (s.deposit c q b t e i).1 = w.contribs.any (fun y => y.row == x.row && y.idx == x.idx) ∧
      (s.deposit c q b t e i).2.windows = [if (s.deposit c q b t e i).1 then { w with par := some b.winPar, spoiled := true }
        else { w with par := some b.winPar, contribs := w.contribs ++ [x] }] := by
  unfold State.deposit
  extract_lets k hm home here l sf dflt r x tk same dup s'
  have hhere : here = true := beq_iff_eq.mpr hhome
  have hdf : dflt = false := by
    show (if here then l.dflt else _) = false
    rw [hhere, if_pos rfl]
    exact hdflt
  have hdup : dup = w.contribs.any same := by
    have htk' : tk w = true := htk
    show (s.windows.any fun w => _) = _
    simp only [hw, hhere, htk', List.any_cons, List.any_nil, Bool.or_false, Bool.true_and, if_true]
  have hs' : s'.windows = [w] := by
    refine Eq.trans ?_ hw
    show (if _ then _ else _ : State).windows = _
    split <;> rfl
  refine ⟨x, ?_, rfl, rfl, hdup, ?_⟩
  · show (if dflt then none else some e.row) = some e.row
    rw [hdf]
    rfl
  · have htk' : tk w = true := htk
    simp only [State.withWindow, hs', htk', List.any_cons, List.any_nil, Bool.or_false, if_true, modFirst, hhere]

end deposit

/-! ### Sending and ending leave the windows -/

theorem windows_logPoisonedFwd (s : State) (w : Window) (dev : Nat) (l : List Contrib) : (s.logPoisonedFwd w dev l).windows = s.windows :=
  windows_foldl (fun _ _ => (HostSide.logEvent ..).windows) _ s

theorem windows_readRowDirs (s : State) (p : Nat) (express : Bool) (t : Table) (v idx64 : Bool) (rows : List Nat) :
    (s.readRowDirs p express t v idx64 rows).windows = s.windows := by
  refine windows_foldl (fun s b => ?_) _ s
  unfold State.readDir
  extract_lets e s'
  have h : s'.windows = s.windows := (DieSide.cacheRead ..).windows.trans (windows_notePoison ..)
  split
  · exact (HostSide.accessLog ..).windows.trans h
  · exact h

theorem windows_release (s : State) (p : Packet) : (s.release p).windows = s.windows := by
  unfold State.release
  split
  · rfl
  · exact (HostSide.report ..).windows

theorem windows_sendRq (s : State) (dst kind port : Nat) (body : Bytes) : (s.sendRq dst kind port body).2.windows = s.windows :=
  windows_foldl windows_release _ { s with nextTag := (s.nextTag + 1) % 2 ^ 32, rqOut := s.rqOut ++ [(dst, s.nextTag)] }

theorem windows_sendWindow (s : State) (t : Table) (w : Window) : (s.sendWindow t w).windows = s.windows := by
  unfold State.sendWindow
  extract_lets d ver
  refine windows_foldl (fun s dev => ?_) _ s
  extract_lets mine r s1 s2
  have h1 : s1.windows = s.windows := by
    refine (windows_logPoisonedFwd ..).trans ?_
    split <;> rfl
  have h2 : s2.windows = s1.windows := by
    show (match w.par with | some p => _ | none => _ : State).windows = _
    split
    · exact windows_foldl (fun _ _ => windows_sendRq ..) _ s1
    · rfl
  exact (windows_sendRq ..).trans (h2.trans h1)

theorem WorkSide.windows (h : WorkSide s t) : t.windows = s.windows := by rw [h.rest]

/-- The end of a request changes no window. -/
theorem windows_endReq (s : State) (c : Nat) (q : LsuReq) (st n : Nat) : (s.endReq c q st n).windows = s.windows := by
  unfold State.endReq State.settleReq
  split
  · split
    · rfl
    · exact (WorkSide.tryEnd ..).windows
  · rfl

end Sys2Proof.Machine
end


section
/-! PROOFS. `UPDATE`, `APPLY` and the time limit of a window: what the commands do. -/

namespace Sys2Proof.Machine

variable {s v : State} {c : CoreIx} {req : Nat} {q : LsuReq} {n : Nat} {t : Table}

/-- The work of a request that closes windows. -/
theorem WorkDone.windows {c : Nat} {u : State} (h : WorkDone c q u v) (ws : List Window) : WorkDone c q u { v with windows := ws } :=
  ⟨h.req, h.accs, h.flash, h.dmem, h.ls, h.run⟩

/-- An `APPLY` whose window is whole, undisturbed and of its own parameters, and whose rows are processed, drops the window and ends. -/
theorem runApply_done {w : Window} {j : Job} (hp : q.prog = {}) (hfind : v.windows.find? (Window.waitsFor c.val q.id) = some w)
    (ht : v.tableOf (SiftBlk.parse q.block).table = some t) (hin : v.queue.contains (c.val, q.id) = true)
    (hprog : (v.progOf (c.val, q.id)).isSome) (hranks : (SiftBlk.parse q.block).ranks ≤ w.ranks.length + 1) (hspoil : w.spoiled = false)
    (hover : w.overflow = false) (hagree : w.par.all (fun p => p.agrees (SiftBlk.parse q.block)) = true) (hjw : j.s.windows = [w])
    (hj : (JM.applyRows t w (SiftBlk.parse q.block)).run (Job.start v (c.val, q.id) q.port) = (some n, j)) :
    v.runApply c.val q = (({ j.s.modProg (c.val, q.id) (fun p => { p with parts := j.parts }) with windows := [] } : State).modItemRun
      c.val q.item fun r => { r with applyCount := r.applyCount + n }).endReq c.val q rsOk n := by
  have hdrop : (j.s.modProg (c.val, q.id) fun p => { p with parts := j.parts }).windows.erase w = [] := by
    have h : (j.s.modProg (c.val, q.id) fun p => { p with parts := j.parts }).windows = [w] := by
      rw [State.modProg, if_pos c.isLt]
      exact hjw
    rw [h, List.erase_cons_head]
  simp only [State.runApply, hfind, ht, hin, hp, hspoil, hover, hagree, if_neg (Nat.not_lt.mpr hranks), ne_eq, not_true_eq_false, if_false,
    if_true, Bool.not_true, Bool.or_self, Bool.false_eq_true]
  refine (runJob_done hprog hj).trans ?_
  rw [hdrop]

section sift
variable (hr : s.running = true) (hq : s.reqOf c.val req = some q) (hk : q.kind = .sift) (hs : q.served = false)
  (hqueue : (c.val, req) ∉ s.queue) (hwin : ∀ w ∈ s.windows, w.waitsFor c.val req = false) (hp : q.prog = {})
  (ht : s.tableOf (SiftBlk.parse q.block).table = some t)
include hr hq hk hs hqueue hwin hp ht

/-- The state after the contributions of an `UPDATE`. -/
abbrev State.laid (s : State) (c : CoreIx) (req : Nat) (q : LsuReq) (t : Table) : Bool × State :=
  let b := SiftBlk.parse q.block
  layAll c.val q b t (((s.core c.val).siftEntries b t.len).zipIdx)
    (false, (s.taken c.val req).readRowDirs q.port (q.cls == .express) t q.version b.idx64 (((s.core c.val).siftEntries b t.len).map (·.row)))

/-- An `UPDATE` whose parameters are those of the open window, and of no row of a moving shard, completes. -/
theorem siftOp_update_completes (ho : fieldAt q.block 0 1 % 16 = 4)
    (hpar : ∀ w ∈ s.windows, Window.takes q.port t.id q.version w = true → w.par = none ∨ w.par = some (SiftBlk.parse q.block).winPar)
    (hmov : ∀ e ∈ (s.core c.val).siftEntries (SiftBlk.parse q.block) t.len,
      s.shardMoving t.scope ((s.rowLoc t q.version (SiftBlk.parse q.block).idx64 e.row).shard t) = false)
    (haccs : s.accs = []) (hflash : s.flashWrites = []) (hrun : ∀ r prog, (s.core c.val).run = some r → r.stall ≠ some (.ending prog)) :
    ∃ u st, siftOp 4 c req s = u ∧ (st = rsOk ∨ st = rsChainMismatch) ∧ (st = rsChainMismatch ↔ (s.laid c req q t).1 = true) ∧
      (s.windows = [] → st = rsOk) ∧ u.windows = ((s.laid c req q t).2.windowCapacity q.port t.id q.version).windows ∧
      u.reqOf c.val req = none ∧ (c.val, req) ∉ u.queue ∧
      (u.core c.val).ls = (s.core c.val).ls.writeBytes q.resp (natLe 8 (1 + 256 * st)) := by
  have hid := id_of_reqOf hq
  subst hid
  let laid := s.laid c q.id q t
  let v := laid.2.windowCapacity q.port t.id q.version
  let st := if laid.1 then rsChainMismatch else rsOk
  have hv : WindowSide (s.taken c.val q.id) v :=
    ((WindowSide.readRowDirs ..).trans (windowSide_layAll c.val q (SiftBlk.parse q.block) t _ (false, _))).trans (.windowCapacity ..)
  have hcore : v.core c.val = s.core c.val := congrFun hv.core c.val
  have hvq : v.reqOf c.val q.id = some q := by
    rw [State.reqOf, hcore]
    exact hq
  have hask : q.prog.asks = [] := by rw [hp]
  have hwait : ∀ a ∈ v.accs, a.why.isReq c.val q.id = false := (hv.asks c.val q.id).keep (by exact haccs ▸ nofun)
  obtain ⟨hreq, hout, hls, -⟩ := endReq_leaves (st := st) (n := 0) hvq hask rfl hwait (hv.flash.trans hflash) (by rw [hcore]; exact hrun)
  refine ⟨_, st, ?_, ?_, ?_, fun hnil => ?_, windows_endReq .., hreq, hout, ?_⟩
  · have ht' : (s.taken c.val q.id).tableOf (SiftBlk.parse q.block).table = some t := ht
    rw [siftOp_taken hr hq hk hs hqueue hwin ho]
    refine runEnds_of_over c.isLt ((serveSift_taken hq hwin).trans ?_) hreq
    rw [if_pos ho]
    simp only [State.runUpdate, ht']
    refine (if_neg (List.any_eq_true.not.mpr ?_)).trans ((if_neg (List.any_eq_true.not.mpr ?_)).trans rfl)
    · rintro ⟨w, hw, h⟩
      obtain ⟨htk, hne⟩ := Bool.and_eq_true_iff.mp h
      revert hne
      obtain hpar | hpar := hpar w hw htk
      · rw [hpar]
        exact Bool.false_ne_true
      · rw [hpar]
        exact fun h => bne_iff_ne.mp h rfl
    · rintro ⟨e, he, h⟩
      exact Bool.false_ne_true ((hmov e he).symm.trans h)
  · show (if laid.1 then rsChainMismatch else rsOk) = rsOk ∨ (if laid.1 then rsChainMismatch else rsOk) = rsChainMismatch
    split
    · exact .inr rfl
    · exact .inl rfl
  · show (if laid.1 then rsChainMismatch else rsOk) = _ ↔ laid.1 = true
    split <;> simp_all [rsChainMismatch, rsOk]
  · have hclean : laid.1 = false := by
      refine layAll_above c.val q (SiftBlk.parse q.block) t _ 0 _ ?_
      rw [windows_readRowDirs]
      exact hnil ▸ nofun
    exact if_neg (by rw [hclean]; decide)
  · rw [hls, hcore, respWord_eq, Nat.mul_zero, Nat.add_zero]

/-- An `APPLY` whose window is whole, undisturbed and of its own parameters, and whose rows are processed, completes. -/
theorem siftOp_apply_completes {w w' : Window} {n : Nat} {j : Job} (ho : fieldAt q.block 0 1 % 16 = 5) (hw : s.windows = [w])
    (htk : Window.takes q.port t.id q.version w = true) (hpar : ∀ p, w.par = some p → p.agrees (SiftBlk.parse q.block) = true)
    (hspoil : w.spoiled = false) (hover : w.overflow = false) (hranks : (SiftBlk.parse q.block).ranks ≤ w.ranks.length + 1)
    (hw' : w' = { w with wait := some ⟨c.val, req, (SiftBlk.parse q.block).ranks, s.ticks, s.windowLimit⟩ })
    (hj : (JM.applyRows t w' (SiftBlk.parse q.block)).run
      (Job.start (State.sendWindow { s.taken c.val req with windows := [w'] } t w') (c.val, req) q.port) = (some n, j))
    (haccs : j.s.accs = []) (hflash : j.s.flashWrites = []) (hjq : j.s.reqOf c.val req = some q)
    (hrun : ∀ r prog, (j.s.core c.val).run = some r → r.stall ≠ some (.ending prog)) :
    ∃ u, siftOp 5 c req s = u ∧ u.windows = [] ∧ u.reqOf c.val req = none ∧ (c.val, req) ∉ u.queue ∧
      (u.core c.val).ls = (j.s.core c.val).ls.writeBytes q.resp (natLe 8 (1 + 65536 * n)) := by
  have hid := id_of_reqOf hq
  subst hid
  let s1 : State := { s.taken c.val q.id with windows := [w'] }
  have hside : WindowSide s1 (s1.sendWindow t w') := .sendWindow ..
  have hwins : (s1.sendWindow t w').windows = [w'] := windows_sendWindow ..
  have hjw : j.s.windows = [w'] := by
    have h := (applyRows_keeps_windows t w' (SiftBlk.parse q.block) (ws := [w'])).stays (Job.start (s1.sendWindow t w') (c.val, q.id) q.port) hwins
    rwa [hj] at h
  have htk' : (w.port == q.port && w.table == t.id && w.version == q.version && w.wait.isNone && !w.closed) = true := htk
  have hclosed : w.closed = false := by
    simp only [Bool.and_eq_true, Bool.not_eq_true'] at htk'
    exact htk'.2
  have hagree : w.par.all (fun p => p.agrees (SiftBlk.parse q.block)) = true := by
    cases hwp : w.par with
    | none => rfl
    | some p => exact hpar p hwp
  have hwait : Window.waitsFor c.val q.id w' = true := by
    rw [hw']
    simp [Window.waitsFor, hclosed]
  have hstart : (s.taken c.val q.id).startApply c.val q = (s1.sendWindow t w').runApply c.val q := by
    have ht' : (s.taken c.val q.id).tableOf (SiftBlk.parse q.block).table = some t := ht
    have hlay : (s.taken c.val q.id).withWindow q.port t.id q.version (Window.takes q.port t.id q.version)
        (fun w => { w with wait := some ⟨c.val, q.id, (SiftBlk.parse q.block).ranks, s.ticks, s.windowLimit⟩ }) = s1 := by
      simp only [State.withWindow, hw, htk, List.any_cons, List.any_nil, Bool.or_false, if_true, modFirst, s1, hw']
    simp only [State.startApply, ht']
    refine (if_neg (by simp [hw, hagree])).trans ?_
    refine (congrArg (fun x : State => (match x.windows.find? (Window.waitsFor c.val q.id) with
      | some w => x.sendWindow t w
      | none => x : State).runApply c.val q) hlay).trans ?_
    simp only [s1, List.find?_cons, hwait]
  have happly : (s1.sendWindow t w').runApply c.val q =
      ((({ j.s.modProg (c.val, q.id) (fun p => { p with parts := j.parts }) with windows := [] } : State).modItemRun c.val q.item
        fun r => { r with applyCount := r.applyCount + n }).endReq c.val q rsOk n) := by
    have ht' : (s1.sendWindow t w').tableOf (SiftBlk.parse q.block).table = some t := by
      rw [State.tableOf, hside.tables]
      exact ht
    have hfind : (s1.sendWindow t w').windows.find? (Window.waitsFor c.val q.id) = some w' := by rw [hwins, List.find?_cons, hwait]
    have hin : (s1.sendWindow t w').queue.contains (c.val, q.id) = true := by
      rw [hside.queue]
      simp [s1]
    have hprog : ((s1.sendWindow t w').progOf (c.val, q.id)).isSome := by
      rw [State.progOf, if_pos c.isLt, State.reqOf, hside.core]
      exact congrArg (fun x => (Option.map LsuReq.prog x).isSome) hq
    refine runApply_done hp hfind ht' hin hprog ?_ ?_ ?_ ?_ hjw hj
    · rw [hw']
      exact hranks
    · rw [hw']
      exact hspoil
    · rw [hw']
      exact hover
    · rw [hw']
      exact hagree
  have hdone := (((workDone_modProg c.isLt hjq haccs hflash hrun j.parts).windows []).modItemRun q.item
    (f := fun r => { r with applyCount := r.applyCount + n }) fun _ => rfl).endReq hp rsOk n
  obtain ⟨hreq, hout, hls, -⟩ := hdone
  refine ⟨_, ?_, windows_endReq .., hreq, hout, ?_⟩
  · rw [siftOp_taken hr hq hk hs hqueue hwin ho]
    refine runEnds_of_over c.isLt ((serveSift_taken hq hwin).trans ?_) hreq
    rw [if_neg (by rw [ho]; decide), if_pos ho]
    exact hstart.trans happly
  · rw [hls]
    exact congrArg (fun x => (j.s.core c.val).ls.writeBytes q.resp (natLe 8 x)) (respWord_eq rsOk n)

end sift

/-! ### The time limit of a window -/

section timeout
variable {p : PortIx} {table : BitVec 16} {w : Window} {a : ApplyWait} (hw : s.windows = [w]) (hport : w.port = p.val)
  (htable : w.table = table.toNat) (hopen : w.closed = false) (hwait : w.wait = some a) (hreq : s.reqOf a.core a.req = some q)
  (hranks : w.ranks.length + 1 < a.ranks)
include hw hwait

include hport htable hopen hreq hranks in
/-- A window that has waited its time closes with no row changed. -/
theorem applyWindowTimeout_of_due (h : a.since + a.limit ≤ s.ticks) : applyWindowTimeout p table s =
    ({ s with windows := [{ w with closed := true, contribs := [], fwd := [], nodes := [], srcs := [] }] } : State).endReq a.core q
      rsRankMissing 0 := by
  simp [applyWindowTimeout, hw, hwait, hport, htable, hopen, hranks, h, hreq, modFirst]

/-- Before its time nothing happens to a window. -/
theorem applyWindowTimeout_of_early (h : s.ticks < a.since + a.limit) : applyWindowTimeout p table s = s := by
  simp [applyWindowTimeout, hw, hwait, Nat.not_le.mpr h]

end timeout

/-- Settles O27: contributions join the open window or spoil it; an `UPDATE` and an `APPLY` whose work is done answer, and a window that
waits too long for a rank closes. -/
theorem updateAndApply : Obligations.UpdateAndApply := by
  unfold Obligations.UpdateAndApply
  refine ⟨?_, ?_, ?_⟩
  · intro c q s b t e i hhome hdflt w hw htk r
    obtain ⟨x, hrow, hidx, hterm, hdup, hafter⟩ := deposit_here (i := i) c.val q b t hhome hdflt hw htk
    refine ⟨fun hfree => ?_, fun ⟨y, hy, hyr, hyi⟩ => ?_⟩
    · have hno : r.1 = false := by
        refine hdup.trans (List.any_eq_false.mpr fun y hy => ?_)
        rw [hrow, hidx, Bool.and_eq_true, beq_iff_eq, beq_iff_eq, not_and_or]
        exact hfree y hy
      rw [if_neg (by rw [show (s.deposit c.val q b t e i).1 = false from hno]; exact Bool.false_ne_true)] at hafter
      exact ⟨hno, _, hafter, rfl, rfl, x, rfl, hrow, hidx, hterm⟩
    · have hyes : r.1 = true := by
        refine hdup.trans (List.any_eq_true.mpr ⟨y, hy, ?_⟩)
        rw [hrow, hidx, hyr, hyi, beq_self_eq_true, beq_self_eq_true]
        rfl
      rw [if_pos hyes] at hafter
      exact ⟨hyes, _, hafter, rfl, rfl⟩
  · intro c req s q t hr hq hk hs hqueue hwin hp b ht taken
    refine ⟨?_, ?_⟩
    · intro ho hpar hmov haccs hflash hrun laid
      obtain ⟨u, st, hu, h⟩ := siftOp_update_completes hr hq hk hs hqueue hwin hp ht ho hpar hmov haccs hflash hrun
      exact ⟨u, st, congrArg Host.Outcome.next hu, h⟩
    · intro w ho hw htk hpar hspoil hover hranks w' n j hj haccs hflash hjq hrun
      obtain ⟨u, hu, h⟩ := siftOp_apply_completes hr hq hk hs hqueue hwin hp ht ho hw htk hpar hspoil hover hranks rfl hj haccs hflash hjq hrun
      exact ⟨u, congrArg Host.Outcome.next hu, h⟩
  · intro p table s w a q hw hport htable hopen hwait hreq hranks
    exact ⟨fun h => congrArg Host.Outcome.next (applyWindowTimeout_of_due hw hport htable hopen hwait hreq hranks h),
      fun h => congrArg Host.Outcome.next (applyWindowTimeout_of_early hw hwait h)⟩

end Sys2Proof.Machine
end


section
/-! PROOFS. The bring-up of a link. -/

namespace Sys2Proof.Machine

variable {s t : State} {l : LinkIx}

section up
variable (hup : s.linksRun = true)
include hup

/-- A mated cable ends phase 1. -/
theorem detect_of_cabled (hph : (s.link l.val).phase = 1) (hc : s.cabled l.val = true) :
    detect l s = s.setLink l.val ((s.link l.val).enter (if (s.link l.val).st = .reinit ∧ !(s.link l.val).retried then 3 else 2) s.ticks) := by
  simp only [detect, hup, hph, hc, beq_self_eq_true, Bool.and_self, if_true]

omit hup in
theorem detect_of_not (h : (s.link l.val).phase ≠ 1 ∨ s.cabled l.val = false) : detect l s = s := by
  refine if_neg ?_
  obtain h | h := h
  · simp [h]
  · simp [h]

/-- What a phase that overruns its limit leads to. -/
theorem linkPhaseTimeout_of_late (hph : (s.link l.val).phase = 2 ∨ (s.link l.val).phase = 3 ∨
      (s.link l.val).phase = 4 ∧ (s.link l.val).goodFlits ≠ 64 ∨ (s.link l.val).phase = 6 ∨
      (s.link l.val).phase = 1 ∧ (s.cabled l.val = true ∨ (s.link l.val).st ≠ .training))
    (hlate : (s.link l.val).since + phaseLimit (s.link l.val).phase < s.ticks) :
    linkPhaseTimeout l s = if (s.link l.val).retried then (if (s.link l.val).st = .reinit then s.lose ⟨5, l⟩ eLinkReinit else s.linkGone l.val .down)
      else s.setLink l.val { (s.link l.val).afresh.enter 1 s.ticks with retried := true, localConverged := false, peerConverged := false } := by
  refine if_neg ?_
  obtain h | h | ⟨h, hg⟩ | h | ⟨h, hc | ht⟩ := hph
  · simp [hup, h, h ▸ hlate]
  · simp [hup, h, h ▸ hlate]
  · simp [hup, h, hg, h ▸ hlate]
  · simp [hup, h, h ▸ hlate]
  · simp [hup, h, hc, h ▸ hlate]
  · simp [hup, h, ht, h ▸ hlate]

omit hup in
/-- A phase that is in time, or has no limit, goes on. -/
theorem linkPhaseTimeout_of_not (h : (s.link l.val).phase = 5 ∨ (s.link l.val).phase = 0 ∨ (s.link l.val).phase = 4 ∧ (s.link l.val).goodFlits = 64 ∨
      (s.link l.val).phase = 1 ∧ (s.link l.val).st = .training ∧ s.cabled l.val = false ∨
      s.ticks ≤ (s.link l.val).since + phaseLimit (s.link l.val).phase) : linkPhaseTimeout l s = s := by
  refine if_pos ?_
  obtain h | h | ⟨h, hg⟩ | ⟨h, ht, hc⟩ | h := h
  · simp [h]
  · simp [h]
  · simp [h, hg]
  · simp [h, ht, hc]
  · simp [Nat.not_lt.mpr h]

/-- An `IDENT` of the peer, in phase 5, is accepted or reported. -/
theorem ident_of_taken {p : Packet} (hlock : s.locked = true) (htake : s.takeLk l.val 1 = some (p, t)) (hph : (s.link l.val).phase = 5) :
    ident l s = if fld (fieldAt p.body 0 8) 0 12 ≠ s.devId ∧
        (fld (fieldAt p.body 0 8) 18 12 ≠ s.podId ∨ s.podTable.contains (fld (fieldAt p.body 0 8) 0 12)) then
      t.setLink l.val { (t.link l.val).enter 6 s.ticks with
        peerId := fld (fieldAt p.body 0 8) 0 12, peerLink := fld (fieldAt p.body 0 8) 12 6, peerValid := true,
        txq := lkPacket s.devId 1 (s.identBody l.val) :: (t.link l.val).txq }
      else t.report lgLinks [0, 1] eLinkDown l.val l.val 5 := by
  obtain ⟨p', -, heq⟩ := Option.map_eq_some_iff.mp (show (Option.map _ _) = _ from htake)
  obtain ⟨rfl, rfl⟩ := Prod.mk.inj heq
  have hph' : ((s.modLink l.val fun k => { k with rxq := k.rxq.erase p' }).link l.val).phase = 5 := by
    rw [State.modLink, State.link_setLink]
    exact hph
  simp only [ident, hup, hlock, Bool.not_true, Bool.or_self, Bool.false_eq_true, if_false, htake, hph', ne_eq, not_true_eq_false]
  rfl

/-- `CREDIT` returns credits by class. -/
theorem credit_of_taken {p : Packet} (htake : s.takeLk l.val 2 = some (p, t)) : credit l s = t.setLink l.val
    ({ t.link l.val with credits := (t.link l.val).credits.zipIdx.map fun (v, i) => v + fieldAt p.body (2 * i) 2, credGot := true } : Link).activate := by
  simp only [credit, hup, Bool.not_true, Bool.false_eq_true, if_false, htake]
  rfl

/-- A training flit by the phase of the link. -/
theorem trainFlit_of_read {b d : Bytes} {x y : BitVec 12} {n : Bool} (hread : readFlit b = some (d, x, y, 2, n)) :
    ((s.link l.val).phase = 3 → trainFlit l b s = s.setLink l.val ((s.link l.val).enter 4 s.ticks)) ∧
    ((s.link l.val).phase = 4 → trainFlit l b s = s.setLink l.val ((s.link l.val).good s.locked s.ticks)) := by
  constructor
  · intro h
    simp [trainFlit, hup, hread, h]
  · intro h
    simp [trainFlit, hup, hread, h]

/-- A training flit in phase 2 moves the filter taps. -/
theorem trainFlit_of_tuning {b d : Bytes} {x y : BitVec 12} {n : Bool} {k : Link} (hread : readFlit b = some (d, x, y, 2, n))
    (hph : (s.link l.val).phase = 2)
    (hk : k = { s.link l.val with
      taps := (s.link l.val).taps.zipIdx.map fun (v, i) =>
        if i / 3 = fld (fieldAt d 4 1) 0 1 then tapStep v (fld (fieldAt d 5 1) (2 * (i % 3)) 2) else v
      peerConverged := bitAt (fieldAt d 4 1) 7, localConverged := bitAt s.free.1.toNat 0 }) :
    trainFlit l b s = s.free.2.setLink l.val (if k.peerConverged && k.localConverged then k.enter 3 s.ticks else k) := by
  subst hk
  simp only [trainFlit, hup, hread, hph, Bool.not_true, Bool.false_eq_true, if_false, if_true, ne_eq, not_true_eq_false]

end up

/-- A good flit of phase 4. -/
theorem good_of_phase_four {k : Link} {locked : Bool} {now : Nat} (hph : k.phase = 4) :
    (k.goodFlits < 63 → k.good locked now = { k with goodFlits := k.goodFlits + 1 }) ∧
    (63 ≤ k.goodFlits → k.st ≠ .reinit →
      (locked = true → k.good locked now = k.enter 5 now) ∧ (locked = false → k.good locked now = { k with goodFlits := 64 })) := by
  refine ⟨fun h => ?_, fun h hst => ⟨fun hl => ?_, fun hl => ?_⟩⟩
  · rw [Link.good, if_pos hph, if_pos (.inl (by omega)), Nat.min_eq_left (by omega)]
  · rw [Link.good, if_pos hph, if_neg (by rw [hl]; simp; omega), if_neg hst]
  · rw [Link.good, if_pos hph, if_pos (.inr ⟨hst, by rw [hl]; rfl⟩), Nat.min_eq_right (by omega)]

/-- Settles O49: each command of the bring-up moves the link on from its phase, or leaves it there. -/
theorem linkBringUp : Obligations.LinkBringUp := by
  unfold Obligations.LinkBringUp
  intro l s hup k
  refine ⟨⟨fun hph hc => ?_, fun h => congrArg Host.Outcome.next (detect_of_not h)⟩, fun hph hlate => ?_,
    fun h => congrArg Host.Outcome.next (linkPhaseTimeout_of_not h), fun h => if_pos h, fun h => ?_, ?_, fun hlock hph => ?_, fun h => ?_, ?_, ?_⟩
  · have hex : exec (.detect l) s = .next (s.setLink l.val (k.enter (if k.st = .reinit ∧ !k.retried then 3 else 2) s.ticks)) :=
      congrArg Host.Outcome.next (detect_of_cabled hup hph hc)
    refine ⟨fun hst => ?_, fun hst hre => ?_, fun hst hre => ?_⟩
    · rw [hex, if_neg (by simp [hst])]
      rfl
    · rw [hex, if_pos (by simp [hst, hre])]
      rfl
    · rw [hex, if_neg (by simp [hre])]
      rfl
  · have hex : exec (.linkPhaseTimeout l) s = .next _ := congrArg Host.Outcome.next (linkPhaseTimeout_of_late hup hph hlate)
    refine ⟨fun hre => ?_, fun hre hst => ?_, fun hre hst => ?_⟩
    · rw [hex, if_neg (by rw [show (s.link l.val).retried = false from hre]; exact Bool.false_ne_true)]
      rfl
    · rw [hex, if_pos hre, if_pos hst]
    · rw [hex, if_pos hre, if_neg hst]
  · rw [Link.afresh, if_neg h]
    exact ⟨rfl, rfl, rfl, rfl, rfl⟩
  · intro p t hlock htake hph w id k'
    have hex : exec (.ident l) s = .next _ := congrArg Host.Outcome.next (ident_of_taken hup hlock htake hph)
    refine ⟨fun hid hpod => ?_, fun hid => ?_⟩
    · rw [hex, if_pos ⟨hid, by simpa using hpod⟩]
      rfl
    · rw [hex, if_neg fun h => h.1 hid]
  · exact congrArg Host.Outcome.next (if_pos (by rw [hup, hlock, show (s.link l.val).phase = 5 from hph]; rfl))
  · refine congrArg Host.Outcome.next (if_neg ?_)
    obtain h | h := h
    · simp [h]
    · simp only [Bool.and_eq_true, beq_iff_eq, not_and]
      exact fun _ => h
  · exact fun p t htake => congrArg Host.Outcome.next (credit_of_taken hup htake)
  · intro b d x y n hread
    obtain ⟨h3, h4⟩ := trainFlit_of_read (l := l) hup hread
    refine ⟨fun hph => congrArg Host.Outcome.next (h3 hph), fun hph => ?_, ?_⟩
    · obtain ⟨hfew, hmany⟩ := good_of_phase_four (k := k) (locked := s.locked) (now := s.ticks) hph
      have hex : exec (.trainFlit l b) s = .next (s.setLink l.val (k.good s.locked s.ticks)) := congrArg Host.Outcome.next (h4 hph)
      refine ⟨fun h => by rw [hex, hfew h], fun h hst => ⟨fun hl => ?_, fun hl => ?_⟩⟩
      · rw [hex, (hmany h hst).1 hl]
        rfl
      · rw [hex, (hmany h hst).2 hl]
    · intro hph k'
      exact congrArg Host.Outcome.next (trainFlit_of_tuning hup hread hph rfl)

end Sys2Proof.Machine
end


section
/-! PROOFS. Reading descriptors and accepting them. -/

namespace Sys2Proof.Machine

variable {s t : State} {r : Nat} {ans : HostAns} {e e' : Live}

/-! ### The read of an entry -/

/-- Answering invalidations changes only the ports and what goes out. -/
theorem settleInvals_rest (s : State) : s.settleInvals = { s with ports := s.settleInvals.ports, out := s.settleInvals.out } := by
  let only (t : State) : Prop := t = { s with ports := t.ports, out := t.out }
  unfold State.settleInvals
  refine List.foldlRecOn (motive := only) _ _ rfl fun t ht p _ => ?_
  refine List.foldlRecOn (motive := only) _ _ ht fun u hu v _ => ?_
  split
  · exact hu
  · show _ = _
    rw [show u = _ from hu]
    rfl

/-- The read that is under way takes its answer. -/
theorem descriptorRead_of_sent (hr : s.running = true) (h : s.entrySent = some r) :
    descriptorRead ans s = ((s.dropEntry r).settleInvals).takeEntry r ans := by
  simp only [descriptorRead, hr, h, Bool.not_true, Bool.false_eq_true, if_false]

section take
variable {b : Bytes} (herr : ans.err ≠ some .poisoned) (hb : hostWhole ans 64 = some b)
include herr hb

theorem takeEntry_plain (hext : (fieldAt b 0 8).testBit 8 = false) :
    s.takeEntry r ans = s.modRing r fun g => g.take s.ticks 1 b none false := by
  simp only [State.takeEntry, herr, hb, bitAt_eq_testBit, hext, false_and, if_false, Bool.not_false, if_true]

theorem takeEntry_half (hext : (fieldAt b 0 8).testBit 8 = true) (hfew : ((s.ring r).sqTail - (s.ring r).sqHead).toNat < 2) :
    s.takeEntry r ans = s.modRing r fun g => { g with halfSeen := true } := by
  simp only [State.takeEntry, herr, hb, bitAt_eq_testBit, hext, false_and, if_false, Bool.not_true, Bool.false_eq_true, hfew, if_true]

theorem takeEntry_whole {x : Bytes} (hext : (fieldAt b 0 8).testBit 8 = true) (hfew : 2 ≤ ((s.ring r).sqTail - (s.ring r).sqHead).toNat)
    (hx : hostWhole ans 128 = some x) : s.takeEntry r ans =
      ((s.askEntry r 1).dropEntry r).modRing r fun g => g.take ((s.askEntry r 1).dropEntry r).ticks 2 b (some (x.drop 64)) false := by
  simp only [State.takeEntry, herr, hb, bitAt_eq_testBit, hext, false_and, if_false, Bool.not_true, Bool.false_eq_true, Nat.not_lt.mpr hfew, hx]

end take

theorem ticks_askEntry (s : State) (r n : Nat) : (s.askEntry r n).ticks = s.ticks := by
  unfold State.askEntry
  rw [(HostSide.hostStart ..).rest]

theorem running_askEntry (s : State) (r n : Nat) : (s.askEntry r n).running = s.running := by
  unfold State.askEntry
  rw [(HostSide.hostStart ..).rest]
  rfl

/-- With no read under way the entry of the next ring is asked for. -/
theorem descriptorRead_of_next (hr : s.running = true) (h : s.entrySent = none) :
    (s.nextRing = none → descriptorRead ans s = s) ∧
    ∀ r, s.nextRing = some r → ∀ t, t = State.askEntry { s with ringTurn := Tab.put 0 s.ringTurn (s.ring r).cls.num r } r 0 →
      (t.entrySent ≠ some r → descriptorRead ans s = t) ∧ (t.entrySent = some r → descriptorRead ans s = descriptorRead ans t) := by
  refine ⟨fun hn => ?_, fun r hn t ht => ?_⟩
  · simp only [descriptorRead, hr, h, hn, Bool.not_true, Bool.false_eq_true, if_false]
  · have heq : descriptorRead ans s = if t.entrySent = some r then ((t.dropEntry r).settleInvals).takeEntry r ans else t := by
      subst ht
      simp only [descriptorRead, hr, h, hn, Bool.not_true, Bool.false_eq_true, if_false]
    have hrt : t.running = true := by
      rw [ht, running_askEntry]
      exact hr
    refine ⟨fun hne => heq.trans (if_neg hne), fun hsent => ?_⟩
    rw [heq, if_pos hsent, descriptorRead_of_sent hrt hsent]

/-! ### Acceptance -/

/-- A reservation changes nothing of the entry. -/
theorem entry_reserve (h : s.reserve r e = some e') : e'.entry = e.entry ∧ e'.ext = e.ext := by
  unfold State.reserve at h
  split at h
  · obtain rfl := Option.some.inj h
    exact ⟨rfl, rfl⟩
  · dsimp only at h
    split at h
    · cases h
    · split at h
      · cases h
      · split at h
        · split at h
          · obtain ⟨k, -, rfl⟩ := Option.map_eq_some_iff.mp h
            exact ⟨rfl, rfl⟩
          · obtain rfl := Option.some.inj h
            exact ⟨rfl, rfl⟩
        · obtain rfl := Option.some.inj h
          exact ⟨rfl, rfl⟩

/-- The state with a head entry among the accepted descriptors of its ring. -/
abbrev State.acceptedHead (s : State) (r : Nat) (e : Live) : State :=
  { s with acceptCount := s.acceptCount + 1 }.setRing r { s.ring r with
    head := none, watched := false, live := (s.ring r).live ++ [{ e with acceptedAt := s.ticks, order := s.acceptCount }] }

/-- The slot that an accepted service request takes in its service. -/
def State.markSlot (u : State) (p : Nat) (e : Live) : State :=
  if e.op = 0x0C ∧ e.items ≠ 0 then
    match u.svc p (bfld e.entry 8 4 0 4) with
    | some v => u.setSvc p (bfld e.entry 8 4 0 4) (some { v with used := v.used ++ [e.slot] })
    | none => u
  else u

/-- The versions of its tables that a request takes depend on its entry alone. -/
theorem serviceVersions_congr (h : e'.entry = e.entry) (s : State) (p : Nat) : s.serviceVersions p e' = s.serviceVersions p e := by
  cases e
  cases e'
  cases h
  rfl

/-- What an entry creates depends on it and its extension alone. -/
theorem creates_congr (h : e'.entry = e.entry) (hx : e'.ext = e.ext) (s : State) (r : Nat) : s.creates r e' = s.creates r e := by
  cases e
  cases e'
  cases h
  cases hx
  rfl

section accept
variable {r : RingIx} (hr : s.running = true) (hh : (s.ring r.val).head = some e) (hst : (s.ring r.val).st = .active)
  (hacc : (s.ring r.val).acceptable e = true)
include hr hh hst hacc

theorem descriptorAccept_failed (hf : e.failed = true) :
    descriptorAccept r s = (s.acceptedHead r.val e).completeWith r.val e.pos stHostFault := by
  simp only [descriptorAccept, hh, hr, hst, hacc, if_pos hf, Bool.not_true, bne_self_eq_false, Bool.or_self, Bool.false_eq_true, if_false]
  rfl

theorem descriptorAccept_bad (hf : e.failed = false)
    (hbad : e.headBad = true ∨ s.makesExpress (s.ringPort r.val) e = true ∧ (s.ring r.val).cls ≠ .express) :
    descriptorAccept r s = (s.acceptedHead r.val e).completeWith r.val e.pos stBadDescriptor := by
  have hb : (e.headBad || s.makesExpress (s.ringPort r.val) e && (s.ring r.val).cls != .express) = true := by
    simpa using hbad
  simp only [descriptorAccept, hh, hr, hst, hacc, if_neg (Bool.eq_false_iff.mp hf), hb, Bool.not_true, bne_self_eq_false, Bool.or_self, Bool.false_eq_true, if_false, if_true]
  rfl

section good
variable (hf : e.failed = false) (hhead : e.headBad = false)
  (hcls : s.makesExpress (s.ringPort r.val) e = true → (s.ring r.val).cls = .express)
include hf hhead hcls

theorem descriptorAccept_waits (hres : s.reserve r.val e = none) : descriptorAccept r s = s := by
  have hb : (e.headBad || s.makesExpress (s.ringPort r.val) e && (s.ring r.val).cls != .express) = false := by
    simpa [hhead] using hcls
  simp only [descriptorAccept, hh, hr, hst, hacc, if_neg (Bool.eq_false_iff.mp hf), hb, hres, Bool.not_true, bne_self_eq_false, Bool.or_self, Bool.false_eq_true, if_false]

/-- An entry in order that creates no `Inst` joins the accepted descriptors. -/
theorem descriptorAccept_plain (hres : s.reserve r.val e = some e') (hc : s.creates r.val e = none) :
    descriptorAccept r s = (s.acceptedHead r.val { e' with versions := s.serviceVersions (s.ringPort r.val) e' }).markSlot (s.ringPort r.val) e' := by
  have hb : (e.headBad || s.makesExpress (s.ringPort r.val) e && (s.ring r.val).cls != .express) = false := by
    simpa [hhead] using hcls
  obtain ⟨hentry, hext⟩ := entry_reserve hres
  have hc' : s.creates r.val { e' with versions := s.serviceVersions (s.ringPort r.val) e' } = none := (creates_congr hentry hext s r.val).trans hc
  simp only [descriptorAccept, hh, hr, hst, hacc, if_neg (Bool.eq_false_iff.mp hf), hb, hres, hc', Bool.not_true, bne_self_eq_false, Bool.or_self,
    Bool.false_eq_true, if_false, Option.isNone_none, if_true]
  rfl

/-- One that creates an `Inst` takes its number. -/
theorem descriptorAccept_numbered (hres : s.reserve r.val e = some e') (hc : s.creates r.val e ≠ none) :
    descriptorAccept r s = (State.acceptedHead { s with instCount := (s.instCount + 1) % 2 ^ 32 } r.val
      { e' with versions := s.serviceVersions (s.ringPort r.val) e', num := some ((s.instCount + 1) % 2 ^ 32) }).markSlot (s.ringPort r.val) e' := by
  have hb : (e.headBad || s.makesExpress (s.ringPort r.val) e && (s.ring r.val).cls != .express) = false := by
    simpa [hhead] using hcls
  obtain ⟨hentry, hext⟩ := entry_reserve hres
  have hsome : (s.creates r.val { e' with versions := s.serviceVersions (s.ringPort r.val) e' }).isNone = false := by
    rw [creates_congr (e := e) (by exact hentry) (by exact hext) s r.val]
    exact Option.isNone_eq_false_iff.mpr (Option.ne_none_iff_isSome.mp hc)
  simp only [descriptorAccept, hh, hr, hst, hacc, if_neg (Bool.eq_false_iff.mp hf), hb, hres, hsome, Bool.not_true, bne_self_eq_false, Bool.or_self,
    Bool.false_eq_true, if_false]
  rfl

end good
end accept

/-- Settles O32: a read takes the entry it asked for, with its extension where it announces one, and an entry in order is accepted. -/
theorem descriptorIntake : Obligations.DescriptorIntake := by
  unfold Obligations.DescriptorIntake
  refine ⟨?_, ?_, ?_⟩
  · intro ans s r hr hsent g u head
    have hex : exec (.descriptorRead ans) s = .next (u.takeEntry r ans) := congrArg Host.Outcome.next (descriptorRead_of_sent hr hsent)
    have hrest : u = { s.dropEntry r with ports := u.ports, out := u.out } := settleInvals_rest ..
    have hg : u.ring r = g := by
      rw [hrest]
      rfl
    have hticks : u.ticks = s.ticks := by
      rw [hrest]
      rfl
    have hport : u.ringPort r = s.ringPort r := by
      rw [hrest]
      rfl
    refine ⟨fun b herr hb => ⟨fun hext => ?_, fun hext hfew => ?_, fun x hext hfew hx => ?_⟩, fun herr hb => ?_⟩
    · rw [hex, takeEntry_plain herr hb hext, hticks]
      rfl
    · rw [hex, takeEntry_half herr hb hext (by rw [hg]; exact hfew), State.modRing, hg]
    · have hticks' : ((u.askEntry r 1).dropEntry r).ticks = s.ticks := (ticks_askEntry u r 1).trans hticks
      rw [hex, takeEntry_whole herr hb hext (by rw [hg]; exact hfew) hx, hticks']
      rfl
    · have hfail : u.takeEntry r ans = (u.modRing r fun g => g.take u.ticks 1 (List.replicate 64 0#8) none true).report (lgPort (u.ringPort r)) []
          eHostFault r (g.sqBase + 64 * (g.sqHead.toNat % 2 ^ g.sqLog2)) 0 := by
        simp only [State.takeEntry, herr, hb, hg, false_and, if_false, reduceCtorEq, Option.some.injEq]
        rfl
      rw [hex, hfail, hticks, hport]
      rfl
  · intro ans s hr hnone
    obtain ⟨hidle, hnext⟩ := descriptorRead_of_next (ans := ans) hr hnone
    refine ⟨fun h => congrArg Host.Outcome.next (hidle h), ?_⟩
    intro r hn t
    obtain ⟨hwait, htake⟩ := hnext r hn t rfl
    exact ⟨fun h => congrArg Host.Outcome.next (hwait h), fun h => congrArg Host.Outcome.next (htake h)⟩
  · intro r s e hr g p hh hst hacc accepted n v
    refine ⟨fun hf => congrArg Host.Outcome.next (descriptorAccept_failed hr hh hst hacc hf),
      fun hf hbad => congrArg Host.Outcome.next (descriptorAccept_bad hr hh hst hacc hf hbad), fun hf hhead hcls => ⟨fun hres => ?_, fun hc hitems => ?_, ?_⟩⟩
    · exact congrArg Host.Outcome.next (descriptorAccept_waits hr hh hst hacc hf hhead hcls hres)
    · have hres : s.reserve r.val e = some e := by rw [State.reserve, hc]
      refine congrArg Host.Outcome.next ((descriptorAccept_plain hr hh hst hacc hf hhead hcls hres hc).trans ?_)
      exact if_neg fun h => h.2 (hitems h.1)
    · intro e' hc hres u
      obtain ⟨hentry, -⟩ := entry_reserve hres
      have hex : descriptorAccept r s = u.markSlot p e' := by
        rw [descriptorAccept_numbered hr hh hst hacc hf hhead hcls hres hc, serviceVersions_congr hentry]
        rfl
      have hop : e'.op = e.op := by rw [Live.op, hentry, Live.op]
      refine ⟨fun hne => ?_, fun w ho hitems hw => ?_⟩
      · exact congrArg Host.Outcome.next (hex.trans (if_neg fun h => hne (hop ▸ h.1)))
      · have hn : bfld e'.entry 8 4 0 4 = v := by
          rw [bfld, hentry]
          rfl
        refine congrArg Host.Outcome.next (hex.trans ((if_pos ⟨hop.trans ho, hitems⟩).trans ?_))
        rw [hn]
        have hw' : u.svc p v = some w := hw
        rw [hw']

end Sys2Proof.Machine
end


section
/-! PROOFS. Translations, page requests and the completions of host reads. -/

namespace Sys2Proof.Machine

variable {s : State} {p : PortIx} {acc : Nat} {a : HostAcc}

section going
variable (hrest : s.portRests p.val = false)
include hrest

section open_link
variable (hopen : s.linkOpen p.val = true) (fn : FnIx) (pasid : Option (BitVec 20)) (page pages : Nat)
include hopen

/-- An invalidation drops the translations it covers. -/
theorem exec_atsInvalidation : exec (.atsInvalidation p fn pasid page pages) s = .next ((s.setPort p.val { s.port p.val with
    atc := (s.port p.val).atc.filter fun t => !(t.fn == fn.val && t.pasid == pasid && decide (t.page < page + pages ∧ page < t.page + t.pages)),
    invals := (s.port p.val).invals ++ [(fn.val, page, s.pageReads p.val fn.val pasid page pages)] }).settleInvals) :=
  congrArg Host.Outcome.next ((atCfg_of_going hrest).trans (if_neg (by rw [hopen]; exact Bool.false_ne_true)))

/-- A translation that nothing waits for changes nothing. -/
theorem exec_translationCompletion_of_none (ans : XlatAns) (hw : s.accs.filter (s.awaitsPage p.val fn.val pasid page pages) = [])
    (he : (s.port p.val).aheadHit fn.val pasid page pages = []) : exec (.translationCompletion p fn pasid page pages ans) s = .next s := by
  refine congrArg Host.Outcome.next ((atCfg_of_going hrest).trans (if_pos ?_))
  rw [hw, he, hopen]
  rfl

/-- A translation goes to the accesses that wait for it, and lets them go on or ends them. -/
theorem exec_translationCompletion_of_some (ans : XlatAns) (h : s.accs.filter (s.awaitsPage p.val fn.val pasid page pages) ≠ [] ∨
      (s.port p.val).aheadHit fn.val pasid page pages ≠ []) :
    let wait := s.accs.filter (s.awaitsPage p.val fn.val pasid page pages)
    let early := (s.port p.val).aheadHit fn.val pasid page pages
    let bad := wait.filter fun a => !ans.read || (a.kind.writes && !ans.write)
    let x := s.port p.val
    let atc := if ans.read = true then addAtc x.atc { fn := fn.val, pasid := pasid, page := page, pages := pages, base := ans.base, write := ans.write }
      else x.atc
    let t := s.setPort p.val { x with ahead := x.ahead.filter (fun k => !early.contains k), atc := atc }
    let u : State := { t with accs := t.accs.map fun a => { a with
      st := if bad.contains a then .pageReq else if wait.contains a then .queued else a.st
      since := if bad.contains a then t.ticks else a.since } }
    exec (.translationCompletion p fn pasid page pages ans) s = .next (if (s.fnc p.val fn.val).pri && !(s.fnc p.val fn.val).priFailed then u.goOn
      else (bad.foldl (fun s a => s.accLost a true) u).goOn) := by
  refine congrArg Host.Outcome.next ((atCfg_of_going hrest).trans (if_neg ?_))
  rw [hopen, Bool.not_true, Bool.false_or, Bool.and_eq_true, List.isEmpty_iff, List.isEmpty_iff, not_and_or]
  exact h

end open_link

/-- A page response ends the page request of its group. -/
theorem exec_pageRequestResponse (fn : FnIx) (group : Nat) {k : Nat × Nat × Option (BitVec 20) × Nat}
    (hk : (s.port p.val).pageOut.find? (fun k => k.1 == group && k.2.1 == fn.val) = some k) (ans : PageAns) :
    exec (.pageRequestResponse p fn group ans) s = .next (State.goOn (
      let mine (a : HostAcc) : Bool := a.port == p.val && a.st == .pageReq && s.pageOf a == k.2
      let t := s.modPort p.val fun x => { x with pageOut := x.pageOut.erase k }
      match ans with
      | .success => { t with accs := updWhere mine (fun a => { a with st := .queued }) t.accs }
      | .invalidRequest => (s.accs.filter mine).foldl (fun s a => s.accLost a true) t
      | .responseFailure => (s.accs.filter fun a => a.port == p.val && a.fn == fn.val && a.st == .pageReq).foldl (fun s a => s.accLost a true)
          ((t.modPort p.val fun x => { x with pageOut := x.pageOut.filter fun k => k.2.1 != fn.val }).modFnc p.val fn.val fun x =>
            { x with priFailed := true }))) := by
  refine congrArg Host.Outcome.next ((atCfg_of_going hrest).trans ?_)
  simp only [pageRequestResponse, hk] <;> cases ans <;> rfl

end going

section access
variable (ha : s.accOf acc = some a) (hp : a.port = p.val)
include ha

section late
variable (hdue : a.since + s.faultLimit p.val ≤ s.ticks)
include hp hdue

/-- A page that is not answered in time ends the accesses that wait for it. -/
theorem faultTimeout_of_page (hst : a.st = .pageReq) (hout : (s.port p.val).pageOut.any (fun y => y.2 == s.pageOf a) = true) :
    faultTimeout p acc s =
      ((s.accs.filter fun b => b.port == p.val && b.st == .pageReq && s.pageOf b == s.pageOf a).foldl (fun s b => s.accLost b true) s).goOn := by
  simp only [faultTimeout, ha]
  exact if_pos (by simp only [hp, hdue, hst, hout, beq_self_eq_true, decide_true, Bool.and_self])

/-- A read that is held too long ends. -/
theorem faultTimeout_of_held (hst : a.st = .held) (hk : a.kind.posted = false) : faultTimeout p acc s = (s.accLost a true).goOn := by
  simp only [faultTimeout, ha]
  refine (if_neg (by simp [hst])).trans (if_pos ?_)
  simp only [hp, hdue, hst, hk, beq_self_eq_true, decide_true, Bool.not_false, Bool.and_self]

end late

theorem faultTimeout_of_early (h : s.ticks < a.since + s.faultLimit p.val) : faultTimeout p acc s = s := by
  simp only [faultTimeout, ha]
  have hno : ¬ a.since + s.faultLimit p.val ≤ s.ticks := Nat.not_le.mpr h
  exact (if_neg (by simp [hno])).trans (if_neg (by simp [hno]))

/-- The completion of a read that was sent waits for its port or reaches what asked for it. -/
theorem hostReadCompletion_of_sent (hp : a.port = p.val) (hst : a.st = .sent) (hown : a.why.ownAnswer = false) (hopen : s.linkOpen p.val = true)
    (ans : HostAns) : hostReadCompletion p acc ans s =
      if s.portWaits (.answer p.val acc ans) then { s with portIn := s.portIn ++ [.answer p.val acc ans] } else (s.hostAnswer a ans).goOn := by
  simp only [hostReadCompletion, ha]
  exact if_neg (by simp [hp, hst, hown, hopen])

end access

theorem hostAnswer_of_lost {ans : HostAns} (h : hostWhole ans a.len = none) (hwhy : ∀ c id, a.why ≠ .xfer c id) :
    s.hostAnswer a ans = s.accLost a true := by
  simp only [State.hostAnswer, h]

/-- Settles O52: translations, page answers, time limits and completions go to the accesses that wait for them. -/
theorem hostAccesses : Obligations.HostAccesses := by
  unfold Obligations.HostAccesses
  intro p s
  refine ⟨fun hopen hrest fn pasid page pages => ⟨exec_atsInvalidation hrest hopen fn pasid page pages, ?_⟩, ?_, fun acc a ha hp => ?_⟩
  · intro wait early
    refine ⟨fun hw he ans => exec_translationCompletion_of_none hrest hopen fn pasid page pages ans hw he, ?_⟩
    intro h ans bad x atc t u
    have hex := exec_translationCompletion_of_some hrest hopen fn pasid page pages ans h
    refine ⟨fun hpri hfail => hex.trans (congrArg Host.Outcome.next (if_pos ?_)), fun hno => hex.trans (congrArg Host.Outcome.next (if_neg ?_))⟩
    · rw [hpri, hfail]
      rfl
    · obtain h | h := hno
      · simp [h]
      · simp [h]
  · intro hrest fn group k hk mine t
    have hex := exec_pageRequestResponse hrest fn group hk
    exact ⟨hex .success, hex .invalidRequest, hex .responseFailure⟩
  · refine ⟨fun hst hout hdue => congrArg Host.Outcome.next (faultTimeout_of_page ha hp hdue hst hout),
      fun hst hk hdue => congrArg Host.Outcome.next (faultTimeout_of_held ha hp hdue hst hk),
      fun h => congrArg Host.Outcome.next (faultTimeout_of_early ha h), fun hst hown hopen ans => ?_⟩
    have hex : exec (.hostReadCompletion p acc ans) s = .next _ := congrArg Host.Outcome.next (hostReadCompletion_of_sent ha hp hst hown hopen ans)
    refine ⟨fun hw => hex.trans (congrArg Host.Outcome.next (if_pos hw)), fun hw => ?_⟩
    have hgo : exec (.hostReadCompletion p acc ans) s = .next (s.hostAnswer a ans).goOn :=
      hex.trans (congrArg Host.Outcome.next (if_neg (by rw [hw]; exact Bool.false_ne_true)))
    refine ⟨fun d hd => ?_, fun hd hwhy => ?_, fun hd c id hwhy => ?_⟩
    · rw [hgo]
      simp only [State.hostAnswer, hd]
    · rw [hgo, hostAnswer_of_lost hd hwhy]
    · rw [hgo]
      simp only [State.hostAnswer, hd, hwhy]

end Sys2Proof.Machine
end


section
/-! PROOFS. Answers of other devices, acknowledgements and fences. -/

namespace Sys2Proof.Machine

variable {s t : State} {l : LinkIx} {m : Msg} {f : FenceIn}

section taken
variable (hr : s.running = true)
include hr

/-- The bytes of a `RESULT` gather under their tag. -/
theorem result_of_taken (h : s.takeMsg l.val clRs 1 = some (m, t)) : result l s = { t with
    responses := (t.responses.filter fun x => !(x.1 == m.head.src && x.2.1 == fld m.head.info.toNat 0 32)) ++
      [(m.head.src, fld m.head.info.toNat 0 32,
        ((t.responses.find? fun x => x.1 == m.head.src && x.2.1 == fld m.head.info.toNat 0 32).map (·.2.2)).getD [] ++ m.body)] } := by
  simp only [result, hr, h, Bool.not_true, Bool.false_eq_true, if_false]

theorem mgAck_of_taken (h : s.takeMsg l.val clMg 7 = some (m, t)) : mgAck l s = t.mgAcked m.head.src (fld m.head.info.toNat 0 16) := by
  simp only [mgAck, hr, h, Bool.not_true, Bool.false_eq_true, if_false]

/-- The effect of an answer on the work that asked: what came is handed over, or its error noted. -/
def Prog.answered (p : Prog) (d tag st count : Nat) (b : Bytes) : Prog :=
  { p with
    asks := p.asks.filter fun a => !(a.dev == d && a.tag == tag)
    parts := if st = 0 then p.parts ++ (p.asks.filter fun a => a.dev == d && a.tag == tag).flatMap fun a => partsOf a b count else p.parts
    err := if p.err = 0 then st else p.err }

/-- A `STATUS` ends the wait of the work that asked, or the copy of a segment. -/
theorem status_of_taken {u : State} {d tag st count : Nat} {b : Bytes} (h : s.takeMsg l.val clRs 2 = some (m, t)) (hd : d = m.head.src)
    (htag : tag = fld m.head.info.toNat 0 32) (hst : st = fld (fieldAt m.body 0 8) 0 8) (hcount : count = fld (fieldAt m.body 0 8) 16 48)
    (hb : b = ((t.responses.find? fun x => x.1 == d && x.2.1 == tag).map (·.2.2)).getD [])
    (hu : u = { t with responses := t.responses.filter (fun x => !(x.1 == d && x.2.1 == tag)), rqOut := t.rqOut.erase (d, tag) }) :
    (∀ who, u.askOwner d tag = some who → status l s = (u.modProg who fun p => p.answered d tag st count b).progress) ∧
    (u.askOwner d tag = none → status l s = (u.copyAnswered d tag st).progress) := by
  subst hd htag hst hcount hb hu
  refine ⟨fun who hw => ?_, fun hw => ?_⟩
  · simp only [status, hr, h, hw, Bool.not_true, Bool.false_eq_true, if_false]
    rfl
  · simp only [status, hr, h, hw, Bool.not_true, Bool.false_eq_true, if_false]

/-- A fence that has come in a class is noted. -/
theorem fence_of_taken {c : Nat} {old : FenceIn}
    (h : [clMg, clRq, clRs, clRd, clBc].findSome? (fun c => (s.takeMsg l.val c 15).map fun x => (c, x)) = some (c, m, t))
    (hold : (t.fencesIn.find? fun f => f.dev == m.head.src && f.id == fld m.head.info.toNat 0 32).getD
      ⟨m.head.src, fld m.head.info.toNat 0 32, [], []⟩ = old) :
    fence l s = State.settleFences { t with
      fencesIn := (t.fencesIn.filter fun f => !(f.dev == m.head.src && f.id == fld m.head.info.toNat 0 32)) ++
        [{ old with
          classes := old.classes ++ [c]
          tags := if c = clRq then (t.remotes.filter fun r => r.dev == m.head.src).map (·.tag) else old.tags }] } := by
  subst hold
  simp only [fence, hr, h, Bool.not_true, Bool.false_eq_true, if_false]

/-- The last acknowledgement of a fence completes its descriptor. -/
theorem fenceAck_of_taken {g : FenceWait} (h : s.takeMsg l.val clRs 14 = some (m, t))
    (hg : t.fences.find? (fun f => f.id == fld m.head.info.toNat 0 32) = some g) :
    fenceAck l s = if (g.waiting.filter (· != m.head.src)).isEmpty then
        { t with fences := t.fences.filter fun x => x.id != fld m.head.info.toNat 0 32 }.completeWith g.ring g.pos stOk
      else { t with
        fences := t.fences.map fun x => if x.id == fld m.head.info.toNat 0 32 then { x with waiting := g.waiting.filter (· != m.head.src) } else x } := by
  simp only [fenceAck, hr, h, hg, Bool.not_true, Bool.false_eq_true, if_false]
  rfl

end taken

/-! ### A fence alone -/

/-- The one fence that is noted is answered once it has come in all five classes and what came before it is. -/
theorem settleFences_single (h : s.fencesIn = [f]) : s.settleFences =
    if f.classes.length = 5 ∧ !f.tags.any (fun t => s.remotes.any fun r => r.dev == f.dev && r.tag == t) then
      { s with fencesIn := [] }.sendMsg f.dev clRs 14 f.id [] else s := by
  simp only [State.settleFences, h, List.foldl_cons, List.foldl_nil, List.erase_cons_head]

theorem prog_answered_error {d tag st count : Nat} {b : Bytes} (h : st ≠ 0) (p : Prog) :
    p.answered d tag st count b = { p with asks := p.asks.filter (fun a => !(a.dev == d && a.tag == tag)), err := if p.err = 0 then st else p.err } := by
  rw [Prog.answered, if_neg h]

theorem prog_answered_ok (d tag count : Nat) (b : Bytes) (p : Prog) :
    p.answered d tag 0 count b = { p with
      asks := p.asks.filter (fun a => !(a.dev == d && a.tag == tag))
      parts := p.parts ++ (p.asks.filter fun a => a.dev == d && a.tag == tag).flatMap fun a => partsOf a b count } := by
  have h : (if p.err = 0 then 0 else p.err) = p.err := by
    split
    · next h0 => exact h0.symm
    · rfl
  rw [Prog.answered, if_pos rfl, h]

/-- Settles O45: what an answer, an acknowledgement or a fence brings reaches what waited for it. -/
theorem answerMessages : Obligations.AnswerMessages := by
  unfold Obligations.AnswerMessages
  intro l s hr
  refine ⟨fun m t h => congrArg Host.Outcome.next (result_of_taken hr h), ?_, fun m t h => congrArg Host.Outcome.next (mgAck_of_taken hr h), ?_, ?_, ?_⟩
  · intro m t h d tag st b u
    obtain ⟨hown, hcopy⟩ := status_of_taken (u := u) hr h rfl rfl rfl rfl rfl rfl
    refine ⟨fun who hw hst => congrArg Host.Outcome.next ((hown who hw).trans ?_), fun who hw hst => congrArg Host.Outcome.next ((hown who hw).trans ?_),
      fun hw => congrArg Host.Outcome.next (hcopy hw)⟩
    · rw [show fld (fieldAt m.body 0 8) 0 8 = 0 from hst]
      exact congrArg (fun g => (u.modProg who g).progress) (funext fun p => prog_answered_ok ..)
    · exact congrArg (fun g => (u.modProg who g).progress) (funext fun p => prog_answered_error hst p)
  · intro m t h d id hnone hnil
    have hfirst : [clMg, clRq, clRs, clRd, clBc].findSome? (fun c => (s.takeMsg l.val c 15).map fun x => (c, x)) = some (clMg, m, t) := by
      rw [List.findSome?_cons, h]
      rfl
    refine congrArg Host.Outcome.next ((fence_of_taken hr hfirst (congrArg (fun x => Option.getD x _) hnone)).trans ?_)
    rw [hnil, List.filter_nil, List.nil_append]
    exact (settleFences_single rfl).trans (if_neg (by simp))
  · intro c m t f h hone hdev hid hlen tags
    have hmatch : (f.dev == m.head.src && f.id == fld m.head.info.toNat 0 32) = true := by
      rw [hdev, hid, beq_self_eq_true, beq_self_eq_true]
      rfl
    have hex := fence_of_taken hr h (old := f) (by simp only [hone, List.find?_cons, hmatch, Option.getD_some])
    have hfilter : t.fencesIn.filter (fun f => !(f.dev == m.head.src && f.id == fld m.head.info.toNat 0 32)) = [] := by
      simp only [hone, List.filter_cons, hmatch, Bool.not_true, Bool.false_eq_true, if_false, List.filter_nil]
    rw [hfilter, List.nil_append, ← hdev, settleFences_single rfl] at hex
    have hfive : (f.classes ++ [c]).length = 5 := by rw [List.length_append, hlen]; rfl
    have hrest (x : Nat) : (t.remotes.any fun r => r.dev == f.dev && r.tag == x) = true ↔ ∃ r ∈ t.remotes, r.dev = f.dev ∧ r.tag = x := by
      simp only [List.any_eq_true, Bool.and_eq_true, beq_iff_eq]
    refine ⟨fun hnone => ?_, fun ⟨r, hr', hrd, hrt⟩ => ?_⟩
    · have hno : (tags.any fun x => t.remotes.any fun r => r.dev == f.dev && r.tag == x) = false :=
        List.any_eq_false.mpr fun x hx h =>
          have ⟨r, hr', hrd, hrx⟩ := (hrest x).mp h
          hnone r hr' hrd (hrx ▸ hx)
      exact congrArg Host.Outcome.next (hex.trans (if_pos ⟨hfive, congrArg (!·) hno⟩))
    · have hyes : (tags.any fun x => t.remotes.any fun r => r.dev == f.dev && r.tag == x) = true :=
        List.any_eq_true.mpr ⟨r.tag, hrt, (hrest r.tag).mpr ⟨r, hr', hrd, rfl⟩⟩
      exact congrArg Host.Outcome.next (hex.trans (if_neg fun hx => Bool.false_ne_true ((congrArg (!·) hyes).symm.trans hx.2)))
  · intro m t g h hg
    have hex : exec (.fenceAck l) s = .next _ := congrArg Host.Outcome.next (fenceAck_of_taken hr h hg)
    refine ⟨fun hall => ?_, fun ⟨d, hd, hne⟩ => ?_⟩
    · rw [hex, if_pos]
      simpa [List.filter_eq_nil_iff] using hall
    · rw [hex, if_neg]
      · simp only [beq_iff_eq]
      · simp only [List.isEmpty_iff, List.filter_eq_nil_iff, bne_iff_ne, not_forall]
        exact ⟨d, hd, not_not.mpr hne⟩

end Sys2Proof.Machine
end


section
/-! PROOFS. Units that fail and come back, page writes and trackers. -/

namespace Sys2Proof.Machine

variable {s : State}

/-- A clock that loses its lock takes its function to rung 2. -/
theorem pllLockLoss_of_running (hr : s.running = true) {u : FnUnit} (h0 : u.fn ≠ 0) (h4 : u.fn ≠ 4) (h7 : u.fn ≠ 7) (y : BitVec 64) :
    pllLockLoss u y s = s.climb u lgDevice [0, 1] eClock 2 u.fn.val (BitVec.ofNat 64 (u.fn.val + u.unit * 2 ^ 16)) y :=
  if_neg (by simp [hr, h0, h4, h7])

/-- A failed transfer of a bridge is replayed, until it has been replayed too often. -/
theorem bridgeCrcFail_of_running (hr : s.running = true) {h : Fin 2} (hl : (s.unitSt ⟨3, h.val⟩).lost = false) {x : BitVec 64} {same : List Nat}
    {most : Bool} (hsame : same = (s.unitSt ⟨3, h.val⟩).climbs.filter fun t => t == x.toNat)
    (hmost : decide (s.climbCount 3 ≤ same.length + 1) = most) :
    bridgeCrcFail h x s = (s.setUnitSt ⟨3, h.val⟩ { s.unitSt ⟨3, h.val⟩ with climbs := if most then [] else same ++ [x.toNat] }).climb ⟨3, h.val⟩
      (lgHub h.val) [0, 1] eBridge (if most then 2 else 1) 0 x (BitVec.ofNat 64 (same.length + 1)) := by
  subst hsame hmost
  exact if_neg (by simp [hr, hl])

section link
variable {l : LinkIx} (hup : s.linksRun = true) (hst : (s.link l.val).st = .active)
include hup hst

/-- An active link that resends without progress, or gets no acknowledgement, restarts. -/
theorem linkReinit_of_active {resent : Bool} (hres : decide (s.climbCount 5 ≤ (s.link l.val).resendCount) = resent) :
    linkReinit l s = if !(resent || (!(s.link l.val).replay.isEmpty && decide ((s.link l.val).lastAckAt + 2000 ≤ s.ticks))) then s
      else s.climb ⟨5, l.val⟩ lgLinks [0, 1] eLinkReinit 2 l.val (BitVec.ofNat 64 l.val) (if resent then 1 else 2) := by
  subst hres
  simp only [linkReinit, hup, hst, bne_self_eq_false, Bool.not_true, Bool.false_or]

end link

section unit
variable {u : FnUnit} (ha : s.awake = true) (hre : (s.unitSt u).reinit = true)
include ha hre

theorem reinitComplete_ok : reinitComplete u true s =
    ((List.range 128).foldl State.restore (s.setUnitSt u { s.unitSt u with reinit := false }).portsResume).goOn :=
  (if_neg (by simp [ha, hre])).trans (if_neg (by simp))

theorem reinitComplete_failed : reinitComplete u false s = s.lose u (s.unitSt u).code :=
  (if_neg (by simp [ha, hre])).trans (if_pos rfl)

end unit

/-- The oldest page programmed in a hub goes into tier 2. -/
theorem flashWriteComplete_of_found {h : Fin 2} {w : FlashWrite} (hw : s.flashWrites.find? (fun w => w.hub == h.val) = some w)
    (hr : s.running = true) (hup : s.fnUp 3 h.val = true) :
    flashWriteComplete h s = ((if !w.whole && s.poisoned (4096 * w.page) 1 then
      ({ s with flashWrites := s.flashWrites.erase w }.dwrite (4096 * w.page) w.data).poisonAt (4096 * w.page)
      else { s with flashWrites := s.flashWrites.erase w }.dwrite (4096 * w.page) w.data).progress).settle := by
  simp only [flashWriteComplete, hw]
  exact if_neg (by simp [hr, hup])

/-- Settles O42: a unit that fails climbs the ladder, is lost or comes back, and a page that was written takes its place. -/
theorem unitRecovery : Obligations.UnitRecovery := by
  unfold Obligations.UnitRecovery
  refine ⟨fun s => ⟨fun u y hr h0 h4 h7 => congrArg Host.Outcome.next (pllLockLoss_of_running hr h0 h4 h7 y), ?_, ?_, ?_⟩, ?_, ?_, ?_⟩
  · intro h x hr hl st same
    refine ⟨fun hfew => ?_, fun hmany => ?_⟩
    · exact congrArg Host.Outcome.next (bridgeCrcFail_of_running (most := false) hr hl rfl (decide_eq_false (Nat.not_le.mpr hfew)))
    · exact congrArg Host.Outcome.next (bridgeCrcFail_of_running (most := true) hr hl rfl (decide_eq_true hmany))
  · intro l hup hst
    refine ⟨fun hmany => ?_, fun hfew hrep hack => ?_, fun hfew hrep => ?_⟩
    · exact congrArg Host.Outcome.next (linkReinit_of_active (resent := true) hup hst (decide_eq_true hmany))
    · refine congrArg Host.Outcome.next ((linkReinit_of_active (resent := false) hup hst (decide_eq_false (Nat.not_le.mpr hfew))).trans
        (if_neg ?_))
      simp [hrep, hack]
    · refine congrArg Host.Outcome.next ((linkReinit_of_active (resent := false) hup hst (decide_eq_false (Nat.not_le.mpr hfew))).trans
        (if_pos ?_))
      simp [hrep]
  · exact fun u ha hre => ⟨congrArg Host.Outcome.next (reinitComplete_ok ha hre), congrArg Host.Outcome.next (reinitComplete_failed ha hre)⟩
  · intro h s w hw hr hup t
    have hiff : (!w.whole && s.poisoned (4096 * w.page) 1) = true ↔ w.whole = false ∧ s.poisoned (4096 * w.page) 1 = true := by
      rw [Bool.and_eq_true, Bool.not_eq_true']
    refine congrArg Host.Outcome.next ((flashWriteComplete_of_found hw hr hup).trans ?_)
    simp only [hiff]
    rfl
  · intro h s hnone
    refine congrArg Host.Outcome.next ?_
    simp only [flashWriteComplete, hnone]
  · exact fun src line s hr => congrArg Host.Outcome.next (if_pos hr)

end Sys2Proof.Machine
end


section
/-! PROOFS. Requests of other devices. -/

namespace Sys2Proof.Machine

variable {s t : State} {l : LinkIx} {m : Msg}

/-! ### Requests that are served, and copies -/

section running
variable (hr : s.running = true)
include hr

theorem siftReq_of_running : siftReq l s = match s.takeMsg l.val clRq 1 with
    | some (m, s) => ((s.newRemote m.head 1 false m.body).resumeOne (whoRemote m.head.src (fld m.head.info.toNat 0 32))).progress
    | none => s := if_neg (by rw [hr]; exact Bool.false_ne_true)

theorem nuReq_of_running : nuReq l s = match s.takeMsg l.val clRq 2 with
    | some (m, s) => ((s.newRemote m.head 2 false m.body).resumeOne (whoRemote m.head.src (fld m.head.info.toNat 0 32))).progress
    | none => s := if_neg (by rw [hr]; exact Bool.false_ne_true)

/-- A well-formed `FORWARD` is served as the request it carries. -/
theorem forward_of_good (h : s.takeMsg l.val clRq 5 = some (m, t)) (hk : fieldAt m.body 0 8 = 1 ∨ fieldAt m.body 0 8 = 2) (hlen : 8 ≤ m.body.length) :
    forward l s = ((t.newRemote m.head (fieldAt m.body 0 8) true (m.body.drop 8)).resumeOne
      (whoRemote m.head.src (fld m.head.info.toNat 0 32))).progress := by
  have hkind : fld (fieldAt m.body 0 8) 0 4 = fieldAt m.body 0 8 := by
    rw [fld_zero_eq]
    omega
  simp only [forward, hr, h, hkind, Bool.not_true, Bool.false_eq_true, if_false]
  exact if_neg (by omega)

/-- An ill-formed `FORWARD` is refused. -/
theorem forward_of_bad (h : s.takeMsg l.val clRq 5 = some (m, t))
    (hbad : fieldAt m.body 0 8 = 0 ∨ 2 < fieldAt m.body 0 8 ∨ m.body.length < 8) : forward l s =
      t.sendAnswer m.head.src (fld m.head.info.toNat 0 32) (fld m.head.info.toNat 32 1) [] rsBadDescriptor 0 := by
  simp only [forward, hr, h, Bool.not_true, Bool.false_eq_true, if_false]
  refine if_pos ?_
  rw [fld_zero_eq]
  omega

theorem blockCopy_of_waiting (h : s.takeMsg l.val clRq 6 = some (m, t)) (hk : bfld m.body 0 8 0 3 ≠ 0)
    (hw : s.sweepTakes (bfld m.body 8 8 0 12) m.head.src = false) : blockCopy l s = s := by
  simp only [blockCopy, hr, h, Bool.not_true, Bool.false_eq_true, if_false]
  exact if_pos ⟨hk, by rw [hw]; rfl⟩

/-- The body of a `BLOCK_COPY` is in order. -/
abbrev copyGood (m : Msg) (kind n : Nat) : Prop :=
  kind ≤ 3 ∧ fld (fieldAt m.body 0 8) 7 57 = 0 ∧ fld (fieldAt m.body 8 8) 17 47 = 0 ∧ bfld m.body 16 8 48 16 = 0 ∧
    bfld m.body 24 8 32 32 = 0 ∧ m.body.length = 32 + roundUp n 8 ∧ zeroRange m.body (32 + n) (roundUp n 8 - n) = true

omit hr in
/-- A body that one of the tests of R363 refuses is not in order. -/
theorem not_copyGood (kind n : Nat) : (3 < kind ∨ fld (fieldAt m.body 0 8) 7 57 ≠ 0 ∨ fld (fieldAt m.body 8 8) 17 47 ≠ 0 ∨ bfld m.body 16 8 48 16 ≠ 0 ∨
      bfld m.body 24 8 32 32 ≠ 0 ∨ m.body.length ≠ 32 + roundUp n 8 ∨ (!zeroRange m.body (32 + n) (roundUp n 8 - n)) = true) ↔ ¬ copyGood m kind n := by
  simp only [copyGood, not_and_or, Nat.not_le, ne_eq, Bool.not_eq_true', Bool.not_eq_true]

/-- A copy that has been taken, and the status that it is answered with. -/
def State.copied (u : State) (m : Msg) (load : Nat) : Nat × State :=
  let kind := fld (fieldAt m.body 0 8) 0 3
  let graph := fld (fieldAt m.body 8 8) 0 16
  let index := bfld m.body 16 8 0 48
  let n := fieldAt m.body 24 4
  if ¬ copyGood m kind n then (rsBadDescriptor, u)
  else if u.assisted 4 = false ∧ 2 ^ fld (u.dreg 0x1028) 8 6 ≤ load then (rsNuOverflow, u)
  else if 2 ≤ kind then (rsOk, { u with
    staged := (u.staged.filter fun y => !(y.dev == m.head.src && y.kind == kind && y.graph == graph && y.index == index)) ++
      [⟨m.head.src, kind, graph, index, slice m.body 32 n⟩] })
  else u.storeCopy (whoRemote m.head.src (fld m.head.info.toNat 0 32)) m.head.src
    ⟨⟨kind % 4, Nat.mod_lt _ (by decide)⟩, BitVec.ofNat 16 graph, bitAt (fieldAt m.body 8 8) 16, index⟩ (fld (fieldAt m.body 0 8) 3 2)
    (fld (fieldAt m.body 0 8) 5 2) (slice m.body 32 n)

section copied
omit hr
variable {u : State} {load : Nat}

theorem copied_bad (hg : ¬ copyGood m (fld (fieldAt m.body 0 8) 0 3) (fieldAt m.body 24 4)) : u.copied m load = (rsBadDescriptor, u) := by
  rw [State.copied, if_pos hg]

variable (hg : copyGood m (fld (fieldAt m.body 0 8) 0 3) (fieldAt m.body 24 4))
include hg

theorem copied_loaded (hl : u.assisted 4 = false ∧ 2 ^ fld (u.dreg 0x1028) 8 6 ≤ load) : u.copied m load = (rsNuOverflow, u) := by
  rw [State.copied, if_neg (not_not.mpr hg), if_pos hl]

variable (hl : ¬ (u.assisted 4 = false ∧ 2 ^ fld (u.dreg 0x1028) 8 6 ≤ load))
include hl

theorem copied_staged (hk : 2 ≤ fld (fieldAt m.body 0 8) 0 3) : u.copied m load = (rsOk, { u with
    staged := (u.staged.filter fun y => !(y.dev == m.head.src && y.kind == fld (fieldAt m.body 0 8) 0 3 &&
        y.graph == fld (fieldAt m.body 8 8) 0 16 && y.index == bfld m.body 16 8 0 48)) ++
      [⟨m.head.src, fld (fieldAt m.body 0 8) 0 3, fld (fieldAt m.body 8 8) 0 16, bfld m.body 16 8 0 48,
        slice m.body 32 (fieldAt m.body 24 4)⟩] }) := by
  rw [State.copied, if_neg (not_not.mpr hg), if_neg hl, if_pos hk]

theorem copied_stored {k : Fin 4} (hk : k.val = fld (fieldAt m.body 0 8) 0 3) (hlt : fld (fieldAt m.body 0 8) 0 3 < 2) :
    u.copied m load = u.storeCopy (whoRemote m.head.src (fld m.head.info.toNat 0 32)) m.head.src
      ⟨k, BitVec.ofNat 16 (fld (fieldAt m.body 8 8) 0 16), bitAt (fieldAt m.body 8 8) 16, bfld m.body 16 8 0 48⟩
      (fld (fieldAt m.body 0 8) 3 2) (fld (fieldAt m.body 0 8) 5 2) (slice m.body 32 (fieldAt m.body 24 4)) := by
  have hkk : (⟨fld (fieldAt m.body 0 8) 0 3 % 4, Nat.mod_lt _ (by decide)⟩ : Fin 4) = k :=
    Fin.ext ((Nat.mod_eq_of_lt (by omega)).trans hk.symm)
  rw [State.copied, if_neg (not_not.mpr hg), if_neg hl, if_neg (by omega), hkk]

end copied

theorem blockCopy_of_taken (h : s.takeMsg l.val clRq 6 = some (m, t))
    (htake : bfld m.body 0 8 0 3 = 0 ∨ s.sweepTakes (bfld m.body 8 8 0 12) m.head.src = true) {r : Nat × State}
    (hres : (t.newRemote m.head 6 false []).copied m (t.shardWindow.map fun v => fld v.2.toNat 0 32 + fld v.2.toNat 32 32).sum = r) :
    blockCopy l s = (r.2.endRemote m.head.src (fld m.head.info.toNat 0 32) r.1 0 []).progress := by
  subst hres
  simp only [blockCopy, hr, h, Bool.not_true, Bool.false_eq_true, if_false]
  refine (if_neg fun hx => ?_).trans (congrArg
    (fun r : Nat × State => (r.2.endRemote m.head.src (fld m.head.info.toNat 0 32) r.1 0 []).progress)
    (if_congr (not_copyGood _ _) rfl (if_congr (and_congr_left' ?_) rfl rfl)))
  · exact htake.elim hx.1 fun hy => by simp [hy] at hx
  · exact iff_of_eq (Bool.not_eq_true' _)

end running

/-! ### Partial records of other ranks -/

theorem withWindow_nil (h : s.windows = []) (p n : Nat) (v : Bool) (tf : Window → Bool) (f : Window → Window) :
    s.withWindow p n v tf f = { s with windows := [f (Window.new p n v)] } := by
  simp only [State.withWindow, h, List.any_nil, Bool.false_eq_true, if_false, List.nil_append]

theorem withWindow_single {x : Window} (h : s.windows = [x]) {tf : Window → Bool} (hx : tf x = true) (p n : Nat) (v : Bool) (f : Window → Window) :
    s.withWindow p n v tf f = { s with windows := [f x] } := by
  simp only [State.withWindow, h, List.any_cons, hx, Bool.true_or, if_true, modFirst]

section nodes
variable (h : s.takeMsg l.val clRq 3 = some (m, t))
include h

/-- Parameters that no window may have are refused. -/
theorem updateNode_of_bad (hbad : ¬ (fld (fieldAt m.body 0 8) 46 18 = 0 ∧ 9 ≤ fld (fieldAt m.body 0 8) 17 4 ∧ fld (fieldAt m.body 0 8) 17 4 ≤ 12 ∧
      fld (fieldAt m.body 0 8) 28 6 ≤ fld (fieldAt m.body 0 8) 22 6)) :
    updateNode l s = t.sendAnswer m.head.src (fld m.head.info.toNat 0 32) (fld m.head.info.toNat 32 1) [] rsBadDescriptor 0 := by
  simp only [updateNode, h]
  exact if_pos (by omega)

section good
variable (hgood : fld (fieldAt m.body 0 8) 46 18 = 0 ∧ 9 ≤ fld (fieldAt m.body 0 8) 17 4 ∧ fld (fieldAt m.body 0 8) 17 4 ≤ 12 ∧
  fld (fieldAt m.body 0 8) 28 6 ≤ fld (fieldAt m.body 0 8) 22 6)
include hgood

/-- A table that the port may not write is refused. -/
theorem updateNode_of_denied {st : Nat} (hst : t.tableAccess (fld m.head.info.toNat 32 1) (fld (fieldAt m.body 0 8) 0 16) true = st) (h0 : st ≠ 0) :
    updateNode l s = t.sendAnswer m.head.src (fld m.head.info.toNat 0 32) (fld m.head.info.toNat 32 1) [] st 0 := by
  simp only [updateNode, h]
  refine (if_neg (by omega)).trans ?_
  split
  · next hz =>
    exact absurd (hst.symm.trans hz) h0
  · rw [hst, if_neg h0]

section access
variable {tb : Table} {ns : List (Option Nat × TreeItem)} {par : WinPar} {port table : Nat} {ver : Bool} {d : Nat}
  (hport : port = fld m.head.info.toNat 32 1) (htable : table = fld (fieldAt m.body 0 8) 0 16) (hver : ver = bitAt (fieldAt m.body 0 8) 16)
  (hd : d = fld (fieldAt m.body 0 8) 34 12)
  (hpar : par = ⟨fld (fieldAt m.body 0 8) 17 4, bitAt (fieldAt m.body 0 8) 21, fieldAt m.body 8 8, fld (fieldAt m.body 0 8) 22 6,
    fld (fieldAt m.body 0 8) 28 6⟩)
  (hacc : t.tableAccess port table true = 0) (htb : t.tableOf table = some tb)
include hport htable hver hd hpar hacc htb

/-- Records for a table that the port may write: refused, held while a shard moves, or joined to the window that takes them. -/
theorem updateNode_of_access {differs : Bool}
    (hdiff : (match t.windows.find? (Window.takesNodes port table ver d m.head.src) with
      | some w => w.par.isSome && w.par != some par
      | none => false) = differs)
    (hns : ns = (nodesParse par.s tb.len m.body.length (m.body.drop 16)).map fun x => (if x.1 = dfltRecord then none else some x.1, x.2)) :
    updateNode l s =
      if !nodesWhole par.s tb.len m.body.length (m.body.drop 16) then
        t.sendAnswer m.head.src (fld m.head.info.toNat 0 32) port [] rsBadDescriptor 0
      else if differs then t.sendAnswer m.head.src (fld m.head.info.toNat 0 32) port [] rsChainMismatch 0
      else if ns.any fun n => t.shardMoving tb.scope (shardOf table (n.1.getD 0 / 16)) then s
      else ((t.withWindow port table ver (Window.takesNodes port table ver d m.head.src) fun w =>
        if w.closed then w
        else { w with
          par := some par, nodes := w.nodes ++ ns.filter fun n => (t.nodeHome tb ver n.1).1 == t.devId,
          srcs := w.srcs ++ (ns.filter fun n => (t.nodeHome tb ver n.1).1 == t.devId).map (fun _ => m.head.src),
          away := w.away ++ (ns.filter fun n => (t.nodeHome tb ver n.1).1 != t.devId).map (fun _ => (d, m.head.src)) }).passNodes tb ver port par d
            (ns.filter fun n => (t.nodeHome tb ver n.1).1 != t.devId)).sendAnswer m.head.src (fld m.head.info.toNat 0 32) port [] rsOk 0 := by
  subst hport htable hver hd hpar hdiff hns
  simp only [updateNode, h]
  refine (if_neg (by omega)).trans ?_
  simp only [hacc, htb]
  refine if_congr Iff.rfl rfl (if_congr Iff.rfl rfl (if_congr (iff_of_eq (congrArg (· = true) (congrArg (List.any _) (funext fun n => ?_)))) rfl rfl))
  cases n.1 <;> rfl

end access
end good
end nodes

/-! ### End markers of other ranks -/

theorem windows_sendAnswer (s : State) (dst tag port : Nat) (results : Bytes) (st n : Nat) :
    (s.sendAnswer dst tag port results st n).windows = s.windows := windows_foldl windows_release _ s

/-- The window that takes a rank's marker, with it: the rank is among those whose records have all come, if they have. -/
def Window.marked (x : Window) (d dev count : Nat) (bad : Bool) : Window :=
  if x.wholeFrom d dev count then { x with ranks := x.ranks ++ [d], froms := x.froms ++ [dev], spoiled := x.spoiled || bad } else x

theorem marked_same (x : Window) (d dev count : Nat) (bad : Bool) : (x.marked d dev count bad).wait = x.wait ∧
    (x.marked d dev count bad).closed = x.closed ∧ ∀ p n v, (x.marked d dev count bad).of p n v = x.of p n v := by
  unfold Window.marked
  split <;> exact ⟨rfl, rfl, fun _ _ _ => rfl⟩

section marker
variable (h : s.takeMsg l.val clRq 4 = some (m, t))
include h

theorem updateEnd_of_bad (hbad : ¬ (fld (fieldAt m.body 0 8) 30 2 = 0 ∧ m.body.length = 8)) :
    updateEnd l s = t.sendAnswer m.head.src (fld m.head.info.toNat 0 32) (fld m.head.info.toNat 32 1) [] rsBadDescriptor 0 := by
  simp only [updateEnd, h]
  exact if_pos (by omega)

section good
variable (hgood : fld (fieldAt m.body 0 8) 30 2 = 0 ∧ m.body.length = 8)
include hgood

theorem updateEnd_of_denied {st : Nat} (hst : t.tableAccess (fld m.head.info.toNat 32 1) (fld (fieldAt m.body 0 8) 0 16) true = st) (h0 : st ≠ 0) :
    updateEnd l s = t.sendAnswer m.head.src (fld m.head.info.toNat 0 32) (fld m.head.info.toNat 32 1) [] st 0 := by
  simp only [updateEnd, h]
  refine (if_neg (by omega)).trans ?_
  split
  · next hz => exact absurd (hst.symm.trans hz) h0
  · rw [hst]

/-- A marker joins the window that takes it, is answered, and lets the `APPLY` that waits go on. -/
theorem updateEnd_of_window {x x' : Window} {port table d : Nat} {ver : Bool} (hport : port = fld m.head.info.toNat 32 1)
    (htable : table = fld (fieldAt m.body 0 8) 0 16) (hver : ver = bitAt (fieldAt m.body 0 8) 16) (hd : d = fld (fieldAt m.body 0 8) 17 12)
    (hacc : t.tableAccess port table true = 0) (hx : t.windows = [x]) (htk : x.takesFrom port table ver d = true) (hopen : x.closed = false)
    (hx' : x.marked d m.head.src (fld (fieldAt m.body 0 8) 32 32) (bitAt (fieldAt m.body 0 8) 29) = x') {u : State}
    (hu : State.sendAnswer { t with windows := [x'] } m.head.src (fld m.head.info.toNat 0 32) port [] rsOk 0 = u) :
    (x.wait = none → updateEnd l s = u) ∧
    ∀ a, x.wait = some a → updateEnd l s = u.runEnds (a.core, a.req) fun v => match v.reqOf a.core a.req with
      | some q => v.runApply a.core q
      | none => v := by
  obtain ⟨hwait, hclosed, hof⟩ := marked_same x d m.head.src (fld (fieldAt m.body 0 8) 32 32) (bitAt (fieldAt m.body 0 8) 29)
  rw [hx'] at hwait hclosed hof
  have hone : x.of port table ver = true := (Bool.and_eq_true_iff.mp htk).1
  have hlate : dropLate [x'] = [x'] := by
    rw [dropLate, List.filter_cons, hclosed, hopen]
    rfl
  have hjoin : ({ t.withWindow port table ver (Window.takesFrom port table ver d) (fun w =>
      if w.wholeFrom d m.head.src (fld (fieldAt m.body 0 8) 32 32) then
        { w with ranks := w.ranks ++ [d], froms := w.froms ++ [m.head.src], spoiled := w.spoiled || bitAt (fieldAt m.body 0 8) 29 }
      else w) with windows := dropLate (t.withWindow port table ver (Window.takesFrom port table ver d) (fun w =>
      if w.wholeFrom d m.head.src (fld (fieldAt m.body 0 8) 32 32) then
        { w with ranks := w.ranks ++ [d], froms := w.froms ++ [m.head.src], spoiled := w.spoiled || bitAt (fieldAt m.body 0 8) 29 }
      else w)).windows } : State) = { t with windows := [x'] } := by
    rw [State.withWindow, hx, if_pos (by rw [List.any_cons, htk, Bool.true_or])]
    show ({ t with windows := dropLate (modFirst _ _ [x]) } : State) = _
    rw [modFirst, if_pos htk]
    exact congrArg (fun w => ({ t with windows := dropLate [w] } : State)) hx' |>.trans (by rw [hlate])
  have hwins : u.windows = [x'] := by
    rw [← hu, windows_sendAnswer]
  subst hport htable hver hd
  refine ⟨fun hw => ?_, fun a hw => ?_⟩
  · simp only [updateEnd, h]
    refine (if_neg (by omega)).trans ?_
    simp only [hacc, hjoin, hu, hwins, List.find?_cons, hof, hone, hwait, hw, Option.isSome_none, Bool.and_false, Bool.false_and, List.find?_nil]
  · simp only [updateEnd, h]
    refine (if_neg (by omega)).trans ?_
    simp only [hacc, hjoin, hu, hwins, List.find?_cons, hof, hone, hwait, hw, hclosed, hopen, Option.isSome_some, Bool.not_false,
      Bool.and_self] <;> rfl

end good
end marker

/-- Settles O44: each request of another device is taken up, waits, or is answered with the status that says why not. -/
theorem requestMessages : Obligations.RequestMessages := by
  unfold Obligations.RequestMessages
  intro l s
  refine ⟨fun hr => ?_, fun hr => ⟨?_, ?_, ?_, ?_, ?_, ?_, ?_, ?_, ?_⟩, ?_, ?_, ?_, ?_⟩
  · have hno : (!s.running) = true := by rw [hr]; rfl
    exact ⟨congrArg Host.Outcome.next (if_pos hno), congrArg Host.Outcome.next (if_pos hno), congrArg Host.Outcome.next (if_pos hno),
      congrArg Host.Outcome.next (if_pos hno)⟩
  · intro m t h
    refine congrArg Host.Outcome.next ((siftReq_of_running hr).trans ?_)
    rw [h]
  · intro h
    refine congrArg Host.Outcome.next ((siftReq_of_running hr).trans ?_)
    rw [h]
  · intro m t h
    refine congrArg Host.Outcome.next ((nuReq_of_running hr).trans ?_)
    rw [h]
  · intro h
    refine congrArg Host.Outcome.next ((nuReq_of_running hr).trans ?_)
    rw [h]
  · exact fun m t h => ⟨fun hk hlen => congrArg Host.Outcome.next (forward_of_good hr h hk hlen),
      fun hbad => congrArg Host.Outcome.next (forward_of_bad hr h hbad)⟩
  · intro h
    refine congrArg Host.Outcome.next ?_
    simp only [forward, h, ite_self]
  · exact fun m t h hk hw => congrArg Host.Outcome.next (blockCopy_of_waiting hr h hk hw)
  · intro m t h htake tag kind graph index n u answered good loaded
    have hex (st : Nat) (v : State) (hres : u.copied m (t.shardWindow.map fun v => fld v.2.toNat 0 32 + fld v.2.toNat 32 32).sum = (st, v)) :
        exec (.blockCopy l) s = .next (answered v st) := by
      have hcopy := blockCopy_of_taken (r := (st, v)) hr h htake hres
      exact congrArg Host.Outcome.next hcopy
    exact ⟨fun hg => hex _ _ (copied_bad hg), fun hg hl => hex _ _ (copied_loaded hg hl), fun hg hl hk => hex _ _ (copied_staged hg hl (by omega)),
      fun hg hl k hk hlt => hex _ _ (copied_stored hg hl hk hlt)⟩
  · intro h
    refine congrArg Host.Outcome.next ?_
    simp only [blockCopy, h, ite_self]
  · intro m t h w table ver d par port answer good
    refine ⟨fun hbad => congrArg Host.Outcome.next (updateNode_of_bad h hbad),
      fun hgood hacc => congrArg Host.Outcome.next (updateNode_of_denied h hgood rfl hacc), ?_⟩
    intro tb hgood hacc htb ns
    have hex {differs : Bool} (hdiff : (match t.windows.find? (Window.takesNodes port table ver d m.head.src) with
        | some w => w.par.isSome && w.par != some par
        | none => false) = differs) := updateNode_of_access (ns := ns) h hgood (port := port) (table := table) rfl rfl rfl rfl rfl hacc htb hdiff rfl
    refine ⟨fun hwhole => congrArg Host.Outcome.next ((hex rfl).trans (if_pos (by rw [hwhole]; rfl))), fun hwhole => ?_⟩
    intro here gone joined
    have hno : ¬ (!nodesWhole par.s tb.len m.body.length (m.body.drop 16)) = true := by
      rw [hwhole]
      exact Bool.false_ne_true
    have hstill (hstill : ∀ n ∈ ns, t.shardMoving tb.scope (shardOf table (n.1.getD 0 / 16)) = false) :
        ¬ (ns.any fun n => t.shardMoving tb.scope (shardOf table (n.1.getD 0 / 16))) = true :=
      List.any_eq_true.not.mpr fun ⟨n, hn, hm⟩ => Bool.false_ne_true ((hstill n hn).symm.trans hm)
    refine ⟨fun hnil hmov => ?_, fun hnil ⟨n, hn, hm⟩ => ?_, fun x hx htk => ⟨fun hp hne => ?_, fun hp hmov hopen => ?_⟩⟩
    · have hdiff := hex (differs := false) (by rw [hnil]; rfl)
      refine congrArg Host.Outcome.next (hdiff.trans ((if_neg hno).trans ((if_neg Bool.false_ne_true).trans ((if_neg (hstill hmov)).trans ?_))))
      rw [withWindow_nil hnil]
      rfl
    · have hdiff := hex (differs := false) (by rw [hnil]; rfl)
      exact congrArg Host.Outcome.next (hdiff.trans ((if_neg hno).trans ((if_neg Bool.false_ne_true).trans
        (if_pos (List.any_eq_true.mpr ⟨n, hn, hm⟩)))))
    · have hdiff := hex (differs := true) (by
        rw [hx, List.find?_cons, htk]
        show (x.par.isSome && x.par != some par) = true
        rw [Option.isSome_iff_ne_none.mpr hp, bne_iff_ne.mpr hne]
        rfl)
      exact congrArg Host.Outcome.next (hdiff.trans ((if_neg hno).trans (if_pos rfl)))
    · have hdiff := hex (differs := false) (by
        rw [hx, List.find?_cons, htk]
        show (x.par.isSome && x.par != some par) = false
        obtain hp | hp := hp
        · rw [hp]
          rfl
        · rw [hp, bne_self_eq_false, Bool.and_false])
      refine congrArg Host.Outcome.next (hdiff.trans ((if_neg hno).trans ((if_neg Bool.false_ne_true).trans ((if_neg (hstill hmov)).trans ?_))))
      rw [withWindow_single hx htk, if_neg (by rw [hopen]; exact Bool.false_ne_true)]
  · intro m t h w table ver d port answer good
    refine ⟨fun hbad => congrArg Host.Outcome.next (updateEnd_of_bad h hbad),
      fun hgood hacc => congrArg Host.Outcome.next (updateEnd_of_denied h hgood rfl hacc), ?_⟩
    intro x hgood hacc hx htk hopen
    have hex {x' : Window} (hx' : x.marked d m.head.src (fld w 32 32) (bitAt w 29) = x') :=
      updateEnd_of_window h hgood rfl rfl rfl rfl hacc hx htk hopen hx' rfl
    refine ⟨?_, fun hpart hwait => ?_⟩
    · intro hwhole u
      have hmark : x.marked d m.head.src (fld w 32 32) (bitAt w 29) =
          { x with ranks := x.ranks ++ [d], froms := x.froms ++ [m.head.src], spoiled := x.spoiled || bitAt w 29 } := if_pos hwhole
      have hend := hex hmark
      exact ⟨fun hwait => congrArg Host.Outcome.next (hend.1 hwait), fun a hwait => congrArg Host.Outcome.next (hend.2 a hwait)⟩
    · have hend := hex (if_neg (by rw [hpart]; exact Bool.false_ne_true))
      have hsame : ({ t with windows := [x] } : State) = t := by rw [← hx]
      refine congrArg Host.Outcome.next ((hend.1 hwait).trans ?_)
      rw [hsame]
  · intro h
    refine congrArg Host.Outcome.next ?_
    simp only [updateNode, h]
  · intro h
    refine congrArg Host.Outcome.next ?_
    simp only [updateEnd, h]

end Sys2Proof.Machine
end


section
/-! PROOFS. Table switches, shard maps and sweep markers. -/

namespace Sys2Proof.Machine

variable {s t : State} {l : LinkIx} {m : Msg}

section running
variable (hr : s.running = true)
include hr

theorem prepare_of_taken (h : s.takeMsg l.val clMg 1 = some (m, t)) : prepare l s =
    (t.ackMg m.head).sendMg m.head.src 2 (fld m.head.info.toNat 0 48)
      (natLe 8 (if t.switchOk (fld (fld m.head.info.toNat 0 48) 0 16) 1 (fld (fld m.head.info.toNat 0 48) 17 1) then 1 else 0)) := by
  simp only [prepare, hr, h, Bool.not_true, Bool.false_eq_true, if_false]

section answer
variable {u : State} {w : Switch} {yes : Bool} (h : s.takeMsg l.val clMg 2 = some (m, t)) (hu : u = t.ackMg m.head)
  (hw : u.switches.find? (fun w => w.info (u.ringPort w.ring) == fld m.head.info.toNat 0 48 && w.waiting.contains m.head.src) = some w)
  (hyes : yes = bitAt (fieldAt m.body 0 8) 0)
include h hu hw hyes

/-- The last answer ends the switch: it is done here and told to the others, or refused. -/
theorem answer_of_last (hlast : w.waiting = [m.head.src]) {v : State}
    (hv : v = if w.refused || !yes then { u with switches := u.switches.filter fun x => x != w }.completeWith w.ring w.pos stBadDescriptor
      else ((({ u with switches := u.switches.filter fun x => x != w }.flip w.table w.version).scopeOthers 1).foldl
        (fun (s : State) d => s.sendMg d 3 (w.info (s.ringPort w.ring)) [])
        ({ u with switches := u.switches.filter fun x => x != w }.flip w.table w.version)).completeWith w.ring w.pos stOk) :
    answer l s = v.startSwitches w.table (v.switches.length + 1) := by
  have hnil : ([m.head.src].filter (· != m.head.src)).isEmpty = true := by simp
  subst hu hyes hv
  simp only [answer, hr, h, hw, hlast, hnil, Bool.not_true, Bool.false_eq_true, if_false]

/-- An answer before the last is noted. -/
theorem answer_of_more (hmore : ∃ d ∈ w.waiting, d ≠ m.head.src) :
    answer l s = { u with
      switches := updWhere (fun x => x == w) (fun _ => { w with waiting := w.waiting.filter (· != m.head.src), refused := w.refused || !yes })
        u.switches } := by
  have hsome : (w.waiting.filter (· != m.head.src)).isEmpty = false := by
    rw [Bool.eq_false_iff, ne_eq, List.isEmpty_iff, List.filter_eq_nil_iff]
    exact fun hall => by
      obtain ⟨d, hd, hne⟩ := hmore
      exact hall d hd (bne_iff_ne.mpr hne)
  subst hu hyes
  simp only [answer, hr, h, hw, hsome, Bool.not_true, Bool.not_false, Bool.false_eq_true, if_false, if_true]

end answer

theorem commit_of_taken (h : s.takeMsg l.val clMg 3 = some (m, t)) :
    commit l s = (t.ackMg m.head).flip (fld m.head.info.toNat 0 16) (bitAt m.head.info.toNat 16) := by
  simp only [commit, hr, h, Bool.not_true, Bool.false_eq_true, if_false]

theorem mapChange_of_taken {i : Nat} {u : State} (h : s.takeMsg l.val clMg 4 = some (m, t)) (hi : i = fld m.head.info.toNat 0 26)
    (hu : u = (t.ackMg m.head).setEntry16 (if fld i 12 2 = 1 then 0x34000 else 0x36000) (fld i 0 12) (fld (fieldAt m.body 0 8) 0 16)) :
    mapChange l s = State.progress { u with
      staged := u.staged.filter (fun x => x.dev != m.head.src)
      mapWaits := u.mapWaits ++ [(⟨m.head.src, i, u.openTags m.head.src, u.nuOpen⟩ : MapWait)] } := by
  subst hi hu
  simp only [mapChange, hr, h, Bool.not_true, Bool.false_eq_true, if_false]

theorem mapAck_of_taken {u : State} {x : ShardMove} (h : s.takeMsg l.val clMg 5 = some (m, t)) (hu : u = t.ackMg m.head)
    (hx : u.shardMoves.find? (fun x => x.shard == fld m.head.info.toNat 0 12 && x.scope == fld m.head.info.toNat 12 2 && x.transferred) = some x) :
    mapAck l s = ((u.modShard x.who fun _ => { x with acks := x.acks.filter (· != m.head.src) }).endShard
      { x with acks := x.acks.filter (· != m.head.src) }).progress := by
  subst hu
  simp only [mapAck, hr, h, hx, Bool.not_true, Bool.false_eq_true, if_false]

end running

/-- A sweep whose end markers do not come in time ends; before, or when it has not computed, nothing happens. -/
theorem sweepTimeout_of_live {g : Fin 4096} {gr : Graph} {w : Sweep} (hg : s.graphOf g.val = some gr) (hw : s.sweepOf g.val = some w) :
    (w.computed = true → w.since + w.limit ≤ s.ticks → (∃ d ∈ s.scopeOthers gr.scope, ∀ m ∈ s.marksOf w, m.1 ≠ d) →
      sweepTimeout g s = (s.finishSweep w stRankMissing w.iter w.readPlane w.delta).runSweeps g.val) ∧
    (w.computed = false ∨ s.ticks < w.since + w.limit → sweepTimeout g s = s) := by
  refine ⟨fun hc hdue ⟨d, hd, hno⟩ => ?_, fun h => ?_⟩
  · simp only [sweepTimeout, hg, hw]
    have hmiss : ((s.scopeOthers gr.scope).all fun d => (s.marksOf w).any fun m => m.1 == d) = false :=
      List.all_eq_false.mpr ⟨d, hd, List.any_eq_true.not.mpr fun ⟨m, hm, hmd⟩ => hno m hm (beq_iff_eq.mp hmd)⟩
    exact if_pos (by rw [hc, hmiss, decide_eq_true hdue]; rfl)
  · simp only [sweepTimeout, hg, hw]
    refine if_neg ?_
    obtain h | h := h
    · simp [h]
    · simp [Nat.not_le.mpr h]

/-- Settles O46: each message of a switch, a map or a sweep is acknowledged and has its effect. -/
theorem managementMessages : Obligations.ManagementMessages := by
  unfold Obligations.ManagementMessages
  refine ⟨fun l s hr => ⟨fun m t h => congrArg Host.Outcome.next (prepare_of_taken hr h), ?_,
    fun m t h => congrArg Host.Outcome.next (commit_of_taken hr h), fun m t h => congrArg Host.Outcome.next (mapChange_of_taken hr h rfl rfl), ?_⟩,
    fun s => ⟨?_, ?_, fun g gr w hg hw => ?_⟩⟩
  · intro m t h u w hw rest yes
    refine ⟨fun hlast => ⟨?_, ?_⟩, fun hmore => congrArg Host.Outcome.next (answer_of_more hr h rfl hw rfl hmore)⟩
    · intro href hy f v
      refine congrArg Host.Outcome.next (answer_of_last hr h rfl hw rfl hlast (if_neg ?_).symm)
      rw [href, show bitAt (fieldAt m.body 0 8) 0 = true from hy]
      exact Bool.false_ne_true
    · intro hno v
      refine congrArg Host.Outcome.next (answer_of_last hr h rfl hw rfl hlast (if_pos ?_).symm)
      rw [Bool.or_eq_true, Bool.not_eq_true']
      exact hno
  · intro m t h u x hx x'
    exact congrArg Host.Outcome.next (mapAck_of_taken hr h rfl hx)
  · intro l m t h i
    refine congrArg Host.Outcome.next ?_
    simp only [sweepEnd, h]
    rfl
  · intro l h
    refine congrArg Host.Outcome.next ?_
    simp only [sweepEnd, h]
  · obtain ⟨hlate, hearly⟩ := sweepTimeout_of_live hg hw
    exact ⟨fun hc hdue hmiss => congrArg Host.Outcome.next (hlate hc hdue hmiss), fun h => congrArg Host.Outcome.next (hearly h)⟩

end Sys2Proof.Machine
end


section
/-! PROOFS. Tables and graphs: their set-up and the descriptors that name them. -/

namespace Sys2Proof.Machine

variable {s u : State} {r : RingIx} {pos : Nat} {x : Live} {ans : HostAns}

/-! ### The read of a host's descriptor -/

/-- A set-up whose read has not been answered waits for it, or ends where none was sent. -/
theorem setupRead_of_unsent {addr : Nat} {k : State → Bytes → State} (h : (s.setupAsked r.val pos addr).setupSent r.val pos = none) :
    (((s.setupAsked r.val pos addr).accs.any fun a => a.why == .setup r.val pos) = true →
      s.setupRead r.val pos addr ans k = s.setupAsked r.val pos addr) ∧
    (((s.setupAsked r.val pos addr).accs.any fun a => a.why == .setup r.val pos) = false →
      s.setupRead r.val pos addr ans k = (s.setupAsked r.val pos addr).completeWith r.val pos stHostFault) := by
  have heq : s.setupRead r.val pos addr ans k =
      if (s.setupAsked r.val pos addr).accs.any fun a => a.why == .setup r.val pos then s.setupAsked r.val pos addr
      else (s.setupAsked r.val pos addr).completeWith r.val pos stHostFault := by
    simp only [State.setupRead, h]
  refine ⟨fun hany => heq.trans (if_pos hany), fun hany => heq.trans (if_neg ?_)⟩
  rw [hany]
  exact Bool.false_ne_true

/-- A read that is answered ends the set-up, or hands it the descriptor. -/
theorem setupRead_of_sent {addr : Nat} {k : State → Bytes → State} {a : HostAcc} (h : (s.setupAsked r.val pos addr).setupSent r.val pos = some a)
    (hu : u = ((s.setupAsked r.val pos addr).dropAcc a.id).settleInvals) :
    (hostWhole ans 64 = none → s.setupRead r.val pos addr ans k =
      (u.report (lgPort (u.ringPort r.val)) [] eHostFault r.val addr 0).completeWith r.val pos stHostFault) ∧
    ∀ b, hostWhole ans 64 = some b → s.setupRead r.val pos addr ans k = k u b := by
  subst hu
  refine ⟨fun hb => ?_, fun b hb => ?_⟩
  · simp only [State.setupRead, h, hb]
    rfl
  · simp only [State.setupRead, h, hb]

/-! ### Tables -/

/-- What a checked table descriptor does. -/
def State.takeTable (r pos : Nat) (s : State) (b : Bytes) : State :=
  if !s.tableOk r b then s.completeWith r pos stBadDescriptor
  else if (s.tableOf (Table.parse b).id).isSome then s.completeWith r pos stClaimConflict
  else (s.setTable (Table.parse b).id (some (Table.parse b))).completeWith r pos stOk

/-- What a checked graph descriptor does. -/
def State.takeGraph (r pos : Nat) (s : State) (b : Bytes) : State :=
  if !s.graphOk r b then s.completeWith r pos stBadDescriptor
  else if (s.graphOf (Graph.parse b).id).isSome then s.completeWith r pos stClaimConflict
  else (s.setGraph (Graph.parse b).id (some (Graph.parse b))).completeWith r pos stOk

theorem tableSetup_eq (hx : s.descAny r.val pos 0x18 = some x) (hn : unnamed x.entry [(64, 64)] = false) (ha : fieldAt x.entry 8 8 % 64 = 0) :
    tableSetup r pos ans s = s.setupRead r.val pos (fieldAt x.entry 8 8) ans (State.takeTable r.val pos) := by
  simp only [tableSetup, hx]
  exact if_neg (by simp [hn, ha])

theorem graphSetup_eq (hx : s.descAny r.val pos 0x20 = some x) (hn : unnamed x.entry [(64, 64)] = false) :
    graphSetup r pos ans s = s.setupRead r.val pos (fieldAt x.entry 8 8) ans (State.takeGraph r.val pos) := by
  simp only [graphSetup, hx]
  exact if_neg (by simp [hn])

section table
variable {id : Nat} {t : Table} (hn : unnamed x.entry [(64, 16)] = false) (hid : id = tableId x) (ht : s.tableOf id = some t)
  (hst : s.descTable r.val id = 0)
include hn hid hst

section versioned
variable (hv : t.versioned = true)
include ht hv

/-- A switch begins, or waits for those of its table that came before it. -/
theorem tableSwitch_of_live (hx : s.descOf r.val pos 0x19 = some x) :
    tableSwitch r pos s = if s.earlierNames 0x19 x tableId then s else State.startSwitches { s.begin r.val pos with
      switches := s.switches ++ [{ ring := r.val, pos := pos, table := id, version := false, waiting := [], refused := false }] } id
        (s.switches.length + 1) := by
  subst hid
  simp only [tableSwitch, hx, hn, hst, ht, hv, Option.map_some, Option.getD_some, Bool.not_true, Bool.false_eq_true, ne_eq, not_true_eq_false, if_false]
  rfl

/-- A version is given up once nothing here and on the other devices of the scope holds it. -/
theorem tableRetire_of_live (hx : s.descAny r.val pos 0x1A = some x) (hu : u = s.begin r.val pos) :
    tableRetire r pos s = if u.tableHeld id (some !t.active) then u
      else if (u.othersDone t.scope).1 then (u.othersDone t.scope).2.completeWith r.val pos stOk else (u.othersDone t.scope).2 := by
  subst hid hu
  simp only [tableRetire, hx, hn, hst, ht, hv, Bool.not_true, Bool.false_eq_true, ne_eq, not_true_eq_false, if_false]

end versioned

/-- A table is freed once nothing holds it. -/
theorem tableFree_of_live (hx : s.descOf r.val pos 0x1B = some x) :
    tableFree r pos s = if s.tableHeld id none || s.switches.any (fun w => w.table == id) then s
      else ({ s.setTable id none with windows := s.windows.filter fun w => w.table != id } : State).completeWith r.val pos stOk := by
  subst hid
  simp only [tableFree, hx, hn, hst, Bool.false_eq_true, ne_eq, not_true_eq_false, if_false]

end table

theorem othersDone_alone {scope : Nat} (h : s.scopeOthers scope = []) : s.othersDone scope = (true, s) := by
  rw [State.othersDone, h]
  rfl

theorem othersDone_others {scope : Nat} (h : s.scopeOthers scope ≠ []) : s.othersDone scope = (s.free.1.getLsbD 0, s.free.2) :=
  if_neg (by rwa [List.isEmpty_iff])

/-- Settles O36: a set-up takes the descriptor that was read, and a table is switched, retired and freed when nothing stands against it. -/
theorem tableDescriptors : Obligations.TableDescriptors := by
  unfold Obligations.TableDescriptors
  refine ⟨?_, ?_⟩
  · intro r pos s x ans i hn hi asked
    obtain ⟨k, hk, htab, hgraph⟩ : ∃ k, exec i s = .next (s.setupRead r.val pos (fieldAt x.entry 8 8) ans k) ∧
        (i = .tableSetup r pos ans → k = State.takeTable r.val pos) ∧ (i = .graphSetup r pos ans → k = State.takeGraph r.val pos) := by
      obtain ⟨rfl, hx, ha⟩ | ⟨rfl, hx⟩ := hi
      · exact ⟨_, congrArg Host.Outcome.next (tableSetup_eq hx hn ha), fun _ => rfl, nofun⟩
      · exact ⟨_, congrArg Host.Outcome.next (graphSetup_eq hx hn), nofun, fun _ => rfl⟩
    refine ⟨fun hnone => ?_, ?_⟩
    · obtain ⟨hwait, hlost⟩ := setupRead_of_unsent (ans := ans) (k := k) hnone
      exact ⟨fun h => hk.trans (congrArg Host.Outcome.next (hwait h)), fun h => hk.trans (congrArg Host.Outcome.next (hlost h))⟩
    · intro a hsent u
      obtain ⟨hfail, htake⟩ := setupRead_of_sent (ans := ans) (k := k) (u := u) hsent rfl
      refine ⟨fun h => hk.trans (congrArg Host.Outcome.next (hfail h)), fun b hb => ⟨fun hi => ?_, fun hi => ?_⟩⟩
      · have hex : exec i s = .next (u.takeTable r.val pos b) := hk.trans (congrArg Host.Outcome.next ((htake b hb).trans (by rw [htab hi])))
        refine ⟨fun hno => hex.trans (congrArg Host.Outcome.next (if_pos (by rw [hno]; rfl))), fun hok hfree => ?_, fun hok hused => ?_⟩
        · exact hex.trans (congrArg Host.Outcome.next ((if_neg (by simp [hok])).trans (if_neg (by simp [hfree]))))
        · exact hex.trans (congrArg Host.Outcome.next ((if_neg (by simp [hok])).trans (if_pos hused)))
      · have hex : exec i s = .next (u.takeGraph r.val pos b) := hk.trans (congrArg Host.Outcome.next ((htake b hb).trans (by rw [hgraph hi])))
        refine ⟨fun hno => hex.trans (congrArg Host.Outcome.next (if_pos (by rw [hno]; rfl))), fun hok hfree => ?_, fun hok hused => ?_⟩
        · exact hex.trans (congrArg Host.Outcome.next ((if_neg (by simp [hok])).trans (if_neg (by simp [hfree]))))
        · exact hex.trans (congrArg Host.Outcome.next ((if_neg (by simp [hok])).trans (if_pos hused)))
  · intro r pos s x t hn id ht hst
    refine ⟨fun hx hv hearly => ?_, fun hx hv hearly => ?_, ?_, fun hx => ⟨fun hheld hsw => ?_, fun hheld => ?_⟩⟩
    · exact congrArg Host.Outcome.next ((tableSwitch_of_live hn rfl ht hst hv hx).trans (if_pos hearly))
    · exact congrArg Host.Outcome.next ((tableSwitch_of_live hn rfl ht hst hv hx).trans (if_neg (by rw [hearly]; exact Bool.false_ne_true)))
    · intro hx hv u
      have hex : exec (.tableRetire r pos) s = .next _ := congrArg Host.Outcome.next (tableRetire_of_live (id := id) hn rfl ht hst hv hx (u := u) rfl)
      refine ⟨fun hheld => ?_, fun hheld => hex.trans (congrArg Host.Outcome.next (if_pos hheld))⟩
      have hfree := hex.trans (congrArg Host.Outcome.next (if_neg (by rw [hheld]; exact Bool.false_ne_true)))
      refine ⟨fun hsc => ?_, fun hsc => ?_⟩
      · rw [hfree, othersDone_alone (s := u) hsc]
        rfl
      · rw [hfree, othersDone_others (s := u) hsc]
    · refine congrArg Host.Outcome.next ((tableFree_of_live (id := id) hn rfl hst hx).trans (if_neg ?_))
      rw [hheld, Bool.false_or, List.any_eq_true]
      exact fun ⟨w, hw, h⟩ => hsw w hw (beq_iff_eq.mp h)
    · refine congrArg Host.Outcome.next ((tableFree_of_live (id := id) hn rfl hst hx).trans (if_pos ?_))
      rw [Bool.or_eq_true, List.any_eq_true]
      exact hheld.imp (fun h => h) fun ⟨w, hw, h⟩ => ⟨w, hw, beq_iff_eq.mpr h⟩

end Sys2Proof.Machine
end


section
/-! PROOFS. Graphs: drain, free and sweep. -/

namespace Sys2Proof.Machine

variable {s u : State} {r : RingIx} {pos : Nat} {x : Live} {g : Graph}

section live
variable {id : Nat} (hn : unnamed x.entry [(64, 12)] = false) (hid : id = graphId x) (hst : s.descGraph r.val id = 0)
include hn hid hst

/-- A drain remembers the work that was under way, and completes once it has gone. -/
theorem graphDrain_of_live {left : List (Nat × Nat)} (hx : s.descAny r.val pos 0x21 = some x) (hg : s.graphOf id = some g)
    (hleft : left = if x.begun then x.waitsFor.filter (s.graphReqs id ++ s.graphIter id).contains else s.graphReqs id ++ s.graphIter id)
    (hu : u = s.modRing r.val fun g =>
      { g with live := updWhere (fun e => e.pos == pos) (fun e => { e with begun := true, waitsFor := left }) g.live }) :
    graphDrain r pos s = if !left.isEmpty then u
      else if (u.othersDone g.scope).1 then (u.othersDone g.scope).2.completeWith r.val pos stOk else (u.othersDone g.scope).2 := by
  subst hid
  have hgu : u.graphOf (graphId x) = some g := by
    rw [hu]
    exact hg
  subst hleft hu
  simp only [graphDrain, hx, hn, hst, Bool.false_eq_true, ne_eq, not_true_eq_false, if_false, hgu, Option.map_some, Option.getD_some]

/-- A graph is freed once nothing here uses it. -/
theorem graphFree_of_live (hx : s.descOf r.val pos 0x23 = some x) :
    graphFree r pos s = if !(s.graphReqs id).isEmpty || s.sweeps.any (fun w => w.graph == id) ||
        s.moves.any (fun m => m.entry.kind != 0 && m.entry.id.toNat == id) then s
      else ({ s.setGraph id none with
        areas := s.areas.filter fun a => a.1 != id, sweepMarks := s.sweepMarks.filter fun m => m.1 != id } : State).completeWith r.val pos stOk := by
  subst hid
  simp only [graphFree, hx, hn, hst, Bool.false_eq_true, ne_eq, not_true_eq_false, if_false]

end live

/-- Nothing uses a graph: no request, no sweep and no move. -/
theorem graph_used_iff (s : State) (id : Nat) : (!(s.graphReqs id).isEmpty || s.sweeps.any (fun w => w.graph == id) ||
      s.moves.any (fun m => m.entry.kind != 0 && m.entry.id.toNat == id)) = true ↔
    ¬ (s.graphReqs id = [] ∧ (∀ w ∈ s.sweeps, w.graph ≠ id) ∧ ∀ m ∈ s.moves, m.entry.kind ≠ 0 → m.entry.id.toNat ≠ id) := by
  simp only [Bool.or_eq_true, Bool.not_eq_true', List.isEmpty_eq_false_iff, List.any_eq_true, Bool.and_eq_true, beq_iff_eq, bne_iff_ne,
    not_and_or, not_forall, exists_prop, not_not, or_assoc]

/-! ### Sweeps -/

/-- The parameters that a sweep takes are those that its refusal looks at. -/
theorem sweepRefusal_of_good {b : Bytes} {num now lim : Nat} {w : Sweep} (hn : unnamed x.entry [] = false) (hb : x.ext = some b)
    (hw : w = Sweep.parse b num now lim) (h37 : fieldAt b 0 8 / 2 ^ 37 % 2 ^ 27 = 0) (hz : zeroRange b 20 44 = true) (hk : w.kind ≤ 2)
    (hi : w.maxIter ≠ 0) (hs : w.kind = 0 → 9 ≤ w.s ∧ w.s ≤ 12) (hst : s.descGraph r.val w.graph = 0) (hg : s.graphOf w.graph = some g)
    (hp : 2 ≤ g.planes) : s.sweepRefusal r.val x = none := by
  subst hw
  have hbits : bfld b 0 8 37 27 = 0 := (fld_eq_div _ 37 27).trans h37
  have hgraph : (Sweep.parse b 0 0 0).graph = (Sweep.parse b num now lim).graph := rfl
  have hplain : (unnamed x.entry [] || decide (bfld b 0 8 37 27 ≠ 0) || !zeroRange b 20 44 || decide (2 < (Sweep.parse b 0 0 0).kind) ||
      (Sweep.parse b 0 0 0).maxIter == 0 || ((Sweep.parse b 0 0 0).kind == 0 &&
        decide ((Sweep.parse b 0 0 0).s < 9 ∨ 12 < (Sweep.parse b 0 0 0).s))) = false := by
    have hi' : ((Sweep.parse b 0 0 0).maxIter == 0) = false := beq_eq_false_iff_ne.mpr hi
    have hk' : decide (2 < (Sweep.parse b 0 0 0).kind) = false := decide_eq_false (Nat.not_lt.mpr hk)
    have hs' : ((Sweep.parse b 0 0 0).kind == 0 && decide ((Sweep.parse b 0 0 0).s < 9 ∨ 12 < (Sweep.parse b 0 0 0).s)) = false := by
      rw [Bool.and_eq_false_imp]
      intro h0
      obtain ⟨hlo, hhi⟩ := hs (beq_iff_eq.mp h0)
      exact decide_eq_false fun h => h.elim (fun h => Nat.not_lt.mpr hlo h) fun h => Nat.not_lt.mpr hhi h
    simp only [hn, hbits, hz, hk', hi', hs', ne_eq, not_true_eq_false, decide_false, Bool.not_true, Bool.or_self]
  simp only [State.sweepRefusal, hb, Option.getD_some, hgraph]
  refine (if_neg ?_).trans ((if_neg (not_not.mpr hst)).trans (if_neg ?_))
  · rw [hplain]
    exact Bool.false_ne_true
  · rw [hg]
    exact Nat.not_lt.mpr hp

/-- The `Inst` of a sweep. -/
def sweepInst (s : State) (r : RingIx) (pos num : Nat) (x : Live) : Inst :=
  { num := num, port := s.ringPort r.val, fn := s.ringFn r.val, ring := r.val, pos := pos, opcode := 0x22, program := 0,
    base := x.base, syncCount := x.syncs, word := 0,
    items := (s.sweepCores (s.ringPort r.val)).map fun c => { newItem .background [] 0 (ItemRec.parse []) with st := .inService c },
    result2 := BitVec.ofNat 64 num, report := 0, acceptedAt := x.acceptedAt, budget := 0, service := none, versions := [], armStatus := [],
    counted := false, train := [], orphaned := false }

/-- A sweep that nothing refuses waits for those of its graph that came before it, or becomes an `Inst`. -/
theorem sweep_of_good {b : Bytes} {num : Nat} {w : Sweep} (hx : s.descOf r.val pos 0x22 = some x) (hb : x.ext = some b) (hnum : x.num = some num)
    (horph : x.orphaned = false) (href : s.sweepRefusal r.val x = none) (hc : s.sweepCores (s.ringPort r.val) ≠ [])
    (hw : w = Sweep.parse b num s.ticks s.sweepLimit) :
    sweep r pos s = if s.earlierNames 0x22 x fun e => fld (fieldAt (e.ext.getD []) 0 8) 4 12 then s
      else (State.handOver { s with insts := insInst (sweepInst s r pos num x) s.insts, sweeps := s.sweeps ++ [w] } r.val pos).runSweeps w.graph := by
  have hcores : (s.sweepCores (s.ringPort r.val)).isEmpty = false := List.isEmpty_eq_false_iff.mpr hc
  subst hw
  simp only [sweep, hx, href, hnum, hb, hcores, horph, Option.isNone_some, Option.getD_some, Bool.or_self, Bool.false_eq_true, if_false]
  rfl

/-- Settles O37: a graph is drained, swept and freed when nothing stands against it. -/
theorem graphDescriptors : Obligations.GraphDescriptors := by
  unfold Obligations.GraphDescriptors
  intro r pos s x g
  refine ⟨?_, ?_, ?_⟩
  · intro hx hn id hg hst now left s1
    have hlive : s1 = s.modRing r.val fun g =>
        { g with live := updWhere (fun e => e.pos == pos) (fun e => { e with begun := true, waitsFor := left }) g.live } := by
      simp only [updWhere, beq_iff_eq]
      rfl
    have hex : exec (.graphDrain r pos) s = .next _ := congrArg Host.Outcome.next (graphDrain_of_live (id := id) hn rfl hst hx hg rfl hlive)
    refine ⟨fun hl hsc => ?_, fun hl hsc => ?_, fun hl => hex.trans (congrArg Host.Outcome.next (if_pos ?_))⟩
    · rw [hex, if_neg (by rw [show (if x.begun then _ else _ : List (Nat × Nat)) = [] from hl]; exact Bool.false_ne_true),
        othersDone_alone (s := s1) hsc]
      rfl
    · rw [hex, if_neg (by rw [show (if x.begun then _ else _ : List (Nat × Nat)) = [] from hl]; exact Bool.false_ne_true),
        othersDone_others (s := s1) hsc]
    · rw [Bool.not_eq_true', List.isEmpty_eq_false_iff]
      exact hl
  · intro hx hn id hst idle
    have hex : exec (.graphFree r pos) s = .next _ := congrArg Host.Outcome.next (graphFree_of_live (id := id) hn rfl hst hx)
    refine ⟨fun hused => hex.trans (congrArg Host.Outcome.next (if_pos ((graph_used_iff s id).mpr hused))), fun hidle => ?_⟩
    refine ⟨_, hex.trans (congrArg Host.Outcome.next (if_neg ((graph_used_iff s id).not_left.mpr hidle))), ?_, ?_, rfl, rfl, rfl, rfl⟩
    · exact State.graphOf_setGraph s id none
    · exact fun i hi => State.graphOf_setGraph_ne s id none hi
  · intro hx hn b num hb hnum horph w cores h37 hz hk hi hs hst hg hp hc
    have href := sweepRefusal_of_good hn hb rfl h37 hz hk hi hs hst hg hp
    have hex : exec (.sweep r pos) s = .next _ := congrArg Host.Outcome.next (sweep_of_good hx hb hnum horph href hc rfl)
    refine ⟨fun hearly => hex.trans (congrArg Host.Outcome.next (if_pos hearly)), fun hearly => ?_⟩
    refine ⟨sweepInst s r pos num x, rfl, rfl, List.length_map .., rfl, rfl, rfl, hex.trans (congrArg Host.Outcome.next (if_neg ?_))⟩
    rw [hearly]
    exact Bool.false_ne_true

end Sys2Proof.Machine
end


section
/-! PROOFS. Pools and moves. -/

namespace Sys2Proof.Machine

variable {s : State} {r : RingIx} {pos : Nat} {x : Live}

/-! ### Fields of two bytes -/

/-- Bytes read as less than the number of their values. -/
theorem leNat_lt (b : Bytes) : leNat b < 256 ^ b.length := by
  induction b with
  | nil => exact Nat.one_pos
  | cons b r ih =>
    rw [leNat, List.length_cons, Nat.pow_succ']
    have hb : b.toNat < 256 := b.isLt
    omega

/-- A slice has exactly the length that it names. -/
theorem length_slice (b : Bytes) (off n : Nat) : (slice b off n).length = n := by
  have h : ((b.drop off).take n).length ≤ n := List.length_take_le n _
  rw [slice, List.length_append, List.length_replicate]
  omega

/-- A field of two bytes fits in sixteen bits. -/
theorem toNat_fieldAt_two (b : Bytes) (off : Nat) : (BitVec.ofNat 16 (fieldAt b off 2)).toNat = fieldAt b off 2 := by
  have hlt : fieldAt b off 2 < 256 ^ 2 := (leNat_lt _).trans_le (Nat.pow_le_pow_right (by decide) (length_slice b off 2).le)
  exact (BitVec.toNat_ofNat _ _).trans (Nat.mod_eq_of_lt hlt)

/-! ### Pools -/

section pool
variable {u o p a n : Nat} {met : List Chunk} (hk : s.kindOf (fieldAt x.entry 8 8) (fieldAt x.entry 16 8) = some (.sifter, u, o))
  (ha : a = fieldAt x.entry 8 8) (hn : n = fieldAt x.entry 16 8) (hp : p = s.ringPort r.val) (hga : a % granule = 0) (hgn : n % granule = 0)
  (h0 : 0 < n) (hplain : unnamed x.entry [(64, 64), (128, 64)] = false)
  (hmet : met = s.chunks.filter fun x => x.unit == u && meets (x.off, 32 * 2 ^ x.log2) o n)
include hk ha hn hp hga hgn h0 hplain hmet

/-- A grant adds free granules to the port's pool. -/
theorem poolGrant_of_good (hx : s.descOf r.val pos 0x1D = some x) :
    poolDesc true r pos s = if met.isEmpty then ({ s with
        chunks := s.chunks ++ (List.range (n / granule)).map fun i => ⟨u, o + i * granule, 12, p, false⟩ } : State).completeWith r.val pos stOk
      else s.completeWith r.val pos stClaimConflict := by
  subst ha hn hp hmet
  simp only [poolDesc, if_true, hx, hk]
  exact if_neg (by simp only [hga, hgn, hplain, Nat.pos_iff_ne_zero.mp h0, ne_eq, not_true_eq_false, Bool.false_eq_true, or_self, not_false_eq_true])

/-- A reclaim takes unused chunks that fill the range out of the port's pool. -/
theorem poolReclaim_of_good (hx : s.descOf r.val pos 0x1E = some x) :
    poolDesc false r pos s = if (met.all fun x => x.port == p && !x.used) && (met.map fun x => 32 * 2 ^ x.log2).sum == n then
        ({ s with chunks := s.chunks.filter fun x => !met.contains x } : State).completeWith r.val pos stOk
      else s.completeWith r.val pos stClaimConflict := by
  subst ha hn hp hmet
  simp only [poolDesc, if_false, Bool.false_eq_true, hx, hk]
  exact if_neg (by simp only [hga, hgn, hplain, Nat.pos_iff_ne_zero.mp h0, ne_eq, not_true_eq_false, Bool.false_eq_true, or_self, not_false_eq_true])

end pool

/-- The chunks of a range are all unused ones of a port and fill it. -/
theorem reclaimable_iff (met : List Chunk) (p n : Nat) :
    ((met.all fun x => x.port == p && !x.used) && (met.map fun x => 32 * 2 ^ x.log2).sum == n) = true ↔
      (∀ x ∈ met, x.port = p ∧ x.used = false) ∧ (met.map fun x => 32 * 2 ^ x.log2).sum = n := by
  simp only [Bool.and_eq_true, List.all_eq_true, beq_iff_eq, Bool.not_eq_true']

/-! ### Moves of blocks and shards -/

section migrate
variable {wd id index kind : Nat} (hx : s.descOf r.val pos 0x1C = some x) (hplain : unnamed x.entry [(64, 25), (128, 16), (192, 48)] = false)
  (hwd : wd = fieldAt x.entry 8 8) (hid : id = fieldAt x.entry 16 2) (hindex : index = bfld x.entry 24 8 0 48) (hkind : kind = fld wd 0 3)
include hx hplain hwd hid hindex hkind

/-- A `MIGRATE` of a block names an entry of a directory that its ring may use. -/
theorem migrate_of_block {k : Fin 4} (hk : k.val = kind) (hst : (if kind = 0 then s.descTable r.val id else s.descGraph r.val id) = 0) :
    migrate r pos s = s.migrateBlock r.val pos ⟨k, BitVec.ofNat 16 id, kind == 0 && ((s.tableOf id).map (·.active)).getD false, index⟩ (fld wd 3 2)
      (fld wd 5 2) (fld wd 7 4) := by
  have hlt : k.val < 4 := k.isLt
  have hkk : (⟨kind % 4, Nat.mod_lt _ (by decide)⟩ : Fin 4) = k := Fin.ext ((Nat.mod_eq_of_lt (by omega)).trans hk.symm)
  have hver : (if kind = 0 then ((s.tableOf id).map (·.active)).getD false else false) = (kind == 0 && ((s.tableOf id).map (·.active)).getD false) := by
    by_cases h : kind = 0
    · rw [if_pos h, h]
      rfl
    · rw [if_neg h, beq_false_of_ne h, Bool.false_and]
  subst hwd hid hindex hkind
  simp only [migrate, hx, hplain, hst, hkk, hver, Bool.false_eq_true, false_or, ne_eq, not_true_eq_false, if_false]
  exact (if_neg (by omega)).trans (if_neg (by omega))

omit hid in
/-- A `MIGRATE` of a shard of this device to another of its scope starts its move. -/
theorem migrate_of_shard (hk : kind = 4) (hsc : fld wd 23 2 = 1 ∨ fld wd 23 2 = 2) (hlt : index < 4096)
    (hfree : ∀ m ∈ s.shardMoves, m.who ≠ whoShard (fld wd 23 2) index) (hhome : s.homeOf (fld wd 23 2) index = s.devId)
    (hto : fld wd 11 12 ∈ s.scopeOthers (fld wd 23 2)) : migrate r pos s =
      State.runShards { s.begin r.val pos with shardMoves := (s.begin r.val pos).shardMoves ++
        [{ shard := index, scope := fld wd 23 2, newHome := fld wd 11 12, src := some (r.val, pos), started := false, copies := [], acks := [],
           transferred := false, failed := false, prog := {} }] } := by
  have hnone : (s.shardMoves.any fun m => m.who == whoShard (fld wd 23 2) index) = false :=
    List.any_eq_false.mpr fun m hm => by simpa using hfree m hm
  have hin : (s.scopeOthers (fld wd 23 2)).contains (fld wd 11 12) = true := List.contains_iff_mem.mpr hto
  subst hwd hindex
  simp only [migrate, hx, hplain, ← hkind, hk, hnone, hhome, hin, Bool.false_eq_true, ne_eq, not_true_eq_false, if_false, if_true,
    Nat.lt_irrefl, Bool.not_true, or_self, decide_false]
  exact if_neg (by omega)

end migrate

section block
variable {e : EntryRef} {dir p u tier w unit : Nat} {d : DirEnt} {seen : State} (hlive : s.liveEntry e = some (dir, d, p))
  (hu : tierUnit tier unit = some u) (hseen : seen = s.seeDir false dir e.index) (hw3 : w ≠ 3) (ht0 : tier = 0 → w = 0)
  (hk0 : e.kind.val ≠ 0 → w = 0) (hext : 12 ≤ u → seen.extent u ≠ 0)
  (htab : ∀ t, e.kind.val = 0 → seen.tableOf e.id.toNat = some t → w ≤ t.narrowest ∧ (w = 2 → d.tier ≠ 3 → seen.canInt4 t d = true))
  (hclean : tier = 3 → seen.poisoned d.addr (seen.entryLen e d.width) = false)
include hlive hu hseen hw3 ht0 hk0 hext htab hclean

/-- A block that can take the tier, width and unit named starts its move, or waits while it or its shard moves. -/
theorem migrateBlock_of_good : s.migrateBlock r.val pos e tier w unit =
    if d.moving || seen.entryHeld e then seen
    else match (seen.begin r.val pos).startMove e (some (r.val, pos)) tier u w with
      | some s => s
      | none => seen.completeWith r.val pos stTierFull := by
  have hfit : (match (if e.kind.val = 0 then seen.tableOf e.id.toNat else none) with
      | some t => decide (t.narrowest < w) || (w == 2 && d.tier != 3 && !seen.canInt4 t d)
      | none => false) = false := by
    by_cases h0 : e.kind.val = 0
    · rw [if_pos h0]
      cases ht : seen.tableOf e.id.toNat with
      | none => rfl
      | some t =>
        obtain ⟨hnar, hint⟩ := htab t h0 ht
        show (decide (t.narrowest < w) || (w == 2 && d.tier != 3 && !seen.canInt4 t d)) = false
        rw [decide_eq_false (Nat.not_lt.mpr hnar), Bool.false_or, Bool.and_eq_false_imp, Bool.and_eq_true, beq_iff_eq, bne_iff_ne]
        rintro ⟨h2, h3⟩
        rw [hint h2 h3]
        rfl
    · rw [if_neg h0]
  have hplain : ¬ (w = 3 ∨ (tier = 0 ∧ w ≠ 0) ∨ (e.kind.val ≠ 0 ∧ w ≠ 0) ∨ (12 ≤ u ∧ seen.extent u = 0)) := by
    rintro (h | ⟨h, hw⟩ | ⟨h, hw⟩ | ⟨h, hx⟩)
    · exact hw3 h
    · exact hw (ht0 h)
    · exact hw (hk0 h)
    · exact hext h hx
  have hgood : ¬ (tier = 3 ∧ seen.poisoned d.addr (seen.entryLen e d.width) = true) := fun ⟨h3, h⟩ =>
    Bool.false_ne_true ((hclean h3).symm.trans h)
  subst hseen
  simp only [State.migrateBlock, hlive, hu]
  exact (if_neg hplain).trans ((if_neg fun h => Bool.false_ne_true (hfit.symm.trans h)).trans (if_neg hgood))

end block

/-- Settles O38: pool descriptors and the descriptor of a move by the lemmas above. -/
theorem tierDescriptors : Obligations.TierDescriptors := by
  unfold Obligations.TierDescriptors
  refine ⟨?_, ?_⟩
  · intro r pos s e u o a n p met hk ha hn h0 hplain
    refine ⟨fun hx => ?_, fun hx => ?_⟩
    · have hex : exec (.poolGrant r pos) s = .next _ :=
        congrArg Host.Outcome.next (poolGrant_of_good (p := p) (met := met) hk rfl rfl rfl ha hn h0 hplain rfl hx)
      exact ⟨fun h => hex.trans (congrArg Host.Outcome.next (if_pos (List.isEmpty_iff.mpr h))),
        fun h => hex.trans (congrArg Host.Outcome.next (if_neg fun h' => h (List.isEmpty_iff.mp h')))⟩
    · have hex : exec (.poolReclaim r pos) s = .next _ :=
        congrArg Host.Outcome.next (poolReclaim_of_good (p := p) (met := met) hk rfl rfl rfl ha hn h0 hplain rfl hx)
      refine ⟨fun hall hsum => hex.trans (congrArg Host.Outcome.next (if_pos ((reclaimable_iff met p n).mpr ⟨hall, hsum⟩))),
        fun hbad => hex.trans (congrArg Host.Outcome.next (if_neg fun h => ?_))⟩
      obtain ⟨hall, hsum⟩ := (reclaimable_iff met p n).mp h
      rcases hbad with ⟨c, hc, hport | hused⟩ | hne
      · exact hport (hall c hc).1
      · exact Bool.false_ne_true ((hall c hc).2.symm.trans hused)
      · exact hne hsum
  · intro r pos s x hx hplain wd id index kind tier w
    refine ⟨?_, fun hkind hsc hlt hfree hhome hto => congrArg Host.Outcome.next
      (migrate_of_shard hx hplain rfl rfl rfl hkind hsc hlt hfree hhome hto)⟩
    intro k hk e hst dir d p u hlive hu hw3 ht0 hk0 seen hext htab hclean
    have hid : e.id.toNat = id := toNat_fieldAt_two x.entry 16
    have hex : exec (.migrate r pos) s = .next _ := congrArg Host.Outcome.next
      ((migrate_of_block hx hplain rfl rfl rfl rfl hk hst).trans (migrateBlock_of_good (seen := seen) hlive hu rfl hw3 ht0 (fun h => hk0 (hk ▸ h)) hext
        (fun t h0 ht => htab t (hk ▸ h0) (hid ▸ ht)) hclean))
    refine ⟨fun h => hex.trans (congrArg Host.Outcome.next (if_pos (Bool.or_eq_true _ _ ▸ h))), fun hm hh => ?_⟩
    have hstart : exec (.migrate r pos) s = .next _ := hex.trans (congrArg Host.Outcome.next (if_neg (by rw [hm, hh]; exact Bool.false_ne_true)))
    exact ⟨fun t ht => hstart.trans (by rw [ht]), fun hn => hstart.trans (by rw [hn])⟩

end Sys2Proof.Machine
end


section
/-! PROOFS. Epochs, the end of moves, and old chunks. -/

namespace Sys2Proof.Machine

variable {s : State}

/-! ### Visits -/

/-- What a visit does to a state in which the entry is seen: it decides about it where it is live, and halves its counts. -/
def State.visited1 (u : State) (e : EntryRef) (dir : Nat) : State :=
  { u.putDir dir e.index { u.dirEnt dir e.index with
      reads := (u.dirEnt dir e.index).reads / 2, updates := (u.dirEnt dir e.index).updates / 2 } with visited := u.visited ++ [e] }

section visit
variable {e : EntryRef} {dir n p : Nat} (hd : s.entryDir e = some (dir, n, p))
include hd

/-- An entry that the epoch has visited is left alone. -/
theorem epochVisit_of_visited (h : e ∈ s.visited) : epochVisit e s = s := by
  simp only [epochVisit, hd]
  exact if_pos (by rw [List.contains_iff_mem.mpr h, Bool.or_true])

variable (hrun : s.running = true) (htiers : s.tiersRun = true) (hact : s.activeEntry e = true) (hlt : e.index < n)
  (hpres : (s.dirEnt dir e.index).present = true) (hnew : e ∉ s.visited)
include hrun htiers hact hlt hpres hnew

/-- A present entry of an active directory that the epoch has not visited is seen, and its counts are halved. -/
theorem epochVisit_of_new : epochVisit e s =
    State.visited1 (match (s.seeDir false dir e.index).liveEntry e with
      | some (_, d, _) => (s.seeDir false dir e.index).visitMove e d p
      | none => s.seeDir false dir e.index) e dir := by
  have hnot : s.visited.contains e = false := Bool.eq_false_iff.mpr fun h => hnew (List.contains_iff_mem.mp h)
  simp only [epochVisit, hd]
  exact if_neg (by simp only [hrun, htiers, hact, hlt, hpres, hnot, decide_true, Bool.not_true, Bool.or_self, Bool.false_eq_true, not_false_eq_true])

end visit

/-! ### The end of an epoch -/

/-- An epoch whose time is not over, or whose visits are not all made, goes on. -/
theorem epochEnd_of_early (h : s.ticks < s.epochStart + s.epochTicks ∨ s.allVisited = false) : epochEnd s = s :=
  if_pos (by
    rcases h with h | h
    · rw [decide_eq_false (Nat.not_le.mpr h), Bool.not_false, Bool.or_true, Bool.true_or]
    · rw [h, Bool.not_false, Bool.or_true])

/-- The end of an epoch takes over the shard counts, halves them and starts the next. -/
theorem epochEnd_of_over {u : State} (hrun : s.running = true) (htiers : s.tiersRun = true) (htime : s.epochStart + s.epochTicks ≤ s.ticks)
    (hall : s.allVisited = true)
    (hu : u = { s with
      shardWindow := s.shardCounts,
      shardCounts := s.shardCounts.foldl (fun (t : Tab Word) (x : Nat × Word) => Tab.put 0 t x.1 (halveCounts x.2)) [],
      visited := [], flashMoved := [], epochStart := s.ticks }) :
    epochEnd s = (if s.assisted 4 then u else (u.pickShards 1).pickShards 2).runShards := by
  subst hu
  exact if_neg (by simp only [hrun, htiers, htime, hall, decide_true, Bool.not_true, Bool.or_self, Bool.false_eq_true, not_false_eq_true])

/-! ### Moves and old chunks -/

/-- A move whose block has been read ends as its copy says. -/
theorem moveComplete_of_copied {e : EntryRef} {m : Move} {bad : Option (List (Nat × Nat))} {j : Job} (hrun : s.running = true) (hup : s.fnUp 4 0 = true)
    (hm : s.moves.find? (fun m => m.entry == e) = some m) (hc : m.copied = false) (herr : m.prog.err = 0) (hp : (s.progOf (whoMove e)).isSome)
    (hr : (JM.copyBlock m).run (Job.start s (whoMove e) m.port) = (some bad, j)) :
    moveComplete e s = bad.elim ((j.s.modProg (whoMove e) fun p => { p with parts := j.parts }).abandonMove m stBadDescriptor)
      fun l => ((j.s.modProg (whoMove e) fun p => { p with parts := j.parts }).modMove (whoMove e) fun m =>
        { m with copied := true, bad := l }).settleMoves := by
  simp only [moveComplete, hm, hrun, hup, hc, herr, Bool.not_true, Bool.or_self, Bool.false_eq_true, ne_eq, not_true_eq_false, if_false]
  refine (runJob_done hp hr).trans ?_
  cases bad <;> rfl

/-- An old chunk goes back to its pool exactly when no request holds it. -/
theorem chunkRelease_of_found {e : EntryRef} {o : OldChunk} (hrun : s.running = true) (ho : s.oldChunks.find? (fun o => o.entry == e) = some o) :
    chunkRelease e s = if ∃ h ∈ o.holders, h ∈ s.queue then s
      else ({ s with oldChunks := s.oldChunks.erase o } : State).freeChunk o.port o.unit o.off o.log2 := by
  simp only [chunkRelease, ho, hrun, Bool.true_and]
  by_cases h : ∃ h ∈ o.holders, h ∈ s.queue
  · have hany : o.holders.any s.queue.contains = true := by
      obtain ⟨x, hx, hq⟩ := h
      exact List.any_eq_true.mpr ⟨x, hx, List.contains_iff_mem.mpr hq⟩
    rw [if_pos h, hany]
    rfl
  · have hany : o.holders.any s.queue.contains = false := List.any_eq_false.mpr fun x hx hq => h ⟨x, hx, List.contains_iff_mem.mp hq⟩
    rw [if_neg h, hany]
    rfl

/-- Settles O39: visits, the end of an epoch, copies and old chunks by the lemmas above. -/
theorem epochsAndMoves : Obligations.EpochsAndMoves := by
  unfold Obligations.EpochsAndMoves
  refine ⟨?_, ?_, fun s h => congrArg Host.Outcome.next (epochEnd_of_early h), ?_, ?_⟩
  · intro e s dir n p hrun htiers hd hact hlt hpres
    refine ⟨fun h => congrArg Host.Outcome.next (epochVisit_of_visited hd h), fun hnew => ?_⟩
    intro half seen
    have hex : exec (.epochVisit e) s = .next _ := congrArg Host.Outcome.next (epochVisit_of_new hd hrun htiers hact hlt hpres hnew)
    exact ⟨fun h => hex.trans (by rw [show (s.seeDir false dir e.index).liveEntry e = none from h]; rfl),
      fun d h => hex.trans (by rw [show (s.seeDir false dir e.index).liveEntry e = some (dir, d, p) from h]; rfl)⟩
  · intro s hrun htiers htime hall turned
    exact congrArg Host.Outcome.next (epochEnd_of_over (u := turned) hrun htiers htime hall rfl)
  · intro e s m pg hrun hup hm hc herr hp bad j hr t
    have hex : exec (.moveComplete e) s = .next _ :=
      congrArg Host.Outcome.next (moveComplete_of_copied hrun hup hm hc herr (Option.isSome_iff_exists.mpr ⟨pg, hp⟩) hr)
    refine ⟨fun h => ?_, fun l h => ?_⟩
    · subst h
      exact hex
    · subst h
      exact hex
  · intro e s o hrun ho
    have hex : exec (.chunkRelease e) s = .next _ := congrArg Host.Outcome.next (chunkRelease_of_found hrun ho)
    exact ⟨fun h => hex.trans (congrArg Host.Outcome.next (if_neg fun ⟨x, hx, hq⟩ => h x hx hq)),
      fun h => hex.trans (congrArg Host.Outcome.next (if_pos h))⟩

end Sys2Proof.Machine
end


section
/-! PROOFS. Channels and the fences of the fabric. -/

namespace Sys2Proof.Machine

variable {s t : State}

/-! ### The channels of a state -/

theorem channels_foldl {f : State → α → State} (hf : ∀ s a, (f s a).channels = s.channels) (l : List α) (s : State) :
    (l.foldl f s).channels = s.channels :=
  List.foldlRecOn (motive := fun t : State => t.channels = s.channels) l _ rfl fun _ ht _ _ => (hf _ _).trans ht

theorem HostSide.channels (h : HostSide s t) : t.channels = s.channels := by rw [h.rest]

theorem DieSide.channels (h : DieSide s t) : t.channels = s.channels := by rw [h.rest]

theorem channels_release (s : State) (p : Packet) : (s.release p).channels = s.channels := by
  unfold State.release
  split
  · rfl
  · exact (HostSide.report ..).channels

theorem channels_sendMsg (s : State) {cls : Nat} (hc : cls ≠ clBc) (dst kind info : Nat) (body : Bytes) :
    (s.sendMsg dst cls kind info body).channels = s.channels := by
  unfold State.sendMsg
  rw [if_neg hc]
  exact channels_foldl channels_release _ s

theorem channels_flashPut (s : State) (a : Nat) (d : Bytes) (who : Option (Nat × Nat)) : (s.flashPut a d who).channels = s.channels := by
  unfold State.flashPut
  split
  · rfl
  · split
    · exact (HostSide.report ..).channels
    · exact channels_foldl (by exact fun _ _ => rfl) _ s

theorem channels_dwrite (s : State) (a : Nat) (d : Bytes) : (s.dwrite a d).channels = s.channels := by
  unfold State.dwrite
  split
  · rfl
  · split
    · exact (HostSide.report ..).channels
    · extract_lets s'
      split <;> rfl

theorem channels_generalWrite (s : State) (src : Option Nat) (express : Bool) (a : Nat) (d : Bytes) :
    (s.generalWrite src express a d).channels = s.channels := by
  unfold State.generalWrite
  extract_lets s'
  have h : s'.channels = s.channels := (DieSide.linesWrite ..).channels
  split
  · split
    · exact (channels_flashPut ..).trans h
    · exact (channels_dwrite ..).trans h
  · exact h

/-- A change of a channel's progress keeps every channel's record. -/
theorem rcd_modChan {ch : Nat} {f : Channel → Channel} (hf : ∀ k, (f k).rcd = k.rcd) (n : Nat) : ((s.modChan ch f).chan n).rcd = (s.chan n).rcd := by
  by_cases h : n = ch
  · subst h
    exact (congrArg Channel.rcd (State.chan_setChan ..)).trans (hf _)
  · exact congrArg Channel.rcd (Tab.get_put_ne _ _ _ h)

/-! ### Descriptors of channels and fences -/

/-- What a checked channel record does once it has come. -/
def State.takeChannel (s : State) (r pos : Nat) (b : Bytes) : State :=
  if !s.chanOk (s.ringPort r) (s.ringFn r) b then s.completeWith r pos stBadDescriptor
  else if (s.chan (fld (fieldAt b 0 8) 0 12)).arm.isSome then s.completeWith r pos stClaimConflict
  else (s.setChan (fld (fieldAt b 0 8) 0 12) { rcd := some (ChanRec.parse b) }).completeWith r pos stOk

section desc
variable {r : RingIx} {pos : Nat} {x : Live}

/-- A channel's set-up asks the host for its record as other set-ups do. -/
theorem channelSetup_eq {ans : HostAns} (hx : s.descAny r.val pos 0x28 = some x) (hplain : unnamed x.entry [(64, 64)] = false) :
    channelSetup r pos ans s = s.setupRead r.val pos (fieldAt x.entry 8 8) ans fun s b => s.takeChannel r.val pos b := by
  simp only [channelSetup, hx, hplain, Bool.false_eq_true, if_false]
  rfl

/-- An arm waits for those accepted before it, then takes a free channel or waits behind the one that is armed. -/
theorem channelArm_of_owned {ch : Nat} (hx : s.descOf r.val pos 0x29 = some x) (hplain : unnamed x.entry [(64, 12)] = false)
    (hch : ch = bfld x.entry 8 4 0 12) (hown : s.owns (s.ringPort r.val) (s.ringFn r.val) .chan ch = true) (hrcd : (s.chan ch).rcd ≠ none) :
    channelArm r pos s = if s.earlierNames 0x29 x fun e => bfld e.entry 8 4 0 12 then s
      else if ((s.begin r.val pos).chan ch).arm.isSome then (s.begin r.val pos).modChan ch fun k => { k with waiting := k.waiting ++ [(r.val, pos)] }
      else (s.begin r.val pos).armChan ch r.val pos := by
  subst hch
  simp only [channelArm, hx]
  exact if_neg (by simp only [hplain, hown, Option.isNone_eq_false_iff.mpr (Option.isSome_iff_ne_none.mpr hrcd), Bool.not_true, Bool.or_self,
    Bool.false_eq_true, not_false_eq_true])

/-- A fence of the fabric goes to every device named, in each class. -/
theorem fabricFence_of_good {w dev : Nat} {ds : List Nat} (hx : s.descOf r.val pos 0x2A = some x)
    (hplain : unnamed x.entry [(64, 2), (80, 12)] = false) (hw : w = fieldAt x.entry 8 4) (hdev : dev = fld w 16 12) (h3 : fld w 0 2 ≠ 3)
    (hds : ds = if fld w 0 2 = 0 then [dev] else s.others (fld w 0 2 == 2)) :
    fabricFence r pos s = if ds.isEmpty then s.completeWith r.val pos stOk else ds.foldl (fun s' d =>
        [clMg, clRq, clRs, clRd, clBc].foldl (fun s' c => s'.sendMsg d c 15 s.nextFence []) s')
      { s.begin r.val pos with
        nextFence := (s.nextFence + 1) % 2 ^ 32,
        fences := (s.begin r.val pos).fences ++ [⟨r.val, pos, s.nextFence, ds, (s.begin r.val pos).ticks, (s.begin r.val pos).channelLimit⟩] } := by
  subst hw hdev hds
  simp only [fabricFence, hx]
  exact if_neg (by simp only [hplain, h3, Bool.false_eq_true, or_self, not_false_eq_true])

/-- A fence ends when its time has passed, not before. -/
theorem fabricTimeout_of_found {f : FenceWait} (hf : s.fences.find? (fun f => f.ring == r.val && f.pos == pos) = some f) (hrun : s.running = true) :
    fabricTimeout r pos s = if f.since + f.limit ≤ s.ticks then
      ({ s with fences := s.fences.filter fun x => x != f } : State).completeWith r.val pos stFabricTimeout else s := by
  simp only [fabricTimeout, hf, hrun, Bool.true_and, decide_eq_true_eq]

end desc

/-- An arm ends when its time has passed with no message sent and none whole. -/
theorem channelTimeout_of_armed {ch : ChanIx} {r pos since lim : Nat} (hrun : s.running = true)
    (ha : (s.chan ch.val).arm = some (r, pos, since, lim)) :
    channelTimeout ch s = if since + lim ≤ s.ticks ∧ (s.chan ch.val).sentMsg = false ∧ (s.chan ch.val).whole = false then
      s.chanAbort ch.val abTimeout else s := by
  simp only [channelTimeout, ha, hrun, Bool.true_and]
  exact if_congr (by simp only [Bool.and_eq_true, decide_eq_true_eq, Bool.not_eq_true', and_assoc]) rfl rfl

/-! ### Sending -/

/-- An armed channel that has sent nothing does what its record says once its `go` is at 0. -/
theorem channelSend_of_armed {ch : ChanIx} {c : ChanRec} (hc : (s.chan ch.val).rcd = some c) (hrun : s.running = true)
    (harm : (s.chan ch.val).arm ≠ none) (hsent : (s.chan ch.val).sentMsg = false) :
    channelSend ch s = if (s.sync c.go).aborted then s.chanAbort ch.val abGo
      else if (s.sync c.go).count ≠ 0 then s
      else if c.send then
        if (s.chan ch.val).grant.isNone then s
        else if c.add then s.addMode ch.val c
        else (s.plainMsg c).elim ((s.notePoison c.buf (if c.bc then c.len else (recordLen (s.dbytes c.buf 32)).getD 32)).chanAbort ch.val abCheck)
          fun b => (s.memRead false .general c.buf b.length).2.sendChan ch.val c b
      else if c.add && (s.chan ch.val).whole then s.addMode ch.val c
      else s := by
  simp only [channelSend, hc]
  refine (if_neg ?_).trans ?_
  · simp only [hrun, hsent, Option.isNone_eq_false_iff.mpr (Option.isSome_iff_ne_none.mpr harm), Bool.not_true, Bool.or_self, Bool.false_eq_true,
      not_false_eq_true]
  · cases s.plainMsg c <;> rfl

/-! ### Receiving -/

/-- What a receive channel does with the last of its message: its buffer takes it, and the sender is answered. -/
def State.chanTake (s : State) (ch : Nat) (c : ChanRec) (b : Bytes) : State :=
  ((s.modChan ch fun k => { k with got := b, whole := true }).generalWrite none false c.buf b).sendMsg c.peer clRs 4 (c.info ch) []

/-- Taking a message keeps every channel's record. -/
theorem rcd_chanTake (s : State) (ch : Nat) (c : ChanRec) (b : Bytes) (n : Nat) : ((s.chanTake ch c b).chan n).rcd = (s.chan n).rcd := by
  have h : (s.chanTake ch c b).channels = (s.modChan ch fun k => { k with got := b, whole := true }).channels :=
    (channels_sendMsg _ (by decide) ..).trans (channels_generalWrite ..)
  exact (congrArg (fun l => (Tab.get ({} : Channel) l n).rcd) h).trans (rcd_modChan (by exact fun _ => rfl) n)

/-- The channel to which a message is carried on, with its record. -/
def State.nextChan (s : State) (c : ChanRec) : Option (Nat × ChanRec) := c.next.bind fun n => (s.chan n).rcd.map fun d => (n, d)

theorem nextChan_of_none {c : ChanRec} (h : c.next = none) : s.nextChan c = none := by rw [State.nextChan, h]; rfl

theorem nextChan_of_some {c d : ChanRec} {n : Nat} (h : c.next = some n) (hd : (s.chan n).rcd = some d) : s.nextChan c = some (n, d) := by
  rw [State.nextChan, h, Option.bind_some, hd]
  rfl

theorem nextChan_chanTake (s : State) (ch : Nat) (c : ChanRec) (b : Bytes) : (s.chanTake ch c b).nextChan c = s.nextChan c := by
  unfold State.nextChan
  simp only [rcd_chanTake]

section receive
variable {m : Msg} {c : ChanRec} {ch : Nat} {b : Bytes} {bc : Bool} (hch : ch = fld m.head.info.toNat 0 12) (hb : b = (s.chan ch).got ++ m.body)
  (hc : (s.chan ch).rcd = some c) (hrecv : c.send = false) (hpeer : c.peer = m.head.src) (hpc : c.peerChan = fld m.head.info.toNat 12 12)
  (harm : (s.chan ch).arm ≠ none) (hgr : (s.chan ch).granted = true) (hwhole : (s.chan ch).whole = false) (hbc : c.bc = bc)
include hch hb hc hrecv hpeer hpc harm hgr hwhole hbc

omit hch hb hc in
/-- The guards of a receive channel that has granted the message let it in. -/
theorem chanReceive_guard : ¬ (c.send || c.bc != bc || c.peer != m.head.src || c.peerChan != fld m.head.info.toNat 12 12 || (s.chan ch).arm.isNone ||
    !(s.chan ch).granted || (s.chan ch).whole) = true := by
  simp only [hrecv, hpeer, hpc, hgr, hwhole, hbc, Option.isNone_eq_false_iff.mpr (Option.isSome_iff_ne_none.mpr harm), bne_self_eq_false,
    Bool.not_true, Bool.or_self, Bool.false_eq_true, not_false_eq_true]

/-- A message that is too long for the buffer ends the arm. -/
theorem chanReceive_tooLong (hlong : c.bufSize < b.length) : s.chanReceive m bc = s.chanAbort ch abTooLong := by
  have hg := chanReceive_guard hrecv hpeer hpc harm hgr hwhole hbc
  subst hch hb
  simp only [State.chanReceive, hc]
  exact (if_neg hg).trans (if_pos hlong)

/-- In add mode a record that another arithmetic was used for ends the arm. -/
theorem chanReceive_badArith (hfit : b.length ≤ c.bufSize) (hadd : c.add = true) (hbad : ((Rec.parse m.body).any fun r => r.hdr.arith == 0) = false) :
    s.chanReceive m bc = s.chanAbort ch abCheck := by
  have hg := chanReceive_guard hrecv hpeer hpc harm hgr hwhole hbc
  subst hch hb
  simp only [State.chanReceive, hc]
  exact (if_neg hg).trans ((if_neg (Nat.not_lt.mpr hfit)).trans (if_pos (by rw [hadd, hbad]; rfl)))

/-- In add mode a record that has come is taken, and added to once `go` is at 0. -/
theorem chanReceive_add (hfit : b.length ≤ c.bufSize) (hadd : c.add = true) (hok : ((Rec.parse m.body).any fun r => r.hdr.arith == 0) = true)
    (hplain : bc = false) :
    s.chanReceive m bc = if ((s.chanTake ch c b).sync c.go).aborted then (s.chanTake ch c b).chanAbort ch abGo
      else if ((s.chanTake ch c b).sync c.go).count = 0 then (s.chanTake ch c b).addMode ch c else s.chanTake ch c b := by
  have hg := chanReceive_guard hrecv hpeer hpc harm hgr hwhole hbc
  subst hch hb hplain
  simp only [State.chanReceive, hc]
  refine (if_neg hg).trans ((if_neg (Nat.not_lt.mpr hfit)).trans ((if_neg (by rw [hadd, hok]; exact Bool.false_ne_true)).trans ?_))
  exact (if_neg Bool.false_ne_true).trans (if_pos hadd)

/-- A whole message is taken, carried on to the next channel, and the arm is done. -/
theorem chanReceive_whole (hfit : b.length ≤ c.bufSize) (hadd : c.add = false) (hplain : bc = false) :
    s.chanReceive m bc = ((s.nextChan c).elim (s.chanTake ch c b) fun x => (s.chanTake ch c b).sendChan x.1 x.2 b).chanDone ch c := by
  have hg := chanReceive_guard hrecv hpeer hpc harm hgr hwhole hbc
  have hnx := nextChan_chanTake s ch c b
  subst hch hb hplain
  simp only [State.chanReceive, hc, if_neg hg, if_neg (Nat.not_lt.mpr hfit), hadd, Bool.false_and, Bool.false_eq_true, if_false, Bool.not_false,
    Bool.true_or, Bool.not_true]
  rw [← hnx]
  refine congrArg (State.chanDone · _ c) ?_
  have hcase : ∀ (x : Option (Nat × ChanRec)) (v : State) (b : Bytes), (match x with | some (n, d) => v.sendChan n d b | none => v) =
      x.elim v fun x => v.sendChan x.1 x.2 b := by
    intro x v b
    cases x <;> rfl
  exact hcase ..

/-- A broadcast message goes on packet by packet; its last packet makes it whole, and the arm is done. -/
theorem chanReceive_broadcast (hfit : b.length ≤ c.bufSize) (hadd : c.add = false) (hbcast : bc = true) {on : State}
    (hon : on = (s.nextChan c).elim s fun x => (s.modChan x.1 fun k => if m.head.last then { k with grant := none, sentMsg := true } else k).bcSend x.1
      [{ m.head with src := s.devId, dst := x.2.peer, hops := 0, info := BitVec.ofNat 64 (x.2.info x.1) }]) :
    s.chanReceive m bc = if m.head.last then (on.chanTake ch c b).chanDone ch c else on.modChan ch fun k => { k with got := b, whole := false } := by
  have hg := chanReceive_guard hrecv hpeer hpc harm hgr hwhole hbc
  subst hch hb hbcast
  simp only [State.chanReceive, hc, if_neg hg, if_neg (Nat.not_lt.mpr hfit), hadd, Bool.false_and, Bool.false_eq_true, if_false, if_true,
    Bool.not_true, Bool.false_or]
  have hnx : (match s.nextChan c with
      | some (n, d) => (s.modChan n fun k => if m.head.last then { k with grant := none, sentMsg := true } else k).bcSend n
          [{ m.head with src := s.devId, dst := d.peer, hops := 0, info := BitVec.ofNat 64 (d.info n) }]
      | none => s : State) = on := by
    rw [hon]
    cases s.nextChan c <;> rfl
  refine Eq.trans (b := if !m.head.last then on.modChan _ fun k => { k with got := _, whole := m.head.last } else
    ((on.modChan _ fun k => { k with got := _, whole := m.head.last }).generalWrite none false c.buf _ |>.sendMsg c.peer clRs 4 (c.info _) []).chanDone _ c)
    (by rw [← hnx]; rfl) ?_
  cases m.head.last <;> rfl

end receive

end Sys2Proof.Machine
end


section
/-! PROOFS. The messages of channels. -/

namespace Sys2Proof.Machine

variable {s t : State} {l : LinkIx} {m : Msg} {ch : Nat}

/-! ### Messages that come on a link -/

section message
variable (hrun : s.running = true)
include hrun

theorem record_of_taken (ht : s.takeMsg l.val clRd 1 = some (m, t)) : record l s = t.chanReceive m false := by
  simp only [record, hrun, ht, Bool.not_true, Bool.false_eq_true, if_false]

theorem block_of_taken (ht : s.takeBlock l.val = some (m, t)) : block l s = t.chanReceive m true := by
  simp only [block, hrun, ht, Bool.not_true, Bool.false_eq_true, if_false]

section peer
variable {c : ChanRec} (hch : ch = fld m.head.info.toNat 0 12) (hc : (t.chan ch).rcd = some c) (hpeer : c.peer = m.head.src)
  (hpc : c.peerChan = fld m.head.info.toNat 12 12)
include hch hc hpeer hpc

/-- The acknowledgement of a message that was sent ends the sender's arm. -/
theorem chanAck_of_sent (ht : s.takeMsg l.val clRs 4 = some (m, t)) (hsend : c.send = true) (hsent : (t.chan ch).sentMsg = true) :
    chanAck l s = t.chanDone ch c := by
  subst hch
  simp only [chanAck, hrun, ht, hc, Bool.not_true, Bool.false_eq_true, if_false]
  exact if_pos (by rw [hsend, hpeer, hpc, hsent, beq_self_eq_true, beq_self_eq_true]; rfl)

/-- A grant is kept by the send channel that it names, and the channels that feed it may grant in turn. -/
theorem grant_of_channel {u : State} (ht : s.takeMsg l.val clRs 3 = some (m, t)) (hsend : c.send = true)
    (hu : u = t.setChan ch { t.chan ch with grant := some (bfld m.body 0 8 0 25) }) :
    grant l s = (u.channels.map (·.1)).foldl (fun s i => if ((s.chan i).rcd.bind (·.next)) = some ch then s.tryGrant i else s) u := by
  subst hch hu
  simp only [grant, hrun, ht, Bool.not_true, Bool.false_eq_true, if_false]
  refine if_pos ?_
  rw [hc, Option.any_some, hsend, hpeer, hpc, beq_self_eq_true, beq_self_eq_true]
  rfl

/-- An abort of the peer ends the arm. -/
theorem abort_of_peer (ht : s.takeMsg l.val clRd 3 = some (m, t) ∨ (s.takeMsg l.val clRd 3 = none ∧ s.takeMsg l.val clBc 3 = some (m, t))) :
    abort l s = t.chanAbort ch abReceived := by
  have htake : ((s.takeMsg l.val clRd 3).orElse fun _ => s.takeMsg l.val clBc 3) = some (m, t) := by
    rcases ht with h | ⟨hno, h⟩
    · rw [h]
      rfl
    · rw [hno, h]
      rfl
  subst hch
  simp only [abort, hrun, htake, hc, Bool.not_true, Bool.false_eq_true, if_false]
  exact if_pos (by rw [hpeer, hpc, beq_self_eq_true, beq_self_eq_true]; rfl)

end peer

variable (hch : ch = fld m.head.info.toNat 0 12)
include hch

/-- A grant of no channel, from a device of the pod, is space for a slice to be passed on. -/
theorem grant_of_slice (ht : s.takeMsg l.val clRs 3 = some (m, t)) (h0 : fld m.head.info.toNat 12 12 = 0)
    (hin : t.podTable.contains m.head.src = true) (hno : (t.chan ch).rcd = none) :
    grant l s = State.progress { t with kneadGrants := t.kneadGrants ++ [(m.head.src, ch, bfld m.body 0 8 0 25)] } := by
  subst hch
  simp only [grant, hrun, ht, hno, Bool.not_true, Bool.false_eq_true, if_false, Option.any_none]
  exact if_pos ⟨h0, hin⟩

/-- A slice reaches the work that granted it space. -/
theorem knead_of_taken (ht : s.takeMsg l.val clRd 2 = some (m, t)) :
    (∀ k, t.kneads.find? (fun k => k.num == ch && k.dev == m.head.src) = some k → knead l s =
      State.progress (State.modProg { t with kneads := t.kneads.erase k } k.who fun p =>
        { p with parts := p.parts ++ [⟨.knead k.list k.slice, m.body, false, k.dev⟩] })) ∧
    (t.kneads.find? (fun k => k.num == ch && k.dev == m.head.src) = none → knead l s = t) := by
  subst hch
  refine ⟨fun k hk => ?_, fun hk => ?_⟩
  · simp only [knead, hrun, ht, hk, Bool.not_true, Bool.false_eq_true, if_false]
  · simp only [knead, hrun, ht, hk, Bool.not_true, Bool.false_eq_true, if_false]

end message

/-! ### Channel set-ups -/

/-- What a checked channel record does, by what fails. -/
theorem takeChannel_cases {u : State} {r pos : Nat} {b : Bytes} (hch : ch = fld (fieldAt b 0 8) 0 12) :
    (u.chanOk (u.ringPort r) (u.ringFn r) b = true → (u.chan ch).arm = none →
      u.takeChannel r pos b = (u.setChan ch { rcd := some (ChanRec.parse b) }).completeWith r pos stOk) ∧
    (u.chanOk (u.ringPort r) (u.ringFn r) b = true → (u.chan ch).arm ≠ none → u.takeChannel r pos b = u.completeWith r pos stClaimConflict) ∧
    (u.chanOk (u.ringPort r) (u.ringFn r) b = false → u.takeChannel r pos b = u.completeWith r pos stBadDescriptor) := by
  subst hch
  have hgood : u.chanOk (u.ringPort r) (u.ringFn r) b = true → ¬ (!u.chanOk (u.ringPort r) (u.ringFn r) b) = true := by
    intro h
    rw [h]
    exact Bool.false_ne_true
  refine ⟨fun hok harm => (if_neg (hgood hok)).trans (if_neg ?_), fun hok harm => (if_neg (hgood hok)).trans (if_pos ?_), fun hbad => if_pos ?_⟩
  · rw [harm]
    exact Bool.false_ne_true
  · exact Option.isSome_iff_ne_none.mpr harm
  · rw [hbad]
    rfl

/-- Settles O47: the descriptors of channels and fences, and their messages, by the lemmas above. -/
theorem channelCommands : Obligations.ChannelCommands := by
  unfold Obligations.ChannelCommands
  refine ⟨⟨?_, ?_, ?_, ?_, ?_⟩, ?_, ?_, ?_, ?_⟩
  · intro r pos ans s e hx hplain asked
    have hex : exec (.channelSetup r pos ans) s = .next _ := congrArg Host.Outcome.next (channelSetup_eq (ans := ans) hx hplain)
    refine ⟨fun hnone => ?_, ?_⟩
    · obtain ⟨hwait, hlost⟩ := setupRead_of_unsent (ans := ans) (k := fun s b => s.takeChannel r.val pos b) hnone
      exact ⟨fun h => hex.trans (congrArg Host.Outcome.next (hwait h)), fun h => hex.trans (congrArg Host.Outcome.next (hlost h))⟩
    · intro a hsent u
      obtain ⟨hfail, htake⟩ := setupRead_of_sent (ans := ans) (k := fun s b => s.takeChannel r.val pos b) (u := u) hsent rfl
      refine ⟨fun h => hex.trans (congrArg Host.Outcome.next (hfail h)), fun b hb => ?_⟩
      intro ch ok
      obtain ⟨hfree, hused, hbad⟩ := takeChannel_cases (u := u) (r := r.val) (pos := pos) (b := b) (ch := ch) rfl
      have htaken := hex.trans (congrArg Host.Outcome.next (htake b hb))
      exact ⟨fun hok harm => htaken.trans (congrArg Host.Outcome.next (hfree hok harm)),
        fun hok harm => htaken.trans (congrArg Host.Outcome.next (hused hok harm)), fun hno => htaken.trans (congrArg Host.Outcome.next (hbad hno))⟩
  · intro r pos s e hx hplain ch hown hrcd names
    have hex : exec (.channelArm r pos) s = .next _ := congrArg Host.Outcome.next (channelArm_of_owned (ch := ch) hx hplain rfl hown hrcd)
    refine ⟨fun h => hex.trans (congrArg Host.Outcome.next (if_pos h)), fun h harm => ?_, fun h harm => ?_⟩
    · exact hex.trans (congrArg Host.Outcome.next ((if_neg (by rw [h]; exact Bool.false_ne_true)).trans
        (if_neg (by rw [harm]; exact Bool.false_ne_true))))
    · exact hex.trans (congrArg Host.Outcome.next ((if_neg (by rw [h]; exact Bool.false_ne_true)).trans
        (if_pos (Option.isSome_iff_ne_none.mpr harm))))
  · intro r pos s e hx hplain w dev h3 ds
    have hex : exec (.fabricFence r pos) s = .next _ :=
      congrArg Host.Outcome.next (fabricFence_of_good (w := w) (dev := dev) (ds := ds) hx hplain rfl rfl h3 rfl)
    exact ⟨fun h => hex.trans (congrArg Host.Outcome.next (if_pos (List.isEmpty_iff.mpr h))),
      fun h => hex.trans (congrArg Host.Outcome.next (if_neg fun h' => h (List.isEmpty_iff.mp h')))⟩
  · intro r pos s f hf hrun
    have hex : exec (.fabricTimeout r pos) s = .next _ := congrArg Host.Outcome.next (fabricTimeout_of_found hf hrun)
    exact ⟨fun h => hex.trans (congrArg Host.Outcome.next (if_pos h)), fun h => hex.trans (congrArg Host.Outcome.next (if_neg (Nat.not_le.mpr h)))⟩
  · intro ch s r pos since lim hrun harm
    have hex : exec (.channelTimeout ch) s = .next _ := congrArg Host.Outcome.next (channelTimeout_of_armed hrun harm)
    refine ⟨fun h hs hw => hex.trans (congrArg Host.Outcome.next (if_pos ⟨h, hs, hw⟩)), fun h => hex.trans (congrArg Host.Outcome.next (if_neg ?_))⟩
    rintro ⟨hle, hs, hw⟩
    rcases h with h | h | h
    · exact Nat.not_le.mpr h hle
    · exact Bool.false_ne_true (hs.symm.trans h)
    · exact Bool.false_ne_true (hw.symm.trans h)
  · intro ch s c hc hrun harm hsent
    have hex : exec (.channelSend ch) s = .next _ := congrArg Host.Outcome.next (channelSend_of_armed hc hrun harm hsent)
    refine ⟨fun h => hex.trans (congrArg Host.Outcome.next (if_pos h)), fun h hn => ?_, fun h hz => ?_⟩
    · exact hex.trans (congrArg Host.Outcome.next ((if_neg (by rw [h]; exact Bool.false_ne_true)).trans (if_pos hn)))
    · have hgo := hex.trans (congrArg Host.Outcome.next ((if_neg (by rw [h]; exact Bool.false_ne_true)).trans (if_neg (not_not.mpr hz))))
      refine ⟨fun hsend => ?_, fun hsend => ?_⟩
      · have hout := hgo.trans (congrArg Host.Outcome.next (if_pos hsend))
        refine ⟨fun hno => ?_, fun hgr => ?_⟩
        · exact hout.trans (congrArg Host.Outcome.next (if_pos (by rw [hno]; rfl)))
        · have hgranted := hout.trans (congrArg Host.Outcome.next
            (if_neg (by rw [Option.isNone_eq_false_iff.mpr (Option.isSome_iff_ne_none.mpr hgr)]; exact Bool.false_ne_true)))
          refine ⟨fun hadd => hgranted.trans (congrArg Host.Outcome.next (if_pos hadd)), fun hadd => ?_⟩
          have hplain := hgranted.trans (congrArg Host.Outcome.next (if_neg (by rw [hadd]; exact Bool.false_ne_true)))
          exact ⟨fun b hb => hplain.trans (by rw [hb]; rfl), fun hno => hplain.trans (by rw [hno]; rfl)⟩
      · exact hgo.trans (congrArg Host.Outcome.next (if_neg (by rw [hsend]; exact Bool.false_ne_true)))
  · intro l s t m c hrun ch k b hc hrecv hpeer hpc harm hgr hwhole taken
    refine ⟨fun ht hbc => ?_, fun ht hbc => ?_⟩
    · have hex : exec (.record l) s = .next _ := congrArg Host.Outcome.next (record_of_taken hrun ht)
      refine ⟨fun hlong => ?_, fun hfit hadd => ?_, fun hfit hadd r hr => ⟨fun har => ?_, fun har hgo => ?_⟩⟩
      · exact hex.trans (congrArg Host.Outcome.next (chanReceive_tooLong rfl rfl hc hrecv hpeer hpc harm hgr hwhole hbc hlong))
      · have hw := hex.trans (congrArg Host.Outcome.next (chanReceive_whole rfl rfl hc hrecv hpeer hpc harm hgr hwhole hbc hfit hadd rfl))
        exact ⟨fun hn => hw.trans (by rw [nextChan_of_none hn]; rfl), fun n d hn hd => hw.trans (by rw [nextChan_of_some hn hd]; rfl)⟩
      · exact hex.trans (congrArg Host.Outcome.next (chanReceive_badArith rfl rfl hc hrecv hpeer hpc harm hgr hwhole hbc hfit hadd
          (by rw [hr, Option.any_some]; exact beq_false_of_ne har)))
      · have ha := hex.trans (congrArg Host.Outcome.next (chanReceive_add rfl rfl hc hrecv hpeer hpc harm hgr hwhole hbc hfit hadd
          (by rw [hr, Option.any_some, har]; rfl) rfl))
        have hlive := ha.trans (congrArg Host.Outcome.next (if_neg fun h => Bool.false_ne_true (hgo.symm.trans h)))
        exact ⟨fun hn => hlive.trans (congrArg Host.Outcome.next (if_neg hn)), fun hz => hlive.trans (congrArg Host.Outcome.next (if_pos hz))⟩
    · have hex : exec (.block l) s = .next _ := congrArg Host.Outcome.next (block_of_taken hrun ht)
      refine ⟨fun hlong => ?_, fun hfit hadd => ?_⟩
      · exact hex.trans (congrArg Host.Outcome.next (chanReceive_tooLong rfl rfl hc hrecv hpeer hpc harm hgr hwhole hbc hlong))
      · intro on
        have hb := hex.trans (congrArg Host.Outcome.next (chanReceive_broadcast rfl rfl hc hrecv hpeer hpc harm hgr hwhole hbc hfit hadd rfl rfl))
        refine ⟨fun hl => ?_, fun hl => ?_⟩
        · have hpart := hb.trans (congrArg Host.Outcome.next (if_neg (by rw [hl]; exact Bool.false_ne_true)))
          exact ⟨fun hn => hpart.trans (by rw [nextChan_of_none hn]; rfl), fun n d hn hd => hpart.trans (by rw [nextChan_of_some hn hd, hl]; rfl)⟩
        · have hlast := hb.trans (congrArg Host.Outcome.next (if_pos hl))
          exact ⟨fun hn => hlast.trans (by rw [nextChan_of_none hn]; rfl), fun n d hn hd => hlast.trans (by rw [nextChan_of_some hn hd, hl]; rfl)⟩
  · intro l s t m c hrun ch hc hpeer hpc
    refine ⟨fun ht hsend hsent => ?_, ?_, fun ht => ?_⟩
    · exact congrArg Host.Outcome.next (chanAck_of_sent hrun rfl hc hpeer hpc ht hsend hsent)
    · intro ht hsend u
      exact congrArg Host.Outcome.next (grant_of_channel hrun rfl hc hpeer hpc (u := u) ht hsend rfl)
    · exact congrArg Host.Outcome.next (abort_of_peer hrun rfl hc hpeer hpc ht)
  · intro l s t m hrun num
    refine ⟨fun ht h0 hin hno => congrArg Host.Outcome.next (grant_of_slice hrun rfl ht h0 hin hno), fun ht => ?_⟩
    obtain ⟨hsome, hnone⟩ := knead_of_taken (ch := num) hrun rfl ht
    exact ⟨fun k hk => congrArg Host.Outcome.next (hsome k hk), fun hk => congrArg Host.Outcome.next (hnone hk)⟩

end Sys2Proof.Machine
end


section
/-! PROOFS. Services, held items and stream arms. -/

namespace Sys2Proof.Machine

variable {s : State} {r : RingIx} {pos : Nat} {x : Live}

/-- A field at the bottom of its bytes is their remainder. -/
theorem bfld_zero (b : Bytes) (off len w : Nat) : bfld b off len 0 w = fieldAt b off len % 2 ^ w := rfl

/-! ### Services -/

section bind
variable {n g : Nat} {v : Service} (hx : s.descOf r.val pos 0x0B = some x) (hgood : s.bindBad r.val x.entry = false)
  (hn : n = fieldAt x.entry 8 4 % 16)
include hx hgood hn

/-- A service number in use takes no binding. -/
theorem serviceBind_of_used (hused : (s.svc (s.ringPort r.val) n).isSome = true) :
    serviceBind r pos s = s.completeWith r.val pos stClaimConflict := by
  subst hn
  simp only [serviceBind, hx, hgood, Bool.false_eq_true, if_false]
  exact if_pos hused

variable (hfree : s.svc (s.ringPort r.val) n = none) (hg : g = fieldAt x.entry 12 4 % 2 ^ 11)
  (hv : v = ⟨g, fieldAt x.entry 16 8, fieldAt x.entry 24 4 % 2 ^ 13,
    (List.range (fieldAt x.entry 28 4 % 16)).map fun k => fieldAt x.entry (32 + 2 * k) 2, [], false⟩)
include hfree hg hv

/-- A free service is bound, and where its image is asked for it is loaded before, once no express item runs on its cores. -/
theorem serviceBind_of_free :
    serviceBind r pos s =
      if (fieldAt x.entry 8 4).testBit 16 && (s.expressCores (s.ringPort r.val)).any fun c => (s.core c).expressBusy then s
      else (if (fieldAt x.entry 8 4).testBit 16 then (s.expressCores (s.ringPort r.val)).foldl (fun s' c =>
          if (s'.core c).tagExpress = some (codeTag (s.ringPort r.val) g) then s' else s'.loadCode c (s.ringPort r.val) g true)
            (s.setSvc (s.ringPort r.val) n (some v))
        else s.setSvc (s.ringPort r.val) n (some v)).completeWith r.val pos stOk := by
  subst hn hg hv
  simp only [serviceBind, hx, hgood, Bool.false_eq_true, if_false, bitAt_eq_testBit]
  exact if_neg (by rw [bfld_zero, show fieldAt x.entry 8 4 % 2 ^ 4 = fieldAt x.entry 8 4 % 16 from rfl, hfree]; exact Bool.false_ne_true)

end bind

/-- A request of a bound service writes its slot and becomes an express `Inst`. -/
theorem serviceRequest_of_bound {num n : Nat} {v : Service} {g : Program} {t : State} (hx : s.descOf r.val pos 0x0C = some x)
    (hnum : x.num = some num) (hn : n = fieldAt x.entry 8 4 % 16) (hv : s.svc (s.ringPort r.val) n = some v)
    (hg : s.prog (s.ringPort r.val) v.program = some g)
    (ht : t = s.generalWrite none true (v.area + 128 * x.slot) (x.entry ++ x.ext.getD (List.replicate 64 0#8))) :
    serviceRequest r pos s = t.createInst r.val pos x num
      { program := v.program, cls := some .express, word := BitVec.ofNat 64 (x.slot * 2 ^ 14 + n * 2 ^ 26),
        result2 := BitVec.ofNat 64 (fieldAt x.entry 56 8), budget := fieldAt x.entry 52 4, service := some (n, x.slot),
        versions := x.versions } g := by
  subst hn ht
  have hv' : s.svc (s.ringPort r.val) (bfld x.entry 8 4 0 4) = some v := hv
  simp only [serviceRequest, hx, hv', hg, hnum]
  rfl

/-- A service that is unbound is freed where no slot is in use, and takes no more requests otherwise. -/
theorem serviceUnbind_of_bound {n : Nat} {v : Service} (hx : s.descOf r.val pos 0x0D = some x) (hplain : unnamed x.entry [(64, 4)] = false)
    (hn : n = fieldAt x.entry 8 4 % 16) (hv : s.svc (s.ringPort r.val) n = some v) :
    serviceUnbind r pos s = if v.used.isEmpty then (s.setSvc (s.ringPort r.val) n none).completeWith r.val pos stOk
      else s.setSvc (s.ringPort r.val) n (some { v with unbinding := true }) := by
  subst hn
  have hv' : s.svc (s.ringPort r.val) (bfld x.entry 8 4 0 4) = some v := hv
  simp only [serviceUnbind, hx, hplain, hv', Bool.false_eq_true, if_false]
  rfl

theorem svc_setSvc (s : State) (p n : Nat) (v : Option Service) : (s.setSvc p n v).svc p n = v := Tab.get_put (none : Option Service) ..

/-- No request is accepted for a service that is being unbound. -/
theorem requestOk_of_unbinding {p : Nat} {e : Live} {v : Service} (hv : s.svc p (fieldAt e.entry 8 4 % 16) = some v) (hu : v.unbinding = true) :
    s.requestOk p e = none := by
  have hv' : s.svc p (bfld e.entry 8 4 0 4) = some v := hv
  simp only [State.requestOk, hv', hu, Bool.true_or, if_true]

/-! ### Held items -/

section held
variable {c : Nat} {f : FaultRec} {q : Run} (hheld : s.heldItem r.val (fieldAt x.entry 8 8 % 2 ^ 48) = some (c, f))
  (hplain : unnamed x.entry [(64, 48)] = false) (hq : (s.core c).run = some q)
include hheld hplain

/-- Only an item held for `INT_SAT` resumes. -/
theorem itemResume_of_otherCode (hx : s.descOf r.val pos 0x0E = some x) (hf : f.code ≠ xIntSat) :
    itemResume r pos s = s.completeWith r.val pos stBadDescriptor := by
  have hheld' : s.heldItem r.val (bfld x.entry 8 8 0 48) = some (c, f) := hheld
  simp only [itemResume, hx, hheld']
  exact if_pos (by rw [hplain, bne_iff_ne.mpr hf]; rfl)

include hq

/-- An item held for `INT_SAT` goes on behind the instruction. -/
theorem itemResume_of_intSat (hx : s.descOf r.val pos 0x0E = some x) (hf : f.code = xIntSat) :
    itemResume r pos s =
      (s.onCore c fun k => { k.next with held := none, run := some { q with sat := true } }).completeWith r.val pos stOk := by
  have hheld' : s.heldItem r.val (bfld x.entry 8 8 0 48) = some (c, f) := hheld
  simp only [itemResume, hx, hheld']
  refine (if_neg (by rw [hplain, hf, bne_self_eq_false]; exact Bool.false_ne_true)).trans ?_
  rw [adv_modCore rfl]
  refine congrArg (fun k => (s.setCore c k).completeWith r.val pos stOk) ?_
  exact congrArg (fun o => { (s.core c).next with held := none, run := o }) (congrArg (Option.map _) hq)

/-- An item that is aborted ends with its fault. -/
theorem itemAbort_of_held (hx : s.descOf r.val pos 0x0F = some x) :
    itemAbort r pos s = ((s.onCore c fun k =>
      { k with held := none, run := some { q with fault := some f, stall := some (.ending 0) } }).completeWith r.val pos stOk).tryEnd c := by
  have hheld' : s.heldItem r.val (bfld x.entry 8 8 0 48) = some (c, f) := hheld
  simp only [itemAbort, hx, hheld']
  refine (if_neg (by rw [hplain]; exact Bool.false_ne_true)).trans ?_
  refine congrArg (fun k => ((s.setCore c k).completeWith r.val pos stOk).tryEnd c) ?_
  exact congrArg (fun o => { s.core c with held := none, run := o }) (congrArg (Option.map _) hq)

end held

/-- A stream arm arms what its descriptor carries. -/
theorem streamArm_of_good (hx : s.descOf r.val pos 0x10 = some x) (hplain : unnamed x.entry [(64, 256)] = false) :
    streamArm r pos s =
      (s.begin r.val pos).armBytes (s.ringPort r.val) ((s.ring r.val).cls == .express) (slice x.entry 8 32) (.ring r.val pos) 0 := by
  have hcls : ((s.begin r.val pos).ring r.val).cls = (s.ring r.val).cls := by
    rw [State.begin, State.modRing, State.ring_setRing]
    rfl
  simp only [streamArm, hx, hplain, Bool.false_eq_true, if_false, hcls]
  rfl

/-- Settles O35: services, held items and stream arms by the lemmas above. -/
theorem serviceAndItemDescriptors : Obligations.ServiceAndItemDescriptors := by
  unfold Obligations.ServiceAndItemDescriptors
  intro r pos s x p b n
  refine ⟨?_, fun hx hgood hused => congrArg Host.Outcome.next (serviceBind_of_used (n := n) hx hgood rfl hused), ?_, ?_, ?_, ?_,
    fun hx hplain => congrArg Host.Outcome.next (streamArm_of_good hx hplain)⟩
  · intro hx hgood hfree g tables bound
    have hex : exec (.serviceBind r pos) s = .next _ :=
      congrArg Host.Outcome.next (serviceBind_of_free (n := n) (g := g) (v := ⟨g, fieldAt b 16 8, fieldAt b 24 4 % 2 ^ 13, tables, [], false⟩)
        hx hgood rfl hfree rfl rfl)
    refine ⟨fun hb => ?_, fun hb hidle => ?_, fun hb hbusy => ?_⟩
    · exact hex.trans (congrArg Host.Outcome.next ((if_neg (by rw [hb]; exact Bool.false_ne_true)).trans
        (congrArg (State.completeWith · r.val pos stOk) (if_neg (by rw [hb]; exact Bool.false_ne_true)))))
    · refine hex.trans (congrArg Host.Outcome.next ((if_neg ?_).trans (congrArg (State.completeWith · r.val pos stOk) (if_pos hb))))
      intro h
      obtain ⟨c, hc, hbusy⟩ := List.any_eq_true.mp (Bool.and_eq_true_iff.mp h).2
      exact Bool.false_ne_true ((hidle c hc).symm.trans hbusy)
    · obtain ⟨c, hc, hcb⟩ := hbusy
      exact hex.trans (congrArg Host.Outcome.next (if_pos (Bool.and_eq_true_iff.mpr ⟨hb, List.any_eq_true.mpr ⟨c, hc, hcb⟩⟩)))
  · intro num hx hnum v g hv hg s1
    exact congrArg Host.Outcome.next (serviceRequest_of_bound (n := n) (t := s1) hx hnum rfl hv hg rfl)
  · intro hx hplain v hv
    have hex : exec (.serviceUnbind r pos) s = .next _ := congrArg Host.Outcome.next (serviceUnbind_of_bound (n := n) hx hplain rfl hv)
    refine ⟨fun h => hex.trans (congrArg Host.Outcome.next (if_pos (List.isEmpty_iff.mpr h))),
      fun h => ⟨hex.trans (congrArg Host.Outcome.next (if_neg fun h' => h (List.isEmpty_iff.mp h'))), fun e _ hn => ?_⟩⟩
    refine requestOk_of_unbinding (v := { v with unbinding := true }) ?_ rfl
    rw [hn]
    exact svc_setSvc ..
  · intro hx hplain c f q hheld hq
    exact ⟨fun hf => congrArg Host.Outcome.next (itemResume_of_intSat hheld hplain hq hx hf),
      fun hf => congrArg Host.Outcome.next (itemResume_of_otherCode hheld hplain hx hf)⟩
  · intro hx hplain c f q hheld hq
    exact congrArg Host.Outcome.next (itemAbort_of_held hheld hplain hq hx)

end Sys2Proof.Machine
end


section
/-! PROOFS. Commands of the management bus. -/

namespace Sys2Proof.Machine

variable {s : State} {x : MgXfer}

theorem HostSide.mgmt {t : State} (h : HostSide s t) : t.mgmt = s.mgmt := by rw [h.rest]

/-! ### Transfers that carry nothing out -/

/-- A transfer whose PEC fails carries nothing out. -/
theorem mgDo_of_badPec (hx : x.pecOk = false) (jinal : Bool) (act : State → Nat × Bytes × State) : s.mgDo x jinal act = s :=
  if_pos (by rw [hx]; rfl)

section supplied
variable (hp : s.power.standby = true) (hx : x.pecOk = true)
include hp hx

/-- Before Jinal runs its commands are not ready. -/
theorem mgDo_of_notReady (hup : s.jinalUp = false) (act : State → Nat × Bytes × State) : s.mgDo x true act = s.emit (.mgmt mgNotReady []) :=
  (if_neg (by rw [hx, hp]; exact Bool.false_ne_true)).trans (if_pos (by rw [hup]; rfl))

variable (hup : s.jinalUp = true)
include hup

/-- While an earlier command of the interface runs the next is refused. -/
theorem mgDo_of_busy (hr : s.mgmt.running ≠ none) (act : State → Nat × Bytes × State) : s.mgDo x true act = s.emit (.mgmt mgBusy []) :=
  (if_neg (by rw [hx, hp]; exact Bool.false_ne_true)).trans ((if_neg (by rw [hup]; exact Bool.false_ne_true)).trans
    (if_pos (Option.isSome_iff_ne_none.mpr hr)))

/-! ### Commands that are carried out -/

variable (hr : s.mgmt.running = none)
include hr

/-- A command that only answers changes nothing else. -/
theorem mgDo_of_answer {act : State → Nat × Bytes × State} {st : Nat} {b : Bytes} {t : State} (ha : act s = (st, b, t)) :
    s.mgDo x true act = t.emit (.mgmt st b) := by
  rw [State.mgDo_of_ready hx hp hup hr, ha]

theorem temps_of_group {g a n : Nat} (h : tempGroup g = some (a, n)) :
    temps x g s = s.emit (.mgmt fwOk (((s.mgmt.readings.drop a).take n).flatMap fun v => natLe 2 v.toNat)) :=
  mgDo_of_answer hp hx hup hr (by rw [h])

theorem temps_of_noGroup {g : Nat} (h : tempGroup g = none) : temps x g s = s.emit (.mgmt fwBad []) := mgDo_of_answer hp hx hup hr (by rw [h])

theorem logRecent_of_entry {i : Nat} {e : LogEntry} (hi : i < 16) (h : (s.log lgDevice).recent[i]? = some e) :
    logRecent x i s = s.emit (.mgmt fwOk (e.words.flatMap (natLe 8))) :=
  mgDo_of_answer hp hx hup hr ((if_neg (Nat.not_le.mpr hi)).trans (by rw [h]))

theorem logRecent_of_none {i : Nat} (hi : i < 16) (h : (s.log lgDevice).recent[i]? = none) :
    logRecent x i s = s.emit (.mgmt fwOk (List.replicate 32 0#8)) :=
  mgDo_of_answer hp hx hup hr ((if_neg (Nat.not_le.mpr hi)).trans (by rw [h]))

theorem logRecent_of_beyond {i : Nat} (hi : 16 ≤ i) : logRecent x i s = s.emit (.mgmt fwBad []) := mgDo_of_answer hp hx hup hr (if_pos hi)

theorem cables_of_absent {c : Nat} (hc : c < 9) (h : Tab.get none s.mgmt.cables c = none) :
    cables x c s = s.emit (.mgmt fwOk (List.replicate 19 0#8)) :=
  mgDo_of_answer hp hx hup hr ((if_neg (Nat.not_le.mpr hc)).trans (by rw [h]))

theorem cables_of_mated {c : Nat} {v : Nat × Bytes} (hc : c < 9) (h : Tab.get none s.mgmt.cables c = some v) :
    cables x c s = s.emit (.mgmt fwOk ([1] ++ natLe 2 v.1 ++ slice v.2 0 16)) :=
  mgDo_of_answer hp hx hup hr ((if_neg (Nat.not_le.mpr hc)).trans (by rw [h]))

section reset
variable {ms : Nat} (hlo : 10 ≤ ms) (hhi : ms ≤ 60000)
include hlo hhi

theorem resetReq_of_allowed (h : s.resetRefused = false) : resetReq x ms s =
    (State.noteRequest { s with mgmt := { s.mgmt with resetDeadline := some (s.ticks + ms * ticksPerMs) } } 2 (ms * ticksPerMs)).emit (.mgmt fwOk []) :=
  mgDo_of_answer hp hx hup hr ((if_neg (by omega)).trans (if_neg (by rw [h]; exact Bool.false_ne_true)))

end reset

theorem resetReq_of_badGrace {ms : Nat} (h : ms < 10 ∨ 60000 < ms) : resetReq x ms s = s.emit (.mgmt fwBad []) :=
  mgDo_of_answer hp hx hup hr (if_pos h)

end supplied

/-- Settles O57: the commands of the management bus by the lemmas above. -/
theorem managementCommands : Obligations.ManagementCommands := by
  unfold Obligations.ManagementCommands
  intro x s hp
  refine ⟨fun hx => ?_, fun hx hup => ?_, fun hx hup hr => ?_, fun hx hup hr => ?_⟩
  · exact ⟨congrArg Host.Outcome.next (mgDo_of_badPec hx ..), congrArg Host.Outcome.next (mgDo_of_badPec hx ..),
      congrArg Host.Outcome.next (mgDo_of_badPec hx ..)⟩
  · exact ⟨congrArg Host.Outcome.next (mgDo_of_notReady hp hx hup _), congrArg Host.Outcome.next (mgDo_of_notReady hp hx hup _)⟩
  · exact ⟨congrArg Host.Outcome.next (mgDo_of_busy hp hx hup hr _), congrArg Host.Outcome.next (mgDo_of_busy hp hx hup hr _),
      congrArg Host.Outcome.next (mgDo_of_busy hp hx hup hr _)⟩
  · intro ok
    refine ⟨?_, ?_, ?_, ?_, ?_, ?_, ?_, ?_, ?_, ?_, ?_, ?_, ?_, ?_, ?_, ?_⟩
    · exact congrArg Host.Outcome.next (mgDo_of_answer hp hx hup hr rfl)
    · exact congrArg Host.Outcome.next (mgDo_of_answer hp hx hup hr rfl)
    · exact congrArg Host.Outcome.next (mgDo_of_answer hp hx hup hr rfl)
    · exact fun g a n h => congrArg Host.Outcome.next (temps_of_group hp hx hup hr h)
    · exact fun g h => congrArg Host.Outcome.next (temps_of_noGroup hp hx hup hr h)
    · exact congrArg Host.Outcome.next (mgDo_of_answer hp hx hup hr rfl)
    · exact ⟨_, rfl, congrArg Host.Outcome.next (mgDo_of_answer hp hx hup hr rfl)⟩
    · exact fun i e hi h => congrArg Host.Outcome.next (logRecent_of_entry hp hx hup hr hi h)
    · exact fun i hi h => congrArg Host.Outcome.next (logRecent_of_none hp hx hup hr hi h)
    · exact fun i hi => congrArg Host.Outcome.next (logRecent_of_beyond hp hx hup hr hi)
    · exact congrArg Host.Outcome.next (mgDo_of_answer hp hx hup hr rfl)
    · exact fun c hc h => congrArg Host.Outcome.next (cables_of_absent hp hx hup hr hc h)
    · intro c v hc h
      refine ⟨[1] ++ natLe 2 v.1 ++ slice v.2 0 16, ?_, congrArg Host.Outcome.next (cables_of_mated hp hx hup hr hc h)⟩
      rw [List.length_append, List.length_append, length_natLe, length_slice]
      rfl
    · intro ms hlo hhi
      refine ⟨fun h => congrArg Host.Outcome.next (resetReq_of_allowed hp hx hup hr hlo hhi h), fun h => ⟨_, congrArg Host.Outcome.next
        (resetReq_of_refused hx hp hup hr hlo hhi h), (HostSide.report ..).mgmt⟩⟩
    · exact fun ms h => congrArg Host.Outcome.next (resetReq_of_badGrace hp hx hup hr h)
    · exact congrArg Host.Outcome.next (mgDo_of_answer hp hx hup hr rfl)

end Sys2Proof.Machine
end


section
/-! PROOFS. Start-up stages. -/

namespace Sys2Proof.Machine

variable {s : State}

/-! ### Stages that are under way -/

section awake
variable (ha : s.awake = true) (hh : s.mgmt.halted = false)
include ha hh

/-- A stage command acts in its own stage while the stage's time has not passed. -/
theorem atStage_iff (st : Stage) (hl : s.stageLate = false) : s.atStage st = true ↔ s.boot.stage = st := by
  unfold State.atStage
  rw [ha, hh, hl]
  simp only [Bool.not_false, Bool.true_and, Bool.and_true, beq_iff_eq]

omit ha hh in
/-- A stage command does nothing once the stage's time has passed. -/
theorem atStage_of_late (st : Stage) (hl : s.stageLate = true) : s.atStage st = false := by
  unfold State.atStage
  rw [hl, Bool.not_true, Bool.and_false]

/-- Verification ends the wake stage where that is still under way. -/
theorem verify_wakeEnd (hw : s.boot.stage = .wake) : verify s = verify s.wakeEnd := by
  have hend : s.wakeEnd.boot.stage = .verify := by
    rw [State.wakeEnd, if_pos hw]
  have hstay : s.wakeEnd.wakeEnd = s.wakeEnd := if_neg (by rw [hend]; decide)
  have hhalt : s.wakeEnd.mgmt = s.mgmt := by
    rw [State.wakeEnd, if_pos hw]
  have hpow : s.wakeEnd.power = s.power := by
    rw [State.wakeEnd, if_pos hw]
  have hgood : s.power.pwrgd = true := (Bool.and_eq_true_iff.mp ha).2
  have hawake : s.wakeEnd.awake = true := by
    unfold State.awake
    rw [hend, hpow, hgood]
    rfl
  simp only [verify, ha, hh, hawake, hhalt, hstay, Bool.not_false, Bool.and_self, if_true]

end awake

/-! ### Verification -/

/-- The slot that passes first, and the state in which the slots have been read. -/
def State.tried (s : State) : Option Bool × State :=
  State.tryReads { s with boot := { s.boot with slots := s.readSlots } } (s.readSlots.order.filter s.readSlots.usable)

/-- The slots' marks once one of them has been chosen to start. -/
def chosenOf (x : SlotState) (t : Option Bool × State) : State :=
  let v := t.2.putSlots (x.booted t.1)
  { v with boot := { v.boot with trial := (x.booted t.1).pendingFlag } }

/-- The state in which verification has read its slots and chosen the one that starts. -/
def State.chosen (s : State) : State := chosenOf s.readSlots s.tried

/-- What follows the choice of a slot: it starts, or the device recovers. -/
def State.verifyEnd (u : State) : Option Bool → State
  | none => u.toRecovery 1
  | some b => if !u.deviceCertOk then u.toRecovery 2
    else State.stageEnd { u with
      freeCtr := u.freeCtr + 1,
      boot := { u.boot with
        svn := u.slotSvn b, meas := u.measure b, aliasKey := u.aliasOf ((u.measure b).getD 10 0), aliasCert := u.makeAlias ((u.measure b).getD 10 0),
        udsLocked := true } }

/-- With no slot on trial, verification starts the first usable slot that passes, and recovers where none does. -/
theorem verify_of_stage (hat : s.atStage .verify = true) (hp : s.readSlots.pendingFlag = false) : verify s = s.chosen.verifyEnd s.tried.1 := by
  have hst : s.boot.stage = .verify := by
    simp only [State.atStage, Bool.and_eq_true, beq_iff_eq] at hat
    exact hat.1.2
  have hwake : s.wakeEnd = s := if_neg (by rw [hst]; decide)
  have hnot : ¬ (!s.atStage .verify) = true := by
    rw [hat]
    exact Bool.false_ne_true
  unfold verify State.chosen chosenOf State.tried
  rw [hwake, ite_self]
  generalize State.readSlots = slotsOf at hp ⊢
  generalize State.tryReads = tries
  generalize State.putSlots = put
  simp only [if_neg hnot, hp, Bool.false_and, if_neg Bool.false_ne_true]
  generalize tries _ _ = t
  obtain ⟨b, v⟩ := t
  cases b <;> rfl

section verify
variable {x : SlotState} {t : Option Bool × State} {u v : State} (hx : x = s.readSlots)
  (ht : t = State.tryReads { s with boot := { s.boot with slots := x } } (x.order.filter x.usable)) (hv : v = t.2.putSlots (x.booted t.1))
  (hu : u = { v with boot := { v.boot with trial := (x.booted t.1).pendingFlag } })
include hx ht

theorem eq_tried : t = s.tried := by rw [State.tried, ht, hx]

include hv hu

theorem eq_chosen : u = s.chosen := by
  have hc : chosenOf x t = s.chosen := by rw [State.chosen, hx, eq_tried hx ht]
  rw [← hc, hu, hv]
  rfl

variable (ha : s.awake = true) (hh : s.mgmt.halted = false) (hl : s.stageLate = false) (hst : s.boot.stage = .verify) (hp : x.pendingFlag = false)
include ha hh hl hst hp

theorem verify_of_passed {b : Bool} (hb : t.1 = some b) (hok : u.deviceCertOk = true) :
    verify s = State.stageEnd { u with
      freeCtr := u.freeCtr + 1,
      boot := { u.boot with
        svn := u.slotSvn b, meas := u.measure b, aliasKey := u.aliasOf ((u.measure b).getD 10 0), aliasCert := u.makeAlias ((u.measure b).getD 10 0),
        udsLocked := true } } := by
  rw [verify_of_stage ((atStage_iff ha hh _ hl).mpr hst) (hx ▸ hp), ← eq_tried hx ht, hb, ← eq_chosen hx ht hv hu]
  simp only [State.verifyEnd, hok, Bool.not_true, Bool.false_eq_true, if_false]

theorem verify_of_badCert {b : Bool} (hb : t.1 = some b) (hok : u.deviceCertOk = false) : verify s = u.toRecovery 2 := by
  rw [verify_of_stage ((atStage_iff ha hh _ hl).mpr hst) (hx ▸ hp), ← eq_tried hx ht, hb, ← eq_chosen hx ht hv hu]
  simp only [State.verifyEnd, hok, Bool.not_false, if_true]

theorem verify_of_noSlot (hb : t.1 = none) : verify s = u.toRecovery 1 := by
  rw [verify_of_stage ((atStage_iff ha hh _ hl).mpr hst) (hx ▸ hp), ← eq_tried hx ht, hb, ← eq_chosen hx ht hv hu]
  simp only [State.verifyEnd]

end verify

/-! ### The release of the ports -/

/-- The release of a port changes no unit, and no other port. -/
theorem releasePort_other (s : State) {p q : Nat} (h : q ≠ p) :
    ((s.releasePort p).port q = s.port q) ∧ ∀ fn, (s.releasePort p).unitLost fn q = s.unitLost fn q :=
  ⟨State.port_setPort_ne _ _ _ h, fun _ => rfl⟩

/-- The end of start-up lets go the ports whose units are there. -/
theorem releaseEnd_eq {o : Nat} {t : State} (ho : o = if s.boot.outcome = 2 then 2 else if s.boot.failStage = 0 then 0 else 1)
    (ht : t = State.stageEnd { s with boot := { s.boot with outcome := o } }) :
    s.releaseEnd = ([0, 1].filter fun p => !(t.port p).perst && !t.unitLost 6 p && !t.unitLost 3 p).foldl State.releasePort t := by
  have hend : s.releaseEnd = [0, 1].foldl (fun (s : State) p => if (s.port p).perst || s.unitLost 6 p || s.unitLost 3 p then s else s.releasePort p) t := by
    rw [ht, ho]
    rfl
  have hcond : ∀ a b c : Bool, (a || b || c) = !(!a && !b && !c) := by decide
  obtain ⟨hport, hunit⟩ := releasePort_other t (p := 0) (q := 1) (by decide)
  rw [hend]
  simp only [List.foldl_cons, List.foldl_nil, hcond]
  cases h0 : !(t.port 0).perst && !t.unitLost 6 0 && !t.unitLost 3 0 <;> cases h1 : !(t.port 1).perst && !t.unitLost 6 1 && !t.unitLost 3 1 <;>
    simp [h0, h1, hport, hunit]

/-! ### A stage that overruns -/

/-- A stage that has overrun is ended by the units that failed, or by itself where it waits for no unit. -/
theorem stageTimeout_of_late (ha : s.awake = true) (hh : s.mgmt.halted = false) (hl : s.stageLate = true) (us : Failed)
    (hall : ∀ n ∈ us, n < stageUnits s.boot.stage) :
    stageTimeout us s = if us.isEmpty && s.boot.stage != .wake && s.boot.stage != .verify then s else s.stageResult us := by
  have hmine : (us.filter fun n => decide (n < stageUnits s.boot.stage)) = us := List.filter_eq_self.mpr fun n hn => decide_eq_true (hall n hn)
  unfold stageTimeout
  rw [hmine, ha, hh, hl]
  simp only [Bool.not_true, Bool.false_or]

/-- A stage that has not overrun is not ended. -/
theorem stageTimeout_of_inTime (hl : s.stageLate = false) (us : Failed) : stageTimeout us s = s :=
  if_pos (by rw [hl, Bool.not_false, Bool.or_true, Bool.true_or])

/-- The result of the stages that wait for their own time only. -/
theorem stageResult_of_own (h : s.boot.stage = .wake ∨ s.boot.stage = .verify) (us : Failed) : s.stageResult us = s.toRecovery 3 := by
  rcases h with h | h <;> simp only [State.stageResult, h]

/-! ### What each stage does -/

section stage
variable (ha : s.awake = true) (hh : s.mgmt.halted = false) (hl : s.stageLate = false)
include ha hh hl

theorem clocks_of_stage (h : s.boot.stage = .clocks) (us : Failed) : clocks us s = s.clocksEnd us := if_pos ((atStage_iff ha hh _ hl).mpr h)

theorem bridges_of_stage (h : s.boot.stage = .bridges) (us : Failed) : bridges us s = s.bridgesEnd us := if_pos ((atStage_iff ha hh _ hl).mpr h)

theorem memories_of_stage (h : s.boot.stage = .memories) (us : Failed) : memories us s = s.memoriesEnd us :=
  if_pos ((atStage_iff ha hh _ hl).mpr h)

theorem flash_of_stage (h : s.boot.stage = .flash) (us : Failed) : flash us s = s.flashEnd us := if_pos ((atStage_iff ha hh _ hl).mpr h)

theorem links_of_stage (h : s.boot.stage = .links) (us : Failed) : links us s = s.linksEnd us := if_pos ((atStage_iff ha hh _ hl).mpr h)

theorem release_of_stage (h : s.boot.stage = .release) : release s = s.releaseEnd := if_pos ((atStage_iff ha hh _ hl).mpr h)

end stage

/-- A main clock that fails ends start-up. -/
theorem clocksEnd_main : s.clocksEnd [0] = (s.logEvent lgDevice [] eClock cReport 0 0 7 0 0).toRecovery 0 := by
  unfold State.clocksEnd
  exact if_pos rfl

/-- The links stage fails the links that train and have a cable. -/
theorem linksEnd_single {l : Nat} (hl : l < 36) (ht : (s.link l).st = .training) (hp : (s.link l).phase ≤ 4) (hc : s.cabled l = true) :
    s.linksEnd [l] = (s.linkGone l .down).stageEnd := by
  unfold State.linksEnd
  rw [List.filter_cons_of_pos (by rw [decide_eq_true hl, ht, decide_eq_true hp, hc]; rfl)]
  rfl

end Sys2Proof.Machine
end


section
/-! PROOFS. Resets, recovery answers, sensors and the supply. -/

namespace Sys2Proof.Machine

variable {s : State}

/-! ### Reset requests -/

/-- A physical function's command acts on the state in which its write has been noted. -/
theorem pfAccess_of_open {p : PortIx} {v : State} (ho : s.barOpen p.val 0 = true) (hv : v = s.wholeWrite p.val 0) (act : State → State) :
    s.pfAccess p act = act v := by
  rw [hv]
  exact if_pos ho

/-- A physical function's command reaches an open window at once. -/
theorem atBar_of_barOpen {p : PortIx} {v : State} (ho : s.barOpen p.val 0 = true) (hv : v = s.wholeWrite p.val 0) (i : Instr) (act : State → State) :
    s.atBar p i (fun s => s.pfAccess p act) = act v := by
  rw [State.atBar_of_fnOpen (Bool.and_eq_true_iff.mp ho).1]
  exact pfAccess_of_open ho hv act

section commands
variable {p : PortIx} {v : State} (ho : s.barOpen p.val 0 = true) (hv : v = s.wholeWrite p.val 0)
include ho hv

theorem exec_resetRequest : exec (.resetRequest p) s = .next (v.pfRequest p.val (fld (v.preg p.val 0x3010) 0 16)) :=
  congrArg Host.Outcome.next (atBar_of_barOpen ho hv _ fun s => s.pfRequest p.val (fld (s.preg p.val 0x3010) 0 16))

theorem exec_withdraw : exec (.withdraw p) s = .next v.withdrawAll := congrArg Host.Outcome.next (atBar_of_barOpen ho hv _ State.withdrawAll)

theorem exec_proceed (k : BitVec 16) : exec (.proceed p k) s = .next (v.giveAnswer p.val 2 k) :=
  congrArg Host.Outcome.next (atBar_of_barOpen ho hv _ fun s => s.giveAnswer p.val 2 k)

theorem exec_escalate (k : BitVec 16) : exec (.escalate p k) s = .next (v.giveAnswer p.val 3 k) :=
  congrArg Host.Outcome.next (atBar_of_barOpen ho hv _ fun s => s.giveAnswer p.val 3 k)

theorem exec_abandon (k : BitVec 16) : exec (.abandon p k) s = .next (v.giveAnswer p.val 4 k) :=
  congrArg Host.Outcome.next (atBar_of_barOpen ho hv _ fun s => s.giveAnswer p.val 4 k)

end commands

/-- A request is recorded with its deadline. -/
theorem pfRequest_of_first {p g : Nat} (hp : p < 2) (hno : (s.port p).resetReq = none) (hlo : 10 ≤ g) (hhi : g ≤ 60000)
    (hup : (s.port (1 - p)).linkUp = true) : s.pfRequest p g =
      (s.setPort p { s.port p with resetReq := some (s.ticks + g * ticksPerMs) }).noteRequest p (g * ticksPerMs) := by
  have hother : (s.modPort p fun x => { x with resetReq := some (s.ticks + g * ticksPerMs) }).port (1 - p) = s.port (1 - p) :=
    State.port_setPort_ne _ _ _ (by omega)
  refine (if_neg ?_).trans ?_
  · rw [hno, decide_eq_false (by omega)]
    exact Bool.false_ne_true
  · exact congrArg (State.noteRequest · p (g * ticksPerMs)) (if_pos (by rw [hother]; exact hup))

/-- A second request of a port is refused. -/
theorem pfRequest_of_second {p g : Nat} (h : (s.port p).resetReq ≠ none) : s.pfRequest p g = s.accessLog p 0 0x3010 accIgnored :=
  if_pos (by rw [Option.isSome_iff_ne_none.mpr h, Bool.true_or])

/-! ### Answers -/

/-- An answer with no event to answer is logged. -/
theorem giveAnswer_of_none {p a : Nat} {k : BitVec 16} (h : s.shown = none) : s.giveAnswer p a k = s.accessLog p 0 0x3008 accIgnored := by
  rw [State.giveAnswer, h]

section shown
variable {p : Nat} {k : BitVec 16} {e : HeldEvent} (h : s.shown = some e)
include h

/-- An answer that names another event is logged. -/
theorem giveAnswer_of_other {a : Nat} (hk : e.token ≠ k.toNat) : s.giveAnswer p a k = s.accessLog p 0 0x3008 accIgnored := by
  rw [State.giveAnswer, h]
  exact if_pos hk

variable (hk : e.token = k.toNat)
include hk

/-- To go on takes the rung of the event. -/
theorem giveAnswer_proceed : s.giveAnswer p 2 k = (s.answerEvent e 2).takeRung e := by
  rw [State.giveAnswer, h]
  exact (if_neg (not_not.mpr hk)).trans (if_pos rfl)

/-- To go further restarts the unit of a rung 1 event, and asks for a reset on a later rung. -/
theorem giveAnswer_escalate : s.giveAnswer p 3 k =
    if e.rung = 1 then ((s.answerEvent e 3).reinit e.unit e.code).goOn
    else State.pfRequest { s.answerEvent e 3 with
      heldEvents := (s.answerEvent e 3).heldEvents ++ [{ e with escalated := some p }] } p 10 := by
  rw [State.giveAnswer, h]
  exact (if_neg (not_not.mpr hk)).trans ((if_neg (by decide)).trans (if_pos rfl))

/-- To give up loses the unit. -/
theorem giveAnswer_abandon : s.giveAnswer p 4 k = (s.answerEvent e 4).lose e.unit e.code := by
  rw [State.giveAnswer, h]
  exact (if_neg (not_not.mpr hk)).trans ((if_neg (by decide)).trans ((if_neg (by decide)).trans (if_pos rfl)))

end shown

/-- An answer that does not come in time is the hardware's own. -/
theorem answerTimeout_of_found {k : BitVec 16} {e : HeldEvent} {ms : Nat}
    (h : s.heldEvents.find? (fun e => e.token == k.toNat && e.escalated.isNone) = some e) (hrun : s.running = true)
    (hms : ms = fld (s.dreg (0x1040 + 8 * e.unit.fn.val)) 32 16) :
    answerTimeout k s = if ms ≠ 0 ∧ e.since + ms * ticksPerMs ≤ s.ticks then (s.answerEvent e 5).takeRung e else s := by
  subst hms
  rw [answerTimeout, h]
  exact if_congr (by simp only [hrun, Bool.true_and, Bool.and_eq_true, bne_iff_ne, decide_eq_true_eq]) rfl rfl

/-! ### Deadlines -/

/-- What the deadline of reset requests does with the deadlines that have come. -/
def State.deadlineBy (s : State) (due : Option Nat → Bool) : State :=
  let late := [0, 1].filter fun p => due (s.port p).resetReq
  if due s.mgmt.resetDeadline then
    if s.resetRefused then
      let s := (s.report lgDevice [] eResetRequest 7 2 0).endRequests late
      { s with mgmt := { s.mgmt with resetDeadline := none } }
    else s.restart
  else if !s.mgmt.halted && s.resetAgreed && !late.isEmpty then s.restart
  else s.endRequests late

theorem resetDeadline_of_awake (ha : s.awake = true) : resetDeadline s = s.deadlineBy fun o => o.any fun d => decide (d ≤ s.ticks) := by
  have hdue : (fun o : Option Nat => match o with
      | some t => decide (t ≤ s.ticks)
      | none => false) = fun o => o.any fun d => decide (d ≤ s.ticks) := funext fun o => by cases o <;> rfl
  rw [← hdue]
  exact if_neg (by rw [ha]; exact Bool.false_ne_true)

section deadline
variable {late : List Nat} (ha : s.awake = true)
  (hlate : late = [0, 1].filter fun p => (s.port p).resetReq.any fun d => decide (d ≤ s.ticks))
include ha

/-- A management deadline that has come resets the device, unless that is refused. -/
theorem resetDeadline_of_mgmt {d : Nat} (hd : s.mgmt.resetDeadline = some d) (hle : d ≤ s.ticks) (href : s.resetRefused = false) :
    resetDeadline s = s.restart := by
  rw [resetDeadline_of_awake ha]
  refine (if_pos ?_).trans (if_neg ?_)
  · rw [hd]
    exact decide_eq_true hle
  · rw [href]
    exact Bool.false_ne_true

include hlate

theorem resetDeadline_of_refused {d : Nat} {t : State} (hd : s.mgmt.resetDeadline = some d) (hle : d ≤ s.ticks) (href : s.resetRefused = true)
    (ht : t = (s.report lgDevice [] eResetRequest 7 2 0).endRequests late) :
    resetDeadline s = { t with mgmt := { t.mgmt with resetDeadline := none } } := by
  rw [resetDeadline_of_awake ha, ht, hlate]
  refine (if_pos ?_).trans (if_pos href)
  rw [hd]
  exact decide_eq_true hle

variable (hno : s.mgmt.resetDeadline = none)
include hno

/-- Where the ports agree, the deadline of one of them resets the device. -/
theorem resetDeadline_of_agreed (hh : s.mgmt.halted = false) (hag : s.resetAgreed = true) (hl : late ≠ []) : resetDeadline s = s.restart := by
  rw [resetDeadline_of_awake ha]
  refine (if_neg ?_).trans (if_pos ?_)
  · rw [hno]
    exact Bool.false_ne_true
  · rw [hh, hag, ← hlate, Bool.not_false, Bool.true_and, Bool.true_and, Bool.not_eq_true', List.isEmpty_eq_false_iff]
    exact hl

/-- A request that no agreement has met by its deadline ends. -/
theorem resetDeadline_of_alone (hag : s.resetAgreed = false) : resetDeadline s = s.endRequests late := by
  rw [resetDeadline_of_awake ha, hlate]
  refine (if_neg ?_).trans (if_neg ?_)
  · rw [hno]
    exact Bool.false_ne_true
  · rw [hag, Bool.and_false, Bool.false_and]
    exact Bool.false_ne_true

end deadline

/-! ### Sensors and the supply -/

/-- A reading below its threshold leaves a device with no warning as it is. -/
theorem warnSensor_of_below {i : Nat} {v : BitVec 16} (h : v.toInt < 16 * s.warnAt i) (hw : s.mgmt.warned = []) : s.warnSensor i v = s := by
  refine (if_neg (Int.not_le.mpr h)).trans ?_
  rw [hw, List.filter_nil, ← hw]

/-- A warning does not halt the device. -/
theorem halted_warnSensor (i : Nat) (v : BitVec 16) : (s.warnSensor i v).mgmt.halted = s.mgmt.halted := by
  unfold State.warnSensor
  split
  · split
    · rfl
    · show ((State.report _ lgDevice [] eThermalWarn 7 i _).mgmt).halted = _
      rw [(HostSide.report ..).mgmt]
  · rfl

/-- The warnings of a sample do not halt the device. -/
theorem halted_warnSensors (l : List (BitVec 16 × Nat)) : (l.foldl (fun (s : State) x => s.warnSensor x.2 x.1) s).mgmt.halted = s.mgmt.halted :=
  List.foldlRecOn (motive := fun t : State => t.mgmt.halted = s.mgmt.halted) l _ rfl fun _ ht _ _ => (halted_warnSensor ..).trans ht

/-- A sample below every threshold warns of nothing. -/
theorem warnSensors_of_below {l : List (BitVec 16 × Nat)} (h : ∀ x ∈ l, x.1.toInt < 16 * s.warnAt x.2) (hw : s.mgmt.warned = []) :
    l.foldl (fun (s : State) x => s.warnSensor x.2 x.1) s = s :=
  List.foldlRecOn (motive := fun t : State => t = s) l _ rfl fun t ht x hx => by
    rw [ht]
    exact warnSensor_of_below (h x hx) hw

section sample
variable {r : List (BitVec 16)} (hup : s.jinalUp = true) (hlen : r.length = 60)
include hup hlen

/-- A sample below every threshold only stores its readings. -/
theorem sensorSample_of_below (h : ∀ x ∈ r.zipIdx, x.1.toInt < 16 * s.warnAt x.2 ∧ x.1.toInt < 16 * criticalAt x.2) (hw : s.mgmt.warned = []) :
    sensorSample r s = { s with mgmt := { s.mgmt with readings := r } } := by
  have hfold : r.zipIdx.foldl (fun (s : State) x => s.warnSensor x.2 x.1) { s with mgmt := { s.mgmt with readings := r } } =
      { s with mgmt := { s.mgmt with readings := r } } := warnSensors_of_below (by exact fun x hx => (h x hx).1) hw
  have hfind : r.zipIdx.find? (fun x => decide (16 * criticalAt x.2 ≤ x.1.toInt)) = none :=
    List.find?_eq_none.mpr fun x hx hc => Int.not_le.mpr (h x hx).2 (of_decide_eq_true hc)
  refine (if_neg (by rw [hup, hlen]; decide)).trans ?_
  rw [hfold, hfind]

/-- A reading at its critical threshold halts a device that runs. -/
theorem sensorSample_of_critical {x : BitVec 16 × Nat}
    (hx : r.zipIdx.find? (fun x => decide (16 * criticalAt x.2 ≤ x.1.toInt)) = some x) (hh : s.mgmt.halted = false) :
    sensorSample r s = (r.zipIdx.foldl (fun (s : State) x => s.warnSensor x.2 x.1) { s with mgmt := { s.mgmt with readings := r } }).halt true x.2 x.1 := by
  refine (if_neg (by rw [hup, hlen]; decide)).trans ?_
  have hstill : ¬ (r.zipIdx.foldl (fun (s : State) x => s.warnSensor x.2 x.1) { s with mgmt := { s.mgmt with readings := r } }).mgmt.halted = true := by
    rw [halted_warnSensors]
    exact fun h => Bool.false_ne_true (hh.symm.trans h)
  rw [hx]
  exact if_neg hstill

end sample

/-- What a halt leaves: the device does not run. -/
theorem running_halt (s : State) (sensor : Nat) (v : BitVec 16) : (s.halt true sensor v).running = false := by
  have hh : (s.halt true sensor v).mgmt.halted = true := rfl
  unfold State.running
  rw [hh, Bool.not_true, Bool.and_false, Bool.false_and]

/-- A supply out of range halts a device that runs. -/
theorem supplyFault_of_bad {mv : Nat} (hup : s.jinalUp = true) (hmv : mv < 48000 ∨ 58000 < mv) (hh : s.mgmt.halted = false) :
    supplyFault mv s = State.halt { s with power := { s.power with vin := mv } } false 0 (BitVec.ofNat 16 mv) := by
  refine (if_neg ?_).trans (if_neg ?_)
  · rw [hup, decide_eq_false (by omega)]
    exact Bool.false_ne_true
  · show ¬ s.mgmt.halted = true
    rw [hh]
    exact Bool.false_ne_true

end Sys2Proof.Machine
end


section
/-! PROOFS. Start-up and recovery, put together. -/

namespace Sys2Proof.Machine

variable {s : State}

/-- A false test. -/
theorem not_true_of_eq_false {b : Bool} (h : b = false) : ¬ b = true := fun h' => Bool.false_ne_true (h.symm.trans h')

/-- A stage command acts in its own stage only. -/
theorem stage_of_atStage {st : Stage} (h : s.atStage st = true) : s.boot.stage = st := by
  unfold State.atStage at h
  exact beq_iff_eq.mp (Bool.and_eq_true_iff.mp (Bool.and_eq_true_iff.mp h).1).2

/-- A reset by agreement needs a device that has power and is not halted. -/
theorem deviceReset_of_refused (h : s.resetAgreed = false ∨ s.mgmt.halted = true) : deviceReset s = s := by
  refine if_neg ?_
  rcases h with h | h <;> simp only [h, Bool.and_false, Bool.not_true, Bool.false_and, Bool.false_eq_true, not_false_eq_true]

/-- Settles O60: stages, resets, answers, sensors and the supply by the lemmas above. -/
theorem startupAndRecovery : Obligations.StartupAndRecovery := by
  unfold Obligations.StartupAndRecovery
  refine ⟨?_, ?_, ?_⟩
  · intro s ha hh
    refine ⟨fun hw => congrArg Host.Outcome.next (verify_wakeEnd ha hh hw), fun hl => ⟨?_, ?_, ?_, ?_, ?_, ?_, ?_, ?_⟩, ?_, fun hl => ⟨?_, ?_, ?_, ?_, ?_⟩⟩
    · intro hst x t v u hp
      refine ⟨?_, fun b hb hok => congrArg Host.Outcome.next (verify_of_badCert (x := x) (t := t) (v := v) (u := u) rfl rfl rfl rfl ha hh hl hst hp hb hok),
        fun hb => congrArg Host.Outcome.next (verify_of_noSlot (x := x) (t := t) (v := v) (u := u) rfl rfl rfl rfl ha hh hl hst hp hb)⟩
      intro b hb hok h9
      exact congrArg Host.Outcome.next (verify_of_passed (x := x) (t := t) (v := v) (u := u) rfl rfl rfl rfl ha hh hl hst hp hb hok)
    · exact fun h => ⟨congrArg Host.Outcome.next (clocks_of_stage ha hh hl h []),
        congrArg Host.Outcome.next ((clocks_of_stage ha hh hl h [0]).trans clocksEnd_main)⟩
    · exact fun h => ⟨congrArg Host.Outcome.next (bridges_of_stage ha hh hl h []), congrArg Host.Outcome.next (bridges_of_stage ha hh hl h [1])⟩
    · exact fun h => ⟨congrArg Host.Outcome.next (memories_of_stage ha hh hl h []), congrArg Host.Outcome.next (memories_of_stage ha hh hl h [5])⟩
    · exact fun h => congrArg Host.Outcome.next (flash_of_stage ha hh hl h [])
    · exact fun h => ⟨congrArg Host.Outcome.next (links_of_stage ha hh hl h []), fun l hlt ht hp hc =>
        congrArg Host.Outcome.next ((links_of_stage ha hh hl h [l]).trans (linksEnd_single hlt ht hp hc))⟩
    · intro h o t
      refine ⟨congrArg Host.Outcome.next ((release_of_stage ha hh hl h).trans (releaseEnd_eq (o := o) (t := t) rfl rfl)), ?_, rfl⟩
      exact congrArg Stage.next h
    · exact fun us => congrArg Host.Outcome.next (stageTimeout_of_inTime hl us)
    · exact fun h => congrArg Host.Outcome.next (if_neg fun hat => h (stage_of_atStage hat))
    · exact fun _ => congrArg Host.Outcome.next (if_neg (not_true_of_eq_false (atStage_of_late _ hl)))
    · exact fun _ => congrArg Host.Outcome.next (if_neg (not_true_of_eq_false (atStage_of_late _ hl)))
    · intro h
      refine congrArg Host.Outcome.next ((stageTimeout_of_late ha hh hl [] nofun).trans ((if_neg ?_).trans (stageResult_of_own h [])))
      rcases h with h | h <;> rw [h] <;> decide
    · intro hw hv
      refine congrArg Host.Outcome.next ((stageTimeout_of_late ha hh hl [] nofun).trans (if_pos ?_))
      rw [bne_iff_ne.mpr hw, bne_iff_ne.mpr hv]
      rfl
    · intro us hne hall
      have hres : exec (.stageTimeout us) s = .next (s.stageResult us) :=
        congrArg Host.Outcome.next ((stageTimeout_of_late ha hh hl us hall).trans (if_neg (by
          rw [List.isEmpty_eq_false_iff.mpr hne]
          exact Bool.false_ne_true)))
      refine ⟨fun h => ?_, fun h => ?_, fun h => ?_, fun h => ?_, fun h => ?_, fun h => ?_⟩ <;>
        exact hres.trans (by rw [State.stageResult, h])
  · intro p s
    refine ⟨?_, ?_, fun h => congrArg Host.Outcome.next (deviceReset_of_refused h), ?_, ?_⟩
    · intro ho s' v g
      refine ⟨fun hno hlo hhi hup => ?_, fun hreq => ?_, exec_withdraw ho rfl, fun hn k => ?_, fun e he => ⟨fun k hk => ?_, fun k hk => ?_⟩⟩
      · exact (exec_resetRequest ho rfl).trans (congrArg Host.Outcome.next (pfRequest_of_first p.isLt hno hlo hhi hup))
      · exact (exec_resetRequest ho rfl).trans (congrArg Host.Outcome.next (pfRequest_of_second hreq))
      · exact (exec_proceed ho rfl k).trans (congrArg Host.Outcome.next (giveAnswer_of_none hn))
      · exact (exec_abandon ho rfl k).trans (congrArg Host.Outcome.next (giveAnswer_of_other he hk))
      · have hesc : exec (.escalate p k) s' = .next _ := (exec_escalate ho rfl k).trans (congrArg Host.Outcome.next (giveAnswer_escalate he hk))
        exact ⟨(exec_proceed ho rfl k).trans (congrArg Host.Outcome.next (giveAnswer_proceed he hk)),
          fun h1 => hesc.trans (congrArg Host.Outcome.next (if_pos h1)), fun h1 => hesc.trans (congrArg Host.Outcome.next (if_neg h1)),
          (exec_abandon ho rfl k).trans (congrArg Host.Outcome.next (giveAnswer_abandon he hk))⟩
    · exact fun ha hh hag => congrArg Host.Outcome.next (if_pos (by rw [ha, hh, hag]; rfl))
    · intro ha late
      refine ⟨fun d hd hle => ⟨fun href => congrArg Host.Outcome.next (resetDeadline_of_mgmt ha hd hle href), ?_⟩, fun hno hh => ⟨fun hag hne => ?_, fun hag => ?_⟩⟩
      · intro href t
        exact congrArg Host.Outcome.next (resetDeadline_of_refused (late := late) (t := t) ha rfl hd hle href rfl)
      · exact congrArg Host.Outcome.next (resetDeadline_of_agreed (late := late) ha rfl hno hh hag hne)
      · exact congrArg Host.Outcome.next (resetDeadline_of_alone (late := late) ha rfl hno hag)
    · intro k e he hrun ms
      have hex : exec (.answerTimeout k) s = .next _ := congrArg Host.Outcome.next (answerTimeout_of_found (ms := ms) he hrun rfl)
      refine ⟨fun h0 hle => hex.trans (congrArg Host.Outcome.next (if_pos ⟨h0, hle⟩)), fun h => hex.trans (congrArg Host.Outcome.next (if_neg ?_))⟩
      rintro ⟨h0, hle⟩
      exact h.elim h0 (Nat.not_lt.mpr hle)
  · intro s
    refine ⟨fun hup => ⟨fun r => ?_, fun mv => ?_⟩, fun hup => ⟨?_, ?_, ?_, ?_⟩⟩
    · exact congrArg Host.Outcome.next (if_pos (by rw [hup]; rfl))
    · exact congrArg Host.Outcome.next (if_pos (by rw [hup]; rfl))
    · exact fun r hlen h hw => congrArg Host.Outcome.next (sensorSample_of_below hup hlen h hw)
    · exact fun r x hlen hx hh => ⟨_, congrArg Host.Outcome.next (sensorSample_of_critical hup hlen hx hh), rfl, rfl, rfl, running_halt ..⟩
    · exact fun mv hlo hhi => congrArg Host.Outcome.next (if_pos (by rw [decide_eq_true ⟨hlo, hhi⟩, Bool.or_true]))
    · exact fun mv hmv hh => congrArg Host.Outcome.next (supplyFault_of_bad hup hmv hh)

end Sys2Proof.Machine
end


section
/-! PROOFS. Firmware update, and the fuses that a commit blows. -/

namespace Sys2Proof.Machine

/-! ### The anti-rollback counter -/

/-- Adding one to a number sets its lowest clear bit and clears those below. -/
theorem exists_lowest_clear (n : Nat) : ∃ j, n.testBit j = false ∧ (∀ i < j, n.testBit i = true) ∧
    ∀ i, (n ||| (n + 1)).testBit i = (n.testBit i || decide (i = j)) := by
  induction n using Nat.strong_induction_on with
  | _ n ih =>
    rcases Nat.mod_two_eq_zero_or_one n with h | h
    · refine ⟨0, by rw [Nat.testBit_zero, h]; rfl, nofun, fun i => ?_⟩
      cases i with
      | zero =>
        rw [Nat.testBit_or, Nat.testBit_zero, Nat.testBit_zero, show (n + 1) % 2 = 1 by omega]
        rfl
      | succ i =>
        rw [Nat.testBit_or, Nat.testBit_succ, Nat.testBit_succ, show (n + 1) / 2 = n / 2 by omega, Bool.or_self, decide_eq_false (Nat.succ_ne_zero i),
          Bool.or_false]
    · obtain ⟨j, hclear, hbelow, hor⟩ := ih (n / 2) (by omega)
      refine ⟨j + 1, by rw [Nat.testBit_succ]; exact hclear, fun i hi => ?_, fun i => ?_⟩
      · cases i with
        | zero => rw [Nat.testBit_zero, h]; rfl
        | succ i => rw [Nat.testBit_succ]; exact hbelow i (by omega)
      · cases i with
        | zero =>
          rw [Nat.testBit_or, Nat.testBit_zero, h]
          rfl
        | succ i =>
          have hi := hor i
          rw [Nat.testBit_or] at hi
          rw [Nat.testBit_or, Nat.testBit_succ, Nat.testBit_succ, show (n + 1) / 2 = n / 2 + 1 by omega, hi]
          simp only [Nat.add_right_cancel_iff]

/-- The counter as the number of a set of bits. -/
theorem svnCount_eq_card (x : BitVec 128) : svnCount x = ((Finset.range 128).filter fun i => x.getLsbD i = true).card := by
  have hp : ((List.range 128).filter fun i => x.getLsbD i) = (List.range 128).filter fun i => decide (x.getLsbD i = true) :=
    List.filter_congr fun i _ => Bool.decide_eq_true.symm
  rw [svnCount, hp]
  rfl

/-- A fuse that is blown raises the counter by one, until all are blown. -/
theorem svnCount_blowBit (x : BitVec 128) (h : svnCount x < 128) : svnCount (blowBit x) = svnCount x + 1 := by
  obtain ⟨j, hclear, hbelow, hor⟩ := exists_lowest_clear x.toNat
  have hj : j < 128 := by
    by_contra hge
    have hall : ((Finset.range 128).filter fun i => x.getLsbD i = true) = Finset.range 128 :=
      Finset.filter_true_of_mem fun i hi => hbelow i (by have := Finset.mem_range.mp hi; omega)
    rw [svnCount_eq_card, hall, Finset.card_range] at h
    exact Nat.lt_irrefl _ h
  have hbit : ∀ i < 128, (blowBit x).getLsbD i = (x.getLsbD i || decide (i = j)) := by
    intro i hi
    have hadd : (x + 1).getLsbD i = (x.toNat + 1).testBit i := by
      show ((x.toNat + 1) % 2 ^ 128).testBit i = _
      rw [Nat.testBit_mod_two_pow, decide_eq_true hi, Bool.true_and]
    rw [blowBit, BitVec.getLsbD_or, hadd]
    exact (Nat.testBit_or ..).symm.trans (hor i)
  have hset : ((Finset.range 128).filter fun i => (blowBit x).getLsbD i = true) =
      insert j ((Finset.range 128).filter fun i => x.getLsbD i = true) := by
    ext i
    simp only [Finset.mem_insert, Finset.mem_filter, Finset.mem_range]
    constructor
    · rintro ⟨hi, hb⟩
      rw [hbit i hi, Bool.or_eq_true, decide_eq_true_eq] at hb
      exact hb.symm.imp_right fun hx => ⟨hi, hx⟩
    · rintro (rfl | ⟨hi, hx⟩)
      · exact ⟨hj, by rw [hbit i hj, decide_eq_true rfl, Bool.or_true]⟩
      · exact ⟨hi, by rw [hbit i hi, hx, Bool.true_or]⟩
  have hnot : j ∉ (Finset.range 128).filter fun i => x.getLsbD i = true := fun hmem =>
    Bool.false_ne_true (hclear.symm.trans (Finset.mem_filter.mp hmem).2)
  rw [svnCount_eq_card, hset, Finset.card_insert_of_notMem hnot, ← svnCount_eq_card]

/-- Fuses that are blown one after another each raise the counter. -/
theorem svnCount_iterate (k : Nat) (x : BitVec 128) (h : svnCount x + k ≤ 128) : svnCount (blowBit^[k] x) = svnCount x + k := by
  induction k with
  | zero => rfl
  | succ k ih =>
    have hk := ih (by omega)
    rw [Function.iterate_succ_apply', svnCount_blowBit _ (by omega), hk]
    rfl

/-- A commit blows fuses until the counter has reached its number. -/
theorem svnCount_blowTo {x : BitVec 128} {n : Nat} (hx : svnCount x ≤ n) (hn : n ≤ 128) : svnCount (blowTo x n) = n := by
  rw [blowTo, Nat.min_eq_left hn, svnCount_iterate _ _ (by omega)]
  omega

/-! ### Firmware commands that act -/

variable {s u : State} {w : Requester} {word : Nat} {data : Bytes}

/-- A command that acts gives its requester the answer. -/
theorem fwDo_of_acts (h : FwActs w word data s u) (act : State → Nat × State) : s.fwDo w word data act = (act u).2.fwAnswer w (act u).1 := by
  cases w with
  | pf p =>
    rcases h with ⟨hbusy, hup, rfl⟩ | ⟨hfree, hopen, rfl⟩
    · simp only [State.fwDo, State.fwMailbox, hbusy, hup, if_true]
    · simp only [State.fwDo, State.fwMailbox, hfree, hopen, if_true]
  | mgmt x ends =>
    obtain ⟨rfl, hpec, hpow, hup, hrun, rfl⟩ := h
    have hmine : ¬ (u.mgmt.running.isSome ∧ u.mgmt.running ≠ some (word, data)) := by
      rintro ⟨hsome, hne⟩
      rcases hrun with hrun | hrun
      · rw [hrun] at hsome
        exact Bool.false_ne_true hsome
      · exact hne hrun
    refine (if_neg ?_).trans ((if_neg ?_).trans ((if_neg hmine).trans (if_pos rfl)))
    · rw [hpec, hpow]
      exact Bool.false_ne_true
    · rw [hup]
      exact Bool.false_ne_true

/-- A command that acts waits for no restart. -/
theorem atFw_of_acts (h : FwActs w word data s u) (i : Instr) (act : State → State) : s.atFw w i act = act s := by
  cases w with
  | pf p =>
    rcases h with ⟨hbusy, -, -⟩ | ⟨hfree, hopen, -⟩
    · exact if_pos (by rw [hbusy]; rfl)
    · exact (if_neg (by rw [hfree]; exact Bool.false_ne_true)).trans (State.atBar_of_fnOpen hopen i act)
  | mgmt x ends => rfl

/-- What a command that acts does. -/
theorem atFw_fwDo (h : FwActs w word data s u) {act : State → Nat × State} {st : Nat} {t : State} (ha : act u = (st, t)) (i : Instr) :
    s.atFw w i (fun s => s.fwDo w word data act) = t.fwAnswer w st := by
  rw [atFw_of_acts h, fwDo_of_acts h, ha]

/-- A command within a session is its owner's alone. -/
theorem inSession_of_owner (h : u.boot.session = some w.owner) (act : State → Nat × State) : u.inSession w act = act u := if_pos h

theorem inSession_of_other (h : u.boot.session ≠ some w.owner) (act : State → Nat × State) : u.inSession w act = (fwNotOwner, u) := if_neg h

/-! ### What each command does -/

section session

theorem exec_fwOpen (h : FwActs w (fwWord 1 0 0) [] s u) : exec (.fwOpen w) s =
    .next (if u.boot.session.isSome || u.boot.slots.pendingFlag then u.fwAnswer w fwConflict
      else State.fwAnswer { u with boot := { u.boot with session := some w.owner } } w fwOk) := by
  by_cases hc : (u.boot.session.isSome || u.boot.slots.pendingFlag) = true
  · rw [if_pos hc]
    exact congrArg Host.Outcome.next (atFw_fwDo h (if_pos hc) _)
  · rw [if_neg hc]
    exact congrArg Host.Outcome.next (atFw_fwDo h (if_neg hc) _)

/-- The owner of a session writes a page of the slot that is not active. -/
theorem exec_fwWrite_pf {off len : Nat} {p : PortIx} (h : FwActs w (fwWord 2 off len) data s u) (how : u.boot.session = some w.owner) (hw : w = .pf p)
    (h1 : 1 ≤ len) (h2 : len ≤ 4096) (h3 : off % 4096 = 0) (h4 : off < 2 ^ 24) : exec (.fwWrite w off len data) s =
      .next (State.fwAnswer { u with
        bootFlash := u.bootFlash.writeBytes (slotBase u.updateSlot + off) ((u.port p.val).mboxData.readBytes 0 len) } w fwOk) := by
  refine congrArg Host.Outcome.next (atFw_fwDo h ?_ _)
  subst hw
  exact (if_neg (by rw [decide_eq_true ⟨h1, h2, h3, h4⟩]; exact Bool.false_ne_true)).trans (inSession_of_owner how _)

theorem exec_fwWrite_mgmt {off len : Nat} {x : MgXfer} {b : Bool} (h : FwActs w (fwWord 2 off len) data s u) (how : u.boot.session = some w.owner)
    (hw : w = .mgmt x b) (h1 : 1 ≤ data.length) (h2 : data.length ≤ 240) (h3 : off % 16 = 0) (h4 : off < 2 ^ 24) :
    exec (.fwWrite w off len data) s =
      .next (State.fwAnswer { u with bootFlash := u.bootFlash.writeBytes (slotBase u.updateSlot + off) data } w fwOk) := by
  have hok : ¬ (!decide (1 ≤ data.length ∧ data.length ≤ 240 ∧ off % 16 = 0 ∧ off < 2 ^ 24)) = true := by
    rw [decide_eq_true ⟨h1, h2, h3, h4⟩]
    exact Bool.false_ne_true
  refine congrArg Host.Outcome.next (atFw_fwDo h ?_ _)
  subst hw
  exact (if_neg hok).trans (inSession_of_owner how _)

/-- The slots' marks after an image that passes has become the one to start next. -/
def SlotState.made (x : SlotState) (slot : Bool) : SlotState :=
  { x with pending := slot, pendingFlag := true, trials := 0, invalid0 := x.invalid0 && slot, invalid1 := x.invalid1 && !slot }

/-- What the owner's closing of its session does, with the verification's status. -/
def State.closed (s : State) : Nat × State :=
  let slot := s.updateSlot
  let v := s.verifyRead slot
  let s := v.2
  if v.1 = 0 then
    let x := s.boot.slots
    (fwOk, { s with boot := { s.boot with session := none } }.putSlots (x.made slot))
  else (v.1, s.endSession)

theorem exec_fwClose (h : FwActs w (fwWord 3 0 0) [] s u) (how : u.boot.session = some w.owner) :
    exec (.fwClose w) s = .next (u.closed.2.fwAnswer w u.closed.1) :=
  congrArg Host.Outcome.next (atFw_fwDo h ((inSession_of_owner how State.closed).trans Prod.mk.eta.symm) _)

/-- A session that is closed on an image that passes makes that image the one to start next. -/
theorem closed_of_passed {v : Nat × State} (hv : v = u.verifyRead u.updateSlot) (h0 : v.1 = 0) : u.closed =
    (fwOk, State.putSlots { v.2 with boot := { v.2.boot with session := none } } (v.2.boot.slots.made u.updateSlot)) := by
  simp only [State.closed, ← hv, h0, if_true]

theorem closed_of_failed {v : Nat × State} (hv : v = u.verifyRead u.updateSlot) (h0 : v.1 ≠ 0) : u.closed = (v.1, v.2.endSession) := by
  simp only [State.closed, ← hv, h0, if_false]

theorem exec_fwClose_other (h : FwActs w (fwWord 3 0 0) [] s u) (how : u.boot.session ≠ some w.owner) :
    exec (.fwClose w) s = .next (u.fwAnswer w fwNotOwner) := congrArg Host.Outcome.next (atFw_fwDo h (inSession_of_other how _) _)

theorem exec_fwAbort (h : FwActs w (fwWord 4 0 0) [] s u) (how : u.boot.session = some w.owner) :
    exec (.fwAbort w) s = .next (u.endSession.fwAnswer w fwOk) := congrArg Host.Outcome.next (atFw_fwDo h (inSession_of_owner how _) _)

theorem exec_fwAbort_other (h : FwActs w (fwWord 4 0 0) [] s u) (how : u.boot.session ≠ some w.owner) :
    exec (.fwAbort w) s = .next (u.fwAnswer w fwNotOwner) := congrArg Host.Outcome.next (atFw_fwDo h (inSession_of_other how _) _)

/-- A commit ends the trial and blows the fuses of the running image's number; with no trial it does nothing. -/
theorem exec_fwCommit_noTrial (h : FwActs w (fwWord 5 0 0) [] s u) (ht : u.boot.trial = false) :
    exec (.fwCommit w) s = .next (u.fwAnswer w fwOk) :=
  congrArg Host.Outcome.next (atFw_fwDo h (if_pos (by rw [ht]; rfl)) _)

theorem exec_fwCommit_trial (h : FwActs w (fwWord 5 0 0) [] s u) (ht : u.boot.trial = true) : exec (.fwCommit w) s =
    .next (State.fwAnswer (State.putSlots { u with
        fuses := { u.fuses with svn := blowTo u.fuses.svn u.boot.svn }
        boot := { u.boot with trial := false } } { u.boot.slots with pendingFlag := false, trials := 0 }) w fwOk) :=
  congrArg Host.Outcome.next (atFw_fwDo h (if_neg (by rw [ht]; exact Bool.false_ne_true)) _)

end session

/-! ### What a closed session leaves -/

theorem slots_readHeader (u : State) (slot : Bool) : (u.readHeader slot).boot.slots = u.boot.slots := by simp only [State.readHeader]

theorem slots_readImage (u : State) (slot : Bool) : (u.readImage slot).boot.slots = u.boot.slots := by simp only [State.readImage]

/-- Verification reads the slot into the start-up memories only. -/
theorem verifyRead_slots (u : State) (slot : Bool) : (u.verifyRead slot).2.boot.slots = u.boot.slots := by
  unfold State.verifyRead
  extract_lets v i
  by_cases h : v.headerStatus ≠ 0
  · rw [if_pos h]
    exact slots_readHeader u slot
  · rw [if_neg h]
    exact (slots_readImage v slot).trans (slots_readHeader u slot)

/-- New marks of the slots are kept, but for their sequence number. -/
theorem slots_putSlots (u : State) (x : SlotState) : (u.putSlots x).boot.session = u.boot.session ∧
    ∃ n, (u.putSlots x).boot.slots = { x with seq := n } := by
  unfold State.putSlots
  extract_lets y
  by_cases h : { x with seq := 0 } = { u.boot.slots with seq := 0 }
  · rw [if_pos h]
    refine ⟨rfl, u.boot.slots.seq, ?_⟩
    exact (congrArg (fun z : SlotState => { z with seq := u.boot.slots.seq }) h).symm
  · rw [if_neg h]
    exact ⟨rfl, _, rfl⟩

/-! ### Commands that do not act -/

/-- A command that is not the one its mailbox runs is ignored and logged. -/
theorem exec_fwCommit_ignored {p : PortIx} {w' : Nat} (hbusy : (s.port p.val).mboxBusy = some w') (hne : w' ≠ fwWord 5 0 0)
    (hopen : s.fnOpen p.val 0 = true) : exec (.fwCommit (.pf p)) s = .next ((s.wholeWrite p.val 0).accessLog p.val 0 0x4000 accIgnored) := by
  refine congrArg Host.Outcome.next ((if_pos (by rw [hbusy]; rfl)).trans ?_)
  simp only [fwCommit, State.fwDo, State.fwMailbox, hbusy, if_neg hne, hopen, if_true]

section mgmt
variable {x : MgXfer} (hpec : x.pecOk = true) (hpow : s.power.standby = true) (hup : s.jinalUp = true)
include hpec hpow hup

/-- A transfer that does not end its command makes it the one that runs. -/
theorem exec_fwCommit_begins (hrun : s.mgmt.running = none) : exec (.fwCommit (.mgmt x false)) s =
    .next { s with mgmt := { s.mgmt with running := some (fwWord 5 0 0, []) } } := by
  refine congrArg Host.Outcome.next ?_
  simp only [fwCommit, State.atFw, State.fwDo, State.fwTransfer, hpec, hpow, hup, hrun, Bool.not_true, Bool.or_self, Bool.false_eq_true, if_false,
    Option.isSome_none, false_and]

/-- A command that is not the one that runs is answered `BUSY`. -/
theorem exec_fwCommit_busy {r : Nat × Bytes} (hrun : s.mgmt.running = some r) (hne : r ≠ (fwWord 5 0 0, [])) (e : Bool) :
    exec (.fwCommit (.mgmt x e)) s = .next (s.emit (.mgmt mgBusy [])) := by
  refine congrArg Host.Outcome.next ((if_neg ?_).trans ((if_neg ?_).trans (if_pos ⟨?_, ?_⟩)))
  · rw [hpec, hpow]
    exact Bool.false_ne_true
  · rw [hup]
    exact Bool.false_ne_true
  · rw [hrun]
    rfl
  · rw [hrun]
    exact fun h => hne (Option.some.inj h)

end mgmt

end Sys2Proof.Machine
end


section
/-! PROOFS. The SPDM responders. -/

namespace Sys2Proof.Machine

variable {s : State} {r : SpdmReq} {x : Spdm}

/-- The slot that is made the next one is usable. -/
theorem usable_made (x : SlotState) (slot : Bool) {n : Nat} : ({ x.made slot with seq := n } : SlotState).usable slot = true := by
  cases slot <;> simp [SlotState.usable, SlotState.made]

/-- What a session leaves that is closed on an image that passes. -/
theorem closed_leaves {u : State} {v : Nat × State} (hv : v = u.verifyRead u.updateSlot) (h0 : v.1 = 0) :
    ∃ t, u.closed = (fwOk, t) ∧ t.boot.session = none ∧ t.boot.slots.pendingFlag = true ∧ t.boot.slots.pending = u.updateSlot ∧
      t.boot.slots.trials = 0 ∧ t.boot.slots.usable u.updateSlot = true ∧ t.boot.slots.active = u.boot.slots.active := by
  have hslots : v.2.boot.slots = u.boot.slots := hv ▸ verifyRead_slots u u.updateSlot
  have hc := closed_of_passed hv h0
  clear hv
  obtain ⟨hsess, n, hmade⟩ := slots_putSlots { v.2 with boot := { v.2.boot with session := none } } (v.2.boot.slots.made u.updateSlot)
  refine ⟨_, hc, hsess, ?_⟩
  rw [hmade]
  have hactive : (v.2.boot.slots.made u.updateSlot).active = u.boot.slots.active :=
    (show _ = v.2.boot.slots.active from rfl).trans (congrArg SlotState.active hslots)
  exact ⟨rfl, rfl, rfl, usable_made .., hactive⟩

/-- A request that reaches its responder waits for no restart. -/
theorem atDoe_of_reached (h : s.spdmReached r = true) (i : SpdmCmd) (act : State → State) : s.atDoe r i act = act s := by
  unfold State.atDoe
  unfold State.spdmReached at h
  split at h
  · next p _ =>
    have hrest : s.dieRests p.val = false := by
      simp only [State.fnOpen, Bool.and_eq_true, Bool.not_eq_true'] at h
      exact h.1.1.1.2
    exact if_neg (by rw [hrest]; exact Bool.false_ne_true)
  · rfl

section reached
variable (hr : s.spdmReached r = true)
include hr

/-- Before stage B has ended a request is an error. -/
theorem spdmDo_of_rom (hrom : s.romOnly = true) (need : Nat → Bool) (act : State → State) :
    s.spdmDo r need act = s.emit (.spdm r.who (spdmMsg 0x7F spUnspecified 0 [])) :=
  (if_neg (by rw [hr]; exact Bool.false_ne_true)).trans (if_pos hrom)

variable (hrom : s.romOnly = false)
include hrom

/-- A request needs an exchange that has come so far. -/
theorem spdmDo_of_early {need : Nat → Bool} (hn : need (s.spdmOf r).step = false) (act : State → State) :
    s.spdmDo r need act = s.emit (.spdm r.who (spdmMsg 0x7F spUnexpected 0 [])) :=
  (if_neg (by rw [hr]; exact Bool.false_ne_true)).trans ((if_neg (by rw [hrom]; exact Bool.false_ne_true)).trans
    (if_neg (by rw [hn]; exact Bool.false_ne_true)))

theorem spdmDo_of_step {need : Nat → Bool} (hn : need (s.spdmOf r).step = true) (act : State → State) : s.spdmDo r need act = act s :=
  (if_neg (by rw [hr]; exact Bool.false_ne_true)).trans ((if_neg (by rw [hrom]; exact Bool.false_ne_true)).trans (if_pos hn))

end reached

/-! ### Requests that need an exchange -/

section step
variable (hr : s.spdmReached r = true) (hrom : s.romOnly = false) (hx : x = s.spdmOf r)
include hr hrom hx

/-- A command that is reached and comes at its step acts at once. -/
theorem atDoe_of_step {n : Nat} {t : State} (hstep : x.step = n) {act : State → State} (ha : act s = t) (i : SpdmCmd) :
    s.atDoe r i (fun s => s.spdmDo r (· == n) act) = t := by
  rw [atDoe_of_reached hr, spdmDo_of_step hr hrom (by rw [← hx, hstep]; exact beq_self_eq_true n), ha]

/-- A command that comes at another step is unexpected. -/
theorem atDoe_of_otherStep {n : Nat} (hstep : x.step ≠ n) (i : SpdmCmd) (act : State → State) :
    s.atDoe r i (fun s => s.spdmDo r (· == n) act) = s.emit (.spdm r.who (spdmMsg 0x7F spUnexpected 0 [])) := by
  rw [atDoe_of_reached hr, spdmDo_of_early hr hrom (by rw [← hx]; exact beq_false_of_ne hstep)]

theorem exec_getCapabilities {f : List Word × State} {m : Bytes} (hstep : x.step = 1) (hf : f = s.frees 2)
    (hm : m = spdmMsg 0x61 0 0 ([0, 14, 0, 0] ++ natLe 4 0x16 ++ f.1.flatMap fun w => natLe 4 w.toNat)) : exec (.getCapabilities r) s =
      .next (f.2.spdmAnswer r { x with step := 2, vca := x.vca ++ spdmMsg 0xE1 0 0 r.rest ++ m } m) := by
  refine congrArg Host.Outcome.next (atDoe_of_step hr hrom hx hstep ?_ _)
  subst hm hf hx
  rfl

theorem exec_negotiateAlgorithms {m : Bytes} (hstep : x.step = 2)
    (hm : m = spdmMsg 0x63 0 0 (natLe 2 36 ++ [1, 0] ++ natLe 4 2 ++ natLe 4 0x10 ++ natLe 4 1 ++ List.replicate 16 0#8)) :
    exec (.negotiateAlgorithms r) s =
      .next (s.spdmAnswer r { x with step := 3, vca := x.vca ++ spdmMsg 0xE3 r.attr.toNat 0 r.rest ++ m } m) := by
  refine congrArg Host.Outcome.next (atDoe_of_step hr hrom hx hstep ?_ _)
  subst hm hx
  rfl

variable (hstep : x.step = 3)
include hstep

theorem exec_getDigests {m : Bytes} (hm : m = spdmMsg 0x01 0 1 (digestBytes (sha256 s.certChain))) : exec (.getDigests r) s =
    .next (s.spdmAnswer r { x with certs := x.certs ++ spdmMsg 0x81 0 0 [] ++ m, meas := [] } m) := by
  refine congrArg Host.Outcome.next (atDoe_of_step hr hrom hx hstep ?_ _)
  subst hm hx
  rfl

theorem exec_getCertificate {off len : Nat} {d m : Bytes} (hoff : off < s.certChain.length) (hd : d = (s.certChain.drop off).take len)
    (hm : m = spdmMsg 0x02 0 0 (natLe 2 d.length ++ natLe 2 (s.certChain.length - off - d.length) ++ d)) :
    exec (.getCertificate r 0 off len) s =
      .next (s.spdmAnswer r { x with certs := x.certs ++ spdmMsg 0x82 0 0 (natLe 2 off ++ natLe 2 len) ++ m, meas := [] } m) := by
  refine congrArg Host.Outcome.next (atDoe_of_step hr hrom hx hstep ?_ _)
  subst hm hd hx
  exact if_neg (by rintro (h | h); exacts [h rfl, Nat.not_le.mpr hoff h])

theorem exec_getCertificate_otherSlot {slot : Nat} (off len : Nat) (hslot : slot ≠ 0) :
    exec (.getCertificate r slot off len) s = .next (s.emit (.spdm r.who (spdmMsg 0x7F spInvalid 0 []))) := by
  refine congrArg Host.Outcome.next (atDoe_of_step hr hrom hx hstep ?_ _)
  exact if_pos (Or.inl hslot)

theorem exec_challenge {n summary : Bytes} {f : Bytes × State} {m : Bytes} (hsum : s.measSummary r.attr.toNat = some summary)
    (hf : f = s.freeBytes32) (hm : m = spdmMsg 0x03 0 1 (digestBytes (sha256 s.certChain) ++ f.1 ++ summary ++ [0, 0])) :
    exec (.challenge r 0 n) s = .next (State.spdmAnswer { f.2 with freeCtr := f.2.freeCtr + 1 } r { x with certs := [], meas := [] }
      (m ++ f.2.spdmSign "responder-challenge_auth signing" (x.vca ++ x.certs ++ spdmMsg 0x83 0 r.attr.toNat n ++ m))) := by
  refine congrArg Host.Outcome.next (atDoe_of_step hr hrom hx hstep ?_ _)
  simp only [hsum, ne_eq, not_true_eq_false, if_false, ← hf, ← hm, ← hx]

section measurements
variable {i : Nat} {n : Bytes} {f : Bytes × State} {b m : Bytes} (h1 : 1 ≤ i) (h11 : i ≤ 11) (hf : f = s.freeBytes32)
  (hb : b = measBlock i (s.boot.meas.getD (i - 1) 0)) (hm : m = spdmMsg 0x60 0 0 (natLe 1 1 ++ natLe 3 b.length ++ b ++ f.1 ++ [0, 0]))
include h1 h11 hf hb hm

/-- A measurement that is asked for with a signature comes with one over the transcript; without one the transcript goes on. -/
theorem exec_getMeasurements : exec (.getMeasurements r 0 i n) s =
    .next (if r.attr.getLsbD 0 then State.spdmAnswer { f.2 with freeCtr := f.2.freeCtr + 1 } r { x with meas := [] }
        (m ++ f.2.spdmSign "responder-measurements signing" (x.vca ++ x.meas ++ spdmMsg 0xE0 r.attr.toNat i (n ++ natLe 1 0) ++ m))
      else f.2.spdmAnswer r { x with meas := x.meas ++ spdmMsg 0xE0 r.attr.toNat i [] ++ m } m) := by
  refine congrArg Host.Outcome.next (atDoe_of_step hr hrom hx hstep ?_ _)
  have hlist : (if i = 0 then [] else if i = 0xFF then rangeFrom 1 11 else [i]) = [i] := (if_neg (by omega)).trans (if_neg (by omega))
  have hblocks : s.measBlocks [i] = b := by
    rw [hb, State.measBlocks, List.flatMap_cons, List.flatMap_nil, List.append_nil]
  have hbit : bitAt r.attr.toNat 0 = r.attr.getLsbD 0 := bitAt_eq_testBit ..
  have hin : ¬ ((r.attr.getLsbD 0 && (0 : Nat) != 0) || decide (11 < i ∧ i ≠ 0xFF)) = true := by
    rw [decide_eq_false (by omega)]
    simp
  simp only [hlist, hblocks, hbit, hin, if_neg (show ¬ i = 0 by omega), ← hf, ← hx, List.length_singleton, ← hm]
  cases r.attr.getLsbD 0 <;> simp only [Bool.false_eq_true, if_true, if_false]

end measurements

theorem exec_getMeasurements_beyond {i : Nat} (n : Bytes) (h11 : 11 < i) (hi : i ≠ 0xFF) :
    exec (.getMeasurements r 0 i n) s = .next (s.emit (.spdm r.who (spdmMsg 0x7F spInvalid 0 []))) := by
  refine congrArg Host.Outcome.next (atDoe_of_step hr hrom hx hstep ?_ _)
  refine if_pos ?_
  rw [decide_eq_true ⟨h11, hi⟩, Bool.or_true]

end step

/-- Settles O59: the responders and the firmware commands by the lemmas above. -/
theorem attestationAndFirmware : Obligations.AttestationAndFirmware := by
  unfold Obligations.AttestationAndFirmware
  refine ⟨?_, ?_, ?_, ?_, fun x n => ⟨(fusesIn_blowTo x n).and_eq, fun hx hn => svnCount_blowTo hx hn⟩⟩
  · intro r s hr x
    refine ⟨?_, fun hrom => ?_, fun hrom => ?_⟩
    · intro m
      exact congrArg Host.Outcome.next ((atDoe_of_reached hr ..).trans (if_pos hr))
    · intro bad
      have hbad (i : SpdmCmd) (need : Nat → Bool) (act : State → State) : s.atDoe r i (fun s => s.spdmDo r need act) =
          s.emit (.spdm r.who (spdmMsg 0x7F spUnspecified 0 [])) := (atDoe_of_reached hr ..).trans (spdmDo_of_rom hr hrom need act)
      exact ⟨congrArg Host.Outcome.next (hbad ..), congrArg Host.Outcome.next (hbad ..), fun n => congrArg Host.Outcome.next (hbad ..)⟩
    · intro early invalid
      refine ⟨?_, fun h => ?_, ?_, fun h => ?_, fun h => ⟨?_, ?_, ?_, ?_, ?_, ?_⟩, fun h => ⟨?_, fun n => ?_⟩, fun code => ?_⟩
      · intro h m
        exact exec_getCapabilities (x := x) (m := m) hr hrom rfl h rfl rfl
      · exact congrArg Host.Outcome.next (atDoe_of_otherStep (x := x) hr hrom rfl h ..)
      · intro h m
        exact exec_negotiateAlgorithms (x := x) (m := m) hr hrom rfl h rfl
      · exact congrArg Host.Outcome.next (atDoe_of_otherStep (x := x) hr hrom rfl h ..)
      · intro m
        exact exec_getDigests (x := x) (m := m) hr hrom rfl h rfl
      · intro off len hoff d m
        exact exec_getCertificate (x := x) (d := d) (m := m) hr hrom rfl h hoff rfl rfl
      · exact fun slot off len hslot => exec_getCertificate_otherSlot (x := x) hr hrom rfl h off len hslot
      · intro n summary hsum f m
        exact exec_challenge (x := x) (f := f) (m := m) hr hrom rfl h hsum rfl rfl
      · intro i n h1 h11 f b m
        have hex := exec_getMeasurements (x := x) (n := n) (f := f) (b := b) (m := m) hr hrom rfl h h1 h11 rfl rfl rfl
        exact ⟨fun hs => hex.trans (congrArg Host.Outcome.next (if_pos hs)),
          fun hs => hex.trans (congrArg Host.Outcome.next (if_neg (not_true_of_eq_false hs)))⟩
      · exact fun i n h11 hi => exec_getMeasurements_beyond (x := x) hr hrom rfl h n h11 hi
      · exact congrArg Host.Outcome.next (atDoe_of_otherStep (x := x) hr hrom rfl h ..)
      · exact congrArg Host.Outcome.next (atDoe_of_otherStep (x := x) hr hrom rfl h ..)
      · exact congrArg Host.Outcome.next ((atDoe_of_reached hr ..).trans (spdmDo_of_step hr hrom (by exact rfl) _))
  · intro w s u
    refine ⟨fun h => ⟨fun hs hp => ?_, fun hc => ?_⟩, fun off len data h how => ⟨?_, ?_⟩, fun h => ⟨fun how => ?_, fun how => exec_fwClose_other h how⟩,
      fun h => ⟨fun how => exec_fwAbort h how, fun how => exec_fwAbort_other h how⟩,
      fun h => ⟨fun ht => exec_fwCommit_noTrial h ht, fun ht => exec_fwCommit_trial h ht⟩⟩
    · exact (exec_fwOpen h).trans (congrArg Host.Outcome.next (if_neg (by rw [hs, hp]; exact Bool.false_ne_true)))
    · refine (exec_fwOpen h).trans (congrArg Host.Outcome.next (if_pos ?_))
      rcases hc with hc | hc
      · rw [Option.isSome_iff_ne_none.mpr hc, Bool.true_or]
      · rw [hc, Bool.or_true]
    · exact fun p hw h1 h2 h3 h4 => exec_fwWrite_pf h how hw h1 h2 h3 h4
    · exact fun x b hw h1 h2 h3 h4 => exec_fwWrite_mgmt h how hw h1 h2 h3 h4
    · intro v
      refine ⟨fun h0 => ?_, fun h0 => ?_⟩
      · obtain ⟨t, hc, hleft⟩ := closed_leaves (v := v) rfl h0
        exact ⟨t, (exec_fwClose h how).trans (by rw [hc]), hleft⟩
      · exact (exec_fwClose h how).trans (by rw [closed_of_failed (v := v) rfl h0])
  · exact fun p s w' hbusy hne hopen => exec_fwCommit_ignored hbusy hne hopen
  · exact fun x s hpec hpow hup => ⟨fun hrun => exec_fwCommit_begins hpec hpow hup hrun,
      fun r hrun hne e => exec_fwCommit_busy hpec hpow hup hrun hne e⟩

end Sys2Proof.Machine
end


section
/-! PROOFS. Programs. -/

namespace Sys2Proof.Machine

/-! ### A template that is being written -/

/-- A page of tier 2 that is being programmed: its first byte is to be 1. -/
def templatePage : FlashWrite := { hub := 0, page := 0x100000000, data := [1], whole := true, core := none }

/-- A program without items, whose one sync object starts from the first word of that page. -/
def templateProgram : Program := { code := 0, crumbs := 0, syncTmpl := 0x100000000000, syncCount := 1, items := [] }

/-- A `LAUNCH` at the head of ring 0. -/
def templateLaunch : Live :=
  { pos := 0, entry := [9], ext := none, acceptedAt := 0, begun := false, base := 0, syncs := 1, items := 0, slot := 0, reads := 0 }

/-- A device with that launch accepted, and the page still to be written. -/
def templateS : State := { Tests.up with insts := [], flashWrites := [templatePage], rings := [(0, { st := .active, live := [templateLaunch] })] }

/-- The template is read as the page will be, the memory still holds what it was. -/
theorem count_templateS : ((templateS.createInst 0 0 templateLaunch 0 { program := 0 } templateProgram).sync 0).count = 1 := by decide +kernel

theorem readBytes_templateS : leNat (templateS.dmem.readBytes templateProgram.syncTmpl 4) = 0 := by decide +kernel

/-- Refutes O34: the objects of a run start from its template as it reads, and a page that is being programmed reads as it
will be, whatever the memory holds until then. In `templateS` that is 1 where the memory still holds 0. -/
theorem not_programDescriptors : ¬ Obligations.ProgramDescriptors := by
  unfold Obligations.ProgramDescriptors
  intro h
  obtain ⟨hcount, -⟩ := h.2 templateS 0 0 0 templateLaunch { program := 0 } templateProgram rfl rfl rfl (by decide) rfl rfl rfl (by decide) rfl rfl rfl rfl
  have h01 : (1 : BitVec 32) = BitVec.ofNat 32 0 := (count_templateS.symm.trans hcount).trans (congrArg (BitVec.ofNat 32) readBytes_templateS)
  exact absurd h01 (by decide)

end Sys2Proof.Machine
end


section
/-! PROOFS. What every command keeps (log entry 1, R462): a relation between the states before and after, closed under every update
that a command makes, so that each function of the model keeps it because the functions it calls do. -/

namespace Sys2Proof.Machine

/-- Fuses blown after: every fuse of the anti-rollback counter that was blown still is, and no other fuse has changed. -/
def Fuses.BlownTo (f g : Fuses) : Prop := f.svn ||| g.svn = g.svn ∧ { g with svn := 0 } = { f with svn := 0 }

/-- From `s` to `t` the canonical forms and the queue of commands are kept, and only fuses of the anti-rollback counter are
blown. -/
def Keeps (s t : State) : Prop := (s.Inv → t.Inv) ∧ t.pending = s.pending ∧ s.fuses.BlownTo t.fuses

variable {s t u : State} {α β : Type}

theorem Fuses.BlownTo.refl (f : Fuses) : f.BlownTo f := ⟨BitVec.or_self, rfl⟩

theorem Fuses.BlownTo.trans {f g h : Fuses} (hfg : f.BlownTo g) (hgh : g.BlownTo h) : f.BlownTo h := by
  obtain ⟨svn_le, rest_eq⟩ := hfg
  obtain ⟨svn_le', rest_eq'⟩ := hgh
  exact ⟨by rw [← svn_le', ← BitVec.or_assoc, svn_le], rest_eq'.trans rest_eq⟩

theorem Keeps.refl (s : State) : Keeps s s := ⟨id, rfl, .refl _⟩

theorem Keeps.trans (hst : Keeps s t) (htu : Keeps t u) : Keeps s u := by
  obtain ⟨inv, pending_eq, fuses⟩ := hst
  obtain ⟨inv', pending_eq', fuses'⟩ := htu
  exact ⟨inv' ∘ inv, pending_eq'.trans pending_eq, fuses.trans fuses'⟩

/-! ### Branches and loops -/

/-- An update of the other parts of the state. -/
theorem Keeps.with (h : Keeps s t) {
    out freeCtr ticks boot power mgmt syncs programs services insts instCount acceptCount readyQ flows streams rrStream
    flowLast tables windows graphs sweeps sweepMarks switches chunks moves oldChunks shardMoves staged mapWaits areas
    visited flashMoved shardCounts shardWindow epochStart poison cache trackers pageCache flashWrites hubWritten tierRefused
    rings ringTurn regs locked lockBy lockRefused lockCause lockCount lockLast ports accs nextAcc released portIn links
    channels fences nextFence fencesIn nextTag responses mtags mgOut mgWait remotes rqOut mgIn bcNow bcQ kneads kneadGrants
    queue rowLine sifterInvalid logs units heldEvents nextToken spdm} :
    Keeps s ⟨
      t.pending, out, freeCtr, ticks, t.fuses, t.bootFlash, boot, power, mgmt, t.cores, syncs, programs, services, insts,
      instCount, acceptCount, readyQ, flows, streams, rrStream, flowLast, tables, windows, graphs, sweeps, sweepMarks,
      switches, chunks, moves, oldChunks, shardMoves, staged, mapWaits, areas, visited, flashMoved, shardCounts,
      shardWindow, epochStart, t.dmem, poison, cache, trackers, pageCache, flashWrites, hubWritten, tierRefused, rings,
      ringTurn, regs, locked, lockBy, lockRefused, lockCause, lockCount, lockLast, ports, accs, nextAcc, released, portIn,
      links, channels, fences, nextFence, fencesIn, nextTag, responses, mtags, mgOut, mgWait, remotes, rqOut, mgIn, bcNow,
      bcQ, kneads, kneadGrants, queue, rowLine, sifterInvalid, logs, units, heldEvents, nextToken, spdm⟩ := h

theorem Keeps.ite {c : Prop} [Decidable c] (ht : Keeps s t) (hu : Keeps s u) : Keeps s (if c then t else u) := by
  split
  · exact ht
  · exact hu

theorem Keeps.foldl {f : State → α → State} {l : List α} (h : Keeps s t) (hf : ∀ v x, Keeps s v → Keeps s (f v x)) :
    Keeps s (l.foldl f t) := by
  induction l generalizing t with
  | nil => exact h
  | cons x l ih => exact ih (hf t x h)

theorem Keeps.forEach {f : State → α → State} {l : List α} (h : Keeps s t) (hf : ∀ v x, Keeps s v → Keeps s (f v x)) :
    Keeps s (t.forEach l f) := h.foldl hf

theorem Keeps.foldlPair {f : β × State → α → β × State} {l : List α} {p : β × State} (h : Keeps s p.2)
    (hf : ∀ v x, Keeps s v.2 → Keeps s (f v x).2) : Keeps s (l.foldl f p).2 := by
  induction l generalizing p with
  | nil => exact h
  | cons x l ih => exact ih (hf p x h)

/-- The state of a pair that a branch answers. -/
theorem Keeps.iteSnd {c : Prop} [Decidable c] {p q : β × State} (hp : Keeps s p.2) (hq : Keeps s q.2) :
    Keeps s (if c then p else q).2 := by
  split
  · exact hp
  · exact hq

/-- The state of a pair that a call answers. -/
theorem Keeps.of_pair {p : α × State} {a : α} (e : p = (a, u)) (h : Keeps s p.2) : Keeps s u := by rw [e] at h; exact h

theorem Keeps.of_fst {p : State × α} {a : α} (e : p = (u, a)) (h : Keeps s p.1) : Keeps s u := by rw [e] at h; exact h

/-! ### Updates of the memories, the cores and the fuses -/

theorem Keeps.bootWrite (h : Keeps s t) {a : Nat} {d : Bytes} : Keeps s { t with bootFlash := t.bootFlash.writeBytes a d } :=
  h.imp_left fun inv hs => (inv hs).imp_left (Memory.wf_writeBytes d _ a)

theorem Keeps.dmemWrite (h : Keeps s t) {a : Nat} {d : Bytes} : Keeps s { t with dmem := t.dmem.writeBytes a d } :=
  h.imp_left fun inv hs => (inv hs).imp_right (And.imp_left (Memory.wf_writeBytes d _ a))

/-- The local store of a core is in canonical form. -/
def Core.LsWf (k : Core) : Prop := k.ls.wf = true

theorem Core.LsWf.core (h : Keeps s t) {c : Nat} (hs : s.Inv) : (t.core c).LsWf := by
  obtain ⟨-, -, ls_wf⟩ := h.1 hs
  exact ls_wf c

/-- An update of the other parts of a core. -/
theorem Core.LsWf.with {k : Core} (hk : k.LsWf) {
    regs lsPoison side sidePoison trees logLower logExpress run saved held chainCount passes tagLower tagExpress imgLower imgExpress
    lsu nextReq checks} :
    Core.LsWf ⟨
      regs, k.ls, lsPoison, side, sidePoison, trees, logLower, logExpress, run, saved, held, chainCount, passes, tagLower, tagExpress,
      imgLower, imgExpress, lsu, nextReq, checks⟩ := hk

/-- An update of a core whose local store stays canonical. -/
theorem Keeps.setCore (h : Keeps s t) {c : Nat} {k : Core} (hk : s.Inv → k.LsWf) : Keeps s (t.setCore c k) := by
  obtain ⟨inv, rest⟩ := h
  refine ⟨fun hs => ?_, rest⟩
  obtain ⟨boot_wf, dmem_wf, ls_wf⟩ := inv hs
  refine ⟨boot_wf, dmem_wf, fun d => ?_⟩
  by_cases hd : d = c
  · subst hd; rw [State.core_setCore]; exact hk hs
  · rw [State.core_setCore_ne _ _ _ hd]; exact ls_wf d

theorem Keeps.modCore (h : Keeps s t) {c : Nat} {f : Core → Core} (hf : ∀ k, k.LsWf → (f k).LsWf := by exact fun _ hk => hk) :
    Keeps s (t.modCore c f) :=
  h.setCore fun hs => hf _ (.core h hs)

theorem Core.LsWf.ite {c : Prop} [Decidable c] {k l : Core} (hk : k.LsWf) (hl : l.LsWf) : Core.LsWf (if c then k else l) := by
  split
  · exact hk
  · exact hl

theorem Core.LsWf.foldl {f : Core → α → Core} {l : List α} {k : Core} (hk : k.LsWf) (hf : ∀ v x, v.LsWf → (f v x).LsWf) :
    (l.foldl f k).LsWf := by
  induction l generalizing k with
  | nil => exact hk
  | cons x l ih => exact ih (hf k x hk)

/-- Fuses of the anti-rollback counter are blown. -/
theorem Keeps.blow (h : Keeps s t) {n : Nat} :
    Keeps s { t with fuses := { t.fuses with svn := blowTo t.fuses.svn n } } := by
  obtain ⟨inv, pending_eq, fuses⟩ := h
  exact ⟨inv, pending_eq, fuses.trans ⟨fusesIn_blowTo _ _, rfl⟩⟩

/-! ### Answers that may fail -/

/-- What a computation answers, if it answers at all, meets `P`. -/
def OkMeets {ε : Type} (P : α → Prop) (x : Except ε α) : Prop := ∀ a, x = .ok a → P a

theorem OkMeets.ok {ε : Type} {P : α → Prop} {a : α} (h : P a) : OkMeets (ε := ε) P (.ok a) := by rintro _ ⟨⟩; exact h

theorem OkMeets.pure {ε : Type} {P : α → Prop} {a : α} (h : P a) : OkMeets (ε := ε) P (pure a) := .ok h

theorem OkMeets.error {ε : Type} {P : α → Prop} {e : ε} : OkMeets P (.error e) := nofun

theorem OkMeets.ite {ε : Type} {P : α → Prop} {c : Prop} [Decidable c] {x y : Except ε α} (hx : OkMeets P x) (hy : OkMeets P y) :
    OkMeets P (if c then x else y) := by
  split
  · exact hx
  · exact hy

/-- What a first computation answers goes to a second. -/
theorem OkMeets.bindOf {ε : Type} {P : β → Prop} {Q : α → Prop} {x : Except ε α} {f : α → Except ε β} (hx : OkMeets Q x)
    (hf : ∀ a, Q a → OkMeets P (f a)) : OkMeets P (x >>= f) := by
  cases x with
  | error e => exact nofun
  | ok a => exact hf a (hx a rfl)

theorem OkMeets.bind {ε : Type} {P : β → Prop} {x : Except ε α} {f : α → Except ε β} (hf : ∀ a, OkMeets P (f a)) :
    OkMeets P (x >>= f) :=
  .bindOf (Q := fun _ => True) (fun _ _ => trivial) fun a _ => hf a

/-- What a search answers, if it finds anything, meets `P`. -/
def SomeMeets (P : α → Prop) (x : Option α) : Prop := ∀ a, x = some a → P a

theorem SomeMeets.some {P : α → Prop} {a : α} (h : P a) : SomeMeets P (some a) := by rintro _ ⟨⟩; exact h

theorem SomeMeets.none {P : α → Prop} : SomeMeets P none := nofun

theorem SomeMeets.ite {P : α → Prop} {c : Prop} [Decidable c] {x y : Option α} (hx : SomeMeets P x) (hy : SomeMeets P y) :
    SomeMeets P (if c then x else y) := by
  split
  · exact hx
  · exact hy

theorem SomeMeets.map {P : β → Prop} {x : Option α} {f : α → β} (hf : ∀ a, P (f a)) : SomeMeets P (x.map f) := by
  cases x with
  | none => exact nofun
  | some a => exact .some (hf a)

theorem SomeMeets.bindOf {P : β → Prop} {Q : α → Prop} {x : Option α} {f : α → Option β} (hx : SomeMeets Q x)
    (hf : ∀ a, Q a → SomeMeets P (f a)) : SomeMeets P (x >>= f) := by
  cases x with
  | none => exact nofun
  | some a => exact hf a (hx a rfl)

theorem SomeMeets.bind {P : β → Prop} {x : Option α} {f : α → Option β} (hf : ∀ a, SomeMeets P (f a)) :
    SomeMeets P (x >>= f) :=
  .bindOf (Q := fun _ => True) (fun _ _ => trivial) fun a _ => hf a

theorem SomeMeets.orElse {P : α → Prop} {x : Option α} {y : Unit → Option α} (hx : SomeMeets P x)
    (hy : SomeMeets P (y ())) : SomeMeets P (x.orElse y) := by
  cases x with
  | none => exact hy
  | some a => exact hx

theorem SomeMeets.findSome {P : β → Prop} {l : List α} {f : α → Option β} (hf : ∀ a, SomeMeets P (f a)) :
    SomeMeets P (l.findSome? f) := by
  induction l with
  | nil => exact .none
  | cons a l ih =>
    rw [List.findSome?_cons]
    split
    · next b e => exact .some (hf a b e)
    · exact ih

/-- A loop that a step may stop. -/
theorem SomeMeets.foldl {P : β → Prop} {l : List α} {f : Option β → α → Option β} {x : Option β} (hx : SomeMeets P x)
    (hf : ∀ v a, SomeMeets P v → SomeMeets P (f v a)) : SomeMeets P (l.foldl f x) := by
  induction l generalizing x with
  | nil => exact hx
  | cons a l ih => exact ih (hf x a hx)

theorem SomeMeets.mapOf {P : β → Prop} {Q : α → Prop} {x : Option α} {f : α → β} (hx : SomeMeets Q x)
    (hf : ∀ a, Q a → P (f a)) : SomeMeets P (x.map f) := by
  cases x with
  | none => exact nofun
  | some a => exact .some (hf a (hx a rfl))

/-! ### Work of the Sifters and NUs -/

/-- Work that keeps what `Keeps` says, whether it is done or stops. -/
abbrev JKeeps (s : State) (x : JM α) : Prop := x.Keeps (Keeps s)

theorem JKeeps.pure {a : α} : JKeeps s (pure a) := keeps_pure

theorem JKeeps.stop : JKeeps s (JM.stop (α := α)) := keeps_stop

theorem JKeeps.bind {x : JM α} {f : α → JM β} (hx : JKeeps s x) (hf : ∀ a, JKeeps s (f a)) : JKeeps s (x >>= f) := keeps_bind hx hf

theorem JKeeps.ite {c : Prop} [Decidable c] {x y : JM α} (hx : JKeeps s x) (hy : JKeeps s y) :
    JKeeps s (if c then x else y) := keeps_ite hx hy

theorem JKeeps.modify {f : Job → Job} (hf : ∀ j, Keeps s j.s → Keeps s (f j).s) : JKeeps s (modify f) := keeps_modify hf

theorem JKeeps.get : JKeeps s MonadState.get := keeps_get

theorem JKeeps.mapM {l : List α} {f : α → JM β} (hf : ∀ a, JKeeps s (f a)) : JKeeps s (l.mapM f) := keeps_mapM hf

theorem JKeeps.forM {l : List α} {f : α → JM PUnit} (hf : ∀ a, JKeeps s (f a)) : JKeeps s (l.forM f) := keeps_forM hf

theorem JKeeps.foldlM {l : List α} {b : β} {f : β → α → JM β} (hf : ∀ b a, JKeeps s (f b a)) : JKeeps s (l.foldlM f b) := by
  induction l generalizing b with
  | nil => exact keeps_pure
  | cons a l ih => exact keeps_bind (hf b a) fun _ => ih

theorem JKeeps.filterMapM {l : List α} {f : α → JM (Option β)} (hf : ∀ a, JKeeps s (f a)) :
    JKeeps s (l.filterMapM f) := by
  suffices go : ∀ acc, JKeeps s (List.filterMapM.loop f l acc) from go []
  induction l with
  | nil => exact fun acc => keeps_pure
  | cons a l ih =>
    intro acc
    rw [List.filterMapM.loop.eq_def]
    refine .bind (hf a) fun b => ?_
    cases b with
    | none => exact ih acc
    | some b => exact ih (b :: acc)

end Sys2Proof.Machine
end


section
/-! PROOFS. What every command keeps: the functions of the state and the shared operations. -/

namespace Sys2Proof.Machine

variable {s₀ s : State}

/-! ### Named operations over the state -/

theorem Keeps.setSync (h : Keeps s₀ s) {o : ℕ} {x : SyncObj} : Keeps s₀ (s.setSync o x) := .with h

theorem Keeps.setRing (h : Keeps s₀ s) {r : ℕ} {x : Ring} : Keeps s₀ (s.setRing r x) := .with h

theorem Keeps.modRing (h : Keeps s₀ s) {r : ℕ} {f : Ring → Ring} : Keeps s₀ (s.modRing r f) := .setRing h

theorem Keeps.setPort (h : Keeps s₀ s) {p : ℕ} {x : Port} : Keeps s₀ (s.setPort p x) := .with h

theorem Keeps.modPort (h : Keeps s₀ s) {p : ℕ} {f : Port → Port} : Keeps s₀ (s.modPort p f) := .setPort h

theorem Keeps.modFnc (h : Keeps s₀ s) {p f : ℕ} {g : FnCfg → FnCfg} : Keeps s₀ (s.modFnc p f g) := .modPort h

theorem Keeps.setLink (h : Keeps s₀ s) {l : ℕ} {x : Link} : Keeps s₀ (s.setLink l x) := .with h

theorem Keeps.modLink (h : Keeps s₀ s) {l : ℕ} {f : Link → Link} : Keeps s₀ (s.modLink l f) := .setLink h

theorem Keeps.setChan (h : Keeps s₀ s) {c : ℕ} {x : Channel} : Keeps s₀ (s.setChan c x) := .with h

theorem Keeps.modChan (h : Keeps s₀ s) {c : ℕ} {f : Channel → Channel} : Keeps s₀ (s.modChan c f) := .setChan h

theorem Keeps.setStrm (h : Keeps s₀ s) {n : ℕ} {x : Stream} : Keeps s₀ (s.setStrm n x) := .with h

theorem Keeps.modStrm (h : Keeps s₀ s) {n : ℕ} {f : Stream → Stream} : Keeps s₀ (s.modStrm n f) := .setStrm h

theorem Keeps.setLog (h : Keeps s₀ s) {k : ℕ} {x : Log} : Keeps s₀ (s.setLog k x) := .with h

theorem Keeps.setUnitSt (h : Keeps s₀ s) {u : FnUnit} {x : Unit'} : Keeps s₀ (s.setUnitSt u x) := .with h

theorem Keeps.setTable (h : Keeps s₀ s) {id : ℕ} {x : Option Table} : Keeps s₀ (s.setTable id x) := .with h

theorem Keeps.setGraph (h : Keeps s₀ s) {id : ℕ} {x : Option Graph} : Keeps s₀ (s.setGraph id x) := .with h

theorem Keeps.setProg (h : Keeps s₀ s) {p n : ℕ} {x : Option Program} : Keeps s₀ (s.setProg p n x) := .with h

theorem Keeps.setSvc (h : Keeps s₀ s) {p n : ℕ} {x : Option Service} : Keeps s₀ (s.setSvc p n x) := .with h

theorem Keeps.modInst (h : Keeps s₀ s) {n : ℕ} {f : Inst → Inst} : Keeps s₀ (s.modInst n f) := .with h

theorem Keeps.modItem (h : Keeps s₀ s) {id : ItemId} {f : Item → Item} : Keeps s₀ (s.modItem id f) := .modInst h

theorem Keeps.emit (h : Keeps s₀ s) {o : Output} : Keeps s₀ (s.emit o) := .with h

theorem Keeps.free (h : Keeps s₀ s) : Keeps s₀ s.free.2 := .with h

theorem Keeps.frees (h : Keeps s₀ s) {n : ℕ} : Keeps s₀ (s.frees n).2 := by
  induction n generalizing s with
  | zero => exact h
  | succ n ih => exact ih (.free h)

theorem Keeps.setReg (h : Keeps s₀ s) {key v : ℕ} : Keeps s₀ (s.setReg key v) := .with h

theorem Keeps.setEntry16 (h : Keeps s₀ s) {base d v : ℕ} : Keeps s₀ (s.setEntry16 base d v) := .setReg h

theorem Keeps.dropLatch (h : Keeps s₀ s) {p : ℕ} : Keeps s₀ (s.dropLatch p) := .modPort h

theorem Keeps.setHalf (h : Keeps s₀ s) {p fn : ℕ} {x : Option (ℕ × BitVec 32)} : Keeps s₀ (s.setHalf p fn x) := .modPort h

theorem Keeps.wholeWrite (h : Keeps s₀ s) {p fn : ℕ} : Keeps s₀ (s.wholeWrite p fn) := .setHalf (.ite (.dropLatch h) h)

/-! ### Host accesses of the device -/

theorem Keeps.noteReleased (h : Keeps s₀ s) {a : HostAcc} : Keeps s₀ (s.noteReleased a) := by
  unfold State.noteReleased
  split
  · exact .with (.ite (.modRing h) h)
  · exact h

theorem Keeps.advance (h : Keeps s₀ s) {before : List HostAcc} {a : HostAcc} : Keeps s₀ (s.advance before a).1 := by
  unfold State.advance
  extract_lets _ miss
  split
  · exact h
  · split
    · exact h
    · clear_value miss
      split
      · split
        · exact h
        · split
          · exact h
          · exact .emit h
      · split
        · exact h
        · split
          · exact .noteReleased (.emit h)
          · exact .emit h

theorem Keeps.pumpFrom (h : Keeps s₀ s) {kept l : List HostAcc} : Keeps s₀ (s.pumpFrom kept l).1 := by
  induction l generalizing s kept with
  | nil => exact h
  | cons a l ih =>
    unfold State.pumpFrom
    split
    · next e => exact ih (.of_fst e (.advance h))
    · next e => exact ih (.of_fst e (.advance h))

theorem Keeps.pump (h : Keeps s₀ s) : Keeps s₀ s.pump := .with (.pumpFrom h)

theorem Keeps.hostStart (h : Keeps s₀ s) {p fn : ℕ} {pasid : Option (BitVec 20)} {addr len : ℕ} {kind : AccKind} {why : AccWhy}
    {item : ItemId} : Keeps s₀ (s.hostStart p fn pasid addr len kind why item) := .ite h (.pump (.with h))

theorem Keeps.hostPost (h : Keeps s₀ s) {p fn : ℕ} {pasid : Option (BitVec 20)} {addr : ℕ} {data : Bytes} :
    Keeps s₀ (s.hostPost p fn pasid addr data) := .hostStart h

theorem Keeps.msixSend (h : Keeps s₀ s) {p fn vec : ℕ} : Keeps s₀ (s.msixSend p fn vec) := .ite (.modFnc h) (.hostStart h)

theorem Keeps.dropAccs (h : Keeps s₀ s) {t : HostAcc → Bool} : Keeps s₀ (s.dropAccs t) := .with h

theorem Keeps.dropAcc (h : Keeps s₀ s) {id : ℕ} : Keeps s₀ (s.dropAcc id) := .dropAccs h

theorem Keeps.issuePages (h : Keeps s₀ s) {p : ℕ} : Keeps s₀ (s.issuePages p) :=
  .foldl h fun _ _ h1 => .ite h1 (.with (.emit (.modPort h1)))

theorem Keeps.askAhead (h : Keeps s₀ s) {p fn : ℕ} {pasid : Option (BitVec 20)} {addr last : ℕ} :
    Keeps s₀ (s.askAhead p fn pasid addr last) := .ite h (.foldl h fun _ _ h1 => .ite h1 (.emit (.modPort h1)))

theorem Keeps.settleInvals (h : Keeps s₀ s) : Keeps s₀ s.settleInvals :=
  .foldl h fun _ _ h1 => .foldl h1 fun _ _ h2 => .ite h2 (.emit (.modPort h2))

/-! ### Flags and their event counters -/

theorem Keeps.raiseErr (h : Keeps s₀ s) {p : ℕ} : Keeps s₀ (s.raiseErr p) :=
  .ite (.ite (.modPort h) (.msixSend (.modPort h))) (.msixSend h)

theorem Keeps.logEvent (h : Keeps s₀ s) {k : ℕ} {ports : List ℕ} {code cls rung answer unit : ℕ} {info0 info1 : Word} :
    Keeps s₀ (s.logEvent k ports code cls rung answer unit info0 info1) :=
  .ite (.setLog h) (.foldl (.setLog h) fun _ _ h1 => .raiseErr h1)

theorem Keeps.holdEvent (h : Keeps s₀ s) {u : FnUnit} {k : ℕ} {ports : List ℕ} {code rung unit : ℕ} {info0 info1 : Word} :
    Keeps s₀ (s.holdEvent u k ports code rung unit info0 info1) := .with (.logEvent h)

theorem Keeps.report (h : Keeps s₀ s) {k : ℕ} {ports : List ℕ} {code unit info0 info1 : ℕ} :
    Keeps s₀ (s.report k ports code unit info0 info1) := .logEvent h

theorem Keeps.accessLog (h : Keeps s₀ s) {p unit addr cause : ℕ} : Keeps s₀ (s.accessLog p unit addr cause) := .report h

theorem Keeps.ringAccess (h : Keeps s₀ s) {p ring addr cause : ℕ} : Keeps s₀ (s.ringAccess p ring addr cause) := .accessLog h

theorem Keeps.poisonRead (h : Keeps s₀ s) {k : ℕ} : Keeps s₀ (s.poisonRead k) := .setLog h

theorem Keeps.alert (h : Keeps s₀ s) {causes : BitVec 5} : Keeps s₀ (s.alert causes) := .emit (.emit (.with h))

theorem Keeps.claimConflict (h : Keeps s₀ s) {p feature resource : ℕ} : Keeps s₀ (s.claimConflict p feature resource) :=
  .report (.modPort h)

/-! ### Device memory -/

theorem Keeps.poisonAt (h : Keeps s₀ s) {a : ℕ} : Keeps s₀ (s.poisonAt a) := .ite h (.with h)

theorem Keeps.notePoison (h : Keeps s₀ s) {a n : ℕ} : Keeps s₀ (s.notePoison a n) := by
  unfold State.notePoison
  split
  · exact .ite (.report h) (.ite (.poisonRead h) h)
  · exact h

theorem Keeps.dwrite (h : Keeps s₀ s) {a : ℕ} {d : Bytes} : Keeps s₀ (s.dwrite a d) := by
  unfold State.dwrite
  split
  · exact h
  · have hwritten : Keeps s₀ { s with dmem := s.dmem.writeBytes a d, poison := clearPoison s.poison a d.length } := .dmemWrite h
    exact .ite (.report h) (.ite (.with hwritten) hwritten)

theorem Keeps.flashPut (h : Keeps s₀ s) {a : ℕ} {d : Bytes} {who : Option (ℕ × ℕ)} : Keeps s₀ (s.flashPut a d who) := by
  unfold State.flashPut
  split
  · exact h
  · exact .ite (.report h) (.foldl h fun _ _ h1 => .with h1)

theorem Keeps.touch (h : Keeps s₀ s) {space line : ℕ} : Keeps s₀ (s.touch space line) := by
  unfold State.touch
  split
  · exact .with h
  · exact h

theorem Keeps.allocate (h : Keeps s₀ s) {x : CacheLine} : Keeps s₀ (s.allocate x) := .with h

theorem Keeps.invalidate (h : Keeps s₀ s) {space line : ℕ} : Keeps s₀ (s.invalidate space line) := .with h

theorem Keeps.pageRead (h : Keeps s₀ s) {a n : ℕ} : Keeps s₀ (s.pageRead a n) := by
  unfold State.pageRead
  split
  · exact .ite (.foldl h fun _ _ h1 => .with h1) h
  · exact h

theorem Keeps.cacheRead (h : Keeps s₀ s) {express : Bool} {a n : ℕ} : Keeps s₀ (s.cacheRead express a n) := by
  unfold State.cacheRead
  refine .foldl h fun _ _ h1 => ?_
  split
  · exact .touch h1
  · refine .pageRead (.allocate ?_)
    exact h1

theorem Keeps.lineWrite (h : Keeps s₀ s) {src : Option ℕ} {express : Bool} {line : ℕ} {whole : Bool} :
    Keeps s₀ (s.lineWrite src express line whole) := by
  unfold State.lineWrite
  extract_lets _ s1
  have hs1 : Keeps s₀ s1 := .with h
  split
  · exact .invalidate hs1
  · split
    · exact .allocate (.touch hs1)
    · exact .allocate hs1

theorem Keeps.linesWrite (h : Keeps s₀ s) {src : Option ℕ} {express : Bool} {a n : ℕ} : Keeps s₀ (s.linesWrite src express a n) :=
  .foldl h fun _ _ h1 => .lineWrite h1

theorem Keeps.generalWrite (h : Keeps s₀ s) {src : Option ℕ} {express : Bool} {a : ℕ} {d : Bytes} :
    Keeps s₀ (s.generalWrite src express a d) := by
  unfold State.generalWrite
  extract_lets s1
  have hs1 : Keeps s₀ s1 := .linesWrite h
  split
  · exact .ite (.flashPut hs1) (.dwrite hs1)
  · exact hs1

theorem Keeps.memRead (h : Keeps s₀ s) {express : Bool} {k : Kind} {a n : ℕ} : Keeps s₀ (s.memRead express k a n).2 :=
  .ite (.cacheRead (.notePoison h)) (.pageRead (.notePoison h))

theorem Keeps.memWrite (h : Keeps s₀ s) {src : Option ℕ} {express : Bool} {k : Kind} {a : ℕ} {d : Bytes} :
    Keeps s₀ (s.memWrite src express k a d) := .ite (.generalWrite h) (.dwrite h)

theorem Keeps.dropHostLines (h : Keeps s₀ s) {p : ℕ} : Keeps s₀ (s.dropHostLines p) := .with h

theorem Keeps.hostTouch (h : Keeps s₀ s) {p a n : ℕ} : Keeps s₀ (s.hostTouch p a n) := .foldl h fun _ _ h1 => .touch h1

theorem Keeps.hostFill (h : Keeps s₀ s) {p : ℕ} {express : Bool} {a : ℕ} {d : Bytes} : Keeps s₀ (s.hostFill p express a d) :=
  .foldl h fun _ _ h1 => .ite (.allocate h1) h1

theorem Keeps.hostInvalidate (h : Keeps s₀ s) {p a n : ℕ} : Keeps s₀ (s.hostInvalidate p a n) :=
  .foldl h fun _ _ h1 => .invalidate h1

/-! ### Work -/

theorem Keeps.postCounters (h : Keeps s₀ s) {r : ℕ} : Keeps s₀ (s.postCounters r) := .ite h (.hostPost h)

theorem Keeps.ringIrq (h : Keeps s₀ s) {r : ℕ} : Keeps s₀ (s.ringIrq r) := .msixSend (.modRing h)

theorem Keeps.ringPend (h : Keeps s₀ s) {r : ℕ} {now : Bool} : Keeps s₀ (s.ringPend r now) :=
  .ite (.ringIrq (.modRing h)) (.modRing h)

theorem Keeps.freeSlot (h : Keeps s₀ s) {p : ℕ} {l2 : Option (ℕ × ℕ)} : Keeps s₀ (s.freeSlot p l2) := by
  unfold State.freeSlot
  split
  · split
    · exact .setSvc h
    · exact h
  · exact h

theorem Keeps.ringDrained (h : Keeps s₀ s) {r : ℕ} : Keeps s₀ (s.ringDrained r) := .ite (.modRing (.postCounters h)) h

theorem Keeps.recordOut (h : Keeps s₀ s) {x : ℕ × Bool × Option (ℕ × ℕ)} : Keeps s₀ (s.recordOut x) :=
  .ringDrained (.ringPend (.freeSlot h))

theorem Keeps.tellReleased (h : Keeps s₀ s) : Keeps s₀ s.tellReleased := .foldl (.with h) fun _ _ h1 => .recordOut h1

theorem Keeps.complete (h : Keeps s₀ s) {r pos : ℕ} {d : Done} : Keeps s₀ (s.complete r pos d) := by
  unfold State.complete
  extract_lets _ _ s1 s2 s3
  have hs1 : Keeps s₀ s1 := .modRing h
  have hs2 : Keeps s₀ s2 := .ite (.postCounters hs1) hs1
  have hs3 : Keeps s₀ s3 := by
    unfold s3
    split
    · exact .hostPost hs2
    · exact hs2
  split
  · exact .freeSlot h
  · exact .ite (.freeSlot hs1) (.tellReleased (.modRing (.hostStart hs3)))

theorem Keeps.entryFailed (h : Keeps s₀ s) {r : ℕ} : Keeps s₀ (s.entryFailed r) := .modRing h

theorem Keeps.completeWith (h : Keeps s₀ s) {r pos status : ℕ} : Keeps s₀ (s.completeWith r pos status) := .complete h

theorem Keeps.decrement (h : Keeps s₀ s) {o n : ℕ} {ab : Bool} : Keeps s₀ (s.decrement o n ab) :=
  .ite (.report (.setSync h)) (.setSync h)

theorem Keeps.syncSetTo (h : Keeps s₀ s) {o n : ℕ} : Keeps s₀ (s.syncSetTo o n) := .setSync h

theorem Keeps.itemDecrement (h : Keeps s₀ s) {id : ItemId} {o n : ℕ} {ab : Bool} : Keeps s₀ (s.itemDecrement id o n ab) := by
  unfold State.itemDecrement
  split
  · exact .ite (.modItem h) (.decrement h)
  · exact .decrement h

theorem Keeps.endItem (h : Keeps s₀ s) {id : ItemId} {status prog : ℕ} : Keeps s₀ (s.endItem id status prog) := by
  unfold State.endItem
  split
  · extract_lets s1 s2
    have hs1 : Keeps s₀ s1 := .modItem h
    have hs2 : Keeps s₀ s2 := .with hs1
    split
    · exact .itemDecrement hs2
    · exact hs2
  · exact h

theorem Keeps.closeGroup (h : Keeps s₀ s) {n g : ℕ} : Keeps s₀ (s.closeGroup n g) := by
  unfold State.closeGroup
  split
  · exact h
  · exact .foldl (.modInst h) fun _ _ h1 => .decrement h1

theorem Keeps.finishInst (h : Keeps s₀ s) {i : Inst} : Keeps s₀ (s.finishInst i) :=
  .complete (.ite (.modRing (.with h)) (.with h))

theorem Keeps.settleOne (h : Keeps s₀ s) : SomeMeets (Keeps s₀) s.settleOne := by
  unfold State.settleOne
  split
  · split
    · split
      · exact .some (.endItem h)
      · exact .some (.with (.modItem h))
    · exact .none
  · split
    · exact .some (.closeGroup h)
    · exact .map fun _ => .finishInst h

theorem Keeps.settleLoop (h : Keeps s₀ s) {n : ℕ} : Keeps s₀ (s.settleLoop n) := by
  induction n generalizing s with
  | zero => exact h
  | succ n ih =>
    unfold State.settleLoop
    split
    · next e => exact ih (Keeps.settleOne h _ e)
    · exact h

theorem Keeps.settle (h : Keeps s₀ s) : Keeps s₀ s.settle := .settleLoop h

theorem Keeps.restore (h : Keeps s₀ s) {c : ℕ} : Keeps s₀ (s.restore c) := by
  unfold State.restore
  extract_lets
  split
  · exact .ite (.setCore h fun hs => .with (.core h hs)) h
  · exact h

theorem Keeps.restoreAll (h : Keeps s₀ s) : Keeps s₀ s.restoreAll := .foldl h fun _ _ h1 => .restore h1

/-! ### A core's local store -/

theorem Core.LsWf.lsPut {k : Core} (hk : k.LsWf) {a : ℕ} {d : Bytes} : (k.lsPut a d).LsWf := Memory.wf_writeBytes d _ a hk

theorem Core.LsWf.clearTags {k : Core} (hk : k.LsWf) {a n : ℕ} : (k.clearTags a n).LsWf :=
  .ite (.with (.ite (.with hk) hk)) (.ite (.with hk) hk)

theorem Core.LsWf.engPut {k : Core} (hk : k.LsWf) {a : ℕ} {d : Bytes} : (k.engPut a d).LsWf := .clearTags (.lsPut hk)

theorem Core.LsWf.poisonPut {k : Core} (hk : k.LsWf) {a : ℕ} {d : Bytes} {bad : Bool} : (k.poisonPut a d bad).LsWf :=
  .ite (.with (.engPut hk)) (.engPut hk)

theorem Keeps.lsWrite (h : Keeps s₀ s) {c a : ℕ} {d : Bytes} : Keeps s₀ (s.lsWrite c a d) := .modCore h fun _ hk => .engPut hk

theorem Core.LsWf.setS {k : Core} (hk : k.LsWf) {n : ℕ} {v : Word} : (k.setS n v).LsWf := .ite hk (.with hk)

theorem Core.LsWf.setP {k : Core} (hk : k.LsWf) {n : ℕ} {v : BitVec 256} : (k.setP n v).LsWf := .with hk

theorem Core.LsWf.setT {k : Core} (hk : k.LsWf) {n e : ℕ} {v : BitVec 32} : (k.setT n e v).LsWf := .with hk

theorem Core.LsWf.setPc {k : Core} (hk : k.LsWf) {a : ℕ} : (k.setPc a).LsWf := .with hk

theorem Keeps.loadCode (h : Keeps s₀ s) {c p n : ℕ} {express : Bool} : Keeps s₀ (s.loadCode c p n express) := by
  unfold State.loadCode
  split
  · exact h
  · exact .modCore (.memRead h) fun _ hk => .ite (.with (.poisonPut hk)) (.with (.poisonPut hk))

/-! ### Streams -/

theorem Keeps.genReport (h : Keeps s₀ s) {src : ArmSrc} {st : ℕ} : Keeps s₀ (s.genReport src st) := by
  unfold State.genReport
  split
  · exact .completeWith h
  · exact .ite h (.modInst h)

theorem Keeps.readEntry (h : Keeps s₀ s) {n : ℕ} {g : Gen} : Keeps s₀ (s.readEntry n g) := .ite (.cacheRead h) h

theorem Keeps.armStream (h : Keeps s₀ s) {n : ℕ} {g : Gen} : Keeps s₀ (s.armStream n g) := by
  unfold State.armStream
  extract_lets
  split
  · exact .readEntry (.setStrm h)
  · split
    · exact .setStrm h
    · exact .ite (.genReport (.setStrm h)) (.setStrm h)

theorem Keeps.armBytes (h : Keeps s₀ s) {p : ℕ} {express : Bool} {b : Bytes} {src : ArmSrc} {base : ℕ} :
    Keeps s₀ (s.armBytes p express b src base) := by
  unfold State.armBytes
  split
  · exact .ite (.genReport h) (.ite (.genReport h) (.armStream h))
  · exact .genReport h

theorem Keeps.modGen (h : Keeps s₀ s) {n : ℕ} {x : ArmSrc} {f : Gen → Gen} : Keeps s₀ (s.modGen n x f) := .modStrm h

theorem Keeps.nextEntry (h : Keeps s₀ s) {n : ℕ} {x : ArmSrc} : Keeps s₀ (s.nextEntry n x) := by
  unfold State.nextEntry
  extract_lets s1
  have hs1 : Keeps s₀ s1 := .modGen h
  split
  · exact .readEntry hs1
  · exact hs1

theorem Keeps.dropGens (h : Keeps s₀ s) {n : ℕ} : Keeps s₀ (s.dropGens n) := .modStrm h

theorem Keeps.endGen (h : Keeps s₀ s) {n : ℕ} {x : ArmSrc} {st : ℕ} : Keeps s₀ (s.endGen n x st) := by
  unfold State.endGen
  split
  · exact h
  · exact .settle (.genReport (.dropGens (.dropAccs (.modStrm (.modGen h)))))

theorem Keeps.seekFrom (h : Keeps s₀ s) {n : ℕ} {x : ArmSrc} {fuel : ℕ} : Keeps s₀ (s.seekFrom n x fuel) := by
  induction fuel generalizing s with
  | zero => exact h
  | succ k ih =>
    unfold State.seekFrom
    split
    · exact h
    · extract_lets
      split
      · exact .endGen (.ite h (.ringAccess h))
      · exact .ite (.endGen h) h
      · split
        · exact .endGen (.ringAccess h)
        · exact .ite (.endGen h) (.ite (ih (.nextEntry h)) h)
      · exact .ite (.endGen h) (.ite h (.ite (.endGen h) (ih (.nextEntry h))))

theorem Keeps.seek (h : Keeps s₀ s) {n : ℕ} : Keeps s₀ (s.seek n) := .foldl h fun _ _ h1 => .seekFrom h1

theorem Keeps.requestCrumbs (h : Keeps s₀ s) {n : ℕ} : Keeps s₀ (s.requestCrumbs n) := by
  unfold State.requestCrumbs
  split
  · exact h
  · split
    · exact .ite (.foldl (.modGen h) fun _ _ h1 => .hostStart h1) (.modGen h)
    · exact h

theorem Keeps.deliver (h : Keeps s₀ s) {n : ℕ} {x : ArmSrc} {i : ℕ} {d : Bytes} {bad : Bool} : Keeps s₀ (s.deliver n x i d bad) := by
  unfold State.deliver
  split
  · exact h
  · exact .seek (.modGen (.modCore h fun _ hk => .poisonPut hk))

theorem Keeps.takeTurn (h : Keeps s₀ s) {cl n : ℕ} : Keeps s₀ (s.takeTurn cl n) := by
  unfold State.takeTurn
  split
  · exact .ite (.with h) h
  · exact h

theorem Keeps.streamGrant (h : Keeps s₀ s) {cl : Fin 8} : Keeps s₀ (streamGrant cl s) := by
  unfold Machine.streamGrant
  extract_lets s1
  have hs1 : Keeps s₀ s1 := .foldl h fun _ _ h1 => .seek h1
  split
  · exact h
  · split
    · exact hs1
    · exact .seek (.requestCrumbs (.takeTurn hs1))

theorem Keeps.streamCrumbDelivered (h : Keeps s₀ s) {st : StreamIx} {i : ℕ} {host : Bytes} :
    Keeps s₀ (streamCrumbDelivered st i host s) := by
  unfold Machine.streamCrumbDelivered
  split
  · exact h
  · split
    · exact h
    · extract_lets _ r
      have hr : Keeps s₀ r.2 := .memRead h
      split
      · split
        · exact h
        · exact .deliver (.settleInvals (.dropAcc h))
      · exact .deliver hr

theorem Keeps.generationStart (h : Keeps s₀ s) {st : StreamIx} : Keeps s₀ (generationStart st s) := by
  unfold Machine.generationStart
  extract_lets s1
  have hs1 : Keeps s₀ s1 := .seek h
  split
  · exact h
  · split
    · exact hs1
    · extract_lets _ s2
      have hs2 : Keeps s₀ s2 := .readEntry hs1
      split
      · exact hs1
      · split
        · exact .setStrm hs2
        · exact .setStrm hs2

/-! ### The issue stage of a core -/

theorem Keeps.modRun (h : Keeps s₀ s) {c : ℕ} {f : Run → Run} : Keeps s₀ (s.modRun c f) := .modCore h

theorem Keeps.endRerunFlow (h : Keeps s₀ s) {flow : Option (ℕ × ℕ)} : Keeps s₀ (s.endRerunFlow flow) := by
  unfold State.endRerunFlow
  split
  · exact .with h
  · exact h

theorem Keeps.finishOne (h : Keeps s₀ s) {c prog : ℕ} : Keeps s₀ (s.finishOne c prog) := by
  unfold State.finishOne
  split
  · exact h
  · extract_lets _ flow s1 s2 s3 _ v s4 s5
    have hs1 : Keeps s₀ s1 := .modCore h
    have hs2 : Keeps s₀ s2 := by
      unfold s2
      clear_value flow
      split
      · exact .with hs1
      · exact hs1
    have hs3 : Keeps s₀ s3 := .modItem hs2
    have hv : Keeps s₀ v := .modItem hs3
    have hs4 : Keeps s₀ s4 := .ite (.ite (.with hv) (.endItem hs3)) (.ite (.endRerunFlow (.modItem hs3)) (.endItem hs3))
    have hs5 : Keeps s₀ s5 := .foldl hs4 fun _ _ h1 => .dropGens h1
    exact .restore (.settle hs5)

theorem Keeps.finishRun (h : Keeps s₀ s) {c prog : ℕ} : Keeps s₀ (s.finishRun c prog) := by
  unfold State.finishRun
  extract_lets s1
  have hs1 : Keeps s₀ s1 := .finishOne h
  split
  · exact .finishOne hs1
  · exact hs1

theorem Keeps.tryEnd (h : Keeps s₀ s) {c : ℕ} : Keeps s₀ (s.tryEnd c) := by
  unfold State.tryEnd
  split
  · exact .finishRun h
  · exact h

theorem Keeps.logFault (h : Keeps s₀ s) {port : ℕ} {f : FaultRec} {answer : ℕ} : Keeps s₀ (s.logFault port f answer) :=
  .logEvent h

theorem Keeps.raise (h : Keeps s₀ s) {c code engine : ℕ} {insn : Word} : Keeps s₀ (s.raise c code engine insn) := by
  unfold State.raise
  split
  · exact h
  · exact .ite (.logFault (.modCore h)) (.tryEnd (.modRun (.logFault h)))

theorem Keeps.raiseRetry (h : Keeps s₀ s) {c code engine : ℕ} {insn : Word} : Keeps s₀ (s.raiseRetry c code engine insn) := by
  unfold State.raiseRetry
  split
  · exact h
  · exact .tryEnd (.modRun (.logFault h))

theorem Keeps.satRead (h : Keeps s₀ s) {c engine : ℕ} {insn : Word} : Keeps s₀ (s.satRead c engine insn) :=
  .ite (.raise h) (.tryEnd (.modRun h))

theorem Keeps.consumePoison (h : Keeps s₀ s) {c engine : ℕ} {insn : Word} {addr : ℕ} :
    Keeps s₀ (s.consumePoison c engine insn addr) := by
  unfold State.consumePoison
  split
  · exact h
  · exact .ite (.raise (.logEvent h)) (.raiseRetry (.logEvent h))

theorem Keeps.take (h : Keeps s₀ s) {c : ℕ} {e : Exn} {insn : Word} : Keeps s₀ (s.take c e insn) :=
  .ite (.consumePoison h) (.raise h)

theorem Keeps.unstall (h : Keeps s₀ s) {c : ℕ} {r : Run} : SomeMeets (Keeps s₀) (s.unstall c r) := by
  unfold State.unstall
  split
  · exact .some h
  · exact .ite (.some (.modCore h)) .none

theorem Keeps.issue (h : Keeps s₀ s) {c : ℕ} {w : Word} {fieldsOk : Bool} {body : State → Run → Eff}
    (hbody : ∀ v x1, Keeps s₀ v → OkMeets (Keeps s₀) (body v x1)) : Keeps s₀ (s.issue c w fieldsOk body) := by
  unfold State.issue
  split
  · exact h
  · extract_lets s₀1
    have hs₀1 : Keeps s₀ s₀1 := h
    split
    · exact h
    · next s1 e =>
      have h1 : Keeps s₀ s1 := Keeps.unstall h _ e
      split
      · exact .raise h1
      · split
        · exact .raise h1
        · split
          · exact hs₀1
          · split
            · exact .raise h1
            · split
              · next s' e1 =>
                have h11 : Keeps s₀ s' := hbody _ _ h1 _ e1
                exact h11
              · exact .take h1

theorem Keeps.adv (h : Keeps s₀ s) {c : ℕ} : Keeps s₀ (s.adv c) := .modCore h fun _ hk => .setPc hk

theorem Keeps.evInvalid (h : Keeps s₀ s) {c n : ℕ} : Keeps s₀ (s.evInvalid c n) := .modRun h

theorem Keeps.evPermute (h : Keeps s₀ s) {c n : ℕ} : Keeps s₀ (s.evPermute c n) := .modRun h

theorem Keeps.evNanRow (h : Keeps s₀ s) {c n : ℕ} : Keeps s₀ (s.evNanRow c n) := .modRun h

theorem Keeps.stallFor (h : Keeps s₀ s) {c : ℕ} {t : Stall} : Keeps s₀ (s.stallFor c t) := .modRun h

theorem Core.LsWf.setSide {k : Core} (hk : k.LsWf) {i : ℕ} {w : Word} : (k.setSide i w).LsWf := .with hk

end Sys2Proof.Machine
end


section
/-! PROOFS. What every command keeps: the functions of the instructions of the cores. -/

namespace Sys2Proof.Machine

variable {s₀ s : State}

/-! ### Scalar instructions -/

theorem Keeps.putS (h : Keeps s₀ s) {c : ℕ} {d : BitVec 5} {v : Word} : Keeps s₀ (s.putS c d v) :=
  .adv (.modCore h fun _ hk => .setS hk)

theorem Keeps.opRR (h : Keeps s₀ s) {op : ℕ} {g : Word → Word → Word} {c : CoreIx} {f : RFmt} : Keeps s₀ (opRR op g c f s) :=
  .issue h (fun _ _ h1 => .ok (.putS h1))

theorem Keeps.opRI (h : Keeps s₀ s) {op : ℕ} {g : Word → BitVec 32 → Word} {c : CoreIx} {f : IFmt} : Keeps s₀ (opRI op g c f s) :=
  .issue h (fun _ _ h1 => .ok (.putS h1))

theorem Keeps.opSF (h : Keeps s₀ s) {op : ℕ} {useB : Bool} {g : FV → FV → Ar FV} {c : CoreIx} {f : RFmt} :
    Keeps s₀ (opSF op useB g c f s) := .issue h (fun _ _ h1 => .ok (.putS (.evInvalid h1)))

theorem Keeps.nop (h : Keeps s₀ s) {c : CoreIx} {f : RFmt} : Keeps s₀ (nop c f s) := .issue h (fun _ _ h1 => .ok (.adv h1))

theorem Keeps.li (h : Keeps s₀ s) {c : CoreIx} {f : IFmt} : Keeps s₀ (li c f s) := .issue h (fun _ _ h1 => .ok (.putS h1))

theorem Keeps.lih (h : Keeps s₀ s) {c : CoreIx} {f : IFmt} : Keeps s₀ (lih c f s) := .issue h (fun _ _ h1 => .ok (.putS h1))

theorem Keeps.sf2i (h : Keeps s₀ s) {c : CoreIx} {f : RFmt} : Keeps s₀ (sf2i c f s) :=
  .issue h (fun _ _ h1 => .ok (.putS (.evInvalid h1)))

theorem Keeps.si2f (h : Keeps s₀ s) {c : CoreIx} {f : RFmt} : Keeps s₀ (si2f c f s) := .issue h (fun _ _ h1 => .ok (.putS h1))

theorem Keeps.load (h : Keeps s₀ s) {op n : ℕ} {c : CoreIx} {f : IFmt} : Keeps s₀ (load op n c f s) :=
  .issue h (fun _ _ h1 => .bind fun _ => .bind fun _ => .pure (.putS h1))

theorem Keeps.store (h : Keeps s₀ s) {op n : ℕ} {c : CoreIx} {f : IFmt} : Keeps s₀ (store op n c f s) :=
  .issue h (fun _ _ h1 => .bind fun _ => .pure (.adv (.modCore h1 fun _ hk => .lsPut hk)))

theorem Keeps.sysr (h : Keeps s₀ s) {c : CoreIx} {f : IFmt} : Keeps s₀ (sysr c f s) := by
  unfold Machine.sysr
  refine .issue h (fun _ _ h1 => ?_)
  split
  · refine .ok (.putS ?_)
    exact h1
  · exact .error

theorem Keeps.pcnt (h : Keeps s₀ s) {c : CoreIx} {f : RFmt} : Keeps s₀ (pcnt c f s) := .issue h (fun _ _ h1 => .ok (.putS h1))

/-! ### Control flow, waiting, SIGNAL and END -/

theorem Keeps.jumpTo (h : Keeps s₀ s) {c : ℕ} {r : Run} {target : Word} : OkMeets (Keeps s₀) (s.jumpTo c r target) :=
  .ite .error (.ite .error (.ok (.modCore h fun _ hk => .setPc hk)))

theorem Keeps.branchIf (h : Keeps s₀ s) {op : ℕ} {useA : Bool} {t : Word → Bool} {c : CoreIx} {f : BFmt} :
    Keeps s₀ (branchIf op useA t c f s) := .issue h (fun _ _ h1 => .ite (.jumpTo h1) (.ok (.adv h1)))

theorem Keeps.jr (h : Keeps s₀ s) {c : CoreIx} {f : RFmt} : Keeps s₀ (jr c f s) := .issue h (fun _ _ h1 => .jumpTo h1)

theorem Keeps.loopInsn (h : Keeps s₀ s) {c : CoreIx} {f : BFmt} : Keeps s₀ (loopInsn c f s) :=
  .issue h (fun _ _ h1 => .ite (.jumpTo (.modCore h1 fun _ hk => .setS hk)) (.ok (.adv (.modCore h1 fun _ hk => .setS hk))))

theorem Keeps.waitInsn (h : Keeps s₀ s) {c : CoreIx} {f : XFmt} : Keeps s₀ (waitInsn c f s) := by
  unfold Machine.waitInsn
  extract_lets
  refine .issue h (fun _ _ h1 => ?_)
  extract_lets _ _ rest
  have hrest : ∀ x0, OkMeets (Keeps s₀) (rest x0) := by
    intro x0
    unfold rest
    split
    · refine .pure (.adv ?_)
      exact h1
    · refine .pure (.stallFor ?_)
      exact h1
  exact .ite (.bind fun _ => hrest _) (.ite (.bind fun _ => hrest _) (.bind fun _ => hrest _))

theorem Keeps.ewaitInsn (h : Keeps s₀ s) {c : CoreIx} {f : XFmt} : Keeps s₀ (ewaitInsn c f s) :=
  .issue h (fun _ _ h1 => .ite (.ok (.adv h1)) (.ok (.stallFor h1)))

theorem Keeps.waitTimeout (h : Keeps s₀ s) {c : CoreIx} : Keeps s₀ (waitTimeout c s) := by
  unfold Machine.waitTimeout
  split
  · exact h
  · split
    · exact h
    · exact .ite (.raise h) h

theorem Keeps.effectOp (h : Keeps s₀ s) {c status : ℕ} : Keeps s₀ (s.effectOp c status).2 := by
  unfold State.effectOp
  split
  · exact h
  · split
    · exact .modRun h
    · exact .modRun h

theorem Keeps.signalInsn (h : Keeps s₀ s) {c : CoreIx} {f : XFmt} : Keeps s₀ (signalInsn c f s) :=
  .issue h (fun _ _ h1 => .ite .error (.ok (.ite (.adv (.effectOp h1)) (.settle (.itemDecrement (.adv (.effectOp h1)))))))

theorem Keeps.endInsn (h : Keeps s₀ s) {c : CoreIx} {f : XFmt} : Keeps s₀ (endInsn c f s) :=
  .issue h (fun _ _ h1 => .ok (.tryEnd (.stallFor h1)))

/-! ### The matrix engine -/

theorem Core.LsWf.beginTree {k : Core} (hk : k.LsWf) {t : TreeSet} : (k.beginTree t).LsWf := .with hk

theorem Core.LsWf.putTree {k : Core} (hk : k.LsWf) {t : TreeSet} : (k.putTree t).LsWf := .with hk

theorem Core.LsWf.setRepLog {k : Core} (hk : k.LsWf) {express : Bool} {l : Option RepLog} : (k.setRepLog express l).LsWf :=
  .ite (.with hk) (.with hk)

theorem Keeps.intSat (h : Keeps s₀ s) {c : ℕ} {w : Word} : Keeps s₀ (s.intSat c w) := .ite (.raise h) (.adv (.modRun h))

theorem Keeps.macc (h : Keeps s₀ s) {c : CoreIx} {f : MFmt} : Keeps s₀ (macc c f s) := by
  unfold Machine.macc
  refine .issue h (fun _ _ h1 => ?_)
  extract_lets _ _ _ _ _ e? place _ rest rest1
  have hplace : ∀ x0 x1, x0.LsWf → (place x0 x1).LsWf := fun _ _ hx0 => .ite (.beginTree hx0) (.putTree hx0)
  have hrest : ∀ x0, OkMeets (Keeps s₀) (rest x0) := by
    intro x0
    unfold rest
    clear_value e?
    split
    · exact .error
    · extract_lets _ _ _ _ rest2
      have hrest2 : ∀ x0, OkMeets (Keeps s₀) (rest2 x0) := by
        intro x0
        unfold rest2
        split
        · exact .pure (.adv (.setCore h1 fun hs => hplace _ _ (.core h1 hs)))
        · refine .bind fun _ => .bind fun _ => ?_
          split
          · exact .pure (.adv (.evInvalid (.setCore h1 fun hs => hplace _ _ (.core h1 hs))))
          · refine .bind fun _ => ?_
            extract_lets s1
            have hs1 : Keeps s₀ s1 := .setCore h1 fun hs => .setRepLog (hplace _ _ (.core h1 hs))
            exact .pure (.ite (.intSat hs1) (.adv hs1))
      exact .ite (.bind fun _ => hrest2 ()) (hrest2 ())
  have hrest1 : ∀ x0, OkMeets (Keeps s₀) (rest1 x0) := fun _ => .ite (.bind fun _ => hrest _) (.bind fun _ => hrest _)
  exact .ite (.bind fun _ => hrest1 ()) (hrest1 ())

theorem Keeps.tsload (h : Keeps s₀ s) {c : CoreIx} {f : XFmt} : Keeps s₀ (tsload c f s) := by
  unfold Machine.tsload
  refine .issue h (fun _ _ h1 => ?_)
  extract_lets _ _ _ rest rest1 rest2
  have hrest : ∀ x0, OkMeets (Keeps s₀) (rest x0) := by
    intro x0
    unfold rest
    refine .bind fun _ => ?_
    split
    · exact .error
    · extract_lets _ rest3
      have hrest3 : ∀ x0, OkMeets (Keeps s₀) (rest3 x0) := by
        intro x0
        unfold rest3
        refine .bind fun _ => ?_
        split
        · exact .error
        · extract_lets _ rest4
          have hrest4 : ∀ x0, OkMeets (Keeps s₀) (rest4 x0) := by
            intro x0
            unfold rest4
            refine .bind fun _ => ?_
            split
            · exact .error
            · extract_lets _ _ s1
              have hs1 : Keeps s₀ s1 := .setCore h1 fun hs => .ite (.setRepLog (.beginTree (.core h1 hs)))
                (.beginTree (.core h1 hs))
              split
              · exact .pure (.satRead (.ite (.setCore h1 fun hs => .ite (.setRepLog (.beginTree (.core h1 hs))) (.beginTree
                  (.core h1 hs))) h1))
              · exact .pure (.ite (.intSat hs1) (.adv hs1))
          exact .ite (.bind fun _ => hrest4 ()) (hrest4 ())
      exact .ite (.bind fun _ => hrest3 ()) (hrest3 ())
  have hrest1 : ∀ x0, OkMeets (Keeps s₀) (rest1 x0) := fun _ => .ite (.bind fun _ => hrest ()) (hrest ())
  have hrest2 : ∀ x0, OkMeets (Keeps s₀) (rest2 x0) := fun _ => .ite (.bind fun _ => hrest1 ()) (hrest1 ())
  exact .ite (.bind fun _ => hrest2 ()) (hrest2 ())

theorem Keeps.treeRecord (h : Keeps s₀ s) {t : TreeSet} : Keeps s₀ (s.treeRecord t).2 := by
  unfold State.treeRecord
  extract_lets n q w
  have hq : Keeps s₀ q.2 := .foldlPair h fun v x h1 => by
    split
    · exact h1
    · exact .frees h1
  split
  · exact hq
  · exact .frees h

theorem Keeps.tsstore (h : Keeps s₀ s) {c : CoreIx} {f : XFmt} : Keeps s₀ (tsstore c f s) := by
  unfold Machine.tsstore
  refine .issue h (fun _ _ h1 => ?_)
  extract_lets _ _ rest rest1
  have hrest : ∀ x0, OkMeets (Keeps s₀) (rest x0) := by
    intro x0
    unfold rest
    split
    · exact .error
    · extract_lets q rest2
      have hq : Keeps s₀ q.2 := .treeRecord h1
      have hrest2 : ∀ x0, OkMeets (Keeps s₀) (rest2 x0) := fun _ => .bind fun _ => .pure
        (.adv (.modCore hq fun _ hk => .engPut hk))
      exact .ite (.bind fun _ => hrest2 ()) (hrest2 ())
  have hrest1 : ∀ x0, OkMeets (Keeps s₀) (rest1 x0) := fun _ => .ite (.bind fun _ => hrest ()) (hrest ())
  exact .ite (.bind fun _ => hrest1 ()) (hrest1 ())

/-! ### Glaze -/

theorem Core.LsWf.puts {k : Core} (hk : k.LsWf) {l : List (ℕ × Bytes)} : (k.puts l).LsWf := .foldl hk fun _ _ h1 => .engPut h1

theorem Keeps.glz (h : Keeps s₀ s) {c : CoreIx} {f : XFmt} : Keeps s₀ (glz c f s) := by
  unfold Machine.glz
  refine .issue h (fun _ _ h1 => ?_)
  extract_lets _ _ _ rest rest1 rest2
  have hrest : ∀ x0, OkMeets (Keeps s₀) (rest x0) := by
    intro x0
    unfold rest
    split
    · exact .error
    · split
      · exact .pure h1
      · refine .bind fun _ => .bind fun _ => ?_
        extract_lets _ fr _ _ _ s1 rest3
        have hfr : Keeps s₀ fr.2 := .frees h1
        have hs1 : Keeps s₀ s1 := .modCore hfr fun _ hk => .putTree (.puts hk)
        have hrest3 : ∀ x0, OkMeets (Keeps s₀) (rest3 x0) := fun _ => .bind fun _ => .bind fun _ => .pure (.adv (.evInvalid hs1))
        exact .ite (.bind fun _ => hrest3 ()) (hrest3 ())
  have hrest1 : ∀ x0, OkMeets (Keeps s₀) (rest1 x0) := fun _ => .ite (.bind fun _ => hrest ()) (hrest ())
  have hrest2 : ∀ x0, OkMeets (Keeps s₀) (rest2 x0) := fun _ => .ite (.bind fun _ => hrest1 ()) (hrest1 ())
  exact .ite (.bind fun _ => hrest2 ()) (hrest2 ())

/-! ### The vector engine -/

theorem Keeps.chainCalc (h : Keeps s₀ s) {c : ℕ} {d : ChainDesc} {t : Option TreeSet} : Keeps s₀ (chainCalc s c d t).state :=
  .frees (.frees h)

theorem Keeps.chainRun (h : Keeps s₀ s) {c : ℕ} {r : Run} {d : ChainDesc} : OkMeets (fun r => Keeps s₀ r.state) (chainRun s c r d) := by
  unfold Machine.chainRun
  extract_lets _ rest rest1
  have hrest : ∀ x0, OkMeets (fun r => Keeps s₀ r.state) (rest x0) := fun _ => .bind fun _ => .bind fun _ => .pure (.chainCalc h)
  have hrest1 : ∀ x0, OkMeets (fun r => Keeps s₀ r.state) (rest1 x0) := fun _ => .ite (.bind fun _ => .bind fun _ => hrest _)
    (.bind fun _ => hrest _)
  exact .ite (.bind fun _ => hrest1 ()) (hrest1 ())

theorem Keeps.apply {x : ChainRes} (h : Keeps s₀ x.state) {c : ℕ} {d : ChainDesc} : Keeps s₀ (x.apply c d) := by
  unfold ChainRes.apply
  refine .evInvalid (.modCore h fun _ hk => ?_)
  extract_lets k k1 k2
  have hk : k.LsWf := .puts hk
  have hk1 : k1.LsWf := by
    unfold k1
    refine .foldl hk fun _ _ h1 => ?_
    split
    · exact .setT h1
  have hk2 : k2.LsWf := by
    unfold k2
    split
    · exact .setP hk1
    · exact hk1
  split
  · exact .setS hk2
  · exact hk2

theorem Keeps.chainInsn (h : Keeps s₀ s) {c : CoreIx} {f : XFmt} : Keeps s₀ (Machine.chainInsn c f s) := by
  unfold Machine.chainInsn
  refine .issue h (fun _ _ h1 => ?_)
  refine .bind fun _ => ?_
  extract_lets _ rest
  have hrest : ∀ x0, OkMeets (Keeps s₀) (rest x0) := fun x0 => .bindOf (Keeps.chainRun h1) fun _ h1 => .pure (.adv (.apply h1))
  exact .ite (.bind fun _ => hrest ()) (hrest ())

theorem Core.LsWf.putTile {k : Core} (hk : k.LsWf) {n : ℕ} {l : List (BitVec 32)} : (k.putTile n l).LsWf := by
  unfold Core.putTile
  refine .foldl hk fun _ _ h1 => ?_
  split
  · exact .setT h1

theorem Keeps.vperm (h : Keeps s₀ s) {c : CoreIx} {f : XFmt} : Keeps s₀ (vperm c f s) :=
  .issue h (fun _ _ h1 => .ok (.adv (.evPermute (.modCore h1 fun _ hk => .putTile hk))))

theorem Keeps.vshuf (h : Keeps s₀ s) {c : CoreIx} {f : XFmt} : Keeps s₀ (vshuf c f s) :=
  .issue h (fun _ _ h1 => .ite .error (.ok (.adv (.modCore h1 fun _ hk => .putTile hk))))

theorem Keeps.vpack (h : Keeps s₀ s) {c : CoreIx} {f : XFmt} : Keeps s₀ (vpack c f s) :=
  .issue h (fun _ _ h1 => .ok (.adv (.evInvalid (.modCore (.frees h1) fun _ hk => .putTile hk))))

theorem Keeps.vunpack (h : Keeps s₀ s) {c : CoreIx} {f : XFmt} : Keeps s₀ (vunpack c f s) :=
  .issue h (fun _ _ h1 => .ite (.ok (.adv (.modCore (.frees h1) fun _ hk => .putTile hk))) (.ok (.adv (.modCore h1
    fun _ hk => .putTile (.putTile hk)))))

theorem Keeps.tldInsn (h : Keeps s₀ s) {c : CoreIx} {f : XFmt} : Keeps s₀ (tldInsn c f s) :=
  .issue h (fun _ _ h1 => .bind fun _ => .bind fun _ => .pure (.adv (.modCore h1 fun _ hk => .putTile hk)))

theorem Keeps.tstInsn (h : Keeps s₀ s) {c : CoreIx} {f : XFmt} : Keeps s₀ (tstInsn c f s) :=
  .issue h (fun _ _ h1 => .bind fun _ => .pure (.adv (.modCore h1 fun _ hk => .puts hk)))

theorem Keeps.pldInsn (h : Keeps s₀ s) {c : CoreIx} {f : XFmt} : Keeps s₀ (pldInsn c f s) :=
  .issue h (fun _ _ h1 => .bind fun _ => .bind fun _ => .pure (.adv (.modCore h1 fun _ hk => .setP hk)))

theorem Keeps.pstInsn (h : Keeps s₀ s) {c : CoreIx} {f : XFmt} : Keeps s₀ (pstInsn c f s) :=
  .issue h (fun _ _ h1 => .bind fun _ => .pure (.adv (.modCore h1 fun _ hk => .engPut hk)))

/-! ### The reduction unit -/

theorem Keeps.ruSum (h : Keeps s₀ s) {r : Run} {d : RuDesc} {x : RuIn} {rec? : Option Rec} : Keeps s₀ (ruSum s r d x rec?).state := by
  unfold Machine.ruSum
  extract_lets
  split
  · exact h
  · split
    · exact h
    · exact h

theorem Keeps.ruExtreme (h : Keeps s₀ s) {d : RuDesc} {x : RuIn} : Keeps s₀ (Machine.ruExtreme s d x).state := by
  refine .foldlPair h fun v x h1 => ?_
  split
  · exact h1
  · exact .free h1

theorem Keeps.ruTopk (h : Keeps s₀ s) {k : Core} {d : RuDesc} {x : RuIn} : Keeps s₀ (ruTopk k s d x).state := h

theorem Keeps.ruCalc (h : Keeps s₀ s) {k : Core} {r : Run} {d : RuDesc} {x : RuIn} {rec? : Option Rec} :
    Keeps s₀ (ruCalc k s r d x rec?).state := by
  unfold Machine.ruCalc
  split
  · exact .ruSum h
  · split
    · exact .ruTopk h
    · exact .ruExtreme h

theorem Keeps.ruRun (h : Keeps s₀ s) {c : ℕ} {r : Run} {d : RuDesc} {x : RuIn} :
    OkMeets (fun r => Keeps s₀ r.state) (ruRun s c r d x) := .bind fun _ => .bind fun _ => .pure (.ruCalc h)

theorem Keeps.applyRu {q : RuRes} (h : Keeps s₀ q.state) {c : ℕ} : Keeps s₀ (q.apply c) :=
  .evInvalid (.modCore h fun _ hk => .puts hk)

theorem Keeps.ruStream (h : Keeps s₀ s) {c : ℕ} {d : RuDesc} {t : Option TreeSet} : Keeps s₀ (ruStream s c d t).2.2 := by
  unfold Machine.ruStream
  extract_lets _ _ _ fr
  have hfr : Keeps s₀ fr.2 := .frees h
  split
  · exact hfr
  · exact h

theorem Keeps.redInsn (h : Keeps s₀ s) {c : CoreIx} {f : XFmt} : Keeps s₀ (Machine.redInsn c f s) := by
  unfold Machine.redInsn
  refine .issue h (fun s1 r h1 => ?_)
  refine .bind fun _ => ?_
  extract_lets _ rest
  have hrest : ∀ x0, OkMeets (Keeps s₀) (rest x0) := by
    intro x0
    refine .bind fun _ => .bindOf (Keeps.ruRun (.ruStream h1)) fun q h2 => ?_
    extract_lets done
    have hdone : Keeps s₀ done := .evInvalid (.applyRu h2)
    exact .pure (.ite (.satRead (.ite hdone h1)) (.adv hdone))
  exact .ite (.bind fun _ => hrest ()) (hrest ())

theorem Keeps.chainruInsn (h : Keeps s₀ s) {c : CoreIx} {f : XFmt} : Keeps s₀ (Machine.chainruInsn c f s) := by
  unfold Machine.chainruInsn
  refine .issue h (fun s1 r h1 => ?_)
  refine .bind fun _ => .bind fun _ => ?_
  extract_lets d g
  refine .bindOf (Keeps.chainRun h1) fun x hx => ?_
  extract_lets _ src rest
  have hrest : ∀ x0, OkMeets (Keeps s₀) (rest x0) := by
    intro x0
    refine .bindOf (Keeps.ruRun hx) fun q h2 => ?_
    extract_lets done
    have hdone : Keeps s₀ done := .apply (.applyRu h2)
    exact .pure (.ite (.satRead (.ite hdone h1)) (.adv hdone))
  exact .ite (.bind fun _ => hrest ()) (hrest ())

/-! ### The row engine -/

theorem Core.LsWf.setStat {k : Core} (hk : k.LsWf) {d : RowDesc} {r : ℕ} {w : Word} : (k.setStat d r w).LsWf :=
  .ite (.engPut hk) (.setSide hk)

theorem Keeps.rowSum (h : Keeps s₀ s) {c : ℕ} {d : RowDesc} {rec? : Option Rec} : Keeps s₀ (rowSum s c d rec?).1 := by
  unfold Machine.rowSum
  extract_lets _ _ _ _ _ _ s1
  have hs1 : Keeps s₀ s1 := by
    unfold s1
    refine .modCore h fun _ hk => .foldl hk fun _ _ h1 => ?_
    split
    · exact .setStat h1
  split
  · exact .evInvalid hs1
  · exact .evInvalid (.modCore h fun _ hk => .engPut hk)

theorem Keeps.rowMax (h : Keeps s₀ s) {c : ℕ} {d : RowDesc} : Keeps s₀ (rowMax s c d) := by
  unfold Machine.rowMax
  extract_lets
  refine .evInvalid (.modCore h fun _ hk => ?_)
  refine .foldl hk fun _ _ h1 => ?_
  split
  · exact .setStat h1

theorem Keeps.rowRows (h : Keeps s₀ s) {c : ℕ} {d : RowDesc} : Keeps s₀ (rowRows s c d) := by
  unfold Machine.rowRows
  extract_lets _ _ s1
  have hs1 : Keeps s₀ s1 := by
    unfold s1
    refine .modCore h fun _ hk => .foldl hk fun _ _ h1 => ?_
    split
    · extract_lets k
      have hk : k.LsWf := .engPut h1
      split
      · exact .setStat hk
      · exact hk
  exact .evNanRow (.evInvalid hs1)

theorem Keeps.rowopInsn (h : Keeps s₀ s) {c : CoreIx} {f : XFmt} : Keeps s₀ (rowopInsn c f s) := by
  unfold Machine.rowopInsn
  refine .issue h (fun _ _ h1 => ?_)
  extract_lets
  refine .bind fun _ => ?_
  extract_lets _ rest rest1 rest2
  have hrest : ∀ x0, OkMeets (Keeps s₀) (rest x0) := by
    intro x0
    unfold rest
    split
    · refine .bind fun _ => ?_
      extract_lets q
      have hq : Keeps s₀ q.1 := .rowSum h1
      exact .bind fun _ => .pure (.adv hq)
    · split
      · refine .pure (.adv ?_)
        exact .rowMax h1
      · refine .pure (.adv ?_)
        exact .rowRows h1
  have hrest1 : ∀ x0, OkMeets (Keeps s₀) (rest1 x0) := fun _ => .bind fun _ => .ite (.bind fun _ => hrest ()) (hrest ())
  have hrest2 : ∀ x0, OkMeets (Keeps s₀) (rest2 x0) := fun _ => .bind fun _ => .ite (.bind fun _ => hrest1 ())
    (.ite (.bind fun _ => hrest1 ()) (hrest1 ()))
  exact .ite (.bind fun _ => hrest2 ()) (hrest2 ())

theorem Keeps.statldInsn (h : Keeps s₀ s) {c : CoreIx} {f : XFmt} : Keeps s₀ (statldInsn c f s) := by
  unfold Machine.statldInsn
  refine .issue h (fun _ _ h1 => ?_)
  extract_lets
  split
  · exact .pure h1
  · refine .bind fun _ => ?_
    extract_lets rest
    have hrest : ∀ x0, OkMeets (Keeps s₀) (rest x0) := fun _ => .pure
      (.adv (.modCore h1 fun _ hk => .foldl hk fun _ _ h2 => .setSide h2))
    exact .ite (.bind fun _ => hrest ()) (hrest ())

theorem Keeps.statstInsn (h : Keeps s₀ s) {c : CoreIx} {f : XFmt} : Keeps s₀ (statstInsn c f s) :=
  .issue h (fun _ _ h1 => .ite (.pure h1) (.bind fun _ => .bind fun _ => .pure (.adv (.modCore h1 fun _ hk => .engPut hk))))

/-! ### The load/store unit -/

theorem Keeps.modReq (h : Keeps s₀ s) {c id : ℕ} {f : LsuReq → LsuReq} : Keeps s₀ (s.modReq c id f) := .modCore h

theorem Core.LsWf.modRunOf {k : Core} (hk : k.LsWf) {id : ItemId} {f : Run → Run} : (k.modRunOf id f).LsWf := .with hk

theorem Keeps.respond (h : Keeps s₀ s) {c : ℕ} {q : LsuReq} {status count : ℕ} : Keeps s₀ (s.respond c q status count) :=
  .tryEnd (.modCore h fun _ hk => .modRunOf (.engPut (.with hk)))

theorem Keeps.settleReq (h : Keeps s₀ s) {c id : ℕ} : Keeps s₀ (s.settleReq c id) := by
  unfold State.settleReq
  split
  · exact .ite h (.respond h)
  · exact h

theorem Keeps.settleReqs (h : Keeps s₀ s) : Keeps s₀ s.settleReqs :=
  .foldl h fun _ _ h1 => .tryEnd (.foldl h1 fun _ _ h2 => .settleReq h2)

theorem Keeps.lsuIssue (h : Keeps s₀ s) {op len : ℕ} {kind : ReqKind} {c : CoreIx} {f : XFmt} {body : State → Run → LsuReq → Eff}
    (hbody : ∀ v x1 x2, Keeps s₀ v → OkMeets (Keeps s₀) (body v x1 x2)) : Keeps s₀ (lsuIssue op len kind c f s body) := by
  unfold Machine.lsuIssue
  refine .issue h (fun _ _ h1 => ?_)
  extract_lets _ _ _ _ s1 rest rest1
  have hs1 : Keeps s₀ s1 := .adv (.modCore h1 fun _ hk => .with (.engPut hk))
  have hrest : ∀ x0, OkMeets (Keeps s₀) (rest x0) := fun _ => .bind fun _ => .ite (.pure h1) (hbody _ _ _ hs1)
  have hrest1 : ∀ x0, OkMeets (Keeps s₀) (rest1 x0) := fun _ => .ite (.bind fun _ => hrest ()) (hrest ())
  exact .ite (.pure h1) (.ite (.bind fun _ => hrest1 ()) (hrest1 ()))

theorem Keeps.asEffect (h : Keeps s₀ s) {c : ℕ} {r : Run} {q : LsuReq} : Keeps s₀ (s.asEffect c r q).1 := by
  unfold State.asEffect
  split
  · next s1 e =>
    have h1 : Keeps s₀ s1 := .of_pair e (.effectOp h)
    exact .respond h1
  · next s1 e =>
    have h1 : Keeps s₀ s1 := .of_pair e (.effectOp h)
    exact .modReq h1

theorem Keeps.fillLs (h : Keeps s₀ s) {c la a n : ℕ} : Keeps s₀ (s.fillLs c la a n) :=
  .foldl h fun _ _ h1 => .modCore h1 fun _ hk => .poisonPut hk

theorem Keeps.devToLs (h : Keeps s₀ s) {c : ℕ} {express : Bool} {k : Kind} {la a n : ℕ} : Keeps s₀ (s.devToLs c express k la a n) :=
  .fillLs (.memRead h)

theorem Keeps.xferIn (h : Keeps s₀ s) {c id fuel : ℕ} : Keeps s₀ (s.xferIn c id fuel) := by
  induction fuel generalizing s with
  | zero => exact h
  | succ fuel ih =>
    unfold State.xferIn
    split
    · exact h
    · extract_lets
      split
      · exact .respond h
      · split
        · exact .respond h
        · split
          · exact ih (.modReq (.lsWrite (.hostTouch h)))
          · exact .askAhead (.hostStart h)

theorem Keeps.xferOutFrom (h : Keeps s₀ s) {c : ℕ} {q : LsuReq} {a : ℕ} {d : Bytes} {fuel : ℕ} :
    Keeps s₀ (s.xferOutFrom c q a d fuel) := by
  induction fuel generalizing s a d with
  | zero => exact h
  | succ fuel ih =>
    unfold State.xferOutFrom
    exact .ite h (ih (.hostStart (.hostInvalidate h)))

theorem Keeps.xferRun (h : Keeps s₀ s) {c : ℕ} {q : LsuReq} {d : XferDesc} {express : Bool} : Keeps s₀ (s.xferRun c q d express) := by
  unfold State.xferRun
  extract_lets _ s1
  have hs1 : Keeps s₀ s1 := .xferOutFrom h
  split
  · split
    · exact .respond (.ringAccess h)
    · exact .ite (.respond (.devToLs h))
        (.ite (.ite (.respond h) (.settleReq (.modReq (.flashPut (.ite (.linesWrite h) h))))) (.respond (.memWrite h)))
  · exact .ite (.xferIn h) (.ite (.respond h) (.settleReq (.modReq hs1)))

theorem Keeps.xferInsn (h : Keeps s₀ s) {c : CoreIx} {f : XFmt} : Keeps s₀ (Machine.xferInsn c f s) := by
  unfold Machine.xferInsn
  refine .lsuIssue h (fun _ _ _ h1 => ?_)
  extract_lets _ rest
  have hrest : ∀ x0, OkMeets (Keeps s₀) (rest x0) := by
    intro x0
    unfold rest
    split
    · exact .pure (.xferRun h1)
    · refine .bind fun _ => ?_
      split
      · next s1 _ e => exact .pure (.xferRun (.of_fst e (.asEffect h1)))
      · next s1 e => exact .pure (.of_fst e (.asEffect h1))
  exact .ite (.pure (.respond h1)) (.ite (.bind fun _ => hrest ()) (hrest ()))

theorem Keeps.putElems (h : Keeps s₀ s) {src : ℕ} {express : Bool} {e : Elem} {a first : ℕ} {raw : List ℕ} :
    Keeps s₀ (s.putElems src express e a first raw) := .memWrite h

theorem Keeps.pairStore (h₀ : Keeps s₀ s) {c : ℕ} {express : Bool} {a : ℕ} {h : PairHdr} {k0 : ℕ} {rows : List (List ℕ)} :
    Keeps s₀ (s.pairStore c express a h k0 rows) := by
  unfold State.pairStore
  extract_lets s1 s2
  have hs1 : Keeps s₀ s1 := by
    unfold s1
    refine .foldl h₀ fun _ _ h1 => ?_
    split
    · exact .putElems h1
  have hs2 : Keeps s₀ s2 := .foldl hs1 fun _ _ h1 => .putElems h1
  exact .memWrite hs2

theorem Keeps.pairstInsn (h : Keeps s₀ s) {c : CoreIx} {f : XFmt} : Keeps s₀ (Machine.pairstInsn c f s) := by
  unfold Machine.pairstInsn
  refine .lsuIssue h (fun _ _ _ h1 => ?_)
  extract_lets _ _ _ _ _ _ bad
  have hbad : Keeps s₀ bad := .respond h1
  refine .ite (.pure hbad) (.ite (.pure (.respond (.ringAccess h1))) ?_)
  split
  · exact .pure hbad
  · extract_lets _ rest
    have hrest : ∀ x0, OkMeets (Keeps s₀) (rest x0) := by
      intro x0
      refine .bind fun _ => ?_
      split
      · next s1 e => exact .pure (.of_fst e (.asEffect h1))
      · next s1 _ e =>
        have hs1 : Keeps s₀ s1 := .of_fst e (.asEffect h1)
        exact .pure (.respond (.pairStore (.memRead hs1)))
    exact .ite (.pure hbad) (.ite (.pure (.respond (.ringAccess h1))) (.ite (.bind fun _ => hrest ()) (hrest ())))

theorem Keeps.hldInsn (h : Keeps s₀ s) {c : CoreIx} {f : XFmt} : Keeps s₀ (hldInsn c f s) := by
  unfold Machine.hldInsn
  refine .issue h (fun _ _ h1 => ?_)
  extract_lets
  split
  · exact .ok h1
  · split
    · exact .ok (.adv (.modRun (.modCore h1 fun _ hk => .setS hk)))
    · split
      · refine .ok (.adv ?_)
        refine .modCore (.hostTouch ?_) fun _ hk => .setS hk
        exact h1
      · refine .ok (.hostStart ?_)
        exact .stallFor h1

theorem Keeps.hstInsn (h : Keeps s₀ s) {c : CoreIx} {f : XFmt} : Keeps s₀ (Machine.hstInsn c f s) := by
  unfold Machine.hstInsn
  refine .issue h (fun _ _ h1 => ?_)
  extract_lets
  refine .ite (.ok h1) ?_
  split
  · next s1 e => exact .ok (.adv (.of_pair e (.effectOp h1)))
  · next s1 e =>
    have hs1 : Keeps s₀ s1 := .of_pair e (.effectOp h1)
    exact .ite (.ok (.adv hs1)) (.ok (.hostStart (.hostInvalidate (.adv hs1))))

theorem Keeps.passInsn (h : Keeps s₀ s) {c : CoreIx} {f : XFmt} : Keeps s₀ (passInsn c f s) := by
  unfold Machine.passInsn
  refine .issue h (fun _ _ h1 => ?_)
  extract_lets _ _ _ _ _ _ _ _ _ _ _ rest rest1 rest2
  have hrest : ∀ x0, OkMeets (Keeps s₀) (rest x0) := fun _ => .bind fun _ => .pure (.adv (.foldl h1 fun _ _ h1 => .modCore h1))
  have hrest1 : ∀ x0, OkMeets (Keeps s₀) (rest1 x0) := fun _ => .ite (.bind fun _ => hrest ()) (hrest ())
  have hrest2 : ∀ x0, OkMeets (Keeps s₀) (rest2 x0) := fun _ => .ite (.bind fun _ => hrest1 ()) (hrest1 ())
  exact .ite (.pure h1) (.ite (.bind fun _ => hrest2 ()) (hrest2 ()))

theorem Core.LsWf.arrive {k : Core} (hk : k.LsWf) {n : ℕ} : (k.arrive n).LsWf := by
  induction n generalizing k with
  | zero => exact hk
  | succ n ih =>
    unfold Core.arrive
    split
    · exact hk
    · split
      · exact hk
      · split
        · refine ih (.with ?_)
          split
          · exact .engPut (.with (.engPut hk))
          · exact .with (.engPut hk)
        · exact ih (.with (.with (.engPut hk)))

theorem Keeps.chainPassArrival (h : Keeps s₀ s) {c : CoreIx} {n : ℕ} : Keeps s₀ (chainPassArrival c n s) :=
  .ite (.modCore h fun _ hk => .arrive hk) h

theorem Keeps.sconsumeInsn (h : Keeps s₀ s) {c : CoreIx} {f : XFmt} : Keeps s₀ (sconsumeInsn c f s) :=
  .issue h (fun _ _ h1 => .ite (.ok h1) (.ite (.ok (.report (.adv h1))) (.ok (.dropGens (.modStrm (.ite (.report (.adv h1))
    (.adv h1)))))))

end Sys2Proof.Machine
end


section
/-! PROOFS. What every command keeps: the functions of the Sifters and the neighbourhood units. -/

namespace Sys2Proof.Machine

variable {s₀ s : State}

/-! ### Packets and messages between devices -/

theorem Keeps.discard (h : Keeps s₀ s) {l cause : ℕ} : Keeps s₀ (s.discard l cause) := .report (.modLink h)

theorem Keeps.release (h : Keeps s₀ s) {p : Packet} : Keeps s₀ (s.release p) := by
  unfold State.release
  split
  · exact .modLink h
  · exact .report h

theorem Keeps.bcPump (h : Keeps s₀ s) {n : ℕ} : Keeps s₀ (s.bcPump n) := by
  induction n generalizing s with
  | zero => exact h
  | succ n ih =>
    unfold State.bcPump
    split
    · exact ih (.release (.with h))
    · exact h

theorem Keeps.bcSend (h : Keeps s₀ s) {ch : ℕ} {ps : List Packet} : Keeps s₀ (s.bcSend ch ps) := .bcPump (.with h)

theorem Keeps.sendMsg (h : Keeps s₀ s) {dst cls kind info : ℕ} {body : Bytes} : Keeps s₀ (s.sendMsg dst cls kind info body) :=
  .ite (.bcSend h) (.foldl h fun _ _ h1 => .release h1)

theorem Keeps.sendMg (h : Keeps s₀ s) {dst kind info : ℕ} {body : Bytes} : Keeps s₀ (s.sendMg dst kind info body) :=
  .ite (.release (.with (.with h))) (.with (.with h))

theorem Keeps.mgAcked (h : Keeps s₀ s) {d t : ℕ} : Keeps s₀ (s.mgAcked d t) := by
  unfold State.mgAcked
  extract_lets s1
  have hs1 : Keeps s₀ s1 := .with h
  split
  · split
    · exact .release (.with hs1)
    · exact hs1
  · exact hs1

theorem Keeps.ackMg (h : Keeps s₀ s) {p : Packet} : Keeps s₀ (s.ackMg p) := .sendMsg h

theorem Keeps.sendRq (h : Keeps s₀ s) {dst kind port : ℕ} {body : Bytes} : Keeps s₀ (s.sendRq dst kind port body).2 :=
  .sendMsg (.with h)

theorem Keeps.sendAnswer (h : Keeps s₀ s) {dst tag port : ℕ} {results : Bytes} {status count : ℕ} :
    Keeps s₀ (s.sendAnswer dst tag port results status count) := .foldl h fun _ _ h1 => .release h1

theorem Keeps.takeInput (h : Keeps s₀ s) {l cls kind : ℕ} : SomeMeets (fun r => Keeps s₀ r.2) (s.takeInput l cls kind) := by
  unfold State.takeInput
  split
  · exact .ite (.some (.modLink h)) .none
  · exact .none

theorem Keeps.takeMsg (h : Keeps s₀ s) {l cls kind : ℕ} : SomeMeets (fun r => Keeps s₀ r.2) (s.takeMsg l cls kind) := by
  unfold State.takeMsg
  split
  · exact .none
  · split
    · split
      · exact .ite (.some (.with h)) .none
      · exact .takeInput h
    · exact .takeInput h

/-! ### Work of the Sifters and NUs on a request -/

theorem JKeeps.st  : JKeeps s₀ JM.st := .bind .get fun _ => .pure

theorem JKeeps.upd {f : State → State} (hf : ∀ v, Keeps s₀ v → Keeps s₀ (f v)) : JKeeps s₀ (JM.upd f) :=
  .modify fun _ h1 => hf _ h1

theorem JKeeps.part {k : Key} : JKeeps s₀ (JM.part k) := .bind .get fun _ => .pure

theorem JKeeps.keep {p : Part} : JKeeps s₀ (JM.keep p) := .modify fun _ h1 => h1

theorem JKeeps.put {p : Part} : JKeeps s₀ (JM.put p) := .modify fun _ h1 => h1

theorem JKeeps.ask {k : Key} : JKeeps s₀ (JM.ask k) := by
  refine .modify fun _ h1 => ?_
  split <;> exact h1

theorem JKeeps.all {α β : Type} {l : List α} {f : α → JM β} (hf : ∀ x, JKeeps s₀ (f x)) : JKeeps s₀ (JM.all l f) := keeps_all hf

theorem JKeeps.whole {α : Type} {x : JM α} (hx : JKeeps s₀ x) : JKeeps s₀ (JM.whole x) := keeps_whole hx

theorem JKeeps.ready {a n : ℕ} : JKeeps s₀ (JM.ready a n) := keeps_ready a n

theorem JKeeps.mem {a n : ℕ} : JKeeps s₀ (JM.mem a n) := by
  unfold JM.mem
  refine .bind .get fun _ => ?_
  extract_lets s
  split
  · split
    · exact .stop
    · split
      · split
        · exact .pure
        · exact .bind .ready fun _ => .stop
      · exact .bind (.upd (fun _ h1 => .pageRead (.notePoison h1))) fun _ => .pure
  · exact .pure

theorem Keeps.sifterWrite (h : Keeps s₀ s) {who : ℕ × ℕ} {a : ℕ} {d : Bytes} : Keeps s₀ (s.sifterWrite who a d) := by
  unfold State.sifterWrite
  split
  · exact .ite (.foldl h fun _ _ h1 => .hostStart h1) (.ite (.flashPut h) (.dwrite h))
  · exact h

theorem JKeeps.write {a : ℕ} {d : Bytes} : JKeeps s₀ (JM.write a d) := by
  unfold JM.write
  refine .modify fun _ h1 => ?_
  extract_lets s
  have hs : Keeps s₀ s := .sifterWrite h1
  split
  · exact hs
  · exact hs

theorem Keeps.putDir (h : Keeps s₀ s) {dir i : ℕ} {e : DirEnt} : Keeps s₀ (s.putDir dir i e) := .generalWrite h

theorem Keeps.seeDir (h : Keeps s₀ s) {express : Bool} {dir i : ℕ} : Keeps s₀ (s.seeDir express dir i) :=
  .cacheRead (.notePoison h)

theorem Keeps.readDir (h : Keeps s₀ s) {port owner : ℕ} {express : Bool} {dir i len : ℕ} :
    Keeps s₀ (s.readDir port owner express dir i len) := .ite (.accessLog (.seeDir h)) (.seeDir h)

theorem JKeeps.readDir {owner dir i len : ℕ} : JKeeps s₀ (JM.readDir owner dir i len) := .modify fun _ h1 => .readDir h1

theorem Keeps.countBlock (h : Keeps s₀ s) {dir i rd up : ℕ} : Keeps s₀ (s.countBlock dir i rd up) := .putDir h

theorem Keeps.countShard (h : Keeps s₀ s) {sh rd up : ℕ} : Keeps s₀ (s.countShard sh rd up) := .with h

theorem Keeps.sifterInv (h : Keeps s₀ s) {sf n : ℕ} : Keeps s₀ (s.sifterInv sf n) := .with h

theorem JKeeps.ar {α : Type} {sf : ℕ} {x : Ar α} : JKeeps s₀ (JM.ar sf x) :=
  .bind (.upd (fun _ h1 => .ite h1 (.sifterInv h1))) fun _ => .pure

theorem Keeps.modRemote (h : Keeps s₀ s) {dev tag : ℕ} {f : Remote → Remote} : Keeps s₀ (s.modRemote dev tag f) := .with h

theorem Keeps.modSweep (h : Keeps s₀ s) {g : ℕ} {f : Sweep → Sweep} : Keeps s₀ (s.modSweep g f) := .with h

theorem Keeps.modMove (h : Keeps s₀ s) {who : ℕ × ℕ} {f : Move → Move} : Keeps s₀ (s.modMove who f) := .with h

theorem Keeps.modShard (h : Keeps s₀ s) {who : ℕ × ℕ} {f : ShardMove → ShardMove} : Keeps s₀ (s.modShard who f) := .with h

theorem Keeps.modProg (h : Keeps s₀ s) {who : ℕ × ℕ} {f : Prog → Prog} : Keeps s₀ (s.modProg who f) :=
  .ite (.modReq h) (.ite (.modRemote h) (.ite (.modSweep h) (.ite (.modMove h) (.modShard h))))

theorem Keeps.leaveRows (h : Keeps s₀ s) {who : ℕ × ℕ} : Keeps s₀ (s.leaveRows who) := .with h

theorem Keeps.dequeue (h : Keeps s₀ s) {who : ℕ × ℕ} : Keeps s₀ (s.dequeue who) := .with (.leaveRows h)

theorem Keeps.endReq (h : Keeps s₀ s) {c : ℕ} {q : LsuReq} {status count : ℕ} : Keeps s₀ (s.endReq c q status count) :=
  .settleReq (.modReq (.dequeue h))

theorem Keeps.settleRemote (h : Keeps s₀ s) {r : Remote} : Keeps s₀ (s.settleRemote r) := .ite (.sendAnswer (.with h)) h

theorem Keeps.settleRemotes (h : Keeps s₀ s) : Keeps s₀ s.settleRemotes := .foldl h fun _ _ h1 => .settleRemote h1

theorem Keeps.endRemote (h : Keeps s₀ s) {dev tag status count : ℕ} {results : List Bytes} :
    Keeps s₀ (s.endRemote dev tag status count results) := by
  unfold State.endRemote
  extract_lets s1
  have hs1 : Keeps s₀ s1 := .modRemote (.dequeue h)
  split
  · exact .settleRemote hs1
  · exact hs1

theorem Keeps.startHostAsks (h : Keeps s₀ s) {who : ℕ × ℕ} {l : List (ℕ × ℕ × ℕ)} {item : ItemId} :
    Keeps s₀ (s.startHostAsks who l item) := .foldl h fun _ _ h1 => .ite (.hostStart h1) (.modProg h1)

/-- The work that a request does, and what is done once it is done. -/
theorem Keeps.runJob (h : Keeps s₀ s) {α : Type} {who : ℕ × ℕ} {port : ℕ} {item : ItemId} {body : JM α}
    {mk : State → List Key → List Send} {done : State → α → State} (hdone : ∀ v x, Keeps s₀ v → Keeps s₀ (done v x))
    (hbody : JKeeps s₀ body) : Keeps s₀ (s.runJob who port item body mk done) := by
  unfold State.runJob
  split
  · exact h
  · extract_lets _ j s1 _ s2
    have hj : Keeps s₀ j.s := hbody.stays _ h
    have hs2 : Keeps s₀ s2 := .foldl (.modProg hj) fun _ _ h1 => .modProg (.sendRq h1)
    split
    · exact hdone _ _ (.modProg hj)
    · exact .startHostAsks hs2

theorem Keeps.runEnds (h : Keeps s₀ s) {who : ℕ × ℕ} {run : State → State} (hrun : ∀ v, Keeps s₀ v → Keeps s₀ (run v)) :
    Keeps s₀ (s.runEnds who run) := by
  unfold State.runEnds
  extract_lets t
  have ht : Keeps s₀ t := hrun _ h
  split
  · exact .ite ht (hrun _ ht)
  · exact ht

/-! ### Tables and their rows -/

theorem Keeps.readRowDirs (h : Keeps s₀ s) {p : ℕ} {express : Bool} {t : Table} {v idx64 : Bool} {rows : List ℕ} :
    Keeps s₀ (s.readRowDirs p express t v idx64 rows) := .foldl h fun _ _ h1 => .readDir h1

theorem Keeps.countRow (h : Keeps s₀ s) {t : Table} {v : Bool} {l : RowLoc} {rd up : ℕ} : Keeps s₀ (s.countRow t v l rd up) :=
  .ite (.countShard h) (.countBlock (.countShard h))

theorem JKeeps.arrive {p : ℕ} {t : Table} {v write : Bool} {locs : List RowLoc} : JKeeps s₀ (JM.arrive p t v write locs) := by
  refine .modify fun _ h1 => ?_
  split
  · exact h1
  · exact .with h1

theorem JKeeps.rowsWait  : JKeeps s₀ JM.rowsWait := .bind .get fun _ => .pure

theorem JKeeps.rowsDone {bytes : Bytes} {count : ℕ} : JKeeps s₀ (JM.rowsDone bytes count) :=
  .bind .put fun _ => .modify fun _ h1 => .leaveRows h1

/-! ### Sifter requests -/

theorem Keeps.siftInsn (h : Keeps s₀ s) {c : CoreIx} {f : XFmt} : Keeps s₀ (siftInsn c f s) := by
  unfold Machine.siftInsn
  refine .lsuIssue h (fun _ _ _ h1 => ?_)
  extract_lets fail
  have hfail : ∀ x0, OkMeets (Keeps s₀) (fail x0) := by
    intro x0
    unfold fail
    refine .pure (.respond ?_)
    exact h1
  split
  · exact hfail _
  · split
    · extract_lets _ _ s1 rest rest1 rest2 rest3
      have hs1 : Keeps s₀ s1 := .modReq h1
      have hrest : ∀ x0, OkMeets (Keeps s₀) (rest x0) := by
        intro x0
        unfold rest
        refine .bind fun _ => ?_
        split
        · split
          · next s2 _ e =>
            have h11 : Keeps s₀ s2 := .of_fst e (.asEffect hs1)
            exact .pure h11
        · exact .pure hs1
      have hrest1 : ∀ x0, OkMeets (Keeps s₀) (rest1 x0) := fun _ => .ite (.bind fun _ => hrest ()) (hrest ())
      have hrest2 : ∀ x0, OkMeets (Keeps s₀) (rest2 x0) := fun _ => .ite (hfail _) (.ite (.bind fun _ => hrest1 ()) (hrest1 ()))
      have hrest3 : ∀ x0, OkMeets (Keeps s₀) (rest3 x0) := fun _ => .bind fun _ => hrest2 ()
      exact .ite (hfail _) (.ite (.ite (.bind fun _ => hrest3 ()) (hrest3 ())) (hrest2 ()))
    · exact hfail _

theorem JKeeps.place {port : ℕ} {b : SiftBlk} {t : Table} {v : Bool} {ents : List Ent} {fwd : Bool} :
    JKeeps s₀ (JM.place port b t v ents fwd) := by
  unfold JM.place
  refine .bind .get fun _ => ?_
  extract_lets s
  refine .bind .part fun _ => ?_
  extract_lets _ _ _ rest rest1
  have hrest : ∀ x0, JKeeps s₀ (rest x0) := fun _ => .bind .part fun _ => .bind .rowsWait fun _ => .ite
    (.bind .put fun _ => .pure) .pure
  have hrest1 : ∀ x0, JKeeps s₀ (rest1 x0) := fun _ => .ite (.bind .arrive fun _ => hrest ()) (hrest ())
  exact .ite .pure (.ite (.bind (.upd (fun _ h1 => .readRowDirs h1)) fun _ => hrest1 ()) (hrest1 ()))

theorem JKeeps.readRow {t : Table} {l : RowLoc} : JKeeps s₀ (JM.readRow t l) := .bind .mem fun _ => .pure

theorem JKeeps.fetchRows {w : SiftWork} : JKeeps s₀ (JM.fetchRows w) := by
  unfold JM.fetchRows
  refine .bind .st fun _ => ?_
  extract_lets
  refine .bind (.all (fun _ => .ready)) fun _ => .bind (.whole ?_) fun _ => .rowsDone
  refine .forM fun _ => ?_
  split
  · exact .bind .mem fun _ => .bind (.upd (fun _ h1 => .countRow h1)) fun _ => .keep

theorem JKeeps.poolBag {b : SiftBlk} {len g : ℕ} {ents : List (Ent × RowRead)} : JKeeps s₀ (JM.poolBag b len g ents) :=
  .bind (.mapM fun _ => .bind (.mapM fun _ => .bind .ar fun _ => .pure) fun _ => .bind .ar fun _ => .pure) fun _ => .pure

theorem JKeeps.theirs {w : SiftWork} : JKeeps s₀ (JM.theirs w) := by
  unfold JM.theirs
  refine .bind (.mapM fun _ => ?_) fun _ => .pure
  refine .bind .part fun _ => ?_
  split
  · exact .pure
  · exact .bind .ask fun _ => .pure

theorem JKeeps.lookup {port : ℕ} {b : SiftBlk} {t : Table} {v : Bool} {ents : List Ent} {fwd : Bool} :
    JKeeps s₀ (JM.lookup port b t v ents fwd) := by
  unfold JM.lookup
  refine .bind .place fun _ => ?_
  split
  · exact .pure
  · refine .bind .theirs fun _ => .bind .part fun _ => ?_
    extract_lets rest rest1 rest2
    have hrest : ∀ x0, JKeeps s₀ (rest x0) := fun _ => .bind .get fun _ => .ite
      (.bind (.mapM fun _ => .bind .poolBag fun _ => .pure) fun _ => .pure) (.bind .pure fun _ => .pure)
    have hrest1 : ∀ x0, JKeeps s₀ (rest1 x0) := fun _ => .ite (.bind .stop fun _ => hrest ()) (hrest ())
    have hrest2 : ∀ x0, JKeeps s₀ (rest2 x0) := fun _ => .bind .fetchRows fun _ => hrest1 ()
    exact .ite (.bind .rowsWait fun _ => .ite (.bind .stop fun _ => hrest2 ()) (hrest2 ())) (hrest1 ())

theorem JKeeps.lookupResult {v : Served} {remote : List (List (ℕ × Bytes))} {parts : List Part} {roots : List Root} {lens : ℕ → ℕ}
    {g : ℕ} : JKeeps s₀ (JM.lookupResult v remote parts roots lens g) := by
  unfold JM.lookupResult
  extract_lets
  split
  · exact .pure
  · split
    · exact .pure
    · split
      · exact .pure
      · exact .pure

theorem Keeps.countRing (h : Keeps s₀ s) {ring : ℕ} {item : ItemId} {out missing bad : ℕ} :
    Keeps s₀ (s.countRing ring item out missing bad) := .ite h (.modInst (.modRing h))

theorem Keeps.modItemRun (h : Keeps s₀ s) {c : ℕ} {item : ItemId} {f : Run → Run} : Keeps s₀ (s.modItemRun c item f) :=
  .modCore h fun _ hk => .modRunOf hk

theorem JKeeps.deliverLookup {c : ℕ} {q : LsuReq} {v : Served} {roots : List Root} {lens : ℕ → ℕ} :
    JKeeps s₀ (JM.deliverLookup c q v roots lens) := by
  unfold JM.deliverLookup
  refine .bind .get fun _ => ?_
  extract_lets
  exact .bind (.forM fun _ => .bind .lookupResult fun _ => .upd (fun _ h1 => .modItemRun (.modCore h1 fun _ hk => .poisonPut hk)))
    fun _ => .bind (.upd (fun _ h1 => .countRing h1)) fun _ => .pure

theorem JKeeps.blockToFp8 {t : Table} {v : Bool} {l : RowLoc} : JKeeps s₀ (JM.blockToFp8 t v l) := by
  unfold JM.blockToFp8
  refine .bind .get fun _ => ?_
  extract_lets
  refine .bind (.all (fun _ => .mem)) fun _ => .bind (.forM fun _ => ?_) fun _ => .upd (fun _ h1 => .putDir h1)
  split
  · exact .bind .ar fun _ => .bind .write fun _ => .upd (fun _ h1 => .ite (.foldl h1 fun _ _ h2 => .poisonAt h2) h1)

theorem JKeeps.storeRow {t : Table} {v idx64 : Bool} {l : RowLoc} {x : List FV} {state : Option Bytes} :
    JKeeps s₀ (JM.storeRow t v idx64 l x state) := by
  unfold JM.storeRow
  refine .bind .ar fun _ => ?_
  split
  · exact .write
  · exact .bind .blockToFp8 fun _ => .bind .st fun _ => .bind .ar fun _ => .write

theorem JKeeps.writeOne {w : SiftWork} {e : Ent} : JKeeps s₀ (JM.writeOne w e) :=
  .bind .st fun _ => .ite .pure (.bind .ar fun _ => .bind .storeRow fun _ => .upd (fun _ h1 => .ite (.foldl (.countRow h1)
    fun _ _ h2 => .poisonAt h2) (.countRow h1)))

theorem JKeeps.rowWrites {port : ℕ} {b : SiftBlk} {t : Table} {v : Bool} {ents : List Ent} {fwd : Bool} :
    JKeeps s₀ (JM.rowWrites port b t v ents fwd) := by
  unfold JM.rowWrites
  refine .bind .place fun _ => ?_
  split
  · exact .pure
  · refine .bind .theirs fun _ => .bind .part fun _ => ?_
    extract_lets rest rest1
    have hrest : ∀ x0, JKeeps s₀ (rest x0) := fun _ => .bind .get fun _ => .pure
    have hrest1 : ∀ x0, JKeeps s₀ (rest1 x0) := fun _ => .ite (.bind .stop fun _ => hrest ()) (hrest ())
    split
    · refine .bind .st fun _ => ?_
      extract_lets _ rest2
      have hrest2 : ∀ x0, JKeeps s₀ (rest2 x0) := fun _ => .bind (.all (fun _ => .ready)) fun _ => .bind
        (.whole (.forM fun _ => .writeOne)) fun _ => .bind .rowsDone fun _ => hrest1 ()
      exact .bind .rowsWait fun _ => .ite (.bind .stop fun _ => hrest2 ()) (hrest2 ())
    · exact hrest1 ()

theorem Keeps.runSift (h : Keeps s₀ s) {c : ℕ} {q : LsuReq} : Keeps s₀ (s.runSift c q) := by
  unfold State.runSift
  extract_lets
  split
  · exact .ite h (.endReq h)
  · split
    · exact .endReq h
    · extract_lets
      split
      · refine .runJob h (fun _ _ h1 => ?_) ?_
        · split
          · refine .endReq (.modItemRun ?_)
            exact h1
          · exact .endReq h1
        · refine .bind .lookup fun _ => ?_
          split
          · exact .pure
          · exact .bind .deliverLookup fun _ => .pure
      · exact .runJob h (fun _ _ h1 => .endReq (.countRing h1)) .rowWrites

theorem Keeps.runRemoteSift (h : Keeps s₀ s) {r : Remote} : Keeps s₀ (s.runRemoteSift r) := by
  unfold State.runRemoteSift
  extract_lets _ _ version n b fail
  have hfail : ∀ x0, Keeps s₀ (fail x0) := fun _ => .endRemote h
  refine .ite (.ite h (hfail _)) (.ite (hfail _) ?_)
  split
  · extract_lets _ mk body
    refine .ite (hfail _) (.runJob h (fun _ _ h1 => .endRemote h1) ?_)
    refine .ite (.bind .lookup fun x => ?_) (.bind .rowWrites fun _ => .pure)
    cases x with
    | none => exact .pure
    | some v => exact .bind .get fun _ => .pure
  · exact hfail _

/-! ### Update windows -/

theorem Keeps.withWindow (h : Keeps s₀ s) {p table : ℕ} {v : Bool} {t : Window → Bool} {f : Window → Window} :
    Keeps s₀ (s.withWindow p table v t f) := .ite (.with h) (.with h)

theorem Keeps.windowCapacity (h : Keeps s₀ s) {p table : ℕ} {v : Bool} : Keeps s₀ (s.windowCapacity p table v) :=
  .foldl (.foldl h fun _ _ h1 => .ite (.with h1) h1) fun _ _ h1 => .ite (.with h1) h1

theorem Keeps.deposit (h : Keeps s₀ s) {c : ℕ} {q : LsuReq} {b : SiftBlk} {t : Table} {e : Ent} {i : ℕ} :
    Keeps s₀ (s.deposit c q b t e i).2 := .withWindow (.ite h (.sifterInv h))

theorem Keeps.runUpdate (h : Keeps s₀ s) {c : ℕ} {q : LsuReq} : Keeps s₀ (s.runUpdate c q) := by
  rw [State.runUpdate]
  split
  · exact .endReq h
  · extract_lets _ _ ents r
    have hr : Keeps s₀ r.2 := .foldlPair (.readRowDirs h) fun _ _ h1 => .deposit h1
    exact .ite (.endReq h) (.ite h (.endReq (.windowCapacity hr)))

theorem Keeps.logPoisonedRow (h : Keeps s₀ s) {port sf table : ℕ} {row : Option ℕ} : Keeps s₀ (s.logPoisonedRow port sf table row) :=
  .logEvent h

theorem JKeeps.applyRow {t : Table} {w : Window} {p : WinPar} {b : SiftBlk} {x : RowWork} : JKeeps s₀ (JM.applyRow t w p b x) := by
  unfold JM.applyRow
  refine .bind .st fun _ => ?_
  extract_lets
  split
  · exact .pure
  · refine .bind .readRow fun _ => ?_
    split
    · exact .bind (.upd (fun _ h1 => .logPoisonedRow h1)) fun _ => .pure
    · exact .bind .ar fun _ => .bind .storeRow fun _ => .bind (.upd (fun _ h1 => .countRow h1)) fun _ => .pure

theorem JKeeps.applyRows {t : Table} {w : Window} {b : SiftBlk} : JKeeps s₀ (JM.applyRows t w b) := by
  unfold JM.applyRows
  refine .bind .st fun _ => ?_
  extract_lets _ rest
  have hrest : ∀ x0, JKeeps s₀ (rest x0) := by
    intro x0
    unfold rest
    refine .bind (.all (fun _ => .ready)) fun _ => ?_
    split
    · exact .pure
    · exact .whole (.bind (.mapM fun _ => .applyRow) fun _ => .pure)
  exact .bind .arrive fun _ => .bind .rowsWait fun _ => .ite (.bind .stop fun _ => hrest ()) (hrest ())

theorem Keeps.logPoisonedFwd (h : Keeps s₀ s) {w : Window} {dev : ℕ} {l : List Contrib} : Keeps s₀ (s.logPoisonedFwd w dev l) :=
  .foldl h fun _ _ h1 => .logPoisonedRow h1

theorem Keeps.sendWindow (h : Keeps s₀ s) {t : Table} {w : Window} : Keeps s₀ (s.sendWindow t w) := by
  unfold State.sendWindow
  extract_lets
  refine .foldl h fun _ _ h1 => ?_
  extract_lets _ _ s1 s2
  have hs1 : Keeps s₀ s1 := by
    unfold s1
    refine .logPoisonedFwd ?_
    split
    · exact h1
    · exact .sifterInv h1
  have hs2 : Keeps s₀ s2 := by
    unfold s2
    split
    · exact .foldl hs1 fun _ _ h1 => .sendRq h1
    · exact hs1
  exact .sendRq hs2

theorem Keeps.runApply (h : Keeps s₀ s) {c : ℕ} {q : LsuReq} : Keeps s₀ (s.runApply c q) := by
  unfold State.runApply
  extract_lets _ s1
  have hs1 : Keeps s₀ s1 := .ite h (.with h)
  split
  · extract_lets drop
    have hdrop : ∀ x0, Keeps s₀ x0 → Keeps s₀ (drop x0) := fun _ hx0 => .with hx0
    split
    · exact .dequeue h
    · split
      · exact .ite hs1 (.endReq (hdrop _ hs1))
      · exact .ite (.endReq (hdrop _ hs1))
          (.ite (.endReq (hdrop _ hs1)) (.runJob hs1 (fun _ _ h1 => .endReq (.modItemRun (hdrop _ h1))) .applyRows))
  · exact h

theorem Keeps.startApply (h : Keeps s₀ s) {c : ℕ} {q : LsuReq} : Keeps s₀ (s.startApply c q) := by
  unfold State.startApply
  extract_lets
  split
  · exact .endReq h
  · extract_lets _ _ s1 s2
    have hs1 : Keeps s₀ s1 := .withWindow h
    have hs2 : Keeps s₀ s2 := by
      unfold s2
      split
      · exact .sendWindow hs1
      · exact hs1
    exact .ite (.endReq h) (.runApply hs2)

theorem Keeps.serveSift (h : Keeps s₀ s) {c id : ℕ} : Keeps s₀ (s.serveSift c id) := by
  unfold State.serveSift
  split
  · exact .ite (.runUpdate h) (.ite (.ite (.runApply h) (.startApply h)) (.runSift h))
  · exact h

theorem Keeps.siftOp (h : Keeps s₀ s) {op : ℕ} {c : CoreIx} {id : ℕ} : Keeps s₀ (siftOp op c id s) := by
  unfold Machine.siftOp
  split
  · exact .ite (.runEnds (.with h) (fun _ h1 => .serveSift h1)) h
  · exact h

theorem Keeps.applyWindowTimeout (h : Keeps s₀ s) {p : PortIx} {table : BitVec 16} : Keeps s₀ (applyWindowTimeout p table s) := by
  unfold Machine.applyWindowTimeout
  extract_lets
  split
  · split
    · split
      · exact .endReq (.with h)
      · exact h
    · exact h
  · exact h

theorem Keeps.passNodes (h : Keeps s₀ s) {t : Table} {v : Bool} {port : ℕ} {p : WinPar} {d : ℕ} {l : List (Option ℕ × TreeItem)} :
    Keeps s₀ (s.passNodes t v port p d l) := .foldl h fun _ _ h1 => .foldl h1 fun _ _ h2 => .sendRq h2

theorem Keeps.updateNode (h : Keeps s₀ s0) {l : LinkIx} : Keeps s₀ (updateNode l s0) := by
  unfold Machine.updateNode
  split
  · exact h
  · next s e =>
    have h1 : Keeps s₀ s := Keeps.takeMsg h _ e
    extract_lets _ _ _ _ _ _ _ _ answer
    have hanswer : ∀ x0 x1, Keeps s₀ x0 → Keeps s₀ (answer x0 x1) := fun _ _ hx0 => .sendAnswer hx0
    split
    · exact hanswer _ _ h1
    · split
      · exact .ite (hanswer _ _ h1) (.ite (hanswer _ _ h1) (.ite h (hanswer _ _ (.passNodes (.withWindow h1)))))
      · exact hanswer _ _ h1

theorem Keeps.updateEnd (h : Keeps s₀ s) {l : LinkIx} : Keeps s₀ (updateEnd l s) := by
  unfold Machine.updateEnd
  split
  · exact h
  · next s1 e =>
    have h1 : Keeps s₀ s1 := Keeps.takeMsg h _ e
    extract_lets _ _ _ _ _ answer _ s2 s3
    have hanswer : ∀ x0 x1, Keeps s₀ x0 → Keeps s₀ (answer x0 x1) := fun _ _ hx0 => .sendAnswer hx0
    have hs2 : Keeps s₀ s2 := .withWindow h1
    have hs3 : Keeps s₀ s3 := hanswer _ _ (.with hs2)
    split
    · exact hanswer _ _ h1
    · split
      · split
        · split
          · refine .runEnds hs3 (fun _ h1 => ?_)
            split
            · exact .runApply h1
            · exact h1
          · exact hs3
        · exact hs3
      · exact hanswer _ _ h1

/-! ### Neighbourhood Unit requests -/

theorem JKeeps.taint {b : Bool} : JKeeps s₀ (JM.taint b) := .modify fun _ h1 => h1

theorem JKeeps.value {k : Key} {here : Bool} {rd : JM (Bytes × Bool)} (hrd : JKeeps s₀ rd) : JKeeps s₀ (JM.value k here rd) := by
  unfold JM.value
  refine .bind .part fun _ => ?_
  split
  · exact .bind .taint fun _ => .pure
  · exact .ite (.bind hrd fun _ => .bind .st fun _ => .bind .keep fun _ => .bind .taint fun _ => .pure)
      (.bind .ask fun _ => .stop)

theorem JKeeps.vrec {g : Graph} {hop v : ℕ} : JKeeps s₀ (JM.vrec g hop v) := by
  unfold JM.vrec
  refine .bind .st fun _ => ?_
  split
  · exact .pure
  · refine .bind (.value ?_) fun _ => .bind .get fun _ => .pure
    refine .bind .readDir fun _ => ?_
    split
    · exact .pure
    · exact .bind .mem fun _ => .bind (.upd (fun _ h1 => .countBlock (.countShard h1))) fun _ => .pure

theorem JKeeps.vertex {g : Graph} {hop v : ℕ} : JKeeps s₀ (JM.vertex g hop v) := .bind .vrec fun _ => .bind .st fun _ => .pure

theorem JKeeps.planeVal {g : Graph} {v p : ℕ} : JKeeps s₀ (JM.planeVal g v p) := by
  unfold JM.planeVal
  refine .bind .st fun _ => .bind (.value ?_) fun _ => .bind .part fun _ => .pure
  refine .bind .readDir fun _ => ?_
  split
  · exact .pure
  · exact .mem

theorem JKeeps.entries {g : Graph} {home : ℕ} {idxs : List ℕ} {count : Bool} : JKeeps s₀ (JM.entries g home idxs count) := by
  unfold JM.entries
  extract_lets
  refine .bind .st fun _ => ?_
  extract_lets
  refine .bind (.all (fun _ => ?_)) fun _ => .pure
  refine .value (.bind .readDir fun _ => ?_)
  refine .bind .st fun _ => ?_
  split
  · exact .pure
  · exact .bind .mem fun _ => .bind .get fun _ => .ite (.bind (.upd (fun _ h1 => .countBlock h1)) fun _ => .pure) .pure

theorem JKeeps.prefixes {g : Graph} {home : ℕ} {r : VRec} : JKeeps s₀ (JM.prefixes g home r) := by
  unfold JM.prefixes
  refine .bind .st fun _ => .bind (.all (fun _ => ?_)) fun _ => .pure
  refine .value (.bind .readDir fun _ => ?_)
  split
  · exact .pure
  · exact .mem

theorem JKeeps.sample {g : Graph} {T seed key hop v : ℕ} {r : VRec} {home mode k : ℕ} :
    JKeeps s₀ (JM.sample g T seed key hop v r home mode k) :=
  .ite .pure (.ite .pure (.ite (.ite (.bind .prefixes fun _ => .pure) .pure) (.ite (.bind .entries fun _ => .pure) .pure)))

theorem Keeps.nureqInsn (h : Keeps s₀ s) {c : CoreIx} {f : XFmt} : Keeps s₀ (nureqInsn c f s) := by
  unfold Machine.nureqInsn
  refine .lsuIssue h (fun _ _ _ h1 => ?_)
  extract_lets fail _ _ _ _ _ _ s1 rest rest1
  have hfail : ∀ x0, OkMeets (Keeps s₀) (fail x0) := by
    intro x0
    unfold fail
    refine .pure (.respond ?_)
    exact h1
  have hs1 : Keeps s₀ s1 := .modReq h1
  have hrest : ∀ x0, OkMeets (Keeps s₀) (rest x0) := by
    intro x0
    unfold rest
    refine .bind fun _ => ?_
    split
    · exact hfail _
    · split
      · split
        · next s2 _ e =>
          have h11 : Keeps s₀ s2 := .of_fst e (.asEffect hs1)
          exact .pure h11
      · exact .pure hs1
  have hrest1 : ∀ x0, OkMeets (Keeps s₀) (rest1 x0) := fun _ => .ite (.bind fun _ => hrest ()) (hrest ())
  exact .ite (hfail _) (.ite (hfail _) (.ite (hfail _) (.ite (.bind fun _ => hrest1 ()) (hrest1 ()))))

theorem JKeeps.countMet {g : Graph} {ring : ℕ} {item : ItemId} {occ : List (ℕ × ℕ)} : JKeeps s₀ (JM.countMet g ring item occ) :=
  .bind .st fun _ => .bind .get fun _ => .upd (fun _ h1 => .countRing h1)

theorem JKeeps.hop {z : Slicing} {g : Graph} {b : NuBlk} {hop : ℕ} {spec : ℕ × ℕ} {frontier : List (ℕ × ℕ)} :
    JKeeps s₀ (JM.hop z g b hop spec frontier) := by
  unfold JM.hop
  extract_lets
  refine .bind (.all (fun _ => .bind .vertex fun _ => .pure)) fun _ => .bind .st fun _ => ?_
  extract_lets
  refine .bind (.all (fun _ => ?_)) fun _ => .pure
  split
  · split
    · exact .pure
    · exact .ite .pure (.bind .sample fun _ => .bind .entries fun _ => .pure)

theorem JKeeps.expandHops {z : Slicing} {g : Graph} {b : NuBlk} {spec : List (ℕ × ℕ)} {hop : ℕ} {frontier : List (ℕ × ℕ)} :
    JKeeps s₀ (JM.expandHops z g b spec hop frontier) := by
  induction spec generalizing hop frontier with
  | nil => exact .pure
  | cons sp spec ih => exact .bind .hop fun _ => .bind ih fun _ => .pure

theorem JKeeps.putOut {c : ℕ} {b : NuBlk} {d : Bytes} : JKeeps s₀ (JM.putOut c b d) := by
  unfold JM.putOut
  refine .bind .get fun _ => ?_
  extract_lets
  split
  · exact .bind (.upd (fun _ h1 => .ite h1 (.lsWrite h1))) fun _ => .pure
  · exact .bind (.upd (fun _ h1 => .modCore h1 fun _ hk => .poisonPut hk)) fun _ => .pure

theorem JKeeps.expand {c : ℕ} {q : LsuReq} {g : Graph} {b : NuBlk} : JKeeps s₀ (JM.expand c q g b) :=
  .bind .st fun _ => .bind .expandHops fun _ => .bind .countMet fun _ => .bind .putOut fun _ => .pure

theorem Keeps.openKnead (h : Keeps s₀ s) {who : ℕ × ℕ} {list slice dev bytes : ℕ} :
    Keeps s₀ (s.openKnead who list slice dev bytes) := by
  unfold State.openKnead
  split
  · exact h
  · split
    · exact .sendMsg (.with h)
    · exact h

theorem JKeeps.received {h : RecHdr} {list slice dev : ℕ} {last : Bool} {cur : Option Stack} :
    JKeeps s₀ (JM.received h list slice dev last cur) := by
  unfold JM.received
  split
  · exact .pure
  · refine .bind .part fun _ => ?_
    split
    · exact .pure
    · exact .bind .get fun _ => .bind (.upd (fun _ h1 => .openKnead h1)) fun _ => .stop

theorem JKeeps.passOn {list slice dev : ℕ} {b : Bytes} : JKeeps s₀ (JM.passOn list slice dev b) := by
  unfold JM.passOn
  refine .bind .part fun _ => ?_
  split
  · refine .bind .st fun _ => ?_
    split
    · exact .bind (.upd (fun _ h1 => .sendMsg (.with h1))) fun _ => .keep
    · exact .stop
  · exact .pure

theorem JKeeps.slices {z : Slicing} {h : RecHdr} {list v n : ℕ} {its : List TreeItem} {k i : ℕ} {cur : Option Stack} {ev : ℕ} :
    JKeeps s₀ (JM.slices z h list v n its k i cur ev) := by
  induction k generalizing i cur ev with
  | zero => exact .bind .received fun _ => .pure
  | succ k ih =>
    refine .bind .st fun _ => .ite (.bind .received fun st => ?_) ?_
    · cases st with
      | none => exact .pure
      | some st => exact ih
    · cases cur with
      | none => exact ih
      | some st => exact .bind .passOn fun _ => ih

theorem keeps_countOnce {α : Type} {x : JM α} (hx : JKeeps s₀ x) : JKeeps s₀ (JM.countOnce x) := by
  refine ⟨fun j h => ?_⟩
  have hj := hx.stays j h
  change Keeps s₀ ((do
    let j ← get
    let r ← x.run
    if r.isNone then modify fun j' => { j' with s := { j'.s with sifterInvalid := j.s.sifterInvalid } }
    pure r : StateM Job (Option α)) j).2.s
  obtain ⟨r, j', hr⟩ : ∃ r j', x.run j = (r, j') := ⟨_, _, rfl⟩
  rw [hr] at hj
  simp only [bind, StateT.bind, get, getThe, MonadStateOf.get, StateT.get, pure, hr]
  cases r with
  | none => exact .with hj
  | some a => exact hj

theorem JKeeps.countOnce {α : Type} {x : JM α} (hx : JKeeps s₀ x) : JKeeps s₀ (JM.countOnce x) := keeps_countOnce hx

theorem JKeeps.aggBags {z : Slicing} {c : ℕ} {g : Graph} {b : NuBlk} : JKeeps s₀ (JM.aggBags z c g b) :=
  .bind .st fun _ => .bind .hop fun _ => .pure

theorem JKeeps.aggregate {c : ℕ} {q : LsuReq} {g : Graph} {t : Table} {b : NuBlk} : JKeeps s₀ (JM.aggregate c q g t b) := by
  unfold JM.aggregate
  refine .bind .st fun _ => ?_
  extract_lets
  refine .bind .aggBags fun _ => ?_
  refine .bind ?_ fun _ => ?_
  · refine .countOnce (.bind .lookup fun _ => ?_)
    split
    · exact .pure
    · refine .bind .get fun _ => ?_
      extract_lets
      refine .bind (.all (fun _ => ?_)) fun _ => .pure
      split
      · exact .bind .slices fun _ => .pure
  · split
    · exact .pure
    · exact .bind .countMet fun _ => .bind .deliverLookup fun _ => .pure

theorem JKeeps.walkSteps {g : Graph} {b : NuBlk} {start w n st v : ℕ} : JKeeps s₀ (JM.walkSteps g b start w n st v) := by
  induction n generalizing st v with
  | zero => exact .pure
  | succ n ih =>
    rw [JM.walkSteps]
    have hgo : ∀ v seen, JKeeps s₀ (do
        let r ← JM.walkSteps g b start w n (st + 1) v
        Pure.pure (v :: r.1, seen ++ r.2)) := fun v seen => .bind ih fun _ => .pure
    refine .ite (hgo _ _) (.bind .vertex fun r => ?_)
    rcases r with _ | ⟨r, home⟩
    · exact .pure
    · refine .ite .pure ?_
      extract_lets rest
      have hrest : ∀ i, JKeeps s₀ (rest i) := by
        rintro (_ | i)
        · exact .pure
        · exact .bind .entries fun _ => .ite .pure (hgo _ _)
      exact (.ite (.bind .pure hrest) (.ite (.bind .prefixes fun _ => .bind .pure hrest) (.bind .pure hrest)))

theorem JKeeps.walk {c : ℕ} {q : LsuReq} {g : Graph} {b : NuBlk} : JKeeps s₀ (JM.walk c q g b) := by
  unfold JM.walk
  refine .bind .st fun _ => ?_
  extract_lets
  refine .bind (.all (fun _ => ?_)) fun _ => .bind .countMet fun _ => .putOut
  split
  · exact .bind .walkSteps fun _ => .pure

theorem JKeeps.farPlanes {g : Graph} {v : ℕ} : JKeeps s₀ (JM.farPlanes g v) := by
  unfold JM.farPlanes
  extract_lets both
  have hboth : ∀ x0, JKeeps s₀ (both x0) := fun _ => .planeVal
  exact .bind (.all (fun _ => hboth _)) fun _ => .bind .vrec fun _ => .bind (.all (fun _ => hboth _)) fun _ => .ite
    (.bind (.modify fun _ h1 => h1) fun _ => .bind .ask fun _ => .stop) .pure

theorem JKeeps.vertexRead {c : ℕ} {q : LsuReq} {g : Graph} {b : NuBlk} : JKeeps s₀ (JM.vertexRead c q g b) := by
  unfold JM.vertexRead
  refine .bind .st fun _ => ?_
  extract_lets
  refine .bind ?_ fun _ => ?_
  · exact .all (fun _ => .ite .pure (.ite (.bind (.all (fun _ => .ite (.bind .vrec fun _ => .pure) (.bind .planeVal
      fun _ => .pure))) fun _ => .pure) .farPlanes))
  · exact .bind (.mapM fun _ => .bind .vrec fun _ => .ite (.bind .pure fun _ => .pure) (.bind (.mapM fun _ => .bind .planeVal
      fun _ => .pure) fun _ => .pure)) fun _ => .bind .countMet fun _ => .bind .get fun _ => .bind (.upd
        (fun _ h1 => .modCore h1 fun _ hk => .poisonPut hk)) fun _ => .pure

theorem JKeeps.writeVertex {g : Graph} {v : ℕ} {rcd : Bytes} : JKeeps s₀ (JM.writeVertex g v rcd) := by
  unfold JM.writeVertex
  refine .bind .get fun _ => ?_
  split
  · exact .pure
  · split
    · exact .pure
    · exact .ite .pure (.ite (.bind .write fun _ => .bind (.upd (fun _ h1 => .countBlock (.countShard h1))) fun _ => .pure) .pure)

theorem JKeeps.writeVertices {g : Graph} {recs : List Bytes} {fwd : Bool} : JKeeps s₀ (JM.writeVertices g recs fwd) := by
  unfold JM.writeVertices
  refine .bind .st fun _ => ?_
  extract_lets
  refine .bind .get fun _ => ?_
  extract_lets _ _ _ _ rest
  have hrest : ∀ x0, JKeeps s₀ (rest x0) := by
    intro x0
    unfold rest
    refine .bind ?_ fun _ => ?_
    · refine .forM fun _ => ?_
      split
      · exact .bind .st fun _ => .ite (.bind .writeVertex fun _ => .keep) .pure
    · refine .bind (.mapM fun _ => ?_) fun _ => .bind .get fun _ => .ite .stop .pure
      refine .bind .part fun _ => ?_
      split
      · exact .pure
      · exact .bind .ask fun _ => .pure
  exact .ite (.bind .put fun _ => hrest ()) (hrest ())

theorem JKeeps.vertexWrite {c : ℕ} {q : LsuReq} {g : Graph} {b : NuBlk} : JKeeps s₀ (JM.vertexWrite c q g b) :=
  .bind .st fun _ => .bind .writeVertices fun _ => .bind (.upd (fun _ h1 => .countRing h1)) fun _ => .pure

theorem Keeps.runNu (h : Keeps s₀ s) {c : ℕ} {q : LsuReq} : Keeps s₀ (s.runNu c q) := by
  unfold State.runNu
  extract_lets b who finish recs run
  have hfinish : ∀ s r, Keeps s₀ s → Keeps s₀ (finish s r) := fun _ _ h => .endReq h
  refine .ite (.ite h (hfinish _ _ h)) ?_
  split
  · exact hfinish _ _ h
  · extract_lets
    have hrun : ∀ m mk, JKeeps s₀ m → Keeps s₀ (run m mk) := fun _ _ hm => .runJob h hfinish hm
    refine .ite (hrun _ _ .expand) (.ite ?_ (.ite (hrun _ _ .walk) (.ite (hrun _ _ .vertexRead) (hrun _ _ .vertexWrite))))
    split
    · exact hfinish _ _ h
    · exact hrun _ _ .aggregate

theorem Keeps.serveNu (h : Keeps s₀ s) {c id : ℕ} : Keeps s₀ (s.serveNu c id) := by
  unfold State.serveNu
  split
  · exact .runNu h
  · exact h

theorem Keeps.nuOp (h : Keeps s₀ s) {op : ℕ} {c : CoreIx} {id : ℕ} : Keeps s₀ (nuOp op c id s) := by
  unfold Machine.nuOp
  split
  · exact .ite (.runEnds (.with h) (fun _ h1 => .serveNu h1)) h
  · exact h

theorem JKeeps.remoteNu {g : Graph} {sub : ℕ} {body : Bytes} {n : ℕ} {fwd : Bool} : JKeeps s₀ (JM.remoteNu g sub body n fwd) := by
  unfold JM.remoteNu
  refine .bind .st fun _ => ?_
  extract_lets _ rest
  have hrest : ∀ x0, JKeeps s₀ (rest x0) := fun _ => .ite (.bind .writeVertices fun _ => .bind .get fun _ => .pure)
    (.bind .pure fun _ => .bind .get fun _ => .pure)
  split
  · exact .bind (.all (fun _ => .bind .vrec fun _ => .pure)) fun _ => .bind .pure fun _ => hrest _
  · exact .bind .entries fun _ => .bind .pure fun _ => hrest _
  · exact .bind .entries fun _ => .bind .pure fun _ => hrest _
  · exact .bind (.all (fun _ => .bind .prefixes fun _ => .pure)) fun _ => .bind .pure fun _ => hrest _
  · exact .bind (.all (fun _ => .bind .planeVal fun _ => .pure)) fun _ => .bind .pure fun _ => hrest _
  · exact .bind .pure fun _ => hrest _

theorem Keeps.runRemoteNu (h : Keeps s₀ s) {r : Remote} : Keeps s₀ (s.runRemoteNu r) := by
  unfold State.runRemoteNu
  extract_lets _ _ _ _ _ fail
  have hfail : ∀ x0, Keeps s₀ (fail x0) := fun _ => .endRemote h
  split
  · exact .ite h (hfail _)
  · split
    · exact hfail _
    · split
      · exact .ite (hfail _) (.runJob h (fun _ _ h1 => .endRemote h1) .remoteNu)
      · exact hfail _

theorem Keeps.resumeOne (h : Keeps s₀ s) {who : ℕ × ℕ} : Keeps s₀ (s.resumeOne who) := by
  unfold State.resumeOne
  refine .runEnds h (fun _ h1 => ?_)
  split
  · split
    · split
      · exact .runNu h1
      · split
        · exact .serveSift h1
        · exact h1
    · exact .dequeue h1
  · split
    · split
      · exact .runRemoteSift h1
      · exact .runRemoteNu h1
    · exact .dequeue h1

theorem Keeps.resumePasses (h : Keeps s₀ s) {n : ℕ} : Keeps s₀ (s.resumePasses n) := by
  induction n generalizing s with
  | zero => exact h
  | succ n ih =>
    have hpass (l : List (ℕ × ℕ)) : Keeps s₀ (l.foldl State.resumeOne s) := .foldl h fun _ _ h1 => .resumeOne h1
    exact .ite (ih (hpass _)) (hpass _)

theorem Keeps.resumeAll (h : Keeps s₀ s) : Keeps s₀ s.resumeAll := .resumePasses h

end Sys2Proof.Machine
end


section
/-! PROOFS. What every command keeps: the functions of the tiers, sweeps, the fabric and its channels. -/

namespace Sys2Proof.Machine

variable {s₀ s : State}

/-! ### Descriptors under execution -/

theorem Keeps.begin (h : Keeps s₀ s) {r pos : ℕ} : Keeps s₀ (s.begin r pos) := .modRing h

theorem Keeps.descFault (h : Keeps s₀ s) {r pos addr : ℕ} : Keeps s₀ (s.descFault r pos addr) := .completeWith (.report h)

theorem Keeps.setupRead (h : Keeps s₀ s) {r pos addr : ℕ} {ans : HostAns} {k : State → Bytes → State}
    (hk : ∀ v x1, Keeps s₀ v → Keeps s₀ (k v x1)) : Keeps s₀ (s.setupRead r pos addr ans k) := by
  unfold State.setupRead
  extract_lets s1
  have hs1 : Keeps s₀ s1 := .ite h (.hostStart (.begin h))
  split
  · extract_lets s2
    have hs2 : Keeps s₀ s2 := .settleInvals (.dropAcc hs1)
    split
    · exact hk _ _ hs2
    · exact .descFault hs2
  · exact .ite hs1 (.completeWith hs1)

/-! ### Moving blocks between tiers -/

theorem Keeps.allocChunk (h : Keeps s₀ s) {p u c : ℕ} : SomeMeets (fun r => Keeps s₀ r.2) (s.allocChunk p u c) := by
  unfold State.allocChunk
  split
  · exact .none
  · exact .some (.with h)

theorem Keeps.freeChunk (h : Keeps s₀ s) {p u off c : ℕ} : Keeps s₀ (s.freeChunk p u off c) := .with h

theorem Keeps.poolDesc (h : Keeps s₀ s) {grant : Bool} {r : RingIx} {pos : ℕ} : Keeps s₀ (poolDesc grant r pos s) := by
  unfold Machine.poolDesc
  split
  · exact h
  · extract_lets _ _ _ fin
    have hfin : ∀ x0 x1, Keeps s₀ x0 → Keeps s₀ (fin x0 x1) := fun _ _ hx0 => .completeWith hx0
    split
    · exact .ite (hfin _ _ h) (.ite (.ite (hfin _ _ (.with h)) (hfin _ _ h)) (.ite (hfin _ _ (.with h)) (hfin _ _ h)))
    · exact hfin _ _ h

theorem Keeps.startMove (h : Keeps s₀ s) {e : EntryRef} {src : Option (ℕ × ℕ)} {tier u w : ℕ} :
    SomeMeets (Keeps s₀) (s.startMove e src tier u w) := by
  unfold State.startMove
  split
  · split
    · exact .none
    · next s1 e1 =>
      have h1 : Keeps s₀ s1 := Keeps.allocChunk h _ e1
      exact .some (.runJob (.with (.putDir h1)) (fun _ _ h1 => h1) .ready)
  · exact .none

theorem JKeeps.copyBlock {m : Move} : JKeeps s₀ (JM.copyBlock m) := by
  unfold JM.copyBlock
  refine .bind .st fun _ => ?_
  extract_lets _ _ _ _ _ rest
  have hrest : ∀ x0, JKeeps s₀ (rest x0) := by
    intro x0
    unfold rest
    split
    · exact .pure
    · exact .ite .pure (.bind .get fun _ => .bind (.upd (fun _ h1 => .sifterWrite h1)) fun _ => .pure)
  refine .bind .mem fun _ => ?_
  split
  · extract_lets
    split
    · exact .bind .pure fun _ => hrest _
    · refine .bind (.mapM fun _ => .ar) fun _ => ?_
      split
      · exact .bind .pure fun _ => hrest _
      · exact .bind .pure fun _ => hrest _
  · exact .bind .pure fun _ => hrest _

theorem Keeps.endSrc (h : Keeps s₀ s) {src : Option (ℕ × ℕ)} {status : ℕ} : Keeps s₀ (s.endSrc src status) := by
  unfold State.endSrc
  split
  · exact .completeWith h
  · exact h

theorem Keeps.markBad (h : Keeps s₀ s) {a : ℕ} {l : List (ℕ × ℕ)} : Keeps s₀ (s.markBad a l) :=
  .foldl h fun _ _ h1 => .foldl h1 fun _ _ h2 => .poisonAt h2

theorem Keeps.finishMove (h : Keeps s₀ s) {m : Move} : Keeps s₀ (s.finishMove m) := by
  unfold State.finishMove
  split
  · exact .with h
  · exact .resumeAll (.endSrc (.with (.putDir (.markBad h))))

theorem Keeps.abandonMove (h : Keeps s₀ s) {m : Move} {status : ℕ} : Keeps s₀ (s.abandonMove m status) := by
  unfold State.abandonMove
  extract_lets s1 s2 s3
  have hs1 : Keeps s₀ s1 := .with h
  have hs2 : Keeps s₀ s2 := by
    unfold s2
    split
    · exact .freeChunk hs1
    · exact hs1
  have hs3 : Keeps s₀ s3 := by
    unfold s3
    split
    · exact .putDir hs2
    · exact hs2
  exact .resumeAll (.endSrc (.report hs3))

theorem Keeps.settleMoves (h : Keeps s₀ s) : Keeps s₀ s.settleMoves := .foldl h fun _ _ h1 => .ite (.finishMove h1) h1

theorem Keeps.chunkRelease (h : Keeps s₀ s) {e : EntryRef} : Keeps s₀ (chunkRelease e s) := by
  unfold Machine.chunkRelease
  split
  · exact .ite (.freeChunk (.with h)) h
  · exact h

theorem Keeps.seeBlock (h : Keeps s₀ s) {e : EntryRef} {d : DirEnt} : Keeps s₀ (s.seeBlock e d) := by
  unfold State.seeBlock
  extract_lets
  split
  · exact .ite (.pageRead h) h
  · exact h

theorem Keeps.visitMove (h : Keeps s₀ s) {e : EntryRef} {d : DirEnt} {p : ℕ} : Keeps s₀ (s.visitMove e d p) := by
  unfold State.visitMove
  extract_lets _ s1
  have hs1 : Keeps s₀ s1 := .seeBlock h
  split
  · exact h
  · split
    · exact hs1
    · split
      · exact hs1
      · split
        · next s' e1 =>
          have h1 : Keeps s₀ s' := Keeps.startMove hs1 _ e1
          exact .ite (.with h1) h1
        · exact .with hs1

theorem Keeps.epochVisit (h : Keeps s₀ s) {e : EntryRef} : Keeps s₀ (epochVisit e s) := by
  unfold Machine.epochVisit
  split
  · exact h
  · extract_lets s1 s2 _ v
    have hs1 : Keeps s₀ s1 := .seeDir h
    have hs2 : Keeps s₀ s2 := by
      unfold s2
      split
      · exact .visitMove hs1
      · exact hs1
    have hv : Keeps s₀ v := .putDir hs2
    exact .ite h (.with hv)

theorem JKeeps.shardCopies {l : List EntryRef} : JKeeps s₀ (JM.shardCopies l) := by
  unfold JM.shardCopies
  extract_lets one
  have hone : ∀ x0, JKeeps s₀ (one x0) := by
    intro x0
    unfold one
    refine .bind .st fun _ => ?_
    split
    · exact .bind (.upd (fun _ h1 => .seeDir h1)) fun _ => .bind .mem fun _ => .bind .taint fun _ => .pure
    · exact .pure
  refine .bind (.all (fun _ => ?_)) fun _ => .pure
  refine .bind (hone _) fun _ => .bind .st fun _ => ?_
  split
  · exact .bind (.all (fun _ => .ite (hone _) .pure)) fun _ => .pure
  · exact .pure

theorem JKeeps.shardWhole {l : List EntryRef} : JKeeps s₀ (JM.shardWhole l) :=
  .bind .shardCopies fun _ => .bind .get fun _ => .pure

theorem Keeps.failShard (h : Keeps s₀ s) {m : ShardMove} : Keeps s₀ (s.failShard m) :=
  .resumeAll (.endSrc (.report (.with (.ite (.setEntry16 h) h))))

theorem Keeps.freeShard (h : Keeps s₀ s) {scope sh : ℕ} : Keeps s₀ (s.freeShard scope sh) := by
  unfold State.freeShard
  refine .foldl h fun _ _ h1 => ?_
  split
  · exact h1
  · extract_lets s1 _ s2 _ s3 s4
    have hs1 : Keeps s₀ s1 := .seeDir h1
    have hs2 : Keeps s₀ s2 := .ite (.pageRead hs1) hs1
    have hs3 : Keeps s₀ s3 := .with hs2
    have hs4 : Keeps s₀ s4 := .putDir hs3
    split
    · exact .freeChunk hs4
    · exact hs4

theorem Keeps.endShard (h : Keeps s₀ s) {m : ShardMove} : Keeps s₀ (s.endShard m) := .ite (.endSrc (.with (.freeShard h))) h

theorem Keeps.transferShard (h : Keeps s₀ s) {m : ShardMove} : Keeps s₀ (s.transferShard m) :=
  .resumeAll (.foldl (.modShard (.setEntry16 h)) fun _ _ h1 => .sendMg h1)

theorem Keeps.beginShard (h : Keeps s₀ s) {m : ShardMove} : Keeps s₀ (s.beginShard m) := .modShard (.setEntry16 h)

theorem Keeps.sendShard (h : Keeps s₀ s) {m : ShardMove} {l : List (ℕ × Bytes)} : Keeps s₀ (s.sendShard m l) :=
  .ite (.transferShard (.foldl (.modShard h) fun _ _ h1 => .modShard (.sendRq h1)))
    (.foldl (.modShard h) fun _ _ h1 => .modShard (.sendRq h1))

theorem Keeps.runShards (h : Keeps s₀ s) : Keeps s₀ s.runShards := by
  unfold State.runShards
  refine .foldl h fun _ _ h1 => ?_
  split
  · exact h1
  · extract_lets s1
    have hs1 : Keeps s₀ s1 := by
      unfold s1
      split
      · exact h1
      · exact .beginShard h1
    split
    · exact h1
    · split
      · split
        · exact h1
        · exact .failShard h1
      · exact .ite h1 (.runJob hs1 (fun _ _ h1 => .ite (.failShard h1) (.sendShard h1)) .shardWhole)

theorem Keeps.copyAnswered (h : Keeps s₀ s) {dev tag status : ℕ} : Keeps s₀ (s.copyAnswered dev tag status) := by
  unfold State.copyAnswered
  split
  · exact h
  · exact .ite (.modShard h) (.ite (.failShard (.modShard h)) (.transferShard (.modShard h)))

theorem Keeps.pickShards (h : Keeps s₀ s) {scope : ℕ} : Keeps s₀ (s.pickShards scope) :=
  .foldl h fun _ _ h1 => .ite (.with (.free h1)) h1

theorem Keeps.epochEnd (h : Keeps s₀ s) : Keeps s₀ (epochEnd s) :=
  .ite h (.runShards (.ite (.with h) (.pickShards (.pickShards (.with h)))))

theorem Keeps.migrateBlock (h : Keeps s₀ s) {r pos : ℕ} {e : EntryRef} {tier w unit : ℕ} :
    Keeps s₀ (s.migrateBlock r pos e tier w unit) := by
  unfold State.migrateBlock
  extract_lets fin
  have hfin : ∀ s st, Keeps s₀ s → Keeps s₀ (fin s st) := fun _ _ h => .completeWith h
  split
  · extract_lets s1 tbl
    have hs1 : Keeps s₀ s1 := .seeDir h
    refine .ite (hfin _ _ hs1) (.ite (hfin _ _ hs1) (.ite (hfin _ _ hs1) (.ite hs1 ?_)))
    split
    · next t e => exact Keeps.startMove (.begin hs1) _ e
    · exact hfin _ _ hs1
  · exact hfin _ _ h

theorem Keeps.migrate (h : Keeps s₀ s) {r : RingIx} {pos : ℕ} : Keeps s₀ (migrate r pos s) := by
  unfold Machine.migrate
  split
  · exact h
  · extract_lets _ _ _ _ fin _ _ s1
    have hfin : ∀ x0 x1, Keeps s₀ x0 → Keeps s₀ (fin x0 x1) := fun _ _ hx0 => .completeWith hx0
    have hs1 : Keeps s₀ s1 := .begin h
    exact .ite (hfin _ _ h)
      (.ite (.ite (hfin _ _ h) (.ite h (.ite (hfin _ _ h) (.runShards (.with hs1))))) (.ite (hfin _ _ h) (.migrateBlock h)))

/-! ### Whole-graph sweeps -/

theorem JKeeps.free : JKeeps s₀ JM.free := ⟨fun _ h => .free h⟩

theorem JKeeps.neighbour {g : Graph} {p u : ℕ} : JKeeps s₀ (JM.neighbour g p u) := .ite .pure .planeVal

theorem JKeeps.sweepValue {g : Graph} {w : Sweep} {r : VRec} {x : ℕ} : JKeeps s₀ (JM.sweepValue g w r x) := by
  unfold JM.sweepValue
  refine .bind .st fun _ => .bind .entries fun _ => .bind (.all fun _ => .neighbour) fun _ => ?_
  extract_lets
  refine .ite .pure (.bind (.filterMapM fun x => ?_) fun _ => .pure)
  obtain ⟨e, n⟩ := x
  refine .ite .pure ?_
  cases n with
  | none => exact .bind .free fun _ => .pure
  | some v => exact .pure

theorem JKeeps.sweepVertex {g : Graph} {w : Sweep} {v : ℕ} : JKeeps s₀ (JM.sweepVertex g w v) := by
  unfold JM.sweepVertex
  refine .bind (.modify fun _ h1 => h1) fun _ => .bind .st fun _ => ?_
  split
  · exact .pure
  · exact .bind .planeVal fun _ => .bind .mem fun _ => .bind .taint fun _ => .ite
      (.bind .sweepValue fun _ => .bind .get fun _ => .pure) (.bind .pure fun _ => .bind .get fun _ => .pure)

theorem Keeps.sweepCounts (h : Keeps s₀ s) {w : Sweep} {ys : List (ℕ × SweepY)} : Keeps s₀ (s.sweepCounts w ys) := by
  unfold State.sweepCounts
  split
  · exact h
  · exact .modInst (.countRing h)

theorem JKeeps.iteration {g : Graph} {w : Sweep} : JKeeps s₀ (JM.iteration g w) := by
  unfold JM.iteration
  refine .bind .st fun _ => .bind .part fun _ => ?_
  extract_lets
  refine .bind .put fun _ => .bind (.all (fun _ => .sweepVertex)) fun _ => ?_
  refine .bind (.forM fun _ => ?_) fun _ => .bind (.upd (fun _ h1 => .sweepCounts h1)) fun _ => .pure
  split
  · refine .upd (fun _ h1 => ?_)
    split
    · extract_lets _ s
      have hs : Keeps s₀ s := .sifterWrite h1
      exact .ite (.poisonAt hs) hs
    · exact h1

theorem Keeps.finishSweep (h : Keeps s₀ s) {w : Sweep} {status iters plane : ℕ} {delta : Word} :
    Keeps s₀ (s.finishSweep w status iters plane delta) := by
  unfold State.finishSweep
  extract_lets s1
  have hs1 : Keeps s₀ s1 := .with h
  split
  · exact hs1
  · exact .complete (.with hs1)

theorem Keeps.dropMarks (h : Keeps s₀ s) {w : Sweep} {devs : List ℕ} : Keeps s₀ (s.dropMarks w devs) := .with h

theorem Keeps.sweepStep (h : Keeps s₀ s) {g : Graph} {w : Sweep} : SomeMeets (Keeps s₀) (s.sweepStep g w) := by
  unfold State.sweepStep
  extract_lets _ s' _ _ _ s1
  have hs' : Keeps s₀ s' := .runJob h (fun _ _ h1 => .runShards (.resumeAll (.modSweep h1))) .iteration
  have hs1 : Keeps s₀ s1 := .dropMarks h
  split
  · exact .some (.finishSweep h)
  · split
    · exact .none
    · split
      · split
        · exact .ite (.some hs') .none
        · exact .none
      · exact .ite (.ite .none (.some (.modSweep (.foldl h fun _ _ h1 => .sendMg h1))))
          (.ite (.ite (.some (.finishSweep hs1)) (.some (.modSweep hs1))) .none)

theorem Keeps.sweepAsks (h : Keeps s₀ s) {g : Graph} {w : Sweep} : Keeps s₀ (s.sweepAsks g w) :=
  .ite h (.runJob h (fun _ _ h1 => h1) .iteration)

theorem Keeps.sweepLoop (h : Keeps s₀ s) {g n : ℕ} : Keeps s₀ (s.sweepLoop g n) := by
  induction n generalizing s with
  | zero => exact h
  | succ n ih =>
    unfold State.sweepLoop
    split
    · split
      · next e => exact ih (Keeps.sweepStep h _ e)
      · exact .sweepAsks h
    · exact h

theorem Keeps.runSweeps (h : Keeps s₀ s) {g : ℕ} : Keeps s₀ (s.runSweeps g) := .sweepLoop h

theorem Keeps.sweepEnd (h : Keeps s₀ s) {l : LinkIx} : Keeps s₀ (sweepEnd l s) := by
  unfold Machine.sweepEnd
  split
  · exact h
  · next s1 e =>
    have h1 : Keeps s₀ s1 := Keeps.takeMsg h _ e
    exact .runSweeps (.ackMg (.with h1))

theorem Keeps.sweepTimeout (h : Keeps s₀ s) {g : Fin 4096} : Keeps s₀ (sweepTimeout g s) := by
  unfold Machine.sweepTimeout
  split
  · exact .ite (.runSweeps (.finishSweep h)) h
  · exact h

/-! ### Messages of other devices -/

theorem Keeps.settleMaps (h : Keeps s₀ s) : Keeps s₀ s.settleMaps := .foldl h fun _ _ h1 => .ite h1 (.sendMg (.with h1))

theorem Keeps.settleFences (h : Keeps s₀ s) : Keeps s₀ s.settleFences := .foldl h fun _ _ h1 => .ite (.sendMsg (.with h1)) h1

theorem Keeps.progress (h : Keeps s₀ s) : Keeps s₀ s.progress :=
  .settleFences
    (.settleMaps (.foldl (.settleRemotes (.settleReqs (.settleMoves (.runShards (.resumeAll h))))) fun _ _ h1 => .runSweeps h1))

theorem Keeps.fence (h : Keeps s₀ s) {l : LinkIx} : Keeps s₀ (Machine.fence l s) := by
  refine .ite h ?_
  have hfind : SomeMeets (fun r : Nat × Msg × State => Keeps s₀ r.2.2)
      ([clMg, clRq, clRs, clRd, clBc].findSome? fun c => (s.takeMsg l.val c 15).map fun x => (c, x)) :=
    .findSome fun _ => .mapOf (Keeps.takeMsg h) fun _ h1 => h1
  split
  · exact h
  · next s1 e => exact .settleFences (.with (hfind _ e))

theorem Keeps.fenceAck (h : Keeps s₀ s) {l : LinkIx} : Keeps s₀ (fenceAck l s) := by
  unfold Machine.fenceAck
  split
  · exact h
  · split
    · exact h
    · next s1 e =>
      have h1 : Keeps s₀ s1 := Keeps.takeMsg h _ e
      extract_lets
      split
      · exact h1
      · exact .ite (.completeWith (.with h1)) (.with h1)

theorem Keeps.fabricTimeout (h : Keeps s₀ s) {r : RingIx} {pos : ℕ} : Keeps s₀ (fabricTimeout r pos s) := by
  unfold Machine.fabricTimeout
  split
  · exact .ite (.completeWith (.with h)) h
  · exact h

theorem Keeps.fabricFence (h : Keeps s₀ s) {r : RingIx} {pos : ℕ} : Keeps s₀ (fabricFence r pos s) := by
  unfold Machine.fabricFence
  split
  · exact h
  · exact .ite (.completeWith h)
      (.ite (.completeWith h) (.foldl (.with (.begin h)) fun _ _ h1 => .foldl h1 fun _ _ h2 => .sendMsg h2))

theorem Keeps.newRemote (h₀ : Keeps s₀ s) {h : Packet} {kind : ℕ} {fwd : Bool} {body : Bytes} :
    Keeps s₀ (s.newRemote h kind fwd body) := .with h₀

theorem Keeps.siftReq (h : Keeps s₀ s) {l : LinkIx} : Keeps s₀ (siftReq l s) := by
  unfold Machine.siftReq
  split
  · exact h
  · split
    · next s1 e =>
      have h1 : Keeps s₀ s1 := Keeps.takeMsg h _ e
      exact .progress (.resumeOne (.newRemote h1))
    · exact h

theorem Keeps.nuReq (h : Keeps s₀ s) {l : LinkIx} : Keeps s₀ (nuReq l s) := by
  unfold Machine.nuReq
  split
  · exact h
  · split
    · next s1 e =>
      have h1 : Keeps s₀ s1 := Keeps.takeMsg h _ e
      exact .progress (.resumeOne (.newRemote h1))
    · exact h

theorem Keeps.forward (h : Keeps s₀ s) {l : LinkIx} : Keeps s₀ (forward l s) := by
  unfold Machine.forward
  split
  · exact h
  · split
    · exact h
    · next s1 e =>
      have h1 : Keeps s₀ s1 := Keeps.takeMsg h _ e
      exact .ite (.sendAnswer h1) (.progress (.resumeOne (.newRemote h1)))

theorem Keeps.result (h : Keeps s₀ s) {l : LinkIx} : Keeps s₀ (result l s) := by
  unfold Machine.result
  split
  · exact h
  · split
    · exact h
    · next s1 e =>
      have h1 : Keeps s₀ s1 := Keeps.takeMsg h _ e
      exact .with h1

theorem Keeps.status (h : Keeps s₀ s) {l : LinkIx} : Keeps s₀ (status l s) := by
  unfold Machine.status
  split
  · exact h
  · split
    · exact h
    · next s1 e =>
      have h1 : Keeps s₀ s1 := Keeps.takeMsg h _ e
      extract_lets _ _ _ _ _ s2 s3
      have hs2 : Keeps s₀ s2 := .with h1
      have hs3 : Keeps s₀ s3 := by
        unfold s3
        split
        · exact .modProg hs2
        · exact .copyAnswered hs2
      exact .progress hs3

theorem Keeps.flip (h : Keeps s₀ s) {id : ℕ} {v : Bool} : Keeps s₀ (s.flip id v) := by
  unfold State.flip
  split
  · exact .setTable h
  · exact h

theorem Keeps.startSwitch (h : Keeps s₀ s) {id : ℕ} : Keeps s₀ (s.startSwitch id) := by
  unfold State.startSwitch
  split
  · exact .ite (.completeWith (.with h)) (.ite (.completeWith (.flip (.with h))) (.foldl (.with h) fun _ _ h1 => .sendMg h1))
  · exact .completeWith (.with h)
  · exact h

theorem Keeps.startSwitches (h : Keeps s₀ s) {id n : ℕ} : Keeps s₀ (s.startSwitches id n) := by
  induction n generalizing s with
  | zero => exact h
  | succ n ih =>
    unfold State.startSwitches
    split
    · exact .ite (ih (.startSwitch h)) h
    · exact h

theorem Keeps.prepare (h : Keeps s₀ s) {l : LinkIx} : Keeps s₀ (prepare l s) := by
  unfold Machine.prepare
  split
  · exact h
  · split
    · exact h
    · next s1 e =>
      have h1 : Keeps s₀ s1 := Keeps.takeMsg h _ e
      exact .sendMg (.ackMg h1)

theorem Keeps.answer (h : Keeps s₀ s) {l : LinkIx} : Keeps s₀ (answer l s) := by
  unfold Machine.answer
  split
  · exact h
  · split
    · exact h
    · next s1 e =>
      have h1 : Keeps s₀ s1 := Keeps.takeMsg h _ e
      extract_lets s2
      have hs2 : Keeps s₀ s2 := .ackMg h1
      split
      · exact hs2
      · exact .ite (.with hs2) (.startSwitches (.ite (.completeWith (.with hs2)) (.completeWith (.foldl (.flip (.with hs2))
          fun _ _ h1 => .sendMg h1))))

theorem Keeps.commit (h : Keeps s₀ s) {l : LinkIx} : Keeps s₀ (commit l s) := by
  unfold Machine.commit
  split
  · exact h
  · split
    · exact h
    · next s1 e =>
      have h1 : Keeps s₀ s1 := Keeps.takeMsg h _ e
      exact .flip (.ackMg h1)

theorem Keeps.mapChange (h : Keeps s₀ s) {l : LinkIx} : Keeps s₀ (mapChange l s) := by
  unfold Machine.mapChange
  split
  · exact h
  · split
    · exact h
    · next s1 e =>
      have h1 : Keeps s₀ s1 := Keeps.takeMsg h _ e
      exact .progress (.with (.setEntry16 (.ackMg h1)))

theorem Keeps.mapAck (h : Keeps s₀ s) {l : LinkIx} : Keeps s₀ (mapAck l s) := by
  unfold Machine.mapAck
  split
  · exact h
  · split
    · exact h
    · next s1 e =>
      have h1 : Keeps s₀ s1 := Keeps.takeMsg h _ e
      extract_lets s2
      have hs2 : Keeps s₀ s2 := .ackMg h1
      split
      · exact hs2
      · exact .progress (.endShard (.modShard hs2))

theorem Keeps.putList (h : Keeps s₀ s) {who : ℕ × ℕ} {owner dir size first : ℕ} {b : Bytes} :
    SomeMeets (Keeps s₀) (s.putList who owner dir size first b) :=
  .foldl (.some h) fun _ _ hv => .bindOf hv fun _ h1 => .map fun _ => .sifterWrite h1

theorem Keeps.adoptLists (h : Keeps s₀ s) {who : ℕ × ℕ} {dev : ℕ} {g : Graph} {l : List ℕ} {b : Bytes} :
    SomeMeets (fun r => Keeps s₀ r.2) (s.adoptLists who dev g l b) := by
  induction l generalizing s b with
  | nil => exact .some h
  | cons i l ih =>
    rw [State.adoptLists]
    refine .ite (ih h) (.ite (ih h) ?_)
    split
    · exact .bind fun _ => .bindOf (Keeps.putList h) fun _ h1 => .bindOf (Keeps.putList h1) fun _ h2 => ih (.with h2)
    · exact ih h

theorem Keeps.copyChunk (h : Keeps s₀ s) {p tier c : ℕ} : SomeMeets (fun r => Keeps s₀ r.2.2.2) (s.copyChunk p tier c) := by
  unfold State.copyChunk
  extract_lets tryTier
  have htryTier : ∀ k, SomeMeets (fun r => Keeps s₀ r.2.2.2) (tryTier k) := fun k =>
    .findSome fun _ => .mapOf (Keeps.allocChunk h) fun _ h1 => h1
  exact .orElse (htryTier _) (htryTier _)

theorem Keeps.storeCopy (h : Keeps s₀ s) {who : ℕ × ℕ} {dev : ℕ} {e : EntryRef} {tier w : ℕ} {b : Bytes} :
    Keeps s₀ (s.storeCopy who dev e tier w b).2 := by
  unfold State.storeCopy
  split
  · exact h
  · extract_lets lists
    have hlists : SomeMeets (fun r => Keeps s₀ r.2) lists := by
      unfold lists
      split
      · exact .adoptLists h
      · exact .some h
    split
    · exact h
    · split
      · next b s1 _ e1 _ =>
        have hs1 : Keeps s₀ s1 := hlists _ e1
        split
        · exact h
        · next s2 e2 =>
          have hs2 : Keeps s₀ s2 := Keeps.copyChunk hs1 _ e2
          extract_lets _ s3
          have hs3 : Keeps s₀ s3 := by
            unfold s3
            split
            · exact .ite (.freeChunk hs2) hs2
            · exact hs2
          exact .putDir (.sifterWrite hs3)
      · exact h

theorem Keeps.blockCopy (h : Keeps s₀ s) {l : LinkIx} : Keeps s₀ (blockCopy l s) := by
  unfold Machine.blockCopy
  split
  · exact h
  · split
    · exact h
    · next s1 e =>
      have h1 : Keeps s₀ s1 := Keeps.takeMsg h _ e
      extract_lets s2 _ _ _ _ _ _ _ _ _ s3 _ r
      have hs2 : Keeps s₀ s2 := h1
      have hs3 : Keeps s₀ s3 := .newRemote hs2
      have hr : Keeps s₀ r.2 := by
        unfold r
        split
        · exact hs3
        · split
          · exact hs3
          · split
            · exact .with hs3
            · exact .storeCopy hs3
      exact .ite h (.progress (.endRemote hr))

theorem Keeps.mgAck (h : Keeps s₀ s) {l : LinkIx} : Keeps s₀ (mgAck l s) := by
  unfold Machine.mgAck
  split
  · exact h
  · split
    · next s1 e =>
      have h1 : Keeps s₀ s1 := Keeps.takeMsg h _ e
      exact .mgAcked h1
    · exact h

theorem Keeps.packetTransit (h : Keeps s₀ s) {l : LinkIx} : Keeps s₀ (packetTransit l s) := by
  unfold Machine.packetTransit
  split
  · exact h
  · split
    · exact h
    · extract_lets s1
      have hs1 : Keeps s₀ s1 := .modLink h
      split
      · exact .discard hs1
      · split
        · exact .modLink hs1
        · exact .discard hs1

/-! ### Channels between devices -/

theorem Keeps.channelSetup (h : Keeps s₀ s) {r : RingIx} {pos : ℕ} {ans : HostAns} : Keeps s₀ (channelSetup r pos ans s) := by
  unfold Machine.channelSetup
  split
  · exact h
  · exact .ite (.completeWith h)
      (.setupRead h (fun _ _ h1 => .ite (.completeWith h1) (.ite (.completeWith h1) (.completeWith (.setChan h1)))))

theorem Keeps.tryGrant (h : Keeps s₀ s) {ch : ℕ} : Keeps s₀ (s.tryGrant ch) := by
  unfold State.tryGrant
  extract_lets
  split
  · exact .ite (.sendMsg (.modChan h)) h
  · exact h

theorem Keeps.armChan (h : Keeps s₀ s) {ch r pos : ℕ} : Keeps s₀ (s.armChan ch r pos) := .tryGrant (.modChan h)

theorem Keeps.endArm (h : Keeps s₀ s) {ch status : ℕ} : Keeps s₀ (s.endArm ch status) := by
  unfold State.endArm
  extract_lets _ s1
  have hs1 : Keeps s₀ s1 := .modChan h
  split
  · exact hs1
  · extract_lets s2
    have hs2 : Keeps s₀ s2 := .completeWith hs1
    split
    · exact hs2
    · exact .armChan (.modChan hs2)

theorem Keeps.channelArm (h : Keeps s₀ s) {r : RingIx} {pos : ℕ} : Keeps s₀ (channelArm r pos s) := by
  unfold Machine.channelArm
  split
  · exact h
  · exact .ite (.completeWith h) (.ite h (.ite (.modChan (.begin h)) (.armChan (.begin h))))

theorem Keeps.sendAbort (h : Keeps s₀ s) {ch : ℕ} {c : ChanRec} {cause : ℕ} : Keeps s₀ (s.sendAbort ch c cause) := .sendMsg h

theorem Keeps.abortChan (h : Keeps s₀ s) {ch cause : ℕ} {down : Bool} {n : ℕ} : Keeps s₀ (s.abortChan ch cause down n) := by
  induction n generalizing s ch cause down with
  | zero => exact h
  | succ n ih =>
    rw [State.abortChan]
    split
    · extract_lets up mine s1 s2 s3
      have hs2 : Keeps s₀ s2 := .ite (.decrement (.endArm (.sendAbort (.report (.modChan h))))) (.modChan h)
      have hs3 : Keeps s₀ s3 := by
        unfold s3
        split
        · split
          · exact .ite (.sendAbort hs2) (ih hs2)
          · exact hs2
        · exact hs2
      exact .settle (.foldl hs3 fun _ _ h1 => ih h1)
    · exact h

theorem Keeps.chanAbort (h : Keeps s₀ s) {ch cause : ℕ} : Keeps s₀ (s.chanAbort ch cause) := .abortChan h

theorem Keeps.sendChan (h : Keeps s₀ s) {ch : ℕ} {c : ChanRec} {b : Bytes} : Keeps s₀ (s.sendChan ch c b) := .sendMsg (.modChan h)

/-- What a computation answers meets `Q`, and what it fails with `P`. -/
def EitherMeets {ε α : Type} (P : ε → Prop) (Q : α → Prop) (x : Except ε α) : Prop := (∀ e, x = .error e → P e) ∧ OkMeets Q x

theorem EitherMeets.ok {ε α : Type} {P : ε → Prop} {Q : α → Prop} {a : α} (h : Q a) : EitherMeets P Q (.ok a) := ⟨nofun, .ok h⟩

theorem EitherMeets.error {ε α : Type} {P : ε → Prop} {Q : α → Prop} {e : ε} (h : P e) : EitherMeets P Q (.error e) :=
  ⟨by rintro _ ⟨⟩; exact h, .error⟩

/-- The contributions that add mode adds, and those before one whose check fails. -/
theorem Keeps.addContribs (hs : Keeps s₀ s) {ch p : ℕ} {h : RecHdr} {n a : ℕ} {st : Stack} :
    EitherMeets (Keeps s₀) (fun r => Keeps s₀ r.2) (s.addContribs ch p h n a st) := by
  induction n generalizing s a st with
  | zero =>
    rw [State.addContribs]
    exact .ok hs
  | succ n ih =>
    rw [State.addContribs]
    split
    · exact .error (.notePoison hs)
    · split
      · exact .error hs
      · exact ih (.ite (.memRead hs) (.sifterInv (.memRead hs)))

theorem Keeps.addResult (h₀ : Keeps s₀ s) {ch : ℕ} {c : ChanRec} {h : RecHdr} {low : ℕ} {st : Stack} :
    SomeMeets (Keeps s₀) (s.addResult ch c h low st) := by
  unfold State.addResult
  split
  · exact .none
  · split
    · exact .some (.sendChan h₀)
    · split
      · split
        · exact .some (.sendChan h₀)
        · exact .none
      · extract_lets _ s1 put
        have hs1 : Keeps s₀ s1 := .ite h₀ (.sifterInv h₀)
        have hput : ∀ x0, SomeMeets (fun r => Keeps s₀ r) (put x0) := fun _ => .ite (.some (.generalWrite hs1)) .none
        split
        · split
          · exact hput _
          · exact .none
        · exact hput _

theorem Keeps.chanDone (h : Keeps s₀ s) {ch : ℕ} {c : ChanRec} : Keeps s₀ (s.chanDone ch c) := .settle (.decrement (.endArm h))

theorem Keeps.addMode (h : Keeps s₀ s) {ch : ℕ} {c : ChanRec} : Keeps s₀ (s.addMode ch c) := by
  unfold State.addMode
  extract_lets start
  clear_value start
  split
  · exact .chanAbort (.ite (.notePoison h) h)
  · next x =>
    have hadd := Keeps.addContribs h (ch := ch) (p := c.port) (h := x.1) (n := c.ncontrib) (a := c.contrib) (st := x.2)
    split
    · next s1 e => exact .chanAbort (hadd.1 _ e)
    · next y e =>
      have hy : Keeps s₀ y.2 := hadd.2 _ e
      split
      · exact .chanAbort hy
      · next s1 e1 =>
        have hs1 : Keeps s₀ s1 := Keeps.addResult hy _ e1
        exact .ite hs1 (.chanDone hs1)

theorem Keeps.channelSend (h : Keeps s₀ s) {ch : ChanIx} : Keeps s₀ (channelSend ch s) := by
  unfold Machine.channelSend
  extract_lets
  split
  · exact h
  · extract_lets
    split
    · exact h
    · split
      · exact .chanAbort h
      · split
        · exact h
        · split
          · split
            · exact h
            · split
              · exact .addMode h
              · split
                · exact .sendChan (.memRead h)
                · exact .chanAbort (.notePoison h)
          · exact .ite (.addMode h) h

theorem Keeps.chanReceive (h : Keeps s₀ s) {m : Msg} {bc : Bool} : Keeps s₀ (s.chanReceive m bc) := by
  unfold State.chanReceive
  extract_lets
  split
  · exact h
  · extract_lets s1 s2 s3 s4 s5
    have hs1 : Keeps s₀ s1 := by
      unfold s1
      split
      · exact .bcSend (.modChan h)
      · exact h
    have hs2 : Keeps s₀ s2 := .modChan hs1
    have hs3 : Keeps s₀ s3 := .generalWrite hs2
    have hs4 : Keeps s₀ s4 := .sendMsg hs3
    have hs5 : Keeps s₀ s5 := by
      unfold s5
      split
      · exact .sendChan hs4
      · exact hs4
    exact .ite h (.ite (.chanAbort h) (.ite (.chanAbort h) (.ite hs2 (.ite (.ite (.chanAbort hs4) (.ite (.addMode hs4) hs4))
      (.chanDone hs5)))))

theorem Keeps.takeBlock (h : Keeps s₀ s) {l : ℕ} : SomeMeets (fun r => Keeps s₀ r.2) (s.takeBlock l) := by
  unfold State.takeBlock
  split
  · exact .none
  · split
    · exact .ite (.some (.modLink h)) .none
    · exact .none

theorem Keeps.record (h : Keeps s₀ s) {l : LinkIx} : Keeps s₀ (record l s) := by
  unfold Machine.record
  split
  · exact h
  · split
    · next s1 e =>
      have h1 : Keeps s₀ s1 := Keeps.takeMsg h _ e
      exact .chanReceive h1
    · exact h

theorem Keeps.block (h : Keeps s₀ s) {l : LinkIx} : Keeps s₀ (block l s) := by
  unfold Machine.block
  split
  · exact h
  · split
    · next s1 e =>
      have h1 : Keeps s₀ s1 := Keeps.takeBlock h _ e
      exact .chanReceive h1
    · exact h

theorem Keeps.grant (h : Keeps s₀ s) {l : LinkIx} : Keeps s₀ (grant l s) := by
  unfold Machine.grant
  split
  · exact h
  · split
    · exact h
    · next s1 e =>
      have h1 : Keeps s₀ s1 := Keeps.takeMsg h _ e
      exact .ite (.foldl (.modChan h1) fun _ _ h1 => .ite (.tryGrant h1) h1) (.ite (.progress (.with h1)) h1)

theorem Keeps.chanAck (h : Keeps s₀ s) {l : LinkIx} : Keeps s₀ (chanAck l s) := by
  unfold Machine.chanAck
  split
  · exact h
  · split
    · exact h
    · next s1 e =>
      have h1 : Keeps s₀ s1 := Keeps.takeMsg h _ e
      extract_lets
      split
      · exact .ite (.chanDone h1) h1
      · exact h1

theorem Keeps.abort (h : Keeps s₀ s) {l : LinkIx} : Keeps s₀ (Machine.abort l s) := by
  refine .ite h ?_
  have hmsg : SomeMeets (fun r => Keeps s₀ r.2) ((s.takeMsg l.val clRd 3).orElse fun _ => s.takeMsg l.val clBc 3) :=
    .orElse (Keeps.takeMsg h) (Keeps.takeMsg h)
  split
  · exact h
  · next m s1 e =>
    have hs1 : Keeps s₀ s1 := hmsg _ e
    extract_lets
    split
    · exact .ite (.chanAbort hs1) hs1
    · exact hs1

theorem Keeps.channelTimeout (h : Keeps s₀ s) {ch : ChanIx} : Keeps s₀ (channelTimeout ch s) := by
  unfold Machine.channelTimeout
  extract_lets
  split
  · exact .ite (.chanAbort h) h
  · exact h

theorem Keeps.knead (h : Keeps s₀ s) {l : LinkIx} : Keeps s₀ (knead l s) := by
  unfold Machine.knead
  split
  · exact h
  · split
    · exact h
    · next s1 e =>
      have h1 : Keeps s₀ s1 := Keeps.takeMsg h _ e
      split
      · exact .progress (.modProg (.with h1))
      · exact h1

end Sys2Proof.Machine
end


section
/-! PROOFS. What every command keeps: the functions of the links, faults, rings and host ports. -/

namespace Sys2Proof.Machine

variable {s₀ s : State}

/-! ### Fjarell links -/

theorem Keeps.linksBegin (h : Keeps s₀ s) : Keeps s₀ s.linksBegin := .foldl h fun _ _ h1 => .ite h1 (.setLink h1)

theorem Keeps.linkGone (h : Keeps s₀ s) {l : ℕ} {st : LinkSt} : Keeps s₀ (s.linkGone l st) := .report (.setLink h)

theorem Keeps.detect (h : Keeps s₀ s) {l : LinkIx} : Keeps s₀ (detect l s) := .ite (.setLink h) h

theorem Keeps.takePacket (h : Keeps s₀ s) {l : ℕ} {x : Packet × ℕ} : Keeps s₀ (s.takePacket l x) := by
  unfold State.takePacket
  extract_lets _ owe s1 _ _ v
  have howe : ∀ x0 x1, Keeps s₀ x0 → Keeps s₀ (owe x0 x1) := fun _ _ hx0 => .modLink hx0
  have hs1 : Keeps s₀ s1 := howe _ _ (.discard h)
  have hv : Keeps s₀ v := howe _ _ h
  exact .ite (.ite hs1 (.modLink (howe _ _ hs1)))
    (.ite (.modLink (howe _ _ h)) (.ite (.with hv) (.modLink (.ite (howe _ _ h) h))))

theorem Keeps.parsePackets (h : Keeps s₀ s) {l n : ℕ} : Keeps s₀ (s.parsePackets l n) := by
  induction n generalizing s with
  | zero => exact h
  | succ n ih =>
    rw [State.parsePackets]
    refine .ite h (.ite (ih (.modLink h)) ?_)
    split
    · exact ih (.discard (.modLink h))
    · exact .ite h (ih (.takePacket (.modLink h)))

theorem Keeps.badFlit (h : Keeps s₀ s) {l : ℕ} : Keeps s₀ (s.badFlit l) := .modLink h

theorem Keeps.dataFlit (h : Keeps s₀ s) {l : LinkIx} {b : Bytes} : Keeps s₀ (dataFlit l b s) := by
  unfold Machine.dataFlit
  split
  · exact h
  · split
    · exact .badFlit h
    · exact .ite h (.ite (.setLink h) (.ite (.parsePackets (.setLink h)) (.setLink h)))

theorem Keeps.idleFlit (h : Keeps s₀ s) {l : LinkIx} {b : Bytes} : Keeps s₀ (idleFlit l b s) := by
  unfold Machine.idleFlit
  split
  · exact h
  · split
    · exact .badFlit h
    · exact .ite h (.setLink h)

theorem Keeps.trainFlit (h : Keeps s₀ s) {l : LinkIx} {b : Bytes} : Keeps s₀ (trainFlit l b s) := by
  unfold Machine.trainFlit
  extract_lets _ f
  have hf : Keeps s₀ f.2 := .free h
  split
  · exact h
  · split
    · exact .badFlit h
    · exact .ite h (.ite (.setLink hf) (.ite (.setLink h) (.ite (.setLink h) h)))

theorem Keeps.flitTransmit (h : Keeps s₀ s) {l : LinkIx} : Keeps s₀ (flitTransmit l s) := by
  unfold Machine.flitTransmit
  extract_lets _ idle f
  have hidle : ∀ x0 x1, Keeps s₀ x0 → Keeps s₀ (idle x0 x1) := fun _ _ hx0 => .emit (.setLink hx0)
  have hf : Keeps s₀ f.2 := .free h
  split
  · exact h
  · split
    · exact .emit hf
    · split
      · exact hidle _ _ h
      · split
        · split
          · exact .ite (.holdEvent (.setLink h)) (.logEvent (.emit (.setLink h)))
          · exact hidle _ _ h
        · exact .ite (hidle _ _ h) (.ite (hidle _ _ h) (.emit (.setLink h)))

theorem Keeps.identInterval (h : Keeps s₀ s) {l : LinkIx} : Keeps s₀ (identInterval l s) := .ite (.setLink h) h

theorem Keeps.takeLk (h : Keeps s₀ s) {l kind : ℕ} : SomeMeets (fun r => Keeps s₀ r.2) (s.takeLk l kind) :=
  .map fun _ => .modLink h

theorem Keeps.ident (h : Keeps s₀ s) {l : LinkIx} : Keeps s₀ (ident l s) := by
  unfold Machine.ident
  split
  · exact h
  · split
    · exact h
    · next s1 e =>
      have h1 : Keeps s₀ s1 := Keeps.takeLk h _ e
      exact .ite h1 (.ite (.setLink h1) (.report h1))

theorem Keeps.credit (h : Keeps s₀ s) {l : LinkIx} : Keeps s₀ (credit l s) := by
  unfold Machine.credit
  split
  · exact h
  · split
    · exact h
    · next s1 e =>
      have h1 : Keeps s₀ s1 := Keeps.takeLk h _ e
      exact .modLink h1

/-! ### Failed host accesses -/

theorem Keeps.hostFaultLog (h : Keeps s₀ s) {a : HostAcc} : Keeps s₀ (s.hostFaultLog a) := .report h

theorem Keeps.accLost (h : Keeps s₀ s) {a : HostAcc} {fault : Bool} : Keeps s₀ (s.accLost a fault) := by
  unfold State.accLost
  extract_lets s1 s2 flag
  have hs1 : Keeps s₀ s1 := .dropAcc h
  have hs2 : Keeps s₀ s2 := .ite (.hostFaultLog hs1) hs1
  have hflag : ∀ x0 x1, Keeps s₀ x1 → Keeps s₀ (flag x0 x1) := fun _ _ hx1 => .ite (.modCore hx1 fun _ hk => .modRunOf hk) hx1
  split
  · exact hs2
  · exact .freeSlot hs2
  · exact .ite (.entryFailed hs2) hs2
  · exact .completeWith hs2
  · exact hflag _ _ (.modCore hs2 fun _ hk => .setS hk)
  · exact .tryEnd (hflag _ _ hs2)
  · split
    · exact hs2
    · exact .settleReq (.modReq (.dropAccs hs2))
  · exact .modRing hs2
  · exact .completeWith hs2
  · exact .endGen hs2
  · exact .ite (.modReq (.modProg hs2)) (.ite (.modRemote (.modProg hs2)) (.ite (.modMove (.modProg hs2)) (.modProg hs2)))

theorem Keeps.xferData (h : Keeps s₀ s) {c id : ℕ} {d : Bytes} : Keeps s₀ (s.xferData c id d) := by
  unfold State.xferData
  split
  · exact h
  · exact .modReq (.lsWrite h)

theorem Keeps.accDone (h : Keeps s₀ s) {a : HostAcc} {d : Bytes} : Keeps s₀ (s.accDone a d) := by
  unfold State.accDone
  extract_lets s1
  have hs1 : Keeps s₀ s1 := .dropAcc h
  split
  · exact .modCore (.hostFill hs1) fun _ hk => .setS hk
  · split
    · exact hs1
    · exact .xferIn (.xferData (.hostFill hs1))
  · exact .deliver (.hostFill hs1)
  · exact .modRing hs1
  · exact .complete hs1
  · exact .modProg hs1
  · exact hs1
  · exact hs1
  · exact hs1
  · exact hs1
  · exact hs1

theorem Keeps.hostAnswer (h : Keeps s₀ s) {a : HostAcc} {ans : HostAns} : Keeps s₀ (s.hostAnswer a ans) := by
  unfold State.hostAnswer
  split
  · exact .accDone h
  · split
    · exact .accLost (.xferData h)
    · exact .accLost h

theorem Keeps.servePort (h : Keeps s₀ s) {l1 : PortIn} : Keeps s₀ (s.servePort l1) := by
  unfold State.servePort
  split
  · split
    · exact .emit (.memRead h)
    · exact .emit h
  · split
    · exact .memWrite h
    · exact h
  · split
    · exact .hostAnswer h
    · exact h
  · exact h
  · exact h

theorem Keeps.servePorts (h : Keeps s₀ s) : Keeps s₀ s.servePorts :=
  .foldl (.with h) fun _ _ h1 => .ite (.with h1) (.servePort h1)

theorem Keeps.settleFenceReads (h : Keeps s₀ s) : Keeps s₀ s.settleFenceReads :=
  .foldl h fun _ _ h1 => .foldl h1 fun _ _ h2 => .completeWith h2

theorem Keeps.goOn (h : Keeps s₀ s) : Keeps s₀ s.goOn :=
  .settle
    (.progress (.settleFenceReads (.settleInvals (.foldl (.tellReleased (.pump (.servePorts h))) fun _ _ h1 => .issuePages h1))))

theorem Keeps.endUnstarted (h : Keeps s₀ s) : Keeps s₀ s.endUnstarted := .foldl h fun _ _ h1 => .endItem h1

theorem Keeps.orphanRings (h : Keeps s₀ s) {p : ℕ} {fns : ℕ → Bool} : Keeps s₀ (s.orphanRings p fns) :=
  .restoreAll (.settle (.foldl (.foldl (.endUnstarted (.with h)) fun _ _ h1 => .accLost h1) fun _ _ h1 => .seek h1))

theorem Keeps.orphanPort (h : Keeps s₀ s) {p event : ℕ} : Keeps s₀ (s.orphanPort p event) :=
  .goOn (.report (.report (.modPort (.with (.dropHostLines (.orphanRings h))))))

theorem Keeps.abortStranded (h : Keeps s₀ s) : Keeps s₀ s.abortStranded := .foldl h fun _ _ h1 => .endItem h1

theorem Keeps.retryCore (h : Keeps s₀ s) {c : ℕ} : Keeps s₀ (s.retryCore c) := .tryEnd (.ite (.restore (.modCore h)) (.modCore h))

theorem Keeps.stopStream (h : Keeps s₀ s) {lost : Bool} {n : ℕ} : Keeps s₀ (s.stopStream lost n) :=
  .ite h (.foldl (.dropAccs (.setStrm h)) fun _ _ h1 => .genReport h1)

theorem Keeps.stopCluster (h : Keeps s₀ s) {lost : Bool} {cl : ℕ} : Keeps s₀ (s.stopCluster lost cl) :=
  .settle (.with (.foldl (.foldl h fun _ _ h1 => .stopStream h1) fun _ _ h1 => .retryCore h1))

theorem Keeps.poisonDirty (h : Keeps s₀ s) {cl : ℕ} : Keeps s₀ (s.poisonDirty cl) :=
  .foldl h fun _ _ h1 => .ite (.foldl (.free h1) fun _ _ h2 => .poisonAt h2) (.free h1)

theorem Keeps.dropEntry (h : Keeps s₀ s) {r : ℕ} : Keeps s₀ (s.dropEntry r) := .dropAccs h

theorem Keeps.drainRing (h : Keeps s₀ s) {r : ℕ} : Keeps s₀ (s.drainRing r) := .ite (.ringDrained (.modRing (.dropEntry h))) h

theorem Keeps.restartLink (h : Keeps s₀ s) {l : ℕ} : Keeps s₀ (s.restartLink l) := .modLink h

theorem Keeps.lose (h : Keeps s₀ s) {u : FnUnit} {code : ℕ} : Keeps s₀ (s.lose u code) := by
  unfold State.lose
  extract_lets _ s1 s2 s3 s4 s5
  have hs1 : Keeps s₀ s1 := .setUnitSt h
  have hs2 : Keeps s₀ s2 := .with hs1
  have hs3 : Keeps s₀ s3 := .logEvent hs2
  have hs4 : Keeps s₀ s4 := .foldl hs3 fun _ _ h1 => .linkGone h1
  have hs5 : Keeps s₀ s5 := by
    unfold s5
    split
    · exact .drainRing hs3
    · exact .restoreAll (.settle (.abortStranded (.stopCluster hs3)))
    · exact .orphanPort (.modPort hs4)
    · exact .foldl hs3 fun _ _ h1 => .abandonMove h1
    · exact .linkGone hs3
    · exact .orphanPort (.modPort hs3)
    · exact hs3
  exact .goOn hs5

theorem Keeps.reinit (h : Keeps s₀ s) {u : FnUnit} {code : ℕ} : Keeps s₀ (s.reinit u code) := by
  unfold State.reinit
  extract_lets _ _ _ s1
  have hs1 : Keeps s₀ s1 := .setUnitSt h
  split
  · exact h
  · split
    · exact .lose h
    · split
      · exact .drainRing hs1
      · exact .stopCluster (.ite (.poisonDirty hs1) hs1)
      · exact .foldl hs1 fun _ _ h1 => .abandonMove h1
      · exact .restartLink hs1
      · exact .modPort hs1
      · exact hs1

theorem Keeps.climb (h : Keeps s₀ s) {u : FnUnit} {k : ℕ} {ports : List ℕ} {code rung unit : ℕ} {info0 info1 : Word} :
    Keeps s₀ (s.climb u k ports code rung unit info0 info1) :=
  .ite h (.ite (.ite (.modLink (.holdEvent h)) (.holdEvent h)) (.ite (.reinit (.logEvent h)) (.logEvent h)))

theorem Keeps.countClimb (h : Keeps s₀ s) {u : FnUnit} : Keeps s₀ (s.countClimb u).1 := .setUnitSt h

theorem Keeps.machineCheckAt (h : Keeps s₀ s) {c code cls engine : ℕ} {info0 info1 : Word} :
    Keeps s₀ (s.machineCheckAt c code cls engine info0 info1) := by
  unfold State.machineCheckAt
  split
  · exact h
  · extract_lets _ _ _ _ s1 s2 s3 s4
    have hs1 : Keeps s₀ s1 := .modCore h
    have hs2 : Keeps s₀ s2 := .raise (.logEvent hs1)
    have hs3 : Keeps s₀ s3 := .logEvent hs1
    have hs4 : Keeps s₀ s4 := .ite (.raise hs3) (.raiseRetry hs3)
    exact .ite (.ite (.climb hs2) hs2) (.ite (.climb hs4) hs4)

theorem Keeps.machineCheck (h : Keeps s₀ s) {c : CoreIx} {engine : BitVec 8} {poisonAt : Option ℕ} :
    Keeps s₀ (machineCheck c engine poisonAt s) := by
  unfold Machine.machineCheck
  split
  · exact h
  · split
    · exact .consumePoison h
    · exact .machineCheckAt h

theorem Keeps.residue (h : Keeps s₀ s) {u : FnUnit} {engine operation : BitVec 64} : Keeps s₀ (residue u engine operation s) :=
  .ite h (.ite (.climb h) (.ite (.climb (.countClimb h)) h))

theorem Keeps.sramUncorrected (h : Keeps s₀ s) {p : SramPlace} {syndrome : BitVec 64} : Keeps s₀ (sramUncorrected p syndrome s) := by
  unfold Machine.sramUncorrected
  split
  · exact h
  · split
    · exact .machineCheckAt (.ite (.modCore h fun _ hk => .ite hk (.with hk)) h)
    · exact .machineCheckAt (.modCore h)
    · exact .machineCheckAt (.modCore h)
    · exact .machineCheckAt (.modCore h fun _ hk => .ite hk (.with hk))
    · exact .machineCheckAt h
    · exact .climb h
    · exact .logEvent (.with h)

theorem Keeps.poisonUnit (h : Keeps s₀ s) {a u code unit : ℕ} {info0 info1 : Word} :
    Keeps s₀ (s.poisonUnit a u code unit info0 info1) := .ite h (.ite (.poisonRead h) (.logEvent (.poisonAt h)))

theorem Keeps.package (h : Keeps s₀ s) : Keeps s₀ s.package.2 := .free h

theorem Keeps.flashChannel (h : Keeps s₀ s) : Keeps s₀ s.flashChannel.2 := .free h

theorem Keeps.patrol (h : Keeps s₀ s) {a : ℕ} {good : Bool} : Keeps s₀ (patrol a good s) := by
  unfold Machine.patrol
  split
  · exact .ite h (.ite (.poisonUnit h) (.ite (.poisonUnit (.free (.package h))) h))
  · exact h

theorem Keeps.crumbCheckFail (h : Keeps s₀ s) {a : ℕ} {fails : Fin 3} : Keeps s₀ (crumbCheckFail a fails s) := by
  unfold Machine.crumbCheckFail
  split
  · exact .ite h (.ite (.poisonUnit h) (.climb h))
  · exact h

theorem Keeps.flashReadFail (h : Keeps s₀ s) {a : ℕ} {fails : Fin 9} : Keeps s₀ (flashReadFail a fails s) := by
  unfold Machine.flashReadFail
  split
  · exact .ite h (.ite (.poisonUnit (.flashChannel h)) (.climb (.flashChannel h)))
  · exact h

theorem Keeps.inlineEccError (h : Keeps s₀ s) {a : ℕ} {kind : Fin 3} {syndrome : BitVec 64} :
    Keeps s₀ (inlineEccError a kind syndrome s) := by
  unfold Machine.inlineEccError
  split
  · exact .ite h (.ite (.climb (.package h)) (.ite (.logEvent (.package h)) (.poisonUnit (.package h))))
  · exact h

theorem Keeps.bridgeCrcFail (h₀ : Keeps s₀ s) {h : Fin 2} {transfer : BitVec 64} : Keeps s₀ (bridgeCrcFail h transfer s) :=
  .ite h₀ (.climb (.setUnitSt h₀))

theorem Keeps.pllLockLoss (h : Keeps s₀ s) {u : FnUnit} {lockStatus : BitVec 64} : Keeps s₀ (pllLockLoss u lockStatus s) :=
  .ite h (.climb h)

theorem Keeps.linkReinit (h : Keeps s₀ s) {l : LinkIx} : Keeps s₀ (linkReinit l s) := .ite h (.climb h)

theorem Keeps.linkPhaseTimeout (h : Keeps s₀ s) {l : LinkIx} : Keeps s₀ (linkPhaseTimeout l s) :=
  .ite h (.ite (.ite (.lose h) (.linkGone h)) (.setLink h))

theorem Keeps.moveComplete (h : Keeps s₀ s) {e : EntryRef} : Keeps s₀ (moveComplete e s) := by
  unfold Machine.moveComplete
  split
  · exact h
  · extract_lets
    split
    · exact h
    · split
      · exact .ite h (.ite (.climb h) (.climb (.modMove h)))
      · refine .runJob h (fun _ _ h1 => ?_) .copyBlock
        split
        · exact .abandonMove h1
        · refine .settleMoves (.modMove ?_)
          exact h1

theorem Keeps.flashWriteComplete (h₀ : Keeps s₀ s) {h : Fin 2} : Keeps s₀ (flashWriteComplete h s) := by
  unfold Machine.flashWriteComplete
  split
  · exact h₀
  · exact .ite h₀ (.settle (.progress (.ite (.poisonAt (.dwrite (.with h₀))) (.dwrite (.with h₀)))))

theorem Keeps.streamStoreRunExpire (h : Keeps s₀ s) {src : Fin 130} {line : ℕ} : Keeps s₀ (streamStoreRunExpire src line s) :=
  .ite (.with h) h

/-! ### Rings -/

theorem Keeps.access (h : Keeps s₀ s) {rests : Bool} {p : ℕ} {x : PortIn} {act : State → State}
    (hact : ∀ v, Keeps s₀ v → Keeps s₀ (act v)) : Keeps s₀ (s.access rests p x act) := .ite (.with h) (hact _ h)

theorem Keeps.atBar (h : Keeps s₀ s) {p : PortIx} {i : Instr} {act : State → State} (hact : ∀ v, Keeps s₀ v → Keeps s₀ (act v)) :
    Keeps s₀ (s.atBar p i act) := .access h (fun _ h1 => hact _ h1)

theorem Keeps.atCfg (h : Keeps s₀ s) {p : PortIx} {i : Instr} {act : State → State} (hact : ∀ v, Keeps s₀ v → Keeps s₀ (act v)) :
    Keeps s₀ (s.atCfg p i act) := .access h (fun _ h1 => hact _ h1)

theorem Keeps.stopRing (h : Keeps s₀ s) {r p off : ℕ} : Keeps s₀ (s.stopRing r p off) := .ringAccess (.modRing (.dropEntry h))

theorem Keeps.doorbell (h : Keeps s₀ s) {a : DoorAddr} {off : ℕ} {act : State → ℕ → State}
    (hact : ∀ v x1, Keeps s₀ v → Keeps s₀ (act v x1)) : Keeps s₀ (s.doorbell a off act) := by
  unfold State.doorbell
  extract_lets _ s1
  have hs1 : Keeps s₀ s1 := .ite (.dropLatch h) h
  split
  · exact h
  · split
    · exact .ringAccess hs1
    · exact .ite (.ringAccess hs1) (hact _ _ hs1)

theorem Keeps.sqTail (h : Keeps s₀ s) {a : DoorAddr} {v : BitVec 32} : Keeps s₀ (sqTail a v s) :=
  .doorbell h (fun _ _ h1 => .ite (.ringAccess h1) (.ite (.stopRing h1) (.modRing h1)))

theorem Keeps.cqHead (h : Keeps s₀ s) {a : DoorAddr} {v : BitVec 32} : Keeps s₀ (cqHead a v s) :=
  .doorbell h (fun _ _ h1 => .ite (.ringAccess h1) (.ite (.stopRing h1) (.modRing h1)))

theorem Keeps.enableRing (h : Keeps s₀ s) {p r : ℕ} : Keeps s₀ (s.enableRing p r) :=
  .ite h (.ite (.setRing h) (.ite (.report (.modRing h)) (.modRing h)))

theorem Keeps.ringEnable (h : Keeps s₀ s) {p : PortIx} {fn : FnIx} {r : RingIx} : Keeps s₀ (ringEnable p fn r s) :=
  .ite h (.ite (.ringAccess (.wholeWrite h)) (.enableRing (.wholeWrite h)))

theorem Keeps.ringDisable (h : Keeps s₀ s) {p : PortIx} {fn : FnIx} {r : RingIx} : Keeps s₀ (ringDisable p fn r s) :=
  .ite h (.ite (.ringAccess (.wholeWrite h)) (.drainRing (.wholeWrite h)))

theorem Keeps.askEntry (h : Keeps s₀ s) {r n : ℕ} : Keeps s₀ (s.askEntry r n) := .hostStart h

theorem Keeps.takeEntry (h : Keeps s₀ s) {r : ℕ} {ans : HostAns} : Keeps s₀ (s.takeEntry r ans) := by
  unfold State.takeEntry
  extract_lets _ _ _ fault s1
  have hfault : ∀ x0, Keeps s₀ x0 → Keeps s₀ (fault x0) := fun _ hx0 => .report hx0
  have hs1 : Keeps s₀ s1 := .dropEntry (.askEntry h)
  split
  · exact .climb (.modRing h)
  · split
    · exact hfault _ (.entryFailed h)
    · split
      · exact .modRing h
      · split
        · exact .modRing h
        · split
          · exact .modRing hs1
          · exact hfault _ (.modRing hs1)

theorem Keeps.descriptorRead (h : Keeps s₀ s) {ans : HostAns} : Keeps s₀ (descriptorRead ans s) := by
  unfold Machine.descriptorRead
  split
  · exact h
  · split
    · exact .takeEntry (.settleInvals (.dropEntry h))
    · split
      · exact h
      · exact .ite (.takeEntry (.settleInvals (.dropEntry (.askEntry (.with h))))) (.askEntry (.with h))

theorem Keeps.watchdog (h : Keeps s₀ s) {r : RingIx} : Keeps s₀ (watchdog r s) := by
  unfold Machine.watchdog
  extract_lets
  split
  · exact .ite (.report (.modRing h)) h
  · exact h

/-! ### Programs and instances -/

theorem Core.LsWf.dropTag {k : Core} (hk : k.LsWf) {tag : ℕ} : (k.dropTag tag).LsWf := .with hk

theorem Keeps.programLoad (h : Keeps s₀ s) {r : RingIx} {pos : ℕ} : Keeps s₀ (programLoad r pos s) := by
  unfold Machine.programLoad
  split
  · exact h
  · extract_lets
    split
    · exact .completeWith h
    · split
      · exact .completeWith h
      · split
        · exact .completeWith h
        · exact .completeWith (.foldl (.setProg (.cacheRead (.cacheRead h))) fun _ _ h1 => .modCore h1 fun _ hk => .dropTag hk)

theorem Keeps.handOver (h : Keeps s₀ s) {r pos : ℕ} : Keeps s₀ (s.handOver r pos) := .modRing h

theorem Keeps.setTemplate (h : Keeps s₀ s) {express : Bool} {base : ℕ} {g : Program} : Keeps s₀ (s.setTemplate express base g) :=
  .foldl (.ite h (.cacheRead h)) fun _ _ h1 => .syncSetTo h1

theorem Keeps.armItem (h : Keeps s₀ s) {p num base k : ℕ} {x : Item} : Keeps s₀ (s.armItem p num base k x) :=
  .ite h (.ite (.armBytes (.cacheRead h)) (.genReport (.ringAccess h)))

theorem Keeps.createInst (h : Keeps s₀ s) {r pos : ℕ} {e : Live} {num : ℕ} {c : Create} {g : Program} :
    Keeps s₀ (s.createInst r pos e num c g) :=
  .settle (.ite (.handOver (.with (.setTemplate h))) (.foldl (.handOver (.with (.setTemplate h))) fun _ _ h1 => .armItem h1))

theorem Keeps.launch (h : Keeps s₀ s) {r : RingIx} {pos : ℕ} : Keeps s₀ (launch r pos s) := by
  unfold Machine.launch
  split
  · exact h
  · extract_lets
    split
    · exact .ite (.completeWith h) (.createInst h)
    · exact .completeWith h

theorem Keeps.readVersions (h : Keeps s₀ s) {express : Bool} {a : ℕ} {l : List (ℕ × ℕ)} : Keeps s₀ (s.readVersions express a l) :=
  .foldl (.cacheRead h) fun _ _ h1 => .cacheRead h1

theorem Keeps.trainStep (h : Keeps s₀ s) {r : RingIx} {pos : ℕ} : Keeps s₀ (trainStep r pos s) := by
  unfold Machine.trainStep
  split
  · exact h
  · extract_lets
    split
    · exact .ite (.completeWith h)
        (.ite (.createInst (.readVersions h)) (.foldl (.createInst (.readVersions h)) fun _ _ h1 => .syncSetTo h1))
    · exact .completeWith h

theorem Keeps.serviceBind (h : Keeps s₀ s) {r : RingIx} {pos : ℕ} : Keeps s₀ (serviceBind r pos s) := by
  unfold Machine.serviceBind
  split
  · exact h
  · exact .ite (.completeWith h) (.ite (.completeWith h) (.ite h (.completeWith (.ite (.foldl (.setSvc h) fun _ _ h1 => .ite h1
      (.loadCode h1)) (.setSvc h)))))

theorem Keeps.serviceRequest (h : Keeps s₀ s) {r : RingIx} {pos : ℕ} : Keeps s₀ (serviceRequest r pos s) := by
  unfold Machine.serviceRequest
  split
  · exact h
  · extract_lets
    split
    · exact .completeWith h
    · split
      · exact .completeWith h
      · split
        · exact .completeWith h
        · exact .createInst (.generalWrite h)

theorem Keeps.serviceUnbind (h : Keeps s₀ s) {r : RingIx} {pos : ℕ} : Keeps s₀ (serviceUnbind r pos s) := by
  unfold Machine.serviceUnbind
  split
  · exact h
  · extract_lets
    split
    · exact .completeWith h
    · split
      · exact .completeWith h
      · exact .ite (.completeWith (.setSvc h)) (.setSvc h)

theorem Keeps.itemResume (h : Keeps s₀ s) {r : RingIx} {pos : ℕ} : Keeps s₀ (itemResume r pos s) := by
  unfold Machine.itemResume
  split
  · exact h
  · split
    · exact .ite (.completeWith h) (.completeWith (.adv (.modCore h)))
    · exact .completeWith h

theorem Keeps.itemAbort (h : Keeps s₀ s) {r : RingIx} {pos : ℕ} : Keeps s₀ (itemAbort r pos s) := by
  unfold Machine.itemAbort
  split
  · exact h
  · split
    · exact .ite (.completeWith h) (.tryEnd (.completeWith (.modCore h)))
    · exact .completeWith h

theorem Keeps.streamArm (h : Keeps s₀ s) {r : RingIx} {pos : ℕ} : Keeps s₀ (streamArm r pos s) := by
  unfold Machine.streamArm
  split
  · exact h
  · exact .ite (.completeWith (.begin h)) (.armBytes (.begin h))

/-! ### Descriptors on sync objects, host memory, tables and graphs -/

theorem Keeps.descNop (h : Keeps s₀ s) {r : RingIx} {pos : ℕ} : Keeps s₀ (descNop r pos s) := by
  unfold Machine.descNop
  split
  · exact h
  · exact .completeWith h

theorem Keeps.descFence (h : Keeps s₀ s) {r : RingIx} {pos : ℕ} : Keeps s₀ (descFence r pos s) := by
  unfold Machine.descFence
  split
  · exact h
  · exact .ite (.completeWith h) (.ite h (.goOn (.foldl (.modRing h) fun _ _ h1 => .hostStart h1)))

theorem Keeps.flush (h : Keeps s₀ s) {r : RingIx} {pos : ℕ} : Keeps s₀ (flush r pos s) := by
  unfold Machine.flush
  split
  · exact h
  · exact .ite (.completeWith h) (.completeWith (.dropHostLines h))

theorem Keeps.hostAtomic (h : Keeps s₀ s) {r : RingIx} {pos : ℕ} : Keeps s₀ (hostAtomic r pos s) := by
  unfold Machine.hostAtomic
  split
  · exact h
  · exact .ite (.completeWith h) (.ite (.completeWith h) (.hostStart (.begin h)))

theorem Keeps.syncSet (h : Keeps s₀ s) {r : RingIx} {pos : ℕ} : Keeps s₀ (syncSet r pos s) := by
  unfold Machine.syncSet
  split
  · exact h
  · exact .ite (.completeWith h) (.settle (.completeWith (.syncSetTo h)))

theorem Keeps.ticks (h : Keeps s₀ s) {r : RingIx} {pos : ℕ} : Keeps s₀ (ticks r pos s) := by
  unfold Machine.ticks
  split
  · exact h
  · exact .ite (.completeWith h) (.complete h)

theorem Keeps.tableSetup (h : Keeps s₀ s) {r : RingIx} {pos : ℕ} {ans : HostAns} : Keeps s₀ (tableSetup r pos ans s) := by
  unfold Machine.tableSetup
  split
  · exact h
  · exact .ite (.completeWith h)
      (.setupRead h (fun _ _ h1 => .ite (.completeWith h1) (.ite (.completeWith h1) (.completeWith (.setTable h1)))))

theorem Keeps.tableSwitch (h : Keeps s₀ s) {r : RingIx} {pos : ℕ} : Keeps s₀ (tableSwitch r pos s) := by
  unfold Machine.tableSwitch
  split
  · exact h
  · exact .ite (.completeWith h) (.ite (.completeWith h) (.ite (.completeWith h) (.ite h (.startSwitches (.with (.begin h))))))

theorem Keeps.othersDone (h : Keeps s₀ s) {scope : ℕ} : Keeps s₀ (s.othersDone scope).2 := by
  unfold State.othersDone
  split
  · exact h
  · exact .free h

theorem Keeps.tableRetire (h : Keeps s₀ s) {r : RingIx} {pos : ℕ} : Keeps s₀ (tableRetire r pos s) := by
  unfold Machine.tableRetire
  split
  · exact h
  · extract_lets _ _ s1
    have hs1 : Keeps s₀ s1 := .begin h
    split
    · exact .completeWith h
    · split
      · exact .completeWith h
      · split
        · exact .ite (.completeWith h) (.ite hs1 (.ite (.completeWith (.othersDone hs1)) (.othersDone hs1)))
        · exact .completeWith h

theorem Keeps.tableFree (h : Keeps s₀ s) {r : RingIx} {pos : ℕ} : Keeps s₀ (tableFree r pos s) := by
  unfold Machine.tableFree
  split
  · exact h
  · exact .ite (.completeWith h) (.ite (.completeWith h) (.ite h (.completeWith (.with (.setTable h)))))

theorem Keeps.graphSetup (h : Keeps s₀ s) {r : RingIx} {pos : ℕ} {ans : HostAns} : Keeps s₀ (graphSetup r pos ans s) := by
  unfold Machine.graphSetup
  split
  · exact h
  · exact .ite (.completeWith h)
      (.setupRead h (fun _ _ h1 => .ite (.completeWith h1) (.ite (.completeWith h1) (.completeWith (.setGraph h1)))))

theorem Keeps.graphDrain (h : Keeps s₀ s) {r : RingIx} {pos : ℕ} : Keeps s₀ (graphDrain r pos s) := by
  unfold Machine.graphDrain
  split
  · exact h
  · exact .ite (.completeWith h)
      (.ite (.completeWith h) (.ite (.modRing h) (.ite (.completeWith (.othersDone (.modRing h))) (.othersDone (.modRing h)))))

theorem Keeps.sweep (h : Keeps s₀ s) {r : RingIx} {pos : ℕ} : Keeps s₀ (sweep r pos s) := by
  unfold Machine.sweep
  split
  · exact h
  · extract_lets
    split
    · exact .completeWith h
    · exact .ite (.completeWith h) (.ite (.completeWith h) (.ite h (.runSweeps (.handOver (.with h)))))

theorem Keeps.graphFree (h : Keeps s₀ s) {r : RingIx} {pos : ℕ} : Keeps s₀ (graphFree r pos s) := by
  unfold Machine.graphFree
  split
  · exact h
  · exact .ite (.completeWith h) (.ite (.completeWith h) (.ite h (.completeWith (.with (.setGraph h)))))

/-! ### The acceptance of descriptors -/

theorem Keeps.descriptorAccept (h : Keeps s₀ s) {r : RingIx} : Keeps s₀ (descriptorAccept r s) := by
  unfold Machine.descriptorAccept
  extract_lets _ _ numbered accept
  have hnumbered : ∀ x0 x1, Keeps s₀ x0 → Keeps s₀ (numbered x0 x1).1 := by
    intro x0 x1 hx0
    unfold numbered
    split
    · exact hx0
    · exact .with hx0
  have haccept : ∀ x0 x1, Keeps s₀ x0 → Keeps s₀ (accept x0 x1) := fun _ _ hx0 => .modRing (.with hx0)
  split
  · exact h
  · split
    · exact h
    · split
      · exact .completeWith (haccept _ _ h)
      · split
        · exact .completeWith (haccept _ _ h)
        · split
          · exact h
          · split
            · next s1 _ e =>
              have h1 : Keeps s₀ s1 := .of_fst e (hnumbered _ _ h)
              extract_lets s2
              have hs2 : Keeps s₀ s2 := haccept _ _ h1
              split
              · split
                · exact .setSvc hs2
                · exact hs2
              · exact hs2

/-! ### Host ports -/

theorem Keeps.bar4Go (h : Keeps s₀ s) {x : PortIn} : Keeps s₀ (s.bar4Go x) := .ite (.with h) (.servePort h)

theorem Keeps.bar4Read (h : Keeps s₀ s) {p : PortIx} {off len : ℕ} : Keeps s₀ (bar4Read p off len s) := by
  unfold Machine.bar4Read
  extract_lets s1
  have hs1 : Keeps s₀ s1 := .dropLatch h
  split
  · exact h
  · split
    · exact .emit hs1
    · exact .ite (.emit (.accessLog hs1)) (.bar4Go hs1)

theorem Keeps.bar4Write (h : Keeps s₀ s) {p : PortIx} {off : ℕ} {data : Bytes} : Keeps s₀ (bar4Write p off data s) := by
  unfold Machine.bar4Write
  extract_lets s1
  have hs1 : Keeps s₀ s1 := .dropLatch h
  split
  · exact h
  · split
    · exact hs1
    · split
      · exact .accessLog hs1
      · exact .ite (.accessLog hs1) (.bar4Go hs1)

theorem Keeps.msixFlush (h : Keeps s₀ s) {p fn v : ℕ} : Keeps s₀ (s.msixFlush p fn v) := .ite (.msixSend (.modFnc h)) h

theorem Keeps.msixUnmaskOne (h : Keeps s₀ s) {p fn v : ℕ} : Keeps s₀ (s.msixUnmaskOne p fn v) := .ite h (.msixFlush (.modFnc h))

theorem Keeps.cfgWrite (h : Keeps s₀ s) {p fn : ℕ} {f : CfgField} {v : ℕ} : Keeps s₀ (s.cfgWrite p fn f v) := by
  unfold State.cfgWrite
  extract_lets _ set s1
  have hset : ∀ x0, Keeps s₀ (set x0) := fun _ => .modFnc h
  have hs1 : Keeps s₀ s1 := hset _
  split
  · exact hset _
  · exact hset _
  · exact hset _
  · exact hset _
  · exact .modPort (hset _)
  · exact hset _
  · exact .issuePages (hset _)
  · exact .foldl hs1 fun _ _ h1 => .msixFlush h1
  · exact .ite h (.ite (hset _) (.msixUnmaskOne h))
  · exact .ite (.modPort h) h
  · exact .ite (.modPort h) h
  · exact .ite (hset _) h
  · exact .ite (hset _) h
  · exact .ite (hset _) h
  · exact .ite (.modPort h) h
  · exact .ite (hset _) h
  · exact hset _
  · exact hset _
  · exact .ite (hset _) h
  · exact h
  · exact hset _

theorem Keeps.configRequest (h : Keeps s₀ s) {p : PortIx} {fn : FnIx} {q : CfgReq} : Keeps s₀ (configRequest p fn q s) := by
  unfold Machine.configRequest
  extract_lets s1
  have hs1 : Keeps s₀ s1 := .modPort h
  split
  · exact h
  · split
    · exact .emit h
    · split
      · exact h
      · split
        · exact .emit hs1
        · exact .goOn (.emit (.cfgWrite hs1))

theorem Keeps.busMasterEnableClear (h : Keeps s₀ s) {p : PortIx} {fn : FnIx} : Keeps s₀ (busMasterEnableClear p fn s) :=
  .ite (.pump (.modFnc h)) h

theorem Keeps.d3hot (h : Keeps s₀ s) {p : PortIx} {fn : FnIx} : Keeps s₀ (d3hot p fn s) := .ite (.pump (.modFnc h)) h

theorem Keeps.linkRetrain (h : Keeps s₀ s) {_p : PortIx} : Keeps s₀ (linkRetrain _p s) := h

theorem Keeps.msixUnmask (h : Keeps s₀ s) {p : PortIx} {fn : FnIx} {v : ℕ} : Keeps s₀ (msixUnmask p fn v s) :=
  .ite (.msixUnmaskOne h) h

theorem Keeps.atsInvalidation (h : Keeps s₀ s) {p : PortIx} {fn : FnIx} {pasid : Option (BitVec 20)} {page pages : ℕ} :
    Keeps s₀ (atsInvalidation p fn pasid page pages s) := .ite h (.settleInvals (.modPort h))

theorem Keeps.translationCompletion (h : Keeps s₀ s) {p : PortIx} {fn : FnIx} {pasid : Option (BitVec 20)} {page pages : ℕ}
    {ans : XlatAns} : Keeps s₀ (translationCompletion p fn pasid page pages ans s) :=
  .ite h (.ite (.goOn (.with (.modPort h))) (.goOn (.foldl (.with (.modPort h)) fun _ _ h1 => .accLost h1)))

theorem Keeps.pageRequestResponse (h : Keeps s₀ s) {p : PortIx} {fn : FnIx} {group : ℕ} {ans : PageAns} :
    Keeps s₀ (pageRequestResponse p fn group ans s) := by
  unfold Machine.pageRequestResponse
  split
  · exact h
  · extract_lets _ s' s'1 s'2 s'3
    have hs' : Keeps s₀ s' := .modPort h
    have hs'1 : Keeps s₀ s'1 := .modPort hs'
    have hs'2 : Keeps s₀ s'2 := .modFnc hs'1
    have hs'3 : Keeps s₀ s'3 := by
      unfold s'3
      split
      · exact .with hs'
      · exact .foldl hs' fun _ _ h1 => .accLost h1
      · exact .foldl hs'2 fun _ _ h1 => .accLost h1
    exact .goOn hs'3

theorem Keeps.faultTimeout (h : Keeps s₀ s) {p : PortIx} {acc : ℕ} : Keeps s₀ (faultTimeout p acc s) := by
  unfold Machine.faultTimeout
  split
  · exact h
  · exact .ite (.goOn (.foldl h fun _ _ h1 => .accLost h1)) (.ite (.goOn (.accLost h)) h)

theorem Keeps.hostReadCompletion (h : Keeps s₀ s) {p : PortIx} {acc : ℕ} {ans : HostAns} :
    Keeps s₀ (hostReadCompletion p acc ans s) := by
  unfold Machine.hostReadCompletion
  split
  · exact h
  · exact .ite h (.ite (.with h) (.goOn (.hostAnswer h)))

theorem Keeps.portDown (h : Keeps s₀ s) {p event : ℕ} : Keeps s₀ (s.portDown p event) := .modPort (.orphanPort (.modPort h))

theorem Keeps.dlDown (h : Keeps s₀ s) {p : PortIx} : Keeps s₀ (dlDown p s) := .ite (.portDown h) h

theorem Keeps.hotReset (h : Keeps s₀ s) {p : PortIx} : Keeps s₀ (hotReset p s) := .ite (.portDown h) h

theorem Keeps.perstAssert (h : Keeps s₀ s) {p : PortIx} : Keeps s₀ (perstAssert p s) :=
  .ite (.portDown (.modPort h)) (.modPort (.modPort h))

theorem Keeps.releasePort (h : Keeps s₀ s) {p : ℕ} : Keeps s₀ (s.releasePort p) := .modPort h

theorem Keeps.perstDeassert (h : Keeps s₀ s) {p : PortIx} : Keeps s₀ (perstDeassert p s) :=
  .ite (.releasePort (.modPort h)) (.modPort h)

theorem Keeps.dlUp (h : Keeps s₀ s) {t : Trained} : Keeps s₀ (dlUp t s) := .ite (.modPort h) h

theorem Keeps.flrPf (h : Keeps s₀ s) {p : PortIx} : Keeps s₀ (flrPf p s) := .ite h (.modPort (.orphanPort h))

theorem Keeps.flrVf (h : Keeps s₀ s) {p : PortIx} {vf : FnIx} : Keeps s₀ (flrVf p vf s) :=
  .ite h (.goOn (.modPort (.report (.orphanRings h))))

end Sys2Proof.Machine
end


section
/-! PROOFS. What every command keeps: the functions of the recovery, start-up, registers and the module. -/

namespace Sys2Proof.Machine

variable {s₀ s : State}

/-! ### Recovery answers -/

theorem Keeps.putSlots (h : Keeps s₀ s) {x : SlotState} : Keeps s₀ (s.putSlots x) := by
  unfold State.putSlots
  have hwritten (y : SlotState) : Keeps s₀
    { s with boot := { s.boot with slots := y }, bootFlash := s.bootFlash.writeBytes (slotCopy y.seq) y.bytes } :=
    .bootWrite (.with h)
  exact .ite h (hwritten _)

theorem Keeps.endSession (h : Keeps s₀ s) : Keeps s₀ s.endSession := .putSlots (.with h)

theorem Keeps.dropSession (h : Keeps s₀ s) : Keeps s₀ s.dropSession := .ite (.endSession h) h

theorem Keeps.cleared (h : Keeps s₀ s) {b : Boot} {ticks : ℕ} {logs : Tab Log} {mg : Mgmt} {pw : PowerCtl} :
    Keeps s₀ (s.cleared b ticks logs mg pw) := by
  obtain ⟨inv, rest⟩ := h
  refine ⟨fun hs => ?_, rest⟩
  obtain ⟨boot_wf, dmem_wf, -⟩ := inv hs
  exact ⟨boot_wf, Tab.wf_filter 0#8 _ _ dmem_wf, fun _ => rfl⟩

theorem Keeps.linksFall (h : Keeps s₀ s) : Keeps s₀ s.linksFall := .foldl h fun _ _ h1 => .ite (.emit (.modPort h1)) h1

theorem Keeps.restart (h : Keeps s₀ s) : Keeps s₀ s.restart := .cleared (.linksFall (.dropSession h))

theorem Keeps.noteRequest (h : Keeps s₀ s) {who grace : ℕ} : Keeps s₀ (s.noteRequest who grace) := .alert (.report h)

theorem Keeps.pfRequest (h : Keeps s₀ s) {p graceMs : ℕ} : Keeps s₀ (s.pfRequest p graceMs) :=
  .ite (.accessLog h) (.noteRequest (.ite (.modPort h) (.modPort (.modPort h))))

theorem Keeps.loseEscalated (h : Keeps s₀ s) {ps : List ℕ} : Keeps s₀ (s.loseEscalated ps) := .foldl h fun _ _ h1 => .lose h1

theorem Keeps.endRequests (h : Keeps s₀ s) {ps : List ℕ} : Keeps s₀ (s.endRequests ps) :=
  .loseEscalated (.foldl h fun _ _ h1 => .modPort h1)

theorem Keeps.pfAccess (h : Keeps s₀ s) {p : PortIx} {act : State → State} (hact : ∀ v, Keeps s₀ v → Keeps s₀ (act v)) :
    Keeps s₀ (s.pfAccess p act) := .ite (hact _ (.wholeWrite h)) h

theorem Keeps.resetRequest (h : Keeps s₀ s) {p : PortIx} : Keeps s₀ (resetRequest p s) := .pfAccess h (fun _ h1 => .pfRequest h1)

theorem Keeps.withdrawAll (h : Keeps s₀ s) : Keeps s₀ s.withdrawAll := .endRequests h

theorem Keeps.withdraw (h : Keeps s₀ s) {p : PortIx} : Keeps s₀ (withdraw p s) := .pfAccess h (fun _ h1 => .withdrawAll h1)

theorem Keeps.resetDeadline (h : Keeps s₀ s) : Keeps s₀ (resetDeadline s) :=
  .ite h (.ite (.ite (.with (.endRequests (.report h))) (.restart h)) (.ite (.restart h) (.endRequests h)))

theorem Keeps.deviceReset (h : Keeps s₀ s) : Keeps s₀ (deviceReset s) := .ite (.restart h) h

theorem Keeps.answerEvent (h : Keeps s₀ s) {e : HeldEvent} {answer : ℕ} : Keeps s₀ (s.answerEvent e answer) := .with (.logEvent h)

theorem Keeps.takeRung (h : Keeps s₀ s) {e : HeldEvent} : Keeps s₀ (s.takeRung e) :=
  .ite (.goOn (.ite (.modLink h) h)) (.goOn (.reinit h))

theorem Keeps.giveAnswer (h : Keeps s₀ s) {p answer : ℕ} {token : BitVec 16} : Keeps s₀ (s.giveAnswer p answer token) := by
  unfold State.giveAnswer
  split
  · exact .accessLog h
  · extract_lets s1
    have hs1 : Keeps s₀ s1 := .answerEvent h
    split
    · exact .accessLog h
    · split
      · exact .takeRung (.answerEvent h)
      · exact .ite (.ite (.goOn (.reinit (.answerEvent h))) (.pfRequest (.with hs1)))
          (.ite (.lose (.answerEvent h)) (.accessLog h))

theorem Keeps.proceed (h : Keeps s₀ s) {p : PortIx} {token : BitVec 16} : Keeps s₀ (proceed p token s) :=
  .pfAccess h (fun _ h1 => .giveAnswer h1)

theorem Keeps.escalate (h : Keeps s₀ s) {p : PortIx} {token : BitVec 16} : Keeps s₀ (escalate p token s) :=
  .pfAccess h (fun _ h1 => .giveAnswer h1)

theorem Keeps.abandon (h : Keeps s₀ s) {p : PortIx} {token : BitVec 16} : Keeps s₀ (abandon p token s) :=
  .pfAccess h (fun _ h1 => .giveAnswer h1)

theorem Keeps.answerTimeout (h : Keeps s₀ s) {token : BitVec 16} : Keeps s₀ (answerTimeout token s) := by
  unfold Machine.answerTimeout
  split
  · exact h
  · exact .ite (.takeRung (.answerEvent h)) h

theorem Keeps.halt (h : Keeps s₀ s) {thermal : Bool} {sensor : ℕ} {reading : BitVec 16} : Keeps s₀ (s.halt thermal sensor reading) :=
  .alert (.with (.linksFall (.logEvent h)))

theorem Keeps.warnSensor (h : Keeps s₀ s) {i : ℕ} {v : BitVec 16} : Keeps s₀ (s.warnSensor i v) :=
  .ite (.ite h (.alert (.report (.with h)))) (.with h)

theorem Keeps.sensorSample (h : Keeps s₀ s) {readings : List (BitVec 16)} : Keeps s₀ (sensorSample readings s) := by
  unfold Machine.sensorSample
  extract_lets _ s1
  have hs1 : Keeps s₀ s1 := .foldl (.with h) fun _ _ h1 => .warnSensor h1
  split
  · exact h
  · split
    · exact .ite hs1 (.halt hs1)
    · exact hs1

theorem Keeps.supplyFault (h : Keeps s₀ s) {mv : ℕ} : Keeps s₀ (supplyFault mv s) := .ite h (.ite (.with h) (.halt (.with h)))

/-! ### Start-up -/

theorem Keeps.readHeader (h : Keeps s₀ s) {slot : Bool} : Keeps s₀ (s.readHeader slot) := .with h

theorem Keeps.readImage (h : Keeps s₀ s) {slot : Bool} : Keeps s₀ (s.readImage slot) := .with h

theorem Keeps.verifyRead (h : Keeps s₀ s) {slot : Bool} : Keeps s₀ (s.verifyRead slot).2 := by
  unfold State.verifyRead
  extract_lets s1 s2
  have hs1 : Keeps s₀ s1 := .readHeader h
  have hs2 : Keeps s₀ s2 := .readImage hs1
  split
  · exact hs1
  · exact hs2

theorem Keeps.tryReads (h : Keeps s₀ s) {l : List Bool} : Keeps s₀ (s.tryReads l).2 := by
  induction l generalizing s with
  | nil => exact h
  | cons b l ih =>
    rw [State.tryReads]
    have hv : Keeps s₀ (s.verifyRead b).2 := .verifyRead h
    generalize s.verifyRead b = v at hv
    exact .iteSnd hv (ih hv)

theorem Keeps.stageTo (h : Keeps s₀ s) {next : Stage} : Keeps s₀ (s.stageTo next) := .with h

theorem Keeps.stageEnd (h : Keeps s₀ s) : Keeps s₀ s.stageEnd := .stageTo h

theorem Keeps.stageLog (h : Keeps s₀ s) {info1 : ℕ} : Keeps s₀ (s.stageLog info1) := .report h

theorem Keeps.stageFails (h : Keeps s₀ s) : Keeps s₀ s.stageFails := .with h

theorem Keeps.toRecovery (h : Keeps s₀ s) {info1 : ℕ} : Keeps s₀ (s.toRecovery info1) :=
  .stageTo (.with (.stageFails (.stageLog h)))

theorem Keeps.loseUnits (h : Keeps s₀ s) {us : List FnUnit} : Keeps s₀ (s.loseUnits us) :=
  .foldl h fun _ _ h1 => .lose (.stageFails h1)

theorem Keeps.wakeEnd (h : Keeps s₀ s) : Keeps s₀ s.wakeEnd := .ite (.with h) h

theorem Keeps.verify (h : Keeps s₀ s) : Keeps s₀ (verify s) := by
  unfold Machine.verify
  extract_lets s1 _ _ s2 t s3 _ s4 s5 _ s6
  have hs1 : Keeps s₀ s1 := .ite (.wakeEnd h) h
  have hs2 : Keeps s₀ s2 := .with hs1
  have ht : Keeps s₀ t.2 := .tryReads hs2
  have hs3 : Keeps s₀ s3 := ht
  have hs4 : Keeps s₀ s4 := .ite (.stageLog hs3) hs3
  have hs5 : Keeps s₀ s5 := .putSlots hs4
  have hs6 : Keeps s₀ s6 := .with hs5
  split
  · exact hs1
  · split
    · exact .toRecovery hs6
    · exact .ite (.toRecovery hs6) (.stageEnd (.with hs6))

theorem Keeps.clocksEnd (h : Keeps s₀ s) {failed : Failed} : Keeps s₀ (s.clocksEnd failed) := by
  unfold State.clocksEnd
  extract_lets s1 s2
  have hs1 : Keeps s₀ s1 := .foldl h fun _ _ h1 => .logEvent h1
  have hs2 : Keeps s₀ s2 := .loseUnits hs1
  exact .ite (.toRecovery hs1) (.stageEnd (.foldl hs2 fun _ _ h1 => .linkGone h1))

theorem Keeps.clocks (h : Keeps s₀ s) {failed : Failed} : Keeps s₀ (clocks failed s) := .ite (.clocksEnd h) h

theorem Keeps.bridgesEnd (h : Keeps s₀ s) {failed : Failed} : Keeps s₀ (s.bridgesEnd failed) := .stageEnd (.loseUnits h)

theorem Keeps.bridges (h : Keeps s₀ s) {failed : Failed} : Keeps s₀ (bridges failed s) := .ite (.bridgesEnd h) h

theorem Keeps.memoriesEnd (h : Keeps s₀ s) {failed : Failed} : Keeps s₀ (s.memoriesEnd failed) := .stageEnd (.loseUnits h)

theorem Keeps.memories (h : Keeps s₀ s) {failed : Failed} : Keeps s₀ (memories failed s) := .ite (.memoriesEnd h) h

theorem Keeps.flashEnd (h : Keeps s₀ s) {failed : Failed} : Keeps s₀ (s.flashEnd failed) :=
  .linksBegin (.stageEnd (.foldl h fun _ _ h1 => .with (.stageFails (.stageLog h1))))

theorem Keeps.flash (h : Keeps s₀ s) {failed : Failed} : Keeps s₀ (flash failed s) := .ite (.flashEnd h) h

theorem Keeps.linksEnd (h : Keeps s₀ s) {failed : Failed} : Keeps s₀ (s.linksEnd failed) :=
  .stageEnd (.foldl h fun _ _ h1 => .linkGone h1)

theorem Keeps.links (h : Keeps s₀ s) {failed : Failed} : Keeps s₀ (links failed s) := .ite (.linksEnd h) h

theorem Keeps.releaseEnd (h : Keeps s₀ s) : Keeps s₀ s.releaseEnd :=
  .foldl (.stageEnd (.with h)) fun _ _ h1 => .ite h1 (.releasePort h1)

theorem Keeps.releaseStage (h : Keeps s₀ s) : Keeps s₀ (Machine.release s) := .ite (.releaseEnd h) h

theorem Keeps.stageResult (h : Keeps s₀ s) {units : Failed} : Keeps s₀ (s.stageResult units) := by
  unfold State.stageResult
  split
  · exact .toRecovery h
  · exact .toRecovery h
  · exact .clocksEnd h
  · exact .bridgesEnd h
  · exact .memoriesEnd h
  · exact .flashEnd h
  · exact .linksEnd h
  · exact .releaseEnd (.loseUnits h)
  · exact h
  · exact h

theorem Keeps.stageTimeout (h : Keeps s₀ s) {units : Failed} : Keeps s₀ (stageTimeout units s) := .ite h (.stageResult h)

theorem Keeps.fwAnswer (h : Keeps s₀ s) {who : Requester} {status : ℕ} : Keeps s₀ (s.fwAnswer who status) := by
  unfold State.fwAnswer
  split
  · exact .raiseErr (.modPort h)
  · exact .emit (.with h)

theorem Keeps.fwMailbox (h : Keeps s₀ s) {p : PortIx} {word : ℕ} {act : State → ℕ × State}
    (hact : ∀ v, Keeps s₀ v → Keeps s₀ (act v).2) : Keeps s₀ (s.fwMailbox p word act) := by
  unfold State.fwMailbox
  split
  · exact .ite (.ite (.fwAnswer (hact _ h)) h) (.ite (.accessLog (.wholeWrite h)) h)
  · exact .ite (.fwAnswer (hact _ (.wholeWrite h))) h

theorem Keeps.fwTransfer (h : Keeps s₀ s) {x : MgXfer} {ends : Bool} {word : ℕ} {data : Bytes} {act : State → ℕ × State}
    (hact : ∀ v, Keeps s₀ v → Keeps s₀ (act v).2) : Keeps s₀ (s.fwTransfer x ends word data act) :=
  .ite h (.ite (.emit h) (.ite (.emit h) (.ite (.fwAnswer (hact _ h)) (.ite (.emit h) (.with h)))))

theorem Keeps.fwDo (h : Keeps s₀ s) {who : Requester} {word : ℕ} {data : Bytes} {act : State → ℕ × State}
    (hact : ∀ v, Keeps s₀ v → Keeps s₀ (act v).2) : Keeps s₀ (s.fwDo who word data act) := by
  unfold State.fwDo
  split
  · exact .fwMailbox h (fun _ h1 => hact _ h1)
  · exact .fwTransfer h (fun _ h1 => hact _ h1)

theorem Keeps.atFw (h : Keeps s₀ s) {who : Requester} {i : Instr} {act : State → State}
    (hact : ∀ v, Keeps s₀ v → Keeps s₀ (act v)) : Keeps s₀ (s.atFw who i act) := by
  unfold State.atFw
  split
  · exact .ite (hact _ h) (.atBar h (fun _ h1 => hact _ h1))
  · exact hact _ h

theorem Keeps.fwOpen (h : Keeps s₀ s) {who : Requester} : Keeps s₀ (fwOpen who s) := by
  unfold Machine.fwOpen
  refine .fwDo h (fun _ h1 => ?_)
  extract_lets
  split
  · exact h1
  · exact .with h1

theorem Keeps.inSession (h : Keeps s₀ s) {who : Requester} {act : State → ℕ × State} (hact : ∀ v, Keeps s₀ v → Keeps s₀ (act v).2)
    : Keeps s₀ (s.inSession who act).2 := by
  unfold State.inSession
  split
  · exact hact _ h
  · exact h

theorem Keeps.fwWrite (h : Keeps s₀ s) {who : Requester} {off len : ℕ} {data : Bytes} :
    Keeps s₀ (Machine.fwWrite who off len data s) := .fwDo h fun _ h1 => .iteSnd h1 (.inSession h1 fun _ h2 => .bootWrite h2)

theorem Keeps.fwClose (h : Keeps s₀ s) {who : Requester} : Keeps s₀ (Machine.fwClose who s) := by
  refine .fwDo h fun _ h1 => .inSession h1 fun s2 h2 => ?_
  extract_lets slot v s3 x y
  have hs3 : Keeps s₀ s3 := .verifyRead h2
  clear_value y x s3 v
  exact .iteSnd (.putSlots (.with hs3)) (.endSession hs3)

theorem Keeps.fwAbort (h : Keeps s₀ s) {who : Requester} : Keeps s₀ (fwAbort who s) :=
  .fwDo h (fun _ h1 => .inSession h1 (fun _ h2 => .endSession h2))

theorem Keeps.fwCommit (h : Keeps s₀ s) {who : Requester} : Keeps s₀ (Machine.fwCommit who s) := by
  refine .fwDo h fun s1 h1 => ?_
  have hblown : Keeps s₀
    { s1 with fuses := { s1.fuses with svn := blowTo s1.fuses.svn s1.boot.svn }, boot := { s1.boot with trial := false } } :=
    .with (Keeps.blow h1)
  exact .iteSnd h1 (.putSlots hblown)

theorem Keeps.blowPartly (h : Keeps s₀ s) : Keeps s₀ s.blowPartly := .ite (.with (.blow h)) h

/-! ### Set-up registers -/

theorem Keeps.sampled (h : Keeps s₀ s) {p o : ℕ} : Keeps s₀ (s.sampled p o).2 := by
  unfold State.sampled
  extract_lets
  split
  · split
    · exact h
    · split
      · exact .modPort h
      · split
        · exact h
        · exact h
  · exact h

theorem Keeps.barWord (h : Keeps s₀ s) {p fn : ℕ} {doors : Bool} {o : ℕ} : Keeps s₀ (s.barWord p fn doors o).2 := by
  unfold State.barWord
  split
  · exact h
  · split
    · exact .sampled h
    · exact h

theorem Keeps.splitRead (h : Keeps s₀ s) {p : PortIx} {fn : FnIx} {doors : Bool} {off size : ℕ} :
    Keeps s₀ (splitRead p fn doors off size s) := by
  unfold Machine.splitRead
  extract_lets _ latch s1 give _ q
  have hs1 : Keeps s₀ s1 := .ite (.dropLatch h) h
  have hgive : ∀ x0 x1, Keeps s₀ x0 → Keeps s₀ (give x0 x1) := fun _ _ hx0 => .emit hx0
  have hq : Keeps s₀ q.2 := .barWord hs1
  split
  · split
    · exact h
    · split
      · exact hgive _ _ (.accessLog hs1)
      · split
        · exact hgive _ _ hq
        · split
          · exact hgive _ _ (.ite (.modPort hq) hq)
          · clear_value latch
            split
            · exact hgive _ _ hs1
            · exact hgive _ _ hs1
  · split
    · exact h
    · split
      · exact hgive _ _ (.accessLog hs1)
      · split
        · exact hgive _ _ hq
        · split
          · exact hgive _ _ (.ite (.modPort hq) hq)
          · clear_value latch
            split
            · exact hgive _ _ hs1
            · exact hgive _ _ hs1

theorem Keeps.streamWindowRead (h : Keeps s₀ s) {p : PortIx} {st : StreamIx} : Keeps s₀ (streamWindowRead p st s) :=
  .ite h (.emit (.sampled (.dropLatch h)))

theorem Keeps.linksLocked (h : Keeps s₀ s) : Keeps s₀ s.linksLocked := .with h

theorem Keeps.lockRequest (h : Keeps s₀ s) {p : ℕ} : Keeps s₀ (s.lockRequest p) := by
  unfold State.lockRequest
  split
  · exact .ite (.with h) h
  · split
    · exact .ite (.with h) (.logEvent (.with h))
    · exact .linksLocked (.with h)

theorem Keeps.writeGpio (h : Keeps s₀ s) {p v : ℕ} : Keeps s₀ (s.writeGpio p v) :=
  .ite (.accessLog h) (.foldl (.setReg h) fun _ _ h1 => .ite (.claimConflict h1) (.ite (.claimConflict h1) (.setReg h1)))

theorem Keeps.flushErr (h : Keeps s₀ s) {p : ℕ} : Keeps s₀ (s.flushErr p) := .ite (.raiseErr (.modPort h)) h

theorem Keeps.writeErrMod (h : Keeps s₀ s) {p v : ℕ} : Keeps s₀ (s.writeErrMod p v) :=
  .ite (.accessLog h) (.ite (.ite (.claimConflict h) (.modPort (.setReg h))) (.ite (.setReg h) (.flushErr (.setReg h))))

theorem Keeps.writePortCtrl (h : Keeps s₀ s) {p mask v : ℕ} : Keeps s₀ (s.writePortCtrl p mask v) := by
  unfold State.writePortCtrl
  extract_lets _ _ _ _ _ s1 s2 s3
  have hs1 : Keeps s₀ s1 := .setReg h
  have hs2 : Keeps s₀ s2 := .ite (.modPort hs1) hs1
  have hs3 : Keeps s₀ s3 := .ite (.modPort hs2) hs2
  exact .ite (.accessLog h) (.ite (.claimConflict h) (.ite (.issuePages (.modPort hs3)) hs3))

theorem Keeps.lockViolation (h : Keeps s₀ s) {o v : ℕ} : Keeps s₀ (s.lockViolation o v) := .report h

theorem Keeps.linkSwitch (h : Keeps s₀ s) {l : ℕ} : Keeps s₀ (s.linkSwitch l) := .modLink h

theorem Keeps.writeDev (h : Keeps s₀ s) {p o mask v : ℕ} : Keeps s₀ (s.writeDev p o mask v) :=
  .ite h (.ite (.lockViolation h) (.ite (.linkSwitch (.setReg h)) (.ite (.setReg h) (.accessLog h))))

theorem Keeps.writeAssign (h : Keeps s₀ s) {p o mask v : ℕ} : Keeps s₀ (s.writeAssign p o mask v) :=
  .ite h (.ite (.setReg h) (.accessLog h))

theorem Keeps.popLog (h : Keeps s₀ s) {p k : ℕ} : Keeps s₀ (s.popLog p k) := .setLog h

theorem Keeps.writeRing (h : Keeps s₀ s) {p : PortIx} {fn : FnIx} {r : RingIx} {w mask v : ℕ} :
    Keeps s₀ (s.writeRing p fn r w mask v) :=
  .ite (.ite (.modRing h) (.ringAccess h)) (.ite (.ite (.ringAccess h) (.ite (.ringEnable h) (.ite (.ringDisable h) h))) h)

theorem Keeps.mailbox (h : Keeps s₀ s) {p : PortIx} {v : ℕ} : Keeps s₀ (s.mailbox p v) :=
  .ite (.accessLog h) (.ite (.modPort h) (.fwAnswer h))

theorem Keeps.writeTierH (h : Keeps s₀ s) {p o mask v : ℕ} : Keeps s₀ (s.writeTierH p o mask v) :=
  .ite (.lockViolation h) (.ite (.accessLog h) (.ite (.ite (.claimConflict h) (.setReg h)) (.setReg h)))

theorem Keeps.regWrite (h : Keeps s₀ s) {p : PortIx} {o mask v : ℕ} : Keeps s₀ (s.regWrite p o mask v) := by
  unfold State.regWrite
  extract_lets act port s1 b k s2 s3
  have hs1 : Keeps s₀ s1 := .ite (.with h) h
  have hs3 : Keeps s₀ s3 := .ite (.withdrawAll (.setReg h)) (.setReg h)
  refine .ite (.ite (.lockRequest hs1) hs1)
    (.ite (.writeDev h) (.ite (.writePortCtrl h) (.ite (.ite (.accessLog h) (.setReg h)) ?_)))
  refine .ite (.writeTierH h) (.ite (.ite (.setReg h) (.accessLog h)) (.ite (.writeGpio h) (.ite (.ite (.modPort h) h) ?_)))
  refine .ite (.writeErrMod h) (.ite (.ite (.giveAnswer h) h) (.ite (.ite (.pfRequest hs3) hs3) (.ite (.ite (.mailbox h) h) ?_)))
  refine .ite (.ite (.modPort h) h)
    (.ite (.ite (.accessLog h) (.modPort h)) (.ite (.writeAssign h) (.ite (.ite (.popLog h) h) ?_)))
  split
  · exact .writeRing h
  · exact h

theorem Keeps.vfWrite (h : Keeps s₀ s) {p : PortIx} {fn : FnIx} {o mask v : ℕ} : Keeps s₀ (s.vfWrite p fn o mask v) := by
  unfold State.vfWrite
  extract_lets
  split
  · split
    · split
      · exact .writeRing h
      · exact h
    · exact h
  · split
    · split
      · exact .setLog h
      · exact h
    · exact h

theorem Keeps.anyWrite (h : Keeps s₀ s) {p : PortIx} {fn : FnIx} {o mask v : ℕ} : Keeps s₀ (s.anyWrite p fn o mask v) :=
  .ite (.regWrite h) (.vfWrite h)

theorem Keeps.doorWrite (h : Keeps s₀ s) {p : PortIx} {fn : FnIx} {off size : ℕ} {v : BitVec 32} :
    Keeps s₀ (doorWrite p fn off size v s) := by
  unfold Machine.doorWrite
  split
  · exact .ite (.sqTail h) (.ite (.cqHead h) (.doorbell h (fun _ _ h1 => .ringAccess h1)))
  · exact h

theorem Keeps.heldWrite (h : Keeps s₀ s) {p : PortIx} {fn : FnIx} {off mask v : ℕ} : Keeps s₀ (s.heldWrite p fn off mask v) :=
  .ite (.anyWrite h) (.accessLog h)

theorem Keeps.registerWrite (h : Keeps s₀ s) {p : PortIx} {fn : FnIx} {doors : Bool} {off size : ℕ} {v : Word} :
    Keeps s₀ (registerWrite p fn doors off size v s) := by
  unfold Machine.registerWrite
  extract_lets s1 s'
  have hs1 : Keeps s₀ s1 := .ite (.dropLatch h) h
  have hs' : Keeps s₀ s' := .setHalf hs1
  split
  · exact .ite h (.doorWrite h)
  · split
    · exact h
    · split
      · exact .accessLog hs1
      · split
        · exact .heldWrite (.setHalf hs1)
        · split
          · exact .setHalf (.ite hs1 (.accessLog hs1))
          · split
            · exact .ite (.heldWrite hs') (.heldWrite hs')
            · exact .heldWrite hs'

theorem Keeps.pfWrite (h : Keeps s₀ s) {p : PortIx} {o mask v : ℕ} : Keeps s₀ (s.pfWrite p o mask v) :=
  .ite (.regWrite (.wholeWrite h)) h

theorem Keeps.setupLockRequest (h : Keeps s₀ s) {p : PortIx} : Keeps s₀ (setupLockRequest p s) := .pfWrite h

theorem Keeps.serviceEn (h : Keeps s₀ s) {p : PortIx} : Keeps s₀ (serviceEn p s) := .pfWrite h

theorem Keeps.testEn (h : Keeps s₀ s) {p : PortIx} {v : Bool} : Keeps s₀ (testEn p v s) := .pfWrite h

theorem Keeps.priReset (h : Keeps s₀ s) {p : PortIx} : Keeps s₀ (priReset p s) := .pfWrite h

theorem Keeps.bar4Wbuf (h : Keeps s₀ s) {p : PortIx} : Keeps s₀ (bar4Wbuf p s) := .pfWrite h

theorem Keeps.tierHEnable (h : Keeps s₀ s) {p : PortIx} : Keeps s₀ (tierHEnable p s) := .pfWrite h

theorem Keeps.alertEn (h : Keeps s₀ s) {p : PortIx} {pin : Fin 4} : Keeps s₀ (alertEn p pin s) := .pfWrite h

theorem Keeps.tmarkEn (h : Keeps s₀ s) {p : PortIx} {pin : Fin 4} {timer : BitVec 10} {log2 : BitVec 6} :
    Keeps s₀ (tmarkEn p pin timer log2 s) := .pfWrite h

theorem Keeps.trigEn (h : Keeps s₀ s) {p : PortIx} {pin : Fin 4} : Keeps s₀ (trigEn p pin s) := .pfWrite h

theorem Keeps.modEn (h : Keeps s₀ s) {p : PortIx} {timer : BitVec 10} {modTicks : BitVec 16} : Keeps s₀ (modEn p timer modTicks s) :=
  .pfWrite h

theorem Keeps.vfAssign (h : Keeps s₀ s) {p : PortIx} {vf : FnIx} {word : Fin 5} {v : Word} : Keeps s₀ (vfAssign p vf word v s) :=
  .ite h (.pfWrite h)

theorem Keeps.logPop (h : Keeps s₀ s) {p : PortIx} {window : Fin 23} : Keeps s₀ (logPop p window s) := .pfWrite h

theorem Keeps.timeMark (h : Keeps s₀ s) {p : PortIx} : Keeps s₀ (timeMark p s) := .ite (.emit h) h

theorem Keeps.traceTrigger (h : Keeps s₀ s) {p : PortIx} : Keeps s₀ (traceTrigger p s) := .ite (.modPort h) h

theorem Keeps.errModInterval (h : Keeps s₀ s) {p : PortIx} : Keeps s₀ (errModInterval p s) := .ite (.flushErr h) h

/-! ### The module -/

theorem Keeps.setCauses (h : Keeps s₀ s) {c : BitVec 5} : Keeps s₀ (s.setCauses c) := .ite (.emit (.with h)) (.with h)

theorem Keeps.mgDo (h : Keeps s₀ s) {x : MgXfer} {jinal : Bool} {act : State → ℕ × Bytes × State}
    (hact : ∀ v, Keeps s₀ v → Keeps s₀ (act v).2.2) : Keeps s₀ (s.mgDo x jinal act) :=
  .ite h (.ite (.emit h) (.ite (.emit h) (.emit (hact _ h))))

theorem Keeps.mgmtIdent (h : Keeps s₀ s) {x : MgXfer} : Keeps s₀ (mgmtIdent x s) := .mgDo h (fun _ h1 => h1)

theorem Keeps.bootStateCmd (h : Keeps s₀ s) {x : MgXfer} : Keeps s₀ (bootStateCmd x s) := .mgDo h (fun _ h1 => h1)

theorem Keeps.mgmtTicks (h : Keeps s₀ s) {x : MgXfer} : Keeps s₀ (mgmtTicks x s) := .mgDo h (fun _ h1 => h1)

theorem Keeps.temps (h : Keeps s₀ s) {x : MgXfer} {group : ℕ} : Keeps s₀ (temps x group s) := by
  unfold Machine.temps
  refine .mgDo h (fun _ h1 => ?_)
  split
  · exact h1
  · exact h1

theorem Keeps.power (h : Keeps s₀ s) {x : MgXfer} : Keeps s₀ (power x s) := .mgDo h (fun _ h1 => .frees h1)

theorem Keeps.haltState (h : Keeps s₀ s) {x : MgXfer} : Keeps s₀ (haltState x s) := .mgDo h (fun _ h1 => h1)

theorem Keeps.logRecent (h : Keeps s₀ s) {x : MgXfer} {index : ℕ} : Keeps s₀ (logRecent x index s) := by
  unfold Machine.logRecent
  refine .mgDo h (fun _ h1 => ?_)
  split
  · exact h1
  · split
    · exact h1
    · exact h1

theorem Keeps.alertStatus (h : Keeps s₀ s) {x : MgXfer} : Keeps s₀ (alertStatus x s) := .mgDo h (fun _ h1 => .setCauses h1)

theorem Keeps.cables (h : Keeps s₀ s) {x : MgXfer} {lc : ℕ} : Keeps s₀ (cables x lc s) := by
  unfold Machine.cables
  refine .mgDo h (fun _ h1 => ?_)
  split
  · exact h1
  · split
    · exact h1
    · exact h1

theorem Keeps.resetReq (h : Keeps s₀ s) {x : MgXfer} {graceMs : ℕ} : Keeps s₀ (Machine.resetReq x graceMs s) := by
  refine .mgDo h fun _ h1 => ?_
  split
  · exact h1
  · split
    · exact .report h1
    · exact .noteRequest (.with h1)

theorem Keeps.resetWithdraw (h : Keeps s₀ s) {x : MgXfer} : Keeps s₀ (resetWithdraw x s) := .mgDo h (fun _ h1 => .with h1)

theorem Keeps.powerOff (h : Keeps s₀ s) : Keeps s₀ s.powerOff :=
  .ite (.emit (.cleared (.linksFall (.dropSession (.blowPartly h))))) (.cleared (.linksFall (.dropSession (.blowPartly h))))

theorem Keeps.powerCycle (h : Keeps s₀ s) {x : MgXfer} {offSeconds : ℕ} : Keeps s₀ (powerCycle x offSeconds s) := by
  unfold Machine.powerCycle
  refine .mgDo h (fun _ h1 => ?_)
  extract_lets s1
  have hs1 : Keeps s₀ s1 := .powerOff h1
  split
  · exact h1
  · exact .with hs1

theorem Keeps.powerStatus (h : Keeps s₀ s) {x : MgXfer} : Keeps s₀ (powerStatus x s) := .mgDo h (fun _ h1 => h1)

theorem Keeps.powerOn (h : Keeps s₀ s) : Keeps s₀ (powerOn s) := .ite (.with h) (.ite h (.with h))

theorem Keeps.railFault (h : Keeps s₀ s) {order : ℕ} : Keeps s₀ (railFault order s) := .ite (.alert (.with h)) h

theorem Keeps.powerGood (h : Keeps s₀ s) : Keeps s₀ (powerGood s) := .ite (.with h) h

theorem Keeps.pwrEnLow (h : Keeps s₀ s) : Keeps s₀ (pwrEnLow s) := .with (.ite (.powerOff h) h)

theorem Keeps.vinLoss (h : Keeps s₀ s) : Keeps s₀ (vinLoss s) := .with (.ite (.powerOff h) h)

theorem Keeps.powerCycleOffTime (h : Keeps s₀ s) : Keeps s₀ (powerCycleOffTime s) := .ite (.with h) h

theorem Keeps.standbySupplyUp (h : Keeps s₀ s) {mv : ℕ} : Keeps s₀ (standbySupplyUp mv s) := .ite h (.with h)

theorem Keeps.connectorChanged (h : Keeps s₀ s) {lc : ℕ} : Keeps s₀ (s.connectorChanged lc) := .foldl h fun _ _ h1 => .modLink h1

theorem Keeps.cprsntChange (h : Keeps s₀ s) {lc : Fin 9} {present : Bool} {lengthCm : ℕ} {part : Bytes} :
    Keeps s₀ (cprsntChange lc present lengthCm part s) := .alert (.connectorChanged (.with h))

theorem Keeps.alertResponseAddress (h : Keeps s₀ s) : Keeps s₀ (alertResponseAddress s) := .ite (.emit h) h

theorem Keeps.dynamicAddressAssignment (h : Keeps s₀ s) {addr : BitVec 7} : Keeps s₀ (dynamicAddressAssignment addr s) :=
  .ite (.with h) h

/-! ### SPDM attestation -/

theorem Keeps.atDoe (h : Keeps s₀ s) {r : SpdmReq} {i : SpdmCmd} {act : State → State} (hact : ∀ v, Keeps s₀ v → Keeps s₀ (act v))
    : Keeps s₀ (s.atDoe r i act) := by
  unfold State.atDoe
  split
  · exact .access h (fun _ h1 => hact _ h1)
  · exact hact _ h

theorem Keeps.spdmError (h : Keeps s₀ s) {r : SpdmReq} {code data : ℕ} : Keeps s₀ (s.spdmError r code data) := .emit h

theorem Keeps.spdmSet (h : Keeps s₀ s) {r : SpdmReq} {v : Spdm} : Keeps s₀ (s.spdmSet r v) := .with h

theorem Keeps.spdmAnswer (h : Keeps s₀ s) {r : SpdmReq} {v : Spdm} {msg : Bytes} : Keeps s₀ (s.spdmAnswer r v msg) :=
  .emit (.spdmSet h)

theorem Keeps.spdmDo (h : Keeps s₀ s) {r : SpdmReq} {need : ℕ → Bool} {act : State → State}
    (hact : ∀ v, Keeps s₀ v → Keeps s₀ (act v)) : Keeps s₀ (s.spdmDo r need act) :=
  .ite h (.ite (.spdmError h) (.ite (hact _ h) (.spdmError h)))

theorem Keeps.freeBytes32 (h : Keeps s₀ s) : Keeps s₀ s.freeBytes32.2 := .frees h

theorem Keeps.getVersion (h : Keeps s₀ s) {r : SpdmReq} : Keeps s₀ (getVersion r s) := .ite (.spdmAnswer h) h

theorem Keeps.getCapabilities (h : Keeps s₀ s) {r : SpdmReq} : Keeps s₀ (getCapabilities r s) :=
  .spdmDo h (fun _ h1 => .spdmAnswer (.frees h1))

theorem Keeps.negotiateAlgorithms (h : Keeps s₀ s) {r : SpdmReq} : Keeps s₀ (negotiateAlgorithms r s) :=
  .spdmDo h (fun _ h1 => .spdmAnswer h1)

theorem Keeps.getDigests (h : Keeps s₀ s) {r : SpdmReq} : Keeps s₀ (getDigests r s) := .spdmDo h (fun _ h1 => .spdmAnswer h1)

theorem Keeps.getCertificate (h : Keeps s₀ s) {r : SpdmReq} {slot off len : ℕ} : Keeps s₀ (getCertificate r slot off len s) :=
  .spdmDo h (fun _ h1 => .ite (.spdmError h1) (.spdmAnswer h1))

theorem Keeps.challenge (h : Keeps s₀ s) {r : SpdmReq} {slot : ℕ} {nonce : Bytes} : Keeps s₀ (challenge r slot nonce s) := by
  unfold Machine.challenge
  refine .spdmDo h (fun _ h1 => ?_)
  split
  · exact .spdmError h1
  · extract_lets n _ _ _ v
    have hn : Keeps s₀ n.2 := .freeBytes32 h1
    have hv : Keeps s₀ v := hn
    split
    · exact .spdmError h1
    · exact .spdmAnswer (.with hv)

theorem Keeps.getMeasurements (h : Keeps s₀ s) {r : SpdmReq} {slot index : ℕ} {nonce : Bytes} :
    Keeps s₀ (getMeasurements r slot index nonce s) :=
  .spdmDo h (fun _ h1 => .ite (.spdmError h1) (.ite (.spdmAnswer (.with (.freeBytes32 h1))) (.spdmAnswer (.freeBytes32 h1))))

theorem Keeps.spdmUnsupported (h : Keeps s₀ s) {r : SpdmReq} {code : Byte} : Keeps s₀ (spdmUnsupported r code s) :=
  .spdmDo h (fun _ h1 => .spdmError h1)

/-! ### Accesses that waited for a restart -/

theorem Keeps.hostAccess {s : State} (h : Keeps s₀ s) {i : Instr} : Keeps s₀ (Machine.hostAccess i s) := by
  unfold Machine.hostAccess
  split
  · exact .setupLockRequest h
  · exact .serviceEn h
  · exact .testEn h
  · exact .priReset h
  · exact .bar4Wbuf h
  · exact .tierHEnable h
  · exact .alertEn h
  · exact .tmarkEn h
  · exact .trigEn h
  · exact .modEn h
  · exact .vfAssign h
  · exact .logPop h
  · exact .splitRead h
  · exact .streamWindowRead h
  · exact .registerWrite h
  · exact .sqTail h
  · exact .cqHead h
  · exact .ringEnable h
  · exact .ringDisable h
  · exact .configRequest h
  · exact .atsInvalidation h
  · exact .translationCompletion h
  · exact .pageRequestResponse h
  · exact .flrPf h
  · exact .flrVf h
  · exact .busMasterEnableClear h
  · exact .d3hot h
  · exact .msixUnmask h
  · exact .proceed h
  · exact .escalate h
  · exact .abandon h
  · exact .resetRequest h
  · exact .withdraw h
  · exact .fwOpen h
  · exact .fwWrite h
  · exact .fwClose h
  · exact .fwAbort h
  · exact .fwCommit h
  · exact .bar4Read h
  · exact .bar4Write h
  · exact h

theorem Keeps.spdmAccess (h : Keeps s₀ l1) {l0 : SpdmCmd} : Keeps s₀ (spdmAccess l0 l1) := by
  unfold Machine.spdmAccess
  split
  · exact .getVersion h
  · exact .getCapabilities h
  · exact .negotiateAlgorithms h
  · exact .getDigests h
  · exact .getCertificate h
  · exact .challenge h
  · exact .getMeasurements h
  · exact .spdmUnsupported h

theorem Keeps.portsResume (h : Keeps s₀ s) : Keeps s₀ s.portsResume := by
  unfold State.portsResume
  refine .foldl (.with h) fun _ _ h1 => ?_
  split
  · split
    · exact .with h1
    · exact .hostAccess h1
  · split
    · exact .with h1
    · exact .spdmAccess h1
  · split
    · exact .with h1
    · exact .servePort h1

theorem Keeps.reinitComplete (h : Keeps s₀ s) {u : FnUnit} {ok : Bool} : Keeps s₀ (reinitComplete u ok s) :=
  .ite h (.ite (.lose h) (.goOn (.foldl (.portsResume (.setUnitSt h)) fun _ _ h1 => .restore h1)))

/-! ### Starts of items -/

theorem Keeps.preempt (h : Keeps s₀ s) {c : ℕ} : Keeps s₀ (s.preempt c) := by
  unfold State.preempt
  refine .modCore h fun _ hk => ?_
  split
  · exact .with hk
  · exact hk

theorem Keeps.startItem (h : Keeps s₀ s) {id : ItemId} {c : ℕ} : Keeps s₀ (s.startItem id c) := by
  unfold State.startItem
  split
  · exact .with (.foldl (.with (.modItem (.modCore (.ite (.preempt h) (.loadCode (.preempt h)))))) fun _ _ h1 => .modItem h1)
  · exact h

theorem Keeps.itemStart (h : Keeps s₀ s) : Keeps s₀ (itemStart s) := by
  unfold Machine.itemStart
  extract_lets s1
  have hs1 : Keeps s₀ s1 := .settle h
  split
  · exact h
  · split
    · exact .restoreAll hs1
    · exact .restoreAll (.startItem hs1)

theorem Keeps.groupRerun (h : Keeps s₀ s) {n : ℕ} {g : BitVec 8} : Keeps s₀ (groupRerun n g s) := by
  unfold Machine.groupRerun
  split
  · exact h
  · exact .ite h (.settle (.modInst (.foldl h fun _ _ h1 => .syncSetTo h1)))

theorem Keeps.irqTicksExpiry (h : Keeps s₀ s) {r : RingIx} : Keeps s₀ (irqTicksExpiry r s) := .ite (.ringIrq h) h

end Sys2Proof.Machine
end


section
/-! PROOFS. What every step keeps: every command by the function that it is, and so every step. -/

namespace Sys2Proof.Machine

variable {s₀ s : State}

/-- The next state that a command answers, if it answers one, meets `P`. -/
def NextMeets (P : State → Prop) : Out → Prop
  | .next t => P t
  | .fault _ => True
  | .refused _ => True

/-- Every command keeps what `Keeps` says. -/
theorem Keeps.exec (h : Keeps s₀ s) (i : Instr) : NextMeets (Keeps s₀) (Machine.exec i s) :=
  match i with
  | .nop _ _ => Keeps.nop h
  | .add _ _ => Keeps.opRR h
  | .sub _ _ => Keeps.opRR h
  | .mul _ _ => Keeps.opRR h
  | .mulhu _ _ => Keeps.opRR h
  | .and _ _ => Keeps.opRR h
  | .or _ _ => Keeps.opRR h
  | .xor _ _ => Keeps.opRR h
  | .shl _ _ => Keeps.opRR h
  | .shr _ _ => Keeps.opRR h
  | .sar _ _ => Keeps.opRR h
  | .slt _ _ => Keeps.opRR h
  | .sltu _ _ => Keeps.opRR h
  | .seq _ _ => Keeps.opRR h
  | .min _ _ => Keeps.opRR h
  | .max _ _ => Keeps.opRR h
  | .addi _ _ => Keeps.opRI h
  | .andi _ _ => Keeps.opRI h
  | .ori _ _ => Keeps.opRI h
  | .shli _ _ => Keeps.opRI h
  | .shri _ _ => Keeps.opRI h
  | .li _ _ => Keeps.li h
  | .lih _ _ => Keeps.lih h
  | .sfadd _ _ => Keeps.opSF h
  | .sfsub _ _ => Keeps.opSF h
  | .sfmul _ _ => Keeps.opSF h
  | .sfdiv _ _ => Keeps.opSF h
  | .sfsqrt _ _ => Keeps.opSF h
  | .sf2i _ _ => Keeps.sf2i h
  | .si2f _ _ => Keeps.si2f h
  | .ld _ _ => Keeps.load h
  | .ld32 _ _ => Keeps.load h
  | .st _ _ => Keeps.store h
  | .st32 _ _ => Keeps.store h
  | .sysr _ _ => Keeps.sysr h
  | .pcnt _ _ => Keeps.pcnt h
  | .jmp _ _ => Keeps.branchIf h
  | .jr _ _ => Keeps.jr h
  | .beqz _ _ => Keeps.branchIf h
  | .bnez _ _ => Keeps.branchIf h
  | .bltz _ _ => Keeps.branchIf h
  | .bgez _ _ => Keeps.branchIf h
  | .loop _ _ => Keeps.loopInsn h
  | .wait _ _ => Keeps.waitInsn h
  | .ewait _ _ => Keeps.ewaitInsn h
  | .waitTimeout _ => Keeps.waitTimeout h
  | .signal _ _ => Keeps.signalInsn h
  | .endItem _ _ => Keeps.endInsn h
  | .macc _ _ => Keeps.macc h
  | .tsload _ _ => Keeps.tsload h
  | .tsstore _ _ => Keeps.tsstore h
  | .glz _ _ => Keeps.glz h
  | .chain _ _ => Keeps.chainInsn h
  | .chainru _ _ => Keeps.chainruInsn h
  | .vperm _ _ => Keeps.vperm h
  | .vshuf _ _ => Keeps.vshuf h
  | .vpack _ _ => Keeps.vpack h
  | .vunpack _ _ => Keeps.vunpack h
  | .tld _ _ => Keeps.tldInsn h
  | .tst _ _ => Keeps.tstInsn h
  | .pld _ _ => Keeps.pldInsn h
  | .pst _ _ => Keeps.pstInsn h
  | .red _ _ => Keeps.redInsn h
  | .rowop _ _ => Keeps.rowopInsn h
  | .sift _ _ => Keeps.siftInsn h
  | .nureq _ _ => Keeps.nureqInsn h
  | .xfer _ _ => Keeps.xferInsn h
  | .hld _ _ => Keeps.hldInsn h
  | .hst _ _ => Keeps.hstInsn h
  | .pass _ _ => Keeps.passInsn h
  | .chainPassArrival _ _ => Keeps.chainPassArrival h
  | .pairst _ _ => Keeps.pairstInsn h
  | .statld _ _ => Keeps.statldInsn h
  | .statst _ _ => Keeps.statstInsn h
  | .sconsume _ _ => Keeps.sconsumeInsn h
  | .gather _ _ => Keeps.siftOp h
  | .sum _ _ => Keeps.siftOp h
  | .wsum _ _ => Keeps.siftOp h
  | .mean _ _ => Keeps.siftOp h
  | .rowRead _ _ => Keeps.siftOp h
  | .update _ _ => Keeps.siftOp h
  | .apply _ _ => Keeps.siftOp h
  | .applyWindowTimeout _ _ => Keeps.applyWindowTimeout h
  | .rowWrite _ _ => Keeps.siftOp h
  | .expand _ _ => Keeps.nuOp h
  | .aggregate _ _ => Keeps.nuOp h
  | .walk _ _ => Keeps.nuOp h
  | .vertexRead _ _ => Keeps.nuOp h
  | .vertexWrite _ _ => Keeps.nuOp h
  | .itemStart => Keeps.itemStart h
  | .machineCheck _ _ _ => Keeps.machineCheck h
  | .groupRerun _ _ => Keeps.groupRerun h
  | .irqTicksExpiry _ => Keeps.irqTicksExpiry h
  | .streamGrant _ => Keeps.streamGrant h
  | .streamCrumbDelivered _ _ _ => Keeps.streamCrumbDelivered h
  | .generationStart _ => Keeps.generationStart h
  | .sqTail _ _ => Keeps.atBar h (fun _ h2 => .sqTail h2)
  | .cqHead _ _ => Keeps.atBar h (fun _ h2 => .cqHead h2)
  | .ringEnable _ _ _ => Keeps.atBar h (fun _ h2 => .ringEnable h2)
  | .ringDisable _ _ _ => Keeps.atBar h (fun _ h2 => .ringDisable h2)
  | .descriptorRead _ => Keeps.descriptorRead h
  | .descriptorAccept _ => Keeps.descriptorAccept h
  | .watchdog _ => Keeps.watchdog h
  | .descNop _ _ => Keeps.descNop h
  | .descFence _ _ => Keeps.descFence h
  | .flush _ _ => Keeps.flush h
  | .hostAtomic _ _ => Keeps.hostAtomic h
  | .syncSet _ _ => Keeps.syncSet h
  | .ticks _ _ => Keeps.ticks h
  | .programLoad _ _ => Keeps.programLoad h
  | .launch _ _ => Keeps.launch h
  | .trainStep _ _ => Keeps.trainStep h
  | .serviceBind _ _ => Keeps.serviceBind h
  | .serviceRequest _ _ => Keeps.serviceRequest h
  | .serviceUnbind _ _ => Keeps.serviceUnbind h
  | .itemResume _ _ => Keeps.itemResume h
  | .itemAbort _ _ => Keeps.itemAbort h
  | .streamArm _ _ => Keeps.streamArm h
  | .tableSetup _ _ _ => Keeps.tableSetup h
  | .tableSwitch _ _ => Keeps.tableSwitch h
  | .tableRetire _ _ => Keeps.tableRetire h
  | .tableFree _ _ => Keeps.tableFree h
  | .migrate _ _ => Keeps.migrate h
  | .poolGrant _ _ => Keeps.poolDesc h
  | .poolReclaim _ _ => Keeps.poolDesc h
  | .graphSetup _ _ _ => Keeps.graphSetup h
  | .graphDrain _ _ => Keeps.graphDrain h
  | .sweep _ _ => Keeps.sweep h
  | .graphFree _ _ => Keeps.graphFree h
  | .channelSetup _ _ _ => Keeps.channelSetup h
  | .channelArm _ _ => Keeps.channelArm h
  | .fabricFence _ _ => Keeps.fabricFence h
  | .sweepTimeout _ => Keeps.sweepTimeout h
  | .dataFlit _ _ => Keeps.dataFlit h
  | .idleFlit _ _ => Keeps.idleFlit h
  | .trainFlit _ _ => Keeps.trainFlit h
  | .detect _ => Keeps.detect h
  | .linkPhaseTimeout _ => Keeps.linkPhaseTimeout h
  | .linkReinit _ => Keeps.linkReinit h
  | .ident _ => Keeps.ident h
  | .credit _ => Keeps.credit h
  | .packetTransit _ => Keeps.packetTransit h
  | .prepare _ => Keeps.prepare h
  | .answer _ => Keeps.answer h
  | .commit _ => Keeps.commit h
  | .mapChange _ => Keeps.mapChange h
  | .mapAck _ => Keeps.mapAck h
  | .sweepEnd _ => Keeps.sweepEnd h
  | .mgAck _ => Keeps.mgAck h
  | .siftReq _ => Keeps.siftReq h
  | .nuReq _ => Keeps.nuReq h
  | .updateNode _ => Keeps.updateNode h
  | .updateEnd _ => Keeps.updateEnd h
  | .forward _ => Keeps.forward h
  | .blockCopy _ => Keeps.blockCopy h
  | .result _ => Keeps.result h
  | .status _ => Keeps.status h
  | .grant _ => Keeps.grant h
  | .channelSend _ => Keeps.channelSend h
  | .record _ => Keeps.record h
  | .knead _ => Keeps.knead h
  | .block _ => Keeps.block h
  | .chanAck _ => Keeps.chanAck h
  | .abort _ => Keeps.abort h
  | .channelTimeout _ => Keeps.channelTimeout h
  | .fence _ => Keeps.fence h
  | .fenceAck _ => Keeps.fenceAck h
  | .fabricTimeout _ _ => Keeps.fabricTimeout h
  | .epochVisit _ => Keeps.epochVisit h
  | .epochEnd => Keeps.epochEnd h
  | .moveComplete _ => Keeps.moveComplete h
  | .chunkRelease _ => Keeps.chunkRelease h
  | .patrol _ _ => Keeps.patrol h
  | .crumbCheckFail _ _ => Keeps.crumbCheckFail h
  | .flashReadFail _ _ => Keeps.flashReadFail h
  | .flashWriteComplete _ => Keeps.flashWriteComplete h
  | .streamStoreRunExpire _ _ => Keeps.streamStoreRunExpire h
  | .residue _ _ _ => Keeps.residue h
  | .sramUncorrected _ _ => Keeps.sramUncorrected h
  | .reinitComplete _ _ => Keeps.reinitComplete h
  | .proceed _ _ => Keeps.atBar h (fun _ h2 => .proceed h2)
  | .escalate _ _ => Keeps.atBar h (fun _ h2 => .escalate h2)
  | .abandon _ _ => Keeps.atBar h (fun _ h2 => .abandon h2)
  | .answerTimeout _ => Keeps.answerTimeout h
  | .sensorSample _ => Keeps.sensorSample h
  | .supplyFault _ => Keeps.supplyFault h
  | .bar4Read _ _ _ => Keeps.atBar h (fun _ h2 => .bar4Read h2)
  | .bar4Write _ _ _ => Keeps.atBar h (fun _ h2 => .bar4Write h2)
  | .configRequest _ _ _ => Keeps.atCfg h (fun _ h2 => .configRequest h2)
  | .atsInvalidation _ _ _ _ _ => Keeps.atCfg h (fun _ h2 => .atsInvalidation h2)
  | .translationCompletion _ _ _ _ _ _ => Keeps.atCfg h (fun _ h2 => .translationCompletion h2)
  | .pageRequestResponse _ _ _ _ => Keeps.atCfg h (fun _ h2 => .pageRequestResponse h2)
  | .faultTimeout _ _ => Keeps.faultTimeout h
  | .hostReadCompletion _ _ _ => Keeps.hostReadCompletion h
  | .dlDown _ => Keeps.dlDown h
  | .hotReset _ => Keeps.hotReset h
  | .perstAssert _ => Keeps.perstAssert h
  | .perstDeassert _ => Keeps.perstDeassert h
  | .flrPf _ => Keeps.atCfg h (fun _ h2 => .flrPf h2)
  | .flrVf _ _ => Keeps.atCfg h (fun _ h2 => .flrVf h2)
  | .busMasterEnableClear _ _ => Keeps.atCfg h (fun _ h2 => .busMasterEnableClear h2)
  | .d3hot _ _ => Keeps.atCfg h (fun _ h2 => .d3hot h2)
  | .linkRetrain _ => Keeps.linkRetrain h
  | .msixUnmask _ _ _ => Keeps.atBar h (fun _ h2 => .msixUnmask h2)
  | .setupLockRequest _ => Keeps.atBar h (fun _ h2 => .setupLockRequest h2)
  | .serviceEn _ => Keeps.atBar h (fun _ h2 => .serviceEn h2)
  | .testEn _ _ => Keeps.atBar h (fun _ h2 => .testEn h2)
  | .priReset _ => Keeps.atBar h (fun _ h2 => .priReset h2)
  | .bar4Wbuf _ => Keeps.atBar h (fun _ h2 => .bar4Wbuf h2)
  | .tierHEnable _ => Keeps.atBar h (fun _ h2 => .tierHEnable h2)
  | .alertEn _ _ => Keeps.atBar h (fun _ h2 => .alertEn h2)
  | .tmarkEn _ _ _ _ => Keeps.atBar h (fun _ h2 => .tmarkEn h2)
  | .timeMark _ => Keeps.timeMark h
  | .trigEn _ _ => Keeps.atBar h (fun _ h2 => .trigEn h2)
  | .traceTrigger _ => Keeps.traceTrigger h
  | .modEn _ _ _ => Keeps.atBar h (fun _ h2 => .modEn h2)
  | .errModInterval _ => Keeps.errModInterval h
  | .vfAssign _ _ _ _ => Keeps.atBar h (fun _ h2 => .vfAssign h2)
  | .resetRequest _ => Keeps.atBar h (fun _ h2 => .resetRequest h2)
  | .withdraw _ => Keeps.atBar h (fun _ h2 => .withdraw h2)
  | .resetDeadline => Keeps.resetDeadline h
  | .deviceReset => Keeps.deviceReset h
  | .logPop _ _ => Keeps.atBar h (fun _ h2 => .logPop h2)
  | .splitRead _ _ => Keeps.atBar h (fun _ h2 => .splitRead h2)
  | .streamWindowRead _ _ => Keeps.atBar h (fun _ h2 => .streamWindowRead h2)
  | .registerWrite _ _ _ _ _ => Keeps.atBar h (fun _ h2 => .registerWrite h2)
  | .fwOpen _ => Keeps.atFw h (fun _ h2 => .fwOpen h2)
  | .fwWrite _ _ _ _ => Keeps.atFw h (fun _ h2 => .fwWrite h2)
  | .fwClose _ => Keeps.atFw h (fun _ h2 => .fwClose h2)
  | .fwAbort _ => Keeps.atFw h (fun _ h2 => .fwAbort h2)
  | .fwCommit _ => Keeps.atFw h (fun _ h2 => .fwCommit h2)
  | .mgmtIdent _ => Keeps.mgmtIdent h
  | .bootState _ => Keeps.bootStateCmd h
  | .mgmtTicks _ => Keeps.mgmtTicks h
  | .temps _ _ => Keeps.temps h
  | .power _ => Keeps.power h
  | .haltState _ => Keeps.haltState h
  | .logRecent _ _ => Keeps.logRecent h
  | .alertStatus _ => Keeps.alertStatus h
  | .cables _ _ => Keeps.cables h
  | .resetReq _ _ => Keeps.resetReq h
  | .resetWithdraw _ => Keeps.resetWithdraw h
  | .powerCycle _ _ => Keeps.powerCycle h
  | .powerStatus _ => Keeps.powerStatus h
  | .getVersion _ => Keeps.atDoe h (fun _ h2 => .getVersion h2)
  | .getCapabilities _ => Keeps.atDoe h (fun _ h2 => .getCapabilities h2)
  | .negotiateAlgorithms _ => Keeps.atDoe h (fun _ h2 => .negotiateAlgorithms h2)
  | .getDigests _ => Keeps.atDoe h (fun _ h2 => .getDigests h2)
  | .getCertificate _ _ _ _ => Keeps.atDoe h (fun _ h2 => .getCertificate h2)
  | .challenge _ _ _ => Keeps.atDoe h (fun _ h2 => .challenge h2)
  | .getMeasurements _ _ _ _ => Keeps.atDoe h (fun _ h2 => .getMeasurements h2)
  | .spdmUnsupported _ _ => Keeps.atDoe h (fun _ h2 => .spdmUnsupported h2)
  | .powerOn => Keeps.powerOn h
  | .railFault _ => Keeps.railFault h
  | .powerGood => Keeps.powerGood h
  | .pwrEnLow => Keeps.pwrEnLow h
  | .vinLoss => Keeps.vinLoss h
  | .cprsntChange _ _ _ _ => Keeps.cprsntChange h
  | .verify => Keeps.verify h
  | .clocks _ => Keeps.clocks h
  | .bridges _ => Keeps.bridges h
  | .memories _ => Keeps.memories h
  | .flash _ => Keeps.flash h
  | .links _ => Keeps.links h
  | .release => Keeps.releaseStage h
  | .stageTimeout _ => Keeps.stageTimeout h
  | .flitTransmit _ => Keeps.flitTransmit h
  | .identInterval _ => Keeps.identInterval h
  | .dlUp _ => Keeps.dlUp h
  | .powerCycleOffTime => Keeps.powerCycleOffTime h
  | .standbySupplyUp _ => Keeps.standbySupplyUp h
  | .pllLockLoss _ _ => Keeps.pllLockLoss h
  | .bridgeCrcFail _ _ => Keeps.bridgeCrcFail h
  | .inlineEccError _ _ _ => Keeps.inlineEccError h
  | .alertResponseAddress => Keeps.alertResponseAddress h
  | .dynamicAddressAssignment _ => Keeps.dynamicAddressAssignment h

/-- One step, from the state whose queue lost its front command. -/
theorem Keeps.step {t : State} (hstep : Machine.step s = .next t) : Keeps { s with pending := s.pending.tail } t := by
  unfold Machine.step at hstep
  split at hstep
  · next hp =>
    obtain rfl := Host.Outcome.next.inj hstep
    have hs : Keeps { s with pending := s.pending.tail } s := ⟨id, show s.pending = s.pending.tail by rw [hp]; rfl, .refl _⟩
    exact .ite (.with hs) hs
  · next i r hp =>
    have hexec := Keeps.exec (.refl { s with pending := r }) i
    rw [hstep] at hexec
    rw [hp]
    exact hexec

/-- Settles O4: every function of the model that makes a command keeps the forms (`Keeps`). -/
theorem everyStepKeepsForms : Obligations.EveryStepKeepsForms := by
  intro s t hs hstep
  obtain ⟨inv, -, -⟩ := Keeps.step hstep
  exact inv hs

/-- Settles O5: by the same relation. -/
theorem everyStepKeepsFuses : Obligations.EveryStepKeepsFuses := by
  intro s t hstep
  obtain ⟨-, pending_eq, svn_le, rest_eq⟩ := Keeps.step hstep
  exact ⟨pending_eq, svn_le, rest_eq⟩

end Sys2Proof.Machine
end
